-- ==== Sys2Proof/Word.lean ====
section
/-! DEFINITION. The word types and the one container type of the model: sparse data by key. -/

namespace Sys2Proof

/-- A byte of a memory, a record or a packet. -/
abbrev Byte := BitVec 8

/-- A register: every register of the module is 32 bits wide (R8, notation). -/
abbrev Word := BitVec 32

/-- Sparse data by key: the entries in strictly rising key order, an entry equal to the default left out.
The operations stand in Machine/KMap.lean. -/
abbrev KMap (α : Type) := List (Nat × α)

end Sys2Proof
end

