-- ==== Sys2Proof/Syntax.lean ====
section
/-! DEFINITION. The commands of the block: one constructor for each row of spec/opcode_table.json, with the operands
the spec gives the operation or event. The block has no instruction stream of its own: every operation of a host, every
packet, every pin and every internal event arrives as a command. `t` is the device time of the command in nanoseconds. -/

namespace Sys2Proof

/-- The fields common to every span-program instruction (Table 9.1), with the logical span that issues it, the run's
cycle at which its sequencer presents it (cycles after C_t, R225) and `t`. -/
structure Issue where
  l : Fin 128
  cyc : Nat
  stamp : BitVec 20
  ix : BitVec 2
deriving DecidableEq, Repr

/-- A wait group (R272): WEN, CONS, WCTR and WVAL. -/
structure WaitGroup where
  en : Bool
  cons : Bool
  ctr : BitVec 5
  val : BitVec 20
deriving DecidableEq, Repr

/-- The operands of LOOP (Table 9.4). -/
structure LoopArgs where
  level : BitVec 2
  dyn : Bool
  dctr : BitVec 5
  countM1 : BitVec 12
  period : BitVec 22
  dStride : BitVec 12
  gStride : BitVec 17
  lStride : BitVec 12
  rlog2 : BitVec 5
  jStride : BitVec 8
deriving DecidableEq, Repr

/-- The operands of PRUN, LRUN, TRUN and MKUP (Table 9.5). -/
structure RunArgs where
  abase : BitVec 17
  sstride : BitVec 14
  seq0 : BitVec 12
  nseq : BitVec 13
deriving DecidableEq, Repr

/-- A function of a host port (R380): the physical function, or a virtual function by its number. -/
inductive Fn where
  | pf
  | vf (n : BitVec 8)
deriving DecidableEq, Repr

/-- Who accesses a register (R13, R380, R612): a function of a host port, or the sideband. -/
inductive Requester where
  | pf (port : Fin 4)
  | vf (port : Fin 4) (n : BitVec 8)
  | sideband
deriving DecidableEq, Repr

/-- A command record as it reaches a lane (R384, R386): the port and function that wrote it, the lane written, the
reserved byte 1, CREDITS, HANDLE, and bytes 8 to 63 as one little-endian number. The opcode is the constructor's. -/
structure CmdRec where
  port : Fin 4
  fn : Fn
  lane : BitVec 13
  rsvd : BitVec 8
  credits : BitVec 16
  handle : BitVec 32
  body : BitVec 448
deriving DecidableEq, Repr

/-- Bits of device memory that read wrong from now on (R353): codewords by device offset ÷ 32, each with pins of its lane group and
the bits that differ in the symbol of the pin. -/
abbrev MemErrs := List (Nat × List (Fin 19 × BitVec 16))

/-- How the deck-store accesses of an instruction or of a granule came back (R337, R339): the granules that the code corrected,
the feeder reads among them that the cells waited 4 cycles for, the granules delivered as poison, and the cycles that a client
waited for a shared port. -/
structure DeckUse where
  corrected : Nat
  late : Nat
  poisoned : Nat
  waited : Nat
deriving DecidableEq, Repr

/-- Every access granted when asked, and every granule clean. -/
def DeckUse.clean : DeckUse := { corrected := 0, late := 0, poisoned := 0, waited := 0 }

/-- The result of the trestle unit's checks of R201. -/
inductive TrsCheck where
  | ok
  | residue
  | bch
deriving DecidableEq, Repr

/-- Where a re-fetched tile set came from (R504): the mirror, a peer module, or the installing host. -/
inductive RefetchSource where
  | mirror
  | peer (n : Fin 4)
  | host
deriving DecidableEq, Repr

/-- A packet as a Cefin port receives it (Table 14.1), its TYPE and LEN given by the constructor and the payload. -/
structure Pkt where
  port : Fin 8
  vc : BitVec 2
  lseq : BitVec 12
  dst : BitVec 14
  src : BitVec 14
  ttl : BitVec 6
  arg : BitVec 64
  payload : List (BitVec 256)
  fec : Nat := 0                       -- FEC codewords that were corrected while it came in (Table 14.13)
deriving DecidableEq, Repr

/-- A training frame (Table 14.16), with the CHECK field as it was received. -/
structure TrainFrame where
  lane : BitVec 8
  count : BitVec 16
  control : BitVec 16
  status : BitVec 16
  check : BitVec 16
deriving DecidableEq, Repr

/-- A sideband request (R614, Table 20.16): FLAGS, TAG, LEN and the payload; COMMAND is the constructor's. -/
structure SbMsg where
  flags : Byte
  tag : Byte
  len : BitVec 16
  payload : List Byte
deriving DecidableEq, Repr

/-- How a host port enters reset other than by its PERST pin (R407). -/
inductive PortResetCause where
  | hotReset
  | linkLoss
  | pfFlr
deriving DecidableEq, Repr

/-- What the one streaming pass over a weight pack found (R446, R590): the SHA-384 digest of every byte before the
signature block, the block, the model's vocabulary byte table and pool (R214), and the number of layers. -/
structure PackRead where
  digest : BitVec 384
  block : List Byte
  vocab : List (BitVec 32)
  pool : List Byte
  layers : Nat
deriving DecidableEq, Repr

/-- The commands of the block, one constructor for each row of spec/opcode_table.json. -/
inductive Instr where
  -- Commands of a host through a lane (R389 to R398) and its other writes.
  | submit (t : Nat) (r : CmdRec)
  | cancel (t : Nat) (r : CmdRec)
  | credit (t : Nat) (r : CmdRec)
  | query (t : Nat) (r : CmdRec)
  | logSetup (t : Nat) (r : CmdRec)
  | jobStart (t : Nat) (r : CmdRec) (digest : BitVec 384) (params : BitVec 2048)
  | jobCtrlEnd (t : Nat) (r : CmdRec)
  | jobCtrlPreempt (t : Nat) (r : CmdRec)
  | jobCtrlResume (t : Nat) (r : CmdRec)
  | variantInstall (t : Nat) (r : CmdRec)
  | variantRemove (t : Nat) (r : CmdRec)
  | handover (t : Nat) (r : CmdRec)
  | handin (t : Nat) (r : CmdRec)
  | landingOpen (t : Nat) (r : CmdRec)
  | landingClose (t : Nat) (r : CmdRec)
  | reservedOpcodeRecord (t : Nat) (opcode : BitVec 8) (r : CmdRec)
  | partialLaneWrite (t : Nat) (port : Fin 4) (fn : Fn) (offset len : Nat)
  | bar4Access (t : Nat) (port : Fin 4) (fn : Fn) (offset : Nat) (write : Bool) (data : List Byte) (errs : MemErrs)
  | pageOwnerWrite (t : Nat) (who : Requester) (port : Fin 4) (page : Fin 128) (value : Word)
  | registerWrite (t : Nat) (who : Requester) (offset : BitVec 24) (value : Word)
  -- Internal completions of host commands.
  | fetchDone (t : Nat) (handle : BitVec 32) (prompt : Option (List Word)) (ext : Option (List Byte))
  | variantFetchDone (t : Nat) (handle : BitVec 32) (records : Option (List Byte))
  | deadlineScan (t : Nat)
  | handinExpired (t : Nat) (handle : BitVec 32)
  | msixWindowEnd (t : Nat) (port : Fin 4) (partition : BitVec 8)
  -- The step tick (chapter 08).
  | admissionCut (t : Nat)
  | spanJointArrival (l : Fin 128) (cyc : Nat)
  | jointRelease (t : Nat)
  | keystoneSeal (t : Nat) (publishEnd : Nat)
  | replayStart (t : Nat)
  | remoteWaitTimeout (t : Nat)
  | hungTimeout (t : Nat) (l : Fin 128)
  | landingExpiry (t : Nat) (id : Nat)
  -- Span-program instructions (Table 9.3).
  | nop (i : Issue)
  | endProgram (i : Issue)
  | base (i : Issue) (add : Word)
  | loop (i : Issue) (a : LoopArgs)
  | endl (i : Issue) (level : BitVec 2)
  | joint (i : Issue) (phase : Bool) (j : BitVec 16)
  | wait (i : Issue) (w : WaitGroup) (kind : BitVec 3) (remote : Bool)
  | cset (i : Issue) (ctr : BitVec 5) (value : BitVec 20)
  | blist (i : Issue) (w : WaitGroup) (lbase : BitVec 17) (count : BitVec 13) (fromCtr : Bool) (deck : DeckUse)
  | recv (i : Issue) (win : BitVec 2) (base : BitVec 17) (len : BitVec 17) (remote : Bool)
  | tmark (i : Issue) (mark : BitVec 16)
  | layer (i : Issue) (desc : BitVec 12)
  | tload (i : Issue) (w : WaitGroup) (src : BitVec 17) (tset : BitVec 15) (fen : Bool) (fctr : BitVec 5)
      (deck : DeckUse)
  | prun (i : Issue) (w : WaitGroup) (a : RunArgs) (deck : DeckUse)
  | lrun (i : Issue) (w : WaitGroup) (a : RunArgs) (deck : DeckUse)
  | trun (i : Issue) (w : WaitGroup) (a : RunArgs) (deck : DeckUse)
  | pgate (i : Issue) (w : WaitGroup)
  | mkup (i : Issue) (w : WaitGroup) (a : RunArgs) (deck : DeckUse)
  | azero (i : Issue) (line0 : BitVec 12) (nlines : BitVec 13)
  | conv (i : Issue) (w : WaitGroup) (line0 : BitVec 12) (nlines : BitVec 13) (dst : BitVec 17) (dspan : BitVec 8)
      (rctr : BitVec 5) (seq0 : BitVec 12) (deck : DeckUse)
  | kvapp (i : Issue) (w : WaitGroup) (line0 : BitVec 12) (nlines : BitVec 13) (seq0 : BitVec 12) (nspan : BitVec 8)
      (nctr : BitVec 5) (deck : DeckUse)
  | tblld (i : Issue) (slot : BitVec 3) (src : BitVec 17) (deck : DeckUse)
  | attn (i : Issue) (w : WaitGroup) (lbase : BitVec 17) (nlist : BitVec 13) (kring : BitVec 17) (krlog2 : BitVec 5)
      (kctr : BitVec 5) (line0 : BitVec 12) (deck : DeckUse)
  | amul (i : Issue) (w : WaitGroup) (abase bbase : BitVec 17) (line0 : BitVec 12) (nlines : BitVec 13) (deck : DeckUse)
  | arot (i : Issue) (w : WaitGroup) (src pbase : BitVec 17) (nvec : BitVec 13) (line0 : BitVec 12) (deck : DeckUse)
  | arank (i : Issue) (w : WaitGroup) (line0 : BitVec 12) (nseq : BitVec 13) (dst : BitVec 17) (rctr : BitVec 5)
  | asamp (i : Issue) (w : WaitGroup) (line0 : BitVec 12) (nseq : BitVec 13) (dst : BitVec 17)
  | mload (i : Issue) (raw : Bool) (desc : BitVec 12) (off : BitVec 20) (addr : Word) (len : BitVec 20)
      (dst : BitVec 17) (rlog2 sctr fctr : BitVec 5) (fen : Bool)
  | mstore (i : Issue) (addr : Word) (len : BitVec 20) (src : BitVec 17) (sctr : BitVec 5) (deck : DeckUse)
  | kvrd (i : Issue) (w : WaitGroup) (lbase : BitVec 17) (nlist : BitVec 13) (dst : BitVec 17)
      (rlog2 sctr fctr : BitVec 5) (fen : Bool) (deck : DeckUse)
  | fill (i : Issue) (dst len : BitVec 17) (pattern : Word) (sctr : BitVec 5)
  | copy (i : Issue) (src dst len : BitVec 17) (sctr : BitVec 5)
  | gath (i : Issue) (w : WaitGroup) (sspan : BitVec 8) (src : BitVec 17) (sstride : BitVec 12) (elen : BitVec 10)
      (dst : BitVec 17) (sctr : BitVec 5)
  | scat (i : Issue) (w : WaitGroup) (src : BitVec 17) (ngran : BitVec 13) (rbase : BitVec 17)
  | send (i : Issue) (w : WaitGroup) (src len : BitVec 17) (dspan : BitVec 8) (dst : BitVec 17) (rctr sctr : BitVec 5)
  -- Events of a span.
  | tloadDone (l : Fin 128) (cyc : Nat)
  | streamGranuleLanded (l : Fin 128) (cyc : Nat) (slot : Fin 8) (idx : Nat) (errs : MemErrs)
      (deck : DeckUse) (badRouter : Option (Fin 132))
  | streamAck (l : Fin 128) (cyc : Nat) (slot : Fin 8) (n : Nat)
  | kvappAck (l : Fin 128) (cyc : Nat) (errs : MemErrs)
  | additionLanded (l : Fin 128) (cyc : Nat)
  | contextLoad (l : Fin 128) (cyc : Nat)
  | scatterEntryApply (l : Fin 128) (cyc : Nat) (bank : Fin 16)
  -- The trestle unit.
  | trestleRecord (t : Nat) (check : TrsCheck)
  | retest (t : Nat) (who : Requester)
  | trestleRetestDone (t : Nat) (pass : Bool)
  -- Jobs, loads, the hot set.
  | bitstreamCopied (t : Nat) (job : BitVec 16) (bytes : Option (List Byte))
  | loadWrite (t : Nat)
  | scrubDone (t : Nat)
  | idleEnd (t : Nat) (job : BitVec 16)
  | extentSealed (t : Nat) (job : BitVec 16) (source : Option (List Byte))
  | tuneStep (t : Nat) (job : BitVec 16) (groupGrads steerGrads : List (List Int))
  | hotPin (t : Nat) (who : Requester) (entry : Fin 64)
  | hotUnpin (t : Nat) (who : Requester) (entry : Fin 64)
  | hotRemove (t : Nat) (who : Requester) (entry : Fin 64)
  -- The stacks and deck stores (chapter 11).
  | pinErase (t : Nat) (stack : Fin 32) (lg : Fin 32) (pin : Fin 19)
  | spareSteer (t : Nat) (stack : Fin 32) (lg : Fin 32) (pin : Fin 19) (retrained : Bool)
  | rowRepair (t : Nat) (stack : Fin 32) (bank row : Nat) (granules : List Nat)
  | hardRepair (t : Nat) (stack : Fin 32) (ok : Bool)
  | memScrub (t : Nat) (stack : Fin 32) (errs : MemErrs)
  | deckPatrolScrub (p : Fin 132) (t : Nat) (row : Fin 64) (corrected uncorrectable : List Nat)
  | throttleSample (t : Nat) (stack : Fin 32) (temp : Nat)
  | spareCtrlErase (t : Nat) (who : Requester) (value : Word)
  | spareCtrlSteer (t : Nat) (who : Requester) (value : Word)
  | spareCtrlHardSteer (t : Nat) (who : Requester) (value : Word)
  | spareCtrlClearErasure (t : Nat) (who : Requester) (value : Word)
  | spareCtrlHardRows (t : Nat) (who : Requester) (value : Word)
  -- Faults (chapter 15).
  | strikeLapse (t : Nat) (p : Fin 132)
  | spanRetest (t : Nat) (who : Requester) (p : Fin 132)
  | spanFence (t : Nat) (who : Requester) (p : Fin 132)
  | spanTestDone (t : Nat) (p : Fin 132) (pass : Bool)
  | refetchDone (t : Nat) (granule : Nat) (source : RefetchSource) (bytes : List Byte) (errs : MemErrs)
  | chipFault (t : Nat) (cause : BitVec 8)
  -- Cefin links and the viaduct (chapter 14).
  | linkTrained (t : Nat) (port : Fin 8) (lanesOk : BitVec 4)
  | trainingFrame (t : Nat) (port : Fin 8) (lane : Fin 4) (f : TrainFrame)
  | trainRetry (t : Nat) (port : Fin 8)
  | linkDown (t : Nat) (port : Fin 8)
  | lctl (t : Nat) (p : Pkt)
  | hello (t : Nat) (p : Pkt)
  | write (t : Nat) (p : Pkt)
  | wack (t : Nat) (p : Pkt)
  | read (t : Nat) (p : Pkt)
  | rdata (t : Nat) (p : Pkt)
  | offer (t : Nat) (p : Pkt)
  | offerAns (t : Nat) (p : Pkt)
  | hoCommit (t : Nat) (p : Pkt)
  | hoAck (t : Nat) (p : Pkt)
  | digest (t : Nat) (p : Pkt)
  | extReq (t : Nat) (p : Pkt)
  | extAns (t : Nat) (p : Pkt)
  | probe (t : Nat) (p : Pkt)
  | probeAns (t : Nat) (p : Pkt)
  | claim (t : Nat) (p : Pkt)
  | badPacket (t : Nat) (type : BitVec 8) (p : Pkt)
  | packetCrcFail (t : Nat) (port : Fin 8) (lseq : BitVec 12) (fec : Bool)
  | packetForward (t : Nat) (type : BitVec 8) (p : Pkt)
  | chipAssign (t : Nat) (who : Requester) (value : Word)
  | probeCheckDone (t : Nat)
  | pullStart (t : Nat) (entry : Fin 256)
  | swingClose (t : Nat)
  | swingOpen (t : Nat)
  | tickSyncPulse (t : Nat)
  | tickSyncMiss (t : Nat)
  | refLost (t : Nat)
  | refReturn (t : Nat)
  | spareTake (t : Nat) (who : Requester) (value : Word)
  | spareRelease (t : Nat) (who : Requester) (value : Word)
  | takeoverWatch (t : Nat)
  | takeoverDone (t : Nat)
  | lockEnable (t : Nat) (who : Requester) (value : Word)
  -- Observation (chapter 17).
  | obsClose (t : Nat) (who : Requester) (value : Word)
  | obsSample (t : Nat) (who : Requester) (value : Word)
  | pctrClose (t : Nat) (port : Fin 4) (vf : BitVec 8) (value : Word)
  | pctrSample (t : Nat) (port : Fin 4) (vf : BitVec 8) (value : Word)
  | traceArm (t : Nat) (who : Requester) (l : Fin 128) (value : Word)
  | triggerFire (t : Nat) (who : Requester) (value : Word)
  | triggerPoint (t : Nat)
  | traceDrain (t : Nat) (n : Nat)
  | snapshotTake (t : Nat) (who : Requester) (value : Word)
  | snapshotWritten (t : Nat)
  -- The root of trust (chapter 19).
  | secQuote (t : Nat) (who : Requester) (value : Word)
  | secReseal (t : Nat) (who : Requester) (value : Word)
  | secRaiseMinSvn (t : Nat) (who : Requester) (value : Word)
  | secRevokeRoot (t : Nat) (who : Requester) (value : Word)
  | secCertificates (t : Nat) (who : Requester) (value : Word)
  | secEnrol (t : Nat) (who : Requester) (value : Word) (record : Option (List Byte))
  | secRemoveKey (t : Nat) (who : Requester) (value : Word)
  | debugRead (t : Nat) (who : Requester) (value : Word)
  -- The sideband (chapter 20).
  | sbRead (t : Nat) (m : SbMsg)
  | sbWrite (t : Nat) (m : SbMsg)
  | sbReset (t : Nat) (m : SbMsg)
  | sbFaultLog (t : Nat) (m : SbMsg)
  | sbSnapshot (t : Nat) (m : SbMsg)
  | sbFirmware (t : Nat) (m : SbMsg)
  | sbQuote (t : Nat) (m : SbMsg)
  | sbUnseal (t : Nat) (m : SbMsg)
  | sbStreamAbandon (t : Nat)
  | firmwareWriteDone (t : Nat)
  -- Power, resets and the start (chapters 18 and 20).
  | standbyUp (t : Nat)
  | standbyLoss (t : Nat)
  | pwrEnChange (t : Nat) (high : Bool)
  | mainPowerGood (t : Nat) (cool portMode : BitVec 2)
  | mainPowerLoss (t : Nat)
  | perst (t : Nat) (port : Fin 4) (low : Bool)
  | portReset (t : Nat) (port : Fin 4) (cause : PortResetCause)
  | vfFlr (t : Nat) (port : Fin 4) (vf : BitVec 8)
  | warmResetRequest (t : Nat) (who : Requester) (value : Word)
  | coldResetRequest (t : Nat) (who : Requester) (value : Word)
  | resetTakesEffect (t : Nat)
  | pierBoot (t : Nat)
  | memTrainDone (t : Nat) (failed : BitVec 32) (temps : List Byte)
  | selftestDone (t : Nat) (routersOk : Bool) (spansFailed : BitVec 132) (trestlePass : Bool)
  | hostEnable (t : Nat)
  | brakeApply (t : Nat)
  | brakeRelease (t : Nat)
  | dieTempSample (t : Nat) (temps : List Byte)
  | forcedClockStep (t : Nat)
  | memRateCapAdjust (t : Nat) (watts : BitVec 16)
  | powerInputSample (t : Nat) (mainW : BitVec 16) (mainV stbyW : Byte)
  -- Further internal completions.
  | ingestPackVerified (t : Nat) (job : BitVec 16) (pack : Option PackRead)
  | handoverConfirmExpiry (t : Nat) (handle : BitVec 32)
  | pcieLinkUp (t : Nat) (port : Fin 4)
  | registerReadDenied (t : Nat) (who : Requester) (offset : BitVec 24)
  | correctionWindowEnd (t : Nat) (stack : Fin 32)
deriving DecidableEq, Repr

end Sys2Proof
end

