-- ==== Sys2Proof/Decode.lean ====
section
/-! DEFINITION. The command that a table word spells. The rows of the opcode table are operations and events of a block
and carry no bits, so no word spells a command. -/

namespace Sys2Proof

/-- No row of the table gives bits: none, for every word. -/
def decodeTableWord (_nbits _w : Nat) : Option Instr := none

end Sys2Proof
end

