-- ==== Sys2Proof/Machine/Formats.lean ====
section
/-! DEFINITION. Number and weight formats of chapter 02: byte and bit helpers, the five packed weight formats
(R34 to R48), the segment layout of narrow activations (R49 to R55), the LNS16 and LNS8 fields (R57, R59). -/

namespace Sys2Proof.Machine
open Sys2Proof

/-! ### Byte and bit helpers -/

/-- The number that a little-endian byte string spells (notation of chapter 00). -/
def bytesToNat : List Byte → Nat
  | [] => 0
  | b :: r => b.toNat + 256 * bytesToNat r

/-- The `n` little-endian bytes of a number. -/
def natToBytes : Nat → Nat → List Byte
  | 0, _ => []
  | n + 1, x => BitVec.ofNat 8 x :: natToBytes n (x / 256)

/-- Field [lo + w − 1 : lo] of a number. -/
def bitsAt (x lo w : Nat) : Nat := (x >>> lo) % 2 ^ w

/-- Bit `i` of a number. -/
def bitAt (x i : Nat) : Bool := x.testBit i

/-- A `w`-bit field read as two's complement. -/
def signedField (w x : Nat) : Int := if x % 2 ^ w < 2 ^ (w - 1) then ((x % 2 ^ w : Nat) : Int) else ((x % 2 ^ w : Nat) : Int) - 2 ^ w

/-- The `n` bytes from byte `off` of a byte string, zeros past its end. -/
def byteSlice (bs : List Byte) (off n : Nat) : List Byte :=
  let s := (bs.drop off).take n
  s ++ List.replicate (n - s.length) 0#8

/-- The little-endian number in bytes `off` to `off + n − 1`. -/
def leAt (bs : List Byte) (off n : Nat) : Nat := bytesToNat (byteSlice bs off n)

/-- The number of set bits. -/
def popc {n : Nat} (x : BitVec n) : Nat := (List.range n).foldl (fun c i => if x.getLsbD i then c + 1 else c) 0

/-- The bit vector whose bit `i` is `p i`. -/
def bitsOf (n : Nat) (p : Nat → Bool) : BitVec n :=
  BitVec.ofNat n ((List.range n).foldr (fun i acc => (if p i then 1 else 0) + 2 * (acc : Nat)) 0)

/-- A list cut into pieces of `n`; `fuel` bounds the number of pieces. -/
def chunks {α : Type} (n : Nat) : Nat → List α → List (List α)
  | 0, _ => []
  | fuel + 1, l => if l.isEmpty then [] else l.take n :: chunks n fuel (l.drop n)

/-- Ceiling of the base-two logarithm (0 for 0 and 1). -/
def clog2 (n : Nat) : Nat := if n ≤ 1 then 0 else Nat.log2 (n - 1) + 1

/-- Division rounded up. -/
def cdiv (a b : Nat) : Nat := (a + b - 1) / b

/-! ### Saturating additions (R60, R61) -/

/-- A sum clamped to the two's-complement range of `w` bits, and whether it was clamped. -/
def satTo (w : Nat) (x : Int) : Int × Bool :=
  if x > 2 ^ (w - 1) - 1 then (2 ^ (w - 1) - 1, true)
  else if x < -(2 ^ (w - 1)) then (-(2 ^ (w - 1)), true)
  else (x, false)

/-- One addition into a 32-bit cell accumulator (R60). -/
def satAdd32 (a : BitVec 32) (t : Int) : BitVec 32 × Bool :=
  let r := satTo 32 (a.toInt + t)
  (BitVec.ofInt 32 r.1, r.2)

/-! ### Weight formats (Table 2.1) -/

/-- The weight-format codes WFMT of Table 2.1 (R34). -/
inductive WFmt where
  | pack5
  | sk4
  | sk8
  | pat7
  | zrl
deriving DecidableEq, Repr

/-- WFMT from its code; codes 0x5 to 0xF are reserved (R34). -/
def wfmtOf : Nat → Option WFmt
  | 0 => some .pack5
  | 1 => some .sk4
  | 2 => some .sk8
  | 3 => some .pat7
  | 4 => some .zrl
  | _ => none

/-- The code of a weight format. -/
def wfmtCode : WFmt → Nat
  | .pack5 => 0
  | .sk4 => 1
  | .sk8 => 2
  | .pat7 => 3
  | .zrl => 4

/-- Bytes of one stored tile of a fixed-size format (Table 2.1); ZRL has none. -/
def wfmtTileBytes : WFmt → Nat
  | .pack5 => 820
  | .sk4 => 640
  | .sk8 => 768
  | .pat7 => 896
  | .zrl => 0

/-- K of a K-of-16 format; 16 for the dense ones, so that the gather factor is 16 / K (R69). -/
def wfmtK : WFmt → Nat
  | .sk4 => 4
  | .sk8 => 8
  | _ => 16

/-- The gather factor G = 16 / K of R69. -/
def wfmtGather (f : WFmt) : Nat := 16 / wfmtK f

/-- A tile of 16 rows by 256 inputs in cell form (R35): row r's positive and negative masks. -/
structure TileMask where
  pos : List (BitVec 256)
  neg : List (BitVec 256)
deriving DecidableEq, Repr

/-- The tile of all zero trits. -/
def TileMask.zero : TileMask := { pos := List.replicate 16 0#256, neg := List.replicate 16 0#256 }

/-- The cell form of 4,096 trits in tile order (R35): trit n is row n div 256, input n mod 256. -/
def tileOfTrits (ts : List Int) : TileMask :=
  let rows := chunks 256 16 (ts ++ List.replicate (4096 - ts.length) 0)
  { pos := rows.map (fun r => bitsOf 256 (fun j => decide (r.getD j 0 = 1)))
    neg := rows.map (fun r => bitsOf 256 (fun j => decide (r.getD j 0 = -1))) }

/-- The trit at row `r`, input `j`. -/
def TileMask.trit (t : TileMask) (r j : Nat) : Int :=
  if (t.pos.getD r 0#256).getLsbD j then 1 else if (t.neg.getD r 0#256).getLsbD j then -1 else 0

/-- The counts one decoded tile adds: SPN_PACK5_INVALID, SPN_MASK_DROP, SPN_PAT7_INVALID, SPN_ZRL_BAD. -/
structure TileCounts where
  pack5 : Nat := 0
  drop : Nat := 0
  pat7 : Nat := 0
  zrl : Nat := 0
deriving DecidableEq, Repr

/-- Sum of two tiles' counts. -/
def TileCounts.add (a b : TileCounts) : TileCounts :=
  { pack5 := a.pack5 + b.pack5, drop := a.drop + b.drop, pat7 := a.pat7 + b.pat7, zrl := a.zrl + b.zrl }

/-- The five trits of a PACK5 byte (R38, R39), and 1 when the byte is invalid. -/
def decodePack5 (b : Byte) : List Int × Nat :=
  let n := b.toNat
  if n ≥ 243 then ([0, 0, 0, 0, 0], 1)
  else ([(n % 3 : Nat) - 1, (n / 3 % 3 : Nat) - 1, (n / 9 % 3 : Nat) - 1, (n / 27 % 3 : Nat) - 1, (n / 81 % 3 : Nat) - 1], 0)

/-- 820 PACK5 bytes as a tile (R38): byte 819 holds trit 4,095 and four padding positions. -/
def decodePack5Tile (bs : List Byte) : TileMask × TileCounts :=
  let ds := (byteSlice bs 0 820).map decodePack5
  (tileOfTrits ((ds.flatMap (·.1)).take 4096), { pack5 := (ds.map (·.2)).sum })

/-- One K-of-16 group (R40, R41): the 16 trits, and the mask bits dropped beyond K. -/
def decodeSkGroup (k v : Nat) : List Int × Nat :=
  let st := (List.range 16).foldl (fun (st : List Int × Nat × Nat) i =>
    if v.testBit i then
      if st.2.1 < k then
        (st.1 ++ [if v.testBit (16 + st.2.1) then -1 else 1], st.2.1 + 1, st.2.2)
      else (st.1 ++ [0], st.2.1, st.2.2 + 1)
    else (st.1 ++ [0], st.2.1, st.2.2)) ([], 0, 0)
  (st.1, st.2.2)

/-- A K-of-16 tile (R40): rows of 16 groups of 16 + K bits, 40 bytes a row in SK4 and 48 in SK8. -/
def decodeSkTile (k : Nat) (bs : List Byte) : TileMask × TileCounts :=
  let rowBytes := 2 * (16 + k)
  let gs := (List.range 16).flatMap (fun r =>
    let v := leAt bs (rowBytes * r) rowBytes
    (List.range 16).map (fun g => decodeSkGroup k (bitsAt v ((16 + k) * g) (16 + k))))
  (tileOfTrits (gs.flatMap (·.1)), { drop := (gs.map (·.2)).sum })

/-- The four trits whose balanced-ternary value is `v`, from −40 to 40 (R42). -/
def tritsOfValue (v : Int) : List Int :=
  let u := (v + 40).toNat
  [(u % 3 : Nat) - 1, (u / 3 % 3 : Nat) - 1, (u / 9 % 3 : Nat) - 1, (u / 27 % 3 : Nat) - 1]

/-- A 7-bit PAT7 field (R42, R43): its four trits, and 1 when its code is from 41 to 63. -/
def decodePat7 (f : Nat) : List Int × Nat :=
  let c := f % 64
  if c > 40 then ([0, 0, 0, 0], 1)
  else (tritsOfValue (if f.testBit 6 then -(c : Int) else c), 0)

/-- A PAT7 tile (R42): 64 fields a row, 56 bytes a row. -/
def decodePat7Tile (bs : List Byte) : TileMask × TileCounts :=
  let fs := (List.range 16).flatMap (fun r =>
    let v := leAt bs (56 * r) 56
    (List.range 64).map (fun g => decodePat7 (bitsAt v (7 * g) 7)))
  (tileOfTrits (fs.flatMap (·.1)), { pat7 := (fs.map (·.2)).sum })

/-- The tokens of a ZRL RUN body (R45): the placed trits as (position, sign), or none when a token places a
trit beyond position 4,095; with the bits used. `fuel` counts the NONZERO tokens left. -/
def zrlTokens (body : Nat) : Nat → Nat → Nat → Option (List (Nat × Bool) × Nat)
  | 0, bit, _ => some ([], bit)
  | fuel + 1, bit, pos =>
    let r := bitsAt body bit 4
    let run := if r = 15 then bitsAt body (bit + 4) 12 else r
    let sbit := if r = 15 then bit + 16 else bit + 4
    let p := pos + run
    if p > 4095 then none
    else match zrlTokens body fuel (sbit + 1) (p + 1) with
      | none => none
      | some (l, used) => some ((p, body.testBit sbit) :: l, used)

/-- A ZRL block whose index entries span `extent` units of 4 bytes (R44 to R46); `none` extent: entry n + 1 is
below entry n (R47). A bad block reads as zeros and counts once. -/
def decodeZrlBlock (bs : List Byte) (extent : Option Nat) : TileMask × TileCounts :=
  let h := leAt bs 0 4
  let mode := bitsAt h 30 2
  let nz := bitsAt h 16 13
  let len := bitsAt h 0 16
  let bad : TileMask × TileCounts := (TileMask.zero, { zrl := 1 })
  if extent ≠ some (cdiv (4 + len) 4) then bad
  else match mode with
    | 0 =>
      match zrlTokens (leAt bs 4 len) nz 0 0 with
      | none => bad
      | some (l, used) =>
        if cdiv used 8 ≠ len then bad
        else
          let at' (r : Nat) (neg : Bool) : BitVec 256 := bitsOf 256 (fun j => l.contains (256 * r + j, neg))
          ({ pos := (List.range 16).map (at' · false), neg := (List.range 16).map (at' · true) }, {})
    | 1 => if len ≠ 820 then bad else decodePack5Tile (bs.drop 4)
    | 2 => if nz ≠ 0 ∨ len ≠ 0 then bad else (TileMask.zero, {})
    | _ => bad

/-- One stored tile of a fixed-size format (R35). ZRL blocks go through `decodeZrlBlock`. -/
def decodeTile (f : WFmt) (bs : List Byte) : TileMask × TileCounts :=
  match f with
  | .pack5 => decodePack5Tile bs
  | .sk4 => decodeSkTile 4 bs
  | .sk8 => decodeSkTile 8 bs
  | .pat7 => decodePat7Tile bs
  | .zrl => (TileMask.zero, {})

/-- A P2S plane entry (R48). -/
structure PlaneEntry where
  wfmt : WFmt
  shift : Nat
  psign : Bool
deriving DecidableEq, Repr

/-- A P2S plane entry word (R48); none when its WFMT is reserved. -/
def planeEntryOf (w : Nat) : Option PlaneEntry :=
  (wfmtOf (bitsAt w 0 4)).map (fun f => { wfmt := f, shift := bitsAt w 4 4, psign := bitAt w 8 })

/-! ### Narrow activations (R49 to R55) -/

/-- A segment of 256 values: its scale granule and its plane granules (R51, R52). -/
structure Segment where
  scale : BitVec 256
  planes : List (BitVec 256)
deriving DecidableEq, Repr

/-- SCALE_k of a scale granule, as L = 16E + f (R50, R51). -/
def segScaleL (g : BitVec 256) (k : Nat) : Int := signedField 12 (bitsAt g.toNat (16 * k) 12)

/-- E of block k: the exponent of its LNS12S scale (R50). -/
def segE (g : BitVec 256) (k : Nat) : Int := signedField 8 (bitsAt g.toNat (16 * k + 4) 8)

/-- f of block k: the fraction of its LNS12S scale (R50). -/
def segF (g : BitVec 256) (k : Nat) : Nat := bitsAt g.toNat (16 * k) 4

/-- WB of block k (R51). -/
def segWB (g : BitVec 256) (k : Nat) : Nat := bitsAt g.toNat (16 * k + 12) 3 + 1

/-- VEC_E of a scale granule (R51). -/
def segVecE (g : BitVec 256) : Int := signedField 8 (bitsAt g.toNat 128 8)

/-- W of a segment (R51). -/
def segW (g : BitVec 256) : Nat := bitsAt g.toNat 136 3 + 1

/-- ZF bit b (R51). -/
def segZF (g : BitVec 256) (b : Nat) : Bool := bitAt g.toNat (139 + b)

/-- A scale granule from its fields (R51). -/
def mkScaleGranule (scales : List Int) (wb : List Nat) (vecE : Int) (w : Nat) (zf : Nat) : BitVec 256 :=
  let blocks := ((List.range 8).map (fun k =>
    ((scales.getD k 0 % 4096).toNat + ((wb.getD k 1 - 1) % 8) * 4096) * 2 ^ (16 * k))).sum
  BitVec.ofNat 256 (blocks + (vecE % 256).toNat * 2 ^ 128 + ((w - 1) % 8) * 2 ^ 136 + (zf % 256) * 2 ^ 139)

/-- Plane b of a segment as the cells take it: a plane whose ZF bit is 1 is all zero, whatever it holds (R53). -/
def segPlane (s : Segment) (b : Nat) : BitVec 256 :=
  if segZF s.scale b then 0#256 else s.planes.getD b 0#256

/-- The code of value i of block k, read from the segment's planes (R49, R52). -/
def segCode (s : Segment) (k i : Nat) : Int :=
  let w := segW s.scale
  let bit (b : Nat) : Nat := if (segPlane s b).getLsbD (32 * k + i) then 1 else 0
  if w = 1 then (if bit 0 = 1 then -1 else 1)
  else signedField w ((List.range w).foldr (fun b acc => bit b + 2 * (acc : Nat)) 0)

/-- The block shift D_k against the reference VEC_E, clamped into 0 to 7 (R55). -/
def blockShift (vecE : Int) (g : BitVec 256) (k : Nat) : Nat :=
  let d := segE g k - vecE
  if d < 0 then 0 else if d > 7 then 7 else d.toNat

/-- Whether block k breaks the alignment of R54 against the reference (R55). -/
def blockMisaligned (vecE : Int) (f0 : Nat) (g : BitVec 256) (k : Nat) : Bool :=
  let d := segE g k - vecE
  decide (d < 0) || decide (d > 7) || decide (segF g k ≠ f0)

/-! ### Log numbers (R57, R59) -/

/-- A log number with its sign and its λ in units of 2^−10; `zero` when the code reads as zero (R57). -/
structure Lns where
  zero : Bool
  neg : Bool
  lam : Int
deriving DecidableEq, Repr

/-- The zero of LNS16. -/
def Lns.z : Lns := { zero := true, neg := false, lam := 0 }

/-- Reading an LNS16 code: 0x4000 and 0xC000 are zero (R57). -/
def lnsOf (c : BitVec 16) : Lns :=
  if c.toNat % 2 ^ 15 = 0x4000 then Lns.z
  else { zero := false, neg := c.getLsbD 15, lam := signedField 15 c.toNat }

/-- Writing an LNS16 code; every zero is written 0x4000 (R57). -/
def lnsCode (x : Lns) : BitVec 16 :=
  if x.zero then 0x4000#16
  else BitVec.ofNat 16 ((x.lam % 2 ^ 15).toNat + (if x.neg then 2 ^ 15 else 0))

/-- An LNS16 product (R58): the code and whether it saturated. -/
def lnsMul (a b : Lns) : Lns × Bool :=
  if a.zero || b.zero then (Lns.z, false)
  else
    let l := a.lam + b.lam
    let neg := a.neg != b.neg
    if l > 16383 then ({ zero := false, neg := neg, lam := 16383 }, true)
    else if l < -16383 then (Lns.z, false)
    else ({ zero := false, neg := neg, lam := l }, false)

/-- The λ, in units of 2^−10, of an LNS8 code with integer base B (R59). -/
def lns8Lam (base : Int) (s : Nat) : Int := 1024 * base + 64 * s

end Sys2Proof.Machine
end

