-- ==== Sys2Proof/Config.lean ====
section
/-! DEFINITION. What the spec leaves to nature or to another standard: values with no body, so that no proof can see
one. A statement that holds of the model holds for every value of them. -/

namespace Sys2Proof

/-- The draw of 64 random bits number n (a seed that a request does not give). -/
opaque Config.entropy : Nat → BitVec 64

/-- The draw of a 48-byte random challenge number n (R600, Table 19.8). -/
opaque Config.challenge : Nat → BitVec 384

/-- Whether an ECDSA P-384 signature (96 bytes) over a digest verifies under a public key (R326). -/
opaque Config.ecdsaOk : List Byte → BitVec 384 → List Byte → Bool

/-- Whether an HSS signature over a digest verifies under a public key (R326). -/
opaque Config.hssOk : List Byte → BitVec 384 → List Byte → Bool

/-- The device's ECDSA signature over a digest (R597): 96 bytes are taken from it. -/
opaque Config.deviceEcdsa : BitVec 384 → List Byte

/-- The device's HSS signature with an index over a digest (R597): 3,604 bytes are taken from it. -/
opaque Config.deviceHss : Nat → BitVec 384 → List Byte

/-- The digest of the firmware image that the module is shipped with, and the key pairs that its manifest lists (R587). -/
opaque Config.shippedDigest : BitVec 384
opaque Config.shippedKeys : List (BitVec 32 × List Byte × List Byte)

/-- The identifier of the device key pair, below its class (R586, R588). -/
opaque Config.deviceKey : BitVec 24

/-- The event of M4 as bytes: of an unseal (true) and of a reseal (Table 19.3). -/
opaque Config.sealEvent : Bool → List Byte

/-- The granule of a tile in a tile buffer, from its trit masks, as the debug window gives it (R601). -/
opaque Config.tileGranule : List (BitVec 256) → List (BitVec 256) → Nat → BitVec 256

/-- The device's ECDSA public key (R588). -/
opaque Config.devicePublic : List Byte

/-- The security version in a firmware image's header (R592). -/
opaque Config.imageSvn : List Byte → Nat

/-- Whether a firmware image's manifest and signature block verify (R587, R590, R591). -/
opaque Config.imageSound : List Byte → Bool

/-- The root pair that signed a firmware image's manifest (R587). -/
opaque Config.imageRoot : List Byte → Nat

/-- The key pairs that a firmware image's manifest lists: identifier, ECDSA key and HSS key (R587). -/
opaque Config.imageKeys : List Byte → List (BitVec 32 × List Byte × List Byte)

/-- The vocabulary byte table and pool (R214) and the number of layers of the model of a pack digest, for an install from another module
(R446). -/
opaque Config.packOf : BitVec 384 → List (BitVec 32) × List Byte × Nat

/-- The tile sets of an extent (layer index, logical span), the tiles of each, and for a place of the extent the plane of the target
tensor and the tile of it that stand there: the slicing of tensors over spans is the planner's (R447, R349). -/
opaque Config.extentSets : Nat → Nat → Nat
opaque Config.setTiles : Nat → Nat → Nat → Nat
opaque Config.tileAt : Nat → Nat → Nat → Nat × Nat

/-- Whether a T port leads down the tree: the baseboard's cabling fixes it, and no register holds it (R466). -/
opaque Config.downlink : Nat → Bool

/-- Whether a logical span serves an expert of a MoE layer: (descriptor, expert, span). The spec names the expert's spans and
does not say which they are (R186). -/
opaque Config.expertSpan : Nat → Nat → Nat → Bool

/-- Where the trestle unit writes an expert's grant list of a layer, and the counter that it raises (R275). -/
opaque Config.grantPlace : Nat → Nat × Nat

/-- Where an expert's span holds the route entries of a layer's scattered granules, and how many granules it scatters for each of
its tokens: (descriptor, span); and the target span and line of one of them: (descriptor, span, batch slot, granule) (R189, R290). -/
opaque Config.routePlace : Nat → Nat → Nat × Nat
opaque Config.routeTarget : Nat → Nat → Nat → Nat → Nat × Nat

/-- Where the trestle unit writes the normalised vector for the head with a descriptor: the granule of batch slot 0, the stride
from token to token and the counter that it raises (R208). -/
opaque Config.headPlace : Nat → Nat × Nat × Nat

/-- The granule, relative to the deck store's start, at which the query vector of (descriptor, batch slot, query position
index, query head) begins on the span that attends: ATTN has no operand for it (R141, R286). -/
opaque Config.queryAt : Nat → Nat → Nat → Nat → Nat

/-- A free number: the n-th value that the spec leaves open in a bounded range. -/
opaque Config.free : Nat → Nat

/-- The range of a transmitter tap c(−3) to c(+1), its preset, and what the receiver of a lane asks of its partner in frame
number n: CONTROL and whether it is ready. Table 14.15 takes them from another standard. -/
opaque Config.tapRange : Nat → Int × Int
opaque Config.tapPreset : Nat → Int
opaque Config.laneAsks : Nat → BitVec 16 × Bool

end Sys2Proof
end

