-- ==== Sys2Proof/Machine/KMap.lean ====
section
/-! DEFINITION. The operations of sparse data by key: finding, writing and removing an entry, in the one canonical form. -/

namespace Sys2Proof.Machine
open Sys2Proof

/-- The entry of key `k`, when one is listed. -/
def kfind? {α : Type} : List (Nat × α) → Nat → Option α
  | [], _ => none
  | (k', v) :: r, k => if k = k' then some v else kfind? r k

/-- The list with the entry of key `k` replaced by `o` (`none` removes it). -/
def kput {α : Type} : List (Nat × α) → Nat → Option α → List (Nat × α)
  | [], k, o => match o with
    | none => []
    | some v => [(k, v)]
  | (k', v') :: r, k, o =>
    if k < k' then (match o with
      | none => (k', v') :: kput r k o
      | some v => (k, v) :: (k', v') :: r)
    else if k = k' then (match o with
      | none => kput r k o
      | some v => (k, v) :: r)
    else (k', v') :: kput r k o

/-- What key `k` holds, an unlisted key holding the default `d`. -/
def kget {α : Type} (d : α) (m : List (Nat × α)) (k : Nat) : α := (kfind? m k).getD d

/-- Write `v` at key `k`: writing the default removes the entry. -/
def kset {α : Type} [DecidableEq α] (d : α) (m : List (Nat × α)) (k : Nat) (v : α) : List (Nat × α) :=
  kput m k (if v = d then none else some v)

/-- Add or replace an entry of a map without default (a table whose entries exist or do not). -/
def kins {α : Type} (m : List (Nat × α)) (k : Nat) (v : α) : List (Nat × α) := kput m k (some v)

/-- Remove an entry. -/
def kdel {α : Type} (m : List (Nat × α)) (k : Nat) : List (Nat × α) := kput m k none

/-- Change an entry of a map with default `d`. -/
def kmod {α : Type} [DecidableEq α] (d : α) (m : List (Nat × α)) (k : Nat) (f : α → α) : List (Nat × α) :=
  kset d m k (f (kget d m k))

/-- Change an entry that is listed; nothing when it is not. -/
def kupd {α : Type} (m : List (Nat × α)) (k : Nat) (f : α → α) : List (Nat × α) :=
  match kfind? m k with
  | none => m
  | some v => kput m k (some (f v))

/-- The keys are strictly rising. -/
def ksorted {α : Type} : List (Nat × α) → Bool
  | [] => true
  | [_] => true
  | (k, _) :: (k', v') :: r => decide (k < k') && ksorted ((k', v') :: r)

/-- The canonical form of a map with default `d`: keys strictly rising, no entry equal to the default. -/
def kwf {α : Type} [DecidableEq α] (d : α) (m : List (Nat × α)) : Bool :=
  ksorted m && m.all (fun e => decide (e.2 ≠ d))

/-- The least natural number below `n` that satisfies `p`. -/
def firstBelow (n : Nat) (p : Nat → Bool) : Option Nat := (List.range n).find? p

/-- Replace position `i` of a list, growing it with `d` when it is shorter. -/
def listSet {α : Type} (d : α) : List α → Nat → α → List α
  | [], 0, v => [v]
  | [], n + 1, v => d :: listSet d [] n v
  | _ :: r, 0, v => v :: r
  | x :: r, n + 1, v => x :: listSet d r n v

end Sys2Proof.Machine
end

