-- ==== Sys2Proof/Machine/Plan.lean ====
section
/-! DEFINITION. The configuration bitstream as data (chapter 10): identity, span sets, roles, programs, layer
descriptors, tick plans, trestle records, key-value classes, and the accessors of a descriptor's fields (Table 10.6). -/

namespace Sys2Proof.Machine
open Sys2Proof

/-- JOB_TYPE of Table 10.5. -/
inductive JobType where
  | serve
  | tune
  | ingest
  | selftest
deriving DecidableEq, Repr

/-- JOB_TYPE from its code (Table 10.5): other values are reserved. -/
def jobTypeOf : Nat → Option JobType
  | 0 => some .serve
  | 1 => some .tune
  | 2 => some .ingest
  | 3 => some .selftest
  | _ => none

/-- The code of a job type. -/
def jobTypeCode : JobType → Nat
  | .serve => 0
  | .tune => 1
  | .ingest => 2
  | .selftest => 3

/-- The IDENT record (Table 10.5). A SHA-384 digest is held as its 48 bytes read as a little-endian number. -/
structure Ident where
  jobType : JobType
  spans : Nat
  basicSpans : Nat
  hasFixed : Bool
  modelDigest : BitVec 384
  layoutDigest : BitVec 384
  planId : Nat
  stepMask : Nat
  gradeMask : Nat
  maxContext : Nat
deriving DecidableEq, Repr

/-- A layer descriptor: its 32 words (R314). The accessors below read its fields. -/
abbrev Desc := List (BitVec 32)

/-- Field [lo + w − 1 : lo] of word `i` of a descriptor. -/
def Desc.field (d : Desc) (i lo w : Nat) : Nat := bitsAt (d.getD i 0#32).toNat lo w

/-- One bit of word `i` of a descriptor. -/
def Desc.flag (d : Desc) (i b : Nat) : Bool := (d.getD i 0#32).getLsbD b

/-! The fields of Table 10.6. -/

def Desc.tshape (d : Desc) : Nat := d.field 0 0 4
def Desc.cmode (d : Desc) : Nat := d.field 0 4 2
def Desc.entries (d : Desc) : Nat := d.field 0 6 3 + 1
def Desc.skipEn (d : Desc) : Bool := d.flag 0 9
def Desc.accKeep (d : Desc) : Bool := d.flag 0 10
def Desc.outKind (d : Desc) : Nat := d.field 0 11 3
def Desc.align (d : Desc) : Bool := d.flag 0 14
def Desc.outlEn (d : Desc) : Bool := d.flag 0 15
def Desc.resEn (d : Desc) : Bool := d.flag 0 16
def Desc.resOut (d : Desc) : Bool := d.flag 0 17
def Desc.normEn (d : Desc) : Bool := d.flag 0 18
def Desc.varAt (d : Desc) : Bool := d.flag 0 19
def Desc.scaleMode (d : Desc) : Nat := d.field 0 20 2
def Desc.wmode (d : Desc) : Nat := d.field 0 22 2
def Desc.gen (d : Desc) : Nat := d.field 0 24 4
def Desc.ctx (d : Desc) : Nat := d.field 0 28 1
def Desc.attEn (d : Desc) : Bool := d.flag 0 29
def Desc.unitTrestle (d : Desc) : Bool := d.flag 0 30
def Desc.plane (d : Desc) (e : Nat) : Nat := (d.getD (e + 1) 0#32).toNat
def Desc.accBase (d : Desc) : Nat := d.field 9 0 12
def Desc.subbatch (d : Desc) : Nat := d.field 9 12 13
def Desc.linesPerSeq (d : Desc) : Nat := d.field 10 0 12
def Desc.wPlan (d : Desc) : Nat := d.field 10 12 4
def Desc.wMin (d : Desc) : Nat := d.field 10 16 4
def Desc.wMax (d : Desc) : Nat := d.field 10 20 4
def Desc.hist (d : Desc) : Nat := d.field 10 24 4 + 1
def Desc.nltSlot (d : Desc) : Nat := d.field 10 28 4
/-- COLD_TICKS, a field of 0 giving the default of 16 (R124). -/
def Desc.coldTicks (d : Desc) : Nat := if d.field 11 0 8 = 0 then 16 else d.field 11 0 8
def Desc.fRef (d : Desc) : Nat := d.field 11 8 4
def Desc.wIn (d : Desc) : Nat := d.field 11 12 4
def Desc.widenCost (d : Desc) : Nat := d.field 11 16 16
def Desc.outlSpan (d : Desc) : Nat := d.field 12 0 16
def Desc.normEps (d : Desc) : Nat := d.field 12 16 16
def Desc.normLogn (d : Desc) : Nat := d.field 13 0 16
def Desc.layerScale (d : Desc) : Nat := d.field 13 16 16
def Desc.resBase (d : Desc) : Nat := d.field 14 0 17
def Desc.resOutBase (d : Desc) : Nat := d.field 15 0 17
def Desc.outlBase (d : Desc) : Nat := d.field 16 0 17
def Desc.aseg (d : Desc) : Nat := d.field 17 0 17
def Desc.dset (d : Desc) : Nat := d.field 17 17 8
def Desc.outSeqStride (d : Desc) : Nat := d.field 18 0 17
def Desc.inSegs (d : Desc) : Nat := d.field 18 17 13
def Desc.redPlan (d : Desc) : Nat := (d.getD 19 0#32).toNat
def Desc.scaleTab (d : Desc) : Nat := d.field 20 0 17
def Desc.wset (d : Desc) : Nat := d.field 20 17 8
def Desc.gainTab (d : Desc) : Nat := d.field 21 0 17
def Desc.slice16 (d : Desc) : Nat := d.field 21 17 13
def Desc.kvBase (d : Desc) : Int := signedField 8 (d.field 22 0 8)
def Desc.wlIndex (d : Desc) : Nat := d.field 22 16 16
def Desc.varBase (d : Desc) : Nat := d.field 23 0 17
def Desc.varLayer (d : Desc) : Nat := d.field 23 17 10
/-- A bit of word 24 of the work extension, 0 when the attention extension is selected (R315). -/
def Desc.workFlag (d : Desc) (b : Nat) : Bool := !d.attEn && d.flag 24 b
def Desc.predEn (d : Desc) : Bool := d.workFlag 0
def Desc.predOut (d : Desc) : Bool := d.workFlag 1
def Desc.scatEn (d : Desc) : Bool := d.workFlag 2
def Desc.routeNorm (d : Desc) : Bool := d.workFlag 3
def Desc.predLayer (d : Desc) : Nat := d.field 24 4 12
def Desc.predTau (d : Desc) : Nat := d.field 24 16 16
def Desc.predRate (d : Desc) : Nat := d.field 25 0 9
def Desc.predMaskBase (d : Desc) : Nat := d.field 25 9 17
def Desc.makeupPlan (d : Desc) : Nat := d.field 26 0 20
def Desc.checkBase (d : Desc) : Nat := d.field 26 20 12
def Desc.makeupBudget (d : Desc) : Nat := d.field 27 0 20
def Desc.scatBase (d : Desc) : Nat := d.field 27 20 12
def Desc.scatLines (d : Desc) : Nat := d.field 28 0 13
def Desc.scatUnit (d : Desc) : Int := signedField 12 (d.field 28 13 12)
def Desc.scatCap (d : Desc) : Nat := d.field 29 0 16
def Desc.capShared (d : Desc) : Nat := d.field 29 16 16
def Desc.nExp (d : Desc) : Nat := d.field 30 0 8 + 1
def Desc.topK (d : Desc) : Nat := d.field 30 8 4 + 1
def Desc.capBase (d : Desc) : Nat := d.field 30 12 13
def Desc.routeScale (d : Desc) : Nat := d.field 31 0 16
def Desc.routeC (d : Desc) : Nat := d.field 31 16 16
def Desc.dH (d : Desc) : Nat := 16 * (d.field 24 0 4 + 1)
def Desc.nKv (d : Desc) : Nat := d.field 24 4 6 + 1
def Desc.gq (d : Desc) : Nat := d.field 24 10 5 + 1
def Desc.rotEn (d : Desc) : Bool := d.attEn && d.flag 24 15
def Desc.attC (d : Desc) : Nat := d.field 24 16 16
def Desc.attWindow (d : Desc) : Nat := d.field 25 0 21
def Desc.kvClass (d : Desc) : Nat := d.field 25 21 2
/-- ROT_BASE in bytes from the hot-set entry base (Table 10.6: 4 KiB units). -/
def Desc.rotBase (d : Desc) : Nat := 4096 * d.field 26 0 28
def Desc.kvLayer (d : Desc) : Nat := d.field 27 0 10
def Desc.headMap (d : Desc) : Nat := d.field 28 0 16

/-- The plane entries a layer runs (R48). -/
def Desc.planeEntries (d : Desc) : List PlaneEntry :=
  (List.range d.entries).map (fun e => (planeEntryOf (d.plane e)).getD { wfmt := .pack5, shift := 0, psign := false })

/-- A SPAN_ROLES record (R310). -/
structure Role where
  lspan : Nat
  role : Nat
  progLen : Nat
  entry : List Nat          -- entry PCs of phases 1 to 5
deriving DecidableEq, Repr

/-- A ROUTES record (R311). -/
structure Route where
  src : Nat
  dst : Nat
  rowFirst : Bool
  share : Nat
deriving DecidableEq, Repr

/-- The head of a TICK_PLAN (Tables 8.2 and 10.7), the defaults of R319 applied. Times in µs or cyc as the table says. -/
structure TickHead where
  periodPlan : Nat
  periodMin : Nat
  periodMax : Nat
  planCyc : Nat
  cutPlan : Nat
  keyRes : Nat
  quantum : Nat
  minSlack : Nat
  remoteWaitMax : Nat
  slipMax : Nat
  replayLimit : Nat
  govCold : Nat
  govWin : Nat
  prefillTokens : Nat
  draftN : Nat
  balEn : Bool
  balCold : Nat
  batchLimit : Nat
  phaseS : List Nat         -- S of phases 1 to 5
deriving DecidableEq, Repr

/-- A joint record (R320). -/
structure Joint where
  y : Nat
  a : Nat
  set : Nat
  trestle : Bool
  pier : Bool
  phase : Bool
deriving DecidableEq, Repr

/-- A TRESTLE work record (Table 10.8). -/
structure TrsRec where
  start : Nat
  phase : Nat
  kind : Nat
  desc : Nat
  src : Nat                 -- FROM; 0xFFFF when none
deriving DecidableEq, Repr

/-- A route of the plan in use (R328): its ordered pair of endpoints (R311) and its directed links between routers, each
router by (column, row). -/
structure DeckRoute where
  src : Nat
  dst : Nat
  links : List ((Nat × Nat) × (Nat × Nat))
deriving DecidableEq, Repr

/-- One plan of a bitstream (Table 10.3). -/
structure Plan where
  roles : List Role
  routes : List Route
  programs : List (Nat × List (BitVec 128))
  layers : List Desc
  head : TickHead
  joints : List Joint
  trestle : List TrsRec
  hasTrestle : Bool
deriving DecidableEq, Repr

/-- A TABLES record (R317). -/
structure TableRec where
  dest : Nat
  set : Nat
  addr : Nat
  data : List Byte
deriving DecidableEq, Repr

/-- A KV_CLASSES record (R323). -/
structure KvClass where
  cls : Nat
  nKv : Nat
  dH : Nat
  poolUnits : Nat
  first : Nat
  layers : Nat
deriving DecidableEq, Repr

/-- The FOOTBRIDGE record (R324). -/
structure FbRec where
  digest : BitVec 384
  draftMax : Nat
  cls : Nat
  copyA : BitVec 32
  copyB : BitVec 32
deriving DecidableEq, Repr

/-- A WEIGHT_LAYOUT record (Table 10.9). -/
structure WExtent where
  wl : Nat
  lspan : Nat
  entry : Nat
  offset : Nat
  len : Nat
deriving DecidableEq, Repr

/-- An INGEST_MAP record (R325). -/
structure IngestRec where
  wl : Nat
  wfmt : Nat
  planes : Nat
  theta : Nat
  offset : Nat
  rows : Nat
  cols : Nat
deriving DecidableEq, Repr

/-- A bitstream that has passed load steps 2 and 3, as data. -/
structure Bitstream where
  ident : Ident
  pref : List Nat
  sets : List (BitVec 128)
  plans : List (Nat × Plan)
  tables : List TableRec
  headMaps : List (Nat × List (List Nat))
  kvClasses : List KvClass
  footbridge : Option FbRec
  weights : List WExtent
  ingest : List IngestRec
  digest : BitVec 384
  weightDigest : BitVec 384            -- the layout digest: SHA-384 over the WEIGHT_LAYOUT body (R322)
deriving DecidableEq, Repr

/-- The plan numbered `p` (Table 10.3), when the bitstream carries it. -/
def Bitstream.plan? (b : Bitstream) (p : Nat) : Option Plan := (b.plans.find? (fun e => e.1 = p)).map (·.2)

/-- Whether logical span `l` is in set `s` of the bitstream (R309). -/
def Bitstream.inSet (b : Bitstream) (s l : Nat) : Bool := (b.sets.getD s 0#128).getLsbD l

/-- The members of a set among the first `n` logical spans, ascending. -/
def Bitstream.setMembers (b : Bitstream) (s n : Nat) : List Nat := (List.range n).filter (b.inSet s)

/-- The descriptor at an index; none past the end of LAYERS. -/
def Plan.desc? (p : Plan) (i : Nat) : Option Desc := p.layers[i]?

/-- The program image of a logical span. -/
def Plan.program (p : Plan) (l : Nat) : List (BitVec 128) := ((p.programs.find? (fun e => e.1 = l)).map (·.2)).getD []

/-- The role record of a logical span. -/
def Plan.role? (p : Plan) (l : Nat) : Option Role := p.roles.find? (fun r => r.lspan = l)

/-- The tile shape of Table 3.1: (d, h), the cells deep and the cells high. -/
def tileShape (t : Nat) : Nat × Nat :=
  ([(1, 384), (2, 192), (3, 128), (4, 96), (6, 64), (8, 48), (12, 32), (16, 24), (24, 16), (32, 12), (48, 8),
    (64, 6), (96, 4), (128, 3), (192, 2), (384, 1)] : List (Nat × Nat)).getD t (1, 384)

/-- The gather factor of entry `e` of a layer (R69). -/
def Desc.gather (d : Desc) (e : Nat) : Nat := wfmtGather ((d.planeEntries.map (·.wfmt)).getD e .pack5)

/-- The passes U of an entry (R316). -/
def Desc.passes (d : Desc) (e : Nat) : Nat := cdiv d.inSegs ((tileShape d.tshape).1 * d.gather e)

/-- The row groups V of a layer's slice (R316), the last one partial when the slice does not fill it (R71). -/
def Desc.rowGroups (d : Desc) : Nat := cdiv d.slice16 (tileShape d.tshape).2

/-- The tile set with number `n` (R279): its entry, row group and pass. DESIGN CHOICE (log entry 37): R279 numbers with one U;
where the entries of a layer have different numbers of passes, each entry takes as many numbers as it has tile sets. -/
def Desc.tileSet (d : Desc) (n : Nat) : Nat × Nat × Nat :=
  let vs := d.rowGroups
  let sizes := (List.range d.entries).map (fun e => vs * d.passes e)
  let e := ((List.range d.entries).find? (fun e => decide (n < ((sizes.take (e + 1)).sum)))).getD 0
  let base := (sizes.take e).sum
  let u := d.passes e
  (e, if u = 0 then 0 else (n - base) / u, if u = 0 then 0 else (n - base) % u)

/-- Bits [lo + w − 1 : lo] of a word replaced by those of another. -/
def mixBits (own other : BitVec 32) (lo w : Nat) : BitVec 32 :=
  let m := BitVec.ofNat 32 ((2 ^ w - 1) * 2 ^ lo)
  (own &&& ~~~m) ||| (other &&& m)

/-- A layer's descriptor under the fields that an abutment context holds (R65): the lines' geometry is the layer's own, and what
the stages of Table 4.1 read is the context's. -/
def Desc.under (own ctx : Desc) : Desc :=
  own.zipIdx.map (fun e =>
    let o := ctx.getD e.2 0#32
    match e.2 with
    | 0 => mixBits e.1 o 11 18
    | 10 => mixBits e.1 o 12 20
    | 11 => mixBits (mixBits e.1 o 0 12) o 16 16
    | 12 | 13 | 14 | 15 | 16 | 19 | 20 | 23 => o
    | 17 => mixBits e.1 o 17 15
    | 18 | 21 => mixBits e.1 o 0 17
    | 22 => mixBits e.1 o 0 8
    | _ => e.1)

/-- The tag of a layer's sums. -/
def Desc.tag (d : Desc) (kind : Nat) : BitVec 8 := BitVec.ofNat 8 (128 * d.ctx + 16 * kind + d.gen)

end Sys2Proof.Machine
end

