-- ==== Sys2Proof/Machine/SpanState.lean ====
section
/-! DEFINITION. The state of one physical span (chapters 03, 04, 05, 06, 09): sequencer, cells, accumulator lines,
abutment, arch lanes, streams, deck store, trace buffer and counters, as plain data. -/

namespace Sys2Proof.Machine
open Sys2Proof

/-- A counter with its live and closed copies (R544, R545): `rem` holds the bytes below one unit of a byte counter,
`at_` the time of its last close. -/
structure Counter where
  live : BitVec 32
  closed : BitVec 32
  closes : BitVec 16
  rem : Nat
  at_ : Option Nat
deriving DecidableEq, Repr

/-- A counter that has counted nothing. -/
def Counter.zero : Counter := { live := 0, closed := 0, closes := 0, rem := 0, at_ := none }

/-- An open loop (R269, R270). -/
structure LoopFrame where
  level : Nat
  index : Nat
  iters : Nat
  nPlan : Nat
  bodyPc : Nat
  baseL : Nat
  period : Nat
  dStride : Nat
  gStride : Nat
  lStride : Nat
  rlog2 : Nat
  jStride : Nat
  dyn : Bool
deriving DecidableEq, Repr

/-- A receive window (R276). -/
structure Window where
  base : Nat
  len : Nat
  remote : Bool
deriving DecidableEq, Repr

/-- What holds the sequencer: HOLD of Table 9.14. -/
inductive HoldKind where
  | issuing
  | stamp
  | unitBusy
  | counter
  | hazard
  | joint
  | remoteWait
  | afterEnd
deriving DecidableEq, Repr

/-- The class counters of lateness (Tables 8.4 and 9.10). -/
structure LateClasses where
  mem : Nat
  width : Nat
  makeup : Nat
  route : Nat
  scat : Nat
  stall : Nat
  other : Nat
deriving DecidableEq, Repr

/-- No lateness in any class. -/
def LateClasses.zero : LateClasses := { mem := 0, width := 0, makeup := 0, route := 0, scat := 0, stall := 0, other := 0 }

/-- A debit class of Table 8.4. -/
inductive DebitClass where
  | mem
  | width
  | makeup
  | route
  | scat
  | stall
  | other
deriving DecidableEq, Repr

/-- The hold of the instruction that the sequencer presents: what holds it, the counter waited on, since which cycle,
the counter that the held cycles go to (a window offset, 0 for none), up to which cycle they have been counted, and the class
of the lateness they cause. -/
structure Hold where
  kind : HoldKind
  ctr : Nat
  since : Nat
  counted : Nat
  counter : Nat
  cls : DebitClass
deriving DecidableEq, Repr

/-- What changes an arrival counter (R265). -/
inductive CtrChange where
  | set
  | sub
  | add
deriving DecidableEq, Repr

/-- A change of an arrival counter in a cycle: the counter shows it from the next cycle on (R265). -/
structure CtrOp where
  cyc : Nat
  ctr : Nat
  what : CtrChange
  n : Nat
deriving DecidableEq, Repr

/-- A span's sequencer (R263 to R265, R300 to R302). -/
structure Sequencer where
  prog : List (Nat × BitVec 128)      -- program memory, 4,096 words
  pc : Nat
  phase : Nat                          -- 0 = no program running
  base : Nat                           -- the stamp base B
  offset : Nat                         -- the offset o of R231
  arrive : List (Nat × Nat)            -- the 32 arrival counters, as they stood at the start of the cycle
  ctrOps : List CtrOp                  -- their changes in cycles that have not passed
  loops : List LoopFrame               -- innermost first
  windows : List (Nat × Window)
  lastIssue : Option Nat
  late : Int                           -- the lateness of the last instruction issued (R267)
  lastPhaseJoint : Bool                -- the last instruction issued was a JOINT with PHASE 1
  ended : Bool
  hold : Option Hold
  fault : BitVec 32                    -- SPN_SEQ_FAULT
  classes : LateClasses
  jointAt : Option Nat                 -- the joint whose JOINT has issued and that the span has not arrived at
  arrived : Option (Nat × Nat)         -- joint arrived at, and the cycle
  earlyTo : Nat                        -- the cycle up to which SPN_JOINT_EARLY has counted the wait at that joint
  blist : Option (List Nat)            -- the sequence list; none: the identity list of the batch
  remoteSince : Option Nat             -- issue of a remote wait in progress
  since : Nat                          -- the cycle from which the instruction at PC is the one to issue next
  waitFrom : Option Nat                -- since when it, or a JOINT's arrival, has waited on anything but a stamp (R299)
deriving DecidableEq, Repr

/-- A line of the accumulator buffer (R65, R87, R97, R293). LNS16 partials lie in the low 16 bits. -/
structure Line where
  acc : List (BitVec 32)               -- 16 accumulators
  tag : BitVec 8
  unit : BitVec 12
  hasUnit : Bool
  rowGroup : Nat
  pending : Bool
  owner : Nat                          -- the run (layer, row group, sub-batch) whose sums it holds; 0 = zeroed
  desc : Nat                           -- the descriptor of the layer that made the first addition
  saturated : Bool
deriving DecidableEq, Repr

/-- A line of zeros. -/
def Line.zero : Line :=
  { acc := List.replicate 16 0, tag := 0, unit := 0, hasUnit := false, rowGroup := 0, pending := false, owner := 0,
    desc := 0, saturated := false }

/-- One row position's addition in flight (R89): 16 terms into one line, landing at a cycle. -/
structure Addition where
  land : Nat
  line : Nat
  terms : List Int
  tag : BitVec 8
  unit : BitVec 12
  rowGroup : Nat
  owner : Nat
  desc : Nat
  keep : Bool
  check : Bool                         -- a ceiling term into a check line (R179)
deriving DecidableEq, Repr

/-- A tile buffer set: the tile set decoded or being decoded into the idle buffers (R279). -/
structure TileBuf where
  desc : Nat
  tset : Nat
  src : Nat
  tiles : List (Nat × List TileMask)   -- by cell number
  doneAt : Nat
  done : Bool
  readUntil : Nat
  fctr : Option (Nat × Nat)            -- counter raised on completion, and by how much
  poisoned : Bool                      -- a tile of the set was delivered as zeros for poison (R94)
deriving DecidableEq, Repr

/-- A pair (list position, row group) of a predicted layer (R179 to R185). -/
structure PredPair where
  run : Nat                            -- the LAYER instruction it belongs to, and its descriptor
  di : Nat
  pos : Nat
  seq0 : Nat                           -- of its sub-batch
  v : Nat
  w : Nat                              -- W_n
  full : Bool                          -- it runs in full
  beyond : Bool                        -- beyond the planned share (R185)
  lastAt : Option Nat                  -- the cycle at which the last addition of its last pass lands
  checked : Bool                       -- the abutment has checked it
  flagged : List Nat                   -- flagged slice rows
  made : Bool
deriving DecidableEq, Repr

/-- The cells of a span. -/
structure CellUnit where
  layer : Option Nat                   -- the current layer's descriptor
  layerSeq : Nat                       -- LAYER instructions issued, which names the layer's lines
  gated : Bool                         -- a PGATE since the LAYER
  busyUntil : Nat
  nextBuf : Nat                        -- the buffer set the next TLOAD fills, 0 or 1
  bufs : List (Nat × TileBuf)
  inflight : List Addition             -- oldest first
  pairs : List PredPair                -- pairs of predicted layers, oldest first
  makeupSpent : List (Nat × Nat)       -- M of R182 in the tick, by descriptor
  decoded : List (Nat × List Nat)      -- the granules of each tile set decoded for the layer, by number (R88)
  zeroing : Option (Nat × Nat × Nat)   -- lines being zeroed: first, number, and up to which cycle (R282)
  running : List (Nat × Nat × Nat)     -- the tile sets of the instruction in the cells: from which cycle, number, P2S entry
  poisonDue : Bool                     -- a run of a poisoned tile set is to break the tick once it has finished (R94)
  refusable : Nat                      -- X of R236: refusable costs since the last release
  viewBalance : Int                    -- the span's view of R236: balance and slip room
  viewSlip : Int
  overBusy : Option DebitClass         -- why the cells run beyond plan (Table 9.10)
deriving DecidableEq, Repr

/-- An abutment context (R101, R136). -/
structure AbtCtx where
  loaded : Bool
  desc : Nat
  gen : Nat
  loadedAt : Nat
  waiting : Option Nat                 -- a load that waits for the drain
  layerW : Nat
  open_ : Bool                         -- its layer may still write lines
  waited : Bool                        -- the load had to wait for the drain
  drainAt : Nat                        -- the cycle at which the last line issued leaves stage 8
deriving DecidableEq, Repr

/-- A context that holds no layer. -/
def AbtCtx.none : AbtCtx :=
  { loaded := false, desc := 0, gen := 0, loadedAt := 0, waiting := Option.none, layerW := 0, open_ := false,
    waited := false, drainAt := 0 }

/-- The width history of a layer on a span (R123, R124). -/
structure WidthHist where
  ticks : Nat
  maxes : List Nat                     -- greatest w_req of the last ticks, newest first
  current : Nat                        -- of the tick in progress
deriving DecidableEq, Repr

/-- What a span goes on with when its job has left the spans and comes back: the width histories of its layers and ρ_s, for the
logical span and the physical span that made them (R124, R196, R329). -/
structure SpanKept where
  l : Nat
  p : Nat
  hist : List (Nat × WidthHist)        -- by 4096 × plan + descriptor
  rho : Nat
deriving DecidableEq, Repr

/-- A line on its way through the abutment: its list position and sequence, its row group of 16, and its 16 values in the
working log form after stage 5. -/
structure ConvLine where
  pos : Nat
  slot : Nat
  occ : Nat                            -- how many times the list names the slot before
  row16 : Nat                          -- slice row ÷ 16
  kind : Nat                           -- KIND of the line's tag
  idx : Nat                            -- the cycle of a sweep in which it is read, holds of R100 included
  vals : List Lns
deriving DecidableEq, Repr

/-- A conversion that waits for the reductions of its writer group (R112, R119, R283). -/
structure ConvWork where
  desc : Nat
  ctx : Nat                            -- the format context of its lines
  kv : Option (Nat × Nat)              -- NSPAN and NCTR of a KVAPP
  cyc : Nat                            -- its issue
  n : Nat                              -- lines
  stall : Nat                          -- cycles that steering entries hold each sweep (R100)
  seq0 : Nat
  dst : Nat
  ring : Option (Nat × Nat)            -- index offset and ring of DST, when it is indexed
  dspan : Nat
  rctr : Nat
  base : Nat                           -- the cycle at which its last sweep begins, once that is known
  lines : List ConvLine
deriving DecidableEq, Repr

/-- A line that KVAPP has appended: when its groups are written, the bytes, and the counter that rises on the spans of NSPAN once
the controllers have acknowledged them (R284). -/
structure KvAck where
  cyc : Nat
  spans : List Nat
  ctr : Nat
  bytes : List (Nat × Byte)
deriving DecidableEq, Repr

/-- The abutment of a span. -/
structure Abutment where
  ctxs : List (Nat × AbtCtx)           -- contexts 0 and 1
  busyUntil : Nat
  writtenAt : Nat                      -- the cycle at which the last value issued is written
  nlt : List (Nat × List (BitVec 256)) -- nonlinearity slots (R114)
  nltAt : List (Nat × List Nat)        -- the granules from which each slot was loaded (R285, R500)
  hist : List (Nat × WidthHist)        -- by 4096 × plan + descriptor
  kvAcks : List KvAck                  -- by line, oldest first
  works : List ConvWork                -- conversions that wait for a reduction, oldest first
  checkUntil : Nat                     -- the cycle at which the checks of R181 asked for so far end
  overBusy : Option DebitClass         -- why it runs beyond plan (Table 9.10)
deriving DecidableEq, Repr

/-- What a stream moves (Table 9.7). -/
inductive StreamKind where
  | mload
  | mstore
  | kvrd
  | fill
  | copy
  | gath
  | scat
  | send
deriving DecidableEq, Repr

/-- A stream of a span in progress (R288 to R290). `srcs` lists what each granule comes from and `dsts` where it goes. -/
structure Stream where
  kind : StreamKind
  srcs : List Nat
  dsts : List Nat
  targets : List Nat                   -- receiving logical spans of SEND
  places : Nat                         -- PLACE_G of a load from a spill range; 0 for any other stream
  remote : List (Nat × Nat × Nat)      -- WRITEs of a remote store not acknowledged: LID, OFFSET, granules (R477)
  since : Nat                          -- the cycle in which FILL or COPY began
  held : List (BitVec 256 × Bool × Bool) -- what COPY moves: values with their poison marks
  fullFrom : Option Nat                -- since when its next scatter entry waits at a full queue, as far as it is not counted
  pattern : Word                       -- of FILL
  sctr : Nat
  rctr : Nat
  fen : Option Nat
  taken : Nat                          -- granules that have taken one from FCTR
  landed : List Nat                    -- indices landed and not yet in the prefix
  count : Nat                          -- the longest landed prefix
  acked : Nat
  needAck : Bool
deriving DecidableEq, Repr

/-- An entry waiting in a bank's conflict queue, or on its way to it (R189, R191). -/
structure ScatEntry where
  src : Nat                            -- sending logical span
  line : Nat
  values : List (BitVec 16)
  g : BitVec 16
deriving DecidableEq, Repr

/-- The clients of a deck store's shared port that write, in the order in which it grants them (R337). -/
inductive PortClient where
  | abutment
  | arch
  | stream
deriving DecidableEq, Repr

/-- What a granule does when it lands: nothing more, a rise of an arrival counter, or granule `idx` of the stream in a slot. -/
inductive PutRaise where
  | nothing
  | ctr (c n : Nat)
  | stream (slot idx : Nat)
deriving DecidableEq, Repr

/-- A write that a deck store's shared port is asked for in a cycle (R337): what it writes, for which logical span, and what its
landing does. -/
structure DeckPut where
  cyc : Nat
  client : PortClient
  src : Nat
  g : Nat
  v : BitVec 256
  poison : Bool
  flit : Bool                          -- the poison came with a deck flit (R510)
  raise : PutRaise
  ack : Option (Nat × Nat) := none     -- the chip and ARG of the WACK that its WRITE is answered with (R474)
deriving DecidableEq, Repr

/-- An assignment entry as its fields (R286). -/
structure Assign where
  slot : Nat
  head : Nat
  first : Nat
  count : Nat
deriving DecidableEq, Repr

/-- The attention in progress on the arch lanes (R286): it takes granules of the key-value ring as their counter counts them. -/
structure AttWork where
  cyc : Nat                            -- its issue
  di : Nat
  owner : Nat
  entries : List Assign
  first : Nat                          -- granule 0 of its reading, in the ring
  rlog2 : Nat
  kctr : Nat
  line0 : Nat
  nlines : Nat
  need : Nat                           -- granules of the ring that it reads in all
  got : List (BitVec 256 × Bool)       -- those read so far, with their poison marks
  unitTime : Nat                       -- C_att − 40
  wait : Nat                           -- cycles that the lanes have waited for granules
deriving DecidableEq, Repr

/-- A trace record (Tables 17.7 and 17.8): its 32 bytes, its time, and whether it lies in a trigger window. -/
structure TraceRec where
  bits : BitVec 256
  time : Nat
  win : Bool
deriving DecidableEq, Repr

/-- A span's trace buffer (R553 to R557). -/
structure Trace where
  ctrl : BitVec 32                     -- SPN_TRACE_CTRL
  records : List TraceRec              -- oldest first, at most 2,048
  kept : Bool                          -- records of before a warm reset, kept until EN is written 1 (Table 18.3)
  triggered : Bool
  frozen : Bool
  postLeft : Option Nat                -- records the window still takes after the trigger point
  seqNo : Nat
  lostSince : Nat                      -- records lost since the last LOST record, and the times of the first and last
  lostFirst : Nat
  lostLast : Nat
  firstTime : Nat                      -- SPN_TRACE_FIRST and SPN_TRACE_LAST
  lastTime : Nat
deriving DecidableEq, Repr

/-- One physical span. -/
structure Span where
  seq : Sequencer
  deck : List Host.Cell                -- the 4 MiB deck store, byte by byte
  poison : List Nat                    -- deck-store granules held as poison
  flitPoison : List Nat                -- those of them that a deck flit brought (R510)
  puts : List DeckPut                  -- writes asked for in cycles that have not passed
  conflict : Bool                      -- a write has waited for its port since the last release (R337)
  lines : List (Nat × Line)
  cells : CellUnit
  abt : Abutment
  archBusyUntil : Nat
  archDoneAt : Nat                     -- the cycle at which the arch lanes' last result is written
  archWaited : Bool                    -- they run longer than planned for a wait on data (R147, R337, R339)
  att : Option AttWork
  streams : List (Nat × Stream)        -- the 8 stream slots
  queues : List (Nat × List ScatEntry) -- the conflict queues of the 16 banks
  bankAt : List (Nat × Nat)            -- the cycle after the one in which a bank last applied an entry (R191)
  scatAt : Nat                         -- the cycle at which the last entry that the span sent has been applied or dropped
  applied : List (Nat × Nat)           -- entries applied in the tick, by descriptor × 16 + bank (R193)
  preload : List (Nat × Nat)           -- preloaded ranges: first granule, length (R318)
  trace : Trace
  counters : List (Nat × Counter)      -- by window offset
  rho : Nat                            -- ρ_s of R196, in 1/256
  attCycles : Nat                      -- measured attention cycles of the tick
  attPlan : Nat                        -- P_s: the sum of C_att of the tick
  strikes : List Nat                   -- times of SPAN_DATA strikes (R500)
deriving DecidableEq, Repr

/-- A sequencer that runs no program. -/
def Sequencer.idle : Sequencer :=
  { prog := [], pc := 0, phase := 0, base := 0, offset := 0, arrive := [], ctrOps := [], loops := [], windows := [],
    lastIssue := none, late := 0, lastPhaseJoint := false, ended := false, hold := none, fault := 0,
    classes := LateClasses.zero, jointAt := none, arrived := none, earlyTo := 0, blist := none, remoteSince := none,
    since := 0, waitFrom := none }

/-- Cells that run no layer. -/
def CellUnit.idle : CellUnit :=
  { layer := none, layerSeq := 0, gated := false, busyUntil := 0, nextBuf := 0, bufs := [], inflight := [], pairs := [],
    makeupSpent := [], decoded := [], zeroing := none, running := [], poisonDue := false, refusable := 0,
    viewBalance := 0, viewSlip := 0, overBusy := none }

/-- An abutment without contexts. -/
def Abutment.idle : Abutment := { ctxs := [], busyUntil := 0, writtenAt := 0, nlt := [], nltAt := [], hist := [], kvAcks := [], works := [], checkUntil := 0, overBusy := none }

/-- A trace buffer that is not armed: SPN_TRACE_CTRL at its reset value, TYPES 0x7F. -/
def Trace.idle : Trace :=
  { ctrl := 0x1FC00000, records := [], kept := false, triggered := false, frozen := false, postLeft := none, seqNo := 0, lostSince := 0,
    lostFirst := 0, lostLast := 0, firstTime := 0, lastTime := 0 }

/-- A span after reset. -/
def Span.idle : Span :=
  { seq := Sequencer.idle, deck := [], poison := [], flitPoison := [], puts := [], conflict := false, lines := [], cells := CellUnit.idle, abt := Abutment.idle,
    archBusyUntil := 0, archDoneAt := 0, archWaited := false, att := none, streams := [], queues := [], bankAt := [], scatAt := 0, applied := [], preload := [], trace := Trace.idle, counters := [],
    rho := 256, attCycles := 0, attPlan := 0, strikes := [] }

end Sys2Proof.Machine
end

