-- ==== Sys2Proof/Machine/BoardState.lean ====
section
/-! DEFINITION. The state of observation, the root of trust, the sideband, power control, the start sequence, fuses,
flash and pins (chapters 17 to 20), and what leaves the module, as plain data. -/

namespace Sys2Proof.Machine
open Sys2Proof

/-! ### Observation (chapter 17) -/

/-- The counters as they stood before the events of the current cycle (R545): device counters, and those of each physical span. -/
structure CycStart where
  dev : List (Nat × Counter)
  spans : List (Nat × List (Nat × Counter))
deriving DecidableEq, Repr

/-- A set of sample registers (R547, R548), with the time of the sample. -/
structure SampleRegs where
  addr : BitVec 32
  value : BitVec 32
  flags : BitVec 32
  time : BitVec 32
  taken : Option Nat
deriving DecidableEq, Repr

/-- Sample registers after reset. -/
def SampleRegs.zero : SampleRegs := { addr := 0, value := 0, flags := 0, time := 0, taken := none }

/-- A partition window (R550, R551): its 16 counters by index, the contributions that wait for the next switch (by
index, in events or bytes), and a close that is pending. -/
structure PWindow where
  counters : List (Nat × Counter)
  tickWork : List (Nat × Nat)          -- of the run in progress, discarded when it breaks
  other : List (Nat × Nat)
  closing : Bool
  closes : BitVec 16
deriving DecidableEq, Repr

/-- A window that has counted nothing. -/
def PWindow.zero : PWindow := { counters := [], tickWork := [], other := [], closing := false, closes := 0 }

/-- Observation (Tables 17.1 to 17.12). Registers that software writes are held with the other registers. -/
structure Obs where
  closeSeq : BitVec 16
  gauges : List (Nat × Nat)            -- REQ_IN_STATE as of the last keystone, by state (R459)
  kvGauges : List (Nat × Nat)          -- the KV gauges as of the last cut or keystone (R173)
  samples : List (Nat × SampleRegs)    -- of the PF of port 0 to 3, and 4 of the sideband
  vfSamples : List (Nat × SampleRegs)  -- by 256 × port + VF
  windows : List (Nat × PWindow)       -- by partition, 256 the pseudo-partition
  trigger : Option (Nat × Nat)         -- time of firing and cause, until the trigger point
  tail : BitVec 32                     -- OBS_TRACE_TAIL
  nextSpan : Nat                       -- whose turn it is in the drain
  snapBusy : Bool
  snapData : List Byte                 -- the snapshot captured and not yet written
  snapDropped : BitVec 8
  snapCount : BitVec 8
  snapNo : Nat
  setAt : List (Nat × Nat)             -- when the device last set a field that a write of 1 clears (R11), by 64 × offset + bit
deriving DecidableEq, Repr

/-- Observation after reset. -/
def Obs.zero : Obs :=
  { closeSeq := 0, gauges := [], kvGauges := [], samples := [], vfSamples := [], windows := [], trigger := none, tail := 0, nextSpan := 0,
    snapBusy := false, snapData := [], snapDropped := 0, snapCount := 0, snapNo := 0, setAt := [] }

/-! ### Root of trust (chapter 19) -/

/-- A key pair: its identifier and its two public keys (R586, R589). -/
structure KeyPair where
  id : BitVec 32
  ecdsa : List Byte
  hss : List Byte
deriving DecidableEq, Repr

/-- A firmware image as the root of trust knows it (R587, R591, R592): its digest, its security version, whether its
signature block and its manifest verify, the root pair that signed the manifest, and the keys the manifest lists. -/
structure Firmware where
  digest : BitVec 384
  svn : Nat
  sound : Bool
  rootPair : Nat
  keys : List KeyPair
deriving DecidableEq, Repr

/-- The root of trust's volatile state. -/
structure Sec where
  isOpen : Bool                        -- the module is unsealed
  debugUsed : Bool
  busyUntil : Option Nat               -- a quote is being written
  done : Bool
  result : Nat
  root : Nat                           -- SEC_CTRL.ROOT
  meas : List (Nat × BitVec 384)       -- M0 to M5
  log : List (Nat × BitVec 384)        -- the last 4,096 extensions, newest first
  logCount : Nat
  challenge : BitVec 384
  lmsNext : Nat                        -- next index of the block in use
  lmsTop : Option Nat                  -- end of the block reserved since the start
  dbgResult : Nat
  dbgData : List Byte
deriving DecidableEq, Repr

/-- The module's flash, beside the fence list, the fault log and the repair log of their own units. -/
structure Flash where
  firmware : Firmware
  pins : List (Nat × BitVec 384 × Nat × Bool)  -- the pinned list of R443: MODEL_ID, digest, slab units, mirror
  operators : List KeyPair
  unsealCount : BitVec 32
  reservedTopA : Nat
  reservedTopB : Nat
  certs : List Byte
  viaProfile : Option (List (Nat × BitVec 32))  -- the viaduct profile: VIA register offsets and values
  viaClaims : List Nat                 -- claimed numbers named in the profile
deriving DecidableEq, Repr

/-- The fuses (R5, R530, R587, R592). -/
structure Fuses where
  stepLetter : BitVec 4
  stepNumber : BitVec 4
  grade : BitVec 2
  fusedOff : List Nat
  spares : List Nat
  revoked : BitVec 4
  minSvn : Nat
deriving DecidableEq, Repr

/-! ### Sideband (chapter 20) -/

/-- A sideband stream in progress (R613, R614): the command, the stream's length, the bytes so far or to send, the next
offset, and when it last moved. -/
structure SbStream where
  code : Nat
  total : Nat
  next : Nat
  data : List Byte
  last : Nat
deriving DecidableEq, Repr

/-- The sideband. -/
structure Sideband where
  stream : Option SbStream
  firmware : Option Firmware           -- a verified image whose write is in progress
  abandoned : Option Nat               -- the command whose stream was abandoned last under R613, none stream begun since
deriving DecidableEq, Repr

/-! ### Power (chapter 20) -/

/-- The power manager. -/
structure Power where
  n : Nat                              -- clock multiplier in force
  forcedN : Option Nat                 -- a forced step that waits for the end of publish (R627)
  forPower : Bool                      -- N is below 42 for power (R621)
  capW : Nat                           -- PWR_CAP as it is in force
  brakeW : Nat
  brake : Bool
  hard : Bool
  lastForced : Option Nat
  lowSince : Option Nat                -- since when the 1 ms average has stayed below 0.95 × cap
  tickW : Nat                          -- sum and number of the samples of the tick since its cut
  tickN : Nat
  throttled : Bool                     -- a stack has been above level 0 in the tick
  mainW : Nat
  mainV : Nat
  stbyW : Nat
  dieMax : Nat
  dieSensor : Nat
  stackMax : Nat
  stackId : Nat
  stbyOver : Nat                       -- consecutive ms with standby input above 25 W
  msAt : Nat                           -- up to when the ms counters have counted
  tripped : Bool                       -- THERM_TRIP_N is low
  barred : Bool                        -- no main power until R630's condition is met
  enLowAt : Option Nat                 -- since when PWR_EN has been low
deriving DecidableEq, Repr

/-- The power manager below READY: N = 42. -/
def Power.cold : Power :=
  { n := 42, forcedN := none, forPower := false, capW := 0, brakeW := 800, brake := false, hard := false,
    lastForced := none, lowSince := none, tickW := 0, tickN := 0, throttled := false, mainW := 0,
    mainV := 0, stbyW := 0, dieMax := 0, dieSensor := 0, stackMax := 0, stackId := 0, stbyOver := 0, msAt := 0,
    tripped := false, barred := false, enLowAt := none }

/-! ### Start sequence (chapter 18) -/

/-- The start states of Table 18.1. -/
inductive BootState where
  | standby
  | powerOn
  | pierBoot
  | memTrain
  | selftest
  | hostEnable
  | ready
  | inReset
  | halted
deriving DecidableEq, Repr

/-- The code of a start state (Table 18.1). -/
def BootState.code : BootState → Nat
  | .standby => 0
  | .powerOn => 1
  | .pierBoot => 2
  | .memTrain => 3
  | .selftest => 4
  | .hostEnable => 5
  | .ready => 6
  | .inReset => 7
  | .halted => 8

/-- A warm or a cold reset (Table 18.2). -/
inductive ResetKind where
  | warm
  | cold
deriving DecidableEq, Repr

/-- The start sequence (R563 to R578). -/
structure Boot where
  state : BootState
  lastReset : Nat
  deferred : Option ResetKind          -- a reset request that waits
  kind : ResetKind                     -- of the start in progress, or of the last one
  haltCause : Nat
  bootMs : Nat
  startedAt : Nat                      -- start of POWER_ON
  standby : Bool                       -- standby power within its limits
  pwrEn : Bool
  mainGood : Bool
  mainPg : Bool
  coolStrap : Nat
  portMode : Nat
  nextCause : Nat                      -- LAST_RESET of the next main power good
  newLost : List Nat                   -- stacks that failed training at this start
  stResult : Nat                       -- DEV_SELFTEST, as the last SELFTEST left it
  stTrestle : Nat
  stTested : Nat
  stFenced : Nat
  stLost : Nat
  keptVia : Option (List (Nat × BitVec 32))  -- viaduct registers kept over a warm reset (R576)
  lostClaims : List Nat                -- claims to release once assigned (R576)
  outageFrom : Option Nat              -- since when the module has been out of service, when it counts (R519, R580)
  limitMs : Nat                        -- the part of an outage that does not count
deriving DecidableEq, Repr

/-! ### The span map (chapter 01) -/

/-- STATE of DEV_SPAN_MAP (R22). -/
inductive SpanStatus where
  | active
  | spare
  | fenced
  | fusedOff
deriving DecidableEq, Repr

/-- The code of a span's state (Table 1.1). -/
def SpanStatus.code : SpanStatus → Nat
  | .active => 0
  | .spare => 1
  | .fenced => 2
  | .fusedOff => 15

/-- A physical span in the map. -/
structure MapEntry where
  status : SpanStatus
  logical : Option Nat
deriving DecidableEq, Repr

/-! ### What leaves the module -/

/-- What the module sends: a DMA write into host memory, an MSI-X message, a BAR4 read's data, a packet or a training
frame on a Cefin port, and a sideband response (command, tag, status, payload). -/
inductive Out where
  | dma (port : Nat) (addr : Nat) (bytes : List Byte)
  | msix (port : Nat) (vf : Option Nat) (vector : Nat)
  | data (port : Nat) (bytes : List Byte)
  | packet (port : Nat) (type : BitVec 8) (p : Pkt)
  | frame (port lane : Nat) (f : TrainFrame)
  | sideband (code : Nat) (tag : Byte) (status : Nat) (payload : List Byte)
deriving DecidableEq, Repr

/-- The host port that something goes to. -/
def Out.host? : Out → Option Nat
  | .dma p _ _ => some p
  | .msix p _ _ => some p
  | _ => none

/-- A write or a message of a publish in progress, with the partition whose it is; a marker is no partition's. -/
structure PubItem where
  part : Option Nat
  out : Out
deriving DecidableEq, Repr

/-- A publish in progress (R244 to R247): when it ends, what TICK_STATUS reads until then, and what it sends. -/
structure Publish where
  endAt : Nat
  status : Nat
  items : List PubItem
deriving DecidableEq, Repr

end Sys2Proof.Machine
end

