-- ==== Sys2Proof/Machine/HostState.lean ====
section
/-! DEFINITION. The state of the tollgates, the request table, the job list, the hot set, the key-value store and the
running tick (chapters 05, 08, 12, 13), as plain data. -/

namespace Sys2Proof.Machine
open Sys2Proof

/-! ### Tollgates (chapter 12) -/

/-- A host port (R407, R410). Registers that software writes are held with the other registers. -/
structure Port where
  linkUp : Bool
  inReset : Bool
  vfs : Nat
  mark : BitVec 32                     -- MARK of R400
deriving DecidableEq, Repr

/-- A port in reset. -/
def Port.down : Port := { linkUp := false, inReset := true, vfs := 0, mark := 0 }

/-- An event log of a partition on a port (R397, R398). -/
structure EventLog where
  addr : Nat
  log2 : Nat
  vector : Nat
  vf : Option Nat                      -- the issuing function: none for the PF
  written : Nat                        -- records written, which gives slot and PHASE
  free : Nat
  reserved : Nat
  lost : Nat
  window : Option Nat                  -- end of the open message window (R406)
deriving DecidableEq, Repr

/-- What a handle in flight names (R388). -/
inductive HandleKind where
  | request                            -- SUBMIT or HANDIN
  | cancel (target : Nat)
  | query
  | logSetup
  | jobStart (job : Nat)
  | jobCtrl (job : Nat)
  | variant
  | handover (target : Nat)
  | landing
deriving DecidableEq, Repr

/-- A handle in flight: its partition, its port and what it names. -/
structure HandleInfo where
  partition : Nat
  port : Nat
  kind : HandleKind
  reserve : Nat                        -- event-log records still reserved
  stamp : Nat
  gone : Nat                           -- its port has been reset (R407): 1 until the next cut, 2 until the keystone after it
deriving DecidableEq, Repr

/-- A command that waits for a cut (R228). -/
inductive CutCommand where
  | cancel (target : Nat)
  | handover (target dest : Nat) (ticket : BitVec 64)
deriving DecidableEq, Repr

/-- A command taken in and waiting, with its stamp and handle. -/
structure Waiting where
  stamp : Nat
  handle : Nat
  cmd : CutCommand
deriving DecidableEq, Repr

/-- An event record (Table 12.7) before its slot, PHASE and MARK are set. -/
structure EventRec where
  type : Nat
  status : Nat
  handle : Nat
  arg0 : Nat
  arg1 : Nat
  arg2 : Nat
deriving DecidableEq, Repr

/-- An event record that waits for a keystone: the log it goes to and the batch slot that orders it. -/
structure KeyRec where
  port : Nat
  partition : Nat
  ev : EventRec
deriving DecidableEq, Repr

/-! ### Requests (Table 13.1) -/

/-- The states of Table 13.2; GONE has no entry. -/
inductive ReqState where
  | fetching
  | waitModel
  | queued
  | prefill
  | decode
  | footbridge
  | sittingOut
  | handingOver
  | waitHandin
deriving DecidableEq, Repr

/-- The code of a request state (Table 13.2). -/
def ReqState.code : ReqState → Nat
  | .fetching => 1
  | .waitModel => 2
  | .queued => 3
  | .prefill => 4
  | .decode => 5
  | .footbridge => 6
  | .sittingOut => 7
  | .handingOver => 8
  | .waitHandin => 9

/-- The quality counts of Table 6.2. -/
structure Quality where
  lostRows : Nat
  droppedRoutes : Nat
  lostEntries : Nat
  widenRefused : Bool
deriving DecidableEq, Repr

/-- No quality loss. -/
def Quality.zero : Quality := { lostRows := 0, droppedRoutes := 0, lostEntries := 0, widenRefused := false }

/-- The sampler settings (Table 7.2). -/
structure Sampler where
  temp : BitVec 16
  topK : Nat
  topP : Nat
  minP : BitVec 16
  seed : BitVec 64
deriving DecidableEq, Repr

/-- The stop settings and states of a request (R213, R215). -/
structure StopState where
  ids : List Nat
  strings : List (List Byte)
  states : List Nat
deriving DecidableEq, Repr

/-- How a request ends: the reason and ARG1 of Table 12.9. -/
structure Ending where
  reason : Nat
  arg1 : Nat
deriving DecidableEq, Repr

/-- Where a hand-over stands at its source (R170, R171). -/
inductive HoStep where
  | none
  | offered
  | sending
  | committed
  | acked
deriving DecidableEq, Repr

/-- A hand-over of a request: the HANDOVER's handle, the destination and the destination's landing. -/
structure HoInfo where
  handle : Nat
  dest : Nat
  ticket : BitVec 64
  step : HoStep
  landing : Nat
  pages : Nat
  acked : Nat                          -- WACKs received
  hoId : Nat
  expiry : Nat                         -- keystones left until the destination's landing expires
  since : Nat                          -- when the count of 10 ms began, while no SERVE job runs ticks
deriving DecidableEq, Repr

/-- A request-table entry (Table 13.1). -/
structure Request where
  state : ReqState
  left : ReqState                      -- the state a sitting-out request left
  port : Nat
  partition : Nat
  modelId : Nat
  variant : Option Nat
  priority : Nat
  deadline : Option Nat
  dlPolicy : Nat
  dlActed : Bool
  promptLen : Nat
  shareLen : Nat
  committed : Nat
  fbLen : Nat
  pending : Option Nat
  generated : Nat
  maxTokens : Nat
  ptBase : Nat
  ptRows : Nat                         -- rows of the page table; 0 when none is allocated
  pageLog2 : Nat
  sampler : Sampler
  seedGiven : Bool
  stop : StopState
  quality : Quality                    -- running totals
  since : Quality                      -- since the last token record (R197)
  footbridge : Bool
  lateSeen : Bool
  fixedSeen : Bool
  satOut : Bool
  handin : Bool
  streamAddr : Nat
  streamBase : Nat                     -- generated count at stream slot 0
  streamLen : Nat                      -- token records of a HANDIN's stream buffer
  stamp : Nat
  prompt : List Nat                    -- prompt token IDs once fetched
  hasExt : Bool                        -- EXT_ADDR is not 0
  checked : Bool                       -- the BAD_TOKEN check has run
  accepted : Bool                      -- ACCEPTED has been written
  matched : Nat                        -- prefix length matched under R164
  inserted : Bool                      -- the insertion of R165 has been made
  ending : Option Ending               -- it ends at the next keystone
  ho : Option HoInfo
  waitEnd : Nat                        -- end of WAIT_MS of a HANDIN
  ticket : BitVec 64
  inBatch : Bool                       -- in the batch of the last committed tick of its job
  seen : Nat × Nat                     -- committed length and generated tokens as of the last keystone
  seenState : Nat                      -- state code as of the last keystone
  slotNo : Nat                         -- batch slot of the last tick that held it
  dropped : Bool                       -- its port has been reset: it goes at the next cut, without a record
deriving DecidableEq, Repr

/-! ### Jobs and the hot set (chapter 13) -/

/-- The states of Table 13.6. -/
inductive JobState where
  | listed
  | loading
  | running
  | paused
  | held
  | draining
  | ended
deriving DecidableEq, Repr

/-- The code of a job state (Table 13.6). -/
def JobState.code : JobState → Nat
  | .listed => 0
  | .loading => 1
  | .running => 2
  | .paused => 3
  | .held => 4
  | .draining => 5
  | .ended => 6

/-- A job of the job list (R430 to R434). -/
structure Job where
  state : JobState
  handle : Nat                         -- of its JOB_START
  answered : Bool                      -- the JOB_START has its ANSWER
  port : Nat
  partition : Nat
  mgmt : Bool                          -- started through the management role
  type : JobType
  fixed : Bool
  fidelity : Bool
  digest : BitVec 384                  -- of its bitstream
  src : Nat
  srcLen : Nat
  params : BitVec 2048
  startedAt : Nat                      -- time of its JOB_START
  lastRun : Nat                        -- when it last started to run
  ran : Bool                           -- it has been RUNNING before
  counted : List Nat                   -- partitions counted under R439
  preempts : List Nat                  -- handles of pending pre-empts
  toHeld : Bool                        -- it leaves for HELD
  endHandles : List Nat                -- handles of JOB_CTRL ends
  ending : Option Nat                  -- it ends with this outcome at its next pause point
  tick : Nat                           -- TICK_NUMBER of its next tick
  committedTicks : Nat
  remoteWait : Bool                    -- paused as REMOTE_WAIT, its tick to be replayed
  basic : Nat                          -- basic-service cause, 0 = not in basic service (R514)
  basicTicks : Nat
  basicAgain : Bool                    -- basic service for cause 2 has been left once (R516)
  fw : Bool                            -- the plan that it last ran was a falsework plan (R218)
  idleSince : Option Nat
  sealed : Nat                         -- extents sealed of an INGEST
  steps : Nat                          -- descent steps done of a TUNE
  verified : Bool                      -- INGEST: the pack passed its check
  entry : Option Nat                   -- hot-set entry of its model
  fbEntry : Option Nat
  jobBase : Nat                        -- in-stack base of its job area; 0 when it holds none
  jobUnits : Nat                       -- units of 64 MiB per stack of its job area
  stripe : List Nat                    -- stack list of its striped allocations
  scrubUs : Nat
  outcome : Nat
deriving DecidableEq, Repr

/-- Hot-set entry states (Table 13.8). -/
inductive HotState where
  | empty
  | reserved
  | installing
  | interrupted
  | ready
  | retiring
deriving DecidableEq, Repr

/-- The code of a hot-set entry state. -/
def HotState.code : HotState → Nat
  | .empty => 0
  | .reserved => 1
  | .installing => 2
  | .interrupted => 3
  | .ready => 4
  | .retiring => 5

/-- A journal record of a sealed extent (R448). -/
structure SealRec where
  index : Nat
  digest : BitVec 384
deriving DecidableEq, Repr

/-- A model's vocabulary as a weight pack holds it (R214): the 32-bit entry of each token, and the byte pool. -/
structure Vocab where
  table : List (BitVec 32)
  pool : List Byte
deriving DecidableEq, Repr

/-- No vocabulary. -/
def Vocab.none : Vocab := { table := [], pool := [] }

/-- The vocabulary size V (R209). -/
def Vocab.size (v : Vocab) : Nat := v.table.length

/-- The bytes of a token (R214): bits [31:26] of its entry give the length, bits [25:0] the offset in the pool. -/
def Vocab.bytes (v : Vocab) (k : Nat) : List Byte :=
  let e := v.table.getD k 0#32
  (v.pool.drop (e.extractLsb' 0 26).toNat).take (e.extractLsb' 26 6).toNat

/-- A hot-set directory entry (R440). -/
structure HotEntry where
  state : HotState
  modelId : Nat
  digest : BitVec 384
  layoutDigest : BitVec 384
  pinned : Bool
  mirrored : Bool
  viaMirror : Bool
  footbridge : Bool
  copyA : BitVec 32
  baseUnit : Nat                       -- in-stack base of the slab, in units of the POOL
  slabUnits : Nat
  mirrorUnit : Nat
  storeUnit : Nat
  storeUnits : Nat
  varSlots : Nat
  owners : List (Nat × Nat)            -- owning partition of each slot that is not free
  layers : Nat
  sealed : List SealRec
  lastUse : Nat
  vocab : Vocab
  extents : List (Nat × Nat)           -- entry address and granules of each extent, in record order
deriving DecidableEq, Repr

/-- An empty directory entry. -/
def HotEntry.empty : HotEntry :=
  { state := .empty, modelId := 0, digest := 0, layoutDigest := 0, pinned := false, mirrored := false,
    viaMirror := false, footbridge := false, copyA := 0, baseUnit := 0, slabUnits := 0, mirrorUnit := 0, storeUnit := 0,
    storeUnits := 0, varSlots := 0, owners := [], layers := 0, sealed := [], lastUse := 0, vocab := Vocab.none, extents := [] }

/-- An element of the pinned list in flash (R443). -/
structure Pin where
  modelId : Nat
  digest : BitVec 384
  slabUnits : Nat
  mirror : Bool
deriving DecidableEq, Repr

/-- A plan-cache entry (R332): the bitstream and when it was last started. -/
structure CacheEntry where
  digest : BitVec 384
  slot : Nat                           -- its place of 256 MiB among the 16 of PLAN_CACHE
  bits : Bitstream
  lastStart : Nat
deriving DecidableEq, Repr

/-- A bitstream load in progress (R331): the job, the step, and the binding made at step 4. -/
structure Load where
  job : Nat
  step : Nat
  cached : Bool
  basic : Bool
  binding : List (Nat × Nat)           -- logical to physical
deriving DecidableEq, Repr

/-- A staged VARIANT install (R452). -/
structure Staged where
  handle : Nat
  entry : Nat
  slot : Nat
deriving DecidableEq, Repr

/-- The TUNE job's working records, one per layer, and the example position (R453). -/
structure Tune where
  records : List (List Byte)
  next : Nat
deriving DecidableEq, Repr

/-! ### Key-value store (chapter 05) -/

/-- A frame pool (R148): its class, its size in units, and the frames allocated as (frame, order). -/
structure Pool where
  units : Nat
  unitBytes : Nat
  base : Nat                           -- job-area byte offset
  used : List (Nat × Nat)
deriving DecidableEq, Repr

/-- A frame set (R151): the frames of one page across all cache layers, with its reference count. -/
structure FrameSet where
  refs : Nat
  order : Nat
  frames : List Nat                    -- by cache layer
deriving DecidableEq, Repr

/-- The root key of a prefix tree (R162). -/
structure RootKey where
  entry : Nat
  variant : Option Nat
  pageLog2 : Nat
  partition : Nat
  fixed : Bool
deriving DecidableEq, Repr

/-- A node of a prefix tree (R163): a block of 16 tokens under a parent (0 = the root). -/
structure TreeNode where
  root : RootKey
  parent : Nat
  depth : Nat
  tokens : List Nat
  fset : Option Nat
  lastUse : Nat
deriving DecidableEq, Repr

/-- The key-value store of the running job. -/
structure KvStore where
  pools : List (Nat × Pool)            -- by class
  fsets : List (Nat × FrameSet)
  nodes : List (Nat × TreeNode)
  nextId : Nat
  ptUsed : List (Nat × Nat)            -- page tables allocated: offset, bytes
  ptBase : Nat
  orphans : List (Nat × Nat)           -- page tables (base, rows) whose frames go at the next keystone
deriving DecidableEq, Repr

/-- No key-value store. -/
def KvStore.none : KvStore :=
  { pools := [], fsets := [], nodes := [], nextId := 1, ptUsed := [], ptBase := 0, orphans := [] }

/-! ### The running tick (chapter 08) -/

/-- What one sequence of the batch does in the tick, and what the tick made of it. -/
structure Slot where
  handle : Nat
  sits : Bool                          -- sits out under R154
  pre : Nat                            -- prefill: first position and length of the chunk
  preLen : Nat
  drafts : Nat                         -- k of R422
  fbSteps : Nat                        -- footbridge steps of R423
  positions : List Nat                 -- query positions of the sequence in the main model's layers, ascending
  fbPositions : List Nat               -- query positions in the footbridge's layers, ascending
  draftTokens : List Nat
  mainTokens : List Nat
  tokens : List Nat                    -- tokens committed at the keystone
  stopped : Option Ending
  stopStates : List Nat
  quality : Quality
  done : Bool                          -- stop detection has run
deriving DecidableEq, Repr

/-- What a member reports when it arrives (R237). -/
structure Arrival where
  joint : Nat
  cyc : Nat
  classes : List Nat                   -- MEM, WIDTH, MAKEUP, ROUTE, SCAT, STALL, OTHER
deriving DecidableEq, Repr

/-- The attention assignment of a tick: for each (descriptor, head, batch slot) moved away from its static span, the
logical span it moves to (R195). -/
structure Move where
  desc : Nat
  head : Nat
  slot : Nat
  span : Nat
deriving DecidableEq, Repr

/-- Why a tick is broken (Table 8.7). -/
inductive BreakCause where
  | span
  | poison
  | trestle
  | remoteWait
  | lockstep
  | powerOrReset
deriving DecidableEq, Repr

end Sys2Proof.Machine
end

