-- ==== Sys2Proof/Machine/MemState.lean ====
section
/-! DEFINITION. The state of device memory and the stacks (chapter 11), as plain data. -/

namespace Sys2Proof.Machine
open Sys2Proof

/-- STATE of Table 11.6. -/
inductive StackState where
  | active
  | degraded
  | lost
  | untrained
deriving DecidableEq, Repr

/-- The code of a stack state. -/
def StackState.code : StackState → Nat
  | .active => 0
  | .degraded => 1
  | .lost => 2
  | .untrained => 3

/-- A stack (R363, R371). -/
structure Stack where
  state : StackState
  level : Nat                          -- throttle level
  temp : Nat
  trainTemp : Nat
  shortCuts : Nat                      -- ticks in a row with a steering interval below 50 µs (R359)
deriving DecidableEq, Repr

/-- A stack before training. -/
def Stack.cold : Stack := { state := .untrained, level := 0, temp := 0, trainTemp := 0, shortCuts := 0 }

/-- A lane group (R358, R359, R376): erased pins, the steered pin, whether the spare is spent, corrections by pin. -/
structure LaneGroup where
  eraseA : Option Nat
  eraseB : Option Nat
  steered : Option Nat
  spareSpent : Bool
  hard : Bool
  failed : Bool
  window : List (Nat × Nat)            -- corrections by pin in the window of 1 s
deriving DecidableEq, Repr

/-- A lane group with nothing erased. -/
def LaneGroup.clean : LaneGroup :=
  { eraseA := none, eraseB := none, steered := none, spareSpent := false, hard := false, failed := false, window := [] }

/-- A soft or hard row repair: stack, bank, row, and whether it is fused (R360, R361). -/
structure RowRepair where
  stack : Nat
  bank : Nat
  row : Nat
  hard : Bool
deriving DecidableEq, Repr

/-- A repair step in progress (R361, R362, R373): the action, its place and when it ends. -/
structure RepairStep where
  action : Nat
  stack : Nat
  lg : Nat
  pin : Nat
deriving DecidableEq, Repr

/-- What a landing lies on: KIND of Table 14.3. -/
inductive LandKind where
  | memory
  | entry
  | handover
  | deck
deriving DecidableEq, Repr

/-- An open landing (R368, R409, R471), held by its LID. -/
structure Landing where
  kind : LandKind
  base : Nat                           -- device offset, entry, receiving request, or logical span
  first : Nat                          -- deck store: first granule; entry: first extent record of the install
  len : Nat                            -- bytes; entry: extent records
  read : Bool
  write : Bool
  host : Bool
  port : Nat
  partition : Option Nat               -- none: the pier
  bar4 : Nat                           -- BAR4 offset of a landing with the host right
  expiry : Option Nat                  -- keystones left until it closes (R473)
  since : Nat                          -- when the count of 10 ms began, while no SERVE job runs ticks
  wrote : Nat                          -- granules landed
deriving DecidableEq, Repr

/-- Device memory and its controllers. -/
structure DevMem where
  bytes : List Host.Cell               -- by 40-bit device offset
  poison : List Nat                    -- granules (device offset ÷ 32) of the poison lists (R360)
  wrong : List (Nat × List (Nat × BitVec 16))  -- symbols that read wrong, by granule and pin, and by how much (R353)
  stk : List (Nat × Stack)
  lgs : List (Nat × LaneGroup)         -- by 32 × stack + lane group
  rows : List RowRepair
  repairLog : List (Nat × LaneGroup)   -- soft repairs in flash (R362)
  rowLog : List RowRepair
  rateCap : Nat
  repair : Option RepairStep           -- a step in progress
  status : BitVec 32                   -- MEM_REPAIR_STATUS without BUSY
  alloc : BitVec 32                    -- MEM_ALLOC as of the last allocation (R375)
deriving DecidableEq, Repr

/-- Device memory before training. -/
def DevMem.cold : DevMem :=
  { bytes := [], poison := [], wrong := [], stk := [], lgs := [], rows := [], repairLog := [], rowLog := [], rateCap := 64,
    repair := none, status := 0, alloc := 0 }

end Sys2Proof.Machine
end

