-- ==== Sys2Proof/Machine/TickState.lean ====
section
/-! DEFINITION. The state of the running step tick, its ledger and its governor (chapter 08), and of the trestle unit
(chapter 07), as plain data. -/

namespace Sys2Proof.Machine
open Sys2Proof

/-- One committed tick as the governor remembers it (R242). -/
structure GovTick where
  overran : Bool
  slipped : Bool
  refused : Bool
  quiet : Bool                         -- H_end ≤ INIT ÷ 4
  capped : Bool                        -- a cap or a throttling was reported
deriving DecidableEq, Repr

/-- The tick of the running job (R224 to R250). Times are device time in ns, cycles count from the start of the run. -/
structure Tick where
  active : Bool                        -- a run of a tick is in progress
  plan : Nat                           -- the plan of Table 10.3 in use
  start : Nat                          -- C_t of the run
  n : Nat                              -- the clock multiplier N of the run
  period : Nat                         -- PERIOD_t in µs
  phase : Nat                          -- 1 to 5; 0 when no tick runs
  replay : Bool
  runs : Nat                           -- broken runs of this tick in a row
  sealed : Bool
  lastJoint : Nat
  nextJoint : Nat                      -- the first joint not released
  released : List Nat                  -- joints after it that are released
  init : Int                           -- INIT of R234
  h : Nat                              -- H of R235
  viewBalance : Int
  viewSlip : Int                       -- the trestle unit's view of R236, with the balance above; spans hold their own
  arrivals : List (Nat × Arrival)      -- by member: logical span, 128 = trestle unit, 129 = pier
  trsOffset : Nat
  slots : List Slot
  moves : List Move
  balWord : BitVec 32                  -- JOB_BAL_STATE as of the last admission cut (R199)
  broken : Option BreakCause
  keyRecs : List KeyRec                -- event records for the keystone
  overran : Bool                       -- the cut was delayed to E_t
  refused : Bool                       -- a refusable cost was refused in the run
  capped : Bool
  landings : List Nat                  -- landings the tick opened
  sums : List (Nat × Nat)              -- the 64-bit sums of R536, by (phase × 4096 + descriptor) × 256 + span code
  missed : Nat                         -- cut instants missed while a replay is pending (R506)
  writesOpen : Nat                     -- writes of the tick not acknowledged
  against : Option BreakCause          -- a cause found after a seal, taken against the next tick (R244)
  cyc0 : Nat                           -- a cycle of the run and its time, from which later cycles count (R238)
  t0 : Nat
  initLoss : Nat                       -- cycles that a forced clock step takes from INIT at the next release (R238)
  pause : Nat                          -- PAUSE of TICK_STATUS while no job runs
  widenRef : Nat                       -- widenings refused in the run, over all spans (R261)
deriving DecidableEq, Repr

/-- The governor and the schedule of the next cut (R226, R241, R242). -/
structure Governor where
  period : Nat
  history : List GovTick               -- newest first
  sinceRaise : Nat                     -- committed ticks since the last raise, at least 64 when there was none
  nextCut : Option Nat
  lastTick : BitVec 32                 -- TICK_LAST
  lastSeal : Option Nat                -- device time base of the last seal (R533)
  heldFrom : Option Nat                -- since when the job holds requests in batch states without a keystone (R519)
deriving DecidableEq, Repr

/-- No tick running. -/
def Tick.idle : Tick :=
  { active := false, plan := 0, start := 0, n := 42, period := 0, phase := 0, replay := false, runs := 0, sealed := false,
    lastJoint := 0, nextJoint := 0, released := [], init := 0, h := 0, viewBalance := 0, viewSlip := 0, arrivals := [], trsOffset := 0,
    slots := [], moves := [], balWord := 0x40000000, broken := none, keyRecs := [], overran := false,
    refused := false, capped := false, landings := [], sums := [], missed := 0, writesOpen := 0,
    against := none, cyc0 := 0, t0 := 0, initLoss := 0, pause := 0, widenRef := 0 }

/-- What stays when a job leaves the spans: the period of the last cut, the ledger and the last joint (R258, R259). -/
def Tick.left (x : Tick) : Tick := { Tick.idle with period := x.period, init := x.init, h := x.h, lastJoint := x.lastJoint }

/-- A governor without a job: a raise that was never made lies as far back as the longest window. -/
def Governor.idle : Governor := { period := 0, history := [], sinceRaise := 64, nextCut := none, lastTick := 0, lastSeal := none,
                                   heldFrom := none }

/-- STATE of Table 7.5. -/
inductive TrsState where
  | untested
  | inService
  | suspect
  | fenced
deriving DecidableEq, Repr

/-- A grant of a route (R186). -/
structure Grant where
  slot : Nat
  rank : Nat
  expert : Nat
  g : BitVec 16
deriving DecidableEq, Repr

/-- A trestle input record on its way from a span's abutment: when it lands, where, and the counts of records landed that it
raises. -/
structure TrsPut where
  cyc : Nat
  key : Nat
  value : BitVec 512
  source : Nat
  whole : Nat                          -- the records that the whole list of this span's layer makes
deriving DecidableEq, Repr

/-- A lane (R200, R201): its 40-bit accumulator and the modulo-3 residue that additions alone form. -/
structure TrsLane where
  acc : BitVec 40
  residue : Nat
deriving DecidableEq, Repr

/-- A lane that has added nothing. -/
def TrsLane.zero : TrsLane := { acc := 0, residue := 0 }

/-- The trestle unit (R200, R219, R221). `store` is the 8 MiB trestle store: input record `n` of a run lies in granules 2 n and
2 n + 1 (log entry 46), and `places` gives the number of a record. -/
structure TrestleUnit where
  state : TrsState
  cause : Nat
  suspects : Nat
  retesting : Bool
  store : List (Nat × BitVec 256)      -- by granule, where not zero
  places : List (Nat × Nat)            -- trestle input records of the run, by (descriptor, slot, place, block)
  landedFrom : List (Nat × Nat)        -- (descriptor × 128 + logical span, records landed)
  wholeFrom : List (Nat × Nat)         -- the records that make the whole of it, once one has landed
  lanes : List (Nat × TrsLane)         -- the 4,096 lanes, where they have added
  late : List TrsPut                   -- records that have not landed
  nextRec : Nat                        -- the next record of the phase
  readyAt : Nat                        -- the cycle at which the record before it ends
  outputs : List (Nat × List Int)      -- integer sums of a trestle layer, by (descriptor, slot)
  grants : List (Nat × List Grant)     -- by descriptor
deriving DecidableEq, Repr

/-- The trestle unit at cold reset. -/
def TrestleUnit.cold : TrestleUnit :=
  { state := .untested, cause := 1, suspects := 0, retesting := false, store := [], places := [], landedFrom := [],
    wholeFrom := [], lanes := [], late := [], nextRec := 0, readyAt := 0, outputs := [], grants := [] }

/-- A granule of the trestle store. -/
def TrestleUnit.granule (x : TrestleUnit) (g : Nat) : BitVec 256 := kget 0#256 x.store g

/-- A trestle input record lands: in the place it has, or in the next one. -/
def TrestleUnit.land (key : Nat) (v : BitVec 512) (x : TrestleUnit) : TrestleUnit :=
  let n := ((kfind? x.places key).getD x.places.length) % 131072
  { x with places := kins x.places key n
           store := kset 0#256 (kset 0#256 x.store (2 * n) (v.extractLsb' 0 256)) (2 * n + 1) (v.extractLsb' 256 256) }

/-- The trestle input records that have landed. -/
def TrestleUnit.inputs (x : TrestleUnit) : List (Nat × BitVec 512) :=
  x.places.map (fun e => (e.1, x.granule (2 * e.2 + 1) ++ x.granule (2 * e.2)))

/-- What a new run finds: the store and the lanes keep their contents, nothing of the run has landed. -/
def TrestleUnit.fresh (x : TrestleUnit) : TrestleUnit :=
  { x with places := [], landedFrom := [], wholeFrom := [], late := [], nextRec := 0, readyAt := 0, outputs := [], grants := [] }

end Sys2Proof.Machine
end

