-- ==== Sys2Proof/Machine/ViaState.lean ====
section
/-! DEFINITION. The state of the Cefin ports, the viaduct, the lock-step link and the fault manager (chapters 14, 15,
16), as plain data. -/

namespace Sys2Proof.Machine
open Sys2Proof

/-- STATE of Table 14.10; LOCKSTEP is read from VIA_LOCK. -/
inductive LinkState where
  | down
  | training
  | upX4
  | upX2
  | trainFail
deriving DecidableEq, Repr

/-- The code of a link state. -/
def LinkState.code : LinkState → Nat
  | .down => 0
  | .training => 1
  | .upX4 => 2
  | .upX2 => 3
  | .trainFail => 4

/-- A packet that a port has sent and holds until it is acknowledged (R463, R468). -/
structure SentPkt where
  type : BitVec 8
  half : Nat                           -- 0 = A, 1 = B (R466)
  pkt : Pkt
deriving DecidableEq, Repr

/-- One lane of a port in training (R462): the transmitter taps c(−3) to c(+1), and how far the lane has come. -/
structure LaneTrain where
  taps : List Int
  precode : Bool
  answer : Nat                         -- STATUS [1:0] of the next frame
  ready : Nat                          -- frames in a row with RX_READY received
  sent : Nat                           -- COUNT of the next frame
deriving DecidableEq, Repr

/-- A lane before training. -/
def LaneTrain.start : LaneTrain := { taps := [0, 0, 0, 0, 0], precode := true, answer := 0, ready := 0, sent := 0 }

/-- A Cefin port (R461 to R468, R494). -/
structure CefinPort where
  state : LinkState
  peer : Nat
  peerPort : Nat
  peerValid : Bool
  retrains : Nat
  lanes : List (Nat × LaneTrain)
  txSeq : Nat                          -- LSEQ of the next packet sent
  rxSeq : Nat                          -- LSEQ expected next
  held : List SentPkt                  -- the replay buffer, oldest first
  waiting : List SentPkt               -- packets that wait for credit
  credits : List (Nat × Nat)           -- credit of the peer's buffers by 2 × VC + half, in 256-byte units taken
  replays : List Nat                   -- times of the link replays of the last 1 ms
  asked : Bool                         -- the last NAK sent is still outstanding
deriving DecidableEq, Repr

/-- A port that is down. -/
def CefinPort.down : CefinPort :=
  { state := .down, peer := 0, peerPort := 0, peerValid := false, retrains := 0, lanes := [], txSeq := 0, rxSeq := 0,
    held := [], waiting := [], credits := [], replays := [], asked := false }

/-- A relocation-table entry (R489, R490). -/
structure Reloc where
  claimed : Nat
  holder : Nat
  epoch : Nat
deriving DecidableEq, Repr

/-- Where a takeover stands (R489): RESULT of Table 14.12. -/
inductive TakeResult where
  | idle
  | inProgress
  | taken
  | targetAlive
  | lost
  | tableFull
deriving DecidableEq, Repr

/-- The code of a takeover result. -/
def TakeResult.code : TakeResult → Nat
  | .idle => 0
  | .inProgress => 1
  | .taken => 2
  | .targetAlive => 3
  | .lost => 4
  | .tableFull => 5

/-- An EXT_REQ served or asked for (R480): the chip, its REQ_ID and landing, the extents left, and what is acknowledged. -/
structure ExtFlow where
  chip : Nat
  reqId : Nat
  lid : Nat
  entry : Nat
  first : Nat
  granulesLeft : Nat
deriving DecidableEq, Repr

/-- A hand-over being received (R170): the HANDIN and what has come. -/
structure HoIn where
  src : Nat
  hoId : Nat
  handle : Nat
  lid : Nat
  pages : Nat
  bytes : Nat
  committed : Bool                     -- HO_COMMIT has come with a right count: enters at the next keystone
deriving DecidableEq, Repr

/-- The lock-step pair (R535 to R542). -/
structure LockState where
  paired : Bool
  frozen : Bool
  walkDone : Bool
  div0 : BitVec 32
  div1 : BitVec 32
  header : Option (BitVec 384)         -- the partner's READY header
  digests : List (Nat × BitVec 384)    -- the partner's last two tick digests, newest first
  level : Nat                          -- scope of the walk: 0 = none
  phase : Nat
  desc : Nat
  span : Nat
deriving DecidableEq, Repr

/-- No pair. -/
def LockState.off : LockState :=
  { paired := false, frozen := false, walkDone := false, div0 := 0, div1 := 0, header := none, digests := [], level := 0,
    phase := 0, desc := 0, span := 0 }

/-- The viaduct of a module. -/
structure Viaduct where
  ports : List (Nat × CefinPort)
  relocs : List Reloc
  claimsSeen : List (Nat × Nat × Nat × Bool)  -- (C, H, EPOCH, RELEASE) of the CLAIMs taken, newest first (R489)
  duplicate : Bool
  checked : Bool                       -- the check of R469 has passed and the module forwards
  probes : List Nat                    -- PROBE_IDs of self-probes in flight
  nextProbe : Nat
  take : TakeResult
  takeEpoch : Nat
  takeTarget : Nat                     -- C of the takeover in progress and when it started
  takeAt : Nat
  takeClaimed : Bool
  held : Option Nat                    -- the number held under a claim
  ext : Option ExtFlow
  install : Option ExtFlow
  refetch : List ExtFlow               -- extents asked of peers by the fault manager (R504)
  hoIn : List HoIn
  nextHoId : Nat
  pulls : List Nat                     -- pull entries whose READs have been sent
  closed : Bool                        -- VIA_SWING.CLOSED
  refLost : Bool
  lastPulse : Option Nat
  lock : LockState
deriving DecidableEq, Repr

/-- A fault-log record (R499). -/
structure FaultRec where
  cls : Nat
  cause : Nat
  unit : Nat
  tick : Nat
  time : Nat
deriving DecidableEq, Repr

/-- A re-fetch of a poisoned tile set (R504): the entry, the tile set's granules, the source tried now by its place among the
sources, and whether every source has failed. -/
structure Repair where
  entry : Nat
  granules : List Nat                  -- counted in entry addresses
  source : Nat
  mirror : Bool                        -- a poisoned mirror found by the scrubber
  failed : Bool
deriving DecidableEq, Repr

/-- The fault manager (chapter 15). -/
structure FaultMgr where
  last0 : BitVec 32
  last1 : BitVec 32
  log : List FaultRec                  -- the last 4,096, in the DEVICE region
  flashLog : List FaultRec             -- the last 256, in flash
  fenceList : List Nat                 -- in flash
  hungAt : Option (Nat × Nat)          -- logical span and physical span fenced for HUNG in the replayed tick
  testAsked : List Nat                 -- spans to be tested when R503 allows
  fenceAsked : List Nat                -- bound spans that a management command fences at the next tick boundary
  testing : Option Nat
  ctrlSpan : Option Nat                -- the span of an action of FLT_SPAN_CTRL that has not ended
  spanDone : Bool
  spanResult : Nat
  scrubbing : Bool
  scrubUs : Nat
  outageMs : Nat
  missed : Nat
  repairs : List Repair
  chipFaults : List Nat                -- times of the chip faults of the last hour
  chipFaultStart : Bool                -- SERVICE reads CHIP_FAULT
  basicAsked : Option Nat              -- a job that goes to basic service at the next tick boundary (R506)
  flitErrors : List (Nat × Nat)        -- flit errors held against routers, with their times (R510, R511)
  reported : List Nat                  -- uncorrectable codewords that the scrubbers found (R357)
deriving DecidableEq, Repr

/-- A fault manager without a fault. -/
def FaultMgr.clear : FaultMgr :=
  { last0 := 0xFF000, last1 := 0, log := [], flashLog := [], fenceList := [], hungAt := none, testAsked := [], fenceAsked := [],
    testing := none, ctrlSpan := none, spanDone := false, spanResult := 0, scrubbing := false, scrubUs := 0, outageMs := 0,
    missed := 0, repairs := [], chipFaults := [], chipFaultStart := false, basicAsked := none, flitErrors := [], reported := [] }

/-- A viaduct before its ports train. -/
def Viaduct.cold : Viaduct :=
  { ports := [], relocs := [], claimsSeen := [], duplicate := false, checked := false, probes := [], nextProbe := 0, take := .idle,
    takeEpoch := 0, takeTarget := 0, takeAt := 0, takeClaimed := false, held := none, ext := none, install := none, refetch := [], hoIn := [],
    nextHoId := 0, pulls := [], closed := true, refLost := false, lastPulse := none, lock := LockState.off }

end Sys2Proof.Machine
end

