-- ==== Sys2Proof/Machine/State.lean ====
section
/-! DEFINITION. The state of the module as plain data, what a step can stop with, and the state after a cold reset. -/

namespace Sys2Proof.Machine
open Sys2Proof

/-- Why a step faults: never. The spec gives every command an effect, so no fault has a constructor (safe). -/
inductive Fault where
deriving DecidableEq, Repr

/-- Why a step refuses. -/
inductive Refusal where
  /-- A command whose meaning is not written yet; no arm of `exec` raises it now (safe). -/
  | notModelled (mnemonic : String)
deriving DecidableEq, Repr

/-- The module. The spec's own state stands in its units; `pending`, `out`, `time` and `fresh` are the model's own. -/
structure State where
  pending : List Instr                 -- the commands that wait, first in, first out
  out : List Out                       -- what the module has sent, oldest first
  pub : Option Publish                 -- the publish in progress (R244)
  time : Nat                           -- ns since the model's start, never falling
  tbOff : Int                          -- device time base = time + tbOff, modulo 2^64 (R486, R488)
  fresh : Nat                          -- counter that free values are drawn with
  regs : List (Nat × BitVec 32)        -- registers that software writes, by BAR0 offset, where not at their reset value
  cycStart : CycStart                  -- the counters before the current cycle's events (R545)
  counters : List (Nat × Counter)      -- device counters by BAR0 offset
  fuses : Fuses
  flash : Flash
  boot : Boot
  pwr : Power
  sb : Sideband
  sec : Sec
  obs : Obs
  spanMap : List (Nat × MapEntry)      -- by physical span
  mapEpoch : BitVec 8
  spans : List (Nat × Span)            -- by physical span
  ports : List (Nat × Port)
  perstLow : List Nat                  -- ports whose PERST pin is low
  lanes : List (Nat × Nat)             -- SEQ expected next, by 8192 × port + lane
  handles : List (Nat × HandleInfo)
  named : List (Nat × Nat)             -- handles that have named a SUBMIT or a HANDIN, with their partition (R393)
  logs : List (Nat × EventLog)         -- by 256 × port + partition
  requests : List (Nat × Request)      -- by handle
  waiting : List Waiting               -- commands that wait for a cut, oldest first
  stamp : Nat                          -- arrival stamp of the next command
  jobs : List (Nat × Job)              -- by JOB_ID, the listed ones
  ended : List (Nat × Job)             -- the last 64 ENDED jobs, newest first
  running : Option Nat
  nextJob : Nat
  bits : List (Nat × Bitstream)        -- the loaded bitstream of a job
  binding : List (Nat × Nat)           -- logical to physical of the job on the spans: the table of every router (R328)
  load : Option Load
  loadStatus : BitVec 32               -- JOB_LOAD_STATUS and JOB_LOAD_DETAIL (R331)
  loadDetail : BitVec 32
  cache : List CacheEntry
  hot : List (Nat × HotEntry)
  staged : List Staged
  tune : List (Nat × Tune)             -- by JOB_ID
  kv : KvStore                         -- of the running job
  kvSaved : List (Nat × KvStore)       -- of the jobs that have left the spans, as the two maps below
  govSaved : List (Nat × Governor)
  tickSaved : List (Nat × Tick)        -- the tick that a job paused as REMOTE_WAIT replays
  spanSaved : List (Nat × List SpanKept)  -- the width histories and rates that a job's spans go on with (R124, R196)
  routes : List DeckRoute              -- the routes of the plan in use, on physical nodes (R328)
  tick : Tick
  gov : Governor
  trs : TrestleUnit
  mem : DevMem
  landings : List (Nat × Landing)      -- by LID
  via : Viaduct
  flt : FaultMgr
deriving DecidableEq, Repr

/-- The fuses of a YX-480 of stepping B1, spares at the four corners (R4, R18); the model's own choice of module. -/
def Fuses.b1 : Fuses :=
  { stepLetter := 2, stepNumber := 1, grade := 0, fusedOff := [], spares := [0, 11, 120, 131], revoked := 0, minSvn := 0 }

/-- The shipped flash (R635): the firmware image, no operator key, no pinned list, no viaduct profile. What the image's
manifest lists is free. -/
def Flash.shipped : Flash :=
  { firmware := { digest := Config.shippedDigest, svn := 0, sound := true, rootPair := 0,
                  keys := Config.shippedKeys.map (fun k => { id := k.1, ecdsa := k.2.1, hss := k.2.2 }) }, pins := [], operators := [],
    unsealCount := 0, reservedTopA := 0, reservedTopB := 0, certs := [], viaProfile := none, viaClaims := [] }

/-- The root of trust at a start: sealed, measurements zero (R594, R598). -/
def Sec.start : Sec :=
  { isOpen := false, debugUsed := false, busyUntil := none, done := false, result := 0, root := 0, meas := [], log := [],
    logCount := 0, challenge := 0, lmsNext := 0, lmsTop := none, dbgResult := 0, dbgData := [] }

/-- The start sequence right after a cold reset: POWER_ON with main power good (R583). -/
def Boot.cold : Boot :=
  { state := .powerOn, lastReset := 0, deferred := none, kind := .cold, haltCause := 0, bootMs := 0, startedAt := 0,
    standby := true, pwrEn := true, mainGood := true, mainPg := true, coolStrap := 0, portMode := 0, nextCause := 0, newLost := [],
    stResult := 0, stTrestle := 0, stTested := 0, stFenced := 0, stLost := 0, keptVia := none,
    lostClaims := [], outageFrom := none, limitMs := 550 }

/-- The span map as the fuses give it: fused-off spans, the named spares, and every other span ACTIVE (R18, R22). -/
def mapOfFuses (f : Fuses) : List (Nat × MapEntry) :=
  (List.range 132).map (fun p =>
    (p, { status := if f.fusedOff.contains p then .fusedOff else if f.spares.contains p then .spare else .active,
          logical := none }))

/-- The module right after a cold reset: every register at the value of its table (R9), device memory lost, no request,
job, log or landing. -/
def State.reset : State :=
  { pending := [], out := [], pub := none, time := 0, tbOff := 0, fresh := 1, regs := [], cycStart := { dev := [], spans := [] }, counters := [], fuses := Fuses.b1,
    flash := Flash.shipped, boot := Boot.cold, pwr := Power.cold, sb := { stream := none, firmware := none, abandoned := none },
    sec := { Sec.start with challenge := Config.challenge 0 }, obs := Obs.zero, spanMap := mapOfFuses Fuses.b1, mapEpoch := 0, spans := [], ports := [],
    perstLow := [], lanes := [], handles := [], named := [], logs := [], requests := [], waiting := [], stamp := 0, jobs := [],
    ended := [], running := none, nextJob := 1, bits := [], binding := [], load := none, loadStatus := 0x00038000, loadDetail := 0, cache := [], hot := [],
    staged := [], tune := [], kv := KvStore.none, kvSaved := [], govSaved := [],
    tickSaved := [], spanSaved := [], routes := [], tick := Tick.idle, gov := Governor.idle, trs := TrestleUnit.cold,
    mem := DevMem.cold, landings := [], via := Viaduct.cold, flt := FaultMgr.clear }

end Sys2Proof.Machine
end

