-- ==== Sys2Proof/Machine/Ops.lean ====
section
/-! DEFINITION. The shared operations over the state: time, free values, registers, counters, spans, trace records,
snapshots' requests, faults, broken ticks. -/

namespace Sys2Proof.Machine
open Sys2Proof

/-! ### Time, free values, output -/

/-- What a publish that has ended by a time has sent. -/
def pubOut (now : Nat) : Option Publish → List Out
  | none => []
  | some x => if x.endAt ≤ now then x.items.map (·.out) else []

/-- A publish that has not ended by a time. -/
def pubLeft (now : Nat) : Option Publish → Option Publish
  | none => none
  | some x => if x.endAt ≤ now then none else some x

/-- The state at time `t`: time never falls, and a publish that ends by then has sent what it had to send. -/
def State.at (t : Nat) (s : State) : State :=
  { s with time := max s.time t, out := s.out ++ pubOut (max s.time t) s.pub, pub := pubLeft (max s.time t) s.pub,
           cycStart := if s.time < t then { dev := s.counters, spans := s.spans.map (fun e => (e.1, e.2.counters)) } else s.cycStart }

/-- Whether a publish is in progress. -/
def State.publishes (s : State) : Bool := s.pub.isSome

/-- The device time base, 64 bits in ns. -/
def State.timebase (s : State) : Nat := (((s.time : Int) + s.tbOff) % 2 ^ 64).toNat

/-- The device time of cycle `cyc` of the run in progress (R225), the clock being 25 MHz × N (R620). -/
def State.cycTime (cyc : Nat) (s : State) : Nat := s.tick.t0 + (cyc - s.tick.cyc0) * 40 / s.tick.n

/-- The cycle of the run at the current time. -/
def State.cycNow (s : State) : Nat := s.tick.cyc0 + (s.time - s.tick.t0) * s.tick.n / 40

/-- The state at cycle `cyc` of the run in progress. -/
def State.atCyc (cyc : Nat) (s : State) : State := s.at (s.cycTime cyc)

/-- The number of the next free value, and the state that has drawn it. -/
def State.draw (s : State) : Nat × State := (s.fresh, { s with fresh := s.fresh + 1 })

/-- Send something out of the module. -/
def State.emit (o : Out) (s : State) : State := { s with out := s.out ++ [o] }

/-- What an action of the publish in progress sends to the host ports goes out with the publish, as of a partition. -/
def State.defer (part : Option Nat) (f : State → State) (s : State) : State := match (f s).pub with
  | none => f s
  | some x =>
    let new := (f s).out.drop s.out.length
    { f s with out := s.out ++ new.filter (fun o => o.host?.isNone),
               pub := some { x with items := x.items ++ (new.filter (fun o => o.host?.isSome)).map (fun o => { part := part, out := o }) } }

/-! ### Registers that software writes -/

/-- The name of a field that a write of 1 clears: its register's offset and its lowest bit. -/
def w1c (off b : Nat) : Nat := 64 * off + b

/-- A field that a write of 1 clears is set by the device (R11). -/
def State.noteSet (field : Nat) (s : State) : State := { s with obs := { s.obs with setAt := kins s.obs.setAt field s.time } }

/-- Whether a write of 1 clears such a field: not when the device set it in the same cycle (R11). Times are in ns, so that a cycle
is the ns in which it lies. -/
def State.mayClear (s : State) (field : Nat) : Bool := decide (kfind? s.obs.setAt field ≠ some s.time)

/-- The reset value of a register that software writes, where it is not 0 (R9 and the registers' tables). -/
def regReset (off : Nat) : BitVec 32 :=
  if off = 0x060014 then 0x80000000#32            -- TICK_GOV
  else if off = 0x020004 then 0x01F40064#32       -- JOB_DISP_CTRL
  else if off = 0x070084 then 0xC4000000#32       -- MEM_SPARE_CTRL
  else if off = 0x090050 then 0x000003E8#32       -- VIA_LOCK
  else if off = 0x090054 then 0x00C00000#32       -- VIA_SPARE
  else if off = 0x0A0020 then 0x08200400#32       -- OBS_TRACE_CTRL
  else if off = 0x0A0038 then 0xFFFFFFFF#32       -- OBS_TRIG_LAG
  else if off = 0x0A0040 then 0x20000000#32       -- OBS_SNAP_CTRL
  else if off = 0x0B000C then 0xC0080100#32       -- FLT_CTRL
  else if off = 0x0D0004 then 0x00000320#32       -- PWR_CAP
  else 0#32

/-- What software last left in a register, or its reset value. -/
def State.regw (s : State) (off : Nat) : BitVec 32 := kget (regReset off) s.regs off

/-- The same as a number. -/
def State.reg (s : State) (off : Nat) : Nat := (s.regw off).toNat

/-- Field [lo + w − 1 : lo] of a register. -/
def State.regf (s : State) (off lo w : Nat) : Nat := bitsAt (s.reg off) lo w

/-- One bit of a register. -/
def State.regb (s : State) (off b : Nat) : Bool := (s.regw off).getLsbD b

/-- Set a register. -/
def State.setReg (off : Nat) (v : BitVec 32) (s : State) : State := { s with regs := kset (regReset off) s.regs off v }

/-- Set or clear one bit of a register. -/
def State.setRegBit (off b : Nat) (v : Bool) (s : State) : State :=
  s.setReg off (if v then s.regw off ||| BitVec.ofNat 32 (2 ^ b) else s.regw off &&& ~~~(BitVec.ofNat 32 (2 ^ b)))

/-- A field placed at a bit position. -/
def fieldAt (lo w x : Nat) : Nat := (x % 2 ^ w) * 2 ^ lo

/-- A Boolean as a bit. -/
def bit (b : Bool) : Nat := if b then 1 else 0

/-! ### Counters (R67, R68, R544, R545) -/

/-- Count `n` events: the live copy saturates at 0xFFFF_FFFF. -/
def Counter.add (n : Nat) (c : Counter) : Counter :=
  { c with live := BitVec.ofNat 32 (min (c.live.toNat + n) 0xFFFFFFFF) }

/-- Count `n` bytes in units of 4,096 (R174, R549): the rest below a unit is kept. -/
def Counter.addBytes (n : Nat) (c : Counter) : Counter :=
  { (c.add ((c.rem + n) / 4096)) with rem := (c.rem + n) % 4096 }

/-- Close a counter at time `t` (R545): the live copy moves to the closed copy and starts again with the `n` events that fall in
that cycle. A counter closes at most once in a cycle. -/
def Counter.close (t n : Nat) (c : Counter) : Counter :=
  if c.at_ = some t then c
  else { c with closed := BitVec.ofNat 32 (c.live.toNat - n), live := BitVec.ofNat 32 n, closes := c.closes + 1, at_ := some t }

/-- The events of the current cycle at a counter, from its copy before the cycle; a saturated copy stays so. -/
def Counter.since (before c : Counter) : Nat := if before.live = 0xFFFFFFFF#32 then 0 else c.live.toNat - before.live.toNat

/-- Count events at a device counter. -/
def State.inc (off n : Nat) (s : State) : State :=
  if n = 0 then s else { s with counters := kmod Counter.zero s.counters off (Counter.add n) }

/-- Count bytes at a device byte counter. -/
def State.incBytes (off n : Nat) (s : State) : State :=
  if n = 0 then s else { s with counters := kmod Counter.zero s.counters off (Counter.addBytes n) }

/-- Whether a tick runs that its keystone has not sealed. -/
def State.inTick (s : State) : Bool := s.tick.active && !s.tick.sealed

/-- Whether a SERVE job is running ticks. -/
def State.ticking (s : State) : Bool := s.inTick || s.tick.broken.isSome || s.gov.nextCut.isSome

/-- A window with a contribution entered into its counter `i`: byte counters are those of offsets 0x20, 0x24, 0x2C. -/
def PWindow.enter (i n : Nat) (w : PWindow) : PWindow :=
  let f := if i = 8 ∨ i = 9 ∨ i = 11 then Counter.addBytes n else Counter.add n
  { w with counters := kmod Counter.zero w.counters i f }

/-- Contribute to counter `i` of a partition window (R551): tick work waits for the switch and is discarded when the run
breaks; the rest waits for the switch; both enter at once when no SERVE job runs ticks. -/
def State.winAdd (p i n : Nat) (s : State) : State :=
  if n = 0 then s
  else
    let w := kget PWindow.zero s.obs.windows p
    let w' :=
      if !s.ticking then w.enter i n
      else if i < 12 then { w with tickWork := kmod 0 w.tickWork i (· + n) }
      else { w with other := kmod 0 w.other i (· + n) }
    { s with obs := { s.obs with windows := kset PWindow.zero s.obs.windows p w' } }

/-- The switch of a window at time `t` (R551): contributions enter, then a pending close takes effect. -/
def PWindow.switch (t : Nat) (w : PWindow) : PWindow :=
  let w1 := (w.tickWork ++ w.other).foldl (fun (w : PWindow) (e : Nat × Nat) => w.enter e.1 e.2) w
  let w2 := { w1 with tickWork := [], other := [] }
  if w2.closing then
    { w2 with closing := false, closes := w2.closes + 1,
              counters := (List.range 16).foldl (fun m i => kmod Counter.zero m i (Counter.close t 0)) w2.counters }
  else w2

/-! ### Spans -/

/-- A physical span. -/
def State.span (s : State) (p : Nat) : Span := kget Span.idle s.spans p

/-- Set a physical span. -/
def State.setSpan (p : Nat) (x : Span) (s : State) : State := { s with spans := kset Span.idle s.spans p x }

/-- Change a physical span. -/
def State.modSpan (p : Nat) (f : Span → Span) (s : State) : State := s.setSpan p (f (s.span p))

/-- The physical span bound to a logical number. -/
def State.phys? (s : State) (l : Nat) : Option Nat := kfind? s.binding l

/-- Count events at a counter of a physical span's window. -/
def Span.inc (off n : Nat) (x : Span) : Span :=
  if n = 0 then x else { x with counters := kmod Counter.zero x.counters off (Counter.add n) }

/-- Count bytes at a byte counter of a physical span's window. -/
def Span.incBytes (off n : Nat) (x : Span) : Span :=
  if n = 0 then x else { x with counters := kmod Counter.zero x.counters off (Counter.addBytes n) }

/-- A span's map entry; an unlisted span is fused off. -/
def State.mapEntry (s : State) (p : Nat) : MapEntry :=
  (kfind? s.spanMap p).getD { status := .fusedOff, logical := none }

/-- Set map entries in one step (R24): MAP_EPOCH rises by one. -/
def State.setMap (m : List (Nat × MapEntry)) (s : State) : State := { s with spanMap := m, mapEpoch := s.mapEpoch + 1 }

/-- The physical spans in a state, ascending. -/
def State.spansIn (s : State) (st : SpanStatus) : List Nat := (List.range 132).filter (fun p => (s.mapEntry p).status = st)

/-- Hops between two physical spans (R327). -/
def hops (a b : Nat) : Nat :=
  ((a / 12 : Nat) - (b / 12 : Nat) : Int).natAbs + ((a % 12 : Nat) - (b % 12 : Nat) : Int).natAbs

/-- The place with the fewest hops from `p`, ties to the lower number. -/
def nearest (p : Nat) (l : List Nat) : Option Nat :=
  l.foldl (fun best q => match best with
    | none => some q
    | some b => if hops q p < hops b p then some q else some b) none

/-- One span of the fence list in the start-up map: it is FENCED, and the nearest spare takes its place (R22, R25). -/
def fenceEntry (m : List (Nat × MapEntry)) (p : Nat) : List (Nat × MapEntry) :=
  let fenced : MapEntry := { status := .fenced, logical := none }
  let active : MapEntry := { status := .active, logical := none }
  match (kfind? m p).map (fun (e : MapEntry) => e.status) with
  | some SpanStatus.spare => kins m p fenced
  | some SpanStatus.active => match nearest p ((m.filter (fun e => decide (e.2.status = SpanStatus.spare))).map (·.1)) with
    | none => kins m p fenced
    | some q => kins (kins m p fenced) q active
  | _ => m

/-- The start-up map: the fuses and the fence list (R22). -/
def startMap (f : Fuses) (fences : List Nat) : List (Nat × MapEntry) := fences.foldl fenceEntry (mapOfFuses f)

/-! ### Job and tick in progress -/

/-- The running job. -/
def State.job? (s : State) : Option Job := s.running.bind (kfind? s.jobs)

/-- The bitstream of the running job. -/
def State.bitstream? (s : State) : Option Bitstream := s.running.bind (kfind? s.bits)

/-- The plan in use. -/
def State.plan? (s : State) : Option Plan := s.bitstream?.bind (fun b => b.plan? s.tick.plan)

/-- A descriptor of the plan in use. -/
def State.desc? (s : State) (i : Nat) : Option Desc := s.plan?.bind (fun p => p.desc? i)

/-- Change the running job. -/
def State.modJob (f : Job → Job) (s : State) : State :=
  match s.running with
  | none => s
  | some j => { s with jobs := kupd s.jobs j f }

/-- TICK_NUMBER: of the current tick since the job started. -/
def State.tickNumber (s : State) : Nat := match s.job? with
  | some j => j.tick
  | none => 0

/-- Whether the running job is in fixed mode. -/
def State.fixed (s : State) : Bool := match s.job? with
  | some j => j.fixed
  | none => false

/-- Whether the running job is under FIDELITY. -/
def State.fidelity (s : State) : Bool := match s.job? with
  | some j => j.fidelity
  | none => false

/-! ### Trace records (R553 to R557) -/

/-- SPN_TRACE_CTRL's fields. -/
def Trace.en (t : Trace) : Bool := t.ctrl.getLsbD 31
def Trace.arm (t : Trace) : Bool := t.ctrl.getLsbD 30
def Trace.types (t : Trace) : Nat := bitsAt t.ctrl.toNat 22 8
def Trace.pre (t : Trace) : Nat := bitsAt t.ctrl.toNat 11 11
/-- POST, acting as 2,048 − PRE when PRE + POST exceeds 2,048 (R556). -/
def Trace.post (t : Trace) : Nat :=
  let p := bitsAt t.ctrl.toNat 0 11 + 1
  if t.pre + p > 2048 then 2048 - t.pre else p

/-- One record lost at time `now` (R557). -/
def Trace.lose (now : Nat) (t : Trace) : Trace :=
  { t with lostSince := t.lostSince + 1, lostFirst := if t.lostSince = 0 then now else t.lostFirst, lostLast := now,
           firstTime := if t.firstTime = 0 ∧ t.lastTime = 0 then now else t.firstTime, lastTime := now }

/-- Put one record into the buffer (R554 to R556): the buffer after it, and the records lost. -/
def Trace.put (now : Nat) (r : TraceRec) (t : Trace) : Trace × Nat :=
  if t.frozen then (t.lose now, 1)
  else
    let full := decide (t.records.length ≥ 2048)
    let r := { r with win := t.postLeft.isSome }
    let step (t : Trace) : Trace := match t.postLeft with
      | none => t
      | some 0 => { t with frozen := true, postLeft := none }
      | some (n + 1) => if n = 0 then { t with frozen := true, postLeft := none } else { t with postLeft := some n }
    if !full then (step { t with records := t.records ++ [r] }, 0)
    else if t.arm then ((step { t with records := t.records.drop 1 ++ [r] }).lose now, 1)
    else (t.lose now, 1)

/-- The 32 bytes of a record (Table 17.7), PHASE and WINDOW left 0 until it is drained. -/
def traceBits (type seq time tick pc phase lspan pspan : Nat) (arg : List Byte) : BitVec 256 :=
  BitVec.ofNat 256 (bytesToNat (natToBytes 1 type ++ [0#8] ++ natToBytes 2 seq ++ natToBytes 8 time ++ natToBytes 4 tick
    ++ natToBytes 2 (pc % 4096 + 4096 * (phase % 8)) ++ natToBytes 1 lspan ++ natToBytes 1 pspan ++ byteSlice arg 0 12))

/-- Write a record of type `type` for logical span `l` on physical span `p`, when the span writes records and the type is
enabled; a LOST record comes before the first record accepted after a loss (Table 17.8). -/
def Span.trace_ (now tick l p type : Nat) (arg : List Byte) (x : Span) : Span :=
  let t := x.trace
  if !t.en || !(t.types.testBit (type - 1)) then x
  else
    let mk (seq ty time : Nat) (a : List Byte) : TraceRec :=
      { bits := traceBits ty seq time tick x.seq.pc x.seq.phase l p a, time := time, win := false }
    let accepts := !t.frozen && (t.arm || decide (t.records.length < 2048))
    let a := if accepts && decide (t.lostSince > 0) then
        let r := mk t.seqNo 7 t.lostLast (natToBytes 4 t.lostSince ++ natToBytes 8 t.lostFirst)
        ({ t with seqNo := t.seqNo + 1, lostSince := 0 }).put now r
      else (t, 0)
    let b := ({ a.1 with seqNo := a.1.seqNo + 1 }).put now (mk a.1.seqNo type now arg)
    ({ x with trace := b.1 }).inc 0x408 (a.2 + b.2)

/-- Write a trace record for a logical span, when it is bound. -/
def State.trace (l type : Nat) (arg : List Byte) (s : State) : State :=
  match s.phys? l with
  | none => s
  | some p => s.modSpan p (Span.trace_ s.timebase s.tickNumber l p type arg)

/-! ### Snapshot and trigger requests (R558, R560) -/

/-- Whether logical span `l` is bound and its trace buffer is armed. -/
def State.armed (s : State) (l : Nat) : Bool := match s.phys? l with
  | none => false
  | some p => (s.span p).trace.en && (s.span p).trace.arm

/-! ### Faults (R498, R499) -/

/-- Record a fault of class `cls`: its class counter, FLT_LAST and, but for class ACCESS, the fault log and its copy in
flash. -/
def State.fault (cls cause unit : Nat) (s : State) : State :=
  let r : FaultRec := { cls := cls, cause := cause, unit := unit, tick := s.tickNumber, time := s.timebase }
  let w0 := fieldAt 28 4 cls + fieldAt 20 8 cause + fieldAt 12 8 unit + fieldAt 4 8 s.tickNumber
  let f := { s.flt with last0 := BitVec.ofNat 32 w0, last1 := BitVec.ofNat 32 (s.timebase / 1024) }
  let f := if cls = 0xA then f
    else { f with log := (r :: f.log).take 4096, flashLog := (r :: f.flashLog).take 256 }
  ({ s with flt := f }).inc (0xB0100 + 4 * (cls - 1)) 1

/-- An access that its role does not permit (R13): class ACCESS. -/
def State.denied (s : State) : State := s.fault 0xA 0 0xFF

/-! ### Broken ticks (R248, R249) -/

/-- Discard the tick-work contributions of a broken run (R551). -/
def Obs.discard (o : Obs) : Obs :=
  let ws := o.windows.foldl (fun m e => kset PWindow.zero m e.1 { e.2 with tickWork := [] }) []
  { o with windows := ws }

/-- What a break leaves of a batch slot: its batch place, chunk, drafts and frames stay, the work of the run does not. -/
def Slot.again (x : Slot) : Slot :=
  { x with draftTokens := [], mainTokens := [], tokens := [], stopped := none, stopStates := [], quality := Quality.zero,
           done := false }

/-- Count a span's hold in force up to cycle `now` (R303). -/
def Span.countHold (now : Nat) (x : Span) : Span := match x.seq.hold with
  | none => x
  | some h =>
    let x := if h.counter = 0 then x else x.inc h.counter (now - h.counted)
    { x with seq := { x.seq with hold := some { h with counted := max h.counted now } } }

/-- Count a span's wait for the release of a joint up to cycle `now` (SPN_JOINT_EARLY). -/
def Span.countJoint (now : Nat) (x : Span) : Span := match x.seq.arrived with
  | none => x
  | some _ =>
    let x := x.inc 0x348 (now - x.seq.earlyTo)
    { x with seq := { x.seq with earlyTo := max x.seq.earlyTo now } }

/-- The cycle at which the lanes need the next granule of an attention: they take them evenly over their time. -/
def AttWork.due (w : AttWork) : Nat := w.cyc + w.got.length * w.unitTime / max 1 w.need

/-- Count the arch lanes' wait for key-value granules up to cycle `now` (SPN_KV_WAIT). -/
def Span.countAtt (now : Nat) (x : Span) : Span := match x.att with
  | none => x
  | some w =>
    if w.need ≤ w.got.length then x
    else
      let wait := max w.wait (now - w.due)
      { x.inc 0x2C8 (wait - w.wait) with att := some { w with wait := wait } }

/-- Count the waits of a span's scatter entries at full queues up to cycle `now` (SPN_SCAT_QFULL). -/
def Span.countFull (now : Nat) (x : Span) : Span :=
  let n := (x.streams.map (fun e => match e.2.fullFrom with
    | none => 0
    | some f => now - f)).sum
  { x.inc 0x31C n with streams := x.streams.map (fun e => (e.1, { e.2 with fullFrom := e.2.fullFrom.map (max now) })) }

/-- Count the waits of a span that have not ended up to cycle `now`: its counters then hold what they hold at that cycle. -/
def Span.accrue (now : Nat) (x : Span) : Span := (((x.countHold now).countJoint now).countAtt now).countFull now

/-- Count the waits of every span up to now. -/
def State.accrue (s : State) : State :=
  if s.tick.active then { s with spans := s.spans.foldl (fun m e => kset Span.idle m e.1 (e.2.accrue s.cycNow)) [] } else s

/-- The whole ms, beyond twice the period in force, for which the job on the spans holds requests in batch states and has
committed no keystone (R519). -/
def State.stallMs (s : State) : Nat := match s.gov.heldFrom with
  | none => 0
  | some h => (s.time - h - 2000 * s.tick.period) / 1000000

/-- Count the stall so far as outage; `from_` is the time from which the next one counts. -/
def State.countStall (from_ : Option Nat) (s : State) : State :=
  { s with flt := { s.flt with outageMs := s.flt.outageMs + s.stallMs }, gov := { s.gov with heldFrom := from_ } }

/-- Stop a span's program (R268): it runs nothing until its next run starts. -/
def Span.abandon (x : Span) : Span :=
  { x with seq := { x.seq with phase := 0, hold := none, loops := [], lastIssue := none, ctrOps := [], jointAt := none,
                               arrived := none },
           cells := { CellUnit.idle with layerSeq := x.cells.layerSeq }, streams := [], queues := [], bankAt := [], scatAt := 0,
           puts := [], conflict := false, archBusyUntil := 0, archDoneAt := 0, archWaited := false, att := none,
           abt := { x.abt with busyUntil := 0, writtenAt := 0, ctxs := [], kvAcks := [], works := [], checkUntil := 0 } }

/-- Break the tick in progress as it stands; a cause found after the seal is taken against the next tick (R244). -/
def State.breakHere (c : BreakCause) (s : State) : State :=
  if s.tick.sealed then { s with tick := { s.tick with against := some c } }
  else if !s.tick.active then s
  else
    let s := s.inc 0x060104 1
    { s with
      tick := { s.tick with active := false, broken := some c, runs := s.tick.runs + 1,
                            slots := s.tick.slots.map Slot.again, refused := false, arrivals := [], released := [],
                            writesOpen := 0 }
      obs := s.obs.discard
      spans := s.spans.foldl (fun m e => kset Span.idle m e.1 (e.2.accrue s.cycNow).abandon) []
      trs := s.trs.fresh }

end Sys2Proof.Machine
end

