-- ==== Sys2Proof/Machine/RsCode.lean ====
section
/-! DEFINITION. The code of device memory (R353 to R355): RS(19,16) over GF(2^16), and what the decoder makes of the symbols of
a codeword that read wrong. The code is linear, so that errors and corrections are told apart by the errors alone. -/

namespace Sys2Proof.Machine
open Sys2Proof

/-! ### GF(2^16) -/

/-- An element times α: the field polynomial is x^16 + x^12 + x^3 + x + 1. -/
def gfAlpha (a : BitVec 16) : BitVec 16 := if a.msb then (a <<< 1) ^^^ 0x100B#16 else a <<< 1

/-- A product in GF(2^16): `n` bits of `b`, the lowest first. -/
def gfMulBits : Nat → BitVec 16 → BitVec 16 → BitVec 16
  | 0, _, _ => 0
  | n + 1, a, b => (if b.getLsbD 0 then a else 0) ^^^ gfMulBits n (gfAlpha a) (b >>> 1)

/-- A product in GF(2^16). -/
def gfMul (a b : BitVec 16) : BitVec 16 := gfMulBits 16 a b

/-- α to the power `j`. -/
def gfPow : Nat → BitVec 16
  | 0 => 1
  | j + 1 => gfAlpha (gfPow j)

/-- The power 2^(n + 1) − 2 of an element, so that 15 gives the inverse. -/
def gfInvBits : Nat → BitVec 16 → BitVec 16
  | 0, _ => 1
  | n + 1, a => let r := gfMul (gfInvBits n a) a; gfMul r r

/-- The inverse of an element that is not 0. -/
def gfInv (a : BitVec 16) : BitVec 16 := gfInvBits 15 a

/-! ### Symbols -/

/-- Symbols of a codeword that differ from what was written, by pin, and by how much. Pins 0 to 15 carry data, 16 to 18 the check
symbols. DESIGN CHOICE (log entry 63): symbol `j` is the coefficient of x^j of the code polynomial. -/
abbrev Symbols := List (Nat × BitVec 16)

/-- Syndrome `k`: the error polynomial at α^k. -/
def syndrome (k : Nat) (e : Symbols) : BitVec 16 := e.foldl (fun a x => a ^^^ gfMul x.2 (gfPow (k * x.1))) 0

/-- Where one symbol that is in error would give syndromes `a` and `b` = α^j · `a`, pins in `bar` apart. -/
def rsLocate (bar : List Nat) (a b : BitVec 16) : Option Nat :=
  if a = 0 then none else (List.range 19).find? (fun j => !bar.contains j && decide (b = gfMul a (gfPow j)))

/-- The correction of one symbol, with no pin erased: none when the syndromes are those of no single error. -/
def rsOne (s0 s1 s2 : BitVec 16) : Option Symbols :=
  if s0 = 0 ∧ s1 = 0 ∧ s2 = 0 then some []
  else match rsLocate [] s0 s1 with
    | none => none
    | some j => if s2 = gfMul s1 (gfPow j) then some [(j, s0)] else none

/-- With pin `a` erased: that symbol, and one other. -/
def rsTwo (a : Nat) (s0 s1 s2 : BitVec 16) : Option Symbols :=
  let x := gfPow a
  let t0 := s1 ^^^ gfMul s0 x
  let t1 := s2 ^^^ gfMul s1 x
  if t0 = 0 ∧ t1 = 0 then some [(a, s0)]
  else match rsLocate [a] t0 t1 with
    | none => none
    | some j =>
      let e := gfMul t0 (gfInv (gfPow j ^^^ x))
      some [(a, s0 ^^^ e), (j, e)]

/-- With pins `a` and `b` erased: both symbols, unless another is in error. -/
def rsErased (a b : Nat) (s0 s1 s2 : BitVec 16) : Option Symbols :=
  let x := gfPow a
  let y := gfPow b
  let e := gfMul (s1 ^^^ gfMul s0 x) (gfInv (x ^^^ y))
  let r : Symbols := [(a, s0 ^^^ e), (b, e)]
  if syndrome 2 r = s2 then some r else none

/-- What the decoder corrects in a codeword with errors `e`, given the erased pins (R354); none when it is uncorrectable. -/
def rsDecode (erased : List Nat) (e : Symbols) : Option Symbols :=
  let s0 := syndrome 0 e
  let s1 := syndrome 1 e
  let s2 := syndrome 2 e
  match erased with
  | [] => rsOne s0 s1 s2
  | [a] => rsTwo a s0 s1 s2
  | a :: b :: _ => rsErased a b s0 s1 s2

/-- What is still wrong after the correction. -/
def rsResidue (e c : Symbols) : Symbols := c.foldl (fun m x => kset 0#16 m x.1 (kget 0#16 m x.1 ^^^ x.2)) e

/-- The bits that differ in byte `i` of a granule: symbol `j` holds bytes 2 j and 2 j + 1, little-endian (R353). -/
def symbolByte (e : Symbols) (i : Nat) : Byte := (kget 0#16 e (i / 2)).extractLsb' (8 * (i % 2)) 8

end Sys2Proof.Machine
end

