-- ==== Sys2Proof/Machine/Mem.lean ====
section
/-! DEFINITION. Device memory (chapter 11): reading and writing bytes at device offsets, the mappings of striped
allocations and hot-set entries, the allocation of the POOL. -/

namespace Sys2Proof.Machine
open Sys2Proof

/-- The stack of a device offset (R342). -/
def stackOf (off : Nat) : Nat := off / 2 ^ 35

/-- A stack's state. -/
def State.stk (s : State) (i : Nat) : Stack := kget Stack.cold s.mem.stk i

/-- Whether a stack is LOST (R508): its reads return poison. -/
def State.stackLost (s : State) (i : Nat) : Bool := decide ((s.stk i).state = .lost)

/-- Lane group `g` of a stack. -/
def State.lg (s : State) (i g : Nat) : LaneGroup := kget LaneGroup.clean s.mem.lgs (32 * i + g)

/-- Change a lane group. -/
def State.modLg (i g : Nat) (f : LaneGroup → LaneGroup) (s : State) : State :=
  { s with mem := { s.mem with lgs := kset LaneGroup.clean s.mem.lgs (32 * i + g) (f (s.lg i g)) } }

/-- The lane group of a device offset (R342). -/
def lgOf (off : Nat) : Nat := off / 32 % 32

/-- Whether a pin of a lane group is erased. -/
def LaneGroup.erased (p : Nat) (g : LaneGroup) : Bool := decide (g.eraseA = some p) || decide (g.eraseB = some p)

/-! ### Codewords (R353 to R355) -/

/-- The lane group of granule `g`. -/
def State.lgAt (s : State) (g : Nat) : LaneGroup := s.lg (stackOf (32 * g)) (lgOf (32 * g))

/-- The symbols of granule `g` that read wrong. -/
def State.errsAt (s : State) (g : Nat) : Symbols := kget [] s.mem.wrong g

/-- What the decoder corrects in granule `g`; none when it is uncorrectable. -/
def State.codeAt (s : State) (g : Nat) : Option Symbols := match s.errsAt g with
  | [] => some []
  | e => rsDecode ((s.lgAt g).eraseA.toList ++ (s.lgAt g).eraseB.toList) e

/-- What the decoder leaves wrong in byte `i` of granule `g`: an error beyond what the code detects. -/
def State.wrongByte (s : State) (g i : Nat) : Byte := match s.codeAt g with
  | none => 0#8
  | some c => symbolByte (rsResidue (s.errsAt g) c) i

/-- A byte of device memory as it reads; a byte that nothing has written reads 0 (the model's own choice). -/
def State.memByte (s : State) (off : Nat) : Byte := kget 0#8 s.mem.bytes off ^^^ s.wrongByte (off / 32) (off % 32)

/-- Whether granule `g` is held as poison or cannot be corrected. -/
def State.badCode (s : State) (g : Nat) : Bool := s.mem.poison.contains g || (s.codeAt g).isNone

/-- Whether the granule of a device offset is delivered as poison: it is held as poison, it cannot be corrected, or it lies in a
LOST stack. -/
def State.poisoned (s : State) (off : Nat) : Bool := s.badCode (off / 32) || s.stackLost (stackOf off)

/-- Symbols that read wrong as well, in one granule. -/
def addErrs (m : Symbols) (l : List (Fin 19 × BitVec 16)) : Symbols :=
  l.foldl (fun m x => kset 0#16 m x.1.val (kget 0#16 m x.1.val ^^^ x.2)) m

/-- Bits of device memory go wrong. -/
def State.upset (es : MemErrs) (s : State) : State :=
  { s with mem := { s.mem with wrong := es.foldl (fun m e => kset [] m e.1 (addErrs (kget [] m e.1) e.2)) s.mem.wrong } }

/-! ### Counts of the controllers (R351, R355, R356, R549) -/

/-- Count bytes that the controllers move (R549), by stack: `base` is 0xA0100 for reads and 0xA0104 for writes. -/
def State.countStack (base : Nat) (offs : List Nat) (s : State) : State :=
  (List.range 32).foldl (fun s i => s.incBytes (base + 8 * i) (offs.countP (fun o => decide (stackOf o = i)))) s

/-- The granules of a list of device offsets. -/
def offGranules (offs : List Nat) : List Nat := (offs.map (· / 32)).eraseDups

/-- Count `n` events at counter `base` of the stack of granule `g` (Table 11.12). -/
def State.incStk (base n g : Nat) (s : State) : State := s.inc (base + 0x20 * stackOf (32 * g)) n

/-- A codeword was corrected in a symbol. One that decodes through a known erasure does not count (R355, R358). -/
def State.corrected (g pin : Nat) (s : State) : State :=
  let i := stackOf (32 * g)
  let l := lgOf (32 * g)
  ((s.incStk 0x070400 1 g).inc (0x071000 + 0x80 * i + 4 * l) 1).modLg i l (fun x => { x with window := kmod 0 x.window pin (· + 1) })

/-- The pins of granule `g` whose symbols the decoder corrects other than through an erasure. -/
def State.fixedPins (s : State) (g : Nat) : List Nat :=
  (((s.codeAt g).getD []).filter (fun c => decide (c.2 ≠ 0) && !(s.lgAt g).erased c.1)).map (·.1)

/-- What a controller counts when it reads a codeword: a read of listed poison, an uncorrectable one, or a correction. -/
def State.readCode (g : Nat) (s : State) : State :=
  if s.mem.poison.contains g then s.incStk 0x070408 1 g
  else if (s.codeAt g).isNone then s.incStk 0x070404 1 g
  else (s.fixedPins g).foldl (fun (s : State) (p : Nat) => s.corrected g p) s

/-- Read the bytes at a list of device offsets. A LOST stack's controller takes no access (R508). -/
def State.memRead (offs : List Nat) (s : State) : List Byte × State :=
  let live := offs.filter (fun o => !s.stackLost (stackOf o))
  (offs.map s.memByte, (offGranules live).foldl (fun (s : State) (g : Nat) => s.readCode g) (s.countStack 0xA0100 live))

/-- Whether a device offset lies in the DEVICE region (R343), whose contents are the pier's own form of its tables and logs. -/
def inDevice (off : Nat) : Bool := decide (off % 2 ^ 35 < 0x10000000)

/-- Read the bytes at device offsets for a stream, a host or another chip. A byte of poison, or of the DEVICE region, is a free value:
no rule says what it reads as (log entry 64). -/
def State.readBytes (offs : List Nat) (s : State) : List Byte × State :=
  let r := s.memRead offs
  (offs.zip r.1).foldl (fun (acc : List Byte × State) (e : Nat × Byte) =>
    if s.poisoned e.1 || inDevice e.1 then
      let d := acc.2.draw
      (acc.1 ++ [BitVec.ofNat 8 (Config.free d.1)], d.2)
    else (acc.1 ++ [e.2], acc.2)) ([], r.2)

/-- Set bytes of device memory, in the canonical form. -/
def setBytes (m : List Host.Cell) (l : List (Nat × Byte)) : List Host.Cell :=
  l.foldl (fun m e => kset 0#8 m e.1 e.2) m

/-! ### Writes -/

/-- The granules whose every byte is among offsets. -/
def wholeGranules (offs : List Nat) : List Nat := (offGranules offs).filter (fun g =>
  let mine := offs.filter (fun o => decide (o / 32 = g))
  (List.range 32).all (fun i => mine.contains (32 * g + i)))

/-- The granules of which only a part is among offsets: a controller reads and merges them (R351). -/
def partGranules (offs : List Nat) : List Nat := (offGranules offs).filter (fun g => !(wholeGranules offs).contains g)

/-- The offsets of granules, in order. -/
def granOffs (gs : List Nat) : List Nat := gs.flatMap (fun g => (List.range 32).map (fun i => 32 * g + i))

/-- The bytes of those granules that read wrong and that the decoder corrects, as it corrects them. -/
def State.mends (s : State) (gs : List Nat) : List (Nat × Byte) :=
  (granOffs (gs.filter (fun g => !s.badCode g && !(s.errsAt g).isEmpty))).map (fun a => (a, s.memByte a))

/-- The granules are written back as they were read, but for those that stay poison: nothing reads wrong in them any more. -/
def State.mended (gs : List Nat) (s : State) : State :=
  { s with mem := { s.mem with bytes := setBytes s.mem.bytes (s.mends gs),
                               wrong := s.mem.wrong.filter (fun e => !gs.contains e.1 || s.badCode e.1) } }

/-- The writes that reach a controller: one of a LOST stack takes none (R508). -/
def State.liveWrites (s : State) (l : List (Nat × Byte)) : List (Nat × Byte) := l.filter (fun e => !s.stackLost (stackOf e.1))

/-- Those that are not merged into a codeword that is poison or cannot be corrected (R351). -/
def State.keptWrites (s : State) (l : List (Nat × Byte)) : List (Nat × Byte) :=
  let l := s.liveWrites l
  let part := partGranules (l.map (·.1))
  l.filter (fun e => !(part.contains (e.1 / 32) && s.badCode (e.1 / 32)))

/-- What the controllers count for writes at offsets: the bytes written, and the reads of the granules written in part. -/
def State.countWrite (offs : List Nat) (s : State) : State :=
  let part := partGranules offs
  part.foldl (fun (s : State) (g : Nat) =>
      let s := if s.mem.poison.contains g then s.incStk 0x070404 1 g else s
      (s.readCode g).incStk 0x070410 1 g)
    ((s.countStack 0xA0104 offs).countStack 0xA0100 (granOffs part))

/-- Write bytes at device offsets. Granules written in part are read first, corrected, and keep what they hold when they are poison
(R351); a granule written whole leaves the poison lists (R360). -/
def State.memWrite (l : List (Nat × Byte)) (s : State) : State :=
  let offs := (s.liveWrites l).map (·.1)
  let whole := wholeGranules offs
  let z := (s.countWrite offs).mended (partGranules offs)
  { z with mem := { z.mem with bytes := setBytes z.mem.bytes (s.keptWrites l),
                               wrong := z.mem.wrong.filter (fun e => !whole.contains e.1),
                               poison := z.mem.poison.filter (fun g => !whole.contains g) } }

/-- Consecutive addresses. -/
def addrs (a n : Nat) : List Nat := (List.range n).map (fun i => a + i)

/-- The device offset of address `a` of an allocation striped over a stack list at an in-stack base (R345). -/
def striped (list : List Nat) (ib a : Nat) : Nat :=
  let n := max 1 list.length
  list.getD (a / 4096 % n) 0 * 2 ^ 35 + ib + a / (4096 * n) * 4096 + a % 4096

/-- The address of an allocation striped over a stack list at an in-stack base that maps to a device offset: none outside its
`units` units. -/
def unstriped (list : List Nat) (ib units off : Nat) : Option Nat :=
  let o := off % 2 ^ 35
  if !list.contains (stackOf off) || decide (o < ib ∨ ib + units * 0x4000000 ≤ o) then none
  else some ((o - ib) / 4096 * (4096 * list.length) + 4096 * list.idxOf (stackOf off) + (o - ib) % 4096)

/-- The listed job in whose job area a device offset lies, and its address there (R344, R345). -/
def State.areaAt (s : State) (off : Nat) : Option (Job × Nat) :=
  s.jobs.findSome? (fun j => (unstriped j.2.stripe j.2.jobBase j.2.jobUnits off).map (fun a => (j.2, a)))

/-- The bytes of a job area. -/
def Job.areaBytes (j : Job) : Nat := j.jobUnits * 0x4000000 * j.stripe.length

/-- Byte `i` of a device-memory landing that begins at a device offset: landings are striped as the job area they lie in (R345). -/
def State.landOff (s : State) (base i : Nat) : Nat := match s.areaAt base with
  | none => base + i
  | some e => striped e.1.stripe e.1.jobBase (e.2 + i)

/-- The device offset of an address of the job plan region (R346). -/
def planAddr (a : Nat) : Nat := bitsAt a 30 5 * 2 ^ 35 + 0x7C0000000 + bitsAt a 0 30

/-- The in-stack offset of unit `u` of the POOL (R344). -/
def poolUnit (u : Nat) : Nat := 0x18000000 + u * 0x4000000

/-- The units of the POOL in each stack (R343). -/
def poolUnits : Nat := 490

/-- The stacks of a 32-bit mask, ascending. -/
def maskStacks (m : BitVec 32) : List Nat := (List.range 32).filter (fun i => m.getLsbD i)

/-- The stack list of an entry (R347). -/
def HotEntry.list (e : HotEntry) : List Nat := if e.footbridge then maskStacks e.copyA else List.range 32

/-- The mirror list of an entry (R348). -/
def HotEntry.mirrorList (e : HotEntry) : List Nat :=
  if e.footbridge then maskStacks (~~~e.copyA) else (List.range 32).map (fun i => i ^^^ 16)

/-- The device offset of an entry address (R347); reads of a LOST stack go to the mirror list, and a footbridge entry reads from
the copy that is whole (R508). -/
def State.entryAddr (s : State) (e : HotEntry) (a : Nat) : Nat :=
  let k := bitsAt a 35 5
  let off := bitsAt a 0 35
  let main := e.list.getD k 0
  let gone := if e.footbridge then e.list.any s.stackLost else s.stackLost main
  if (e.mirrored || e.viaMirror) && gone then e.mirrorList.getD k 0 * 2 ^ 35 + poolUnit e.mirrorUnit + off
  else main * 2 ^ 35 + poolUnit e.baseUnit + off

/-- The device offset of the mirror copy of an entry address. -/
def HotEntry.mirrorAddr (e : HotEntry) (a : Nat) : Nat :=
  e.mirrorList.getD (bitsAt a 35 5) 0 * 2 ^ 35 + poolUnit e.mirrorUnit + bitsAt a 0 35

/-! ### Allocation of the POOL (R344) -/

/-- A range of units in use on a stack list. -/
structure UnitRange where
  first : Nat
  len : Nat
  slist : List Nat
deriving DecidableEq, Repr

/-- What the hot set uses. -/
def State.hotUsed (s : State) : List UnitRange :=
  s.hot.flatMap (fun e =>
    if e.2.state = .empty then []
    else
      [{ first := e.2.baseUnit, len := e.2.slabUnits, slist := e.2.list },
       { first := e.2.storeUnit, len := e.2.storeUnits, slist := List.range 32 }]
      ++ (if e.2.mirrored || e.2.viaMirror then [{ first := e.2.mirrorUnit, len := e.2.slabUnits, slist := e.2.mirrorList }] else []))

/-- What the listed jobs use. -/
def State.jobUsed (s : State) : List UnitRange :=
  s.jobs.map (fun j => { first := (j.2.jobBase - 0x18000000) / 0x4000000, len := j.2.jobUnits, slist := j.2.stripe })

/-- What the hot set and the listed jobs use. -/
def State.used (s : State) : List UnitRange := s.hotUsed ++ s.jobUsed

/-- MEM_ALLOC takes its value at an allocation (R375): how far the hot set reaches from the POOL's foot and the job areas from
its top. -/
def State.noteAlloc (s : State) : State :=
  let top := (((s.hotUsed.filter (fun r => decide (r.len ≠ 0))).map (fun r => r.first + r.len)).max?).getD 0
  let low := (((s.jobUsed.filter (fun r => decide (r.len ≠ 0))).map (fun r => poolUnits - r.first)).max?).getD 0
  { s with mem := { s.mem with alloc := BitVec.ofNat 32 (fieldAt 16 16 top + fieldAt 0 16 low) } }

/-- Whether `n` units from `u` are free in every stack of a list. -/
def rangeFree (used : List UnitRange) (slist : List Nat) (u n : Nat) : Bool :=
  used.all (fun r => decide (r.len = 0) || decide (u + n ≤ r.first) || decide (r.first + r.len ≤ u)
    || !r.slist.any (fun i => slist.contains i))

/-- The lowest range of `n` units that is free in every stack of a list. -/
def lowestRange (used : List UnitRange) (slist : List Nat) (n : Nat) : Option Nat :=
  (List.range (poolUnits + 1 - n)).find? (fun u => rangeFree used slist u n)

/-- The highest range of `n` units that is free in every stack of a list. -/
def highestRange (used : List UnitRange) (slist : List Nat) (n : Nat) : Option Nat :=
  ((List.range (poolUnits + 1 - n)).reverse).find? (fun u => rangeFree used slist u n)

/-- The stacks that are not LOST. -/
def State.liveStacks (s : State) : List Nat := (List.range 32).filter (fun i => !s.stackLost i)

/-! ### The hot set -/

/-- A directory entry. -/
def State.entry (s : State) (e : Nat) : HotEntry := kget HotEntry.empty s.hot e

/-- Set a directory entry. -/
def State.setEntry (e : Nat) (x : HotEntry) (s : State) : State := { s with hot := kset HotEntry.empty s.hot e x }

/-- The entry that holds a MODEL_ID, EMPTY entries apart. -/
def State.entryOfModel? (s : State) (m : Nat) : Option Nat :=
  (s.hot.find? (fun e => decide (e.2.modelId = m ∧ e.2.state ≠ .empty))).map (·.1)

/-- The READY entry of a pack digest. -/
def State.readyEntry? (s : State) (d : BitVec 384) : Option Nat :=
  (s.hot.find? (fun e => decide (e.2.digest = d ∧ e.2.state = .ready))).map (·.1)

/-- Whether an entry is held by a listed job (R442). -/
def State.entryHeld (s : State) (e : Nat) : Bool :=
  s.jobs.any (fun j => decide (j.2.entry = some e) || decide (j.2.fbEntry = some e))

/-- The address of record `l` of a variant slot (R451), striped over all stacks (R345). -/
def HotEntry.variantOff (e : HotEntry) (slot l i : Nat) : Nat :=
  striped (List.range 32) (poolUnit e.storeUnit) ((slot * e.layers + l) * 4096 + i)

/-- The owner of a variant slot. -/
def HotEntry.owner? (e : HotEntry) (slot : Nat) : Option Nat := kfind? e.owners slot

end Sys2Proof.Machine
end

