-- ==== Sys2Proof/Machine/KvStore.lean ====
section
/-! DEFINITION. The key-value store (chapter 05): frame pools, page tables, provisioning at the cut, copy-on-write, the
prefix tree, release at the keystone. -/

namespace Sys2Proof.Machine
open Sys2Proof

/-! ### Classes and layers -/

/-- The key-value classes of the running job. -/
def State.kvClasses (s : State) : List KvClass := match s.bitstream? with
  | none => []
  | some b => b.kvClasses

/-- L_c: the cache layers of every class (R323). -/
def State.cacheLayers (s : State) : Nat := ((s.kvClasses.map (·.layers)).sum)

/-- The class of a cache layer. -/
def State.layerClass? (s : State) (l : Nat) : Option KvClass :=
  s.kvClasses.find? (fun c => decide (c.first ≤ l ∧ l < c.first + c.layers))

/-- Bytes of one unit of a class (R148): 16 tokens of one cache layer. -/
def KvClass.unitBytes (c : KvClass) : Nat := 16 * (c.nKv * c.dH * 9 / 8)

/-- Bytes that one head's keys or values of one position take: 9 · D_h / 16 (R150). -/
def KvClass.headBytes (c : KvClass) : Nat := 9 * c.dH / 16

/-- The device offset of an address of the running job's job area (R344, R345). -/
def State.jobAddr (s : State) (a : Nat) : Nat := match s.job? with
  | none => 0
  | some j => striped j.stripe j.jobBase a

/-- A frame pool. -/
def State.pool (s : State) (c : Nat) : Pool := kget { units := 0, unitBytes := 0, base := 0, used := [] } s.kv.pools c

/-- The job-area address of byte `i` of a frame (R151). -/
def State.frameAddr (s : State) (c frame i : Nat) : Nat :=
  let p := s.pool c
  s.jobAddr (p.base + frame * p.unitBytes + i)

/-! ### Frames (R148, R153) -/

/-- The lowest free frame of 2^o units of a pool, aligned to its size. -/
def Pool.lowest (p : Pool) (o : Nat) : Option Nat :=
  let n := 2 ^ o
  ((List.range (p.units / n)).map (· * n)).find? (fun f =>
    p.used.all (fun u => decide (u.1 + 2 ^ u.2 ≤ f) || decide (f + n ≤ u.1)))

/-- Free units of a pool. -/
def Pool.free (p : Pool) : Nat := p.units - (p.used.map (fun u => 2 ^ u.2)).sum

/-- Set a pool. -/
def State.setPool (c : Nat) (p : Pool) (s : State) : State := { s with kv := { s.kv with pools := kins s.kv.pools c p } }

/-- Return a frame to its pool. -/
def State.freeFrame (c frame : Nat) (s : State) : State :=
  let p := s.pool c
  s.setPool c { p with used := p.used.filter (fun u => u.1 ≠ frame) }

/-- Zero-fill a frame (R153). -/
def State.zeroFrame (c frame o : Nat) (s : State) : State :=
  let n := 2 ^ o * (s.pool c).unitBytes
  let s := s.memWrite ((List.range n).map (fun i => (s.frameAddr c frame i, 0#8)))
  s.inc 0x040104 (2 ^ o)

/-! ### Page tables (R151) -/

/-- A page-table entry (Table 5.3). -/
structure PtEntry where
  valid : Bool
  shared : Bool
  order : Nat
  frame : Nat
  fset : Nat
deriving DecidableEq, Repr

/-- The job-area address of the entry of cache layer `l`, page `k`, of a table. -/
def State.ptAddr (s : State) (base l k i : Nat) : Nat := s.jobAddr (base + 8 * (k * s.cacheLayers + l) + i)

/-- Read a page-table entry. -/
def State.ptRead (s : State) (base l k : Nat) : PtEntry :=
  let v := bytesToNat ((List.range 8).map (fun i => s.memByte (s.ptAddr base l k i)))
  { valid := v.testBit 37, shared := v.testBit 36, order := bitsAt v 32 4, frame := bitsAt v 0 32, fset := bitsAt v 40 24 }

/-- Write a page-table entry. -/
def State.ptWrite (base l k : Nat) (e : PtEntry) (s : State) : State :=
  let v := fieldAt 40 24 e.fset + fieldAt 37 1 (bit e.valid) + fieldAt 36 1 (bit e.shared) + fieldAt 32 4 e.order
    + fieldAt 0 32 e.frame
  let bs := natToBytes 8 v
  s.memWrite ((List.range 8).map (fun i => (s.ptAddr base l k i, bs.getD i 0#8)))

/-- The lowest free, 64-byte aligned place of `n` bytes in the page-table pool. -/
def ptLowest (base : Nat) (used : List (Nat × Nat)) (n : Nat) : Nat :=
  let cands := base :: used.map (fun u => 64 * cdiv (u.1 + u.2) 64)
  ((cands.filter (fun a => used.all (fun u => decide (u.1 + u.2 ≤ a) || decide (a + n ≤ u.1)))).min?).getD base

/-- Allocate a page table of `rows` rows filled with entries that are not VALID (order 2 of Table 5.4). DESIGN CHOICE (log entry 62):
the spec gives the area of the page tables no bound that a table could miss, and the model takes the place whatever its end. -/
def State.ptAlloc (rows : Nat) (s : State) : Nat × State :=
  let n := 8 * rows * s.cacheLayers
  let a := ptLowest s.kv.ptBase s.kv.ptUsed n
  let s := s.memWrite ((List.range n).map (fun i => (s.jobAddr (a + i), 0#8)))
  (a, { s with kv := { s.kv with ptUsed := s.kv.ptUsed ++ [(a, n)] } })

/-! ### The prefix tree (R160 to R165) -/

/-- A frame set. -/
def State.fset? (s : State) (i : Nat) : Option FrameSet := kfind? s.kv.fsets i

/-- Change the reference count of a frame set. -/
def State.fsetRef (i : Nat) (f : Nat → Nat) (s : State) : State :=
  { s with kv := { s.kv with fsets := kupd s.kv.fsets i (fun x => { x with refs := f x.refs }) } }

/-- The child of a node that covers a block of tokens; parent 0 is the root. -/
def State.child? (s : State) (root : RootKey) (parent : Nat) (toks : List Nat) : Option (Nat × TreeNode) :=
  s.kv.nodes.find? (fun n => decide (n.2.root = root ∧ n.2.parent = parent ∧ n.2.tokens = toks))

/-- The walk of a tree along blocks of tokens: the nodes met, shallowest first. -/
def State.walk (s : State) (root : RootKey) : Nat → List (List Nat) → List (Nat × TreeNode)
  | _, [] => []
  | parent, b :: rest => match s.child? root parent b with
    | none => []
    | some n => n :: s.walk root n.1 rest

/-- Whole blocks of 16 tokens of a prompt. -/
def blocks16 (toks : List Nat) : List (List Nat) := (chunks 16 (toks.length / 16) toks).filter (fun b => b.length = 16)

/-- What R164 matches for a prompt: the matched length d, the frame set of each page that is entered, and the nodes used. -/
def State.matchPrefix (s : State) (root : RootKey) (prompt : List Nat) (promptLen : Nat) :
    Nat × List (Nat × Nat) × List Nat :=
  let p := 2 ^ root.pageLog2
  let w := s.walk root 0 (blocks16 prompt)
  let sets := w.filterMap (fun n => n.2.fset.map (fun f => (n.1, n.2.depth, f)))
  let cap := (promptLen - 1) / 16 * 16
  let d0 := min (((sets.map (fun e => e.2.1)).max?).getD 0) cap
  let at? (depth : Nat) : Option (Nat × Nat × Nat) := sets.find? (fun e => e.2.1 = depth)
  let whole := (List.range (d0 / p)).map (fun k => at? ((k + 1) * p))
  let good := (whole.takeWhile (·.isSome)).length
  let full := ((whole.take good).filterMap id).zipIdx.map (fun e => (e.2, e.1.2.2, e.1.1))
  if good < d0 / p then (good * p, full.map (fun e => (e.1, e.2.1)), full.map (·.2.2))
  else if d0 % p = 0 then (d0, full.map (fun e => (e.1, e.2.1)), full.map (·.2.2))
  else
    let k := d0 / p
    match sets.find? (fun e => decide (d0 ≤ e.2.1 ∧ e.2.1 ≤ (k + 1) * p)) with
    | none => (k * p, full.map (fun e => (e.1, e.2.1)), full.map (·.2.2))
    | some e => (d0, full.map (fun e => (e.1, e.2.1)) ++ [(k, e.2.2)], full.map (·.2.2) ++ [e.1])

/-- Touch nodes: they were matched now. -/
def State.touchNodes (ids : List Nat) (s : State) : State :=
  { s with kv := { s.kv with nodes := s.kv.nodes.map (fun n =>
                      if ids.contains n.1 then (n.1, { n.2 with lastUse := s.time }) else n) } }

/-- Whether `a` is a proper ancestor of node `n`; fuel bounds the depth. -/
def State.isAncestor (s : State) (a : Nat) : Nat → Nat → Bool
  | 0, _ => false
  | fuel + 1, n => match kfind? s.kv.nodes n with
    | none => false
    | some x => decide (x.parent = a) || s.isAncestor a fuel x.parent

/-- Remove a node's ancestors that are left with neither a frame set nor a child. -/
def State.pruneUp : Nat → Nat → State → State
  | 0, _, s => s
  | fuel + 1, n, s => match kfind? s.kv.nodes n with
    | none => s
    | some x =>
      if x.fset.isSome || s.kv.nodes.any (fun e => e.2.parent = n) then s
      else State.pruneUp fuel x.parent { s with kv := { s.kv with nodes := kdel s.kv.nodes n } }

/-- The nodes that hold a frame set. -/
def State.holders (s : State) (f : Nat) : Nat := s.kv.nodes.countP (fun n => decide (n.2.fset = some f))

/-- Return the frames of a frame set to their pools; it is no more. -/
def State.freeSet (f : Nat) (s : State) : State :=
  let frames := ((s.fset? f).map (·.frames)).getD []
  let s := frames.zipIdx.foldl (fun s e => match s.layerClass? e.2 with
    | none => s
    | some c => s.freeFrame c.cls e.1) s
  { s with kv := { s.kv with fsets := kdel s.kv.fsets f } }

/-- Evict one frame set (R161): one that no page table references and whose node has no descendant holding one, the least
recently matched or inserted first; none when nothing can be evicted. A set that a second node holds loses this node only.
DESIGN CHOICE (log entry 62): of nodes matched or inserted at one instant the one with the lower number goes first. -/
def State.evictOne (s : State) : Option State :=
  let fuel := s.kv.nodes.length
  let cands := s.kv.nodes.filter (fun n => match n.2.fset with
    | none => false
    | some f => decide ((s.fset? f).map (·.refs) = some (s.holders f))
        && !s.kv.nodes.any (fun m => m.2.fset.isSome && s.isAncestor n.1 fuel m.1))
  let best := cands.foldl (fun (b : Option (Nat × TreeNode)) n => match b with
    | none => some n
    | some m => if n.2.lastUse < m.2.lastUse then some n else some m) none
  match best with
  | none => none
  | some n =>
    let f := n.2.fset.getD 0
    let s := if s.holders f = 1 then (s.freeSet f).inc 0x040114 1 else s.fsetRef f (· - 1)
    let gone := s.kv.nodes.filter (fun m => s.isAncestor n.1 fuel m.1)
    let nodes := gone.foldl (fun m e => kdel m e.1) (kdel s.kv.nodes n.1)
    some (State.pruneUp fuel n.2.parent { s with kv := { s.kv with nodes := nodes } })

/-- Allocate a frame of 2^o units of class `c`, evicting as long as the pool is short (R161). -/
def State.allocFrame (c o : Nat) : Nat → State → Option Nat × State
  | 0, s => (none, s)
  | fuel + 1, s => match (s.pool c).lowest o with
    | some f =>
      let p := s.pool c
      (some f, s.setPool c { p with used := p.used ++ [(f, o)] })
    | none => match s.evictOne with
      | none => (none, s)
      | some s' => State.allocFrame c o fuel s'

/-- A frame allocated at a cut, which order 5 of Table 5.4 fills: its class, its first unit and its order. -/
structure CutFrame where
  cls : Nat
  frame : Nat
  order : Nat
deriving DecidableEq, Repr

/-- A copy that R160 makes at a cut: from one frame of a class to another, the first `n` positions of a page. -/
structure CutCopy where
  cls : KvClass
  pageLog2 : Nat
  src : Nat
  dst : Nat
  n : Nat
deriving DecidableEq, Repr

/-- Allocate a private frame for cache layer `l` and page `k` of a table; none when none can be had. -/
def State.takeFrame (base l k o : Nat) (c : KvClass) (s : State) : Option CutFrame × State :=
  match State.allocFrame c.cls o (s.kv.nodes.length + 1) s with
  | (none, s) => (none, s)
  | (some f, s) => (some { cls := c.cls, frame := f, order := o },
      s.ptWrite base l k { valid := true, shared := false, order := o, frame := f, fset := 0 })

/-- Allocate the missing frames of page `k` of a table, layer by layer (order 3 of Table 5.4); false when a frame cannot be
allocated: those already allocated are kept (R154). -/
def State.fillPage (base k o : Nat) : List Nat → State → Bool × List CutFrame × State
  | [], s => (true, [], s)
  | l :: rest, s =>
    if (s.ptRead base l k).valid then State.fillPage base k o rest s
    else match s.layerClass? l with
      | none => State.fillPage base k o rest s
      | some c => match s.takeFrame base l k o c with
        | (none, s) => (false, [], s)
        | (some f, s) =>
          let r := State.fillPage base k o rest s
          (r.1, f :: r.2.1, r.2.2)

/-- Order 3 of Table 5.4 over the pages of a write range. -/
def State.fillPages (base pageLog2 : Nat) : List Nat → State → Bool × List CutFrame × State
  | [], s => (true, [], s)
  | k :: rest, s => match State.fillPage base k (pageLog2 - 4) (List.range s.cacheLayers) s with
    | (false, fs, s) => (false, fs, s)
    | (true, fs, s) =>
      let r := State.fillPages base pageLog2 rest s
      (r.1, fs ++ r.2.1, r.2.2)

/-- Order 5: a zero fill of every frame allocated at a cut. -/
def State.zeroFrames (fs : List CutFrame) (s : State) : State :=
  fs.foldl (fun (s : State) (f : CutFrame) => s.zeroFrame f.cls f.frame f.order) s

/-- The offset of the key (value when `v`) bytes of head `h`, slot `z` within a page of 2^pageLog2 positions (R150). -/
def KvClass.slotOff (c : KvClass) (pageLog2 h z : Nat) (v : Bool) : Nat :=
  let p := 2 ^ pageLog2
  2 * p * c.headBytes * h + c.headBytes * z + (if v then p * c.headBytes else 0)

/-- Copy the first `n` positions of a page of one cache layer from one frame to another (R160). -/
def State.copyPage (c : KvClass) (pageLog2 src dst n : Nat) (s : State) : State :=
  let offs := (List.range c.nKv).flatMap (fun h => [false, true].flatMap (fun v =>
    addrs (c.slotOff pageLog2 h 0 v) (n * c.headBytes)))
  let r := s.memRead (offs.map (s.frameAddr c.cls src))
  r.2.memWrite ((offs.map (s.frameAddr c.cls dst)).zip r.1)

/-- Whether an entry of page `k` of a table is SHARED. -/
def State.pageShared (s : State) (base k : Nat) : Bool :=
  (List.range s.cacheLayers).any (fun l => (s.ptRead base l k).valid && (s.ptRead base l k).shared)

/-- Copy-on-write of page `k` for a sequence of committed length `len` (R160), layer by layer: private frames take the place of the
shared ones, and the frame set loses the table with the last of them. False when a frame cannot be allocated: the layers that
have theirs keep them (R154). -/
def State.cowLayers (base k pageLog2 len : Nat) : List Nat → State → Bool × List CutFrame × List CutCopy × State
  | [], s => (true, [], [], s)
  | l :: rest, s =>
    let e := s.ptRead base l k
    if !(e.valid && e.shared) then State.cowLayers base k pageLog2 len rest s
    else match s.layerClass? l with
      | none => State.cowLayers base k pageLog2 len rest s
      | some c => match s.takeFrame base l k (pageLog2 - 4) c with
        | (none, s) => (false, [], [], s)
        | (some f, s) =>
          let s := if s.pageShared base k then s else (s.fsetRef e.fset (· - 1)).inc 0x040108 1
          let r := State.cowLayers base k pageLog2 len rest s
          let y : CutCopy := { cls := c, pageLog2 := pageLog2, src := e.frame, dst := f.frame,
                               n := min (len - k * 2 ^ pageLog2) (2 ^ pageLog2) }
          (r.1, f :: r.2.1, y :: r.2.2.1, r.2.2.2)

/-- Order 4 of Table 5.4 over the pages of a write range. -/
def State.cowPages (base pageLog2 len : Nat) : List Nat → State → Bool × List CutFrame × List CutCopy × State
  | [], s => (true, [], [], s)
  | k :: rest, s => match State.cowLayers base k pageLog2 len (List.range s.cacheLayers) s with
    | (false, fs, cs, s) => (false, fs, cs, s)
    | (true, fs, cs, s) =>
      let r := State.cowPages base pageLog2 len rest s
      (r.1, fs ++ r.2.1, cs ++ r.2.2.1, r.2.2.2)

/-- The copies of R160, after the fills of the same cut (R153). -/
def State.copyPages (cs : List CutCopy) (s : State) : State :=
  cs.foldl (fun (s : State) (y : CutCopy) => s.copyPage y.cls y.pageLog2 y.src y.dst y.n) s

/-- The pages that positions `lo` to `hi` touch. -/
def pagesOf (pageLog2 lo hi : Nat) : List Nat :=
  if hi < lo then [] else addrs (lo / 2 ^ pageLog2) (hi / 2 ^ pageLog2 - lo / 2 ^ pageLog2 + 1)

/-- The root key of a request's tree (R162). -/
def State.rootKey (s : State) (q : Request) : RootKey :=
  { entry := (s.entryOfModel? q.modelId).getD 64, variant := q.variant, pageLog2 := q.pageLog2, partition := q.partition,
    fixed := s.fixed }

/-- Insert one block's node when the tree lacks it: its number. -/
def State.addNode (root : RootKey) (parent depth : Nat) (toks : List Nat) (s : State) : Nat × State :=
  match s.child? root parent toks with
  | some n => (n.1, s)
  | none =>
    let id := s.kv.nextId
    let n : TreeNode := { root := root, parent := parent, depth := depth, tokens := toks, fset := none, lastUse := s.time }
    (id, { s with kv := { s.kv with nodes := kins s.kv.nodes id n, nextId := id + 1 } })

/-- Give a node a page of a sequence's own table as its frame set (R165): a private page becomes a frame set, with the table and the
tree as its holders; of a page that is shared already the node holds the set too. -/
def State.sharePage (node base k : Nat) (s : State) : State :=
  let layers := List.range s.cacheLayers
  let es := layers.map (fun l => s.ptRead base l k)
  let give (n : TreeNode) (f : Nat) (s : State) : State :=
    { s with kv := { s.kv with nodes := kins s.kv.nodes node { n with fset := some f, lastUse := s.time } } }
  match kfind? s.kv.nodes node with
  | none => s
  | some n =>
    if n.fset.isSome || es.any (fun e => !e.valid) then s
    else if es.all (·.shared) then
      let f := (es.head?.map (·.fset)).getD 0
      ((give n f s).fsetRef f (· + 1)).inc 0x040110 1
    else if es.any (·.shared) then s
    else
      let id := 1 + (firstBelow (s.kv.fsets.length + 1) (fun i => (s.fset? (i + 1)).isNone)).getD 0
      let order := (es.head?.map (·.order)).getD 0
      let fs : FrameSet := { refs := 2, order := order, frames := es.map (·.frame) }
      let s := give n id { s with kv := { s.kv with fsets := kins s.kv.fsets id fs } }
      let s := es.zipIdx.foldl (fun s e => s.ptWrite base e.2 k { e.1 with shared := true, fset := id }) s
      s.inc 0x040110 1

/-- The insertion of R165 for a request whose committed length has reached S. -/
def State.insertPrefix (q : Request) (s : State) : State :=
  let root := s.rootKey q
  let p := 2 ^ q.pageLog2
  let sLen := q.shareLen / 16 * 16
  let bs := blocks16 (q.prompt.take sLen)
  let r := bs.zipIdx.foldl (fun (acc : Nat × State) e =>
    let depth := 16 * (e.2 + 1)
    let a := acc.2.addNode root acc.1 depth e.1
    let s := if depth % p = 0 then a.2.sharePage a.1 q.ptBase (depth / p - 1)
      else if depth = sLen then a.2.sharePage a.1 q.ptBase (sLen / p) else a.2
    (a.1, s)) (0, s)
  r.2

/-- Release a sequence's frames and its page table of `rows` rows (R155). -/
def State.releaseTable (base rows : Nat) (s : State) : State :=
  if rows = 0 then s
  else
    let s := (List.range rows).foldl (fun s k =>
      let shared := ((List.range s.cacheLayers).map (fun l => s.ptRead base l k)).find? (fun e => e.valid && e.shared)
      let s := match shared with
        | none => s
        | some e => s.fsetRef e.fset (· - 1)
      (List.range s.cacheLayers).foldl (fun s l =>
        let e := s.ptRead base l k
        if e.valid && !e.shared then match s.layerClass? l with
          | none => s
          | some c => s.freeFrame c.cls e.frame
        else s) s) s
    { s with kv := { s.kv with ptUsed := s.kv.ptUsed.filter (fun u => u.1 ≠ base) } }

/-- Release at a keystone the tables whose requests have ended since the last one, and the frame sets that neither a table nor a node
holds any more. -/
def State.releaseOrphans (s : State) : State :=
  let s := s.kv.orphans.foldl (fun s o => s.releaseTable o.1 o.2) s
  let s := { s with kv := { s.kv with orphans := [] } }
  ((s.kv.fsets.filter (fun f => f.2.refs = 0)).map (·.1)).foldl (fun (s : State) (f : Nat) => s.freeSet f) s

/-- The gauges of Table 5.6 take their values at a cut or keystone. -/
def State.takeGauges (s : State) : State :=
  let held := ((s.kv.nodes.filterMap (fun n => n.2.fset)).eraseDups).length
  let g := (List.range 4).map (fun c => (c, (s.pool c).free)) ++ (List.range 4).map (fun c => (4 + c, (s.pool c).units))
    ++ [(8, held)]
  { s with obs := { s.obs with kvGauges := g } }

end Sys2Proof.Machine
end

