-- ==== Sys2Proof/Machine/Sha.lean ====
section
/-! DEFINITION. SHA-384 as FIPS 180-4 defines it, and the cyclic redundancy checks of the links and records. -/

namespace Sys2Proof.Machine
open Sys2Proof

/-- The greatest number whose `k`-th power is at most `n`, searched bit by bit below a bit position. -/
def rootBits (k n : Nat) : Nat → Nat → Nat
  | 0, r => r
  | b + 1, r => rootBits k n b (if (r + 2 ^ b) ^ k ≤ n then r + 2 ^ b else r)

/-- The first 64 bits of the fraction of the `k`-th root of a number below 512. -/
def rootFrac (k p : Nat) : Nat := rootBits k (p * 2 ^ (64 * k)) 69 0 % 2 ^ 64

/-- The first 80 primes. -/
def shaPrimes : List Nat := (List.range 410).filter (fun n => decide (2 ≤ n) && (List.range 21).all (fun d =>
  decide (d < 2 ∨ n ≤ d ∨ n % d ≠ 0)))

/-- The 80 round constants: from the cube roots of the first 80 primes. -/
def shaConsts : List Nat := shaPrimes.map (rootFrac 3)

/-- The initial hash value of SHA-384: from the square roots of the ninth to the sixteenth prime. -/
def shaStart : List Nat := ((shaPrimes.drop 8).take 8).map (rootFrac 2)

/-- Rotation of a 64-bit word to the right. -/
def ror64 (x n : Nat) : Nat := (x >>> n) ||| ((x <<< (64 - n)) % 2 ^ 64)

/-- The message schedule: the last 16 words, newest first, extended by `n` words; all words oldest first. -/
def shaSchedule : Nat → List Nat → List Nat → List Nat
  | 0, _, acc => acc.reverse
  | n + 1, w, acc =>
    let w15 := w.getD 14 0
    let w2 := w.getD 1 0
    let s0 := ror64 w15 1 ^^^ ror64 w15 8 ^^^ (w15 >>> 7)
    let s1 := ror64 w2 19 ^^^ ror64 w2 61 ^^^ (w2 >>> 6)
    let x := (w.getD 15 0 + s0 + w.getD 6 0 + s1) % 2 ^ 64
    shaSchedule n (x :: w.take 15) (x :: acc)

/-- One round on the working variables a to h with the constant and the schedule word. -/
def shaRound (v : List Nat) (kw : Nat × Nat) : List Nat :=
  match v with
  | [a, b, c, d, e, f, g, h] =>
    let s1 := ror64 e 14 ^^^ ror64 e 18 ^^^ ror64 e 41
    let ch := (e &&& f) ^^^ ((2 ^ 64 - 1 - e) &&& g)
    let t1 := (h + s1 + ch + kw.1 + kw.2) % 2 ^ 64
    let s0 := ror64 a 28 ^^^ ror64 a 34 ^^^ ror64 a 39
    let mj := (a &&& b) ^^^ (a &&& c) ^^^ (b &&& c)
    [(t1 + s0 + mj) % 2 ^ 64, a, b, c, (d + t1) % 2 ^ 64, e, f, g]
  | _ => v

/-- The big-endian number that a byte string spells. -/
def bytesToNatBE (bs : List Byte) : Nat := bs.foldl (fun a b => 256 * a + b.toNat) 0

/-- One block of 128 bytes. -/
def shaBlock (h : List Nat) (blk : List Byte) : List Nat :=
  let w := (List.range 16).map (fun i => bytesToNatBE (byteSlice blk (8 * i) 8))
  let ws := w ++ shaSchedule 64 w.reverse []
  let v := (shaConsts.zip ws).foldl shaRound h
  (h.zip v).map (fun p => (p.1 + p.2) % 2 ^ 64)

/-- SHA-384 of a byte string, as the 48 digest bytes read as one little-endian number. -/
def sha384 (bs : List Byte) : BitVec 384 :=
  let n := bs.length
  let pad := (239 - n % 128) % 128
  let lenBytes := (natToBytes 16 (8 * n)).reverse
  let m := bs ++ [0x80#8] ++ List.replicate pad 0#8 ++ lenBytes
  let h := (chunks 128 (m.length / 128) m).foldl shaBlock shaStart
  BitVec.ofNat 384 (bytesToNat ((h.take 6).flatMap (fun x => (natToBytes 8 x).reverse)))

/-- The 48 bytes of a digest. -/
def digestBytes (d : BitVec 384) : List Byte := natToBytes 48 d.toNat

/-- A digest from 48 bytes. -/
def bytesDigest (bs : List Byte) : BitVec 384 := BitVec.ofNat 384 (leAt bs 0 48)

end Sys2Proof.Machine
end

