-- ==== Sys2Proof/Machine/Container.lean ====
section
/-! DEFINITION. The container of a configuration bitstream (chapter 10): its sections, the checks of load step 2
(R304, R305, R326), and CRC-32C. -/

namespace Sys2Proof.Machine
open Sys2Proof

/-- The result of a load check that fails (Tables 10.12 to 10.14): its code, the failing section, that section's plan
(7 for a plan-independent section), logical span and record. -/
structure LoadErr where
  code : Nat
  sect : Nat
  plan : Nat
  lspan : Nat
  record : Nat
deriving DecidableEq, Repr

/-- A section (Table 10.1). -/
structure Sect where
  index : Nat
  type : Nat
  plan : Nat
  version : Nat
  length : Nat
  count : Nat
  crc : Nat
  start : Nat                          -- offset of its header
  body : List Byte
deriving DecidableEq, Repr

/-- PLAN as JOB_LOAD_STATUS reports it. -/
def planCode (p : Nat) : Nat := if p = 0xFF then 7 else p % 8

/-- An error at a section. -/
def Sect.err (x : Sect) (code : Nat) : LoadErr :=
  { code := code, sect := x.index, plan := planCode x.plan, lspan := 0, record := 0 }

/-- An error at a record of a section. -/
def Sect.errAt (x : Sect) (code lspan record : Nat) : LoadErr :=
  { code := code, sect := x.index, plan := planCode x.plan, lspan := lspan, record := record % 4096 }

/-! ### CRC-32C (R304) -/

/-- One bit of the reflected CRC with polynomial 0x1EDC_6F41. -/
def crc32cBit : Nat → Nat → Nat
  | 0, c => c
  | n + 1, c => crc32cBit n (if c % 2 = 1 then (c / 2) ^^^ 0x82F63B78 else c / 2)

/-- CRC-32C of a byte string. -/
def crc32c (bs : List Byte) : Nat :=
  (bs.foldl (fun c b => crc32cBit 8 (c ^^^ b.toNat)) 0xFFFFFFFF) ^^^ 0xFFFFFFFF

/-! ### Cutting into sections -/

/-- The sections of a bitstream of `total` bytes; the first section that runs past its end gives SIZE (R335). -/
def cutSections (total : Nat) : Nat → Nat → Nat → List Byte → List Sect × Option LoadErr
  | 0, _, _, _ => ([], none)
  | fuel + 1, idx, off, bs =>
    if off ≥ total then ([], none)
    else if off + 16 > total then
      ([], some { code := 0x01, sect := idx, plan := 7, lspan := 0, record := 0 })
    else
      let plan := leAt bs 2 1
      let len := leAt bs 4 4
      if off + 16 + len > total then
        ([], some { code := 0x01, sect := idx, plan := planCode plan, lspan := 0, record := 0 })
      else
        let x : Sect := { index := idx, type := leAt bs 0 2, plan := plan, version := leAt bs 3 1, length := len,
                          count := leAt bs 8 4, crc := leAt bs 12 4, start := off, body := byteSlice bs 16 len }
        let r := cutSections total fuel (idx + 1) (off + 16 + len) (bs.drop (16 + len))
        (x :: r.1, r.2)

/-! ### Records of varying length -/

/-- The records of a PROGRAMS body (R313): logical span and instructions; none when they do not fill it. -/
def cutImages : Nat → List Byte → Option (List (Nat × List Byte × List (BitVec 128)))
  | 0, bs => if bs.isEmpty then some [] else none
  | n + 1, bs =>
    let c := leAt bs 2 2
    if bs.length < 16 + 16 * c then none
    else
      let ws := (List.range c).map (fun i => BitVec.ofNat 128 (leAt (bs.drop (16 + 16 * i)) 0 16))
      (cutImages n (bs.drop (16 + 16 * c))).map (fun r => (leAt bs 0 1, bs.take 16, ws) :: r)

/-- The records of a TABLES body (R317): header and contents. -/
def cutTables : Nat → List Byte → Option (List (List Byte × List Byte))
  | 0, bs => if bs.isEmpty then some [] else none
  | n + 1, bs =>
    let len := leAt bs 12 4
    let pad := 16 * cdiv len 16
    if bs.length < 16 + pad then none
    else (cutTables n (bs.drop (16 + pad))).map (fun r => (bs.take 16, byteSlice bs 16 len) :: r)

/-- The rows of a head map (R312). -/
def cutRows : Nat → List Byte → Option (List (List Nat) × List Byte)
  | 0, bs => some ([], bs)
  | n + 1, bs =>
    let m := leAt bs 0 1
    let pad := 16 * cdiv (m + 1) 16
    if bs.length < pad then none
    else (cutRows n (bs.drop pad)).map (fun r => ((byteSlice bs 1 m).map (·.toNat) :: r.1, r.2))

/-- The maps of a HEAD_MAPS body: index and rows. -/
def cutMaps : Nat → List Byte → Option (List (Nat × List (List Nat)))
  | 0, bs => if bs.isEmpty then some [] else none
  | n + 1, bs =>
    if bs.length < 16 then none
    else match cutRows (leAt bs 2 1) (bs.drop 16) with
      | none => none
      | some (rows, rest) => (cutMaps n rest).map (fun r => (leAt bs 0 2, rows) :: r)

/-- Whether COUNT matches the body, by section type. -/
def Sect.countOk (x : Sect) : Bool :=
  let n := x.count
  let len := x.length
  match x.type with
  | 0x01 => decide (n = 1 ∧ len = 128)
  | 0x02 => decide (n ≤ 256 ∧ len = 128 + 16 * n)
  | 0x03 => decide (len = 16 * n)
  | 0x04 => decide (len = 16 * n)
  | 0x05 => decide (16 * n ≤ len) && (cutImages n x.body).isSome
  | 0x06 => decide (n ≤ 4096 ∧ len = 128 * n)
  | 0x07 => decide (16 * n ≤ len) && (cutTables n x.body).isSome
  | 0x08 => decide (1 ≤ n ∧ len = 128 + 16 * (n - 1))
  | 0x09 => decide (len = 16 * n)
  | 0x0A => decide (16 * n ≤ len) && (cutMaps n x.body).isSome
  | 0x0B => decide (len = 16 * n)
  | 0x0C => decide (n = 1 ∧ len = 128)
  | 0x0D => decide (len = 32 * n)
  | 0x0E => decide (len = 32 * n)
  | 0x0F => decide (n = 1 ∧ 108 ≤ len ∧ len = 16 * cdiv (108 + leAt x.body 104 4) 16)
  | _ => true

/-- Types that are private to Balir (R305). -/
def Sect.balir (x : Sect) : Bool := decide (0x80 ≤ x.type ∧ x.type ≤ 0xFF)

/-- The HEADER check of one section. -/
def Sect.headerOk (x : Sect) : Bool :=
  (x.balir || decide (1 ≤ x.type ∧ x.type ≤ 0x0F)) && decide (x.version = 1) && decide (x.length % 16 = 0) && x.countOk
    && (decide (x.type ≠ 0x01) || decide (leAt x.body 0 4 = 0x53425859))

/-- Whether PLAN is allowed for the section's type (Table 10.2, R306). -/
def Sect.planOk (selftest : Bool) (x : Sect) : Bool :=
  if x.balir then true
  else if x.type = 0x03 ∨ x.type = 0x04 ∨ x.type = 0x05 ∨ x.type = 0x06 ∨ x.type = 0x08 then decide (x.plan ≤ 5)
  else if x.type = 0x09 then decide (x.plan = 0 ∨ x.plan = 2 ∨ x.plan = 3) && !selftest
  else decide (x.plan = 0xFF)

/-- The ORDER check: the first section that breaks R305 or R306. -/
def orderErr (sects : List Sect) : Option LoadErr :=
  let selftest := decide ((sects.find? (fun x => x.type = 0x01)).map (fun x => leAt x.body 4 1) = some 3)
  let last := sects.length - 1
  if sects.isEmpty then some { code := 0x04, sect := 0, plan := 7, lspan := 0, record := 0 }
  else (sects.find? (fun x =>
    decide ((x.index = 0) ≠ (x.type = 0x01)) || decide ((x.index = last) ≠ (x.type = 0x0F))
      || (sects.take x.index).any (fun y => decide (y.type = x.type ∧ y.plan = x.plan)) || !x.planOk selftest)).map
    (fun x => x.err 0x04)

/-- Whether a signature block verifies over a digest under one accepted key pair (R326, R586). -/
def blockOk (accept : BitVec 32 → Bool) (keys : List KeyPair) (digest : BitVec 384) (block : List Byte) : Bool :=
  let id := BitVec.ofNat 32 (leAt block 0 4)
  let len := leAt block 104 4
  decide (leAt block 4 4 = id.toNat) && accept id && decide (108 + len ≤ block.length)
    && (match keys.find? (fun k => k.id = id) with
        | none => false
        | some k => Config.ecdsaOk k.ecdsa digest (byteSlice block 8 96)
                    && Config.hssOk k.hss digest (byteSlice block 108 len))

/-- The class of a key identifier. -/
def keyClass (id : BitVec 32) : Nat := bitsAt id.toNat 24 8

/-- What load step 2 finds: the first failure, or the sections and the digest that the signatures cover. -/
def stepTwo (keys : List KeyPair) (srcLen : Nat) (bytes : List Byte) : LoadErr ⊕ (List Sect × BitVec 384) :=
  if srcLen > 2 ^ 28 then .inl { code := 0x01, sect := 0, plan := 7, lspan := 0, record := 0 }
  else
    let bs := byteSlice bytes 0 srcLen
    let r := cutSections srcLen (srcLen / 16 + 1) 0 0 bs
    match r.2 with
    | some e => .inl e
    | none => match r.1.find? (fun x => !x.headerOk) with
      | some x => .inl (x.err 0x02)
      | none => match r.1.find? (fun x => decide (crc32c x.body ≠ x.crc)) with
        | some x => .inl (x.err 0x03)
        | none => match orderErr r.1 with
          | some e => .inl e
          | none =>
            let selftest := decide ((r.1.head?.map (fun x => leAt x.body 4 1)) = some 3)
            let sig := r.1.getLast?
            let start := (sig.map (·.start)).getD 0
            let digest := sha384 (bs.take start)
            let accept (id : BitVec 32) : Bool :=
              decide (keyClass id = 0x03) || (decide (keyClass id = 0x10) && !selftest)
            match sig with
            | none => .inl { code := 0x04, sect := 0, plan := 7, lspan := 0, record := 0 }
            | some x => if blockOk accept keys digest x.body then .inr (r.1, digest) else .inl (x.err 0x05)

end Sys2Proof.Machine
end

