-- ==== Sys2Proof/Machine/ProgWord.lean ====
section
/-! DEFINITION. Span-program words (chapter 09): the 128-bit instruction of Tables 9.1 to 9.7, its reserved bits and
operand ranges, its unit (Table 9.2) and the features that the load checks read. -/

namespace Sys2Proof.Machine
open Sys2Proof

/-- The wait group in bits [97:71] (R272). -/
def waitGroupOf (w : BitVec 128) : WaitGroup :=
  { en := w.getLsbD 97, cons := w.getLsbD 96, ctr := w.extractLsb' 91 5, val := w.extractLsb' 71 20 }

/-- Whether bits [hi:0] of a word are zero. -/
def lowZero (w : BitVec 128) (hi : Nat) : Bool := decide (w.toNat % 2 ^ (hi + 1) = 0)

/-- The common operands of PRUN, LRUN, TRUN and MKUP (Table 9.5). -/
def runArgsOf (w : BitVec 128) : RunArgs :=
  { abase := w.extractLsb' 54 17, sstride := w.extractLsb' 40 14, seq0 := w.extractLsb' 28 12, nseq := w.extractLsb' 15 13 }

/-- The operands of LOOP (Table 9.4). -/
def loopArgsOf (w : BitVec 128) : LoopArgs :=
  { level := w.extractLsb' 96 2, dyn := w.getLsbD 95, dctr := w.extractLsb' 90 5, countM1 := w.extractLsb' 78 12,
    period := w.extractLsb' 56 22, dStride := w.extractLsb' 44 12, gStride := w.extractLsb' 27 17,
    lStride := w.extractLsb' 15 12, rlog2 := w.extractLsb' 10 5, jStride := w.extractLsb' 2 8 }

/-- The instruction that a program word spells, with span 0 and cycle 0; none for a reserved opcode or a reserved bit
that is set (R266, R272). -/
def decodeProgWord (w : BitVec 128) : Option Instr :=
  let i : Issue := { l := 0, cyc := 0, stamp := w.extractLsb' 100 20, ix := w.extractLsb' 98 2 }
  let g := waitGroupOf w
  let a := runArgsOf w
  let z (hi : Nat) (x : Instr) : Option Instr := if lowZero w hi then some x else none
  match (w.extractLsb' 120 8).toNat with
  | 0x00 => z 97 (.nop i)
  | 0x01 => z 97 (.endProgram i)
  | 0x02 => z 65 (.base i (w.extractLsb' 66 32))
  | 0x03 => z 1 (.loop i (loopArgsOf w))
  | 0x04 => z 95 (.endl i (w.extractLsb' 96 2))
  | 0x05 => z 80 (.joint i (w.getLsbD 97) (w.extractLsb' 81 16))
  | 0x06 => z 66 (.wait i g (w.extractLsb' 68 3) (w.getLsbD 67))
  | 0x07 => z 72 (.cset i (w.extractLsb' 93 5) (w.extractLsb' 73 20))
  | 0x08 => z 39 (.blist i g (w.extractLsb' 54 17) (w.extractLsb' 41 13) (w.getLsbD 40) .clean)
  | 0x09 => z 60 (.recv i (w.extractLsb' 96 2) (w.extractLsb' 79 17) (w.extractLsb' 62 17) (w.getLsbD 61))
  | 0x0A => z 81 (.tmark i (w.extractLsb' 82 16))
  | 0x10 => z 85 (.layer i (w.extractLsb' 86 12))
  | 0x11 => z 32 (.tload i g (w.extractLsb' 54 17) (w.extractLsb' 39 15) (w.getLsbD 38) (w.extractLsb' 33 5) .clean)
  | 0x12 => z 14 (.prun i g a .clean)
  | 0x13 => z 14 (.lrun i g a .clean)
  | 0x14 => z 14 (.trun i g a .clean)
  | 0x15 => z 70 (.pgate i g)
  | 0x16 => z 14 (.mkup i g a .clean)
  | 0x17 => z 72 (.azero i (w.extractLsb' 86 12) (w.extractLsb' 73 13))
  | 0x20 => z 3 (.conv i g (w.extractLsb' 59 12) (w.extractLsb' 46 13) (w.extractLsb' 29 17) (w.extractLsb' 21 8)
      (w.extractLsb' 16 5) (w.extractLsb' 4 12) .clean)
  | 0x21 => z 20 (.kvapp i g (w.extractLsb' 59 12) (w.extractLsb' 46 13) (w.extractLsb' 34 12) (w.extractLsb' 26 8)
      (w.extractLsb' 21 5) .clean)
  | 0x22 => z 77 (.tblld i (w.extractLsb' 95 3) (w.extractLsb' 78 17) .clean)
  | 0x30 => z 1 (.attn i g (w.extractLsb' 54 17) (w.extractLsb' 41 13) (w.extractLsb' 24 17) (w.extractLsb' 19 5)
      (w.extractLsb' 14 5) (w.extractLsb' 2 12) .clean)
  | 0x31 => z 11 (.amul i g (w.extractLsb' 54 17) (w.extractLsb' 37 17) (w.extractLsb' 25 12) (w.extractLsb' 12 13) .clean)
  | 0x32 => z 11 (.arot i g (w.extractLsb' 54 17) (w.extractLsb' 37 17) (w.extractLsb' 24 13) (w.extractLsb' 12 12) .clean)
  | 0x33 => z 23 (.arank i g (w.extractLsb' 59 12) (w.extractLsb' 46 13) (w.extractLsb' 29 17) (w.extractLsb' 24 5))
  | 0x34 => z 28 (.asamp i g (w.extractLsb' 59 12) (w.extractLsb' 46 13) (w.extractLsb' 29 17))
  | 0x40 => z 11 (.mload i (w.getLsbD 97) (w.extractLsb' 85 12) (w.extractLsb' 65 20) (w.extractLsb' 65 32)
      (w.extractLsb' 45 20) (w.extractLsb' 28 17) (w.extractLsb' 23 5) (w.extractLsb' 18 5) (w.extractLsb' 13 5)
      (w.getLsbD 12))
  | 0x41 =>
    if w.getLsbD 97 && decide (w.extractLsb' 23 5 = 0) then
      z 17 (.mstore i (w.extractLsb' 65 32) (w.extractLsb' 45 20) (w.extractLsb' 28 17) (w.extractLsb' 18 5) .clean)
    else none
  | 0x42 => z 7 (.kvrd i g (w.extractLsb' 54 17) (w.extractLsb' 41 13) (w.extractLsb' 24 17) (w.extractLsb' 19 5)
      (w.extractLsb' 14 5) (w.extractLsb' 9 5) (w.getLsbD 8) .clean)
  | 0x43 => z 26 (.fill i (w.extractLsb' 81 17) (w.extractLsb' 64 17) (w.extractLsb' 32 32) (w.extractLsb' 27 5))
  | 0x44 => z 41 (.copy i (w.extractLsb' 81 17) (w.extractLsb' 64 17) (w.extractLsb' 47 17) (w.extractLsb' 42 5))
  | 0x45 => z 1 (.gath i g (w.extractLsb' 63 8) (w.extractLsb' 46 17) (w.extractLsb' 34 12) (w.extractLsb' 24 10)
      (w.extractLsb' 7 17) (w.extractLsb' 2 5))
  | 0x46 => z 23 (.scat i g (w.extractLsb' 54 17) (w.extractLsb' 41 13) (w.extractLsb' 24 17))
  | 0x47 => z 1 (.send i g (w.extractLsb' 54 17) (w.extractLsb' 37 17) (w.extractLsb' 29 8) (w.extractLsb' 12 17)
      (w.extractLsb' 7 5) (w.extractLsb' 2 5))
  | _ => none

/-- Whether NSEQ of a run lies in 1 to 4,096. -/
def nseqOk (a : RunArgs) : Bool := decide (1 ≤ a.nseq.toNat ∧ a.nseq.toNat ≤ 4096)

/-- Whether DSPAN names a logical span below `n`, the destination set or the span itself (Table 9.7). -/
def dspanOk (n : Nat) (d : BitVec 8) : Bool := decide (d.toNat < n ∨ d.toNat = 0xFE ∨ d.toNat = 0xFF)

/-- Whether the operands of an instruction lie in their ranges, for a plan of `n` logical spans and `descs` descriptors
(code PROGRAM of Table 10.12). Commands that are no program instruction have no operands to check. -/
def operandsOk (n descs : Nat) : Instr → Bool
  | .loop _ a => decide (a.level ≠ 0 ∧ 5 ≤ a.rlog2.toNat ∧ a.rlog2.toNat ≤ 17)
  | .endl _ level => decide (level ≠ 0)
  | .wait _ w kind _ => decide (kind.toNat ≤ 3) && (decide (kind ≠ 0) || w.en)
  | .blist _ _ _ count _ _ => decide (count.toNat ≤ 4096)
  | .layer _ desc => decide (desc.toNat < descs)
  | .prun _ _ a _ => nseqOk a
  | .lrun _ _ a _ => nseqOk a
  | .trun _ _ a _ => nseqOk a
  | .azero _ _ k => decide (1 ≤ k.toNat ∧ k.toNat ≤ 4096)
  | .conv _ _ _ _ _ d _ _ _ => dspanOk n d
  | .kvapp _ _ _ _ _ d _ _ => decide (d.toNat < n)
  | .mload _ raw desc _ _ _ _ _ _ _ _ => raw || decide (desc.toNat < descs)
  | .gath _ _ d _ _ elen _ _ => decide (d.toNat < n ∧ 1 ≤ elen.toNat)
  | .send _ _ _ len d _ _ _ => decide (1 ≤ len.toNat) && dspanOk n d
  | _ => true

/-- The role bit that an instruction needs (R310): 0 for attention, 1 ARANK, 2 ASAMP, 3 dynamic loops. -/
def roleBit : Instr → Option Nat
  | .attn _ _ _ _ _ _ _ _ _ => some 0
  | .kvrd _ _ _ _ _ _ _ _ _ _ => some 0
  | .kvapp _ _ _ _ _ _ _ _ => some 0
  | .arank _ _ _ _ _ _ => some 1
  | .asamp _ _ _ _ _ => some 2
  | .loop _ a => if a.dyn then some 3 else none
  | _ => none

/-- STAMP and IX of a program word. -/
def progStamp (w : BitVec 128) : Nat := (w.extractLsb' 100 20).toNat
def progIx (w : BitVec 128) : Nat := (w.extractLsb' 98 2).toNat

end Sys2Proof.Machine
end

