-- ==== Sys2Proof/Machine/Bitstream.lean ====
section
/-! DEFINITION. The records of a configuration bitstream read as data (R308 to R325), and the walk of a program that the
checks JOINT_STAMP and LAYOUT take. -/

namespace Sys2Proof.Machine
open Sys2Proof

/-! ### Reading records -/

/-- Record `i` of a body of records of `n` bytes. -/
def recAt (body : List Byte) (n i : Nat) : List Byte := byteSlice body (n * i) n

/-- The records of a section of fixed-size records. -/
def Sect.records (x : Sect) (n : Nat) : List (List Byte) := (List.range x.count).map (recAt x.body n)

/-- The section of a type and a plan. -/
def sectOf (sects : List Sect) (type plan : Nat) : Option Sect :=
  sects.find? (fun x => decide (x.type = type ∧ x.plan = plan))

/-- The IDENT record (Table 10.5). -/
def readIdent (b : List Byte) : Ident :=
  { jobType := (jobTypeOf (leAt b 4 1)).getD .serve, spans := leAt b 5 1, basicSpans := leAt b 6 1,
    hasFixed := (leAt b 7 1).testBit 0, modelDigest := bytesDigest (byteSlice b 8 48),
    layoutDigest := bytesDigest (byteSlice b 56 48), planId := leAt b 104 4, stepMask := leAt b 110 1,
    gradeMask := leAt b 111 1, maxContext := leAt b 112 4 }

/-- A SPAN_ROLES record (R310). -/
def readRole (b : List Byte) : Role :=
  let e := leAt b 4 8
  { lspan := leAt b 0 1, role := leAt b 1 1, progLen := leAt b 2 2, entry := (List.range 5).map (fun p => bitsAt e (12 * p) 12) }

/-- A ROUTES record (R311). -/
def readRoute (b : List Byte) : Route :=
  { src := leAt b 0 2, dst := leAt b 2 2, rowFirst := decide (leAt b 4 1 = 1), share := leAt b 5 1 }

/-- A layer descriptor (R314). -/
def readDesc (b : List Byte) : Desc := (List.range 32).map (fun i => BitVec.ofNat 32 (leAt b (4 * i) 4))

/-- The head of a TICK_PLAN (R319): a field of all ones takes its default. -/
def readHead (b : List Byte) : TickHead :=
  let f (o n : Nat) := leAt b o n
  let dflt (o n d : Nat) : Nat := if f o n = 2 ^ (8 * n) - 1 then d else f o n
  let plan := f 0 4
  let cyc := f 12 4
  { periodPlan := plan, periodMin := dflt 4 4 plan, periodMax := dflt 8 4 plan, planCyc := cyc, cutPlan := f 16 4,
    keyRes := f 20 4, quantum := dflt 24 4 (plan / 32), minSlack := dflt 28 4 (cyc / 64), remoteWaitMax := dflt 32 2 2000,
    slipMax := dflt 34 1 2, replayLimit := dflt 35 1 8, govCold := dflt 36 1 16, govWin := dflt 37 1 16,
    prefillTokens := f 38 2, draftN := f 40 1, balEn := decide (f 50 1 = 1), balCold := dflt 51 1 16,
    batchLimit := f 52 2, phaseS := (List.range 5).map (fun p => f (56 + 4 * p) 4) }

/-- A joint record (R320). -/
def readJoint (b : List Byte) : Joint :=
  let fl := leAt b 7 1
  { y := leAt b 0 4, a := leAt b 4 2, set := leAt b 6 1, trestle := fl.testBit 0, pier := fl.testBit 1,
    phase := fl.testBit 2 }

/-- A TRESTLE record (Table 10.8). -/
def readTrs (b : List Byte) : TrsRec :=
  { start := leAt b 0 4, phase := leAt b 4 1, kind := leAt b 5 1, desc := leAt b 6 2, src := leAt b 8 2 }

/-- A TABLES record (R317). -/
def readTable (e : List Byte × List Byte) : TableRec :=
  { dest := leAt e.1 0 1, set := leAt e.1 1 1, addr := leAt e.1 4 8, data := e.2 }

/-- A KV_CLASSES record (R323). -/
def readKvClass (b : List Byte) : KvClass :=
  { cls := leAt b 0 1, nKv := leAt b 1 1, dH := 16 * leAt b 2 1, poolUnits := leAt b 4 4, first := leAt b 8 2,
    layers := leAt b 10 2 }

/-- The FOOTBRIDGE record (R324). -/
def readFb (b : List Byte) : FbRec :=
  { digest := bytesDigest (byteSlice b 0 48), draftMax := leAt b 48 1, cls := leAt b 49 1,
    copyA := BitVec.ofNat 32 (leAt b 52 4), copyB := BitVec.ofNat 32 (leAt b 56 4) }

/-- A WEIGHT_LAYOUT record (Table 10.9). -/
def readExtent (b : List Byte) : WExtent :=
  { wl := leAt b 0 2, lspan := leAt b 2 1, entry := leAt b 3 1, offset := leAt b 4 8, len := leAt b 12 4 }

/-- An INGEST_MAP record (R325). -/
def readIngest (b : List Byte) : IngestRec :=
  { wl := leAt b 0 2, wfmt := leAt b 2 1, planes := leAt b 3 1, theta := leAt b 4 2, offset := leAt b 8 8,
    rows := leAt b 16 4, cols := leAt b 20 4 }

/-- The joint records of a TICK_PLAN section. -/
def readJoints (x : Sect) : List Joint :=
  (List.range (x.count - 1)).map (fun j => readJoint (byteSlice x.body (128 + 16 * j) 16))

/-- A plan of the bitstream. -/
def readPlan (sects : List Sect) (p : Nat) : Plan :=
  let recs (t n : Nat) : List (List Byte) := ((sectOf sects t p).map (fun x => x.records n)).getD []
  let tp := sectOf sects 8 p
  { roles := (recs 3 16).map readRole, routes := (recs 4 16).map readRoute,
    programs := ((sectOf sects 5 p).bind (fun x => cutImages x.count x.body)).getD [] |>.map (fun e => (e.1, e.2.2)),
    layers := (recs 6 128).map readDesc, head := readHead ((tp.map (·.body)).getD []),
    joints := (tp.map readJoints).getD [], trestle := (recs 9 16).map readTrs, hasTrestle := (sectOf sects 9 p).isSome }

/-- Whether any plan section of plan `p` is present. -/
def carries (sects : List Sect) (p : Nat) : Bool :=
  sects.any (fun x => decide (x.plan = p) && !x.balir)

/-- The whole bitstream as data. -/
def readBits (sects : List Sect) (digest : BitVec 384) : Bitstream :=
  let recs (t n : Nat) : List (List Byte) := ((sectOf sects t 0xFF).map (fun x => x.records n)).getD []
  let map := sectOf sects 2 0xFF
  { ident := readIdent (((sectOf sects 1 0xFF).map (·.body)).getD []),
    pref := (List.range 128).map (fun l => (map.map (fun x => leAt x.body l 1)).getD 0),
    sets := (map.map (fun x => (List.range x.count).map (fun i => BitVec.ofNat 128 (leAt x.body (128 + 16 * i) 16)))).getD [],
    plans := ((List.range 6).filter (carries sects)).map (fun p => (p, readPlan sects p)),
    tables := (((sectOf sects 7 0xFF).bind (fun x => cutTables x.count x.body)).getD []).map readTable,
    headMaps := ((sectOf sects 10 0xFF).bind (fun x => cutMaps x.count x.body)).getD [],
    kvClasses := (recs 11 16).map readKvClass, footbridge := (recs 12 128).head?.map readFb,
    weights := (recs 13 32).map readExtent, ingest := (recs 14 32).map readIngest, digest := digest,
    weightDigest := sha384 (((sectOf sects 13 0xFF).map (·.body)).getD []) }

/-! ### The walk of a phase (code JOINT_STAMP) -/

/-- The logical spans a plan uses (R307). -/
def planSpans (d : Ident) (p : Nat) : Nat := if p = 2 ∨ p = 5 then d.basicSpans else d.spans

/-- An open loop of the walk. -/
structure WalkLoop where
  level : Nat
  i : Nat
  n : Nat
  body : Nat
  baseL : Nat
  period : Nat
  dStride : Nat
  gStride : Nat
  rlog2 : Nat
  jStride : Nat
deriving DecidableEq, Repr

/-- What the walk has found: the joints met, as (index, effective stamp, PHASE, pc), the descriptors that LAYER and MLOAD
name, the assignment lists that ATTN and KVRD read, as (descriptor, granule, entries), and the router descriptors: those whose
routes ARANK grants or whose capacity a dynamic loop takes. -/
structure WalkOut where
  joints : List (Nat × Nat × Bool × Nat)
  layers : List Nat
  loads : List Nat
  lists : List (Nat × Nat × Nat)
  routers : List Nat
deriving DecidableEq, Repr

/-- The index of the loop that IX names, and a stride of it. -/
def walkIdx (ls : List WalkLoop) (ix : Nat) (f : WalkLoop → Nat) : Nat :=
  if ix = 0 then 0 else ((ls.find? (fun x => x.level = ix)).map (fun x => x.i * f x)).getD 0

/-- A granule address indexed by the loop that IX names (R270). -/
def walkAddr (ls : List WalkLoop) (ix a : Nat) : Nat := match ls.find? (fun x => x.level = ix) with
  | none => a
  | some x => if ix = 0 then a else a / 2 ^ x.rlog2 * 2 ^ x.rlog2 + (a + x.i * x.gStride) % 2 ^ x.rlog2

/-- An assignment list of the current layer is noted once. -/
def WalkOut.list (cur : Option Nat) (a n : Nat) (o : WalkOut) : WalkOut := match cur with
  | none => o
  | some d => if o.lists.contains (d, a, n) then o else { o with lists := (d, a, n) :: o.lists }

/-- The current layer's descriptor is noted once as a router's. -/
def WalkOut.router (cur : Option Nat) (o : WalkOut) : WalkOut := match cur with
  | none => o
  | some d => if o.routers.contains d then o else { o with routers := d :: o.routers }

/-- The address after the ENDL of a level, from address `pc`. -/
def afterEndl (prog : List (BitVec 128)) (pc level : Nat) : Nat :=
  pc + 1 + ((prog.drop pc).findIdx (fun w => match decodeProgWord w with
    | some (.endl _ l) => decide (l.toNat = level)
    | _ => false))

/-- A walk from address `pc` with stamp base `b`, taking every loop N_plan times; the fuel bounds any walk. -/
def walkPhase (prog : List (BitVec 128)) (layers : List Desc) :
    Nat → Nat → Nat → List WalkLoop → Option Nat → WalkOut → WalkOut
  | 0, _, _, _, _, o => o
  | fuel + 1, pc, b, ls, cur, o => match prog[pc]? with
    | none => o
    | some w =>
      let ix := progIx w
      let go (b : Nat) (ls : List WalkLoop) (cur : Option Nat) (o : WalkOut) : WalkOut :=
        walkPhase prog layers fuel (pc + 1) b ls cur o
      match decodeProgWord w with
      | some (.endProgram _) => o
      | some (.base _ add) => go (b + add.toNat) ls cur o
      | some (.joint _ ph j) =>
        go b ls cur { o with joints := (j.toNat + walkIdx ls ix (·.jStride), b + progStamp w, ph, pc) :: o.joints }
      | some (.layer _ d) =>
        let d := d.toNat + walkIdx ls ix (·.dStride)
        go b ls (some d) { o with layers := if o.layers.contains d then o.layers else d :: o.layers }
      | some (.mload _ raw d _ _ _ _ _ _ _ _) =>
        let d := d.toNat + walkIdx ls ix (·.dStride)
        go b ls cur { o with loads := if raw || o.loads.contains d then o.loads else d :: o.loads }
      | some (.attn _ _ lb n _ _ _ _ _) => go b ls cur (o.list cur (walkAddr ls ix lb.toNat) n.toNat)
      | some (.kvrd _ _ lb n _ _ _ _ _ _) => go b ls cur (o.list cur (walkAddr ls ix lb.toNat) n.toNat)
      | some (.arank _ _ _ _ _ _) => go b ls cur (o.router cur)
      | some (.loop _ a) =>
        let o := if a.dyn then o.router cur else o
        let n := if a.dyn then
            cdiv (((cur.bind (fun d => layers[d]?)).map (·.capBase)).getD 0) (a.countM1.toNat + 1)
          else a.countM1.toNat + 1
        if n = 0 then walkPhase prog layers fuel (afterEndl prog (pc + 1) a.level.toNat) b ls cur o
        else
          let l : WalkLoop := { level := a.level.toNat, i := 0, n := n, body := pc + 1, baseL := b,
                                period := a.period.toNat, dStride := a.dStride.toNat,
                                gStride := a.gStride.toNat, rlog2 := a.rlog2.toNat, jStride := a.jStride.toNat }
          go b (l :: ls) cur o
      | some (.endl _ _) => match ls with
        | [] => o
        | l :: rest =>
          if l.i + 1 < l.n then
            walkPhase prog layers fuel l.body (l.baseL + (l.i + 1) * l.period) ({ l with i := l.i + 1 } :: rest) cur o
          else go (l.baseL + l.n * l.period) rest cur o
      | _ => go b ls cur o

/-- A walk of phase `p` (1 to 5) of a logical span's program. -/
def Plan.walk (x : Plan) (l p : Nat) : WalkOut :=
  let entry := ((x.role? l).map (fun r => r.entry.getD (p - 1) 0)).getD 0
  walkPhase (x.program l) x.layers (2 ^ 60) entry 0 [] none
    { joints := [], layers := [], loads := [], lists := [], routers := [] }

/-- The descriptors a logical span's program runs in any phase. -/
def Plan.runs (x : Plan) (l : Nat) : List Nat := ((List.range 5).flatMap (fun p => (x.walk l (p + 1)).layers)).eraseDups

/-- The assignment lists that a logical span's program reads in any phase. -/
def Plan.lists (x : Plan) (l : Nat) : List (Nat × Nat × Nat) :=
  ((List.range 5).flatMap (fun p => (x.walk l (p + 1)).lists)).eraseDups

/-- The router descriptors of a logical span's program (R176, R186). -/
def Plan.routers (x : Plan) (l : Nat) : List Nat := ((List.range 5).flatMap (fun p => (x.walk l (p + 1)).routers)).eraseDups

/-- The logical spans whose programs run a descriptor. -/
def Plan.runners (x : Plan) (n d : Nat) : List Nat := (List.range n).filter (fun l => (x.runs l).contains d)

end Sys2Proof.Machine
end

