-- ==== Sys2Proof/Machine/Routes.lean ====
section
/-! DEFINITION. The routers of the deck's agents (R27), the endpoints of route records (R311), and the routes of a plan on
physical nodes (R328). -/

namespace Sys2Proof.Machine
open Sys2Proof

/-- The router, (column, row), of a stack's memory controller (Table 1.3). -/
def stackNode (i : Nat) : Nat × Nat :=
  if i = 0 then (0, 1) else if i ≤ 10 then (i, 0) else if i = 11 then (11, 1)
  else if i ≤ 15 then (11, 2 + 2 * (i - 12)) else if i = 16 then (11, 9) else if i ≤ 26 then (27 - i, 10)
  else if i = 27 then (0, 9) else (0, 8 - 2 * (i - 28))

/-- The router of a Cefin port, numbered E, W, T0 to T5. -/
def portNode (i : Nat) : Nat × Nat :=
  [(11, 0), (0, 0), (11, 3), (11, 5), (11, 7), (0, 3), (0, 5), (0, 7)].getD i (0, 0)

/-- The router of an endpoint (R311), `place` giving the physical span of a logical one; none for a reserved endpoint. -/
def endpointNode (place : Nat → Option Nat) (e : Nat) : Option (Nat × Nat) :=
  let k := bitsAt e 12 4
  let i := bitsAt e 0 8
  if bitsAt e 8 4 ≠ 0 then none
  else if k = 0 then (place i).map (fun p => (p % 12, p / 12))
  else if k = 1 then (if i < 32 then some (stackNode i) else none)
  else if k = 2 then (if i < 8 then some (portNode i) else none)
  else if k = 3 then (if i = 0 then some (0, 10) else if i = 1 then some (11, 10) else none)
  else if k = 4 then (if i = 0 then some (5, 5) else none)
  else if k = 5 then (if i = 0 then some (6, 5) else none)
  else none

/-- The steps from coordinate `a` to `b`. -/
def stepsTo (a b : Nat) : List (Nat × Nat) :=
  if a ≤ b then (List.range (b - a)).map (fun i => (a + i, a + i + 1))
  else (List.range (a - b)).map (fun i => (a - i, a - i - 1))

/-- The directed links of a path: to the destination's column first, or to its row first. -/
def pathLinks (rowFirst : Bool) (s d : Nat × Nat) : List ((Nat × Nat) × (Nat × Nat)) :=
  let along (y : Nat) := (stepsTo s.1 d.1).map (fun e => ((e.1, y), (e.2, y)))
  let down (x : Nat) := (stepsTo s.2 d.2).map (fun e => ((x, e.1), (x, e.2)))
  if rowFirst then down s.1 ++ along d.2 else along s.2 ++ down d.1

/-- The routes of a plan over a binding (R328), each in its record's ORDER. -/
def deckRoutes (binding : List (Nat × Nat)) (x : Plan) : List DeckRoute :=
  let place (l : Nat) : Option Nat := (binding.find? (fun e => e.1 = l)).map (·.2)
  x.routes.filterMap (fun r => match endpointNode place r.src, endpointNode place r.dst with
    | some a, some b => some { src := r.src, dst := r.dst, links := pathLinks r.rowFirst a b }
    | _, _ => none)

end Sys2Proof.Machine
end

