-- ==== Sys2Proof/Machine/Bind.lean ====
section
/-! DEFINITION. Measurements (R594, R595), the binding of logical spans (R327), the writes of a plan into the chip (R328,
R329), the choice of plan (Table 10.3), and what leaves the chip with a job (R512). -/

namespace Sys2Proof.Machine
open Sys2Proof

/-! ### Measurements -/

/-- A measurement slot. -/
def State.slot (s : State) (i : Nat) : BitVec 384 := kget 0#384 s.sec.meas i

/-- Extend slot `i` with an event digest (R594): M = SHA-384(M ‖ D ‖ T), entered in the log (R595). -/
def State.extend (i : Nat) (d : BitVec 384) (s : State) : State :=
  let m := sha384 (digestBytes (s.slot i) ++ digestBytes d ++ natToBytes 4 i)
  { s with sec := { s.sec with meas := kset 0#384 s.sec.meas i m, log := ((i, d) :: s.sec.log).take 4096,
                               logCount := s.sec.logCount + 1 } }

/-! ### The binding (R327) -/

/-- The first loop of bind(): the preferred places that are free. -/
def bindPreferred (pref : List Nat) : List Nat → List Nat → List (Nat × Nat) → List Nat × List (Nat × Nat)
  | [], free, m => (free, m)
  | l :: rest, free, m =>
    let p := pref.getD l 0
    if free.contains p then bindPreferred pref rest (free.filter (fun q => q ≠ p)) (kins m l p)
    else bindPreferred pref rest free m

/-- The second loop of bind(): the place with the fewest hops from the preferred one, ties to the lower number. -/
def bindNearest (pref : List Nat) : List Nat → List Nat → List (Nat × Nat) → List (Nat × Nat)
  | [], _, m => m
  | l :: rest, free, m =>
    if (kfind? m l).isSome then bindNearest pref rest free m
    else match nearest (pref.getD l 0) free with
      | none => bindNearest pref rest free m
      | some p => bindNearest pref rest (free.filter (fun q => q ≠ p)) (kins m l p)

/-- bind() over the ACTIVE spans for `n` logical spans. -/
def bindSpans (active pref : List Nat) (n : Nat) : List (Nat × Nat) :=
  let r := bindPreferred pref (List.range n) active []
  bindNearest pref (List.range n) r.1 r.2

/-- A span that takes a logical number starts without width history, and its ρ_s at 256 (R329). -/
def Span.fresh (x : Span) : Span := { x with abt := { x.abt with hist := [] }, rho := 256 }

/-- The binding as LOGICAL of the span map shows it (R22), in one update (R24). -/
def State.showBinding (b : List (Nat × Nat)) (s : State) : State :=
  let new := b.filter (fun e => !s.binding.contains e)
  let s := new.foldl (fun (s : State) (e : Nat × Nat) => s.modSpan e.2 Span.fresh) s
  let m := s.spanMap.map (fun e => (e.1, { e.2 with logical := (b.find? (fun x => x.2 = e.1)).map (·.1) }))
  if m = s.spanMap then { s with binding := b } else { (s.setMap m) with binding := b }

/-- What the bound spans go on with when the job comes back (R124, R196). -/
def State.keptSpans (s : State) : List SpanKept :=
  s.binding.map (fun e => { l := e.1, p := e.2, hist := (s.span e.2).abt.hist, rho := (s.span e.2).rho })

/-- A job that comes back finds what its logical spans had on the same physical spans. -/
def State.restoreSpans (ks : List SpanKept) (s : State) : State :=
  (ks.filter (fun k => s.binding.contains (k.l, k.p))).foldl (fun (s : State) (k : SpanKept) =>
    s.modSpan k.p (fun x => { x with abt := { x.abt with hist := k.hist }, rho := k.rho })) s

/-! ### The choice of plan (R216, R306) -/

/-- Whether the device runs trestle work in falsework (R216). -/
def State.falsework (s : State) : Bool := decide (s.trs.state ≠ .inService) || s.regb 0x020504 31

/-- Whether a plan runs the trestle unit's work in falsework (Table 10.3). -/
def planFw (n : Nat) : Bool := decide (n = 1 ∨ n = 4 ∨ n = 5)

/-- The plan a job runs now. -/
def State.planFor (s : State) (j : Job) : Nat :=
  if j.type = .selftest then 0
  else
    let fw := s.falsework
    if j.basic ≠ 0 then (if fw then 5 else 2) else if j.fixed then (if fw then 4 else 3) else if fw then 1 else 0

/-! ### Writing a plan (R328, R329) -/

/-- Write a program image into a span's program memory. -/
def Span.writeProgram (ws : List (BitVec 128)) (x : Span) : Span :=
  let prog := ws.zipIdx.foldl (fun m e => kset 0#128 m e.2 e.1) []
  { x with seq := { x.seq with prog := prog } }

/-- Write the DEST 0 preloads of logical span `l` into a span's deck store; they become its preloaded ranges (R318). -/
def Span.writePreloads (b : Bitstream) (l : Nat) (x : Span) : Span :=
  let ts := b.tables.filter (fun t => decide (t.dest = 0) && b.inSet t.set l)
  let deck := ts.foldl (fun d t => setBytes d (t.data.zipIdx.map (fun e => (32 * t.addr + e.2, e.1)))) x.deck
  { x with deck := deck, preload := ts.map (fun t => (t.addr, cdiv t.data.length 32)) }

/-- The routes of a plan over the binding, and with them the routers' tables, which hold the binding (R328). -/
def State.writeRoutes (plan : Plan) (s : State) : State := { s with routes := deckRoutes s.binding plan }

/-- Write one bound logical span whole: its program, its routes and its preloads (R329). -/
def State.writeSpan (b : Bitstream) (plan : Plan) (l p : Nat) (s : State) : State :=
  (s.modSpan p (fun x => (x.writeProgram (plan.program l)).writePreloads b l)).writeRoutes plan

/-- Write the programs and the routes of plan `n` (R328); an INGEST has no plan, and nothing is written. -/
def State.writeImages (b : Bitstream) (n : Nat) (s : State) : State := match b.plan? n with
  | none => { s with routes := [] }
  | some plan =>
    (s.binding.foldl (fun (s : State) (e : Nat × Nat) => s.modSpan e.2 (fun x => x.writeProgram (plan.program e.1))) s).writeRoutes plan

/-- Write plan `n` into every bound span, and measure the bitstream's digest with the plan number (R329, R594); the number measured
for an INGEST is 0. -/
def State.writePlan (b : Bitstream) (n : Nat) (s : State) : State :=
  let s := (s.writeImages b n).extend 2 (sha384 (digestBytes b.digest ++ natToBytes 1 n))
  { s with tick := { s.tick with plan := n } }

/-- Write the preloads of every bound span and the DEST 1 tables (R328). -/
def State.writeTables (b : Bitstream) (s : State) : State :=
  let s := s.binding.foldl (fun s e => s.modSpan e.2 (fun x => x.writePreloads b e.1)) s
  (b.tables.filter (fun t => t.dest = 1)).foldl (fun s t =>
    s.memWrite (t.data.zipIdx.map (fun e => (planAddr (t.addr + e.2), e.1)))) s

/-! ### Leaving the spans (R512) -/

/-- What the scrub leaves of a span: counters, strikes, trace buffer and SPN_SEQ_FAULT stay, all else is zero. -/
def Span.scrubbed (x : Span) : Span :=
  { Span.idle with counters := x.counters, strikes := x.strikes, trace := x.trace,
                   seq := { Sequencer.idle with fault := x.seq.fault } }

/-- The scrub of spans and trestle unit on every span that is not FENCED. -/
def State.scrubChip (s : State) : State :=
  let spans := s.spans.foldl (fun m e =>
    kset Span.idle m e.1 (if (s.mapEntry e.1).status = .fenced then e.2 else e.2.scrubbed)) []
  { s with spans := spans,
           trs := { s.trs.fresh with store := [], lanes := [] } }

/-- The landings that go with a job: those over its job area, and the deck-store landings of the job on the spans. A
hand-over landing is one of the job area's frames. -/
def State.jobLandings (s : State) (job : Nat) (j : Job) : List (Nat × Landing) :=
  s.landings.filter (fun e =>
    if e.2.kind = .deck then decide (s.running = some job)
    else if e.2.kind = .entry then decide (j.type = JobType.ingest ∧ j.entry = some e.2.base)
    else if e.2.kind = .handover then decide (s.running = some job)
    else decide (j.jobBase ≤ e.2.base % 2 ^ 35 ∧ e.2.base % 2 ^ 35 < j.jobBase + j.jobUnits * 0x4000000))

/-- The scrub time in µs, rounded up (R512, R513): 4,112 cycles on the chip, or the landings' bytes at 19.66 TB/s. -/
def State.scrubTime (s : State) (landingBytes : Nat) : Nat :=
  cdiv (max (cdiv (4112 * 40) s.pwr.n) (cdiv (landingBytes * 10) 196608)) 1000

end Sys2Proof.Machine
end

