-- ==== Sys2Proof/Machine/LoadChecks.lean ====
section
/-! DEFINITION. The static checks of load step 3 (Table 10.12, codes 0x06, 0x07, 0x09 to 0x10, 0x12, 0x13, 0x15), in
code order. -/

namespace Sys2Proof.Machine
open Sys2Proof

/-- The first failure among a list of checks. -/
def firstErr : List (Option LoadErr) → Option LoadErr
  | [] => none
  | some e :: _ => some e
  | none :: r => firstErr r

/-- The first position of a list at which a check fails. -/
def firstBad {α : Type} (ok : Nat → α → Bool) (l : List α) : Option Nat :=
  (List.range l.length).find? (fun i => match l[i]? with
    | none => false
    | some a => !ok i a)

/-- An error without a section of its own. -/
def bareErr (code plan : Nat) : LoadErr := { code := code, sect := 0, plan := plan, lspan := 0, record := 0 }

/-- The section of a plan, as the place of an error. -/
def placeOf (sects : List Sect) (type plan code lspan record : Nat) : LoadErr := match sectOf sects type plan with
  | none => bareErr code (planCode plan)
  | some x => x.errAt code lspan record

/-- The logical spans that the grade enables (R3). -/
def gradeSpans (f : Fuses) : Nat := if f.grade = 1 then 96 else 128

/-! ### TARGET and MISSING -/

/-- TARGET (0x06). -/
def targetErr (f : Fuses) (sects : List Sect) (b : Bitstream) : Option LoadErr :=
  let d := b.ident
  let raw := ((sectOf sects 1 0xFF).map (·.body)).getD []
  let stepBit := if f.stepLetter.toNat = 1 then 0 else 1
  let prefOk := (sectOf sects 2 0xFF).isNone || (b.pref.take d.spans).all (fun p => decide (p ≤ 131))
  let bad := (jobTypeOf (leAt raw 4 1)).isNone || !d.stepMask.testBit stepBit || !d.gradeMask.testBit f.grade.toNat
    || decide (d.spans < 1 ∨ gradeSpans f < d.spans ∨ d.spans < d.basicSpans)
    || decide (d.maxContext < 16 ∨ 2 ^ 20 < d.maxContext) || decide (leAt raw 7 1 ≥ 2)
  if bad then some (placeOf sects 1 0xFF 0x06 0 0) else if prefOk then none else some (placeOf sects 2 0xFF 0x06 0 0)

/-- The plan-independent sections that a job type requires (Table 10.4), and its plans. -/
def requiredSects : JobType → List Nat
  | .serve => [2, 11, 12, 13]
  | .tune => [2, 13]
  | .ingest => [13, 14]
  | .selftest => [2]

def requiredPlans : JobType → List Nat
  | .serve => [0, 1, 2, 5]
  | .tune => [0, 1]
  | .ingest => []
  | .selftest => [0]

/-- Whether a descriptor of any plan names a head map. -/
def usesHeadMaps (b : Bitstream) : Bool := b.plans.any (fun p => p.2.layers.any (fun d => d.attEn))

/-- Whether a plan's spans run a layer whose weights an extent holds. -/
def usesWeights (b : Bitstream) : Bool := b.plans.any (fun p =>
  let n := planSpans b.ident p.1
  (List.range n).any (fun l => (p.2.runs l).any (fun i =>
    ((p.2.desc? i).map (fun d => !d.attEn && !d.unitTrestle)).getD false)))

/-- MISSING (0x07). -/
def missingErr (sects : List Sect) (b : Bitstream) : Option LoadErr :=
  let t := b.ident.jobType
  let has (type plan : Nat) : Bool := (sectOf sects type plan).isSome
  let fixed := b.ident.hasFixed || carries sects 3 || carries sects 4
  let plans := (List.range 6).filter (fun p =>
    (requiredPlans t).contains p || carries sects p || (fixed && decide (p = 3 ∨ p = 4)))
  let planMissing (p : Nat) : Bool :=
    [3, 4, 5, 6, 8].any (fun ty => !has ty p)
      || (decide (t = .serve ∨ t = .tune) && decide (p = 0 ∨ p = 2 ∨ p = 3) && !has 9 p)
  if (requiredSects t).any (fun ty => !has ty 0xFF) || (usesHeadMaps b && !has 10 0xFF)
      || (decide (t = .selftest) && usesWeights b && !has 13 0xFF) then some (bareErr 0x07 7)
  else match plans.find? planMissing with
    | some p => some (bareErr 0x07 p)
    | none => if decide (t = .serve) && decide (b.ident.basicSpans = 0) then some (placeOf sects 1 0xFF 0x07 0 0) else none

/-! ### DESC_RANGE and DESC_RULE -/

/-- Whether an LNS16 code has sign 0 or is the zero code (Table 6.1). -/
def lnsNonNeg (c : Nat) : Bool := decide (c < 2 ^ 15 ∨ c % 2 ^ 15 = 0x4000)

/-- Whether the fields of Tables 5.1, 6.1 and 10.6 that a descriptor's stages read lie in their ranges (R314, R315): those of the
cells, of the abutment, and of the attention, work and router extensions. -/
def descRangeOk (b : Bitstream) (x : Plan) (i : Nat) (d : Desc) : Bool :=
  let abut := !d.unitTrestle
  let cells := !d.attEn && abut
  let narrow := decide (d.outKind = 0) && !d.predOut && abut
  let h := (tileShape d.tshape).2
  let planes := (List.range d.entries).all (fun e => decide (bitsAt (d.plane e) 9 23 = 0))
  let router := x.trestle.any (fun r => decide (r.kind = 1 ∧ r.desc = i)) || x.programs.any (fun e => (x.routers e.1).contains i)
  let cellsOk := decide (d.cmode ≠ 3) && planes && decide (1 ≤ d.subbatch ∧ d.subbatch ≤ 4096)
    && decide (d.accBase + d.subbatch * d.linesPerSeq ≤ 4096) && decide (1 ≤ d.linesPerSeq)
    && (if d.cmode = 2 then decide (16 * d.inSegs ≤ d.linesPerSeq)
        else decide (d.slice16 ≤ d.linesPerSeq ∨ d.linesPerSeq % h = 0))
  let widths := decide (1 ≤ d.wPlan ∧ d.wPlan ≤ 8) && decide (d.wmode ≠ 3)
    && (decide (d.wmode = 0) || decide (1 ≤ d.wMin ∧ d.wMin ≤ d.wMax ∧ d.wMax ≤ 8 ∧ d.hist ≤ d.coldTicks))
  let abutOk := (d.predOut || decide (d.outKind ≤ 3)) && decide (d.scaleMode ≠ 3) && decide (d.nltSlot ≤ 7 ∨ d.nltSlot = 15)
    && (!(d.normEn || d.align) || decide (d.wset < b.sets.length))
    && (!d.scatEn || decide (d.scatBase + d.scatLines ≤ 4096))
  let predOk := decide (d.predLayer < x.layers.length) && decide (d.predRate ≤ 256) && decide (d.makeupPlan ≤ d.makeupBudget)
  let attOk := decide (d.attC % 2 ^ 15 ≠ 0x4000) && (decide (d.attWindow = 0) || decide (16 ≤ d.attWindow ∧ d.attWindow ≤ 2 ^ 20))
    && b.headMaps.any (fun m => m.1 = d.headMap)
  (!abut || abutOk) && (!cells || cellsOk) && (!narrow || widths) && (!(cells && d.predEn) || predOk)
    && (!(abut && (d.predEn || d.predOut)) || lnsNonNeg d.predTau)
    && (!router || decide (1 ≤ d.capBase ∧ d.capBase ≤ 4096)) && (!d.attEn || attOk)

/-- Whether the fields of a tick-plan head lie in the ranges of Table 8.2. -/
def headRangeOk (raw : List Byte) (h : TickHead) : Bool :=
  let period (p : Nat) : Bool := decide (2000 ≤ p ∧ p ≤ 250000)
  period h.periodPlan && period h.periodMin && period h.periodMax && decide (1 ≤ h.planCyc) && decide (h.cutPlan < 2 ^ 24)
    && decide (21000 + 30 * h.batchLimit ≤ h.keyRes) && decide (1 ≤ h.quantum ∧ 4 * h.quantum ≤ h.periodMin)
    && decide (h.slipMax ≤ 7 ∧ h.minSlack < 2 ^ 31 ∧ 1 ≤ h.remoteWaitMax) && decide (1 ≤ h.replayLimit ∧ h.replayLimit ≤ 64)
    && decide (1 ≤ h.govCold ∧ 4 ≤ h.govWin ∧ h.govWin ≤ 64 ∧ h.draftN ≤ 15 ∧ leAt raw 50 1 ≤ 1 ∧ 1 ≤ h.balCold)

/-- DESC_RANGE (0x09) of one plan. -/
def rangeErr (sects : List Sect) (b : Bitstream) (p : Nat) (x : Plan) : Option LoadErr :=
  match firstBad (descRangeOk b x) x.layers with
  | some i => some (placeOf sects 6 p 0x09 0 i)
  | none =>
    if headRangeOk (((sectOf sects 8 p).map (·.body)).getD []) x.head then none else some (placeOf sects 8 p 0x09 0 0)

/-- Whether the scales of a predicted layer have sign 0 (R178): LAYER_SCALE, and the row scales that the DEST 0 records of a span
that runs the layer write at SCALE_TAB (R317). -/
def scalesOk (b : Bitstream) (spans : List Nat) (d : Desc) : Bool :=
  let rowScales (t : TableRec) : Bool := (List.range (16 * d.slice16)).all (fun r =>
    let at_ := 32 * d.scaleTab + 2 * r
    decide (at_ < 32 * t.addr ∨ 32 * t.addr + t.data.length < at_ + 2) || lnsNonNeg (leAt t.data (at_ - 32 * t.addr) 2))
  if d.scaleMode = 1 then lnsNonNeg d.layerScale
  else if d.scaleMode = 2 then b.tables.all (fun t => decide (t.dest ≠ 0) || !spans.any (b.inSet t.set) || rowScales t)
  else true

/-- Whether a descriptor writes a narrow vector without alignment (R118), which no ternary layer may take. -/
def Desc.unaligned (d : Desc) : Bool := decide (d.outKind = 0) && !d.align && !d.predOut && !d.unitTrestle

/-- What a text walk of one program has met: for each destination granule, the last descriptor converted into it; each run as
(pc, descriptor, ABASE); each stream sent as (destination span, its address, the descriptor converted at its source). -/
structure FeedWalk where
  cur : Nat
  wrote : List (Nat × Nat)
  runs : List (Nat × Nat × Nat × Option Nat)
  sends : List (Nat × Nat × Nat)
deriving DecidableEq, Repr

/-- One instruction of the text walk. -/
def FeedWalk.step (o : FeedWalk) (e : BitVec 128 × Nat) : FeedWalk :=
  let run (a : RunArgs) : FeedWalk :=
    { o with runs := (e.2, o.cur, a.abase.toNat, kfind? o.wrote a.abase.toNat) :: o.runs }
  match decodeProgWord e.1 with
  | some (.layer _ d) => { o with cur := d.toNat }
  | some (.conv _ _ _ _ dst dspan _ _ _) =>
    if dspan = 0xFF then { o with wrote := kins o.wrote dst.toNat o.cur }
    else { o with sends := (dspan.toNat, dst.toNat, o.cur) :: o.sends }
  | some (.prun _ _ a _) => run a
  | some (.lrun _ _ a _) => run a
  | some (.send _ _ src _ dspan dst _ _) => match kfind? o.wrote src.toNat with
    | none => o
    | some d => { o with sends := (dspan.toNat, dst.toNat, d) :: o.sends }
  | _ => o

/-- The text walk of a logical span's program, from its first word to its last. -/
def Plan.feeds (x : Plan) (l : Nat) : FeedWalk :=
  (x.program l).zipIdx.foldl FeedWalk.step { cur := 0, wrote := [], runs := [], sends := [] }

/-- The first run of a span, by address, that takes a vector which R118 keeps from the cells. DESIGN CHOICE (log entry 52): what a
descriptor feeds is read from the program texts. A run takes the vector that the last conversion before it in its own text wrote
at its ABASE; where no conversion of the span writes there, the vectors that other spans send or convert to that address. -/
def feedBad (b : Bitstream) (x : Plan) (n l : Nat) : Option Nat :=
  let un (d : Nat) : Bool := ((x.desc? d).map (·.unaligned)).getD false
  let arrive (a : Nat) : Bool := (List.range n).any (fun k => (x.feeds k).sends.any (fun e =>
    decide (e.2.1 = a) && un e.2.2 && (decide (e.1 = l) || (decide (e.1 = 0xFE)
      && b.inSet (((x.desc? e.2.2).map (·.dset)).getD 0) l))))
  ((x.feeds l).runs.filter (fun r => match r.2.2.2 with
    | some d => un d
    | none => arrive r.2.2.1)).map (·.1) |>.min?

/-- Whether a descriptor's combination is allowed (R72, R116, R178, R307, R34, PRED_LAYER, and R110's width). -/
def descRuleOk (b : Bitstream) (p : Nat) (x : Plan) (n i : Nat) (d : Desc) : Bool :=
  let cells := !d.attEn && !d.unitTrestle
  let fmts := (List.range d.entries).map (fun e => d.plane e % 16)
  let first := (planeEntryOf (d.plane 0)).getD { wfmt := .pack5, shift := 0, psign := false }
  let predRule := decide (d.entries = 1) && decide (first.shift = 0) && !first.psign && decide (d.cmode = 0) && !d.accKeep
    && !d.varAt && !d.resEn && !d.normEn && scalesOk b (x.runners n i) d
    && ((x.desc? d.predLayer).map (·.predOut)).getD false
  (!cells || (fmts.all (fun f => decide (f ≤ 4)) && (decide (d.cmode ≠ 1) || fmts.all (fun f => decide (f = 3)))))
    && (!(d.varAt && !d.unitTrestle) || decide (16 * d.slice16 * max 1 (x.runners n i).length ≤ 16384))
    && (!(cells && decide (d.outKind = 0 ∧ d.cmode ≠ 2) && !d.predOut) || decide (d.slice16 % 16 = 0))
    && (!(cells && d.predEn) || predRule) && (decide (p < 2) || !(cells && d.predEn))

/-- DESC_RULE (0x0A) of one plan. -/
def ruleErr (sects : List Sect) (b : Bitstream) (p : Nat) (x : Plan) : Option LoadErr :=
  let n := planSpans b.ident p
  let varies (d : Desc) : Bool := d.varAt && !d.unitTrestle
  let twice (i : Nat) (d : Desc) : Bool := varies d &&
    (x.layers.take i).any (fun e => varies e && decide (e.varLayer = d.varLayer))
  let dyn (w : BitVec 128) : Bool := match decodeProgWord w with
    | some (.loop _ a) => a.dyn
    | _ => false
  match firstBad (fun i d => descRuleOk b p x n i d && !twice i d) x.layers with
  | some i => some (placeOf sects 6 p 0x0A 0 i)
  | none =>
    let feed := (List.range n).filterMap (fun l => (feedBad b x n l).map (fun k => placeOf sects 5 p 0x0A l k))
    match feed.head? with
    | some e => some e
    | none =>
      if p < 2 then none
      else match x.programs.find? (fun e => e.2.any dyn) with
        | none => none
        | some e => some (placeOf sects 5 p 0x0A 0 (e.2.findIdx dyn))

/-! ### PROGRAM, JOINT_STAMP, TICK_PLAN, ROLE -/

/-- PROGRAM (0x0B) of one plan. -/
def programErr (sects : List Sect) (b : Bitstream) (p : Nat) (x : Plan) : Option LoadErr :=
  let n := planSpans b.ident p
  let want := List.range n
  let wordOk (w : BitVec 128) : Bool := match decodeProgWord w with
    | none => false
    | some i => operandsOk n x.layers.length i
  if x.roles.map (·.lspan) ≠ want ∨ x.programs.map (·.1) ≠ want then some (placeOf sects 5 p 0x0B 0 0)
  else firstErr (x.programs.map (fun e =>
    let role := (x.role? e.1).getD { lspan := e.1, role := 0, progLen := 0, entry := [] }
    match firstBad (fun _ w => wordOk w) e.2 with
    | some k => some (placeOf sects 5 p 0x0B e.1 k)
    | none =>
      if e.2.length = role.progLen ∧ 1 ≤ e.2.length ∧ e.2.length ≤ 4096 ∧ role.entry.all (fun a => decide (a < role.progLen))
      then none else some (placeOf sects 5 p 0x0B e.1 0)))

/-- JOINT_STAMP (0x0C) of one plan. -/
def jointErr (sects : List Sect) (b : Bitstream) (p : Nat) (x : Plan) : Option LoadErr :=
  let ok (l ph : Nat) (e : Nat × Nat × Bool × Nat) : Bool := match x.joints[e.1]? with
    | none => false
    | some j => decide ((e.2.1 : Int) = (j.y : Int) - j.a - x.head.phaseS.getD (ph - 1) 0) && b.inSet j.set l
                && decide (e.2.2.1 = j.phase)
  firstErr ((List.range (planSpans b.ident p)).flatMap (fun l => (List.range 5).map (fun ph =>
    ((x.walk l (ph + 1)).joints.reverse.find? (fun e => !ok l (ph + 1) e)).map
      (fun e => placeOf sects 5 p 0x0C l e.2.2.2))))

/-- TICK_PLAN (0x0D) of one plan (R319, R320). -/
def tickPlanErr (sects : List Sect) (b : Bitstream) (p : Nat) (x : Plan) : Option LoadErr :=
  let h := x.head
  let n := planSpans b.ident p
  let raw := ((sectOf sects 8 p).map (·.body)).getD []
  let phases := x.joints.filter (·.phase)
  let headOk := decide (1 ≤ h.batchLimit ∧ h.batchLimit ≤ 4096) && decide (leAt raw 76 4 = x.joints.length)
    && decide (h.phaseS.getD 0 0 = 0) && decide (phases.length = 5)
    && (List.range 4).all (fun q => decide (h.phaseS.getD (q + 1) 0 = ((phases[q]?).map (·.y)).getD 0))
    && decide (h.phaseS.getD 4 0 + h.keyRes ≤ h.planCyc) && decide (h.periodMin ≤ h.periodPlan ∧ h.periodPlan ≤ h.periodMax)
    && ((x.joints.getLast?).map (·.phase)).getD false
  let jointOk (i : Nat) (j : Joint) : Bool :=
    decide (j.set < b.sets.length) && ((x.joints.take i).all (fun k => decide (k.y ≤ j.y)))
      && (!j.phase || ((List.range 128).all (fun l => b.inSet j.set l == decide (l < n)) && decide (j.trestle = x.hasTrestle)))
      && decide (j.pier = (j.phase && !(x.joints.take i).any (·.phase)))
  if !headOk then some (placeOf sects 8 p 0x0D 0 0)
  else (firstBad jointOk x.joints).map (fun i => placeOf sects 8 p 0x0D 0 (i + 1))

/-- ROLE (0x0E) of one plan (R310). -/
def roleErr (sects : List Sect) (p : Nat) (x : Plan) : Option LoadErr :=
  firstErr (x.programs.map (fun e =>
    let role := ((x.role? e.1).map (·.role)).getD 0
    (firstBad (fun _ w => match (decodeProgWord w).bind roleBit with
      | none => true
      | some k => role.testBit k) e.2).map (fun k => placeOf sects 5 p 0x0E e.1 k)))

/-! ### ROUTE (R311, R330) -/

/-- The preferred placement of `n` logical spans (R309, R330). -/
def prefPlace (pref : List Nat) (n l : Nat) : Option Nat := if l < n then some (pref.getD l 0) else none

/-- The first record at which a link is loaded over 256 shares. -/
def linkOver (pref : List Nat) (n : Nat) : Nat → List Route → List (((Nat × Nat) × (Nat × Nat)) × Nat) → Option Nat
  | _, [], _ => none
  | i, r :: rest, load => match endpointNode (prefPlace pref n) r.src, endpointNode (prefPlace pref n) r.dst with
    | some s, some d =>
      let load' := (pathLinks r.rowFirst s d).foldl (fun m k =>
        if m.any (fun e => e.1 = k) then m.map (fun e => if e.1 = k then (e.1, e.2 + r.share) else e)
        else (k, r.share) :: m) load
      if load'.any (fun e => decide (e.2 > 256)) then some i else linkOver pref n (i + 1) rest load'
    | _, _ => linkOver pref n (i + 1) rest load

/-- ROUTE (0x0F) of one plan. -/
def routeErr (sects : List Sect) (b : Bitstream) (p : Nat) (x : Plan) : Option LoadErr :=
  let n := planSpans b.ident p
  let ok (i : Nat) (r : Route) : Bool :=
    (endpointNode (prefPlace b.pref n) r.src).isSome && (endpointNode (prefPlace b.pref n) r.dst).isSome
      && !(x.routes.take i).any (fun q => decide (q.src = r.src ∧ q.dst = r.dst))
  match firstBad ok x.routes with
  | some i => some (placeOf sects 4 p 0x0F 0 i)
  | none => (linkOver b.pref n 0 x.routes []).map (fun i => placeOf sects 4 p 0x0F 0 i)

/-! ### KV, PRELOAD, LAYOUT, TRESTLE -/

/-- KV (0x10): R148, R173, R323, KV_LAYER, and the footbridge's class of R324. -/
def kvErr (sects : List Sect) (b : Bitstream) : Option LoadErr :=
  let cs := b.kvClasses
  let total := (cs.map (·.layers)).sum
  let classOk (i : Nat) (c : KvClass) : Bool :=
    decide (c.cls < 4) && !(cs.take i).any (fun e => e.cls = c.cls) && decide (1 ≤ c.nKv ∧ c.nKv ≤ 64)
      && decide (16 ≤ c.dH ∧ c.dH ≤ 256)
  let cover := decide (total ≤ 1024) && (List.range total).all (fun l =>
    decide ((cs.filter (fun c => decide (c.first ≤ l ∧ l < c.first + c.layers))).length = 1))
  let descOk (_ : Nat) (d : Desc) : Bool := !d.attEn || cs.any (fun c =>
    decide (c.cls = d.kvClass ∧ c.first ≤ d.kvLayer ∧ d.kvLayer < c.first + c.layers ∧ c.nKv = d.nKv ∧ c.dH = d.dH))
  let secErr : Option LoadErr := match sectOf sects 11 0xFF with
    | none => none
    | some x => match firstBad classOk cs with
      | some i => some (x.errAt 0x10 0 i)
      | none => if decide (1 ≤ cs.length ∧ cs.length ≤ 4) && cover then none else some (x.err 0x10)
  firstErr ([secErr] ++ b.plans.map (fun p => (firstBad descOk p.2.layers).map (fun i => placeOf sects 6 p.1 0x10 0 i))
    ++ [match b.footbridge with
        | none => none
        | some f => if cs.any (fun c => c.cls = f.cls) then none else some (placeOf sects 12 0xFF 0x10 0 0)])

/-- PRELOAD (0x12): R318 and the places of the TABLES records. -/
def preloadErr (sects : List Sect) (b : Bitstream) : Option LoadErr :=
  let span (t : TableRec) : Nat × Nat := (t.addr, t.addr + cdiv t.data.length 32)
  let clash (t u : TableRec) : Bool := decide (u.dest = 0) && decide ((span t).1 < (span u).2 ∧ (span u).1 < (span t).2)
    && (List.range 128).any (fun l => b.inSet t.set l && b.inSet u.set l)
  let ok (i : Nat) (t : TableRec) : Bool :=
    let before := b.tables.take i
    if t.dest = 0 then
      decide (t.set < b.sets.length) && decide ((span t).2 ≤ 2 ^ 17) && !before.any (clash t)
        && (List.range 128).all (fun l => !b.inSet t.set l
          || decide ((before.filter (fun u => decide (u.dest = 0) && b.inSet u.set l)).length < 8))
    else decide (t.dest = 1 ∧ t.addr % 32 = 0 ∧ t.addr < 2 ^ 35 ∧ t.addr + t.data.length ≤ 2 ^ 35)
  (firstBad ok b.tables).map (fun i => placeOf sects 7 0xFF 0x12 0 i)

/-- Whether one weight extent may stand before another (R322). -/
def extentLe (a c : WExtent) : Bool := decide (a.wl < c.wl) || decide (a.wl = c.wl ∧ a.lspan ≤ c.lspan)

/-- LAYOUT (0x13). -/
def layoutErr (sects : List Sect) (b : Bitstream) : Option LoadErr :=
  let ws := b.weights
  let ok (i : Nat) (e : WExtent) : Bool :=
    decide (e.offset % 4096 = 0) && decide (e.offset + 32 * e.len ≤ 2 ^ 40) && decide (e.entry ≤ 1)
      && decide (e.lspan < b.ident.spans ∨ e.lspan = 0xFE)
      && (match ws[i - 1]? with
          | none => true
          | some a => decide (i = 0) || extentLe a e)
  let has (wl l : Nat) : Bool := ws.any (fun e => decide (e.wl = wl ∧ e.lspan = l))
  let needed := (sectOf sects 13 0xFF).isSome
  let planErr (p : Nat × Plan) : Option LoadErr :=
    let x := p.2
    let n := planSpans b.ident p.1
    let spanBad (i : Nat) (d : Desc) : Bool := !d.attEn && !d.unitTrestle && (x.runners n i).any (fun l => !has d.wlIndex l)
    let trsBad (i : Nat) (d : Desc) : Bool := d.unitTrestle && !has d.wlIndex 0xFE
      && x.trestle.any (fun r => decide (r.kind ≤ 1 ∧ r.desc = i))
    (firstBad (fun i d => !spanBad i d && !trsBad i d) x.layers).map (fun i => placeOf sects 6 p.1 0x13 0 i)
  match firstBad ok ws with
  | some i => some (placeOf sects 13 0xFF 0x13 0 i)
  | none => if needed then firstErr (b.plans.map planErr) else none

/-- TRESTLE (0x15). -/
def trestleErr (sects : List Sect) (b : Bitstream) : Option LoadErr :=
  let recOk (x : Plan) (_ : Nat) (r : TrsRec) : Bool :=
    decide (r.kind ≤ 4) && decide (1 ≤ r.phase ∧ r.phase ≤ 5)
      && (decide (2 < r.kind) || decide (r.desc < x.layers.length))
      && (decide (1 < r.kind) || ((x.desc? r.desc).map (·.unitTrestle)).getD false)
      && (decide (r.src = 0xFFFF) || decide (r.src < x.layers.length))
  let fbErr : Option LoadErr := match b.footbridge with
    | none => none
    | some f =>
      if decide (1 ≤ f.draftMax ∧ f.draftMax ≤ 15) && decide (popc f.copyA = 16 ∧ popc f.copyB = 16)
          && decide (f.copyA &&& f.copyB = 0) then none
      else some (placeOf sects 12 0xFF 0x15 0 0)
  firstErr (b.plans.map (fun p => (firstBad (recOk p.2) p.2.trestle).map (fun i => placeOf sects 9 p.1 0x15 0 i)) ++ [fbErr])

/-- Load step 3: the first failure in code order (R334). -/
def stepThree (f : Fuses) (sects : List Sect) (b : Bitstream) : Option LoadErr :=
  let each (g : Nat → Plan → Option LoadErr) : Option LoadErr := firstErr (b.plans.map (fun p => g p.1 p.2))
  targetErr f sects b <|> missingErr sects b <|> each (rangeErr sects b) <|> each (ruleErr sects b)
    <|> each (programErr sects b) <|> each (jointErr sects b) <|> each (tickPlanErr sects b) <|> each (roleErr sects)
    <|> each (routeErr sects b) <|> kvErr sects b <|> preloadErr sects b <|> layoutErr sects b <|> trestleErr sects b

end Sys2Proof.Machine
end

