-- ==== Sys2Proof/Machine/Tollgate.lean ====
section
/-! DEFINITION. The tollgates (chapter 12): who a function is, the checks of a command record, event logs and credits,
event and token records, rejections, MSI-X windows. -/

namespace Sys2Proof.Machine
open Sys2Proof

/-! ### Registers of the TOLL block -/

def tollPort (port off : Nat) : Nat := 0x010000 + 0x40 * port + off
def tollCtr (port off : Nat) : Nat := 0x010100 + 0x40 * port + off
def tollPart (p : Nat) : Nat := 0x010400 + 4 * p
def tollVf (port vf : Nat) : Nat := 0x010800 + 0x400 * port + 4 * vf
def tollPage (port page : Nat) : Nat := 0x012000 + 0x200 * port + 4 * page

/-- A port that the port mode names (R379): two in mode 0b00, four in mode 0b01, none in the reserved modes. -/
def State.portPresent (s : State) (port : Nat) : Bool :=
  if s.boot.portMode = 0 then decide (port < 2) else if s.boot.portMode = 1 then decide (port < 4) else false

/-- A port's state. -/
def State.port (s : State) (port : Nat) : Port := kget Port.down s.ports port

/-- Change a port's state. -/
def State.modPort (port : Nat) (f : Port → Port) (s : State) : State :=
  { s with ports := kset Port.down s.ports port (f (s.port port)) }

/-- Whether a port takes memory requests: the chip is READY and the port is out of reset (R407, R566). -/
def State.portOpen (s : State) (port : Nat) : Bool :=
  decide (s.boot.state = .ready) && s.portPresent port && (s.port port).linkUp && !(s.port port).inReset

/-- The marker address of a port (Table 12.13). -/
def State.markerAddr (s : State) (port : Nat) : Nat :=
  16 * (s.reg (tollPort port 4) / 16) + 2 ^ 32 * s.reg (tollPort port 8)

/-- The partition that a VF serves (R380); none when it is not bound. -/
def State.vfPart? (s : State) (port vf : Nat) : Option Nat :=
  if s.regb (tollVf port vf) 31 then some (s.regf (tollVf port vf) 0 8) else none

/-- Whether a partition exists. -/
def State.partEnabled (s : State) (p : Nat) : Bool := s.regb (tollPart p) 31

/-- The partition of a page that a function may write (R383); none when the write is a miss. -/
def State.pagePart? (s : State) (port : Nat) (fn : Fn) (page : Nat) : Option Nat :=
  let o := tollPage port page
  let p := s.regf o 0 8
  let mine := match fn with
    | .pf => true
    | .vf n => decide (s.vfPart? port n.toNat = some p)
  if s.regb o 31 && s.partEnabled p && mine then some p else none

/-! ### Output on a host port -/

/-- A DMA write on a port (R407: none while the port is in reset); its payload is counted (Table 17.3). -/
def State.dma (port addr : Nat) (bytes : List Byte) (s : State) : State :=
  if s.portOpen port then (s.incBytes (0xA0200 + 8 * port) bytes.length).emit (.dma port addr bytes) else s

/-- Payload received on a port. -/
def State.portRx (port n : Nat) (s : State) : State := s.incBytes (0xA0204 + 8 * port) n

/-! ### Event logs (R397 to R401, R404, R406) -/

def State.log? (s : State) (port part : Nat) : Option EventLog := kfind? s.logs (256 * port + part)

def State.setLog (port part : Nat) (g : EventLog) (s : State) : State :=
  { s with logs := kins s.logs (256 * port + part) g }

/-- The 32 bytes of an event record (Table 12.7). -/
def eventBytes (e : EventRec) (phase mark : Nat) : List Byte :=
  natToBytes 1 e.type ++ natToBytes 1 phase ++ natToBytes 2 e.status ++ natToBytes 4 e.handle ++ natToBytes 4 mark
    ++ natToBytes 4 e.arg0 ++ natToBytes 8 e.arg1 ++ natToBytes 8 e.arg2

/-- Write an event record into the next slot of its log (R397, R401): FREE falls by one, and RESERVED when the record
was reserved. -/
def State.writeEvent (port part : Nat) (e : EventRec) (mark : Nat) (reserved : Bool) (s : State) : State :=
  match s.log? port part with
  | none => s
  | some g =>
    let size := 2 ^ g.log2
    let phase := if g.written / size % 2 = 0 then 0x80 else 0
    let s := s.dma port (g.addr + 32 * (g.written % size)) (eventBytes e phase mark)
    s.setLog port part { g with written := g.written + 1, free := g.free - 1,
                                reserved := if reserved then g.reserved - 1 else g.reserved }

/-- Open the message window of a log, when none is open (R406): it lasts 2 µs from the record's write, which a publish in progress
puts off to its end (R399). -/
def State.openWindow (port part : Nat) (s : State) : State :=
  match s.log? port part with
  | none => s
  | some g => if g.window.isSome then s else s.setLog port part { g with window := some (max s.time (s.pub.elim 0 (·.endAt)) + 2000) }

/-- Write an immediate record (R399): it carries the MARK last published; while a publish is in progress it waits for the marker and
goes out after it. -/
def State.writeNow (port part : Nat) (e : EventRec) (reserved : Bool) (s : State) : State :=
  (s.defer (some part) (fun s => s.writeEvent port part e (s.port port).mark.toNat reserved)).openWindow port part

/-- Reject a record (R404): written when the log has a free record, counted as lost otherwise. -/
def State.reject (port part code arg1 handle stamp : Nat) (s : State) : State :=
  let s := (s.inc (tollCtr port 0x04) 1).winAdd part 13 1
  match s.log? port part with
  | none => (s.inc (tollCtr port 0x10) 1).winAdd part 14 1
  | some g =>
    if g.reserved + 1 ≤ g.free then
      (s.setLog port part { g with lost := 0 }).writeNow port part
        { type := 2, status := code, handle := handle, arg0 := g.lost, arg1 := arg1, arg2 := stamp } false
    else ((s.inc (tollCtr port 0x10) 1).winAdd part 14 1).setLog port part { g with lost := g.lost + 1 }

/-- Return CREDITS to a log (R397): an excess over the ring size is discarded and counted. -/
def State.credits (port part n : Nat) (s : State) : State :=
  match s.log? port part with
  | none => s
  | some g =>
    let size := 2 ^ g.log2
    let s := if g.free + n > size then s.inc (tollCtr port 0x14) 1 else s
    s.setLog port part { g with free := min (g.free + n) size }

/-! ### Handles (R387, R388) -/

/-- Port, lane and SEQ of a handle. -/
def handlePort (h : Nat) : Nat := bitsAt h 30 2
def handleLane (h : Nat) : Nat := bitsAt h 17 13
def handleSeq (h : Nat) : Nat := bitsAt h 0 17

/-- A handle leaves flight: the reservation it still holds is given back to its log. -/
def State.endHandle (h : Nat) (s : State) : State :=
  match kfind? s.handles h with
  | none => s
  | some i =>
    let s := { s with handles := kdel s.handles h }
    match s.log? i.port i.partition with
    | none => s
    | some g => s.setLog i.port i.partition { g with reserved := g.reserved - i.reserve }

/-- The handles of a reset port at a cut, and at the keystone after it, at which they leave flight (R407). -/
def State.ageHandles (s : State) : State :=
  { s with handles := s.handles.map (fun e => (e.1, { e.2 with gone := if e.2.gone = 1 then 2 else e.2.gone })) }

def State.goneHandles (s : State) : State := { s with handles := s.handles.filter (fun e => decide (e.2.gone ≠ 2)) }

/-- Write an immediate record for a handle in flight, out of its reservation; a handle of a reset port gives none (R407). -/
def State.handleNow (h : Nat) (e : EventRec) (s : State) : State :=
  match kfind? s.handles h with
  | none => s
  | some i =>
    if i.gone ≠ 0 then s
    else
      let s := { s with handles := kins s.handles h { i with reserve := i.reserve - 1 } }
      s.writeNow i.port i.partition e (decide (i.reserve > 0))

/-- An immediate ANSWER, the last record of its command. -/
def State.answerNow (h status arg0 arg1 arg2 : Nat) (s : State) : State :=
  (s.handleNow h { type := 4, status := status, handle := h, arg0 := arg0, arg1 := arg1, arg2 := arg2 }).endHandle h

/-- A keystone record for a handle (R399): held for the keystone while a SERVE job runs ticks, written now otherwise. -/
def State.handleKey (h : Nat) (e : EventRec) (s : State) : State :=
  match kfind? s.handles h with
  | none => s
  | some i =>
    if i.gone ≠ 0 then s
    else if s.ticking then
      { s with tick := { s.tick with keyRecs := s.tick.keyRecs ++ [{ port := i.port, partition := i.partition, ev := e }] } }
    else s.handleNow h e

/-- The ANSWER of a CANCEL, a HANDOVER or a VARIANT: a keystone record and the last of its command. -/
def State.answerKey (h status arg0 : Nat) (s : State) : State :=
  let e : EventRec := { type := 4, status := status, handle := h, arg0 := arg0, arg1 := 0, arg2 := 0 }
  if s.ticking then s.handleKey h e else (s.handleKey h e).endHandle h

/-! ### Reading a command record (R386) -/

/-- The field of `n` bytes at byte `b` of a record, b ≥ 8. -/
def rfld (r : CmdRec) (b n : Nat) : Nat := bitsAt r.body.toNat (8 * (b - 8)) (8 * n)

/-- Whether the bytes of every range (byte, length) are zero. -/
def rzeros (r : CmdRec) (l : List (Nat × Nat)) : Bool := l.all (fun e => decide (rfld r e.1 e.2 = 0))

/-! ### The checks of a record (R383 to R389) -/

/-- What the table of opcodes and the record's own rules say of a command (Table 12.3): whether the opcode is one of the
table, the bit of the right it needs in TOLL_PART_CFG, the records it reserves, whether it is LOG_SETUP, whether it
makes a request, and whether a lock-step pair rejects it with NO_RIGHT (R533). -/
structure CmdKind where
  known : Bool
  right : Option Nat
  reserves : Nat
  isLog : Bool
  isRequest : Bool
  pairDenied : Bool := false
deriving DecidableEq, Repr

/-- What became of a record: it left no command (discarded or rejected), or it passed every check for a partition. -/
inductive Gated where
  | out (s : State)
  | ok (part : Nat) (s : State)
deriving DecidableEq, Repr

/-- The number of handles of a partition in flight. -/
def State.handlesOf (s : State) (part : Nat) : Nat := (s.handles.filter (fun e => e.2.partition = part)).length

/-- SEQ expected next on a lane (R387). -/
def State.laneSeq (s : State) (port lane : Nat) : Nat := kget 0 s.lanes (8192 * port + lane)

/-- Steps 3 to 8 of R389 for a record of partition `part`: `fieldsOk` is step 6's ranges, `refs` the checks of R393. -/
def State.checks (r : CmdRec) (k : CmdKind) (fieldsOk : Bool) (refs : State → Nat → Option Nat) (part : Nat)
    (s : State) : Gated :=
  let port := r.port.val
  let lane := r.lane.toNat
  let h := r.handle.toNat
  let stamp := s.timebase
  let rej (code arg1 : Nat) (s : State) : Gated := .out (s.reject port part code arg1 h stamp)
  let want := s.laneSeq port lane
  if !k.known then rej 0x01 0 s
  else if handlePort h ≠ port ∨ handleLane h ≠ lane then rej 0x02 0 s
  else if handleSeq h ≠ want then rej 0x03 want s
  else
    let s := { s with lanes := kset 0 s.lanes (8192 * port + lane) ((want + 1) % 2 ^ 17) }
    let rights := match k.right with
      | none => true
      | some b => decide (r.fn = .pf) || s.regb (tollPart part) b
    let rights := rights && !(k.pairDenied && s.regb 0x090050 31)
    let quota := s.regf (tollPart part) 0 17
    if (kfind? s.handles h).isSome then rej 0x04 0 s
    else if !rights then rej 0x08 0 s
    else if !fieldsOk || decide (r.rsvd ≠ 0) then rej 0x09 0 s
    else match refs s part with
      | some code => rej code 0 s
      | none =>
        if quota ≠ 0 ∧ s.handlesOf part ≥ quota then rej 0x06 0 s
        else if s.handles.length ≥ 131072 ∨ (k.isRequest ∧ s.requests.length ≥ 262144) then rej 0x07 0 s
        else if k.isLog then .ok part s
        else match s.log? port part with
          | none => .out s
          | some g =>
            if g.reserved + k.reserves ≤ g.free then
              .ok part (s.setLog port part { g with reserved := g.reserved + k.reserves })
            else rej 0x05 0 s

/-- The records in a port's intake (R385): those that wait for a cut (R389). -/
def State.intake (s : State) (port : Nat) : Nat := s.waiting.countP (fun w => decide (handlePort w.handle = port))

/-- Whether a port withholds posted flow-control credit: its intake is full. -/
def State.withholds (s : State) (port : Nat) : Bool := decide (8192 ≤ s.intake port)

/-- A record at arrival: without credit its write has not come (R385); the port must take records (R407, R566), the page must be the function's (R383), the partition
must have an event log unless the command is LOG_SETUP (step 1), the credits are applied (step 2), then the checks. -/
def State.gate (r : CmdRec) (k : CmdKind) (fieldsOk : Bool) (refs : State → Nat → Option Nat) (s : State) : Gated :=
  let port := r.port.val
  if !s.portOpen port || s.withholds port then .out s
  else
    let s := s.portRx port 64
    match s.pagePart? port r.fn (r.lane.toNat / 64) with
    | none => .out (s.inc (tollCtr port 0x18) 1)
    | some part =>
      let s := (s.inc (tollCtr port 0x00) 1).winAdd part 12 1
      if (s.log? port part).isNone ∧ k.isLog = false then .out (s.inc (tollCtr port 0x0C) 1)
      else (s.credits port part r.credits.toNat).checks r k fieldsOk refs part

/-- Put a handle in flight (R388). -/
def State.holdHandle (r : CmdRec) (part : Nat) (kind : HandleKind) (reserve : Nat) (s : State) : State :=
  { s with handles := kins s.handles r.handle.toNat { partition := part, port := r.port.val, kind := kind,
                                                      reserve := reserve, stamp := s.timebase, gone := 0 } }

/-- The TARGET rule of R393: a handle of the issuing partition that named a SUBMIT or a HANDIN. -/
def badTarget (target : Nat) (s : State) (part : Nat) : Option Nat :=
  if kfind? s.named target = some part then none else some 0x0A

/-- No check of R393 applies. -/
def noRefs (_ : State) (_ : Nat) : Option Nat := none

/-- The event log's VECTOR range of the issuing function (R378). -/
def vectorOk (fn : Fn) (v : Nat) : Bool := match fn with
  | .pf => decide (v < 2048)
  | .vf _ => decide (v < 64)

/-! ### Meanings of the records that need no tick -/

/-- CREDIT (R397): the credits of its header are its whole effect. -/
def execCredit (t : Nat) (r : CmdRec) (s : State) : Host.Outcome State Fault Refusal :=
  match (s.at t).gate r { known := true, right := none, reserves := 0, isLog := false, isRequest := false }
      (rzeros r [(8, 56)]) noRefs with
  | .out s => .next s
  | .ok _ s => .next s

/-- QUERY (R415): the target's state, committed length and generated tokens, as they are reported now. -/
def execQuery (t : Nat) (r : CmdRec) (s : State) : Host.Outcome State Fault Refusal :=
  let target := rfld r 8 4
  match (s.at t).gate r { known := true, right := none, reserves := 1, isLog := false, isRequest := false }
      (rzeros r [(12, 52)]) (badTarget target) with
  | .out s => .next s
  | .ok part s =>
    let h := r.handle.toNat
    let s := s.holdHandle r part .query 1
    match kfind? s.requests target with
    | none => .next (s.answerNow h 0 0 0 0)
    | some q => .next (s.answerNow h 0 q.seenState q.seen.1 q.seen.2)

/-- LOG_SETUP (R398): the new log replaces the old one and takes the ANSWER in its slot 0. -/
def execLogSetup (t : Nat) (r : CmdRec) (s : State) : Host.Outcome State Fault Refusal :=
  let port := r.port.val
  let addr := rfld r 8 8
  let log2 := rfld r 16 1
  let vector := rfld r 18 2
  let fieldsOk := rzeros r [(17, 1), (20, 44)] && decide (addr % 4096 = 0 ∧ 6 ≤ log2 ∧ log2 ≤ 20) && vectorOk r.fn vector
  let refs (s : State) (part : Nat) : Option Nat := match s.log? port part with
    | some g => if g.reserved > 0 then some 0x0C else if s.markerAddr port = 0 then some 0x0D else none
    | none => if s.markerAddr port = 0 then some 0x0D else none
  match (s.at t).gate r { known := true, right := none, reserves := 1, isLog := true, isRequest := false } fieldsOk refs with
  | .out s => .next s
  | .ok part s =>
    let vf := match r.fn with
      | .pf => none
      | .vf n => some n.toNat
    let s := s.setLog port part { addr := addr, log2 := log2, vector := vector, vf := vf, written := 0, free := 2 ^ log2,
                                  reserved := 0, lost := 0, window := none }
    let h := r.handle.toNat
    .next (s.writeNow port part { type := 4, status := 0, handle := h, arg0 := 0, arg1 := 0, arg2 := 0 } false)

/-- A record with a reserved opcode (R389 step 3): the steps before it, then BAD_OPCODE. -/
def execReservedOpcodeRecord (t : Nat) (opcode : BitVec 8) (r : CmdRec) (s : State) : Host.Outcome State Fault Refusal :=
  match (s.at t).gate r { known := decide (1 ≤ opcode.toNat ∧ opcode.toNat ≤ 11), right := none, reserves := 0,
                          isLog := decide (opcode.toNat = 5), isRequest := false } true noRefs with
  | .out s => .next s
  | .ok _ s => .next s

/-- A write to the lanes that is not one whole record (R384): a page that the function may not use is a miss (R383), any
other such write is discarded and counted. -/
def execPartialLaneWrite (t : Nat) (port : Fin 4) (fn : Fn) (offset len : Nat) (s : State) :
    Host.Outcome State Fault Refusal :=
  let s := s.at t
  if !s.portOpen port.val then .next s
  else
    let s := s.portRx port.val len
    match s.pagePart? port.val fn (offset / 4096) with
    | none => .next (s.inc (tollCtr port.val 0x18) 1)
    | some _ => .next (s.inc (tollCtr port.val 0x08) 1)

/-- The end of a message window (R406): the log sends its one message. -/
def execMsixWindowEnd (t : Nat) (port : Fin 4) (partition : BitVec 8) (s : State) : Host.Outcome State Fault Refusal :=
  let s := s.at t
  match s.log? port.val partition.toNat with
  | none => .next s
  | some g => match g.window with
    | none => .next s
    | some e =>
      if s.time < e then .next s
      else
        let s := s.setLog port.val partition.toNat { g with window := none }
        if s.portOpen port.val then .next (s.emit (.msix port.val g.vf g.vector)) else .next s

/-! ### Who reaches a register (R13, R380, R564) -/

/-- Whether the sideband serves every register of BAR0: from PIER_BOOT on (R564), and while the start is halted. -/
def State.sbFull (s : State) : Bool :=
  s.boot.standby && decide (s.boot.state ≠ .standby ∧ s.boot.state ≠ .powerOn ∧ s.boot.state ≠ .inReset)

/-- Whether an access of this requester arrives at all: a host port must be open, and the sideband must serve BAR0. -/
def State.reaches (s : State) (who : Requester) : Bool := match who with
  | .pf p => s.portOpen p.val
  | .vf p _ => s.portOpen p.val
  | .sideband => s.sbFull

/-- An access to a register of the management role at time `t`: a tenant's is denied (R13); the others act. -/
def State.asMgmt (t : Nat) (who : Requester) (act : State → State) (s : State) : State :=
  let s := s.at t
  if !s.reaches who then s
  else match who with
    | .pf p => act (s.portRx p.val 4)
    | .vf p _ => (s.portRx p.val 4).denied
    | .sideband => act s

/-- The effect of a write to TOLL_PAGE_OWNER (R411): ignored with REFUSED set when it changes the owner of a page whose
lanes hold a handle in flight. -/
def State.writePageOwner (port page : Nat) (value : Word) (s : State) : State :=
  let off := tollPage port page
  let old := s.regw off
  let owned := value.getLsbD 31
  let change := decide (owned ≠ old.getLsbD 31 ∨ value.toNat % 256 ≠ old.toNat % 256)
  let live := s.handles.any (fun e => decide (handlePort e.1 = port ∧ handleLane e.1 / 64 = page))
  let refused := old.getLsbD 30 && !(value.getLsbD 30 && s.mayClear (w1c off 30))
  if change && live then
    (s.setReg off (BitVec.ofNat 32 (fieldAt 31 1 (bit (old.getLsbD 31)) + fieldAt 30 1 1 + old.toNat % 256))).noteSet (w1c off 30)
  else s.setReg off (BitVec.ofNat 32 (fieldAt 31 1 (bit owned) + fieldAt 30 1 (bit refused) + value.toNat % 256))

/-- A write of a page's owner (R411). Only the management role may write it (R13). -/
def execPageOwnerWrite (t : Nat) (who : Requester) (port : Fin 4) (page : Fin 128) (value : Word) (s : State) :
    Host.Outcome State Fault Refusal :=
  .next (s.asMgmt t who (State.writePageOwner port.val page.val value))

end Sys2Proof.Machine
end

