-- ==== Sys2Proof/Machine/Requests.lean ====
section
/-! DEFINITION. The request table (R413 to R418) and the host commands on requests: SUBMIT's fields and extension,
readiness, completion, cancels, deadlines outside a tick. -/

namespace Sys2Proof.Machine
open Sys2Proof

/-! ### The request table -/

/-- Change a request. -/
def State.modReq (h : Nat) (f : Request → Request) (s : State) : State := { s with requests := kupd s.requests h f }

/-- A change of state that is reported from the moment it is made (R415). -/
def Request.toNow (st : ReqState) (q : Request) : Request := { q with state := st, seenState := st.code }

/-- Whether the request is in a batch state (R435, R437). -/
def ReqState.inBatch : ReqState → Bool
  | .prefill | .decode | .footbridge | .sittingOut | .handingOver => true
  | _ => false

/-- The SERVE job of the list that serves a model digest (R417), draining jobs apart. -/
def State.serveJob? (s : State) (d : BitVec 384) : Option Nat :=
  (s.jobs.find? (fun j => decide (j.2.type = .serve ∧ j.2.state ≠ .draining)
    && decide ((kfind? s.bits j.1).map (·.ident.modelDigest) = some d))).map (·.1)

/-- The listed SERVE job, draining or not, that a request belongs to. -/
def State.jobOf? (s : State) (q : Request) : Option Nat :=
  (s.entryOfModel? q.modelId).bind (fun e =>
    (s.jobs.find? (fun j => decide (j.2.type = .serve)
      && decide ((kfind? s.bits j.1).map (·.ident.modelDigest) = some (s.entry e).digest))).map (·.1))

/-- Whether a request is ready to serve (R417). -/
def State.servable (s : State) (q : Request) : Bool := match s.entryOfModel? q.modelId with
  | none => false
  | some e =>
    let x := s.entry e
    let variantOk := match q.variant with
      | none => true
      | some v => decide (x.owner? v = some q.partition)
    decide (x.state = .ready) && variantOk && (s.serveJob? x.digest).isSome

/-- The index of the first prompt token at or above the vocabulary size (cause 4 of R392). -/
def State.badToken? (s : State) (q : Request) : Option Nat := match s.entryOfModel? q.modelId with
  | none => none
  | some e => q.prompt.findIdx? (fun t => decide (t ≥ (s.entry e).vocab.size))

/-- The frames of a request that ends outside a keystone go at the next keystone of its job (R155). -/
def State.orphan (q : Request) (s : State) : State :=
  if q.ptRows = 0 then s
  else match s.jobOf? q with
    | none => s
    | some j =>
      if s.running = some j then { s with kv := { s.kv with orphans := s.kv.orphans ++ [(q.ptBase, q.ptRows)] } }
      else { s with kvSaved := kupd s.kvSaved j (fun k => { k with orphans := k.orphans ++ [(q.ptBase, q.ptRows)] }) }

/-- Remove a request from the table without any record. -/
def State.forget (h : Nat) (s : State) : State := match kfind? s.requests h with
  | none => s
  | some q => { (s.orphan q) with requests := kdel s.requests h }

/-- Complete a request with an immediate record (R402, R418). -/
def State.completeNow (h reason arg1 : Nat) (s : State) : State := match kfind? s.requests h with
  | none => s
  | some q =>
    let s := s.handleNow h { type := 3, status := reason, handle := h, arg0 := q.generated, arg1 := arg1,
                             arg2 := s.timebase }
    ((s.winAdd q.partition 2 1).endHandle h).forget h

/-- End a request that is in no batch: at the next keystone of the running SERVE job, or at once (R418). -/
def State.endRequest (h reason arg1 : Nat) (s : State) : State :=
  if s.ticking then s.modReq h (fun q => { q with ending := some { reason := reason, arg1 := arg1 } })
  else s.completeNow h reason arg1

/-- A fetched request that no batch holds takes the state that R417 gives it: QUEUED, after the check of its tokens, or
WAIT_MODEL (Table 13.3). -/
def State.placeRequest (h : Nat) (s : State) : State := match kfind? s.requests h with
  | none => s
  | some q =>
    if q.ending.isSome then s
    else if !s.servable q then s.modReq h (Request.toNow .waitModel)
    else if q.checked then s.modReq h (Request.toNow .queued)
    else match s.badToken? q with
      | some i => s.endRequest h 0x09 i
      | none => s.modReq h (fun q => { (q.toNow .queued) with checked := true })

/-- After a change of the hot set, the job list or a variant: every waiting request takes its place again. -/
def State.placeAll (s : State) : State :=
  ((s.requests.filter (fun e => decide (e.2.state = .waitModel ∨ e.2.state = .queued))).map (·.1)).foldl
    (fun s h => s.placeRequest h) s

/-! ### SUBMIT (R391, R392) -/

/-- The page-size rule of R149: 0 and 4 to 10 are allowed. -/
def pageLog2Ok (p : Nat) : Bool := decide (p = 0) || decide (4 ≤ p ∧ p ≤ 10)

/-- PAGE_LOG2 of a request: 0 lets the device choose by the declared length (R149). -/
def choosePage (p declared : Nat) : Nat := if p ≠ 0 then p else if declared ≤ 2048 then 6 else 8

/-- The fields and reserved bytes of a SUBMIT record (Table 12.4). -/
def submitOk (r : CmdRec) : Bool :=
  let variant := rfld r 36 2
  let mode := rfld r 39 1
  let pl := rfld r 40 4
  decide (rfld r 8 8 % 4 = 0 ∧ rfld r 16 8 % 16 = 0 ∧ rfld r 24 8 % 64 = 0)
    && (decide (variant < 16384) || decide (variant = 0xFFFF)) && decide (rfld r 38 1 < 8) && decide (mode < 128)
    && pageLog2Ok (bitsAt mode 2 4) && decide (1 ≤ pl ∧ pl < 2 ^ 20) && decide (1 ≤ rfld r 44 4 ∧ rfld r 44 4 ≤ 2 ^ 20)
    && decide (rfld r 52 4 ≤ pl) && decide (rfld r 56 8 = 0)
    && !(decide (rfld r 24 8 = 0) && mode.testBit 6)

/-- The off values of Table 7.2. -/
def Sampler.off : Sampler := { temp := 0x4000, topK := 0, topP := 0, minP := 0x4000, seed := 0 }

/-- The request-table entry that a SUBMIT makes (Table 13.1). -/
def submitEntry (r : CmdRec) (part stamp : Nat) : Request :=
  let variant := rfld r 36 2
  let mode := rfld r 39 1
  let dl := rfld r 48 4
  let pl := rfld r 40 4
  let mt := rfld r 44 4
  { state := .fetching, left := .queued, port := r.port.val, partition := part, modelId := rfld r 32 4,
    variant := if variant = 0xFFFF then none else some variant, priority := rfld r 38 1,
    deadline := if dl = 0 then none else some (stamp + 1000 * dl), dlPolicy := bitsAt mode 0 2, dlActed := false,
    promptLen := pl, shareLen := rfld r 52 4, committed := 0, fbLen := 0, pending := none, generated := 0, maxTokens := mt,
    ptBase := 0, ptRows := 0, pageLog2 := choosePage (bitsAt mode 2 4) (pl + mt), sampler := Sampler.off,
    seedGiven := mode.testBit 6, stop := { ids := [], strings := [], states := [] }, quality := Quality.zero,
    since := Quality.zero, footbridge := false, lateSeen := false, fixedSeen := false, satOut := false, handin := false,
    streamAddr := rfld r 16 8, streamBase := 0, streamLen := 0, stamp := stamp, prompt := [],
    hasExt := decide (rfld r 24 8 ≠ 0), checked := false, accepted := false, matched := 0, inserted := false,
    ending := none, ho := none, waitEnd := 0, ticket := 0, inBatch := false, seen := (0, 0), seenState := 1, slotNo := 0,
    dropped := false }

/-- SUBMIT (R391): a request-table entry in FETCHING. In a lock-step pair no request has a deadline (R533). -/
def execSubmit (t : Nat) (r : CmdRec) (s : State) : Host.Outcome State Fault Refusal :=
  match (s.at t).gate r { known := true, right := none, reserves := 2, isLog := false, isRequest := true } (submitOk r)
      noRefs with
  | .out s => .next s
  | .ok part s =>
    let h := r.handle.toNat
    let s := s.holdHandle r part .request 2
    let q := submitEntry r part s.timebase
    let q := if s.regb 0x090050 31 then { q with deadline := none } else q
    .next { s with requests := kins s.requests h q, named := kins s.named h part }

/-! ### The fetches (R392, R413) -/

/-- The first bad byte of an extension block (Table 12.5), fields in byte order. -/
def extBad? (x : List Byte) : Option Nat :=
  let b (i : Nat) : Nat := leAt x i 1
  let bad (i : Nat) : Bool :=
    if i = 2 then decide (leAt x 2 2 > 256)
    else if i = 6 then decide (leAt x 6 2 ≥ 2 ^ 15)
    else if 16 ≤ i ∧ i < 32 then decide (b i ≠ 0)
    else if 96 ≤ i ∧ i < 100 then decide (b i > 24)
    else if 100 ≤ i ∧ i < 196 then decide ((i - 100) % 24 ≥ b (96 + (i - 100) / 24) ∧ b i ≠ 0)
    else if 196 ≤ i then decide (b i ≠ 0)
    else false
  (List.range 256).find? bad

/-- A request with the settings of its extension block. -/
def Request.withExt (q : Request) (x : List Byte) : Request :=
  let strs := (List.range 4).map (fun i => byteSlice x (100 + 24 * i) (leAt x (96 + i) 1))
  { q with
    sampler := { temp := BitVec.ofNat 16 (leAt x 0 2), topK := leAt x 2 2, topP := leAt x 4 2,
                 minP := BitVec.ofNat 16 (leAt x 6 2), seed := BitVec.ofNat 64 (if q.seedGiven then leAt x 8 8 else 0) }
    stop := { ids := (List.range 16).map (fun i => leAt x (32 + 4 * i) 4), strings := strs, states := [0, 0, 0, 0] } }

/-- Both fetches of a request have completed: causes 1 to 3 of R392, then its place under R417. -/
def State.fetched (h : Nat) (prompt : Option (List Word)) (ext : Option (List Byte)) (s : State) : State :=
  match kfind? s.requests h with
  | none => s
  | some q =>
    if q.state ≠ .fetching ∨ q.ending.isSome then s
    else match prompt with
      | none => s.endRequest h 0x08 0
      | some p =>
        let s := s.portRx q.port (4 * q.promptLen + if q.hasExt then 256 else 0)
        let toks := (p.map (·.toNat)).take q.promptLen
        let toks := toks ++ List.replicate (q.promptLen - toks.length) 0
        let go (q' : Request) : State := (s.modReq h (fun _ => { q' with prompt := toks })).placeRequest h
        if !q.hasExt then go { q with stop := { ids := [], strings := [], states := [] } }
        else match ext with
          | none => s.endRequest h 0x08 1
          | some x => match extBad? x with
            | some i => s.endRequest h 0x0A i
            | none => go (q.withExt x)

/-! ### The end of a hand-over at its source (R171) -/

/-- Change the hand-over of a request. -/
def State.modHo (h : Nat) (f : HoInfo → HoInfo) (s : State) : State :=
  s.modReq h (fun q => { q with ho := q.ho.map f })

/-- A hand-over ends at its source before it has taken effect: the HANDOVER is answered, and the request returns to its
ticks at the next cut (R171). -/
def State.failHo (h status arg0 : Nat) (s : State) : State := match (kfind? s.requests h).bind (·.ho) with
  | none => s
  | some x =>
    if x.step = .none then s
    else
      let s := s.modHo h (fun x => { x with step := .none })
      (s.inc 0x040128 1).answerKey x.handle status arg0

/-- A link or the destination has broken a hand-over: HANDOVER_BROKEN. -/
def State.breakHo (h : Nat) (s : State) : State := s.failHo h 0x402 0

/-- Close a landing. -/
def State.closeLanding (lid : Nat) (s : State) : State := { s with landings := kdel s.landings lid }

/-- What a hand-over allocated at its destination goes when its landing closes before the commit; the HANDIN waits on. -/
def State.abortHoIn (lid : Nat) (s : State) : State :=
  match s.via.hoIn.find? (fun x => x.lid = lid && !x.committed) with
  | none => s
  | some x =>
    let s := { s with via := { s.via with hoIn := s.via.hoIn.filter (fun y => y.lid ≠ lid) } }.inc 0x040128 1
    match kfind? s.requests x.handle with
    | none => s
    | some q => (s.orphan q).modReq x.handle (fun q => { q with ptBase := 0, ptRows := 0, committed := 0 })

/-- Close a landing, with what its close means to a hand-over. -/
def State.expireLanding (lid : Nat) (s : State) : State := (s.abortHoIn lid).closeLanding lid

/-- What a hand-over of a request has made on either side goes with a cancel. -/
def State.stopHo (target : Nat) (s : State) : State :=
  let s := s.breakHo target
  match s.via.hoIn.find? (fun x => x.handle = target && !x.committed) with
  | none => s
  | some x => s.expireLanding x.lid

/-- Whether the commit record of a request's hand-over has gone out, after which the request is its destination's. -/
def Request.handedOver (q : Request) : Bool := match q.ho with
  | none => false
  | some x => decide (x.step = .committed ∨ x.step = .acked)

/-! ### CANCEL (R394, R255, R418) -/

/-- Whether a command was accepted before another: by stamp, and of one stamp by port and lane (R385), which lead a handle. -/
def Waiting.before (a b : Waiting) : Bool := decide (a.stamp < b.stamp ∨ (a.stamp = b.stamp ∧ a.handle ≤ b.handle))

/-- A command waits for a cut, in the order of acceptance. -/
def State.await (w : Waiting) (s : State) : State :=
  { s with waiting := s.waiting.filter (·.before w) ++ w :: s.waiting.filter (fun x => !x.before w) }

/-- A cancel that no cut of a running SERVE job takes in acts at once; a hand-over in progress ends as broken (R172). -/
def State.cancelNow (h target : Nat) (s : State) : State := match kfind? s.requests target with
  | none => s.answerKey h 1 0
  | some q =>
    let tooLate := match q.ho with
      | some x => decide (x.step = .committed ∨ x.step = .acked)
      | none => false
    if q.ending.isSome || tooLate then s.answerKey h 1 0
    else ((s.stopHo target).completeNow target 0x06 h).answerKey h 0 0

/-- CANCEL: it waits for the next cut while a SERVE job runs ticks, and acts at once otherwise. In a lock-step pair it is
rejected with NO_RIGHT (R533). -/
def execCancel (t : Nat) (r : CmdRec) (s : State) : Host.Outcome State Fault Refusal :=
  let target := rfld r 8 4
  match (s.at t).gate r { known := true, right := none, reserves := 1, isLog := false, isRequest := false,
                          pairDenied := true } (rzeros r [(12, 52)]) (badTarget target) with
  | .out s => .next s
  | .ok part s =>
    let h := r.handle.toNat
    let s := s.holdHandle r part (.cancel target) 1
    if s.ticking then .next (s.await { stamp := s.timebase, handle := h, cmd := .cancel target })
    else .next (s.cancelNow h target)

/-! ### HANDOVER and HANDIN (R395) -/

/-- HANDOVER: it waits for the next cut of the request's job (Table 13.3). In a lock-step pair it is rejected (R533). -/
def execHandover (t : Nat) (r : CmdRec) (s : State) : Host.Outcome State Fault Refusal :=
  let target := rfld r 8 4
  let dest := rfld r 12 2
  match (s.at t).gate r { known := true, right := some 28, reserves := 1, isLog := false, isRequest := false,
                          pairDenied := true }
      (rzeros r [(14, 2), (24, 40)] && decide (dest < 2 ^ 14)) (badTarget target) with
  | .out s => .next s
  | .ok part s =>
    let h := r.handle.toNat
    let s := s.holdHandle r part (.handover target) 1
    .next (s.await { stamp := s.timebase, handle := h, cmd := .handover target dest (BitVec.ofNat 64 (rfld r 16 8)) })

/-- The entry that a HANDIN makes: it waits for its offer. -/
def handinEntry (r : CmdRec) (part stamp now : Nat) : Request :=
  { state := .waitHandin, left := .queued, port := r.port.val, partition := part, modelId := 0, variant := none,
    priority := 0, deadline := none, dlPolicy := 0, dlActed := false, promptLen := 0, shareLen := 0, committed := 0,
    fbLen := 0, pending := none, generated := 0, maxTokens := 0, ptBase := 0, ptRows := 0, pageLog2 := 0,
    sampler := Sampler.off, seedGiven := true, stop := { ids := [], strings := [], states := [] },
    quality := Quality.zero, since := Quality.zero, footbridge := false, lateSeen := false, fixedSeen := false,
    satOut := false, handin := true, streamAddr := rfld r 16 8, streamBase := 0, streamLen := rfld r 28 4, stamp := stamp,
    prompt := [], hasExt := false, checked := true, accepted := false, matched := 0, inserted := true, ending := none,
    ho := none, waitEnd := now + 1000000 * rfld r 24 4, ticket := BitVec.ofNat 64 (rfld r 8 8), inBatch := false,
    seen := (0, 0), seenState := 9, slotNo := 0, dropped := false }

/-- HANDIN: a request-table entry in WAIT_HANDIN. -/
def execHandin (t : Nat) (r : CmdRec) (s : State) : Host.Outcome State Fault Refusal :=
  let fieldsOk := decide (rfld r 16 8 % 16 = 0) && decide (1 ≤ rfld r 24 4 ∧ rfld r 24 4 ≤ 60000)
    && decide (1 ≤ rfld r 28 4 ∧ rfld r 28 4 ≤ 2 ^ 20) && rzeros r [(32, 32)]
  match (s.at t).gate r { known := true, right := some 28, reserves := 2, isLog := false, isRequest := true,
                          pairDenied := true } fieldsOk noRefs with
  | .out s => .next s
  | .ok part s =>
    let h := r.handle.toNat
    let s := s.holdHandle r part .request 2
    .next { s with requests := kins s.requests h (handinEntry r part s.timebase s.time), named := kins s.named h part }

/-- WAIT_MS of a HANDIN has run out without a matching offer (R395): COMPLETE with HANDIN_EXPIRED. -/
def execHandinExpired (t : Nat) (handle : BitVec 32) (s : State) : Host.Outcome State Fault Refusal :=
  let s := s.at t
  match kfind? s.requests handle.toNat with
  | none => .next s
  | some q =>
    let receiving := s.via.hoIn.any (fun x => x.handle = handle.toNat)
    if q.state = .waitHandin ∧ q.waitEnd ≤ s.time ∧ q.ending.isNone ∧ !receiving then
      .next (s.endRequest handle.toNat 0x0B 0)
    else .next s

/-! ### Deadlines outside a running job (R426) -/

/-- ARG1 of a deadline action (R427). -/
def dlArg (q : Request) : Nat := if q.generated = 0 then 0 else 1

/-- Whether a request is one that no running job holds: in WAIT_MODEL or FETCHING, or of a paused job. -/
def State.unheld (s : State) (q : Request) : Bool :=
  decide (q.state = .waitModel ∨ q.state = .fetching)
    || (match s.jobOf? q with
        | none => false
        | some j => decide (s.running ≠ some j) && decide (q.state ≠ .waitHandin))

/-- The monitor's scan: TRUNCATE and ABORT act on the requests that no running job holds. -/
def State.scanDeadlines (s : State) : State :=
  (s.requests.map (·.1)).foldl (fun s h => match kfind? s.requests h with
    | none => s
    | some q =>
      let past := match q.deadline with
        | none => false
        | some d => decide (d < s.timebase)
      if past && !q.dlActed && q.ending.isNone && !q.handedOver && s.unheld q && decide (q.dlPolicy ≥ 2) then
        let s := s.inc (if q.dlPolicy = 2 then 0x030104 else 0x030108) 1
        let s := (s.stopHo h).modReq h (fun q => { q with dlActed := true })
        s.endRequest h (if q.dlPolicy = 2 then 0x04 else 0x05) (dlArg q)
      else s) s

/-- The scan that the deadline monitor makes every 1 ms. -/
def execDeadlineScan (t : Nat) (s : State) : Host.Outcome State Fault Refusal := .next (s.at t).scanDeadlines

end Sys2Proof.Machine
end

