-- ==== Sys2Proof/Machine/JobRules.lean ====
section
/-! DEFINITION. Jobs (R430 to R439): parameters, demand, the dispatcher's choice, the load of a bitstream from step 4 on
(R331, R334), leaving the spans and ending (R512, R513). -/

namespace Sys2Proof.Machine
open Sys2Proof

/-! ### Parameters (Table 13.5) -/

/-- The field of `n` bytes at byte `b` of a parameter block. -/
def prm (p : BitVec 2048) (b n : Nat) : Nat := bitsAt p.toNat (8 * b) (8 * n)

/-- Whether a bit of FLAGS is set. -/
def prmFlag (p : BitVec 2048) (i : Nat) : Bool := (prm p 8 1).testBit i

/-- Whether the block is valid for a job type (R431). -/
def paramsOk (t : JobType) (p : BitVec 2048) : Bool :=
  decide (prm p 9 3 = 0 ∧ prm p 88 168 = 0 ∧ prm p 8 1 < 64)
    && (match t with
        | .serve => !prmFlag p 0 || decide (1 ≤ prm p 12 4)
        | .ingest => (prmFlag p 5 || decide (prm p 16 8 % 4096 = 0))
            && (!prmFlag p 4 || decide (popc (BitVec.ofNat 32 (prm p 80 4)) = 16)) && decide (prm p 86 2 ≤ 16384)
        | .tune => decide (1 ≤ prm p 24 4 ∧ prm p 24 4 ≤ 2 ^ 24) && decide (1 ≤ prm p 28 4 ∧ prm p 28 4 ≤ 2 ^ 24)
            && decide (prm p 36 1 ≤ 4 ∧ prm p 38 2 % 1024 = 0)
        | .selftest => decide (prm p 16 1 ≤ 1))

/-! ### Demand and the dispatcher's choice (R437, R438) -/

/-- The requests of a listed SERVE job. -/
def State.jobRequests (s : State) (id : Nat) : List (Nat × Request) :=
  s.requests.filter (fun e => decide (s.jobOf? e.2 = some id))

/-- Whether a job has demand (R437). -/
def State.demand (s : State) (id : Nat) (j : Job) : Bool := match j.type with
  | .serve => (s.jobRequests id).any (fun e => decide (e.2.state = .queued) || e.2.state.inBatch)
  | _ => true

/-- The age of a stamp of the device time base. -/
def State.age (s : State) (stamp : Nat) : Int := (s.timebase : Int) - stamp

/-- The waiting time of a job's demand (R437): a DRAINING job's batch requests count as QUEUED (R438). -/
def State.waitTime (s : State) (id : Nat) (j : Job) : Int := match j.type with
  | .serve =>
    let rs := s.jobRequests id
    let q := rs.filter (fun e => decide (e.2.state = .queued) || (decide (j.state = .draining) && e.2.state.inBatch))
    match (q.map (fun e => e.2.stamp)).min? with
    | some x => s.age x
    | none => s.age j.lastRun
  | _ => s.age j.startedAt

/-- The earliest deadline below now + GUARD_MS among a job's QUEUED requests. -/
def State.urgent (s : State) (id : Nat) : Option Nat :=
  let guard := s.timebase + 1000000 * s.regf 0x020004 0 16
  (((s.jobRequests id).filter (fun e => decide (e.2.state = .queued))).filterMap (fun e => match e.2.deadline with
    | none => none
    | some d => if d < guard then some d else none)).min?

/-- The run quantum of a job in ms (R431, R455). -/
def State.quantumMs (s : State) (j : Job) : Nat :=
  if prm j.params 4 4 ≠ 0 then prm j.params 4 4 else max 1 (s.regf 0x020004 16 16)

/-- The job of a list with the greatest value, ties to the lower JOB_ID. -/
def bestJob (f : Nat × Job → Int) : List (Nat × Job) → Option Nat
  | [] => none
  | e :: r => some ((r.foldl (fun (b : Nat × Job) x => if f x > f b then x else b) e).1)

/-- The job that runs next in place of the running one (R438); none: the running job goes on. -/
def State.choose (s : State) : Option Nat :=
  let others := s.jobs.filter (fun e => decide (s.running ≠ some e.1))
  let ready := others.filter (fun e => decide (e.2.state = .paused ∨ e.2.state = .listed))
  let runUrgent := (s.running.bind s.urgent).isSome
  let rule1 := bestJob (fun e => s.age e.2.startedAt)
    (ready.filter (fun e => decide (e.2.type = .selftest ∧ e.2.state = .listed)))
  let urgents := ready.filter (fun e => (s.urgent e.1).isSome)
  let rule2 := if runUrgent then none else bestJob (fun e => -(((s.urgent e.1).getD 0 : Nat) : Int)) urgents
  let due := match s.running, s.job? with
    | some r, some j => decide (1000000 * s.quantumMs j ≤ s.timebase - j.lastRun) || !s.demand r j
    | _, _ => true
  let rule3 := if !due then none
    else bestJob (fun e => s.waitTime e.1 e.2)
      ((ready ++ others.filter (fun e => decide (e.2.state = .draining))).filter (fun e => s.demand e.1 e.2))
  rule1 <|> rule2 <|> rule3

/-- The job that loads when none runs: the dispatcher's choice, else the first that has never loaded. -/
def State.chooseIdle (s : State) : Option Nat :=
  s.choose <|> (s.jobs.find? (fun e => decide (e.2.state = .listed))).map (·.1)

/-- Note since when each SERVE job has had no demand (R435). -/
def State.noteIdle (s : State) : State :=
  { s with jobs := s.jobs.map (fun e =>
      (e.1, { e.2 with idleSince := if s.demand e.1 e.2 then none else some (e.2.idleSince.getD s.time) })) }

/-! ### Load status (R335) -/

/-- Set JOB_LOAD_STATUS and JOB_LOAD_DETAIL. -/
def State.loadReport (step : Nat) (cached basic : Bool) (e : Option LoadErr) (s : State) : State :=
  let x := e.getD { code := 0, sect := 0, plan := 7, lspan := 0, record := 0 }
  let st := fieldAt 24 8 x.code + fieldAt 20 4 step + fieldAt 19 1 (bit cached) + fieldAt 18 1 (bit basic)
    + fieldAt 15 3 x.plan + fieldAt 0 15 x.sect
  { s with loadStatus := BitVec.ofNat 32 st, loadDetail := BitVec.ofNat 32 (fieldAt 24 8 x.lspan + fieldAt 0 12 x.record) }

/-! ### Ending a job (R434 to R436) -/

/-- Close the landings of a job that ends and zero-fill those in device memory (R512). -/
def State.dropLandings (id : Nat) (j : Job) (s : State) : State :=
  (s.jobLandings id j).foldl (fun s e =>
    let s := s.expireLanding e.1
    if e.2.kind = .memory then s.memWrite ((List.range e.2.len).map (fun i => (s.landOff e.2.base i, 0#8))) else s) s

/-- Entries that wait for their holding job to end become EMPTY (Table 13.8), and their repairs are over. -/
def State.retire (s : State) : State :=
  let s := s.hot.foldl (fun (s : State) (e : Nat × HotEntry) =>
    if e.2.state = HotState.retiring ∧ !s.entryHeld e.1 then s.setEntry e.1 HotEntry.empty else s) s
  { s with flt := { s.flt with repairs := s.flt.repairs.filter (fun r =>
      decide ((s.entry r.entry).state = HotState.ready ∨ (s.entry r.entry).state = HotState.retiring)) } }

/-- The ANSWER of a job's JOB_START, once (R396, R432). -/
def State.answerStart (id status arg0 : Nat) (s : State) : State := match kfind? s.jobs id with
  | none => s
  | some j =>
    if j.answered then s
    else { (s.answerNow j.handle status arg0 0 0) with jobs := kupd s.jobs id (fun j => { j with answered := true }) }

/-- Of a list of requests, those that wait for a keystone that will not come end at once (R418). -/
def State.flushEndings (rs : List (Nat × Request)) (s : State) : State :=
  rs.foldl (fun (s : State) (e : Nat × Request) => match e.2.ending with
    | none => s
    | some x => s.completeNow e.1 x.reason x.arg1) s

/-- Records that a keystone would have written are immediate ones. -/
def State.tellNow (recs : List KeyRec) (s : State) : State :=
  recs.foldl (fun (s : State) (r : KeyRec) => (s.handleNow r.ev.handle r.ev).endHandle r.ev.handle) s

/-- Remove an ended job from the list: its landings, its job area and its holds go, the commands that wait for it are
answered, its QUEUED requests return to WAIT_MODEL; a request that its batch still holds completes with SERVICE_ERROR,
cause JOB_FAULT (R517). -/
def State.finishJob (id outcome scrubUs : Nat) (s : State) : State := match kfind? s.jobs id with
  | none => s
  | some j =>
    let s := s.flushEndings (s.jobRequests id)
    let s := s.tellNow (((kfind? s.tickSaved id).map (·.keyRecs)).getD [])
    let s := ((s.jobRequests id).filter (fun e => e.2.state.inBatch)).foldl (fun s e => s.endRequest e.1 0x0C 0x03) s
    let s := s.dropLandings id j
    let s := match j.type, j.entry with
      | .ingest, some e =>
        let x := s.entry e
        let s := { s with via := { s.via with install := none } }
        if x.state = HotState.installing then s.setEntry e { x with state := .interrupted } else s
      | _, _ => s
    let s := s.answerStart id 0 id
    let s := j.endHandles.foldl (fun s h => s.answerNow h 0 scrubUs outcome 0) s
    let s := j.preempts.foldl (fun s h => s.answerNow h 0 0 0 0) s
    let j' := { j with state := .ended, scrubUs := scrubUs, outcome := outcome, endHandles := [], preempts := [] }
    let s := { s with
      jobs := kdel s.jobs id, bits := kdel s.bits id, kvSaved := kdel s.kvSaved id, govSaved := kdel s.govSaved id,
      tickSaved := kdel s.tickSaved id, spanSaved := kdel s.spanSaved id, tune := kdel s.tune id,
      ended := ((id, j') :: s.ended).take 64 }
    s.retire.placeAll


/-- Every partition window takes its contributions and its pending close (R551). -/
def State.switchWindows (s : State) : State :=
  { s with obs := { s.obs with windows := s.obs.windows.foldl (fun m e =>
      kset PWindow.zero m e.1 (e.2.switch s.time)) [] } }

/-- Requests in each state, as the gauges of R459 count them. -/
def State.inState (s : State) (k : Nat) : Nat := s.requests.countP (fun e => decide (e.2.state.code = k))

/-- The gauges of R459 take their values. -/
def State.takeInState (s : State) : State :=
  { s with obs := { s.obs with gauges := (List.range 10).foldl (fun m k => kset 0 m k (s.inState k)) [] } }

/-- The requests and the handles of a reset port leave at once, without records (R407). -/
def State.clearGone (s : State) : State :=
  let s := ((s.requests.filter (fun e => e.2.dropped)).map (·.1)).foldl (fun (s : State) (h : Nat) => (s.stopHo h).forget h) s
  { s with handles := s.handles.filter (fun e => decide (e.2.gone = 0)) }

/-- With no ticks running, the records and the cancels that a keystone or a cut would have taken are taken at once: the
keystone records `recs`, then the cancels that wait; what a port reset has left behind goes. -/
def State.settle (recs : List KeyRec) (s : State) : State :=
  let s := s.clearGone
  let s := s.tellNow recs
  let isCancel (w : Waiting) : Bool := match w.cmd with
    | .cancel _ => true
    | .handover _ _ _ => false
  let cs := s.waiting.filter isCancel
  let s := { s with waiting := s.waiting.filter (fun w => !isCancel w) }
  cs.foldl (fun (s : State) (w : Waiting) => match w.cmd with
    | .cancel target => s.cancelNow w.handle target
    | .handover _ _ _ => s) s

/-- The running job leaves the spans (R433, R512): its store and its governor are kept, the chip is scrubbed, the binding
goes, and the pre-empts that wait for it are answered. Of a tick that it is to replay nothing is answered or ended (R248). -/
def State.leaveSpans (next : JobState) (s : State) : State := match s.running, s.job? with
  | some id, some j =>
    let keepTick := j.remoteWait && s.tick.broken.isSome
    let s := s.accrue.countStall none
    let s := s.flushEndings (s.requests.filter (fun e => !keepTick || decide (s.jobOf? e.2 ≠ some id)))
    let bytes := if j.ending.isSome then
        ((s.jobLandings id j).map (fun e => if e.2.kind = .memory then e.2.len else 0)).sum else 0
    let us := s.scrubTime bytes
    let s := { s with
      kvSaved := kins s.kvSaved id s.kv, govSaved := kins s.govSaved id s.gov, spanSaved := kins s.spanSaved id s.keptSpans,
      tickSaved := if keepTick then kins s.tickSaved id s.tick else kdel s.tickSaved id }
    let recs := if keepTick then [] else s.tick.keyRecs
    let lid (e : Nat × Landing) : Bool := decide (e.2.kind = .deck)
    let s := s.scrubChip
    let s := { s with
      via := { s.via with lock := { s.via.lock with paired := false, header := none } } }
    let s := { s with
      kv := KvStore.none, gov := { Governor.idle with lastTick := s.gov.lastTick }, running := none, routes := [],
      tick := { s.tick.left with pause := if keepTick then 2 else if j.ending.isNone then 1 else 0 },
      landings := s.landings.filter (fun e => !lid e),
      flt := { s.flt with scrubbing := true, scrubUs := us },
      jobs := kupd s.jobs id (fun j => { j with state := next, preempts := [], toHeld := false, scrubUs := us, fw := planFw s.tick.plan }) }
    let s := j.preempts.foldl (fun s h => s.answerNow h 0 0 0 0) s
    ((s.settle recs).switchWindows).showBinding []
  | _, _ => s

/-! ### Loading (R331 to R334) -/

/-- The units of 64 MiB per stack that a job area takes on `n` stacks: the key-value pools, and one stripe each for the
page tables, the node store and the landing space. -/
def poolBytes (b : Bitstream) : Nat := (b.kvClasses.map (fun c => 4096 * cdiv (c.poolUnits * c.unitBytes) 4096)).sum
def areaUnits (b : Bitstream) (n : Nat) : Nat := cdiv (poolBytes b) (n * 0x4000000) + 3

/-- The key-value store of a job that loads for the first time: empty pools in class order, then the page tables. -/
def freshKv (b : Bitstream) (n : Nat) : KvStore :=
  let r := b.kvClasses.foldl (fun (acc : Nat × List (Nat × Pool)) c =>
    let bytes := 4096 * cdiv (c.poolUnits * c.unitBytes) 4096
    (acc.1 + bytes, kins acc.2 c.cls { units := c.poolUnits, unitBytes := c.unitBytes, base := acc.1, used := [] })) (0, [])
  { KvStore.none with pools := r.2, ptBase := cdiv (poolBytes b) (n * 0x4000000) * (n * 0x4000000) }

/-- The MODEL check (R440): the entries a job needs, or none when one is missing. -/
def State.modelEntries (s : State) (b : Bitstream) : Option (Option Nat × Option Nat) :=
  let main := match s.readyEntry? b.ident.modelDigest with
    | none => none
    | some e => if (s.entry e).layoutDigest = b.ident.layoutDigest then some e else none
  match b.ident.jobType with
  | .serve => match main, b.footbridge with
    | some e, some f => match s.readyEntry? f.digest with
      | none => none
      | some x => if (s.entry x).copyA = f.copyA then some (some e, some x) else none
    | _, _ => none
  | .tune => main.map (fun e => (some e, none))
  | .ingest => some (none, none)
  | .selftest => some (none, none)

/-- A load that fails (R334): it is reported, and the job ends with an outcome. -/
def State.failLoadAs (outcome id : Nat) (e : LoadErr) (s : State) : State :=
  let mine := decide ((s.load.map (·.job)) = some id)
  let cached := mine && (s.load.map (·.cached)).getD false
  let s := s.loadReport 8 cached false (some e)
  let s := if mine then { s with load := none } else s
  (s.answerStart id (0x100 + e.code) 0).finishJob id outcome 0

/-- A load that fails for what the bitstream or the device holds: the outcome is FAULT. -/
def State.failLoad (id : Nat) (e : LoadErr) (s : State) : State := s.failLoadAs 0x08 id e

/-- Load step 4 (R331): the checks against device state, then the binding. The load then waits for the scrub. -/
def State.stepFour (id : Nat) (s : State) : State := match kfind? s.jobs id, kfind? s.bits id, s.load with
  | some j, some b, some l =>
    let fail (code : Nat) : State := s.failLoad id (bareErr code 7)
    if j.fixed && !(b.plan? 3).isSome then fail 0x07
    else match s.modelEntries b with
      | none => fail 0x08
      | some (main, fb) =>
        let list := if j.jobUnits ≠ 0 then j.stripe else s.liveStacks
        let units := areaUnits b list.length
        let place := if j.jobUnits ≠ 0 then some ((j.jobBase - 0x18000000) / 0x4000000)
          else highestRange s.used list units
        match place with
        | none => fail 0x11
        | some u =>
          let active := s.spansIn .active
          let n := if j.type = JobType.ingest then 0 else if j.basic ≠ 0 then b.ident.basicSpans else b.ident.spans
          let short := decide (active.length < n)
          let basic := short && decide (j.type = JobType.serve) && decide (b.ident.basicSpans ≤ active.length)
          if short && !basic then fail 0x14
          else
            let n := if basic then b.ident.basicSpans else n
            let j' (j : Job) : Job := { j with
              entry := if j.type = JobType.ingest then j.entry else main, fbEntry := fb, jobBase := poolUnit u, jobUnits := units,
              stripe := list, basic := if basic && decide (j.basic = 0) then 4 else j.basic }
            let s := { s with jobs := kupd s.jobs id j',
                              load := some { l with step := 5, basic := basic, binding := bindSpans active b.pref n } }
            s.noteAlloc.loadReport 5 l.cached basic none
  | _, _, _ => s

/-- Start the load of a job that the dispatcher has chosen: from step 4 when its bitstream is held, else it waits for
the copy. -/
def State.startLoad (id : Nat) (s : State) : State :=
  let have_ := (kfind? s.bits id).isSome
  let cached := have_ && ((kfind? s.jobs id).map (fun j => decide (j.src = 0) || j.ran)).getD false
  let s := { s with jobs := kupd s.jobs id (fun j => { j with state := if j.state = JobState.draining then .draining else .loading }),
                    load := some { job := id, step := if have_ then 4 else 1, cached := cached, basic := false, binding := [] } }
  let s := s.loadReport (if have_ then 4 else 1) cached false none
  if have_ then s.stepFour id else s

/-- With nothing on the spans, loads are started until one stands or none is left to choose (R438, R513). -/
def State.fillSpans : Nat → State → State
  | 0, s => s
  | fuel + 1, s =>
    if s.running.isSome || s.load.isSome || s.flt.testing.isSome || s.boot.deferred.isSome then s
    else match s.chooseIdle with
      | none => s
      | some id => State.fillSpans fuel (s.startLoad id)

/-- Whether the running job is a SERVE job between ticks, which may leave the spans at once. -/
def State.betweenTicks (s : State) : Bool := match s.job? with
  | none => false
  | some j => decide (j.type = JobType.serve) && !s.ticking

/-- A SERVE job that runs and has demand runs ticks: its first cut is due now (R437). -/
def State.startTicks (s : State) : State := match s.running, s.job? with
  | some id, some j =>
    if decide (j.type = JobType.serve) && !s.ticking && (s.demand id j || s.regb 0x090050 31) then
      { s.takeInState with gov := { s.gov with nextCut := some s.time } } else s
  | _, _ => s

/-- The dispatcher's decision (R438), at a change of the job list or of any demand and at a pause point: `pause` says that
the running job stands at one. A job that is to end leaves and ends; one that a pre-empt or the dispatcher takes off the
spans leaves for HELD or PAUSED. -/
def State.dispatch (pause : Bool) (s : State) : State :=
  let s := s.noteIdle
  let s := match s.running, s.job? with
    | some id, some j =>
      if !(pause || s.betweenTicks) then s
      else
        let idle := !(s.jobRequests id).any (fun e => e.2.state.inBatch)
        if j.ending.isSome && (decide (j.type ≠ JobType.serve) || idle) then s.leaveSpans j.state
        else if j.toHeld && decide (j.type ≠ JobType.selftest) && j.ending.isNone then s.leaveSpans .held
        else if j.type = JobType.selftest then s
        else match s.choose with
          | none => s
          | some _ => s.leaveSpans (if j.state = JobState.draining then .draining else .paused)
    | _, _ => s
  let s := if s.running.isNone && s.load.isNone then s.fillSpans (s.jobs.length + 1) else s
  s.startTicks

/-- A job that is not on the spans ends at once; the landings it holds are scrubbed as it ends. -/
def State.endOffSpans (id outcome : Nat) (s : State) : State := match kfind? s.jobs id with
  | none => s
  | some j =>
    let bytes := ((s.jobLandings id j).map (fun e => if e.2.kind = .memory then e.2.len else 0)).sum
    let s := if (s.load.map (·.job)) = some id then { (s.loadReport 0 false false none) with load := none } else s
    s.finishJob id outcome (if bytes = 0 then 0 else cdiv (cdiv (bytes * 10) 196608) 1000)

/-- A job ends at once with a fault of the device (R508, R517, R541): its requests in batch states complete with
SERVICE_ERROR and a cause of Table 15.4 as immediate records, and a job on the spans leaves them. -/
def State.abandonJob (id outcome cause : Nat) (s : State) : State := match kfind? s.jobs id with
  | none => s
  | some j =>
    let mine := decide (s.running = some id)
    let s := if mine then
        { s.accrue with tick := { s.tick.left with keyRecs := s.tick.keyRecs, plan := s.tick.plan }, gov := { s.gov with nextCut := none } }
      else s
    let hs := ((s.jobRequests id).filter (fun e => e.2.state.inBatch)).map (·.1)
    let s := hs.foldl (fun (s : State) (h : Nat) => s.completeNow h 0x0C cause) s
    let o := j.ending.getD outcome
    let s := { s with jobs := kupd s.jobs id (fun j => { j with ending := some o, toHeld := false, remoteWait := false }) }
    if mine then s.leaveSpans .draining
    else if s.flt.scrubbing && j.ending.isSome then s
    else s.endOffSpans id o

/-- A job is told to end with an outcome (R434 to R436): a SERVE job drains, any other ends at its next pause point; off the
spans a job without batch requests ends at once. -/
def State.tellEnd (id outcome : Nat) (s : State) : State := match kfind? s.jobs id with
  | none => s
  | some j =>
    let s := { s with jobs := kupd s.jobs id (fun j =>
      { j with ending := some (j.ending.getD outcome), state := if j.type = JobType.serve ∧ j.state ≠ JobState.loading then .draining else j.state,
               toHeld := false }) }
    let s := s.placeAll
    if s.running = some id ∧ s.via.lock.frozen then s.abandonJob id outcome 0x03
    else if s.running = some id then s.dispatch false
    else if (s.jobRequests id).any (fun e => e.2.state.inBatch) then s.dispatch false
    else if s.flt.scrubbing ∧ j.ending.isSome then s
    else (s.endOffSpans id ((j.ending).getD outcome)).dispatch false

end Sys2Proof.Machine
end

