-- ==== Sys2Proof/Machine/ViaSend.lean ====
section
/-! DEFINITION. Sending on the Cefin ports (chapter 14): own numbers, routing (R470), credit (R466), link sequence
numbers and the replay buffer (R468). -/

namespace Sys2Proof.Machine
open Sys2Proof

/-! ### Numbers and ports -/

/-- The module's own chip number, whether it is assigned, and the ring's size (Table 14.9). -/
def State.chip (s : State) : Nat := s.regf 0x090000 0 14
def State.assigned (s : State) : Bool := s.regb 0x090000 31
def State.ringSize (s : State) : Nat := s.regf 0x090000 16 6 + 1

/-- Whether a chip number is one of the module's own: its number, or a number held under a claim (R470). -/
def State.ownNumber (s : State) (c : Nat) : Bool := decide (c = s.chip) || decide (s.via.held = some c)

/-- A port. -/
def State.cefin (s : State) (p : Nat) : CefinPort := kget CefinPort.down s.via.ports p

/-- Change a port. -/
def State.modCefin (p : Nat) (f : CefinPort → CefinPort) (s : State) : State :=
  { s with via := { s.via with ports := kset CefinPort.down s.via.ports p (f (s.cefin p)) } }

/-- Whether a port is up. -/
def CefinPort.up (x : CefinPort) : Bool := decide (x.state = .upX4 ∨ x.state = .upX2)

/-- Whether a port carries the lock-step link (R481, Table 14.12). -/
def State.lockPort (s : State) (p : Nat) : Bool := s.regb 0x090050 31 && decide (s.regf 0x090050 28 3 = p)

/-- A port that carries viaduct traffic: up, and not the lock-step link. -/
def State.linkUp (s : State) (p : Nat) : Bool := (s.cefin p).up && !s.lockPort p

/-- Counter `off` of port `p` (Table 14.13). -/
def viaCtr (p off : Nat) : Nat := 0x090100 + 0x20 * p + off

/-! ### Sending on one port (R466, R468) -/

/-- The bytes of a packet on the wire (R464). -/
def pktBytes (p : Pkt) : Nat := 20 + 32 * p.payload.length

/-- The credit a packet takes, in 256-byte units. -/
def pktUnits (p : Pkt) : Nat := cdiv (pktBytes p) 256

/-- The credit of one half of a virtual class, in 256-byte units: 128 KiB for VC 2 and 16 KiB for the others. -/
def halfUnits (vc : Nat) : Nat := if vc = 2 then 256 else 32

/-- Whether a port holds credit for a packet, and room in its replay buffer of 256 KiB. -/
def CefinPort.canSend (x : CefinPort) (q : SentPkt) : Bool :=
  let k := 2 * q.pkt.vc.toNat + q.half
  decide (kget 0 x.credits k + pktUnits q.pkt ≤ halfUnits q.pkt.vc.toNat)
    && decide ((x.held.map (fun e => pktBytes e.pkt)).sum + pktBytes q.pkt ≤ 262144)

/-- Send a packet now: it takes the next LSEQ and credit, and stays in the replay buffer. -/
def State.txNow (p : Nat) (q : SentPkt) (s : State) : State :=
  let x := s.cefin p
  let q := { q with pkt := { q.pkt with lseq := BitVec.ofNat 12 x.txSeq } }
  let s := s.modCefin p (fun x => { x with
    txSeq := (x.txSeq + 1) % 4096, held := x.held ++ [q],
    credits := kmod 0 x.credits (2 * q.pkt.vc.toNat + q.half) (· + pktUnits q.pkt) })
  (s.incBytes (viaCtr p 0x00) (pktBytes q.pkt)).emit (.packet p q.type q.pkt)

/-- Send the packets of a port that waited for credit, in order, as far as it goes; a packet behind one of its own class
waits with it. -/
def State.drainPort (p : Nat) : List SentPkt → State → State
  | [], s => s
  | q :: rest, s =>
    if (s.cefin p).canSend q && !(s.cefin p).waiting.any (fun w => w.pkt.vc = q.pkt.vc) then
      State.drainPort p rest (s.txNow p q)
    else State.drainPort p rest (s.modCefin p (fun x => { x with waiting := x.waiting ++ [q] }))

/-- Send a packet on a port that is up; a packet without credit waits. -/
def State.sendOn (p half : Nat) (type : BitVec 8) (k : Pkt) (s : State) : State :=
  if (s.cefin p).up then s.drainPort p [{ type := type, half := half, pkt := { k with port := BitVec.toFin (BitVec.ofNat 3 p), fec := 0 } }]
  else s

/-- An LCTL (Table 14.2): it takes no LSEQ and no credit. -/
def State.sendLctl (p : Nat) (ack nak : Option Nat) (credit : List Nat) (s : State) : State :=
  let f (o : Option Nat) (lo : Nat) : Nat := match o with
    | none => 0
    | some q => fieldAt lo 12 q + fieldAt (lo + 12) 1 1
  let arg := f ack 0 + f nak 13 + ((List.range 4).map (fun v => fieldAt (32 + 8 * v) 8 (credit.getD v 0))).sum
  let k : Pkt := { port := BitVec.toFin (BitVec.ofNat 3 p), vc := 0, lseq := 0, dst := 0, src := BitVec.ofNat 14 s.chip,
                   ttl := 63, arg := BitVec.ofNat 64 arg, payload := [] }
  (s.incBytes (viaCtr p 0x00) 20).emit (.packet p 0x00 k)

/-! ### Routing (R470) -/

/-- RING and POS of a chip number (R469). -/
def ringOf (c : Nat) : Nat := c / 64
def posOf (c : Nat) : Nat := c % 64

/-- The ring port towards a position: E (0) when it lies at most half the ring to the east, W (1) otherwise, the other
one when the chosen port is down. -/
def State.ringPort (s : State) (pos : Nat) : Option Nat :=
  let n := s.ringSize
  let d := (pos + n - posOf s.chip % n) % n
  let first := if d ≤ n / 2 then 0 else 1
  if s.linkUp first then some first else if s.linkUp (1 - first) then some (1 - first) else none

/-- The port on which a packet for `dst` leaves; none when there is no route. A module without a number of its own, or with a
duplicate one, is link-local (R469). -/
def State.outPort (s : State) (dst : Nat) : Option Nat :=
  if !s.assigned || s.via.duplicate then none
  else
  let dst := ((s.via.relocs.find? (fun r => r.claimed = dst)).map (·.holder)).getD dst
  if ringOf dst = ringOf s.chip then s.ringPort (posOf dst)
  else
    let r := 0x090400 + 4 * ringOf dst
    if !s.regb r 31 then none
    else if s.regb r 30 then s.ringPort (s.regf r 21 6)
    else if s.linkUp (s.regf r 27 3) then some (s.regf r 27 3) else none

/-- The buffer half a packet takes on a port (R466): B once it has crossed the ring's dateline, and on a tree link that leads
downward. -/
def State.halfOn (s : State) (p src : Nat) : Nat :=
  let own := posOf s.chip
  let n := s.ringSize
  let crossed := ringOf src = ringOf s.chip ∧ (if p = 0 then posOf src > own else posOf src < own)
  if p = 0 then (if own + 1 = n ∨ crossed then 1 else 0)
  else if p = 1 then (if own = 0 ∨ crossed then 1 else 0)
  else if Config.downlink p then 1 else 0

/-- Whether the module sends and forwards packets that are not link-local (R469). -/
def State.forwards (s : State) : Bool := s.assigned && s.via.checked && !s.via.duplicate

/-- Send a packet of the module's own to another chip; without a route it is discarded and counted. -/
def State.sendTo (type vc dst arg : Nat) (payload : List (BitVec 256)) (s : State) : State :=
  match s.outPort dst with
  | none => s.inc 0x090204 1
  | some p =>
    let k : Pkt := { port := BitVec.toFin (BitVec.ofNat 3 p), vc := BitVec.ofNat 2 vc, lseq := 0, dst := BitVec.ofNat 14 dst,
                     src := BitVec.ofNat 14 s.chip, ttl := 63, arg := BitVec.ofNat 64 arg, payload := payload }
    s.sendOn p (s.halfOn p s.chip) (BitVec.ofNat 8 type) k

/-- The granules that spell a byte string. -/
def granulesOf (n : Nat) (bs : List Byte) : List (BitVec 256) :=
  (List.range n).map (fun i => BitVec.ofNat 256 (leAt bs (32 * i) 32))

/-- The bytes of a packet's payload. -/
def payloadBytes (p : List (BitVec 256)) : List Byte := p.flatMap (fun g => natToBytes 32 g.toNat)

end Sys2Proof.Machine
end

