-- ==== Sys2Proof/Machine/Observe.lean ====
section
/-! DEFINITION. What the module reports of itself and how it is captured: the registers of sequencer, tick, job and trestle
unit, the snapshot (R560), the trigger (R558), and the faults of a span with the records they leave. -/

namespace Sys2Proof.Machine
open Sys2Proof

/-! ### Registers that units report -/

/-- The code of a hold (Table 9.14). -/
def HoldKind.code : HoldKind → Nat
  | .issuing => 0
  | .stamp => 1
  | .unitBusy => 2
  | .counter => 3
  | .hazard => 4
  | .joint => 5
  | .remoteWait => 6
  | .afterEnd => 7

/-- A phase's planned start. -/
def State.phaseStart (s : State) (phase : Nat) : Nat := ((s.plan?.map (·.head.phaseS)).getD []).getD (phase - 1) 0

/-- The planned cycle of a stamp on a span. -/
def State.planned (s : State) (q : Sequencer) (stamp : Nat) : Nat := s.phaseStart q.phase + q.base + stamp + q.offset

/-- What holds a sequencer now: the release of a joint, the end of the phase, the stamp of the instruction at PC, or what held
it when it was last presented. -/
def State.holdNow (s : State) (q : Sequencer) : HoldKind × Nat :=
  let early := decide (s.cycNow < s.planned q (progStamp (kget 0#128 q.prog q.pc)))
  if q.phase = 0 then (.issuing, 0)
  else if q.jointAt.isSome ∨ q.arrived.isSome then (.joint, 0)
  else if q.ended then (.afterEnd, 0)
  else if early then (.stamp, 0)
  else match q.hold with
    | none => (.issuing, 0)
    | some h => if h.kind = .stamp then (.issuing, 0) else (h.kind, h.ctr)

/-- SPN_SEQ_STATE (Table 9.14). -/
def State.seqWord (s : State) (q : Sequencer) : Nat :=
  let h := s.holdNow q
  let ctr := if h.1 = .counter ∨ h.1 = .remoteWait then h.2 else 0
  fieldAt 29 3 q.phase + fieldAt 27 2 q.loops.length + fieldAt 24 3 h.1.code + fieldAt 19 5 ctr + fieldAt 0 12 q.pc

/-- SPN_SEQ_LATE (Table 9.16). -/
def Sequencer.lateWord (q : Sequencer) : Nat := fieldAt 31 1 (bit (decide (q.late < 0))) + min q.late.natAbs (2 ^ 31 - 1)

/-- QUANTUM in cycles of the clock of the run. -/
def State.quantumCyc (s : State) : Nat := (((s.plan?.map (·.head.quantum)).getD 0) * 25 * s.tick.n)

/-- Quanta of slip so far. -/
def State.slipNow (s : State) : Nat :=
  let q := s.quantumCyc
  if q = 0 then 0 else cdiv (max 0 (s.tick.h - s.tick.init)).toNat q

/-- PAUSE of TICK_STATUS: a frozen pair has no replay that is pending. -/
def State.pauseCode (s : State) : Nat :=
  if s.running.isNone then s.tick.pause
  else if s.tick.broken.isSome ∧ s.tick.broken ≠ some .lockstep then 3 else 0

/-- TICK_STATUS (Table 8.11) of the tick as it stands. -/
def State.runStatus (s : State) : Nat :=
  let t := s.tick
  fieldAt 29 3 (if t.active then t.phase else 0) + fieldAt 28 1 (bit (t.active && t.replay)) + fieldAt 27 1 (bit s.fixed)
    + fieldAt 26 1 (bit s.fidelity) + fieldAt 25 1 (bit (t.active && planFw t.plan)) + fieldAt 24 1 (bit (t.active && t.sealed))
    + fieldAt 20 4 (min s.slipNow 15) + fieldAt 18 2 s.pauseCode + fieldAt 0 16 t.lastJoint

/-- TICK_STATUS: phase 5 lasts until the publish ends. -/
def State.tickStatus (s : State) : Nat := match s.pub with
  | none => s.runStatus
  | some x => x.status

/-- TICK_LEDGER: INIT − H in two's complement. -/
def State.tickLedger (s : State) : Nat := ((s.tick.init - s.tick.h) % 2 ^ 32).toNat

/-- JOB_STATE (Table 13.10). -/
def State.jobState (s : State) : Nat := match s.running, s.job? with
  | some id, some j => fieldAt 16 16 id + fieldAt 14 2 (match j.type with
      | .serve => 0
      | .tune => 1
      | .ingest => 2
      | .selftest => 3) + fieldAt 10 4 j.state.code + fieldAt 7 3 s.tick.plan + fieldAt 6 1 (bit j.fixed)
      + fieldAt 5 1 (bit j.fidelity) + fieldAt 0 5 s.jobs.length
  | _, _ => fieldAt 0 5 s.jobs.length

/-- JOB_TRS_STATE (Table 7.5). -/
def State.trsWord (s : State) : Nat :=
  let st := match s.trs.state with
    | .untested => 0
    | .inService => 1
    | .suspect => 2
    | .fenced => 3
  let fw := if s.tick.active then planFw s.tick.plan else s.falsework
  fieldAt 30 2 st + fieldAt 29 1 (bit fw) + fieldAt 24 4 s.trs.cause + fieldAt 16 8 (min s.trs.suspects 255)

/-! ### Joints of the plan in use -/

/-- The joint record with an index. -/
def State.joint? (s : State) (j : Nat) : Option Joint := s.plan?.bind (fun p => p.joints[j]?)

/-- The logical spans of the running job. -/
def State.lspans (s : State) : List Nat := s.binding.map (·.1)

/-- The span members of a joint. -/
def State.jointSpans (s : State) (g : Joint) : List Nat := match s.bitstream? with
  | none => []
  | some b => s.lspans.filter (b.inSet g.set)

/-- The members that have not arrived at joint `j`, whose record is `g`: logical spans, 128 the trestle unit, 129 the pier. -/
def State.missingAt (s : State) (j : Nat) (g : Joint) : List Nat :=
  let all := s.jointSpans g ++ (if g.trestle then [128] else []) ++ (if g.pier then [129] else [])
  all.filter (fun m => (kfind? s.tick.arrivals m).map (·.joint) ≠ some j)

/-! ### The snapshot (R560) -/

/-- The opcode of a stream's instruction (Table 9.3). -/
def StreamKind.opcode : StreamKind → Nat
  | .mload => 0x40
  | .mstore => 0x41
  | .kvrd => 0x42
  | .fill => 0x43
  | .copy => 0x44
  | .gath => 0x45
  | .scat => 0x46
  | .send => 0x47

/-- The 8 bytes of a stream slot (Table 17.11). -/
def streamWord (o : Option Stream) : Nat := match o with
  | none => 0
  | some x =>
    let total := x.srcs.length
    fieldAt 0 8 x.kind.opcode + fieldAt 8 5 x.sctr + fieldAt 13 20 (total - x.count)
      + fieldAt 33 1 (bit (x.fen.isSome && decide (x.taken < total)))
      + fieldAt 34 1 (bit (x.needAck && decide (x.count = total ∧ x.acked < total))) + fieldAt 35 1 1

/-- Busy units of a span at a cycle. -/
def Span.busyBits (cyc : Nat) (x : Span) : Nat :=
  bit (x.cells.bufs.any (fun b => !b.2.done)) + 2 * bit (decide (cyc < x.cells.busyUntil) || !x.cells.inflight.isEmpty)
    + 4 * bit (decide (cyc < x.abt.writtenAt)) + 8 * bit (decide (cyc < x.archBusyUntil) || x.att.isSome) + 16 * bit (!x.streams.isEmpty)

/-- WVAL of the instruction that the sequencer presents: bits [90:71] of its word, when the wait group is enabled. -/
def Sequencer.heldVal (q : Sequencer) : Nat :=
  let w := kget 0#128 q.prog q.pc
  if q.hold.isSome && w.getLsbD 97 then (w.extractLsb' 71 20).toNat else 0

/-- The record of a logical span (Table 17.11). -/
def State.spanRecord (s : State) (l : Nat) : List Byte := match s.phys? l with
  | none => List.replicate 256 0#8
  | some p =>
    let x := s.span p
    let q := x.seq
    let joint := q.jointAt.getD ((q.arrived.map (·.1)).getD 0xFFFF)
    natToBytes 4 (s.seqWord q) ++ natToBytes 4 q.lateWord ++ natToBytes 2 joint ++ natToBytes 1 (x.busyBits s.cycNow)
      ++ natToBytes 1 p ++ natToBytes 4 q.heldVal
      ++ (List.range 32).flatMap (fun c => natToBytes 4 (kget 0 q.arrive c))
      ++ (List.range 4).flatMap (fun w => natToBytes 8 (match kfind? q.windows w with
          | none => 0
          | some v => fieldAt 0 17 v.base + fieldAt 17 17 v.len + fieldAt 34 1 (bit v.remote)))
      ++ (List.range 8).flatMap (fun i => natToBytes 8 (streamWord (kfind? x.streams i)))
      ++ (List.range 16).flatMap (fun b => natToBytes 1 (kget [] x.queues b).length)

/-- The 41,984 bytes of a snapshot (Table 17.10), `cause` as the table codes it. -/
def State.snapshotBytes (s : State) (cause : Nat) : List Byte :=
  let head := natToBytes 4 0x4E535859 ++ natToBytes 4 s.obs.snapNo ++ natToBytes 8 s.timebase ++ natToBytes 4 s.tickNumber
    ++ natToBytes 4 s.tickStatus ++ natToBytes 4 s.tickLedger ++ natToBytes 4 cause ++ natToBytes 4 s.jobState
    ++ natToBytes 4 41984 ++ List.replicate 24 0#8
  let ctl := (List.range 32).flatMap (fun i =>
    let k := kget Stack.cold s.mem.stk i
    natToBytes 4 0 ++ natToBytes 1 k.level ++ natToBytes 1 k.state.code ++ natToBytes 10 0)
  let ports := (List.range 4).flatMap (fun p =>
    let x := s.port p
    let queued := s.pub.elim 0 (fun e => e.items.countP (fun i => decide (i.out.host? = some p)))
    let busy := decide (0 < queued)
    natToBytes 2 (s.intake p) ++ natToBytes 2 (bit (s.withholds p) + 2 * bit busy) ++ natToBytes 4 x.mark.toNat ++ natToBytes 4 queued ++ natToBytes 20 0)
  let logs := (List.range 1024).flatMap (fun i => natToBytes 8 (match kfind? s.logs i with
    | none => 0
    | some g => fieldAt 0 21 g.free + fieldAt 21 21 g.reserved + fieldAt 63 1 1))
  let cef := (List.range 8).flatMap (fun p =>
    let x := s.cefin p
    let st := if s.lockPort p ∧ x.up then 5 else x.state.code
    natToBytes 4 st ++ (List.range 4).flatMap (fun v =>
      natToBytes 2 (2 * halfUnits v - kget 0 x.credits (2 * v) - kget 0 x.credits (2 * v + 1)))
      ++ natToBytes 8 0 ++ natToBytes 4 ((x.held.map (fun e => pktBytes e.pkt)).sum) ++ natToBytes 8 0)
  let miss := match s.joint? s.tick.nextJoint with
    | none => []
    | some g => if s.tick.active then s.missingAt s.tick.nextJoint g else []
  let pier := natToBytes 4 s.trsWord ++ natToBytes 2 s.trs.nextRec ++ natToBytes 2 s.tick.nextJoint
    ++ natToBytes 16 (((miss.filter (· < 128)).map (2 ^ ·)).sum)
    ++ natToBytes 1 (bit (miss.contains 128) + 2 * bit (miss.contains 129)) ++ natToBytes 39 0
  head ++ (List.range 128).flatMap s.spanRecord ++ ctl ++ ports ++ logs ++ cef ++ pier

/-- The bus address of the snapshot buffer, bits [11:0] ignored. -/
def State.snapAddr (s : State) : Nat := 4096 * (s.reg 0x0A0044 / 4096) + 2 ^ 32 * s.reg 0x0A0048

/-- A request for a snapshot other than the sideband's: refused and counted while one is being written, or without an
address. -/
def State.takeSnapshot (cause : Nat) (s : State) : State :=
  if s.obs.snapBusy ∨ s.snapAddr = 0 then
    { s with obs := { s.obs with snapDropped := BitVec.ofNat 8 (min 255 (s.obs.snapDropped.toNat + 1)) } }
  else { s with obs := { s.obs with snapBusy := true, snapData := s.snapshotBytes cause, snapNo := s.obs.snapNo + 1 } }

/-! ### The trigger (R558) -/

/-- Fire the trigger with a cause of Table 17.8: once while FIRED is 1; a snapshot is taken in the same cycle when SNAP is
1. -/
def State.fireTrigger (cause : Nat) (s : State) : State :=
  if s.regb 0x0A0034 30 then s
  else
    let s := (s.setRegBit 0x0A0034 30 true).noteSet (w1c 0x0A0034 30)
    let s := { s with obs := { s.obs with trigger := some (s.timebase, cause) } }
    if s.regb 0x0A0034 25 then s.takeSnapshot 1 else s

/-- A condition of the trigger that occurs in logical span `l`: `b` is its enable bit in OBS_TRIG. -/
def State.triggerAt (l b cause : Nat) (s : State) : State :=
  if s.regb 0x0A0034 b && s.armed l then s.fireTrigger cause else s

/-! ### Faults of a span (R298, R498, R500) -/

/-- A fault that physical span `p`, bound as `l`, raises: recorded, and the trigger's ON_FAULT. -/
def State.spanFault (l p cls cause : Nat) (s : State) : State := (s.fault cls cause p).triggerAt l 28 2

/-- SPN_SEQ_FAULT takes the first program fault since VALID was cleared (R301). -/
def Sequencer.record (cause tick pc : Nat) (q : Sequencer) : Sequencer :=
  if q.fault.getLsbD 23 then q
  else { q with fault := BitVec.ofNat 32 (fieldAt 24 8 cause + fieldAt 23 1 1 + fieldAt 20 3 q.phase + fieldAt 12 8 tick
                                          + fieldAt 0 12 pc) }

/-- A program fault other than HUNG (R298): it breaks the tick and fences nothing. -/
def State.progFault (l p cause pc : Nat) (s : State) : State :=
  let s := if (s.span p).seq.fault.getLsbD 23 then s else s.noteSet (w1c (0x800124 + 0x10000 * l) 23)
  let s := s.modSpan p (fun x => { x with seq := x.seq.record cause s.tickNumber pc })
  let s := s.trace l 5 [BitVec.ofNat 8 cause, 1#8]
  (s.spanFault l p 1 cause).breakHere .span

/-- A SPAN_DATA fault (R498, R500): the tick is broken and the span takes a strike; the second one that it holds asks for a
fence, which the fault manager makes before the replay. -/
def State.dataFault (l p cause : Nat) (s : State) : State :=
  let s := s.modSpan p (fun x => { x with strikes := x.strikes ++ [s.time] })
  (s.spanFault l p 3 cause).breakHere .span

/-- Poisoned data other than weights reaches a unit of a span (R356, R507): the tick breaks. -/
def State.dataPoison (l p : Nat) (s : State) : State := (s.spanFault l p 6 0).breakHere .poison

/-- Poison that a deck flit brought reaches a unit of a span: a SPAN_DATA fault without a strike (R510); the tick breaks. -/
def State.flitFault (l p : Nat) (s : State) : State := (s.spanFault l p 3 0).breakHere .span

end Sys2Proof.Machine
end

