-- ==== Sys2Proof/Machine/Fence.lean ====
section
/-! DEFINITION. Fences and spares (R20, R25, R502), entry into and exit from basic service (R514 to R517). -/

namespace Sys2Proof.Machine
open Sys2Proof

/-- FLT_SPAN_CTRL shows DONE and a result. -/
def State.spanResult (result : Nat) (s : State) : State :=
  { s with flt := { s.flt with spanDone := true, spanResult := result } }.noteSet (w1c 0x0B0010 29)

/-- The end of an action of FLT_SPAN_CTRL: DONE and RESULT. -/
def State.spanActionDone (result : Nat) (s : State) : State := { s with flt := { s.flt with ctrlSpan := none } }.spanResult result

/-! ### Fences (R25, R502) -/

/-- Enter a span in the fence list, when there is room. -/
def State.listFence (p : Nat) (s : State) : State :=
  if s.flt.fenceList.contains p ∨ s.flt.fenceList.length ≥ 32 then s
  else { s with flt := { s.flt with fenceList := s.flt.fenceList ++ [p] } }

/-- Write the image of the plan in use and the preloads of a logical span into the span bound to it (R329). -/
def State.rewriteSpan (l p : Nat) (s : State) : State := match s.bitstream?, s.plan? with
  | some b, some plan => s.writeSpan b plan l p
  | _, _ => s

/-- A span of a binding made at load step 4 is fenced before the first cut (R333): its spare takes its place, and without
one step 4 runs again. -/
def State.fenceInLoad (p : Nat) (q : Option Nat) (s : State) : State := match s.load with
  | none => s
  | some l => match l.binding.find? (fun e => e.2 = p) with
    | none => s
    | some e => match q with
      | some q => { s with load := some { l with binding := kins l.binding e.1 q } }
      | none => s.stepFour l.job

/-- Fence a span. The nearest spare becomes ACTIVE and takes the logical number of a bound span; false when a bound span
finds no spare. -/
def State.fence (p : Nat) (s : State) : Bool × State :=
  let m := s.mapEntry p
  if m.status ≠ SpanStatus.active ∧ m.status ≠ SpanStatus.spare then (true, s)
  else
    let s := (s.inc 0x0B0130 1).listFence p
    let fenced : MapEntry := { status := .fenced, logical := none }
    if m.status = SpanStatus.spare then (true, s.setMap (kins s.spanMap p fenced))
    else match nearest p (s.spansIn .spare), m.logical with
      | none, l =>
        let s := (s.setMap (kins s.spanMap p fenced)).fenceInLoad p none
        (l.isNone, match l with
          | none => s
          | some l => { s with binding := kdel s.binding l })
      | some q, none =>
        (true, (s.setMap (kins (kins s.spanMap p fenced) q { status := .active, logical := none })).fenceInLoad p (some q))
      | some q, some l =>
        let s := s.setMap (kins (kins s.spanMap p fenced) q { status := .active, logical := some l })
        let s := ({ s with binding := kins s.binding l q }).modSpan q Span.fresh
        (true, (s.inc 0x0B0134 1).rewriteSpan l q)

/-- Fence several spans, in ascending logical order; false when a bound one finds no spare. -/
def State.fenceAll (ps : List Nat) (s : State) : Bool × State :=
  let key (p : Nat) : Nat := (s.mapEntry p).logical.getD (200 + p)
  (ps.mergeSort (fun a b => decide (key a ≤ key b))).foldl (fun (acc : Bool × State) (p : Nat) =>
    let r := acc.2.fence p
    (acc.1 && r.1, r.2)) (true, s)

/-- The bound spans that hold two strikes (R500), and those that a management command fences at the next tick boundary. -/
def State.toFence (s : State) : List Nat :=
  (s.spans.filter (fun (e : Nat × Span) => decide (2 ≤ e.2.strikes.length) && decide ((s.mapEntry e.1).status = SpanStatus.active))).map (·.1)
    ++ s.flt.fenceAsked

/-! ### Basic service (R514 to R517) -/

/-- Bind the first `n` logical spans of the running job over the ACTIVE spans, and write the images of the plan in use, its routes and
the preloads (R515). -/
def State.rebind (b : Bitstream) (n : Nat) (s : State) : State :=
  let s := (s.showBinding (bindSpans (s.spansIn .active) b.pref n)).writeImages b s.tick.plan
  s.binding.foldl (fun (s : State) (e : Nat × Nat) => s.modSpan e.2 (fun x => x.writePreloads b e.1)) s

/-- Move the running job to the plan that Table 10.3 gives it now; an entry into falsework is counted (R218). -/
def State.setPlan (s : State) : State := match s.job?, s.bitstream? with
  | some j, some b =>
    let plan := s.planFor j
    if plan = s.tick.plan then s
    else
      let s := if planFw plan && !planFw s.tick.plan then s.inc 0x02051C 1 else s
      s.writePlan b plan
  | _, _ => s

/-- The running job enters basic service for a cause of R514, or ends when too few spans are ACTIVE (R517). -/
def State.enterBasic (cause : Nat) (s : State) : State := match s.running, s.bitstream? with
  | some id, some b =>
    let s := (s.inc 0x0B0148 1).modJob (fun j => { j with basic := cause, basicTicks := 0 })
    if (s.spansIn .active).length < b.ident.basicSpans then s.abandonJob id 0x08 0x03
    else
      let s := (s.rebind b b.ident.basicSpans).setPlan
      { s with tick := { s.tick with runs := 0 } }
  | _, _ => s

/-- The repair limit of R506 in missed ticks. -/
def State.repairTicks (s : State) : Nat := max 1 (s.regf 0x0B000C 16 8)

/-- BASIC_HOLD in committed ticks. -/
def State.basicHold (s : State) : Nat := max 1 (s.regf 0x0B000C 0 16)

/-- Whether the cause of basic service is gone (R516). -/
def State.basicGone (s : State) (j : Job) : Bool :=
  if j.basic = 2 then !j.basicAgain && decide (s.basicHold ≤ j.basicTicks)
  else if j.basic = 3 then s.flt.repairs.isEmpty
  else false

/-- At a cut the job leaves basic service when its cause is gone and its spans are there. -/
def State.leaveBasic (s : State) : State := match s.job?, s.bitstream? with
  | some j, some b =>
    if j.basic = 0 ∨ !s.basicGone j ∨ (s.spansIn .active).length < b.ident.spans then s
    else
      let s := s.modJob (fun j => { j with basic := 0, basicTicks := 0, basicAgain := j.basicAgain || decide (j.basic = 2) })
      s.rebind b b.ident.spans
  | _, _ => s

/-- Basic service that a failed repair has asked for (R506), when the job in question still runs. -/
def State.basicDue (s : State) : State :=
  let asked := s.flt.basicAsked
  let s := { s with flt := { s.flt with basicAsked := none } }
  match s.job? with
  | none => s
  | some j => if asked = s.running ∧ j.type = JobType.serve ∧ j.basic = 0 then s.enterBasic 3 else s

/-- The fences that are due at a tick boundary, with basic service when the spares run short (R20, R502, R514). -/
def State.fencesDue (s : State) : State :=
  let ps := s.toFence
  if ps.isEmpty then s
  else
    let r := s.fenceAll ps
    let asked := match s.flt.ctrlSpan with
      | none => false
      | some p => s.flt.fenceAsked.contains p
    let s := { r.2 with flt := { r.2.flt with fenceAsked := [] } }
    let s := if asked then s.spanActionDone 0 else s
    if r.1 then s
    else match s.job? with
      | none => s
      | some j =>
        if j.type ≠ JobType.serve then s
        else if j.basic = 0 then s.enterBasic 1
        else match s.bitstream?, s.running with
          | some b, some id =>
            if (s.spansIn .active).length < b.ident.basicSpans then s.abandonJob id 0x08 0x03
            else s.rebind b b.ident.basicSpans
          | _, _ => s

/-- The tick boundary of a cut or a replay: what the fault manager has waiting for it. -/
def State.boundaryFences (s : State) : State := s.fencesDue.basicDue

end Sys2Proof.Machine
end

