-- ==== Sys2Proof/Machine/Landings.lean ====
section
/-! DEFINITION. Landings (R368, R409, R471 to R474, R599): opening and closing, BAR4 accesses, expiry. -/

namespace Sys2Proof.Machine
open Sys2Proof

/-! ### Where a landing may lie (R368, R599) -/

/-- Whether an in-stack range of `n` bytes from device offset `a` lies in units `[lo, hi)` of 64 MiB from in-stack base `b`,
in a stack of a list. -/
def inUnits (slist : List Nat) (b lo hi a n : Nat) : Bool :=
  let o := a % 2 ^ 35
  slist.contains (stackOf a) && decide (stackOf (a + n - 1) = stackOf a)
    && decide (b + lo * 0x4000000 ≤ o ∧ o + n ≤ b + hi * 0x4000000)

/-- Whether a range, striped from its first byte's offset, lies in the job area of a listed job. -/
def State.inJobArea (s : State) (a n : Nat) : Bool := match s.areaAt a with
  | none => false
  | some e => decide (e.2 + n ≤ e.1.areaBytes)

/-- Whether such a range lies in the landing space of a job area: its last unit of each stack. -/
def State.inLandingSpace (s : State) (a n : Nat) : Bool := match s.areaAt a with
  | none => false
  | some e => decide (e.1.areaBytes - 0x4000000 * e.1.stripe.length ≤ e.2 ∧ e.2 + n ≤ e.1.areaBytes)

/-- Whether a range lies in a hot-set entry that is being installed. -/
def State.inInstall (s : State) (a n : Nat) : Bool :=
  s.hot.any (fun e => decide (e.2.state = HotState.installing) && inUnits e.2.list (poolUnit e.2.baseUnit) 0 e.2.slabUnits a n)

/-- Whether two byte ranges overlap. -/
def overlap (a n b m : Nat) : Bool := decide (a < b + m ∧ b < a + n)

/-- Whether two device-memory landings overlap: by their addresses in one job area. -/
def State.landOverlap (s : State) (a n b m : Nat) : Bool := match s.areaAt a, s.areaAt b with
  | some x, some y => decide (x.1.jobBase = y.1.jobBase ∧ x.1.stripe = y.1.stripe) && overlap x.2 n y.2 m
  | _, _ => overlap a n b m

/-- Whether a LANDING command may open a device-memory landing over a range for a partition. -/
def State.landingOk (s : State) (part a n : Nat) : Bool :=
  if s.sec.isOpen then s.inJobArea a n || s.inInstall a n
  else s.inLandingSpace a n && !s.landings.any (fun e =>
    decide (e.2.kind = LandKind.memory ∧ e.2.partition ≠ some part) && s.landOverlap a n e.2.base e.2.len)

/-! ### LANDING (R396, R409) -/

/-- The lowest free 4 KiB-aligned BAR4 offset of a port that fits `n` bytes, within 64 GiB. -/
def State.bar4Place (s : State) (port n : Nat) : Option Nat :=
  let mine := (s.landings.map (·.2)).filter (fun g => g.host && decide (g.port = port))
  let cands := 0 :: mine.map (fun g => g.bar4 + g.len)
  (cands.filter (fun o => decide (o + n ≤ 2 ^ 36) && mine.all (fun g => !overlap o n g.bar4 g.len))).min?

/-- The lowest free LID of the pier's 4,096. -/
def State.freeLid (s : State) : Option Nat := firstBelow 4096 (fun i => (kfind? s.landings i).isNone)

/-- LANDING open. -/
def execLandingOpen (t : Nat) (r : CmdRec) (s : State) : Host.Outcome State Fault Refusal :=
  let a := rfld r 8 8
  let n := 4096 * rfld r 16 4
  let rights := rfld r 20 1
  let fieldsOk := decide (a % 4096 = 0 ∧ a < 2 ^ 40 ∧ 0 < n ∧ rights < 8 ∧ rfld r 21 1 = 1) && rzeros r [(22, 2), (28, 36)]
  let refs (s : State) (part : Nat) : Option Nat :=
    if !s.landingOk part a n ∨ (rights.testBit 2 ∧ (s.bar4Place r.port.val n).isNone) then some 0x09
    else if s.freeLid.isNone then some 0x07 else none
  match (s.at t).gate r { known := true, right := some 27, reserves := 1, isLog := false, isRequest := false } fieldsOk refs with
  | .out s => .next s
  | .ok part s =>
    let h := r.handle.toNat
    let s := s.holdHandle r part .landing 1
    let host := rights.testBit 2
    let bar4 := if host then (s.bar4Place r.port.val n).getD 0 else 0
    let g : Landing := { kind := .memory, base := a, first := 0, len := n, read := rights.testBit 0, write := rights.testBit 1,
                         host := host, port := r.port.val, partition := some part, bar4 := bar4, expiry := some (rfld r 24 4),
                         since := s.time, wrote := 0 }
    .next ({ s with landings := kins s.landings (s.freeLid.getD 0) g }.answerNow h 0 (bar4 / 4096) 0 0)

/-- The landing that a close names: by its BAR4 offset on the issuing port, or by its device offset when it has none. -/
def State.landingToClose (s : State) (port part a x : Nat) : Option Nat :=
  (s.landings.find? (fun e => decide (e.2.partition = some part ∧ e.2.port = port)
    && (if e.2.host then decide (e.2.bar4 = 4096 * x) else decide (x = 0 ∧ e.2.base = a)))).map (·.1)

/-- LANDING close. -/
def execLandingClose (t : Nat) (r : CmdRec) (s : State) : Host.Outcome State Fault Refusal :=
  let a := rfld r 8 8
  let fieldsOk := decide (a % 4096 = 0 ∧ rfld r 20 1 < 8 ∧ rfld r 21 1 = 2) && rzeros r [(22, 2), (28, 36)]
  let refs (s : State) (part : Nat) : Option Nat :=
    if (s.landingToClose r.port.val part a (rfld r 24 4)).isNone then some 0x09 else none
  match (s.at t).gate r { known := true, right := some 27, reserves := 1, isLog := false, isRequest := false } fieldsOk refs with
  | .out s => .next s
  | .ok part s =>
    let h := r.handle.toNat
    let s := s.holdHandle r part .landing 1
    match s.landingToClose r.port.val part a (rfld r 24 4) with
    | none => .next (s.answerNow h 0 0 0 0)
    | some lid => .next ((s.closeLanding lid).answerNow h 0 0 0 0)

/-! ### BAR4 (R409) -/

/-- The landing that an access of `n` bytes at a BAR4 offset falls into: any with the host right on the port for the PF, one
of its partition for a VF; it must grant the right. -/
def State.bar4Landing (s : State) (port : Nat) (fn : Fn) (offset n : Nat) (write : Bool) : Option Landing :=
  (s.landings.find? (fun e =>
    let g := e.2
    let mine := match fn with
      | .pf => true
      | .vf v => decide (g.partition = s.vfPart? port v.toNat) && g.partition.isSome
    g.host && decide (g.port = port ∧ g.bar4 ≤ offset ∧ offset + n ≤ g.bar4 + g.len) && mine
      && (if write then g.write else g.read))).map (·.2)

/-- An access to BAR4: a read returns as many bytes as `data` has. -/
def execBar4Access (t : Nat) (port : Fin 4) (fn : Fn) (offset : Nat) (write : Bool) (data : List Byte) (errs : MemErrs) (s : State) :
    Host.Outcome State Fault Refusal :=
  let s := (s.at t).upset errs
  let p := port.val
  let n := data.length
  if !s.portOpen p then .next s
  else
    let s := if write then s.portRx p n else s
    let answer (bs : List Byte) (s : State) : State := (s.incBytes (0xA0200 + 8 * p) n).emit (.data p bs)
    match s.bar4Landing p fn offset n write with
    | none =>
      let s := s.inc (tollCtr p 0x1C) 1
      if write then .next s else .next (answer (List.replicate n 0#8) s)
    | some g =>
      let at' (i : Nat) : Nat := s.landOff g.base (offset - g.bar4 + i)
      if write then .next (s.memWrite (data.zipIdx.map (fun e => (at' e.2, e.1))))
      else
        let r := s.readBytes ((List.range n).map at')
        .next (answer r.1 r.2)

/-! ### Expiry (R171, R473) -/

/-- `n` ticks have passed for a landing that expires. -/
def State.ageLanding (lid n : Nat) (s : State) : State := match kfind? s.landings lid with
  | none => s
  | some g => match g.expiry with
    | none => s
    | some k =>
      if k ≤ n then s.expireLanding lid
      else { s with landings := kupd s.landings lid (fun g => { g with expiry := some (k - n) }) }

/-- A committed keystone counts for every landing. -/
def State.ageAll (s : State) : State :=
  let s := (s.landings.map (·.1)).foldl (fun s l => s.ageLanding l 1) s
  { s with landings := s.landings.map (fun e => (e.1, { e.2 with since := s.time })) }

/-- The expiry of a landing while no SERVE job runs ticks: each 10 ms counts as one tick. -/
def execLandingExpiry (t : Nat) (id : Nat) (s : State) : Host.Outcome State Fault Refusal :=
  let s := s.at t
  match kfind? s.landings id with
  | none => .next s
  | some g =>
    if s.ticking then .next s
    else
      let n := (s.time - g.since) / 10000000
      let s := { s with landings := kupd s.landings id (fun g => { g with since := g.since + n * 10000000 }) }
      .next (if n = 0 then s else s.ageLanding id n)

end Sys2Proof.Machine
end

