-- ==== Sys2Proof/Machine/HandOver.lean ====
section
/-! DEFINITION. Hand-over of a sequence (R169 to R172, R395, R479): what the source sends and how it ends there, what the
destination checks, allocates and enters. -/

namespace Sys2Proof.Machine
open Sys2Proof

/-! ### Digests (R169) -/

/-- KV_BASE of cache layer `l`: that of the first descriptor of a plan that writes the layer. -/
def Bitstream.kvBaseOf (b : Bitstream) (l : Nat) : Int :=
  ((b.plans.flatMap (fun p => p.2.layers)).find? (fun d => decide (d.outKind = 2 ∧ d.kvLayer = l))).elim 0 Desc.kvBase

/-- The key-value layout digest: n_kv, D_h and each layer's KV_BASE of every class, then L_c. -/
def Bitstream.kvDigest (b : Bitstream) : BitVec 384 :=
  sha384 (b.kvClasses.flatMap (fun c => natToBytes 2 c.nKv ++ natToBytes 2 c.dH
    ++ (addrs c.first c.layers).map (fun l => BitVec.ofInt 8 (b.kvBaseOf l))) ++ natToBytes 2 (b.kvClasses.map (·.layers)).sum)

/-- The SHA-384 of the records of a variant slot; 0 without a variant. -/
def State.variantDigest (s : State) (x : HotEntry) (v : Option Nat) : BitVec 384 := match v with
  | none => 0
  | some v => sha384 ((List.range x.layers).flatMap (fun l => (List.range 4096).map (fun i => s.memByte (x.variantOff v l i))))

/-! ### The offer (Table 14.5) -/

/-- A string of `n` bytes with fields at byte offsets, the rest zero. -/
def layBytes (n : Nat) (fs : List (Nat × List Byte)) : List Byte :=
  fs.foldl (fun bs f => bs.take f.1 ++ f.2 ++ bs.drop (f.1 + f.2.length)) (List.replicate n 0#8)

/-- A number with two's complement in 8 bytes. -/
def int64 (x : Int) : List Byte := natToBytes 8 (x % 2 ^ 64).toNat

/-- FLAGS of Table 13.1. -/
def Request.flags (q : Request) : Nat :=
  bit q.footbridge + 2 * bit q.lateSeen + 4 * bit q.fixedSeen + 8 * bit q.satOut + 16 * bit q.handin

/-- QUALITY of Table 13.1: the counts of Table 6.2, lowest bits first. -/
def Quality.bits (x : Quality) : Nat :=
  fieldAt 0 16 x.lostRows + fieldAt 16 8 x.droppedRoutes + fieldAt 24 16 x.lostEntries + fieldAt 40 1 (bit x.widenRefused)

/-- The pages that hold `n` positions. -/
def pagesFor (pageLog2 n : Nat) : Nat := cdiv n (2 ^ pageLog2)

/-- The payload of an OFFER. -/
def State.offerBytes (s : State) (q : Request) (ticket : BitVec 64) : List Byte :=
  let x := s.entry ((s.entryOfModel? q.modelId).getD 0)
  let left : List Byte := match q.deadline with
    | none => List.replicate 8 0xFF#8
    | some d => int64 ((d : Int) - s.timebase)
  layBytes 512
    [(0, digestBytes x.digest), (48, digestBytes ((s.bitstream?.map (·.kvDigest)).getD 0)),
     (96, digestBytes (s.variantDigest x q.variant)), (144, natToBytes 8 ticket.toNat), (152, natToBytes 4 q.committed),
     (156, natToBytes 4 q.fbLen), (160, natToBytes 4 (q.pending.getD 0)), (164, natToBytes 4 q.generated),
     (168, natToBytes 4 q.maxTokens), (172, natToBytes 4 q.promptLen), (176, natToBytes 4 q.shareLen),
     (180, natToBytes 1 q.pageLog2), (181, natToBytes 1 q.priority), (182, natToBytes 1 (q.dlPolicy + 4 * bit q.dlActed)),
     (183, natToBytes 1 q.flags), (184, left),
     (192, natToBytes 2 (match q.variant with
        | none => 0
        | some v => v + 2 ^ 15)),
     (196, natToBytes 4 (pagesFor q.pageLog2 q.committed)),
     (200, natToBytes 2 q.sampler.temp.toNat ++ natToBytes 2 q.sampler.topK ++ natToBytes 2 q.sampler.topP
        ++ natToBytes 2 q.sampler.minP.toNat ++ natToBytes 8 q.sampler.seed.toNat),
     (224, natToBytes 6 q.quality.bits),
     (232, (List.range 16).flatMap (fun i => natToBytes 4 (q.stop.ids.getD i 0xFFFFFFFF))),
     (296, (List.range 4).map (fun i => BitVec.ofNat 8 (q.stop.strings.getD i []).length)),
     (300, (List.range 4).flatMap (fun i => byteSlice (q.stop.strings.getD i []) 0 24)),
     (396, (List.range 4).map (fun i => BitVec.ofNat 8 (q.stop.states.getD i 0)))]

/-- What the fields of an offer make of the HANDIN's entry; `now` is the destination's time base. -/
def Request.ofOffer (q : Request) (o : List Byte) (modelId now : Nat) : Request :=
  let left := signedField 64 (leAt o 184 8)
  let v := leAt o 192 2
  let fl := leAt o 183 1
  let qb := leAt o 224 6
  let strs := (List.range 4).map (fun i => byteSlice o (300 + 24 * i) (min 24 (leAt o (296 + i) 1)))
  { q with
    modelId := modelId, variant := if v.testBit 15 then some (v % 2 ^ 14) else none, committed := leAt o 152 4,
    fbLen := leAt o 156 4, pending := some (leAt o 160 4), generated := leAt o 164 4, maxTokens := leAt o 168 4,
    promptLen := leAt o 172 4, shareLen := leAt o 176 4, pageLog2 := leAt o 180 1, priority := leAt o 181 1 % 8,
    dlPolicy := leAt o 182 1 % 4, dlActed := (leAt o 182 1).testBit 2,
    deadline := if leAt o 184 8 = 2 ^ 64 - 1 then none else some ((now : Int) + left).toNat,
    footbridge := fl.testBit 0, lateSeen := fl.testBit 1, fixedSeen := fl.testBit 2, satOut := fl.testBit 3,
    streamBase := leAt o 164 4,
    sampler := { temp := BitVec.ofNat 16 (leAt o 200 2), topK := leAt o 202 2, topP := leAt o 204 2,
                 minP := BitVec.ofNat 16 (leAt o 206 2), seed := BitVec.ofNat 64 (leAt o 208 8) }
    quality := { lostRows := bitsAt qb 0 16, droppedRoutes := bitsAt qb 16 8, lostEntries := bitsAt qb 24 16,
                 widenRefused := qb.testBit 40 }
    stop := { ids := (List.range 16).map (fun i => leAt o (232 + 4 * i) 4), strings := strs,
              states := (List.range 4).map (fun i => leAt o (396 + i) 1) } }

/-! ### The source -/

/-- The request has left for the destination: it is released, and the HANDOVER is answered with `status`. -/
def State.leaveHo (h status : Nat) (s : State) : State := match (kfind? s.requests h).bind (·.ho) with
  | none => s
  | some x =>
    let s := s.modHo h (fun x => { x with step := .acked })
    let s := if status = 0 then s else s.inc 0x040128 1
    (s.answerKey x.handle status 0).endRequest h 0x07 x.dest

/-- A HANDOVER joins a cut (Table 13.3): its TARGET must be in DECODE. The source sends the OFFER of R170 step 1. -/
def State.startHo (handle target dest : Nat) (ticket : BitVec 64) (s : State) : State := match kfind? s.requests target with
  | none => s.answerKey handle 0x402 0
  | some q =>
    if q.state ≠ .decode ∨ q.ending.isSome then s.answerKey handle 0x402 0
    else
      let id := s.via.nextHoId
      let x : HoInfo := { handle := handle, dest := dest, ticket := ticket, step := .offered, landing := 0,
                          pages := pagesFor q.pageLog2 q.committed, acked := 0, hoId := id, expiry := 8, since := s.time }
      let s := s.modReq target (fun q => { q with state := .handingOver, ho := some x })
      let s := { s with via := { s.via with nextHoId := (id + 1) % 65536 } }
      if (s.outPort dest).isNone then s.breakHo target
      else s.sendTo 0x20 1 dest id (granulesOf 16 (s.offerBytes q ticket))

/-- A request returns from a hand-over that ended: DECODE from this cut on, or the footbridge where the deadline monitor has moved it
there. -/
def State.returnHo (s : State) : State :=
  { s with requests := s.requests.map (fun (e : Nat × Request) =>
      if e.2.state = .handingOver ∧ (e.2.ho.map (·.step)) = some .none ∧ s.jobOf? e.2 = s.running then
        (e.1, { e.2 with state := if e.2.footbridge then .footbridge else .decode, ho := none })
      else e) }

/-! ### The page stream (R170 step 3, R479) -/

/-- The bytes of a page of one cache layer. -/
def KvClass.pageBytes (c : KvClass) (pageLog2 : Nat) : Nat := 2 ^ (pageLog2 - 4) * c.unitBytes

/-- The byte length of one page across all cache layers. -/
def State.pageSetBytes (s : State) (pageLog2 : Nat) : Nat :=
  ((List.range s.cacheLayers).map (fun l => ((s.layerClass? l).map (·.pageBytes pageLog2)).getD 0)).sum

/-- The cache layer and the byte within its page at byte `b` of one page's stream. -/
def State.streamAt (s : State) (pageLog2 : Nat) : Nat → Nat → Nat → Nat × Nat
  | 0, l, b => (l, b)
  | fuel + 1, l, b =>
    let n := ((s.layerClass? l).map (·.pageBytes pageLog2)).getD 0
    if b < n then (l, b) else s.streamAt pageLog2 fuel (l + 1) (b - n)

/-- The device offset of byte `b` of the page stream of a request, through its page table. -/
def State.hoAddr (s : State) (q : Request) (b : Nat) : Option Nat :=
  let n := s.pageSetBytes q.pageLog2
  if n = 0 then none
  else
    let k := b / n
    let a := s.streamAt q.pageLog2 s.cacheLayers 0 (b % n)
    let e := s.ptRead q.ptBase a.1 k
    match s.layerClass? a.1 with
    | none => none
    | some c => if e.valid then some (s.frameAddr c.cls e.frame a.2) else none

/-- The position that byte `i` of a page of a class belongs to. -/
def KvClass.posOf (c : KvClass) (pageLog2 i : Nat) : Nat := i % (2 ^ pageLog2 * c.headBytes) / c.headBytes

/-- Where the bytes of the page stream of a request lie: none for positions at or beyond the committed length. -/
def State.hoPlaces (s : State) (q : Request) : List (Option Nat) :=
  (List.range (pagesFor q.pageLog2 q.committed)).flatMap (fun k => (List.range s.cacheLayers).flatMap (fun l =>
    match s.layerClass? l with
    | none => []
    | some c =>
      let e := s.ptRead q.ptBase l k
      (List.range (c.pageBytes q.pageLog2)).map (fun i =>
        if k * 2 ^ q.pageLog2 + c.posOf q.pageLog2 i < q.committed then some (s.frameAddr c.cls e.frame i) else none)))

/-- The page stream of a request, positions at or beyond the committed length as zeros, and the state whose controllers have
read it. -/
def State.hoStream (s : State) (q : Request) : List Byte × State :=
  let at_ := s.hoPlaces q
  let offs := at_.filterMap id
  let r := s.readBytes offs
  (at_.map (fun o => o.elim 0#8 (fun a => r.1.getD (offs.idxOf a) 0#8)), r.2)

/-- The WRITEs of a byte stream: up to 128 granules each. -/
def writesOf (bs : List Byte) : List (Nat × List (BitVec 256)) :=
  (List.range (cdiv bs.length 4096)).map (fun i =>
    let part := byteSlice bs (4096 * i) (min 4096 (bs.length - 4096 * i))
    (4096 * i, granulesOf (cdiv part.length 32) part))

/-- ARG of a WRITE without feed. -/
def writeArg (lid off : Nat) : Nat := fieldAt 0 13 lid + fieldAt 13 40 off

/-- Send the commit record of step 4. -/
def State.sendCommit (h : Nat) (x : HoInfo) (s : State) : State :=
  (s.modHo h (fun x => { x with step := .committed })).sendTo 0x22 1 x.dest (fieldAt 0 16 x.hoId + fieldAt 16 32 x.pages) []

/-- The offer has been accepted: the pages are sent into the destination's landing. -/
def State.sendPages (h lid : Nat) (s : State) : State := match kfind? s.requests h with
  | none => s
  | some q => match q.ho with
    | none => s
    | some x =>
      let bs := (s.hoStream q).1
      let s := (s.hoStream q).2.modHo h (fun x => { x with step := .sending, landing := lid, acked := 0, expiry := 8, since := s.time })
      let s := (s.incBytes 0x040120 bs.length).winAdd q.partition 11 bs.length
      let s := (writesOf bs).foldl (fun (s : State) (w : Nat × List (BitVec 256)) =>
        s.sendTo 0x10 2 x.dest (writeArg lid w.1) w.2) s
      if bs.isEmpty then s.sendCommit h { x with landing := lid } else s

/-- The hand-over at its source with an HO_ID. -/
def State.hoOf? (s : State) (id : Nat) : Option (Nat × HoInfo) :=
  (s.requests.filterMap (fun (e : Nat × Request) => match e.2.ho with
    | none => none
    | some x => if x.hoId = id ∧ x.step ≠ .none then some (e.1, x) else none)).head?

/-- The answer to an offer (step 2 at the source). -/
def State.takeOfferAns (src id status lid : Nat) (s : State) : State := match s.hoOf? id with
  | none => s
  | some (h, x) =>
    if x.dest ≠ src ∨ x.step ≠ .offered then s
    else if status = 0 then s.sendPages h lid else s.failHo h 0x401 status

/-- A WACK of a page WRITE: with the last one the commit record goes out. -/
def State.hoWack (src lid : Nat) (s : State) : State :=
  let hit := s.requests.filterMap (fun (e : Nat × Request) => match e.2.ho with
    | none => none
    | some x => if x.dest = src ∧ x.landing = lid ∧ x.step = .sending then some (e.1, e.2, x) else none)
  match hit.head? with
  | none => s
  | some (h, q, x) =>
    let total := cdiv (pagesFor q.pageLog2 q.committed * s.pageSetBytes q.pageLog2) 4096
    let s := s.modHo h (fun x => { x with acked := x.acked + 1 })
    if x.acked + 1 ≥ total then s.sendCommit h x else s

/-- The acknowledgement of the commit record. -/
def State.takeHoAck (src id status : Nat) (s : State) : State := match s.hoOf? id with
  | none => s
  | some (h, x) =>
    if x.dest ≠ src ∨ x.step ≠ .committed then s
    else if status = 0 then s.leaveHo h 0 else s.breakHo h

/-- The destination's landing has expired, as the source counts it: a hand-over not committed is broken, a committed one is
reported as unconfirmed. -/
def State.hoExpired (h : Nat) (s : State) : State := match (kfind? s.requests h).bind (·.ho) with
  | none => s
  | some x => match x.step with
    | .committed => s.leaveHo h 0x403
    | .sending => s.breakHo h
    | .offered => s.breakHo h
    | _ => s

/-- A committed keystone counts for every hand-over at its source. -/
def State.ageHo (s : State) : State :=
  { s with requests := s.requests.map (fun (e : Nat × Request) =>
      (e.1, { e.2 with ho := e.2.ho.map (fun (x : HoInfo) => { x with expiry := x.expiry - 1, since := s.time }) })) }

/-- A source that still has no acknowledgement when the landing expires (R171). While no SERVE job runs ticks each 10 ms
counts as one. -/
def execHandoverConfirmExpiry (t : Nat) (handle : BitVec 32) (s : State) : Host.Outcome State Fault Refusal :=
  let s := s.at t
  match (kfind? s.requests handle.toNat).bind (·.ho) with
  | none => .next s
  | some x =>
    let past := if s.ticking then 0 else (s.time - x.since) / 10000000
    if x.expiry ≤ past then .next (s.hoExpired handle.toNat) else .next s

/-- Every hand-over in progress towards a chip that has no route any more is broken (R171, LINK_DOWN). One whose commit
record has gone out waits for its expiry. -/
def State.breakRoutes (s : State) : State :=
  s.requests.foldl (fun (s : State) (e : Nat × Request) => match e.2.ho with
    | none => s
    | some x =>
      if (x.step = .offered ∨ x.step = .sending) ∧ (s.outPort x.dest).isNone then s.breakHo e.1 else s) s

/-! ### The destination -/

/-- The HANDIN that an offer's TICKET matches. -/
def State.handinFor? (s : State) (ticket : Nat) : Option (Nat × Request) :=
  s.requests.find? (fun (e : Nat × Request) => decide (e.2.state = .waitHandin ∧ e.2.ticket.toNat = ticket) && e.2.ending.isNone
    && !s.via.hoIn.any (fun x => x.handle = e.1))

/-- Send the answer to an offer. -/
def State.answerOffer (src id status lid : Nat) (s : State) : State :=
  s.sendTo 0x21 3 src (fieldAt 0 16 id + fieldAt 16 8 status + fieldAt 24 13 lid) []

/-- The declared length of a request in positions, with the drafts (R151). -/
def State.declared (s : State) (q : Request) : Nat := match s.bitstream? with
  | none => q.promptLen + q.maxTokens
  | some b => min (q.promptLen + q.maxTokens + (b.footbridge.map (·.draftMax)).getD 0) b.ident.maxContext

/-- Allocate a request's page table and the frames of its first `len` positions; false when a frame cannot be had. -/
def State.allocTable (q : Request) (len : Nat) (s : State) : Bool × Nat × Nat × State :=
  let rows := pagesFor q.pageLog2 (max len (s.declared q))
  let a := s.ptAlloc rows
  let r := if len = 0 then (true, [], a.2) else a.2.fillPages a.1 q.pageLog2 (pagesOf q.pageLog2 0 (len - 1))
  (r.1, a.1, rows, r.2.2.zeroFrames r.2.1)

/-- An OFFER at the destination (step 2): it is refused with a status of R479, or a landing opens over zeroed frames. -/
def State.takeOffer (src id : Nat) (o : List Byte) (s : State) : State :=
  match s.handinFor? (leAt o 144 8) with
  | none => (s.inc 0x040128 1).answerOffer src id 1 0
  | some (h, q) =>
    let refuse (n : Nat) : State := (s.inc 0x040128 1).answerOffer src id n 0
    let digest := bytesDigest (byteSlice o 0 48)
    match s.readyEntry? digest, s.serveJob? digest with
    | some e, some job =>
      let x := s.entry e
      let q' := q.ofOffer o x.modelId s.timebase
      let owned := match q'.variant with
        | none => true
        | some v => decide (x.owner? v = some q.partition)
      let kv := ((kfind? s.bits job).map (·.kvDigest)).getD 0
      if digestBytes kv ≠ byteSlice o 48 48 ∨ !owned ∨ digestBytes (s.variantDigest x q'.variant) ≠ byteSlice o 96 48 then refuse 2
      else if q.streamLen < q'.maxTokens - q'.generated then refuse 5
      else if s.running ≠ some job then refuse 4
      else match s.freeLid with
        | none => refuse 3
        | some lid =>
          if !(decide (4 ≤ q'.pageLog2 ∧ q'.pageLog2 ≤ 10)) then refuse 3
          else match s.allocTable q' q'.committed with
            | (false, base, rows, s) =>
            let s := { s with kv := { s.kv with orphans := s.kv.orphans ++ [(base, rows)] } }
            (s.inc 0x040128 1).answerOffer src id 3 0
            | (true, base, rows, s) =>
              let s := s.modReq h (fun _ => { q' with ptBase := base, ptRows := rows })
              let n := pagesFor q'.pageLog2 q'.committed
              let g : Landing := { kind := .handover, base := h, first := 0, len := n * s.pageSetBytes q'.pageLog2,
                                   read := false, write := true, host := false, port := 0, partition := none, bar4 := 0,
                                   expiry := some 8, since := s.time, wrote := 0 }
              let y : HoIn := { src := src, hoId := id, handle := h, lid := lid, pages := n, bytes := 0, committed := false }
              let s := { s with landings := kins s.landings lid g, via := { s.via with hoIn := s.via.hoIn ++ [y] } }
              s.answerOffer src id 0 lid
    | _, _ => refuse 2

/-- Send the acknowledgement of a commit record. -/
def State.ackCommit (src id status : Nat) (s : State) : State := s.sendTo 0x23 3 src (fieldAt 0 16 id + fieldAt 16 8 status) []

/-- Enter a hand-over whose pages are complete (step 4): the request is in DECODE, and it is acknowledged. -/
def State.enterHo (x : HoIn) (s : State) : State :=
  let s := s.closeLanding x.lid
  let s := { s with via := { s.via with hoIn := s.via.hoIn.filter (fun y => y.lid ≠ x.lid) } }
  let s := s.modReq x.handle (fun q =>
    { q with state := if q.footbridge then .footbridge else .decode, accepted := true, slotNo := 4096 })
  let s := match kfind? s.requests x.handle with
    | none => s
    | some q => s.handleKey x.handle { type := 1, status := 0, handle := x.handle, arg0 := 0, arg1 := 0, arg2 := q.stamp }
  s.ackCommit x.src x.hoId 0

/-- An HO_COMMIT at the destination: with the right count the request enters at the next keystone, or at once while no SERVE
job runs ticks; otherwise everything allocated goes (R171). -/
def State.takeCommit (src id pages : Nat) (s : State) : State :=
  match s.via.hoIn.find? (fun x => decide (x.src = src ∧ x.hoId = id) && !x.committed) with
  | none => s
  | some x =>
    let full := x.pages * s.pageSetBytes (((kfind? s.requests x.handle).map (·.pageLog2)).getD 4)
    if pages ≠ x.pages ∨ x.bytes < full then (s.expireLanding x.lid).ackCommit src id 1
    else
      let s := { s with via := { s.via with hoIn := s.via.hoIn.map (fun y =>
        if y.lid = x.lid then { y with committed := true } else y) } }
      if s.ticking then s else s.enterHo x

/-- Every committed hand-over enters at a keystone. -/
def State.enterAllHo (s : State) : State :=
  (s.via.hoIn.filter (·.committed)).foldl (fun (s : State) (x : HoIn) => s.enterHo x) s

end Sys2Proof.Machine
end

