-- ==== Sys2Proof/Machine/Deck.lean ====
section
/-! DEFINITION. Deck stores (R336 to R341): granules, the requests of the writers of a deck store's shared port, arrival
counters and their changes (R265), and the results of the deck store's code. -/

namespace Sys2Proof.Machine
open Sys2Proof

/-- Granules of a deck store. -/
def deckGranules : Nat := 131072

/-- Granule `g` of a span's deck store. -/
def Span.granule (x : Span) (g : Nat) : BitVec 256 :=
  BitVec.ofNat 256 (bytesToNat ((List.range 32).map (fun i => kget 0#8 x.deck (32 * g + i))))

/-- Read granules: the bytes read are counted (Table 17.3). -/
def Span.readG (gs : List Nat) (x : Span) : List (BitVec 256) × Span := (gs.map x.granule, x.incBytes 0x3A0 (32 * gs.length))

/-- The byte string in `n` granules from `g`. -/
def Span.deckBytes (x : Span) (g n : Nat) : List Byte := (List.range (32 * n)).map (fun i => kget 0#8 x.deck (32 * g + i))

/-- Write one granule; the poison marks are the value's. -/
def Span.putG (g : Nat) (v : BitVec 256) (poison flit : Bool) (x : Span) : Span :=
  let bs := (natToBytes 32 v.toNat).zipIdx.map (fun e => (32 * g + e.2, e.1))
  let mark (b : Bool) (l : List Nat) : List Nat := l.filter (fun q => q ≠ g) ++ if b then [g] else []
  { x with deck := setBytes x.deck bs, poison := mark (poison || flit) x.poison, flitPoison := mark flit x.flitPoison }

/-- Write granules: the bytes written are counted. -/
def Span.writeG (ws : List (Nat × BitVec 256 × Bool)) (x : Span) : Span :=
  (ws.foldl (fun (x : Span) (w : Nat × BitVec 256 × Bool) => x.putG w.1 w.2.1 w.2.2 false) x).incBytes 0x3A4 (32 * ws.length)

/-- Whether a granule lies in a preloaded range. -/
def Span.preloaded (x : Span) (g : Nat) : Bool := x.preload.any (fun r => decide (r.1 ≤ g ∧ g < r.1 + r.2))

/-- Whether a granule lies in an open receive window. -/
def Span.inWindow (x : Span) (g : Nat) : Bool := x.seq.windows.any (fun w => decide (w.2.base ≤ g ∧ g < w.2.base + w.2.len))

/-- What a granule holds once the writes asked for so far have landed: for a writer that changes part of a granule. -/
def Span.latest (g : Nat) (x : Span) : BitVec 256 :=
  (((x.puts.filter (fun w => decide (w.g = g))).getLast?).map (·.v)).getD (x.granule g)

/-- A write of a clean granule. -/
def DeckPut.clean (cyc : Nat) (k : PortClient) (src g : Nat) (v : BitVec 256) (raise : PutRaise) : DeckPut :=
  { cyc := cyc, client := k, src := src, g := g, v := v, poison := false, flit := false, raise := raise }

/-- Ask the deck store of logical span `l` for writes. -/
def State.askPuts (l : Nat) (ws : List DeckPut) (s : State) : State :=
  if !s.tick.active then s
  else match s.phys? l with
    | none => s
    | some p => s.modSpan p (fun x => { x with puts := x.puts ++ ws })

/-- The same for clean granules from span `src`, each of which raises counter `ctr` by one. -/
def State.askOut (cyc : Nat) (k : PortClient) (src l ctr : Nat) (ws : List (Nat × BitVec 256)) (s : State) : State :=
  s.askPuts l (ws.map (fun w => DeckPut.clean cyc k src w.1 w.2 (.ctr ctr 1)))

/-! ### Arrival counters (R265) -/

/-- An arrival counter, as it stands at the start of the cycle. -/
def Sequencer.ctr (q : Sequencer) (c : Nat) : Nat := kget 0 q.arrive c

/-- Set an arrival counter. -/
def Sequencer.setCtr (c v : Nat) (q : Sequencer) : Sequencer := { q with arrive := kset 0 q.arrive c v }

/-- What an instruction or a stream may still take from a counter in a cycle: what was subtracted in it is gone. -/
def Sequencer.avail (c : Nat) (q : Sequencer) : Nat :=
  q.ctr c - ((q.ctrOps.filter (fun o => decide (o.ctr = c ∧ o.what = .sub))).map (·.n)).sum

/-- Change an arrival counter in cycle `cyc`. -/
def Sequencer.change (cyc c : Nat) (w : CtrChange) (n : Nat) (q : Sequencer) : Sequencer :=
  { q with ctrOps := q.ctrOps ++ [{ cyc := cyc, ctr := c, what := w, n := n }] }

/-- Add to an arrival counter of logical span `l` in cycle `cyc`. -/
def State.ctrAdd (cyc l c n : Nat) (s : State) : State := match s.phys? l with
  | none => s
  | some p => if n = 0 then s else s.modSpan p (fun x => { x with seq := x.seq.change cyc c .add n })

/-- The changes that fall in a cycle, in the order of R265: a set, then subtractions, then additions. -/
def ordered (ops : List CtrOp) : List CtrOp :=
  ops.filter (fun o => decide (o.what = .set)) ++ ops.filter (fun o => decide (o.what = .sub))
    ++ ops.filter (fun o => decide (o.what = .add))

/-- One change takes effect: above 2^20 − 1 the span takes a program fault of cause CTR_OVERFLOW. -/
def State.applyCtr (l p : Nat) (o : CtrOp) (s : State) : State :=
  let q := (s.span p).seq
  let put (v : Nat) : State := s.modSpan p (fun x => { x with seq := x.seq.setCtr o.ctr v })
  match o.what with
  | .set => put o.n
  | .sub => put (q.ctr o.ctr - o.n)
  | .add => if q.ctr o.ctr + o.n > 0xFFFFF then s.progFault l p 0x05 q.pc else put (q.ctr o.ctr + o.n)

/-! ### The deck store's code and port (R337, R339) -/

/-- The cycles by which the accesses of an instruction delay the unit that makes them. -/
def deckDelay (u : DeckUse) : Nat := 4 * u.late + u.waited

/-- What the deck-store accesses of an instruction came back with: corrections, their delays and the waits for a port are
counted; an error that cannot be corrected is delivered as poison and raises a SPAN_DATA fault. -/
def State.deckUse (l p : Nat) (u : DeckUse) (s : State) : State :=
  let s := s.modSpan p (fun x =>
    let x := (((x.inc 0x380 u.corrected).inc 0x38C (4 * u.late)).inc 0x384 u.poisoned).inc 0x388 u.waited
    { x with conflict := x.conflict || decide (0 < u.waited) })
  if u.poisoned = 0 then s else s.dataFault l p 0

end Sys2Proof.Machine
end

