-- ==== Sys2Proof/Machine/Lns.lean ====
section
/-! DEFINITION. Log arithmetic of the abutment, the arch lanes and the trestle unit (R103 to R106, R63): the working
log form, log-addition with its exact table entries, the antilog, and the KV4 group encoder. -/

namespace Sys2Proof.Machine
open Sys2Proof

/-- `n` squarings of a number: x ^ (2 ^ n). -/
def squareN : Nat → Nat → Nat
  | 0, x => x
  | n + 1, x => squareN n (x * x)

/-- round(1,024 · log2 a) for a ≥ 1 (R103): the exact value is never at a half, so doubling, flooring and halving
up is the rounding. -/
def lin2log (a : Nat) : Nat := (Nat.log2 (squareN 11 a) + 1) / 2

/-- The floor of the 1,024th root of 2 ^ e, found bit by bit from bit `n − 1` down. -/
def root1024 (e : Nat) : Nat → Nat → Nat
  | 0, acc => acc
  | n + 1, acc =>
    let c := acc + 2 ^ n
    if squareN 10 c ≤ 2 ^ e then root1024 e n c else root1024 e n acc

/-- A[f] = round(4,096 · 2^(f / 1,024)) (R106). -/
def antilogTable (f : Nat) : Nat := (root1024 (13 * 1024 + f) 14 0 + 1) / 2

/-- floor(2^40 · 2^(−i / 1,024)). Dropping what lies below 2^(−40) moves no entry of R105 to another integer: it moves
1,024 · log2(1 + …) by less than 2 · 10^(−9), and no entry of S+ lies nearer than 3 · 10^(−6) to a half; it moves 1,024 · log2(1 − …)
by less than 3 · 10^(−6), and no entry of S− lies nearer than 8 · 10^(−5) to a half. -/
def powNeg (i : Nat) : Nat := root1024 (40 * 1024 - i) 41 0

/-- S+[i] = round(1,024 · log2(1 + 2^(−i / 1,024))) for i < 12,288, and 0 above (R105). -/
def logAddTable (i : Nat) : Int :=
  if i ≥ 12288 then 0 else (lin2log (2 ^ 40 + powNeg i) : Int) - 40 * 1024

/-- S−[i] = round(1,024 · log2(1 − 2^(−i / 1,024))) for 0 < i < 12,288, and 0 above (R105). -/
def logSubTable (i : Nat) : Int :=
  if i ≥ 12288 then 0 else (lin2log (2 ^ 40 - powNeg i) : Int) - 40 * 1024

/-- A working λ clamped to its 20 bits; 1 when it saturated (R104). -/
def clampLam (l : Int) : Int × Nat :=
  if l > 524287 then (524287, 1) else if l < -524288 then (-524288, 1) else (l, 0)

/-- A working value with the λ clamped, and the count for SPN_LNS_SAT. -/
def mkWork (neg : Bool) (l : Int) : Lns × Nat :=
  let c := clampLam l
  ({ zero := false, neg := neg, lam := c.1 }, c.2)

/-- Stage 2 for a linear accumulator of value `a` with unit `u` (R103). -/
def toWorking (a u : Int) : Lns × Nat :=
  if a = 0 then (Lns.z, 0) else mkWork (decide (a < 0)) ((lin2log a.natAbs : Int) + 64 * u)

/-- lmul of the working form (R104). -/
def lmul (x y : Lns) : Lns × Nat :=
  if x.zero || y.zero then (Lns.z, 0) else mkWork (x.neg != y.neg) (x.lam + y.lam)

/-- A working value written as LNS16 (R104). -/
def toLns16 (x : Lns) : BitVec 16 × Nat :=
  if x.zero then (0x4000#16, 0)
  else if x.lam > 16383 then (lnsCode { x with lam := 16383 }, 1)
  else if x.lam < -16383 then (0x4000#16, 0)
  else (lnsCode x, 0)

/-- The table index of R105 for a difference `d` and a threshold `t`. -/
def logIndex (t d : Nat) : Nat := if d < t then d else d - d % 2

/-- log_add (R105). -/
def logAdd (x y : Lns) : Lns × Nat :=
  if x.zero then (y, 0)
  else if y.zero then (x, 0)
  else
    let a := if x.lam ≥ y.lam then x else y
    let b := if x.lam ≥ y.lam then y else x
    let d := (a.lam - b.lam).toNat
    if a.neg = b.neg then mkWork a.neg (a.lam + logAddTable (logIndex 1024 d))
    else if d = 0 then (Lns.z, 0)
    else mkWork a.neg (a.lam + logSubTable (logIndex 2048 d))

/-- 2^36 · antilog(μ), exactly (R106): 0 when μ >> 10 is below −24. -/
def antilog36 (mu : Int) : Nat :=
  let e := mu / 1024
  if e < -24 then 0 else antilogTable (mu % 1024).toNat * 2 ^ (e + 24).toNat

/-- floor(antilog(μ) + 1/2). -/
def antilogRound (mu : Int) : Nat := (antilog36 mu + 2 ^ 35) / 2 ^ 36

/-- One level of a pairwise tree: items 0 and 1, 2 and 3, an odd last item unchanged (R112). -/
def pairLevel {α : Type} (f : α → α → α) : List α → List α
  | a :: b :: r => f a b :: pairLevel f r
  | l => l

/-- A pairwise tree: levels until one item is left (R112). -/
def pairTree {α : Type} (f : α → α → α) : Nat → List α → Option α
  | _, [] => none
  | _, [a] => some a
  | 0, a :: _ => some a
  | n + 1, l => pairTree f n (pairLevel f l)

/-- A value with a count carried beside it, added by log-addition. -/
def logAddC (x y : Lns × Nat) : Lns × Nat :=
  let r := logAdd x.1 y.1
  (r.1, x.2 + y.2 + r.2)

/-- The pairwise log-addition tree over a list, with the saturations counted; zero for an empty list. -/
def logTree (l : List (Lns × Nat)) : Lns × Nat := (pairTree logAddC l.length l).getD (Lns.z, 0)

/-- The largest of a list of integers. -/
def maxInt? : List Int → Option Int
  | [] => none
  | a :: r => match maxInt? r with
    | none => some a
    | some b => some (max a b)

/-- The least of a list of integers. -/
def minInt? : List Int → Option Int
  | [] => none
  | a :: r => match minInt? r with
    | none => some a
    | some b => some (min a b)

/-- Integer division rounded up. -/
def ceilDiv (a : Int) (b : Int) : Int := -((-a) / b)

/-- The KV4 group of 16 LNS values with scale base B (R63): the 9 bytes, and the values counted in SPN_KV4_SAT. -/
def kv4Encode (base : Int) (xs : List Lns) : List Byte × Nat :=
  match maxInt? ((xs.filter (fun x => !x.zero)).map (·.lam)) with
  | none => (List.replicate 9 0#8, 0)
  | some lmax =>
    let t := lmax - 2875 - 1024 * base
    let s0 := ceilDiv t 64
    let sat := decide (s0 > 255)
    let s := if s0 < 0 then 0 else if s0 > 255 then 255 else s0
    let qs := xs.map (fun x =>
      if x.zero then ((0 : Int), 0)
      else
        let m := antilogRound (x.lam - 64 * s - 1024 * base)
        let q : Int := min 7 m
        (if x.neg then -q else q, if sat && decide (m > 7) then 1 else 0))
    let nib (i : Nat) : Nat := ((qs.getD i (0, 0)).1 % 16).toNat
    ((List.range 8).map (fun m => BitVec.ofNat 8 (nib (2 * m) + 16 * nib (2 * m + 1))) ++ [BitVec.ofInt 8 s],
      (qs.map (·.2)).sum)

/-- Value i of a KV4 group: its code q and the λ of its group scale (R62). -/
def kv4Code (g : List Byte) (i : Nat) : Int :=
  signedField 4 (bitsAt (g.getD (i / 2) 0#8).toNat (4 * (i % 2)) 4)

/-- The LNS16 value `i` of a granule. -/
def lnsAt (g : BitVec 256) (i : Nat) : Lns := lnsOf (BitVec.ofNat 16 (bitsAt g.toNat (16 * i) 16))

/-- The LNS16 values of granules. -/
def lnsVec (gs : List (BitVec 256)) : List Lns := gs.flatMap (fun g => (List.range 16).map (lnsAt g))

/-- A vector of LNS values as LNS16 codes, with the saturations. -/
def codesOf (v : List Lns) : List (BitVec 16) × Nat :=
  let r := v.map toLns16
  (r.map (·.1), (r.map (·.2)).sum)

/-- to_exponent: the exponent in units of 2^(−10), and 1 when it was clamped. -/
def toExponent (x : Lns) : Int × Nat :=
  if x.zero then (0, 0)
  else
    let m : Int := (antilog36 x.lam * 1024 + 2 ^ 35) / 2 ^ 36
    let t := if x.neg then -m else m
    if t > 524287 then (524287, 1) else if t < -524288 then (-524288, 1) else (t, 0)

end Sys2Proof.Machine
end

