-- ==== Sys2Proof/Machine/Attend.lean ====
section
/-! DEFINITION. Attention (R138 to R147, R286): assignment entries, the key-value pieces that they read, the arithmetic of a
query, and what the arch lanes do once they have read every granule. -/

namespace Sys2Proof.Machine
open Sys2Proof

/-! ### Assignment entries and key-value pieces (R141, R150, R286, R287) -/

/-- The query positions of a batch slot in a layer: the footbridge's layers are those of its class. -/
def State.queriesOf (s : State) (d : Desc) (x : Slot) : List Nat :=
  let fb := (s.bitstream?.bind (·.footbridge)).map (·.cls)
  if fb = some d.kvClass then x.fbPositions else x.positions

/-- The assignment entries at an address: 64 bits each, four to a granule. -/
def assignsOf (n : Nat) (gs : List (BitVec 256)) : List Assign :=
  (List.range n).map (fun i =>
    let e := bitsAt ((gs.getD (i / 4) 0#256).toNat) (64 * (i % 4)) 64
    { slot := bitsAt e 0 12, head := bitsAt e 12 6, first := bitsAt e 18 20, count := bitsAt e 38 20 + 1 })

/-- The request of a batch slot. -/
def State.slotReq (s : State) (n : Nat) : Option Request := (s.tick.slots[n]?).bind (fun x => kfind? s.requests x.handle)

/-- The query positions of an entry, with the index of each among the sequence's query positions. -/
def State.entryQueries (s : State) (d : Desc) (a : Assign) : List (Nat × Nat) := match s.tick.slots[a.slot]? with
  | none => []
  | some x => (((s.queriesOf d x).zipIdx.map (fun e => (e.2, e.1))).drop a.first).take a.count

/-- first(p) of R141. -/
def Desc.firstOf (d : Desc) (p : Nat) : Nat := if d.attWindow = 0 then 0 else p + 1 - d.attWindow

/-- The keys or the values of consecutive positions of one page: where they begin in the job area, how many bytes, and the
granules that cover them. -/
structure KvPiece where
  v : Bool
  pos : Nat
  n : Nat
  valid : Bool
  cls : Nat
  frame : Nat
  addr : Nat
  bytes : Nat
deriving DecidableEq, Repr

/-- The granules of a piece, as job-area granule numbers. -/
def KvPiece.granules (k : KvPiece) : List Nat :=
  (List.range (cdiv (k.addr % 32 + k.bytes) 32)).map (fun i => k.addr / 32 + i)

/-- The pieces that an entry reads, page by page in ascending position: the keys of a page and then its values. -/
def State.kvPieces (s : State) (d : Desc) (a : Assign) : List KvPiece :=
  let qs := s.entryQueries d a
  match s.slotReq a.slot, s.layerClass? d.kvLayer, minInt? (qs.map (fun q => (d.firstOf q.2 : Int))),
        maxInt? (qs.map (fun q => (q.2 : Int))) with
  | some q, some c, some lo, some hi =>
    let lo := lo.toNat
    let hi := hi.toNat
    (pagesOf q.pageLog2 lo hi).flatMap (fun page =>
      let p0 := max lo (page * 2 ^ q.pageLog2)
      let p1 := min hi (page * 2 ^ q.pageLog2 + 2 ^ q.pageLog2 - 1)
      let e := s.ptRead q.ptBase d.kvLayer page
      let valid := e.valid && decide (page < q.ptRows)
      [false, true].map (fun v =>
        let o := c.slotOff q.pageLog2 a.head (p0 % 2 ^ q.pageLog2) v
        let pl := s.pool c.cls
        { v := v, pos := p0, n := p1 + 1 - p0, valid := valid, cls := c.cls, frame := e.frame,
          addr := if valid then pl.base + e.frame * pl.unitBytes + o else o,
          bytes := (p1 + 1 - p0) * c.headBytes }))
  | _, _, _, _ => []

/-! ### The arithmetic of a query (R140, R141, R144) -/

/-- The reader's conversion of value `i` of a KV4 group (R140). -/
def kvLns (base : Int) (g : List Byte) (i : Nat) : Lns :=
  let q := kv4Code g i
  if q = 0 then Lns.z
  else { zero := false, neg := decide (q < 0), lam := (lin2log q.natAbs : Int) + 64 * ((g.getD 8 0#8).toNat : Int) + 1024 * base }

/-- The values of one position and head from its bytes. -/
def kvVector (base : Int) (dh : Nat) (bs : List Byte) : List Lns :=
  (List.range dh).map (fun c => kvLns base (byteSlice bs (9 * (c / 16)) 9) (c % 16))

/-- R144 for one pair of channels: cos and sin of the entry. -/
def rotatePair (x y cos sin : Lns) : Lns × Lns × Nat :=
  let a := lmul x cos
  let b := lmul y { sin with neg := !sin.neg }
  let c := lmul x sin
  let d := lmul y cos
  let p := logAdd a.1 b.1
  let q := logAdd c.1 d.1
  (p.1, q.1, a.2 + b.2 + c.2 + d.2 + p.2 + q.2)

/-- Rotate a head vector by the angles of a position; `tab i` is the table entry of pair `i`. -/
def rotateVec (tab : Nat → BitVec 32) (v : List Lns) : List Lns × Nat :=
  let r := (List.range (v.length / 2)).map (fun i =>
    rotatePair (v.getD (2 * i) Lns.z) (v.getD (2 * i + 1) Lns.z) (lnsOf ((tab i).extractLsb' 0 16)) (lnsOf ((tab i).extractLsb' 16 16)))
  (r.flatMap (fun e => [e.1, e.2.1]), (r.map (fun e => e.2.2)).sum)

/-- The device offsets of the rotation entries of a position (R144): in the hot-set entry of the layer's model. -/
def State.rotOffs (s : State) (d : Desc) (p : Nat) : List Nat := match s.job?.bind (fun j =>
    if (s.bitstream?.bind (·.footbridge)).map (·.cls) = some d.kvClass then j.fbEntry else j.entry) with
  | none => []
  | some e => (List.range (2 * d.dH)).map (fun i => s.entryAddr (s.entry e) (d.rotBase + 4 * (p * (d.dH / 2)) + i))

/-- Rotate a vector by a position, reading the table in device memory. -/
def State.rotate (d : Desc) (p : Nat) (v : List Lns) (s : State) : List Lns × Nat × State :=
  let r := s.memRead (s.rotOffs d p)
  let o := rotateVec (fun i => BitVec.ofNat 32 (leAt r.1 (4 * i) 4)) v
  (o.1, o.2, r.2)

/-- A leaf or a partial of the attention tree. -/
structure AttLeaf where
  m : Int
  l : Lns
  o : List Lns
  sat : Nat
deriving DecidableEq, Repr

/-- shift(x, d) of R141. -/
def shiftLns (x : Lns) (d : Int) : Lns × Nat := if x.zero then (x, 0) else mkWork x.neg (x.lam + d)

/-- merge(a, b) of R141. -/
def mergeLeaf (a b : AttLeaf) : AttLeaf :=
  let m := max a.m b.m
  let join (x y : Lns) : Lns × Nat :=
    let p := shiftLns x (a.m - m)
    let q := shiftLns y (b.m - m)
    let r := logAdd p.1 q.1
    (r.1, p.2 + q.2 + r.2)
  let l := join a.l b.l
  let o := (a.o.zip b.o).map (fun e => join e.1 e.2)
  { m := m, l := l.1, o := o.map (·.1), sat := a.sat + b.sat + l.2 + (o.map (·.2)).sum }

/-- The leaf of one position: the query, the key and the value. -/
def attLeaf (d : Desc) (q k v : List Lns) : AttLeaf :=
  let s := logTree ((q.zip k).map (fun e => lmul e.1 e.2))
  let x := lmul s.1 (lnsOf (BitVec.ofNat 16 d.attC))
  let t := toExponent x.1
  { m := t.1, l := { zero := false, neg := false, lam := 0 }, o := v, sat := s.2 + x.2 + t.2 }

/-- The output of a query over its leaves, with its saturations and clamps. -/
def attendOut (leaves : List AttLeaf) : List Lns × Nat := match pairTree mergeLeaf leaves.length leaves with
  | none => ([], 0)
  | some r =>
    let o := r.o.map (fun (x : Lns) => if x.zero then (x, 0) else mkWork x.neg (x.lam - r.l.lam))
    (o.map (·.1), r.sat + (o.map (·.2)).sum)

/-- The C_att of R147 and the positions attended, over the queries of the entries. -/
def attTime (d : Desc) (ns : List Nat) : Nat × Nat :=
  (cdiv (cdiv d.dH 64 * (ns.map (· + 1)).sum) 16 + 40, ns.sum)

/-! ### Poison in the cache (R507) -/

/-- The sequences of the batch whose page tables name a frame of a class. -/
def State.naming (s : State) (cls frame : Nat) : List Nat :=
  (List.range s.tick.slots.length).filter (fun n => match s.slotReq n with
    | none => false
    | some q => (List.range q.ptRows).any (fun k => (List.range s.cacheLayers).any (fun l =>
        let e := s.ptRead q.ptBase l k
        e.valid && decide (e.frame = frame) && decide ((s.layerClass? l).map (·.cls) = some cls))))

/-- The frame set that holds a frame of a class. -/
def State.fsetOf (s : State) (cls frame : Nat) : Option Nat :=
  (s.kv.fsets.find? (fun f => f.2.frames.zipIdx.any (fun e =>
    decide (e.1 = frame) && decide ((s.layerClass? e.2).map (·.cls) = some cls)))).map (·.1)

/-- Poison in a key-value frame (R507): the sequences that name it produce nothing more and end at the keystone of the replay;
a shared frame set leaves its tree. -/
def State.kvPoison (cls frame : Nat) (s : State) : State :=
  let ns := s.naming cls frame
  let hs := ns.filterMap (fun n => (s.tick.slots[n]?).map (·.handle))
  let s := match s.fsetOf cls frame with
    | none => s
    | some f =>
      let kv := { s.kv with nodes := s.kv.nodes.map (fun (e : Nat × TreeNode) =>
        if e.2.fset = some f then (e.1, { e.2 with fset := none }) else e) }
      let held := s.kv.nodes.countP (fun (e : Nat × TreeNode) => decide (e.2.fset = some f))
      ({ s with kv := kv }).fsetRef f (· - held)
  let s := { s with tick := { s.tick with slots := s.tick.slots.zipIdx.map (fun (e : Slot × Nat) =>
    if ns.contains e.2 then { e.1 with sits := true } else e.1) } }
  hs.foldl (fun (s : State) (h : Nat) => s.modReq h (fun q => { q with ending := some { reason := 0x0C, arg1 := 1 } })) s

/-! ### The result of an attention -/

/-- The owner of the lines that an arch instruction writes: unlike the owner of any run. -/
def archOwner (layerSeq cyc : Nat) : Nat := 2 ^ 200 + layerSeq * 2 ^ 64 + cyc

/-- The granules of the ring that a run of pieces takes, one piece after the other. -/
def splitPieces {α : Type} (got : List α) : List (Nat × KvPiece) → List (Nat × KvPiece × List α)
  | [] => []
  | k :: r => (k.1, k.2, got.take k.2.granules.length) :: splitPieces (got.drop k.2.granules.length) r

/-- The vector of a position from the pieces of an entry, each with the granules that came for it. -/
def kvAt (d : Desc) (v : Bool) (p : Nat) (ks : List (KvPiece × List (BitVec 256 × Bool))) : List Lns :=
  match ks.find? (fun k => decide (k.1.v = v ∧ k.1.pos ≤ p ∧ p < k.1.pos + k.1.n)) with
  | none => List.replicate d.dH Lns.z
  | some k =>
    let bs := k.2.flatMap (fun g => natToBytes 32 g.1.toNat)
    let n := 9 * d.dH / 16
    kvVector d.kvBase d.dH (byteSlice bs (k.1.addr % 32 + (p - k.1.pos) * n) n)

/-- The query vector of a query: granules of the deck store, read as LNS16. -/
def Span.queryVec (x : Span) (di : Nat) (d : Desc) (slot idx j : Nat) : List Lns :=
  lnsVec ((List.range (d.dH / 16)).map (fun i => x.granule ((Config.queryAt di slot idx j + i) % deckGranules)))

/-- One query of an entry: its LNS16 codes, and the saturations and clamps. -/
def State.attend (p di : Nat) (d : Desc) (a : Assign) (ks : List (KvPiece × List (BitVec 256 × Bool))) (q : Nat × Nat) (j : Nat) (s : State) :
    List (BitVec 16) × Nat × State :=
  let x := s.span p
  let v0 := x.queryVec di d a.slot q.1 j
  let r := if d.rotEn then s.rotate d q.2 v0 else (v0, 0, s)
  let ps := (List.range (q.2 + 1 - d.firstOf q.2)).map (fun i => d.firstOf q.2 + i)
  let o := attendOut (ps.map (fun i => attLeaf d r.1 (kvAt d false i ks) (kvAt d true i ks)))
  let c := codesOf o.1
  (c.1, r.2.1 + o.2 + c.2, r.2.2)

/-- The pieces that entries read, each with the number of its entry. -/
def State.piecesOf (s : State) (d : Desc) (es : List Assign) : List (Nat × KvPiece) :=
  es.zipIdx.flatMap (fun (e : Assign × Nat) => (s.kvPieces d e.1).map (fun k => (e.2, k)))

/-- The numbers of positions that the queries of entries attend, over their query heads. -/
def State.attCounts (s : State) (d : Desc) (es : List Assign) : List Nat :=
  es.flatMap (fun a => (s.entryQueries d a).flatMap (fun q => List.replicate d.gq (q.2 + 1 - d.firstOf q.2)))

/-- The LNS16 codes of every query of the entries, query head by query head, with the saturations and clamps. -/
def State.attendAll (p : Nat) (w : AttWork) (d : Desc) (ks : List (Nat × KvPiece × List (BitVec 256 × Bool))) (s : State) :
    List (List (BitVec 16)) × Nat × State :=
  w.entries.zipIdx.foldl (fun (acc : List (List (BitVec 16)) × Nat × State) (e : Assign × Nat) =>
    let mine := (ks.filter (fun k => decide (k.1 = e.2))).map (·.2)
    (acc.2.2.entryQueries d e.1).foldl (fun (acc : List (List (BitVec 16)) × Nat × State) (q : Nat × Nat) =>
      (List.range d.gq).foldl (fun (acc : List (List (BitVec 16)) × Nat × State) (j : Nat) =>
        let y := acc.2.2.attend p w.di d e.1 mine q (e.1.head * d.gq + j)
        (acc.1 ++ [y.1], acc.2.1 + y.2.1, y.2.2)) acc) acc) ([], 0, s)

/-- The lanes have read every granule of an attention: its results are on their way to their lines, 40 cycles after the last
position (R147). A poisoned granule is a fault (R356, R507). -/
def State.finishAtt (l p : Nat) (w : AttWork) (s : State) : State :=
  let s := s.modSpan p (fun x => { x with att := none })
  match s.desc? w.di with
  | none => s
  | some d =>
    let ks := splitPieces w.got (s.piecesOf d w.entries)
    let bad := ks.filter (fun k => k.2.2.any (·.2))
    let r := s.attendAll p w d ks
    let free := w.cyc + w.unitTime + w.wait
    let codes := r.1.flatMap (fun v => chunks 16 v.length v)
    let adds : List Addition := codes.zipIdx.map (fun e =>
      { land := free + 40, line := w.line0 + e.2, terms := e.1.map (fun v => (v.toNat : Int)), tag := d.tag 2, unit := 0,
        rowGroup := 0, owner := w.owner, desc := w.di, keep := false, check := false })
    let s := r.2.2.modSpan p (fun x =>
      let x := (x.inc 0x220 r.2.1).inc 0x2C0 ((s.attCounts d w.entries).sum)
      { x with archBusyUntil := free, archDoneAt := max x.archDoneAt (free + 40), archWaited := decide (0 < w.wait),
               attCycles := x.attCycles + w.unitTime + 40 + w.wait,
               cells := { x.cells with inflight := x.cells.inflight ++ adds } })
    if bad.isEmpty then s
    else (bad.foldl (fun (s : State) (k : Nat × KvPiece × List (BitVec 256 × Bool)) => s.kvPoison k.2.1.cls k.2.1.frame) s).dataPoison l p

end Sys2Proof.Machine
end

