-- ==== Sys2Proof/Machine/Settle.lean ====
section
/-! DEFINITION. What happens on a span from cycle to cycle: deck-store writes are granted their port and land, streams count
what has landed, arrival counters change, and the arch lanes read the key-value ring (R265, R286 to R290, R336 to R338). A
state is settled up to a cycle before anything acts in it, so that whatever is read in a cycle is as it stood when the cycle
began. -/

namespace Sys2Proof.Machine
open Sys2Proof

/-! ### Streams -/

/-- A stream of a kind that moves `n` granules: nothing has moved yet. -/
def Stream.new (k : StreamKind) (srcs dsts : List Nat) (sctr : Nat) : Stream :=
  { kind := k, srcs := srcs, dsts := dsts, targets := [], places := 0, remote := [], since := 0, held := [], fullFrom := none, pattern := 0, sctr := sctr,
    rctr := 0, fen := none, taken := 0, landed := [], count := 0, acked := 0, needAck := false }

/-- Whether a stream is complete: all landed, and acknowledged where that is asked. -/
def Stream.complete (x : Stream) : Bool :=
  if x.kind = .mstore then decide (x.srcs.length ≤ x.acked)
  else decide (x.srcs.length ≤ x.count) && (!x.needAck || decide (x.srcs.length ≤ x.acked))

/-- A stream in a slot as it stands now: a complete one leaves its slot. -/
def Span.setStream (slot : Nat) (v : Stream) (x : Span) : Span :=
  { x with streams := if v.complete then kdel x.streams slot else kins x.streams slot v }

/-- Granule `i` of a ring of 2^r granules that holds `dst`. -/
def ringAt (dst r i : Nat) : Nat := (dst / 2 ^ r * 2 ^ r + (dst + i) % 2 ^ r) % deckGranules

/-- The longest prefix of indices below which all have landed. -/
def landPrefix (landed : List Nat) : Nat → Nat → Nat
  | 0, c => c
  | fuel + 1, c => if landed.contains c then landPrefix landed fuel (c + 1) else c

/-- A granule's index lands: the new prefix. -/
def Stream.land (i : Nat) (v : Stream) : Stream :=
  let l := v.landed ++ [i]
  let c := landPrefix l (l.length + 1) v.count
  { v with count := c, landed := l.filter (fun j => decide (c ≤ j)) }

/-- By how much SCTR rises when the prefix goes from `a` to `b`: whole entries for GATH, everything at once for FILL and COPY,
nothing for a stream that counts its acknowledgements. -/
def Stream.rise (v : Stream) (a b : Nat) : Nat := match v.kind with
  | .gath => b / max 1 v.places * v.places - a / max 1 v.places * v.places
  | .fill | .copy => if a < v.srcs.length ∧ v.srcs.length ≤ b then v.srcs.length else 0
  | .mload | .kvrd => b - a
  | .mstore | .scat | .send => 0

/-! ### The shared port (R337) -/

/-- The writes asked for in a cycle that the deck store of logical span `l` grants, one for each bank, and those that wait: the
abutment comes first, then the arch lanes, then streams with what other spans send. -/
def grantPuts (l : Nat) (due : List DeckPut) : List DeckPut × List DeckPut :=
  let of (k : PortClient) : List DeckPut := due.filter (fun w => decide ((if w.src = l then w.client else .stream) = k))
  (of .abutment ++ of .arch ++ of .stream).foldl (fun (acc : List DeckPut × List DeckPut) (w : DeckPut) =>
    if acc.1.any (fun v => decide (v.g % 2048 = w.g % 2048)) then (acc.1, acc.2 ++ [w]) else (acc.1 ++ [w], acc.2)) ([], [])

/-- What a granule that has landed in cycle `c` does. -/
def State.landed (l p c : Nat) (r : PutRaise) (s : State) : State := match r with
  | .nothing => s
  | .ctr k n => s.ctrAdd c l k n
  | .stream slot i => match kfind? (s.span p).streams slot with
    | none => s
    | some v =>
      let w := v.land i
      (s.modSpan p (Span.setStream slot w)).ctrAdd c l v.sctr (v.rise v.count w.count)

/-- A granted write lands in logical span `l`. What falls outside every window of the receiving span, when another span sends
it, or into a preloaded range, is discarded with a program fault of the receiving span (R276, R318). -/
def State.landPut (l p c : Nat) (w : DeckPut) (s : State) : State :=
  if !s.tick.active then s
  else
    let x := s.span p
    let foreign := decide (w.src ≠ l)
    let s := if foreign then s.modSpan p (Span.incBytes 0x3A8 32) else s
    let s := match s.phys? w.src with
      | some q => if foreign then s.modSpan q (Span.incBytes 0x3AC 32) else s
      | none => s
    if foreign && !x.inWindow w.g then s.progFault l p 0x08 x.seq.pc
    else if x.preloaded w.g then s.progFault l p 0x03 x.seq.pc
    else (s.modSpan p (fun x => (x.putG w.g w.v w.poison w.flit).incBytes 0x3A4 32)).landed l p c w.raise

/-! ### The key-value ring (R286) -/

/-- The arch lanes take the granules of the ring that the counter counts; with the last one the attention finishes. -/
def State.attStep (l p c : Nat) (s : State) : State := match (s.span p).att with
  | none => s
  | some w =>
    let x := s.span p
    let n := min (w.need - w.got.length) (x.seq.ctr w.kctr)
    let gs := (List.range n).map (fun i => ringAt w.first w.rlog2 (w.got.length + i))
    let r := x.readG gs
    let wait := if n = 0 then w.wait else max w.wait (c - w.due)
    let v := { w with got := w.got ++ gs.map (fun g => (x.granule g, x.poison.contains g)), wait := wait }
    let s := s.setSpan p { r.2.inc 0x2C8 (wait - w.wait) with
      seq := r.2.seq.setCtr w.kctr (x.seq.ctr w.kctr - n), att := some v }
    if gs.any (fun g => x.flitPoison.contains g) then s.flitFault l p
    else if v.got.length < w.need then s else s.finishAtt l p v

/-! ### Cycle by cycle -/

/-- WRITEs whose last granule has landed among `ws` are acknowledged (R474). -/
def State.sendAcks (p : Nat) (ws : List DeckPut) (s : State) : State :=
  let done := ((ws.filterMap (·.ack)).eraseDups).filter (fun k => !(s.span p).puts.any (fun w => decide (w.ack = some k)))
  done.foldl (fun (s : State) (k : Nat × Nat) => s.sendTo 0x11 3 k.1 k.2 []) s

/-- What falls due in cycle `c` on a span: writes are granted and land, then the counters change, then the lanes read. -/
def State.settleSpan (c l p : Nat) (s : State) : State :=
  let x := s.span p
  let g := grantPuts l (x.puts.filter (fun w => decide (w.cyc ≤ c)))
  let later := x.puts.filter (fun w => decide (c < w.cyc))
  let s := s.modSpan p (fun x =>
    { x.inc 0x388 g.2.length with puts := g.2.map (fun w => { w with cyc := c + 1 }) ++ later,
                                  conflict := x.conflict || !g.2.isEmpty })
  let s := g.1.foldl (fun (s : State) (w : DeckPut) => s.landPut l p c w) s
  if !s.tick.active then s
  else
    let s := s.sendAcks p g.1
    let ops := (s.span p).seq.ctrOps
    let s := s.modSpan p (fun x => { x with seq := { x.seq with ctrOps := ops.filter (fun o => decide (c < o.cyc)) } })
    let s := (ordered (ops.filter (fun o => decide (o.cyc ≤ c)))).foldl (fun (s : State) (o : CtrOp) => s.applyCtr l p o) s
    if s.tick.active then s.attStep l p c else s

/-- The cycles in which something falls due on a span. -/
def Span.dueCycles (x : Span) : List Nat := x.puts.map (·.cyc) ++ x.seq.ctrOps.map (·.cyc)

/-- The first cycle before `cyc` in which something falls due. -/
def State.dueCycle (cyc : Nat) (s : State) : Option Nat :=
  ((s.binding.flatMap (fun e => (s.span e.2).dueCycles) ++ s.trs.late.map (·.cyc)).filter (fun c => decide (c < cyc))).min?

/-- Trestle input records that are due by cycle `c` land (R202). -/
def State.settleTrs (c : Nat) (s : State) : State :=
  let due := s.trs.late.filter (fun w => decide (w.cyc ≤ c))
  let trs := due.foldl (fun (x : TrestleUnit) (w : TrsPut) =>
    { x.land w.key w.value with landedFrom := kmod 0 x.landedFrom w.source (· + 1), wholeFrom := kins x.wholeFrom w.source w.whole }) s.trs
  { s with trs := { trs with late := s.trs.late.filter (fun w => decide (c < w.cyc)) } }

/-- What falls due in cycle `c` on every span. -/
def State.settleCycle (c : Nat) (s : State) : State :=
  (s.settleTrs c).binding.foldl (fun (s : State) (e : Nat × Nat) =>
    if s.tick.active && (s.span e.2).dueCycles.any (fun k => decide (k ≤ c)) then s.settleSpan c e.1 e.2 else s) (s.settleTrs c)

/-- Settle the cycles before `cyc`, at most `fuel` of them. -/
def State.settleFrom : Nat → Nat → State → State
  | 0, _, s => s
  | fuel + 1, cyc, s => if !s.tick.active then s else match s.dueCycle cyc with
    | none => s
    | some c => State.settleFrom fuel cyc (s.settleCycle c)

/-- How much may fall due. -/
def State.dueCount (s : State) : Nat :=
  ((s.binding.map (fun e => (s.span e.2).dueCycles.length)).sum) + s.trs.late.length

/-- The state with every cycle before `cyc` settled. -/
def State.settleTo (cyc : Nat) (s : State) : State := s.settleFrom s.dueCount cyc

/-- The state at the start of cycle `cyc` of the run in progress. -/
def State.toCyc (cyc : Nat) (s : State) : State := if s.tick.active then (s.atCyc cyc).settleTo cyc else s

/-- The state with every cycle up to now settled. -/
def State.settled (s : State) : State := s.settleTo s.cycNow

/-- The state as software sees it now: settled and with every wait counted up to now. -/
def State.upToNow (s : State) : State := s.settled.accrue

/-- Break the tick in progress: what fell due before has happened. -/
def State.breakTick (c : BreakCause) (s : State) : State := s.settled.breakHere c

end Sys2Proof.Machine
end

