-- ==== Sys2Proof/Machine/Seq.lean ====
section
/-! DEFINITION. The sequencer (R263 to R277): issue and holds, lateness by class, loops and indexed fields, and the
sequencer's own opcodes. A span instruction acts when it is the word at the span's PC and its conditions hold; otherwise it
is held. -/

namespace Sys2Proof.Machine
open Sys2Proof

/-! ### Lateness by class (R297) -/

/-- The amounts as a list, in the order in which they fall. -/
def LateClasses.sum (c : LateClasses) : Nat := c.mem + c.width + c.makeup + c.route + c.scat + c.stall + c.other

/-- A rise of one class. -/
def LateClasses.rise (k : DebitClass) (n : Nat) (c : LateClasses) : LateClasses := match k with
  | .mem => { c with mem := c.mem + n }
  | .width => { c with width := c.width + n }
  | .makeup => { c with makeup := c.makeup + n }
  | .route => { c with route := c.route + n }
  | .scat => { c with scat := c.scat + n }
  | .stall => { c with stall := c.stall + n }
  | .other => { c with other := c.other + n }

/-- The amounts fall, in the order OTHER to MEM, until they sum to `late`. -/
def LateClasses.fall (late : Nat) (c : LateClasses) : LateClasses :=
  let d := c.sum - late
  let o := min d c.other
  let d := d - o
  let st := min d c.stall
  let d := d - st
  let sc := min d c.scat
  let d := d - sc
  let ro := min d c.route
  let d := d - ro
  let mk := min d c.makeup
  let d := d - mk
  let wi := min d c.width
  let d := d - wi
  { mem := c.mem - d, width := c.width - wi, makeup := c.makeup - mk, route := c.route - ro, scat := c.scat - sc,
    stall := c.stall - st, other := c.other - o }

/-- The amounts sum to a lateness of `late` cycles, a rise since the last release going to class `k`. -/
def LateClasses.become (late : Nat) (k : DebitClass) (c : LateClasses) : LateClasses :=
  if c.sum < late then c.rise k (late - c.sum) else c.fall late

/-- The lateness of the instruction that issues becomes the span's, a rise going to class `k`. -/
def Sequencer.lateTo (late : Nat) (k : DebitClass) (q : Sequencer) : Sequencer :=
  { q with late := late, classes := q.classes.become late k }

/-- The class counts in the order of Table 8.4. -/
def LateClasses.list (c : LateClasses) : List Nat := [c.mem, c.width, c.makeup, c.route, c.scat, c.stall, c.other]

/-! ### Units (Table 9.2) and holds -/

/-- The unit that executes an instruction. -/
inductive SpanUnit where
  | seq
  | decoder
  | cells
  | abutment
  | arch
  | stream
deriving DecidableEq, Repr

/-- What holds an instruction: the hold's code, the counter it waits on, the register that counts the cycles (0 for none),
and the class of the lateness it causes. -/
structure Why where
  kind : HoldKind
  ctr : Nat
  counter : Nat
  cls : DebitClass
deriving DecidableEq, Repr

/-- Why the arch lanes run: a wait for data makes the class MEM. -/
def Span.archClass (cyc : Nat) (x : Span) : DebitClass := match x.att with
  | none => if x.archWaited then .mem else .other
  | some w => if x.archWaited || decide (w.cyc + w.unitTime ≤ cyc) then .mem else .other

/-- Whether a unit cannot accept an instruction at a cycle, and why. -/
def Span.unitHold (u : SpanUnit) (cyc : Nat) (x : Span) : Option Why :=
  let busy (k : DebitClass) : Option Why := some { kind := .unitBusy, ctr := 0, counter := 0, cls := k }
  match u with
  | .seq => none
  | .decoder => if x.cells.bufs.any (fun b => !b.2.done) then busy .other else none
  | .cells => if cyc < x.cells.busyUntil then busy (x.cells.overBusy.getD .other) else none
  | .abutment => if cyc < x.abt.busyUntil || !x.abt.works.isEmpty then busy (x.abt.overBusy.getD .other) else none
  | .arch => if cyc < x.archBusyUntil || x.att.isSome then busy (x.archClass cyc) else none
  | .stream => if x.streams.length ≥ 8 then busy .other else none

/-- The class of a wait on an arrival counter: MEM when a stream from device memory raises it. -/
def Span.ctrClass (x : Span) (c : Nat) : DebitClass :=
  if x.streams.any (fun e => decide (e.2.sctr = c) && decide (e.2.kind = .mload ∨ e.2.kind = .kvrd)) then .mem else .other

/-- Whether a wait group holds an instruction. -/
def Span.waitHold (w : WaitGroup) (x : Span) : Option Why :=
  if w.en && decide (x.seq.ctr w.ctr.toNat < w.val.toNat) then
    some { kind := .counter, ctr := w.ctr.toNat, counter := 0x350, cls := x.ctrClass w.ctr.toNat }
  else none

/-- No wait group. -/
def WaitGroup.none : WaitGroup := { en := false, cons := false, ctr := 0, val := 0 }

/-- The first of several reasons to hold. -/
def firstHold : List (Option Why) → Option Why
  | [] => none
  | some a :: _ => some a
  | none :: r => firstHold r

/-- A hold of `n` cycles has ended: one of at least HOLD_MIN cycles leaves a HOLD record (Table 17.8). -/
def State.holdEnded (l : Nat) (kind : HoldKind) (ctr n : Nat) (s : State) : State :=
  if n > 0 ∧ n ≥ s.regf 0x0A0020 0 16 then
    s.trace l 3 (natToBytes 1 kind.code ++ natToBytes 1 (if kind = .counter ∨ kind = .remoteWait then ctr else 0)
      ++ natToBytes 4 n)
  else s

/-- The hold in force ends at a cycle: its counter takes the cycles that it has not yet counted. -/
def State.endHold (l p cyc : Nat) (s : State) : State := match (s.span p).seq.hold with
  | none => s
  | some h => (s.modSpan p (fun x =>
      let x := x.countHold cyc
      { x with seq := { x.seq with hold := none } })).holdEnded l h.kind h.ctr (cyc - h.since)

/-- The sequencer is held at a cycle: a hold for another reason ends the one before. -/
def State.holdAt (l p cyc : Nat) (w : Why) (s : State) : State :=
  let same := match (s.span p).seq.hold with
    | none => none
    | some h => if h.kind = w.kind ∧ h.ctr = w.ctr ∧ h.counter = w.counter then some h else none
  match same with
  | some h => s.modSpan p (fun x => { x with seq := { x.seq with hold := some { h with cls := w.cls } } })
  | none =>
    let s := s.endHold l p cyc
    s.modSpan p (fun x => { x with seq := { x.seq with
      hold := some { kind := w.kind, ctr := w.ctr, since := cyc, counted := cyc, counter := w.counter, cls := w.cls },
      waitFrom := if w.kind = .stamp ∨ w.kind = .remoteWait then none else some (x.seq.waitFrom.getD cyc),
      remoteSince := if w.kind = .remoteWait then some (x.seq.remoteSince.getD cyc) else x.seq.remoteSince } })

/-! ### Indexed fields (R270) -/

/-- What IX adds to the indexed fields of an instruction, and the ring its deck-store addresses wrap in. -/
structure Ix where
  d : Nat
  g : Nat
  l : Nat
  j : Nat
  ring : Option Nat
deriving DecidableEq, Repr

/-- IX 0: nothing is added. -/
def Ix.zero : Ix := { d := 0, g := 0, l := 0, j := 0, ring := none }

/-- The index that IX names; none when its level is not open. -/
def Sequencer.ix? (q : Sequencer) (ix : Nat) : Option Ix :=
  if ix = 0 then some Ix.zero
  else (q.loops.find? (fun f => f.level = ix)).map (fun f =>
    { d := f.index * f.dStride, g := f.index * f.gStride, l := f.index * f.lStride, j := f.index * f.jStride,
      ring := some f.rlog2 })

/-- Granule `k` from an indexed address: wrapped in the ring when the instruction is indexed; none past the deck store. -/
def Ix.addr (x : Ix) (a k : Nat) : Option Nat := match x.ring with
  | none => if a + k < deckGranules then some (a + k) else none
  | some r => some (a / 2 ^ r * 2 ^ r + (a + x.g + k) % 2 ^ r)

/-- Granules at consecutive offsets from an indexed address; none when one lies past the deck store. -/
def Ix.addrs (x : Ix) (a n : Nat) : Option (List Nat) := (List.range n).mapM (fun k => x.addr a k)

/-! ### Issue (R267) -/

/-- What an instruction is issued with. -/
structure Ctx where
  l : Nat
  p : Nat
  pc : Nat
  cyc : Nat
  ix : Ix
deriving DecidableEq, Repr

/-- A program fault of the instruction in issue. -/
def State.faultAt (c : Ctx) (cause : Nat) (s : State) : State := s.progFault c.l c.p cause c.pc

/-- An instruction issues: lateness, counters, CONS, and the next PC; then it acts. -/
def State.issueNow (i : Issue) (c : Ctx) (w : WaitGroup) (act : Ctx → State → State) (s : State) : State :=
  let x := s.span c.p
  let q := x.seq
  let planned := s.planned q i.stamp.toNat
  let early := planned - q.since
  let s := if q.hold.isNone ∧ early > 0 then s.holdEnded c.l .stamp 0 early else s
  let cls := if q.loops.any (fun f => f.dyn && decide (f.index ≥ f.nPlan)) then DebitClass.route
    else (q.hold.map (·.cls)).getD .other
  let s := s.endHold c.l c.p c.cyc
  let late : Nat := c.cyc - planned
  let s := s.modSpan c.p (fun x =>
    let q := x.seq.lateTo late cls
    let q := if w.en && w.cons then q.change c.cyc w.ctr.toNat .sub w.val.toNat else q
    let q := { q with pc := q.pc + 1, lastIssue := some c.cyc, since := c.cyc + 1, waitFrom := none, remoteSince := none,
                      lastPhaseJoint := false }
    ({ x with seq := q }.inc 0x340 1).inc 0x344 late)
  let s := act c s
  if s.tick.active ∧ (s.span c.p).seq.pc > 4095 ∧ !(s.span c.p).seq.ended then s.faultAt c 0x01 else s

/-- The span that an instruction of logical span `l` would issue on: a run is in progress, the span runs a program that has
not ended, it stands at no joint, and the word at its PC spells the instruction. -/
def State.presented (l : Nat) (x : Instr) (s : State) : Option Nat :=
  if !s.tick.active then none
  else match s.phys? l with
    | none => none
    | some p =>
      let q := (s.span p).seq
      if q.phase ≠ 0 ∧ !q.ended ∧ q.jointAt.isNone ∧ q.arrived.isNone
          ∧ decodeProgWord (kget 0#128 q.prog q.pc) = some x then some p else none

/-- Present an instruction at a cycle. It is held by its stamp, by its unit, by its wait group, or by `more`, in that order;
otherwise it issues. -/
def State.present (i : Issue) (op : Issue → Instr) (u : SpanUnit) (w : WaitGroup) (more : Ctx → State → Option Why)
    (act : Ctx → State → State) (s : State) : Host.Outcome State Fault Refusal :=
  let s := s.toCyc i.cyc
  match s.presented i.l.val (op { i with l := 0, cyc := 0 }) with
  | none => .next s
  | some p =>
    let x := s.span p
    let ix := x.seq.ix? i.ix.toNat
    let c : Ctx := { l := i.l.val, p := p, pc := x.seq.pc, cyc := i.cyc, ix := ix.getD Ix.zero }
    let early := decide (i.cyc < s.planned x.seq i.stamp.toNat)
      || (match x.seq.lastIssue with
          | none => false
          | some k => decide (i.cyc ≤ k))
    if early then .next (s.holdAt c.l p i.cyc { kind := .stamp, ctr := 0, counter := 0, cls := .other })
    else match firstHold [x.unitHold u i.cyc, x.waitHold w, more c s] with
      | some y => .next (s.holdAt c.l p i.cyc y)
      | none =>
        if ix.isNone then .next (s.issueNow i c w (fun c s => s.faultAt c 0x02))
        else .next (s.issueNow i c w act)

/-- No further reason to hold. -/
def noMore (_ : Ctx) (_ : State) : Option Why := none

/-- Change the sequencer of the span in issue. -/
def State.modSeq (c : Ctx) (f : Sequencer → Sequencer) (s : State) : State :=
  s.modSpan c.p (fun x => { x with seq := f x.seq })

/-! ### The sequencer's opcodes (R269, R271, R273 to R277) -/

/-- NOP. -/
def execNop (i : Issue) (s : State) : Host.Outcome State Fault Refusal :=
  s.present i .nop .seq WaitGroup.none noMore (fun _ s => s)

/-- Whether the last instruction that logical span `l` issued was a JOINT with PHASE 1. -/
def State.jointBefore (s : State) (l : Nat) : Bool := match s.phys? l with
  | none => false
  | some p => (s.span p).seq.lastPhaseJoint

/-- What END does (R273): the phase's program ends; a fault of cause PC_RANGE unless a JOINT with PHASE 1 came before it. -/
def endAct (ok : Bool) (c : Ctx) (s : State) : State :=
  if ok then s.modSeq c (fun q => { q with ended := true, pc := c.pc }) else s.faultAt c 0x01

/-- END. -/
def execEndProgram (i : Issue) (s : State) : Host.Outcome State Fault Refusal :=
  s.present i .endProgram .seq WaitGroup.none noMore (endAct ((s.toCyc i.cyc).jointBefore i.l.val))

/-- BASE: ADD is added to the stamp base. -/
def execBase (i : Issue) (add : Word) (s : State) : Host.Outcome State Fault Refusal :=
  s.present i (.base · add) .seq WaitGroup.none noMore (fun c s => s.modSeq c (fun q => { q with base := q.base + add.toNat }))

/-- The address after the ENDL of a level at or after `pc`, 4,096 when there is none. -/
def Sequencer.afterEndl (q : Sequencer) (pc level : Nat) : Nat :=
  ((q.prog.find? (fun e => decide (pc ≤ e.1) && (match decodeProgWord e.2 with
    | some (.endl _ l) => decide (l.toNat = level)
    | _ => false))).map (fun e => e.1 + 1)).getD 4096

/-- The current layer's descriptor of a span. -/
def State.layer? (s : State) (p : Nat) : Option Desc := (s.span p).cells.layer.bind s.desc?

/-- LOOP: it opens a loop one level deeper than those open. A dynamic loop takes its count from a counter and its planned
count from the current layer, and skips its body when the count is zero. -/
def execLoop (i : Issue) (a : LoopArgs) (s : State) : Host.Outcome State Fault Refusal :=
  s.present i (.loop · a) .seq WaitGroup.none noMore (fun c s =>
    let q := (s.span c.p).seq
    let per := a.countM1.toNat + 1
    if a.level.toNat ≠ q.loops.length + 1 then s.faultAt c 0x02
    else
      let d := s.layer? c.p
      if a.dyn && d.isNone then s.faultAt c 0x0A
      else
        let iters := if a.dyn then cdiv (q.ctr a.dctr.toNat) per else per
        let nPlan := if a.dyn then cdiv ((d.map (·.capBase)).getD 0) per else per
        if iters = 0 then
          s.modSeq c (fun q => { q with pc := q.afterEndl (c.pc + 1) a.level.toNat, base := q.base + nPlan * a.period.toNat })
        else
          let f : LoopFrame := { level := a.level.toNat, index := 0, iters := iters, nPlan := nPlan, bodyPc := c.pc + 1,
                                 baseL := q.base, period := a.period.toNat, dStride := a.dStride.toNat,
                                 gStride := a.gStride.toNat, lStride := a.lStride.toNat, rlog2 := a.rlog2.toNat,
                                 jStride := a.jStride.toNat, dyn := a.dyn }
          s.modSeq c (fun q => { q with loops := f :: q.loops }))

/-- ENDL: the next iteration, or the end of the loop. -/
def execEndl (i : Issue) (level : BitVec 2) (s : State) : Host.Outcome State Fault Refusal :=
  s.present i (.endl · level) .seq WaitGroup.none noMore (fun c s =>
    match (s.span c.p).seq.loops with
    | [] => s.faultAt c 0x02
    | f :: rest =>
      if f.level ≠ level.toNat then s.faultAt c 0x02
      else if f.index + 1 < f.iters then
        s.modSeq c (fun q => { q with pc := f.bodyPc, base := f.baseL + (f.index + 1) * f.period,
                                      loops := { f with index := f.index + 1 } :: rest })
      else s.modSeq c (fun q => { q with base := f.baseL + f.nPlan * f.period, loops := rest }))

/-- JOINT (R295): the span will arrive at the joint once its units have completed (R296). -/
def execJoint (i : Issue) (phase : Bool) (j : BitVec 16) (s : State) : Host.Outcome State Fault Refusal :=
  s.present i (.joint · phase j) .seq WaitGroup.none noMore (fun c s =>
    s.modSeq c (fun q => { q with jointAt := some ((j.toNat + c.ix.j) % 65536), lastPhaseJoint := phase,
                                  waitFrom := some c.cyc }))

/-- Every stream is complete and its acknowledgements are in (KIND 2 of R274). -/
def Span.streamsDone (x : Span) : Bool := x.streams.isEmpty && x.abt.kvAcks.isEmpty

/-- Whether the condition of a WAIT's KIND holds at a cycle. -/
def Span.kindMet (kind cyc : Nat) (x : Span) : Bool :=
  if kind = 1 then x.cells.inflight.all (fun a => decide (archOwner 0 0 ≤ a.owner))
  else if kind = 2 then x.streamsDone
  else if kind = 3 then x.abt.works.isEmpty && decide (x.abt.writtenAt ≤ cyc)
  else true

/-- WAIT (R274): it holds until its condition is met; with REMOTE 1 the wait is a remote wait (R233). -/
def execWait (i : Issue) (w : WaitGroup) (kind : BitVec 3) (remote : Bool) (s : State) :
    Host.Outcome State Fault Refusal :=
  let more (c : Ctx) (s : State) : Option Why :=
    let x := s.span c.p
    let byCtr := x.waitHold w
    if byCtr.isNone && x.kindMet kind.toNat c.cyc then none
    else if remote then some { kind := .remoteWait, ctr := w.ctr.toNat, counter := 0x354, cls := .other }
    else match byCtr with
      | some y => some y
      | none => some { kind := .unitBusy, ctr := 0, counter := 0, cls := if kind = 1#3 then x.cells.overBusy.getD .other else .other }
  s.present i (.wait · w kind remote) .seq { w with en := false } more (fun c s =>
    if w.en && w.cons then s.modSeq c (fun q => q.change c.cyc w.ctr.toNat .sub w.val.toNat) else s)

/-- CSET: an arrival counter takes a value. -/
def execCset (i : Issue) (ctr : BitVec 5) (value : BitVec 20) (s : State) : Host.Outcome State Fault Refusal :=
  s.present i (.cset · ctr value) .seq WaitGroup.none noMore (fun c s =>
    s.modSeq c (fun q => q.change c.cyc ctr.toNat .set value.toNat))

/-- The 16-bit entries of granules. -/
def entries16 (gs : List (BitVec 256)) : List Nat := gs.flatMap (fun g => (List.range 16).map (fun i => bitsAt g.toNat (16 * i) 16))

/-- BLIST (R275): the sequence list is read from the deck store; FROMCTR takes its length from the counter and zeroes it. -/
def execBlist (i : Issue) (w : WaitGroup) (lbase : BitVec 17) (count : BitVec 13) (fromCtr : Bool) (deck : DeckUse)
    (s : State) : Host.Outcome State Fault Refusal :=
  s.present i (.blist · w lbase count fromCtr .clean) .seq w noMore (fun c s =>
    let x := s.span c.p
    let n := if fromCtr then x.seq.ctr w.ctr.toNat else count.toNat
    match c.ix.addrs lbase.toNat (cdiv n 16) with
    | none => s.faultAt c 0x03
    | some gs =>
      let r := x.readG gs
      let list := ((entries16 r.1).take n).map (· % 4096)
      let s := s.setSpan c.p r.2
      (s.modSeq c (fun q =>
        let q := if fromCtr then q.change c.cyc w.ctr.toNat .set 0 else q
        { q with blist := some list })).deckUse c.l c.p deck)

/-- The landing identifier of a receive window (R472). -/
def winLid (l win : Nat) : Nat := 0x1000 + 4 * l + win

/-- Close a receive window, and the tick landing over it. -/
def State.closeWindow (l p win : Nat) (s : State) : State :=
  let lid := winLid l win
  let s := s.modSpan p (fun x => { x with seq := { x.seq with windows := kdel x.seq.windows win } })
  { s with landings := kdel s.landings lid, tick := { s.tick with landings := s.tick.landings.filter (· ≠ lid) } }

/-- RECV (R276): it opens a receive window or closes it; with REMOTE 1 a tick landing lies over it. -/
def execRecv (i : Issue) (win : BitVec 2) (base len : BitVec 17) (remote : Bool) (s : State) :
    Host.Outcome State Fault Refusal :=
  s.present i (.recv · win base len remote) .seq WaitGroup.none noMore (fun c s =>
    let s := s.closeWindow c.l c.p win.toNat
    if len = 0 then s
    else if base.toNat + len.toNat > deckGranules then s.faultAt c 0x03
    else
      let v : Window := { base := base.toNat, len := len.toNat, remote := remote }
      let s := s.modSeq c (fun q => { q with windows := kins q.windows win.toNat v })
      if !remote then s
      else
        let lid := winLid c.l win.toNat
        let g : Landing := { kind := .deck, base := c.l, first := base.toNat, len := 32 * len.toNat, read := false,
                             write := true, host := false, port := 0, partition := none, bar4 := 0, expiry := none,
                             since := s.time, wrote := 0 }
        { s with landings := kins s.landings lid g, tick := { s.tick with landings := s.tick.landings ++ [lid] } })

/-- TMARK (R277): a trace mark, which may fire the trigger. -/
def execTmark (i : Issue) (mark : BitVec 16) (s : State) : Host.Outcome State Fault Refusal :=
  s.present i (.tmark · mark) .seq WaitGroup.none noMore (fun c s =>
    let s := s.modSeq c (fun q => { q with pc := c.pc })
    let s := s.trace c.l 1 (natToBytes 2 mark.toNat)
    let s := s.modSeq c (fun q => { q with pc := c.pc + 1 })
    if s.regf 0x0A0034 0 16 = mark.toNat then s.triggerAt c.l 29 1 else s)

end Sys2Proof.Machine
end

