-- ==== Sys2Proof/Machine/Ledger.lean ====
section
/-! DEFINITION. The slack ledger (R234 to R240): its opening, the views that members hold, the test of a refusable cost. -/

namespace Sys2Proof.Machine
open Sys2Proof

/-- SLIP_MAX · QUANTUM in cycles of the run's clock. -/
def State.slipMaxCyc (s : State) : Int := (((s.plan?.map (·.head.slipMax)).getD 0) * s.quantumCyc : Nat)

/-- The slip room of R236: zero but under FIDELITY outside fixed mode. -/
def State.slipRoom (s : State) : Int :=
  if s.fidelity && !s.fixed then s.slipMaxCyc - max 0 (s.tick.h - s.tick.init) else 0

/-- INIT of R234 for a period in µs at clock multiplier `n`. -/
def initLedger (period n planCyc : Nat) : Int := (period * 25 * n : Nat) - (planCyc : Int)

/-- Give logical spans, and the trestle unit when it is a member, the view of the ledger as it stands. -/
def State.sendView (ls : List Nat) (trestle : Bool) (s : State) : State :=
  let b := s.tick.init - s.tick.h
  let r := s.slipRoom
  let s := if trestle then { s with tick := { s.tick with viewBalance := b, viewSlip := r } } else s
  ls.foldl (fun (s : State) (l : Nat) => match s.phys? l with
    | none => s
    | some p => s.modSpan p (fun x => { x with cells := { x.cells with viewBalance := b, viewSlip := r, refusable := 0 } })) s

/-- The ledger opens at a run's start, and every member takes the opening view (R234, R236). -/
def State.openLedger (s : State) : State :=
  let planCyc := (s.plan?.map (·.head.planCyc)).getD 0
  let s := { s with tick := { s.tick with init := initLedger s.tick.period s.tick.n planCyc, h := 0, initLoss := 0 } }
  s.sendView s.lspans true

/-- Whether a cost is taken against a view (R236): `spent` are the refusable costs since the last release. -/
def costTaken (fidelity : Bool) (spent cost : Nat) (balance slip : Int) : Bool :=
  let x : Int := (spent + cost : Nat)
  decide (x ≤ balance) || (fidelity && decide (x - balance ≤ slip))

/-- A refused cost of a span: it counts as a refusal for the governor, leaves a REFUSE record, and may fire the trigger. -/
def State.refuse (l cls slot cost : Nat) (s : State) : State :=
  let s := { s with tick := { s.tick with refused := true } }
  let s := s.trace l 4 (natToBytes 1 cls ++ [0#8] ++ natToBytes 2 slot ++ natToBytes 4 cost)
  s.triggerAt l 26 4

/-- Whether a cost of a span lies within the balance of its view: it is debited, and does not enter the slip. -/
def State.inBalance (s : State) (p cost : Nat) : Bool :=
  let x := (s.span p).cells
  decide (((x.refusable + cost : Nat) : Int) ≤ x.viewBalance)

/-- Test a refusable cost of a span: true when it is taken. In fixed mode every cost is taken (R240). DESIGN CHOICE (log entry
61): X of R236 counts the costs that were taken; one that is refused does not stay in it. -/
def State.pay (l p cls slot cost : Nat) (s : State) : Bool × State :=
  let x := (s.span p).cells
  if s.fixed || costTaken s.fidelity x.refusable cost x.viewBalance x.viewSlip then
    (true, s.modSpan p (fun x => { x with cells := { x.cells with refusable := x.cells.refusable + cost } }))
  else (false, s.refuse l cls slot cost)

end Sys2Proof.Machine
end

