-- ==== Sys2Proof/Machine/Lock.lean ====
section
/-! DEFINITION. Lock-step pairs (R535 to R540): the sums and digests of a tick, READY, the comparison, the freeze and the
walk down the scopes. -/

namespace Sys2Proof.Machine
open Sys2Proof

/-! ### CRC-64 and the sums (R536) -/

/-- One bit of the CRC with the ECMA-182 polynomial, most significant bit first, initial value 0. -/
def crc64Bit : Nat → Nat → Nat
  | 0, c => c
  | n + 1, c => crc64Bit n (if c.testBit 63 then (2 * c % 2 ^ 64) ^^^ 0x42F0E1EBA9EA3693 else 2 * c % 2 ^ 64)

/-- CRC-64 of a byte string. -/
def crc64 (bs : List Byte) : Nat := bs.foldl (fun c b => crc64Bit 8 (c ^^^ (b.toNat * 2 ^ 56))) 0

/-- The key of a triple of phase, descriptor and span code. -/
def sumKey (phase desc code : Nat) : Nat := (phase * 4096 + desc) * 256 + code

/-- Whether the module is one of a lock-step pair. -/
def State.pair (s : State) : Bool := s.regb 0x090050 31

/-- Fold an item, an 8-byte identity and 32 bytes of content, into a triple. Only a pair keeps sums; a triple without an item is
not listed, even one whose items come to 0. -/
def State.foldItem (phase desc code : Nat) (ident content : List Byte) (s : State) : State :=
  if !s.pair then s
  else
    let c := crc64 (byteSlice ident 0 8 ++ byteSlice content 0 32)
    { s with tick := { s.tick with sums := kmod (2 ^ 64) s.tick.sums (sumKey phase desc code) (fun x => (x + c) % 2 ^ 64) } }

/-! ### Digests (R535, R537, R540) -/

/-- CLASS of DEV_REPRO_CLASS (Table 16.3). -/
def Fuses.reproClass (f : Fuses) : Nat := 16 * f.stepLetter.toNat + f.grade.toNat + 1

/-- The SHA-384 of the header: bitstream digest, plan number and CLASS, one byte each for the last two. -/
def State.headerDigest (s : State) : BitVec 384 :=
  sha384 (digestBytes ((s.bitstream?.map (·.digest)).getD 0) ++ natToBytes 1 s.tick.plan ++ natToBytes 1 s.fuses.reproClass)

/-- The entry of a triple in a digest. -/
def sumEntry (e : Nat × Nat) : List Byte :=
  natToBytes 1 (e.1 / 2 ^ 20) ++ natToBytes 2 (e.1 / 256 % 4096) ++ natToBytes 1 (e.1 % 256) ++ natToBytes 8 e.2

/-- The tick digest. -/
def State.tickDigest (s : State) : BitVec 384 :=
  sha384 (digestBytes s.headerDigest ++ natToBytes 4 s.tickNumber ++ s.tick.sums.flatMap sumEntry)

/-- The digest of one phase: its entries. -/
def State.phaseDigest (s : State) (phase : Nat) : BitVec 384 :=
  sha384 ((s.tick.sums.filter (fun e => decide (e.1 / 2 ^ 20 = phase))).flatMap sumEntry)

/-- The digest of one descriptor of a phase; zeros for an empty set. -/
def State.descDigest (s : State) (phase desc : Nat) : BitVec 384 :=
  let es := s.tick.sums.filter (fun e => decide (e.1 / 256 = phase * 4096 + desc))
  if es = [] then 0 else sha384 (es.flatMap sumEntry)

/-- The sum of one span code, in the low 8 bytes of a digest field. -/
def State.spanSum (s : State) (phase desc code : Nat) : BitVec 384 :=
  BitVec.ofNat 384 (kget (2 ^ 64) s.tick.sums (sumKey phase desc code) % 2 ^ 64)

/-! ### Sending (R481, Table 16.4) -/

/-- The scope field of a DIGEST. -/
def lockScope (level phase desc code : Nat) (ready : Bool) : Nat :=
  fieldAt 30 2 level + fieldAt 27 3 phase + fieldAt 15 12 desc + fieldAt 7 8 code + fieldAt 0 1 (bit ready)

/-- Send a DIGEST on the lock-step link. -/
def State.sendDigest (d : BitVec 384) (scope : Nat) (s : State) : State :=
  let pay := digestBytes d ++ natToBytes 4 s.tick.runs ++ natToBytes 4 scope ++ natToBytes 8 0
  let k : Pkt := { port := 0, vc := 0, lseq := 0, dst := 0, src := BitVec.ofNat 14 s.chip, ttl := 63,
                   arg := BitVec.ofNat 64 s.tickNumber, payload := granulesOf 2 pay }
  s.sendOn (s.regf 0x090050 28 3) 0 0x30 k

/-- Change the lock-step state. -/
def State.modLock (f : LockState → LockState) (s : State) : State := { s with via := { s.via with lock := f s.via.lock } }

/-- READY, once a SERVE job's plan is written. -/
def State.sendReady (s : State) : State :=
  if s.pair then s.sendDigest s.headerDigest (lockScope 0 0 0 0 true) else s

/-! ### The walk (R540) -/

/-- The descriptor of position `i` of the walk: 0 to 4,095, then 0xFFF. -/
def walkDesc (i : Nat) : Nat := min i 4095

/-- The span code of position `i` of the walk: 0 to 127, then 0xFD and 0xFE. -/
def walkCode (i : Nat) : Nat := if i < 128 then i else 0xFD + (i - 128)

/-- The digest and scope of the place where the walk stands. -/
def State.walkItem (s : State) : BitVec 384 × Nat :=
  let k := s.via.lock
  let d := walkDesc k.desc
  let c := walkCode k.span
  if k.level = 1 then (s.phaseDigest k.phase, lockScope 1 k.phase 0xFFF 0 false)
  else if k.level = 2 then (s.descDigest k.phase d, lockScope 2 k.phase d 0 false)
  else (s.spanSum k.phase d c, lockScope 3 k.phase d c false)

/-- Send the item of the place where the walk stands. -/
def State.sendWalk (s : State) : State := s.sendDigest s.walkItem.1 s.walkItem.2

/-- The walk ends: it records the first phase, descriptor and span code that differ. -/
def State.endWalk (s : State) : State :=
  s.modLock (fun k => { k with walkDone := true, level := 0, div0 := BitVec.ofNat 32 (fieldAt 29 3 k.phase
    + fieldAt 17 12 (walkDesc k.desc) + fieldAt 9 8 (walkCode k.span)) })

/-- The partner's item of the current place has arrived: the next place, or down a level at the first difference. -/
def State.walkNext (d : BitVec 384) (s : State) : State :=
  let k := s.via.lock
  let same := decide (d = s.walkItem.1)
  let go (f : LockState → LockState) : State := (s.modLock f).sendWalk
  if k.level = 1 then
    if !same then go (fun k => { k with level := 2, desc := 0 })
    else if k.phase < 4 then go (fun k => { k with phase := k.phase + 1 }) else s.endWalk
  else if k.level = 2 then
    if !same then go (fun k => { k with level := 3, span := 0 })
    else if k.desc < 4096 then go (fun k => { k with desc := k.desc + 1 }) else s.endWalk
  else if k.level = 3 then
    if !same then s.endWalk
    else if k.span < 129 then go (fun k => { k with span := k.span + 1 }) else s.endWalk
  else s

/-! ### The comparison and the freeze (R535, R538, R539) -/

/-- The freeze: the tick is broken and not replayed, and the divergence record names the tick. -/
def State.freeze (phase : Nat) (s : State) : State :=
  let s := (s.fault 0xB 0 0xFF).breakTick .lockstep
  let tick := BitVec.ofNat 32 s.tickNumber
  let s := { s with gov := { s.gov with nextCut := none } }
  s.modLock (fun k => { k with frozen := true, walkDone := false, div0 := BitVec.ofNat 32 (fieldAt 29 3 phase), div1 := tick,
                               level := phase, phase := phase, desc := 0, span := 0 })

/-- Whether the tick's own digest stands: the last joint of phase 4 has been released and the tick is not sealed. -/
def State.digestStands (s : State) : Bool := s.tick.active && decide (s.tick.phase = 5) && !s.tick.sealed

/-- The partner's digest of the current tick. -/
def State.partnerDigest? (s : State) : Option (BitVec 384) :=
  (s.via.lock.digests.find? (fun e => e.1 = s.tickNumber)).map (·.2)

/-- Compare the two digests of the current tick as soon as both stand: a difference freezes the pair and starts the walk. -/
def State.compareDigests (s : State) : State :=
  if !s.pair || s.via.lock.frozen || !s.digestStands then s
  else match s.partnerDigest? with
    | none => s
    | some d => if d = s.tickDigest then s else (s.freeze 1).sendWalk

/-- The headers of a pair are compared once the job's plan stands and the partner's READY has come. -/
def State.compareHeaders (s : State) : State := match s.via.lock.header with
  | none => s
  | some h =>
    if !s.pair || s.via.lock.frozen || s.bitstream?.isNone || decide (h = s.headerDigest) then s else s.freeze 0

/-- A DIGEST that the partner sent. -/
def State.takeDigest (d : BitVec 384) (tick scope : Nat) (s : State) : State :=
  if !s.pair then s
  else if scope.testBit 0 then
    (s.modLock (fun k => { k with paired := true, header := some d })).compareHeaders
  else if bitsAt scope 30 2 = 0 then
    (s.modLock (fun k => { k with digests := ((tick, d) :: k.digests.filter (fun e => e.1 ≠ tick)).take 2 })).compareDigests
  else if s.via.lock.frozen && decide (bitsAt scope 30 2 = s.via.lock.level) then s.walkNext d
  else s

/-- Send the tick digest at the release of the last joint of phase 4, and compare it with one already held. -/
def State.sendTickDigest (s : State) : State :=
  if s.pair then (s.sendDigest s.tickDigest (lockScope 0 0 0 0 false)).compareDigests else s

/-- VIA_LOCK_STATE (Table 16.5). -/
def State.lockWord (s : State) : Nat :=
  fieldAt 31 1 (bit s.via.lock.paired) + fieldAt 30 1 (bit s.via.lock.frozen) + fieldAt 29 1 (bit s.via.lock.walkDone)

/-- A DIGEST packet's meaning on the lock-step link: the payload's digest and scope, the tick number of its argument. -/
def State.digestPacket (p : Pkt) (s : State) : State :=
  let bs := payloadBytes p.payload
  s.takeDigest (bytesDigest (byteSlice bs 0 48)) (p.arg.toNat % 2 ^ 32) (leAt bs 52 4)

end Sys2Proof.Machine
end

