-- ==== Sys2Proof/Machine/Stop.lean ====
section
/-! DEFINITION. Verification of drafts and stop detection (R213 to R215, R422, R423): which tokens of a batch slot are committed
and what ends its sequence. The trestle unit runs it, and the pier in falsework (R217). -/

namespace Sys2Proof.Machine
open Sys2Proof

/-! ### Stop strings (R215) -/

/-- F[k] of a string: the length of its longest proper prefix that ends its first `k` bytes. -/
def failOf (s : List Byte) (k : Nat) : Nat :=
  ((List.range k).reverse.find? (fun j => decide (s.take j = (s.take k).drop (k - j)))).getD 0

/-- The state after byte `b`, the string's length standing for a match. -/
def stopByte (s : List Byte) (b : Byte) : Nat → Nat → Nat
  | 0, k => if s[k]? = some b then k + 1 else k
  | fuel + 1, k =>
    if s[k]? = some b then k + 1
    else if k = 0 then 0
    else stopByte s b fuel (failOf s k)

/-- The states of the four strings over the bytes of a token, up to the first byte that completes a string: the states, and
the string and the offset of that byte. -/
def stopBytes (strs : List (List Byte)) : List Byte → Nat → List Nat → List Nat × Option (Nat × Nat)
  | [], _, ks => (ks, none)
  | b :: rest, off, ks =>
    let ks' := strs.zipIdx.map (fun e => if e.1.isEmpty then 0 else stopByte e.1 b (ks.getD e.2 0 + 1) (ks.getD e.2 0))
    match strs.zipIdx.find? (fun e => !e.1.isEmpty && decide (ks'.getD e.2 0 = e.1.length)) with
    | some e => (ks', some (e.2, off + 1))
    | none => stopBytes strs rest (off + 1) ks'

/-! ### Stop conditions (Table 7.3) -/

/-- What a sequence's stop detection reads: its settings, the vocabulary, the generated count before the tick, the position
of the first token, and the limits. -/
structure StopCtx where
  stop : StopState
  vocab : Vocab
  generated : Nat
  pos : Nat
  maxTokens : Nat
  maxContext : Nat
deriving DecidableEq, Repr

/-- The first condition that a token meets, and the string states after it: `i` counts the tokens before it in the tick. -/
def StopCtx.check (x : StopCtx) (i tok : Nat) (ks : List Nat) : List Nat × Option Ending :=
  let r := stopBytes x.stop.strings (x.vocab.bytes tok) 0 ks
  let id := x.stop.ids.findIdx? (fun y => decide (y = tok ∧ y ≠ 0xFFFFFFFF))
  (r.1, match id, r.2 with
    | some j, _ => some { reason := 0x00, arg1 := j }
    | none, some (s, off) => some { reason := 0x01, arg1 := s + 256 * off }
    | none, none =>
      if x.generated + i + 1 ≥ x.maxTokens then some { reason := 0x02, arg1 := 0 }
      else if x.pos + i + 1 ≥ x.maxContext then some { reason := 0x03, arg1 := 0 }
      else none)

/-- Tokens in position order: those committed, the string states after them, and the ending. -/
def StopCtx.run (x : StopCtx) : Nat → List Nat → List Nat → List Nat × List Nat × Option Ending
  | _, [], ks => ([], ks, none)
  | i, t :: rest, ks => match x.check i t ks with
    | (ks', some e) => ([t], ks', some e)
    | (ks', none) =>
      let r := x.run (i + 1) rest ks'
      (t :: r.1, r.2)

/-! ### A batch slot -/

/-- The accepted count a of R422: leading drafts that equal the main tokens. -/
def acceptedDrafts : List Nat → List Nat → Nat
  | d :: ds, m :: ms => if d = m then acceptedDrafts ds ms + 1 else 0
  | _, _ => 0

/-- The tokens of a slot that are offered to stop detection. -/
def Slot.offered (x : Slot) (st : ReqState) : List Nat :=
  if st = .decode then x.mainTokens.take (acceptedDrafts (x.draftTokens.take x.drafts) x.mainTokens + 1) else x.mainTokens

/-- The position of a slot's first sampled token. -/
def Request.firstPos (q : Request) : Nat := if q.pending.isNone then q.promptLen else q.committed + 1

/-- Stop detection of one slot. -/
def State.stopSlot (s : State) (x : Slot) : Slot := match kfind? s.requests x.handle with
  | none => x
  | some q =>
    if x.sits then { x with done := true, stopStates := q.stop.states }
    else
      let vocab := ((s.entryOfModel? q.modelId).map (fun e => (s.entry e).vocab)).getD Vocab.none
      let c : StopCtx := { stop := q.stop, vocab := vocab, generated := q.generated, pos := q.firstPos - 1,
                           maxTokens := q.maxTokens, maxContext := ((s.bitstream?.map (·.ident.maxContext)).getD 0) - 1 }
      let r := c.run 0 (x.offered q.state) q.stop.states
      { x with tokens := r.1, stopStates := r.2.1, stopped := r.2.2, done := true }

/-- The items of R536 for a slot's results, under the code of the unit that produced them. -/
def State.foldStop (code : Nat) (x : Slot) (s : State) : State := match kfind? s.requests x.handle with
  | none => s
  | some q => x.tokens.zipIdx.foldl (fun (s : State) (e : Nat × Nat) =>
      let last := decide (e.2 + 1 = x.tokens.length)
      let stop : Nat := match x.stopped with
        | some y => if last then 1 + y.reason + 256 * y.arg1 else 0
        | none => 0
      s.foldItem 4 0xFFF code (natToBytes 4 x.handle ++ natToBytes 4 (q.firstPos + e.2))
        (natToBytes 4 e.1 ++ natToBytes 4 (q.firstPos + e.2) ++ natToBytes 4 stop ++ natToBytes 2 x.quality.lostRows
          ++ natToBytes 1 x.quality.droppedRoutes ++ natToBytes 2 x.quality.lostEntries ++ [BitVec.ofNat 8 (bit x.quality.widenRefused)])) s

/-- Stop detection of every slot that has not run it, by the unit with span code `code`. -/
def State.stopAll (code : Nat) (s : State) : State :=
  let done := s.tick.slots.map (fun x => if x.done then x else s.stopSlot x)
  let fresh := s.tick.slots.zip done
  let s := { s with tick := { s.tick with slots := done } }
  fresh.foldl (fun (s : State) (e : Slot × Slot) => if e.1.done then s else s.foldStop code e.2) s

/-- In a plan without trestle work the pier runs stop detection, before phase 5. -/
def State.pierStops (s : State) : State :=
  if (s.plan?.map (·.hasTrestle)).getD false then s else s.stopAll 0xFD

/-- The vocabulary size V of the model that batch slot `n` runs (R209). -/
def State.vocabSize (s : State) (n : Nat) : Nat :=
  (((s.tick.slots[n]?).bind (fun x => kfind? s.requests x.handle)).bind (fun q => s.entryOfModel? q.modelId)).elim 0
    (fun e => (s.entry e).vocab.size)

end Sys2Proof.Machine
end

