-- ==== Sys2Proof/Machine/Joint.lean ====
section
/-! DEFINITION. Runs, phases and expansion joints (R224, R230, R231, R235, R237, R264, R296): the start of a run and of a
phase, a span's arrival, a joint's release. -/

namespace Sys2Proof.Machine
open Sys2Proof

/-! ### The start of a run and of a phase (R264) -/

/-- A span at the start of a run. -/
def Span.beginRun (x : Span) : Span :=
  let q := { x.seq with arrive := [], ctrOps := [], loops := [], windows := [], base := 0, offset := 0,
                        classes := LateClasses.zero, late := 0, phase := 0, ended := false, hold := none, jointAt := none,
                        arrived := none, earlyTo := 0, lastIssue := none, remoteSince := none, waitFrom := none, blist := none,
                        lastPhaseJoint := false, since := 0 }
  let c := { CellUnit.idle with layerSeq := x.cells.layerSeq }
  let hist := x.abt.hist.map (fun (e : Nat × WidthHist) => (e.1, { e.2 with current := 0 }))
  { x with seq := q, cells := c, applied := [], attCycles := 0, attPlan := 0, streams := [], queues := [], bankAt := [],
           scatAt := 0, puts := [], conflict := false, archBusyUntil := 0, archDoneAt := 0, archWaited := false, att := none,
           abt := { x.abt with busyUntil := 0, writtenAt := 0, ctxs := [], kvAcks := [], works := [], checkUntil := 0,
                               overBusy := none, hist := hist } }

/-- A span at the start of a phase, which begins at cycle `cyc`, with the entry PC of the phase. -/
def Span.beginPhase (phase entry cyc : Nat) (x : Span) : Span :=
  let q := { x.seq with phase := phase, pc := entry, base := 0, loops := [], ended := false, hold := none, jointAt := none,
                        arrived := none, lastIssue := none, blist := none, lastPhaseJoint := false, since := cyc,
                        remoteSince := none, waitFrom := none }
  { x with seq := q, cells := { x.cells with layer := none, gated := false } }

/-- The entry PC of a phase in a logical span's program. -/
def State.entryPc (s : State) (l phase : Nat) : Nat :=
  (((s.plan?.bind (fun p => p.role? l)).map (·.entry)).getD []).getD (phase - 1) 0

/-- The first TRESTLE record of a phase from index `n` on. -/
def Plan.recordFrom (p : Plan) (phase n : Nat) : Option Nat :=
  ((p.trestle.drop n).findIdx? (fun r => decide (r.phase = phase))).map (· + n)

/-- The index of the phase joint of a phase. -/
def Plan.phaseJoint (p : Plan) (phase : Nat) : Option Nat :=
  ((p.joints.zipIdx.filter (fun e => e.1.phase))[phase - 1]?).map (·.2)

/-- A member arrives at a joint. -/
def State.arriveAt (m j cyc : Nat) (classes : List Nat) (s : State) : State :=
  { s with tick := { s.tick with arrivals := kins s.tick.arrivals m { joint := j, cyc := cyc, classes := classes } } }

/-- The trestle unit arrives at the phase joint once it has no record of the phase left. -/
def State.trestleArrives (cyc : Nat) (s : State) : State := match s.plan? with
  | none => s
  | some p =>
    if !p.hasTrestle then s
    else match p.phaseJoint s.tick.phase with
      | none => s
      | some j =>
        let y := (p.joints[j]?).map (fun g => g.y - g.a)
        let late := cyc - (y.getD 0 + s.tick.trsOffset)
        s.arriveAt 128 j cyc [0, 0, 0, 0, 0, 0, late]

/-! ### Release (R231, R235, R237) -/

/-- The member whose report counts among those that arrived last. -/
def lastMember (arr : List (Nat × Arrival)) : Option Arrival :=
  match (arr.map (fun e => e.2.cyc)).max? with
  | none => none
  | some m => (arr.find? (fun e => e.2.cyc = m)).map (·.2)

/-- A debit shared over the classes of a report, in order and up to each amount, the remainder going to OTHER. -/
def shareDebit : Nat → List Nat → List Nat
  | _, [] => []
  | d, [_] => [d]
  | d, c :: r => min d c :: shareDebit (d - min d c) r

/-- How late a member is that arrives at a joint at cycle `at_` with offset `o`, against its planned arrival. -/
def Joint.lateness (g : Joint) (at_ o : Nat) : Int := (at_ : Int) - (g.y - g.a + o : Nat)

/-- A member span is released from joint `j`, whose record is `g`, at cycle `x` with lag `lag`: SPN_JOINT_EARLY, the trace
records, the new offset. -/
def State.releaseSpan (j x lag : Nat) (g : Joint) (l : Nat) (s : State) : State := match s.phys? l with
  | none => s
  | some p =>
    let q := (s.span p).seq
    let late := min (g.lateness ((q.arrived.map (·.2)).getD x) q.offset).toNat (2 ^ 32 - 1)
    let s := s.modSpan p (Span.countJoint x)
    let s := s.holdEnded l .joint 0 (x - q.lastIssue.getD x)
    let s := s.trace l 2 (natToBytes 2 j ++ natToBytes 4 late ++ natToBytes 4 lag)
    let s := if lag ≥ s.reg 0x0A0038 then s.triggerAt l 27 3 else s
    s.modSpan p (fun y => { y with seq := { y.seq with offset := lag, classes := LateClasses.zero, arrived := none,
                                                       jointAt := none, hold := none, since := x, waitFrom := none }
                                   conflict := false
                                   archWaited := false
                                   cells := { y.cells with overBusy := none }
                                   abt := { y.abt with overBusy := none } })

/-- Release joint `j` at cycle `x`: the ledger takes its debit, and every member its offset and its view. After the seal the ledger
stands (R246). -/
def State.release (j x : Nat) (g : Joint) (s : State) : State :=
  let members := s.jointSpans g
  let arr := s.tick.arrivals.filter (fun (e : Nat × Arrival) => e.2.joint = j)
  let lag := x - g.y
  let h := if s.tick.sealed then s.tick.h else max s.tick.h lag
  let debit := h - s.tick.h
  let shares := shareDebit debit (((lastMember arr).map (·.classes)).getD [0, 0, 0, 0, 0, 0, 0])
  let s := shares.zipIdx.foldl (fun (s : State) (e : Nat × Nat) => s.inc (0x060118 + 4 * e.2) e.1) s
  let released := s.tick.released ++ [j]
  let next := (firstBelow (s.tick.nextJoint + released.length + 1) (fun i => decide (s.tick.nextJoint ≤ i) && !released.contains i)).getD
    (j + 1)
  let tick := { s.tick with
    h := h, lastJoint := j, nextJoint := next, released := released.filter (fun i => decide (next ≤ i)),
    init := if s.tick.sealed then s.tick.init else s.tick.init - (s.tick.initLoss : Int), initLoss := 0, arrivals := s.tick.arrivals.filter (fun e => e.2.joint ≠ j),
    trsOffset := if g.trestle then lag else s.tick.trsOffset }
  let s := { s with tick := tick }
  let s := members.foldl (fun (s : State) (l : Nat) => s.releaseSpan j x lag g l) s
  s.sendView members g.trestle

/-- Whether the last joint of the tick is released. -/
def State.phaseOver (s : State) : Bool := match s.plan?.bind (fun p => p.phaseJoint 5) with
  | none => true
  | some j => decide (j < s.tick.nextJoint) || s.tick.released.contains j

/-- The tick has been sealed and its last joint released: no tick runs until the next cut. -/
def State.endTick (s : State) : State :=
  let s := s.binding.foldl (fun (s : State) (e : Nat × Nat) => s.modSpan e.2 (fun x => { x with seq := { x.seq with phase := 0 } })) s
  { s with tick := { s.tick with active := false, phase := 0 } }

/-- The start of phase `p` at cycle `cyc` with lag `lag`. A phase of planned length zero is released as soon as it starts
(R224), and the next one starts; the end of phase 4 sends the digest of a lock-step pair (R481). -/
def State.beginPhase : Nat → Nat → Nat → Nat → State → State
  | 0, _, _, _, s => s
  | fuel + 1, phase, cyc, lag, s => match s.plan? with
    | none => s
    | some pl =>
      let s := { s with tick := { s.tick with phase := phase } }
      let s := if phase = 5 then s.pierStops.sendTickDigest else s
      if phase > 5 ∨ !s.tick.active then s
      else
        let s := s.binding.foldl (fun (s : State) (e : Nat × Nat) =>
          s.modSpan e.2 (Span.beginPhase phase (s.entryPc e.1 phase) cyc)) s
        let s := { s with trs := { s.trs with nextRec := (pl.recordFrom phase 0).getD 0, readyAt := cyc } }
        let s := if (pl.recordFrom phase 0).isNone then s.trestleArrives cyc else s
        match pl.phaseJoint phase with
        | none => s
        | some j => match pl.joints[j]? with
          | none => s
          | some g =>
            if g.y = pl.head.phaseS.getD (phase - 1) 0 ∧ phase < 5 then
              let s := { s with tick := { s.tick with arrivals := s.tick.arrivals.filter (fun e => e.2.joint ≠ j) } }
              State.beginPhase fuel (phase + 1) (g.y + lag) lag (s.release j (g.y + lag) g)
            else s

/-- The start of a run of the tick at `start`: the ledger opens, the spans begin, and phase 1 starts. `pier` is the cycle at
which the pier has done its work of phase 1. -/
def State.beginRun (start pier : Nat) (s : State) : State :=
  let s := { s with tick := { s.tick with active := true, start := start, t0 := start, cyc0 := 0, n := s.pwr.n,
                                          period := s.gov.period, phase := 0, broken := none, sealed := false,
                                          lastJoint := 0, nextJoint := 0, released := [], arrivals := [], trsOffset := 0,
                                          refused := false, overran := false, writesOpen := 0, missed := 0, pause := 0, widenRef := 0 } }
  let s := { s with via := { s.via with pulls := [] } }
  let s := s.binding.foldl (fun (s : State) (e : Nat × Nat) => s.modSpan e.2 Span.beginRun) s
  let s := { s with trs := s.trs.fresh }
  let s := s.openLedger
  let s := match s.plan?.bind (fun p => p.phaseJoint 1) with
    | none => s
    | some j =>
      let a := ((s.joint? j).map (fun (g : Joint) => g.y - g.a)).getD 0
      s.arriveAt 129 j pier [0, 0, 0, 0, 0, 0, pier - a]
  s.beginPhase 6 1 0 0

/-! ### Arrival of a span (R296) -/

/-- Whether a span's units have completed every instruction, at a cycle. -/
def Span.unitsDone (cyc : Nat) (x : Span) : Bool :=
  x.cells.bufs.all (fun b => b.2.done) && decide (x.cells.busyUntil ≤ cyc) && x.cells.inflight.isEmpty
    && x.abt.works.isEmpty && decide (x.abt.busyUntil ≤ cyc ∧ x.abt.writtenAt ≤ cyc ∧ x.abt.checkUntil ≤ cyc)
    && decide (x.archBusyUntil ≤ cyc ∧ x.archDoneAt ≤ cyc) && x.att.isNone

/-- Whether everything that the abutment and the arch lanes of a logical span have written has landed. -/
def State.outDone (s : State) (l : Nat) : Bool :=
  s.spans.all (fun y => y.2.puts.all (fun w => decide (w.src ≠ l ∨ w.client = .stream)))

/-- Whether every scatter entry that a logical span sent has been applied or dropped. -/
def State.scatterDone (s : State) (l : Nat) (x : Span) : Bool :=
  x.streams.all (fun e => decide (e.2.kind ≠ StreamKind.scat))
    && s.spans.all (fun y => y.2.queues.all (fun b => b.2.all (fun e => decide (e.src ≠ l))))

/-- The class of a span's late arrival (Table 9.10): scatter entries when they were the last to end, a unit beyond its plan, a
wait for data or for a port of the deck store, any other cause. -/
def Span.arrivalClass (x : Span) : DebitClass :=
  if 0 < x.scatAt ∧ x.cells.busyUntil ≤ x.scatAt ∧ x.abt.writtenAt ≤ x.scatAt ∧ x.archDoneAt ≤ x.scatAt then .scat
  else match x.cells.overBusy <|> x.abt.overBusy with
    | some k => k
    | none => if x.archWaited || x.conflict then .mem else .other

/-- Whether a span has arrived at a joint whose record is `g`, at a cycle (R296). -/
def State.arrivedNow (s : State) (l p cyc : Nat) (phase : Bool) : Bool :=
  let x := s.span p
  x.unitsDone cyc && s.outDone l && s.scatterDone l x && (!phase || x.streamsDone)
    && (match x.seq.lastIssue with
        | none => true
        | some k => decide (k ≤ cyc))

/-- A span arrives at the joint whose JOINT it has issued, once R296 holds; at a phase joint its windows close. Cells that have
run a poisoned tile set break the tick instead (R94). -/
def execSpanJointArrival (l : Fin 128) (cyc : Nat) (s : State) : Host.Outcome State Fault Refusal :=
  let s := s.toCyc cyc
  if !s.tick.active then .next s
  else match s.phys? l.val with
    | none => .next s
    | some p =>
      let x := s.span p
      match x.seq.jointAt with
      | none => .next s
      | some j =>
        let g := s.joint? j
        let phase := (g.map (·.phase)).getD false
        if !s.arrivedNow l.val p cyc phase then .next s
        else if x.cells.poisonDue then .next (s.breakTick .poison)
        else
          let late := ((g.map (fun (g : Joint) => g.lateness cyc x.seq.offset)).getD (cyc : Int)).toNat
          let q := { x.seq with classes := x.seq.classes.become late x.arrivalClass, jointAt := none, arrived := some (j, cyc),
                                earlyTo := cyc, waitFrom := none }
          let s := s.modSpan p (fun x => { x with seq := q })
          let s := if phase then (List.range 4).foldl (fun (s : State) (w : Nat) => s.closeWindow l.val p w) s else s
          .next (s.arriveAt l.val j cyc q.classes.list)

/-! ### JOINT_RELEASE -/

/-- The lowest joint of the phase in progress that is not released and whose members have all arrived, with its release
cycle. -/
def State.dueJoint? (s : State) : Option (Nat × Nat × Joint) := match s.plan?.bind (fun p => p.phaseJoint s.tick.phase) with
  | none => none
  | some last =>
    let js := (List.range (last + 1)).filter (fun j => decide (s.tick.nextJoint ≤ j) && !s.tick.released.contains j)
    (js.filterMap (fun j => (s.joint? j).bind (fun g =>
      if (s.missingAt j g).isEmpty then
        let arr := (s.tick.arrivals.filter (fun (e : Nat × Arrival) => e.2.joint = j)).map (fun e => e.2.cyc)
        some (j, max g.y ((arr.max?).getD 0), g)
      else none))).head?

/-- A joint is released (R231) at the first instant at which its members have arrived and its planned release has come; the
release of a phase joint starts the next phase. The joint of phase 5 and the seal end the tick, whichever comes last. -/
def execJointRelease (t : Nat) (s : State) : Host.Outcome State Fault Refusal :=
  if !s.tick.active then .next s
  else
    let s := (s.at t).settled
    match s.dueJoint? with
    | none => .next s
    | some (j, x, g) =>
      if s.time < s.cycTime x then .next s
      else
        let s := s.release j x g
        if !g.phase then .next s
        else if s.tick.phase < 5 then .next (s.beginPhase 6 (s.tick.phase + 1) x (x - g.y))
        else .next (if s.tick.sealed then s.endTick else s)

end Sys2Proof.Machine
end

