-- ==== Sys2Proof/Machine/Batch.lean ====
section
/-! DEFINITION. The batch of a tick (R419 to R424): its members and their order, what each does in the tick, the key-value
work of the cut (R152, R154, R164), and load balancing with the assignment lists (R146, R195, R286). -/

namespace Sys2Proof.Machine
open Sys2Proof

/-! ### Members (R419, R420, R533) -/

/-- The order of the QUEUED requests: PRIORITY, DEADLINE, stamp, handle. -/
def queueLe (a b : Nat × Request) : Bool :=
  let dl (q : Request) : Nat := q.deadline.getD (2 ^ 64)
  if a.2.priority ≠ b.2.priority then decide (a.2.priority > b.2.priority)
  else if dl a.2 ≠ dl b.2 then decide (dl a.2 < dl b.2)
  else if a.2.stamp ≠ b.2.stamp then decide (a.2.stamp < b.2.stamp)
  else decide (a.1 ≤ b.1)

/-- The device time base at a time of the model. -/
def State.tbAt (s : State) (c : Nat) : Nat := (((c : Int) + s.tbOff) % 2 ^ 64).toNat

/-- The head of the plan in use. -/
def State.headOf (s : State) (f : TickHead → Nat) : Nat := (s.plan?.map (fun p => f p.head)).getD 0

/-- The requests of the running job that no ending has reached, in table order. -/
def State.liveRequests (s : State) : List (Nat × Request) := match s.running with
  | none => []
  | some id => (s.jobRequests id).filter (fun e => e.2.ending.isNone)

/-- Whether the job takes new requests into the batch of the cut at `c`. -/
def State.admits (s : State) (c : Nat) (q : Request) : Bool :=
  let pairOk := !s.pair || (match s.gov.lastSeal with
    | none => false
    | some x => decide (q.stamp < x))
  decide (q.stamp < s.tbAt c) && pairOk && decide (0 < s.headOf (·.prefillTokens))
    && (match s.job? with
        | none => false
        | some j => j.ending.isNone)

/-- The members of the batch in slot order, the new ones among those that `c` admits. -/
def State.members (s : State) (c : Nat) : List (Nat × Request) :=
  let live := s.liveRequests
  let bySlot (l : List (Nat × Request)) := l.mergeSort (fun a b => decide (a.2.slotNo ≤ b.2.slotNo))
  let cont := bySlot (live.filter (fun e => e.2.state.inBatch && decide (e.2.state ≠ .handingOver)))
  let queued := live.filter (fun e => decide (e.2.state = .queued) && s.admits c e.2)
  let earlier := bySlot (queued.filter (fun e => decide (e.2.ptRows ≠ 0)))
  let fresh := queued.filter (fun e => decide (e.2.ptRows = 0))
  let jump := (fresh.filter (fun e => e.2.footbridge)).mergeSort queueLe
  let rest := (fresh.filter (fun e => !e.2.footbridge)).mergeSort queueLe
  (cont ++ earlier ++ jump ++ rest).take (min 4096 (s.headOf (·.batchLimit)))

/-! ### What a member does in the tick (R420, R422, R423) -/

/-- DRAFT_MAX and MAX_CONTEXT of the running job's bitstream. -/
def State.draftMax (s : State) : Nat := ((s.bitstream?.bind (·.footbridge)).map (·.draftMax)).getD 0
def State.maxContext (s : State) : Nat := (s.bitstream?.map (·.ident.maxContext)).getD 0

/-- A slot that does nothing. -/
def Slot.idle (h : Nat) : Slot :=
  { handle := h, sits := false, pre := 0, preLen := 0, drafts := 0, fbSteps := 0, positions := [],
    fbPositions := [], draftTokens := [], mainTokens := [], tokens := [], stopped := none, stopStates := [],
    quality := Quality.zero, done := false }

/-- The state that a member runs in: the one it left when it sat out, and the one that admission gives it. -/
def Request.runState (basic : Bool) (q : Request) : ReqState :=
  if q.state = .queued then (if basic || q.footbridge then .footbridge else .prefill)
  else if q.state = .sittingOut then (if basic || q.footbridge then .footbridge else q.left)
  else if basic then .footbridge else q.state

/-- What a member does in the tick with `budget` prefill positions left, and the positions it takes from them. -/
def State.planSlot (s : State) (h : Nat) (st : ReqState) (q : Request) (budget : Nat) : Slot × Nat :=
  let draftN := s.headOf (·.draftN)
  let c := q.committed
  let x := Slot.idle h
  if st = .prefill then
    let n := min (q.promptLen - c) budget
    ({ x with pre := c, preLen := n, positions := addrs c n, fbPositions := addrs c n }, n)
  else if st = .footbridge then
    if q.pending.isNone then
      let n := min (q.promptLen - q.fbLen) budget
      ({ x with pre := q.fbLen, preLen := n, fbPositions := addrs q.fbLen n }, n)
    else
      let n := min (c - q.fbLen) budget
      let steps := if n < c - q.fbLen then 0 else min (draftN + 1) (min (q.maxTokens - q.generated) (s.maxContext - c))
      ({ x with pre := q.fbLen, preLen := n, fbSteps := steps, fbPositions := addrs q.fbLen (n + steps) }, n)
  else if draftN = 0 then ({ x with positions := [c] }, 0)
  else
    let k := min draftN (min s.draftMax (min (q.maxTokens - q.generated - 1) (s.maxContext - 2 - c)))
    ({ x with pre := q.fbLen, preLen := c - q.fbLen, drafts := k, positions := addrs c (k + 1),
              fbPositions := addrs q.fbLen (c - q.fbLen + k) }, 0)

/-! ### Key-value work (Table 5.4) -/

/-- Orders 1 and 2 for a new member: the prefix match, the page table with the matched frame sets, the seed. -/
def State.admitOne (h : Nat) (s : State) : State := match kfind? s.requests h with
  | none => s
  | some q =>
    if q.state ≠ .queued ∨ q.ptRows ≠ 0 then s
    else
      let root := s.rootKey q
      let m := s.matchPrefix root q.prompt q.promptLen
      let s := s.touchNodes m.2.2
      let rows := pagesFor q.pageLog2 (s.declared q)
      let a := s.ptAlloc rows
      let s := m.2.1.foldl (fun (s : State) (e : Nat × Nat) =>
        let fs := (s.fset? e.2).getD { refs := 0, order := 0, frames := [] }
        let s := fs.frames.zipIdx.foldl (fun (s : State) (f : Nat × Nat) =>
          s.ptWrite a.1 f.2 e.1 { valid := true, shared := true, order := fs.order, frame := f.1, fset := e.2 }) s
        s.fsetRef e.2 (· + 1)) a.2
      let d := s.draw
      let seed := if q.seedGiven then q.sampler.seed else Config.entropy d.1
      let s := if q.seedGiven then s else d.2
      let s := (s.inc 0x04010C m.1).winAdd q.partition 10 m.1
      s.modReq h (fun q => { q with ptBase := a.1, ptRows := rows, committed := m.1, fbLen := m.1, matched := m.1,
                                    sampler := { q.sampler with seed := seed } })

/-- A member on its way through orders 3 to 5: the state it runs in, its slot, and whether its frames have been had so far. -/
structure Provision where
  st : ReqState
  slot : Slot
  ok : Bool
deriving DecidableEq, Repr

/-- The pages of a member's write range (R152). -/
def Request.writePages (q : Request) (x : Slot) : List Nat := match (x.positions ++ x.fbPositions).max? with
  | none => []
  | some hi => pagesOf q.pageLog2 (min q.committed q.fbLen) hi

/-- Order 3 for all members in slot order. -/
def State.fillAll (ps : List Provision) (s : State) : List Provision × List CutFrame × State :=
  ps.foldl (fun (acc : List Provision × List CutFrame × State) (x : Provision) => match kfind? acc.2.2.requests x.slot.handle with
    | none => (acc.1 ++ [x], acc.2.1, acc.2.2)
    | some q =>
      let r := acc.2.2.fillPages q.ptBase q.pageLog2 (q.writePages x.slot)
      (acc.1 ++ [{ x with ok := r.1 }], acc.2.1 ++ r.2.1, r.2.2)) ([], [], s)

/-- Order 4 for the members that have their frames. -/
def State.cowAll (ps : List Provision) (s : State) : List Provision × List CutFrame × List CutCopy × State :=
  ps.foldl (fun (acc : List Provision × List CutFrame × List CutCopy × State) (x : Provision) =>
    match kfind? acc.2.2.2.requests x.slot.handle with
    | none => (acc.1 ++ [x], acc.2)
    | some q =>
      if !x.ok then (acc.1 ++ [x], acc.2)
      else
        let r := acc.2.2.2.cowPages q.ptBase q.pageLog2 q.committed (q.writePages x.slot)
        (acc.1 ++ [{ x with ok := r.1 }], acc.2.1 ++ r.2.1, acc.2.2.1 ++ r.2.2.1, r.2.2.2)) ([], [], [], s)

/-- A member runs, or it sits out (R154). -/
def State.seat (x : Provision) (s : State) : State :=
  let h := x.slot.handle
  if (kfind? s.requests h).isNone then s
  else if x.ok then s.modReq h (fun q => { q with state := x.st, footbridge := q.footbridge || decide (x.st = .footbridge) })
  else (s.inc 0x040100 1).modReq h (fun q =>
    { q with satOut := true, state := if q.state = .queued then .queued else .sittingOut,
             left := if q.state = .queued then q.left else x.st })

/-- Orders 3 to 5 of Table 5.4 for the members of the batch, and the slots that they make. -/
def State.provision (ps : List Provision) (s : State) : State :=
  let a := s.fillAll ps
  let b := a.2.2.cowAll a.1
  let s := (b.2.2.2.zeroFrames (a.2.1 ++ b.2.1)).copyPages b.2.2.1
  let s := b.1.foldl (fun (s : State) (x : Provision) => s.seat x) s
  { s with tick := { s.tick with slots := b.1.map (fun x =>
      if x.ok then x.slot else { Slot.idle x.slot.handle with sits := true }) } }

/-- The queued requests that the cut at `c` would take in but whose prompt cannot run end at its keystone (R145); each that goes may
let another one up. -/
def State.endTooLong (c : Nat) : Nat → State → State
  | 0, s => s
  | fuel + 1, s =>
    match (s.members c).filter (fun e => decide (e.2.state = .queued ∧ s.maxContext ≤ e.2.promptLen)) with
    | [] => s
    | l => State.endTooLong c fuel (l.foldl (fun (s : State) (e : Nat × Request) =>
        s.modReq e.1 (fun q => { q with ending := some { reason := 0x03, arg1 := 0 } })) s)

/-- The batch at the cut at `c`: a request whose prompt cannot run ends; members are admitted, planned, and given their
frames (orders 6 and 7 of Table 8.3). -/
def State.formBatch (c : Nat) (s : State) : State :=
  let basic := match s.job? with
    | none => false
    | some j => decide (j.basic ≠ 0)
  let s := s.endTooLong c (s.requests.length + 1)
  let hs := (s.members c).map (·.1)
  let s := hs.foldl (fun (s : State) (h : Nat) => s.admitOne h) s
  let planned := hs.foldl (fun (acc : List Provision × Nat) (h : Nat) => match kfind? s.requests h with
    | none => acc
    | some q =>
      let st := q.runState basic
      let r := s.planSlot h st q acc.2
      (acc.1 ++ [{ st := st, slot := r.1, ok := true }], acc.2 - r.2)) ([], s.headOf (·.prefillTokens))
  let s := s.provision planned.1
  s.tick.slots.zipIdx.foldl (fun (s : State) (e : Slot × Nat) =>
    s.modReq e.1.handle (fun q => { q with slotNo := e.2 })) s

/-! ### Attention assignment (R146, R195) -/

/-- The positions that a query at position `p` attends. -/
def Desc.attended (d : Desc) (p : Nat) : Nat := if d.attWindow = 0 then p + 1 else min (p + 1) d.attWindow

/-- The logical spans that serve key-value head `h` of a layer. -/
def State.headList (s : State) (d : Desc) (h : Nat) : List Nat :=
  (((s.bitstream?.bind (fun b => (b.headMaps.find? (fun e => e.1 = d.headMap)).map (·.2))).getD []).getD h [])

/-- L_n of R195 for the slots of the batch that query: (slot, load). -/
def State.attLoads (s : State) (d : Desc) : List (Nat × Nat) :=
  (s.tick.slots.zipIdx.map (fun (e : Slot × Nat) =>
    (e.2, d.gq * ((s.queriesOf d e.1).map (fun p => d.attended p + 1)).sum))).filter (fun e => decide (e.2 ≠ 0))

/-- ρ of the span bound to a logical number; a rate of 0 is taken as 1. -/
def State.rate (s : State) (l : Nat) : Nat := match s.phys? l with
  | none => 256
  | some p => max 1 (s.span p).rho

/-- Whether a/b ≤ c/d. -/
def fracLe (a b c d : Nat) : Bool := decide (a * d ≤ c * b)

/-- The place of a list with the least projected time, ties to the lower index: sums and rates of the places. -/
def leastPlace (sums rates : List Nat) : Nat :=
  (List.range sums.length).foldl (fun b i =>
    if fracLe (sums.getD b 0) (rates.getD b 1) (sums.getD i 0) (rates.getD i 1) then b else i) 0

/-- The greatest projected time of an assignment, as a fraction. -/
def worstTime (sums rates : List Nat) : Nat × Nat :=
  (sums.zip rates).foldl (fun (b : Nat × Nat) e => if fracLe e.1 e.2 b.1 b.2 then b else e) (0, 1)

/-- The moves of one head of a layer (R195). -/
def State.balanceHead (s : State) (i : Nat) (d : Desc) (h : Nat) : List Move :=
  let list := s.headList d h
  let m := list.length
  if m = 0 then []
  else
    let rates := list.map s.rate
    let loads := s.attLoads d
    let zero := List.replicate m 0
    let stat := loads.foldl (fun (a : List Nat) (e : Nat × Nat) => listSet 0 a (e.1 % m) (a.getD (e.1 % m) 0 + e.2)) zero
    let sorted := loads.mergeSort (fun a b => decide (a.2 > b.2 ∨ (a.2 = b.2 ∧ a.1 ≤ b.1)))
    let r := sorted.foldl (fun (acc : List Nat × List (Nat × Nat)) (e : Nat × Nat) =>
      let k := leastPlace acc.1 rates
      (listSet 0 acc.1 k (acc.1.getD k 0 + e.2), acc.2 ++ [(e.1, k)])) (zero, [])
    let a := worstTime r.1 rates
    let b := worstTime stat rates
    if fracLe (16 * a.1) a.2 (15 * b.1) b.2 then
      (r.2.filter (fun e => decide (e.2 ≠ e.1 % m))).map (fun e => { desc := i, head := h, slot := e.1, span := list.getD e.2 0 })
    else []

/-- Load balancing at a cut (order 8). -/
def State.balance (s : State) : State :=
  let cold := match s.job? with
    | none => true
    | some j => decide (j.committedTicks < s.headOf (·.balCold))
  let on := (s.plan?.map (·.head.balEn)).getD false && !s.fixed && !cold
  let layers := ((s.plan?.map (·.layers)).getD []).zipIdx.filter (fun e => e.1.attEn)
  let moves := if on then layers.flatMap (fun (e : Desc × Nat) => (List.range e.1.nKv).flatMap (fun h => s.balanceHead e.2 e.1 h))
    else []
  let s := moves.foldl (fun (s : State) (m : Move) => match s.phys? m.span with
    | none => s
    | some p => s.modSpan p (Span.inc 0x32C 1)) s
  let w := fieldAt 31 1 (bit ((s.plan?.map (·.head.balEn)).getD false && !s.fixed)) + fieldAt 30 1 (bit cold)
    + fieldAt 29 1 (bit (!moves.isEmpty)) + fieldAt 16 8 (min 255 ((s.job?.map (·.committedTicks)).getD 0))
    + min 65535 moves.length
  { s with tick := { s.tick with moves := moves, balWord := BitVec.ofNat 32 w } }

/-- The logical span that computes head `h` of layer `i` for a batch slot. -/
def State.attSpan (s : State) (i : Nat) (d : Desc) (h slot : Nat) : Option Nat :=
  match s.tick.moves.find? (fun m => decide (m.desc = i ∧ m.head = h ∧ m.slot = slot)) with
  | some m => some m.span
  | none =>
    let list := s.headList d h
    if list.isEmpty then none else list[slot % list.length]?

/-- An assignment entry (R286). -/
def assignEntry (slot head first count : Nat) : Nat :=
  fieldAt 0 12 slot + fieldAt 12 6 head + fieldAt 18 20 first + fieldAt 38 20 (count - 1)

/-- The entry of a place that no pair needs: it names no query. -/
def assignNone : Nat := assignEntry 0 0 0xFFFFF 1

/-- The entries of layer `i` for logical span `l`, in slot and then head order. -/
def State.assignOf (s : State) (i l : Nat) : List Nat := match s.desc? i with
  | none => []
  | some d => s.tick.slots.zipIdx.flatMap (fun (e : Slot × Nat) =>
      let n := (s.queriesOf d e.1).length
      if n = 0 then []
      else ((List.range d.nKv).filter (fun h => s.attSpan i d h e.2 = some l)).map (fun h => assignEntry e.2 h 0 n))

/-- A list of `n` entries as granules, four to a granule. -/
def assignGranules (n : Nat) (es : List Nat) : List (BitVec 256) :=
  let at_ (k : Nat) : Nat := if k < n then es.getD k assignNone else 0
  (List.range (cdiv n 4)).map (fun g => BitVec.ofNat 256 (((List.range 4).map (fun k => at_ (4 * g + k) * 2 ^ (64 * k))).sum))

/-- The granules of the assignment lists that the program of logical span `l` names. -/
def State.listGranules (s : State) (l : Nat) : List (Nat × BitVec 256) :=
  ((s.plan?.map (fun pl => pl.lists l)).getD []).flatMap (fun (x : Nat × Nat × Nat) =>
    (assignGranules x.2.2 (s.assignOf x.1 l)).zipIdx.map (fun g => (x.2.1 + g.2, g.1)))

/-- The pier writes the assignment lists where the spans' programs name them, but for granules of preloaded ranges (R318). -/
def State.writeLists (s : State) : State :=
  s.binding.foldl (fun (s : State) (e : Nat × Nat) =>
    let x := s.span e.2
    s.modSpan e.2 (Span.writeG (((s.listGranules e.1).filter (fun g => !x.preloaded g.1)).map (fun g => (g.1, g.2, false))))) s

/-- A list that meets a preloaded range is a program fault of its span in the run that begins (R318). -/
def State.faultLists (s : State) : State :=
  s.binding.foldl (fun (s : State) (e : Nat × Nat) =>
    let x := s.span e.2
    if (s.listGranules e.1).any (fun g => x.preloaded g.1) then s.progFault e.1 e.2 0x03 x.seq.pc else s) s

/-- The items of phase 1 in a lock-step pair (R536): for every batch slot its handle, committed length, FB_LEN and the
positions planned. -/
def State.foldBatch (s : State) : State :=
  s.tick.slots.zipIdx.foldl (fun (s : State) (e : Slot × Nat) => match kfind? s.requests e.1.handle with
    | none => s
    | some q => s.foldItem 1 0xFFF 0xFD (natToBytes 8 e.2) (natToBytes 4 e.1.handle ++ natToBytes 4 q.committed
        ++ natToBytes 4 q.fbLen ++ natToBytes 4 e.1.positions.length ++ natToBytes 4 e.1.fbPositions.length)) s

end Sys2Proof.Machine
end

