-- ==== Sys2Proof/Machine/Cells.lean ====
section
/-! DEFINITION. The exact integer arithmetic of the cells (chapter 03): pass width, plane conversion, plane-mode,
lookup-mode and transpose-mode terms, plane skipping, the ceiling cycle of prediction, and cycle counts. -/

namespace Sys2Proof.Machine
open Sys2Proof

/-- What one depth position of a pass holds for one row position: the G stored tiles of the cell and the G segments
they consume (R70). In a K-of-16 layer G tiles stand side by side, one for each segment. -/
abbrev CellFeed := List (TileMask × Segment)

/-- The width W of a pass: the greatest W among its segments (R73). -/
def passWidth (segs : List Segment) : Nat := (segs.map (fun s => segW s.scale)).foldl max 1

/-- Plane b of a segment after the conversion of R73 to a pass of width `w`. -/
def convPlane (w : Nat) (s : Segment) (b : Nat) : BitVec 256 :=
  let ws := segW s.scale
  if w = 1 then segPlane s 0
  else if ws ≥ 2 then segPlane s (min b (ws - 1))
  else if b = 0 then BitVec.allOnes 256
  else segPlane s 0

/-- Whether a converted plane of a segment is all zero, decided from ZF (R83). -/
def convPlaneZero (w : Nat) (s : Segment) (b : Nat) : Bool :=
  let ws := segW s.scale
  if ws ≥ 2 then segZF s.scale (min b (ws - 1))
  else if w ≥ 2 && b = 0 then false
  else segZF s.scale 0

/-- Whether plane b of a pass is skipped (R83): never in a pass of width 1. -/
def planeSkipped (skipEn : Bool) (w : Nat) (segs : List Segment) (b : Nat) : Bool :=
  skipEn && decide (w ≥ 2) && segs.all (fun s => convPlaneZero w s b)

/-- s_b of R73: −1 for the top plane of a pass of width 2 or more. -/
def planeSign (w b : Nat) : Int := if w ≥ 2 ∧ b = w - 1 then -1 else 1

/-- Σ_k popcount(mask ∩ block k) · 2^(D_k) over the eight blocks of a segment. -/
def shiftedCount (m : BitVec 256) (shifts : List Nat) : Nat :=
  ((List.range 8).map (fun k => popc (m.extractLsb' (32 * k) 32) * 2 ^ shifts.getD k 0)).sum

/-- The eight block shifts of a segment against the reference VEC_E (R55). -/
def segShifts (vecE : Int) (s : Segment) : List Nat := (List.range 8).map (blockShift vecE s.scale)

/-- The term of one row of one stored tile for plane b (R74, R75), before the plane weight. -/
def rowCount (vecE : Int) (w b r : Nat) (t : TileMask) (s : Segment) : Int :=
  let a := convPlane w s b
  let p := t.pos.getD r 0#256
  let n := t.neg.getD r 0#256
  let sh := segShifts vecE s
  let cnt (x : BitVec 256) : Int := (shiftedCount (p &&& x) sh : Int) - shiftedCount (n &&& x) sh
  if w = 1 then cnt (~~~a) - cnt a else cnt a

/-- SHIFT and PSIGN of a plane entry applied to a tree sum (R75). -/
def entryTerm (e : PlaneEntry) (t : Int) : Int :=
  let s := t * 2 ^ e.shift
  if e.psign then -s else s

/-- The 16 additions of plane b at one row position (R75): one for each row of the cell. -/
def planeTerms (e : PlaneEntry) (vecE : Int) (w b : Nat) (feeds : List CellFeed) : List Int :=
  (List.range 16).map (fun r =>
    let t := (feeds.flatMap (fun f => f.map (fun ts => rowCount vecE w b r ts.1 ts.2))).sum
    entryTerm e (planeSign w b * (t * 2 ^ b)))

/-- The 16 additions of read cycle c of lookup mode at one row position (R80, R82). -/
def lookupTerms (e : PlaneEntry) (vecE : Int) (c : Nat) (feeds : List CellFeed) : List Int :=
  (List.range 16).map (fun r =>
    let t := (feeds.flatMap (fun f => f.map (fun ts =>
      ((List.range 64).map (fun i =>
        let j := 64 * c + i
        ts.1.trit r j * segCode ts.2 (j / 32) (j % 32) * 2 ^ blockShift vecE ts.2.scale (j / 32))).sum))).sum
    entryTerm e t)

/-- The input at which row `r` of a cell holds kept-weight slot `s`, over its G stored tiles in input order (R78). DESIGN CHOICE
(log entry 37): where a mask has fewer than K bits, the kept weights of the row are packed without gaps. -/
def keptSlots (tiles : List TileMask) (r : Nat) : List Nat :=
  (List.range (256 * tiles.length)).filter (fun j => decide ((tiles.getD (j / 256) TileMask.zero).trit r (j % 256) ≠ 0))

/-- The cycle, 0 to 3, in which row `r` of a cell adds into column `j` in transpose mode (R85, R86). -/
def transposeCycle (tiles : List TileMask) (r j : Nat) : Nat :=
  if tiles.length ≤ 1 then j / 64 else ((keptSlots tiles r).idxOf j) / 64

/-- The gradient plane bit of slice row `row` in a vector of segments (R85). -/
def gradBit (w b : Nat) (grad : List Segment) (row : Nat) : Bool :=
  match grad[row / 256]? with
  | none => false
  | some s => (convPlane w s b).getLsbD (row % 256)

/-- The block shift of the gradient block that holds slice row `row`. -/
def gradShift (vecE : Int) (grad : List Segment) (row : Nat) : Nat :=
  match grad[row / 256]? with
  | none => 0
  | some s => blockShift vecE s.scale (row % 256 / 32)

/-- The additions of cycle `c` of plane b for the columns of one depth position in transpose mode (R85, R86):
`cells` are the tiles at each row position with their first slice row. Width 1 counts as R74 does. -/
def transposeTerms (e : PlaneEntry) (vecE : Int) (w b c cols : Nat) (grad : List Segment)
    (cells : List (Nat × List TileMask)) : List Int :=
  (List.range cols).map (fun j =>
    let t := (cells.flatMap (fun cell => (List.range 16).map (fun r =>
      let tr := (cell.2.getD (j / 256) TileMask.zero).trit r (j % 256)
      if tr = 0 ∨ transposeCycle cell.2 r j ≠ c then (0 : Int)
      else
        let g := gradBit w b grad (cell.1 + r)
        let v : Int := if w = 1 then (if g then -1 else 1) else (if g then 1 else 0)
        tr * v * 2 ^ gradShift vecE grad (cell.1 + r)))).sum
    entryTerm e (planeSign w b * (t * 2 ^ b)))

/-- The ceiling cycle of R179 at one row position: C_r for each of the 16 rows. -/
def ceilingTerms (vecE : Int) (feeds : List CellFeed) : List Int :=
  (List.range 16).map (fun r =>
    ((feeds.flatMap (fun f => f.map (fun ts => (shiftedCount (ts.1.pos.getD r 0#256) (segShifts vecE ts.2) : Int)))).sum))

/-- The planes a pass of width `w` runs, from the most significant down, skipped planes left out (R75, R83). -/
def runPlanes (skipEn : Bool) (w : Nat) (segs : List Segment) : List Nat :=
  ((List.range w).reverse).filter (fun b => !planeSkipped skipEn w segs b)

/-- Blocks of a pass that break the alignment of R54, each counted once (R55). -/
def alignErrors (vecE : Int) (f0 : Nat) (segs : List Segment) : Nat :=
  (segs.map (fun s => ((List.range 8).filter (fun k => blockMisaligned vecE f0 s.scale k)).length)).sum

/-- The amount the column tap adds for an outlier of value `y` at a trit `w` of plane entry `e`, in units of the line: the weight
is the trit with the entry's SHIFT and PSIGN (R48, R132). -/
def tapTerm (e : PlaneEntry) (w : Int) (y : Lns) (u : Int) : Int :=
  if y.zero then 0
  else
    let m : Int := antilogRound (y.lam - 64 * u)
    entryTerm e (w * (if y.neg then -m else m))

/-- What a scattered entry adds for value `v` with route weight `g` (R189). -/
def scatTerm (v g : Lns) (u : Int) : Int :=
  if v.zero || g.zero then 0
  else
    let m : Int := antilogRound (v.lam + g.lam - 64 * u)
    if v.neg != g.neg then -m else m

/-- The issue-to-accumulator latency of Table 3.3 for a cell mode and a tile shape (R89). -/
def cellLatency (cmode tshape : Nat) : Nat :=
  let s := tileShape tshape
  if cmode = 1 then 6 + clog2 s.1 else if cmode = 2 then 5 + clog2 s.2 else 5 + clog2 s.1

end Sys2Proof.Machine
end

