-- ==== Sys2Proof/Machine/Weights.lean ====
section
/-! DEFINITION. Layers and tiles on a span (R70, R71, R94, R101, R278, R279, R281, R282): LAYER and the load of its format
context, the decode of a tile set, poisoned weights, PGATE and AZERO. -/

namespace Sys2Proof.Machine
open Sys2Proof

/-! ### The tile sets of a layer (R70, R71, R279) -/

/-- The cells that take a tile in pass `u` of row group `v`, with gather factor `g`, ascending. -/
def Desc.cellsOf (d : Desc) (g v u : Nat) : List Nat :=
  let sh := tileShape d.tshape
  (List.range 384).filter (fun c => decide ((u * sh.1 + c % sh.1) * g < d.inSegs) && decide (sh.2 * v + c / sh.1 < d.slice16))

/-- Plane entry `e` of a layer. -/
def Desc.entryOf (d : Desc) (e : Nat) : PlaneEntry := d.planeEntries.getD e { wfmt := .pack5, shift := 0, psign := false }

/-- A tile set and its place in the layer. -/
structure TilePlace where
  e : Nat
  v : Nat
  u : Nat
  fmt : WFmt
  g : Nat
  cells : List Nat
deriving DecidableEq, Repr

/-- The place of tile set `n`. -/
def Desc.placeOf (d : Desc) (n : Nat) : TilePlace :=
  let t := d.tileSet n
  let f := (d.entryOf t.1).wfmt
  let g := wfmtGather f
  { e := t.1, v := t.2.1, u := t.2.2, fmt := f, g := g, cells := d.cellsOf g t.2.1 t.2.2 }

/-- Bytes of a tile set in a fixed-size format: each cell takes `g` stored tiles (R78). -/
def TilePlace.fixedBytes (t : TilePlace) : Nat := t.cells.length * t.g * wfmtTileBytes t.fmt

/-- Granules of the index entries of a ZRL tile set. -/
def TilePlace.indexGranules (t : TilePlace) : Nat := cdiv (4 * (t.cells.length + 1)) 32

/-- Index entry `n` of a ZRL tile set. -/
def zrlIndex (bs : List Byte) (n : Nat) : Nat := leAt bs (4 * n) 4

/-- Where block `n` of a ZRL tile set begins, in bytes from SRC. -/
def TilePlace.blockAt (t : TilePlace) (bs : List Byte) (n : Nat) : Nat :=
  32 * t.indexGranules + 4 * zrlIndex bs n - 4 * zrlIndex bs 0

/-- The bytes of granules of a deck store, in order. -/
def Span.bytesOf (gs : List Nat) (x : Span) : List Byte := gs.flatMap (fun g => x.deckBytes g 1)

/-- The granules that a tile set occupies from SRC: none when one lies past the deck store. -/
def Span.setGranules (ix : Ix) (src : Nat) (t : TilePlace) (x : Span) : Option (List Nat) :=
  if t.fmt = WFmt.zrl then
    match ix.addrs src t.indexGranules with
    | none => none
    | some is =>
      let bs := x.bytesOf is
      let n := cdiv (4 * (zrlIndex bs t.cells.length - zrlIndex bs 0)) 32
      ix.addrs src (t.indexGranules + n)
  else ix.addrs src (cdiv t.fixedBytes 32)

/-- Whether a byte range of a tile set meets a poisoned granule. -/
def Span.poisonIn (gs : List Nat) (a n : Nat) (x : Span) : Bool :=
  (List.range (cdiv (a % 32 + n) 32)).any (fun i => match gs[a / 32 + i]? with
    | none => false
    | some g => x.poison.contains g)

/-- What the decoder delivers for a tile set: the tiles of each cell, the decode counts, and the tiles delivered as zeros for
poison (R94). -/
structure Decoded where
  tiles : List (Nat × List TileMask)
  counts : TileCounts
  poisoned : Nat
deriving DecidableEq, Repr

/-- One stored tile at a byte range, its decode counts, and 1 when it is poisoned. -/
def Span.storedTile (x : Span) (gs : List Nat) (bs : List Byte) (t : TilePlace) (n : Nat) : TileMask × TileCounts × Nat :=
  if t.fmt = WFmt.zrl then
    let a := t.blockAt bs n
    let i0 := zrlIndex bs n
    let i1 := zrlIndex bs (n + 1)
    let ext : Option Nat := if i1 < i0 then none else some (i1 - i0)
    if x.poisonIn gs a (max 1 (4 * (i1 - i0))) || x.poisonIn gs (4 * n) 8 || x.poisonIn gs 0 4 then (TileMask.zero, {}, 1)
    else
      let r := decodeZrlBlock (bs.drop a) ext
      (r.1, r.2, 0)
  else
    let b := wfmtTileBytes t.fmt
    if x.poisonIn gs (b * n) b then (TileMask.zero, {}, 1)
    else
      let r := decodeTile t.fmt (byteSlice bs (b * n) b)
      (r.1, r.2, 0)

/-- Decode a tile set from its granules. -/
def Span.decodeSet (x : Span) (gs : List Nat) (t : TilePlace) : Decoded :=
  let bs := x.bytesOf gs
  let l := t.cells.zipIdx.map (fun (c : Nat × Nat) =>
    (c.1, (List.range t.g).map (fun j => x.storedTile gs bs t (c.2 * t.g + j))))
  let all := l.flatMap (·.2)
  { tiles := l.map (fun c => (c.1, c.2.map (·.1))), counts := all.foldl (fun a r => a.add r.2.1) {},
    poisoned := (all.map (·.2.2)).sum }

/-- Count what a decode met (R67, R94). -/
def Span.countDecode (r : Decoded) (x : Span) : Span :=
  ((((x.inc 0x200 r.counts.pack5).inc 0x204 r.counts.drop).inc 0x208 r.counts.pat7).inc 0x20C r.counts.zrl).inc 0x254 r.poisoned

/-! ### Poison (R94, R356, R504) -/

/-- The weight extent of a layer on a logical span, with its record number. -/
def State.extentOf (s : State) (d : Desc) (l : Nat) : Option (Nat × WExtent) :=
  (s.bitstream?.bind (fun b => b.weights.zipIdx.find? (fun e => decide (e.1.wl = d.wlIndex ∧ e.1.lspan = l)))).map
    (fun e => (e.2, e.1))

/-- The hot-set entry that an extent lies in. -/
def State.extentEntry? (s : State) (w : WExtent) : Option Nat :=
  s.job?.bind (fun j => if w.entry = 1 then j.fbEntry else j.entry)

/-- A directory entry of a ZRL extent (R349): a granule offset from the extent's start. -/
def State.zrlDir (s : State) (h : HotEntry) (w : WExtent) (n : Nat) : Nat :=
  bytesToNat ((List.range 4).map (fun i => s.memByte (s.entryAddr h (w.offset + 4 * n + i))))

/-- The granules, counted from the entry's base, that hold tile set `n` of a layer's extent (R349, R504). -/
def State.tileGranules (s : State) (d : Desc) (w : WExtent) (h : HotEntry) (n : Nat) : List Nat :=
  let t := d.placeOf n
  if t.fmt = WFmt.zrl then
    let a := s.zrlDir h w n
    (List.range (s.zrlDir h w (n + 1) - a)).map (fun i => w.offset / 32 + a + i)
  else
    let first := w.offset + ((List.range n).map (fun k => (d.placeOf k).fixedBytes)).sum
    (List.range (cdiv (first % 32 + t.fixedBytes) 32)).map (fun i => first / 32 + i)

/-- The record number of the extent that holds a granule of an entry. -/
def HotEntry.extentAt (x : HotEntry) (g : Nat) : Option Nat :=
  x.extents.findIdx? (fun e => decide (e.1 ≤ 32 * g ∧ 32 * g < e.1 + 32 * e.2))

/-- The sources of a re-fetch in order (R504): the mirror, each VALID peer, the installing host. A poisoned mirror has the
primary copy alone. -/
def State.repairSources (s : State) (r : Repair) : List RefetchSource :=
  if r.mirror then [.mirror]
  else (if (s.entry r.entry).mirrored then [.mirror] else [])
    ++ ((List.finRange 4).filter (fun n => s.regb (0x0B0020 + 4 * n.val) 31)).map RefetchSource.peer
    ++ (if s.regb 0x0B000C 30 then [.host] else [])

/-- When a peer is the source to try, it is asked for the one extent (R480): a KIND 1 landing and an EXT_REQ. -/
def State.askPeer (r : Repair) (s : State) : State :=
  let x := s.entry r.entry
  match (s.repairSources r)[r.source]?, x.extentAt (r.granules.headD 0) with
  | some (.peer n), some i =>
    let lid := (firstBelow 4096 (fun k => (kfind? s.landings k).isNone)).getD 0
    let chip := s.regf (0x0B0020 + 4 * n.val) 0 14
    let req := s.via.nextHoId
    let g : Landing := { kind := .entry, base := r.entry, first := i, len := 1, read := false, write := true, host := false,
                         port := 0, partition := none, bar4 := 0, expiry := none, since := s.time, wrote := 0 }
    let flow : ExtFlow := { chip := chip, reqId := req, lid := lid, entry := r.entry, first := i, granulesLeft := 0 }
    let s := { s with landings := kins s.landings lid g,
                      via := { s.via with refetch := s.via.refetch ++ [flow], nextHoId := (req + 1) % 65536 } }
    let pay := digestBytes x.digest ++ digestBytes x.layoutDigest ++ natToBytes 4 1 ++ List.replicate 28 0#8
    s.sendTo 0x40 1 chip (req + 65536 * lid + 2 ^ 32 * i) (granulesOf 4 pay)
  | _, _ => s

/-- A poisoned tile set of a layer is reported, and the fault manager is to re-fetch it. The tick breaks once the cells have run
the set with its zero tiles (R94). -/
def State.weightPoison (l p : Nat) (d : Desc) (n : Nat) (s : State) : State :=
  let s := match s.extentOf d l with
    | none => s
    | some (_, w) => match s.extentEntry? w with
      | none => s
      | some e =>
        let r : Repair := { entry := e, granules := s.tileGranules d w (s.entry e) n, source := 0, mirror := false, failed := false }
        if s.flt.repairs.any (fun q => decide (q.entry = e ∧ q.granules = r.granules)) then s
        else { s with flt := { s.flt with repairs := s.flt.repairs ++ [r] } }.askPeer r
  s.spanFault l p 5 0

/-- A unit of a span reads granules: poison in them is a fault. -/
def State.checkPoison (l p : Nat) (gs : List Nat) (s : State) : State :=
  let x := s.span p
  if gs.any (fun g => x.flitPoison.contains g) then s.flitFault l p
  else if gs.any (fun g => x.poison.contains g) then s.dataPoison l p else s

/-! ### Format contexts (R101) -/

/-- A context of the abutment. -/
def Span.ctx (k : Nat) (x : Span) : AbtCtx := kget AbtCtx.none x.abt.ctxs k

/-- Change a context. -/
def Span.modCtx (k : Nat) (f : AbtCtx → AbtCtx) (x : Span) : Span :=
  { x with abt := { x.abt with ctxs := kmod AbtCtx.none x.abt.ctxs k f } }

/-- The context that a tag names (R64). -/
def tagCtx (t : BitVec 8) : Nat := bitsAt t.toNat 7 1
/-- KIND of a tag. -/
def tagKind (t : BitVec 8) : Nat := bitsAt t.toNat 4 3
/-- GEN of a tag. -/
def tagGen (t : BitVec 8) : Nat := bitsAt t.toNat 0 4
/-- Lines tagged with a context and not yet converted. -/
def Span.linesPending (k : Nat) (x : Span) : Nat := x.lines.countP (fun e => e.2.pending && decide (tagCtx e.2.tag = k))

/-- Whether a context is busy at a cycle: from its load until its last line has left stage 8. -/
def Span.ctxBusy (k cyc : Nat) (x : Span) : Bool :=
  let c := x.ctx k
  c.loaded && (c.open_ || decide (0 < x.linesPending k) || x.cells.inflight.any (fun a => decide (tagCtx a.tag = k))
    || x.abt.works.any (fun w => decide (w.ctx = k)) || decide (cyc < c.drainAt))

/-- The width in force for a layer in this tick (R123, R124): WMODE 1 once the layer has run in COLD_TICKS ticks. -/
def Span.layerW (fixed : Bool) (plan i : Nat) (d : Desc) (x : Span) : Nat :=
  if fixed ∨ d.wmode = 0 then d.wPlan
  else match kfind? x.abt.hist (4096 * plan + i) with
    | none => d.wMax
    | some h => if h.ticks < d.coldTicks then d.wMax else ((h.maxes.take d.hist).max?).getD d.wMax

/-- Load a layer's fields into its context. -/
def Span.loadCtx (fixed : Bool) (plan i : Nat) (d : Desc) (at_ : Nat) (open_ waited : Bool) (x : Span) : Span :=
  x.modCtx d.ctx (fun c => { c with loaded := true, desc := i, gen := d.gen, loadedAt := at_, waiting := none,
                                    layerW := if d.wmode = 1 then x.layerW fixed plan i d else 0, open_ := open_,
                                    waited := waited })

/-- A LAYER's request for its context: nothing for a GEN that is loaded; a load in 16 cycles, or a wait for the drain. -/
def Span.askCtx (fixed : Bool) (plan i : Nat) (d : Desc) (cyc : Nat) (x : Span) : Span :=
  let c := x.ctx d.ctx
  if c.loaded ∧ c.gen = d.gen ∧ c.waiting.isNone then x.modCtx d.ctx (fun c => { c with open_ := true })
  else
    let x := { x with abt := { x.abt with ctxs := x.abt.ctxs.map (fun (e : Nat × AbtCtx) => (e.1, { e.2 with open_ := false })) } }
    if x.ctxBusy d.ctx cyc then x.modCtx d.ctx (fun c => { c with waiting := some i })
    else x.loadCtx fixed plan i d (cyc + 16) true false

/-- CONTEXT_LOAD (R101, R102): a context that has drained takes the load that waits for it. -/
def execContextLoad (l : Fin 128) (cyc : Nat) (s : State) : Host.Outcome State Fault Refusal :=
  let s := s.toCyc cyc
  if !s.tick.active then .next s
  else match s.phys? l.val with
    | none => .next s
    | some p =>
      let x := s.span p
      let due := x.abt.ctxs.filterMap (fun (e : Nat × AbtCtx) => if x.ctxBusy e.1 cyc then none else e.2.waiting)
      .next (due.foldl (fun (s : State) (i : Nat) => match s.desc? i with
        | none => s
        | some d => s.modSpan p (Span.loadCtx s.fixed s.tick.plan i d (cyc + 16) (decide ((s.span p).cells.layer = some i)) true)) s)

/-! ### LAYER (R278) -/

/-- LAYER: the descriptor becomes the current layer of the cells. -/
def execLayer (i : Issue) (desc : BitVec 12) (s : State) : Host.Outcome State Fault Refusal :=
  s.present i (.layer · desc) .cells WaitGroup.none noMore (fun c s =>
    let n := desc.toNat + c.ix.d
    match s.desc? n with
    | none => s.faultAt c 0x0A
    | some d => s.modSpan c.p (fun x =>
        let cells := { x.cells with layer := some n, layerSeq := x.cells.layerSeq + 1, gated := false, decoded := [],
                                    running := [(c.cyc, 0, 0)], busyUntil := c.cyc + 1, overBusy := none }
        ({ x with cells := cells }).askCtx s.fixed s.tick.plan n d c.cyc))

/-! ### TLOAD (R279) -/

/-- A buffer that a TLOAD would fill and that is still read. -/
def bufferRead (c : Ctx) (s : State) : Option Why :=
  let x := (s.span c.p).cells
  match kfind? x.bufs x.nextBuf with
  | none => none
  | some b => if c.cyc < b.readUntil then some { kind := .hazard, ctr := 0, counter := 0x34C, cls := .stall } else none

/-- TLOAD: a tile set of the current layer is decoded into the idle buffers, one tile in 4 cycles. -/
def tloadAct (src tset : Nat) (fctr : Option Nat) (deck : DeckUse) (c : Ctx) (s : State) : State :=
  match s.layer? c.p, (s.span c.p).cells.layer with
  | some d, some di =>
    let n := tset + c.ix.d
    let t := d.placeOf n
    let x := s.span c.p
    match x.setGranules c.ix src t with
    | none => s.faultAt c 0x03
    | some gs =>
      let r := x.decodeSet gs t
      let again := x.cells.decoded.any (fun e => decide (e.1 = n))
      let x := (x.readG gs).2
      let x := (x.countDecode r).inc 0x250 (bit again)
      let b : TileBuf := { desc := di, tset := n, src := src, tiles := r.tiles,
                           doneAt := c.cyc + 4 * t.cells.length + deckDelay deck, done := decide (t.cells.length = 0),
                           readUntil := 0, fctr := fctr.map (fun f => (f, gs.length)), poisoned := decide (0 < r.poisoned) }
      let cells := { x.cells with bufs := kins x.cells.bufs x.cells.nextBuf b, nextBuf := 1 - x.cells.nextBuf,
                                  decoded := kins x.cells.decoded n gs }
      let s := s.setSpan c.p { x with cells := cells }
      let s := match fctr with
        | some f => if t.cells.length = 0 then s.ctrAdd c.cyc c.l f gs.length else s
        | none => s
      let s := if r.poisoned = 0 then s
        else if gs.any (fun g => x.flitPoison.contains g) then s.flitFault c.l c.p else s.weightPoison c.l c.p d n
      s.deckUse c.l c.p deck
  | _, _ => s.faultAt c 0x0A

/-- TLOAD. -/
def execTload (i : Issue) (w : WaitGroup) (src : BitVec 17) (tset : BitVec 15) (fen : Bool) (fctr : BitVec 5)
    (deck : DeckUse) (s : State) : Host.Outcome State Fault Refusal :=
  s.present i (.tload · w src tset fen fctr .clean) .decoder w bufferRead
    (tloadAct src.toNat tset.toNat (if fen then some fctr.toNat else none) deck)

/-- TLOAD_DONE: a decode whose time has come completes, and raises its counter by the granules of its set. -/
def execTloadDone (l : Fin 128) (cyc : Nat) (s : State) : Host.Outcome State Fault Refusal :=
  let s := s.toCyc cyc
  if !s.tick.active then .next s
  else match s.phys? l.val with
    | none => .next s
    | some p =>
      let due := (s.span p).cells.bufs.filter (fun (b : Nat × TileBuf) => !b.2.done && decide (b.2.doneAt ≤ cyc))
      .next (due.foldl (fun (s : State) (b : Nat × TileBuf) =>
        let s := s.modSpan p (fun x => { x with cells := { x.cells with bufs := kins x.cells.bufs b.1 { b.2 with done := true } } })
        match b.2.fctr with
        | none => s
        | some f => s.ctrAdd cyc l.val f.1 f.2) s)

/-! ### PGATE and AZERO (R281, R282) -/

/-- PGATE: the prediction bits of the current layer are armed. -/
def execPgate (i : Issue) (w : WaitGroup) (s : State) : Host.Outcome State Fault Refusal :=
  s.present i (.pgate · w) .cells w noMore (fun c s => match s.layer? c.p with
    | none => s.faultAt c 0x0A
    | some d =>
      if !d.predEn || s.fixed then s.faultAt c 0x06
      else s.modSpan c.p (fun x => { x with cells := { x.cells with gated := true, busyUntil := c.cyc + 1, overBusy := none } }))

/-- AZERO: lines are set to zero, their tags, units and pending state cleared. -/
def execAzero (i : Issue) (line0 : BitVec 12) (nlines : BitVec 13) (s : State) : Host.Outcome State Fault Refusal :=
  s.present i (.azero · line0 nlines) .cells WaitGroup.none noMore (fun c s =>
    let a := line0.toNat + c.ix.l
    let n := nlines.toNat
    if (s.layer? c.p).isNone then s.faultAt c 0x0A
    else if a + n > 4096 then s.faultAt c 0x04
    else s.modSpan c.p (fun x =>
      let lines := x.lines.filter (fun (e : Nat × Line) => !(decide (a ≤ e.1) && decide (e.1 < a + n)))
      { x with lines := lines,
               cells := { x.cells with busyUntil := c.cyc + cdiv n 16, zeroing := some (a, n, c.cyc + cdiv n 16),
                                       overBusy := none } }))

end Sys2Proof.Machine
end

