-- ==== Sys2Proof/Machine/Runs.lean ====
section
/-! DEFINITION. The runs of the cells (R73 to R93, R177 to R185, R280, R281): PRUN, LRUN and TRUN, column taps, prediction
and its make-up, and the landing of additions. -/

namespace Sys2Proof.Machine
open Sys2Proof

/-! ### Sequences and their segments (R55, R275, R280) -/

/-- The sequence list of a span: its own, or the identity list of the batch. -/
def State.seqList (s : State) (p : Nat) : List Nat := ((s.span p).seq.blist).getD (List.range s.tick.slots.length)

/-- The list positions that an instruction takes from SEQ0. -/
def State.positions (s : State) (p seq0 nseq : Nat) : List Nat :=
  (List.range (min nseq ((s.seqList p).length - seq0))).map (fun i => seq0 + i)

/-- Whether a list position names a slot at or above the batch size. -/
def State.badList (s : State) (p : Nat) (ks : List Nat) : Bool :=
  ks.any (fun k => decide (s.tick.slots.length ≤ (s.seqList p).getD k 0))

/-- Where a run reads segment `m` of list position `k`: granules from ABASE. -/
def segOff (a : RunArgs) (d : Desc) (seq0 k m : Nat) : Nat := (k - seq0) * a.sstride.toNat + m * d.aseg

/-- A segment in the deck store, with the addresses of its scale granule and of its planes. -/
def Span.segment? (ix : Ix) (abase off : Nat) (x : Span) : Option (Segment × Nat × List Nat) :=
  match ix.addr abase off with
  | none => none
  | some g =>
    let sc := x.granule g
    match (List.range (segW sc)).mapM (fun b => ix.addr abase (off + 1 + b)) with
    | none => none
    | some ps => some ({ scale := sc, planes := ps.map x.granule }, g, ps)

/-- What one pass of one sequence is fed: its segments from first to last with their addresses, and the reference of R55 with
the address of the granule that holds it. -/
structure PassFeed where
  segs : List Segment
  vecE : Int
  f0 : Nat
  unit : BitVec 12
  ref : Nat
  places : List (Nat × List Nat)
deriving DecidableEq, Repr

/-- The reference of an input vector: VEC_E and f_0 of its segment 0. -/
def refOf (g : BitVec 256) : Int × Nat := (segVecE g, segF g 0)

/-- The unit that the sums of a vector carry (R97). -/
def refUnit (r : Int × Nat) : BitVec 12 := BitVec.ofInt 12 (16 * r.1 + r.2)

/-- Segments `m0` to `m0 + n − 1` of list position `k`. -/
def Span.passFeed (ix : Ix) (a : RunArgs) (d : Desc) (seq0 k m0 n : Nat) (x : Span) : Option PassFeed :=
  match ix.addr a.abase.toNat (segOff a d seq0 k 0),
        (List.range n).mapM (fun i => x.segment? ix a.abase.toNat (segOff a d seq0 k (m0 + i))) with
  | some r, some l =>
    let ref := refOf (x.granule r)
    some { segs := l.map (·.1), vecE := ref.1, f0 := ref.2, unit := refUnit ref, ref := r, places := l.map (·.2) }
  | _, _ => none

/-- The scale granules that the feeder reads before the planes of a pass (R84). -/
def PassFeed.scales (f : PassFeed) : List Nat := (f.ref :: f.places.map (·.1)).eraseDups

/-- The granules that the feeder reads for plane `b` of a pass of width `w`: the planes that R73 converts to it (R84). -/
def PassFeed.planeReads (f : PassFeed) (w b : Nat) : List Nat :=
  f.places.flatMap (fun e =>
    let ws := e.2.length
    if w ≥ 2 ∧ ws = 1 ∧ b = 0 then [] else (e.2.drop (min b (ws - 1))).take 1)

/-- The granules that a pass of width `w` reads for the planes that it issues. -/
def PassFeed.reads (f : PassFeed) (w : Nat) (planes : List Nat) : List Nat := f.scales ++ planes.flatMap (f.planeReads w)

/-- The granules that the table builder reads in lookup mode: every plane of every segment once. -/
def PassFeed.tableReads (f : PassFeed) : List Nat := f.scales ++ f.places.flatMap (·.2)

/-- The segments of a pass: the first, and how many. -/
def Desc.passSegs (d : Desc) (g u : Nat) : Nat × Nat :=
  let n := (tileShape d.tshape).1 * g
  (u * n, min n (d.inSegs - u * n))

/-- What the cells at row position `y` are fed: each cell's tiles with their segments. -/
def rowFeeds (depth g y : Nat) (tiles : List (Nat × List TileMask)) (segs : List Segment) : List CellFeed :=
  tiles.filterMap (fun (c : Nat × List TileMask) =>
    if c.1 / depth = y then some (c.2.zip ((segs.drop (c.1 % depth * g)).take g)) else none)

/-- The row positions that take tiles. -/
def rowPositions (depth : Nat) (tiles : List (Nat × List TileMask)) : List Nat := (tiles.map (fun c => c.1 / depth)).eraseDups

/-! ### Lines (R76, R87, R97, R293) -/

/-- What a run names as the owner of its lines: the LAYER, the row group and the sub-batch (R76). -/
def ownerOf (layerSeq v seq0 : Nat) : Nat := (layerSeq * 8192 + v) * 8192 + seq0 + 1

/-- The line of row position `y` of row group `v` for list position `k`. -/
def Desc.lineOf (d : Desc) (seq0 k v y : Nat) : Nat :=
  d.accBase + (k - seq0) * d.linesPerSeq + ((tileShape d.tshape).2 * v + y) % max 1 d.linesPerSeq

/-- The line of 16 output columns from column `16 j` in transpose mode. -/
def Desc.lineT (d : Desc) (seq0 k j : Nat) : Nat := d.accBase + (k - seq0) * d.linesPerSeq + j % max 1 d.linesPerSeq

/-- Whether the attention in progress is to write a line in a range. -/
def Span.attLines (line0 n : Nat) (x : Span) : Bool := match x.att with
  | none => false
  | some w => decide (w.line0 < line0 + n ∧ line0 < w.line0 + w.nlines)

/-- Whether additions to a line in a range are in flight, or on their way from the arch lanes. -/
def Span.landing (line0 n : Nat) (x : Span) : Bool :=
  x.cells.inflight.any (fun a => decide (line0 ≤ a.line ∧ a.line < line0 + n)) || x.attLines line0 n

/-- Whether a line's sums wait for the abutment and belong to other work than `owner` (Table 9.9). -/
def Span.lineHeld (owner line : Nat) (x : Span) : Bool :=
  let ln := kget Line.zero x.lines line
  (ln.pending && decide (ln.owner ≠ owner)) || x.cells.inflight.any (fun a => decide (a.line = line ∧ a.owner ≠ owner) && !a.check)
    || x.attLines line 1

/-- One addition lands in a line: the line after it, the saturating additions and whether its unit differs (R60, R76, R97). -/
def Line.take (a : Addition) (ln : Line) : Line × Nat × Nat :=
  let ln := if a.owner ≠ ln.owner && !a.keep then Line.zero else ln
  let differs := ln.hasUnit && decide (ln.unit ≠ a.unit)
  let ln := if ln.hasUnit then ln
    else { ln with tag := a.tag, unit := a.unit, hasUnit := true, rowGroup := a.rowGroup, desc := a.desc }
  let r := (ln.acc.zip (a.terms ++ List.replicate (16 - a.terms.length) 0)).map (fun e => satAdd32 e.1 e.2)
  let sat := r.countP (·.2)
  ({ ln with acc := r.map (·.1), owner := a.owner, pending := ln.pending || !a.check,
             saturated := ln.saturated || decide (0 < sat) }, sat, bit differs)

/-- An addition lands in its span. -/
def Span.landOne (a : Addition) (x : Span) : Span :=
  let r := (kget Line.zero x.lines a.line).take a
  (({ x with lines := kset Line.zero x.lines a.line r.1 }.inc 0x210 (if a.check then 0 else r.2.1)).inc 0x2A8
    (if a.check then 0 else r.2.2))

/-! ### Column taps (R131, R132, R180) -/

/-- The entries of a segment's outlier area in slot order: value index, LNS16 value, and whether the slot is an overflow
slot. -/
def outlierEntries (gs : List (BitVec 256)) : List (Nat × BitVec 16 × Bool) :=
  let g0 := (gs.getD 0 0#256).toNat
  let stream := bytesToNat ((gs.drop 1).flatMap (fun g => natToBytes 32 g.toNat))
  let slot (i : Nat) : Nat × BitVec 16 := (bitsAt stream (24 * i + 16) 8, BitVec.ofNat 16 (bitsAt stream (24 * i) 16))
  ((List.range 8).flatMap (fun k => (List.range (min 8 (bitsAt g0 (4 * k) 4))).map (fun i =>
    let e := slot (8 * k + i)
    (e.1, e.2, false))))
  ++ ((List.range (min 32 (bitsAt g0 32 6))).map (fun i =>
    let e := slot (64 + i)
    (e.1, e.2, true)))

/-- Where the outlier area of segment `m` of list position `k` lies (R131): segments count through the list. -/
def Desc.outlArea (d : Desc) (k m : Nat) : Nat := d.outlBase + 10 * (k * d.inSegs + m)

/-- The taps of a pass for a list position: segment within the pass, value index, value, overflow; none when an area lies past
the deck store. The areas lie at OUTL_BASE of the descriptor, which no index moves (R131). -/
def Span.taps (d : Desc) (k m0 n : Nat) (x : Span) : Option (List (Nat × Nat × BitVec 16 × Bool)) :=
  if !d.outlEn then some []
  else if deckGranules < d.outlArea k (m0 + n) then none
  else some ((List.range n).flatMap (fun i =>
    (outlierEntries ((List.range 10).map (fun j => x.granule (d.outlArea k (m0 + i) + j)))).map (fun e => (i, e.1, e.2.1, e.2.2))))

/-- The trits that a tap meets at row position `y`, row by row. -/
def tapTrits (depth g y : Nat) (tiles : List (Nat × List TileMask)) (e : Nat × Nat × BitVec 16 × Bool) : List Int :=
  let c := y * depth + e.1 / g
  let t := (((kfind? tiles c).getD []).getD (e.1 % g) TileMask.zero)
  (List.range 16).map (fun r => t.trit r e.2.1)

/-! ### Prediction (R177 to R185) -/

/-- Whether the layer's rows are predicted in this job (R178). -/
def State.predicted (s : State) (d : Desc) : Bool := d.predEn && !s.fixed

/-- The prediction bit of a list position and row group: bit `v` of the position's bits at PRED_MASK_BASE. -/
def Span.predBit (d : Desc) (k v : Nat) (x : Span) : Bool :=
  (x.granule (d.predMaskBase + k * cdiv d.rowGroups 256 + v / 256)).getLsbD (v % 256)

/-- The greatest width of a whole input vector. -/
def Span.vectorWidth (ix : Ix) (a : RunArgs) (d : Desc) (seq0 k : Nat) (x : Span) : Nat :=
  ((List.range d.inSegs).map (fun m => match ix.addr a.abase.toNat (segOff a d seq0 k m) with
    | none => 1
    | some g => segW (x.granule g))).foldl max 1

/-- A pair of the current LAYER. -/
def Span.pair? (k v : Nat) (x : Span) : Option PredPair :=
  x.cells.pairs.find? (fun q => decide (q.run = x.cells.layerSeq ∧ q.pos = k ∧ q.v = v))

/-- Enter a pair of a predicted layer the first time that a pass of its row group takes it. -/
def Span.enterPair (ix : Ix) (a : RunArgs) (d : Desc) (seq0 n v k : Nat) (x : Span) : Span :=
  if (x.pair? k v).isSome then x
  else
    let w := x.vectorWidth ix a d seq0 k
    let full := x.predBit d k v || decide (w < 4)
    let before := x.cells.pairs.countP (fun q => decide (q.run = x.cells.layerSeq ∧ q.seq0 = seq0) && q.full)
    let q : PredPair := { run := x.cells.layerSeq, di := x.cells.layer.getD 0, pos := k, seq0 := seq0, v := v, w := w, full := full,
                          beyond := full && decide (d.predRate * (d.rowGroups * n) / 256 ≤ before), lastAt := none, checked := false,
                          flagged := [], made := false }
    ({ x with cells := { x.cells with pairs := x.cells.pairs ++ [q] } }).inc 0x300 (bit (!full))

/-! ### PRUN and LRUN (R75, R82, R90, R280) -/

/-- A run as it is issued: the layer, the tile set of the latest TLOAD, and the positions it takes. -/
structure RunCtx where
  d : Desc
  di : Nat
  t : TilePlace
  tset : Nat
  tiles : List (Nat × List TileMask)
  seq0 : Nat
  ks : List Nat
  owner : Nat
deriving DecidableEq, Repr

/-- The run that an instruction stands for on a span; none without a layer or a tile set. -/
def State.runCtx? (s : State) (a : RunArgs) (c : Ctx) : Option RunCtx :=
  let x := s.span c.p
  match s.layer? c.p, x.cells.layer, kfind? x.cells.bufs (1 - x.cells.nextBuf) with
  | some d, some di, some b =>
    let t := d.placeOf b.tset
    let seq0 := a.seq0.toNat + c.ix.l
    some { d := d, di := di, t := t, tset := b.tset, tiles := b.tiles, seq0 := seq0,
           ks := s.positions c.p seq0 a.nseq.toNat,
           owner := ownerOf x.cells.layerSeq (if d.cmode = 2 then 0 else t.v) seq0 }
  | _, _, _ => none

/-- The lines that a run adds into. -/
def RunCtx.lines (r : RunCtx) : List Nat :=
  let sh := tileShape r.d.tshape
  if r.d.cmode = 2 then
    let cols := 16 * (r.d.passSegs r.t.g r.t.u).2
    r.ks.flatMap (fun k => (List.range cols).map (fun j => r.d.lineT r.seq0 k (16 * (r.d.passSegs r.t.g r.t.u).1 + j)))
  else r.ks.flatMap (fun k => (rowPositions sh.1 r.tiles).map (fun y => r.d.lineOf r.seq0 k r.t.v y))

/-- The hazards of PRUN, LRUN and TRUN (Table 9.9): a tile set not yet decoded, a context busy, a line not yet converted. -/
def runHazards (a : RunArgs) (c : Ctx) (s : State) : Option Why :=
  let x := s.span c.p
  match s.layer? c.p with
  | none => none
  | some d =>
    let ready : Bool := match kfind? x.cells.bufs (1 - x.cells.nextBuf) with
      | none => false
      | some b => b.done
    if !ready then some { kind := .hazard, ctr := 0, counter := 0x248, cls := .mem }
    else
      let cx := x.ctx d.ctx
      if cx.waiting = x.cells.layer ∨ (cx.waited = true ∧ c.cyc < cx.loadedAt) then
        some { kind := .hazard, ctr := 0, counter := 0x280, cls := .stall }
      else match s.runCtx? a c with
        | none => none
        | some r =>
          if !d.accKeep && r.lines.any (fun ln => x.lineHeld r.owner ln) then
            some { kind := .hazard, ctr := 0, counter := 0x34C, cls := .stall }
          else none

/-- What one sequence contributes to a run: its additions without their cycles' start, its cycles, and its counts. -/
structure SeqRun where
  pos : Nat
  adds : List Addition
  cycles : Nat
  run : Nat
  skipped : Nat
  tables : Nat
  align : Nat
  overflow : Nat
  extra : Nat                          -- plane cycles beyond the share of R185
  scat : Nat                           -- cycles of tap entries over cap and at full queues
  lastAt : Nat                         -- the cycle at which its last addition lands
  granules : List Nat
deriving DecidableEq, Repr

/-- An addition of a run into line `line`, landing at cycle `land`. -/
def RunCtx.add (r : RunCtx) (land line : Nat) (unit : BitVec 12) (check : Bool) (terms : List Int) : Addition :=
  { land := land, line := line, terms := terms, tag := r.d.tag 0, unit := unit, rowGroup := r.t.v, owner := r.owner,
    desc := r.di, keep := r.d.accKeep, check := check }

/-! ### Entries of the banks (R191 to R193) -/

/-- A lost entry of a sequence (R193, R197). -/
def State.loseEntry (p slot : Nat) (s : State) : State :=
  let s := s.modSpan p (Span.inc 0x328 1)
  { s with tick := { s.tick with slots := s.tick.slots.modify slot (fun (x : Slot) =>
      { x with quality := { x.quality with lostEntries := min 65535 (x.quality.lostEntries + 1) } }) } }

/-- A bank is to apply an entry for a line of a layer: the cycles that it costs over cap, or none when it is lost (R193). -/
def State.countEntry (l p di : Nat) (d : Desc) (line slot : Nat) (s : State) : Option Nat × State :=
  let key := di * 16 + line % 16
  let n := kget 0 (s.span p).applied key + 1
  let beyond := decide (d.scatCap < n)
  let r := if beyond then (s.modSpan p (Span.inc 0x320 1)).pay l p 4 slot 1 else (true, s)
  if r.1 then (some (bit beyond), r.2.modSpan p (fun x => { x with applied := kset 0 x.applied key n }.inc 0x318 1))
  else (none, r.2.loseEntry p slot)

/-- The tap entries that banks apply in a pass, the cycles of those over cap, and the overflow slots. -/
structure TapRun where
  entries : List (Nat × List Int)      -- line and terms, in slot order
  beyondCap : Nat
  overflow : Nat
deriving DecidableEq, Repr

/-- The cycles that a pass waits at full conflict queues: a queue of 32 takes its entries before the pass's first plane, and each
further entry of a bank holds the pass for a cycle (R180, R191). -/
def TapRun.wait (t : TapRun) : Nat :=
  ((List.range 16).map (fun b => t.entries.countP (fun e => decide (e.1 % 16 = b)) - 32)).foldl max 0

/-- The taps of a pass of a list position: an entry for each row position whose line they add into (R132), less those outside the
layer's lines (R192) and those that are lost. -/
def State.tapRun (l p : Nat) (r : RunCtx) (k : Nat) (f : PassFeed) (taps : List (Nat × Nat × BitVec 16 × Bool)) (s : State) :
    TapRun × State :=
  let depth := (tileShape r.d.tshape).1
  let slot := (s.seqList p).getD k 0
  taps.foldl (fun (acc : TapRun × State) (e : Nat × Nat × BitVec 16 × Bool) =>
    (rowPositions depth r.tiles).foldl (fun (acc : TapRun × State) (y : Nat) =>
      let trits := tapTrits depth r.t.g y r.tiles e
      let line := r.d.lineOf r.seq0 k r.t.v y
      if trits.all (fun t => decide (t = 0)) then acc
      else if r.d.accBase + r.d.subbatch * r.d.linesPerSeq ≤ line then (acc.1, acc.2.modSpan p (Span.inc 0x324 1))
      else
        let ln := kget Line.zero (acc.2.span p).lines line
        let u : BitVec 12 := if r.d.accKeep && ln.hasUnit then ln.unit else f.unit
        let y := acc.2.countEntry l p r.di r.d line slot
        match y.1 with
        | none => (acc.1, y.2)
        | some n => ({ acc.1 with entries := acc.1.entries ++ [(line, trits.map (fun t =>
            tapTerm (r.d.entryOf r.t.e) t (lnsOf e.2.2.1) u.toInt))], beyondCap := acc.1.beyondCap + n }, y.2)) acc)
    ({ entries := [], beyondCap := 0, overflow := taps.countP (fun e => e.2.2.2) }, s)

/-- The additions of the taps of a pass, in slot order, at the cycle at which its first plane lands. -/
def RunCtx.tapAdds (r : RunCtx) (land : Nat) (f : PassFeed) (t : TapRun) : List Addition :=
  t.entries.map (fun e => r.add land e.1 f.unit false e.2)

/-- The width and the planes of one sequence's pass: those that it runs, those that it skips, and whether the ceiling cycle
of R179 follows. -/
def RunCtx.planesOf (r : RunCtx) (x : Span) (predicted : Bool) (k : Nat) (segs : List Segment) : Nat × List Nat × Nat × Bool :=
  let pair := if predicted then x.pair? k r.t.v else none
  match pair with
  | some q =>
    if q.full then
      let w := passWidth segs
      let ps := runPlanes r.d.skipEn w segs
      (w, ps, w - ps.length, false)
    else
      let ps := [q.w - 1, q.w - 2].filter (fun b => !planeSkipped r.d.skipEn q.w segs b)
      (q.w, ps, 2 - ps.length, true)
  | none =>
    let w := passWidth segs
    let ps := runPlanes r.d.skipEn w segs
    (w, ps, w - ps.length, false)

/-- The last of the cycles at which additions land. -/
def lastLand (adds : List Addition) : Nat := (adds.map (·.land)).foldl max 0

/-- One sequence of a plane-mode run whose pass may begin at cycle `at_`. A pass whose planes are all skipped still adds zero to
its lines (R84). -/
def RunCtx.planeSeq (r : RunCtx) (x : Span) (predicted : Bool) (at_ k : Nat) (f : PassFeed) (t : TapRun) : SeqRun :=
  let sh := tileShape r.d.tshape
  let lat := cellLatency 0 r.d.tshape
  let e := r.d.entryOf r.t.e
  let p := r.planesOf x predicted k f.segs
  let at_ := at_ + t.wait
  let ys := rowPositions sh.1 r.tiles
  let feeds := ys.map (fun y => (y, rowFeeds sh.1 r.t.g y r.tiles f.segs))
  let line (y : Nat) : Nat := r.d.lineOf r.seq0 k r.t.v y
  let planes := p.2.1.zipIdx.flatMap (fun (b : Nat × Nat) => feeds.map (fun (y : Nat × List CellFeed) =>
    r.add (at_ + b.2 + lat) (line y.1) f.unit false (planeTerms e f.vecE p.1 b.1 y.2)))
  let zeros := if p.2.1.isEmpty then feeds.map (fun (y : Nat × List CellFeed) => r.add (at_ + lat) (line y.1) f.unit false [])
    else []
  let n := p.2.1.length
  let ceil := if p.2.2.2 then feeds.map (fun (y : Nat × List CellFeed) =>
      r.add (at_ + n + lat) (r.d.checkBase + (line y.1 - r.d.accBase)) f.unit true (ceilingTerms f.vecE y.2)) else []
  let beyond := match if predicted then x.pair? k r.t.v else none with
    | none => false
    | some q => q.full && q.beyond
  let adds := r.tapAdds (at_ + lat) f t ++ planes ++ zeros ++ ceil
  { pos := k, adds := adds, cycles := n + bit p.2.2.2 + t.wait + t.beyondCap, run := n, skipped := p.2.2.1, tables := 0,
    align := alignErrors f.vecE f.f0 f.segs, overflow := t.overflow, extra := if beyond then n - 3 else 0,
    scat := t.wait + t.beyondCap, lastAt := lastLand adds, granules := f.reads p.1 p.2.1 }

/-- One sequence of a lookup-mode run: four read cycles. -/
def RunCtx.lookupSeq (r : RunCtx) (at_ k : Nat) (f : PassFeed) (t : TapRun) : SeqRun :=
  let sh := tileShape r.d.tshape
  let lat := cellLatency 1 r.d.tshape
  let e := r.d.entryOf r.t.e
  let at_ := at_ + t.wait
  let feeds := (rowPositions sh.1 r.tiles).map (fun y => (y, rowFeeds sh.1 r.t.g y r.tiles f.segs))
  let reads := (List.range 4).flatMap (fun c => feeds.map (fun (y : Nat × List CellFeed) =>
    r.add (at_ + c + lat) (r.d.lineOf r.seq0 k r.t.v y.1) f.unit false (lookupTerms e f.vecE c y.2)))
  let adds := r.tapAdds (at_ + lat) f t ++ reads
  { pos := k, adds := adds, cycles := 4 + t.wait + t.beyondCap, run := 0, skipped := 0, tables := f.segs.length,
    align := alignErrors f.vecE f.f0 f.segs, overflow := t.overflow, extra := 0, scat := t.wait + t.beyondCap,
    lastAt := lastLand adds, granules := f.tableReads }

/-! ### TRUN (R85, R86) -/

/-- The gradient segments that a row group's cells read: the first, and how many. -/
def Desc.gradSegs (d : Desc) (v : Nat) : Nat × Nat :=
  let h := (tileShape d.tshape).2
  let a := h * v / 16
  (a, cdiv (min d.slice16 (h * (v + 1))) 16 - a)

/-- One sequence of a transpose-mode run: four cycles for each gradient plane. `f` holds the segments from the first that the
row group reads. -/
def RunCtx.transposeSeq (r : RunCtx) (at_ k : Nat) (f : PassFeed) : SeqRun :=
  let sh := tileShape r.d.tshape
  let lat := cellLatency 2 r.d.tshape
  let e := r.d.entryOf r.t.e
  let w := passWidth f.segs
  let ps := runPlanes r.d.skipEn w f.segs
  let first := (r.d.gradSegs r.t.v).1
  let cols := 256 * r.t.g
  let depths := (r.tiles.map (fun c => c.1 % sh.1)).eraseDups
  let adds := ps.zipIdx.flatMap (fun (b : Nat × Nat) => (List.range 4).flatMap (fun c => depths.flatMap (fun x =>
    let cells := r.tiles.filterMap (fun (q : Nat × List TileMask) =>
      if q.1 % sh.1 = x then some (16 * (sh.2 * r.t.v + q.1 / sh.1) - 256 * first, q.2) else none)
    let terms := transposeTerms e f.vecE w b.1 c cols f.segs cells
    (List.range (cols / 16)).filterMap (fun j =>
      let ts := (terms.drop (16 * j)).take 16
      let line := r.d.lineT r.seq0 k ((r.t.u * sh.1 + x) * (cols / 16) + j)
      if c = 0 ∨ ts.any (fun t => decide (t ≠ 0)) then some (r.add (at_ + 4 * b.2 + c + lat) line f.unit false ts) else none))))
  let zeros := if ps.isEmpty then r.lines.filterMap (fun ln =>
      if (ln - r.d.accBase) / max 1 r.d.linesPerSeq = k - r.seq0 then some (r.add (at_ + lat) ln f.unit false []) else none) else []
  { pos := k, adds := adds ++ zeros, cycles := 4 * ps.length, run := ps.length, skipped := w - ps.length, tables := 0,
    align := alignErrors f.vecE f.f0 f.segs, overflow := 0, extra := 0, scat := 0, lastAt := lastLand (adds ++ zeros),
    granules := f.reads w ps }

/-! ### Issue of a run -/

/-- The feed of one list position for a run; in transpose mode the row group's gradient segments. -/
def Span.feedOf (r : RunCtx) (ix : Ix) (a : RunArgs) (k : Nat) (x : Span) : Option PassFeed :=
  let ms := if r.d.cmode = 2 then r.d.gradSegs r.t.v else r.d.passSegs r.t.g r.t.u
  x.passFeed ix a r.d r.seq0 k ms.1 ms.2

/-- The outliers that a run of the layer's cell mode taps for a list position. -/
def Span.tapsOf (r : RunCtx) (k : Nat) (x : Span) : Option (List (Nat × Nat × BitVec 16 × Bool)) :=
  let ms := r.d.passSegs r.t.g r.t.u
  if r.d.cmode = 2 then some [] else x.taps r.d k ms.1 ms.2

/-- One sequence of a run in the layer's cell mode. -/
def RunCtx.seqRun (r : RunCtx) (x : Span) (predicted : Bool) (at_ k : Nat) (f : PassFeed) (t : TapRun) : SeqRun :=
  if r.d.cmode = 2 then r.transposeSeq at_ k f
  else if r.d.cmode = 1 then r.lookupSeq at_ k f t
  else r.planeSeq x predicted at_ k f t

/-- What a run takes for one list position: its feed and its taps. -/
abbrev RunFeed := Nat × PassFeed × List (Nat × Nat × BitVec 16 × Bool)

/-- The sequences of a run one after the other: their banks count their tap entries in that order. -/
def State.seqRuns (c : Ctx) (r : RunCtx) (predicted : Bool) (at_ : Nat) (fs : List RunFeed) (s : State) : List SeqRun × State :=
  let y := fs.foldl (fun (acc : (List SeqRun × Nat) × State) (kf : RunFeed) =>
    let t := acc.2.tapRun c.l c.p r kf.1 kf.2.1 kf.2.2
    let q := r.seqRun (t.2.span c.p) predicted acc.1.2 kf.1 kf.2.1 t.1
    ((acc.1.1 ++ [q], acc.1.2 + q.cycles), t.2)) (([], at_), s)
  (y.1.1, y.2)

/-- The pairs of a run whose last pass it is: the check of R181 follows when their last addition has landed. -/
def RunCtx.ending (r : RunCtx) (layerSeq : Nat) (qs : List SeqRun) (pairs : List PredPair) : List PredPair :=
  if r.t.u + 1 < r.d.passes r.t.e then pairs
  else pairs.map (fun q =>
    if q.run = layerSeq ∧ q.v = r.t.v then match qs.find? (fun z => decide (z.pos = q.pos)) with
      | none => q
      | some z => { q with lastAt := some z.lastAt }
    else q)

/-- What a run leaves in its span: additions in flight, counters, the busy time and why it exceeds the plan (R90, R92). -/
def Span.issueRun (r : RunCtx) (qs : List SeqRun) (cyc fix delay : Nat) (x : Span) : Span :=
  let sum (f : SeqRun → Nat) : Nat := (qs.map f).sum
  let ovf := sum (·.overflow)
  let extra := sum (·.extra)
  let scat := sum (·.scat)
  let busy := fix + sum (·.cycles) + ovf + delay
  let planned := (if r.d.cmode = 1 then fix + 4 * qs.length else qs.length * r.d.wIn * (if r.d.cmode = 2 then 4 else 1))
  let why : Option DebitClass :=
    if extra > 0 then some .makeup
    else if ovf > 0 ∨ planned + scat < fix + sum (·.cycles) then some .width
    else if scat > 0 then some .scat
    else if delay > 0 then some .mem else none
  let buf := kfind? x.cells.bufs (1 - x.cells.nextBuf)
  let bufs := kupd x.cells.bufs (1 - x.cells.nextBuf) (fun (b : TileBuf) => { b with readUntil := cyc + busy, poisoned := false })
  let cells := { x.cells with busyUntil := cyc + max 1 busy, overBusy := why, bufs := bufs,
                              inflight := x.cells.inflight ++ qs.flatMap (·.adds),
                              pairs := r.ending x.cells.layerSeq qs x.cells.pairs,
                              running := [(cyc, r.tset, r.t.e)],
                              poisonDue := x.cells.poisonDue || (buf.map (·.poisoned)).getD false }
  let x := { x with cells := cells }
  let x := (x.readG (qs.flatMap (·.granules))).2
  let x := (((x.inc 0x240 (sum (·.run))).inc 0x244 (sum (·.skipped))).inc 0x24C (sum (·.tables))).inc 0x214 (sum (·.align))
  x.inc 0x308 extra

/-- The feeds and taps of the list positions of a run; none when a granule lies past the deck store. -/
def Span.runFeeds (r : RunCtx) (ix : Ix) (a : RunArgs) (x : Span) : Option (List RunFeed) :=
  r.ks.mapM (fun k => match x.feedOf r ix a k, x.tapsOf r k with
    | some f, some t => some (k, f, t)
    | _, _ => none)

/-- A run of cell mode `mode` acts. -/
def runAct (mode : Nat) (a : RunArgs) (deck : DeckUse) (c : Ctx) (s : State) : State :=
  match s.layer? c.p with
  | none => s.faultAt c 0x0A
  | some d =>
    if d.cmode ≠ mode then s.faultAt c 0x06
    else if s.predicted d && !(s.span c.p).cells.gated then s.faultAt c 0x07
    else match s.runCtx? a c with
      | none => s
      | some r =>
        if r.ks.isEmpty then s.modSpan c.p (fun x => { x with cells := { x.cells with busyUntil := c.cyc + 1, overBusy := none } })
        else if s.badList c.p r.ks then s.faultAt c 0x0B
        else if r.lines.any (fun ln => decide (4095 < ln)) then s.faultAt c 0x04
        else match (s.span c.p).runFeeds r c.ix a with
          | none => s.faultAt c 0x03
          | some fs =>
            let pred := s.predicted d
            let s := s.modSpan c.p (fun x =>
              if pred then r.ks.foldl (fun (x : Span) (k : Nat) => x.enterPair c.ix a d r.seq0 r.ks.length r.t.v k) x else x)
            let fix := if mode = 1 then 4 else 0
            let y := s.seqRuns c r pred (c.cyc + fix) fs
            let s := y.2.modSpan c.p (Span.issueRun r y.1 c.cyc fix (deckDelay deck))
            (s.deckUse c.l c.p deck).checkPoison c.l c.p (y.1.flatMap (·.granules))

/-- PRUN: one tile set in plane mode. -/
def execPrun (i : Issue) (w : WaitGroup) (a : RunArgs) (deck : DeckUse) (s : State) : Host.Outcome State Fault Refusal :=
  s.present i (.prun · w a .clean) .cells w (runHazards a) (runAct 0 a deck)

/-- LRUN: one tile set in lookup mode. -/
def execLrun (i : Issue) (w : WaitGroup) (a : RunArgs) (deck : DeckUse) (s : State) : Host.Outcome State Fault Refusal :=
  s.present i (.lrun · w a .clean) .cells w (runHazards a) (runAct 1 a deck)

/-- TRUN: one tile set in transpose mode. -/
def execTrun (i : Issue) (w : WaitGroup) (a : RunArgs) (deck : DeckUse) (s : State) : Host.Outcome State Fault Refusal :=
  s.present i (.trun · w a .clean) .cells w (runHazards a) (runAct 2 a deck)

/-! ### The check and the make-up slot (R181 to R184) -/

/-- ceil(1,024 · log2 b) for b ≥ 1. -/
def log2Ceil (b : Nat) : Nat :=
  let n := squareN 10 b
  let f := Nat.log2 n
  if 2 ^ f = n then f else f + 1

/-- The weight scale of slice row `row` (R108); none when the layer has no scale. -/
def Span.rowScale (d : Desc) (row : Nat) (x : Span) : Option Lns :=
  if d.scaleMode = 1 then some (lnsOf (BitVec.ofNat 16 d.layerScale))
  else if d.scaleMode = 2 then
    some (lnsOf (BitVec.ofNat 16 (bitsAt (x.granule (d.scaleTab + row / 16)).toNat (16 * (row % 16)) 16)))
  else none

/-- Whether the bound of a row excludes it (R181): `a` is the row's accumulator, `cr` its ceiling sum. DESIGN CHOICE (log entry
39): a row whose weight scale is the zero code has no λ_s, and the least λ of the working form stands for it. -/
def Span.excluded (d : Desc) (w row : Nat) (a cr : Int) (unit : BitVec 12) (x : Span) : Bool :=
  let b := a + (2 ^ (w - 2) - 1) * cr
  let tau := lnsOf (BitVec.ofNat 16 d.predTau)
  let ls := ((x.rowScale d row).map (fun s => if s.zero then (-524288 : Int) else s.lam)).getD 0
  decide (b ≤ 0) || (!tau.zero && decide ((log2Ceil b.toNat : Int) + 64 * unit.toInt + ls < tau.lam))

/-- The flagged rows of a checked pair. -/
def Span.flaggedRows (d : Desc) (q : PredPair) (x : Span) : List Nat :=
  let h := (tileShape d.tshape).2
  (List.range (min h (d.slice16 - h * q.v))).flatMap (fun y =>
    let n := d.lineOf q.seq0 q.pos q.v y
    let ln := kget Line.zero x.lines n
    let ck := kget Line.zero x.lines (d.checkBase + (n - d.accBase))
    (List.range 16).filterMap (fun r =>
      let row := 16 * (h * q.v + y) + r
      if ln.saturated || !x.excluded d q.w row (ln.acc.getD r 0).toInt (ck.acc.getD r 0).toInt ln.unit then some row else none))

/-- The lines that the check of a pair takes: one cycle each. -/
def checkLines (d : Desc) (q : PredPair) : Nat :=
  let h := (tileShape d.tshape).2
  min h (d.slice16 - h * q.v)

/-- The abutment checks a pair whose last addition has landed (R181). -/
def State.checkPair (p : Nat) (q : PredPair) (s : State) : State := match s.desc? q.di, q.lastAt with
  | some d, some t => s.modSpan p (fun x =>
      let rows := x.flaggedRows d q
      { x.inc 0x304 rows.length with
        cells := { x.cells with pairs := x.cells.pairs.map (fun r =>
          if r.run = q.run ∧ r.pos = q.pos ∧ r.v = q.v then { r with checked := true, flagged := rows } else r) }
        abt := { x.abt with checkUntil := max x.abt.checkUntil t + checkLines d q } })
  | _, _ => s

/-- The pairs of a span that are to be checked at a cycle. -/
def Span.dueChecks (cyc : Nat) (x : Span) : List PredPair :=
  x.cells.pairs.filter (fun q => !q.full && !q.checked && (match q.lastAt with
    | none => false
    | some t => decide (t ≤ cyc)))

/-- ADDITION_LANDED (R89): the additions in flight whose cycle has come land, oldest first; the pairs whose last pass they end
are checked; cells that have run a poisoned tile set to its end break the tick (R94). -/
def execAdditionLanded (l : Fin 128) (cyc : Nat) (s : State) : Host.Outcome State Fault Refusal :=
  let s := s.toCyc cyc
  if !s.tick.active then .next s
  else match s.phys? l.val with
    | none => .next s
    | some p =>
      let s := s.modSpan p (fun x =>
        let due := x.cells.inflight.filter (fun a => decide (a.land ≤ cyc))
        let rest := x.cells.inflight.filter (fun a => decide (cyc < a.land))
        due.foldl (fun (x : Span) (a : Addition) => x.landOne a) { x with cells := { x.cells with inflight := rest } })
      let s := ((s.span p).dueChecks cyc).foldl (fun (s : State) (q : PredPair) => s.checkPair p q) s
      let x := (s.span p).cells
      .next (if x.poisonDue && decide (x.busyUntil ≤ cyc) && x.inflight.isEmpty then s.breakTick .poison else s)

/-- A pass of a row group that make-up runs: its place and tiles. -/
structure MakePass where
  t : TilePlace
  tiles : List (Nat × List TileMask)
  counts : Decoded
deriving DecidableEq, Repr

/-- The passes of a row group, decoded again from their deck-store copies. -/
def Span.makePasses (d : Desc) (v : Nat) (x : Span) : List MakePass :=
  (List.range (d.passes 0)).filterMap (fun u =>
    let n := v * d.passes 0 + u
    (kfind? x.cells.decoded n).map (fun gs =>
      let t := d.placeOf n
      let r := x.decodeSet gs t
      { t := t, tiles := r.tiles, counts := r }))

/-- The planes that make-up runs for a pair in a pass. -/
def makePlanes (d : Desc) (w : Nat) (segs : List Segment) : List Nat :=
  ((List.range (w - 2)).reverse).filter (fun b => !planeSkipped d.skipEn w segs b)

/-- M of one row group: over its passes, the greater of the decode time and the planes run. -/
def groupCost (tiles : List Nat) (planes : List (List Nat)) : Nat :=
  (tiles.zipIdx.map (fun e => max (4 * e.1) ((planes.map (fun l => l.getD e.2 0)).sum))).sum

/-- A pair that make-up considers, with its feeds, one for each pass. -/
structure MakePair where
  q : PredPair
  slot : Nat
  feeds : List PassFeed
  planes : List Nat
deriving DecidableEq, Repr

/-- Lost rows add to a sequence's quality count (R183, R197). -/
def State.loseRows (slot n : Nat) (s : State) : State :=
  { s with tick := { s.tick with slots := s.tick.slots.modify slot (fun (x : Slot) =>
      { x with quality := { x.quality with lostRows := min 0xFFFF (x.quality.lostRows + n) } }) } }

/-- Mark a pair as made up. -/
def Span.markMade (q : PredPair) (x : Span) : Span :=
  { x with cells := { x.cells with pairs := x.cells.pairs.map (fun r =>
      if r.run = q.run ∧ r.pos = q.pos ∧ r.v = q.v then { r with made := true } else r) } }

/-- The additions of a made-up pair from cycle `at_`, with the cycles they take. -/
def RunCtx.makeSeq (r : RunCtx) (at_ : Nat) (q : PredPair) (passes : List MakePass) (feeds : List PassFeed) :
    List Addition × Nat :=
  let sh := tileShape r.d.tshape
  let lat := cellLatency 0 r.d.tshape
  (passes.zip feeds).foldl (fun (acc : List Addition × Nat) (pf : MakePass × PassFeed) =>
    let e := r.d.entryOf pf.1.t.e
    let ps := makePlanes r.d q.w pf.2.segs
    let adds := ps.zipIdx.flatMap (fun (b : Nat × Nat) => (rowPositions sh.1 pf.1.tiles).map (fun y =>
      r.add (at_ + acc.2 + b.2 + lat) (r.d.lineOf q.seq0 q.pos q.v y) pf.2.unit false
        (planeTerms e pf.2.vecE q.w b.1 (rowFeeds sh.1 pf.1.t.g y pf.1.tiles pf.2.segs))))
    (acc.1 ++ adds, acc.2 + ps.length)) ([], 0)

/-- The granules that the make-up of a pair reads. -/
def makeReads (d : Desc) (q : MakePair) : List Nat := q.feeds.flatMap (fun f => f.reads q.q.w (makePlanes d q.q.w f.segs))

/-- A pair is made up: its additions are in flight, its planes run and skipped are counted, and `debit` cycles are debited. -/
def Span.makeUp (r : RunCtx) (at_ debit : Nat) (q : MakePair) (passes : List MakePass) (x : Span) : Span :=
  let a := r.makeSeq at_ q.q passes q.feeds
  let x := ({ x with cells := { x.cells with inflight := x.cells.inflight ++ a.1 } }.markMade q.q).inc 0x30C 1
  let x := (x.inc 0x240 q.planes.sum).inc 0x244 (q.planes.length * (q.q.w - 2) - q.planes.sum)
  (x.readG (makeReads r.d q)).2.inc 0x314 debit

/-- The passes of a group are decoded again: counted, and poison in them is reported (R94). -/
def State.redecode (c : Ctx) (d : Desc) (v : Nat) (passes : List MakePass) (s : State) : State :=
  passes.foldl (fun (s : State) (q : MakePass) =>
    let s := s.modSpan c.p (Span.countDecode q.counts)
    if q.counts.poisoned = 0 then s
    else (s.weightPoison c.l c.p d (v * d.passes 0 + q.t.u)).modSpan c.p (fun x =>
      { x with cells := { x.cells with poisonDue := true } })) s

/-- The make-up of one row group: pairs are taken while budget and ledger allow. `m0` is M before the instruction and `m` M of
the groups before; the answer is the state, M with this group and the granules read. -/
def State.makeGroup (c : Ctx) (r : RunCtx) (v : Nat) (pairs : List MakePair) (m0 m : Nat) (s : State) : State × Nat × List Nat :=
  let d := r.d
  let passes := (s.span c.p).makePasses d v
  let tiles := passes.map (fun q => q.t.cells.length)
  let s := s.redecode c d v passes
  let s := s.modSpan c.p (fun x => { x with cells := { x.cells with
    running := x.cells.running ++ passes.zipIdx.map (fun (q : MakePass × Nat) => (c.cyc + (m - m0) + q.2, v * d.passes 0 + q.2, 0)) } })
  let owner := ownerOf (s.span c.p).cells.layerSeq v
  let res := pairs.foldl (fun (acc : State × List MakePair × Nat) (q : MakePair) =>
    let s := acc.1
    let m' := m + groupCost tiles ((acc.2.1 ++ [q]).map (·.planes))
    let inBudget := decide (m' ≤ d.makeupBudget)
    let cost := if inBudget then max m' d.makeupPlan - max acc.2.2 d.makeupPlan else m' - acc.2.2
    let pay : Bool × State :=
      if inBudget && decide (cost = 0) then (true, s)
      else if inBudget || s.fidelity then s.pay c.l c.p 2 q.slot cost
      else (false, s)
    if pay.1 then
      let debit := if s.inBalance c.p cost then cost else 0
      (pay.2.modSpan c.p (Span.makeUp { r with owner := owner q.q.seq0 } (c.cyc + (acc.2.2 - m0)) debit q passes),
        acc.2.1 ++ [q], m')
    else
      let n := q.q.flagged.length
      ((pay.2.modSpan c.p (Span.inc 0x310 n)).loseRows q.slot n, acc.2.1, acc.2.2)) (s, [], m)
  (res.1, res.2.2, res.2.1.flatMap (makeReads d))

/-- A pair with its feeds and planes, when its segments lie in the deck store. -/
def State.makePair (s : State) (c : Ctx) (a : RunArgs) (d : Desc) (seq0 : Nat) (q : PredPair) : Option MakePair :=
  let x := s.span c.p
  let feeds := (List.range (d.passes 0)).mapM (fun u =>
    let ms := d.passSegs (d.gather 0) u
    x.passFeed c.ix a d seq0 q.pos ms.1 ms.2)
  feeds.map (fun fs => { q := q, slot := (s.seqList c.p).getD q.pos 0, feeds := fs,
                         planes := fs.map (fun f => (makePlanes d q.w f.segs).length) })

/-- The row groups of a make-up one after the other: the state, M and the granules read. -/
def State.makeGroups (c : Ctx) (r : RunCtx) (ps : List MakePair) (m0 : Nat) (s : State) : State × Nat × List Nat :=
  let vs := (List.range r.d.rowGroups).filter (fun v => ps.any (fun q => decide (q.q.v = v)))
  vs.foldl (fun (acc : State × Nat × List Nat) (v : Nat) =>
    let group := (ps.filter (fun q => decide (q.q.v = v))).mergeSort (fun x y => decide (x.slot ≤ y.slot))
    let y := acc.1.makeGroup c { r with t := r.d.placeOf (v * r.d.passes 0) } v group m0 acc.2.1
    (y.1, y.2.1, acc.2.2 ++ y.2.2)) (s, m0, [])

/-- MKUP acts: the make-up of R182 over the flagged pairs. -/
def mkupAct (a : RunArgs) (deck : DeckUse) (c : Ctx) (s : State) : State :=
  match s.layer? c.p, (s.span c.p).cells.layer with
  | some d, some di =>
    let seq0 := a.seq0.toNat + c.ix.l
    let ks := s.positions c.p seq0 a.nseq.toNat
    if s.badList c.p ks then s.faultAt c 0x0B
    else
      let x := s.span c.p
      let mine := x.cells.pairs.filter (fun q => decide (q.run = x.cells.layerSeq) && ks.contains q.pos && q.checked && !q.made
        && !q.flagged.isEmpty)
      match mine.mapM (s.makePair c a d seq0) with
      | none => s.faultAt c 0x03
      | some ps =>
        let r : RunCtx := { d := d, di := di, t := d.placeOf 0, tset := 0, tiles := [], seq0 := seq0, ks := ks, owner := 0 }
        let m0 := kget 0 x.cells.makeupSpent di
        let res := (s.modSpan c.p (fun x => { x with cells := { x.cells with running := x.cells.running.take 1 } })).makeGroups c r ps m0
        let m := res.2.1
        let s := res.1.modSpan c.p (fun x => { x with cells := { x.cells with
          makeupSpent := kset 0 x.cells.makeupSpent di m, busyUntil := c.cyc + max 1 (m - m0) + deckDelay deck,
          overBusy := if d.makeupPlan < m then some .makeup else if 0 < deckDelay deck then some .mem else none } })
        (s.deckUse c.l c.p deck).checkPoison c.l c.p res.2.2
  | _, _ => s.faultAt c 0x0A

/-- The hazards of MKUP (Table 9.9): a decode in progress; additions in flight to the lines of its list positions; checks of
R181 that the abutment has not made. -/
def mkupHazard (a : RunArgs) (c : Ctx) (s : State) : Option Why :=
  let x := s.span c.p
  let ks := s.positions c.p (a.seq0.toNat + c.ix.l) a.nseq.toNat
  let mine := x.cells.pairs.filter (fun q => decide (q.run = x.cells.layerSeq) && ks.contains q.pos && !q.full)
  let lines (d : Desc) : List Nat := mine.flatMap (fun q => (List.range (checkLines d q)).map (fun y => d.lineOf q.seq0 q.pos q.v y))
  let held : Bool := match s.layer? c.p with
    | none => false
    | some d => x.cells.inflight.any (fun a => !a.check && (lines d).contains a.line)
      || mine.any (fun q => q.lastAt.isSome && !q.checked) || decide (c.cyc < x.abt.checkUntil)
  if x.cells.bufs.any (fun b => !b.2.done) then some { kind := .hazard, ctr := 0, counter := 0x248, cls := .mem }
  else if held then some { kind := .hazard, ctr := 0, counter := 0x34C, cls := .stall } else none

/-- MKUP. -/
def execMkup (i : Issue) (w : WaitGroup) (a : RunArgs) (deck : DeckUse) (s : State) : Host.Outcome State Fault Refusal :=
  s.present i (.mkup · w a .clean) .cells w (mkupHazard a) (mkupAct a deck)

end Sys2Proof.Machine
end

