-- ==== Sys2Proof/Machine/Abutment.lean ====
section
/-! DEFINITION. The abutment (R97 to R132, R157 to R159, R177, R184, R283 to R285): CONV, KVAPP and its acknowledgement, TBLLD,
from the tag check to the written granules. -/

namespace Sys2Proof.Machine
open Sys2Proof

/-! ### Lines, sequences and channels (R66, R87, R283) -/

/-- The spans that a span field names: 0xFF the span itself, 0xFE the destination set of the descriptor. -/
def State.destSpans (s : State) (l : Nat) (d : Desc) (f : Nat) : List Nat :=
  if f = 0xFF then [l]
  else if f = 0xFE then match s.bitstream? with
    | none => []
    | some b => s.lspans.filter (b.inSet d.dset)
  else [f]

/-- The writer group of a layer among the bound spans, ascending. -/
def State.writers (s : State) (d : Desc) : List Nat := match s.bitstream? with
  | none => []
  | some b => s.lspans.filter (b.inSet d.wset)

/-- The place of a logical span in the writer group, and the number of its members: the slices lie in that order. -/
def State.sliceOf (s : State) (d : Desc) (l : Nat) : Nat × Nat :=
  let ws := s.writers d
  if ws.contains l then (ws.idxOf l, ws.length) else (0, 1)

/-- How many times a list names the slot of position `k` before `k`. -/
def occOf (list : List Nat) (k : Nat) : Nat := (list.take k).countP (fun n => decide (n = list.getD k 0))

/-- The descriptor that a line's sums belong to. -/
def Span.lineDesc (ln : Line) (x : Span) : Nat := if ln.hasUnit then ln.desc else (x.ctx (tagCtx ln.tag)).desc

/-- A layer's descriptor with the fields of the context that `k` names on a span (R65). -/
def State.abtDesc? (s : State) (p k di : Nat) : Option Desc :=
  let c := (s.span p).ctx k
  (s.desc? di).map (fun d => match if c.loaded then s.desc? c.desc else none with
    | none => d
    | some e => d.under e)

/-- Whether a tag passes the check of R66. -/
def Span.tagOk (t : BitVec 8) (x : Span) : Bool :=
  decide ((x.ctx (tagCtx t)).gen = tagGen t) && decide (tagKind t < 4)

/-- The row group of 16 that a line holds: `j` counts its lines within the sequence. -/
def Desc.rowOf (d : Desc) (ln : Line) (j : Nat) : Nat :=
  let h := (tileShape d.tshape).2
  if tagKind ln.tag = 2 ∨ d.cmode = 2 then j else ln.rowGroup * h + j % h

/-- The number of rows of 16 that a span converts for a sequence: its slice, or its input columns in transpose mode. -/
def Desc.rows16 (d : Desc) : Nat := if d.cmode = 2 then 16 * d.inSegs else d.slice16

/-- Whether every row of a line is a checked row that was not made up (R184). -/
def Span.notMade (ln : Line) (k : Nat) (x : Span) : Bool :=
  let run := (ln.owner - 1) / 2 ^ 26
  x.cells.pairs.any (fun q => decide (q.run = run ∧ q.pos = k ∧ q.v = ln.rowGroup) && !q.full && !q.made)

/-! ### Stages 2 to 5 -/

/-- What a conversion counts: SPN_LNS_SAT, SPN_STEER_DROP, and the steering entries that fall on the line. -/
structure ConvCount where
  sat : Nat
  drop : Nat
  steer : Nat
deriving DecidableEq, Repr

/-- The steering entries of a variant record: channel and value. -/
def steering (rec : List Byte) : List (Nat × Lns) :=
  (List.range 512).map (fun e => (leAt rec (2048 + 4 * e) 2, lnsOf (BitVec.ofNat 16 (leAt rec (2050 + 4 * e) 2))))

/-- Stages 2 to 5 for one value: `steer` are the steering values of its channel, `gs` its group-scale byte. -/
def stages (d : Desc) (x0 : Lns × Nat) (scale : Option Lns) (gs : Option Nat) (steer : List Lns) (res : Option Lns) : Lns × Nat :=
  let x := match scale with
    | none => x0
    | some w => let r := lmul x0.1 w; (r.1, x0.2 + r.2)
  let x := match gs with
    | none => x
    | some b =>
      let r := lmul x.1 { zero := false, neg := false, lam := 64 * (b : Int) - 8192 }
      steer.foldl (fun (a : Lns × Nat) (v : Lns) => let q := logAdd a.1 v; (q.1, a.2 + q.2)) (r.1, x.2 + r.2)
  match res with
  | none => x
  | some v => if d.resEn then (let r := logAdd x.1 v; (r.1, x.2 + r.2)) else x

/-- Stage 2 for position `i` of a line. -/
def stageTwo (ln : Line) (zero : Bool) (i : Nat) : Lns × Nat :=
  let a := ln.acc.getD i 0
  if tagKind ln.tag = 2 then (lnsOf (a.extractLsb' 0 16), 0)
  else if zero then (Lns.z, 0) else toWorking a.toInt ln.unit.toInt

/-- The 16 values of a line after stage 5, or after stage 3 for a predictor layer (R177). `ch0` is the channel of slice row 0,
`width` the layer's output width, `rec_` the sequence's variant record. -/
def Span.lineVals (d : Desc) (ln : Line) (zero : Bool) (k row16 ch0 width : Nat) (rec_ : Option (List Byte)) (x : Span) :
    List Lns × ConvCount :=
  let sc := x.granule (d.scaleTab + row16)
  let rg := x.granule (d.resBase + k * d.slice16 + row16)
  let rec_ := if d.predOut then none else rec_
  let all := (rec_.map steering).getD []
  let st := all.filter (fun e => decide (e.1 ≠ 0xFFFF ∧ e.1 < width))
  let c0 := ch0 + 16 * row16
  let mine := st.filter (fun e => decide (c0 ≤ e.1 ∧ e.1 < c0 + 16))
  let vs := (List.range 16).map (fun i =>
    let scale : Option Lns :=
      if d.scaleMode = 1 then some (lnsOf (BitVec.ofNat 16 d.layerScale))
      else if d.scaleMode = 2 then some (lnsAt sc i) else none
    stages d (stageTwo ln zero i) scale (rec_.map (fun r => (r.getD ((c0 + i) / 8) 0#8).toNat))
      ((mine.filter (fun e => decide (e.1 = c0 + i))).map (·.2)) (if d.predOut then none else some (lnsAt rg i)))
  (vs.map (·.1), { sat := (vs.map (·.2)).sum,
                   drop := if row16 = 0 then all.countP (fun e => decide (e.1 ≠ 0xFFFF) && decide (width ≤ e.1)) else 0,
                   steer := mine.length })

/-! ### Stages 6 and 7 (R112 to R114) -/

/-- The squares of a span's values of one sequence, summed by the pairwise tree within 32-value blocks and over blocks. -/
def squareSum (lines : List ConvLine) : Lns × Nat :=
  let vals := lines.flatMap (·.vals)
  let sq := vals.map (fun v => if v.zero then (Lns.z, 0) else mkWork false (2 * v.lam))
  logTree ((chunks 32 (vals.length + 1) sq).map logTree)

/-- The normalisation factor of R113 from the total. -/
def normFactor (d : Desc) (q : Lns) : Lns × Nat :=
  let a := if q.zero then (Lns.z, 0) else mkWork false (q.lam - d.normLogn)
  let m := logAdd a.1 (lnsOf (BitVec.ofNat 16 d.normEps))
  if m.1.zero then (Lns.z, a.2 + m.2)
  else
    let r := mkWork false (-(m.1.lam / 2))
    (r.1, a.2 + m.2 + r.2)

/-- A nonlinearity table's output for an input (R114), and 1 when the input's λ was clamped. -/
def nltOut (tab : List (BitVec 256)) (x : Lns) : Lns × Nat :=
  if x.zero then (lnsAt (tab.getD 0 0#256) 0, 0)
  else
    let c := if x.lam > 16383 then (16383 : Int) else if x.lam < -16384 then -16384 else x.lam
    let i := (if x.neg then 2048 else 0) + ((c + 16384) / 16).toNat
    (lnsAt (tab.getD (1 + i / 16) 0#256) (i % 16), if c = x.lam then 0 else 1)

/-- Stages 6 and 7 for a line: its values, the LNS saturations and the clamped table inputs. -/
def Span.lineOut (d : Desc) (norm : Option Lns) (c : ConvLine) (x : Span) : ConvLine × Nat × Nat :=
  let g := x.granule (d.gainTab + c.row16)
  let tab := kget [] x.abt.nlt d.nltSlot
  let vs := c.vals.zipIdx.map (fun (e : Lns × Nat) =>
    let a := match norm with
      | none => (e.1, 0)
      | some f =>
        let r := lmul e.1 f
        let q := lmul r.1 (lnsAt g e.2)
        (q.1, r.2 + q.2)
    if d.nltSlot = 0xF then (a.1, a.2, 0)
    else
      let o := nltOut tab a.1
      (o.1, a.2, o.2))
  ({ c with vals := vs.map (·.1) }, (vs.map (·.2.1)).sum, (vs.map (·.2.2)).sum)

/-! ### Widths, outliers and scales of a block (R117 to R130) -/

/-- Q_max of a width (R117). -/
def qMax (w : Nat) : Int := 2 ^ (w - 1) - 1

/-- C_w of Table 4.3. -/
def cW (w : Nat) : Int := ([0, 0, 0, 1623, 2875, 4001, 5074, 6121, 7157] : List Int).getD w 0

/-- The λ of the non-zero values, largest first. -/
def rankedLams (vals : List Lns) : List Int :=
  ((vals.filter (fun v => !v.zero)).map (·.lam)).mergeSort (fun a b => decide (b ≤ a))

/-- λ_med: the 16th largest magnitude; none when it is zero. -/
def lamMed (vals : List Lns) : Option Int := (rankedLams vals)[15]?

/-- w_req of R122. -/
def wReq (d : Desc) (outl : Bool) (vals : List Lns) : Nat :=
  match lamMed vals, (rankedLams vals).head? with
  | some med, some top =>
    let delta := if outl then min (top - med) (d.outlSpan : Int) else top - med
    let w := 2 + ceilDiv delta 1024
    max d.wMin (min d.wMax w.toNat)
  | _, _ => d.wMax

/-- The values of a block that exceed θ(w) (R128), largest first, ties to the lower index. -/
def outliersOf (d : Desc) (w0 w : Nat) (vals : List Lns) : List Nat := match lamMed vals with
  | none => []
  | some med =>
    let theta := med + d.outlSpan + 1024 * ((w : Int) - w0)
    let l := vals.zipIdx.filter (fun e => !e.1.zero && decide (theta < e.1.lam))
    (l.mergeSort (fun a b => decide (b.1.lam ≤ a.1.lam))).map (·.2)

/-- A block with its width and its outliers: those in its slots, those that overflow and those that are clipped. -/
structure Block where
  vals : List Lns
  w : Nat
  slots : List Nat
  extra : List Nat
  ovf : List Nat
deriving DecidableEq, Repr

/-- The refusal of a widening: counted, and marked for the sequence and the tick (R125, R261). -/
def State.refuseWiden (p slot : Nat) (s : State) : State :=
  let s := s.modSpan p (Span.inc 0x28C 1)
  { s with tick := { s.tick with
      widenRef := s.tick.widenRef + 1
      slots := s.tick.slots.modify slot (fun (x : Slot) => { x with quality := { x.quality with widenRefused := true } }) } }

/-- A widening to `w` bits, of which `n` bits are new cost, is taken or refused. -/
def State.widen (l p slot : Nat) (d : Desc) (n : Nat) (s : State) : Bool × State :=
  if n = 0 then (true, s)
  else
    let r := s.pay l p 1 slot (d.widenCost * n)
    if r.1 then r else (false, r.2.refuseWiden p slot)

/-- The raises of R129: one bit at a time while a block has more than 8 outliers. -/
def State.raiseWidth (l p slot : Nat) (d : Desc) (w0 : Nat) (vals : List Lns) : Nat → Nat → State → Nat × State
  | 0, w, s => (w, s)
  | fuel + 1, w, s =>
    if (outliersOf d w0 w vals).length ≤ 8 ∨ 8 ≤ w then (w, s)
    else
      let r := s.widen l p slot d (if d.wPlan < w + 1 then 1 else 0)
      if r.1 then State.raiseWidth l p slot d w0 vals fuel (w + 1) (r.2.modSpan p (Span.inc 0x2B0 1)) else (w, r.2)

/-- The width and the outliers of a block of layer `i` (R123 to R130). DESIGN CHOICE (log entry 54): the history of a layer belongs
to a plan and a descriptor index, so the same layer in another plan has its own. -/
def State.blockOf (l p slot i : Nat) (d : Desc) (vals : List Lns) (s : State) : Block × State :=
  let x := s.span p
  let outl := d.outlEn
  let req := wReq d outl vals
  let key := 4096 * s.tick.plan + i
  let hist : WidthHist := (kfind? x.abt.hist key).getD { ticks := 0, maxes := [], current := 0 }
  let w0 := if s.fixed ∨ d.wmode = 0 then d.wPlan
    else if d.wmode = 1 then x.layerW s.fixed s.tick.plan i d
    else if hist.ticks < d.coldTicks then d.wMax else req
  let s := s.modSpan p (fun x => { x with abt := { x.abt with hist := kins x.abt.hist key { hist with current := max hist.current req } } })
  let r := s.widen l p slot d (w0 - d.wPlan)
  let w := if r.1 then w0 else min w0 d.wPlan
  let q := if outl then r.2.raiseWidth l p slot d w0 vals 8 w else (w, r.2)
  let outs := if outl then outliersOf d w0 q.1 vals else []
  ({ vals := vals, w := q.1, slots := outs.take 8, extra := outs.drop 8, ovf := [] },
    q.2.modSpan p (fun x => ((x.inc 0x288 (bit (decide (d.wPlan < q.1)))).inc 0x290 (min 8 outs.length))))

/-- The overflow slots of a segment (R130): under FIDELITY the remaining outliers take them in block order and in order of
magnitude; the others are clipped. -/
def overflow (fidelity : Bool) (bs : List Block) : List Block :=
  (bs.foldl (fun (acc : List Block × Nat) (b : Block) =>
    let n := if fidelity then min b.extra.length (32 - acc.2) else 0
    (acc.1 ++ [{ b with ovf := b.extra.take n, extra := b.extra.drop n }], acc.2 + n)) ([], 0)).1

/-- The values of a block that are neither outliers nor clipped outliers. -/
def Block.plain (b : Block) : List Lns :=
  (b.vals.zipIdx.filter (fun e => !b.slots.contains e.2 && !b.ovf.contains e.2 && !b.extra.contains e.2)).map (·.1)

/-- λ_top of a block. -/
def Block.top (b : Block) : Option Int := (rankedLams b.plain).head?

/-- Whether a need lies outside the exponents or scales of LNS12S, and the need within them (R120). -/
def clampTo (lo hi x : Int) : Int × Bool := if x < lo then (lo, true) else if x > hi then (hi, true) else (x, false)

/-- The E_need of a block under ALIGN 1, with its clamping; `c` is C_w and `wide` tells a block of width 2 or more. -/
def Block.eNeed (d : Desc) (c : Int) (wide : Bool) (b : Block) : Option (Int × Bool) :=
  if wide then b.top.map (fun t => clampTo (-128) 127 (ceilDiv (t - c - 64 * d.fRef) 1024))
  else (lamMed b.vals).map (fun m => clampTo (-128) 127 ((m - 64 * d.fRef + 512) / 1024))

/-- The L of a block under ALIGN 0, with its clamping; none when it has no scale of its own. -/
def Block.lNeed (c : Int) (wide : Bool) (b : Block) : Option (Int × Bool) :=
  if wide then b.top.map (fun t => clampTo (-2048) 2047 (ceilDiv (t - c) 64))
  else (lamMed b.vals).map (fun m => clampTo (-2048) 2047 ((m + 32) / 64))

/-- The scales of the blocks of a segment under ALIGN 0 (R118), and their VEC_E. -/
def freeScales (needs : List (Option (Int × Bool))) : List (Int × Bool) × Int :=
  let own := needs.filterMap (fun n => n.map (fun e => e.1 / 16))
  let e0 := (minInt? own).map (fun e => 16 * e)
  let ls := needs.map (fun n => n.getD (e0.getD 0, false))
  (ls, (minInt? (ls.map (fun l => l.1 / 16))).getD 0)

/-- VEC_E of R119 from the needs of a whole vector; none when no block has one. -/
def alignE (needs : List Int) : Option Int := match minInt? needs, maxInt? needs with
  | some a, some b => some (max a (b - 7))
  | _, _ => none

/-- The scale of a block under ALIGN 1, with its clamping, and whether it was raised. -/
def alignScale (d : Desc) (vecE : Option Int) (need : Option (Int × Bool)) : (Int × Bool) × Bool :=
  let v := vecE.getD 0
  match need with
  | none => ((16 * v + d.fRef, false), false)
  | some n => ((16 * max n.1 v + d.fRef, n.2), decide (n.1 < v))

/-- The codes of a block (R121), and how many values QCLAMP counts. DESIGN CHOICE (log entry 41): in a block of width 1 the code of
an outlier is its sign, as R121 says of each value, and the column tap adds its value as well. -/
def Block.codes (qmax : Int) (wide : Bool) (l : Int × Bool) (b : Block) : List Int × Nat :=
  let cs := b.vals.zipIdx.map (fun (e : Lns × Nat) =>
    if !wide then (if e.1.neg && !e.1.zero then (-1 : Int) else 1, 0)
    else if e.1.zero || b.slots.contains e.2 || b.ovf.contains e.2 then ((0 : Int), 0)
    else
      let m : Int := antilogRound (e.1.lam - 64 * l.1)
      (if e.1.neg then -(min qmax m) else min qmax m,
        if l.2 && decide (qmax < m) && !b.extra.contains e.2 then 1 else 0))
  (cs.map (·.1), (cs.map (·.2)).sum)

/-! ### Segments and records (R51 to R53, R131, R202) -/

/-- Bit `b` of a code in two's complement; of width 1 in a segment of width 1, 1 for −1. -/
def codeBit (w b : Nat) (q : Int) : Bool := if w = 1 then decide (q < 0) else (BitVec.ofInt 16 q).getLsbD b

/-- The granules of a segment from its blocks' codes, scales and widths: scale granule first. -/
def mkSegment (codes : List (List Int)) (scales : List Int) (widths : List Nat) (vecE : Int) : List (BitVec 256) :=
  let w := widths.foldl max 1
  let all := codes.flatten
  let planes := (List.range w).map (fun b => bitsOf 256 (fun j => codeBit w b (all.getD j 0)))
  let zf := ((planes.zipIdx.map (fun e => if e.1 = 0#256 then 2 ^ e.2 else 0)).sum)
  mkScaleGranule scales widths vecE w zf :: planes

/-- The ten granules of a segment's outlier area (R131), and the values that saturated as LNS16 (R104). -/
def outlierArea (bs : List Block) : List (BitVec 256) × Nat :=
  let code (i : Nat) (b : Block) : BitVec 16 × Nat := toLns16 (b.vals.getD i Lns.z)
  let slot (k i : Nat) (b : Block) : Nat := (32 * k + i) * 65536 + (code i b).1.toNat
  let blocks := bs.zipIdx.flatMap (fun (e : Block × Nat) =>
    e.1.slots.zipIdx.map (fun (o : Nat × Nat) => (8 * e.2 + o.2, slot e.2 o.1 e.1)))
  let ovfs := (bs.zipIdx.flatMap (fun (e : Block × Nat) => e.1.ovf.map (fun o => slot e.2 o e.1))).zipIdx.map (fun o => (64 + o.2, o.1))
  let g0 := (bs.zipIdx.map (fun e => e.1.slots.length * 2 ^ (4 * e.2))).sum + ovfs.length * 2 ^ 32
  let stream := ((blocks ++ ovfs).map (fun e => e.2 * 2 ^ (24 * e.1))).sum
  (BitVec.ofNat 256 g0 :: (List.range 9).map (fun i => BitVec.ofNat 256 (stream >>> (256 * i))),
    ((bs.flatMap (fun b => (b.slots ++ b.ovf).map (fun i => (code i b).2))).sum))

/-- A trestle record of a block (R202). -/
def trsRecord (codes : List Int) (l : Int) : BitVec 512 :=
  BitVec.ofNat 512 (((List.range 32).map (fun i => (codes.getD i 0 % 4096).toNat * 2 ^ (12 * i))).sum + (l % 4096).toNat * 2 ^ 384)

/-- The key of a trestle input record: producing descriptor, batch slot, place in the list, block of the vector. -/
def trsKey (desc slot occ block : Nat) : Nat := ((desc * 4096 + slot) * 65536 + occ) * 65536 + block

/-- The stride of the segments of an output: a segment of the greatest width that a block may take. -/
def Desc.outStride (d : Desc) : Nat := 1 + (if d.outlEn then 8 else max d.wPlan d.wMax)

/-! ### Stage 8 -/

/-- The rows of one sequence in a conversion, as (position, slot, occurrence). -/
def seqsOf (lines : List ConvLine) : List (Nat × Nat × Nat) := (lines.map (fun c => (c.pos, c.slot, c.occ))).eraseDups

/-- The lines of one sequence in row order. -/
def linesOf (lines : List ConvLine) (k : Nat) : List ConvLine :=
  (lines.filter (fun c => decide (c.pos = k))).mergeSort (fun a b => decide (a.row16 ≤ b.row16))

/-- Values `32 b` to `32 b + 31` of a slice, zeros where no line was converted. -/
def blockVals (lines : List ConvLine) (b : Nat) : List Lns :=
  [2 * b, 2 * b + 1].flatMap (fun r => ((lines.find? (fun c => decide (c.row16 = r))).map (·.vals)).getD (List.replicate 16 Lns.z))

/-- A deck-store address of an output: DST plus an offset, under its index. -/
def ConvWork.addr (w : ConvWork) (k : Nat) : Option Nat := match w.ring with
  | none => if w.dst + k < deckGranules then some (w.dst + k) else none
  | some (g, r) => some (w.dst / 2 ^ r * 2 ^ r + (w.dst + g + k) % 2 ^ r)

/-- The offset of a sequence's output from DST. -/
def ConvWork.seqOff (w : ConvWork) (d : Desc) (k : Nat) : Nat := (k - w.seq0) * d.outSeqStride

/-- The cycle at which a value of a line is written: 14 cycles after the line has been read in the last sweep (R99). -/
def ConvWork.landAt (w : ConvWork) (idx : Nat) : Nat := w.base + idx + 15

/-- The cycle at which the last of some lines of a conversion is written. -/
def ConvWork.landLast (w : ConvWork) (f : ConvLine → Bool) : Nat := w.landAt (((w.lines.filter f).map (·.idx)).foldl max 0)

/-- Fold a granule that an abutment writes for a batch slot into the lock-step sums (R536), with its index within the sequence's
output. -/
def State.foldGranule (l p : Nat) (w : ConvWork) (slot idx : Nat) (v : BitVec 256) (s : State) : State :=
  s.foldItem (s.span p).seq.phase w.desc l (natToBytes 4 (((s.tick.slots[slot]?).map (·.handle)).getD 0) ++ natToBytes 4 idx)
    (natToBytes 32 v.toNat)

/-- Write granules of an output to every receiving span in cycle `cyc`, where each raises RCTR as it lands, and fold them into the
lock-step sums. `gs` gives offset from DST, value and index within the sequence's output. -/
def State.writeOut (l p cyc : Nat) (d : Desc) (w : ConvWork) (slot : Nat) (gs : List (Nat × BitVec 256 × Nat)) (s : State) :
    State :=
  match gs.mapM (fun g => (w.addr g.1).map (fun a => (a, g.2.1))) with
  | none => s.progFault l p 0x03 (s.span p).seq.pc
  | some ws =>
    let s := (s.destSpans l d w.dspan).foldl (fun (s : State) (t : Nat) => s.askOut cyc .abutment l t w.rctr ws) s
    gs.foldl (fun (s : State) (g : Nat × BitVec 256 × Nat) => s.foldGranule l p w slot g.2.2 g.2.1) s

/-- A sequence whose blocks have their widths: what alignment needs to know. -/
structure SeqBlocks where
  l : Nat
  p : Nat
  pos : Nat
  slot : Nat
  occ : Nat
  blocks : List (Nat × Block)          -- by block of the slice
deriving DecidableEq, Repr

/-- C_w and Q_max of a block: those of its width, or those of trestle input (R115). -/
def blockC (d : Desc) (w : Nat) : Int := if d.outKind = 3 then 11264 else cW w
def blockQ (d : Desc) (w : Nat) : Int := if d.outKind = 3 then 2047 else qMax w

/-- The blocks of a sequence of a conversion: for NA-w output whole segments with their widths and outliers. -/
def State.seqBlocks (l p : Nat) (d : Desc) (w : ConvWork) (q : Nat × Nat × Nat) (s : State) : SeqBlocks × State :=
  let lines := linesOf w.lines q.1
  let bs := if d.outKind = 3 then (lines.map (fun c => c.row16 / 2)).eraseDups
    else ((lines.map (fun c => c.row16 / 16)).eraseDups).flatMap (fun m => (List.range 8).map (fun b => 8 * m + b))
  let r := bs.foldl (fun (acc : List (Nat × Block) × State) (b : Nat) =>
    let vals := blockVals lines b
    if d.outKind = 3 then (acc.1 ++ [(b, { vals := vals, w := 12, slots := [], extra := [], ovf := [] })], acc.2)
    else
      let x := acc.2.blockOf l p q.2.1 w.desc d vals
      (acc.1 ++ [(b, x.1)], x.2)) ([], s)
  let segs := (r.1.map (fun e => e.1 / 8)).eraseDups
  let done := if d.outKind = 3 then r.1
    else segs.flatMap (fun m =>
      let mine := r.1.filter (fun e => decide (e.1 / 8 = m))
      (mine.map (·.1)).zip (overflow s.fidelity (mine.map (·.2))))
  let s := r.2.modSpan p (fun x => (x.inc 0x294 ((done.map (fun e => e.2.ovf.length)).sum)).inc 0x298
    ((done.map (fun e => e.2.extra.length)).sum))
  ({ l := l, p := p, pos := q.1, slot := q.2.1, occ := q.2.2, blocks := done }, s)

/-- The E_needs of a sequence's blocks. -/
def SeqBlocks.needs (d : Desc) (q : SeqBlocks) : List Int :=
  q.blocks.filterMap (fun e => (e.2.eNeed d (blockC d e.2.w) (decide (2 ≤ e.2.w))).map (·.1))

/-- Quantise and write the blocks of a sequence; `vecE` is the reduction's answer under ALIGN 1. DESIGN CHOICE (log entry 41): a
block of trestle input lies in no segment, and is a segment of its own where R118 asks for one. -/
def State.writeBlocks (d : Desc) (w : ConvWork) (vecE : Option Int) (q : SeqBlocks) (s : State) : State :=
  let wide (b : Block) : Bool := decide (2 ≤ b.w)
  let segs := if d.outKind = 3 then q.blocks.map (fun e => [e])
    else ((q.blocks.map (fun e => e.1 / 8)).eraseDups).map (fun m => q.blocks.filter (fun e => decide (e.1 / 8 = m)))
  segs.foldl (fun (s : State) (g : List (Nat × Block)) =>
    let free := freeScales (g.map (fun e => e.2.lNeed (blockC d e.2.w) (wide e.2)))
    let aligned := g.map (fun e => alignScale d vecE (e.2.eNeed d (blockC d e.2.w) (wide e.2)))
    let ls := if d.align then aligned.map (·.1) else free.1
    let ve := if d.align then vecE.getD 0 else free.2
    let codes := (g.zip ls).map (fun e => e.1.2.codes (blockQ d e.1.2.w) (wide e.1.2) e.2)
    let s := s.modSpan q.p (fun x => (x.inc 0x29C ((codes.map (·.2)).sum)).inc 0x2AC
      (if d.align then aligned.countP (fun e => e.2) else 0))
    let place := s.sliceOf d q.l
    let b0 := ((g.head?).map (·.1)).getD 0
    if d.outKind = 3 then
      let rec_ := trsRecord (((codes.head?).map (·.1)).getD []) (((ls.head?).map (·.1)).getD 0)
      let block := place.1 * (d.rows16 / 2) + b0
      let put : TrsPut := { cyc := w.landLast (fun c => decide (c.pos = q.pos ∧ c.row16 / 2 = b0)),
                            key := trsKey w.desc q.slot q.occ block, value := rec_, source := w.desc * 128 + q.l,
                            whole := (s.seqList q.p).length * (d.rows16 / 2) }
      { s with trs := { s.trs with late := s.trs.late ++ [put] } }
    else
      let m := b0 / 8
      let grans := mkSegment (codes.map (·.1)) (ls.map (·.1)) (g.map (fun e => e.2.w)) ve
      let at_ := w.landLast (fun c => decide (c.pos = q.pos ∧ c.row16 / 16 = m))
      let s := s.writeOut q.l q.p at_ d w q.slot (grans.zipIdx.map (fun e =>
        (w.seqOff d q.pos + m * d.outStride + e.2, e.1, m * d.outStride + e.2)))
      if !d.outlEn then s
      else
        let n := place.2 * (d.rows16 / 16)
        let a := d.outlBase + 10 * (q.pos * n + place.1 * (d.rows16 / 16) + m)
        let area := outlierArea (g.map (·.2))
        let s := s.modSpan q.p (Span.inc 0x220 area.2)
        let s := area.1.zipIdx.foldl (fun (s : State) (e : BitVec 256 × Nat) => s.foldGranule q.l q.p w q.slot (10 * m + e.2) e.1) s
        (s.destSpans q.l d w.dspan).foldl (fun (s : State) (t : Nat) =>
          s.askOut at_ .abutment q.l t w.rctr (area.1.zipIdx.map (fun e => (a + e.2, e.1)))) s) s

/-- The LNS16 output of a conversion: one granule for each line. -/
def State.writeLns (l p : Nat) (d : Desc) (w : ConvWork) (s : State) : State :=
  w.lines.foldl (fun (s : State) (c : ConvLine) =>
    let cs := c.vals.map toLns16
    let g := BitVec.ofNat 256 ((cs.zipIdx.map (fun e => e.1.1.toNat * 2 ^ (16 * e.2))).sum)
    let s := s.modSpan p (Span.inc 0x220 ((cs.map (·.2)).sum))
    s.writeOut l p (w.landAt c.idx) d w c.slot [(w.seqOff d c.pos + c.row16, g, c.row16)]) s

/-- The granule of the predictor mask in which a line's bits lie (R177). -/
def Desc.maskGranule (d : Desc) (c : ConvLine) : Nat := d.predMaskBase + c.pos * cdiv (16 * d.rows16) 256 + c.row16 / 16

/-- Fold the granules of a predictor mask into the lock-step sums (R536), each under the sequence whose bits it holds. -/
def State.foldMask (l p : Nat) (d : Desc) (w : ConvWork) (ws : List DeckPut) (s : State) : State :=
  ws.foldl (fun (s : State) (u : DeckPut) => match w.lines.find? (fun c => decide (d.maskGranule c = u.g)) with
    | none => s
    | some c => s.foldGranule l p w c.slot (c.row16 / 16) u.v) s

/-- The output of a predictor layer (R177): one bit for each sequence and row group. -/
def State.writeMask (l p : Nat) (d : Desc) (w : ConvWork) (s : State) : State :=
  let tau := lnsOf (BitVec.ofNat 16 d.predTau)
  let one (v : Lns) : Bool := !v.zero && !v.neg && (tau.zero || decide (tau.lam ≤ v.lam))
  let grans := (w.lines.map d.maskGranule).eraseDups
  let ws := grans.map (fun g =>
    let old := (s.span p).latest g
    let v := w.lines.foldl (fun (v : BitVec 256) (c : ConvLine) =>
      if d.maskGranule c ≠ g then v
      else
        let bits := bitsOf 16 (fun i => one (c.vals.getD i Lns.z))
        let at_ := 16 * (c.row16 % 16)
        (v &&& ~~~(BitVec.ofNat 256 (65535 * 2 ^ at_))) ||| BitVec.ofNat 256 (bits.toNat * 2 ^ at_)) old
    DeckPut.clean (w.landLast (fun c => decide (d.maskGranule c = g))) .abutment l g v (.ctr w.rctr 1))
  if grans.any (fun g => decide (deckGranules ≤ g)) then s.progFault l p 0x03 (s.span p).seq.pc
  else (s.askPuts l ws).foldMask l p d w ws

/-! ### The end of a conversion, for the members of its writer group -/

/-- One member of a conversion: logical and physical span and its work. -/
abbrev ConvMember := Nat × Nat × ConvWork

/-- The normalisation factors of the sequences of a reduction (R112): by slot and occurrence. -/
def normFactors (d : Desc) (ms : List ConvMember) : List ((Nat × Nat) × Lns × Nat) :=
  let keys := (ms.flatMap (fun m => (seqsOf m.2.2.lines).map (·.2))).eraseDups
  keys.map (fun k =>
    let parts := ms.filterMap (fun (m : ConvMember) => match (seqsOf m.2.2.lines).find? (fun q => decide (q.2 = k)) with
      | none => none
      | some q => some (squareSum (linesOf m.2.2.lines q.1)))
    let t := logTree parts
    let f := normFactor d t.1
    (k, f.1, t.2 + f.2))

/-- A member's lines after stages 6 and 7. -/
def State.finishLines (d : Desc) (factors : List ((Nat × Nat) × Lns × Nat)) (m : ConvMember) (s : State) : ConvMember × State :=
  let x := s.span m.2.1
  let out := m.2.2.lines.map (fun c =>
    let norm := if d.normEn then some (((factors.find? (fun f => decide (f.1 = (c.slot, c.occ)))).map (fun f => f.2.1)).getD Lns.z)
      else none
    x.lineOut d norm c)
  let own := (factors.filter (fun f => m.2.2.lines.any (fun c => decide ((c.slot, c.occ) = f.1)))).map (fun f => f.2.2)
  let s := s.modSpan m.2.1 (fun x => (x.inc 0x220 ((out.map (·.2.1)).sum + own.sum)).inc 0x2A0 ((out.map (·.2.2)).sum))
  ((m.1, m.2.1, { m.2.2 with lines := out.map (·.1) }), s)

/-- The sweeps of a conversion (R99). -/
def Desc.sweeps (d : Desc) : Nat :=
  if d.predOut then 1 else 1 + bit d.normEn + bit (d.align && decide (d.outKind = 0 ∨ d.outKind = 3))

/-- When the sweeps of a conversion before the last one end. Steering entries hold a line in every sweep, since each recomputes
stage 4 (DEDUCED from R99 and R100, log entry 40). -/
def ConvWork.gathered (d : Desc) (w : ConvWork) : Nat := w.cyc + (d.sweeps - 1) * (w.n + w.stall)

/-- A conversion whose last sweep can begin, `ready` being when every member has ended its sweeps before the last. -/
def ConvWork.start (d : Desc) (ready : Nat) (w : ConvWork) : ConvWork :=
  { w with base := max ready (w.gathered d + (if d.sweeps > 1 then d.redPlan else 0)) }

/-- The time that a conversion takes on a member: the unit is busy to the end of its last sweep, and what exceeds the plan is
SPN_ABT_STALL. -/
def Span.convTime (d : Desc) (w : ConvWork) (x : Span) : Span :=
  let done := w.base + w.n + w.stall
  let stall := done - (w.cyc + d.sweeps * w.n + (if d.sweeps > 1 then d.redPlan else 0))
  let x := x.modCtx w.ctx (fun c => { c with drainAt := max c.drainAt (done + 14) })
  ({ x with abt := { x.abt with busyUntil := max x.abt.busyUntil done, writtenAt := max x.abt.writtenAt (done + 14),
                                overBusy := if stall > 0 then some .stall else x.abt.overBusy } }).inc 0x284 stall

/-- Stage 5's second output (R111): the new residual vector, written in the last sweep. -/
def State.writeResidual (l p : Nat) (d : Desc) (w : ConvWork) (s : State) : State :=
  if !(d.resEn && d.resOut) then s
  else w.lines.foldl (fun (s : State) (c : ConvLine) =>
    let cs := codesOf c.vals
    let g := BitVec.ofNat 256 ((cs.1.zipIdx.map (fun e => e.1.toNat * 2 ^ (16 * e.2))).sum)
    let a := d.resOutBase + c.pos * d.slice16 + c.row16
    let s := s.modSpan p (Span.inc 0x220 cs.2)
    if deckGranules ≤ a then s.progFault l p 0x03 (s.span p).seq.pc
    else (s.askPuts l [DeckPut.clean (w.landAt c.idx) .abutment l a g .nothing]).foldGranule l p w c.slot c.row16 g) s

/-! ### Appends (R157 to R159) -/

/-- Where a group of 16 channels of a cache layer goes: value or key, head, group within the head. Channels are the keys of
every head and then the values; when keys come back rotated as KIND 2 partials, those are the keys and the layer's own lines
are the values. -/
def Desc.kvPlace (d : Desc) (kind ch16 : Nat) : Bool × Nat × Nat :=
  let per := d.dH / 16
  let n := d.nKv * per
  if d.flag 24 15 then (decide (kind ≠ 2), ch16 % n / per, ch16 % per)
  else (decide (n ≤ ch16), ch16 % n / per, ch16 % per)

/-- The device offsets of a group of a sequence's position in a cache layer; none when its entry is not VALID. -/
def State.kvGroup (s : State) (d : Desc) (q : Request) (pos : Nat) (v : Bool) (h g : Nat) : Option (List Nat) :=
  match s.layerClass? d.kvLayer with
  | none => none
  | some c =>
    let page := pos / 2 ^ q.pageLog2
    let e := s.ptRead q.ptBase d.kvLayer page
    if !e.valid ∨ q.ptRows ≤ page then none
    else
      let o := c.slotOff q.pageLog2 h (pos % 2 ^ q.pageLog2) v + 9 * g
      some ((List.range 9).map (fun i => s.frameAddr c.cls e.frame (o + i)))

/-- The position that a list position stands for: the query position of its slot that its occurrence names. -/
def State.posOf (s : State) (d : Desc) (c : ConvLine) : Option Nat :=
  (s.tick.slots[c.slot]?).bind (fun x => (s.queriesOf d x)[c.occ]?)

/-- Whether an append is speculative (R168). -/
def State.speculative (s : State) (d : Desc) (x : Slot) (q : Request) (pos : Nat) : Bool :=
  let fb := (s.bitstream?.bind (·.footbridge)).map (·.cls)
  decide (0 < x.drafts) && (if fb = some d.kvClass then decide (q.committed ≤ pos) else decide (q.committed < pos))

/-- Append one line: its values as LNS16 are encoded, and its group is on its way; a missing frame drops it with a fault (R63,
R159). -/
def State.appendLine (l p : Nat) (d : Desc) (w : ConvWork) (to_ : Nat × Nat) (n : ConvLine) (s : State) : State :=
  match s.tick.slots[n.slot]?, s.posOf d n with
  | some x, some pos => match kfind? s.requests x.handle with
    | none => s
    | some q =>
      let ch16 := (s.sliceOf d l).1 * d.rows16 + n.row16
      let pl := d.kvPlace n.kind ch16
      let cs := codesOf n.vals
      let enc := kv4Encode d.kvBase (cs.1.map lnsOf)
      let s := s.modSpan p (fun x => (x.inc 0x220 cs.2).inc 0x21C enc.2)
      let ack (bytes : List (Nat × Byte)) (s : State) : State := s.modSpan p (fun x => { x with abt := { x.abt with
        kvAcks := x.abt.kvAcks ++ [{ cyc := w.landAt n.idx, spans := s.destSpans l d to_.1, ctr := to_.2, bytes := bytes }] } })
      match s.kvGroup d q pos pl.1 pl.2.1 pl.2.2 with
      | none => ((ack [] s).modSpan p (Span.inc 0x2C4 1)).dataFault l p 0
      | some offs =>
        let s := ack (offs.zip enc.1) s
        let s := s.winAdd q.partition 8 9
        let s := if s.speculative d x q pos then (s.incBytes 0x040118 9).winAdd q.partition 9 9 else s
        s.foldItem (s.span p).seq.phase w.desc l
          (natToBytes 4 x.handle ++ natToBytes 4 n.row16) enc.1
  | _, _ => s

/-! ### Completion -/

/-- The output of stage 8 other than NA-w segments and trestle input: LNS16 granules or key-value groups. -/
def State.writeLines (d : Desc) (m : ConvMember) (s : State) : State := match m.2.2.kv with
  | some k => m.2.2.lines.foldl (fun (s : State) (n : ConvLine) => s.appendLine m.1 m.2.1 d m.2.2 k n) s
  | none => s.writeLns m.1 m.2.1 d m.2.2

/-- Complete a conversion of layer `d` for its members, each with the cycle of its last sweep: the residual output and stages 6
to 8. -/
def State.finishConv (d : Desc) (ms : List ConvMember) (s : State) : State :=
  let s := ms.foldl (fun (s : State) (m : ConvMember) => s.writeResidual m.1 m.2.1 d m.2.2) s
  let factors := if d.normEn then normFactors d ms else []
  let r := ms.foldl (fun (acc : List ConvMember × State) (m : ConvMember) =>
    let y := acc.2.finishLines d factors m
    (acc.1 ++ [y.1], y.2)) ([], s)
  if d.outKind = 1 ∨ d.outKind = 2 then r.1.foldl (fun (s : State) (m : ConvMember) => s.writeLines d m) r.2
  else
    let b := r.1.foldl (fun (acc : List (ConvWork × SeqBlocks) × State) (m : ConvMember) =>
      (seqsOf m.2.2.lines).foldl (fun (acc : List (ConvWork × SeqBlocks) × State) (q : Nat × Nat × Nat) =>
        let y := acc.2.seqBlocks m.1 m.2.1 d m.2.2 q
        (acc.1 ++ [(m.2.2, y.1)], y.2)) acc) ([], r.2)
    b.1.foldl (fun (s : State) (e : ConvWork × SeqBlocks) =>
      let needs := (b.1.filter (fun (f : ConvWork × SeqBlocks) => decide (f.2.slot = e.2.slot ∧ f.2.occ = e.2.occ))).flatMap
        (fun f => f.2.needs d)
      s.writeBlocks d e.1 (alignE needs) e.2) b.2

/-- The members whose conversions of layer `i` wait, when every span of the writer group has one. -/
def State.readyMembers (s : State) (i : Nat) (d : Desc) : Option (List ConvMember) :=
  let ms := s.binding.filterMap (fun (e : Nat × Nat) =>
    ((s.span e.2).abt.works.find? (fun w => decide (w.desc = i))).map (fun w => (e.1, e.2, w)))
  if (s.writers d).all (fun l => ms.any (fun m => decide (m.1 = l))) then some ms else none

/-- Complete the conversions of a layer that wait, when all of the writer group has come. -/
def State.reduceConv (i : Nat) (d : Desc) (s : State) : State := match s.readyMembers i d with
  | none => s
  | some ms =>
    let ready := (ms.map (fun m => m.2.2.gathered d)).foldl max 0
    let ns := ms.map (fun m => (m.1, m.2.1, m.2.2.start d ready))
    let s := (ms.zip ns).foldl (fun (s : State) (m : ConvMember × ConvMember) => s.modSpan m.1.2.1 (fun x =>
      ({ x with abt := { x.abt with works := x.abt.works.erase m.1.2.2 } }).convTime d m.2.2.2)) s
    s.finishConv d ns

/-! ### CONV (R283) -/

/-- A line that a conversion reads and clears of its pending state. -/
def Span.readLine (n : Nat) (x : Span) : Span :=
  { x with lines := kmod Line.zero x.lines n (fun ln => { ln with pending := false }) }

/-- The variant record of a list position's sequence (R109, R110). -/
def State.variantRec (s : State) (p : Nat) (d : Desc) (slot k : Nat) : Option (List Byte) :=
  let named := ((s.tick.slots[slot]?).bind (fun x => kfind? s.requests x.handle)).bind (·.variant)
  if d.varAt && named.isSome then some ((s.span p).deckBytes (d.varBase + 128 * k) 128) else none

/-- What one line of CONV or KVAPP becomes: nothing for a line outside the list or the slice. -/
def State.takeLine (c : Ctx) (seq0 n : Nat) (s : State) : Option (Nat × ConvLine × ConvCount × List Nat) :=
  let x := s.span c.p
  let ln := kget Line.zero x.lines n
  let di := x.lineDesc ln
  match s.abtDesc? c.p (tagCtx ln.tag) di with
  | none => none
  | some d =>
    let lps := max 1 d.linesPerSeq
    let k := seq0 + (n - d.accBase) / lps
    let row := d.rowOf ln ((n - d.accBase) % lps)
    let list := s.seqList c.p
    if list.length ≤ k ∨ d.rows16 ≤ row then none
    else
      let slot := list.getD k 0
      let place := s.sliceOf d c.l
      let rec_ := s.variantRec c.p d slot k
      let r := x.lineVals d ln (x.notMade ln k) k row (place.1 * 16 * d.rows16) (place.2 * 16 * d.rows16) rec_
      let later := (if d.resEn then [d.resBase + k * d.slice16 + row] else []) ++ (if d.normEn then [d.gainTab + row] else [])
      let reads := (if d.scaleMode = 2 then [d.scaleTab + row] else []) ++ (if d.predOut then [] else later)
      some (di, { pos := k, slot := slot, occ := occOf list k, row16 := row, kind := tagKind ln.tag, idx := 0, vals := r.1 },
        r.2, reads)

/-- The lines of CONV, KVAPP, ARANK and ASAMP wait for additions in flight (Table 9.9). -/
def landingHold (line0 n : Nat) (c : Ctx) (s : State) : Option Why :=
  if (s.span c.p).landing line0 n then some { kind := .hazard, ctr := 0, counter := 0x34C, cls := .stall } else none

/-- A line that CONV or KVAPP has read: its layer, its context, and its values after stage 5. -/
structure LineRead where
  di : Nat
  ctx : Nat
  line : ConvLine
deriving DecidableEq, Repr

/-- Lines read: what they became, the cycles that steering entries held a sweep, and whether a tag failed. -/
structure LinesRead where
  lines : List LineRead
  held : Nat
  failed : Bool
deriving DecidableEq, Repr

/-- One line is read: the tag check, stages 2 to 5 and the counts. `i` is its place among the lines. -/
def State.readOne (c : Ctx) (seq0 n i : Nat) (r : LinesRead) (s : State) : LinesRead × State :=
  let ln := kget Line.zero (s.span c.p).lines n
  match s.takeLine c seq0 n with
  | none => (r, s)
  | some t =>
    let s := s.modSpan c.p (Span.readLine n)
    if !(s.span c.p).tagOk ln.tag then ({ r with failed := true }, s.modSpan c.p (Span.inc 0x218 1))
    else
      let s := s.modSpan c.p (fun x => (((x.readG t.2.2.2).2.inc 0x220 t.2.2.1.sat).inc 0x2A4 t.2.2.1.drop))
      let held := r.held + (cdiv t.2.2.1.steer 4 - 1)
      ({ r with lines := r.lines ++ [{ di := t.1, ctx := tagCtx ln.tag, line := { t.2.1 with idx := i + held } }], held := held },
        s.checkPoison c.l c.p t.2.2.2)

/-- Read the lines of CONV or KVAPP. -/
def State.readLines (c : Ctx) (seq0 : Nat) (ns : List Nat) (s : State) : LinesRead × State :=
  ns.zipIdx.foldl (fun (acc : LinesRead × State) (n : Nat × Nat) => acc.2.readOne c seq0 n.1 n.2 acc.1)
    ({ lines := [], held := 0, failed := false }, s)

/-- What CONV and KVAPP ask of the lines that they read. -/
structure ConvArgs where
  line0 : Nat
  nlines : Nat
  seq0 : Nat
  dst : Nat
  dspan : Nat
  rctr : Nat
  kv : Option (Nat × Nat)
deriving DecidableEq, Repr

/-- The work of a conversion on one layer's lines. -/
def ConvArgs.work (a : ConvArgs) (c : Ctx) (delay : Nat) (di k : Nat) (r : LinesRead) : ConvWork :=
  { desc := di, ctx := k, kv := a.kv, cyc := c.cyc + delay, n := a.nlines, stall := r.held, seq0 := a.seq0 + c.ix.l, dst := a.dst,
    ring := c.ix.ring.map (fun q => (c.ix.g, q)), dspan := a.dspan, rctr := a.rctr, base := 0,
    lines := (r.lines.filter (fun e => decide (e.di = di ∧ e.ctx = k))).map (·.line) }

/-- One layer's lines are converted: at once, or when its writer group's partials have come (R112, R119). -/
def State.startConv (c : Ctx) (d : Desc) (w : ConvWork) (s : State) : State :=
  if d.sweeps > 1 ∧ (s.writers d).contains c.l then
    (s.modSpan c.p (fun x => { x with abt := { x.abt with works := x.abt.works ++ [w] } })).reduceConv w.desc d
  else
    let w := w.start d 0
    let s := s.modSpan c.p (Span.convTime d w)
    if d.predOut then s.writeMask c.l c.p d w else s.finishConv d [(c.l, c.p, w)]

/-- Whether a layer's lines may be converted by CONV, or by KVAPP: an OUT_KIND 2 belongs to KVAPP (R283, R284). A predictor layer
has no stage 8 (R177). -/
def modeOk (kv : Bool) (d : Desc) : Bool := if kv then decide (d.outKind = 2) else d.predOut || decide (d.outKind ≠ 2)

/-- CONV or KVAPP acts. -/
def convAct (a : ConvArgs) (deck : DeckUse) (c : Ctx) (s : State) : State :=
  let seq0 := a.seq0 + c.ix.l
  let ns := (List.range a.nlines).map (fun i => a.line0 + i)
  if a.line0 + a.nlines > 4096 then s.faultAt c 0x04
  else if s.badList c.p ((ns.filterMap (fun n => (s.takeLine c seq0 n).map (fun r => r.2.1.pos))).eraseDups) then s.faultAt c 0x0B
  else
    let r := s.readLines c seq0 ns
    let s := r.2.deckUse c.l c.p deck
    if r.1.failed then s.dataFault c.l c.p 0
    else
      let ds := (r.1.lines.map (fun e => (e.di, e.ctx))).eraseDups
      if ds.any (fun i => !((s.abtDesc? c.p i.2 i.1).map (modeOk a.kv.isSome)).getD false) then s.faultAt c 0x06
      else
        let delay := deckDelay deck
        let s := s.modSpan c.p (fun x => { x with abt := { x.abt with
          busyUntil := c.cyc + a.nlines + delay, overBusy := if 0 < delay then some .mem else none } })
        ds.foldl (fun (s : State) (i : Nat × Nat) => match s.abtDesc? c.p i.2 i.1 with
          | none => s
          | some d => s.startConv c d (a.work c delay i.1 i.2 r.1)) s

/-! ### CONV (R283) -/

/-- CONV. -/
def execConv (i : Issue) (w : WaitGroup) (line0 : BitVec 12) (nlines : BitVec 13) (dst : BitVec 17) (dspan : BitVec 8)
    (rctr : BitVec 5) (seq0 : BitVec 12) (deck : DeckUse) (s : State) : Host.Outcome State Fault Refusal :=
  s.present i (.conv · w line0 nlines dst dspan rctr seq0 .clean) .abutment w (landingHold line0.toNat nlines.toNat)
    (convAct { line0 := line0.toNat, nlines := nlines.toNat, seq0 := seq0.toNat, dst := dst.toNat, dspan := dspan.toNat,
               rctr := rctr.toNat, kv := none } deck)

/-! ### KVAPP (R284) -/

/-- KVAPP. -/
def execKvapp (i : Issue) (w : WaitGroup) (line0 : BitVec 12) (nlines : BitVec 13) (seq0 : BitVec 12) (nspan : BitVec 8)
    (nctr : BitVec 5) (deck : DeckUse) (s : State) : Host.Outcome State Fault Refusal :=
  s.present i (.kvapp · w line0 nlines seq0 nspan nctr .clean) .abutment w (landingHold line0.toNat nlines.toNat)
    (convAct { line0 := line0.toNat, nlines := nlines.toNat, seq0 := seq0.toNat, dst := 0, dspan := 0, rctr := 0,
               kv := some (nspan.toNat, nctr.toNat) } deck)

/-- KVAPP_ACK: the controllers have written and acknowledged every group of the oldest line that waits; NCTR of the spans that
NSPAN names rises by one. -/
def execKvappAck (l : Fin 128) (cyc : Nat) (errs : MemErrs) (s : State) : Host.Outcome State Fault Refusal :=
  let s := (s.toCyc cyc).upset errs
  if !s.tick.active then .next s
  else match s.phys? l.val with
    | none => .next s
    | some p => match (s.span p).abt.kvAcks with
      | [] => .next s
      | a :: rest =>
        if cyc < a.cyc then .next s
        else
          let s := (s.modSpan p (fun x => { x with abt := { x.abt with kvAcks := rest } })).memWrite a.bytes
          .next (a.spans.foldl (fun (s : State) (t : Nat) => s.ctrAdd cyc t a.ctr 1) s)

/-! ### TBLLD (R114, R285) -/

/-- A busy context that names a table slot holds TBLLD. -/
def slotHazard (slot : Nat) (c : Ctx) (s : State) : Option Why :=
  let x := s.span c.p
  if x.abt.ctxs.any (fun e => x.ctxBusy e.1 c.cyc && decide (((s.desc? e.2.desc).map (fun d => d.nltSlot)).getD 0xF = slot)) then
    some { kind := .hazard, ctr := 0, counter := 0x34C, cls := .stall }
  else none

/-- TBLLD acts: 257 granules become a nonlinearity table. -/
def tblldAct (slot src : Nat) (deck : DeckUse) (c : Ctx) (s : State) : State :=
  match c.ix.addrs src 257 with
  | none => s.faultAt c 0x03
  | some gs =>
    let s := s.modSpan c.p (fun x =>
      let r := x.readG gs
      { r.2 with abt := { r.2.abt with
        nlt := kins r.2.abt.nlt slot r.1, nltAt := kins r.2.abt.nltAt slot gs, busyUntil := c.cyc + 257 + deckDelay deck,
        overBusy := if 0 < deckDelay deck then some .mem else none } })
    (s.deckUse c.l c.p deck).checkPoison c.l c.p gs

/-- TBLLD. -/
def execTblld (i : Issue) (slot : BitVec 3) (src : BitVec 17) (deck : DeckUse) (s : State) :
    Host.Outcome State Fault Refusal :=
  s.present i (.tblld · slot src .clean) .abutment WaitGroup.none (slotHazard slot.toNat) (tblldAct slot.toNat src.toNat deck)

end Sys2Proof.Machine
end

