-- ==== Sys2Proof/Machine/Sampler.lean ====
section
/-! DEFINITION. The log section's work that the trestle unit and the arch lanes share (R141, R186, R206, R207, R209 to R211):
to_exponent, the position generator, the sampler, router ranking, routing weights and grants. -/

namespace Sys2Proof.Machine
open Sys2Proof

/-! ### The position generator (R210) -/

/-- The rotation counts of Table 7.9. -/
def posRot : List Nat := [21, 9, 38, 27, 45, 14, 53, 31, 6, 42, 24, 59]

/-- K[r] of R210. -/
def posKey (r : Nat) : BitVec 64 := BitVec.ofNat 64 ((r + 1) * 0x9E3779B97F4A7C15)

/-- posgen. -/
def posgen (seed : BitVec 64) (domain p : Nat) : BitVec 64 :=
  let b0 : BitVec 64 := BitVec.ofNat 64 (2 * p + domain)
  let r := (List.range 12).foldl (fun (s : BitVec 64 × BitVec 64) (i : Nat) =>
    let a := s.1 + s.2 + posKey i
    let b := s.2.rotateLeft (posRot.getD i 0) ^^^ a
    let a := a.rotateLeft 29 ^^^ (b + posKey (11 - i))
    (a, b)) (seed, b0)
  r.1 ^^^ r.2.rotateLeft 32

/-! ### The sampler (R211) -/

/-- LOG2E. -/
def log2e : Lns := { zero := false, neg := false, lam := 541 }

/-- Whether logit `a` is larger than logit `b`, as the values they stand for. -/
def logitGt (a b : Lns) : Bool :=
  let v (x : Lns) : Int := if x.zero then 0 else if x.neg then -1 else 1
  if v a ≠ v b then decide (v b < v a)
  else if a.zero then false
  else if a.neg then decide (a.lam < b.lam) else decide (b.lam < a.lam)

/-- The lowest place of the largest logit. -/
def greedy (xs : List Lns) : Nat :=
  (xs.zipIdx.foldl (fun (b : Option (Lns × Nat)) (e : Lns × Nat) => match b with
    | none => some e
    | some m => if logitGt e.1 m.1 then some e else b) none |>.map (·.2)).getD 0

/-- t of one logit with the temperature's λ, and the saturations and clamps on the way. -/
def tempered (temp : Int) (x : Lns) : Int × Nat :=
  let a := if x.zero then (x, 0) else mkWork x.neg (x.lam - temp)
  let b := lmul a.1 log2e
  let t := toExponent b.1
  (t.1, a.2 + b.2 + t.2)

/-- w of a candidate whose t lies `d` above the largest. -/
def tokenWeight (d : Int) : Nat := antilogRound (d + 20480)

/-- The first of a list of (place, weight) whose cumulative weight exceeds `r`. -/
def drawAt (r : Nat) : Nat → List (Nat × Nat) → Option Nat
  | _, [] => none
  | c, e :: rest => if r < c + e.2 then some e.1 else drawAt r (c + e.2) rest

/-- The candidates that TOP_P keeps: the first, and each next while the cumulative weight before it lies below the
threshold. -/
def topPKeep (thr : Int) : Nat → List (Nat × Nat) → List (Nat × Nat)
  | _, [] => []
  | c, e :: rest => if c = 0 ∨ (lin2log c : Int) < thr then e :: topPKeep thr (c + e.2) rest else []

/-- sample: the token at position `p` from the logits, and the clamps and saturations of the work. -/
def sampleToken (set : Sampler) (domain p : Nat) (xs : List Lns) : Nat × Nat :=
  let temp := lnsOf set.temp
  if temp.zero then (greedy xs, 0)
  else
    let ts := xs.map (tempered temp.lam)
    let m := (maxInt? (ts.map (·.1))).getD 0
    let ranked := ((ts.map (·.1)).zipIdx).mergeSort (fun a b => decide (b.1 ≤ a.1))
    let cands := ranked.take (if set.topK = 0 then 256 else set.topK)
    let minP := lnsOf set.minP
    let cands := if minP.zero then cands
      else cands.take 1 ++ (cands.drop 1).filter (fun c => decide (minP.lam ≤ c.1 - m))
    let ws := cands.map (fun c => (c.2, tokenWeight (c.1 - m)))
    let kept := if set.topP = 0 then ws
      else
        let wall := (ts.map (fun t => tokenWeight (t.1 - m))).sum
        topPKeep ((lin2log set.topP : Int) - 16384 + lin2log wall) 0 ws
    let w := (kept.map (·.2)).sum
    let u := (posgen set.seed domain p).toNat % 2 ^ 32
    let r := if u = 0 then 0 else min (w - 1) (antilog36 ((lin2log u : Int) + lin2log w - 32768) / 2 ^ 36)
    ((drawAt r 0 kept).getD 0, (ts.map (·.2)).sum)

/-! ### Which tokens a batch slot samples (R420, R422, R423) -/

/-- A token to sample: its position and its DOMAIN. -/
structure Due where
  pos : Nat
  domain : Nat
deriving DecidableEq, Repr

/-- What a slot of a request still samples in a phase: drafts and footbridge service one step at a time in phase 2, the main
model's tokens together later. -/
def Slot.due (phase : Nat) (q : Request) (x : Slot) : List Due :=
  let n := x.mainTokens.length
  let ends := decide (0 < x.preLen ∧ x.pre + x.preLen = q.promptLen)
  if x.sits then []
  else if q.state = .prefill then
    if phase ≠ 2 ∧ n = 0 ∧ ends then [{ pos := q.promptLen, domain := 0 }] else []
  else if q.state = .footbridge then
    if phase ≠ 2 then []
    else if q.pending.isNone then (if n = 0 ∧ ends then [{ pos := q.promptLen, domain := 0 }] else [])
    else if n < x.fbSteps then [{ pos := q.committed + 1 + n, domain := 0 }] else []
  else if q.state = .decode then
    if phase = 2 then
      (if x.draftTokens.length < x.drafts then [{ pos := q.committed + 1 + x.draftTokens.length, domain := 1 }] else [])
    else if n = 0 then (List.range (x.drafts + 1)).map (fun i => { pos := q.committed + 1 + i, domain := 0 })
    else []
  else []

/-- What slot `n` of the batch samples now, with its request. -/
def State.dueOf (s : State) (phase n : Nat) : Option (Request × List Due) :=
  (s.tick.slots[n]?).bind (fun x => (kfind? s.requests x.handle).map (fun q => (q, x.due phase q)))

/-- A sampled token enters its slot. -/
def Slot.takeToken (d : Due) (tok : Nat) (x : Slot) : Slot :=
  if d.domain = 1 then { x with draftTokens := x.draftTokens ++ [tok] } else { x with mainTokens := x.mainTokens ++ [tok] }

/-- A token that the spec leaves open: one of `v`. -/
def State.freeToken (v : Nat) (s : State) : Nat × State :=
  let r := s.draw
  (Config.free r.1 % max 1 v, r.2)

/-- Sample the tokens of slot `n`. `logits i` gives the logits of the slot's query position of the i-th token due, the
positions that were run last standing for the tokens in order; where they are missing the token is free. -/
def State.sampleSlot (phase n vocab : Nat) (logits : Nat → Option (List Lns)) (s : State) : List Nat × State :=
  match s.dueOf phase n with
  | none => ([], s)
  | some (q, ds) => ds.zipIdx.foldl (fun (acc : List Nat × State) (d : Due × Nat) =>
      let r : Nat × State := match logits d.2 with
        | none => acc.2.freeToken vocab
        | some xs => let y := sampleToken q.sampler d.1.domain d.1.pos xs
                     (y.1, acc.2.inc 0x020518 y.2)
      (acc.1 ++ [r.1],
        { r.2 with tick := { r.2.tick with slots := r.2.tick.slots.modify n (Slot.takeToken d.1 r.1) } })) ([], s)

/-! ### Router ranking and routing weights (R206, R207) -/

/-- The taken experts in rank order: the TOPK of the greatest, ties to the lower index. `gt` orders the scores. -/
def ranked {α : Type} (gt : α → α → Bool) (topk : Nat) (scores : List α) : List Nat :=
  ((scores.zipIdx.mergeSort (fun a b => !gt b.1 a.1)).take topk).map (·.2)

/-- x of a score after ROUTE_SCALE and ROUTE_C, as an exponent, with its saturations and clamps. -/
def routeExp (d : Desc) (v : Lns × Nat) : Int × Nat :=
  let a := lmul v.1 { lnsOf (BitVec.ofNat 16 d.routeScale) with neg := false }
  let b := lmul a.1 (lnsOf (BitVec.ofNat 16 d.routeC))
  let t := toExponent b.1
  (t.1, v.2 + a.2 + b.2 + t.2)

/-- The routes of a token: each taken expert with its weight g, in rank order, and the saturations and clamps. `taken` ranks
the experts and `scores` are their working values. -/
def routesOf (d : Desc) (taken : List Nat) (scores : List (Lns × Nat)) : List (Nat × BitVec 16) × Nat :=
  let norm := if d.routeNorm then List.range scores.length else taken
  let ts := scores.map (routeExp d)
  let t (e : Nat) : Int := (ts.getD e (0, 0)).1
  let m := (maxInt? (norm.map t)).getD 0
  let sum := logTree (norm.map (fun e => mkWork false (t e - m)))
  let gs := taken.map (fun e =>
    let a := mkWork false (t e - m - sum.1.lam)
    let c := toLns16 a.1
    (e, c.1, a.2 + c.2))
  let used := if d.routeNorm then ts else taken.map (fun e => ts.getD e (0, 0))
  (gs.map (fun g => (g.1, g.2.1)), (used.map (·.2)).sum + sum.2 + (gs.map (·.2.2)).sum)

/-! ### Grants (R186, R188) -/

/-- Where the granting of a layer's routes stands. -/
structure Granting where
  used : List (Nat × Nat)
  pool : Nat
  given : List Grant
  dropped : List Nat                   -- batch slots of the dropped routes
  overs : Nat
  pools : Nat
  drops : Nat
  bad : Nat
deriving DecidableEq, Repr

/-- One route is granted or dropped. `slip` says that FIDELITY has slip left. -/
def Granting.one (d : Desc) (fixed slip : Bool) (r : Grant) (g : Granting) : Granting :=
  let give (g : Granting) : Granting := { g with used := kmod 0 g.used r.expert (· + 1), given := g.given ++ [r] }
  if d.nExp ≤ r.expert then { g with dropped := g.dropped ++ [r.slot], bad := g.bad + 1 }
  else if fixed || decide (kget 0 g.used r.expert < d.capBase) then give g
  else if g.pool > 0 then { give g with pool := g.pool - 1, pools := g.pools + 1 }
  else if slip then { give g with overs := g.overs + 1 }
  else { g with dropped := g.dropped ++ [r.slot], drops := g.drops + 1 }

/-- grant: ranks before batch slots. `routes` lists, for each token in batch-slot order, its slot and its routes. -/
def grantAll (d : Desc) (fixed slip : Bool) (routes : List (Nat × List (Nat × BitVec 16))) : Granting :=
  (List.range d.topK).foldl (fun (g : Granting) (rank : Nat) =>
    routes.foldl (fun (g : Granting) (r : Nat × List (Nat × BitVec 16)) => match r.2[rank]? with
      | none => g
      | some e => g.one d fixed slip { slot := r.1, rank := rank, expert := e.1, g := e.2 }) g)
    { used := [], pool := d.capShared, given := [], dropped := [], overs := 0, pools := 0, drops := 0, bad := 0 }

/-- A dropped route of a batch slot (R187, R197). -/
def Slot.dropRoute (x : Slot) : Slot :=
  { x with quality := { x.quality with droppedRoutes := min 255 (x.quality.droppedRoutes + 1) } }

/-- The counts of a granting. -/
def State.countGrants (g : Granting) (s : State) : State :=
  let s := (((s.inc 0x020400 g.pools).inc 0x020404 g.overs).inc 0x020408 g.drops).inc 0x02040C g.bad
  g.dropped.foldl (fun (s : State) (n : Nat) =>
    { s with tick := { s.tick with slots := s.tick.slots.modify n Slot.dropRoute } }) s

/-- The batch slots whose routes to an expert are granted, in grant order. -/
def Granting.listOf (g : Granting) (e : Nat) : List Nat := (g.given.filter (fun r => decide (r.expert = e))).map (·.slot)

/-- A list of batch slots as the granules that BLIST reads: 16-bit entries, 16 to a granule. -/
def slotListGranules (l : List Nat) : List (BitVec 256) :=
  (List.range (cdiv l.length 16)).map (fun g =>
    BitVec.ofNat 256 (((List.range 16).map (fun i => l.getD (16 * g + i) 0 % 4096 * 2 ^ (16 * i))).sum))

/-- The route entries of an expert's grants on a span (R189, R290): for each grant in turn the entries of its scattered granules,
each with the route's weight, four to a granule. DESIGN CHOICE (log 45): R290 lays a route entry out and R207 forms its weight,
but the spec does not say who writes it, for which lines and where: the device writes them with the lists, for the targets and
at the place of `Config.routePlace`. -/
def routeGranules (desc t n : Nat) (l : List Grant) : List (BitVec 256) :=
  let es := l.flatMap (fun r => (List.range n).map (fun k =>
    let target := Config.routeTarget desc t r.slot k
    target.1 % 128 + target.2 % 4096 * 2 ^ 7 + r.g.toNat * 2 ^ 32))
  (List.range (cdiv es.length 4)).map (fun g =>
    BitVec.ofNat 256 (((List.range 4).map (fun i => es.getD (4 * g + i) 0 * 2 ^ (64 * i))).sum))

/-- Write granules from consecutive addresses of logical span `t` in cycle `cyc`; the last one raises counter `ctr` by `n`. -/
def State.askList (cyc l t : Nat) (addr : Nat → Nat) (ctr n : Nat) (gs : List (BitVec 256)) (s : State) : State :=
  s.askPuts t (gs.zipIdx.map (fun w => DeckPut.clean cyc (if t = l then .arch else .stream) t (addr w.2) w.1
    (if w.2 + 1 = gs.length then .ctr ctr n else .nothing)))

/-- Send the grant lists of layer `desc`, formed on logical span `l` (128 for the trestle unit), to the spans of the experts with
the weights of their routes; each list's count goes to a counter there. -/
def State.sendGrants (cyc l desc : Nat) (d : Desc) (addr : Nat → Nat) (ctr : Nat) (g : Granting) (s : State) : State :=
  let s := { s with trs := { s.trs with grants := kset [] s.trs.grants desc g.given } }
  (List.range d.nExp).foldl (fun (s : State) (e : Nat) =>
    let rs := g.given.filter (fun r => decide (r.expert = e))
    if rs.isEmpty then s
    else
      (s.lspans.filter (fun t => Config.expertSpan desc e t)).foldl (fun (s : State) (t : Nat) =>
        let place := Config.routePlace desc t
        (s.askList cyc l t (fun k => (place.1 + k) % deckGranules) 0 0 (routeGranules desc t (place.2 % 4096) rs)).askList
          cyc l t addr ctr rs.length (slotListGranules (g.listOf e))) s) s

end Sys2Proof.Machine
end

