-- ==== Sys2Proof/Machine/Arch.lean ====
section
/-! DEFINITION. The arch lanes (R138 to R147, R206, R207, R211, R217, R286, R287): ATTN, AMUL, AROT, ARANK and ASAMP. -/

namespace Sys2Proof.Machine
open Sys2Proof

/-! ### Results of the arch lanes -/

/-- The lanes take `n` cycles, `delay` more for their deck-store accesses, and complete 12 cycles later (Table 9.8). -/
def Span.archBusy (cyc n delay : Nat) (x : Span) : Span :=
  { x with archBusyUntil := cyc + n + delay, archDoneAt := max x.archDoneAt (cyc + n + delay + 12), archWaited := decide (0 < delay) }

/-- Vectors of LNS16 codes go to lines from `line0` as partials of KIND 2, landing at `done`. -/
def State.archWrite (c : Ctx) (line0 done : Nat) (codes : List (List (BitVec 16))) (s : State) : State :=
  let x := s.span c.p
  match s.layer? c.p, x.cells.layer with
  | some d, some di =>
    if line0 + codes.length > 4096 then s.faultAt c 0x04
    else
      let adds : List Addition := codes.zipIdx.map (fun e =>
        { land := done, line := line0 + e.2, terms := e.1.map (fun v => (v.toNat : Int)), tag := d.tag 2, unit := 0,
          rowGroup := 0, owner := archOwner x.cells.layerSeq c.cyc, desc := di, keep := false, check := false })
      s.modSpan c.p (fun x => { x with cells := { x.cells with inflight := x.cells.inflight ++ adds } })
  | _, _ => s.faultAt c 0x0A

/-- Lines that an arch instruction is to write and that are not yet converted. -/
def archHeld (line0 n : Nat) (c : Ctx) (s : State) : Option Why :=
  let x := s.span c.p
  if (List.range n).any (fun i => x.lineHeld (archOwner x.cells.layerSeq c.cyc) (line0 + i)) then
    some { kind := .hazard, ctr := 0, counter := 0x34C, cls := .stall }
  else none

/-! ### ATTN (R286) -/

/-- The assignment entries that an instruction reads. -/
def State.assigns? (s : State) (c : Ctx) (lbase nlist : Nat) : Option (List Assign × List Nat) :=
  (c.ix.addrs lbase (cdiv nlist 4)).map (fun gs => (assignsOf nlist (gs.map (s.span c.p).granule), gs))

/-- Whether an entry is outside the layer's heads or the batch. -/
def State.badAssign (s : State) (d : Desc) (a : Assign) : Bool :=
  decide (d.nKv ≤ a.head) || decide (s.tick.slots.length ≤ a.slot)

/-- The lines that the queries of entries write: D_h ÷ 16 for each query head. -/
def State.attLineCount (s : State) (d : Desc) (es : List Assign) : Nat :=
  (es.map (fun a => (s.entryQueries d a).length * d.gq * (d.dH / 16))).sum

/-- What holds ATTN: lines not converted. -/
def attnHold (lbase nlist line0 : Nat) (c : Ctx) (s : State) : Option Why :=
  match s.layer? c.p, s.assigns? c lbase nlist with
  | some d, some as => archHeld (line0 + c.ix.l) (s.attLineCount d as.1) c s
  | _, _ => none

/-- The attention that ATTN begins: its entries, the granules of the ring that their pieces take, and its lines. -/
def State.attWork (s : State) (kring krlog2 kctr line0 delay di : Nat) (d : Desc) (es : List Assign) (c : Ctx) : AttWork :=
  { cyc := c.cyc, di := di, owner := archOwner (s.span c.p).cells.layerSeq c.cyc, entries := es,
    first := (c.ix.addr kring 0).getD kring, rlog2 := krlog2, kctr := kctr, line0 := line0 + c.ix.l,
    nlines := s.attLineCount d es,
    need := ((s.piecesOf d es).map (fun k => k.2.granules.length)).sum, got := [],
    unitTime := (attTime d (s.attCounts d es)).1 - 40, wait := delay }

/-- ATTN acts: the lanes take granules of the ring as its counter counts them, from the next cycle on. -/
def attnAct (lbase nlist kring krlog2 kctr line0 : Nat) (deck : DeckUse) (c : Ctx) (s : State) : State :=
  match s.layer? c.p, (s.span c.p).cells.layer, s.assigns? c lbase nlist with
  | some d, some di, some as =>
    let w := s.attWork kring krlog2 kctr line0 (deckDelay deck) di d as.1 c
    if !d.attEn then s.faultAt c 0x06
    else if as.1.any (s.badAssign d) then s.faultAt c 0x0B
    else if w.line0 + w.nlines > 4096 then s.faultAt c 0x04
    else
      let s := s.modSpan c.p (fun x =>
        let x := (x.readG as.2).2
        { x with att := some w, attPlan := x.attPlan + w.unitTime + 40, archBusyUntil := c.cyc + w.unitTime + w.wait,
                 archWaited := decide (0 < w.wait), seq := x.seq.change c.cyc kctr .sub 0 })
      (s.checkPoison c.l c.p as.2).deckUse c.l c.p deck
  | some _, some _, none => s.faultAt c 0x03
  | _, _, _ => s.faultAt c 0x0A

/-- ATTN. -/
def execAttn (i : Issue) (w : WaitGroup) (lbase : BitVec 17) (nlist : BitVec 13) (kring : BitVec 17) (krlog2 : BitVec 5)
    (kctr : BitVec 5) (line0 : BitVec 12) (deck : DeckUse) (s : State) : Host.Outcome State Fault Refusal :=
  s.present i (.attn · w lbase nlist kring krlog2 kctr line0 .clean) .arch w (attnHold lbase.toNat nlist.toNat line0.toNat)
    (attnAct lbase.toNat nlist.toNat kring.toNat krlog2.toNat kctr.toNat line0.toNat deck)

/-! ### AMUL and AROT (R287) -/

/-- The lanes have read granules for lines of LNS16 codes, with saturations on the way. -/
def State.archLines (c : Ctx) (line0 n : Nat) (deck : DeckUse) (gs : List Nat) (codes : List (List (BitVec 16))) (sat : Nat)
    (s : State) : State :=
  let delay := deckDelay deck
  let s := s.modSpan c.p (fun x => ((x.readG gs).2.inc 0x220 sat).archBusy c.cyc n delay)
  ((s.archWrite c (line0 + c.ix.l) (c.cyc + n + delay + 12) codes).checkPoison c.l c.p gs).deckUse c.l c.p deck

/-- AMUL acts: lmul of two LNS16 vectors, a granule to a line. -/
def amulAct (abase bbase line0 nlines : Nat) (deck : DeckUse) (c : Ctx) (s : State) : State :=
  match c.ix.addrs abase nlines, c.ix.addrs bbase nlines with
  | some as, some bs =>
    let x := s.span c.p
    let rows := (as.zip bs).map (fun (e : Nat × Nat) => (List.range 16).map (fun i =>
      let m := lmul (lnsAt (x.granule e.1) i) (lnsAt (x.granule e.2) i)
      let o := toLns16 m.1
      (o.1, m.2 + o.2)))
    s.archLines c line0 (cdiv nlines 128) deck (as ++ bs) (rows.map (fun r => r.map (·.1))) ((rows.flatMap (fun r => r.map (·.2))).sum)
  | _, _ => s.faultAt c 0x03

/-- AMUL. -/
def execAmul (i : Issue) (w : WaitGroup) (abase bbase : BitVec 17) (line0 : BitVec 12) (nlines : BitVec 13) (deck : DeckUse)
    (s : State) : Host.Outcome State Fault Refusal :=
  s.present i (.amul · w abase bbase line0 nlines .clean) .arch w
    (fun c s => archHeld (line0.toNat + c.ix.l) nlines.toNat c s)
    (amulAct abase.toNat bbase.toNat line0.toNat nlines.toNat deck)

/-- Head vectors of `per` granules each, rotated by their positions: codes, saturations and the state that has read the table. -/
def State.rotateAll (d : Desc) (vs : List (List (BitVec 256) × Nat)) (s : State) : List (List (BitVec 16)) × Nat × State :=
  vs.foldl (fun (acc : List (List (BitVec 16)) × Nat × State) (v : List (BitVec 256) × Nat) =>
    let y := acc.2.2.rotate d v.2 (lnsVec v.1)
    let o := codesOf y.1
    (acc.1 ++ chunks 16 o.1.length o.1, acc.2.1 + y.2.1 + o.2, y.2.2)) ([], 0, s)

/-- AROT acts: head vectors rotated by the positions of a list. -/
def arotAct (src pbase nvec line0 : Nat) (deck : DeckUse) (c : Ctx) (s : State) : State :=
  match s.layer? c.p with
  | none => s.faultAt c 0x0A
  | some d =>
    let per := d.dH / 16
    match c.ix.addrs src (nvec * per), c.ix.addrs pbase (cdiv nvec 8) with
    | some gs, some ps =>
      let x := s.span c.p
      let pos (i : Nat) : Nat := bitsAt (x.granule (ps.getD (i / 8) 0)).toNat (32 * (i % 8)) 32
      let r := s.rotateAll d ((List.range nvec).map (fun i => (((gs.drop (i * per)).take per).map x.granule, pos i)))
      r.2.2.archLines c line0 (cdiv (2 * nvec * d.dH) 2048) deck (gs ++ ps) r.1 r.2.1
    | _, _ => s.faultAt c 0x03

/-- AROT. -/
def execArot (i : Issue) (w : WaitGroup) (src pbase : BitVec 17) (nvec : BitVec 13) (line0 : BitVec 12) (deck : DeckUse)
    (s : State) : Host.Outcome State Fault Refusal :=
  s.present i (.arot · w src pbase nvec line0 .clean) .arch w
    (fun c s => archHeld (line0.toNat + c.ix.l) (nvec.toNat * (((s.layer? c.p).map (·.dH)).getD 16 / 16)) c s)
    (arotAct src.toNat pbase.toNat nvec.toNat line0.toNat deck)

/-! ### ARANK and ASAMP (Table 7.4) -/

/-- Value `j` of the row of lines that belongs to list position `k`: an LNS16 partial, or an accumulator in the unit of its
line, with the saturation. -/
def Span.lineValue (x : Span) (line0 lps k j : Nat) : Lns × Nat :=
  let ln := kget Line.zero x.lines (line0 + k * lps + j / 16)
  let a := ln.acc.getD (j % 16) 0
  if tagKind ln.tag = 2 then (lnsOf (a.extractLsb' 0 16), 0) else toWorking a.toInt ln.unit.toInt

/-- The lines that ARANK or ASAMP reads, of which additions are on their way. -/
def lanesHazard (line0 nseq : Nat) (c : Ctx) (s : State) : Option Why :=
  landingHold line0 (nseq * max 1 (((s.layer? c.p).map (·.linesPerSeq)).getD 1)) c s

/-- The list positions of ARANK or ASAMP. -/
def State.laneSeqs (s : State) (p nseq : Nat) : List Nat := List.range (min nseq (s.seqList p).length)

/-- The routes of the tokens of list positions, each with its batch slot, and the saturations, in slot order. -/
def Span.routeTokens (x : Span) (d : Desc) (line0 : Nat) (list ks : List Nat) : List (Nat × List (Nat × BitVec 16) × Nat) :=
  (ks.map (fun k =>
    let v := (List.range d.nExp).map (fun e => x.lineValue line0 (max 1 d.linesPerSeq) k e)
    (list.getD k 0, routesOf d (ranked logitGt d.topK (v.map (·.1))) v))).mergeSort (fun a b => decide (a.1 ≤ b.1))

/-- The granules that the longest list of a granting takes. -/
def Granting.granules (g : Granting) (nExp : Nat) : Nat :=
  cdiv (((maxInt? ((List.range nExp).map (fun e => ((g.listOf e).length : Int)))).getD 0).toNat) 16

/-- ARANK acts: ranking, weights and grants of the current layer's tokens. The lists land as the instruction completes. -/
def arankAct (line0 nseq dst rctr : Nat) (c : Ctx) (s : State) : State :=
  let x := s.span c.p
  match s.layer? c.p, x.cells.layer with
  | some d, some di =>
    let ks := s.laneSeqs c.p nseq
    let list := s.seqList c.p
    let lps := max 1 d.linesPerSeq
    if line0 + nseq * lps > 4096 then s.faultAt c 0x04
    else if s.badList c.p ks then s.faultAt c 0x0B
    else
      let tokens := x.routeTokens d line0 list ks
      let g := grantAll d s.fixed (s.fidelity && decide (0 < x.cells.viewSlip)) (tokens.map (fun t => (t.1, t.2.1)))
      let n := cdiv nseq 16 * (d.nExp + 2 * d.topK + 24)
      if (c.ix.addrs dst (g.granules d.nExp)).isNone then s.faultAt c 0x03
      else
        let s := (s.inc 0x020518 ((tokens.map (fun t => t.2.2)).sum)).modSpan c.p (Span.archBusy c.cyc n 0)
        (s.countGrants g).sendGrants (c.cyc + n + 12) c.l di d (fun k => (c.ix.addr dst k).getD dst) rctr g
  | _, _ => s.faultAt c 0x0A

/-- ARANK. -/
def execArank (i : Issue) (w : WaitGroup) (line0 : BitVec 12) (nseq : BitVec 13) (dst : BitVec 17) (rctr : BitVec 5)
    (s : State) : Host.Outcome State Fault Refusal :=
  s.present i (.arank · w line0 nseq dst rctr) .arch w (lanesHazard line0.toNat nseq.toNat)
    (arankAct line0.toNat nseq.toNat dst.toNat rctr.toNat)

/-- The tokens that ASAMP samples for list positions `ks`, slot by slot, with its cycles. DESIGN CHOICE (log entry 44): the logits of
a list position are the V values of the model's vocabulary that its lines on the one sampler span hold, from row 0 on; R217 does
not say how the sampler spans share the vocabulary. -/
def State.sampleLines (x : Span) (line0 lps : Nat) (list ks : List Nat) (s : State) : List (Nat × Nat) × Nat × State :=
  ((ks.map (fun k => list.getD k 0)).eraseDups).foldl (fun (acc : List (Nat × Nat) × Nat × State) (n : Nat) =>
    let mine := ks.filter (fun k => decide (list.getD k 0 = n))
    let due := (((acc.2.2.dueOf (x.seq.phase) n).map (fun e => e.2.length)).getD 0)
    let topP := decide (((acc.2.2.slotReq n).map (fun q => q.sampler.topP)).getD 0 ≠ 0)
    let first := mine.length - due
    let vocab := min (s.vocabSize n) (16 * lps)
    let y := acc.2.2.sampleSlot x.seq.phase n vocab (fun i => if mine.length < due then none
      else (mine[first + i]?).map (fun k => (List.range vocab).map (fun j => (x.lineValue line0 lps k j).1)))
    (acc.1 ++ (mine.drop first).zip y.1, acc.2.1 + mine.length * ((2 + bit topP) * cdiv vocab 2048 + 96), y.2)) ([], 0, s)

/-- The word of each list position: its token, or a free value where its token is not due. -/
def State.tokenWords (tokens : List (Nat × Nat)) (ks : List Nat) (s : State) : List Nat × State :=
  ks.foldl (fun (acc : List Nat × State) (k : Nat) => match (tokens.find? (fun e => decide (e.1 = k))).map (·.2) with
    | some t => (acc.1 ++ [t], acc.2)
    | none => let f := acc.2.freeToken (2 ^ 32); (acc.1 ++ [f.1], f.2)) ([], s)

/-- ASAMP acts: the tokens due of the slots that the list names, and the token of each list position at DST as the instruction
completes. -/
def asampAct (line0 nseq dst : Nat) (c : Ctx) (s : State) : State :=
  let x := s.span c.p
  match s.layer? c.p with
  | none => s.faultAt c 0x0A
  | some d =>
    let ks := s.laneSeqs c.p nseq
    let list := s.seqList c.p
    let lps := max 1 d.linesPerSeq
    match c.ix.addrs dst (cdiv ks.length 8) with
    | none => s.faultAt c 0x03
    | some gs =>
      if line0 + nseq * lps > 4096 then s.faultAt c 0x04
      else if s.badList c.p ks then s.faultAt c 0x0B
      else
        let r := s.sampleLines x line0 lps list ks
        let w := r.2.2.tokenWords r.1 ks
        let ws := gs.zipIdx.map (fun (g : Nat × Nat) => DeckPut.clean (c.cyc + r.2.1 + 12) .arch c.l g.1
          (BitVec.ofNat 256 (((List.range 8).map (fun i => w.1.getD (8 * g.2 + i) 0 * 2 ^ (32 * i))).sum)) .nothing)
        (w.2.askPuts c.l ws).modSpan c.p (Span.archBusy c.cyc r.2.1 0)

/-- ASAMP. -/
def execAsamp (i : Issue) (w : WaitGroup) (line0 : BitVec 12) (nseq : BitVec 13) (dst : BitVec 17) (s : State) :
    Host.Outcome State Fault Refusal :=
  s.present i (.asamp · w line0 nseq dst) .arch w (lanesHazard line0.toNat nseq.toNat)
    (asampAct line0.toNat nseq.toNat dst.toNat)

end Sys2Proof.Machine
end

