-- ==== Sys2Proof/Machine/Encode.lean ====
section
/-! DEFINITION. The pruning unit (R447): how a latent tensor becomes trits, and the five weight formats as written (R38 to
R47, R349). -/

namespace Sys2Proof.Machine
open Sys2Proof

/-! ### Forming trits (R447) -/

/-- The trits of one group of 16 inputs: the K non-zero values of greatest λ, ties to the lower input index. -/
def pruneGroup (k : Nat) (ws : List Lns) : List Int :=
  let better (a b : Nat × Lns) : Bool := decide (a.2.lam > b.2.lam) || (decide (a.2.lam = b.2.lam) && decide (a.1 < b.1))
  let live := (ws.zipIdx.map (fun e => (e.2, e.1))).filter (fun e => !e.2.zero)
  let rank (e : Nat × Lns) : Nat := live.countP (fun x => better x e)
  ws.zipIdx.map (fun (e : Lns × Nat) =>
    if e.1.zero ∨ rank (e.2, e.1) ≥ k then (0 : Int) else if e.1.neg then -1 else 1)

/-- The trits of one row of a dense format: the values with λ ≥ λ_mean + λ of θ, every non-zero value when θ is the zero
code. -/
def pruneRow (theta : Lns) (ws : List Lns) : List Int :=
  let sum := (logTree (ws.map (fun w => ({ w with neg := false }, 0)))).1
  let bound := sum.lam - (lin2log (max 1 ws.length) : Int) + theta.lam
  ws.map (fun w => if w.zero ∨ (!theta.zero ∧ w.lam < bound) then (0 : Int) else if w.neg then -1 else 1)

/-- The rows of a single-plane tensor as trits. -/
def pruneTensor (f : WFmt) (theta : Lns) (rows : List (List Lns)) : List (List Int) :=
  match f with
  | .sk4 | .sk8 => rows.map (fun r => (chunks 16 r.length r).flatMap (pruneGroup (wfmtK f)))
  | _ => rows.map (pruneRow theta)

/-- The signed exponents of a two-term code (Table 7.1, R48): at most two, equal exponents merged. -/
def termsOf (c : BitVec 16) : List (Nat × Int) :=
  let a := if c.getLsbD 15 then [(bitsAt c.toNat 10 4, if c.getLsbD 14 then (-1 : Int) else 1)] else []
  let b := if c.getLsbD 9 then [(bitsAt c.toNat 4 4, if c.getLsbD 8 then (-1 : Int) else 1)] else []
  match a, b with
  | [x], [y] => if x.1 = y.1 then (if x.2 = y.2 then [(x.1 + 1, x.2)] else []) else [x, y]
  | _, _ => a ++ b

/-- The exponents that occur in a multi-plane tensor, ascending: its planes. -/
def planeExps (codes : List (BitVec 16)) : List Nat :=
  (List.range 17).filter (fun e => codes.any (fun c => (termsOf c).any (fun t => decide (t.1 = e))))

/-- Plane of exponent `e` of a multi-plane tensor. -/
def planeTrits (e : Nat) (rows : List (List (BitVec 16))) : List (List Int) :=
  rows.map (fun r => r.map (fun c => (((termsOf c).find? (fun t => t.1 = e)).map (·.2)).getD 0))

/-! ### Writing tiles (Table 2.1) -/

/-- The 4,096 trits of tile `i` of a tensor: 16 rows by 256 inputs, row blocks first, zeros past the tensor's edge. -/
def tileTrits (rows : List (List Int)) (cols i : Nat) : List Int :=
  let across := max 1 (cdiv cols 256)
  let r0 := 16 * (i / across)
  let c0 := 256 * (i % across)
  (List.range 16).flatMap (fun r => (List.range 256).map (fun c => (rows.getD (r0 + r) []).getD (c0 + c) 0))

/-- Five trits as a PACK5 byte (R38). -/
def pack5Byte (ts : List Int) : Byte :=
  BitVec.ofNat 8 (((List.range 5).map (fun i => (ts.getD i 0 + 1).toNat * 3 ^ i)).sum)

/-- A tile in PACK5 (R38). -/
def encodePack5 (ts : List Int) : List Byte := (List.range 820).map (fun k => pack5Byte (ts.drop (5 * k)))

/-- A group of a K-of-16 format (R40). -/
def skGroup (ts : List Int) : Nat :=
  let mask := ((List.range 16).map (fun i => if ts.getD i 0 ≠ 0 then 2 ^ i else 0)).sum
  let signs := ((ts.filter (· ≠ 0)).zipIdx.map (fun e => if e.1 < 0 then 2 ^ e.2 else 0)).sum
  mask + 65536 * signs

/-- A tile in SK4 or SK8 (R40). -/
def encodeSk (k : Nat) (ts : List Int) : List Byte :=
  (chunks 256 16 ts).flatMap (fun row =>
    natToBytes (2 * (16 + k)) (((chunks 16 16 row).zipIdx.map (fun e => skGroup e.1 * 2 ^ ((16 + k) * e.2))).sum))

/-- A PAT7 field (R42). -/
def pat7Field (ts : List Int) : Nat :=
  let v := ((List.range 4).map (fun i => ts.getD i 0 * 3 ^ i)).sum
  if v < 0 then 64 + (-v).toNat else v.toNat

/-- A tile in PAT7 (R42). -/
def encodePat7 (ts : List Int) : List Byte :=
  (chunks 256 16 ts).flatMap (fun row =>
    natToBytes 56 (((chunks 4 64 row).zipIdx.map (fun e => pat7Field e.1 * 2 ^ (7 * e.2))).sum))

/-- The bits of a RUN body (R45): the number they spell and how many there are. -/
def runBody : List Int → Nat → Nat × Nat
  | [], _ => (0, 0)
  | t :: rest, run =>
    if t = 0 then runBody rest (run + 1)
    else
      let r := runBody rest 0
      let sign := if t < 0 then 1 else 0
      if run < 15 then (run + 16 * sign + 32 * r.1, 5 + r.2)
      else (15 + 16 * run + 65536 * sign + 131072 * r.1, 17 + r.2)

/-- A ZRL block (R44, R45), padded to 4 bytes: ZERO for a tile of zeros, RAW when RUN would need more than 820 bytes. -/
def encodeZrl (ts : List Int) : List Byte :=
  let nz := ts.countP (· ≠ 0)
  let b := runBody ts 0
  let n := cdiv b.2 8
  if nz = 0 then natToBytes 4 (2 * 2 ^ 30)
  else if n > 820 then natToBytes 4 (2 ^ 30 + 65536 * nz + 820) ++ encodePack5 ts
  else natToBytes (4 * cdiv (4 + n) 4) (65536 * nz + n + 2 ^ 32 * b.1)

/-- One stored tile in a fixed-size format. -/
def encodeTile (f : WFmt) (ts : List Int) : List Byte := match f with
  | .pack5 => encodePack5 ts
  | .sk4 => encodeSk 4 ts
  | .sk8 => encodeSk 8 ts
  | .pat7 => encodePat7 ts
  | .zrl => encodeZrl ts

/-- A byte string padded to a granule boundary. -/
def padGranule (bs : List Byte) : List Byte := byteSlice bs 0 (32 * cdiv bs.length 32)

/-- The records of a ZRL extent (R349): the index entries and the blocks of each tile set, `base` counting the 4-byte units
of the blocks before it (R47). -/
def zrlRecords : Nat → List (List (List Byte)) → List (List Byte)
  | _, [] => []
  | base, set :: rest =>
    let ends := set.foldl (fun (acc : List Nat) b => acc ++ [acc.getLastD base + b.length / 4]) [base]
    (padGranule (ends.flatMap (natToBytes 4)) ++ padGranule set.flatten) :: zrlRecords (ends.getLastD base) rest

/-- The tiles of a list by sets of the given sizes; what the sizes do not reach is left out. -/
def tileSets : List Nat → List (List Byte) → List (List (List Byte))
  | [], _ => []
  | n :: rest, l => l.take n :: tileSets rest (l.drop n)

/-- A ZRL extent of tile sets of the given sizes: the set directory, padded, then the records. -/
def zrlExtent (sizes : List Nat) (blocks : List (List Byte)) : List Byte :=
  let recs := zrlRecords 0 (tileSets sizes blocks)
  let head := 32 * cdiv (4 * (recs.length + 1)) 32
  let offs := recs.foldl (fun (acc : List Nat) r => acc ++ [acc.getLastD (head / 32) + r.length / 32]) [head / 32]
  padGranule (offs.flatMap (natToBytes 4)) ++ recs.flatten

/-- The bytes of an extent formed from its target tensor (R446, R447): `none` when the planes that occur are not as many
as the record says. -/
def formExtent (rec : IngestRec) (x : WExtent) (src : List Byte) : Option (List Byte) :=
  let code (r c : Nat) : BitVec 16 := BitVec.ofNat 16 (leAt src (2 * (r * rec.cols + c)) 2)
  let rows := (List.range rec.rows).map (fun r => (List.range rec.cols).map (code r))
  let f := (wfmtOf rec.wfmt).getD .pack5
  let planes := planeExps rows.flatten
  let planeOf (k : Nat) : List (List Int) := if rec.planes ≤ 1 then pruneTensor f (lnsOf (BitVec.ofNat 16 rec.theta)) (rows.map (·.map lnsOf))
    else planeTrits (planes.getD k 0) rows
  let sizes := (List.range (Config.extentSets x.wl x.lspan)).map (Config.setTiles x.wl x.lspan)
  let tiles := (List.range sizes.sum).map (fun k =>
    let t := Config.tileAt x.wl x.lspan k
    encodeTile f (tileTrits (planeOf t.1) rec.cols t.2))
  if 1 < rec.planes ∧ planes.length ≠ rec.planes then none
  else some (byteSlice (if f = .zrl then zrlExtent sizes tiles else tiles.flatten) 0 (32 * x.len))

end Sys2Proof.Machine
end

