-- ==== Sys2Proof/Machine/Ingest.lean ====
section
/-! DEFINITION. The hot set and INGEST (R440 to R450): allocation and eviction, the pack check, sealing extents, the end of
an install, pins and removals. -/

namespace Sys2Proof.Machine
open Sys2Proof

/-! ### Space (R344, R445) -/

/-- Evict an entry (R445). -/
def State.evictEntry (e : Nat) (s : State) : State := (s.setEntry e HotEntry.empty).inc 0x030118 1

/-- The entry of a list that was used least recently. -/
def leastUsed (l : List (Nat × HotEntry)) : Option Nat :=
  (l.foldl (fun (b : Option (Nat × HotEntry)) e => match b with
    | none => some e
    | some x => if e.2.lastUse < x.2.lastUse then some e else some x) none).map (·.1)

/-- The entry that is evicted next: INTERRUPTED ones first, then READY ones not pinned, not held and named by no
request. -/
def State.evictable (s : State) : Option Nat :=
  let idle (e : Nat × HotEntry) : Bool := !e.2.pinned && !s.entryHeld e.1
  leastUsed (s.hot.filter (fun e => decide (e.2.state = HotState.interrupted) && idle e))
    <|> leastUsed (s.hot.filter (fun e => decide (e.2.state = HotState.ready) && idle e
      && !s.requests.any (fun r => decide (r.2.modelId = e.2.modelId))))

/-- Where an install goes: directory entry, and the first units of slab, mirror and variant store. -/
structure Place where
  entry : Nat
  base : Nat
  mirror : Nat
  store : Nat
deriving DecidableEq, Repr

/-- The lowest place of an install on the entry's stack lists, in a given directory entry (R344). -/
def State.placeFor (x : HotEntry) (e : Nat) (s : State) : Option Place :=
  let u := { s with hot := kdel s.hot e }.used
  match lowestRange u x.list x.slabUnits with
  | none => none
  | some b =>
    let u := u ++ [{ first := b, len := x.slabUnits, slist := x.list }]
    match (if x.mirrored then lowestRange u x.mirrorList x.slabUnits else some 0) with
    | none => none
    | some m =>
      let u := if x.mirrored then u ++ [{ first := m, len := x.slabUnits, slist := x.mirrorList }] else u
      (lowestRange u (List.range 32) x.storeUnits).map (fun v => { entry := e, base := b, mirror := m, store := v })

/-- Find a place, evicting as long as none fits. -/
def State.makeRoom (x : HotEntry) : Nat → State → Option Place × State
  | 0, s => (none, s)
  | fuel + 1, s =>
    let free := firstBelow 64 (fun e => decide ((s.entry e).state = HotState.empty))
    match free.bind (fun e => s.placeFor x e) with
    | some p => (some p, s)
    | none => match s.evictable with
      | none => (none, s)
      | some e => State.makeRoom x fuel (s.evictEntry e)

/-- The entry as an INGEST describes it: its model, its sizes and its lists. -/
def ingestEntry (j : Job) (b : Bitstream) (digest : BitVec 384) (vocab : Vocab) (layers : Nat) : HotEntry :=
  let fb := prmFlag j.params 4
  let slots := prm j.params 86 2
  let bytes (w : WExtent) : Nat := w.offset % 2 ^ 35 + 32 * w.len
  { HotEntry.empty with
    state := .installing, modelId := prm j.params 0 4, digest := digest, layoutDigest := b.weightDigest,
    mirrored := prmFlag j.params 2 || fb, viaMirror := false, footbridge := fb, copyA := BitVec.ofNat 32 (prm j.params 80 4),
    slabUnits := ((b.weights.map (fun w => cdiv (bytes w) 0x4000000)).max?).getD 0,
    storeUnits := cdiv (slots * layers * 4096) (32 * 0x4000000), varSlots := slots, layers := layers, vocab := vocab,
    extents := b.weights.map (fun w => (w.offset, w.len)) }

/-- Allocate or resume the entry of an INGEST (R445, R450): the entry, or none for NO_SPACE. -/
def State.openEntry (j : Job) (b : Bitstream) (digest : BitVec 384) (vocab : Vocab) (layers : Nat) (s : State) :
    Option Nat × State :=
  let x := ingestEntry j b digest vocab layers
  let lost := !x.footbridge && decide (s.liveStacks.length < 32)
  let lostFb := x.footbridge && (x.list ++ x.mirrorList).any s.stackLost
  let fresh (s : State) : Option Nat × State :=
    if lost || lostFb then (none, s)
    else match State.makeRoom x 65 s with
      | (none, s) => (none, s)
      | (some p, s) =>
        (some p.entry, (s.setEntry p.entry { x with baseUnit := p.base, mirrorUnit := p.mirror, storeUnit := p.store }).noteAlloc)
  match s.entryOfModel? x.modelId with
  | none => fresh s
  | some e =>
    let old := s.entry e
    let same := decide (old.digest = digest ∧ old.layoutDigest = b.weightDigest)
    match old.state with
    | .interrupted =>
      if same then (some e, s.setEntry e { old with state := .installing, vocab := vocab, layers := layers })
      else fresh (s.setEntry e HotEntry.empty)
    | .reserved =>
      if old.digest = digest ∧ old.slabUnits = x.slabUnits ∧ old.mirrored = x.mirrored ∧ !lost then
        match (if x.storeUnits = 0 then some 0 else lowestRange s.used (List.range 32) x.storeUnits) with
        | some v => (some e, (s.setEntry e { x with baseUnit := old.baseUnit, mirrorUnit := old.mirrorUnit, storeUnit := v,
                                                    pinned := old.pinned }).noteAlloc)
        | none => (none, s)
      else (none, s)
    | _ => (none, s)

/-! ### The job (R436, R446) -/

/-- A job of one unit at a time stands at a pause point: it ends with an outcome when one is given. -/
def State.pausePoint (id : Nat) (outcome : Option Nat) (s : State) : State :=
  let s := match outcome with
    | none => s
    | some o => { s with jobs := kupd s.jobs id (fun j => { j with ending := some (j.ending.getD o), toHeld := false }) }
  s.dispatch true

/-- The keys that content is signed with (R586): those of the running manifest and the enrolled operators. -/
def State.contentKeys (s : State) : List KeyPair := s.flash.firmware.keys ++ s.flash.operators

/-- A class that may sign bitstreams and weight packs (Table 19.1). -/
def contentClass (id : BitVec 32) : Bool := decide (keyClass id = 0x03 ∨ keyClass id = 0x10)

/-- INGEST step 2: the entry is opened, or the job ends with NO_SPACE. -/
def State.ingestOpen (id : Nat) (j : Job) (b : Bitstream) (digest : BitVec 384) (vocab : Vocab) (layers : Nat)
    (s : State) : State :=
  match s.openEntry j b digest vocab layers with
  | (none, s) => s.placeAll.pausePoint id (some 0x05)
  | (some e, s) =>
    let done := (s.entry e).sealed.length
    ({ s with jobs := kupd s.jobs id (fun j => { j with entry := some e, verified := true, sealed := done }) }).placeAll

/-- The one streaming pass over the pack has ended (R446 step 1, R590). -/
def execIngestPackVerified (t : Nat) (job : BitVec 16) (pack : Option PackRead) (s : State) :
    Host.Outcome State Fault Refusal :=
  let s := s.at t
  let id := job.toNat
  match kfind? s.jobs id, kfind? s.bits id with
  | some j, some b =>
    if s.running ≠ some id ∨ j.type ≠ JobType.ingest ∨ j.verified ∨ j.ending.isSome ∨ prmFlag j.params 5 then .next s
    else match pack with
      | none => .next (s.pausePoint id (some 0x03))
      | some p =>
        let s := s.portRx j.port (prm j.params 24 8)
        let ok := decide (p.digest = BitVec.ofNat 384 (prm j.params 32 48))
          && blockOk contentClass s.contentKeys p.digest p.block
        if !ok then .next (s.pausePoint id (some 0x04))
        else .next (s.ingestOpen id j b p.digest { table := p.vocab, pool := p.pool } p.layers)
  | _, _ => .next s

/-! ### Extents (R446 to R448) -/

/-- The device offset of an entry address in the primary slab. -/
def HotEntry.slabAddr (e : HotEntry) (a : Nat) : Nat := e.list.getD (bitsAt a 35 5) 0 * 2 ^ 35 + poolUnit e.baseUnit + bitsAt a 0 35

/-- Write bytes at an entry address, into the slab and, when the entry is mirrored, into the mirror; weight bytes written
count in window 256 (R550). -/
def State.entryWrite (x : HotEntry) (a : Nat) (bs : List Byte) (s : State) : State :=
  let at' (f : Nat → Nat) : List (Nat × Byte) := bs.zipIdx.map (fun e => (f (a + e.2), e.1))
  let s := s.memWrite (at' x.slabAddr)
  let s := if x.mirrored then s.memWrite (at' x.mirrorAddr) else s
  s.winAdd 256 9 (bs.length * (if x.mirrored then 2 else 1))

/-- A neutral variant record (R453): group scales 0x80, every steering entry unused and at the zero code. -/
def neutralRecord : List Byte :=
  List.replicate 2048 0x80#8 ++ (List.replicate 512 [0xFF#8, 0xFF#8, 0x00#8, 0x40#8]).flatten

/-- Write record `l` of a variant slot. -/
def State.writeRecord (x : HotEntry) (slot l : Nat) (bs : List Byte) (s : State) : State :=
  s.memWrite ((List.range 4096).map (fun i => (x.variantOff slot l i, bs.getD i 0#8)))

/-- Every slot of a new variant store takes neutral records (R446 step 5). -/
def State.neutralStore (x : HotEntry) (s : State) : State :=
  (List.range x.varSlots).foldl (fun s v =>
    (List.range x.layers).foldl (fun s l => s.writeRecord x v l neutralRecord) s) s

/-- An entry becomes READY (R446 step 6): it is pinned when the job asks for it and the list has room (R443), and it is
measured in M3 (R594). -/
def State.entryReady (j : Job) (e : Nat) (s : State) : State :=
  let s := s.neutralStore (s.entry e)
  let x := s.entry e
  let room := prmFlag j.params 3 && (x.pinned || decide (s.flash.pins.length < 16))
  let pin : Nat × BitVec 384 × Nat × Bool := (x.modelId, x.digest, x.slabUnits, x.mirrored)
  let s := if room && !x.pinned then { s with flash := { s.flash with pins := s.flash.pins ++ [pin] } } else s
  let s := if prmFlag j.params 3 && !room then s.setReg 0x020600 (s.regw 0x020600 &&& 0xF3FFFFFF#32 ||| 0x04000000#32) else s
  let s := s.setEntry e { x with state := .ready, pinned := x.pinned || room, lastUse := s.time }
  (s.extend 3 (sha384 (digestBytes x.digest ++ digestBytes x.layoutDigest))).placeAll

/-- Seal extent `i` of the install (R448): its journal record, then READY at the last one. -/
def State.sealExtent (id : Nat) (j : Job) (b : Bitstream) (e i : Nat) (bs : List Byte) (s : State) : State :=
  let x := s.entry e
  let s := s.setEntry e { x with sealed := x.sealed ++ [{ index := i, digest := sha384 bs }] }
  let s := { s with jobs := kupd s.jobs id (fun j => { j with sealed := i + 1 }) }
  if i + 1 < b.weights.length then s.pausePoint id none
  else (s.entryReady j e).pausePoint id (some 0x00)

/-- The granules of the first `n` extents of a list. -/
def extentGranules (ws : List WExtent) (n : Nat) : Nat := ((ws.take n).map (·.len)).sum

/-- The controllers have acknowledged both copies of the next extent (R446 step 4). `source` is the target tensor as the
pack holds it, or the extent's own bytes when they are final; an extent that comes over the viaduct has landed. -/
def execExtentSealed (t : Nat) (job : BitVec 16) (source : Option (List Byte)) (s : State) :
    Host.Outcome State Fault Refusal :=
  let s := s.at t
  let id := job.toNat
  match kfind? s.jobs id, kfind? s.bits id with
  | some j, some b =>
    match j.entry with
    | none => .next s
    | some e =>
      let x := s.entry e
      let i := x.sealed.length
      if s.running ≠ some id ∨ j.type ≠ JobType.ingest ∨ !j.verified ∨ j.ending.isSome ∨ x.state ≠ HotState.installing then .next s
      else match b.weights[i]? with
        | none => .next ((s.entryReady j e).pausePoint id (some 0x00))
        | some w =>
          if prmFlag j.params 5 then
            let landed : Bool := match s.via.install with
              | none => false
              | some f => decide (((kfind? s.landings f.lid).map (·.wrote)).getD 0 ≥
                  extentGranules (b.weights.drop f.first) (i + 1 - f.first))
            if landed then .next (s.sealExtent id j b e i ((addrs w.offset (32 * w.len)).map (fun a => s.memByte (x.slabAddr a))))
            else .next s
          else match source with
            | none => .next (s.pausePoint id (some 0x03))
            | some src =>
              let formed := match b.ingest.find? (fun r => r.wl = w.wl) with
                | none => some (byteSlice src 0 (32 * w.len))
                | some r => if w.lspan = 0xFE then some (byteSlice src 0 (32 * w.len)) else formExtent r w src
              match formed with
              | none => .next (s.pausePoint id (some 0x04))
              | some bs => .next ((s.entryWrite x w.offset bs).sealExtent id j b e i bs)
  | _, _ => .next s

/-! ### Pins and removals (R443, R458) -/

/-- HOT_CTRL after an action: DONE set, RESULT and ENTRY as given. -/
def State.hotDone (e result : Nat) (s : State) : State :=
  (s.setReg 0x020600 (BitVec.ofNat 32 (fieldAt 28 1 1 + fieldAt 26 2 result + fieldAt 0 6 e))).noteSet (w1c 0x020600 28)

/-- Pin an entry of the hot set: it joins the pinned list in flash. -/
def State.hotPin (entry : Fin 64) (s : State) : State :=
  let e := entry.val
  let x := s.entry e
  if x.state ≠ HotState.ready then s.hotDone e 2
  else if x.pinned then s.hotDone e 0
  else if s.flash.pins.length ≥ 16 then s.hotDone e 1
  else
    let s := s.setEntry e { x with pinned := true }
    let pins := s.flash.pins ++ [(x.modelId, x.digest, x.slabUnits, x.mirrored)]
    ({ s with flash := { s.flash with pins := pins } }).hotDone e 0

/-- HOT_CTRL pin: the entry joins the pinned list in flash. -/
def execHotPin (t : Nat) (who : Requester) (entry : Fin 64) (s : State) : Host.Outcome State Fault Refusal :=
  .next (s.asMgmt t who (State.hotPin entry))

/-- Take an entry's pin away. -/
def State.unpin (e : Nat) (s : State) : State :=
  let x := s.entry e
  let s := s.setEntry e { x with pinned := false }
  { s with flash := { s.flash with pins := s.flash.pins.filter (fun p => decide (p.1 ≠ x.modelId)) } }

/-- Unpin an entry. -/
def State.hotUnpin (entry : Fin 64) (s : State) : State :=
  let e := entry.val
  let x := s.entry e
  if x.state = HotState.empty then s.hotDone e 3
  else
    let s := s.unpin e
    (if x.state = HotState.reserved then s.setEntry e HotEntry.empty else s).hotDone e 0

/-- HOT_CTRL unpin. An entry that is RESERVED for its pin holds its space no longer. -/
def execHotUnpin (t : Nat) (who : Requester) (entry : Fin 64) (s : State) : Host.Outcome State Fault Refusal :=
  .next (s.asMgmt t who (State.hotUnpin entry))

/-- Remove an entry. -/
def State.hotRemove (entry : Fin 64) (s : State) : State :=
  let e := entry.val
  let x := s.entry e
  if x.state = HotState.empty ∨ x.state = HotState.retiring ∨ x.state = HotState.installing then s.hotDone e 3
  else
    let s := if x.pinned then s.unpin e else s
    let s := if s.entryHeld e then s.setEntry e { (s.entry e) with state := .retiring } else s.setEntry e HotEntry.empty
    s.placeAll.hotDone e 0

/-- HOT_CTRL remove: a pinned entry loses its pin first; a held entry becomes RETIRING, any other EMPTY. -/
def execHotRemove (t : Nat) (who : Requester) (entry : Fin 64) (s : State) : Host.Outcome State Fault Refusal :=
  .next (s.asMgmt t who (State.hotRemove entry))

end Sys2Proof.Machine
end

