-- ==== Sys2Proof/Machine/Links.lean ====
section
/-! DEFINITION. The Cefin links (R460 to R468): training, coming up and going down, link sequence numbers, acknowledgement,
replay and credit, discarded packets. -/

namespace Sys2Proof.Machine
open Sys2Proof

/-! ### Training (R461, R462) -/

/-- A port may train: EN is set and main power is present, and a ring port is not bypassed by the swing span. -/
def State.mayTrain (s : State) (p : Nat) : Bool := s.regb (0x090010 + 4 * p) 31 && s.boot.mainGood

/-- Start training of a port: its lanes begin anew, and RETRAINS rises up to 255. -/
def State.startTraining (p : Nat) (s : State) : State :=
  if !s.mayTrain p then s
  else s.modCefin p (fun x => { x with state := .training, retrains := min 255 (x.retrains + 1), lanes := [] })

/-- The packets that a port holds or that wait on it. -/
def CefinPort.unacked (x : CefinPort) : Nat := x.held.length + x.waiting.length

/-- A port goes down (R463): what it holds unacknowledged is lost, a hand-over without a route is broken, and the port
retrains when it may. -/
def State.portDown (p : Nat) (s : State) : State :=
  let x := s.cefin p
  if x.state = LinkState.down then s
  else
    let s := (s.inc (viaCtr p 0x14) 1).inc 0x09020C x.unacked
    let s := s.modCefin p (fun x => { CefinPort.down with retrains := x.retrains })
    s.breakRoutes.startTraining p

/-- HELLO of a port (Table 14.2): the sender's chip number, its port index, ASSIGNED. -/
def State.sendHello (p : Nat) (s : State) : State :=
  if s.lockPort p then s
  else
    let k : Pkt := { port := 0, vc := 0, lseq := 0, dst := 0, src := BitVec.ofNat 14 s.chip, ttl := 63, payload := [],
                     arg := BitVec.ofNat 64 (fieldAt 0 14 s.chip + fieldAt 14 3 p + fieldAt 17 1 (bit s.assigned)) }
    s.sendOn p 0 0x01 k

/-- Whether a lane has trained: its receiver reports so, and the partner's RX_READY has come in 8 frames in a row. -/
def CefinPort.laneUp (x : CefinPort) (ok : BitVec 4) (l : Nat) : Bool :=
  ok.getLsbD l && (match kfind? x.lanes l with
    | none => true
    | some y => decide (8 ≤ y.ready))

/-- What training ends with: 4 lanes, 2 lanes of one half, or a failure (R461). -/
def CefinPort.trained (x : CefinPort) (ok : BitVec 4) : LinkState :=
  let up (l : Nat) : Bool := x.laneUp ok l
  if up 0 && up 1 && up 2 && up 3 then .upX4
  else if (up 0 && up 1) || (up 2 && up 3) then .upX2
  else .trainFail

/-- LINK_TRAINED: a port in training comes up, or fails. E and W reach no partner while the swing span is closed. -/
def execLinkTrained (t : Nat) (port : Fin 8) (lanesOk : BitVec 4) (s : State) : Host.Outcome State Fault Refusal :=
  let s := s.at t
  let p := port.val
  let x := s.cefin p
  if x.state ≠ LinkState.training then .next s
  else
    let ok := if p < 2 ∧ s.via.closed then 0#4 else lanesOk
    let st := x.trained ok
    let s := s.modCefin p (fun x => { CefinPort.down with state := st, retrains := x.retrains })
    .next (s.sendHello p)

/-- TRAIN_RETRY: a port in TRAIN_FAIL trains again. -/
def execTrainRetry (t : Nat) (port : Fin 8) (s : State) : Host.Outcome State Fault Refusal :=
  let s := s.at t
  if (s.cefin port.val).state = LinkState.trainFail then .next (s.startTraining port.val) else .next s

/-- LINK_DOWN: loss of signal, of codeword alignment, or too many replays. -/
def execLinkDown (t : Nat) (port : Fin 8) (s : State) : Host.Outcome State Fault Refusal := .next ((s.at t).portDown port.val)

/-- One step of the CRC-16 of Table 14.16. -/
def crc16Bit (r : Nat) (b : Bool) : Nat :=
  let r2 := 2 * r % 65536
  if Nat.testBit r 15 == b then r2 else Nat.xor r2 0x1021

/-- The CRC-16 over bits in the order in which they are sent. -/
def crc16 (bs : List Bool) : Nat := bs.foldl crc16Bit 0xFFFF

/-- The bits of a number, least significant first. -/
def lsbBits (n w : Nat) : List Bool := (List.range w).map (fun i => Nat.testBit n i)

/-- CHECK of a training frame. -/
def frameSum (f : TrainFrame) : Nat :=
  crc16 (lsbBits f.lane.toNat 8 ++ lsbBits f.count.toNat 16 ++ lsbBits f.control.toNat 16 ++ lsbBits f.status.toNat 16)

/-- A frame with its CHECK. -/
def frameChecked (f : TrainFrame) : TrainFrame := { f with check := BitVec.ofNat 16 (frameSum f) }

/-- The transmitter's taps after a request, and the answer: 0 = none, 1 = updated, 2 = at limit, 3 = not supported. -/
def tapRequest (taps : List Int) (tap req : Nat) : List Int × Nat :=
  if req = 0 then (taps, 0)
  else if req = 3 then ((List.range 5).map Config.tapPreset, 1)
  else if tap > 4 then (taps, 3)
  else
    let v := taps.getD tap 0 + (if req = 1 then 1 else -1)
    let r := Config.tapRange tap
    if v < r.1 ∨ r.2 < v then (taps, 2) else (taps.set tap v, 1)

/-- A lane after a good frame. -/
def LaneTrain.take (f : TrainFrame) (x : LaneTrain) : LaneTrain :=
  let c := f.control.toNat
  let r := tapRequest x.taps (bitsAt c 0 3) (bitsAt c 3 2)
  { x with taps := r.1, answer := r.2, precode := bitAt c 5,
           ready := if bitAt f.status.toNat 2 then x.ready + 1 else 0 }

/-- TRAINING_FRAME: a frame on a lane of a port in training; its request is answered in the lane's next frame. -/
def execTrainingFrame (t : Nat) (port : Fin 8) (lane : Fin 4) (f : TrainFrame) (s : State) :
    Host.Outcome State Fault Refusal :=
  let s := s.at t
  let p := port.val
  if (s.cefin p).state ≠ LinkState.training ∨ f.check.toNat ≠ frameSum f then .next s
  else
    let d := s.draw
    let s := d.2
    let x := (kget LaneTrain.start (s.cefin p).lanes lane.val).take f
    let ask := Config.laneAsks d.1
    let st := fieldAt 0 2 x.answer + fieldAt 2 1 (bit ask.2) + fieldAt 3 1 (bit x.precode)
    let out : TrainFrame := { lane := BitVec.ofNat 8 (lane.val + 4 * p), count := BitVec.ofNat 16 x.sent,
                              control := ask.1 &&& 0x3F#16, status := BitVec.ofNat 16 st, check := 0 }
    let s := s.modCefin p (fun y => { y with lanes := kins y.lanes lane.val { x with sent := (x.sent + 1) % 65536 } })
    .next (s.emit (.frame p lane.val (frameChecked out)))

/-! ### Acknowledgement, replay and credit (R466, R468) -/

/-- How far a sequence number lies behind another, modulo 4,096. -/
def seqBehind (a b : Nat) : Nat := (b + 4096 - a) % 4096

/-- Whether a number of the 12-bit circle lies before or at another. -/
def seqLe (a b : Nat) : Bool := decide (seqBehind a b < 2048)

/-- The credit a packet of a class returns, half A first. -/
def giveBack (m : List (Nat × Nat)) (vc n : Nat) : List (Nat × Nat) :=
  let a := kget 0 m (2 * vc)
  let m := kset 0 m (2 * vc) (a - n)
  kset 0 m (2 * vc + 1) (kget 0 m (2 * vc + 1) - (n - a))

/-- Send the packets that wait on a port, as far as credit goes. -/
def State.pump (p : Nat) (s : State) : State :=
  let q := (s.cefin p).waiting
  s.modCefin p (fun x => { x with waiting := [] }) |>.drainPort p q

/-- The acknowledgement of every packet up to a sequence number. -/
def State.acked (p seq : Nat) (s : State) : State :=
  s.modCefin p (fun x => { x with held := x.held.filter (fun q => !seqLe q.pkt.lseq.toNat seq) })

/-- A replay of every held packet from a sequence number on (R468); 16 replays within 1 ms take the port down (R463). -/
def State.replayFrom (p seq : Nat) (s : State) : State :=
  let s := s.acked p ((seq + 4095) % 4096)
  let s := s.inc (viaCtr p 0x10) 1
  let s := (s.cefin p).held.foldl (fun (s : State) (q : SentPkt) =>
    (s.incBytes (viaCtr p 0x00) (pktBytes q.pkt)).emit (.packet p q.type q.pkt)) s
  let s := s.modCefin p (fun x => { x with replays := (s.time :: x.replays).filter (fun r => decide (s.time < r + 1000000)) })
  if 16 ≤ (s.cefin p).replays.length then s.portDown p else s

/-- What a port counts of a packet that comes in (R497). -/
def State.cameIn (i : Nat) (p : Pkt) (s : State) : State := (s.incBytes (viaCtr i 0x04) (pktBytes p)).inc (viaCtr i 0x08) p.fec

/-- LCTL: link-local, without a sequence number or credit of its own. -/
def execLctl (t : Nat) (p : Pkt) (s : State) : Host.Outcome State Fault Refusal :=
  let s := s.at t
  let i := p.port.val
  if !(s.cefin i).up then .next s
  else
    let a := p.arg.toNat
    let s := s.cameIn i p
    let s := if bitAt a 12 then s.acked i (bitsAt a 0 12) else s
    let s := s.modCefin i (fun x => { x with credits := (List.range 4).foldl (fun m v => giveBack m v (bitsAt a (32 + 8 * v) 8)) x.credits })
    let s := if bitAt a 25 then s.replayFrom i (bitsAt a 13 12) else s
    .next (s.pump i)

/-- The port asks for a replay from the packet it expects, unless it has asked already. -/
def State.sendNak (p : Nat) (s : State) : State :=
  let x := s.cefin p
  if x.asked then s
  else (s.sendLctl p none (some x.rxSeq) []).modCefin p (fun x => { x with asked := true })

/-- A packet of any type but LCTL reaches a port: one out of sequence is discarded and asked for again; the one expected is
acknowledged, its credit is returned, and `act` follows. -/
def State.received (t : Nat) (p : Pkt) (act : State → State) (s : State) : State :=
  let s := s.at t
  let i := p.port.val
  let x := s.cefin i
  if !x.up then s
  else
    let s := s.cameIn i p
    if p.lseq.toNat ≠ x.rxSeq then (if seqLe x.rxSeq p.lseq.toNat then s.sendNak i else s)
    else
      let s := s.modCefin i (fun x => { x with rxSeq := (x.rxSeq + 1) % 4096, asked := false })
      let credit := (List.range 4).map (fun v => if v = p.vc.toNat then pktUnits p else 0)
      act (s.sendLctl i (some p.lseq.toNat) none credit)

/-- PACKET_CRC_FAIL: the packet is discarded, and one that was expected is asked for again. -/
def execPacketCrcFail (t : Nat) (port : Fin 8) (lseq : BitVec 12) (fec : Bool) (s : State) :
    Host.Outcome State Fault Refusal :=
  let s := s.at t
  let i := port.val
  let x := s.cefin i
  if !x.up then .next s
  else
    let s := if fec then s.inc (viaCtr i 0x0C) 1 else s
    if seqLe x.rxSeq lseq.toNat then .next (s.sendNak i) else .next s

/-- Whether a TYPE is one of Table 14.2. -/
def knownType (t : Nat) : Bool :=
  [0x00, 0x01, 0x10, 0x11, 0x12, 0x13, 0x20, 0x21, 0x22, 0x23, 0x30, 0x40, 0x41, 0x50, 0x51, 0x52].contains t

/-- BAD_PACKET: a packet of a reserved TYPE is discarded and counted. -/
def execBadPacket (t : Nat) (type : BitVec 8) (p : Pkt) (s : State) : Host.Outcome State Fault Refusal :=
  .next (s.received t p (fun s => if knownType type.toNat then s else s.inc 0x090208 1))

end Sys2Proof.Machine
end

