-- ==== Sys2Proof/Machine/MemRas.lean ====
section
/-! DEFINITION. Corrections, erasures, sparing and repair of the stacks (R353 to R364, R373), the loss of a stack (R508),
and the scrubbers (R340, R357). -/

namespace Sys2Proof.Machine
open Sys2Proof

/-! ### Stacks and lane groups -/

/-- Change a stack. -/
def State.modStk (i : Nat) (f : Stack → Stack) (s : State) : State :=
  { s with mem := { s.mem with stk := kset Stack.cold s.mem.stk i (f (s.stk i)) } }

/-- THRESH of R358: 0 acts as 1. -/
def State.thresh (s : State) : Nat := max 1 (s.regf 0x070084 23 5)

/-- A stack is DEGRADED while a lane group has two pins erased (Table 11.6). -/
def State.grade (i : Nat) (s : State) : State :=
  let st := (s.stk i).state
  if st = .lost ∨ st = .untrained then s
  else
    let two := (List.range 32).any (fun g => (s.lg i g).eraseA.isSome && (s.lg i g).eraseB.isSome)
    s.modStk i (fun x => { x with state := if two then .degraded else .active })

/-- The repair log in flash takes a lane group as it stands (R362). -/
def State.logRepair (i g : Nat) (s : State) : State :=
  let x : LaneGroup := { s.lg i g with window := [] }
  { s with mem := { s.mem with repairLog := kset LaneGroup.clean s.mem.repairLog (32 * i + g) x } }

/-! ### The loss of a stack (R508) -/

/-- The hot set and the plan cache after the loss of a stack (steps 3 to 5). An entry that reads from its mirror list is EMPTY when
that list loses a stack as well. -/
def State.hotLost (i : Nat) (s : State) : State :=
  let s := s.hot.foldl (fun (s : State) (e : Nat × HotEntry) =>
    let main := e.2.list.contains i
    let mir := (e.2.mirrored || e.2.viaMirror) && e.2.mirrorList.contains i
    if e.2.state = HotState.empty ∨ !(main || mir) then s
    else if !e.2.mirrored then s.setEntry e.1 HotEntry.empty
    else s.setEntry e.1 { e.2 with mirrored := false, viaMirror := e.2.viaMirror || main }) s
  ({ s with cache := [] }).placeAll

/-- A stack becomes LOST. -/
def State.loseStack (i : Nat) (s : State) : State :=
  if s.stackLost i then s
  else
    let s := (s.fault 8 0 i).breakTick .poison
    let s := s.modStk i (fun x => { x with state := .lost })
    let s := (s.jobs.map (·.1)).foldl (fun (s : State) (id : Nat) => s.abandonJob id 0x08 0x02) s
    s.hotLost i

/-! ### Erasure (R358, R359) -/

/-- Erase a pin: a third suspect pin makes the lane group FAILED, and the stack LOST. -/
def State.erase (i g p : Nat) (s : State) : State :=
  let x := s.lg i g
  if x.erased p then s
  else
    let s := s.fault 7 0 i
    if x.eraseA.isNone then ((s.modLg i g (fun x => { x with eraseA := some p })).grade i).logRepair i g
    else if x.eraseB.isNone then ((s.modLg i g (fun x => { x with eraseB := some p })).grade i).logRepair i g
    else (s.modLg i g (fun x => { x with failed := true })).loseStack i

/-- MEM_REPAIR_STATUS at the end of a repair step (R374): DONE with its action, result and place. -/
def State.repairShows (action result i g p : Nat) (s : State) : State :=
  { s with mem := { s.mem with status := BitVec.ofNat 32 (fieldAt 30 1 1 + fieldAt 27 3 action + fieldAt 24 3 result
                                 + fieldAt 19 5 i + fieldAt 14 5 g + fieldAt 9 5 p) } }.noteSet (w1c 0x070088 30)

/-- The end of the repair step in progress. -/
def State.repairDone (action result i g p : Nat) (s : State) : State :=
  { s with mem := { s.mem with repair := none } }.repairShows action result i g p

/-- Whether a stack takes repair steps: it is trained and not LOST. -/
def State.stackUp (s : State) (i : Nat) : Bool := decide ((s.stk i).state = .active ∨ (s.stk i).state = .degraded)

/-- PIN_ERASE: a pin whose corrections in the window reach THRESH is erased, when AUTO_ERASE is 1 and no repair step is in
progress. -/
def execPinErase (t : Nat) (stack : Fin 32) (lg : Fin 32) (pin : Fin 19) (s : State) : Host.Outcome State Fault Refusal :=
  let s := s.at t
  let x := s.lg stack.val lg.val
  if s.mem.repair.isNone && s.regb 0x070084 31 && s.stackUp stack.val && !x.erased pin.val && decide (s.thresh ≤ kget 0 x.window pin.val) then
    .next ((s.erase stack.val lg.val pin.val).repairDone 1 0 stack.val lg.val pin.val)
  else .next s

/-- CORRECTION_WINDOW_END: the counts of a stack start again. -/
def execCorrectionWindowEnd (t : Nat) (stack : Fin 32) (s : State) : Host.Outcome State Fault Refusal :=
  .next ((List.range 32).foldl (fun (s : State) (g : Nat) => s.modLg stack.val g (fun x => { x with window := [] })) (s.at t))

/-! ### Steering (R359) -/

/-- Whether a repair that holds traffic may run: between the end of a publish and the next cut when 50 µs are left, at the
start of phase 1 after 64 ticks without such an interval, or while no tick runs. -/
def State.repairTime (s : State) (i : Nat) : Bool :=
  if s.inTick then decide (s.tick.phase = 1) && decide (64 ≤ (s.stk i).shortCuts)
  else if s.tick.broken.isSome || s.publishes then false
  else match s.gov.nextCut with
    | none => true
    | some c => decide (s.time + 50000 ≤ c)

/-- A repair of `ns` in phase 1 is lag of the pier in class OTHER. -/
def State.repairLag (ns : Nat) (s : State) : State :=
  if !s.inTick then s
  else
    let n := cdiv (ns * s.tick.n) 40
    { s with tick := { s.tick with arrivals := kupd s.tick.arrivals 129 (fun a =>
        { a with cyc := a.cyc + n, classes := listSet 0 a.classes 6 (a.classes.getD 6 0 + n) }) } }

/-- Steer the spare via of a lane group in place of a pin. -/
def State.steer (i g p : Nat) (retrained : Bool) (s : State) : State :=
  let s := (s.fault 7 0 i).repairLag 20000
  let s := s.modLg i g (fun x =>
    if retrained then
      let a := if x.eraseA = some p then x.eraseB else x.eraseA
      let b := if x.eraseA = some p ∨ x.eraseB = some p then none else x.eraseB
      { x with steered := some p, spareSpent := true, eraseA := a, eraseB := b, window := kdel x.window p }
    else { x with spareSpent := true })
  let s := if retrained then s.inc (0x07041C + 0x20 * i) 1 else s
  ((s.grade i).logRepair i g).repairDone 2 (if retrained then 0 else 2) i g p

/-- SPARE_STEER: the requested steering, or with AUTO_STEER 1 one of an erased pin, at a time that R359 allows. -/
def execSpareSteer (t : Nat) (stack : Fin 32) (lg : Fin 32) (pin : Fin 19) (retrained : Bool) (s : State) :
    Host.Outcome State Fault Refusal :=
  let s := s.at t
  let x := s.lg stack.val lg.val
  let asked := decide (s.mem.repair = some { action := 2, stack := stack.val, lg := lg.val, pin := pin.val })
  let auto := s.mem.repair.isNone && s.regb 0x070084 30 && x.erased pin.val
  if (asked || auto) && !x.spareSpent && s.stackUp stack.val && s.repairTime stack.val then
    .next (s.steer stack.val lg.val pin.val retrained)
  else .next s

/-! ### Row and hard repairs (R360, R361) -/

/-- Poisoned granules of a stack. -/
def State.poisonOf (s : State) (i : Nat) : Nat := s.mem.poison.countP (fun g => decide (stackOf (32 * g) = i))

/-- ROW_REPAIR: the controller copies a failing row into a spare row, correcting each codeword; `granules` are the row's codewords,
and those that cannot be corrected enter the poison list. A bank without a spare row, or a full list, refuses the repair. -/
def execRowRepair (t : Nat) (stack : Fin 32) (bank row : Nat) (granules : List Nat) (s : State) :
    Host.Outcome State Fault Refusal :=
  let s := s.at t
  let i := stack.val
  let row' := (granules.filter (fun g => decide (stackOf (32 * g) = i))).eraseDups
  let gs := row'.filter (fun g => !s.mem.poison.contains g && (s.codeAt g).isNone)
  if s.mem.repair.isSome || !s.stackUp i || !s.repairTime i then .next s
  else
    let s := s.fault 7 0 i
    let used := s.mem.rows.countP (fun r => decide (r.stack = i ∧ r.bank = bank))
    if 4 ≤ used then .next (s.repairDone 7 1 i 0 0x1F)
    else if 1024 < s.poisonOf i + gs.length then .next (s.repairDone 7 5 i 0 0x1F)
    else
      let r : RowRepair := { stack := i, bank := bank, row := row, hard := false }
      let s := s.mended row'
      let mem := { s.mem with rows := s.mem.rows ++ [r], rowLog := s.mem.rowLog ++ [r], poison := s.mem.poison ++ gs }
      .next ((((({ s with mem := mem }).repairLag 8000).inc (0x070418 + 0x20 * i) 1)).repairDone 7 0 i 0 0x1F)

/-- Make a lane group's steering hard. -/
def State.hardenLg (i g : Nat) (s : State) : State := (s.modLg i g (fun x => { x with hard := true })).logRepair i g

/-- Make the soft row repairs of a stack hard: all of them, or the first. -/
def State.hardenRows (i : Nat) (all : Bool) (s : State) : State :=
  let soft := s.mem.rows.filter (fun r => decide (r.stack = i) && !r.hard)
  let pick := if all then soft else soft.take 1
  let f (r : RowRepair) : RowRepair := if pick.contains r then { r with hard := true } else r
  { s with mem := { s.mem with rows := s.mem.rows.map f, rowLog := s.mem.rowLog.map f } }

/-- HARD_REPAIR: the fuse program of the requested repair ends, or with AUTO_HARD 1 that of a soft one of the stack. -/
def execHardRepair (t : Nat) (stack : Fin 32) (ok : Bool) (s : State) : Host.Outcome State Fault Refusal :=
  let s := s.at t
  let i := stack.val
  if !s.stackUp i then .next s
  else match s.mem.repair with
    | some r =>
      if r.stack ≠ i then .next s
      else if r.action = 3 then
        .next ((if ok then s.hardenLg i r.lg else s).repairDone 3 (if ok then 0 else 4) i r.lg r.pin)
      else if r.action = 5 then
        .next ((if ok then s.hardenRows i true else s).repairDone 5 (if ok then 0 else 4) i 0 0x1F)
      else .next s
    | none =>
      if !s.regb 0x070084 29 then .next s
      else match (List.range 32).find? (fun g => (s.lg i g).steered.isSome && !(s.lg i g).hard) with
        | some g => .next ((if ok then s.hardenLg i g else s).repairDone 3 (if ok then 0 else 4) i g ((s.lg i g).steered.getD 0x1F))
        | none =>
          if s.mem.rows.any (fun r => decide (r.stack = i) && !r.hard) then
            .next ((if ok then s.hardenRows i false else s).repairDone 5 (if ok then 0 else 4) i 0 0x1F)
          else .next s

/-! ### MEM_SPARE_CTRL (R373) -/

/-- The RW fields that a write of MEM_SPARE_CTRL leaves: ACTION and the reserved bits read 0. -/
def spareCtrlMask : BitVec 32 := 0xEFFFFF00#32

/-- A write of MEM_SPARE_CTRL: its fields, and `act` on its stack, lane group and pin when a step of ACTION `a` may start. -/
def State.spareCtrl (a : Nat) (value : Word) (act : Nat → Nat → Nat → State → State) (s : State) : State :=
  let s := s.setReg 0x070084 (value &&& spareCtrlMask)
  let v := value.toNat
  let i := bitsAt v 18 5
  let g := bitsAt v 13 5
  let p := bitsAt v 8 5
  if bitsAt v 5 3 ≠ a then s
  else if s.mem.repair.isSome then
    s.repairShows a 3 i g p
  else if !s.stackUp i ∨ p > 18 then s.repairDone a 3 i g p
  else act i g p s

/-- Erase the named pin. -/
def State.spareErase (value : Word) (s : State) : State :=
  s.spareCtrl 1 value (fun i g p s =>
    let x := s.lg i g
    if !x.erased p && x.eraseA.isSome && x.eraseB.isSome then s.repairDone 1 3 i g p
    else (s.erase i g p).repairDone 1 0 i g p)

/-- ACTION 1: erase the named pin. A third erasure of a lane group is refused. -/
def execSpareCtrlErase (t : Nat) (who : Requester) (value : Word) (s : State) : Host.Outcome State Fault Refusal :=
  .next (s.asMgmt t who (State.spareErase value))

/-- Ask for a steering of the named pin. -/
def State.spareSteer (value : Word) (s : State) : State :=
  s.spareCtrl 2 value (fun i g p s =>
    if (s.lg i g).spareSpent then s.repairDone 2 1 i g p
    else { s with mem := { s.mem with repair := some { action := 2, stack := i, lg := g, pin := p } } })

/-- ACTION 2: steer the spare via in place of the named pin, at the next time that R359 allows. -/
def execSpareCtrlSteer (t : Nat) (who : Requester) (value : Word) (s : State) : Host.Outcome State Fault Refusal :=
  .next (s.asMgmt t who (State.spareSteer value))

/-- Ask for a hard steering. -/
def State.spareHardSteer (value : Word) (s : State) : State :=
  s.spareCtrl 3 value (fun i g p s =>
    if (s.lg i g).steered.isNone then s.repairDone 3 3 i g p
    else { s with mem := { s.mem with repair := some { action := 3, stack := i, lg := g, pin := p } } })

/-- ACTION 3: make the lane group's steering hard. -/
def execSpareCtrlHardSteer (t : Nat) (who : Requester) (value : Word) (s : State) : Host.Outcome State Fault Refusal :=
  .next (s.asMgmt t who (State.spareHardSteer value))

/-- Clear a replaced erasure. -/
def State.spareClearErasure (value : Word) (s : State) : State :=
  s.spareCtrl 4 value (fun i g p s =>
    let x := s.lg i g
    if !(x.erased p && decide (x.steered = some p)) then s.repairDone 4 3 i g p
    else
      let s := s.modLg i g (fun x => { x with eraseA := if x.eraseA = some p then x.eraseB else x.eraseA, eraseB := none })
      ((s.grade i).logRepair i g).repairDone 4 0 i g p)

/-- ACTION 4: clear an erasure that a steering has replaced. -/
def execSpareCtrlClearErasure (t : Nat) (who : Requester) (value : Word) (s : State) : Host.Outcome State Fault Refusal :=
  .next (s.asMgmt t who (State.spareClearErasure value))

/-- Ask for hard row repairs. -/
def State.spareHardRows (value : Word) (s : State) : State :=
  s.spareCtrl 5 value (fun i g p s =>
    if s.mem.rows.any (fun r => decide (r.stack = i) && !r.hard) then
      { s with mem := { s.mem with repair := some { action := 5, stack := i, lg := g, pin := p } } }
    else s.repairDone 5 0 i 0 0x1F)

/-- ACTION 5: make the stack's soft row repairs hard. -/
def execSpareCtrlHardRows (t : Nat) (who : Requester) (value : Word) (s : State) : Host.Outcome State Fault Refusal :=
  .next (s.asMgmt t who (State.spareHardRows value))

/-! ### Scrubbers (R340, R357) -/

/-- The entry and mirror granule of a device granule that lies in a mirror, with its extent, when its journal knows it. -/
def State.mirrorHit (s : State) (g : Nat) : Option (Nat × Nat) :=
  s.hot.findSome? (fun e =>
    if !e.2.mirrored then none
    else
      let off := 32 * g
      let i := stackOf off
      let a := off % 2 ^ 35
      let base := poolUnit e.2.mirrorUnit
      if e.2.mirrorList.contains i && decide (base ≤ a ∧ a < base + e.2.slabUnits * 0x4000000) then
        some (e.1, (e.2.mirrorList.idxOf i * 2 ^ 35 + (a - base)) / 32)
      else none)

/-- The scrubber meets an uncorrectable codeword: the fault manager takes its report, and repairs one in a mirror from the primary
copy (R504). -/
def State.scrubReport (g : Nat) (s : State) : State :=
  let s := { s with flt := { s.flt with reported := s.flt.reported.filter (· ≠ g) ++ [g] } }
  match s.mirrorHit g with
  | none => s
  | some e =>
    let r : Repair := { entry := e.1, granules := [e.2], source := 0, mirror := true, failed := false }
    if s.flt.repairs.contains r then s else { s with flt := { s.flt with repairs := s.flt.repairs ++ [r] } }

/-- The codewords of a stack in which something reads wrong, or which its poison list holds. -/
def State.spoiled (s : State) (i : Nat) : List Nat :=
  ((s.mem.wrong.map (·.1)) ++ s.mem.poison.filter (fun g => (s.errsAt g).isEmpty)).filter (fun g => decide (stackOf (32 * g) = i))

/-- MEM_SCRUB: the controller has read every codeword of its stack; those that it corrects are counted and written back, the
uncorrectable ones are reported and not written. -/
def execMemScrub (t : Nat) (stack : Fin 32) (errs : MemErrs) (s : State) : Host.Outcome State Fault Refusal :=
  let s := (s.at t).upset errs
  let i := stack.val
  if !s.stackUp i then .next s
  else
    let gs := s.spoiled i
    let bad := gs.filter s.badCode
    let fixed := gs.filter (fun g => !s.badCode g && !(s.fixedPins g).isEmpty)
    let s := (s.incBytes (0xA0100 + 8 * i) (2 ^ 35)).incBytes (0xA0104 + 8 * i) (32 * fixed.length)
    let s := gs.foldl (fun (s : State) (g : Nat) => s.readCode g) s
    let s := (s.inc (0x070414 + 0x20 * i) fixed.length).mended fixed
    .next (bad.foldl (fun (s : State) (g : Nat) => s.scrubReport g) s)

/-- DECK_PATROL_SCRUB: one row of every bank of a span's deck store. What is corrected is counted, and an error that cannot
be corrected leaves its granule poison and is a SPAN_DATA fault of a bound span. -/
def execDeckPatrolScrub (p : Fin 132) (t : Nat) (row : Fin 64) (corrected uncorrectable : List Nat) (s : State) :
    Host.Outcome State Fault Refusal :=
  let s := s.at t
  let mine (l : List Nat) : List Nat := (l.filter (fun g => decide (g < deckGranules ∧ g / 2048 = row.val))).eraseDups
  let bad := mine uncorrectable
  let s := s.modSpan p.val (fun x =>
    let x := (x.inc 0x380 (mine corrected).length).inc 0x384 bad.length
    { x with poison := x.poison ++ bad.filter (fun g => !x.poison.contains g) })
  match bad, (s.mapEntry p.val).logical with
  | [], _ => .next s
  | _, none => .next s
  | _, some l => .next (s.dataFault l p.val 0)

end Sys2Proof.Machine
end

