-- ==== Sys2Proof/Machine/SegCode.lean ====
section
/-! DEFINITION. The segment code (R365), spill ranges (R366, R367) and the remote-target table (R476). -/

namespace Sys2Proof.Machine
open Sys2Proof

/-! ### The code of R365 -/

/-- The eight 32-bit words of a granule. -/
def wordsOf (g : BitVec 256) : List Nat := (List.range 8).map (fun i => bitsAt g.toNat (32 * i) 32)

/-- The coded length in bytes and the coded bytes of a segment, padded to whole granules. -/
def segEncode (gs : List (BitVec 256)) : Nat × List Byte :=
  let live := gs.zipIdx.filter (fun e => decide (e.1 ≠ 0#256))
  let gmask := (live.map (fun e => 2 ^ e.2)).sum
  let masks := live.map (fun e => (((wordsOf e.1).zipIdx.map (fun w => if w.1 = 0 then 0 else 2 ^ w.2)).sum))
  let words := live.flatMap (fun e => (wordsOf e.1).filter (fun w => decide (w ≠ 0)))
  let mlen := 4 * cdiv masks.length 4
  let len := 4 + mlen + 4 * words.length
  let body := natToBytes 4 (gmask + 2 ^ 15 + 2 ^ 16 * len) ++ byteSlice (masks.map (BitVec.ofNat 8)) 0 mlen
    ++ words.flatMap (natToBytes 4)
  (len, byteSlice body 0 (32 * cdiv len 32))

/-- Whether the first word of a place tells a coded segment. -/
def segCoded (bs : List Byte) : Bool := bitAt (leAt bs 0 4) 15

/-- The coded length that the header word of a place gives. -/
def segLen (bs : List Byte) : Nat := bitsAt (leAt bs 0 4) 16 16

/-- The words of a granule from its byte mask and the words that are left. -/
def takeWords (mask : Nat) : Nat → List Nat → List Nat × List Nat
  | 0, ws => ([], ws)
  | n + 1, ws =>
    let i := 8 - (n + 1)
    if bitAt mask i then
      let r := takeWords mask n (ws.drop 1)
      (ws.headD 0 :: r.1, r.2)
    else
      let r := takeWords mask n ws
      (0 :: r.1, r.2)

/-- The `n` granules of a place in plain form. -/
def segDecode (n : Nat) (bs : List Byte) : List (BitVec 256) :=
  if !segCoded bs then (List.range n).map (fun i => BitVec.ofNat 256 (leAt bs (32 * i) 32))
  else
    let gmask := bitsAt (leAt bs 0 4) 0 9
    let live := (List.range 9).filter (bitAt gmask)
    let masks := live.zipIdx.map (fun e => (e.1, (bs.getD (4 + e.2) 0#8).toNat))
    let w0 := 4 + 4 * cdiv live.length 4
    let words := (List.range ((segLen bs - w0) / 4)).map (fun i => leAt bs (w0 + 4 * i) 4)
    let r := masks.foldl (fun (acc : List (Nat × List Nat) × List Nat) (m : Nat × Nat) =>
      let t := takeWords m.2 8 acc.2
      (acc.1 ++ [(m.1, t.1)], t.2)) ([], words)
    (List.range n).map (fun i => match r.1.find? (fun e => e.1 = i) with
      | none => 0#256
      | some e => BitVec.ofNat 256 ((e.2.zipIdx.map (fun w => w.1 * 2 ^ (32 * w.2))).sum))

/-! ### Spill ranges -/

/-- A byte of the job plan region. -/
def State.planByte (s : State) (a : Nat) : Byte := s.memByte (planAddr a)

/-- The little-endian number in bytes of the job plan region. -/
def State.planNum (s : State) (a n : Nat) : Nat := bytesToNat ((List.range n).map (fun i => s.planByte (a + i)))

/-- The job-plan-region address of a device offset that lies in the region. -/
def planOf? (off : Nat) : Option Nat :=
  if 0x7C0000000 ≤ off % 2 ^ 35 then some (stackOf off * 2 ^ 30 + (off % 2 ^ 35 - 0x7C0000000)) else none

/-- The spill ranges of the job: base, number of places, PLACE_G. -/
def State.spillRanges (s : State) : List (Nat × Nat × Nat) :=
  ((List.range 8).map (fun i => (s.planNum (16 * i) 8, s.planNum (16 * i + 8) 4, s.planNum (16 * i + 12) 1))).filter
    (fun r => decide (r.2.2 ≠ 0))

/-- How a device range of `n` granules lies to the spill ranges: outside them, over whole places of PLACE_G granules, or
over part of a place. -/
inductive Spill where
  | none
  | places (g : Nat)
  | part
deriving DecidableEq, Repr

/-- How granules from a device offset lie to the spill ranges. -/
def State.spillOf (s : State) (off n : Nat) : Spill := match planOf? off with
  | none => .none
  | some a =>
    let hit (r : Nat × Nat × Nat) : Bool := decide (a < r.1 + 32 * r.2.1 * r.2.2 ∧ r.1 < a + 32 * n)
    match s.spillRanges.find? hit with
    | none => .none
    | some r =>
      if r.1 ≤ a ∧ a + 32 * n ≤ r.1 + 32 * r.2.1 * r.2.2 ∧ (a - r.1) % (32 * r.2.2) = 0 ∧ n % r.2.2 = 0 then .places r.2.2
      else .part

/-! ### Remote targets (R476) -/

/-- A remote-target entry (Table 14.4). -/
structure RemoteTarget where
  valid : Bool
  chip : Nat
  lid : Nat
  roff : Nat
  pull : Bool
  seg : Bool
  feed : Bool
  ctr : Nat
  placeG : Nat
  lspan : Nat
  phase : Nat
  granule : Nat
  granules : Nat
  start : Nat
deriving DecidableEq, Repr

/-- Entry `i` of the remote-target table. -/
def State.remoteTarget (s : State) (i : Nat) : RemoteTarget :=
  let a := 0x1000 + 32 * i
  let w := s.planNum a 2
  let f := s.planNum (a + 9) 1
  { valid := bitAt w 15, chip := bitsAt w 0 14, lid := s.planNum (a + 2) 2, roff := s.planNum (a + 4) 5, pull := bitAt f 0,
    seg := bitAt f 1, feed := bitAt f 2, ctr := bitsAt f 3 5, placeG := s.planNum (a + 10) 1, lspan := s.planNum (a + 11) 1,
    phase := s.planNum (a + 12) 1, granule := s.planNum (a + 16) 4, granules := s.planNum (a + 20) 4, start := s.planNum (a + 24) 4 }

/-- ARG of a WRITE (Table 14.2). -/
def remoteArg (lid off : Nat) (t : RemoteTarget) : Nat :=
  fieldAt 0 13 lid + fieldAt 13 40 off + fieldAt 53 5 t.ctr + fieldAt 58 1 (bit t.feed) + fieldAt 59 1 (bit t.seg)
    + fieldAt 60 4 (if t.seg then t.placeG else 0)

end Sys2Proof.Machine
end

