-- ==== Sys2Proof/Machine/Streams.lean ====
section
/-! DEFINITION. The stream engine (R287 to R290, R367, R477) and scattered additions (R189 to R194). -/

namespace Sys2Proof.Machine
open Sys2Proof

/-! ### A stream begins and ends -/

/-- The lowest free stream slot. -/
def Span.freeSlot (x : Span) : Nat := (firstBelow 8 (fun i => (kfind? x.streams i).isNone)).getD 7

/-- A stream takes a slot; one of length 0 is complete at once. -/
def Span.startStream (v : Stream) (x : Span) : Span :=
  if v.srcs.isEmpty then x else { x with streams := kins x.streams x.freeSlot v }

/-! ### MLOAD (R288, R367) -/

/-- The granules of device memory, from their first byte. -/
def devGranules (off n : Nat) : List Nat := (List.range n).map (fun i => off / 32 + i)

/-- The device granules of a weight extent of a layer on a logical span; none when the extent is overrun. -/
def State.extentPlaces (s : State) (d : Desc) (l off len : Nat) : Option (List Nat) := match s.extentOf d l with
  | none => none
  | some (_, w) => match s.extentEntry? w with
    | none => none
    | some e =>
      if w.len < off + len then none
      else some ((List.range len).map (fun i => s.entryAddr (s.entry e) (w.offset + 32 * (off + i)) / 32))

/-- MLOAD begins; `srcs` counts device granules from 1. -/
def mloadStart (gs : List Nat) (places dst rlog2 sctr : Nat) (fctr : Option Nat) (c : Ctx) (s : State) : State :=
  let v := Stream.new .mload (gs.map (· + 1)) ((List.range gs.length).map (ringAt dst rlog2)) sctr
  s.modSpan c.p (Span.startStream { v with places := places, fen := fctr })

/-- MLOAD acts. -/
def mloadAct (raw : Bool) (desc off addr len dst rlog2 sctr : Nat) (fctr : Option Nat) (c : Ctx) (s : State) : State :=
  if raw then
    let a := 4096 * addr
    if 0x0FFFFFFF < addr ∨ 2 ^ 40 < a + 32 * len then s.faultAt c 0x03
    else match s.spillOf a len with
      | .none => mloadStart (devGranules a len) 0 dst rlog2 sctr fctr c s
      | .places g =>
        let s := s.incBytes 0x070090 (32 * len)
        let moved := ((List.range (len / g)).map (fun j =>
          let bs := (List.range (32 * g)).map (fun i => s.memByte (a + 32 * g * j + i))
          if segCoded bs then 32 * cdiv (segLen bs) 32 else 32 * g)).sum
        mloadStart (devGranules a len) g dst rlog2 sctr fctr c (s.incBytes 0x070094 moved)
      | .part => s.faultAt c 0x03
  else match s.desc? (desc + c.ix.d) with
    | none => s.faultAt c 0x0A
    | some d => match s.extentPlaces d c.l off len with
      | none => s.faultAt c 0x03
      | some gs => mloadStart gs 0 dst rlog2 sctr fctr c (s.winAdd 256 8 (32 * gs.length))

/-- MLOAD. -/
def execMload (i : Issue) (raw : Bool) (desc : BitVec 12) (off : BitVec 20) (addr : Word) (len : BitVec 20)
    (dst : BitVec 17) (rlog2 sctr fctr : BitVec 5) (fen : Bool) (s : State) : Host.Outcome State Fault Refusal :=
  s.present i (.mload · raw desc off addr len dst rlog2 sctr fctr fen) .stream WaitGroup.none noMore
    (mloadAct raw desc.toNat off.toNat addr.toNat len.toNat dst.toNat rlog2.toNat sctr.toNat
      (if fen then some fctr.toNat else none))

/-! ### MSTORE (R288, R367, R477) -/

/-- The bytes of granules. -/
def granBytes (gs : List (BitVec 256)) : List Byte := gs.flatMap (fun g => natToBytes 32 g.toNat)

/-- One place of a spill range: coded when that saves a granule, plain otherwise. -/
def placeBytes (g : Nat) (seg : List (BitVec 256)) : List Byte :=
  let e := segEncode seg
  if e.1 ≤ 32 * (g - 1) then e.2 else granBytes seg

/-- A local store: the bytes go to device memory, and the acknowledgements follow. -/
def State.storeLocal (a : Nat) (gs : List (BitVec 256)) (sp : Spill) (s : State) : State := match sp with
  | .places g =>
    let segs := chunks g (gs.length + 1) gs
    let bs := segs.map (placeBytes g)
    let s := (s.incBytes 0x070090 (32 * gs.length)).incBytes 0x070094 ((bs.map (·.length)).sum)
    bs.zipIdx.foldl (fun (s : State) (e : List Byte × Nat) =>
      s.memWrite (e.1.zipIdx.map (fun b => (a + 32 * g * e.2 + b.2, b.1)))) s
  | _ => s.memWrite ((granBytes gs).zipIdx.map (fun b => (a + b.2, b.1)))

/-- The WRITEs of a remote store: OFFSET, plain granules and payload of each. -/
def remoteWrites (t : RemoteTarget) (off : Nat) (gs : List (BitVec 256)) : List (Nat × Nat × List (BitVec 256)) :=
  if !t.seg then
    ((chunks 128 (gs.length + 1) gs).foldl (fun (acc : List (Nat × Nat × List (BitVec 256)) × Nat) (c : List (BitVec 256)) =>
      (acc.1 ++ [(acc.2, c.length, c)], acc.2 + 32 * c.length)) ([], off)).1
  else
    let r := (chunks t.placeG (gs.length + 1) gs).foldl
      (fun (acc : List (Nat × Nat × List (BitVec 256)) × Nat) (seg : List (BitVec 256)) =>
        let code := granulesOf (cdiv (placeBytes t.placeG seg).length 32) (placeBytes t.placeG seg)
        let next := acc.2 + 32 * seg.length
        match acc.1.getLast? with
        | some w =>
          if w.2.2.length + code.length ≤ 128 then
            (acc.1.dropLast ++ [(w.1, w.2.1 + seg.length, w.2.2 ++ code)], next)
          else (acc.1 ++ [(acc.2, seg.length, code)], next)
        | none => ([(acc.2, seg.length, code)], next)) ([], off)
    r.1

/-- MSTORE acts. -/
def mstoreAct (addr len src sctr : Nat) (deck : DeckUse) (c : Ctx) (s : State) : State :=
  if deckGranules < src + len ∨ 0x1FFFFFFF < addr then s.faultAt c 0x03
  else
    let gs := (List.range len).map (fun i => src + i)
    let vals := gs.map (s.span c.p).granule
    let v := Stream.new .mstore gs gs sctr
    if addr < 0x10000000 then
      let a := 4096 * addr
      let sp := s.spillOf a len
      if sp = .part ∨ 2 ^ 40 < a + 32 * len then s.faultAt c 0x03
      else
        let s := s.modSpan c.p (fun x => (x.readG gs).2.startStream { v with needAck := true })
        ((s.storeLocal a vals sp).checkPoison c.l c.p gs).deckUse c.l c.p deck
    else
      let t := s.remoteTarget (addr / 2 ^ 20 % 256)
      if !t.valid || t.pull || (t.seg && (decide (t.placeG = 0) || decide (len % t.placeG ≠ 0))) then s.faultAt c 0x03
      else
        let ws := remoteWrites t (t.roff + 4096 * (addr % 2 ^ 20)) vals
        let s := s.modSpan c.p (fun x => (x.readG gs).2.startStream { v with needAck := true, remote := ws.map (fun w => (t.lid, w.1, w.2.1)) })
        let s := ws.foldl (fun (s : State) (w : Nat × Nat × List (BitVec 256)) =>
          s.sendTo 0x10 2 t.chip (remoteArg t.lid w.1 t) w.2.2) s
        (s.checkPoison c.l c.p gs).deckUse c.l c.p deck

/-- MSTORE. -/
def execMstore (i : Issue) (addr : Word) (len : BitVec 20) (src : BitVec 17) (sctr : BitVec 5) (deck : DeckUse) (s : State) :
    Host.Outcome State Fault Refusal :=
  s.present i (.mstore · addr len src sctr .clean) .stream WaitGroup.none noMore
    (mstoreAct addr.toNat len.toNat src.toNat sctr.toNat deck)

/-! ### KVRD (R159, R287) -/

/-- KVRD acts: the granules of every entry, in the order of R287. A piece without a frame reads as zeros, with a fault. -/
def kvrdAct (lbase nlist dst rlog2 sctr : Nat) (fctr : Option Nat) (deck : DeckUse) (c : Ctx) (s : State) : State :=
  match s.layer? c.p, s.assigns? c lbase nlist with
  | some d, some as =>
    if as.1.any (s.badAssign d) then s.faultAt c 0x0B
    else
      let ks := as.1.flatMap (s.kvPieces d)
      let srcs := ks.flatMap (fun k => k.granules.map (fun g => if k.valid then s.jobAddr (32 * g) / 32 + 1 else 0))
      let s := as.1.foldl (fun (s : State) (a : Assign) => match s.slotReq a.slot with
        | none => s
        | some q => s.winAdd q.partition 8 (((s.kvPieces d a).map (·.bytes)).sum)) s
      let v := Stream.new .kvrd srcs ((List.range srcs.length).map (ringAt dst rlog2)) sctr
      let s := s.modSpan c.p (fun x => (x.readG as.2).2.startStream { v with fen := fctr })
      let miss := ks.countP (fun k => !k.valid && !k.v)
      let s := (s.checkPoison c.l c.p as.2).deckUse c.l c.p deck
      if miss = 0 then s else (s.modSpan c.p (Span.inc 0x2C4 miss)).dataFault c.l c.p 0
  | none, _ => s.faultAt c 0x0A
  | _, none => s.faultAt c 0x03

/-- KVRD. -/
def execKvrd (i : Issue) (w : WaitGroup) (lbase : BitVec 17) (nlist : BitVec 13) (dst : BitVec 17)
    (rlog2 sctr fctr : BitVec 5) (fen : Bool) (deck : DeckUse) (s : State) : Host.Outcome State Fault Refusal :=
  s.present i (.kvrd · w lbase nlist dst rlog2 sctr fctr fen .clean) .stream w noMore
    (kvrdAct lbase.toNat nlist.toNat dst.toNat rlog2.toNat sctr.toNat (if fen then some fctr.toNat else none) deck)

/-! ### FILL, COPY, GATH, SCAT, SEND (R289, R290) -/

/-- A granule as it stands: its value, and whether it is poison and whether a deck flit brought that. -/
def Span.heldGranule (x : Span) (g : Nat) : BitVec 256 × Bool × Bool := (x.granule g, x.poison.contains g, x.flitPoison.contains g)

/-- FILL: 8 granules per cycle. -/
def execFill (i : Issue) (dst len : BitVec 17) (pattern : Word) (sctr : BitVec 5) (s : State) :
    Host.Outcome State Fault Refusal :=
  s.present i (.fill · dst len pattern sctr) .stream WaitGroup.none noMore (fun c s =>
    match c.ix.addrs dst.toNat len.toNat with
    | none => s.faultAt c 0x03
    | some ds =>
      let v := Stream.new .fill ds ds sctr.toNat
      s.modSpan c.p (Span.startStream { v with since := c.cyc, pattern := pattern }))

/-- COPY: 4 granules per cycle. What it writes is what its sources hold as it begins, so that an overlap of the two ranges
changes nothing (R289). -/
def execCopy (i : Issue) (src dst len : BitVec 17) (sctr : BitVec 5) (s : State) : Host.Outcome State Fault Refusal :=
  s.present i (.copy · src dst len sctr) .stream WaitGroup.none noMore (fun c s =>
    match c.ix.addrs src.toNat len.toNat, c.ix.addrs dst.toNat len.toNat with
    | some ss, some ds =>
      let v := Stream.new .copy ss ds sctr.toNat
      s.modSpan c.p (fun x => x.startStream { v with since := c.cyc, held := ss.map x.heldGranule })
    | _, _ => s.faultAt c 0x03)

/-- GATH acts: an entry of ELEN granules for each position of the current list. -/
def gathAct (sspan src sstride elen dst sctr : Nat) (c : Ctx) (s : State) : State :=
  let list := s.seqList c.p
  let ks := List.range list.length
  if s.badList c.p ks then s.faultAt c 0x0B
  else
    let from_ := (s.destSpans c.l ((s.layer? c.p).getD []) sspan).headD c.l
    let srcs := ks.flatMap (fun k => (List.range elen).map (fun i => src + list.getD k 0 * sstride + i))
    match c.ix.addrs dst (list.length * elen) with
    | none => s.faultAt c 0x03
    | some ds =>
      if srcs.any (fun g => decide (deckGranules ≤ g)) then s.faultAt c 0x03
      else
        let v := Stream.new .gath srcs ds sctr
        s.modSpan c.p (Span.startStream { v with targets := [from_], places := elen })

/-- GATH. -/
def execGath (i : Issue) (w : WaitGroup) (sspan : BitVec 8) (src : BitVec 17) (sstride : BitVec 12) (elen : BitVec 10)
    (dst : BitVec 17) (sctr : BitVec 5) (s : State) : Host.Outcome State Fault Refusal :=
  s.present i (.gath · w sspan src sstride elen dst sctr) .stream w noMore
    (gathAct sspan.toNat src.toNat sstride.toNat elen.toNat dst.toNat sctr.toNat)

/-- SCAT: NGRAN scatter entries, each source granule with its 64-bit route entry. The route entries are read as the entries
leave. -/
def execScat (i : Issue) (w : WaitGroup) (src : BitVec 17) (ngran : BitVec 13) (rbase : BitVec 17) (s : State) :
    Host.Outcome State Fault Refusal :=
  s.present i (.scat · w src ngran rbase) .stream w noMore (fun c s =>
    match c.ix.addrs src.toNat ngran.toNat, c.ix.addrs rbase.toNat (cdiv ngran.toNat 4) with
    | some ss, some rs =>
      let v := Stream.new .scat ss rs 0
      s.modSpan c.p (Span.startStream v)
    | _, _ => s.faultAt c 0x03)

/-- SEND. -/
def execSend (i : Issue) (w : WaitGroup) (src len : BitVec 17) (dspan : BitVec 8) (dst : BitVec 17) (rctr sctr : BitVec 5)
    (s : State) : Host.Outcome State Fault Refusal :=
  s.present i (.send · w src len dspan dst rctr sctr) .stream w noMore (fun c s =>
    match c.ix.addrs src.toNat len.toNat with
    | none => s.faultAt c 0x03
    | some ss =>
      if deckGranules < dst.toNat + len.toNat then s.faultAt c 0x03
      else if dspan = 0xFE#8 ∧ s.layer? c.p = none then s.faultAt c 0x0A
      else
        let v := Stream.new .send ss ((List.range len.toNat).map (fun i => dst.toNat + i)) sctr.toNat
        let ts := s.destSpans c.l ((s.layer? c.p).getD []) dspan.toNat
        s.modSpan c.p (Span.startStream { v with targets := ts, rctr := rctr.toNat, needAck := true }))

/-! ### Scattered additions (R189 to R194) -/

/-- Entries of a bank of logical span `l`. -/
def Span.bankQueue (b : Nat) (x : Span) : List ScatEntry := kget [] x.queues b

/-- Route entry `j` of granules: target span, line and weight. -/
def routeEntry (rs : List (BitVec 256)) (j : Nat) : Nat × Nat × BitVec 16 :=
  let e := bitsAt (rs.getD (j / 4) 0#256).toNat (64 * (j % 4)) 64
  (bitsAt e 0 7, bitsAt e 7 12, BitVec.ofNat 16 (bitsAt e 32 16))

/-- Scatter entry `j` of a stream of logical span `l`: its target span, and the entry. -/
def Span.scatEntry (l : Nat) (v : Stream) (j : Nat) (x : Span) : Nat × ScatEntry :=
  let r := routeEntry (v.dsts.map x.granule) j
  (r.1, { src := l, line := r.2.1, g := r.2.2, values := (List.range 16).map (fun i =>
    BitVec.ofNat 16 (bitsAt (x.granule (v.srcs.getD j 0)).toNat (16 * i) 16)) })

/-- A line with one scatter entry added (R189): the line and the saturating additions. -/
def Line.scatter (d : Desc) (di line : Nat) (e : ScatEntry) (ln : Line) : Line × Nat :=
  let h := (tileShape d.tshape).2
  let ln := if ln.hasUnit then ln
    else { ln with unit := BitVec.ofInt 12 d.scatUnit, hasUnit := true, tag := d.tag 0, desc := di,
                   rowGroup := (line - d.accBase) % max 1 d.linesPerSeq / h }
  let r := (ln.acc.zip e.values).map (fun a => satAdd32 a.1 (scatTerm (lnsOf a.2) (lnsOf e.g) d.scatUnit))
  let sat := r.countP (·.2)
  ({ ln with acc := r.map (·.1), pending := true, saturated := ln.saturated || decide (0 < sat) }, sat)

/-- Apply the entry at the front of a bank's queue (R192, R193). A cycle beyond the cap holds the cells. -/
def State.applyEntry (l p cyc : Nat) (e : ScatEntry) (s : State) : State :=
  match s.layer? p, (s.span p).cells.layer with
  | some d, some di =>
    if !d.scatEn || decide (e.line < d.scatBase) || decide (d.scatBase + d.scatLines ≤ e.line) then s.modSpan p (Span.inc 0x324 1)
    else
      let slot := (s.seqList p).getD ((e.line - d.accBase) / max 1 d.linesPerSeq) 0
      let r := s.countEntry l p di d e.line slot
      match r.1 with
      | none => r.2
      | some n =>
        r.2.modSpan p (fun x =>
          let a := (kget Line.zero x.lines e.line).scatter d di e.line e
          let x := { x with lines := kset Line.zero x.lines e.line a.1 }.inc 0x210 a.2
          if 0 < n then { x with cells := { x.cells with busyUntil := max x.cells.busyUntil cyc + n, overBusy := some .scat } } else x)
  | _, _ => s.modSpan p (Span.inc 0x324 1)

/-- Whether a line is being zeroed at a cycle (R282). -/
def Span.lineZeroed (line cyc : Nat) (x : Span) : Bool := match x.cells.zeroing with
  | none => false
  | some z => decide (z.1 ≤ line ∧ line < z.1 + z.2.1 ∧ cyc < z.2.2)

/-- SCATTER_ENTRY_APPLY: the bank applies the first entry of its queue, one in a cycle (R191); one for a line that is being zeroed
waits. -/
def execScatterEntryApply (l : Fin 128) (cyc : Nat) (bank : Fin 16) (s : State) : Host.Outcome State Fault Refusal :=
  let s := s.toCyc cyc
  if !s.tick.active then .next s
  else match s.phys? l.val with
    | none => .next s
    | some p =>
      let x := s.span p
      match x.bankQueue bank.val with
      | [] => .next s
      | e :: rest =>
        if x.lineZeroed e.line cyc || decide (cyc < kget 0 x.bankAt bank.val) then .next s
        else
          let s := s.modSpan p (fun x => { x with queues := kset [] x.queues bank.val rest, bankAt := kset 0 x.bankAt bank.val (cyc + 1) })
          let s := match s.phys? e.src with
            | none => s
            | some q => s.modSpan q (fun y => { y with scatAt := max y.scatAt cyc })
          .next (s.applyEntry l.val p cyc e)

/-! ### Granules land (R288 to R290) -/

/-- What one granule from device memory delivers: its value and whether it is poison. A granule of a spill range is read as far as its
coded place reaches (R367). -/
def State.loadGranule (v : Stream) (i : Nat) (s : State) : (BitVec 256 × Bool) × State :=
  let g := v.srcs.getD i 0
  if g = 0 then ((0#256, false), s)
  else
    let off := 32 * (g - 1)
    if v.places = 0 then
      let b := s.readBytes (addrs off 32)
      ((BitVec.ofNat 256 (bytesToNat b.1), s.poisoned off), b.2)
    else
      let first := 32 * (v.srcs.getD (i / v.places * v.places) 0 - 1)
      let bs := (addrs first (32 * v.places)).map s.memByte
      let n := if segCoded bs then cdiv (segLen bs) 32 else v.places
      let z := if i % v.places < n then (s.memRead (addrs off 32)).2 else s
      (((segDecode v.places bs).getD (i % v.places) 0#256,
        (List.range n).any (fun k => s.poisoned (first + 32 * k))), z)

/-- A stream takes what it needs from FCTR for its granule `i`; none while the counter is short. -/
def Span.takeFen (cyc : Nat) (v : Stream) (i : Nat) (x : Span) : Option (Stream × Span) := match v.fen with
  | none => some (v, x)
  | some f =>
    let need := i + 1 - v.taken
    if x.seq.avail f < need then none
    else some ({ v with taken := v.taken + need }, { x with seq := x.seq.change cyc f .sub need })

/-- What is to happen with the granule of a stream: the spans whose deck stores it is written to and what its landing there
does, and its value with its poison marks. -/
structure Moved where
  targets : List (Nat × PutRaise)
  g : Nat
  value : BitVec 256 × Bool × Bool
deriving DecidableEq, Repr

/-- A deck flit that came with an error is held against the last router that forwarded it (R510). -/
def State.flitError (r : Option (Fin 132)) (s : State) : State := match r with
  | none => s
  | some r => { s with flt := { s.flt with flitErrors := s.flt.flitErrors ++ [(r.val, s.time)] } }

/-- Granule `i` of a stream is on its way to deck stores of the spans. -/
def State.moveOut (l cyc : Nat) (deck : DeckUse) (bad : Option (Fin 132)) (m : Moved) (s : State) : State :=
  let put (r : PutRaise) : DeckPut :=
    { cyc := cyc + deckDelay deck, client := .stream, src := l, g := m.g, v := m.value.1, poison := m.value.2.1,
      flit := m.value.2.2 || bad.isSome, raise := r }
  m.targets.foldl (fun (s : State) (t : Nat × PutRaise) => s.askPuts t.1 [put t.2]) (s.flitError bad)

/-- What granule `i` of the stream in a slot of logical span `l` becomes in a cycle; none while the stream holds. -/
def State.takeGranule (l p slot i cyc : Nat) (v : Stream) (s : State) : Option (Moved × State) :=
  let x := s.span p
  let here : List (Nat × PutRaise) := [(l, .stream slot i)]
  match v.kind with
  | .mload | .kvrd => (x.takeFen cyc v i).map (fun t =>
      let r := s.loadGranule v i
      ({ targets := here, g := v.dsts.getD i 0, value := (r.1.1, r.1.2, false) },
        r.2.modSpan p (fun x => { x with seq := t.2.seq, streams := kins x.streams slot t.1 })))
  | .gath => (s.phys? (v.targets.headD l)).map (fun q =>
      let g := v.srcs.getD i 0
      ({ targets := here, g := v.dsts.getD i 0, value := (s.span q).heldGranule g }, s.modSpan q (fun y => (y.readG [g]).2)))
  | .send =>
    let g := v.srcs.getD i 0
    some ({ targets := v.targets.map (fun t => (t, .ctr v.rctr 1)), g := v.dsts.getD i 0, value := x.heldGranule g },
      s.modSpan p (fun x => (x.readG [g]).2.setStream slot (v.land i)))
  | .fill =>
    if cyc ≤ v.since + i / 8 then none
    else
      let g := BitVec.ofNat 256 (((List.range 8).map (fun i => v.pattern.toNat * 2 ^ (32 * i))).sum)
      some ({ targets := here, g := v.dsts.getD i 0, value := (g, false, false) }, s)
  | .copy =>
    if cyc ≤ v.since + i / 4 then none
    else some ({ targets := here, g := v.dsts.getD i 0, value := v.held.getD i (0, false, false) }, s.modSpan p (Span.incBytes 0x3A0 32))
  | .mstore | .scat => none

/-- The next scatter entry of a stream leaves for the queue of its bank, or waits while that is full (R191). An entry for a span
that the plan does not have goes nowhere. -/
def State.scatSend (l p slot i cyc : Nat) (v : Stream) (s : State) : State :=
  let e := (s.span p).scatEntry l v i
  let wait := (v.fullFrom.map (fun f => cyc - f)).getD 0
  let s := s.modSpan p (fun x => x.inc 0x31C wait)
  let next := { v with count := i + 1, fullFrom := none }
  match s.phys? e.1 with
  | none => s.modSpan p (Span.setStream slot next)
  | some q =>
    if 32 ≤ ((s.span q).bankQueue (e.2.line % 16)).length then
      s.modSpan p (fun x => { x with streams := kins x.streams slot { v with fullFrom := some cyc } })
    else
      let s := s.modSpan q (fun y => { y with queues := kset [] y.queues (e.2.line % 16) (y.bankQueue (e.2.line % 16) ++ [e.2]) })
      let s := s.modSpan p (fun x => (x.readG [v.srcs.getD i 0]).2.setStream slot next)
      s.checkPoison l p [v.srcs.getD i 0, v.dsts.getD (i / 4) 0]

/-- The deck store that a stream's granule is read from: the source span's for GATH, else the span's own. -/
def Stream.from_ (l : Nat) (v : Stream) : Nat := if v.kind = .gath then v.targets.headD l else l

/-- Whether granule `i` of a stream in a slot may still move: it exists, it has not landed and is not on its way. -/
def Span.mayMove (slot i : Nat) (v : Stream) (x : Span) : Bool :=
  decide (i < v.srcs.length ∧ v.count ≤ i) && !v.landed.contains i && !x.puts.any (fun w => decide (w.raise = .stream slot i))

/-- Granule `idx` of the stream in a slot arrives at the deck stores that it goes to, and asks for their ports. Data of a stream
that is gone is discarded. -/
def State.granuleArrives (l cyc slot idx : Nat) (deck : DeckUse) (bad : Option (Fin 132)) (s : State) : State :=
  match s.phys? l with
  | none => s
  | some p => match kfind? (s.span p).streams slot with
    | none => s
    | some v =>
      if !s.tick.active || !(s.span p).mayMove slot idx v then s
      else if v.kind = .scat then
        if idx ≠ v.count then s else (s.scatSend l p slot idx cyc v).deckUse l p deck
      else match s.takeGranule l p slot idx cyc v with
        | none => s
        | some r =>
          let s := r.2.moveOut l cyc deck bad r.1
          match s.phys? (v.from_ l) with
          | none => s
          | some q => s.deckUse (v.from_ l) q deck

/-! ### Acknowledgements (R288, R290, R477) -/

/-- `n` granules of a stream are acknowledged in a cycle: SCTR rises. -/
def State.ackStream (cyc l p slot n : Nat) (v : Stream) (s : State) : State :=
  let most := if v.kind = .mstore then v.srcs.length else v.count
  let n := min n (most - v.acked)
  (s.modSpan p (Span.setStream slot { v with acked := v.acked + n })).ctrAdd cyc l v.sctr n

/-- STREAM_ACK: granules of a local store or of a SEND are acknowledged. -/
def execStreamAck (l : Fin 128) (cyc : Nat) (slot : Fin 8) (n : Nat) (s : State) : Host.Outcome State Fault Refusal :=
  let s := s.toCyc cyc
  if !s.tick.active then .next s
  else match s.phys? l.val with
    | none => .next s
    | some p => match kfind? (s.span p).streams slot.val with
      | none => .next s
      | some v => if v.needAck && v.remote.isEmpty then .next (s.ackStream cyc l.val p slot.val n v) else .next s

/-- A WACK of a remote store: the stream that waits for it takes its granules as acknowledged. -/
def State.remoteAck (lid off : Nat) (s : State) : State :=
  match s.binding.findSome? (fun (e : Nat × Nat) => ((s.span e.2).streams.find? (fun v =>
      v.2.remote.any (fun r => decide (r.1 = lid ∧ r.2.1 = off)))).map (fun v => (e.1, e.2, v.1, v.2))) with
  | none => s
  | some (l, p, slot, v) => match v.remote.find? (fun r => decide (r.1 = lid ∧ r.2.1 = off)) with
    | none => s
    | some r => s.ackStream s.cycNow l p slot r.2.2 { v with remote := v.remote.erase r }

end Sys2Proof.Machine
end

