-- ==== Sys2Proof/Machine/Viaduct.lean ====
section
/-! DEFINITION. Packets of the viaduct (R464 to R481): forwarding, remote writes and reads into landings, pulls, the packets of
hand-overs, of lock-step and of installs from another module. -/

namespace Sys2Proof.Machine
open Sys2Proof

/-! ### For whom a packet is (R469, R470) -/

/-- Forward a packet for another chip: TTL falls by one, and a packet without a route is discarded. -/
def State.forward (type : BitVec 8) (p : Pkt) (s : State) : State :=
  if p.ttl = 0 then s.inc (viaCtr p.port.val 0x1C) 1
  else match s.outPort p.dst.toNat with
    | none => s.inc 0x090204 1
    | some q =>
      let s := s.incBytes (viaCtr q 0x18) (pktBytes p)
      s.sendOn q (s.halfOn q p.src.toNat) type { p with ttl := p.ttl - 1 }

/-- A packet that is not link-local: the lock-step link carries none; before the check of R469 has passed only answers to the
module's own probes are taken; a packet for another chip is forwarded. -/
def State.viaduct (type : BitVec 8) (p : Pkt) (act : State → State) (s : State) : State :=
  if s.lockPort p.port.val || !s.assigned || s.via.duplicate then s
  else if !s.via.checked && decide (type ≠ 0x51#8) then s
  else if s.ownNumber p.dst.toNat then act s
  else if s.via.checked then s.forward type p else s

/-- A packet that is not link-local, received at time `t`. -/
def State.onPacket (t : Nat) (type : BitVec 8) (p : Pkt) (act : State → State) (s : State) :
    Host.Outcome State Fault Refusal :=
  .next (s.received t p (fun s => s.viaduct type p act))

/-- PACKET_FORWARD: a packet of a type of Table 14.2 that is not link-local; one for this module itself is another row's. -/
def execPacketForward (t : Nat) (type : BitVec 8) (p : Pkt) (s : State) : Host.Outcome State Fault Refusal :=
  let routed := knownType type.toNat && !([0x00, 0x01, 0x30, 0x52].contains type.toNat)
  .next (s.received t p (fun s => if routed then s.viaduct type p (fun s => s) else s))

/-! ### Landings (R471 to R475) -/

/-- LID, OFFSET, CTR, FEED, SEG and PLACE_G of a packet (Table 14.2). -/
def argLid (p : Pkt) : Nat := bitsAt p.arg.toNat 0 13
def argOff (p : Pkt) : Nat := bitsAt p.arg.toNat 13 40
def argCtr (p : Pkt) : Nat := bitsAt p.arg.toNat 53 5
def argFeed (p : Pkt) : Bool := bitAt p.arg.toNat 58
def argSeg (p : Pkt) : Bool := bitAt p.arg.toNat 59
def argPlace (p : Pkt) : Nat := bitsAt p.arg.toNat 60 4
def argGranules (p : Pkt) : Nat := bitsAt p.arg.toNat 56 8

/-- The plain granules of a run of segments in places of `g` granules (R475). -/
def expandSegs (g : Nat) : Nat → List Byte → List (BitVec 256)
  | 0, _ => []
  | fuel + 1, bs =>
    if bs.isEmpty then []
    else
      let n := if segCoded bs then 32 * cdiv (segLen bs) 32 else 32 * g
      segDecode g bs ++ expandSegs g fuel (bs.drop (max 32 n))

/-- The granules that a WRITE lands, in plain form. -/
def landed (p : Pkt) : List (BitVec 256) :=
  if argSeg p then expandSegs (argPlace p) p.payload.length (payloadBytes p.payload) else p.payload

/-- Whether `n` bytes at OFFSET lie in one of the extents that an install landing stands for. -/
def State.inExtents (s : State) (g : Landing) (off n : Nat) : Bool :=
  (((s.entry g.base).extents.drop g.first).take g.len).any (fun x => decide (x.1 ≤ off ∧ off + n ≤ x.1 + 32 * x.2))

/-- Whether `n` bytes at OFFSET lie within a landing. -/
def State.withinLanding (s : State) (g : Landing) (off n : Nat) : Bool := match g.kind with
  | .memory => decide (off + n ≤ g.len)
  | .handover => decide (off + n ≤ g.len)
  | .deck => decide (off % 32 = 0 ∧ off + n ≤ g.len)
  | .entry => s.inExtents g off n

/-- Land bytes of the page stream of a hand-over (R479). -/
def State.landPages (lid h off : Nat) (bs : List Byte) (s : State) : State := match kfind? s.requests h with
  | none => s
  | some q =>
    let ws := bs.zipIdx.filterMap (fun (e : Byte × Nat) => (s.hoAddr q (off + e.2)).map (fun a => (a, e.1)))
    let s := (s.memWrite ws).incBytes 0x040124 bs.length
    { s with via := { s.via with hoIn := s.via.hoIn.map (fun x => if x.lid = lid then { x with bytes := x.bytes + bs.length } else x) } }

/-- Land granules of a WRITE at OFFSET of a landing: a tick landing feeds counter CTR of its span when FEED is 1 (R472), and
`ack` is what acknowledges the WRITE once its deck store has them all (R474). -/
def State.land (lid off ctr : Nat) (feed : Bool) (ack : Nat × Nat) (gs : List (BitVec 256)) (g : Landing) (s : State) : State :=
  let s := { s with landings := kupd s.landings lid (fun g => { g with wrote := g.wrote + gs.length }) }
  match g.kind with
  | .memory => s.memWrite ((payloadBytes gs).zipIdx.map (fun e => (s.landOff g.base (off + e.2), e.1)))
  | .handover => s.landPages lid g.base off (payloadBytes gs)
  | .entry => s.entryWrite (s.entry g.base) off (payloadBytes gs)
  | .deck =>
    s.askPuts g.base (gs.zipIdx.map (fun e =>
      { DeckPut.clean s.cycNow .stream 128 (g.first + off / 32 + e.2) e.1 (if feed then .ctr ctr 1 else .nothing) with
        ack := some ack }))

/-- WRITE (R474): it is checked against its landing, lands in full and is acknowledged, in a deck store once its last
granule has landed there; otherwise it is discarded. -/
def execWrite (t : Nat) (p : Pkt) (s : State) : Host.Outcome State Fault Refusal :=
  s.onPacket t 0x10 p (fun s =>
    let lid := argLid p
    let gs := landed p
    let drop := s.inc 0x090200 1
    match kfind? s.landings lid with
    | none => drop
    | some g =>
      if !g.write || !s.withinLanding g (argOff p) (32 * gs.length) then drop
      else
        let ack := (p.src.toNat, writeArg lid (argOff p))
        let asked := decide (g.kind = LandKind.deck) && s.tick.active && (s.phys? g.base).isSome && !gs.isEmpty
        let s := s.land lid (argOff p) (argCtr p) (argFeed p) ack gs g
        let s := if argSeg p then (s.incBytes 0x090210 (32 * gs.length)).incBytes 0x090214 (32 * p.payload.length) else s
        if asked then s else s.sendTo 0x11 3 ack.1 ack.2 [])

/-- Acknowledged granules of an install that this module serves (R480). -/
def State.extWack (src lid off : Nat) (s : State) : State := match s.via.ext with
  | none => s
  | some f =>
    if f.chip ≠ src ∨ f.lid ≠ lid then s
    else
      let n := match ((s.entry f.entry).extents.drop f.first).find? (fun x => decide (x.1 ≤ off ∧ off < x.1 + 32 * x.2)) with
        | none => 0
        | some x => min 128 ((x.1 + 32 * x.2 - off) / 32)
      { s with via := { s.via with ext := if f.granulesLeft ≤ n then none else some { f with granulesLeft := f.granulesLeft - n } } }

/-- WACK: a WRITE of a remote store, of a hand-over's pages or of an install has landed. -/
def execWack (t : Nat) (p : Pkt) (s : State) : Host.Outcome State Fault Refusal :=
  s.onPacket t 0x11 p (fun s =>
    ((s.remoteAck (argLid p) (argOff p)).hoWack p.src.toNat (argLid p)).extWack p.src.toNat (argLid p) (argOff p))

/-- The granules that a READ of a landing returns; a byte that is poison is a free value. -/
def State.readLanding (base off n : Nat) (s : State) : List (BitVec 256) × State :=
  let r := s.readBytes ((List.range (32 * n)).map (fun i => s.landOff base (off + i)))
  ((List.range n).map (fun i => BitVec.ofNat 256 (leAt r.1 (32 * i) 32)), r.2)

/-- READ (R474): it is checked against its landing and answered with RDATA. -/
def execRead (t : Nat) (p : Pkt) (s : State) : Host.Outcome State Fault Refusal :=
  s.onPacket t 0x12 p (fun s =>
    let n := argGranules p
    match kfind? s.landings (argLid p) with
    | none => s.inc 0x090200 1
    | some g =>
      if !g.read || decide (g.kind ≠ LandKind.memory ∨ n = 0 ∨ 128 < n) || !s.withinLanding g (argOff p) (32 * n) then
        s.inc 0x090200 1
      else
        let r := s.readLanding g.base (argOff p) n
        r.2.sendTo 0x13 2 p.src.toNat p.arg.toNat r.1)

/-! ### Pulls (R478) -/

/-- The READs of a pull entry: OFFSET and granules of each. -/
def pullReads (e : RemoteTarget) : List (Nat × Nat) :=
  (List.range (cdiv e.granules 128)).map (fun i => (e.roff + 4096 * i, min 128 (e.granules - 128 * i)))

/-- PULL_START: at its start cycle in its phase a pull entry makes the pier send its READs, once a run. -/
def execPullStart (t : Nat) (entry : Fin 256) (s : State) : Host.Outcome State Fault Refusal :=
  let s := s.at t
  let i := entry.val
  let e := s.remoteTarget i
  let start := ((s.plan?.map (fun x => x.head.phaseS.getD (e.phase - 1) 0)).getD 0) + e.start
  if !s.tick.active || !e.valid || !e.pull || decide (s.tick.phase ≠ e.phase) || s.via.pulls.contains i
      || decide (s.time < s.cycTime start) then .next s
  else
    let s := { s with via := { s.via with pulls := i :: s.via.pulls } }
    .next ((pullReads e).foldl (fun (s : State) (r : Nat × Nat) =>
      s.sendTo 0x12 1 e.chip (writeArg e.lid r.1 + fieldAt 56 8 r.2) []) s)

/-- The pull entry that an RDATA answers. -/
def State.pullOf (s : State) (p : Pkt) : Option (Nat × RemoteTarget) :=
  (s.via.pulls.map (fun i => (i, s.remoteTarget i))).find? (fun e =>
    decide (e.2.chip = p.src.toNat ∧ e.2.lid = argLid p ∧ e.2.roff ≤ argOff p
      ∧ argOff p + 32 * p.payload.length ≤ e.2.roff + 32 * e.2.granules))

/-- Whether granules of a logical span lie in one of its open windows with REMOTE 1. -/
def State.inRemoteWindow (s : State) (l first n : Nat) : Bool := match s.phys? l with
  | none => false
  | some q => (s.span q).seq.windows.any (fun w => w.2.remote && decide (w.2.base ≤ first ∧ first + n ≤ w.2.base + w.2.len))

/-- RDATA: the granules of a pull land in their span's deck store through its open window, and feed its counter. -/
def execRdata (t : Nat) (p : Pkt) (s : State) : Host.Outcome State Fault Refusal :=
  s.onPacket t 0x13 p (fun s =>
    let n := p.payload.length
    match s.pullOf p with
    | none => s.inc 0x090200 1
    | some (_, e) =>
      let g := e.granule + (argOff p - e.roff) / 32
      if !s.tick.active || !s.inRemoteWindow e.lspan g n then s.inc 0x090200 1
      else
        s.askPuts e.lspan (p.payload.zipIdx.map (fun x =>
          DeckPut.clean s.cycNow .stream 128 (g + x.2) x.1 (if e.feed then .ctr e.ctr 1 else .nothing))))

/-! ### Hand-over packets (R170, R479) -/

/-- OFFER. -/
def execOffer (t : Nat) (p : Pkt) (s : State) : Host.Outcome State Fault Refusal :=
  s.onPacket t 0x20 p (fun s => s.takeOffer p.src.toNat (bitsAt p.arg.toNat 0 16) (payloadBytes p.payload))

/-- OFFER_ANS. -/
def execOfferAns (t : Nat) (p : Pkt) (s : State) : Host.Outcome State Fault Refusal :=
  let a := p.arg.toNat
  s.onPacket t 0x21 p (fun s => s.takeOfferAns p.src.toNat (bitsAt a 0 16) (bitsAt a 16 8) (bitsAt a 24 13))

/-- HO_COMMIT. -/
def execHoCommit (t : Nat) (p : Pkt) (s : State) : Host.Outcome State Fault Refusal :=
  let a := p.arg.toNat
  s.onPacket t 0x22 p (fun s => s.takeCommit p.src.toNat (bitsAt a 0 16) (bitsAt a 16 32))

/-- HO_ACK. -/
def execHoAck (t : Nat) (p : Pkt) (s : State) : Host.Outcome State Fault Refusal :=
  let a := p.arg.toNat
  s.onPacket t 0x23 p (fun s => s.takeHoAck p.src.toNat (bitsAt a 0 16) (bitsAt a 16 8))

/-! ### Lock-step (R481) -/

/-- DIGEST: it counts on the lock-step link alone. -/
def execDigest (t : Nat) (p : Pkt) (s : State) : Host.Outcome State Fault Refusal :=
  .next (s.received t p (fun s => if s.lockPort p.port.val then s.digestPacket p else s))

/-! ### Installs from another module (R446, R480) -/

/-- Whether a request is being served: its WRITEs are not all acknowledged, and the way to its chip stands. -/
def State.extBusy (s : State) : Bool := match s.via.ext with
  | none => false
  | some f => (s.outPort f.chip).isSome

/-- Read one extent and send it as WRITEs into the requester's landing, each at its entry address. -/
def State.sendExtent (src lid : Nat) (x : HotEntry) (ext : Nat × Nat) (s : State) : State :=
  (List.range (cdiv ext.2 128)).foldl (fun (s : State) (i : Nat) =>
    let a := ext.1 + 4096 * i
    let n := min 128 (ext.2 - 128 * i)
    let r := s.readBytes ((addrs a (32 * n)).map (s.entryAddr x))
    r.2.sendTo 0x10 2 src (writeArg lid a) (granulesOf n r.1)) s

/-- Answer an EXT_REQ. -/
def State.answerExt (src id status : Nat) (s : State) : State := s.sendTo 0x41 3 src (fieldAt 0 16 id + fieldAt 16 8 status) []

/-- EXT_REQ: extents are sent from a READY entry with both digests, one request at a time. -/
def execExtReq (t : Nat) (p : Pkt) (s : State) : Host.Outcome State Fault Refusal :=
  s.onPacket t 0x40 p (fun s =>
    let a := p.arg.toNat
    let src := p.src.toNat
    let id := bitsAt a 0 16
    let lid := bitsAt a 16 13
    let first := bitsAt a 32 32
    let bs := payloadBytes p.payload
    match s.readyEntry? (bytesDigest (byteSlice bs 0 48)) with
    | none => s.answerExt src id 1
    | some e =>
      let x := s.entry e
      if x.layoutDigest ≠ bytesDigest (byteSlice bs 48 48) then s.answerExt src id 2
      else if s.extBusy then s.answerExt src id 3
      else
        let exts := (x.extents.drop first).take (leAt bs 96 4)
        let n := (exts.map (·.2)).sum
        let f : ExtFlow := { chip := src, reqId := id, lid := lid, entry := e, first := first,
                             granulesLeft := n }
        let s := s.answerExt src id 0
        let s := { s with via := { s.via with ext := if n = 0 then none else some f } }
        let s := s.winAdd 256 8 (32 * n)
        exts.foldl (fun (s : State) (w : Nat × Nat) => s.sendExtent src lid x w) s)

/-- EXT_ANS: the install goes on with the extents that come, or its job ends. -/
def execExtAns (t : Nat) (p : Pkt) (s : State) : Host.Outcome State Fault Refusal :=
  s.onPacket t 0x41 p (fun s =>
    let a := p.arg.toNat
    match s.via.install, s.running with
    | some f, some job =>
      if f.chip ≠ p.src.toNat ∨ f.reqId ≠ bitsAt a 0 16 then s
      else if bitsAt a 16 8 = 0 then { s with jobs := kupd s.jobs job (fun j => { j with verified := true }) }
      else
        let s := { (s.closeLanding f.lid) with via := { s.via with install := none } }
        s.pausePoint job (some (if bitsAt a 16 8 = 3 then 0x03 else 0x04))
    | _, _ => s)

end Sys2Proof.Machine
end

