-- ==== Sys2Proof/Machine/Claims.lean ====
section
/-! DEFINITION. Chip numbers (R469), the swing span (R482, R485), TICK_SYNC and the reference (R486 to R488), takeover by a
spare module (R489 to R491), and the enable of a lock-step pair (R532, R541). -/

namespace Sys2Proof.Machine
open Sys2Proof

/-! ### The check of the module's own number (R469) -/

/-- Send `n` PROBEs to a chip number, each with an ID of its own. -/
def State.sendProbes (dst n : Nat) (s : State) : State :=
  (List.range n).foldl (fun (s : State) (_ : Nat) =>
    let id := s.via.nextProbe
    let s := { s with via := { s.via with probes := s.via.probes ++ [id], nextProbe := (id + 1) % 65536 } }
    s.sendTo 0x50 0 dst id []) s

/-- Whether a number stands in the relocation table. -/
def State.relocated (s : State) (c : Nat) : Bool := s.via.relocs.any (fun r => decide (r.claimed = c))

/-- The check starts: a number of the relocation table is a duplicate at once, any other is probed three times. -/
def State.startCheck (s : State) : State :=
  let s := { s with via := { s.via with checked := false, duplicate := false, probes := [] } }
  if s.relocated s.chip then { s with via := { s.via with duplicate := true } }
  else s.sendProbes s.chip 3

/-- A write of VIA_CHIP (R493): CHIP and RING_SIZE_M1 only while ASSIGNED is 0; ASSIGNED 1 starts the check, ASSIGNED 0 makes
the module link-local. -/
def State.writeChip (value : Word) (s : State) : State :=
  let was := s.assigned
  let on := value.getLsbD 31
  let fields := if was then s.regw 0x090000 &&& 0x003F3FFF#32 else value &&& 0x003F3FFF#32
  let s := s.setReg 0x090000 (fields ||| (if on then 0x80000000#32 else 0#32))
  if on && !was then s.startCheck
  else if was && !on then { s with via := { s.via with checked := false, duplicate := false, probes := [] } }
  else s

/-- CHIP_ASSIGN. -/
def execChipAssign (t : Nat) (who : Requester) (value : Word) (s : State) : Host.Outcome State Fault Refusal :=
  .next (s.asMgmt t who (State.writeChip value))

/-- HELLO: the peer of the port; on a ring port of an assigned module whose number is not checked, the check starts. -/
def execHello (t : Nat) (p : Pkt) (s : State) : Host.Outcome State Fault Refusal :=
  .next (s.received t p (fun s =>
    let i := p.port.val
    if s.lockPort i then s
    else
      let a := p.arg.toNat
      let s := s.modCefin i (fun x => { x with peer := bitsAt a 0 14, peerPort := bitsAt a 14 3, peerValid := true })
      if i < 2 ∧ s.assigned ∧ !s.via.checked ∧ !s.via.duplicate ∧ s.via.probes = [] then s.startCheck else s))

/-- A CLAIM as a packet of this module. -/
def State.claimPkt (s : State) (c h epoch : Nat) (release : Bool) : Pkt :=
  { port := 0, vc := 0, lseq := 0, dst := BitVec.ofNat 14 c, src := BitVec.ofNat 14 s.chip, ttl := 63, payload := [],
    arg := BitVec.ofNat 64 (fieldAt 0 14 c + fieldAt 14 14 h + fieldAt 28 1 (bit release) + fieldAt 32 32 epoch) }

/-- Send a packet on every up port but one. -/
def State.flood (type : BitVec 8) (but : Option Nat) (p : Pkt) (s : State) : State :=
  (List.range 8).foldl (fun (s : State) (q : Nat) =>
    if s.linkUp q ∧ but ≠ some q then s.sendOn q (s.halfOn q p.src.toNat) type p else s) s

/-- Note a CLAIM as taken, so that its repeats are dropped. -/
def State.noteClaim (c h epoch : Nat) (release : Bool) (s : State) : State :=
  { s with via := { s.via with claimsSeen := ((c, h, epoch, release) :: s.via.claimsSeen).take 256 } }

/-- Flood a CLAIM of this module's own. -/
def State.sendClaim (c epoch : Nat) (release : Bool) (s : State) : State :=
  (s.noteClaim c s.chip epoch release).flood 0x52 none (s.claimPkt c s.chip epoch release)

/-- The next EPOCH of this module's claims. -/
def State.nextEpoch (s : State) : State := { s with via := { s.via with takeEpoch := (s.via.takeEpoch + 1) % 2 ^ 32 } }

/-- Take C out of the relocation table. -/
def State.dropReloc (c : Nat) (s : State) : State :=
  { s with via := { s.via with relocs := s.via.relocs.filter (fun r => decide (r.claimed ≠ c)) } }

/-- Enter C → H in the relocation table; false when it is full (R490). -/
def State.addReloc (c h epoch : Nat) (s : State) : Bool × State :=
  if s.relocated c then
    (true, { s with via := { s.via with relocs := s.via.relocs.map (fun r =>
      if r.claimed = c then { r with holder := h, epoch := epoch } else r) } })
  else if 64 ≤ s.via.relocs.length then (false, s.inc 0x090218 1)
  else (true, { s with via := { s.via with relocs := s.via.relocs ++ [{ claimed := c, holder := h, epoch := epoch }] } })

/-- Release a claim of C: every module removes it (R491). -/
def State.releaseClaim (c : Nat) (s : State) : State :=
  let s := (s.dropReloc c).nextEpoch
  let s := if s.via.held = some c then { s with via := { s.via with held := none } } else s
  s.sendClaim c s.via.takeEpoch true

/-- PROBE_CHECK_DONE: the module forwards from now on, unless its number is a duplicate; claims that a cold reset lost are
released (R576). -/
def execProbeCheckDone (t : Nat) (s : State) : Host.Outcome State Fault Refusal :=
  let s := s.at t
  if !s.assigned || s.via.checked || s.via.duplicate then .next s
  else if s.relocated s.chip then .next { s with via := { s.via with duplicate := true } }
  else
    let s := { s with via := { s.via with checked := true, probes := [] } }
    let lost := s.boot.lostClaims
    .next (lost.foldl (fun (s : State) (c : Nat) => s.releaseClaim c) { s with boot := { s.boot with lostClaims := [] } })

/-- PROBE: answered by the module that holds the number; the module's own probe that comes back is none of its business. -/
def execProbe (t : Nat) (p : Pkt) (s : State) : Host.Outcome State Fault Refusal :=
  s.onPacket t 0x50 p (fun s =>
    let id := bitsAt p.arg.toNat 0 16
    if p.src.toNat = s.chip ∧ s.via.probes.contains id then s
    else s.sendTo 0x51 0 p.src.toNat (fieldAt 0 16 id + fieldAt 16 14 s.chip) [])

/-- PROBE_ANS: before the check has passed it shows a duplicate number; during a takeover it shows that the target lives. -/
def execProbeAns (t : Nat) (p : Pkt) (s : State) : Host.Outcome State Fault Refusal :=
  s.onPacket t 0x51 p (fun s =>
    if !s.via.probes.contains (bitsAt p.arg.toNat 0 16) then s
    else if !s.via.checked then { s with via := { s.via with duplicate := true, probes := [] } }
    else if s.via.take = TakeResult.inProgress ∧ !s.via.takeClaimed then
      { s with via := { s.via with take := .targetAlive, probes := [] } }
    else s)

/-! ### CLAIM (R489 to R491) -/

/-- What a CLAIM that has not been seen does: it is entered or removed and forwarded once on every other up port. Of two
claims for one number the lower holder's stands; a spare that is beaten withdraws. -/
def State.takeClaim (p : Pkt) (s : State) : State :=
  let a := p.arg.toNat
  let c := bitsAt a 0 14
  let h := bitsAt a 14 14
  let release := bitAt a 28
  let epoch := bitsAt a 32 32
  if s.via.claimsSeen.contains (c, h, epoch, release) then s
  else
    let s := s.noteClaim c h epoch release
    let on (s : State) : State := if p.ttl = 0 then s else s.flood 0x52 (some p.port.val) { p with ttl := p.ttl - 1 }
    if release then on (s.dropReloc c)
    else
      let mine := decide (s.via.held = some c) || (decide (s.via.take = TakeResult.inProgress) && decide (s.via.takeTarget = c))
      let beaten := (s.via.relocs.any (fun r => decide (r.claimed = c ∧ r.holder < h))) || (mine && decide (s.chip < h))
      if beaten then s
      else
        let s := if mine && decide (h < s.chip) then
            { s with via := { s.via with take := .lost, takeClaimed := false, probes := [], held := none } }
          else s
        on (s.addReloc c h epoch).2

/-- CLAIM. -/
def execClaim (t : Nat) (p : Pkt) (s : State) : Host.Outcome State Fault Refusal :=
  .next (s.received t p (fun s => if s.lockPort p.port.val || !s.forwards then s else s.takeClaim p))

/-! ### Takeover (R489) -/

/-- The RW fields of VIA_SPARE. -/
def State.writeSpare (value : Word) (s : State) : State := s.setReg 0x090054 (value &&& 0x23C03FFF#32)

/-- A takeover of number C starts: C is probed three times; a number that another chip with a lower number holds is lost. -/
def State.startTake (c : Nat) (s : State) : State :=
  if !s.forwards || decide (s.via.take = TakeResult.inProgress) || s.ownNumber c || s.via.held.isSome then s
  else if s.via.relocs.any (fun r => decide (r.claimed = c ∧ r.holder < s.chip)) then
    { s with via := { s.via with take := .lost } }
  else
    let s := { s with via := { s.via with take := .inProgress, takeTarget := c, takeAt := s.time, takeClaimed := false, probes := [] } }
    s.sendProbes c 3

/-- A take of TARGET. -/
def State.spareTake (value : Word) (s : State) : State :=
  (s.writeSpare value).startTake (bitsAt value.toNat 0 14)

/-- SPARE_TAKE. -/
def execSpareTake (t : Nat) (who : Requester) (value : Word) (s : State) : Host.Outcome State Fault Refusal :=
  .next (s.asMgmt t who (State.spareTake value))

/-- A release of TARGET. -/
def State.spareRelease (value : Word) (s : State) : State :=
  let c := bitsAt value.toNat 0 14
  let s := s.writeSpare value
  if !s.forwards then s
  else
    let s := if s.via.held = some c ∨ s.via.takeTarget = c then
        { s with via := { s.via with take := .idle, takeClaimed := false, probes := [] } }
      else s
    s.releaseClaim c

/-- SPARE_RELEASE. -/
def execSpareRelease (t : Nat) (who : Requester) (value : Word) (s : State) : Host.Outcome State Fault Refusal :=
  .next (s.asMgmt t who (State.spareRelease value))

/-- TAKEOVER_WATCH: with AUTO 1 the target has not answered for WATCH_S. -/
def execTakeoverWatch (t : Nat) (s : State) : Host.Outcome State Fault Refusal :=
  let s := s.at t
  if s.regb 0x090054 29 then .next (s.startTake (s.regf 0x090054 0 14)) else .next s

/-- The third step: 10 ms after the last of three PROBEs the claim is flooded; a full table ends the takeover. -/
def State.claimTarget (s : State) : State :=
  let s := s.nextEpoch
  match s.addReloc s.via.takeTarget s.chip s.via.takeEpoch with
  | (false, s) => { s with via := { s.via with take := .tableFull, probes := [] } }
  | (true, s) =>
    ({ s with via := { s.via with takeClaimed := true, probes := [] } }).sendClaim s.via.takeTarget s.via.takeEpoch false

/-- TAKEOVER_DONE: no PROBE has been answered, so the claim goes out; 50 ms after it the spare accepts packets for C. -/
def execTakeoverDone (t : Nat) (s : State) : Host.Outcome State Fault Refusal :=
  let s := s.at t
  if s.via.take ≠ TakeResult.inProgress ∨ s.time < s.via.takeAt + 30000000 then .next s
  else
    let s := if s.via.takeClaimed then s else s.claimTarget
    if s.via.take = TakeResult.inProgress ∧ s.via.takeAt + 80000000 ≤ s.time then
      .next { s with via := { s.via with take := .taken, held := some s.via.takeTarget } }
    else .next s

/-! ### The swing span (R482, R485, R565) -/

/-- The switches close: the ring links through this position go down. -/
def State.closeSwing (s : State) : State :=
  if s.via.closed then s else ({ s with via := { s.via with closed := true } }.portDown 0).portDown 1

/-- SWING_CLOSE: main power, a reset or FORCE_BYPASS closes the switches. -/
def execSwingClose (t : Nat) (s : State) : Host.Outcome State Fault Refusal :=
  let s := s.at t
  if !s.boot.mainGood || decide (s.boot.state ≠ BootState.ready) || s.regb 0x090040 29 then .next s.closeSwing else .next s

/-- Whether the conditions of an opening hold. -/
def State.swingMayOpen (s : State) : Bool :=
  s.boot.mainGood && decide (s.boot.state = BootState.ready) && s.regb 0x090010 31 && s.regb 0x090014 31 && s.regb 0x090040 30
    && !s.regb 0x090040 29

/-- SWING_OPEN: the switches open, E and W train, and the number is checked again before the module forwards. -/
def execSwingOpen (t : Nat) (s : State) : Host.Outcome State Fault Refusal :=
  let s := s.at t
  if !s.via.closed || !s.swingMayOpen then .next s
  else
    let s := { s with via := { s.via with closed := false, checked := false, probes := [] } }
    .next ((s.startTraining 0).startTraining 1)

/-! ### TICK_SYNC and the reference (R486 to R488) -/

/-- At an edge of TICK_SYNC the time base is loaded when TIME_ARM is 1. -/
def State.loadTime (s : State) : State :=
  if !s.regb 0x090044 29 then s
  else
    let v : Nat := s.reg 0x090048 + 2 ^ 32 * s.reg 0x09004C
    ({ s with tbOff := (v : Int) - (s.time : Int) }).setRegBit 0x090044 29 false

/-- TICK_SYNC_PULSE: the pulse is taken; one away from the predicted edge counts as a slip. -/
def execTickSyncPulse (t : Nat) (s : State) : Host.Outcome State Fault Refusal :=
  let s := s.at t
  let slip := match s.via.lastPulse with
    | none => false
    | some e => decide (e + 1000040 ≤ s.time ∨ s.time + 40 ≤ e + 1000000)
  let s := if slip then s.inc 0x090220 1 else s
  .next ({ s with via := { s.via with lastPulse := some s.time } }).loadTime

/-- TICK_SYNC_MISS: 2 reference cycles after the predicted edge it is taken in place of the pulse. -/
def execTickSyncMiss (t : Nat) (s : State) : Host.Outcome State Fault Refusal :=
  let s := s.at t
  match s.via.lastPulse with
  | none => .next s
  | some e =>
    if s.time < e + 1000080 then .next s
    else .next ({ (s.inc 0x09021C 1) with via := { s.via with lastPulse := some (e + 1000000) } }).loadTime

/-- REF_LOST: the module's own oscillator takes over, and alignment is suspended. -/
def execRefLost (t : Nat) (s : State) : Host.Outcome State Fault Refusal :=
  let s := s.at t
  .next { s with via := { s.via with refLost := true } }

/-- REF_RETURN. -/
def execRefReturn (t : Nat) (s : State) : Host.Outcome State Fault Refusal :=
  let s := s.at t
  .next { s with via := { s.via with refLost := false } }

/-! ### The lock-step pair (R532, R541) -/

/-- A write of VIA_LOCK: EN and PORT take effect only while the job list is empty, on a T port; EN 0 then clears the record. -/
def State.writeLock (value : Word) (s : State) : State :=
  let free := s.jobs.isEmpty && (!value.getLsbD 31 || decide (2 ≤ bitsAt value.toNat 28 3))
  let old := s.regw 0x090050
  let wait := value &&& 0xFFFF#32
  if !free then s.setReg 0x090050 ((old &&& 0xF0000000#32) ||| wait)
  else
    let s := s.setReg 0x090050 (value &&& 0xF000FFFF#32)
    if value.getLsbD 31 = old.getLsbD 31 then s else { s with via := { s.via with lock := LockState.off } }

/-- LOCK_ENABLE. -/
def execLockEnable (t : Nat) (who : Requester) (value : Word) (s : State) : Host.Outcome State Fault Refusal :=
  .next (s.asMgmt t who (State.writeLock value))

end Sys2Proof.Machine
end

