-- ==== Sys2Proof/Machine/Cut.lean ====
section
/-! DEFINITION. The admission cut (R228, R229, R254, R255, R424, R425, R429, R621): the work of Table 8.3 in its order, and the
start of the tick's first run. -/

namespace Sys2Proof.Machine
open Sys2Proof

/-! ### Orders 1 and 2: commands and cancels -/

/-- Whether a waiting command joins the cut of the running job: a cancel always does, a HANDOVER when its TARGET is the job's
or gone. -/
def State.joinsCut (s : State) (tb : Nat) (w : Waiting) : Bool :=
  decide (w.stamp < tb) && (match w.cmd with
    | .cancel _ => true
    | .handover target _ _ => match kfind? s.requests target with
      | none => true
      | some q => decide (s.jobOf? q = s.running))

/-- The requests of a reset port or partition go without a record, as though cancelled (R407). -/
def State.dropGone (s : State) : State :=
  ((s.requests.filter (fun (e : Nat × Request) => e.2.dropped)).map (·.1)).foldl (fun (s : State) (h : Nat) =>
    (s.stopHo h).forget h) s.ageHandles

/-- A cancel joins the cut (R172, R255): a request that has ended, or whose commit record has gone out, makes it a NOOP. -/
def State.cancelAtCut (h target : Nat) (s : State) : State := match kfind? s.requests target with
  | none => s.answerKey h 1 0
  | some q =>
    let tooLate := match q.ho with
      | some x => decide (x.step = .committed ∨ x.step = .acked)
      | none => false
    if q.ending.isSome || tooLate then s.answerKey h 1 0
    else
      let s := s.stopHo target
      (s.modReq target (fun q => { q with ending := some { reason := 0x06, arg1 := h } })).answerKey h 0 0

/-! ### Order 3: deadlines -/

/-- A request is served on the footbridge from now on; one that is held for a hand-over returns to it (R171). -/
def Request.toFootbridge (q : Request) : Request :=
  { q with footbridge := true, state := if q.state = .queued ∨ q.state = .handingOver then q.state else .footbridge }

/-- The monitor acts on a request whose deadline has passed (R254); what ends it breaks a hand-over in progress. -/
def State.actDeadline (h : Nat) (q : Request) (s : State) : State :=
  let s := s.modReq h (fun q => { q with dlActed := true })
  let stop (ctr reason : Nat) : State :=
    ((s.stopHo h).inc ctr 1).modReq h (fun q => { q with ending := some { reason := reason, arg1 := dlArg q } })
  if q.dlPolicy = 1 then (s.inc 0x030100 1).modReq h Request.toFootbridge
  else if q.dlPolicy = 2 then stop 0x030104 0x04
  else if q.dlPolicy = 3 then stop 0x030108 0x05
  else s

/-- Whether EARLY_FB moves a request at the cut at `c` (R429). -/
def State.early (s : State) (c d : Nat) (q : Request) : Bool :=
  let on := match s.job? with
    | none => false
    | some j => prmFlag j.params 1
  on && decide (q.dlPolicy = 1)
    && decide (((q.maxTokens - q.generated) * s.gov.period * 1000 : Int) > ((d : Int) - s.tbAt c) * (s.headOf (·.draftN) + 1))

/-- The deadline monitor at the cut at `c`: of every request that the job still holds. -/
def State.cutDeadlines (c : Nat) (s : State) : State :=
  s.liveRequests.foldl (fun (s : State) (e : Nat × Request) =>
    let q := e.2
    match q.deadline with
    | none => s
    | some d =>
      if q.dlActed ∨ s.pair ∨ q.handedOver then s
      else if d < s.tbAt c then s.actDeadline e.1 q
      else if !q.footbridge && s.early c d q then
        (s.inc 0x03010C 1).modReq e.1 (fun q => { q.toFootbridge with dlActed := true })
      else s) s

/-! ### Order 5: the clock step (R621, R623) -/

/-- The power cap of the profile that a strap value selects (Table 20.7). -/
def profileCap (strap : Nat) : Nat := if strap = 1 ∨ strap = 2 then 1600 else 1050

/-- PWR_CAP comes into force (R620, R632). -/
def State.latchCap (s : State) : State :=
  let c := s.regf 0x0D0004 16 16
  let lim := profileCap s.boot.coolStrap
  { s with pwr := { s.pwr with capW := if c = 0 then lim else min lim (max 600 c), brakeW := max 400 (s.regf 0x0D0004 0 16) } }

/-- The cap in force (R620). -/
def Power.cap (w : Power) : Nat := if w.brake then min w.capW w.brakeW else w.capW

/-- An alert bit of PWR_ALERT is set (R628). -/
def State.alert (b : Nat) (s : State) : State := (s.setRegBit 0x0D0014 b true).noteSet (w1c 0x0D0014 b)

/-- Apart from the brake and hard limiting, the memory rate cap keeps the stacks' bytes per cycle (R622). -/
def State.floorRate (s : State) : State :=
  if s.pwr.brake || s.pwr.hard then s
  else { s with mem := { s.mem with rateCap := max s.mem.rateCap (cdiv (64 * s.pwr.n) 42) } }

/-- Whether a stack is above throttle level 0. -/
def State.throttling (s : State) : Bool := s.mem.stk.any (fun e => decide (e.2.level ≠ 0))

/-- N for the tick that starts, from the average power over the last committed tick. A forced step that waited for the end
of a publish has come into force (R627). -/
def Power.stepAtCut (w : Power) : Power :=
  let w := { w with n := w.forcedN.getD w.n, forcedN := none }
  let cap := w.cap
  let clear (w : Power) : Power := { w with tickW := 0, tickN := 0 }
  if w.tickN = 0 ∨ cap = 0 then clear w
  else
    let p := 100 * w.tickW
    let k := cap * w.tickN
    let n := if p > 98 * k then max 20 (w.n - max 1 (cdiv (42 * (p - 95 * k)) p))
      else if p < 90 * k ∧ !w.throttled ∧ !w.hard then min 42 (w.n + 1)
      else w.n
    clear { w with n := n, forPower := decide (n < 42) && (w.forPower || decide (n < w.n)) }

/-- Count a time in ns at a counter of whole milliseconds: the rest below one is kept. -/
def Counter.addNs (n : Nat) (c : Counter) : Counter :=
  { (c.add ((c.rem + n) / 1000000)) with rem := (c.rem + n) % 1000000 }

/-- The time since the last count enters PWR_BRAKE_MS, PWR_CAPPED_MS and PWR_HARD_MS (R634). -/
def State.countPower (s : State) : State :=
  let d := s.time - s.pwr.msAt
  let add (off : Nat) (on : Bool) (m : List (Nat × Counter)) : List (Nat × Counter) :=
    if on && decide (0 < d) then kmod Counter.zero m off (Counter.addNs d) else m
  { s with pwr := { s.pwr with msAt := s.time },
           counters := add 0x0D0114 s.pwr.hard (add 0x0D0110 s.pwr.forPower (add 0x0D010C s.pwr.brake s.counters)) }

/-- Take the clock step of a cut; a change is counted, and a fall below 42 is an alert. -/
def State.clockAtCut (s : State) : State :=
  let s := s.countPower.latchCap
  let old := s.pwr.forcedN.getD s.pwr.n
  let w := s.pwr.stepAtCut
  let s := { s with pwr := { w with throttled := s.throttling } }
  let s := if w.n = old then s else s.inc 0x0D0100 1
  let s := if w.n < old then s.alert 3 else s
  s.floorRate

/-! ### The cut -/

/-- The cut instant that has come, when the running SERVE job may cut. -/
def State.cutDue? (s : State) : Option Nat := match s.gov.nextCut, s.job? with
  | some c, some j =>
    if c ≤ s.time ∧ j.type = .serve ∧ !s.inTick ∧ s.tick.broken.isNone ∧ !s.via.lock.frozen ∧ s.boot.deferred.isNone
        ∧ (!s.pair ∨ s.via.lock.paired) then some c else none
  | _, _ => none

/-- Cut instants that pass while a replay is pending count as missed ticks; at the repair limit of R506 the job enters basic
service, and the repair goes on. -/
def State.missCut (s : State) : State :=
  let n := if s.tick.period = 0 then 0 else (s.time - s.tick.start) / (1000 * s.tick.period)
  let s := if n > s.tick.missed then
      { s with tick := { s.tick with missed := n }, flt := { s.flt with missed := s.flt.missed + (n - s.tick.missed) } }
    else s
  let basic := match s.job? with
    | none => true
    | some j => decide (j.basic ≠ 0)
  if s.tick.broken = some .poison ∧ !s.flt.repairs.isEmpty ∧ s.repairTicks ≤ s.flt.missed ∧ !basic then s.enterBasic 3
  else s

/-- Orders 1 to 5 of Table 8.3 for the cut at `c`. -/
def State.cutFirst (c : Nat) (s : State) : State :=
  let tb := s.tbAt c
  let s := s.dropGone
  let take := s.waiting.filter (s.joinsCut tb)
  let s := { s with waiting := s.waiting.filter (fun w => !s.joinsCut tb w) }
  let s := take.foldl (fun (s : State) (w : Waiting) => match w.cmd with
    | .cancel target => s.cancelAtCut w.handle target
    | .handover _ _ _ => s) s
  let s := s.cutDeadlines c
  let s := s.returnHo
  let s := take.foldl (fun (s : State) (w : Waiting) => match w.cmd with
    | .cancel _ => s
    | .handover target dest ticket => s.startHo w.handle target dest ticket) s
  let s := s.boundaryFences
  if s.running.isNone then s else s.leaveBasic.setPlan.clockAtCut

/-- From the first cut with requests in the batch the job holds requests in batch states; one without them ends a stall (R519). -/
def State.holdFrom (s : State) : State :=
  if s.tick.slots.isEmpty then s.countStall none
  else { s with gov := { s.gov with heldFrom := some (s.gov.heldFrom.getD s.time) } }

/-- Orders 6 to 9, and the first run of the tick: `work` is the time at which the pier has done the work of phase 1. A cause
found after the last seal breaks the run (R244). -/
def State.cutRest (c work : Nat) (s : State) : State :=
  let s := { s with tick := { s.tick with replay := false, runs := 0, sums := [] } }
  let s := (s.formBatch c).holdFrom.balance
  let s := s.writeLists.takeGauges.foldBatch
  let s := (s.beginRun c ((work - c) * s.pwr.n / 40)).faultLists
  let s := { s with gov := { s.gov with nextCut := none } }
  match s.tick.against with
  | none => s
  | some cause => ({ s with tick := { s.tick with against := none } }).breakTick cause

/-- ADMISSION_CUT: the cut instant has come, or has passed while a replay is pending. -/
def execAdmissionCut (t : Nat) (s : State) : Host.Outcome State Fault Refusal :=
  let s := s.at t
  if s.tick.broken.isSome then .next (if s.via.lock.frozen then s else s.missCut)
  else match s.cutDue? with
    | none => .next s
    | some c =>
      let s := s.upToNow.cutFirst c
      if s.running.isNone then .next s else .next (s.cutRest c s.time)

end Sys2Proof.Machine
end

