-- ==== Sys2Proof/Machine/Power.lean ====
section
/-! DEFINITION. Power control (R363, R620 to R634): throttle samples, the brake, the memory rate cap, hard limiting and forced
clock steps, input samples, the pins that the power manager drives. -/

namespace Sys2Proof.Machine
open Sys2Proof

/-- Whether the cap, the clock rules and the brake act (R624). -/
def State.powerActs (s : State) : Bool := decide (s.boot.state = BootState.ready)

/-! ### Hard limiting (R626, R627) -/

/-- The clock multiplier changes at once; a tick in progress loses the cycles that the new clock cannot deliver before
C_t + PERIOD_t (R238). -/
def State.setClock (n : Nat) (s : State) : State :=
  let old := s.pwr.n
  let s1 := { s with pwr := { s.pwr with n := n } }
  if !s.tick.active then s1
  else
    let left := s.tick.start + 1000 * s.tick.period - s.time
    let lost := left * old / 40 - left * n / 40
    { s1 with tick := { s.tick with n := n, cyc0 := s.cycNow, t0 := s.time, initLoss := s.tick.initLoss + lost } }

/-- A forced step: N falls by 4, down to 20; while a publish is in progress it waits for its end. -/
def State.forceStep (s : State) : State :=
  let b := s.pwr.forcedN.getD s.pwr.n
  if b ≤ 20 then s
  else
    let n := max 20 (b - 4)
    let s := { (s.inc 0x0D0104 1) with pwr := { s.pwr with lastForced := some s.time } }
    if s.publishes then { s with pwr := { s.pwr with forcedN := some n } }
    else { s with pwr := { s.pwr with forcedN := none } }.setClock n

/-- Hard limiting begins with an alert and a step, or ends. -/
def State.evalHard (s : State) : State :=
  let on := s.powerActs && (s.mem.stk.any (fun e => decide (e.2.level = 11)) || decide (105 ≤ s.pwr.dieMax))
  if on = s.pwr.hard then s
  else
    let s := { s with pwr := { s.pwr with hard := on } }
    if on then (s.alert 2).forceStep else s.floorRate

/-- FORCED_CLOCK_STEP: a step that waited takes effect after the publish; while hard limiting holds, another comes every
10 ms. -/
def execForcedClockStep (t : Nat) (s : State) : Host.Outcome State Fault Refusal :=
  let s := (s.at t).countPower
  let s := match s.pwr.forcedN with
    | none => s
    | some n => if s.publishes then s else { s with pwr := { s.pwr with forcedN := none } }.setClock n
  let due := match s.pwr.lastForced with
    | none => true
    | some l => decide (l + 10000000 ≤ s.time)
  if s.pwr.hard && due then .next s.forceStep else .next s

/-! ### Throttling (R363) -/

/-- The throttle level after a sample: raised at once at a threshold 94 + n, lowered 2 °C below it. -/
def throttleLevel (cur temp : Nat) : Nat :=
  let want := if temp < 95 then 0 else min 11 (temp - 94)
  if cur ≤ want then want else min cur (temp - 93)

/-- The hottest stack and its temperature, ties to the lower stack. -/
def State.hottest (s : State) : Nat × Nat :=
  (List.range 32).foldl (fun (b : Nat × Nat) (i : Nat) => if (s.stk i).temp > b.2 then (i, (s.stk i).temp) else b) (0, (s.stk 0).temp)

/-- THROTTLE_SAMPLE: the 1 ms sample of a trained stack. -/
def execThrottleSample (t : Nat) (stack : Fin 32) (temp : Nat) (s : State) : Host.Outcome State Fault Refusal :=
  let s := (s.at t).countPower
  let i := stack.val
  let x := s.stk i
  if x.state = StackState.untrained then .next s
  else
    let n := throttleLevel x.level temp
    let s := s.modStk i (fun x => { x with level := n, temp := temp })
    let s := if x.level = 0 ∧ 0 < n then s.alert 1 else s
    let h := s.hottest
    let s := { s with pwr := { s.pwr with stackId := h.1, stackMax := h.2, throttled := s.pwr.throttled || decide (0 < n) } }
    .next s.evalHard

/-! ### The brake (R623) -/

/-- BRAKE_APPLY: PWR_BRAKE_N falls. -/
def execBrakeApply (t : Nat) (s : State) : Host.Outcome State Fault Refusal :=
  let s := (s.at t).countPower
  if s.pwr.brake then .next s
  else
    let s := ({ s with pwr := { s.pwr with brake := true } }.inc 0x0D0108 1).alert 4
    if s.powerActs then .next { s with mem := { s.mem with rateCap := 8 } } else .next s

/-- BRAKE_RELEASE: PWR_BRAKE_N rises, and R621 and R622 go on from the values in force. -/
def execBrakeRelease (t : Nat) (s : State) : Host.Outcome State Fault Refusal :=
  let s := (s.at t).countPower
  let s := { s with pwr := { s.pwr with brake := false, lowSince := none } }
  if s.powerActs then .next s.floorRate else .next s

/-! ### The memory rate cap (R622) -/

/-- Lower the cap by 4, not below its floor; hard limiting lifts the floor. -/
def State.lowerRate (s : State) : State := { s with mem := { s.mem with rateCap := s.mem.rateCap - 4 } }.floorRate

/-- MEM_RATE_CAP_ADJUST: the average input power of the last 1 ms. -/
def execMemRateCapAdjust (t : Nat) (watts : BitVec 16) (s : State) : Host.Outcome State Fault Refusal :=
  let s := s.at t
  let w := watts.toNat
  let cap := s.pwr.cap
  if !s.powerActs ∨ s.pwr.brake then .next s
  else if cap < w then .next ({ s with pwr := { s.pwr with lowSince := none } }.lowerRate)
  else if 100 * w < 95 * cap then
    let since := s.pwr.lowSince.getD (s.time - 1000000)
    if since + 10000000 ≤ s.time then
      .next { s with pwr := { s.pwr with lowSince := some s.time }, mem := { s.mem with rateCap := min 64 (s.mem.rateCap + 2) } }
    else .next { s with pwr := { s.pwr with lowSince := some since } }
  else .next { s with pwr := { s.pwr with lowSince := none } }

/-! ### Input power (R628, R633) -/

/-- POWER_INPUT_SAMPLE: PWR_INPUT, every 1 ms; the samples of a tick give the average that its next cut reads. -/
def execPowerInputSample (t : Nat) (mainW : BitVec 16) (mainV stbyW : Byte) (s : State) : Host.Outcome State Fault Refusal :=
  let s := (s.at t).countPower
  let stbyOver := if 25 < stbyW.toNat then s.pwr.stbyOver + 1 else 0
  let w := { s.pwr with mainW := mainW.toNat, mainV := mainV.toNat, stbyW := stbyW.toNat, stbyOver := stbyOver }
  let w := if s.powerActs then { w with tickW := w.tickW + mainW.toNat, tickN := w.tickN + 1 } else w
  let s := { s with pwr := w }
  let s := if s.boot.mainGood && decide (mainV.toNat < 42 ∨ 58 < mainV.toNat) then s.alert 6 else s
  .next (if stbyOver = 100 then s.alert 7 else s)

/-! ### Pins (Table 20.3) -/

/-- SB_ALERT_N: low while an unmasked bit of PWR_ALERT is set. -/
def State.sbAlertN (s : State) : Bool := decide ((s.regw 0x0D0014 &&& ~~~(s.regw 0x0D0018)) &&& 0xFF#32 = 0#32)

/-- STBY_PG: the management processor answers. -/
def State.stbyPg (s : State) : Bool := s.boot.standby

/-- MAIN_PG: the core rails are in regulation. -/
def State.mainPgPin (s : State) : Bool := s.boot.mainPg

/-- THERM_TRIP_N: low after a thermal trip, until standby power is removed. -/
def State.thermTripN (s : State) : Bool := !s.pwr.tripped

end Sys2Proof.Machine
end

