-- ==== Sys2Proof/Machine/Reset.lean ====
section
/-! DEFINITION. Resets (R407, R408, R572 to R580): what a port reset and a chip reset take away, requests for a reset, power
coming and going. -/

namespace Sys2Proof.Machine
open Sys2Proof

/-! ### Port resets (R407, R408) -/

/-- Whether what a publish sends is dropped when port `p` is reset, or one partition of it (R247). -/
def PubItem.goesWith (p : Nat) (part : Option Nat) (x : PubItem) : Bool :=
  decide (x.out.host? = some p) && (part.isNone || decide (x.part = part))

/-- What the hosts of a port, or of one partition on it, have placed goes: requests and handles leave at the next cut and
keystone without records, or at once when no ticks run; logs, expected SEQs and landings with the host right go now. -/
def State.dropHosts (p : Nat) (part : Option Nat) (s : State) : State :=
  let mine (q k : Nat) : Bool := decide (q = p) && (match part with
    | none => true
    | some x => decide (k = x))
  let lids := (s.landings.filter (fun e => e.2.host && decide (e.2.port = p) && (match part with
    | none => true
    | some x => decide (e.2.partition = some x)))).map (·.1)
  let pageMine (lane : Nat) : Bool := match part with
    | none => true
    | some x => s.regb (tollPage p (lane / 64)) 31 && decide (s.regf (tollPage p (lane / 64)) 0 8 = x)
  let s := lids.foldl (fun (s : State) (l : Nat) => s.expireLanding l) s
  let s := { s with
    requests := s.requests.map (fun e => (e.1, { e.2 with dropped := e.2.dropped || mine e.2.port e.2.partition })),
    handles := s.handles.map (fun e =>
      (e.1, if mine e.2.port e.2.partition && decide (e.2.gone = 0) then { e.2 with gone := 1, reserve := 0 } else e.2)),
    waiting := s.waiting.filter (fun w => !(kfind? s.handles w.handle).elim false (fun i => mine i.port i.partition)),
    named := s.named.filter (fun e => !mine (handlePort e.1) e.2),
    logs := s.logs.filter (fun e => !mine (e.1 / 256) (e.1 % 256)),
    lanes := s.lanes.filter (fun e => !(decide (e.1 / 8192 = p) && pageMine (e.1 % 8192))),
    tick := { s.tick with keyRecs := s.tick.keyRecs.filter (fun r => !mine r.port r.partition) }
    pub := s.pub.map (fun x => { x with items := x.items.filter (fun i => !i.goesWith p part) }) }
  if s.ticking then s else s.clearGone

/-- An INGEST that fetches its pack from a host port ends as its fetch fails (R407, R436). -/
def State.failFetch (p : Nat) (s : State) : State := match s.running, s.job? with
  | some id, some j =>
    if j.type = JobType.ingest ∧ j.port = p ∧ !prmFlag j.params 5 then s.pausePoint id (some 0x03) else s
  | _, _ => s

/-- A port enters reset; after a function-level reset of its PF it leaves it at once. During a start the reset has no other
effect (R579). -/
def State.portReset (p : Nat) (flr : Bool) (s : State) : State :=
  let link := flr && (s.port p).linkUp
  let down (s : State) : State := s.modPort p (fun _ => { Port.down with linkUp := link, inReset := !link })
  if s.boot.state ≠ BootState.ready then down s
  else
    let s := (down s).inc (tollCtr p 0x20) 1
    let s := (s.setReg (tollPort p 4) 0).setReg (tollPort p 8) 0
    (s.dropHosts p none).failFetch p

/-- PORT_RESET: hot reset, loss of link, or a function-level reset of the PF. -/
def execPortReset (t : Nat) (port : Fin 4) (cause : PortResetCause) (s : State) : Host.Outcome State Fault Refusal :=
  let s := s.at t
  if !s.portPresent port.val || (s.port port.val).inReset then .next s
  else .next (s.portReset port.val (decide (cause = .pfFlr)))

/-- PERST: a low pin holds its port in reset; a pin of a port that the mode does not name is ignored. -/
def execPerst (t : Nat) (port : Fin 4) (low : Bool) (s : State) : Host.Outcome State Fault Refusal :=
  let s := s.at t
  let p := port.val
  let s := { s with perstLow := if low then p :: s.perstLow.filter (· ≠ p) else s.perstLow.filter (· ≠ p) }
  if !low || !s.portPresent p || (s.port p).inReset then .next s else .next (s.portReset p false)

/-- VF_FLR: R407 for the VF's partition on the port only. -/
def execVfFlr (t : Nat) (port : Fin 4) (vf : BitVec 8) (s : State) : Host.Outcome State Fault Refusal :=
  let s := s.at t
  let p := port.val
  if !s.portOpen p then .next s
  else
    let s := s.inc (tollCtr p 0x20) 1
    match s.vfPart? p vf.toNat with
    | none => .next s
    | some k => .next (s.dropHosts p (some k))

/-- Whether the chip has its clocks and is out of reset. -/
def State.powered (s : State) : Bool :=
  s.boot.mainGood && decide (s.boot.state ≠ BootState.standby ∧ s.boot.state ≠ BootState.inReset)

/-- PCIE_LINK_UP: the link trains, and the port leaves reset. -/
def execPcieLinkUp (t : Nat) (port : Fin 4) (s : State) : Host.Outcome State Fault Refusal :=
  let s := s.at t
  let p := port.val
  if s.powered && s.portPresent p && !s.perstLow.contains p && !(s.port p).linkUp then
    .next (s.modPort p (fun _ => { Port.down with linkUp := true, inReset := false }))
  else .next s

/-! ### What a chip reset takes away (Table 18.3) -/

/-- A warm reset ends every listed job with outcome INTERRUPTED, without records: its landings go, an install in progress is
interrupted, an entry that waited for its job is EMPTY. -/
def State.interruptJobs (s : State) : State :=
  let s := s.jobs.foldl (fun (s : State) (e : Nat × Job) => s.dropLandings e.1 e.2) s
  let gone := s.jobs.map (fun e => (e.1, { e.2 with state := JobState.ended, outcome := 0x09, endHandles := [], preempts := [] }))
  let hot := s.hot.map (fun e =>
    (e.1, if e.2.state = HotState.installing then { e.2 with state := HotState.interrupted } else e.2))
  { s with jobs := [], ended := (gone.reverse ++ s.ended).take 64,
           hot := hot.filter (fun e => decide (e.2.state ≠ HotState.retiring)) }

/-- A span after a warm reset: its strikes and its trace buffer are kept. -/
def Span.warm (x : Span) : Span :=
  { Span.idle with strikes := x.strikes, trace := { x.trace with ctrl := Trace.idle.ctrl, kept := true } }

/-- Device memory over a reset: in self-refresh over a warm one; a cold one leaves the logged repairs. -/
def DevMem.over (k : ResetKind) (m : DevMem) : DevMem := match k with
  | .cold => { DevMem.cold with repairLog := m.repairLog, rowLog := m.rowLog }
  | .warm => { m with stk := m.stk.foldl (fun l e => kset Stack.cold l e.1
      (if e.2.state = StackState.lost then { Stack.cold with state := .lost } else Stack.cold)) [],
                      rateCap := 64, repair := none, status := 0, alloc := 0 }

/-- The viaduct over a reset: a warm one keeps relocations and claims. -/
def Viaduct.over (k : ResetKind) (v : Viaduct) : Viaduct :=
  let base := { Viaduct.cold with refLost := v.refLost, lastPulse := v.lastPulse }
  match k with
  | .cold => base
  | .warm => { base with relocs := v.relocs, claimsSeen := v.claimsSeen, takeEpoch := v.takeEpoch, held := v.held,
                         takeTarget := v.held.getD 0, take := if v.held.isSome then .taken else .idle }

/-- The fault manager over a reset: what flash holds stays; a warm one keeps the fault log in device memory. -/
def FaultMgr.over (k : ResetKind) (f : FaultMgr) : FaultMgr :=
  { FaultMgr.clear with fenceList := f.fenceList, flashLog := f.flashLog, outageMs := f.outageMs, chipFaults := f.chipFaults, flitErrors := f.flitErrors,
                        log := match k with
                          | .cold => []
                          | .warm => f.log }

/-- The trestle unit over a reset: SUSPECT entries and FENCED last until the next cold reset (R219). -/
def TrestleUnit.over (k : ResetKind) (x : TrestleUnit) : TrestleUnit := match k with
  | .cold => TrestleUnit.cold
  | .warm => { TrestleUnit.cold with suspects := x.suspects, state := if x.state = TrsState.fenced then .fenced else .untested,
                                     cause := if x.state = TrsState.fenced then x.cause else 1 }

/-- The registers of the VIA block. -/
def viaRegs (m : List (Nat × BitVec 32)) : List (Nat × BitVec 32) :=
  m.filter (fun e => decide (0x090000 ≤ e.1 ∧ e.1 < 0x091000))

/-- What a publish that power loss cuts has sent: the ports below a free number have seen it (R247). -/
def State.cutPublish (s : State) : List Out := match s.pub with
  | none => []
  | some x => (x.items.map (·.out)).filter (fun o => decide (o.host?.getD 0 < Config.free s.fresh % 5))

/-- What a chip reset leaves of the module: the start sequence is the caller's. The swing span closes, and the seal opens no
more. -/
def State.wipe (k : ResetKind) (s : State) : State :=
  let s := s.countStall none
  let s := match k with
    | .warm => s.interruptJobs
    | .cold => s
  let warm := decide (k = ResetKind.warm)
  let kept := if !warm then none else if s.boot.state = BootState.ready then some (viaRegs s.regs) else s.boot.keptVia
  let alert := s.regw 0x0D0014 &&& 0x20#32
  let pwr := { Power.cold with brake := s.pwr.brake, tripped := s.pwr.tripped, barred := s.pwr.barred, enLowAt := s.pwr.enLowAt,
                               msAt := s.time }
  let base : State :=
    { State.reset with
      pending := s.pending, out := s.out ++ s.cutPublish, time := s.time, tbOff := s.tbOff, fresh := s.fresh + 1, fuses := s.fuses,
      flash := s.flash, boot := { s.boot with keptVia := kept, deferred := none, newLost := [] }, pwr := pwr, sb := s.sb,
      sec := { Sec.start with challenge := Config.challenge s.fresh }, spanMap := startMap s.fuses s.flt.fenceList,
      spans := if warm then s.spans.foldl (fun m e => kset Span.idle m e.1 e.2.warm) [] else [],
      perstLow := s.perstLow, ended := if warm then s.ended else [], nextJob := if warm then s.nextJob else 1,
      hot := if warm then s.hot else [], trs := s.trs.over k, mem := s.mem.over k, via := s.via.over k, flt := s.flt.over k }
  base.setReg 0x0D0014 alert

/-! ### The start and outages (R519, R580) -/

/-- An outage begins, unless one is counted already; `limit` ms of it do not count. -/
def Boot.out (limit now : Nat) (b : Boot) : Boot := match b.outageFrom with
  | some _ => b
  | none => { b with outageFrom := some now, limitMs := limit }

/-- POWER_ON begins, with LAST_RESET's code. -/
def State.powerOn (k : ResetKind) (code : Nat) (s : State) : State :=
  { s with boot := { s.boot with state := .powerOn, kind := k, lastReset := code, haltCause := 0, bootMs := 0, startedAt := s.time,
                                 stResult := 0, stTrestle := 0, stTested := 0, stFenced := 0, stLost := 0, lostClaims := [] } }

/-- The start is abandoned (R571). -/
def State.halt (cause : Nat) (s : State) : State :=
  { s with boot := { s.boot with state := .halted, haltCause := cause } }

/-! ### Reset requests (R577, R578, R584) -/

/-- A requested reset takes effect. -/
def State.takeReset (k : ResetKind) (s : State) : State :=
  let limit := match k with
    | .warm => 210
    | .cold => 550
  let code := match k with
    | .warm => 3
    | .cold => 2
  let s := { s with boot := s.boot.out limit s.time }
  (s.wipe k).powerOn k code

/-- Whether a requested reset waits: for a fuse step (R361), or in phase 5 for the end of the publish (R247). -/
def State.resetWaits (s : State) : Bool :=
  s.publishes || (s.inTick && decide (s.tick.phase = 5)) || (match s.mem.repair with
    | none => false
    | some r => decide (r.action = 3 ∨ r.action = 5))

/-- Of two reset requests that merge, a cold one wins. -/
def ResetKind.merge (a : Option ResetKind) (b : ResetKind) : ResetKind := if a = some .cold then .cold else b

/-- A reset is requested. -/
def State.requestReset (k : ResetKind) (s : State) : State := match s.boot.state with
  | .standby => s
  | .halted => if k = .cold then s.takeReset .cold else s
  | .inReset => if s.boot.mainGood && s.boot.standby && s.sb.firmware.isNone then s.takeReset k else s
  | .ready =>
    let k := ResetKind.merge s.boot.deferred k
    if s.resetWaits then { s with boot := { s.boot with deferred := some k } } else s.takeReset k
  | _ => s.takeReset (if s.boot.kind = .cold then .cold else k)

/-- WARM_RESET_REQUEST. -/
def execWarmResetRequest (t : Nat) (who : Requester) (_value : Word) (s : State) : Host.Outcome State Fault Refusal :=
  .next (s.asMgmt t who (State.requestReset .warm))

/-- COLD_RESET_REQUEST. -/
def execColdResetRequest (t : Nat) (who : Requester) (_value : Word) (s : State) : Host.Outcome State Fault Refusal :=
  .next (s.asMgmt t who (State.requestReset .cold))

/-- RESET_TAKES_EFFECT: the wait of a deferred reset is over. -/
def execResetTakesEffect (t : Nat) (s : State) : Host.Outcome State Fault Refusal :=
  let s := s.at t
  match s.boot.deferred with
  | none => .next s
  | some k => if s.resetWaits then .next s else .next (s.takeReset k)

/-! ### Power (R573, R616, R617) -/

/-- Main power leaves its limits: a cold reset that never waits. With both inputs lost no outage counts. -/
def State.mainLoss (s : State) : State :=
  if !s.boot.mainGood then s
  else
    let b := s.boot.out 0 s.time
    let s := { s with boot := b }.wipe .cold
    { s with boot := { s.boot with state := .standby, mainGood := false, mainPg := false, nextCause := 1,
                                   outageFrom := if s.boot.standby then s.boot.outageFrom else none } }

/-- MAIN_POWER_LOSS. -/
def execMainPowerLoss (t : Nat) (s : State) : Host.Outcome State Fault Refusal := .next (s.at t).mainLoss

/-- A cold start after power has come: the straps that main power good brought are latched. -/
def State.coldStart (s : State) : State := s.powerOn .cold s.boot.nextCause

/-- MAIN_POWER_GOOD: POWER_ON starts; without standby power the chip is held off until the management processor answers. -/
def execMainPowerGood (t : Nat) (cool portMode : BitVec 2) (s : State) : Host.Outcome State Fault Refusal :=
  let s := s.at t
  if s.boot.mainGood || !s.boot.pwrEn || s.pwr.barred then .next s
  else
    let s := { s with boot := { s.boot with mainGood := true, coolStrap := cool.toNat, portMode := portMode.toNat } }
    if s.boot.standby && s.sb.firmware.isNone then .next s.coldStart else .next s

/-- STANDBY_UP: the management processor starts and answers; main power that stands begins a start. -/
def execStandbyUp (t : Nat) (s : State) : Host.Outcome State Fault Refusal :=
  let s := s.at t
  if s.boot.standby then .next s
  else
    let s := { s with boot := { s.boot with standby := true, state := .standby } }
    if s.boot.mainGood then .next s.coldStart else .next s

/-- STANDBY_LOSS: a cold reset; the trip's state goes, the sideband falls silent, and a firmware write that it cuts leaves no
sound image (R593, R630). -/
def execStandbyLoss (t : Nat) (s : State) : Host.Outcome State Fault Refusal :=
  let s := s.at t
  if !s.boot.standby then .next s
  else
    let main := s.boot.mainGood
    let b := s.boot.out 0 s.time
    let s := { s with boot := b }.wipe .cold
    let fw := match s.sb.firmware with
      | none => s.flash.firmware
      | some _ => { s.flash.firmware with sound := false }
    .next { s with
      boot := { s.boot with state := .inReset, standby := false, mainGood := false, mainPg := false, nextCause := 0,
                            outageFrom := if main then s.boot.outageFrom else none },
      flash := { s.flash with firmware := fw }, sb := { stream := none, firmware := none, abandoned := none },
      pwr := { s.pwr with tripped := false, barred := false }, regs := [], flt := { s.flt with chipFaults := [], flitErrors := [] } }

/-- PWR_EN_CHANGE: a fall is a loss of main power; a rise after a second low lifts the bar of a thermal trip (R630). -/
def execPwrEnChange (t : Nat) (high : Bool) (s : State) : Host.Outcome State Fault Refusal :=
  let s := s.at t
  let s := { s with boot := { s.boot with pwrEn := high } }
  if !high then
    let low := if s.pwr.enLowAt.isSome then s.pwr.enLowAt else some s.time
    .next ({ s with pwr := { s.pwr with enLowAt := low } }.mainLoss)
  else
    let long := match s.pwr.enLowAt with
      | none => false
      | some l => decide (l + 1000000000 ≤ s.time)
    .next { s with pwr := { s.pwr with enLowAt := none, barred := s.pwr.barred && !long } }

end Sys2Proof.Machine
end

