-- ==== Sys2Proof/Machine/Trestle.lean ====
section
/-! DEFINITION. The trestle unit (R200 to R223, R321): its work records, its checks, its states and retests. -/

namespace Sys2Proof.Machine
open Sys2Proof

/-! ### States (R201, R219) -/

/-- A SUSPECT entry: the third one since cold reset fences the unit. -/
def TrestleUnit.suspectEntry (cause : Nat) (x : TrestleUnit) : TrestleUnit :=
  let third := decide (3 ≤ x.suspects + 1)
  { x with state := if third then .fenced else .suspect, cause := cause, suspects := x.suspects + 1, retesting := !third }

/-- A check of R201 fails in the work of a job: the unit becomes SUSPECT, and the tick breaks before its keystone. -/
def State.trestleFault (cause : Nat) (s : State) : State :=
  let s := s.fault 4 cause 0xFF
  ({ s with trs := s.trs.suspectEntry cause }).breakTick .trestle

/-- Start a retest of the trestle unit, unless it is FENCED. -/
def State.startRetest (s : State) : State :=
  if s.trs.state = TrsState.fenced then s else { s with trs := { s.trs with retesting := true } }

/-- RETEST: a write of RETEST starts a retest, which a FENCED unit ignores. -/
def execRetest (t : Nat) (who : Requester) (s : State) : Host.Outcome State Fault Refusal :=
  .next (s.asMgmt t who State.startRetest)

/-- A retest passes: the unit is IN_SERVICE; it fails: a SUSPECT unit stays so and tests again, any other makes a new entry. -/
def TrestleUnit.retested (pass : Bool) (x : TrestleUnit) : TrestleUnit :=
  if pass then { x with state := .inService, retesting := false }
  else if x.state = TrsState.suspect then { x with cause := 5, retesting := true }
  else x.suspectEntry 5

/-- TRESTLE_RETEST_DONE: the 30 ms of a retest end. A unit that becomes SUSPECT or FENCED breaks the tick (R218). -/
def execTrestleRetestDone (t : Nat) (pass : Bool) (s : State) : Host.Outcome State Fault Refusal :=
  let s := s.at t
  if !s.trs.retesting ∨ s.trs.state = TrsState.fenced then .next s
  else
    let s := if pass then s else s.inc 0x020524 1
    let new := !pass && decide (s.trs.state ≠ TrsState.suspect)
    let s := { s with trs := s.trs.retested pass }
    .next (if new then s.breakTick .trestle else s)

/-! ### Trestle input (R202, R203) -/

/-- The 12-bit codes and the scale of a record. -/
def recordOf (r : BitVec 512) : List Int × Int :=
  ((List.range 32).map (fun i => signedField 12 (bitsAt r.toNat (12 * i) 12)), signedField 12 (bitsAt r.toNat 384 12))

/-- The (slot, place) pairs for which a descriptor's input has landed, in batch-slot order. -/
def TrestleUnit.tokens (desc : Nat) (x : TrestleUnit) : List (Nat × Nat) :=
  ((x.inputs.filter (fun e => decide (e.1 / 2 ^ 44 = desc))).map (fun e => (e.1 / 2 ^ 32 % 4096, e.1 / 2 ^ 16 % 65536))).eraseDups

/-- The blocks of a token's vector, ascending. -/
def TrestleUnit.vector (desc : Nat) (tok : Nat × Nat) (x : TrestleUnit) : List (List Int × Int) :=
  (x.inputs.filter (fun e => decide (e.1 / 2 ^ 16 = (desc * 4096 + tok.1) * 65536 + tok.2))).map (fun e => recordOf e.2)

/-- Whether a span has landed every record of FROM: all blocks of its list, or what it has landed when it stands at the phase joint
(R321, log entry 46). -/
def State.landedFrom (s : State) (from_ l : Nat) : Bool :=
  let whole := match kfind? s.trs.wholeFrom (from_ * 128 + l) with
    | none => false
    | some n => decide (n ≤ kget 0 s.trs.landedFrom (from_ * 128 + l))
  let passed := match s.phys? l with
    | none => true
    | some p => (s.span p).seq.lastPhaseJoint && (s.span p).seq.arrived.isSome
  whole || (passed && s.trs.late.all (fun w => decide (w.source ≠ from_ * 128 + l)))

/-- Whether the input of FROM has landed from every span of its writer group. -/
def State.inputLanded (s : State) (from_ : Nat) : Bool := match s.desc? from_ with
  | none => true
  | some d => decide (d.outKind ≠ 3) || (s.writers d).all (s.landedFrom from_)

/-- The value of a code with its block's scale (R103). -/
def codeValue (q l : Int) : Lns × Nat := toWorking q l

/-! ### Weighted sums (R203 to R205) -/

/-- The value of a two-term weight code. -/
def trsWeight (w : Nat) : Int :=
  let term (t sg e : Nat) : Int :=
    if bitAt w t then (if bitAt w sg then -(2 ^ bitsAt w e 4 : Int) else 2 ^ bitsAt w e 4) else 0
  term 15 14 10 + term 9 8 4

/-- One lane: a saturating addition for each input in ascending order; the sum and the additions that saturated. -/
def trsLane (ws : List Int) (xs : List Int) : Int × Nat :=
  (ws.zip xs).foldl (fun (acc : Int × Nat) (e : Int × Int) =>
    let r := satTo 40 (acc.1 + e.1 * e.2)
    (r.1, acc.2 + bit r.2)) (0, 0)

/-- The inputs of a vector shifted to its reference, the reference's unit, and the blocks outside the alignment. -/
def trsAligned (v : List (List Int × Int)) : List Int × Int × Nat :=
  let vecE := (minInt? (v.map (fun b => b.2 / 16))).getD 0
  let f0 : Int := ((v.head?).map (fun b => b.2 % 16)).getD 0
  let xs := v.flatMap (fun b =>
    let k := min 7 (b.2 / 16 - vecE).toNat
    b.1.map (fun a => a * 2 ^ k))
  (xs, 16 * vecE + f0, v.countP (fun b => decide (7 < b.2 / 16 - vecE) || decide (b.2 % 16 ≠ f0)))

/-- Outputs of a trestle layer: the experts of a router, the rows of any other. -/
def Desc.trsOutputs (d : Desc) (router : Bool) : Nat := if router then d.nExp else 16 * d.slice16

/-- The weights of a trestle layer: row by row in its extent, read from device memory. -/
def State.trsWeights (d : Desc) (n r : Nat) (s : State) : List (List Int) × State := match s.extentOf d 0xFE with
  | none => (List.replicate r (List.replicate n 0), s)
  | some (_, w) => match s.extentEntry? w with
    | none => (List.replicate r (List.replicate n 0), s)
    | some e =>
      let b := s.memRead ((List.range (2 * n * r)).map (fun i => s.entryAddr (s.entry e) (w.offset + i)))
      ((List.range r).map (fun o => (List.range n).map (fun j => trsWeight (leAt b.1 (2 * (o * n + j)) 2))),
        b.2.winAdd 256 8 (2 * n * r))

/-- The lanes after a layer (R205): pair `i` of (sequence, output) runs on lane `i mod 4096`. -/
def TrestleUnit.leave (sums : List Int) (x : TrestleUnit) : TrestleUnit :=
  { x with lanes := sums.zipIdx.foldl (fun m (e : Int × Nat) =>
      kset TrsLane.zero m (e.2 % 4096) { acc := BitVec.ofInt 40 e.1, residue := (e.1 % 3).toNat }) x.lanes }

/-- What a trestle layer computes for the tokens of its input: the sums of each, with the unit. -/
def State.trsLayer (d : Desc) (router : Bool) (from_ : Nat) (s : State) : List ((Nat × Nat) × List Int × Int) × State :=
  let toks := s.trs.tokens from_
  let n := 256 * d.inSegs
  let w := s.trsWeights d n (d.trsOutputs router)
  let r : List ((Nat × Nat) × List Int × Int × Nat × Nat) := toks.map (fun t =>
    let a := trsAligned (s.trs.vector from_ t)
    let o := w.1.map (fun row => trsLane row a.1)
    (t, o.map (·.1), a.2.1, (o.map (·.2)).sum, a.2.2))
  let s := w.2
  let s := { s with trs := s.trs.leave (r.flatMap (fun (e : (Nat × Nat) × List Int × Int × Nat × Nat) => e.2.1)) }
  let s := (s.inc 0x020510 ((r.map (fun e => e.2.2.2.1)).sum)).inc 0x020514 ((r.map (fun e => e.2.2.2.2)).sum)
  (r.map (fun e => (e.1, e.2.1, e.2.2.1)), s)

/-- The handle in a batch slot. -/
def State.slotHandle (s : State) (n : Nat) : Nat := ((s.tick.slots[n]?).map (·.handle)).getD 0

/-- Fold the outputs of a record (R536). -/
def State.foldTrs (desc slot : Nat) (items : List (List Byte)) (s : State) : State :=
  items.zipIdx.foldl (fun (s : State) (e : List Byte × Nat) =>
    s.foldItem s.tick.phase desc 0xFE (natToBytes 4 (s.slotHandle slot) ++ natToBytes 4 e.2) e.1) s

/-- KIND 0: the sums stay in the unit. -/
def State.runLayerRec (r : TrsRec) (d : Desc) (s : State) : Nat × State :=
  let y := s.trsLayer d false r.src
  let s := y.1.foldl (fun (s : State) (t : (Nat × Nat) × List Int × Int) =>
    let key := (r.desc * 4096 + t.1.1) * 65536 + t.1.2
    let trs := { s.trs with outputs := kset [] s.trs.outputs key t.2.1 }
    ({ s with trs := trs }).foldTrs r.desc t.1.1 (t.2.1.map (fun (v : Int) => natToBytes 5 (v % 2 ^ 40).toNat))) y.2
  (cdiv (y.1.length * d.trsOutputs false) 4096 * (256 * d.inSegs) + 12, s)

/-- KIND 1: the router's ranking, weights and grants. -/
def State.runRouterRec (r : TrsRec) (d : Desc) (s : State) : Nat × State :=
  let y := s.trsLayer d true r.src
  let routed := y.1.map (fun t =>
    let v := t.2.1.map (fun a => toWorking a t.2.2)
    (t.1, routesOf d (ranked (fun a b => decide (b < a)) d.topK t.2.1) v))
  let g := grantAll d s.fixed (s.fidelity && decide (0 < s.tick.viewSlip)) (routed.map (fun t => (t.1.1, t.2.1)))
  let s := y.2.inc 0x020518 ((routed.map (fun t => t.2.2)).sum)
  let s := routed.foldl (fun (s : State) (t : (Nat × Nat) × List (Nat × BitVec 16) × Nat) =>
    s.foldTrs r.desc t.1.1 (t.2.1.map (fun e => natToBytes 2 e.1 ++ natToBytes 2 e.2.toNat))) s
  let place := Config.grantPlace r.desc
  (cdiv (y.1.length * d.nExp) 4096 * (256 * d.inSegs) + 12,
    (s.countGrants g).sendGrants s.cycNow 128 r.desc d (fun k => (place.1 + k) % deckGranules) (place.2 % 32) g)

/-! ### Final normalisation (R208) -/

/-- The residual vector of a token, as the writer group of FROM wrote it: LNS16 granules at RES_OUT_BASE, or the values of its
trestle input. -/
def State.finalVector (s : State) (from_ : Nat) (d : Desc) (tok : Nat × Nat) : List Lns :=
  if d.resEn && d.resOut then
    (s.writers d).flatMap (fun l => match s.phys? l with
      | none => []
      | some p =>
        let list := s.seqList p
        let k := ((List.range list.length).filter (fun i => decide (list.getD i 0 = tok.1))).getD tok.2 0
        lnsVec ((List.range d.slice16).map (fun row => (s.span p).granule (d.resOutBase + k * d.slice16 + row))))
  else (s.trs.vector from_ tok).flatMap (fun b => b.1.map (fun q => (codeValue q b.2).1))

/-- The segments of a normalised vector, aligned and without outliers (R117 to R121). -/
def headSegments (d : Desc) (vals : List Lns) : List (List (BitVec 256)) :=
  let w := max 1 d.wPlan
  let blocks : List Block := (chunks 32 (vals.length + 1) vals).map (fun v =>
    { vals := v ++ List.replicate (32 - v.length) Lns.z, w := w, slots := [], extra := [], ovf := [] })
  let wide := decide (2 ≤ w)
  let needs := blocks.map (fun b => b.eNeed d (cW w) wide)
  let ve := alignE (needs.filterMap (fun n => n.map (·.1)))
  let coded := (blocks.zip needs).map (fun (e : Block × Option (Int × Bool)) =>
    let l := (alignScale d ve e.2).1
    ((e.1.codes (qMax w) wide l).1, l.1))
  (chunks 8 (coded.length + 1) coded).map (fun g =>
    mkSegment (g.map (·.1)) (g.map (·.2)) (g.map (fun _ => w)) (ve.getD 0))

/-- The normalised vector (R112, R113), with the saturations. -/
def normalised (d : Desc) (gain : List Lns) (vals : List Lns) : List Lns × Nat :=
  let sq := vals.map (fun v => if v.zero then (Lns.z, 0) else mkWork false (2 * v.lam))
  let q := logTree ((chunks 32 (vals.length + 1) sq).map logTree)
  let f := normFactor d q.1
  let out := vals.zipIdx.map (fun (e : Lns × Nat) =>
    let a := lmul e.1 f.1
    let b := lmul a.1 (gain.getD e.2 Lns.z)
    (b.1, a.2 + b.2))
  (out.map (·.1), q.2 + f.2 + (out.map (·.2)).sum)

/-- The spans that run the head with a descriptor. -/
def State.headSpans (s : State) (desc : Nat) : List Nat := match s.plan? with
  | none => []
  | some p => s.lspans.filter (fun l => (p.runs l).contains desc)

/-- The tokens of a final normalisation: those of FROM's input, else the list of the first span that writes its residual, else
the batch slots that run. -/
def State.finalTokens (s : State) (from_ : Nat) : List (Nat × Nat) :=
  let byInput := s.trs.tokens from_
  if !byInput.isEmpty then byInput
  else match ((s.desc? from_).map s.writers).bind (fun l => (l.head?).bind s.phys?) with
    | some p => let list := s.seqList p; (List.range list.length).map (fun k => (list.getD k 0, occOf list k))
    | none => (List.range s.tick.slots.length).map (fun n => (n, 0))

/-- The layer that wrote the model's final residual vector (R208): FROM, or for a record without FROM the last layer with RES_OUT
before the head's (DESIGN CHOICE, log entry 46). -/
def State.finalLayer (s : State) (r : TrsRec) : Option (Nat × Desc) := match s.desc? r.src with
  | some f => some (r.src, f)
  | none => ((List.range r.desc).reverse.findSome? (fun i => (s.desc? i).bind (fun f => if f.resEn && f.resOut then some (i, f) else none)))

/-- KIND 2: normalise, quantise and write to the head's spans. A plan without a layer that writes a residual normalises free
values. -/
def State.runNormRec (r : TrsRec) (d : Desc) (s : State) : Nat × State :=
  let spans := s.headSpans r.desc
  let gain : List Lns := match (spans.head?).bind s.phys? with
    | none => []
    | some p => lnsVec ((List.range (16 * d.inSegs)).map (fun i => (s.span p).granule (d.gainTab + i)))
  let place := Config.headPlace r.desc
  let last := s.finalLayer r
  let toks := s.finalTokens ((last.map (·.1)).getD r.src)
  let s := toks.zipIdx.foldl (fun (s : State) (t : (Nat × Nat) × Nat) =>
    let v : List Lns × State := match last with
      | some f => (s.finalVector f.1 f.2 t.1, s)
      | none => (List.range (256 * d.inSegs)).foldl (fun (acc : List Lns × State) (_ : Nat) =>
          let y := acc.2.draw
          (acc.1 ++ [lnsOf (BitVec.ofNat 16 (Config.free y.1))], y.2)) ([], s)
    let n := normalised d gain v.1
    let segs := headSegments d n.1
    let gs := segs.zipIdx.flatMap (fun (g : List (BitVec 256) × Nat) =>
      g.1.zipIdx.map (fun (e : BitVec 256 × Nat) =>
        ((place.1 + t.2 * place.2.1 + g.2 * d.aseg + e.2) % deckGranules, e.1, false)))
    let s := (v.2.inc 0x020518 n.2).foldTrs r.desc t.1.1 (gs.map (fun g => natToBytes 32 g.2.1.toNat))
    spans.foldl (fun (s : State) (l : Nat) => s.askPuts l (gs.map (fun g => DeckPut.clean s.cycNow .stream l g.1 g.2.1 (.ctr (place.2.2 % 32) 1)))) s) s
  (toks.length * (16 * d.inSegs / 16 + 14), s)

/-! ### Sampling (R211) -/

/-- KIND 3: the tokens due of every batch slot, from the logits that FROM's writer group wrote. -/
def State.runSampleRec (r : TrsRec) (s : State) : Nat × State :=
  let toks := s.trs.tokens r.src
  let phase := s.tick.phase
  (List.range s.tick.slots.length).foldl (fun (acc : Nat × State) (n : Nat) =>
    let s := acc.2
    let mine := toks.filter (fun t => decide (t.1 = n))
    let due := ((s.dueOf phase n).map (fun e => e.2.length)).getD 0
    if due = 0 then acc
    else
      let vocab := s.vocabSize n
      let first := mine.length - due
      let y := s.sampleSlot phase n vocab (fun i => if mine.length < due then none
        else (mine[first + i]?).map (fun t => (s.trs.vector r.src t).flatMap (fun b => b.1.map (fun q => (codeValue q b.2).1))))
      let set := (s.slotReq n).map (·.sampler)
      let quick := ((set.map (fun q => (lnsOf q.temp).zero)).getD true)
      let topP := decide (((set.map (·.topP)).getD 0) ≠ 0)
      let time := if quick then cdiv vocab 4096 + 8 else (2 + bit topP) * cdiv vocab 4096 + 96
      (acc.1 + due * time, y.2)) (0, s)

/-! ### Records (R321) -/

/-- One work record: the cycles it takes, and what it does. -/
def State.runRecord (r : TrsRec) (s : State) : Nat × State :=
  if r.kind = 3 then s.runSampleRec r
  else if r.kind = 4 then (0, s.stopAll 0xFE)
  else match s.desc? r.desc with
    | none => (0, s)
    | some d => if r.kind = 0 then s.runLayerRec r d else if r.kind = 1 then s.runRouterRec r d else s.runNormRec r d

/-- The earliest cycle at which a record may start. -/
def State.recordStart (s : State) (r : TrsRec) : Nat :=
  max (s.phaseStart r.phase + r.start + s.tick.trsOffset) s.trs.readyAt

/-- TRESTLE_RECORD: the next record of the phase runs, once its start, the record before it and its input allow it. A failed
check of R201 makes the unit SUSPECT. -/
def execTrestleRecord (t : Nat) (check : TrsCheck) (s : State) : Host.Outcome State Fault Refusal :=
  let s := (s.at t).settled
  if !s.tick.active ∨ s.trs.state ≠ TrsState.inService then .next s
  else match s.plan?.bind (fun p => (p.recordFrom s.tick.phase s.trs.nextRec).bind (fun i => (p.trestle[i]?).map (fun r => (p, i, r)))) with
    | none => .next s
    | some (p, i, r) =>
      let cyc := s.cycNow
      if cyc < s.recordStart r ∨ (r.src ≠ 0xFFFF ∧ !s.inputLanded r.src) then .next s
      else match check with
        | .residue => .next (s.trestleFault 3)
        | .bch => .next (s.trestleFault 2)
        | .ok =>
          let y := s.runRecord r
          let done := cyc + y.1
          let s := { y.2 with trs := { y.2.trs with nextRec := i + 1, readyAt := done } }
          .next (if (p.recordFrom r.phase (i + 1)).isSome || !s.tick.active then s else s.trestleArrives done)

end Sys2Proof.Machine
end

