-- ==== Sys2Proof/Machine/Boot.lean ====
section
/-! DEFINITION. The start sequence (R563 to R571, R576): firmware, stack training, self-test, the way to READY; the die
temperature samples and the thermal trip (R625, R630). -/

namespace Sys2Proof.Machine
open Sys2Proof

/-! ### Thermal samples (R625, R626, R630) -/

/-- A thermal trip: THERM_TRIP_N falls, TRIP_LAST is set, and main power leaves its limits. -/
def State.thermalTrip (s : State) : State :=
  ({ s with pwr := { s.pwr with tripped := true, barred := true } }.alert 5).mainLoss

/-- The hottest of the die sensors, ties to the lower one: its number and reading. -/
def hottestSensor (temps : List Byte) : Nat × Nat :=
  temps.zipIdx.foldl (fun (b : Nat × Nat) (e : Byte × Nat) => if e.1.toNat > b.2 then (e.2, e.1.toNat) else b) (0, 0)

/-- DIE_TEMP_SAMPLE: the 16 sensors, every 100 µs while the chip has power. -/
def execDieTempSample (t : Nat) (temps : List Byte) (s : State) : Host.Outcome State Fault Refusal :=
  let s := (s.at t).countPower
  if !s.boot.mainGood || !s.boot.standby then .next s
  else
    let h := hottestSensor temps
    let s := if s.pwr.dieMax < 95 ∧ 95 ≤ h.2 then s.alert 0 else s
    let s := { s with pwr := { s.pwr with dieMax := h.2, dieSensor := h.1 } }
    if 115 ≤ h.2 then .next s.thermalTrip else .next s.evalHard

/-! ### PIER_BOOT (R563, R591, R594) -/

/-- Whether the firmware image in flash verifies: sound, signed under a root pair that is not revoked, and at or above
MIN_SVN. -/
def State.firmwareOk (s : State) : Bool :=
  let f := s.flash.firmware
  f.sound && !s.fuses.revoked.getLsbD f.rootPair && decide (s.fuses.minSvn ≤ f.svn)

/-- PIER_BOOT: the core rails are in regulation, and the firmware is verified and started, or the start halts. -/
def execPierBoot (t : Nat) (s : State) : Host.Outcome State Fault Refusal :=
  let s := s.at t
  if s.boot.state ≠ BootState.powerOn ∨ !s.boot.mainGood then .next s
  else
    let s := { s with boot := { s.boot with mainPg := true } }
    if s.firmwareOk then
      .next ({ s with boot := { s.boot with state := .pierBoot } }.extend 0 s.flash.firmware.digest)
    else .next (s.halt 1)

/-! ### MEM_TRAIN (R362, R568) -/

/-- One stack leaves training: LOST when it failed, else at the throttle level of its reading. -/
def State.trainStack (i : Nat) (failed : Bool) (temp : Nat) (s : State) : State :=
  if s.stackLost i then s
  else if failed then
    { (s.modStk i (fun x => { x with state := .lost })) with boot := { s.boot with newLost := s.boot.newLost ++ [i] } }
  else
    (s.modStk i (fun _ => { state := .active, level := throttleLevel 0 temp, temp := temp, trainTemp := temp,
                            shortCuts := 0 })).grade i

/-- MEM_TRAIN_DONE: over a cold start the logged repairs are applied again. -/
def execMemTrainDone (t : Nat) (failed : BitVec 32) (temps : List Byte) (s : State) : Host.Outcome State Fault Refusal :=
  let s := s.at t
  if s.boot.state ≠ BootState.pierBoot then .next s
  else
    let s := if s.boot.kind = ResetKind.cold then
        { s with mem := { s.mem with lgs := s.mem.repairLog, rows := s.mem.rowLog } }
      else s
    let s := (List.range 32).foldl (fun (s : State) (i : Nat) =>
      s.trainStack i (failed.getLsbD i) (temps.getD i 0#8).toNat) s
    if s.liveStacks.isEmpty then .next (s.halt 3)
    else .next { s with boot := { s.boot with state := .selftest } }

/-! ### SELFTEST (R502, R569, R585) -/

/-- The trestle unit after its start-up test; a FENCED unit stays so. -/
def TrestleUnit.started (pass : Bool) (x : TrestleUnit) : TrestleUnit :=
  if x.state = TrsState.fenced then x
  else if pass then { x with state := .inService } else x.suspectEntry 5

/-- The work of a running SELFTEST job completes or fails, and the job ends (R436). -/
def State.endSelftestJob (ok : Bool) (s : State) : State := match s.running, s.job? with
  | some id, some j => if j.type = JobType.selftest then s.pausePoint id (some (if ok then 0x00 else 0x07)) else s
  | _, _ => s

/-- SELFTEST_DONE: a faulty router halts the start; spans that fail are fenced; the trestle unit takes its state. -/
def execSelftestDone (t : Nat) (routersOk : Bool) (spansFailed : BitVec 132) (trestlePass : Bool) (s : State) :
    Host.Outcome State Fault Refusal :=
  let s := s.at t
  if s.boot.state ≠ BootState.selftest then .next (s.endSelftestJob (routersOk && decide (spansFailed = 0) && trestlePass))
  else if !routersOk then .next { (s.halt 2) with boot := { (s.halt 2).boot with stResult := 3 } }
  else
    let tested := (List.range 132).filter (fun p =>
      decide ((s.mapEntry p).status = SpanStatus.active ∨ (s.mapEntry p).status = SpanStatus.spare))
    let bad := tested.filter (fun p => spansFailed.getLsbD p)
    let s := bad.foldl (fun (s : State) (p : Nat) => (s.fence p).2) s
    let lost := 32 - s.liveStacks.length
    .next { s with
      trs := s.trs.started trestlePass
      boot := { s.boot with state := .hostEnable, stResult := if bad.isEmpty && decide (lost = 0) then 1 else 2,
                            stTrestle := if trestlePass then 1 else 2, stTested := tested.length, stFenced := bad.length,
                            stLost := lost } }

/-! ### HOST_ENABLE (R444, R508, R576, R594) -/

/-- A RESERVED entry for an element of the pinned list, with its space. -/
def State.reserveEntry (p : Nat × BitVec 384 × Nat × Bool) (s : State) : State :=
  let x := { HotEntry.empty with state := .reserved, modelId := p.1, digest := p.2.1, slabUnits := p.2.2.1, mirrored := p.2.2.2,
                                 pinned := true }
  match (State.makeRoom x 1 s).1 with
  | none => s
  | some q => (s.setEntry q.entry { x with baseUnit := q.base, mirrorUnit := q.mirror }).noteAlloc

/-- What M1 is extended with: the root pair, the revocation mask, MIN_SVN, and the enrolled keys (Table 19.3). -/
def State.measureKeys (s : State) : State :=
  let key (k : KeyPair) : List Byte :=
    natToBytes 4 k.id.toNat ++ digestBytes (sha384 k.ecdsa) ++ digestBytes (sha384 k.hss)
  s.extend 1 (sha384 (natToBytes 1 s.flash.firmware.rootPair ++ natToBytes 1 s.fuses.revoked.toNat
    ++ natToBytes 1 s.fuses.minSvn ++ s.flash.operators.flatMap key))

/-- M3 takes every READY entry in entry order. -/
def State.measureEntries (s : State) : State :=
  s.hot.foldl (fun (s : State) (e : Nat × HotEntry) =>
    if e.2.state = HotState.ready then s.extend 3 (sha384 (digestBytes e.2.digest ++ digestBytes e.2.layoutDigest)) else s) s

/-- The viaduct configuration is written into the VIA registers, VIA_CHIP last: enabled ports train. -/
def State.writeVia (m : List (Nat × BitVec 32)) (s : State) : State :=
  let s := (m.filter (fun e => decide (0x090000 < e.1 ∧ e.1 < 0x091000))).foldl (fun (s : State) (e : Nat × BitVec 32) =>
    s.setReg e.1 e.2) s
  let s := (List.range 8).foldl (fun (s : State) (p : Nat) => s.startTraining p) s
  match m.find? (fun e => decide (e.1 = 0x090000)) with
  | none => s
  | some e => s.writeChip e.2

/-- A stack that failed training is dealt with as one that becomes LOST. -/
def State.lostAtStart (s : State) : State :=
  let s := s.boot.newLost.foldl (fun (s : State) (i : Nat) => (s.fault 8 0 i).hotLost i) s
  { s with boot := { s.boot with newLost := [] } }

/-- The time out of service that ends now is added to the outage (R519, R580). -/
def State.endOutage (s : State) : State := match s.boot.outageFrom with
  | none => s
  | some f =>
    let ms := (s.time - f) / 1000000 - s.boot.limitMs
    { s with flt := { s.flt with outageMs := s.flt.outageMs + ms },
             boot := { s.boot with outageFrom := none, limitMs := 0 } }

/-- The chip becomes READY: hosts are accepted, and power control acts. -/
def State.becomeReady (s : State) : State :=
  let s := { s with boot := { s.boot with state := .ready, bootMs := min 32767 ((s.time - s.boot.startedAt) / 1000000) } }
  let s := s.latchCap.endOutage
  let s := { s with pwr := { s.pwr with msAt := s.time, tickW := 0, tickN := 0 },
                    mem := { s.mem with rateCap := if s.pwr.brake then 8 else 64 } }
  s.evalHard

/-- HOST_ENABLE: the last state before READY. -/
def execHostEnable (t : Nat) (s : State) : Host.Outcome State Fault Refusal :=
  let s := s.at t
  if s.boot.state ≠ BootState.hostEnable then .next s
  else
    let cold := decide (s.boot.kind = ResetKind.cold)
    let s := { s with counters := [], cycStart := { s.cycStart with dev := [] } }
    let s := if cold then s.flash.pins.foldl (fun (s : State) (p : Nat × BitVec 384 × Nat × Bool) => s.reserveEntry p) s else s
    let s := s.lostAtStart.measureKeys
    let s := if cold then s else s.measureEntries
    let s := { s with boot := { s.boot with lostClaims := if cold then s.flash.viaClaims else [] } }
    let s := match (if cold then s.flash.viaProfile else s.boot.keptVia) with
      | none => s
      | some m => s.writeVia m
    .next { s with boot := { s.boot with keptVia := none } }.becomeReady

/-! ### DEV_BOOT and DEV_SELFTEST (R583, R585) -/

/-- The start state as DEV_BOOT shows it: PIER_BOOT lasts until 60 ms after the start of POWER_ON, then MEM_TRAIN. -/
def State.bootCode (s : State) : Nat :=
  if s.boot.state = BootState.pierBoot ∧ s.boot.startedAt + 60000000 ≤ s.time then 3 else s.boot.state.code

/-- DEV_BOOT. -/
def State.bootWord (s : State) : Nat :=
  fieldAt 28 4 s.bootCode + fieldAt 24 4 s.boot.lastReset + fieldAt 23 1 (bit s.boot.deferred.isSome)
    + fieldAt 22 1 (bit s.boot.mainGood) + fieldAt 20 2 s.boot.coolStrap + fieldAt 18 2 s.boot.portMode
    + fieldAt 15 3 s.boot.haltCause + fieldAt 0 15 s.boot.bootMs

/-- DEV_SELFTEST. -/
def State.selftestWord (s : State) : Nat :=
  fieldAt 30 2 s.boot.stResult + fieldAt 28 2 s.boot.stTrestle + fieldAt 20 8 s.boot.stTested + fieldAt 12 8 s.boot.stFenced
    + fieldAt 6 6 s.boot.stLost

/-- FAULT_N: low while the start is halted or SERVICE is not NORMAL. -/
def State.faultN (s : State) : Bool :=
  !(decide (s.boot.state = BootState.halted) || s.flt.chipFaultStart
    || (match s.job? with
        | none => false
        | some j => decide (j.basic ≠ 0)))

end Sys2Proof.Machine
end

