-- ==== Sys2Proof/Machine/Counters.lean ====
section
/-! DEFINITION. Counters as software sees them (R544 to R548, R550, R551): which offsets are counters, closing and sampling
them, partition windows. -/

namespace Sys2Proof.Machine
open Sys2Proof

/-! ### Which offsets are counters (R544) -/

/-- Counters of BAR0 outside the span windows and the partition windows: first offset, number, step. -/
def ctrRanges : List (Nat × Nat × Nat) :=
  (List.range 4).map (fun p => (tollCtr p 0, 9, 4))
  ++ [(0x020400, 4, 4), (0x020510, 6, 4), (0x030100, 8, 4), (0x031000, 256, 4), (0x040100, 11, 4), (0x060100, 16, 4),
      (0x070090, 2, 4), (0x070400, 256, 4), (0x071000, 1024, 4), (0x090100, 64, 4), (0x090200, 10, 4), (0x0A0100, 64, 4),
      (0x0A0200, 8, 4), (0x0B0100, 11, 4), (0x0B0130, 8, 4), (0x0D0100, 6, 4)]

/-- Counters of a span window, by window offset. -/
def spanCtrRanges : List (Nat × Nat × Nat) :=
  [(0x200, 9, 4), (0x240, 6, 4), (0x280, 13, 4), (0x2C0, 3, 4), (0x300, 12, 4), (0x340, 6, 4), (0x380, 4, 4), (0x3A0, 4, 4),
   (0x408, 1, 4)]

/-- The offsets of ranges. -/
def rangeOffs (l : List (Nat × Nat × Nat)) : List Nat := l.flatMap (fun r => (List.range r.2.1).map (fun i => r.1 + r.2.2 * i))

/-- Whether an offset lies in one of the ranges. -/
def inRanges (l : List (Nat × Nat × Nat)) (off : Nat) : Bool :=
  l.any (fun r => decide (r.1 ≤ off ∧ off < r.1 + r.2.2 * r.2.1 ∧ (off - r.1) % r.2.2 = 0))

/-- A device counter, by BAR0 offset. -/
def isDeviceCtr (off : Nat) : Bool := inRanges ctrRanges off

/-- A counter of a span window, by window offset. -/
def isSpanCtr (off : Nat) : Bool := inRanges spanCtrRanges off

/-! ### Closing (R545, R546) -/

/-- Events of the current cycle at a device counter. -/
def State.cycEvents (s : State) (off : Nat) : Nat := (kget Counter.zero s.cycStart.dev off).since (kget Counter.zero s.counters off)

/-- Events of the current cycle at a counter of a physical span. -/
def State.cycSpanEvents (s : State) (p off : Nat) : Nat :=
  (kget Counter.zero (kget [] s.cycStart.spans p) off).since (kget Counter.zero (s.span p).counters off)

/-- Close the device counters at the offsets that satisfy `f`; `n` gives the events of the cycle at each. -/
def State.closeWhere (f : Nat → Bool) (n : Nat → Nat) (s : State) : State :=
  { s with counters := ((rangeOffs ctrRanges).filter f).foldl (fun m o => kmod Counter.zero m o (Counter.close s.time (n o)))
             s.counters }

/-- Close every counter of a span, at time `t`; the times of its trace losses go with them, but for losses of the cycle itself
(R557). -/
def Span.closeAll (t : Nat) (n : Nat → Nat) (x : Span) : Span :=
  { x with counters := (rangeOffs spanCtrRanges).foldl (fun m o => kmod Counter.zero m o (Counter.close t (n o))) x.counters,
           trace := if n 0x408 = 0 then { x.trace with firstTime := 0, lastTime := 0 } else { x.trace with firstTime := x.trace.lastTime } }

/-- Ask for a close of a partition window: it takes effect at the next switch, or at once when no SERVE job runs ticks
(R551). -/
def State.closePart (p : Nat) (s : State) : State :=
  let w := { kget PWindow.zero s.obs.windows p with closing := true }
  let w := if s.ticking then w else w.switch s.time
  { s with obs := { s.obs with windows := kset PWindow.zero s.obs.windows p w } }

/-- The close of a scope (Table 17.1): every device counter, those of a block, or those of a span window. `z` is the state from
which the events of the cycle are told. -/
def State.closeScope (z : State) (scope block l : Nat) (s : State) : State :=
  if scope = 1 then
    (List.range 132).foldl (fun (s : State) p => s.modSpan p (Span.closeAll s.time (z.cycSpanEvents p)))
      (s.closeWhere (fun _ => true) z.cycEvents)
  else if scope = 2 then s.closeWhere (fun o => decide (o / 0x10000 = block)) z.cycEvents
  else if scope = 3 then match s.phys? l with
    | none => s
    | some p => s.modSpan p (Span.closeAll s.time (z.cycSpanEvents p))
  else s

/-! ### Reading and sampling (R547, R548) -/

/-- The counter at a BAR0 offset: a device counter, one of a partition window, or one of the window of a bound span. -/
def State.counterAt (s : State) (off : Nat) : Option Counter :=
  if off < 0x800000 then
    if isDeviceCtr off then some (kget Counter.zero s.counters off)
    else if 0x0A4000 ≤ off ∧ off < 0x0A4000 + 0x40 * 257 ∧ off % 4 = 0 then
      some (kget Counter.zero (kget PWindow.zero s.obs.windows ((off - 0x0A4000) / 0x40)).counters (off % 0x40 / 4))
    else none
  else if isSpanCtr (off % 0x10000) then
    (s.phys? ((off - 0x800000) / 0x10000)).map (fun p => kget Counter.zero (s.span p).counters (off % 0x10000))
  else none

/-- What a read of a counter gives at time `now`: in the cycle of its close, the closed copy. -/
def Counter.readAt (now : Nat) (c : Counter) : BitVec 32 := if c.at_ = some now then c.closed else c.live

/-- A sample of a counter at time `now` (R547): the value and OBS_SAMPLE_FLAGS. -/
def Counter.sampled (now : Nat) (closedCopy : Bool) (c : Counter) : BitVec 32 × BitVec 32 :=
  let boundary := decide (c.at_ = some now)
  let v := if boundary || closedCopy then c.closed else c.live
  (v, BitVec.ofNat 32 (fieldAt 31 1 1 + fieldAt 30 1 (bit boundary) + fieldAt 29 1 (bit (decide (v = 0xFFFFFFFF#32)))
        + fieldAt 0 16 c.closes.toNat))

/-- The sample of a counter with OBS_SAMPLE_FLAGS; VALID is 0 without one. -/
def State.sampleOf (s : State) (c : Option Counter) (closedCopy : Bool) : BitVec 32 × BitVec 32 := match c with
  | none => (0#32, 0#32)
  | some c => c.sampled s.time closedCopy

/-- The counter that INDEX of a partition's window names. -/
def State.windowCtr (s : State) (p i : Nat) : Counter := kget Counter.zero (kget PWindow.zero s.obs.windows p).counters i

/-- The samples of the cycle of a close return what the close left (R547), whatever the order in which the two came. -/
def State.resample (s : State) : State :=
  let again (f : Nat → SampleRegs → BitVec 32 × BitVec 32) (e : Nat × SampleRegs) : Nat × SampleRegs :=
    if e.2.taken ≠ some s.time then e
    else (e.1, { e.2 with value := (f e.1 e.2).1, flags := (f e.1 e.2).2 })
  let dev (_ : Nat) (x : SampleRegs) : BitVec 32 × BitVec 32 :=
    s.sampleOf (s.counterAt (4 * (bitsAt x.addr.toNat 0 24 / 4))) (x.addr.getLsbD 31)
  let win (k : Nat) (x : SampleRegs) : BitVec 32 × BitVec 32 :=
    s.sampleOf ((s.vfPart? (k / 256) (k % 256)).map (fun p => s.windowCtr p (bitsAt x.addr.toNat 2 4))) (x.addr.getLsbD 31)
  { s with obs := { s.obs with samples := s.obs.samples.map (again dev), vfSamples := s.obs.vfSamples.map (again win) } }

/-- A write to OBS_CLOSE. -/
def State.writeClose (value : Word) (s : State) : State :=
  let v := value.toNat
  let scope := bitsAt v 30 2
  let pseudo := bitAt v 29
  let s := State.closeScope s scope (bitsAt v 24 4) (bitsAt v 0 8) s.countPower.upToNow
  let s := (if pseudo then s.closePart 256 else s).resample
  if scope ≠ 0 ∨ pseudo then { s with obs := { s.obs with closeSeq := s.obs.closeSeq + 1 } } else s

/-- OBS_CLOSE: a write to OBS_CLOSE. -/
def execObsClose (t : Nat) (who : Requester) (value : Word) (s : State) : Host.Outcome State Fault Refusal :=
  .next (s.asMgmt t who (State.writeClose value))

/-- The set of sample registers of a requester: 0 to 3 the PF of a port, 4 the sideband. -/
def sampleSet : Requester → Nat
  | .pf p => p.val
  | .vf p _ => p.val
  | .sideband => 4

/-- A write to OBS_SAMPLE_ADDR by a requester. -/
def State.writeSample (who : Requester) (value : Word) (s : State) : State :=
  let s := s.countPower.upToNow
  let r := s.sampleOf (s.counterAt (4 * (bitsAt value.toNat 0 24 / 4))) (value.getLsbD 31)
  let x : SampleRegs := { addr := value &&& 0x80FFFFFF#32, value := r.1, flags := r.2, time := BitVec.ofNat 32 s.timebase,
                          taken := some s.time }
  { s with obs := { s.obs with samples := kset SampleRegs.zero s.obs.samples (sampleSet who) x } }

/-- OBS_SAMPLE: a write to OBS_SAMPLE_ADDR. -/
def execObsSample (t : Nat) (who : Requester) (value : Word) (s : State) : Host.Outcome State Fault Refusal :=
  .next (s.asMgmt t who (State.writeSample who value))

/-! ### The window of a VF's partition (R382, R550, R551) -/

/-- A write of a VF to the controls of its partition's window: nothing when the VF is not bound (R380). -/
def State.vfWrite (t port vf : Nat) (act : Nat → State → State) (s : State) : State :=
  let s := s.at t
  if !s.portOpen port then s
  else
    let s := s.portRx port 4
    match s.vfPart? port vf with
    | none => s
    | some p => act p s

/-- A write of the close control of a partition's window: 1 asks for a close. -/
def State.writePartClose (value : Word) (p : Nat) (s : State) : State :=
  if value.getLsbD 31 then (s.closePart p).resample else s

/-- A write of INDEX in a partition's window: a counter is sampled into the registers of the VF. -/
def State.writePartSample (port vf : Nat) (value : Word) (p : Nat) (s : State) : State :=
  let r := (s.windowCtr p (bitsAt value.toNat 2 4)).sampled s.time (value.getLsbD 31)
  let x : SampleRegs := { addr := value &&& 0x8000003C#32, value := r.1, flags := r.2, time := 0, taken := some s.time }
  { s with obs := { s.obs with vfSamples := kset SampleRegs.zero s.obs.vfSamples (256 * port + vf) x } }

/-- PCTR_CLOSE. -/
def execPctrClose (t : Nat) (port : Fin 4) (vf : BitVec 8) (value : Word) (s : State) : Host.Outcome State Fault Refusal :=
  .next (s.vfWrite t port.val vf.toNat (State.writePartClose value))

/-- PCTR_SAMPLE. -/
def execPctrSample (t : Nat) (port : Fin 4) (vf : BitVec 8) (value : Word) (s : State) : Host.Outcome State Fault Refusal :=
  .next (s.vfWrite t port.val vf.toNat (State.writePartSample port.val vf.toNat value))

end Sys2Proof.Machine
end

