-- ==== Sys2Proof/Machine/Jobs.lean ====
section
/-! DEFINITION. The commands and events of jobs (R430 to R436) and of their loads (R331 to R334): JOB_START, JOB_CTRL, the
copy of a bitstream, load step 6, the end of a scrub, END_IDLE. -/

namespace Sys2Proof.Machine
open Sys2Proof

/-! ### JOB_START (R396, R430) -/

/-- The plan-cache entry of a digest (R332). -/
def State.cached? (s : State) (d : BitVec 384) : Option CacheEntry := s.cache.find? (fun c => c.digest = d)

/-- The next JOB_ID: rising, past values in the list, from 1 again after 65,535. -/
def State.freshJob (s : State) : Nat :=
  (((List.range 17).map (fun i => (s.nextJob - 1 + i) % 65535 + 1)).find? (fun i => (kfind? s.jobs i).isNone)).getD s.nextJob

/-- A listed SERVE job, DRAINING or not, that serves a main-model digest. -/
def State.servesModel (s : State) (d : BitVec 384) : Bool :=
  s.jobs.any (fun j => decide (j.2.type = JobType.serve)
    && decide ((kfind? s.bits j.1).map (·.ident.modelDigest) = some d))

/-- The field ranges and reserved bytes of a JOB_START record (Table 12.6). -/
def jobStartOk (r : CmdRec) : Bool :=
  decide (rfld r 20 1 ≤ 3 ∧ rfld r 21 1 < 4) && rzeros r [(22, 2), (40, 24)]

/-- A job as JOB_START lists it. -/
def newJob (r : CmdRec) (part : Nat) (type : JobType) (digest : BitVec 384) (params : BitVec 2048) (src stamp : Nat) : Job :=
  { state := .listed, handle := r.handle.toNat, answered := false, port := r.port.val, partition := part,
    mgmt := decide (r.fn = .pf), type := type,
    fixed := decide (type = .serve) && (rfld r 21 1).testBit 0, fidelity := (rfld r 21 1).testBit 1,
    digest := digest, src := src, srcLen := rfld r 16 4, params := params, startedAt := stamp, lastRun := stamp,
    ran := false, counted := [], preempts := [], toHeld := false, endHandles := [], ending := none, tick := 0,
    committedTicks := 0, remoteWait := false, basic := 0, basicTicks := 0, basicAgain := false, fw := false, idleSince := none, sealed := 0, steps := 0,
    verified := false, entry := none, fbEntry := none, jobBase := 0, jobUnits := 0, stripe := [], scrubUs := 0,
    outcome := 0 }

/-- The result code that keeps a job out of the list (Table 13.4), in the order of the table. -/
def State.startError (s : State) (type : JobType) (fixed : Bool) (params : BitVec 2048) (bits : Option Bitstream) :
    Option Nat :=
  let pair := s.regb 0x090050 31
  let dup := decide (type = JobType.serve) && (match bits with
    | none => false
    | some b => s.servesModel b.ident.modelDigest)
  if dup then some 0x301
  else if s.jobs.length ≥ 16 ∨ (pair ∧ s.jobs ≠ []) then some 0x302
  else if !paramsOk type params || (pair && decide (type = JobType.serve) && !fixed) then some 0x303
  else none

/-- JOB_START: a job joins the list, and the dispatcher decides. A bitstream that the plan cache holds is taken from it. -/
def execJobStart (t : Nat) (r : CmdRec) (digest : BitVec 384) (params : BitVec 2048) (s : State) :
    Host.Outcome State Fault Refusal :=
  let src := rfld r 8 8
  let refs (s : State) (_ : Nat) : Option Nat := if src = 0 ∧ (s.cached? digest).isNone then some 0x0B else none
  match (s.at t).gate r { known := true, right := some 30, reserves := 1, isLog := false, isRequest := false }
      (jobStartOk r) refs with
  | .out s => .next s
  | .ok part s =>
    let h := r.handle.toNat
    let hasParams := decide (rfld r 32 8 ≠ 0)
    let s := s.portRx r.port.val (48 + if hasParams then 256 else 0)
    let type := (jobTypeOf (rfld r 20 1)).getD .serve
    let params := if hasParams then params else 0
    let held := (s.cached? digest).map (·.bits)
    match s.startError type ((rfld r 21 1).testBit 0) params held with
    | some code => .next ((s.holdHandle r part (.jobStart 0) 1).answerNow h code 0 0 0)
    | none =>
      let id := s.freshJob
      let j := newJob r part type digest params (if held.isSome then 0 else src) s.timebase
      let s := s.holdHandle r part (.jobStart id) 1
      let s := { s with jobs := kins s.jobs id j, nextJob := id % 65535 + 1 }
      match held with
      | none => .next (s.dispatch false)
      | some b =>
        let cache := s.cache.map (fun c => if c.digest = digest then { c with lastStart := s.time } else c)
        .next ((({ s with bits := kins s.bits id b, cache := cache }).placeAll).dispatch false)

/-! ### Load steps 1 to 3 (R331, R332) -/

/-- The device offset of byte `i` of a place of the plan cache, striped over the stacks that are not LOST (R343, R345). That a
bitstream takes one of 16 places of 256 MiB is the model's own choice (log entry 61). -/
def State.cacheOff (s : State) (slot i : Nat) : Nat := striped s.liveStacks 0x10000000 (slot * 2 ^ 28 + i)

/-- Whether the plan cache may not give a bitstream up: it is that of a listed job (R430). -/
def State.bitsListed (s : State) (d : BitVec 384) : Bool := s.bits.any (fun b => decide (b.2.digest = d))

/-- Put a bitstream into the plan cache: when the cache is full, the one least recently started of those that no listed job has
leaves it (R332, R430). -/
def State.cacheBits (b : Bitstream) (bytes : List Byte) (s : State) : State :=
  let c := s.cache.filter (fun c => c.digest ≠ b.digest)
  let oldest := ((c.filter (fun x => !s.bitsListed x.digest)).foldl (fun (m : Option CacheEntry) x => match m with
    | none => some x
    | some y => if x.lastStart < y.lastStart then some x else some y) none).map (·.digest)
  let c := if c.length < 16 then c else c.filter (fun x => some x.digest ≠ oldest)
  let slot := ((List.range 16).find? (fun i => !c.any (fun x => decide (x.slot = i)))).getD 0
  let s := s.memWrite (bytes.zipIdx.map (fun e => (s.cacheOff slot e.2, e.1)))
  { s with cache := c ++ [{ digest := b.digest, slot := slot, bits := b, lastStart := s.time }] }

/-- A bitstream that has passed steps 2 and 3 is held for its job; a SERVE job whose model is listed already leaves the list
with DUPLICATE (R430). -/
def State.holdBits (id : Nat) (j : Job) (b : Bitstream) (bytes : List Byte) (s : State) : State :=
  let mine := decide ((s.load.map (·.job)) = some id)
  let s := s.cacheBits b bytes
  if j.type = JobType.serve ∧ s.servesModel b.ident.modelDigest then
    let s := if mine then { (s.loadReport 0 false false none) with load := none } else s
    let s := s.answerStart id 0x301 0
    ({ s with jobs := kdel s.jobs id }).dispatch false
  else
    let s := { s with jobs := kupd s.jobs id (fun j => { j with digest := b.digest }), bits := kins s.bits id b }
    let s := s.placeAll
    let s := if mine then
        match s.load with
        | some l => ({ s with load := some { l with step := 4 } }).stepFour id
        | none => s
      else s
    s.dispatch false

/-- The copy of a job's bitstream has ended: load steps 2 and 3, then 4 when the load is this job's. A copy that failed
leaves no byte. -/
def execBitstreamCopied (t : Nat) (job : BitVec 16) (bytes : Option (List Byte)) (s : State) :
    Host.Outcome State Fault Refusal :=
  let s := s.at t
  let id := job.toNat
  match kfind? s.jobs id with
  | none => .next s
  | some j =>
    if (kfind? s.bits id).isSome then .next s
    else
      let s := if bytes.isSome then s.portRx j.port j.srcLen else s
      let outcome := if bytes.isNone ∧ (j.type = JobType.ingest ∨ j.type = JobType.tune) then 0x03 else 0x08
      match stepTwo s.contentKeys j.srcLen (bytes.getD []) with
      | .inl e => .next ((s.failLoadAs outcome id e).dispatch false)
      | .inr (sects, digest) =>
        let b := readBits sects digest
        match stepThree s.fuses sects b with
        | some e => .next ((s.failLoad id e).dispatch false)
        | none =>
          if b.ident.jobType ≠ j.type then .next ((s.failLoad id (bareErr 0x06 7)).dispatch false)
          else .next (s.holdBits id j b (bytes.getD []))

/-! ### Load step 6 and the first cut (R328, R331, R432, R439) -/

/-- The starting records of a TUNE job (R453): of IN_VARIANT, or neutral ones. -/
def State.tuneStart (j : Job) (s : State) : Tune :=
  let x := s.entry (j.entry.getD 0)
  let v := prm j.params 32 2
  let rec_ (l : Nat) : List Byte :=
    if v = 0xFFFF ∨ v ≥ x.varSlots then neutralRecord else (List.range 4096).map (fun i => s.memByte (x.variantOff v l i))
  { records := (List.range x.layers).map rec_, next := 0 }

/-- Ask a neighbour for the extents that an install does not hold (R446, R480): a KIND 1 landing and an EXT_REQ. -/
def State.askExtents (id : Nat) (j : Job) (b : Bitstream) (e : Nat) (s : State) : State :=
  let x := s.entry e
  let first := x.sealed.length
  let n := b.weights.length - first
  let lid := (firstBelow 4096 (fun i => (kfind? s.landings i).isNone)).getD 0
  let g : Landing := { kind := .entry, base := e, first := first, len := n, read := false, write := true, host := false,
                       port := 0, partition := none, bar4 := 0, expiry := none, since := s.time, wrote := 0 }
  let chip := prm j.params 84 2
  let req := s.via.nextHoId
  let flow : ExtFlow := { chip := chip, reqId := req, lid := lid, entry := e, first := first,
                          granulesLeft := extentGranules (b.weights.drop first) n }
  let s := { s with landings := kins s.landings lid g,
                    via := { s.via with install := some flow, nextHoId := (req + 1) % 65536 },
                    jobs := kupd s.jobs id (fun j => { j with entry := some e, sealed := first }) }
  let pay := digestBytes b.ident.modelDigest ++ digestBytes b.ident.layoutDigest ++ natToBytes 4 n ++ List.replicate 28 0#8
  s.sendTo 0x40 1 chip (req + 65536 * lid + 2 ^ 32 * first) (granulesOf 4 pay)

/-- What a job does first when it comes onto the spans: a TUNE takes its starting records, and an INGEST over the viaduct
opens its entry and asks for its extents. -/
def State.beginWork (id : Nat) (s : State) : State := match kfind? s.jobs id, kfind? s.bits id with
  | some j, some b =>
    match j.type with
    | .tune => if (kfind? s.tune id).isSome then s else { s with tune := kins s.tune id (s.tuneStart j) }
    | .ingest =>
      if !prmFlag j.params 5 then s
      else
        let p := Config.packOf b.ident.modelDigest
        match (match j.entry with
          | some e => (some e, s)
          | none => s.openEntry j b b.ident.modelDigest { table := p.1, pool := p.2.1 } p.2.2) with
        | (none, s) => s.pausePoint id (some 0x05)
        | (some e, s) => if s.via.install.isSome then s else s.askExtents id j b e
    | _ => s
  | _, _ => s

/-- Load step 6: the plan is written, the job runs, and its JOB_START is answered at its first move to RUNNING. -/
def State.goRunning (id : Nat) (j : Job) (b : Bitstream) (l : Load) (s : State) : State :=
  let plan := s.planFor j
  let periodPlan := ((b.plan? plan).map (fun x => x.head.periodPlan)).getD 0
  let s := (s.showBinding l.binding).writeTables b
  let s := (s.writePlan b plan).restoreSpans ((kfind? s.spanSaved id).getD [])
  let fresh := if j.type = JobType.serve then freshKv b j.stripe.length else KvStore.none
  let kept := (kfind? s.tickSaved id).getD { s.tick with plan := plan }
  let tick := { kept with period := s.tick.period, init := s.tick.init, h := s.tick.h, lastJoint := s.tick.lastJoint }
  let gov := (kfind? s.govSaved id).getD { Governor.idle with period := periodPlan }
  let s := if j.ran && planFw plan && !j.fw then s.inc 0x02051C 1 else s
  let s := { s with
    kv := (kfind? s.kvSaved id).getD fresh,
    gov := { gov with nextCut := none, lastTick := s.gov.lastTick,
                      heldFrom := if (s.jobRequests id).any (fun e => e.2.state.inBatch) then some s.time else none },
    tick := tick, running := some id, load := none,
    kvSaved := kdel s.kvSaved id, govSaved := kdel s.govSaved id, tickSaved := kdel s.tickSaved id,
    spanSaved := kdel s.spanSaved id }
  let first := !j.ran
  let up (j : Job) : Job := { j with
    state := if j.state = JobState.draining then .draining else .running, lastRun := s.timebase, ran := true }
  let s := { s with jobs := kupd s.jobs id up }
  let s := s.inc 0x03011C 1
  let s := if first ∧ !j.mgmt then (s.inc (0x031000 + 4 * j.partition) 1).winAdd j.partition 15 1 else s
  let s := (s.answerStart id 0 id).loadReport 7 l.cached l.basic none
  let s := if j.type = JobType.serve then s.sendReady.compareHeaders else s
  (s.beginWork id).startTicks

/-- Load step 6 begins once the scrub is complete and no span is under test (R331, R513). -/
def execLoadWrite (t : Nat) (s : State) : Host.Outcome State Fault Refusal :=
  let s := s.at t
  match s.load with
  | none => .next s
  | some l =>
    if l.step ≠ 5 ∨ s.flt.scrubbing ∨ s.flt.testing.isSome ∨ s.running.isSome ∨ s.boot.deferred.isSome then .next s
    else match kfind? s.jobs l.job, kfind? s.bits l.job with
      | some j, some b => .next ((s.loadReport 6 l.cached l.basic none).goRunning l.job j b l)
      | _, _ => .next s

/-! ### The end of a scrub (R512, R513) -/

/-- Jobs that were told to end and have left the spans end now, with the scrub time. -/
def State.finishEnded (s : State) : State :=
  (s.jobs.filter (fun e => decide (s.running ≠ some e.1) && !(s.jobRequests e.1).any (fun r => r.2.state.inBatch))).foldl
    (fun s e => match e.2.ending with
      | none => s
      | some o => s.finishJob e.1 o s.flt.scrubUs) s

/-- Start the next span test that was asked for (R503): no job is RUNNING and no scrub is in progress. -/
def State.startTest (s : State) : State :=
  if s.flt.testing.isSome || s.flt.scrubbing || s.running.isSome then s
  else match s.flt.testAsked with
    | [] => s
    | p :: rest => { s with flt := { s.flt with testAsked := rest, testing := some p } }

/-- The scrub is complete: the ended jobs are answered, tests may start, and the dispatcher decides. -/
def execScrubDone (t : Nat) (s : State) : Host.Outcome State Fault Refusal :=
  let s := s.at t
  if !s.flt.scrubbing then .next s
  else
    let s := { s with flt := { s.flt with scrubbing := false } }
    .next ((s.finishEnded.boundaryFences.startTest).dispatch false)

/-- END_IDLE (R435): after IDLE_MS without demand the job ends with IDLE_END. -/
def execIdleEnd (t : Nat) (job : BitVec 16) (s : State) : Host.Outcome State Fault Refusal :=
  let s := (s.at t).noteIdle
  let id := job.toNat
  match kfind? s.jobs id with
  | none => .next s
  | some j =>
    match j.idleSince with
    | none => .next s
    | some since =>
      if j.type = JobType.serve ∧ prmFlag j.params 0 ∧ j.ending.isNone ∧ !s.demand id j ∧
          since + 1000000 * prm j.params 12 4 ≤ s.time then .next (s.tellEnd id 0x02)
      else .next s

/-- Both fetches of a request have completed (R392, R413); its job may have demand now. -/
def execFetchDone (t : Nat) (handle : BitVec 32) (prompt : Option (List Word)) (ext : Option (List Byte)) (s : State) :
    Host.Outcome State Fault Refusal :=
  .next (((s.at t).fetched handle.toNat prompt ext).dispatch false)

/-! ### JOB_CTRL (R434) -/

/-- The gate of a JOB_CTRL with action `a`, its handle held; the JOB_ID and whether the issuer may act on a job. -/
def State.jobCtrl (t : Nat) (r : CmdRec) (a : Nat) (act : Nat → Nat → State → State) (s : State) :
    Host.Outcome State Fault Refusal :=
  match (s.at t).gate r { known := true, right := some 30, reserves := 1, isLog := false, isRequest := false }
      (decide (rfld r 12 1 = a) && rzeros r [(13, 51)]) noRefs with
  | .out s => .next s
  | .ok part s =>
    let id := rfld r 8 4
    let h := r.handle.toNat
    let s := s.holdHandle r part (.jobCtrl id) 1
    let mayAct (j : Job) : Bool := decide (r.fn = .pf) || (!j.mgmt && decide (j.partition = part))
    match kfind? s.jobs id with
    | some j => if mayAct j then .next (act id h s) else .next (s.answerNow h 0x305 0 0 0)
    | none => match s.ended.find? (fun e => decide (e.1 = id)) with
      | none => .next (s.answerNow h 0x304 0 0 0)
      | some e =>
        if !mayAct e.2 then .next (s.answerNow h 0x305 0 0 0)
        else if a = 2 ∧ e.2.type = JobType.selftest then .next (s.answerNow h 0x306 0 0 0)
        else if a = 1 then .next (s.answerNow h 0 e.2.scrubUs e.2.outcome 0)
        else .next (s.answerNow h 0 0 0 0)

/-- JOB_CTRL end: answered when the job is ENDED. -/
def execJobCtrlEnd (t : Nat) (r : CmdRec) (s : State) : Host.Outcome State Fault Refusal :=
  s.jobCtrl t r 1 (fun id h s =>
    ({ s with jobs := kupd s.jobs id (fun j => { j with endHandles := j.endHandles ++ [h] }) }).tellEnd id 0x01)

/-- JOB_CTRL pre-empt: a running job leaves for HELD at its next pause point and is answered then; any other is answered at
once. -/
def execJobCtrlPreempt (t : Nat) (r : CmdRec) (s : State) : Host.Outcome State Fault Refusal :=
  s.jobCtrl t r 2 (fun id h s => match kfind? s.jobs id with
    | none => s
    | some j =>
      if j.type = JobType.selftest then s.answerNow h 0x306 0 0 0
      else if s.running = some id then
        ({ s with jobs := kupd s.jobs id (fun j =>
            { j with preempts := j.preempts ++ [h], toHeld := j.ending.isNone }) }).dispatch false
      else if j.state = JobState.draining ∨ j.state = JobState.ended ∨ j.ending.isSome then s.answerNow h 0 0 0 0
      else
        let loading := decide ((s.load.map (·.job)) = some id)
        let s := if loading then { (s.loadReport 0 false false none) with load := none } else s
        let s := { s with jobs := kupd s.jobs id (fun j => { j with state := JobState.held }) }
        (s.answerNow h 0 0 0 0).dispatch false)

/-- JOB_CTRL resume: a HELD job becomes PAUSED; answered at once. -/
def execJobCtrlResume (t : Nat) (r : CmdRec) (s : State) : Host.Outcome State Fault Refusal :=
  s.jobCtrl t r 3 (fun id h s =>
    let f (j : Job) : Job := { j with state := if j.state = JobState.held then .paused else j.state }
    (({ s with jobs := kupd s.jobs id f }).answerNow h 0 0 0 0).dispatch false)

end Sys2Proof.Machine
end

