-- ==== Sys2Proof/Machine/Faults.lean ====
section
/-! DEFINITION. The fault manager's own events (chapter 15): strikes, span tests and fences on demand, re-fetches, chip
faults; the outage count. -/

namespace Sys2Proof.Machine
open Sys2Proof

/-! ### Strikes and span tests (R500 to R503) -/

/-- STRIKE_LAPSE: strikes taken 24 h ago or earlier lapse. -/
def execStrikeLapse (t : Nat) (p : Fin 132) (s : State) : Host.Outcome State Fault Refusal :=
  let s := s.at t
  .next (s.modSpan p.val (fun x => { x with strikes := x.strikes.filter (fun y => decide (s.time < y + 86400000000000)) }))

/-- An action of FLT_SPAN_CTRL names span `p`: `act` starts it when it may, and it is refused otherwise. -/
def State.spanAction (p : Nat) (may : Bool) (act : State → State) (s : State) : State :=
  let s := s.setReg 0x0B0010 (BitVec.ofNat 32 p)
  if may && s.flt.ctrlSpan.isNone then act { s with flt := { s.flt with ctrlSpan := some p } }
  else s.spanResult 2

/-- A test of a FENCED span is asked for. -/
def State.spanRetest (p : Fin 132) (s : State) : State :=
  s.spanAction p.val (decide ((s.mapEntry p.val).status = SpanStatus.fenced)) (fun s =>
    if s.flt.testAsked.contains p.val ∨ s.flt.testing = some p.val then s
    else { s with flt := { s.flt with testAsked := s.flt.testAsked ++ [p.val] } }.startTest)

/-- SPAN_RETEST: a FENCED span is tested as soon as no job is RUNNING. -/
def execSpanRetest (t : Nat) (who : Requester) (p : Fin 132) (s : State) : Host.Outcome State Fault Refusal :=
  .next (s.asMgmt t who (State.spanRetest p))

/-- A fence of a span is asked for. -/
def State.spanFence (p : Fin 132) (s : State) : State :=
  let m := s.mapEntry p.val
  s.spanAction p.val (decide (m.status = SpanStatus.active ∨ m.status = SpanStatus.spare)) (fun s =>
    if m.logical.isSome ∧ s.running.isSome then { s with flt := { s.flt with fenceAsked := s.flt.fenceAsked ++ [p.val] } }
    else (s.fence p.val).2.spanActionDone 0)

/-- SPAN_FENCE: an ACTIVE or SPARE span is fenced; a bound one at the next tick boundary. -/
def execSpanFence (t : Nat) (who : Requester) (p : Fin 132) (s : State) : Host.Outcome State Fault Refusal :=
  .next (s.asMgmt t who (State.spanFence p))

/-- A span that has passed its test is SPARE and leaves the fence list. -/
def State.unfence (p : Nat) (s : State) : State :=
  let s := { s with flt := { s.flt with fenceList := s.flt.fenceList.filter (· ≠ p) } }
  if (s.mapEntry p).status = SpanStatus.fenced then s.setMap (kins s.spanMap p { status := .spare, logical := none }) else s

/-- SPAN_TEST_DONE: the span under test passes or fails, cleared by its test; a test after HUNG counts the first fault as
PROGRAM when the span passes (R501). -/
def execSpanTestDone (t : Nat) (p : Fin 132) (pass : Bool) (s : State) : Host.Outcome State Fault Refusal :=
  let s := s.at t
  if s.flt.testing ≠ some p.val then .next s
  else
    let ctrl := decide (s.flt.ctrlSpan = some p.val)
    let s := (s.modSpan p.val Span.scrubbed)
    let s := { s with flt := { s.flt with testing := none } }
    let s := if pass then s.unfence p.val else s
    let s := if ctrl then s.spanActionDone (if pass then 0 else 1)
      else if pass then s.inc 0x0B0100 1 else s
    .next (s.startTest.dispatch false)

/-! ### Re-fetches (R504 to R506) -/

/-- Where a granule of an entry that a repair writes lies, and where its good copy in this module would lie. -/
def Repair.place (r : Repair) (x : HotEntry) (g : Nat) : Nat := if r.mirror then x.mirrorAddr (32 * g) else x.slabAddr (32 * g)
def Repair.other (r : Repair) (x : HotEntry) (g : Nat) : Nat := if r.mirror then x.slabAddr (32 * g) else x.mirrorAddr (32 * g)

/-- The candidate that a source gives: the good copy in this module, what a peer's WRITEs have landed already, or the host's
bytes. -/
def State.candidate (r : Repair) (c : RefetchSource) (bytes : List Byte) (s : State) : Option (List Byte) × State :=
  let x := s.entry r.entry
  match c with
  | .mirror =>
    let offs := r.granules.flatMap (fun g => addrs (r.other x g) 32)
    if r.granules.any (fun g => s.poisoned (r.other x g)) then (none, s)
    else ((s.memRead offs).1, (s.memRead offs).2)
  | .peer _ => (none, s)
  | .host => (if bytes.length = 32 * r.granules.length then some bytes else none, s)

/-- Whether the extent that a repair has written equals its journal record, with no poison left in it. -/
def State.extentGood (r : Repair) (s : State) : Bool :=
  let x := s.entry r.entry
  match x.extentAt (r.granules.headD 0) with
  | none => true
  | some i => match x.extents[i]?, x.sealed.find? (fun k => decide (k.index = i)) with
    | some e, some k =>
      let gs := (List.range e.2).map (fun n => e.1 / 32 + n)
      gs.all (fun g => !s.poisoned (r.place x g))
        && decide (sha384 (gs.flatMap (fun g => (addrs (r.place x g) 32).map s.memByte)) = k.digest)
    | _, _ => false

/-- Close the landings that a repair had a peer write to. -/
def State.endPeer (r : Repair) (s : State) : State :=
  let mine (f : ExtFlow) : Bool := decide (f.entry = r.entry) && decide ((s.entry r.entry).extentAt (r.granules.headD 0) = some f.first)
  let s := (s.via.refetch.filter mine).foldl (fun (s : State) (f : ExtFlow) => s.closeLanding f.lid) s
  { s with via := { s.via with refetch := s.via.refetch.filter (fun f => !mine f) } }

/-- Take a repair from the list, or put another in its place. -/
def State.swapRepair (r : Repair) (q : Option Repair) (s : State) : State :=
  { s with flt := { s.flt with repairs := s.flt.repairs.flatMap (fun x => if x = r then q.toList else [x]) } }

/-- Every source has failed for a tile set (R506): its entry becomes RETIRING; a job of that entry goes to basic service at the
tick boundary, and a job whose footbridge it is ends (R517). A mirror that cannot be repaired is left as it is. -/
def State.giveUp (r : Repair) (s : State) : State :=
  if r.mirror then s.swapRepair r none
  else
    let s := (s.inc 0x0B0144 1).swapRepair r (some { r with failed := true })
    let s := s.setEntry r.entry { s.entry r.entry with state := .retiring }
    let s := match s.running, s.job? with
      | some id, some j =>
        if j.fbEntry = some r.entry then s.abandonJob id 0x08 0x03
        else if j.entry = some r.entry ∧ j.type = JobType.serve ∧ j.basic = 0 then
          if s.inTick then { s with flt := { s.flt with basicAsked := some id } } else s.enterBasic 3
        else s
      | _, _ => s
    s.retire.placeAll

/-- The counter of tile sets repaired from a source (Table 15.8). -/
def refetchCtr : RefetchSource → Nat
  | .mirror => 0x0B0138
  | .peer _ => 0x0B013C
  | .host => 0x0B0140

/-- REFETCH_DONE: a source has given its copy of the tile set that holds a device granule. The candidate is written as whole
codewords, and it passes when the whole extent read back has the digest of its journal record; else the next source is tried. -/
def execRefetchDone (t : Nat) (granule : Nat) (source : RefetchSource) (bytes : List Byte) (errs : MemErrs)
    (s : State) : Host.Outcome State Fault Refusal :=
  let s := (s.at t).upset errs
  match s.flt.repairs.find? (fun r => !r.failed && r.granules.any (fun g => decide (r.place (s.entry r.entry) g / 32 = granule))) with
  | none => .next s
  | some r =>
    let x := s.entry r.entry
    match (s.repairSources r)[r.source]? with
    | none => .next (s.giveUp r)
    | some c =>
      if c ≠ source then .next s
      else
        let k := s.candidate r c bytes
        let s := k.2
        let s := match k.1 with
          | none => s
          | some bs => s.memWrite ((r.granules.flatMap (fun g => addrs (r.place x g) 32)).zip bs)
        let s := s.endPeer r
        let given := decide (c ≠ RefetchSource.host ∨ k.1.isSome) && (decide (c ≠ RefetchSource.mirror) || k.1.isSome)
        if given && s.extentGood r then .next ((if r.mirror then s else s.inc (refetchCtr c) 1).swapRepair r none)
        else
          let q := { r with source := r.source + 1 }
          if q.source < (s.repairSources r).length then .next ((s.swapRepair r (some q)).askPeer q)
          else .next (s.giveUp r)

/-! ### Chip faults (R511) -/

/-- The chip enters HALTED, restarts, or stays in reset after a chip fault. -/
def State.afterChipFault (auto_ third : Bool) (s : State) : State :=
  let s := { s with flt := { s.flt with chipFaultStart := true } }
  if !auto_ then { s with boot := { s.boot with state := .inReset } }
  else if third then s.halt 4
  else s.powerOn s.boot.kind 4

/-- A chip fault: the tick breaks, and the chip is reset with what a warm reset keeps. -/
def State.chipFault (cause : Nat) (s : State) : State :=
  if !s.powered || decide (s.boot.state = BootState.halted) then s
  else
    let auto_ := s.regb 0x0B000C 31
    let s := (s.fault 9 cause 0xFF).breakTick .powerOrReset
    let recent := s.time :: s.flt.chipFaults.filter (fun x => decide (s.time < x + 3600000000000))
    let s := { s with flt := { s.flt with chipFaults := recent }, boot := s.boot.out 0 s.time }
    let k := if s.boot.state = BootState.ready ∨ s.boot.kind = ResetKind.warm then ResetKind.warm else ResetKind.cold
    let s := s.wipe k
    { s with boot := { s.boot with kind := k } }.afterChipFault auto_ (decide (3 ≤ recent.length))

/-- CHIP_FAULT. -/
def execChipFault (t : Nat) (cause : BitVec 8) (s : State) : Host.Outcome State Fault Refusal :=
  .next ((s.at t).chipFault cause.toNat)

/-- The router that three flit errors within one hour are held against (R511). -/
def State.badRouter? (s : State) : Option Nat :=
  ((s.flt.flitErrors.filter (fun e => decide (s.time < e.2 + 3600000000000))).map (·.1)).find? (fun r =>
    decide (3 ≤ s.flt.flitErrors.countP (fun e => decide (e.1 = r ∧ s.time < e.2 + 3600000000000))))

/-- Three flit errors held against one router within one hour are a chip fault, which those errors then no longer make. -/
def State.routerCheck (s : State) : State := match s.badRouter? with
  | none => s
  | some r => { s with flt := { s.flt with flitErrors := s.flt.flitErrors.filter (fun e => decide (e.1 ≠ r)) } }.chipFault 0

/-- STREAM_GRANULE_LANDED. -/
def execStreamGranuleLanded (l : Fin 128) (cyc : Nat) (slot : Fin 8) (idx : Nat) (errs : MemErrs) (deck : DeckUse)
    (badRouter : Option (Fin 132)) (s : State) : Host.Outcome State Fault Refusal :=
  .next (((((s.toCyc cyc).upset errs).granuleArrives l.val cyc slot.val idx deck badRouter)).routerCheck)

/-! ### The outage count (R519) -/

/-- FLT_OUTAGE: the outage counted, with the part of the one in progress that counts. -/
def State.outageNow (s : State) : Nat := match s.boot.outageFrom with
  | none => s.flt.outageMs + s.stallMs
  | some f => s.flt.outageMs + ((s.time - f) / 1000000 - s.boot.limitMs)

/-! ### FLT_STATUS and FLT_SPAN_CTRL (R520, R522) -/

/-- FLT_STATUS. -/
def State.faultStatus (s : State) : Nat :=
  let basic := (s.job?.map (·.basic)).getD 0
  let service := if basic ≠ 0 then 1 else if s.flt.chipFaultStart then 2 else 0
  fieldAt 30 2 service + fieldAt 27 3 basic + fieldAt 26 1 (bit (s.flt.repairs.any (fun r => !r.failed)))
    + fieldAt 20 6 (32 - s.liveStacks.length) + fieldAt 8 8 (min 255 s.flt.missed) + fieldAt 0 8 s.flt.fenceList.length

/-- FLT_SPAN_CTRL. -/
def State.spanCtrlWord (s : State) : Nat :=
  fieldAt 29 1 (bit s.flt.spanDone) + fieldAt 27 2 s.flt.spanResult + fieldAt 0 8 (s.reg 0x0B0010)

end Sys2Proof.Machine
end

