-- ==== Sys2Proof/Machine/Keystone.lean ====
section
/-! DEFINITION. The keystone (R243 to R246, R226, R241, R242): the gate, the effects of Table 8.6 in their order, the governor
and the next cut. -/

namespace Sys2Proof.Machine
open Sys2Proof

/-! ### Step 1: the request table (R167, R197, R420 to R423) -/

/-- Two counts of Table 6.2 added, saturating. -/
def Quality.plus (a b : Quality) : Quality :=
  { lostRows := min 65535 (a.lostRows + b.lostRows), droppedRoutes := min 255 (a.droppedRoutes + b.droppedRoutes),
    lostEntries := min 65535 (a.lostEntries + b.lostEntries), widenRefused := a.widenRefused || b.widenRefused }

/-- What a committed slot makes of its request. -/
def Request.commit (q : Request) (x : Slot) (drafting fixed late : Bool) : Request :=
  let n := x.tokens.length
  let q := { q with quality := q.quality.plus x.quality, since := q.since.plus x.quality }
  let q := if n = 0 then q
    else { q with generated := q.generated + n, pending := x.tokens.getLast?, since := Quality.zero,
                  lateSeen := q.lateSeen || late, fixedSeen := q.fixedSeen || fixed }
  let q := { q with ending := if q.ending.isSome then q.ending else x.stopped,
                    stop := if x.done then { q.stop with states := x.stopStates } else q.stop }
  if x.sits then q
  else match q.state with
    | .prefill =>
      { q with committed := x.pre + x.preLen, fbLen := x.pre + x.preLen, state := if n = 0 then .prefill else .decode }
    | .footbridge =>
      if x.positions = [] ∧ x.fbSteps = 0 then
        { q with fbLen := x.pre + x.preLen, committed := max q.committed (x.pre + x.preLen) }
      else { q with committed := q.committed + n, fbLen := q.committed + n }
    | .decode =>
      { q with committed := q.committed + n,
               fbLen := if drafting then min (q.committed + x.drafts) (q.committed + n) else q.fbLen }
    | _ => q

/-- A token record that the keystone writes, before its MARK. -/
structure TokenOut where
  port : Nat
  partition : Nat
  addr : Nat
  token : Nat
  flags : Nat
  quality : Quality
deriving DecidableEq, Repr

/-- The token records of a slot (Table 12.11); the first carries the quality counts since the last record. -/
def Request.tokenOuts (q : Request) (x : Slot) (falsework fixed late : Bool) : List TokenOut :=
  let n := x.tokens.length
  let a := acceptedDrafts (x.draftTokens.take x.drafts) x.mainTokens
  let since := q.since.plus x.quality
  x.tokens.zipIdx.map (fun e =>
    let y := if e.2 = 0 then since else Quality.zero
    let drafted := decide (q.state = .decode ∧ e.2 < a)
    { port := q.port, partition := q.partition, addr := q.streamAddr + 16 * (q.generated + e.2 - q.streamBase), token := e.1, quality := y,
      flags := bit late + 2 * bit (decide (q.state = .footbridge)) + 4 * bit falsework + 8 * bit y.widenRefused + 16 * bit drafted
        + 32 * bit (x.stopped.isSome && decide (e.2 + 1 = n)) + 64 * bit fixed })

/-- The 16 bytes of a token record. -/
def TokenOut.bytes (x : TokenOut) (mark : Nat) : List Byte :=
  natToBytes 4 x.token ++ natToBytes 4 mark ++ natToBytes 2 x.quality.lostRows ++ natToBytes 1 x.quality.droppedRoutes
    ++ natToBytes 1 x.flags ++ natToBytes 2 x.quality.lostEntries ++ natToBytes 2 0

/-- Bytes of one position in the cache layers of the main model, or of the footbridge. -/
def State.posBytes (s : State) (fb : Bool) : Nat :=
  let cls := (s.bitstream?.bind (·.footbridge)).map (·.cls)
  ((s.kvClasses.filter (fun c => decide (some c.cls = cls) == fb)).map (fun c => 2 * c.nKv * c.headBytes * c.layers)).sum

/-- Speculative bytes of a slot that stay uncommitted (R168). -/
def State.specWaste (s : State) (q : Request) (x : Slot) : Nat :=
  if q.state ≠ .decode ∨ x.sits then 0
  else (x.drafts + 1 - max 1 x.tokens.length) * s.posBytes false + (x.drafts - x.tokens.length) * s.posBytes true

/-- One slot at the keystone: its request, its counters, its records, and the ACCEPTED event when its first token commits. -/
def State.commitSlot (x : Slot) (s : State) : State × List TokenOut × List KeyRec := match kfind? s.requests x.handle with
  | none => (s, [], [])
  | some q =>
    let late := match q.deadline with
      | none => false
      | some d => decide (d < s.timebase)
    let fw := planFw s.tick.plan
    let n := x.tokens.length
    let outs := if q.dropped then [] else q.tokenOuts x fw s.fixed late
    let q' := q.commit x (decide (0 < s.headOf (·.draftN))) s.fixed late
    let p := q.partition
    let prompt := if q.pending.isNone then x.preLen else 0
    let s := (((s.winAdd p 0 n).winAdd p 1 prompt).winAdd p 3 (if late then n else 0)).winAdd p 4 x.quality.lostRows
    let s := ((s.winAdd p 5 x.quality.droppedRoutes).winAdd p 6 x.quality.lostEntries).winAdd p 7 (bit x.quality.widenRefused)
    let s := (s.inc 0x060134 (if late then n else 0)).incBytes 0x04011C (s.specWaste q x)
    let s := if q.state = .decode then
        (s.inc 0x030110 x.draftTokens.length).inc 0x030114 (acceptedDrafts (x.draftTokens.take x.drafts) x.mainTokens)
      else s
    let first := decide (n > 0) && !q.accepted && !q.dropped
    let ev : List KeyRec := if first then
        [{ port := q.port, partition := p,
           ev := { type := 1, status := 0, handle := x.handle, arg0 := q.matched,
                   arg1 := if q.seedGiven then 0 else q.sampler.seed.toNat, arg2 := q.stamp } }]
      else []
    let s := s.modReq x.handle (fun _ => { q' with accepted := q.accepted || first })
    let s := match s.job? with
      | none => s
      | some j => if n = 0 ∨ j.counted.contains p ∨ j.mgmt then s
        else ((s.inc (0x031000 + 4 * p) 1).winAdd p 15 1).modJob (fun j => { j with counted := p :: j.counted })
    (s, outs, ev)

/-! ### Steps 2 to 4 -/

/-- Prefix-tree insertions that are due (R165), of the sequences that end at this keystone too. -/
def State.insertDue (s : State) : State :=
  let rs := match s.running with
    | none => []
    | some id => s.jobRequests id
  rs.foldl (fun (s : State) (e : Nat × Request) =>
    let q := e.2
    let sLen := q.shareLen / 16 * 16
    if q.inserted ∨ sLen = 0 ∨ q.ptRows = 0 ∨ q.committed < sLen then s
    else (s.insertPrefix q).modReq e.1 (fun q => { q with inserted := true })) s

/-- Write a keystone event of a handle into its log, with the MARK of the publish; false when it has no log. -/
def State.keyEvent (r : KeyRec) (s : State) : State :=
  let reserved := match kfind? s.handles r.ev.handle with
    | none => false
    | some i => decide (i.reserve > 0)
  let s := { s with handles := kupd s.handles r.ev.handle (fun i => { i with reserve := i.reserve - 1 }) }
  s.writeEvent r.port r.partition r.ev (s.port r.port).mark.toNat reserved

/-- The COMPLETE of a request that ends. -/
def completion (h : Nat) (q : Request) (e : Ending) (sealed : Nat) : KeyRec :=
  { port := q.port, partition := q.partition,
    ev := { type := 3, status := e.reason, handle := h, arg0 := q.generated, arg1 := e.arg1, arg2 := sealed } }

/-- The requests that end at this keystone: those of the batch in slot order, then the others. -/
def State.endingNow (s : State) : List (Nat × Request × Ending) :=
  let inSlots := s.tick.slots.map (·.handle)
  let get (h : Nat) : Option (Nat × Request × Ending) :=
    (kfind? s.requests h).bind (fun q => q.ending.map (fun e => (h, q, e)))
  inSlots.filterMap get ++ (s.requests.map (·.1)).filterMap (fun h => if inSlots.contains h then none else get h)

/-- Step 4: token records, then event records, port by port; the requests that end leave the table. -/
def State.writeRecords (outs : List TokenOut) (accepted : List KeyRec) (s : State) : State × List KeyRec :=
  let ends := s.endingNow
  let told := ends.filter (fun e => !e.2.1.dropped)
  let events := (s.tick.slots.flatMap (fun x =>
      accepted.filter (fun r => r.ev.handle = x.handle)
        ++ (told.filter (fun e => e.1 = x.handle)).map (fun e => completion e.1 e.2.1 e.2.2 s.timebase)))
    ++ (told.filter (fun e => !s.tick.slots.any (fun x => x.handle = e.1))).map (fun e => completion e.1 e.2.1 e.2.2 s.timebase)
    ++ s.tick.keyRecs
  let s := (List.range 4).foldl (fun (s : State) (p : Nat) =>
    let m := (s.port p).mark.toNat
    let s := (outs.filter (fun x => x.port = p)).foldl (fun (s : State) (x : TokenOut) =>
      s.defer (some x.partition) (fun s => s.dma p x.addr (x.bytes m))) s
    (events.filter (fun r => r.port = p)).foldl (fun (s : State) (r : KeyRec) =>
      s.defer (some r.partition) (fun s => s.keyEvent r)) s) s
  let s := ends.foldl (fun (s : State) (e : Nat × Request × Ending) =>
    ((s.winAdd e.2.1.partition 2 1).endHandle e.1).forget e.1) s
  let s := s.tick.keyRecs.foldl (fun (s : State) (r : KeyRec) => if r.ev.type = 4 then s.endHandle r.ev.handle else s) s
  ({ (s.goneHandles) with tick := { s.tick with keyRecs := [] } }, events)

/-! ### Steps 6 and 7 -/

/-- Step 6: what registers and QUERY report becomes current. -/
def State.switchAll (s : State) : State :=
  let s := s.switchWindows.takeGauges.takeInState
  { s with requests := s.requests.map (fun (e : Nat × Request) =>
      (e.1, { e.2 with seen := (e.2.committed, e.2.generated), seenState := e.2.state.code })) }

/-- Step 7 of one port: the marker, then the messages of the logs that received records. -/
def State.publishPort (p tick : Nat) (events : List KeyRec) (s : State) : State :=
  if !s.portOpen p then s
  else
    let m := (s.port p).mark.toNat
    let s := if s.markerAddr p = 0 then s
      else s.defer none (fun s => s.dma p (s.markerAddr p) (natToBytes 4 m ++ natToBytes 4 tick ++ natToBytes 8 s.timebase))
    let parts := (List.range 256).filter (fun k => events.any (fun r => decide (r.port = p ∧ r.partition = k)))
    parts.foldl (fun (s : State) (k : Nat) => match s.log? p k with
      | none => s
      | some g => s.defer (some k) (State.emit (.msix p g.vf g.vector))) s

/-! ### Step 8: rates, governor, next cut -/

/-- ρ of a span that ran attention (R196). -/
def Span.newRate (x : Span) : Span :=
  if x.attCycles = 0 then x
  else { x with rho := (7 * x.rho + min 512 (256 * x.attPlan / x.attCycles)) / 8 }

/-- The width histories of a span take the tick's greatest required widths (R123, R124). -/
def Span.newHist (x : Span) : Span :=
  let hist := x.abt.hist.map (fun (e : Nat × WidthHist) =>
    if e.2.current = 0 then e
    else (e.1, { ticks := e.2.ticks + 1, maxes := (e.2.current :: e.2.maxes).take 16, current := 0 }))
  { x with abt := { x.abt with hist := hist } }

/-- What the governor reads of the tick and of the plan (R242). -/
structure GovIn where
  pin : Option Nat                     -- PIN_US, when PIN is 1 and it is in range
  pinned : Bool
  en : Bool
  least : Nat                          -- the least period of rule 2
  below : Bool                         -- the next INIT would fall below MIN_SLACK
  mayLower : Bool                      -- no raise in the last GOV_WIN ticks
  bad : Bool
  cold : Bool
  calm : Bool                          -- rule 4 applies
  lo : Nat
  hi : Nat
deriving DecidableEq, Repr

/-- The period in force from the next cut (R242). Rule 2's bound overrides PERIOD_MAX; after a raise rules 3 and 4 lower nothing for
GOV_WIN ticks. -/
def govPeriod (x : GovIn) (p : Nat) : Nat :=
  let clamp (q : Nat) : Nat := max x.lo (min x.hi q)
  let keep (q : Nat) : Nat := if q < p ∧ !x.mayLower then p else q
  if x.pinned then (match x.pin with
    | some q => clamp q
    | none => p)
  else if x.below then max x.lo x.least
  else if !x.en || x.cold then p
  else if x.bad then keep (max (clamp (p + p / 16)) x.least)
  else if x.calm then keep (max (clamp (p - p / 64)) x.least)
  else p

/-- Slip k_t of the tick that commits (R239). -/
def State.slip (s : State) : Nat :=
  let k := s.slipNow
  if s.fixed then k else if s.fidelity then min (s.headOf (·.slipMax)) k else 0

/-- The first instant at or after `c` that lies OFFSET_US after a TICK_SYNC edge (R487). -/
def State.alignCut (c : Nat) (s : State) : Nat :=
  match s.via.lastPulse with
  | none => c
  | some e =>
    if !s.regb 0x090044 31 ∨ s.via.refLost then c
    else
      let off := 1000 * min 999 (s.regf 0x090044 0 10)
      let base := (e + off) % 1000000
      c + ((1000000 + base - c % 1000000) % 1000000)

/-- The governor at the keystone of a tick of slip `k` whose cut was delayed or not. -/
def State.govern (k : Nat) (overran : Bool) (s : State) : State :=
  let period := s.gov.period
  let done := (s.job?.map (·.committedTicks)).getD 0
  let init := s.tick.init
  let g : GovTick := { overran := overran, slipped := decide (k > 0), refused := s.tick.refused,
                       quiet := decide ((4 * s.tick.h : Int) ≤ init), capped := s.pwr.forPower || s.pwr.throttled || s.tick.capped }
  let hist := (g :: s.gov.history).take 64
  let win := s.headOf (·.govWin)
  let recent := hist.take win
  let planCyc := s.headOf (·.planCyc)
  let minSlack := s.headOf (·.minSlack)
  let n := s.pwr.n
  let pin := s.regf 0x060014 0 18
  let bad := g.overran || g.slipped || g.refused
  let x : GovIn :=
    { pinned := s.regb 0x060014 29, pin := if 2000 ≤ pin ∧ pin ≤ 250000 then some pin else none, en := s.regb 0x060014 31,
      least := cdiv (planCyc + minSlack) (25 * n), mayLower := decide (win ≤ s.gov.sinceRaise + 1), below := decide (initLedger period n planCyc < minSlack), bad := bad,
      cold := decide (done < s.headOf (·.govCold)),
      calm := decide (win ≤ done ∧ win ≤ recent.length)
        && recent.all (fun y => !y.overran && !y.slipped && !y.refused && y.quiet && !y.capped),
      lo := s.headOf (·.periodMin), hi := s.headOf (·.periodMax) }
  let new := govPeriod x period
  let s := if new > period then s.inc 0x060138 1 else if new < period then s.inc 0x06013C 1 else s
  { s with gov := { s.gov with period := new, history := hist, sinceRaise := if new > period then 0 else s.gov.sinceRaise + 1 } }

/-- The ticks in a row with less than 50 µs between the publish and the next cut, by stack (R359). -/
def State.countShort (short : Bool) (s : State) : State :=
  { s with mem := { s.mem with stk := s.mem.stk.foldl (fun (m : List (Nat × Stack)) (e : Nat × Stack) =>
      kset Stack.cold m e.1 { e.2 with shortCuts := if short then e.2.shortCuts + 1 else 0 }) [] } }

/-- Step 8 after a publish that ended at `e`. -/
def State.afterPublish (e : Nat) (s : State) : State :=
  let s := { s with spans := s.spans.foldl (fun m (x : Nat × Span) => kset Span.idle m x.1 x.2.newRate.newHist) [] }
  let k := s.slip
  let due := s.tick.start + 1000 * s.tick.period + 1000 * k * s.headOf (·.quantum)
  let overran := decide (e > due)
  let s := if k > 0 then (s.inc 0x060110 1).inc 0x060114 k else s
  let s := if overran then s.inc 0x06010C 1 else s
  let s := s.govern k overran
  let next := s.alignCut (max due e)
  let goes := match s.running, s.job? with
    | some id, some j => s.demand id j || s.pair
    | _, _ => false
  let s := { s with gov := { s.gov with nextCut := if goes then some next else none } }
  let s := s.countShort (goes && decide (next < e + 50000))
  let s := if goes then s else s.settle []
  s.dispatch true

/-! ### KEYSTONE_SEAL -/

/-- Whether the trestle unit has done and checked all of the tick's work (R201). -/
def State.trestleDone (s : State) : Bool := match s.plan? with
  | none => true
  | some p => !p.hasTrestle || ((p.recordFrom 5 s.trs.nextRec).isNone && decide (s.trs.readyAt ≤ s.cycNow))

/-- Whether the gate passes (R243). -/
def State.gatePasses (s : State) : Bool :=
  s.inTick && decide (s.tick.phase = 5) && s.tick.broken.isNone && s.trestleDone
    && decide (s.tick.writesOpen = 0) && s.binding.all (fun e => (s.span e.2).streamsDone)
    && (!s.pair || decide (s.partnerDigest? = some s.tickDigest))

/-- Steps 1 to 4 of Table 8.6: the records that the publish will cover. -/
def State.keySteps (s : State) : State × List KeyRec :=
  let r := s.tick.slots.foldl (fun (acc : State × List TokenOut × List KeyRec) (x : Slot) =>
    let y := acc.1.commitSlot x
    (y.1, acc.2.1 ++ y.2.1, acc.2.2 ++ y.2.2)) (s, [], [])
  let w := (r.1.insertDue.enterAllHo).writeRecords r.2.1 r.2.2
  (w.1.releaseOrphans, w.2)

/-- Steps 5 and 6: counters, TICK_NUMBER, TICK_LAST, and what registers report. `e` is the end of the publish. -/
def State.keySwitch (e : Nat) (s : State) : State :=
  let basic := (s.job?.map (fun j => decide (j.basic ≠ 0))).getD false
  let s := (s.inc 0x060100 1).inc 0x020520 (bit (planFw s.tick.plan))
  let s := s.inc 0x0B014C (bit basic)
  let s := s.modJob (fun j => { j with tick := j.tick + 1, committedTicks := j.committedTicks + 1,
                                       basicTicks := if j.basic ≠ 0 then j.basicTicks + 1 else j.basicTicks, remoteWait := false })
  let sealAt := s.timebase
  let s := s.switchAll.resample
  { s with
    gov := { s.gov with
      lastTick := BitVec.ofNat 32 (fieldAt 16 16 (min 65535 s.tick.widenRef) + min 65535 ((e - s.time) / 1000))
      lastSeal := some sealAt
      heldFrom := if s.liveRequests.any (fun e => e.2.state.inBatch) then some s.time else none }
    tick := { s.tick with runs := 0 }
    flt := { s.flt with missed := 0, hungAt := none } }

/-- The seal: every open port's MARK rises, and the publish begins, which ends at `e`. -/
def State.sealTick (e : Nat) (s : State) : State :=
  let s := { s with tick := { s.tick with sealed := true } }
  let s := (List.range 4).foldl (fun (s : State) (p : Nat) =>
    if s.portOpen p then s.modPort p (fun x => { x with mark := x.mark + 1 }) else s) s
  { s with pub := some { endAt := e, status := s.runStatus, items := [] } }

/-- The keystone: the seal at time `t` and the effects of Table 8.6; the publish ends at `publishEnd`, and what goes to the host
ports goes out as it ends. A gate that does not pass leaves the tick unsealed. -/
def execKeystoneSeal (t publishEnd : Nat) (s : State) : Host.Outcome State Fault Refusal :=
  let s := (s.at t).settled
  if !s.gatePasses then .next s
  else
    let e := max s.time publishEnd
    let tick := s.tickNumber
    let s := ((if s.pair then s.inc 0x090224 1 else s).countStall none)
    let w := (s.sealTick e).keySteps
    let s := w.1.keySwitch e
    let s := if s.phaseOver then s.endTick else s
    let s := (List.range 4).foldl (fun (s : State) (p : Nat) => s.publishPort p tick w.2) s
    .next ((s.defer none (fun s => s.ageAll.ageHo.afterPublish e)).at t)

end Sys2Proof.Machine
end

