-- ==== Sys2Proof/Machine/Sec.lean ====
section
/-! DEFINITION. The root of trust (chapter 19): quotes and the LMS state, unsealing and resealing, keys and revocation, the
debug window. -/

namespace Sys2Proof.Machine
open Sys2Proof

/-! ### What identifies the module (R5, R530, R603) -/

/-- Stepping and grade, as DEV_IDENT and DEV_REPRO_CLASS hold them. -/
def Fuses.stepWord (f : Fuses) : Nat := fieldAt 12 4 f.stepLetter.toNat + fieldAt 8 4 f.stepNumber.toNat + fieldAt 6 2 f.grade.toNat

/-- DEV_IDENT. -/
def State.identWord (s : State) : Nat := fieldAt 16 16 0x4800 + s.fuses.stepWord

/-- ROM_REV of the log-addition and antilog tables (R107). -/
def romRev : Nat := 1

/-- DEV_REPRO_CLASS. -/
def State.reproWord (s : State) : Nat := fieldAt 24 8 s.fuses.reproClass + fieldAt 16 8 romRev + s.fuses.stepWord

/-- SEC_STATE. -/
def State.secWord (s : State) : Nat :=
  fieldAt 31 1 (bit (!s.sec.isOpen)) + fieldAt 30 1 (bit s.sec.debugUsed) + fieldAt 28 2 s.flash.firmware.rootPair
    + fieldAt 24 4 s.fuses.revoked.toNat + fieldAt 18 6 s.fuses.minSvn + fieldAt 14 4 s.flash.operators.length

/-! ### SEC_CTRL (R604) -/

/-- Whether a quote is being written. -/
def State.secBusy (s : State) : Bool := match s.sec.busyUntil with
  | none => false
  | some e => decide (s.time < e)

/-- SEC_CTRL. -/
def State.secCtrlWord (s : State) : Nat :=
  fieldAt 27 1 (bit s.secBusy) + fieldAt 26 1 (bit (s.sec.done && !s.secBusy)) + fieldAt 24 2 s.sec.result + fieldAt 22 2 s.sec.root

/-- An action has ended with a result. -/
def State.secDone (result : Nat) (s : State) : State :=
  { s with sec := { s.sec with done := true, result := result } }.noteSet (w1c 0x0C0004 26)

/-- What every write to SEC_CTRL does beside its action: ROOT is set, and a 1 clears DONE. -/
def State.secFields (value : Word) (s : State) : State :=
  let clears := value.getLsbD 26 && !s.secBusy && s.mayClear (w1c 0x0C0004 26) && decide (s.sec.busyUntil ≠ some s.time)
  { s with sec := { s.sec with root := bitsAt value.toNat 22 2, done := s.sec.done && !clears } }

/-- An action of SEC_CTRL written by a requester. -/
def State.secAction (t : Nat) (who : Requester) (value : Word) (act : State → State) (s : State) : State :=
  s.asMgmt t who (fun s => act (s.secFields value))

/-- SEC_DMA_ADDR, bits [11:0] ignored. -/
def State.secAddr (s : State) : Nat := 4096 * (s.reg 0x0C0010 / 4096) + 2 ^ 32 * s.reg 0x0C0014

/-- A DMA write of the root of trust, on the PF that issued the action. -/
def State.secDma (who : Requester) (bytes : List Byte) (s : State) : State := match who with
  | .pf p => s.dma p.val s.secAddr bytes
  | _ => s

/-! ### Quotes (R596, R597) -/

/-- RESERVED_TOP: of two copies that differ, the larger. -/
def State.reservedTop (s : State) : Nat := max s.flash.reservedTopA s.flash.reservedTopB

/-- The next HSS index: SEC_LMS_NEXT. -/
def State.lmsIndex (s : State) : Nat := if s.sec.lmsTop.isNone then s.reservedTop else s.sec.lmsNext

/-- Take the next HSS index; a new block of 1,024 is reserved in both copies before the first signature after a start and
whenever the block is used up. None when that block would pass 2^40. -/
def State.takeIndex (s : State) : Option (Nat × State) :=
  let new := match s.sec.lmsTop with
    | none => true
    | some e => decide (e ≤ s.sec.lmsNext)
  if !new then some (s.sec.lmsNext, { s with sec := { s.sec with lmsNext := s.sec.lmsNext + 1 } })
  else
    let old := s.reservedTop
    if old + 1024 > 2 ^ 40 then none
    else some (old, { s with flash := { s.flash with reservedTopA := old + 1024, reservedTopB := old + 1024 },
                             sec := { s.sec with lmsNext := old + 1, lmsTop := some (old + 1024) } })

/-- Bytes 0 to 447 of a quote (Table 19.4). -/
def State.quoteBody (s : State) (nonce : List Byte) (idx : Nat) : List Byte :=
  natToBytes 4 0x51415958 ++ natToBytes 4 4160 ++ natToBytes 8 s.timebase ++ byteSlice nonce 0 48
    ++ digestBytes (sha384 Config.devicePublic) ++ natToBytes 4 s.identWord ++ natToBytes 4 s.reproWord
    ++ natToBytes 4 (fieldAt 0 8 s.fuses.minSvn + fieldAt 8 8 s.flash.firmware.svn) ++ natToBytes 4 s.secWord
    ++ natToBytes 4 s.flash.unsealCount.toNat ++ natToBytes 4 s.sec.logCount ++ natToBytes 8 idx
    ++ (List.range 6).flatMap (fun i => digestBytes (s.slot i)) ++ natToBytes 16 0

/-- A quote over a nonce, 4,160 bytes with its signature block; none when the HSS key is used up. -/
def State.makeQuote (nonce : List Byte) (s : State) : Option (List Byte × State) := match s.takeIndex with
  | none => none
  | some (idx, s') =>
    let body := s'.quoteBody nonce idx
    let d := sha384 body
    let key := natToBytes 4 (fieldAt 24 8 0x20 + Config.deviceKey.toNat)
    some (body ++ key ++ key ++ byteSlice (Config.deviceEcdsa d) 0 96 ++ natToBytes 4 3604 ++ byteSlice (Config.deviceHss idx d) 0 3604, s')

/-- SEC_NONCE. -/
def State.nonce (s : State) : List Byte := (List.range 12).flatMap (fun w => natToBytes 4 (s.reg (0x0C0020 + 4 * w)))

/-- The time that writing a quote takes, at most 20 ms: free. -/
def quoteTime (n : Nat) : Nat := Config.free n % 20000001

/-- A quote for the host: refused while another is being written. -/
def State.hostQuote (who : Requester) (s : State) : State :=
  if s.secBusy then s.secDone 3
  else match s.makeQuote s.nonce with
    | none => s.secDone 2
    | some (q, s') =>
      let d := s'.draw
      let s := (d.2.secDma who q).secDone 0
      { s with sec := { s.sec with busyUntil := some (s.time + quoteTime d.1) } }

/-- SEC_QUOTE: ACTION 1. -/
def execSecQuote (t : Nat) (who : Requester) (value : Word) (s : State) : Host.Outcome State Fault Refusal :=
  .next (s.secAction t who value (State.hostQuote who))

/-! ### Sealing (R598 to R600) -/

/-- M4 takes an unseal (true) or a reseal. -/
def State.extendSeal (opened : Bool) (s : State) : State :=
  s.extend 4 (sha384 (Config.sealEvent opened ++ natToBytes 4 s.flash.unsealCount.toNat))

/-- A reseal, at once. -/
def State.reseal (s : State) : State := ({ s with sec := { s.sec with isOpen := false } }.extendSeal false).secDone 0

/-- SEC_RESEAL: ACTION 2. -/
def execSecReseal (t : Nat) (who : Requester) (value : Word) (s : State) : Host.Outcome State Fault Refusal :=
  .next (s.secAction t who value State.reseal)

/-- Whether a signature block over SEC_CHALLENGE opens the module: by one enrolled operator pair, or, with none enrolled, by
an Ouvey content pair. -/
def State.challengeOk (s : State) (block : List Byte) : Bool :=
  if s.flash.operators.isEmpty then
    blockOk (fun id => decide (keyClass id = 3)) s.flash.firmware.keys s.sec.challenge block
  else blockOk (fun id => decide (keyClass id = 0x10)) s.flash.operators s.sec.challenge block

/-- An attempt to unseal the module with a signature block: the challenge changes, whatever comes of it. Before the seal
opens, UNSEAL_COUNT rises in flash and M4 is extended. -/
def State.tryOpen (block : List Byte) (s : State) : Bool × State :=
  let ok := s.challengeOk block
  let d := s.draw
  let s := d.2
  let s := { s with sec := { s.sec with challenge := Config.challenge d.1 } }
  if !ok then (false, s)
  else
    let s := { s with flash := { s.flash with unsealCount := s.flash.unsealCount + 1 } }.extendSeal true
    (true, { s with sec := { s.sec with isOpen := true } })

/-! ### MIN_SVN and root pairs (R587, R592) -/

/-- MIN_SVN is raised to the running image's security version, when that is higher. -/
def State.raiseSvn (s : State) : State :=
  let v := min 63 s.flash.firmware.svn
  if v ≤ s.fuses.minSvn then s.secDone 3 else { s with fuses := { s.fuses with minSvn := v } }.secDone 0

/-- SEC_RAISE_MIN_SVN: ACTION 3. -/
def execSecRaiseMinSvn (t : Nat) (who : Requester) (value : Word) (s : State) : Host.Outcome State Fault Refusal :=
  .next (s.secAction t who value State.raiseSvn)

/-- The revocation of pair ROOT is fused, unless it would leave no pair or names the pair of the running manifest. -/
def State.revokeRoot (s : State) : State :=
  let mask := s.fuses.revoked ||| BitVec.ofNat 4 (2 ^ s.sec.root)
  if mask = 0xF#4 ∨ s.sec.root = s.flash.firmware.rootPair then s.secDone 3
  else ({ s with fuses := { s.fuses with revoked := mask } }.measureKeys).secDone 0

/-- SEC_REVOKE_ROOT: ACTION 4. -/
def execSecRevokeRoot (t : Nat) (who : Requester) (value : Word) (s : State) : Host.Outcome State Fault Refusal :=
  .next (s.secAction t who value State.revokeRoot)

/-! ### Certificates and the measurement log (R595) -/

/-- The measurement log as bytes, oldest first: the event type and the event digest of each extension. -/
def Sec.logBytes (x : Sec) : List Byte := x.log.reverse.flatMap (fun e => natToBytes 4 e.1 ++ digestBytes e.2)

/-- SEC_CERTIFICATES: ACTION 5. -/
def execSecCertificates (t : Nat) (who : Requester) (value : Word) (s : State) : Host.Outcome State Fault Refusal :=
  .next (s.secAction t who value (fun s => (s.secDma who (s.flash.certs ++ s.sec.logBytes)).secDone 0))

/-! ### Operator keys (R589) -/

/-- The key pair in an enrolment record of 2,048 bytes: identifier, ECDSA P-384 key, HSS key. -/
def pairOfRecord (bs : List Byte) : KeyPair :=
  { id := BitVec.ofNat 32 (leAt bs 0 4), ecdsa := byteSlice bs 4 96, hss := byteSlice bs 100 60 }

/-- An enrolment from the record fetched from SEC_DMA_ADDR. -/
def State.enrol (record : Option (List Byte)) (s : State) : State :=
  if !s.sec.isOpen then s.secDone 3
  else match record with
    | none => s.secDone 1
    | some bs =>
      let k := pairOfRecord bs
      if bs.length ≠ 2048 then s.secDone 1
      else if keyClass k.id ≠ 0x10 ∨ s.flash.operators.any (fun q => decide (q.id = k.id)) ∨ 8 ≤ s.flash.operators.length then
        s.secDone 3
      else ({ s with flash := { s.flash with operators := s.flash.operators ++ [k] } }.measureKeys).secDone 0

/-- SEC_ENROL: ACTION 6; `record` is what the fetch brought, none when it failed. -/
def execSecEnrol (t : Nat) (who : Requester) (value : Word) (record : Option (List Byte)) (s : State) :
    Host.Outcome State Fault Refusal := .next (s.secAction t who value (State.enrol record))

/-- A removal of the pair that SEC_ARG names. -/
def State.removeKey (s : State) : State :=
  let id := s.regw 0x0C0008
  if !s.sec.isOpen || !s.flash.operators.any (fun k => decide (k.id = id)) then s.secDone 3
  else ({ s with flash := { s.flash with operators := s.flash.operators.filter (fun k => decide (k.id ≠ id)) } }.measureKeys).secDone 0

/-- SEC_REMOVE_KEY: ACTION 7. -/
def execSecRemoveKey (t : Nat) (who : Requester) (value : Word) (s : State) : Host.Outcome State Fault Refusal :=
  .next (s.secAction t who value State.removeKey)

/-- A write to SEC_CTRL by its ACTION; ACTION 6 without a record is a fetch that failed. -/
def State.writeSecCtrl (who : Requester) (value : Word) (s : State) : State :=
  let s := s.secFields value
  match bitsAt value.toNat 28 4 with
  | 1 => s.hostQuote who
  | 2 => s.reseal
  | 3 => s.raiseSvn
  | 4 => s.revokeRoot
  | 5 => (s.secDma who (s.flash.certs ++ s.sec.logBytes)).secDone 0
  | 6 => s.enrol none
  | 7 => s.removeKey
  | _ => s

/-! ### The debug window (R601) -/

/-- The granules of each unit of the debug window. -/
def dbgRange : Nat → Nat
  | 0 => 131072
  | 1 => 8192
  | 2 => 24576
  | 3 => 262144
  | 4 => 2 ^ 35
  | _ => 0

/-- A granule of an accumulator buffer: half `i mod 2` of line `i div 2`. -/
def Span.accGranule (x : Span) (i : Nat) : BitVec 256 :=
  let l := kget Line.zero x.lines (i / 2)
  BitVec.ofNat 256 (bytesToNat (((l.acc.drop (8 * (i % 2))).take 8).flatMap (fun a => natToBytes 4 a.toNat)))

/-- A granule of the tile buffers. -/
def Span.tileGranule (x : Span) (i : Nat) : BitVec 256 :=
  let tiles := match kfind? x.cells.bufs (i / 32 % 2) with
    | none => []
    | some b => (kget [] b.tiles (i / 64))
  let pos := if tiles.isEmpty then TileMask.zero.pos else tiles.flatMap (·.pos)
  let neg := if tiles.isEmpty then TileMask.zero.neg else tiles.flatMap (·.neg)
  Config.tileGranule pos neg (i % 32)

/-- The granule that a debug read gives, and the state after the read. -/
def State.dbgGranule (unit p i : Nat) (s : State) : List Byte × State := match unit with
  | 0 => (natToBytes 32 ((s.span p).granule i).toNat, s.modSpan p (fun x => (x.readG [i]).2))
  | 1 => (natToBytes 32 ((s.span p).accGranule i).toNat, s)
  | 2 => (natToBytes 32 ((s.span p).tileGranule i).toNat, s)
  | 3 => (natToBytes 32 (s.trs.granule i).toNat, s)
  | _ => s.readBytes (addrs (32 * i) 32)

/-- A write to SEC_DBG_ADDR_LO: it takes the read. Sealed, it reads nothing; a FENCED span, a reserved unit and an index out
of range are refused. -/
def State.debugRead (value : Word) (s : State) : State :=
  let s := s.settled.setReg 0x0C0244 value
  let unit := s.regf 0x0C0240 28 4
  let p := s.regf 0x0C0240 20 8
  let i := s.reg 0x0C0244 + 2 ^ 32 * s.regf 0x0C0248 0 8
  let spanOk := decide (2 < unit) || decide (p < 132 ∧ (s.mapEntry p).status ≠ SpanStatus.fenced ∧ (s.mapEntry p).status ≠ SpanStatus.fusedOff)
  if !s.sec.isOpen then { s with sec := { s.sec with dbgResult := 1 } }
  else if dbgRange unit ≤ i || !spanOk then { s with sec := { s.sec with dbgResult := 2 } }
  else
    let r := s.dbgGranule unit p i
    { r.2 with sec := { r.2.sec with debugUsed := true, dbgResult := 0, dbgData := r.1 } }

/-- DEBUG_READ: a write to SEC_DBG_ADDR_LO. -/
def execDebugRead (t : Nat) (who : Requester) (value : Word) (s : State) : Host.Outcome State Fault Refusal :=
  .next (s.asMgmt t who (State.debugRead value))

end Sys2Proof.Machine
end

