-- ==== Sys2Proof/Machine/TraceRing.lean ====
section
/-! DEFINITION. Trace buffers as software drives them (R554 to R559): arming, the trigger point, the drain; snapshots as
software asks for them and as they are written (R560). -/

namespace Sys2Proof.Machine
open Sys2Proof

/-! ### Arming (R556) -/

/-- A write to SPN_TRACE_CTRL of a buffer: writing ARM, 1 or 0, ends a window and a freeze, and writing EN 1 ends the keeping of
records from before a warm reset. -/
def Trace.write (value : Word) (t : Trace) : Trace :=
  let fresh := t.kept && value.getLsbD 31
  { t with records := if fresh then [] else t.records, kept := t.kept && !fresh, ctrl := value &&& 0xDFFFFFFF#32, triggered := false, frozen := false, postLeft := none }

/-- A write to SPN_TRACE_CTRL of a logical span's window: ignored when the span is not bound (R14). -/
def State.writeTraceCtrl (l : Nat) (value : Word) (s : State) : State := match s.phys? l with
  | none => s
  | some p => s.modSpan p (fun x => { x with trace := x.trace.write value })

/-- TRACE_ARM: a write to SPN_TRACE_CTRL. -/
def execTraceArm (t : Nat) (who : Requester) (l : Fin 128) (value : Word) (s : State) : Host.Outcome State Fault Refusal :=
  .next (s.asMgmt t who (State.writeTraceCtrl l.val value))

/-! ### The trigger (R556, R558) -/

/-- A write to OBS_TRIG: FIRED is cleared by a 1, and FIRE fires the trigger unless FIRED was 1. -/
def State.writeTrig (value : Word) (s : State) : State :=
  let fired := s.regb 0x0A0034 30
  let keep := if fired && !(value.getLsbD 30 && s.mayClear (w1c 0x0A0034 30)) then 0x40000000#32 else 0#32
  let s := s.setReg 0x0A0034 ((value &&& 0x3E00FFFF#32) ||| keep)
  if value.getLsbD 31 && !fired then s.fireTrigger 0 else s

/-- TRIGGER_FIRE: a write to OBS_TRIG. -/
def execTriggerFire (t : Nat) (who : Requester) (value : Word) (s : State) : Host.Outcome State Fault Refusal :=
  .next (s.asMgmt t who (State.writeTrig value))

/-- The trigger point of a span: the newest PRE records, the TRIGGER record and the next POST records are the window. -/
def Span.triggerPoint (now tick l p cause firedAt : Nat) (x : Span) : Span :=
  let t := x.trace
  let n := t.records.length - t.pre
  let marked := t.records.take n ++ (t.records.drop n).map (fun r => { r with win := true })
  let x := { x with trace := { t with records := marked, postLeft := some 4096 } }
  let x := x.trace_ now tick l p 6 ([BitVec.ofNat 8 cause] ++ natToBytes 3 0 ++ natToBytes 8 firedAt)
  { x with trace := { x.trace with triggered := true, postLeft := some t.post } }

/-- TRIGGER_POINT: every armed span that has not triggered takes its trigger point. -/
def execTriggerPoint (t : Nat) (s : State) : Host.Outcome State Fault Refusal :=
  let s := s.at t
  match s.obs.trigger with
  | none => .next s
  | some (firedAt, cause) =>
    let s := { s with obs := { s.obs with trigger := none } }
    .next (s.binding.foldl (fun (s : State) (b : Nat × Nat) =>
      if s.armed b.1 && !(s.span b.2).trace.triggered then
        s.modSpan b.2 (Span.triggerPoint s.timebase s.tickNumber b.1 b.2 cause firedAt)
      else s) s)

/-! ### The drain (R559) -/

/-- How many of its oldest records a buffer gives to the drain (R555). -/
def Trace.drainable (t : Trace) : Nat := if t.en && t.arm && !t.triggered then t.records.length - t.pre else t.records.length

/-- A span's turn in the drain: its logical number, and after those the spans that are not bound. -/
def State.turnOf (s : State) (p : Nat) : Nat := ((s.binding.find? (fun b => decide (b.2 = p))).map (·.1)).getD (128 + p)

/-- The spans that hold a record to drain: turn, physical span and the record's place. Window records come first, in
ascending time; then one record from each span in turn. -/
def State.nextRecord (s : State) : Option (Nat × Nat × Nat × Bool) :=
  let held := s.spans.filter (fun e => decide (0 < e.2.trace.drainable))
  let wins := held.filterMap (fun (e : Nat × Span) =>
    let t := e.2.trace
    let i : Nat := t.records.findIdx (·.win)
    if i < t.drainable then some (((t.records[i]?).map (·.time)).getD 0, s.turnOf e.1, e.1, i) else none)
  let first := wins.foldl (fun (b : Option (Nat × Nat × Nat × Nat)) w => match b with
    | none => some w
    | some v => if w.1 < v.1 ∨ (w.1 = v.1 ∧ w.2.1 < v.2.1) then some w else some v) none
  match first with
  | some (_, turn, p, i) => some (turn, p, i, true)
  | none =>
    let turns := held.map (fun e => (s.turnOf e.1, e.1))
    let least (l : List (Nat × Nat)) : Option (Nat × Nat) := l.foldl (fun (b : Option (Nat × Nat)) w => match b with
      | none => some w
      | some v => if w.1 < v.1 then some w else some v) none
    let pick := match least (turns.filter (fun w => decide (s.obs.nextSpan ≤ w.1))) with
      | some w => some w
      | none => least turns
    pick.map (fun w => (w.1, w.2, 0, false))

/-- The ring's size in records. -/
def State.ringSize? (s : State) : Nat :=
  let l := s.regf 0x0A0020 24 5
  2 ^ (if 8 ≤ l ∧ l ≤ 20 then l else 20)

/-- Whether the ring is full: TAIL − HEAD equals its size. -/
def State.ringFull (s : State) : Bool := decide ((s.obs.tail - s.regw 0x0A002C).toNat = s.ringSize?)

/-- Drain one record into slot TAIL, when the drain is on, its port takes writes and the ring has room. -/
def State.drainOne (s : State) : State :=
  let port := s.regf 0x0A0020 29 2
  if !s.regb 0x0A0020 31 || s.ringFull || !s.portOpen port then s
  else match s.nextRecord with
    | none => s
    | some (turn, p, i, win) => match (s.span p).trace.records[i]? with
      | none => s
      | some r =>
        let tail := s.obs.tail.toNat
        let flags := fieldAt 15 1 (if tail / s.ringSize? % 2 = 0 then 1 else 0) + fieldAt 8 1 (bit r.win)
        let addr := 4096 * (s.reg 0x0A0024 / 4096) + 2 ^ 32 * s.reg 0x0A0028 + 32 * (tail % s.ringSize?)
        let s := s.dma port addr (natToBytes 32 (r.bits.toNat + flags))
        let s := s.modSpan p (fun x => { x with trace := { x.trace with records := x.trace.records.eraseIdx i } })
        { s with obs := { s.obs with tail := s.obs.tail + 1, nextSpan := if win then s.obs.nextSpan else turn + 1 } }

/-- Drain up to `n` records. -/
def State.drainTrace : Nat → State → State
  | 0, s => s
  | n + 1, s => State.drainTrace n s.drainOne

/-- TRACE_DRAIN: the device drains up to `n` records, as the rate allows. -/
def execTraceDrain (t : Nat) (n : Nat) (s : State) : Host.Outcome State Fault Refusal := .next ((s.at t).drainTrace n)

/-! ### Snapshots (R560) -/

/-- A write to OBS_SNAP_CTRL: a write of TAKE takes a snapshot. -/
def State.writeSnapCtrl (value : Word) (s : State) : State :=
  let s := s.setReg 0x0A0040 (value &&& 0x38000000#32)
  if value.getLsbD 31 then s.upToNow.takeSnapshot 0 else s

/-- SNAPSHOT_TAKE: a write to OBS_SNAP_CTRL. -/
def execSnapshotTake (t : Nat) (who : Requester) (value : Word) (s : State) : Host.Outcome State Fault Refusal :=
  .next (s.asMgmt t who (State.writeSnapCtrl value))

/-- SNAPSHOT_WRITTEN: the captured bytes are in the host's buffer, the header written last. -/
def execSnapshotWritten (t : Nat) (s : State) : Host.Outcome State Fault Refusal :=
  let s := s.at t
  if !s.obs.snapBusy then .next s
  else
    let port := s.regf 0x0A0040 27 2
    let a := s.snapAddr
    let d := s.obs.snapData
    let s := (s.dma port (a + 64) (d.drop 64)).dma port a (d.take 64)
    .next { s with obs := { s.obs with snapBusy := false, snapData := [], snapCount := s.obs.snapCount + 1 } }

end Sys2Proof.Machine
end

