-- ==== Sys2Proof/Machine/Regs.lean ====
section
/-! DEFINITION. The registers of BAR0 as the management role reads and writes them (R10 to R14), block by block, and the BAR0 of
a virtual function (R382). -/

namespace Sys2Proof.Machine
open Sys2Proof

/-! ### Reading (R10, R12) -/

/-- Index of an offset in a table of `n` registers from `base`, `step` bytes apart. -/
def slotOf (base n step off : Nat) : Option Nat :=
  if base ≤ off ∧ off < base + step * n ∧ (off - base) % step = 0 then some ((off - base) / step) else none

/-- DEV_SPAN_MAP of a physical span. -/
def State.spanMapWord (s : State) (p : Nat) : Nat :=
  let m := s.mapEntry p
  fieldAt 28 4 m.status.code + fieldAt 20 4 (p / 12) + fieldAt 16 4 (p % 12) + fieldAt 0 8 (m.logical.getD 0xFF)

/-- DEV_SPAN_SUMMARY. -/
def State.summaryWord (s : State) : Nat :=
  fieldAt 24 8 s.mapEpoch.toNat + fieldAt 16 8 (s.spansIn .active).length + fieldAt 8 8 (s.spansIn .spare).length
    + fieldAt 0 8 (s.spansIn .fenced).length

/-- The DEV block. -/
def State.readDev (s : State) (off : Nat) : Nat :=
  match off with
  | 0x00 => s.identWord
  | 0x08 => s.summaryWord
  | 0x10 => s.reproWord
  | 0x20 => s.bootWord
  | 0x28 => s.selftestWord
  | _ => match slotOf 0x400 132 4 off with
    | some p => s.spanMapWord p
    | none => 0

/-- TOLL_PORT_STATE. -/
def State.portWord (s : State) (port : Nat) : Nat :=
  let x := s.port port
  fieldAt 30 2 s.boot.portMode + fieldAt 29 1 (bit (s.portPresent port)) + fieldAt 28 1 (bit x.linkUp)
    + fieldAt 27 1 (bit x.inReset) + fieldAt 26 1 (bit (decide (s.markerAddr port ≠ 0))) + fieldAt 0 8 x.vfs

/-- The TOLL block: the registers that report a port, and those that software writes. -/
def State.readToll (s : State) (off : Nat) : Nat :=
  match slotOf 0x010000 4 0x40 off with
  | some p => s.portWord p
  | none => match slotOf 0x01000C 4 0x40 off with
    | some p => (s.port p).mark.toNat
    | none => s.reg off

/-- HOT_ENTRY, its first word. -/
def State.hotWord (s : State) (e : Nat) : Nat :=
  let x := s.entry e
  fieldAt 29 3 x.state.code + fieldAt 28 1 (bit x.pinned) + fieldAt 27 1 (bit x.mirrored) + fieldAt 26 1 (bit (s.entryHeld e))
    + fieldAt 25 1 (bit x.footbridge) + fieldAt 16 9 x.slabUnits + fieldAt 0 16 (min 65535 x.sealed.length)

/-- JOB_LIST of a list slot: the listed jobs stand in the order of their numbers. -/
def State.listWord (s : State) (n : Nat) : Nat := match s.jobs[n]? with
  | none => 0
  | some (id, j) => fieldAt 16 16 id + fieldAt 14 2 (jobTypeCode j.type) + fieldAt 10 4 j.state.code
      + fieldAt 9 1 (bit (s.demand id j)) + fieldAt 8 1 (bit j.mgmt) + fieldAt 0 8 (if j.mgmt then 0 else j.partition)

/-- The JOB block. -/
def State.readJob (s : State) (off : Nat) : Nat :=
  match off with
  | 0x020000 => s.jobState
  | 0x020100 => s.loadStatus.toNat
  | 0x020104 => s.loadDetail.toNat
  | 0x020410 => s.tick.balWord.toNat
  | 0x020500 => s.trsWord
  | _ => match slotOf 0x020040 16 4 off with
    | some n => s.listWord n
    | none => match slotOf 0x020200 64 8 off with
      | some e => s.hotWord e
      | none => match slotOf 0x020204 64 8 off with
        | some e => (s.entry e).modelId
        | none => s.reg off

/-- The REQ block's gauges: of the last keystone while ticks run, of now when none do (R459). -/
def State.readReq (s : State) (off : Nat) : Nat := match slotOf 0x030004 9 4 off with
  | some i => if s.ticking then kget 0 s.obs.gauges (i + 1) else s.inState (i + 1)
  | none => 0

/-- The KV block's gauges (R173). -/
def State.readKv (s : State) (off : Nat) : Nat := match slotOf 0x040000 9 4 off with
  | some i => kget 0 s.obs.kvGauges i
  | none => 0

/-- Whether fewer than GOV_COLD ticks of the running job have committed. -/
def State.govCold (s : State) : Bool := match s.job? with
  | none => true
  | some j => decide (j.committedTicks < s.headOf (·.govCold))

/-- The TICK block. -/
def State.readTick (s : State) (off : Nat) : Nat :=
  match off with
  | 0x060000 => s.tickStatus
  | 0x060004 => s.tickNumber
  | 0x060008 => s.tick.period % 2 ^ 18
  | 0x06000C => s.tickLedger
  | 0x060010 => s.tick.h % 2 ^ 32
  | 0x060014 => s.reg off + fieldAt 30 1 (bit s.govCold)
  | 0x060018 => s.gov.lastTick.toNat
  | _ => 0

/-- MEM_STK_STATE. -/
def State.stackWord (s : State) (i : Nat) : Nat :=
  let x := s.stk i
  let erased := (List.range 32).countP (fun g => (s.lg i g).eraseA.isSome)
  fieldAt 30 2 x.state.code + fieldAt 26 4 x.level + fieldAt 16 8 x.temp + fieldAt 8 8 x.trainTemp + fieldAt 0 6 erased

/-- The pin of a lane group with the most corrections in the window, ties to the lower pin, and their number. -/
def LaneGroup.suspect (g : LaneGroup) : Option (Nat × Nat) :=
  g.window.foldl (fun (b : Option (Nat × Nat)) (e : Nat × Nat) => match b with
    | none => some e
    | some v => if e.2 > v.2 then some e else some v) none

/-- MEM_LG_STATE. -/
def LaneGroup.word (g : LaneGroup) : Nat :=
  let st := if g.failed then 3 else if g.eraseB.isSome then 2 else if g.eraseA.isSome then 1 else 0
  let w := g.suspect.getD (0x1F, 0)
  fieldAt 30 2 st + fieldAt 25 5 (g.eraseA.getD 0x1F) + fieldAt 20 5 (g.eraseB.getD 0x1F) + fieldAt 15 5 (g.steered.getD 0x1F)
    + fieldAt 14 1 (bit g.hard) + fieldAt 9 5 w.1 + fieldAt 4 5 (min 31 w.2)

/-- The MEM block. -/
def State.readMem (s : State) (off : Nat) : Nat :=
  match off with
  | 0x070080 => s.mem.rateCap
  | 0x070088 => s.mem.status.toNat % 2 ^ 31 + fieldAt 31 1 (bit s.mem.repair.isSome)
  | 0x07008C => s.mem.alloc.toNat
  | _ => match slotOf 0x070000 32 4 off with
    | some i => s.stackWord i
    | none => match slotOf 0x072000 1024 4 off with
      | some i => (s.lg (i / 32) (i % 32)).word
      | none => s.reg off

/-- VIA_PORT. -/
def State.viaPortWord (s : State) (p : Nat) : Nat :=
  let x := s.cefin p
  fieldAt 31 1 (bit (s.regb (0x090010 + 4 * p) 31)) + fieldAt 28 3 (if s.lockPort p ∧ x.up then 5 else x.state.code)
    + fieldAt 14 14 x.peer + fieldAt 11 3 x.peerPort + fieldAt 10 1 (bit x.peerValid) + fieldAt 0 8 x.retrains

/-- VIA_RELOC of an entry. -/
def State.relocWord (s : State) (n : Nat) : Nat := match s.via.relocs[n]? with
  | none => 0
  | some r => fieldAt 31 1 1 + fieldAt 14 14 r.claimed + fieldAt 0 14 r.holder

/-- The VIA block. -/
def State.readVia (s : State) (off : Nat) : Nat :=
  match off with
  | 0x090000 => s.reg off + fieldAt 30 1 (bit s.via.duplicate)
  | 0x090040 => s.reg off + fieldAt 31 1 (bit s.via.closed)
  | 0x090044 => s.reg off + fieldAt 30 1 (bit s.via.refLost)
  | 0x090054 => s.reg off + fieldAt 26 3 s.via.take.code
  | 0x090058 => fieldAt 31 1 (bit s.via.lock.paired) + fieldAt 30 1 (bit s.via.lock.frozen)
      + fieldAt 29 1 (bit s.via.lock.walkDone)
  | 0x09005C => s.via.lock.div0.toNat
  | 0x090060 => s.via.lock.div1.toNat
  | _ => match slotOf 0x090010 8 4 off with
    | some p => s.viaPortWord p
    | none => match slotOf 0x090800 64 4 off with
      | some n => s.relocWord n
      | none => s.reg off

/-- The OBS block for a requester: each has its own sample registers (R548). -/
def State.readObs (s : State) (who : Requester) (off : Nat) : Nat :=
  let x := kget SampleRegs.zero s.obs.samples (sampleSet who)
  match off with
  | 0x0A0000 => fieldAt 8 16 s.obs.closeSeq.toNat
  | 0x0A0004 => x.addr.toNat
  | 0x0A0008 => x.value.toNat
  | 0x0A000C => x.flags.toNat
  | 0x0A0010 => x.time.toNat
  | 0x0A0030 => s.obs.tail.toNat
  | 0x0A0040 => s.reg off + fieldAt 30 1 (bit s.obs.snapBusy) + fieldAt 8 8 s.obs.snapDropped.toNat
      + fieldAt 0 8 s.obs.snapCount.toNat
  | _ => s.reg off

/-- The FLT block. -/
def State.readFlt (s : State) (off : Nat) : Nat :=
  match off with
  | 0x0B0000 => s.faultStatus
  | 0x0B0004 => s.flt.last0.toNat
  | 0x0B0008 => s.flt.last1.toNat
  | 0x0B0010 => s.spanCtrlWord
  | 0x0B0014 => fieldAt 31 1 (bit s.flt.scrubbing) + fieldAt 0 24 s.flt.scrubUs
  | 0x0B0030 => s.outageNow % 2 ^ 32
  | _ => s.reg off

/-- The SEC block. -/
def State.readSec (s : State) (off : Nat) : Nat :=
  match off with
  | 0x0C0000 => s.secWord
  | 0x0C0004 => s.secCtrlWord
  | 0x0C0090 => s.flash.unsealCount.toNat
  | 0x0C0094 => s.sec.logCount % 2 ^ 32
  | 0x0C0098 => s.lmsIndex % 2 ^ 32
  | 0x0C009C => s.lmsIndex / 2 ^ 32 % 2 ^ 8
  | 0x0C0240 => s.reg off + fieldAt 17 2 s.sec.dbgResult
  | _ => match slotOf 0x0C0060 12 4 off with
    | some w => leAt (digestBytes s.sec.challenge) (4 * w) 4
    | none => match slotOf 0x0C0100 72 4 off with
      | some i => leAt (digestBytes (s.slot (i / 12))) (4 * (i % 12)) 4
      | none => match slotOf 0x0C0260 8 4 off with
        | some w => leAt s.sec.dbgData (4 * w) 4
        | none => s.reg off

/-- PWR_STATUS. -/
def State.powerWord (s : State) : Nat :=
  let ready := decide (s.boot.state = BootState.ready)
  fieldAt 30 2 (if s.boot.coolStrap = 3 then 0 else s.boot.coolStrap) + fieldAt 29 1 (bit (decide (s.boot.coolStrap = 3)))
    + fieldAt 28 1 (bit s.pwr.brake) + fieldAt 27 1 (bit s.pwr.hard) + fieldAt 26 1 (bit s.pwr.forPower)
    + fieldAt 16 6 s.pwr.n + fieldAt 0 16 (if ready then s.pwr.cap else 0)

/-- The PWR block. -/
def State.readPwr (s : State) (off : Nat) : Nat :=
  match off with
  | 0x0D0000 => s.powerWord
  | 0x0D000C => fieldAt 16 16 s.pwr.mainW + fieldAt 8 8 s.pwr.mainV + fieldAt 0 8 s.pwr.stbyW
  | 0x0D0010 => fieldAt 24 8 s.pwr.dieMax + fieldAt 16 8 s.pwr.stackMax + fieldAt 11 5 s.pwr.stackId + fieldAt 7 4 s.pwr.dieSensor
  | _ => s.reg off

/-- SPN_ARITH (R95): of the layer that the cells are running, else 0. -/
def State.arithWord (s : State) (x : Span) : Nat := match x.cells.layer.bind s.desc? with
  | none => 0
  | some d =>
    let now := ((x.cells.running.filter (fun r => decide (r.1 ≤ s.cycNow))).getLast?).getD (0, 0, 0)
    let e := now.2.2
    let g := if d.gather e = 2 then 1 else if d.gather e = 4 then 2 else 0
    fieldAt 30 2 d.cmode + fieldAt 28 2 g + fieldAt 24 4 d.tshape + fieldAt 21 3 e + fieldAt 18 3 (d.entries - 1)
      + fieldAt 17 1 (bit d.skipEn) + fieldAt 16 1 d.ctx + fieldAt 12 4 d.gen + fieldAt 0 12 now.2.1

/-- SPN_ABT_CTX of context `k` (R136). -/
def State.ctxWord (s : State) (k : Nat) (x : Span) : Nat :=
  let c := x.ctx k
  let d : Desc := if c.loaded then (s.desc? c.desc).getD [] else []
  fieldAt 31 1 (bit (x.ctxBusy k s.cycNow)) + fieldAt 30 1 (bit c.loaded) + fieldAt 26 4 c.gen + fieldAt 24 2 d.wmode
    + fieldAt 20 4 d.wPlan + fieldAt 16 4 c.layerW + fieldAt 0 13 (x.linesPending k)

/-- SPN_TRACE_STATE. -/
def Trace.stateWord (t : Trace) : Nat :=
  let st := if !t.en then 0 else if t.frozen then 3 else if t.arm then 2 else 1
  fieldAt 30 2 st + fieldAt 29 1 (bit t.triggered) + fieldAt 0 12 t.records.length

/-- The window of a span, its counters apart (R14). -/
def State.readSpan (s : State) (x : Span) (off : Nat) : Nat :=
  match off with
  | 0x100 => s.arithWord x
  | 0x110 => s.ctxWord 0 x
  | 0x114 => s.ctxWord 1 x
  | 0x120 => s.seqWord x.seq
  | 0x124 => x.seq.fault.toNat
  | 0x128 => x.seq.lateWord
  | 0x400 => x.trace.ctrl.toNat
  | 0x404 => x.trace.stateWord
  | 0x40C => x.trace.firstTime % 2 ^ 32
  | 0x410 => x.trace.firstTime / 2 ^ 32
  | 0x414 => x.trace.lastTime % 2 ^ 32
  | 0x418 => x.trace.lastTime / 2 ^ 32
  | _ => 0

/-- What a read of a BAR0 offset gives a requester of the management role. -/
def State.readReg (s : State) (who : Requester) (off : Nat) : Word :=
  let s := s.upToNow
  match s.counterAt off with
  | some c => c.readAt s.time
  | none => BitVec.ofNat 32 (
    if 0x800000 ≤ off then match s.phys? ((off - 0x800000) / 0x10000) with
      | none => 0
      | some p => s.readSpan (s.span p) (off % 0x10000)
    else match off / 0x10000 with
      | 0x0 => s.readDev off
      | 0x1 => s.readToll off
      | 0x2 => s.readJob off
      | 0x3 => s.readReq off
      | 0x4 => s.readKv off
      | 0x5 => if off = 0x050000 then fieldAt 24 8 romRev else 0
      | 0x6 => s.readTick off
      | 0x7 => s.readMem off
      | 0x9 => s.readVia off
      | 0xA => s.readObs who off
      | 0xB => s.readFlt off
      | 0xC => s.readSec off
      | 0xD => s.readPwr off
      | _ => 0)

/-- What a read of the BAR0 of a VF gives (R382): the window of its partition, its controls, and the copies. -/
def State.vfRead (s : State) (port vf off : Nat) : Word :=
  let copy := if off = 0x200 then some s.identWord else if off = 0x204 then some s.reproWord
    else if off = 0x208 then some s.bootWord else if off = 0x20C then some s.selftestWord else none
  match copy, s.vfPart? port vf with
  | some w, _ => BitVec.ofNat 32 w
  | none, none => 0
  | none, some p =>
    let w := kget PWindow.zero s.obs.windows p
    let x := kget SampleRegs.zero s.obs.vfSamples (256 * port + vf)
    match slotOf 0 16 4 off with
    | some i => (kget Counter.zero w.counters i).readAt s.time
    | none =>
      if off = 0x100 then BitVec.ofNat 32 (fieldAt 30 1 (bit w.closing) + fieldAt 0 16 w.closes.toNat)
      else if off = 0x104 then x.addr
      else if off = 0x108 then x.value
      else if off = 0x10C then x.flags
      else 0

/-! ### Writing (R10 to R12) -/

/-- Registers whose write does no more than set their RW fields: first offset, number, step and the fields' bits. -/
def rwTable : List (Nat × Nat × Nat × BitVec 32) :=
  [(0x010004, 4, 0x40, 0xFFFFFFF0#32), (0x010008, 4, 0x40, 0xFFFFFFFF#32), (0x010400, 256, 4, 0xF801FFFF#32),
   (0x010800, 1024, 4, 0x800000FF#32), (0x020004, 1, 4, 0xFFFFFFFF#32), (0x060014, 1, 4, 0xA003FFFF#32),
   (0x090040, 1, 4, 0x60000000#32), (0x090048, 2, 4, 0xFFFFFFFF#32), (0x090400, 256, 4, 0xFFE00000#32),
   (0x0A0020, 4, 4, 0xFFFFFFFF#32), (0x0A0038, 1, 4, 0xFFFFFFFF#32), (0x0A0044, 2, 4, 0xFFFFFFFF#32),
   (0x0B000C, 1, 4, 0xC0FFFFFF#32), (0x0B0020, 4, 4, 0x80003FFF#32), (0x0C0008, 1, 4, 0xFFFFFFFF#32),
   (0x0C0010, 2, 4, 0xFFFFFFFF#32), (0x0C0020, 12, 4, 0xFFFFFFFF#32), (0x0C0240, 1, 4, 0xFFF00000#32),
   (0x0C0248, 1, 4, 0x000000FF#32), (0x0D0018, 1, 4, 0x000000FF#32)]

/-- The RW fields of a register of that table. -/
def rwMask (off : Nat) : Option (BitVec 32) :=
  (rwTable.find? (fun e => (slotOf e.1 e.2.1 e.2.2.1 off).isSome)).map (fun e => e.2.2.2)

/-- JOB_TRS_CTRL: FORCE_FW, whose setting is a cause of falsework, and RETEST. -/
def State.writeTrsCtrl (value : Word) (s : State) : State :=
  let s := if value.getLsbD 31 && !s.regb 0x020504 31 then { s with trs := { s.trs with cause := 4 } } else s
  let s := s.setReg 0x020504 (value &&& 0x80000000#32)
  if value.getLsbD 30 then s.startRetest else s

/-- HOT_CTRL: a 1 clears DONE, ENTRY is set, and the action is taken. -/
def State.writeHotCtrl (value : Word) (s : State) : State :=
  let old := s.regw 0x020600
  let keep := if value.getLsbD 28 && s.mayClear (w1c 0x020600 28) then old &&& 0x0C000000#32 else old &&& 0x1C000000#32
  let s := s.setReg 0x020600 (keep ||| (value &&& 0x3F#32))
  let e : Fin 64 := Fin.ofNat 64 value.toNat
  match bitsAt value.toNat 29 3 with
  | 1 => s.hotPin e
  | 2 => s.hotUnpin e
  | 3 => s.hotRemove e
  | _ => s

/-- MEM_SPARE_CTRL by its ACTION. -/
def State.writeSpareCtrl (value : Word) (s : State) : State := match bitsAt value.toNat 5 3 with
  | 1 => s.spareErase value
  | 2 => s.spareSteer value
  | 3 => s.spareHardSteer value
  | 4 => s.spareClearErasure value
  | 5 => s.spareHardRows value
  | _ => s.setReg 0x070084 (value &&& spareCtrlMask)

/-- VIA_PORT: EN set starts training, EN cleared takes the port down. -/
def State.writeViaPort (p : Nat) (value : Word) (s : State) : State :=
  let was := s.regb (0x090010 + 4 * p) 31
  let s := s.setReg (0x090010 + 4 * p) (value &&& 0x80000000#32)
  if value.getLsbD 31 && !was then s.startTraining p else if was && !value.getLsbD 31 then s.portDown p else s

/-- VIA_SYNC: a write of TIME_ARM while a job is RUNNING is ignored (R488). -/
def State.writeSync (value : Word) (s : State) : State :=
  let arm := if s.running.isSome then s.regw 0x090044 &&& 0x20000000#32 else value &&& 0x20000000#32
  s.setReg 0x090044 ((value &&& 0x800003FF#32) ||| arm)

/-- VIA_SPARE by its ACTION. -/
def State.writeSpareReg (value : Word) (s : State) : State := match bitsAt value.toNat 30 2 with
  | 1 => s.spareTake value
  | 2 => s.spareRelease value
  | _ => s.writeSpare value

/-- FLT_SPAN_CTRL: a 1 clears DONE, PSPAN is set, and the action is taken on a span that exists. -/
def State.writeSpanCtrl (value : Word) (s : State) : State :=
  let p := bitsAt value.toNat 0 8
  let s := s.setReg 0x0B0010 (BitVec.ofNat 32 p)
  let s := if value.getLsbD 29 && s.mayClear (w1c 0x0B0010 29) then { s with flt := { s.flt with spanDone := false } } else s
  let a := bitsAt value.toNat 30 2
  if h : p < 132 then
    if a = 1 then s.spanRetest ⟨p, h⟩ else if a = 2 then s.spanFence ⟨p, h⟩ else s
  else if a = 1 ∨ a = 2 then s.spanResult 2
  else s

/-- DEV_RESET_CTRL. -/
def State.writeReset (value : Word) (s : State) : State := match bitsAt value.toNat 30 2 with
  | 1 => s.requestReset .warm
  | 2 => s.requestReset .cold
  | _ => s

/-- PWR_CAP: in force at the next cut, or at once when no SERVE job runs ticks (R632). -/
def State.writeCap (value : Word) (s : State) : State :=
  let s := s.setReg 0x0D0004 value
  if s.ticking || decide (s.boot.state ≠ BootState.ready) then s else s.latchCap

/-- A write to a span's window: VALID of SPN_SEQ_FAULT and SPN_TRACE_CTRL; the rest is read-only. -/
def State.writeSpanWin (l off : Nat) (value : Word) (s : State) : State :=
  if off = 0x400 then s.writeTraceCtrl l value
  else if off = 0x124 && value.getLsbD 23 && s.mayClear (w1c (0x800124 + 0x10000 * l) 23) then match s.phys? l with
    | none => s
    | some p => s.modSpan p (fun x => { x with seq := { x.seq with fault := x.seq.fault &&& 0xFF7FFFFF#32 } })
  else s

/-- The effect of a write of the management role to a register that does more than set its fields, by offset. -/
def State.writeAction (who : Requester) (off : Nat) (value : Word) (s : State) : State :=
  match off with
  | 0x000024 => s.writeReset value
  | 0x020504 => s.writeTrsCtrl value
  | 0x020600 => s.writeHotCtrl value
  | 0x070084 => s.writeSpareCtrl value
  | 0x070088 =>
    if value.getLsbD 30 && s.mayClear (w1c 0x070088 30) then { s with mem := { s.mem with status := s.mem.status &&& 0xBFFFFFFF#32 } } else s
  | 0x090000 => s.writeChip value
  | 0x090044 => s.writeSync value
  | 0x090050 => s.writeLock value
  | 0x090054 => s.writeSpareReg value
  | 0x0A0000 => s.writeClose value
  | 0x0A0004 => s.writeSample who value
  | 0x0A0034 => s.writeTrig value
  | 0x0A0040 => s.writeSnapCtrl value
  | 0x0B0010 => s.writeSpanCtrl value
  | 0x0C0004 => s.writeSecCtrl who value
  | 0x0C0244 => s.debugRead value
  | 0x0D0004 => s.writeCap value
  | 0x0D0014 => (List.range 8).foldl (fun (s : State) (b : Nat) =>
      if value.getLsbD b && s.mayClear (w1c 0x0D0014 b) then s.setRegBit 0x0D0014 b false else s) s
  | _ => match slotOf 0x090010 8 4 off with
    | some p => s.writeViaPort p value
    | none => match slotOf 0x012000 512 4 off with
      | some i => s.writePageOwner (i / 128) (i % 128) value
      | none => s

/-- A write of the management role to a BAR0 offset; a read-only register and an offset that holds none ignore it. -/
def State.writeReg (who : Requester) (off : Nat) (value : Word) (s : State) : State :=
  if 0x800000 ≤ off then s.writeSpanWin ((off - 0x800000) / 0x10000) (off % 0x10000) value
  else match rwMask off with
    | some m => s.setReg off (value &&& m)
    | none => s.writeAction who off value

/-- A write of a VF to an offset of its BAR0 (R382): the controls of its partition's window act, and every other offset ignores
it. A register of the control window lies beyond the BAR, and the tenant role does not permit it (R13). -/
def State.vfRegWrite (t port vf off : Nat) (value : Word) (s : State) : State :=
  if off = 0x100 then s.vfWrite t port vf (State.writePartClose value)
  else if off = 0x104 then s.vfWrite t port vf (State.writePartSample port vf value)
  else
    let s := s.at t
    if !s.portOpen port then s else if off < 0x10000 then s.portRx port 4 else (s.portRx port 4).denied

/-- REGISTER_WRITE: a write to a register that has no row of its own. -/
def execRegisterWrite (t : Nat) (who : Requester) (offset : BitVec 24) (value : Word) (s : State) :
    Host.Outcome State Fault Refusal :=
  .next (match who with
    | .vf p n => s.vfRegWrite t p.val n.toNat offset.toNat value
    | _ => s.asMgmt t who (State.writeReg who offset.toNat value))

/-- A read of four bytes answers a host port. -/
def State.answerRead (port : Nat) (v : Word) (s : State) : State :=
  (s.incBytes (0xA0200 + 8 * port) 4).emit (.data port (natToBytes 4 v.toNat))

/-- REGISTER_READ_DENIED: a read of a register by a requester. A tenant's read of a register of the control window gives zero and
is counted (R13); a read that the reader's role permits gives the register, and the offsets of a VF's BAR0 that hold none give zero
(R382). A sideband read is a message of its own. -/
def execRegisterReadDenied (t : Nat) (who : Requester) (offset : BitVec 24) (s : State) : Host.Outcome State Fault Refusal :=
  let s := s.at t
  .next (if !s.reaches who then s
    else match who with
      | .sideband => s
      | .pf p => s.answerRead p.val (s.readReg who offset.toNat)
      | .vf p n =>
        if offset.toNat < 0x10000 then s.answerRead p.val (s.vfRead p.val n.toNat offset.toNat)
        else s.denied.answerRead p.val 0)

end Sys2Proof.Machine
end

