-- ==== Sys2Proof/Machine/Replay.lean ====
section
/-! DEFINITION. Broken ticks and their replay (R218, R249, R250, R500, R515), hung spans (R299, R501), remote waits beyond their
bound (R257, R538). -/

namespace Sys2Proof.Machine
open Sys2Proof

/-! ### REPLAY_START -/

/-- Whether as many runs of the tick in a row have broken as REPLAY_LIMIT allows (R250). -/
def State.replaysSpent (s : State) : Bool := decide (max 1 (s.headOf (·.replayLimit)) ≤ s.tick.runs)

/-- Whether the cause of the break has been dealt with: a repair is awaited unless the job is in basic service or goes there now; a
frozen pair and a loss of power are not replayed. -/
def State.replayReady (s : State) : Bool := match s.job?, s.tick.broken with
  | some j, some c =>
    decide (j.type = .serve) && !s.via.lock.frozen
      && (match c with
          | .poison => s.flt.repairs.isEmpty || decide (j.basic ≠ 0) || s.replaysSpent
          | .lockstep => false
          | .powerOrReset => false
          | _ => true)
  | _, _ => false

/-- The nonlinearity slots that preloaded ranges have filled hold what those ranges now hold (R500). -/
def Span.rewriteSlots (x : Span) : Span :=
  { x with abt := { x.abt with nlt := x.abt.nltAt.foldl (fun (m : List (Nat × List (BitVec 256))) (e : Nat × List Nat) =>
      if e.2.all x.preloaded then kins m e.1 (e.2.map x.granule) else m) x.abt.nlt } }

/-- Rewrite the bound spans that hold a strike, as R329 rewrites a spare: program image, preloaded ranges and nonlinearity slots
(R500). -/
def State.rewriteStruck (s : State) : State :=
  (s.binding.filter (fun e => decide ((s.span e.2).strikes ≠ []))).foldl (fun (s : State) (e : Nat × Nat) =>
    (s.rewriteSpan e.1 e.2).modSpan e.2 Span.rewriteSlots) s

/-- The plan of a replay: a replay is never switched back from falsework (R219). -/
def State.replayPlan (s : State) : State := match s.job? with
  | none => s
  | some j =>
    let want := s.planFor j
    let basicPlan (n : Nat) : Bool := decide (n = 2 ∨ n = 5)
    if planFw s.tick.plan && !planFw want && (basicPlan s.tick.plan == basicPlan want) then s else s.setPlan

/-- At REPLAY_LIMIT broken runs in a row the job enters basic service; a job in basic service ends (R250, R517). -/
def State.replayLimit (s : State) : State :=
  if !s.replaysSpent then s
  else match s.running, s.job? with
    | some id, some j => if j.basic = 0 then s.enterBasic 2 else s.abandonJob id 0x08 0x03
    | _, _ => s

/-- The replay of a broken tick starts: the boundary's fences, the plan, a fresh ledger, phase 1 without its work. -/
def execReplayStart (t : Nat) (s : State) : Host.Outcome State Fault Refusal :=
  let s := s.at t
  if !s.replayReady then .next s
  else
    let s := s.boundaryFences
    if s.running.isNone then .next s
    else
      let s := s.rewriteStruck.replayLimit
      if s.running.isNone then .next s
      else
        let s := s.replayPlan.modJob (fun j => { j with remoteWait := false })
        let s := { s with tick := { s.tick with replay := true, sums := [] } }
        .next (s.foldBatch.beginRun s.time 0)

/-! ### HUNG_TIMEOUT -/

/-- PERIOD_MAX in cycles of the run's clock. -/
def State.hungCyc (s : State) : Nat := s.headOf (·.periodMax) * 25 * s.tick.n

/-- A span's wait of one instruction has lasted longer than PERIOD_MAX. -/
def State.hungNow (s : State) (p : Nat) : Bool := match (s.span p).seq.waitFrom with
  | none => false
  | some c => s.inTick && decide ((s.span p).seq.phase ≠ 0) && decide (c + s.hungCyc < s.cycNow)

/-- The first HUNG at a logical span: the span is fenced at once and the tick broken. -/
def State.hangFirst (l p : Nat) (s : State) : State :=
  let s := s.modSpan p (fun x => { x with seq := x.seq.record 0x09 s.tickNumber x.seq.pc })
  let s := s.trace l 5 [0x09#8, 2#8]
  let s := (s.spanFault l p 2 0x09).breakHere .span
  let s := { s with flt := { s.flt with hungAt := some (l, p), fenceAsked := s.flt.fenceAsked ++ [p] } }
  s.boundaryFences

/-- HUNG: the second time at the same logical span it is a program fault, and the span fenced first is to be tested. -/
def State.hang (l p : Nat) (s : State) : State :=
  let s := if s.regb 0x0A0040 29 then s.accrue.takeSnapshot 2 else s
  let again := match s.flt.hungAt with
    | some x => decide (x.1 = l)
    | none => false
  if again then
    let s := s.progFault l p 0x09 (s.span p).seq.pc
    { s with flt := { s.flt with testAsked := s.flt.testAsked ++ ((s.flt.hungAt.map (fun x => [x.2])).getD []) } }
  else s.hangFirst l p

/-- A wait of one instruction lasts longer than PERIOD_MAX (R299). -/
def execHungTimeout (t : Nat) (l : Fin 128) (s : State) : Host.Outcome State Fault Refusal :=
  let s := (s.at t).settled
  match s.phys? l.val with
  | none => .next s
  | some p => if s.hungNow p then .next (s.hang l.val p) else .next s

/-! ### REMOTE_WAIT_TIMEOUT -/

/-- Whether a remote wait of a span or of the pier has passed its bound. -/
def State.remoteLate (s : State) : Bool :=
  let us := 25 * s.tick.n
  let spans := s.binding.any (fun e => match (s.span e.2).seq.remoteSince with
    | none => false
    | some c => decide (c + s.headOf (·.remoteWaitMax) * us < s.cycNow))
  let digest := s.pair && s.digestStands && s.partnerDigest?.isNone
    && decide (s.trs.readyAt + s.regf 0x090050 0 16 * us < s.cycNow)
  s.inTick && (spans || digest)

/-- Close every landing that the tick opened. -/
def State.closeTickLandings (s : State) : State :=
  let s := s.tick.landings.foldl (fun (s : State) (l : Nat) => { s with landings := kdel s.landings l }) s
  { s with tick := { s.tick with landings := [] } }

/-- The tick is broken, its landings close, and the job pauses as REMOTE_WAIT; a pre-empt that waits proceeds, and the
dispatcher decides (R257). -/
def execRemoteWaitTimeout (t : Nat) (s : State) : Host.Outcome State Fault Refusal :=
  let s := (s.at t).settled
  if !s.remoteLate then .next s
  else
    let s := ((s.breakHere .remoteWait).closeTickLandings.inc 0x060108 1).modJob (fun j => { j with remoteWait := true })
    match s.job? with
    | none => .next s
    | some j =>
      let next : JobState := if j.state = .draining then .draining else if j.toHeld then .held else .paused
      .next ((s.leaveSpans next).dispatch true)

end Sys2Proof.Machine
end

