-- ==== Sys2Proof/Machine/Sideband.lean ====
section
/-! DEFINITION. The sideband (R564, R593, R600, R612 to R614): messages, streams in chunks, the firmware write. -/

namespace Sys2Proof.Machine
open Sys2Proof

/-! ### Answers and checks (Tables 20.16 to 20.18) -/

/-- The response to a request: the same COMMAND and TAG, STATUS and a payload. -/
def State.sbAnswer (code : Nat) (m : SbMsg) (status : Nat) (payload : List Byte) (s : State) : State :=
  s.emit (.sideband code m.tag status payload)

/-- A stream interrupted for more than 5 s is abandoned (R613). -/
def State.sbExpire (s : State) : State := match s.sb.stream with
  | none => s
  | some x =>
    if x.last + 5000000000 < s.time then { s with sb := { s.sb with stream := none, abandoned := some x.code } } else s

/-- Whether a command finds another one in progress: a stream of another command, or the write of an image (R613). -/
def State.sbBusy (s : State) (code : Nat) : Bool :=
  s.sb.firmware.isSome || (match s.sb.stream with
    | none => false
    | some x => decide (x.code ≠ code))

/-- The status that stops a request before its command acts, if any. -/
def State.sbRefuse (s : State) (code : Nat) (m : SbMsg) (fieldsOk ready : Bool) : Option Nat :=
  if m.flags.getLsbD 0 then some 3
  else if code ≠ 1 && s.sbBusy code then some 1
  else if m.len.toNat ≠ m.payload.length || !fieldsOk then some 4
  else if !ready then some 2
  else none

/-- A request at time `t`: unanswered without the management processor; refused by its status, or carried out. -/
def State.sbServe (t code : Nat) (m : SbMsg) (fieldsOk : Bool) (ready : State → Bool) (act : State → State) (s : State) : State :=
  let s := (s.at t).sbExpire
  if !s.boot.standby then s
  else match s.sbRefuse code m fieldsOk (ready s) with
    | some st => s.sbAnswer code m st []
    | none => act s

/-! ### Streams -/

/-- The response with the chunk at an offset of the stream from the module that is in progress; its last chunk ends it. -/
def State.sbChunk (code : Nat) (m : SbMsg) (off : Nat) (x : SbStream) (s : State) : State :=
  let payload := natToBytes 4 x.total ++ natToBytes 4 off ++ (x.data.drop off).take 1024
  let next := if x.total ≤ off + 1024 then none else some { x with next := off + 1024, last := s.time }
  { s with sb := { s.sb with stream := next } }.sbAnswer code m 0 payload

/-- A request for a chunk from the module: OFFSET 0 captures what is streamed, or is refused by its status. -/
def State.sbSend (code : Nat) (m : SbMsg) (capture : State → Nat ⊕ (List Byte × State)) (s : State) : State :=
  let off := leAt m.payload 0 4
  if off = 0 then match capture s with
    | .inl st => { s with sb := { s.sb with stream := none } }.sbAnswer code m st []
    | .inr (bytes, s) =>
      let x : SbStream := { code := code, total := bytes.length, next := 0, data := bytes, last := s.time }
      { s with sb := { s.sb with stream := some x, abandoned := none } }.sbChunk code m 0 x
  else match s.sb.stream with
    | none => s.sbAnswer code m (if s.sb.abandoned = some code then 8 else 5) []
    | some x => if x.total < off then s.sbAnswer code m 5 [] else s.sbChunk code m off x

/-- A chunk to the module: in order it is kept and answered SUCCESS; the one that reaches TOTAL hands the stream to `done`;
out of order it ends the stream. -/
def State.sbTake (code : Nat) (m : SbMsg) (done : List Byte → State → State) (s : State) : State :=
  let total := leAt m.payload 0 4
  let off := leAt m.payload 4 4
  let data := m.payload.drop 8
  let had := match s.sb.stream with
    | none => []
    | some x => x.data
  let inOrder := match s.sb.stream with
    | none => decide (off = 0)
    | some x => decide (off = x.next ∧ total = x.total)
  let next := off + data.length
  if s.sb.stream.isNone && !inOrder then s.sbAnswer code m (if s.sb.abandoned = some code then 8 else 5) []
  else if !inOrder || decide (total < next) then { s with sb := { s.sb with stream := none } }.sbAnswer code m 5 []
  else
    let all := had ++ data
    if next = total then done all { s with sb := { s.sb with stream := none, abandoned := none } }
    else
      let x : SbStream := { code := code, total := total, next := next, data := all, last := s.time }
      { s with sb := { s.sb with stream := some x, abandoned := none } }.sbAnswer code m 0 []

/-- Whether a chunk's payload has the chunk layout: TOTAL, OFFSET and 1 to 1,024 bytes. -/
def chunkOk (m : SbMsg) : Bool := decide (9 ≤ m.payload.length ∧ m.payload.length ≤ 1032)

/-! ### READ, WRITE and RESET -/

/-- The registers that the sideband serves below PIER_BOOT (R564). -/
def sbEarly (off : Nat) : Bool :=
  [0x000000, 0x000008, 0x000010, 0x000020, 0x000028].contains off || decide (0x000400 ≤ off ∧ off < 0x000610)

/-- Whether a BAR0 offset in a message is aligned and in range. -/
def sbOffsetOk (off : Nat) : Bool := decide (off % 4 = 0 ∧ off < 2 ^ 24)

/-- SB_READ. -/
def execSbRead (t : Nat) (m : SbMsg) (s : State) : Host.Outcome State Fault Refusal :=
  let off := leAt m.payload 0 4
  .next (s.sbServe t 1 m (decide (m.payload.length = 4) && sbOffsetOk off) (fun s => s.sbFull || sbEarly off) (fun s =>
    s.sbAnswer 1 m 0 (natToBytes 4 (s.readReg .sideband off).toNat)))

/-- SB_WRITE. -/
def execSbWrite (t : Nat) (m : SbMsg) (s : State) : Host.Outcome State Fault Refusal :=
  let off := leAt m.payload 0 4
  .next (s.sbServe t 2 m (decide (m.payload.length = 8) && sbOffsetOk off) State.sbFull (fun s =>
    (s.sbAnswer 2 m 0 []).writeReg .sideband off (BitVec.ofNat 32 (leAt m.payload 4 4))))

/-- Whether a RESET request is permitted: not while only standby power is present, and no warm reset while HALTED. -/
def State.sbResetReady (kind : Nat) (s : State) : Bool :=
  decide (s.boot.state ≠ BootState.standby) && !(decide (s.boot.state = BootState.halted) && decide (kind = 1))

/-- SB_RESET: the answer goes before the reset takes effect. -/
def execSbReset (t : Nat) (m : SbMsg) (s : State) : Host.Outcome State Fault Refusal :=
  let kind := leAt m.payload 0 1
  .next (s.sbServe t 3 m (decide (m.payload.length = 1) && decide (kind = 1 ∨ kind = 2)) (State.sbResetReady kind) (fun s =>
    (s.sbAnswer 3 m 0 []).requestReset (if kind = 2 then .cold else .warm)))

/-! ### FAULT_LOG, SNAPSHOT and QUOTE -/

/-- A fault record of 16 bytes: the FLT_LAST0 layout, TICK_NUMBER and the device time. -/
def FaultRec.bytes (r : FaultRec) : List Byte :=
  natToBytes 4 (fieldAt 28 4 r.cls + fieldAt 20 8 r.cause + fieldAt 12 8 r.unit + fieldAt 4 8 r.tick) ++ natToBytes 4 r.tick
    ++ natToBytes 8 r.time

/-- SB_FAULT_LOG. -/
def execSbFaultLog (t : Nat) (m : SbMsg) (s : State) : Host.Outcome State Fault Refusal :=
  let source := leAt m.payload 4 1
  .next (s.sbServe t 4 m (decide (m.payload.length = 5) && decide (source < 2)) (fun _ => true) (State.sbSend 4 m (fun s =>
    let log := if source = 0 then s.flt.log else s.flt.flashLog
    .inr (log.reverse.flatMap FaultRec.bytes, s))))

/-- A snapshot for the sideband: refused and counted while another is being written. -/
def State.sbSnap (s : State) : Nat ⊕ (List Byte × State) :=
  if s.obs.snapBusy then .inl 7
  else .inr (s.upToNow.snapshotBytes 3, { s with obs := { s.obs with snapNo := s.obs.snapNo + 1 } })

/-- DROPPED takes a refused snapshot. -/
def State.snapRefused (s : State) : State :=
  { s with obs := { s.obs with snapDropped := BitVec.ofNat 8 (min 255 (s.obs.snapDropped.toNat + 1)) } }

/-- SB_SNAPSHOT. -/
def execSbSnapshot (t : Nat) (m : SbMsg) (s : State) : Host.Outcome State Fault Refusal :=
  .next (s.sbServe t 5 m (decide (m.payload.length = 4)) (fun s => decide (s.boot.state = BootState.ready)) (fun s =>
    let s := if leAt m.payload 0 4 = 0 && s.obs.snapBusy then s.snapRefused else s
    s.sbSend 5 m State.sbSnap))

/-- SB_QUOTE: a quote over the request's nonce. -/
def execSbQuote (t : Nat) (m : SbMsg) (s : State) : Host.Outcome State Fault Refusal :=
  .next (s.sbServe t 7 m (decide (m.payload.length = 52)) State.sbFull (State.sbSend 7 m (fun s =>
    if s.secBusy then .inl 7
    else match s.makeQuote (m.payload.drop 4) with
      | none => .inl 7
      | some (q, s) => .inr (q, s))))

/-! ### FIRMWARE and UNSEAL -/

/-- The key pairs that a firmware image's manifest lists. -/
def imagePairs (image : List Byte) : List KeyPair :=
  (Config.imageKeys image).map (fun k => { id := k.1, ecdsa := k.2.1, hss := k.2.2 })

/-- The keys under which an image is checked: those of the running manifest, or, with no sound image in flash, its own. -/
def State.firmwareKeys (s : State) (image : List Byte) : List KeyPair :=
  if s.flash.firmware.sound then s.flash.firmware.keys else imagePairs image

/-- An image before its signature block and the block, by the trailer of R590; none without the trailer. -/
def cutImage (image : List Byte) : Option (List Byte × List Byte) :=
  let n := image.length
  let len := leAt image (n - 8) 4
  if n < 8 ∨ leAt image (n - 4) 4 ≠ 0x47535859 ∨ n < len + 8 then none
  else some (image.take (n - 8 - len), (image.drop (n - 8 - len)).take len)

/-- The firmware that a streamed image holds, when it verifies (R587, R590 to R592). -/
def State.verifyImage (s : State) (image : List Byte) : Option Firmware := match cutImage image with
  | none => none
  | some (body, block) =>
    let f : Firmware := { digest := sha384 body, svn := Config.imageSvn image, sound := true,
                          rootPair := Config.imageRoot image % 4, keys := imagePairs image }
    let ok := Config.imageSound image && decide (s.fuses.minSvn ≤ f.svn) && !s.fuses.revoked.getLsbD f.rootPair
      && blockOk (fun id => decide (keyClass id = 2)) (s.firmwareKeys image) f.digest block
    if ok then some f else none

/-- A whole image has arrived: verified, the chip enters IN_RESET and the write begins. -/
def State.firmwareIn (m : SbMsg) (image : List Byte) (s : State) : State := match s.verifyImage image with
  | none => s.sbAnswer 6 m 6 []
  | some f =>
    let s := (s.sbAnswer 6 m 0 []).wipe .cold
    { s with boot := { s.boot with state := .inReset, nextCause := 2 }, sb := { s.sb with firmware := some f } }

/-- SB_FIRMWARE. -/
def execSbFirmware (t : Nat) (m : SbMsg) (s : State) : Host.Outcome State Fault Refusal :=
  .next (s.sbServe t 6 m (chunkOk m) State.sbFull (State.sbTake 6 m (State.firmwareIn m)))

/-- FIRMWARE_WRITE_DONE: flash holds the image, and a cold start follows when main power stands. -/
def execFirmwareWriteDone (t : Nat) (s : State) : Host.Outcome State Fault Refusal :=
  let s := s.at t
  match s.sb.firmware with
  | none => .next s
  | some f =>
    let s := { s with flash := { s.flash with firmware := f }, sb := { s.sb with firmware := none } }
    if s.boot.mainGood && s.boot.standby then .next ({ s with boot := s.boot.out 550 s.time }.powerOn .cold 2)
    else .next { s with boot := { s.boot with state := .standby } }

/-- SB_UNSEAL: a signature block over SEC_CHALLENGE. -/
def execSbUnseal (t : Nat) (m : SbMsg) (s : State) : Host.Outcome State Fault Refusal :=
  .next (s.sbServe t 8 m (chunkOk m) State.sbFull (State.sbTake 8 m (fun block s =>
    let r := s.tryOpen block
    r.2.sbAnswer 8 m (if r.1 then 0 else 6) [])))

/-- SB_STREAM_ABANDON: a stream interrupted for more than 5 s is abandoned. -/
def execSbStreamAbandon (t : Nat) (s : State) : Host.Outcome State Fault Refusal := .next (s.at t).sbExpire

end Sys2Proof.Machine
end

