-- ==== Sys2Proof/Machine/Variants.lean ====
section
/-! DEFINITION. Variant stores (R451, R452), VARIANT commands, and the descent steps of a TUNE job (R453). -/

namespace Sys2Proof.Machine
open Sys2Proof

/-! ### VARIANT (R452) -/

/-- The codes of Table 13.9 that refuse a slot to a partition, in the order of the table. -/
def State.slotError (s : State) (model slot part : Nat) : Option Nat := match s.entryOfModel? model with
  | none => some 0x201
  | some e =>
    let x := s.entry e
    if x.state ≠ HotState.ready then some 0x201
    else if slot ≥ x.varSlots then some 0x202
    else if decide (x.owner? slot ≠ none) && decide (x.owner? slot ≠ some part) then some 0x203
    else if s.requests.any (fun r => decide (r.2.modelId = model ∧ r.2.variant = some slot)) then some 0x204
    else none

/-- The field ranges and reserved bytes of a VARIANT record with an action (Table 12.6). -/
def variantOk (r : CmdRec) (action : Nat) : Bool :=
  decide (rfld r 8 8 % 4096 = 0 ∧ rfld r 22 1 = action) && rzeros r [(23, 41)]

/-- Write records into a slot (R452): the slot has an owner, and M5 takes MODEL_ID, slot, partition and the records'
digest (R594). -/
def State.writeSlot (e slot part : Nat) (recs : List (List Byte)) (s : State) : State :=
  let x := s.entry e
  let s := recs.zipIdx.foldl (fun (s : State) (r : List Byte × Nat) => s.writeRecord x slot r.2 r.1) s
  let s := s.setEntry e { x with owners := kins x.owners slot part }
  let d := sha384 (natToBytes 4 x.modelId ++ natToBytes 2 slot ++ natToBytes 1 part ++ digestBytes (sha384 recs.flatten))
  (s.extend 5 d).placeAll

/-- VARIANT install: the records are fetched into a staging area. -/
def execVariantInstall (t : Nat) (r : CmdRec) (s : State) : Host.Outcome State Fault Refusal :=
  match (s.at t).gate r { known := true, right := some 29, reserves := 1, isLog := false, isRequest := false }
      (variantOk r 1) noRefs with
  | .out s => .next s
  | .ok part s =>
    let h := r.handle.toNat
    let s := s.holdHandle r part .variant 1
    match s.slotError (rfld r 16 4) (rfld r 20 2) part with
    | some code => .next (s.answerKey h code 0)
    | none =>
      let st : Staged := { handle := h, entry := (s.entryOfModel? (rfld r 16 4)).getD 0, slot := rfld r 20 2 }
      .next { s with staged := s.staged ++ [st] }

/-- VARIANT remove: the slot becomes free; a request that its owner would have been served with waits again. -/
def execVariantRemove (t : Nat) (r : CmdRec) (s : State) : Host.Outcome State Fault Refusal :=
  match (s.at t).gate r { known := true, right := some 29, reserves := 1, isLog := false, isRequest := false }
      (variantOk r 2) noRefs with
  | .out s => .next s
  | .ok part s =>
    let h := r.handle.toNat
    let s := s.holdHandle r part .variant 1
    match s.slotError (rfld r 16 4) (rfld r 20 2) part with
    | some code => .next (s.answerKey h code 0)
    | none =>
      let e := (s.entryOfModel? (rfld r 16 4)).getD 0
      let x := s.entry e
      .next (((s.setEntry e { x with owners := kdel x.owners (rfld r 20 2) }).placeAll).answerKey h 0 0)

/-- The records of a staged install have come, or their fetch has failed: the conditions of R452 are checked again, and the
records are written into the slot. -/
def execVariantFetchDone (t : Nat) (handle : BitVec 32) (records : Option (List Byte)) (s : State) :
    Host.Outcome State Fault Refusal :=
  let s := s.at t
  let h := handle.toNat
  match s.staged.find? (fun x => x.handle = h), kfind? s.handles h with
  | some st, some i =>
    let s := { s with staged := s.staged.filter (fun x => x.handle ≠ h) }
    let x := s.entry st.entry
    match records with
    | none => .next (s.answerKey h 0x205 0)
    | some bs =>
      let s := s.portRx i.port (4096 * x.layers)
      match s.slotError x.modelId st.slot i.partition with
      | some code => .next (s.answerKey h code 0)
      | none =>
        let recs := (List.range x.layers).map (fun l => byteSlice bs (4096 * l) 4096)
        .next ((s.writeSlot st.entry st.slot i.partition recs).answerKey h 0 0)
  | _, _ => .next s

/-! ### TUNE (R453) -/

/-- The width of the outputs that variant record `l` adjusts (R109): of the layer with VAR_LAYER l in the job's plan. -/
def tuneWidth (b : Bitstream) (l : Nat) : Nat := match b.plan? 0 with
  | none => 0
  | some p =>
    match p.layers.findIdx? (fun d => d.varAt && decide (d.varLayer = l)) with
    | none => 0
    | some i => 16 * ((p.layers[i]?).map (·.slice16)).getD 0 * (p.runners b.ident.spans i).length

/-- One record after a descent step: the group scales move by one step against their gradients, and each steering value by
STEER_STEP. -/
def tuneRecord (scaleStep : Nat) (steerLam : Int) (width : Nat) (gs vs : List Int) (rec : List Byte) : List Byte :=
  let scales := (List.range 2048).map (fun i =>
    let g := gs.getD i 0
    let s : Int := (rec.getD i 0#8).toNat
    let s' := if g = 0 then s else max 0 (min 255 (s - (if g < 0 then -1 else 1) * 2 ^ scaleStep))
    BitVec.ofInt 8 s')
  let steer := (List.range 512).flatMap (fun i =>
    let o := 2048 + 4 * i
    let idx := leAt rec o 2
    let v := BitVec.ofNat 16 (leAt rec (o + 2) 2)
    let g := vs.getD i 0
    let v' := if idx ≥ width ∨ g = 0 then v
      else (toLns16 (logAdd (lnsOf v) { zero := false, neg := decide (g > 0), lam := steerLam }).1).1
    natToBytes 2 idx ++ natToBytes 2 v'.toNat)
  scales ++ steer

/-- The result of a TUNE goes into OUT_VARIANT under R452; a slot that R452 refuses ends the job with SLOT_BUSY. -/
def State.endTune (id : Nat) (j : Job) (recs : List (List Byte)) (s : State) : State :=
  let e := j.entry.getD 0
  let slot := prm j.params 34 2
  match s.slotError (s.entry e).modelId slot j.partition with
  | some _ => s.pausePoint id (some 0x06)
  | none => (s.writeSlot e slot j.partition recs).pausePoint id (some 0x00)

/-- A descent step of the running TUNE job ends (R453): the gradients of its batch are given, one list of group-scale and
one of steering gradients for each record. The end of a step is a pause point (R433). -/
def execTuneStep (t : Nat) (job : BitVec 16) (groupGrads steerGrads : List (List Int)) (s : State) :
    Host.Outcome State Fault Refusal :=
  let s := s.at t
  let id := job.toNat
  match kfind? s.jobs id, kfind? s.bits id, kfind? s.tune id with
  | some j, some b, some w =>
    if s.running ≠ some id ∨ j.type ≠ JobType.tune ∨ j.ending.isSome then .next s
    else
      let lam := signedField 15 (prm j.params 38 2)
      let recs := w.records.zipIdx.map (fun e =>
        tuneRecord (prm j.params 36 1) lam (tuneWidth b e.2) (groupGrads.getD e.2 []) (steerGrads.getD e.2 []) e.1)
      let n := j.steps + 1
      let s := { s with tune := kins s.tune id { records := recs, next := w.next + 1 },
                        jobs := kupd s.jobs id (fun j => { j with steps := n }) }
      if n < prm j.params 28 4 then .next (s.pausePoint id none)
      else .next (s.endTune id j recs)
  | _, _, _ => .next s

end Sys2Proof.Machine
end

