-- ==== Sys2Proof/Machine/Dispatch.lean ====
section
/-! DEFINITION. What each command does: one arm for each constructor of `Instr`, each a direct call of its meaning. -/

namespace Sys2Proof.Machine
open Sys2Proof

def exec (i : Instr) (s : State) : Host.Outcome State Fault Refusal :=
  match i with
  | .submit t r => Sys2Proof.Machine.execSubmit t r s
  | .cancel t r => Sys2Proof.Machine.execCancel t r s
  | .credit t r => Sys2Proof.Machine.execCredit t r s
  | .query t r => Sys2Proof.Machine.execQuery t r s
  | .logSetup t r => Sys2Proof.Machine.execLogSetup t r s
  | .jobStart t r digest params => Sys2Proof.Machine.execJobStart t r digest params s
  | .jobCtrlEnd t r => Sys2Proof.Machine.execJobCtrlEnd t r s
  | .jobCtrlPreempt t r => Sys2Proof.Machine.execJobCtrlPreempt t r s
  | .jobCtrlResume t r => Sys2Proof.Machine.execJobCtrlResume t r s
  | .variantInstall t r => Sys2Proof.Machine.execVariantInstall t r s
  | .variantRemove t r => Sys2Proof.Machine.execVariantRemove t r s
  | .handover t r => Sys2Proof.Machine.execHandover t r s
  | .handin t r => Sys2Proof.Machine.execHandin t r s
  | .landingOpen t r => Sys2Proof.Machine.execLandingOpen t r s
  | .landingClose t r => Sys2Proof.Machine.execLandingClose t r s
  | .reservedOpcodeRecord t opcode r => Sys2Proof.Machine.execReservedOpcodeRecord t opcode r s
  | .partialLaneWrite t port fn offset len => Sys2Proof.Machine.execPartialLaneWrite t port fn offset len s
  | .bar4Access t port fn offset write data errs => Sys2Proof.Machine.execBar4Access t port fn offset write data errs s
  | .pageOwnerWrite t who port page value => Sys2Proof.Machine.execPageOwnerWrite t who port page value s
  | .registerWrite t who offset value => Sys2Proof.Machine.execRegisterWrite t who offset value s
  | .fetchDone t handle prompt ext => Sys2Proof.Machine.execFetchDone t handle prompt ext s
  | .variantFetchDone t handle records => Sys2Proof.Machine.execVariantFetchDone t handle records s
  | .deadlineScan t => Sys2Proof.Machine.execDeadlineScan t s
  | .handinExpired t handle => Sys2Proof.Machine.execHandinExpired t handle s
  | .msixWindowEnd t port partition => Sys2Proof.Machine.execMsixWindowEnd t port partition s
  | .admissionCut t => Sys2Proof.Machine.execAdmissionCut t s
  | .spanJointArrival l cyc => Sys2Proof.Machine.execSpanJointArrival l cyc s
  | .jointRelease t => Sys2Proof.Machine.execJointRelease t s
  | .keystoneSeal t publishEnd => Sys2Proof.Machine.execKeystoneSeal t publishEnd s
  | .replayStart t => Sys2Proof.Machine.execReplayStart t s
  | .remoteWaitTimeout t => Sys2Proof.Machine.execRemoteWaitTimeout t s
  | .hungTimeout t l => Sys2Proof.Machine.execHungTimeout t l s
  | .landingExpiry t id => Sys2Proof.Machine.execLandingExpiry t id s
  | .nop x => Sys2Proof.Machine.execNop x s
  | .endProgram x => Sys2Proof.Machine.execEndProgram x s
  | .base x add => Sys2Proof.Machine.execBase x add s
  | .loop x a => Sys2Proof.Machine.execLoop x a s
  | .endl x level => Sys2Proof.Machine.execEndl x level s
  | .joint x phase j => Sys2Proof.Machine.execJoint x phase j s
  | .wait x w kind remote => Sys2Proof.Machine.execWait x w kind remote s
  | .cset x ctr value => Sys2Proof.Machine.execCset x ctr value s
  | .blist x w lbase count fromCtr deck => Sys2Proof.Machine.execBlist x w lbase count fromCtr deck s
  | .recv x win base len remote => Sys2Proof.Machine.execRecv x win base len remote s
  | .tmark x mark => Sys2Proof.Machine.execTmark x mark s
  | .layer x desc => Sys2Proof.Machine.execLayer x desc s
  | .tload x w src tset fen fctr deck => Sys2Proof.Machine.execTload x w src tset fen fctr deck s
  | .prun x w a deck => Sys2Proof.Machine.execPrun x w a deck s
  | .lrun x w a deck => Sys2Proof.Machine.execLrun x w a deck s
  | .trun x w a deck => Sys2Proof.Machine.execTrun x w a deck s
  | .pgate x w => Sys2Proof.Machine.execPgate x w s
  | .mkup x w a deck => Sys2Proof.Machine.execMkup x w a deck s
  | .azero x line0 nlines => Sys2Proof.Machine.execAzero x line0 nlines s
  | .conv x w line0 nlines dst dspan rctr seq0 deck => Sys2Proof.Machine.execConv x w line0 nlines dst dspan rctr seq0 deck s
  | .kvapp x w line0 nlines seq0 nspan nctr deck => Sys2Proof.Machine.execKvapp x w line0 nlines seq0 nspan nctr deck s
  | .tblld x slot src deck => Sys2Proof.Machine.execTblld x slot src deck s
  | .attn x w lbase nlist kring krlog2 kctr line0 deck => Sys2Proof.Machine.execAttn x w lbase nlist kring krlog2 kctr line0 deck s
  | .amul x w abase bbase line0 nlines deck => Sys2Proof.Machine.execAmul x w abase bbase line0 nlines deck s
  | .arot x w src pbase nvec line0 deck => Sys2Proof.Machine.execArot x w src pbase nvec line0 deck s
  | .arank x w line0 nseq dst rctr => Sys2Proof.Machine.execArank x w line0 nseq dst rctr s
  | .asamp x w line0 nseq dst => Sys2Proof.Machine.execAsamp x w line0 nseq dst s
  | .mload x raw desc off addr len dst rlog2 sctr fctr fen => Sys2Proof.Machine.execMload x raw desc off addr len dst rlog2 sctr fctr fen s
  | .mstore x addr len src sctr deck => Sys2Proof.Machine.execMstore x addr len src sctr deck s
  | .kvrd x w lbase nlist dst rlog2 sctr fctr fen deck => Sys2Proof.Machine.execKvrd x w lbase nlist dst rlog2 sctr fctr fen deck s
  | .fill x dst len pattern sctr => Sys2Proof.Machine.execFill x dst len pattern sctr s
  | .copy x src dst len sctr => Sys2Proof.Machine.execCopy x src dst len sctr s
  | .gath x w sspan src sstride elen dst sctr => Sys2Proof.Machine.execGath x w sspan src sstride elen dst sctr s
  | .scat x w src ngran rbase => Sys2Proof.Machine.execScat x w src ngran rbase s
  | .send x w src len dspan dst rctr sctr => Sys2Proof.Machine.execSend x w src len dspan dst rctr sctr s
  | .tloadDone l cyc => Sys2Proof.Machine.execTloadDone l cyc s
  | .streamGranuleLanded l cyc slot idx errs deck badRouter => Sys2Proof.Machine.execStreamGranuleLanded l cyc slot idx errs deck badRouter s
  | .streamAck l cyc slot n => Sys2Proof.Machine.execStreamAck l cyc slot n s
  | .kvappAck l cyc errs => Sys2Proof.Machine.execKvappAck l cyc errs s
  | .additionLanded l cyc => Sys2Proof.Machine.execAdditionLanded l cyc s
  | .contextLoad l cyc => Sys2Proof.Machine.execContextLoad l cyc s
  | .scatterEntryApply l cyc bank => Sys2Proof.Machine.execScatterEntryApply l cyc bank s
  | .trestleRecord t check => Sys2Proof.Machine.execTrestleRecord t check s
  | .retest t who => Sys2Proof.Machine.execRetest t who s
  | .trestleRetestDone t pass => Sys2Proof.Machine.execTrestleRetestDone t pass s
  | .bitstreamCopied t job bytes => Sys2Proof.Machine.execBitstreamCopied t job bytes s
  | .loadWrite t => Sys2Proof.Machine.execLoadWrite t s
  | .scrubDone t => Sys2Proof.Machine.execScrubDone t s
  | .idleEnd t job => Sys2Proof.Machine.execIdleEnd t job s
  | .extentSealed t job source => Sys2Proof.Machine.execExtentSealed t job source s
  | .tuneStep t job groupGrads steerGrads => Sys2Proof.Machine.execTuneStep t job groupGrads steerGrads s
  | .hotPin t who entry => Sys2Proof.Machine.execHotPin t who entry s
  | .hotUnpin t who entry => Sys2Proof.Machine.execHotUnpin t who entry s
  | .hotRemove t who entry => Sys2Proof.Machine.execHotRemove t who entry s
  | .pinErase t stack lg pin => Sys2Proof.Machine.execPinErase t stack lg pin s
  | .spareSteer t stack lg pin retrained => Sys2Proof.Machine.execSpareSteer t stack lg pin retrained s
  | .rowRepair t stack bank row granules => Sys2Proof.Machine.execRowRepair t stack bank row granules s
  | .hardRepair t stack ok => Sys2Proof.Machine.execHardRepair t stack ok s
  | .memScrub t stack errs => Sys2Proof.Machine.execMemScrub t stack errs s
  | .deckPatrolScrub p t row corrected uncorrectable => Sys2Proof.Machine.execDeckPatrolScrub p t row corrected uncorrectable s
  | .throttleSample t stack temp => Sys2Proof.Machine.execThrottleSample t stack temp s
  | .spareCtrlErase t who value => Sys2Proof.Machine.execSpareCtrlErase t who value s
  | .spareCtrlSteer t who value => Sys2Proof.Machine.execSpareCtrlSteer t who value s
  | .spareCtrlHardSteer t who value => Sys2Proof.Machine.execSpareCtrlHardSteer t who value s
  | .spareCtrlClearErasure t who value => Sys2Proof.Machine.execSpareCtrlClearErasure t who value s
  | .spareCtrlHardRows t who value => Sys2Proof.Machine.execSpareCtrlHardRows t who value s
  | .strikeLapse t p => Sys2Proof.Machine.execStrikeLapse t p s
  | .spanRetest t who p => Sys2Proof.Machine.execSpanRetest t who p s
  | .spanFence t who p => Sys2Proof.Machine.execSpanFence t who p s
  | .spanTestDone t p pass => Sys2Proof.Machine.execSpanTestDone t p pass s
  | .refetchDone t granule source bytes errs => Sys2Proof.Machine.execRefetchDone t granule source bytes errs s
  | .chipFault t cause => Sys2Proof.Machine.execChipFault t cause s
  | .linkTrained t port lanesOk => Sys2Proof.Machine.execLinkTrained t port lanesOk s
  | .trainingFrame t port lane f => Sys2Proof.Machine.execTrainingFrame t port lane f s
  | .trainRetry t port => Sys2Proof.Machine.execTrainRetry t port s
  | .linkDown t port => Sys2Proof.Machine.execLinkDown t port s
  | .lctl t p => Sys2Proof.Machine.execLctl t p s
  | .hello t p => Sys2Proof.Machine.execHello t p s
  | .write t p => Sys2Proof.Machine.execWrite t p s
  | .wack t p => Sys2Proof.Machine.execWack t p s
  | .read t p => Sys2Proof.Machine.execRead t p s
  | .rdata t p => Sys2Proof.Machine.execRdata t p s
  | .offer t p => Sys2Proof.Machine.execOffer t p s
  | .offerAns t p => Sys2Proof.Machine.execOfferAns t p s
  | .hoCommit t p => Sys2Proof.Machine.execHoCommit t p s
  | .hoAck t p => Sys2Proof.Machine.execHoAck t p s
  | .digest t p => Sys2Proof.Machine.execDigest t p s
  | .extReq t p => Sys2Proof.Machine.execExtReq t p s
  | .extAns t p => Sys2Proof.Machine.execExtAns t p s
  | .probe t p => Sys2Proof.Machine.execProbe t p s
  | .probeAns t p => Sys2Proof.Machine.execProbeAns t p s
  | .claim t p => Sys2Proof.Machine.execClaim t p s
  | .badPacket t type p => Sys2Proof.Machine.execBadPacket t type p s
  | .packetCrcFail t port lseq fec => Sys2Proof.Machine.execPacketCrcFail t port lseq fec s
  | .packetForward t type p => Sys2Proof.Machine.execPacketForward t type p s
  | .chipAssign t who value => Sys2Proof.Machine.execChipAssign t who value s
  | .probeCheckDone t => Sys2Proof.Machine.execProbeCheckDone t s
  | .pullStart t entry => Sys2Proof.Machine.execPullStart t entry s
  | .swingClose t => Sys2Proof.Machine.execSwingClose t s
  | .swingOpen t => Sys2Proof.Machine.execSwingOpen t s
  | .tickSyncPulse t => Sys2Proof.Machine.execTickSyncPulse t s
  | .tickSyncMiss t => Sys2Proof.Machine.execTickSyncMiss t s
  | .refLost t => Sys2Proof.Machine.execRefLost t s
  | .refReturn t => Sys2Proof.Machine.execRefReturn t s
  | .spareTake t who value => Sys2Proof.Machine.execSpareTake t who value s
  | .spareRelease t who value => Sys2Proof.Machine.execSpareRelease t who value s
  | .takeoverWatch t => Sys2Proof.Machine.execTakeoverWatch t s
  | .takeoverDone t => Sys2Proof.Machine.execTakeoverDone t s
  | .lockEnable t who value => Sys2Proof.Machine.execLockEnable t who value s
  | .obsClose t who value => Sys2Proof.Machine.execObsClose t who value s
  | .obsSample t who value => Sys2Proof.Machine.execObsSample t who value s
  | .pctrClose t port vf value => Sys2Proof.Machine.execPctrClose t port vf value s
  | .pctrSample t port vf value => Sys2Proof.Machine.execPctrSample t port vf value s
  | .traceArm t who l value => Sys2Proof.Machine.execTraceArm t who l value s
  | .triggerFire t who value => Sys2Proof.Machine.execTriggerFire t who value s
  | .triggerPoint t => Sys2Proof.Machine.execTriggerPoint t s
  | .traceDrain t n => Sys2Proof.Machine.execTraceDrain t n s
  | .snapshotTake t who value => Sys2Proof.Machine.execSnapshotTake t who value s
  | .snapshotWritten t => Sys2Proof.Machine.execSnapshotWritten t s
  | .secQuote t who value => Sys2Proof.Machine.execSecQuote t who value s
  | .secReseal t who value => Sys2Proof.Machine.execSecReseal t who value s
  | .secRaiseMinSvn t who value => Sys2Proof.Machine.execSecRaiseMinSvn t who value s
  | .secRevokeRoot t who value => Sys2Proof.Machine.execSecRevokeRoot t who value s
  | .secCertificates t who value => Sys2Proof.Machine.execSecCertificates t who value s
  | .secEnrol t who value record => Sys2Proof.Machine.execSecEnrol t who value record s
  | .secRemoveKey t who value => Sys2Proof.Machine.execSecRemoveKey t who value s
  | .debugRead t who value => Sys2Proof.Machine.execDebugRead t who value s
  | .sbRead t m => Sys2Proof.Machine.execSbRead t m s
  | .sbWrite t m => Sys2Proof.Machine.execSbWrite t m s
  | .sbReset t m => Sys2Proof.Machine.execSbReset t m s
  | .sbFaultLog t m => Sys2Proof.Machine.execSbFaultLog t m s
  | .sbSnapshot t m => Sys2Proof.Machine.execSbSnapshot t m s
  | .sbFirmware t m => Sys2Proof.Machine.execSbFirmware t m s
  | .sbQuote t m => Sys2Proof.Machine.execSbQuote t m s
  | .sbUnseal t m => Sys2Proof.Machine.execSbUnseal t m s
  | .sbStreamAbandon t => Sys2Proof.Machine.execSbStreamAbandon t s
  | .firmwareWriteDone t => Sys2Proof.Machine.execFirmwareWriteDone t s
  | .standbyUp t => Sys2Proof.Machine.execStandbyUp t s
  | .standbyLoss t => Sys2Proof.Machine.execStandbyLoss t s
  | .pwrEnChange t high => Sys2Proof.Machine.execPwrEnChange t high s
  | .mainPowerGood t cool portMode => Sys2Proof.Machine.execMainPowerGood t cool portMode s
  | .mainPowerLoss t => Sys2Proof.Machine.execMainPowerLoss t s
  | .perst t port low => Sys2Proof.Machine.execPerst t port low s
  | .portReset t port cause => Sys2Proof.Machine.execPortReset t port cause s
  | .vfFlr t port vf => Sys2Proof.Machine.execVfFlr t port vf s
  | .warmResetRequest t who value => Sys2Proof.Machine.execWarmResetRequest t who value s
  | .coldResetRequest t who value => Sys2Proof.Machine.execColdResetRequest t who value s
  | .resetTakesEffect t => Sys2Proof.Machine.execResetTakesEffect t s
  | .pierBoot t => Sys2Proof.Machine.execPierBoot t s
  | .memTrainDone t failed temps => Sys2Proof.Machine.execMemTrainDone t failed temps s
  | .selftestDone t routersOk spansFailed trestlePass => Sys2Proof.Machine.execSelftestDone t routersOk spansFailed trestlePass s
  | .hostEnable t => Sys2Proof.Machine.execHostEnable t s
  | .brakeApply t => Sys2Proof.Machine.execBrakeApply t s
  | .brakeRelease t => Sys2Proof.Machine.execBrakeRelease t s
  | .dieTempSample t temps => Sys2Proof.Machine.execDieTempSample t temps s
  | .forcedClockStep t => Sys2Proof.Machine.execForcedClockStep t s
  | .memRateCapAdjust t watts => Sys2Proof.Machine.execMemRateCapAdjust t watts s
  | .powerInputSample t mainW mainV stbyW => Sys2Proof.Machine.execPowerInputSample t mainW mainV stbyW s
  | .ingestPackVerified t job pack => Sys2Proof.Machine.execIngestPackVerified t job pack s
  | .handoverConfirmExpiry t handle => Sys2Proof.Machine.execHandoverConfirmExpiry t handle s
  | .pcieLinkUp t port => Sys2Proof.Machine.execPcieLinkUp t port s
  | .registerReadDenied t who offset => Sys2Proof.Machine.execRegisterReadDenied t who offset s
  | .correctionWindowEnd t stack => Sys2Proof.Machine.execCorrectionWindowEnd t stack s

end Sys2Proof.Machine
end

