-- ==== Sys2Proof/WellFormed.lean ====
section
/-! DEFINITION. Which commands are well formed: the operand ranges that the types of `Instr` do not give. A command outside them
is one that the row's own words rule out: another ACTION, a whole lane, a packet of another LEN or VC. -/

namespace Sys2Proof

/-- Byte `k` of a command record (k from 8). -/
def recByte (r : CmdRec) (k : Nat) : Nat := r.body.toNat / 2 ^ (8 * (k - 8)) % 256

/-- A field of `w` bits from bit `lo` of a register value. -/
def fld (value : Word) (lo w : Nat) : Nat := value.toNat / 2 ^ lo % 2 ^ w

/-- The packet types of Table 14.2. -/
def packetTypes : List Nat := [0x00, 0x01, 0x10, 0x11, 0x12, 0x13, 0x20, 0x21, 0x22, 0x23, 0x30, 0x40, 0x41, 0x50, 0x51, 0x52]

/-- The link-local types, and CLAIM, which floods under its own rule (R490). -/
def linkLocal : List Nat := [0x00, 0x01, 0x30, 0x52]

/-- Whether a packet has the VC and the payload length of its type (Table 14.2). -/
abbrev pktOk (p : Pkt) (vc lo hi : Nat) : Prop := p.vc.toNat = vc ∧ lo ≤ p.payload.length ∧ p.payload.length ≤ hi

/-- Whether the outcome of deck-store accesses is one: the reads that the cells waited for are among the corrected ones. -/
abbrev deckOk (u : DeckUse) : Prop := u.late ≤ u.corrected

/-- Whether bits that read wrong lie in codewords of device memory. -/
abbrev errsOk (es : MemErrs) : Prop := ∀ e ∈ es, e.1 < 2 ^ 35

/-- Whether a command is well formed. -/
def Instr.wf (i : Instr) : Bool :=
  match i with
  | .submit .. => true
  | .cancel .. => true
  | .credit .. => true
  | .query .. => true
  | .logSetup .. => true
  | .jobStart .. => true
  | .jobCtrlEnd _ r => decide (recByte r 12 ≠ 2 ∧ recByte r 12 ≠ 3)
  | .jobCtrlPreempt _ r => decide (recByte r 12 ≠ 1 ∧ recByte r 12 ≠ 3)
  | .jobCtrlResume _ r => decide (recByte r 12 ≠ 1 ∧ recByte r 12 ≠ 2)
  | .variantInstall _ r => decide (recByte r 22 ≠ 2)
  | .variantRemove _ r => decide (recByte r 22 ≠ 1)
  | .handover .. => true
  | .handin .. => true
  | .landingOpen _ r => decide (recByte r 21 ≠ 2)
  | .landingClose _ r => decide (recByte r 21 ≠ 1)
  | .reservedOpcodeRecord _ opcode _ => decide (opcode = 0 ∨ 11 < opcode.toNat)
  | .partialLaneWrite _ _ _ offset len => decide (0 < len ∧ ¬(offset % 64 = 0 ∧ len = 64) ∧ offset % 64 + len ≤ 64 ∧ offset + len ≤ 524288)
  | .bar4Access _ _ _ offset _ data errs => decide (0 < data.length ∧ offset + data.length ≤ 2 ^ 36 ∧ errsOk errs)
  | .pageOwnerWrite .. => true
  | .registerWrite _ _ offset _ => decide (offset.toNat % 4 = 0)
  | .fetchDone .. => true
  | .variantFetchDone .. => true
  | .deadlineScan .. => true
  | .handinExpired .. => true
  | .msixWindowEnd .. => true
  | .admissionCut .. => true
  | .spanJointArrival .. => true
  | .jointRelease .. => true
  | .keystoneSeal t publishEnd => decide (t ≤ publishEnd)
  | .replayStart .. => true
  | .remoteWaitTimeout .. => true
  | .hungTimeout .. => true
  | .landingExpiry .. => true
  | .nop .. => true
  | .endProgram .. => true
  | .base .. => true
  | .loop .. => true
  | .endl .. => true
  | .joint .. => true
  | .wait .. => true
  | .cset .. => true
  | .blist _ _ _ _ _ deck => decide (deckOk deck)
  | .recv .. => true
  | .tmark .. => true
  | .layer .. => true
  | .tload _ _ _ _ _ _ deck => decide (deckOk deck)
  | .prun _ _ _ deck => decide (deckOk deck)
  | .lrun _ _ _ deck => decide (deckOk deck)
  | .trun _ _ _ deck => decide (deckOk deck)
  | .pgate .. => true
  | .mkup _ _ _ deck => decide (deckOk deck)
  | .azero .. => true
  | .conv _ _ _ _ _ _ _ _ deck => decide (deckOk deck)
  | .kvapp _ _ _ _ _ _ _ deck => decide (deckOk deck)
  | .tblld _ _ _ deck => decide (deckOk deck)
  | .attn _ _ _ _ _ _ _ _ deck => decide (deckOk deck)
  | .amul _ _ _ _ _ _ deck => decide (deckOk deck)
  | .arot _ _ _ _ _ _ deck => decide (deckOk deck)
  | .arank .. => true
  | .asamp .. => true
  | .mload .. => true
  | .mstore _ _ _ _ _ deck => decide (deckOk deck)
  | .kvrd _ _ _ _ _ _ _ _ _ deck => decide (deckOk deck)
  | .fill .. => true
  | .copy .. => true
  | .gath .. => true
  | .scat .. => true
  | .send .. => true
  | .tloadDone .. => true
  | .streamGranuleLanded _ _ _ _ errs deck _ => decide (errsOk errs ∧ deckOk deck)
  | .streamAck .. => true
  | .kvappAck _ _ errs => decide (errsOk errs)
  | .additionLanded .. => true
  | .contextLoad .. => true
  | .scatterEntryApply .. => true
  | .trestleRecord .. => true
  | .retest .. => true
  | .trestleRetestDone .. => true
  | .bitstreamCopied .. => true
  | .loadWrite .. => true
  | .scrubDone .. => true
  | .idleEnd .. => true
  | .extentSealed .. => true
  | .tuneStep .. => true
  | .hotPin .. => true
  | .hotUnpin .. => true
  | .hotRemove .. => true
  | .pinErase .. => true
  | .spareSteer .. => true
  | .rowRepair .. => true
  | .hardRepair .. => true
  | .memScrub _ _ errs => decide (errsOk errs)
  | .deckPatrolScrub .. => true
  | .throttleSample .. => true
  | .spareCtrlErase _ _ value => decide (fld value 5 3 = 1)
  | .spareCtrlSteer _ _ value => decide (fld value 5 3 = 2)
  | .spareCtrlHardSteer _ _ value => decide (fld value 5 3 = 3)
  | .spareCtrlClearErasure _ _ value => decide (fld value 5 3 = 4)
  | .spareCtrlHardRows _ _ value => decide (fld value 5 3 = 5)
  | .strikeLapse .. => true
  | .spanRetest .. => true
  | .spanFence .. => true
  | .spanTestDone .. => true
  | .refetchDone _ _ _ _ errs => decide (errsOk errs)
  | .chipFault .. => true
  | .linkTrained .. => true
  | .trainingFrame .. => true
  | .trainRetry .. => true
  | .linkDown .. => true
  | .lctl _ p => decide (pktOk p 0 0 0)
  | .hello _ p => decide (pktOk p 0 0 0)
  | .write _ p => decide (pktOk p 2 1 128)
  | .wack _ p => decide (pktOk p 3 0 0)
  | .read _ p => decide (pktOk p 1 0 0)
  | .rdata _ p => decide (pktOk p 2 1 128)
  | .offer _ p => decide (pktOk p 1 16 16)
  | .offerAns _ p => decide (pktOk p 3 0 0)
  | .hoCommit _ p => decide (pktOk p 1 0 0)
  | .hoAck _ p => decide (pktOk p 3 0 0)
  | .digest _ p => decide (pktOk p 0 2 2)
  | .extReq _ p => decide (pktOk p 1 4 4)
  | .extAns _ p => decide (pktOk p 3 0 0)
  | .probe _ p => decide (pktOk p 0 0 0)
  | .probeAns _ p => decide (pktOk p 0 0 0)
  | .claim _ p => decide (pktOk p 0 0 0)
  | .badPacket _ type p => decide (¬packetTypes.contains type.toNat ∧ p.payload.length ≤ 128)
  | .packetCrcFail .. => true
  | .packetForward _ type p => decide (packetTypes.contains type.toNat ∧ ¬linkLocal.contains type.toNat ∧ p.payload.length ≤ 128)
  | .chipAssign .. => true
  | .probeCheckDone .. => true
  | .pullStart .. => true
  | .swingClose .. => true
  | .swingOpen .. => true
  | .tickSyncPulse .. => true
  | .tickSyncMiss .. => true
  | .refLost .. => true
  | .refReturn .. => true
  | .spareTake _ _ value => decide (fld value 30 2 = 1)
  | .spareRelease _ _ value => decide (fld value 30 2 = 2)
  | .takeoverWatch .. => true
  | .takeoverDone .. => true
  | .lockEnable .. => true
  | .obsClose .. => true
  | .obsSample .. => true
  | .pctrClose _ _ _ value => decide (fld value 31 1 = 1)
  | .pctrSample .. => true
  | .traceArm .. => true
  | .triggerFire _ _ value => decide (fld value 31 1 = 1)
  | .triggerPoint .. => true
  | .traceDrain .. => true
  | .snapshotTake _ _ value => decide (fld value 31 1 = 1)
  | .snapshotWritten .. => true
  | .secQuote _ _ value => decide (fld value 28 4 = 1)
  | .secReseal _ _ value => decide (fld value 28 4 = 2)
  | .secRaiseMinSvn _ _ value => decide (fld value 28 4 = 3)
  | .secRevokeRoot _ _ value => decide (fld value 28 4 = 4)
  | .secCertificates _ _ value => decide (fld value 28 4 = 5)
  | .secEnrol _ _ value _ => decide (fld value 28 4 = 6)
  | .secRemoveKey _ _ value => decide (fld value 28 4 = 7)
  | .debugRead .. => true
  | .sbRead _ m => decide (m.payload.length ≤ 1040)
  | .sbWrite _ m => decide (m.payload.length ≤ 1040)
  | .sbReset _ m => decide (m.payload.length ≤ 1040)
  | .sbFaultLog _ m => decide (m.payload.length ≤ 1040)
  | .sbSnapshot _ m => decide (m.payload.length ≤ 1040)
  | .sbFirmware _ m => decide (m.payload.length ≤ 1040)
  | .sbQuote _ m => decide (m.payload.length ≤ 1040)
  | .sbUnseal _ m => decide (m.payload.length ≤ 1040)
  | .sbStreamAbandon .. => true
  | .firmwareWriteDone .. => true
  | .standbyUp .. => true
  | .standbyLoss .. => true
  | .pwrEnChange .. => true
  | .mainPowerGood .. => true
  | .mainPowerLoss .. => true
  | .perst .. => true
  | .portReset .. => true
  | .vfFlr .. => true
  | .warmResetRequest _ _ value => decide (fld value 30 2 = 1)
  | .coldResetRequest _ _ value => decide (fld value 30 2 = 2)
  | .resetTakesEffect .. => true
  | .pierBoot .. => true
  | .memTrainDone _ _ temps => decide (temps.length = 32)
  | .selftestDone .. => true
  | .hostEnable .. => true
  | .brakeApply .. => true
  | .brakeRelease .. => true
  | .dieTempSample _ temps => decide (temps.length = 16)
  | .forcedClockStep .. => true
  | .memRateCapAdjust .. => true
  | .powerInputSample .. => true
  | .ingestPackVerified .. => true
  | .handoverConfirmExpiry .. => true
  | .pcieLinkUp .. => true
  | .registerReadDenied _ _ offset => decide (offset.toNat % 4 = 0)
  | .correctionWindowEnd .. => true

end Sys2Proof
end

