-- ==== Sys2Proof/Safety.lean ====
section
/-! DEFINITION. What claims are stated with: what outlasts every reset, the legal states of the fuses and of the root of
trust, the canonical form of the memories, and what a step answers. -/

namespace Sys2Proof.Machine
open Sys2Proof

/-- What no command but a few of the root of trust and the resets touches: the queue, the fuses, the counts that flash holds for
the module's life, and the seal. -/
structure Lasting where
  pending : List Instr
  fuses : Fuses
  unsealCount : BitVec 32
  topA : Nat
  topB : Nat
  isOpen : Bool                        -- the module is unsealed
deriving DecidableEq, Repr

/-- These parts of a state. -/
def State.lasting (s : State) : Lasting :=
  { pending := s.pending, fuses := s.fuses, unsealCount := s.flash.unsealCount, topA := s.flash.reservedTopA,
    topB := s.flash.reservedTopB, isOpen := s.sec.isOpen }

/-- The state that an outcome goes on with, if any. -/
def nextOf (o : Host.Outcome State Fault Refusal) : Option State := match o with
  | .next s => some s
  | .fault _ => none
  | .refused _ => none

/-- Legal fuses: MIN_SVN counts 0 to 63 (R592), and a root pair is left (R587). -/
def Fuses.legal (f : Fuses) : Prop := f.minSvn ≤ 63 ∧ f.revoked ≠ 0xF#4

/-- The lasting parts of one state may come after those of another by any command but SB_UNSEAL: same queue; the same module by
its other fuses; MIN_SVN no lower, no root pair back; UNSEAL_COUNT the same; RESERVED_TOP no lower; legal fuses stay legal; the
module is unsealed only if it was. -/
structure Lasting.before (a b : Lasting) : Prop where
  pending : b.pending = a.pending
  module : { b.fuses with minSvn := 0, revoked := 0 } = { a.fuses with minSvn := 0, revoked := 0 }
  svn : a.fuses.minSvn ≤ b.fuses.minSvn
  revoked : ∀ i : Fin 4, a.fuses.revoked.getLsbD i → b.fuses.revoked.getLsbD i
  unsealed : b.unsealCount = a.unsealCount
  top : max a.topA a.topB ≤ max b.topA b.topB
  legal : a.fuses.legal → b.fuses.legal
  opened : b.isOpen = true → a.isOpen = true

/-- The lasting parts after the seal opened: one more unsealing counted (R596, R600). -/
def Lasting.opens (a : Lasting) : Lasting := { a with unsealCount := a.unsealCount + 1, isOpen := true }

/-- Whether device memory and a deck store are in the canonical form: addresses strictly rising, no byte of zero listed. -/
def Memory.wf (m : List Host.Cell) : Bool := kwf 0#8 m

/-- A command of the management role, sent by `who` at time `t` in state `s`, acts in state `y`: by the physical function of an
open port, whose four bytes are counted, or by the sideband while it serves every register. -/
def Reached (t : Nat) (who : Requester) (s y : State) : Prop :=
  (∃ p : Fin 4, who = .pf p ∧ s.portOpen p.val = true ∧ y = (s.at t).portRx p.val 4)
    ∨ (who = .sideband ∧ s.sbFull = true ∧ y = s.at t)

/-- Whether a command is SB_UNSEAL, the one command that may open the seal (R600). -/
def isUnseal : Instr → Bool
  | .sbUnseal _ _ => true
  | _ => false

/-- The state after `n` steps: that of the last step that answered a next state. -/
def State.after : Nat → State → State
  | 0, s => s
  | n + 1, s => ((nextOf (step s)).getD s).after n

/-! ### Command records that pass their checks (R389) -/

/-- A record of kind `k` passes every check of R389 in state `s`, for partition `part` with log `g`: it comes on an open port
that withholds no credit, to a page of its function; its handle names its own port and lane, bears the SEQ expected and is not in flight; its function has the
right; its reserved byte is zero; what it refers to is there; the partition's quota and the tables have room; and the log has room
for its reservation. -/
structure Passes (s : State) (r : CmdRec) (k : CmdKind) (refs : State → Nat → Option Nat) (part : Nat) (g : EventLog) : Prop where
  portOpen : s.portOpen r.port.val = true
  credit : s.withholds r.port.val = false
  page : s.pagePart? r.port.val r.fn (r.lane.toNat / 64) = some part
  log : s.log? r.port.val part = some g
  known : k.known = true
  notLog : k.isLog = false
  port : handlePort r.handle.toNat = r.port.val
  lane : handleLane r.handle.toNat = r.lane.toNat
  seq : handleSeq r.handle.toNat = s.laneSeq r.port.val r.lane.toNat
  fresh : kfind? s.handles r.handle.toNat = none
  right : r.fn = .pf ∨ ∀ b, k.right = some b → s.regb (tollPart part) b = true
  notPair : k.pairDenied = true → s.regb 0x090050 31 = false
  reserved : r.rsvd = 0
  refers : ∀ x, refs x part = none
  quota : s.regf (tollPart part) 0 17 = 0 ∨ s.handlesOf part < s.regf (tollPart part) 0 17
  handles : s.handles.length < 131072
  requests : k.isRequest = true → s.requests.length < 262144
  room : g.reserved + k.reserves ≤ min (g.free + r.credits.toNat) (2 ^ g.log2)

/-- `u` is `s` after a record of kind `k` has passed its checks: the lane awaits the next SEQ, the record's CREDITS are returned to
the log and its reservation is made in it; nothing else changed but counters and the partition's window. -/
structure Reserved (s : State) (r : CmdRec) (k : CmdKind) (part : Nat) (g : EventLog) (u : State) : Prop where
  lanes : u.lanes = kset 0 s.lanes (8192 * r.port.val + r.lane.toNat) ((handleSeq r.handle.toNat + 1) % 2 ^ 17)
  log : u.log? r.port.val part = some { g with free := min (g.free + r.credits.toNat) (2 ^ g.log2),
                                               reserved := g.reserved + k.reserves }
  frame : u = { s with counters := u.counters, obs := u.obs, logs := u.logs, lanes := u.lanes }

/-! ### The packets of the viaduct (R464 to R470) -/

/-- A packet that its module processes: it comes in sequence on a port that is up and is no lock-step link, at a module whose
number is assigned, checked and single, and it is for a number that the module holds. -/
structure Arrives (p : Pkt) (s : State) : Prop where
  up : (s.cefin p.port.val).up = true
  inSequence : p.lseq.toNat = (s.cefin p.port.val).rxSeq
  notLock : s.lockPort p.port.val = false
  assigned : s.assigned = true
  single : s.via.duplicate = false
  checked : s.via.checked = true
  mine : s.ownNumber p.dst.toNat = true

/-- The state that a packet in sequence acts in: its bytes and corrected codewords counted, the next LSEQ awaited, and the packet
acknowledged. -/
def State.arrived (t : Nat) (p : Pkt) (s : State) : State :=
  (((s.at t).cameIn p.port.val p).modCefin p.port.val (fun x =>
    { x with rxSeq := (x.rxSeq + 1) % 4096, asked := false })).sendLctl p.port.val (some p.lseq.toNat) none
      ((List.range 4).map (fun v => if v = p.vc.toNat then pktUnits p else 0))

/-- The deck store of physical span `q`, bound to a span of the run, has been asked in cycle `cyc` by a sender outside the module to
write granules `gs` from granule `g` on, each of which raises arrival counter `c` as it lands when `feed`, and the last of which `ack`
acknowledges; nothing else of that span or of another has changed. -/
structure GranulesAsked (q g c cyc : Nat) (feed : Bool) (ack : Option (Nat × Nat)) (gs : List (BitVec 256)) (s z : State) : Prop where
  others : ∀ k, k ≠ q → z.span k = s.span k
  asked : z.span q = { s.span q with puts := (s.span q).puts ++ gs.zipIdx.map (fun e =>
    { DeckPut.clean cyc .stream 128 (g + e.2) e.1 (if feed then .ctr c 1 else .nothing) with ack := ack }) }

/-! ### The issue of a span instruction (R267) -/

/-- The issue operands as a program word spells them: without the span and the cycle. -/
def bareOf (i : Issue) : Issue := { i with l := 0, cyc := 0 }

/-- The instruction `x` at PC of the span bound to `i.l`, physical span `p`, can issue in cycle `i.cyc` of `s`, a state settled up
to that cycle: a run is in progress, the span runs a program and waits at no joint, IX names an open loop, the stamp has come, no
instruction has issued in that cycle or a later one, the unit is free, and the wait group is met. -/
structure Issuable (s : State) (i : Issue) (x : Instr) (u : SpanUnit) (w : WaitGroup) (p : Nat) (ix : Ix) : Prop where
  presented : s.presented i.l.val x = some p
  indexed : (s.span p).seq.ix? i.ix.toNat = some ix
  inTime : s.planned (s.span p).seq i.stamp.toNat ≤ i.cyc
  inOrder : ∀ k, (s.span p).seq.lastIssue = some k → k < i.cyc
  unitFree : (s.span p).unitHold u i.cyc = none
  counted : (s.span p).waitHold w = none

/-- The context that the instruction acts in. -/
def State.ctxOf (s : State) (i : Issue) (p : Nat) (ix : Ix) : Ctx :=
  { l := i.l.val, p := p, pc := (s.span p).seq.pc, cyc := i.cyc, ix := ix }

/-- `z` is the state in which the instruction acts: it has issued, and nothing else has changed. PC is one further, the lateness
is that against the planned issue, a consuming wait group takes its value from its counter in this cycle; trace records and
counters may have moved. -/
structure Issued (s : State) (i : Issue) (w : WaitGroup) (p : Nat) (z : State) : Prop where
  frame : z = { s with spans := z.spans }
  others : ∀ k, k ≠ p → z.span k = s.span k
  issued : ∃ tr cs cl, z.span p = { s.span p with
    trace := tr, counters := cs
    seq := { (s.span p).seq with
      pc := (s.span p).seq.pc + 1, lastIssue := some i.cyc, since := i.cyc + 1, waitFrom := none, remoteSince := none,
      lastPhaseJoint := false, hold := none, classes := cl,
      late := ((i.cyc - s.planned (s.span p).seq i.stamp.toNat : Nat) : Int),
      ctrOps := (s.span p).seq.ctrOps ++ (if w.en && w.cons then
        [{ cyc := i.cyc, ctr := w.ctr.toNat, what := .sub, n := w.val.toNat }] else []) } }

/-- A program that runs past its last word is a program fault (R273). -/
def State.pastEnd (c : Ctx) (s : State) : State :=
  if s.tick.active ∧ (s.span c.p).seq.pc > 4095 ∧ !(s.span c.p).seq.ended then s.faultAt c 0x01 else s

end Sys2Proof.Machine
end

