-- ==== Sys2Proof/Laws/KMap.lean ====
section
/-! SUPPORT. Maps by key: what a write leaves at each key, and that every operation keeps the canonical form; the same of device
memory and the deck stores, which are such maps. -/

namespace Sys2Proof.Machine
open Sys2Proof

/-! ### Sorted keys -/

/-- Every key of a map lies above `k`. -/
def kabove {α : Type} (k : Nat) (m : List (Nat × α)) : Prop := ∀ e ∈ m, k < e.1

theorem ksorted_cons {α : Type} (e : Nat × α) (m : List (Nat × α)) :
    ksorted (e :: m) = true ↔ kabove e.1 m ∧ ksorted m = true := by
  induction m generalizing e with
  | nil => simp [ksorted, kabove]
  | cons b r ih =>
    simp only [ksorted, Bool.and_eq_true, decide_eq_true_eq]
    rw [ih b]
    constructor
    · rintro ⟨h1, h2, h3⟩
      refine ⟨fun x hx => ?_, h2, h3⟩
      rcases List.mem_cons.1 hx with rfl | hx
      · exact h1
      · exact Nat.lt_trans h1 (h2 x hx)
    · rintro ⟨h1, h2⟩
      exact ⟨h1 b (List.mem_cons_self ..), h2⟩

theorem kabove_kput {α : Type} {k j : Nat} {m : List (Nat × α)} (h : kabove k m) (hj : k < j) (o : Option α) :
    kabove k (kput m j o) := by
  induction m with
  | nil => cases o <;> simp [kput, kabove, hj]
  | cons b r ih =>
    have hr : kabove k r := fun e he => h e (List.mem_cons_of_mem _ he)
    have hb : k < b.1 := h b (List.mem_cons_self ..)
    have ih := ih hr
    obtain ⟨bk, bv⟩ := b
    simp only [kput]
    intro e he
    split at he
    · cases o with
      | none =>
        rcases List.mem_cons.1 he with rfl | he
        · exact hb
        · exact ih e he
      | some v =>
        rcases List.mem_cons.1 he with rfl | he
        · exact hj
        · exact h e he
    · split at he
      · cases o with
        | none => exact ih e he
        | some v =>
          rcases List.mem_cons.1 he with rfl | he
          · exact hj
          · exact hr e he
      · rcases List.mem_cons.1 he with rfl | he
        · exact hb
        · exact ih e he

theorem kabove_kdel {α : Type} {j : Nat} {m : List (Nat × α)} (h : kabove j m) (k : Nat) : kabove j (kput m k none) := by
  induction m with
  | nil => exact h
  | cons b r ih =>
    have ih := ih (fun e he => h e (List.mem_cons_of_mem _ he))
    have hb := h b (List.mem_cons_self ..)
    obtain ⟨bk, bv⟩ := b
    simp only [kput]
    intro e he
    split at he
    · rcases List.mem_cons.1 he with rfl | he
      · exact hb
      · exact ih e he
    · split at he
      · exact ih e he
      · rcases List.mem_cons.1 he with rfl | he
        · exact hb
        · exact ih e he

/-- A write keeps the keys strictly rising. -/
theorem ksorted_kput {α : Type} {m : List (Nat × α)} (h : ksorted m = true) (k : Nat) (o : Option α) :
    ksorted (kput m k o) = true := by
  induction m with
  | nil => cases o <;> rfl
  | cons b r ih =>
    obtain ⟨bk, bv⟩ := b
    obtain ⟨ha, hs⟩ := (ksorted_cons _ _).1 h
    have ih := ih hs
    simp only [kput]
    split
    · rename_i hk
      cases o with
      | none => exact (ksorted_cons _ _).2 ⟨kabove_kdel ha k, ih⟩
      | some v =>
        refine (ksorted_cons _ _).2 ⟨fun e he => ?_, h⟩
        rcases List.mem_cons.1 he with rfl | he
        · exact hk
        · exact Nat.lt_trans hk (ha e he)
    · split
      · rename_i hk
        subst hk
        cases o with
        | none => exact ih
        | some v => exact (ksorted_cons _ _).2 ⟨ha, hs⟩
      · exact (ksorted_cons _ _).2 ⟨kabove_kput ha (by simp only; omega) o, ih⟩

/-! ### What a write leaves -/

/-- A write leaves at its own key what it writes. -/
@[simp] theorem kfind?_kput_same {α : Type} (m : List (Nat × α)) (k : Nat) (o : Option α) : kfind? (kput m k o) k = o := by
  induction m with
  | nil => cases o <;> simp [kput, kfind?]
  | cons b r ih =>
    obtain ⟨bk, bv⟩ := b
    simp only [kput]
    split
    · rename_i hk
      cases o with
      | none => simp only [kfind?, if_neg (Nat.ne_of_lt hk), ih]
      | some v => simp [kfind?]
    · split
      · cases o with
        | none => exact ih
        | some v => simp [kfind?]
      · rename_i h1 h2
        simp only [kfind?, if_neg h2, ih]

/-- A write leaves every other key alone. -/
theorem kfind?_kput_other {α : Type} (m : List (Nat × α)) {k j : Nat} (hj : j ≠ k) (o : Option α) :
    kfind? (kput m k o) j = kfind? m j := by
  induction m with
  | nil => cases o <;> simp [kput, kfind?, hj]
  | cons b r ih =>
    obtain ⟨bk, bv⟩ := b
    simp only [kput]
    split
    · cases o with
      | none => simp only [kfind?, ih]
      | some v => simp only [kfind?, if_neg hj]
    · split
      · rename_i hk
        subst hk
        cases o <;> simp only [kfind?, if_neg hj, ih]
      · simp only [kfind?, ih]

@[simp] theorem kfind?_kins_same {α : Type} (m : List (Nat × α)) (k : Nat) (v : α) : kfind? (kins m k v) k = some v :=
  kfind?_kput_same m k _

theorem kfind?_kins_other {α : Type} (m : List (Nat × α)) {k j : Nat} (hj : j ≠ k) (v : α) :
    kfind? (kins m k v) j = kfind? m j := kfind?_kput_other m hj _

@[simp] theorem kget_kset_same {α : Type} [DecidableEq α] (d : α) (m : List (Nat × α)) (k : Nat) (v : α) :
    kget d (kset d m k v) k = v := by
  unfold kget kset
  rw [kfind?_kput_same]
  split
  · rename_i hv; rw [hv]; rfl
  · rfl

theorem kget_kset_other {α : Type} [DecidableEq α] (d : α) (m : List (Nat × α)) {k j : Nat} (hj : j ≠ k)
    (v : α) : kget d (kset d m k v) j = kget d m j := by
  unfold kget kset
  rw [kfind?_kput_other m hj]

@[simp] theorem kfind?_kdel_same {α : Type} (m : List (Nat × α)) (k : Nat) : kfind? (kdel m k) k = none :=
  kfind?_kput_same m k _

theorem kfind?_kdel_other {α : Type} (m : List (Nat × α)) {k j : Nat} (hj : j ≠ k) :
    kfind? (kdel m k) j = kfind? m j := kfind?_kput_other m hj _

/-! ### The canonical form -/

theorem all_kput {α : Type} {p : α → Bool} {m : List (Nat × α)} (h : m.all (fun e => p e.2) = true) (k : Nat) (o : Option α)
    (ho : ∀ v, o = some v → p v = true) : (kput m k o).all (fun e => p e.2) = true := by
  induction m with
  | nil => cases o <;> simp_all [kput]
  | cons b r ih =>
    obtain ⟨bk, bv⟩ := b
    simp only [List.all_cons, Bool.and_eq_true] at h
    have ih := ih h.2
    simp only [kput]
    split
    · cases o with
      | none => simpa [h.1] using ih
      | some v => simpa [ho v rfl] using h
    · split
      · cases o with
        | none => exact ih
        | some v => simpa [ho v rfl] using h.2
      · simp only [List.all_cons, Bool.and_eq_true]
        exact ⟨h.1, ih⟩

/-- A write keeps the canonical form. -/
theorem kwf_kset {α : Type} [DecidableEq α] {d : α} {m : List (Nat × α)} (h : kwf d m = true) (k : Nat) (v : α) :
    kwf d (kset d m k v) = true := by
  unfold kwf at h ⊢
  rw [Bool.and_eq_true] at h ⊢
  refine ⟨ksorted_kput h.1 _ _, ?_⟩
  refine all_kput (p := fun x => decide (x ≠ d)) h.2 k _ (fun w hw => ?_)
  split at hw
  · cases hw
  · cases hw; simpa using ‹_›

theorem kwf_sorted {α : Type} [DecidableEq α] {d : α} {m : List (Nat × α)} (h : kwf d m = true) : ksorted m = true := by
  unfold kwf at h; exact (Bool.and_eq_true _ _ ▸ h).1

/-! ### Device memory and deck stores -/

/-- Setting bytes keeps the canonical form of a memory. -/
theorem Memory.wf_setBytes {m : List Host.Cell} (h : Memory.wf m = true) (l : List (Nat × Byte)) :
    Memory.wf (setBytes m l) = true := by
  unfold setBytes
  induction l generalizing m with
  | nil => exact h
  | cons e r ih => exact ih (kwf_kset h e.1 e.2)

/-- Setting bytes leaves every byte it does not name. -/
theorem setBytes_other (m : List Host.Cell) (l : List (Nat × Byte)) {a : Nat}
    (ha : ∀ e ∈ l, e.1 ≠ a) : kget 0#8 (setBytes m l) a = kget 0#8 m a := by
  unfold setBytes
  induction l generalizing m with
  | nil => rfl
  | cons e r ih =>
    rw [List.foldl_cons, ih _ (fun x hx => ha x (List.mem_cons_of_mem _ hx))]
    exact kget_kset_other _ _ (fun hh => ha e (List.mem_cons_self ..) hh.symm) _

/-- A byte that is set once and not again reads back. -/
theorem setBytes_same (m : List Host.Cell) (l r : List (Nat × Byte)) (a : Nat) (b : Byte)
    (hr : ∀ e ∈ r, e.1 ≠ a) : kget 0#8 (setBytes m (l ++ (a, b) :: r)) a = b := by
  have : setBytes m (l ++ (a, b) :: r) = setBytes (kset 0#8 (setBytes m l) a b) r := by
    unfold setBytes; rw [List.foldl_append, List.foldl_cons]
  rw [this, setBytes_other _ r hr]
  exact kget_kset_same _ _ a b

/-- Writing a granule of a deck store keeps its canonical form. -/
theorem Span.wf_putG {x : Span} (h : Memory.wf x.deck = true) (g : Nat) (v : BitVec 256) (p f : Bool) :
    Memory.wf (x.putG g v p f).deck = true := by
  simp only [Span.putG]; exact Memory.wf_setBytes h _

theorem Memory.wf_reset : Memory.wf State.reset.mem.bytes = true := rfl

end Sys2Proof.Machine
end

