-- ==== Sys2Proof/Laws/LastingBase.lean ====
section
/-! SUPPORT. The lasting parts of a state under record updates, choices and folds. -/

namespace Sys2Proof.Machine
open Sys2Proof

/-- The lasting parts that an outcome goes on with. -/
def outLasting (o : Host.Outcome State Fault Refusal) : Option Lasting := (nextOf o).map State.lasting

@[simp] theorem outLasting_next (s : State) : outLasting (.next s) = some s.lasting := rfl

theorem outLasting_ite {c : Prop} [Decidable c] (a b : Host.Outcome State Fault Refusal) :
    outLasting (if c then a else b) = if c then outLasting a else outLasting b := by split <;> rfl

@[simp] theorem lasting_eta (s : State) :
    (⟨s.pending, s.fuses, s.flash.unsealCount, s.flash.reservedTopA, s.flash.reservedTopB, s.sec.isOpen⟩ : Lasting) = s.lasting := rfl

@[simp] theorem lasting_mk (x0 : List Instr) (x1 : List Out) (x2 : Option Publish) (x3 : Nat) (x4 : Int) (x5 : Nat)
    (x6 : List (Nat × BitVec 32)) (x7 : CycStart) (x8 : List (Nat × Counter)) (x9 : Fuses) (x10 : Flash) (x11 : Boot) (x12
    : Power) (x13 : Sideband) (x14 : Sec) (x15 : Obs) (x16 : List (Nat × MapEntry)) (x17 : BitVec 8) (x18 : List (Nat ×
    Span)) (x19 : List (Nat × Port)) (x20 : List Nat) (x21 : List (Nat × Nat)) (x22 : List (Nat × HandleInfo)) (x23 : List
    (Nat × Nat)) (x24 : List (Nat × EventLog)) (x25 : List (Nat × Request)) (x26 : List Waiting) (x27 : Nat) (x28 : List
    (Nat × Job)) (x29 : List (Nat × Job)) (x30 : Option Nat) (x31 : Nat) (x32 : List (Nat × Bitstream)) (x33 : List (Nat ×
    Nat)) (x34 : Option Load) (x35 : BitVec 32) (x36 : BitVec 32) (x37 : List CacheEntry) (x38 : List (Nat × HotEntry))
    (x39 : List Staged) (x40 : List (Nat × Tune)) (x41 : KvStore) (x42 : List (Nat × KvStore)) (x43 : List (Nat ×
    Governor)) (x44 : List (Nat × Tick)) (x45 : List (Nat × List SpanKept)) (x46 : List DeckRoute) (x47 : Tick) (x48 :
    Governor) (x49 : TrestleUnit) (x50 : DevMem) (x51 : List (Nat × Landing)) (x52 : Viaduct) (x53 : FaultMgr) :
    State.lasting ⟨x0, x1, x2, x3, x4, x5, x6, x7, x8, x9, x10, x11, x12, x13, x14, x15, x16, x17, x18, x19, x20, x21,
    x22, x23, x24, x25, x26, x27, x28, x29, x30, x31, x32, x33, x34, x35, x36, x37, x38, x39, x40, x41, x42, x43, x44,
    x45, x46, x47, x48, x49, x50, x51, x52, x53⟩ = ⟨x0, x9, x10.unsealCount, x10.reservedTopA, x10.reservedTopB,
    x14.isOpen⟩ := rfl

@[simp] theorem lasting_ite {c : Prop} [Decidable c] (a b : State) :
    (if c then a else b).lasting = if c then a.lasting else b.lasting := by split <;> rfl

/-- A fold whose every step keeps the lasting parts keeps them. -/
@[simp] theorem foldl_lasting {α : Type} (f : State → α → State) (l : List α) (s : State)
    (h : ∀ s a, (f s a).lasting = s.lasting) : (l.foldl f s).lasting = s.lasting := by
  induction l generalizing s with
  | nil => rfl
  | cons a r ih => rw [List.foldl_cons, ih, h]

/-- A fold whose every step keeps a view of its accumulator keeps it. -/
theorem foldl_keeps {α β γ : Type} (p : β → γ) (f : β → α → β) (l : List α) (b : β) (h : ∀ b a, p (f b a) = p b) :
    p (l.foldl f b) = p b := by
  induction l generalizing b with
  | nil => rfl
  | cons a r ih => rw [List.foldl_cons, ih, h]

/-- A fold whose accumulator ends in a state. -/
theorem foldl_lasting_snd {α β : Type} (f : β × State → α → β × State) (l : List α) (b : β × State)
    (h : ∀ b a, (f b a).2.lasting = b.2.lasting) : (l.foldl f b).2.lasting = b.2.lasting :=
  foldl_keeps (fun b => b.2.lasting) f l b h

/-- The same with the state before or behind other parts. -/
theorem foldl_lasting_fst {α β : Type} (f : State × β → α → State × β) (l : List α) (b : State × β)
    (h : ∀ b a, (f b a).1.lasting = b.1.lasting) : (l.foldl f b).1.lasting = b.1.lasting :=
  foldl_keeps (fun b => b.1.lasting) f l b h

theorem foldl_lasting_trd {α β γ : Type} (f : β × γ × State → α → β × γ × State) (l : List α) (b : β × γ × State)
    (h : ∀ b a, (f b a).2.2.lasting = b.2.2.lasting) : (l.foldl f b).2.2.lasting = b.2.2.lasting :=
  foldl_keeps (fun b => b.2.2.lasting) f l b h

theorem foldl_lasting_fth {α β γ δ : Type} (f : β × γ × δ × State → α → β × γ × δ × State) (l : List α)
    (b : β × γ × δ × State) (h : ∀ b a, (f b a).2.2.2.lasting = b.2.2.2.lasting) :
    (l.foldl f b).2.2.2.lasting = b.2.2.2.lasting :=
  foldl_keeps (fun b => b.2.2.2.lasting) f l b h

/-! ### The order of lasting parts -/

theorem Lasting.before.rfl (a : Lasting) : a.before a :=
  ⟨.refl _, .refl _, Nat.le_refl _, fun _ h => h, .refl _, Nat.le_refl _, id, id⟩

theorem Lasting.before.of_eq {a b : Lasting} (h : a = b) : a.before b := h ▸ Lasting.before.rfl a

theorem Lasting.before.trans {a b c : Lasting} (h : a.before b) (g : b.before c) : a.before c :=
  ⟨g.pending.trans h.pending, g.module.trans h.module, h.svn.trans g.svn, fun i x => g.revoked i (h.revoked i x),
    g.unsealed.trans h.unsealed, h.top.trans g.top, fun x => g.legal (h.legal x), fun x => h.opened (g.opened x)⟩

/-- A change after or before something that keeps the lasting parts. -/
theorem Lasting.before.thenEq {a b c : Lasting} (h : a.before b) (g : b = c) : a.before c := g ▸ h

theorem Lasting.before.eqThen {a b c : Lasting} (h : a = b) (g : b.before c) : a.before c := h ▸ g

/-- An outcome goes on with lasting parts that may come after those of `s`. -/
def outBefore (s : State) (o : Host.Outcome State Fault Refusal) : Prop :=
  ∃ b, outLasting o = some b ∧ s.lasting.before b

theorem outBefore_next {s s' : State} (h : s.lasting.before s'.lasting) : outBefore s (.next s') := ⟨_, rfl, h⟩

/-- A meaning that keeps the lasting parts. -/
theorem outBefore_of_lasting {s : State} {o : Host.Outcome State Fault Refusal} (h : outLasting o = some s.lasting) :
    outBefore s o := ⟨_, h, Lasting.before.rfl _⟩

end Sys2Proof.Machine
end

