-- ==== Sys2Proof/Laws/LastingA.lean ====
section
/-! SUPPORT. Each operation and each meaning keeps the lasting parts of the state (the queue, the fuses, the counts in flash), or
changes them as `Lasting.before` allows; part 1 of 6, in the order of the definitions. -/

namespace Sys2Proof.Machine
open Sys2Proof

@[simp] theorem State.at_lasting (t : Nat) (s : State) : (State.at t s).lasting = s.lasting := by
  unfold State.at; simp

@[simp] theorem State.atCyc_lasting (cyc : Nat) (s : State) : (State.atCyc cyc s).lasting = s.lasting := by
  unfold State.atCyc; simp

@[simp] theorem State.draw_lasting (s : State) : (State.draw s).2.lasting = s.lasting := by
  unfold State.draw; simp

@[simp] theorem State.emit_lasting (o : Out) (s : State) : (State.emit o s).lasting = s.lasting := by
  unfold State.emit; simp

@[simp] theorem State.defer_lasting (part : Option Nat) (f : State → State) (s : State) (hf : ∀ s, (f s).lasting =
    s.lasting) : (State.defer part f s).lasting = s.lasting := by
  unfold State.defer; split <;> simp [hf]

@[simp] theorem State.noteSet_lasting (field : Nat) (s : State) : (State.noteSet field s).lasting = s.lasting := by
  unfold State.noteSet; simp

@[simp] theorem State.setReg_lasting (off : Nat) (v : BitVec 32) (s : State) : (State.setReg off v s).lasting = s.lasting := by
  unfold State.setReg; simp

@[simp] theorem State.setRegBit_lasting (off : Nat) (b : Nat) (v : Bool) (s : State) : (State.setRegBit off b v s).lasting =
    s.lasting := by
  unfold State.setRegBit; simp

@[simp] theorem State.inc_lasting (off : Nat) (n : Nat) (s : State) : (State.inc off n s).lasting = s.lasting := by
  unfold State.inc; simp

@[simp] theorem State.incBytes_lasting (off : Nat) (n : Nat) (s : State) : (State.incBytes off n s).lasting = s.lasting := by
  unfold State.incBytes; simp

@[simp] theorem State.winAdd_lasting (p : Nat) (i : Nat) (n : Nat) (s : State) : (State.winAdd p i n s).lasting = s.lasting :=
    by
  unfold State.winAdd; simp

@[simp] theorem State.setSpan_lasting (p : Nat) (x : Span) (s : State) : (State.setSpan p x s).lasting = s.lasting := by
  unfold State.setSpan; simp

@[simp] theorem State.modSpan_lasting (p : Nat) (f : Span → Span) (s : State) : (State.modSpan p f s).lasting = s.lasting := by
  unfold State.modSpan; simp

@[simp] theorem State.setMap_lasting (m : List (Nat × MapEntry)) (s : State) : (State.setMap m s).lasting = s.lasting := by
  unfold State.setMap; simp

@[simp] theorem State.modJob_lasting (f : Job → Job) (s : State) : (State.modJob f s).lasting = s.lasting := by
  unfold State.modJob; (repeat' split) <;> simp

@[simp] theorem State.trace_lasting (l : Nat) (type : Nat) (arg : List Byte) (s : State) : (State.trace l type arg s).lasting
    = s.lasting := by
  unfold State.trace; (repeat' split) <;> simp

@[simp] theorem State.fault_lasting (cls : Nat) (cause : Nat) (unit : Nat) (s : State) : (State.fault cls cause unit
    s).lasting = s.lasting := by
  unfold State.fault; simp

@[simp] theorem State.denied_lasting (s : State) : (State.denied s).lasting = s.lasting := by
  unfold State.denied; simp

@[simp] theorem State.accrue_lasting (s : State) : (State.accrue s).lasting = s.lasting := by
  unfold State.accrue; simp

@[simp] theorem State.countStall_lasting (from_ : Option Nat) (s : State) : (State.countStall from_ s).lasting = s.lasting := by
  unfold State.countStall; simp

@[simp] theorem State.breakHere_lasting (c : BreakCause) (s : State) : (State.breakHere c s).lasting = s.lasting := by
  unfold State.breakHere; simp

@[simp] theorem State.modCefin_lasting (p : Nat) (f : CefinPort → CefinPort) (s : State) : (State.modCefin p f s).lasting =
    s.lasting := by
  unfold State.modCefin; simp

@[simp] theorem State.txNow_lasting (p : Nat) (q : SentPkt) (s : State) : (State.txNow p q s).lasting = s.lasting := by
  unfold State.txNow; simp

@[simp] theorem State.drainPort_lasting (p : Nat) (a1 : List SentPkt) (a2 : State) : (State.drainPort p a1 a2).lasting =
    a2.lasting := by
  induction a1 generalizing a2 with
  | nil => rfl
  | cons q r ih => unfold State.drainPort; split <;> simp [ih]

@[simp] theorem State.sendOn_lasting (p : Nat) (half : Nat) (type : BitVec 8) (k : Pkt) (s : State) : (State.sendOn p half
    type k s).lasting = s.lasting := by
  unfold State.sendOn; simp

@[simp] theorem State.sendLctl_lasting (p : Nat) (ack : Option Nat) (nak : Option Nat) (credit : List Nat) (s : State) :
    (State.sendLctl p ack nak credit s).lasting = s.lasting := by
  unfold State.sendLctl; simp

@[simp] theorem State.sendTo_lasting (type : Nat) (vc : Nat) (dst : Nat) (arg : Nat) (payload : List (BitVec 256)) (s : State)
    : (State.sendTo type vc dst arg payload s).lasting = s.lasting := by
  unfold State.sendTo; (repeat' split) <;> simp

@[simp] theorem State.modLg_lasting (i : Nat) (g : Nat) (f : LaneGroup → LaneGroup) (s : State) : (State.modLg i g f
    s).lasting = s.lasting := by
  unfold State.modLg; simp

@[simp] theorem State.upset_lasting (es : MemErrs) (s : State) : (State.upset es s).lasting = s.lasting := by
  unfold State.upset; simp

@[simp] theorem State.countStack_lasting (base : Nat) (offs : List Nat) (s : State) : (State.countStack base offs s).lasting =
    s.lasting := by
  unfold State.countStack; simp

@[simp] theorem State.incStk_lasting (base : Nat) (n : Nat) (g : Nat) (s : State) : (State.incStk base n g s).lasting =
    s.lasting := by
  unfold State.incStk; simp

@[simp] theorem State.corrected_lasting (g pin : Nat) (s : State) : (State.corrected g pin s).lasting = s.lasting := by
  unfold State.corrected; simp

@[simp] theorem State.readCode_lasting (g : Nat) (s : State) : (State.readCode g s).lasting = s.lasting := by
  unfold State.readCode; simp

@[simp] theorem State.memRead_lasting (offs : List Nat) (s : State) : (State.memRead offs s).2.lasting = s.lasting := by
  unfold State.memRead; simp

@[simp] theorem State.readBytes_lasting (offs : List Nat) (s : State) : (State.readBytes offs s).2.lasting = s.lasting := by
  unfold State.readBytes; dsimp only
  rw [foldl_lasting_snd]
  · simp
  · intro b a; split <;> simp

@[simp] theorem State.mended_lasting (gs : List Nat) (s : State) : (State.mended gs s).lasting = s.lasting := by
  unfold State.mended; simp

@[simp] theorem State.countWrite_lasting (offs : List Nat) (s : State) : (State.countWrite offs s).lasting = s.lasting := by
  unfold State.countWrite; simp

@[simp] theorem State.memWrite_lasting (l : List (Nat × Byte)) (s : State) : (State.memWrite l s).lasting = s.lasting := by
  unfold State.memWrite; simp

@[simp] theorem State.noteAlloc_lasting (s : State) : (State.noteAlloc s).lasting = s.lasting := by
  unfold State.noteAlloc; simp

@[simp] theorem State.setEntry_lasting (e : Nat) (x : HotEntry) (s : State) : (State.setEntry e x s).lasting = s.lasting := by
  unfold State.setEntry; simp

@[simp] theorem State.extend_lasting (i : Nat) (d : BitVec 384) (s : State) : (State.extend i d s).lasting = s.lasting := by
  unfold State.extend; simp

@[simp] theorem State.showBinding_lasting (b : List (Nat × Nat)) (s : State) : (State.showBinding b s).lasting = s.lasting := by
  unfold State.showBinding; simp

@[simp] theorem State.restoreSpans_lasting (ks : List SpanKept) (s : State) : (State.restoreSpans ks s).lasting =
    s.lasting := by
  unfold State.restoreSpans; simp

@[simp] theorem State.writeRoutes_lasting (plan : Plan) (s : State) : (State.writeRoutes plan s).lasting = s.lasting := by
  unfold State.writeRoutes; simp

@[simp] theorem State.writeSpan_lasting (b : Bitstream) (plan : Plan) (l : Nat) (p : Nat) (s : State) : (State.writeSpan b
    plan l p s).lasting = s.lasting := by
  unfold State.writeSpan; simp

@[simp] theorem State.writeImages_lasting (b : Bitstream) (n : Nat) (s : State) : (State.writeImages b n s).lasting =
    s.lasting := by
  unfold State.writeImages; (repeat' split) <;> simp

@[simp] theorem State.writePlan_lasting (b : Bitstream) (n : Nat) (s : State) : (State.writePlan b n s).lasting = s.lasting :=
    by
  unfold State.writePlan; (repeat' split) <;> simp

@[simp] theorem State.writeTables_lasting (b : Bitstream) (s : State) : (State.writeTables b s).lasting = s.lasting := by
  unfold State.writeTables; simp

@[simp] theorem State.scrubChip_lasting (s : State) : (State.scrubChip s).lasting = s.lasting := by
  unfold State.scrubChip; simp

@[simp] theorem State.modPort_lasting (port : Nat) (f : Port → Port) (s : State) : (State.modPort port f s).lasting =
    s.lasting := by
  unfold State.modPort; simp

@[simp] theorem State.dma_lasting (port : Nat) (addr : Nat) (bytes : List Byte) (s : State) : (State.dma port addr bytes
    s).lasting = s.lasting := by
  unfold State.dma; simp

@[simp] theorem State.portRx_lasting (port : Nat) (n : Nat) (s : State) : (State.portRx port n s).lasting = s.lasting := by
  unfold State.portRx; simp

@[simp] theorem State.setLog_lasting (port : Nat) (part : Nat) (g : EventLog) (s : State) : (State.setLog port part g
    s).lasting = s.lasting := by
  unfold State.setLog; simp

@[simp] theorem State.writeEvent_lasting (port : Nat) (part : Nat) (e : EventRec) (mark : Nat) (reserved : Bool) (s : State) :
    (State.writeEvent port part e mark reserved s).lasting = s.lasting := by
  unfold State.writeEvent; (repeat' split) <;> simp

@[simp] theorem State.openWindow_lasting (port : Nat) (part : Nat) (s : State) : (State.openWindow port part s).lasting =
    s.lasting := by
  unfold State.openWindow; (repeat' split) <;> simp

@[simp] theorem State.writeNow_lasting (port : Nat) (part : Nat) (e : EventRec) (reserved : Bool) (s : State) :
    (State.writeNow port part e reserved s).lasting = s.lasting := by
  unfold State.writeNow; simp

@[simp] theorem State.reject_lasting (port : Nat) (part : Nat) (code : Nat) (arg1 : Nat) (handle : Nat) (stamp : Nat) (s :
    State) : (State.reject port part code arg1 handle stamp s).lasting = s.lasting := by
  unfold State.reject; dsimp only; (repeat' split) <;> simp

@[simp] theorem State.credits_lasting (port : Nat) (part : Nat) (n : Nat) (s : State) : (State.credits port part n s).lasting
    = s.lasting := by
  unfold State.credits; (repeat' split) <;> simp

@[simp] theorem State.endHandle_lasting (h : Nat) (s : State) : (State.endHandle h s).lasting = s.lasting := by
  unfold State.endHandle; dsimp only; (repeat' split) <;> simp

@[simp] theorem State.ageHandles_lasting (s : State) : (State.ageHandles s).lasting = s.lasting := by
  unfold State.ageHandles; simp

@[simp] theorem State.goneHandles_lasting (s : State) : (State.goneHandles s).lasting = s.lasting := by
  unfold State.goneHandles; simp

@[simp] theorem State.handleNow_lasting (h : Nat) (e : EventRec) (s : State) : (State.handleNow h e s).lasting = s.lasting := by
  unfold State.handleNow; (repeat' split) <;> simp

@[simp] theorem State.answerNow_lasting (h : Nat) (status : Nat) (arg0 : Nat) (arg1 : Nat) (arg2 : Nat) (s : State) :
    (State.answerNow h status arg0 arg1 arg2 s).lasting = s.lasting := by
  unfold State.answerNow; simp

@[simp] theorem State.handleKey_lasting (h : Nat) (e : EventRec) (s : State) : (State.handleKey h e s).lasting = s.lasting := by
  unfold State.handleKey; (repeat' split) <;> simp

@[simp] theorem State.answerKey_lasting (h : Nat) (status : Nat) (arg0 : Nat) (s : State) : (State.answerKey h status arg0
    s).lasting = s.lasting := by
  unfold State.answerKey; simp

/-- What a gate leaves of the state. -/
def Gated.state : Gated → State
  | .out s => s
  | .ok _ s => s

theorem gated_ite {c : Prop} [Decidable c] {a b : Gated} {x : Lasting} (ha : a.state.lasting = x) (hb : b.state.lasting = x) :
    (if c then a else b).state.lasting = x := by split <;> assumption

theorem State.checks_lasting (r : CmdRec) (k : CmdKind) (fieldsOk : Bool) (refs : State → Nat → Option Nat) (part : Nat)
    (s : State) : (s.checks r k fieldsOk refs part).state.lasting = s.lasting := by
  have hr : ∀ (x : State) (p q c a h st : Nat), x.lasting = s.lasting →
      (Gated.out (x.reject p q c a h st)).state.lasting = s.lasting :=
    fun x p q c a h st hx => (State.reject_lasting p q c a h st x).trans hx
  have hl : ∀ (l : List (Nat × Nat)), State.lasting { s with lanes := l } = s.lasting := fun _ => rfl
  unfold State.checks
  refine gated_ite (hr _ _ _ _ _ _ _ rfl) (gated_ite (hr _ _ _ _ _ _ _ rfl) (gated_ite (hr _ _ _ _ _ _ _ rfl)
    (gated_ite (hr _ _ _ _ _ _ _ (hl _)) (gated_ite (hr _ _ _ _ _ _ _ (hl _)) (gated_ite (hr _ _ _ _ _ _ _ (hl _)) ?_)))))
  split
  · exact hr _ _ _ _ _ _ _ (hl _)
  refine gated_ite (hr _ _ _ _ _ _ _ (hl _)) (gated_ite (hr _ _ _ _ _ _ _ (hl _)) (gated_ite (hl _) ?_))
  split
  · exact hl _
  · exact gated_ite ((State.setLog_lasting ..).trans (hl _)) (hr _ _ _ _ _ _ _ (hl _))

theorem State.gate_lasting (r : CmdRec) (k : CmdKind) (fieldsOk : Bool) (refs : State → Nat → Option Nat) (s : State) :
    (s.gate r k fieldsOk refs).state.lasting = s.lasting := by
  unfold State.gate; dsimp only; (repeat' split)
  · rfl
  · show (State.inc _ _ _).lasting = _; simp
  · show (State.inc _ _ _).lasting = _; simp
  · rw [State.checks_lasting]; simp

@[simp] theorem State.holdHandle_lasting (r : CmdRec) (part : Nat) (kind : HandleKind) (reserve : Nat) (s : State) :
    (State.holdHandle r part kind reserve s).lasting = s.lasting := by
  unfold State.holdHandle; simp

theorem gate_out {r : CmdRec} {k : CmdKind} {b : Bool} {refs : State → Nat → Option Nat} {s s' : State}
    (h : s.gate r k b refs = .out s') : s'.lasting = s.lasting := by
  have := State.gate_lasting r k b refs s; rw [h] at this; exact this

theorem gate_ok {r : CmdRec} {k : CmdKind} {b : Bool} {refs : State → Nat → Option Nat} {s s' : State} {p : Nat}
    (h : s.gate r k b refs = .ok p s') : s'.lasting = s.lasting := by
  have := State.gate_lasting r k b refs s; rw [h] at this; exact this

@[simp] theorem execCredit_lasting (t : Nat) (r : CmdRec) (s : State) : outLasting (execCredit t r s) = some s.lasting := by
  unfold execCredit
  split <;> rename_i h
  · simpa using gate_out h
  · simpa using gate_ok h

@[simp] theorem execQuery_lasting (t : Nat) (r : CmdRec) (s : State) : outLasting (execQuery t r s) = some s.lasting := by
  unfold execQuery; dsimp only
  split
  · rename_i h; simpa using gate_out h
  · rename_i h; have hs := gate_ok h; (repeat' split) <;> simp_all

@[simp] theorem execLogSetup_lasting (t : Nat) (r : CmdRec) (s : State) : outLasting (execLogSetup t r s) = some s.lasting := by
  unfold execLogSetup; dsimp only
  split
  · rename_i h; simpa using gate_out h
  · rename_i h; have hs := gate_ok h; (repeat' split) <;> simp_all

@[simp] theorem execReservedOpcodeRecord_lasting (t : Nat) (opcode : BitVec 8) (r : CmdRec) (s : State) : outLasting
    (execReservedOpcodeRecord t opcode r s) = some s.lasting := by
  unfold execReservedOpcodeRecord
  split <;> rename_i h
  · simpa using gate_out h
  · simpa using gate_ok h

@[simp] theorem execPartialLaneWrite_lasting (t : Nat) (port : Fin 4) (fn : Fn) (offset : Nat) (len : Nat) (s : State) :
    outLasting (execPartialLaneWrite t port fn offset len s) = some s.lasting := by
  unfold execPartialLaneWrite; dsimp only; (repeat' split) <;> simp

@[simp] theorem execMsixWindowEnd_lasting (t : Nat) (port : Fin 4) (partition : BitVec 8) (s : State) : outLasting
    (execMsixWindowEnd t port partition s) = some s.lasting := by
  unfold execMsixWindowEnd; dsimp only; (repeat' split) <;> simp

@[simp] theorem State.asMgmt_lasting (t : Nat) (who : Requester) (act : State → State) (s : State) (hact : ∀  (s : State),
    (act s).lasting = s.lasting) : (State.asMgmt t who act s).lasting = s.lasting := by
  unfold State.asMgmt; (repeat' split) <;> simp [hact]

theorem State.asMgmt_before (t : Nat) (who : Requester) (act : State → State) (s : State)
    (h : ∀ s : State, s.lasting.before (act s).lasting) : s.lasting.before (s.asMgmt t who act).lasting := by
  unfold State.asMgmt; dsimp only
  split
  · exact .of_eq (by simp)
  · split
    · refine Lasting.before.eqThen ?_ (h _); simp
    · exact .of_eq (by simp)
    · refine Lasting.before.eqThen ?_ (h _); simp

@[simp] theorem State.writePageOwner_lasting (port : Nat) (page : Nat) (value : Word) (s : State) : (State.writePageOwner port
    page value s).lasting = s.lasting := by
  unfold State.writePageOwner; simp

@[simp] theorem execPageOwnerWrite_lasting (t : Nat) (who : Requester) (port : Fin 4) (page : Fin 128) (value : Word) (s :
    State) : outLasting (execPageOwnerWrite t who port page value s) = some s.lasting := by
  unfold execPageOwnerWrite; simp

@[simp] theorem State.takeSnapshot_lasting (cause : Nat) (s : State) : (State.takeSnapshot cause s).lasting = s.lasting := by
  unfold State.takeSnapshot; simp

@[simp] theorem State.fireTrigger_lasting (cause : Nat) (s : State) : (State.fireTrigger cause s).lasting = s.lasting := by
  unfold State.fireTrigger; simp

@[simp] theorem State.triggerAt_lasting (l : Nat) (b : Nat) (cause : Nat) (s : State) : (State.triggerAt l b cause s).lasting
    = s.lasting := by
  unfold State.triggerAt; simp

@[simp] theorem State.spanFault_lasting (l : Nat) (p : Nat) (cls : Nat) (cause : Nat) (s : State) : (State.spanFault l p cls
    cause s).lasting = s.lasting := by
  unfold State.spanFault; simp

@[simp] theorem State.progFault_lasting (l : Nat) (p : Nat) (cause : Nat) (pc : Nat) (s : State) : (State.progFault l p cause
    pc s).lasting = s.lasting := by
  unfold State.progFault; simp

@[simp] theorem State.dataFault_lasting (l : Nat) (p : Nat) (cause : Nat) (s : State) : (State.dataFault l p cause s).lasting
    = s.lasting := by
  unfold State.dataFault; simp

@[simp] theorem State.dataPoison_lasting (l : Nat) (p : Nat) (s : State) : (State.dataPoison l p s).lasting = s.lasting := by
  unfold State.dataPoison; simp

@[simp] theorem State.flitFault_lasting (l p : Nat) (s : State) : (State.flitFault l p s).lasting = s.lasting := by
  unfold State.flitFault; simp

@[simp] theorem State.askPuts_lasting (l : Nat) (ws : List DeckPut) (s : State) : (State.askPuts l ws s).lasting =
    s.lasting := by
  unfold State.askPuts; (repeat' split) <;> simp

@[simp] theorem State.askOut_lasting (cyc : Nat) (k : PortClient) (src l ctr : Nat) (ws : List (Nat × BitVec 256)) (s :
    State) : (State.askOut cyc k src l ctr ws s).lasting = s.lasting := by
  unfold State.askOut; simp

@[simp] theorem State.ctrAdd_lasting (cyc l c n : Nat) (s : State) : (State.ctrAdd cyc l c n s).lasting = s.lasting := by
  unfold State.ctrAdd; (repeat' split) <;> simp

@[simp] theorem State.applyCtr_lasting (l p : Nat) (o : CtrOp) (s : State) : (State.applyCtr l p o s).lasting = s.lasting := by
  unfold State.applyCtr; (repeat' split) <;> simp

@[simp] theorem State.deckUse_lasting (l p : Nat) (u : DeckUse) (s : State) : (State.deckUse l p u s).lasting = s.lasting := by
  unfold State.deckUse; simp

@[simp] theorem State.setPool_lasting (c : Nat) (p : Pool) (s : State) : (State.setPool c p s).lasting = s.lasting := by
  unfold State.setPool; simp

@[simp] theorem State.freeFrame_lasting (c : Nat) (frame : Nat) (s : State) : (State.freeFrame c frame s).lasting = s.lasting
    := by
  unfold State.freeFrame; simp

@[simp] theorem State.zeroFrame_lasting (c : Nat) (frame : Nat) (o : Nat) (s : State) : (State.zeroFrame c frame o s).lasting
    = s.lasting := by
  unfold State.zeroFrame; simp

@[simp] theorem State.ptWrite_lasting (base : Nat) (l : Nat) (k : Nat) (e : PtEntry) (s : State) : (State.ptWrite base l k e
    s).lasting = s.lasting := by
  unfold State.ptWrite; simp

@[simp] theorem State.ptAlloc_lasting (rows : Nat) (s : State) : (State.ptAlloc rows s).2.lasting = s.lasting := by
  unfold State.ptAlloc; simp

@[simp] theorem State.fsetRef_lasting (i : Nat) (f : Nat → Nat) (s : State) : (State.fsetRef i f s).lasting = s.lasting := by
  unfold State.fsetRef; simp

@[simp] theorem State.touchNodes_lasting (ids : List Nat) (s : State) : (State.touchNodes ids s).lasting = s.lasting := by
  unfold State.touchNodes; simp

@[simp] theorem State.pruneUp_lasting (a0 : Nat) (a1 : Nat) (a2 : State) : (State.pruneUp a0 a1 a2).lasting = a2.lasting := by
  induction a0 generalizing a1 a2 with
  | zero => rfl
  | succ n ih => unfold State.pruneUp; (repeat' split) <;> simp [ih]

@[simp] theorem State.freeSet_lasting (f : Nat) (s : State) : (State.freeSet f s).lasting = s.lasting := by
  unfold State.freeSet; dsimp only
  rw [lasting_mk, lasting_eta]
  refine foldl_lasting _ _ _ (fun s e => ?_)
  split <;> simp

theorem State.evictOne_lasting {s s' : State} (h : s.evictOne = some s') : s'.lasting = s.lasting := by
  unfold State.evictOne at h; dsimp only at h
  split at h
  · cases h
  · simp only [Option.some.injEq] at h
    rw [← h]
    simp only [State.pruneUp_lasting, lasting_mk, lasting_eta]
    split <;> simp

@[simp] theorem State.allocFrame_lasting (c o : Nat) (a2 : Nat) (a3 : State) : (State.allocFrame c o a2 a3).2.lasting =
    a3.lasting := by
  induction a2 generalizing a3 with
  | zero => rfl
  | succ n ih =>
    unfold State.allocFrame
    split
    · simp
    · split
      · rfl
      · rename_i h; rw [ih, State.evictOne_lasting h]

@[simp] theorem State.takeFrame_lasting (base l k o : Nat) (c : KvClass) (s : State) : (State.takeFrame base l k o c
    s).2.lasting = s.lasting := by
  have h := State.allocFrame_lasting c.cls o (s.kv.nodes.length + 1) s
  unfold State.takeFrame
  split <;> rename_i e <;> rw [e] at h <;> simpa using h

@[simp] theorem State.fillPage_lasting (base k o : Nat) (a3 : List Nat) (a4 : State) : (State.fillPage base k o a3
    a4).2.2.lasting = a4.lasting := by
  induction a3 generalizing a4 with
  | nil => rfl
  | cons l r ih =>
    unfold State.fillPage
    split
    · exact ih _
    · split
      · exact ih _
      · rename_i c _
        have h := State.takeFrame_lasting base l k o c a4
        split <;> rename_i e <;> rw [e] at h
        · exact h
        · exact (ih _).trans h

@[simp] theorem State.fillPages_lasting (base pageLog2 : Nat) (a2 : List Nat) (a3 : State) : (State.fillPages base
    pageLog2 a2 a3).2.2.lasting = a3.lasting := by
  induction a2 generalizing a3 with
  | nil => rfl
  | cons k r ih =>
    have h := State.fillPage_lasting base k (pageLog2 - 4) (List.range a3.cacheLayers) a3
    unfold State.fillPages
    split <;> rename_i e <;> rw [e] at h
    · exact h
    · exact (ih _).trans h

@[simp] theorem State.zeroFrames_lasting (fs : List CutFrame) (s : State) : (State.zeroFrames fs s).lasting = s.lasting := by
  unfold State.zeroFrames; simp

@[simp] theorem State.copyPage_lasting (c : KvClass) (pageLog2 : Nat) (src : Nat) (dst : Nat) (n : Nat) (s : State) :
    (State.copyPage c pageLog2 src dst n s).lasting = s.lasting := by
  unfold State.copyPage; simp

@[simp] theorem State.cowLayers_lasting (base k pageLog2 len : Nat) (a4 : List Nat) (a5 : State) : (State.cowLayers base k
    pageLog2 len a4 a5).2.2.2.lasting = a5.lasting := by
  induction a4 generalizing a5 with
  | nil => rfl
  | cons l r ih =>
    unfold State.cowLayers; dsimp only
    split
    · exact ih _
    · split
      · exact ih _
      · rename_i c _
        have h := State.takeFrame_lasting base l k (pageLog2 - 4) c a5
        split <;> rename_i e <;> rw [e] at h
        · exact h
        · rw [ih]; split
          · exact h
          · simpa using h

@[simp] theorem State.cowPages_lasting (base pageLog2 len : Nat) (a3 : List Nat) (a4 : State) : (State.cowPages base
    pageLog2 len a3 a4).2.2.2.lasting = a4.lasting := by
  induction a3 generalizing a4 with
  | nil => rfl
  | cons k r ih =>
    have h := State.cowLayers_lasting base k pageLog2 len (List.range a4.cacheLayers) a4
    unfold State.cowPages
    split <;> rename_i e <;> rw [e] at h
    · exact h
    · exact (ih _).trans h

@[simp] theorem State.copyPages_lasting (cs : List CutCopy) (s : State) : (State.copyPages cs s).lasting = s.lasting := by
  unfold State.copyPages; simp

@[simp] theorem State.addNode_lasting (root : RootKey) (parent : Nat) (depth : Nat) (toks : List Nat) (s : State) :
    (State.addNode root parent depth toks s).2.lasting = s.lasting := by
  unfold State.addNode; (repeat' split) <;> simp

@[simp] theorem State.sharePage_lasting (node : Nat) (base : Nat) (k : Nat) (s : State) : (State.sharePage node base k
    s).lasting = s.lasting := by
  unfold State.sharePage; (repeat' split) <;> simp

@[simp] theorem State.insertPrefix_lasting (q : Request) (s : State) : (State.insertPrefix q s).lasting = s.lasting := by
  unfold State.insertPrefix; dsimp only
  repeat' first
    | rfl
    | (simp; done)
    | (refine (foldl_lasting _ _ _ (fun _ _ => ?_)).trans ?_)
    | (refine (foldl_lasting_snd _ _ _ (fun _ _ => ?_)).trans ?_)
    | split
    | (simp)

@[simp] theorem State.releaseTable_lasting (base : Nat) (rows : Nat) (s : State) : (State.releaseTable base rows s).lasting =
    s.lasting := by
  unfold State.releaseTable; dsimp only
  repeat' first
    | rfl
    | (simp; done)
    | (refine (foldl_lasting _ _ _ (fun _ _ => ?_)).trans ?_)
    | (refine (foldl_lasting_snd _ _ _ (fun _ _ => ?_)).trans ?_)
    | split
    | (simp)

@[simp] theorem State.releaseOrphans_lasting (s : State) : (State.releaseOrphans s).lasting = s.lasting := by
  unfold State.releaseOrphans; simp

@[simp] theorem State.takeGauges_lasting (s : State) : (State.takeGauges s).lasting = s.lasting := by
  unfold State.takeGauges; simp

@[simp] theorem State.modReq_lasting (h : Nat) (f : Request → Request) (s : State) : (State.modReq h f s).lasting = s.lasting
    := by
  unfold State.modReq; simp

@[simp] theorem State.orphan_lasting (q : Request) (s : State) : (State.orphan q s).lasting = s.lasting := by
  unfold State.orphan; (repeat' split) <;> simp

@[simp] theorem State.forget_lasting (h : Nat) (s : State) : (State.forget h s).lasting = s.lasting := by
  unfold State.forget; (repeat' split) <;> simp

end Sys2Proof.Machine
end

