-- ==== Sys2Proof/Laws/LastingB.lean ====
section
/-! SUPPORT. Each operation and each meaning keeps the lasting parts of the state (the queue, the fuses, the counts in flash), or
changes them as `Lasting.before` allows; part 2 of 6, in the order of the definitions. -/

namespace Sys2Proof.Machine
open Sys2Proof

@[simp] theorem State.completeNow_lasting (h : Nat) (reason : Nat) (arg1 : Nat) (s : State) : (State.completeNow h reason arg1
    s).lasting = s.lasting := by
  unfold State.completeNow; (repeat' split) <;> simp

@[simp] theorem State.endRequest_lasting (h : Nat) (reason : Nat) (arg1 : Nat) (s : State) : (State.endRequest h reason arg1
    s).lasting = s.lasting := by
  unfold State.endRequest; simp

@[simp] theorem State.placeRequest_lasting (h : Nat) (s : State) : (State.placeRequest h s).lasting = s.lasting := by
  unfold State.placeRequest; (repeat' split) <;> simp

@[simp] theorem State.placeAll_lasting (s : State) : (State.placeAll s).lasting = s.lasting := by
  unfold State.placeAll; simp

@[simp] theorem execSubmit_lasting (t : Nat) (r : CmdRec) (s : State) : outLasting (execSubmit t r s) = some s.lasting := by
  unfold execSubmit; dsimp only
  split
  · rename_i h; simpa using gate_out h
  · rename_i h; have hs := gate_ok h; (repeat' split) <;> simp_all

@[simp] theorem State.fetched_lasting (h : Nat) (prompt : Option (List Word)) (ext : Option (List Byte)) (s : State) :
    (State.fetched h prompt ext s).lasting = s.lasting := by
  unfold State.fetched; (repeat' split) <;> simp

@[simp] theorem State.modHo_lasting (h : Nat) (f : HoInfo → HoInfo) (s : State) : (State.modHo h f s).lasting = s.lasting := by
  unfold State.modHo; simp

@[simp] theorem State.failHo_lasting (h : Nat) (status : Nat) (arg0 : Nat) (s : State) : (State.failHo h status arg0
    s).lasting = s.lasting := by
  unfold State.failHo; (repeat' split) <;> simp

@[simp] theorem State.breakHo_lasting (h : Nat) (s : State) : (State.breakHo h s).lasting = s.lasting := by
  unfold State.breakHo; simp

@[simp] theorem State.closeLanding_lasting (lid : Nat) (s : State) : (State.closeLanding lid s).lasting = s.lasting := by
  unfold State.closeLanding; simp

@[simp] theorem State.abortHoIn_lasting (lid : Nat) (s : State) : (State.abortHoIn lid s).lasting = s.lasting := by
  unfold State.abortHoIn; dsimp only; (repeat' split) <;> simp

@[simp] theorem State.expireLanding_lasting (lid : Nat) (s : State) : (State.expireLanding lid s).lasting = s.lasting := by
  unfold State.expireLanding; simp

@[simp] theorem State.stopHo_lasting (target : Nat) (s : State) : (State.stopHo target s).lasting = s.lasting := by
  unfold State.stopHo; dsimp only; (repeat' split) <;> simp

@[simp] theorem State.await_lasting (w : Waiting) (s : State) : (State.await w s).lasting = s.lasting := by
  unfold State.await; simp

@[simp] theorem State.cancelNow_lasting (h : Nat) (target : Nat) (s : State) : (State.cancelNow h target s).lasting =
    s.lasting := by
  unfold State.cancelNow; (repeat' split) <;> simp

@[simp] theorem execCancel_lasting (t : Nat) (r : CmdRec) (s : State) : outLasting (execCancel t r s) = some s.lasting := by
  unfold execCancel; dsimp only
  split
  · rename_i h; simpa using gate_out h
  · rename_i h; have hs := gate_ok h; (repeat' split) <;> simp_all

@[simp] theorem execHandover_lasting (t : Nat) (r : CmdRec) (s : State) : outLasting (execHandover t r s) = some s.lasting := by
  unfold execHandover; dsimp only
  split
  · rename_i h; simpa using gate_out h
  · rename_i h; have hs := gate_ok h; (repeat' split) <;> simp_all

@[simp] theorem execHandin_lasting (t : Nat) (r : CmdRec) (s : State) : outLasting (execHandin t r s) = some s.lasting := by
  unfold execHandin; dsimp only
  split
  · rename_i h; simpa using gate_out h
  · rename_i h; have hs := gate_ok h; (repeat' split) <;> simp_all

@[simp] theorem execHandinExpired_lasting (t : Nat) (handle : BitVec 32) (s : State) : outLasting (execHandinExpired t handle
    s) = some s.lasting := by
  unfold execHandinExpired; dsimp only; (repeat' split) <;> simp

@[simp] theorem State.scanDeadlines_lasting (s : State) : (State.scanDeadlines s).lasting = s.lasting := by
  unfold State.scanDeadlines; refine foldl_lasting _ _ _ (fun s a => ?_); dsimp only; (repeat' split) <;> simp

@[simp] theorem execDeadlineScan_lasting (t : Nat) (s : State) : outLasting (execDeadlineScan t s) = some s.lasting := by
  unfold execDeadlineScan; simp

@[simp] theorem State.rotate_lasting (d : Desc) (p : Nat) (v : List Lns) (s : State) : (State.rotate d p v s).2.2.lasting =
    s.lasting := by
  unfold State.rotate; simp

@[simp] theorem State.kvPoison_lasting (cls : Nat) (frame : Nat) (s : State) : (State.kvPoison cls frame s).lasting =
    s.lasting := by
  unfold State.kvPoison; (repeat' split) <;> simp

@[simp] theorem State.attend_lasting (p di : Nat) (d : Desc) (a : Assign) (ks : List (KvPiece × List (BitVec 256 × Bool)))
    (q : Nat × Nat) (j : Nat) (s : State) : (State.attend p di d a ks q j s).2.2.lasting = s.lasting := by
  unfold State.attend; dsimp only
  repeat' first
    | rfl
    | (simp; done)
    | (refine (foldl_lasting _ _ _ (fun _ _ => ?_)).trans ?_)
    | (refine (foldl_lasting_snd _ _ _ (fun _ _ => ?_)).trans ?_)
    | (refine (foldl_lasting_fst _ _ _ (fun _ _ => ?_)).trans ?_)
    | (refine (foldl_lasting_trd _ _ _ (fun _ _ => ?_)).trans ?_)
    | (refine (foldl_lasting_fth _ _ _ (fun _ _ => ?_)).trans ?_)
    | split
    | (simp)

@[simp] theorem State.attendAll_lasting (p : Nat) (w : AttWork) (d : Desc) (ks : List (Nat × KvPiece × List (BitVec 256 ×
    Bool))) (s : State) : (State.attendAll p w d ks s).2.2.lasting = s.lasting := by
  unfold State.attendAll
  refine foldl_lasting_trd _ _ _ (fun b a => ?_)
  dsimp only
  refine foldl_lasting_trd _ _ _ (fun b a => ?_)
  refine foldl_lasting_trd _ _ _ (fun b a => ?_)
  simp

@[simp] theorem State.finishAtt_lasting (l p : Nat) (w : AttWork) (s : State) : (State.finishAtt l p w s).lasting =
    s.lasting := by
  unfold State.finishAtt; dsimp only; (repeat' split) <;> simp

@[simp] theorem State.landed_lasting (l p c : Nat) (r : PutRaise) (s : State) : (State.landed l p c r s).lasting =
    s.lasting := by
  unfold State.landed; (repeat' split) <;> simp

@[simp] theorem State.landPut_lasting (l p c : Nat) (w : DeckPut) (s : State) : (State.landPut l p c w s).lasting =
    s.lasting := by
  unfold State.landPut; dsimp only; (repeat' split) <;> simp

@[simp] theorem State.attStep_lasting (l p c : Nat) (s : State) : (State.attStep l p c s).lasting = s.lasting := by
  unfold State.attStep; (repeat' split) <;> simp

@[simp] theorem State.sendAcks_lasting (p : Nat) (ws : List DeckPut) (s : State) : (State.sendAcks p ws s).lasting = s.lasting := by
  unfold State.sendAcks; simp

@[simp] theorem State.settleSpan_lasting (c l p : Nat) (s : State) : (State.settleSpan c l p s).lasting = s.lasting := by
  unfold State.settleSpan; simp

@[simp] theorem State.settleTrs_lasting (c : Nat) (s : State) : (State.settleTrs c s).lasting = s.lasting := by
  unfold State.settleTrs; simp

@[simp] theorem State.settleCycle_lasting (c : Nat) (s : State) : (State.settleCycle c s).lasting = s.lasting := by
  unfold State.settleCycle; simp

@[simp] theorem State.settleFrom_lasting (a0 : Nat) (a1 : Nat) (a2 : State) : (State.settleFrom a0 a1 a2).lasting =
    a2.lasting := by
  induction a0 generalizing a2 with
  | zero => rfl
  | succ n ih => unfold State.settleFrom; (repeat' split) <;> simp [ih]

@[simp] theorem State.settleTo_lasting (cyc : Nat) (s : State) : (State.settleTo cyc s).lasting = s.lasting := by
  unfold State.settleTo; simp

@[simp] theorem State.toCyc_lasting (cyc : Nat) (s : State) : (State.toCyc cyc s).lasting = s.lasting := by
  unfold State.toCyc; simp

@[simp] theorem State.settled_lasting (s : State) : (State.settled s).lasting = s.lasting := by
  unfold State.settled; simp

@[simp] theorem State.upToNow_lasting (s : State) : (State.upToNow s).lasting = s.lasting := by
  unfold State.upToNow; simp

@[simp] theorem State.breakTick_lasting (c : BreakCause) (s : State) : (State.breakTick c s).lasting = s.lasting := by
  unfold State.breakTick; simp

@[simp] theorem State.holdEnded_lasting (l : Nat) (kind : HoldKind) (ctr n : Nat) (s : State) : (State.holdEnded l kind
    ctr n s).lasting = s.lasting := by
  unfold State.holdEnded; simp

@[simp] theorem State.endHold_lasting (l : Nat) (p : Nat) (cyc : Nat) (s : State) : (State.endHold l p cyc s).lasting =
    s.lasting := by
  unfold State.endHold; (repeat' split) <;> simp

@[simp] theorem State.holdAt_lasting (l p cyc : Nat) (w : Why) (s : State) : (State.holdAt l p cyc w s).lasting =
    s.lasting := by
  unfold State.holdAt; (repeat' split) <;> simp

@[simp] theorem State.faultAt_lasting (c : Ctx) (cause : Nat) (s : State) : (State.faultAt c cause s).lasting = s.lasting := by
  unfold State.faultAt; simp

@[simp] theorem State.issueNow_lasting (i : Issue) (c : Ctx) (w : WaitGroup) (act : Ctx → State → State) (s : State) (hact : ∀
    (b0 : Ctx) (s : State), (act b0 s).lasting = s.lasting) : (State.issueNow i c w act s).lasting = s.lasting := by
  unfold State.issueNow; simp [hact]

@[simp] theorem State.present_lasting (i : Issue) (op : Issue → Instr) (u : SpanUnit) (w : WaitGroup) (more : Ctx → State →
    Option Why) (act : Ctx → State → State) (s : State) (hact : ∀ (b0 : Ctx) (s : State), (act b0 s).lasting = s.lasting) :
    outLasting (State.present i op u w more act s) = some s.lasting := by
  unfold State.present; dsimp only; (repeat' split) <;> simp [hact]

@[simp] theorem State.modSeq_lasting (c : Ctx) (f : Sequencer → Sequencer) (s : State) : (State.modSeq c f s).lasting =
    s.lasting := by
  unfold State.modSeq; simp

@[simp] theorem execNop_lasting (i : Issue) (s : State) : outLasting (execNop i s) = some s.lasting := by
  unfold execNop; simp

@[simp] theorem endAct_lasting (ok : Bool) (c : Ctx) (s : State) : (endAct ok c s).lasting = s.lasting := by
  unfold endAct; simp

@[simp] theorem execEndProgram_lasting (i : Issue) (s : State) : outLasting (execEndProgram i s) = some s.lasting := by
  unfold execEndProgram; simp

@[simp] theorem execBase_lasting (i : Issue) (add : Word) (s : State) : outLasting (execBase i add s) = some s.lasting := by
  unfold execBase; simp

@[simp] theorem execLoop_lasting (i : Issue) (a : LoopArgs) (s : State) : outLasting (execLoop i a s) = some s.lasting := by
  unfold execLoop; simp

@[simp] theorem execEndl_lasting (i : Issue) (level : BitVec 2) (s : State) : outLasting (execEndl i level s) = some s.lasting
    := by
  unfold execEndl
  refine State.present_lasting _ _ _ _ _ _ _ (fun c s => ?_)
  (repeat' split) <;> simp

@[simp] theorem execJoint_lasting (i : Issue) (phase : Bool) (j : BitVec 16) (s : State) : outLasting (execJoint i phase j s)
    = some s.lasting := by
  unfold execJoint; simp

@[simp] theorem execWait_lasting (i : Issue) (w : WaitGroup) (kind : BitVec 3) (remote : Bool) (s : State) : outLasting
    (execWait i w kind remote s) = some s.lasting := by
  unfold execWait; simp

@[simp] theorem execCset_lasting (i : Issue) (ctr : BitVec 5) (value : BitVec 20) (s : State) : outLasting (execCset i ctr
    value s) = some s.lasting := by
  unfold execCset; simp

@[simp] theorem execBlist_lasting (i : Issue) (w : WaitGroup) (lbase : BitVec 17) (count : BitVec 13) (fromCtr : Bool)
    (deck : DeckUse) (s : State) : outLasting (execBlist i w lbase count fromCtr deck s) = some s.lasting := by
  unfold execBlist; refine State.present_lasting _ _ _ _ _ _ _ (fun c s => ?_); dsimp only; (repeat' split) <;> simp

@[simp] theorem State.closeWindow_lasting (l : Nat) (p : Nat) (win : Nat) (s : State) : (State.closeWindow l p win s).lasting
    = s.lasting := by
  unfold State.closeWindow; simp

@[simp] theorem execRecv_lasting (i : Issue) (win : BitVec 2) (base : BitVec 17) (len : BitVec 17) (remote : Bool) (s : State)
    : outLasting (execRecv i win base len remote s) = some s.lasting := by
  unfold execRecv; simp

@[simp] theorem execTmark_lasting (i : Issue) (mark : BitVec 16) (s : State) : outLasting (execTmark i mark s) = some
    s.lasting := by
  unfold execTmark; simp

@[simp] theorem State.sendView_lasting (ls : List Nat) (trestle : Bool) (s : State) : (State.sendView ls trestle s).lasting =
    s.lasting := by
  unfold State.sendView; dsimp only; (repeat' split) <;> (try simp) <;> (refine foldl_lasting _ _ _ (fun s a => ?_)) <;> (try dsimp only) <;> (repeat' split) <;> simp

@[simp] theorem State.openLedger_lasting (s : State) : (State.openLedger s).lasting = s.lasting := by
  unfold State.openLedger; simp

@[simp] theorem State.refuse_lasting (l : Nat) (cls : Nat) (slot : Nat) (cost : Nat) (s : State) : (State.refuse l cls slot
    cost s).lasting = s.lasting := by
  unfold State.refuse; simp

@[simp] theorem State.pay_lasting (l : Nat) (p : Nat) (cls : Nat) (slot : Nat) (cost : Nat) (s : State) : (State.pay l p cls
    slot cost s).2.lasting = s.lasting := by
  unfold State.pay; dsimp only; (repeat' split) <;> simp

@[simp] theorem State.askPeer_lasting (r : Repair) (s : State) : (State.askPeer r s).lasting = s.lasting := by
  unfold State.askPeer; dsimp only; (repeat' split) <;> simp

@[simp] theorem State.weightPoison_lasting (l : Nat) (p : Nat) (d : Desc) (n : Nat) (s : State) : (State.weightPoison l p d n
    s).lasting = s.lasting := by
  unfold State.weightPoison; (repeat' split) <;> simp

@[simp] theorem State.checkPoison_lasting (l : Nat) (p : Nat) (gs : List Nat) (s : State) : (State.checkPoison l p gs
    s).lasting = s.lasting := by
  unfold State.checkPoison; simp

@[simp] theorem execContextLoad_lasting (l : Fin 128) (cyc : Nat) (s : State) : outLasting (execContextLoad l cyc s) =
    some s.lasting := by
  unfold execContextLoad; dsimp only; (repeat' split) <;> simp
  refine (foldl_lasting _ _ _ (fun s a => ?_)).trans (by simp)
  split <;> simp

@[simp] theorem execLayer_lasting (i : Issue) (desc : BitVec 12) (s : State) : outLasting (execLayer i desc s) = some
    s.lasting := by
  unfold execLayer; refine State.present_lasting _ _ _ _ _ _ _ (fun c s => ?_); dsimp only; (repeat' split) <;> simp

@[simp] theorem tloadAct_lasting (src tset : Nat) (fctr : Option Nat) (deck : DeckUse) (c : Ctx) (s : State) : (tloadAct
    src tset fctr deck c s).lasting = s.lasting := by
  unfold tloadAct; dsimp only; (repeat' split) <;> simp

@[simp] theorem execTload_lasting (i : Issue) (w : WaitGroup) (src : BitVec 17) (tset : BitVec 15) (fen : Bool) (fctr :
    BitVec 5) (deck : DeckUse) (s : State) : outLasting (execTload i w src tset fen fctr deck s) = some s.lasting := by
  unfold execTload; simp

@[simp] theorem execTloadDone_lasting (l : Fin 128) (cyc : Nat) (s : State) : outLasting (execTloadDone l cyc s) = some
    s.lasting := by
  unfold execTloadDone; dsimp only; (repeat' split) <;> simp
  refine (foldl_lasting _ _ _ (fun s a => ?_)).trans (by simp)
  split <;> simp

@[simp] theorem execPgate_lasting (i : Issue) (w : WaitGroup) (s : State) : outLasting (execPgate i w s) = some s.lasting := by
  unfold execPgate; refine State.present_lasting _ _ _ _ _ _ _ (fun c s => ?_); dsimp only; (repeat' split) <;> simp

@[simp] theorem execAzero_lasting (i : Issue) (line0 : BitVec 12) (nlines : BitVec 13) (s : State) : outLasting (execAzero i
    line0 nlines s) = some s.lasting := by
  unfold execAzero; simp

@[simp] theorem State.noteIdle_lasting (s : State) : (State.noteIdle s).lasting = s.lasting := by
  unfold State.noteIdle; simp

theorem lasting_load (s : State) (a b : BitVec 32) : State.lasting { s with loadStatus := a, loadDetail := b } = s.lasting :=
    rfl

@[simp] theorem State.loadReport_lasting (step : Nat) (cached : Bool) (basic : Bool) (e : Option LoadErr) (s : State) :
    (State.loadReport step cached basic e s).lasting = s.lasting := by
  unfold State.loadReport; exact lasting_load _ _ _

@[simp] theorem State.dropLandings_lasting (id : Nat) (j : Job) (s : State) : (State.dropLandings id j s).lasting = s.lasting
    := by
  unfold State.dropLandings; simp

@[simp] theorem State.retire_lasting (s : State) : (State.retire s).lasting = s.lasting := by
  unfold State.retire; simp

@[simp] theorem State.answerStart_lasting (id : Nat) (status : Nat) (arg0 : Nat) (s : State) : (State.answerStart id status
    arg0 s).lasting = s.lasting := by
  unfold State.answerStart; (repeat' split) <;> simp

@[simp] theorem State.flushEndings_lasting (rs : List (Nat × Request)) (s : State) : (State.flushEndings rs s).lasting =
    s.lasting := by
  unfold State.flushEndings
  refine foldl_lasting _ _ _ (fun s a => ?_)
  split <;> simp

@[simp] theorem State.tellNow_lasting (recs : List KeyRec) (s : State) : (State.tellNow recs s).lasting = s.lasting := by
  unfold State.tellNow; simp

@[simp] theorem State.finishJob_lasting (id : Nat) (outcome : Nat) (scrubUs : Nat) (s : State) : (State.finishJob id outcome
    scrubUs s).lasting = s.lasting := by
  unfold State.finishJob; (repeat' split) <;> simp

@[simp] theorem State.switchWindows_lasting (s : State) : (State.switchWindows s).lasting = s.lasting := by
  unfold State.switchWindows; simp

@[simp] theorem State.takeInState_lasting (s : State) : (State.takeInState s).lasting = s.lasting := by
  unfold State.takeInState; simp

@[simp] theorem State.clearGone_lasting (s : State) : (State.clearGone s).lasting = s.lasting := by
  unfold State.clearGone; simp

@[simp] theorem State.settle_lasting (recs : List KeyRec) (s : State) : (State.settle recs s).lasting = s.lasting := by
  unfold State.settle; dsimp only; rw [lasting_mk, lasting_eta]; refine (foldl_lasting _ _ _ (fun s a => ?_)).trans ?_; (repeat' split) <;> simp; simp

@[simp] theorem State.leaveSpans_lasting (next : JobState) (s : State) : (State.leaveSpans next s).lasting = s.lasting := by
  unfold State.leaveSpans; (repeat' split) <;> simp

@[simp] theorem State.failLoadAs_lasting (outcome : Nat) (id : Nat) (e : LoadErr) (s : State) : (State.failLoadAs outcome id e
    s).lasting = s.lasting := by
  unfold State.failLoadAs
  simp only [State.finishJob_lasting, State.answerStart_lasting]
  split
  · rw [lasting_mk, lasting_eta, State.loadReport_lasting]
  · rw [State.loadReport_lasting]

@[simp] theorem State.failLoad_lasting (id : Nat) (e : LoadErr) (s : State) : (State.failLoad id e s).lasting = s.lasting := by
  unfold State.failLoad; simp

@[simp] theorem State.stepFour_lasting (id : Nat) (s : State) : (State.stepFour id s).lasting = s.lasting := by
  unfold State.stepFour; dsimp only; (repeat' split) <;> simp

@[simp] theorem State.startLoad_lasting (id : Nat) (s : State) : (State.startLoad id s).lasting = s.lasting := by
  unfold State.startLoad; simp

@[simp] theorem State.fillSpans_lasting (a0 : Nat) (a1 : State) : (State.fillSpans a0 a1).lasting = a1.lasting := by
  induction a0 generalizing a1 with
  | zero => rfl
  | succ n ih => unfold State.fillSpans; (repeat' split) <;> simp [ih]

@[simp] theorem State.startTicks_lasting (s : State) : (State.startTicks s).lasting = s.lasting := by
  unfold State.startTicks; (repeat' split) <;> simp

@[simp] theorem State.dispatch_lasting (pause : Bool) (s : State) : (State.dispatch pause s).lasting = s.lasting := by
  unfold State.dispatch; dsimp only; (repeat' split) <;> simp

@[simp] theorem State.endOffSpans_lasting (id : Nat) (outcome : Nat) (s : State) : (State.endOffSpans id outcome s).lasting =
    s.lasting := by
  unfold State.endOffSpans; (repeat' split) <;> simp

@[simp] theorem State.abandonJob_lasting (id : Nat) (outcome : Nat) (cause : Nat) (s : State) : (State.abandonJob id outcome
    cause s).lasting = s.lasting := by
  unfold State.abandonJob; (repeat' split) <;> simp

@[simp] theorem State.tellEnd_lasting (id : Nat) (outcome : Nat) (s : State) : (State.tellEnd id outcome s).lasting =
    s.lasting := by
  unfold State.tellEnd; (repeat' split) <;> simp

@[simp] theorem execLandingOpen_lasting (t : Nat) (r : CmdRec) (s : State) : outLasting (execLandingOpen t r s) = some
    s.lasting := by
  unfold execLandingOpen; dsimp only
  split
  · rename_i h; simpa using gate_out h
  · rename_i h; have hs := gate_ok h; (repeat' split) <;> simp_all

@[simp] theorem execLandingClose_lasting (t : Nat) (r : CmdRec) (s : State) : outLasting (execLandingClose t r s) = some
    s.lasting := by
  unfold execLandingClose; dsimp only
  split
  · rename_i h; simpa using gate_out h
  · rename_i h; have hs := gate_ok h; (repeat' split) <;> simp_all

@[simp] theorem execBar4Access_lasting (t : Nat) (port : Fin 4) (fn : Fn) (offset : Nat) (write : Bool) (data : List Byte)
    (errs : MemErrs) (s : State) : outLasting (execBar4Access t port fn offset write data errs s) = some s.lasting := by
  unfold execBar4Access; dsimp only; (repeat' split) <;> simp

@[simp] theorem State.ageLanding_lasting (lid : Nat) (n : Nat) (s : State) : (State.ageLanding lid n s).lasting = s.lasting :=
    by
  unfold State.ageLanding; (repeat' split) <;> simp

@[simp] theorem State.ageAll_lasting (s : State) : (State.ageAll s).lasting = s.lasting := by
  unfold State.ageAll; simp

@[simp] theorem execLandingExpiry_lasting (t : Nat) (id : Nat) (s : State) : outLasting (execLandingExpiry t id s) = some
    s.lasting := by
  unfold execLandingExpiry; dsimp only; (repeat' split) <;> simp

@[simp] theorem State.leaveHo_lasting (h : Nat) (status : Nat) (s : State) : (State.leaveHo h status s).lasting = s.lasting :=
    by
  unfold State.leaveHo; (repeat' split) <;> simp

@[simp] theorem State.startHo_lasting (handle : Nat) (target : Nat) (dest : Nat) (ticket : BitVec 64) (s : State) :
    (State.startHo handle target dest ticket s).lasting = s.lasting := by
  unfold State.startHo; (repeat' split) <;> simp

@[simp] theorem State.returnHo_lasting (s : State) : (State.returnHo s).lasting = s.lasting := by
  unfold State.returnHo; simp

@[simp] theorem State.hoStream_lasting (s : State) (q : Request) : (State.hoStream s q).2.lasting = s.lasting := by
  unfold State.hoStream; simp

@[simp] theorem State.sendCommit_lasting (h : Nat) (x : HoInfo) (s : State) : (State.sendCommit h x s).lasting = s.lasting := by
  unfold State.sendCommit; simp

@[simp] theorem State.sendPages_lasting (h : Nat) (lid : Nat) (s : State) : (State.sendPages h lid s).lasting = s.lasting := by
  unfold State.sendPages; (repeat' split) <;> simp

@[simp] theorem State.takeOfferAns_lasting (src : Nat) (id : Nat) (status : Nat) (lid : Nat) (s : State) : (State.takeOfferAns
    src id status lid s).lasting = s.lasting := by
  unfold State.takeOfferAns; (repeat' split) <;> simp

@[simp] theorem State.hoWack_lasting (src : Nat) (lid : Nat) (s : State) : (State.hoWack src lid s).lasting = s.lasting := by
  unfold State.hoWack; dsimp only; (repeat' split) <;> simp

@[simp] theorem State.takeHoAck_lasting (src : Nat) (id : Nat) (status : Nat) (s : State) : (State.takeHoAck src id status
    s).lasting = s.lasting := by
  unfold State.takeHoAck; (repeat' split) <;> simp

@[simp] theorem State.hoExpired_lasting (h : Nat) (s : State) : (State.hoExpired h s).lasting = s.lasting := by
  unfold State.hoExpired; (repeat' split) <;> simp

@[simp] theorem State.ageHo_lasting (s : State) : (State.ageHo s).lasting = s.lasting := by
  unfold State.ageHo; simp

@[simp] theorem execHandoverConfirmExpiry_lasting (t : Nat) (handle : BitVec 32) (s : State) : outLasting
    (execHandoverConfirmExpiry t handle s) = some s.lasting := by
  unfold execHandoverConfirmExpiry; dsimp only; (repeat' split) <;> simp

@[simp] theorem State.breakRoutes_lasting (s : State) : (State.breakRoutes s).lasting = s.lasting := by
  unfold State.breakRoutes
  repeat' first
    | (refine (foldl_lasting _ _ _ (fun _ _ => ?_)).trans ?_)
    | (refine (foldl_lasting_snd _ _ _ (fun _ _ => ?_)).trans ?_)
    | (refine (foldl_lasting_fst _ _ _ (fun _ _ => ?_)).trans ?_)
    | (refine (foldl_lasting_trd _ _ _ (fun _ _ => ?_)).trans ?_)
    | (refine (foldl_lasting_fth _ _ _ (fun _ _ => ?_)).trans ?_)
    | split
    | simp

@[simp] theorem State.answerOffer_lasting (src : Nat) (id : Nat) (status : Nat) (lid : Nat) (s : State) : (State.answerOffer
    src id status lid s).lasting = s.lasting := by
  unfold State.answerOffer; simp

@[simp] theorem State.allocTable_lasting (q : Request) (len : Nat) (s : State) : (State.allocTable q len s).2.2.2.lasting =
    s.lasting := by
  unfold State.allocTable; (repeat' split) <;> simp

@[simp] theorem State.takeOffer_lasting (src : Nat) (id : Nat) (o : List Byte) (s : State) : (State.takeOffer src id o
    s).lasting = s.lasting := by
  unfold State.takeOffer; dsimp only
  (repeat' split) <;> try simp
  all_goals
    rename_i h
    have h2 := congrArg (fun x => x.2.2.2.lasting) h
    simpa using h2.symm

@[simp] theorem State.ackCommit_lasting (src : Nat) (id : Nat) (status : Nat) (s : State) : (State.ackCommit src id status
    s).lasting = s.lasting := by
  unfold State.ackCommit; simp

@[simp] theorem State.enterHo_lasting (x : HoIn) (s : State) : (State.enterHo x s).lasting = s.lasting := by
  unfold State.enterHo; dsimp only; (repeat' split) <;> simp

@[simp] theorem State.takeCommit_lasting (src : Nat) (id : Nat) (pages : Nat) (s : State) : (State.takeCommit src id pages
    s).lasting = s.lasting := by
  unfold State.takeCommit; (repeat' split) <;> simp

@[simp] theorem State.enterAllHo_lasting (s : State) : (State.enterAllHo s).lasting = s.lasting := by
  unfold State.enterAllHo; simp

end Sys2Proof.Machine
end

