-- ==== Sys2Proof/Laws/LastingC.lean ====
section
/-! SUPPORT. Each operation and each meaning keeps the lasting parts of the state (the queue, the fuses, the counts in flash), or
changes them as `Lasting.before` allows; part 3 of 6, in the order of the definitions. -/

namespace Sys2Proof.Machine
open Sys2Proof

@[simp] theorem State.foldItem_lasting (phase : Nat) (desc : Nat) (code : Nat) (ident : List Byte) (content : List Byte) (s :
    State) : (State.foldItem phase desc code ident content s).lasting = s.lasting := by
  unfold State.foldItem; simp

@[simp] theorem State.sendDigest_lasting (d : BitVec 384) (scope : Nat) (s : State) : (State.sendDigest d scope s).lasting =
    s.lasting := by
  unfold State.sendDigest; simp

@[simp] theorem State.modLock_lasting (f : LockState → LockState) (s : State) : (State.modLock f s).lasting = s.lasting := by
  unfold State.modLock; simp

@[simp] theorem State.sendReady_lasting (s : State) : (State.sendReady s).lasting = s.lasting := by
  unfold State.sendReady; simp

@[simp] theorem State.sendWalk_lasting (s : State) : (State.sendWalk s).lasting = s.lasting := by
  unfold State.sendWalk; simp

@[simp] theorem State.endWalk_lasting (s : State) : (State.endWalk s).lasting = s.lasting := by
  unfold State.endWalk; simp

@[simp] theorem State.walkNext_lasting (d : BitVec 384) (s : State) : (State.walkNext d s).lasting = s.lasting := by
  unfold State.walkNext; simp

@[simp] theorem State.freeze_lasting (phase : Nat) (s : State) : (State.freeze phase s).lasting = s.lasting := by
  unfold State.freeze; simp

@[simp] theorem State.compareDigests_lasting (s : State) : (State.compareDigests s).lasting = s.lasting := by
  unfold State.compareDigests; (repeat' split) <;> simp

@[simp] theorem State.compareHeaders_lasting (s : State) : (State.compareHeaders s).lasting = s.lasting := by
  unfold State.compareHeaders; (repeat' split) <;> simp

@[simp] theorem State.takeDigest_lasting (d : BitVec 384) (tick : Nat) (scope : Nat) (s : State) : (State.takeDigest d tick
    scope s).lasting = s.lasting := by
  unfold State.takeDigest; simp

@[simp] theorem State.sendTickDigest_lasting (s : State) : (State.sendTickDigest s).lasting = s.lasting := by
  unfold State.sendTickDigest; simp

@[simp] theorem State.digestPacket_lasting (p : Pkt) (s : State) : (State.digestPacket p s).lasting = s.lasting := by
  unfold State.digestPacket; simp

@[simp] theorem State.foldStop_lasting (code : Nat) (x : Slot) (s : State) : (State.foldStop code x s).lasting = s.lasting := by
  unfold State.foldStop; (repeat' split) <;> simp

@[simp] theorem State.stopAll_lasting (code : Nat) (s : State) : (State.stopAll code s).lasting = s.lasting := by
  unfold State.stopAll; simp

@[simp] theorem State.pierStops_lasting (s : State) : (State.pierStops s).lasting = s.lasting := by
  unfold State.pierStops; simp

@[simp] theorem State.arriveAt_lasting (m : Nat) (j : Nat) (cyc : Nat) (classes : List Nat) (s : State) : (State.arriveAt m j
    cyc classes s).lasting = s.lasting := by
  unfold State.arriveAt; simp

@[simp] theorem State.trestleArrives_lasting (cyc : Nat) (s : State) : (State.trestleArrives cyc s).lasting = s.lasting := by
  unfold State.trestleArrives; (repeat' split) <;> simp

@[simp] theorem State.releaseSpan_lasting (j x lag : Nat) (g : Joint) (l : Nat) (s : State) : (State.releaseSpan j x lag g
    l s).lasting = s.lasting := by
  unfold State.releaseSpan; (repeat' split) <;> simp

@[simp] theorem State.release_lasting (j : Nat) (x : Nat) (g : Joint) (s : State) : (State.release j x g s).lasting =
    s.lasting := by
  unfold State.release; simp

@[simp] theorem State.endTick_lasting (s : State) : (State.endTick s).lasting = s.lasting := by
  unfold State.endTick; simp

@[simp] theorem State.beginPhase_lasting (a0 : Nat) (a1 : Nat) (a2 : Nat) (a3 : Nat) (a4 : State) : (State.beginPhase a0 a1 a2
    a3 a4).lasting = a4.lasting := by
  induction a0 generalizing a1 a2 a3 a4 with
  | zero => rfl
  | succ n ih => unfold State.beginPhase; dsimp only; (repeat' split) <;> simp [ih]

@[simp] theorem State.beginRun_lasting (start : Nat) (pier : Nat) (s : State) : (State.beginRun start pier s).lasting =
    s.lasting := by
  unfold State.beginRun; dsimp only; (repeat' split) <;> simp

@[simp] theorem execSpanJointArrival_lasting (l : Fin 128) (cyc : Nat) (s : State) : outLasting (execSpanJointArrival l cyc s)
    = some s.lasting := by
  unfold execSpanJointArrival; dsimp only; (repeat' split) <;> simp

@[simp] theorem execJointRelease_lasting (t : Nat) (s : State) : outLasting (execJointRelease t s) = some s.lasting := by
  unfold execJointRelease; dsimp only; (repeat' split) <;> simp

@[simp] theorem State.spanResult_lasting (result : Nat) (s : State) : (State.spanResult result s).lasting = s.lasting := by
  unfold State.spanResult; simp

@[simp] theorem State.spanActionDone_lasting (result : Nat) (s : State) : (State.spanActionDone result s).lasting = s.lasting
    := by
  unfold State.spanActionDone; simp

@[simp] theorem State.listFence_lasting (p : Nat) (s : State) : (State.listFence p s).lasting = s.lasting := by
  unfold State.listFence; simp

@[simp] theorem State.rewriteSpan_lasting (l : Nat) (p : Nat) (s : State) : (State.rewriteSpan l p s).lasting = s.lasting := by
  unfold State.rewriteSpan; (repeat' split) <;> simp

@[simp] theorem State.fenceInLoad_lasting (p : Nat) (q : Option Nat) (s : State) : (State.fenceInLoad p q s).lasting =
    s.lasting := by
  unfold State.fenceInLoad; (repeat' split) <;> simp

@[simp] theorem State.fence_lasting (p : Nat) (s : State) : (State.fence p s).2.lasting = s.lasting := by
  unfold State.fence; dsimp only; (repeat' split) <;> simp

@[simp] theorem State.fenceAll_lasting (ps : List Nat) (s : State) : (State.fenceAll ps s).2.lasting = s.lasting := by
  unfold State.fenceAll; dsimp only
  repeat' first
    | rfl
    | (simp; done)
    | (refine (foldl_lasting _ _ _ (fun _ _ => ?_)).trans ?_)
    | (refine (foldl_lasting_snd _ _ _ (fun _ _ => ?_)).trans ?_)
    | split
    | (simp)

@[simp] theorem State.rebind_lasting (b : Bitstream) (n : Nat) (s : State) : (State.rebind b n s).lasting = s.lasting := by
  unfold State.rebind; simp

@[simp] theorem State.setPlan_lasting (s : State) : (State.setPlan s).lasting = s.lasting := by
  unfold State.setPlan; (repeat' split) <;> simp

@[simp] theorem State.enterBasic_lasting (cause : Nat) (s : State) : (State.enterBasic cause s).lasting = s.lasting := by
  unfold State.enterBasic; (repeat' split) <;> simp

@[simp] theorem State.leaveBasic_lasting (s : State) : (State.leaveBasic s).lasting = s.lasting := by
  unfold State.leaveBasic; (repeat' split) <;> simp

@[simp] theorem State.basicDue_lasting (s : State) : (State.basicDue s).lasting = s.lasting := by
  unfold State.basicDue; dsimp only; (repeat' split) <;> simp

@[simp] theorem State.fencesDue_lasting (s : State) : (State.fencesDue s).lasting = s.lasting := by
  unfold State.fencesDue; dsimp only; (repeat' split) <;> simp

@[simp] theorem State.boundaryFences_lasting (s : State) : (State.boundaryFences s).lasting = s.lasting := by
  unfold State.boundaryFences; simp

@[simp] theorem State.admitOne_lasting (h : Nat) (s : State) : (State.admitOne h s).lasting = s.lasting := by
  unfold State.admitOne; (repeat' split) <;> simp

@[simp] theorem State.fillAll_lasting (ps : List Provision) (s : State) : (State.fillAll ps s).2.2.lasting = s.lasting := by
  unfold State.fillAll
  refine foldl_lasting_trd _ _ _ (fun b a => ?_)
  split <;> simp

@[simp] theorem State.cowAll_lasting (ps : List Provision) (s : State) : (State.cowAll ps s).2.2.2.lasting = s.lasting := by
  unfold State.cowAll
  refine foldl_lasting_fth _ _ _ (fun b a => ?_)
  split
  · rfl
  · split <;> simp

@[simp] theorem State.seat_lasting (x : Provision) (s : State) : (State.seat x s).lasting = s.lasting := by
  unfold State.seat; simp

@[simp] theorem State.provision_lasting (ps : List Provision) (s : State) : (State.provision ps s).lasting = s.lasting := by
  unfold State.provision; dsimp only; (repeat' split) <;> simp

@[simp] theorem State.endTooLong_lasting (c : Nat) (a1 : Nat) (a2 : State) : (State.endTooLong c a1 a2).lasting =
    a2.lasting := by
  induction a1 generalizing a2 with
  | zero => rfl
  | succ n ih => unfold State.endTooLong; split <;> simp [ih]

@[simp] theorem State.formBatch_lasting (c : Nat) (s : State) : (State.formBatch c s).lasting = s.lasting := by
  unfold State.formBatch; simp

@[simp] theorem State.balance_lasting (s : State) : (State.balance s).lasting = s.lasting := by
  unfold State.balance; dsimp only; (repeat' split) <;> (try simp) <;> (refine foldl_lasting _ _ _ (fun s a => ?_)) <;> (try dsimp only) <;> (repeat' split) <;> simp

@[simp] theorem State.writeLists_lasting (s : State) : (State.writeLists s).lasting = s.lasting := by
  unfold State.writeLists; (repeat' split) <;> simp

@[simp] theorem State.faultLists_lasting (s : State) : (State.faultLists s).lasting = s.lasting := by
  unfold State.faultLists; simp

@[simp] theorem State.foldBatch_lasting (s : State) : (State.foldBatch s).lasting = s.lasting := by
  unfold State.foldBatch
  repeat' first
    | rfl
    | (simp; done)
    | (refine (foldl_lasting _ _ _ (fun _ _ => ?_)).trans ?_)
    | (refine (foldl_lasting_snd _ _ _ (fun _ _ => ?_)).trans ?_)
    | (refine (foldl_lasting_fst _ _ _ (fun _ _ => ?_)).trans ?_)
    | (refine (foldl_lasting_trd _ _ _ (fun _ _ => ?_)).trans ?_)
    | (refine (foldl_lasting_fth _ _ _ (fun _ _ => ?_)).trans ?_)
    | split
    | (simp)

@[simp] theorem State.loseEntry_lasting (p slot : Nat) (s : State) : (State.loseEntry p slot s).lasting = s.lasting := by
  unfold State.loseEntry; simp

@[simp] theorem State.countEntry_lasting (l p di : Nat) (d : Desc) (line slot : Nat) (s : State) : (State.countEntry l p
    di d line slot s).2.lasting = s.lasting := by
  unfold State.countEntry; dsimp only; (repeat' split) <;> simp

@[simp] theorem State.tapRun_lasting (l p : Nat) (r : RunCtx) (k : Nat) (f : PassFeed) (taps : List (Nat × Nat × BitVec 16
    × Bool)) (s : State) : (State.tapRun l p r k f taps s).2.lasting = s.lasting := by
  unfold State.tapRun; dsimp only
  refine foldl_lasting_snd _ _ _ (fun b a => ?_)
  refine foldl_lasting_snd _ _ _ (fun b a => ?_)
  split
  · rfl
  · split
    · simp
    · split <;> simp

@[simp] theorem State.seqRuns_lasting (c : Ctx) (r : RunCtx) (predicted : Bool) (at_ : Nat) (fs : List RunFeed) (s :
    State) : (State.seqRuns c r predicted at_ fs s).2.lasting = s.lasting := by
  unfold State.seqRuns; rw [foldl_lasting_snd]; intro b a; (repeat' split) <;> simp

@[simp] theorem runAct_lasting (mode : Nat) (a : RunArgs) (deck : DeckUse) (c : Ctx) (s : State) : (runAct mode a deck c
    s).lasting = s.lasting := by
  unfold runAct; (repeat' split) <;> simp

@[simp] theorem execPrun_lasting (i : Issue) (w : WaitGroup) (a : RunArgs) (deck : DeckUse) (s : State) : outLasting
    (execPrun i w a deck s) = some s.lasting := by
  unfold execPrun; simp

@[simp] theorem execLrun_lasting (i : Issue) (w : WaitGroup) (a : RunArgs) (deck : DeckUse) (s : State) : outLasting
    (execLrun i w a deck s) = some s.lasting := by
  unfold execLrun; simp

@[simp] theorem execTrun_lasting (i : Issue) (w : WaitGroup) (a : RunArgs) (deck : DeckUse) (s : State) : outLasting
    (execTrun i w a deck s) = some s.lasting := by
  unfold execTrun; simp

@[simp] theorem State.checkPair_lasting (p : Nat) (q : PredPair) (s : State) : (State.checkPair p q s).lasting = s.lasting := by
  unfold State.checkPair; (repeat' split) <;> simp

@[simp] theorem execAdditionLanded_lasting (l : Fin 128) (cyc : Nat) (s : State) : outLasting (execAdditionLanded l cyc s)
    = some s.lasting := by
  unfold execAdditionLanded; dsimp only; (repeat' split) <;> simp

@[simp] theorem State.loseRows_lasting (slot : Nat) (n : Nat) (s : State) : (State.loseRows slot n s).lasting = s.lasting := by
  unfold State.loseRows; simp

@[simp] theorem State.redecode_lasting (c : Ctx) (d : Desc) (v : Nat) (passes : List MakePass) (s : State) :
    (State.redecode c d v passes s).lasting = s.lasting := by
  unfold State.redecode; simp

@[simp] theorem State.makeGroup_lasting (c : Ctx) (r : RunCtx) (v : Nat) (pairs : List MakePair) (m0 : Nat) (m : Nat) (s :
    State) : (State.makeGroup c r v pairs m0 m s).1.lasting = s.lasting := by
  unfold State.makeGroup; dsimp only
  repeat' first
    | rfl
    | (simp; done)
    | (refine (foldl_lasting _ _ _ (fun _ _ => ?_)).trans ?_)
    | (refine (foldl_lasting_snd _ _ _ (fun _ _ => ?_)).trans ?_)
    | (refine (foldl_lasting_fst _ _ _ (fun _ _ => ?_)).trans ?_)
    | (refine (foldl_lasting_trd _ _ _ (fun _ _ => ?_)).trans ?_)
    | (refine (foldl_lasting_fth _ _ _ (fun _ _ => ?_)).trans ?_)
    | split
    | (simp)

@[simp] theorem State.makeGroups_lasting (c : Ctx) (r : RunCtx) (ps : List MakePair) (m0 : Nat) (s : State) :
    (State.makeGroups c r ps m0 s).1.lasting = s.lasting := by
  unfold State.makeGroups; dsimp only
  refine foldl_lasting_fst _ _ _ (fun b a => ?_)
  simp

@[simp] theorem mkupAct_lasting (a : RunArgs) (deck : DeckUse) (c : Ctx) (s : State) : (mkupAct a deck c s).lasting =
    s.lasting := by
  unfold mkupAct; dsimp only
  repeat' first
    | rfl
    | (simp; done)
    | (refine (foldl_lasting _ _ _ (fun _ _ => ?_)).trans ?_)
    | (refine (foldl_lasting_snd _ _ _ (fun _ _ => ?_)).trans ?_)
    | (refine (foldl_lasting_fst _ _ _ (fun _ _ => ?_)).trans ?_)
    | (refine (foldl_lasting_trd _ _ _ (fun _ _ => ?_)).trans ?_)
    | (refine (foldl_lasting_fth _ _ _ (fun _ _ => ?_)).trans ?_)
    | split
    | (simp)

@[simp] theorem execMkup_lasting (i : Issue) (w : WaitGroup) (a : RunArgs) (deck : DeckUse) (s : State) : outLasting
    (execMkup i w a deck s) = some s.lasting := by
  unfold execMkup; simp

@[simp] theorem State.refuseWiden_lasting (p : Nat) (slot : Nat) (s : State) : (State.refuseWiden p slot s).lasting =
    s.lasting := by
  unfold State.refuseWiden; simp

@[simp] theorem State.widen_lasting (l : Nat) (p : Nat) (slot : Nat) (d : Desc) (n : Nat) (s : State) : (State.widen l p slot
    d n s).2.lasting = s.lasting := by
  unfold State.widen; dsimp only; (repeat' split) <;> simp

@[simp] theorem State.raiseWidth_lasting (l : Nat) (p : Nat) (slot : Nat) (d : Desc) (w0 : Nat) (vals : List Lns) (a6 : Nat)
    (a7 : Nat) (a8 : State) : (State.raiseWidth l p slot d w0 vals a6 a7 a8).2.lasting = a8.lasting := by
  induction a6 generalizing a7 a8 with
  | zero => rfl
  | succ n ih => unfold State.raiseWidth; dsimp only; (repeat' split) <;> simp [ih]

@[simp] theorem State.blockOf_lasting (l : Nat) (p : Nat) (slot : Nat) (i : Nat) (d : Desc) (vals : List Lns) (s : State) :
    (State.blockOf l p slot i d vals s).2.lasting = s.lasting := by
  unfold State.blockOf; dsimp only; (repeat' split) <;> simp

@[simp] theorem State.foldGranule_lasting (l p : Nat) (w : ConvWork) (slot idx : Nat) (v : BitVec 256) (s : State) :
    (State.foldGranule l p w slot idx v s).lasting = s.lasting := by
  unfold State.foldGranule; simp

@[simp] theorem State.writeOut_lasting (l p cyc : Nat) (d : Desc) (w : ConvWork) (slot : Nat) (gs : List (Nat × BitVec 256
    × Nat)) (s : State) : (State.writeOut l p cyc d w slot gs s).lasting = s.lasting := by
  unfold State.writeOut; (repeat' split) <;> simp

@[simp] theorem State.seqBlocks_lasting (l : Nat) (p : Nat) (d : Desc) (w : ConvWork) (q : Nat × Nat × Nat) (s : State) :
    (State.seqBlocks l p d w q s).2.lasting = s.lasting := by
  unfold State.seqBlocks; dsimp only
  repeat' first
    | rfl
    | (simp; done)
    | (refine (foldl_lasting _ _ _ (fun _ _ => ?_)).trans ?_)
    | (refine (foldl_lasting_snd _ _ _ (fun _ _ => ?_)).trans ?_)
    | split
    | (simp)

@[simp] theorem State.writeBlocks_lasting (d : Desc) (w : ConvWork) (vecE : Option Int) (q : SeqBlocks) (s : State) :
    (State.writeBlocks d w vecE q s).lasting = s.lasting := by
  unfold State.writeBlocks; simp

@[simp] theorem State.writeLns_lasting (l : Nat) (p : Nat) (d : Desc) (w : ConvWork) (s : State) : (State.writeLns l p d w
    s).lasting = s.lasting := by
  unfold State.writeLns; simp

@[simp] theorem State.foldMask_lasting (l p : Nat) (d : Desc) (w : ConvWork) (ws : List DeckPut) (s : State) :
    (State.foldMask l p d w ws s).lasting = s.lasting := by
  unfold State.foldMask
  refine foldl_lasting _ _ _ (fun s a => ?_)
  split <;> simp

@[simp] theorem State.writeMask_lasting (l : Nat) (p : Nat) (d : Desc) (w : ConvWork) (s : State) : (State.writeMask l p d w
    s).lasting = s.lasting := by
  unfold State.writeMask; simp

@[simp] theorem State.finishLines_lasting (d : Desc) (factors : List ((Nat × Nat) × Lns × Nat)) (m : ConvMember) (s : State) :
    (State.finishLines d factors m s).2.lasting = s.lasting := by
  unfold State.finishLines; simp

@[simp] theorem State.writeResidual_lasting (l p : Nat) (d : Desc) (w : ConvWork) (s : State) : (State.writeResidual l p d
    w s).lasting = s.lasting := by
  unfold State.writeResidual; simp

@[simp] theorem State.appendLine_lasting (l p : Nat) (d : Desc) (w : ConvWork) (to_ : Nat × Nat) (n : ConvLine) (s :
    State) : (State.appendLine l p d w to_ n s).lasting = s.lasting := by
  unfold State.appendLine; dsimp only; (repeat' split) <;> simp

@[simp] theorem State.writeLines_lasting (d : Desc) (m : ConvMember) (s : State) : (State.writeLines d m s).lasting =
    s.lasting := by
  unfold State.writeLines; (repeat' split) <;> simp

@[simp] theorem State.finishConv_lasting (d : Desc) (ms : List ConvMember) (s : State) : (State.finishConv d ms s).lasting =
    s.lasting := by
  unfold State.finishConv; dsimp only
  repeat' first
    | rfl
    | (simp; done)
    | (refine (foldl_lasting _ _ _ (fun _ _ => ?_)).trans ?_)
    | (refine (foldl_lasting_snd _ _ _ (fun _ _ => ?_)).trans ?_)
    | split
    | (simp)

@[simp] theorem State.reduceConv_lasting (i : Nat) (d : Desc) (s : State) : (State.reduceConv i d s).lasting = s.lasting := by
  unfold State.reduceConv; (repeat' split) <;> simp

@[simp] theorem State.readOne_lasting (c : Ctx) (seq0 n i : Nat) (r : LinesRead) (s : State) : (State.readOne c seq0 n i r
    s).2.lasting = s.lasting := by
  unfold State.readOne; dsimp only; (repeat' split) <;> simp

@[simp] theorem State.readLines_lasting (c : Ctx) (seq0 : Nat) (ns : List Nat) (s : State) : (State.readLines c seq0 ns
    s).2.lasting = s.lasting := by
  unfold State.readLines; rw [foldl_lasting_snd]; intro b a; (repeat' split) <;> simp

@[simp] theorem State.startConv_lasting (c : Ctx) (d : Desc) (w : ConvWork) (s : State) : (State.startConv c d w
    s).lasting = s.lasting := by
  unfold State.startConv; simp

@[simp] theorem convAct_lasting (a : ConvArgs) (deck : DeckUse) (c : Ctx) (s : State) : (convAct a deck c s).lasting =
    s.lasting := by
  unfold convAct; dsimp only
  repeat' first
    | rfl
    | (simp; done)
    | (refine (foldl_lasting _ _ _ (fun _ _ => ?_)).trans ?_)
    | (refine (foldl_lasting_snd _ _ _ (fun _ _ => ?_)).trans ?_)
    | split
    | (simp)

@[simp] theorem execConv_lasting (i : Issue) (w : WaitGroup) (line0 : BitVec 12) (nlines : BitVec 13) (dst : BitVec 17)
    (dspan : BitVec 8) (rctr : BitVec 5) (seq0 : BitVec 12) (deck : DeckUse) (s : State) : outLasting (execConv i w line0
    nlines dst dspan rctr seq0 deck s) = some s.lasting := by
  unfold execConv; simp

@[simp] theorem execKvapp_lasting (i : Issue) (w : WaitGroup) (line0 : BitVec 12) (nlines : BitVec 13) (seq0 : BitVec 12)
    (nspan : BitVec 8) (nctr : BitVec 5) (deck : DeckUse) (s : State) : outLasting (execKvapp i w line0 nlines seq0 nspan nctr
    deck s) = some s.lasting := by
  unfold execKvapp; simp

@[simp] theorem execKvappAck_lasting (l : Fin 128) (cyc : Nat) (errs : MemErrs) (s : State) : outLasting (execKvappAck l
    cyc errs s) = some s.lasting := by
  unfold execKvappAck; dsimp only; (repeat' split) <;> simp

@[simp] theorem tblldAct_lasting (slot src : Nat) (deck : DeckUse) (c : Ctx) (s : State) : (tblldAct slot src deck c
    s).lasting = s.lasting := by
  unfold tblldAct; (repeat' split) <;> simp

@[simp] theorem execTblld_lasting (i : Issue) (slot : BitVec 3) (src : BitVec 17) (deck : DeckUse) (s : State) :
    outLasting (execTblld i slot src deck s) = some s.lasting := by
  unfold execTblld; simp

@[simp] theorem State.freeToken_lasting (v : Nat) (s : State) : (State.freeToken v s).2.lasting = s.lasting := by
  unfold State.freeToken; simp

@[simp] theorem State.sampleSlot_lasting (phase : Nat) (n : Nat) (vocab : Nat) (logits : Nat → Option (List Lns)) (s : State)
    : (State.sampleSlot phase n vocab logits s).2.lasting = s.lasting := by
  unfold State.sampleSlot; dsimp only
  repeat' first
    | rfl
    | (simp; done)
    | (refine (foldl_lasting _ _ _ (fun _ _ => ?_)).trans ?_)
    | (refine (foldl_lasting_snd _ _ _ (fun _ _ => ?_)).trans ?_)
    | split
    | (simp)

@[simp] theorem State.countGrants_lasting (g : Granting) (s : State) : (State.countGrants g s).lasting = s.lasting := by
  unfold State.countGrants; dsimp only
  repeat' first
    | rfl
    | (simp; done)
    | (refine (foldl_lasting _ _ _ (fun _ _ => ?_)).trans ?_)
    | (refine (foldl_lasting_snd _ _ _ (fun _ _ => ?_)).trans ?_)
    | split
    | (simp)

@[simp] theorem State.askList_lasting (cyc l t : Nat) (addr : Nat → Nat) (ctr n : Nat) (gs : List (BitVec 256)) (s :
    State) : (State.askList cyc l t addr ctr n gs s).lasting = s.lasting := by
  unfold State.askList; simp

@[simp] theorem State.sendGrants_lasting (cyc l desc : Nat) (d : Desc) (addr : Nat → Nat) (ctr : Nat) (g : Granting) (s :
    State) : (State.sendGrants cyc l desc d addr ctr g s).lasting = s.lasting := by
  unfold State.sendGrants; simp

@[simp] theorem State.archWrite_lasting (c : Ctx) (line0 : Nat) (done : Nat) (codes : List (List (BitVec 16))) (s : State) :
    (State.archWrite c line0 done codes s).lasting = s.lasting := by
  unfold State.archWrite; dsimp only; (repeat' split) <;> simp

@[simp] theorem attnAct_lasting (lbase nlist kring krlog2 kctr line0 : Nat) (deck : DeckUse) (c : Ctx) (s : State) :
    (attnAct lbase nlist kring krlog2 kctr line0 deck c s).lasting = s.lasting := by
  unfold attnAct; (repeat' split) <;> simp

@[simp] theorem execAttn_lasting (i : Issue) (w : WaitGroup) (lbase : BitVec 17) (nlist : BitVec 13) (kring : BitVec 17)
    (krlog2 : BitVec 5) (kctr : BitVec 5) (line0 : BitVec 12) (deck : DeckUse) (s : State) : outLasting (execAttn i w lbase
    nlist kring krlog2 kctr line0 deck s) = some s.lasting := by
  unfold execAttn; simp

@[simp] theorem State.archLines_lasting (c : Ctx) (line0 n : Nat) (deck : DeckUse) (gs : List Nat) (codes : List (List
    (BitVec 16))) (sat : Nat) (s : State) : (State.archLines c line0 n deck gs codes sat s).lasting = s.lasting := by
  unfold State.archLines; simp

@[simp] theorem amulAct_lasting (abase bbase line0 nlines : Nat) (deck : DeckUse) (c : Ctx) (s : State) : (amulAct abase
    bbase line0 nlines deck c s).lasting = s.lasting := by
  unfold amulAct; (repeat' split) <;> simp

@[simp] theorem execAmul_lasting (i : Issue) (w : WaitGroup) (abase bbase : BitVec 17) (line0 : BitVec 12) (nlines :
    BitVec 13) (deck : DeckUse) (s : State) : outLasting (execAmul i w abase bbase line0 nlines deck s) = some s.lasting := by
  unfold execAmul; simp

@[simp] theorem State.rotateAll_lasting (d : Desc) (vs : List (List (BitVec 256) × Nat)) (s : State) :
    (s.rotateAll d vs).2.2.lasting = s.lasting := by
  unfold State.rotateAll; dsimp only
  repeat' first
    | rfl
    | (simp; done)
    | (refine (foldl_lasting _ _ _ (fun _ _ => ?_)).trans ?_)
    | (refine (foldl_lasting_snd _ _ _ (fun _ _ => ?_)).trans ?_)
    | (refine (foldl_lasting_fst _ _ _ (fun _ _ => ?_)).trans ?_)
    | (refine (foldl_lasting_trd _ _ _ (fun _ _ => ?_)).trans ?_)
    | (refine (foldl_lasting_fth _ _ _ (fun _ _ => ?_)).trans ?_)
    | split
    | (simp)

@[simp] theorem arotAct_lasting (src pbase nvec line0 : Nat) (deck : DeckUse) (c : Ctx) (s : State) : (arotAct src pbase
    nvec line0 deck c s).lasting = s.lasting := by
  unfold arotAct; dsimp only; (repeat' split) <;> simp

@[simp] theorem execArot_lasting (i : Issue) (w : WaitGroup) (src pbase : BitVec 17) (nvec : BitVec 13) (line0 : BitVec
    12) (deck : DeckUse) (s : State) : outLasting (execArot i w src pbase nvec line0 deck s) = some s.lasting := by
  unfold execArot; simp

@[simp] theorem arankAct_lasting (line0 : Nat) (nseq : Nat) (dst : Nat) (rctr : Nat) (c : Ctx) (s : State) : (arankAct line0
    nseq dst rctr c s).lasting = s.lasting := by
  unfold arankAct; dsimp only; (repeat' split) <;> simp

@[simp] theorem execArank_lasting (i : Issue) (w : WaitGroup) (line0 : BitVec 12) (nseq : BitVec 13) (dst : BitVec 17) (rctr :
    BitVec 5) (s : State) : outLasting (execArank i w line0 nseq dst rctr s) = some s.lasting := by
  unfold execArank; simp

@[simp] theorem State.sampleLines_lasting (x : Span) (line0 lps : Nat) (list ks : List Nat) (s : State) :
    (s.sampleLines x line0 lps list ks).2.2.lasting = s.lasting := by
  unfold State.sampleLines; dsimp only
  repeat' first
    | rfl
    | (simp; done)
    | (refine (foldl_lasting _ _ _ (fun _ _ => ?_)).trans ?_)
    | (refine (foldl_lasting_snd _ _ _ (fun _ _ => ?_)).trans ?_)
    | (refine (foldl_lasting_fst _ _ _ (fun _ _ => ?_)).trans ?_)
    | (refine (foldl_lasting_trd _ _ _ (fun _ _ => ?_)).trans ?_)
    | (refine (foldl_lasting_fth _ _ _ (fun _ _ => ?_)).trans ?_)
    | split
    | (simp)

@[simp] theorem State.tokenWords_lasting (tokens : List (Nat × Nat)) (ks : List Nat) (s : State) :
    (s.tokenWords tokens ks).2.lasting = s.lasting := by
  unfold State.tokenWords; dsimp only
  repeat' first
    | rfl
    | (simp; done)
    | (refine (foldl_lasting _ _ _ (fun _ _ => ?_)).trans ?_)
    | (refine (foldl_lasting_snd _ _ _ (fun _ _ => ?_)).trans ?_)
    | (refine (foldl_lasting_fst _ _ _ (fun _ _ => ?_)).trans ?_)
    | (refine (foldl_lasting_trd _ _ _ (fun _ _ => ?_)).trans ?_)
    | (refine (foldl_lasting_fth _ _ _ (fun _ _ => ?_)).trans ?_)
    | split
    | (simp)

@[simp] theorem asampAct_lasting (line0 : Nat) (nseq : Nat) (dst : Nat) (c : Ctx) (s : State) : (asampAct line0 nseq dst c
    s).lasting = s.lasting := by
  unfold asampAct; dsimp only; (repeat' split) <;> simp

@[simp] theorem execAsamp_lasting (i : Issue) (w : WaitGroup) (line0 : BitVec 12) (nseq : BitVec 13) (dst : BitVec 17) (s :
    State) : outLasting (execAsamp i w line0 nseq dst s) = some s.lasting := by
  unfold execAsamp; simp

@[simp] theorem State.dropGone_lasting (s : State) : (State.dropGone s).lasting = s.lasting := by
  unfold State.dropGone; simp

@[simp] theorem State.cancelAtCut_lasting (h : Nat) (target : Nat) (s : State) : (State.cancelAtCut h target s).lasting =
    s.lasting := by
  unfold State.cancelAtCut; (repeat' split) <;> simp

@[simp] theorem State.actDeadline_lasting (h : Nat) (q : Request) (s : State) : (State.actDeadline h q s).lasting = s.lasting
    := by
  unfold State.actDeadline; simp

@[simp] theorem State.cutDeadlines_lasting (c : Nat) (s : State) : (State.cutDeadlines c s).lasting = s.lasting := by
  unfold State.cutDeadlines; dsimp only; (repeat' split) <;> (try simp) <;> (refine foldl_lasting _ _ _ (fun s a => ?_)) <;> (try dsimp only) <;> (repeat' split) <;> simp

@[simp] theorem State.latchCap_lasting (s : State) : (State.latchCap s).lasting = s.lasting := by
  unfold State.latchCap; simp

@[simp] theorem State.alert_lasting (b : Nat) (s : State) : (State.alert b s).lasting = s.lasting := by
  unfold State.alert; simp

@[simp] theorem State.floorRate_lasting (s : State) : (State.floorRate s).lasting = s.lasting := by
  unfold State.floorRate; simp

@[simp] theorem State.countPower_lasting (s : State) : (State.countPower s).lasting = s.lasting := by
  unfold State.countPower; simp

@[simp] theorem State.clockAtCut_lasting (s : State) : (State.clockAtCut s).lasting = s.lasting := by
  unfold State.clockAtCut; simp

@[simp] theorem State.missCut_lasting (s : State) : (State.missCut s).lasting = s.lasting := by
  unfold State.missCut; simp

@[simp] theorem State.cutFirst_lasting (c : Nat) (s : State) : (State.cutFirst c s).lasting = s.lasting := by
  unfold State.cutFirst; dsimp only
  repeat' first
    | rfl
    | (simp; done)
    | (refine (foldl_lasting _ _ _ (fun _ _ => ?_)).trans ?_)
    | (refine (foldl_lasting_snd _ _ _ (fun _ _ => ?_)).trans ?_)
    | split
    | (simp)

@[simp] theorem State.holdFrom_lasting (s : State) : (State.holdFrom s).lasting = s.lasting := by
  unfold State.holdFrom; split <;> simp

@[simp] theorem State.cutRest_lasting (c : Nat) (work : Nat) (s : State) : (State.cutRest c work s).lasting = s.lasting := by
  unfold State.cutRest; dsimp only; (repeat' split) <;> simp

@[simp] theorem execAdmissionCut_lasting (t : Nat) (s : State) : outLasting (execAdmissionCut t s) = some s.lasting := by
  unfold execAdmissionCut; dsimp only; (repeat' split) <;> simp

end Sys2Proof.Machine
end

