-- ==== Sys2Proof/Laws/LastingD.lean ====
section
/-! SUPPORT. Each operation and each meaning keeps the lasting parts of the state (the queue, the fuses, the counts in flash), or
changes them as `Lasting.before` allows; part 4 of 6, in the order of the definitions. -/

namespace Sys2Proof.Machine
open Sys2Proof

@[simp] theorem State.modStk_lasting (i : Nat) (f : Stack → Stack) (s : State) : (State.modStk i f s).lasting = s.lasting := by
  unfold State.modStk; simp

@[simp] theorem State.grade_lasting (i : Nat) (s : State) : (State.grade i s).lasting = s.lasting := by
  unfold State.grade; simp

@[simp] theorem State.logRepair_lasting (i : Nat) (g : Nat) (s : State) : (State.logRepair i g s).lasting = s.lasting := by
  unfold State.logRepair; simp

@[simp] theorem State.hotLost_lasting (i : Nat) (s : State) : (State.hotLost i s).lasting = s.lasting := by
  unfold State.hotLost; simp

@[simp] theorem State.loseStack_lasting (i : Nat) (s : State) : (State.loseStack i s).lasting = s.lasting := by
  unfold State.loseStack; simp

@[simp] theorem State.erase_lasting (i : Nat) (g : Nat) (p : Nat) (s : State) : (State.erase i g p s).lasting = s.lasting := by
  unfold State.erase; simp

@[simp] theorem State.repairShows_lasting (action result i g p : Nat) (s : State) : (State.repairShows action result i g p
    s).lasting = s.lasting := by
  unfold State.repairShows
  rw [State.noteSet_lasting, lasting_mk, lasting_eta]

@[simp] theorem State.repairDone_lasting (action : Nat) (result : Nat) (i : Nat) (g : Nat) (p : Nat) (s : State) :
    (State.repairDone action result i g p s).lasting = s.lasting := by
  unfold State.repairDone; simp

@[simp] theorem execPinErase_lasting (t : Nat) (stack : Fin 32) (lg : Fin 32) (pin : Fin 19) (s : State) : outLasting
    (execPinErase t stack lg pin s) = some s.lasting := by
  unfold execPinErase; dsimp only; (repeat' split) <;> simp

@[simp] theorem execCorrectionWindowEnd_lasting (t : Nat) (stack : Fin 32) (s : State) : outLasting (execCorrectionWindowEnd t
    stack s) = some s.lasting := by
  unfold execCorrectionWindowEnd; simp

@[simp] theorem State.repairLag_lasting (ns : Nat) (s : State) : (State.repairLag ns s).lasting = s.lasting := by
  unfold State.repairLag; simp

@[simp] theorem State.steer_lasting (i : Nat) (g : Nat) (p : Nat) (retrained : Bool) (s : State) : (State.steer i g p
    retrained s).lasting = s.lasting := by
  unfold State.steer; simp

@[simp] theorem execSpareSteer_lasting (t : Nat) (stack : Fin 32) (lg : Fin 32) (pin : Fin 19) (retrained : Bool) (s : State)
    : outLasting (execSpareSteer t stack lg pin retrained s) = some s.lasting := by
  unfold execSpareSteer; dsimp only; (repeat' split) <;> simp

@[simp] theorem execRowRepair_lasting (t : Nat) (stack : Fin 32) (bank : Nat) (row : Nat) (granules : List Nat) (s : State) :
    outLasting (execRowRepair t stack bank row granules s) = some s.lasting := by
  unfold execRowRepair; dsimp only; (repeat' split) <;> simp

@[simp] theorem State.hardenLg_lasting (i : Nat) (g : Nat) (s : State) : (State.hardenLg i g s).lasting = s.lasting := by
  unfold State.hardenLg; simp

@[simp] theorem State.hardenRows_lasting (i : Nat) (all : Bool) (s : State) : (State.hardenRows i all s).lasting = s.lasting
    := by
  unfold State.hardenRows; simp

@[simp] theorem execHardRepair_lasting (t : Nat) (stack : Fin 32) (ok : Bool) (s : State) : outLasting (execHardRepair t stack
    ok s) = some s.lasting := by
  unfold execHardRepair; dsimp only; (repeat' split) <;> simp

@[simp] theorem State.spareCtrl_lasting (a : Nat) (value : Word) (act : Nat → Nat → Nat → State → State) (s : State) (hact : ∀
    (b0 : Nat) (b1 : Nat) (b2 : Nat) (s : State), (act b0 b1 b2 s).lasting = s.lasting) : (State.spareCtrl a value act
    s).lasting = s.lasting := by
  unfold State.spareCtrl; dsimp only
  split
  · simp
  split
  · rw [lasting_mk, lasting_eta]; simp
  split <;> simp [hact]

@[simp] theorem State.spareErase_lasting (value : Word) (s : State) : (State.spareErase value s).lasting = s.lasting := by
  unfold State.spareErase; simp

@[simp] theorem execSpareCtrlErase_lasting (t : Nat) (who : Requester) (value : Word) (s : State) : outLasting
    (execSpareCtrlErase t who value s) = some s.lasting := by
  unfold execSpareCtrlErase; simp

@[simp] theorem State.spareSteer_lasting (value : Word) (s : State) : (State.spareSteer value s).lasting = s.lasting := by
  unfold State.spareSteer; simp

@[simp] theorem execSpareCtrlSteer_lasting (t : Nat) (who : Requester) (value : Word) (s : State) : outLasting
    (execSpareCtrlSteer t who value s) = some s.lasting := by
  unfold execSpareCtrlSteer; simp

@[simp] theorem State.spareHardSteer_lasting (value : Word) (s : State) : (State.spareHardSteer value s).lasting = s.lasting
    := by
  unfold State.spareHardSteer; simp

@[simp] theorem execSpareCtrlHardSteer_lasting (t : Nat) (who : Requester) (value : Word) (s : State) : outLasting
    (execSpareCtrlHardSteer t who value s) = some s.lasting := by
  unfold execSpareCtrlHardSteer; simp

@[simp] theorem State.spareClearErasure_lasting (value : Word) (s : State) : (State.spareClearErasure value s).lasting =
    s.lasting := by
  unfold State.spareClearErasure; simp

@[simp] theorem execSpareCtrlClearErasure_lasting (t : Nat) (who : Requester) (value : Word) (s : State) : outLasting
    (execSpareCtrlClearErasure t who value s) = some s.lasting := by
  unfold execSpareCtrlClearErasure; simp

@[simp] theorem State.spareHardRows_lasting (value : Word) (s : State) : (State.spareHardRows value s).lasting = s.lasting := by
  unfold State.spareHardRows; simp

@[simp] theorem execSpareCtrlHardRows_lasting (t : Nat) (who : Requester) (value : Word) (s : State) : outLasting
    (execSpareCtrlHardRows t who value s) = some s.lasting := by
  unfold execSpareCtrlHardRows; simp

@[simp] theorem State.scrubReport_lasting (g : Nat) (s : State) : (State.scrubReport g s).lasting = s.lasting := by
  unfold State.scrubReport; dsimp only; (repeat' split) <;> simp

@[simp] theorem execMemScrub_lasting (t : Nat) (stack : Fin 32) (errs : MemErrs) (s : State) : outLasting (execMemScrub t
    stack errs s) = some s.lasting := by
  unfold execMemScrub; dsimp only
  repeat' first
    | rfl
    | (simp; done)
    | (refine (foldl_lasting _ _ _ (fun _ _ => ?_)).trans ?_)
    | (refine (foldl_lasting_snd _ _ _ (fun _ _ => ?_)).trans ?_)
    | split
    | (simp)

@[simp] theorem execDeckPatrolScrub_lasting (p : Fin 132) (t : Nat) (row : Fin 64) (corrected : List Nat) (uncorrectable :
    List Nat) (s : State) : outLasting (execDeckPatrolScrub p t row corrected uncorrectable s) = some s.lasting := by
  unfold execDeckPatrolScrub; dsimp only; (repeat' split) <;> simp

@[simp] theorem State.setClock_lasting (n : Nat) (s : State) : (State.setClock n s).lasting = s.lasting := by
  unfold State.setClock; simp

@[simp] theorem State.forceStep_lasting (s : State) : (State.forceStep s).lasting = s.lasting := by
  unfold State.forceStep; simp

@[simp] theorem State.evalHard_lasting (s : State) : (State.evalHard s).lasting = s.lasting := by
  unfold State.evalHard; simp

@[simp] theorem execForcedClockStep_lasting (t : Nat) (s : State) : outLasting (execForcedClockStep t s) = some s.lasting := by
  unfold execForcedClockStep; dsimp only; (repeat' split) <;> simp

@[simp] theorem execThrottleSample_lasting (t : Nat) (stack : Fin 32) (temp : Nat) (s : State) : outLasting
    (execThrottleSample t stack temp s) = some s.lasting := by
  unfold execThrottleSample; dsimp only; (repeat' split) <;> simp

@[simp] theorem execBrakeApply_lasting (t : Nat) (s : State) : outLasting (execBrakeApply t s) = some s.lasting := by
  unfold execBrakeApply; dsimp only; (repeat' split) <;> simp

@[simp] theorem execBrakeRelease_lasting (t : Nat) (s : State) : outLasting (execBrakeRelease t s) = some s.lasting := by
  unfold execBrakeRelease; dsimp only; (repeat' split) <;> simp

@[simp] theorem State.lowerRate_lasting (s : State) : (State.lowerRate s).lasting = s.lasting := by
  unfold State.lowerRate; simp

@[simp] theorem execMemRateCapAdjust_lasting (t : Nat) (watts : BitVec 16) (s : State) : outLasting (execMemRateCapAdjust t
    watts s) = some s.lasting := by
  unfold execMemRateCapAdjust; dsimp only; (repeat' split) <;> simp

@[simp] theorem execPowerInputSample_lasting (t : Nat) (mainW : BitVec 16) (mainV : Byte) (stbyW : Byte) (s : State) :
    outLasting (execPowerInputSample t mainW mainV stbyW s) = some s.lasting := by
  unfold execPowerInputSample; simp

@[simp] theorem State.evictEntry_lasting (e : Nat) (s : State) : (State.evictEntry e s).lasting = s.lasting := by
  unfold State.evictEntry; simp

@[simp] theorem State.makeRoom_lasting (x : HotEntry) (a1 : Nat) (a2 : State) : (State.makeRoom x a1 a2).2.lasting =
    a2.lasting := by
  induction a1 generalizing a2 with
  | zero => rfl
  | succ n ih => unfold State.makeRoom; dsimp only; (repeat' split) <;> simp [ih]

@[simp] theorem State.openEntry_lasting (j : Job) (b : Bitstream) (digest : BitVec 384) (vocab : Vocab) (layers : Nat) (s
    : State) : (State.openEntry j b digest vocab layers s).2.lasting = s.lasting := by
  unfold State.openEntry; dsimp only
  (repeat' split) <;> try simp
  all_goals
    rename_i h
    have h2 := congrArg (fun x => x.2.lasting) h
    simpa using h2.symm

@[simp] theorem State.pausePoint_lasting (id : Nat) (outcome : Option Nat) (s : State) : (State.pausePoint id outcome
    s).lasting = s.lasting := by
  unfold State.pausePoint; (repeat' split) <;> simp

@[simp] theorem State.ingestOpen_lasting (id : Nat) (j : Job) (b : Bitstream) (digest : BitVec 384) (vocab : Vocab)
    (layers : Nat) (s : State) : (State.ingestOpen id j b digest vocab layers s).lasting = s.lasting := by
  unfold State.ingestOpen
  split <;> rename_i h <;> have h2 := congrArg (fun x => x.2.lasting) h <;> simpa using h2.symm

@[simp] theorem execIngestPackVerified_lasting (t : Nat) (job : BitVec 16) (pack : Option PackRead) (s : State) : outLasting
    (execIngestPackVerified t job pack s) = some s.lasting := by
  unfold execIngestPackVerified; dsimp only; (repeat' split) <;> simp

@[simp] theorem State.entryWrite_lasting (x : HotEntry) (a : Nat) (bs : List Byte) (s : State) : (State.entryWrite x a bs
    s).lasting = s.lasting := by
  unfold State.entryWrite; simp

@[simp] theorem State.writeRecord_lasting (x : HotEntry) (slot : Nat) (l : Nat) (bs : List Byte) (s : State) :
    (State.writeRecord x slot l bs s).lasting = s.lasting := by
  unfold State.writeRecord; simp

@[simp] theorem State.neutralStore_lasting (x : HotEntry) (s : State) : (State.neutralStore x s).lasting = s.lasting := by
  unfold State.neutralStore; simp

@[simp] theorem State.entryReady_lasting (j : Job) (e : Nat) (s : State) : (State.entryReady j e s).lasting = s.lasting := by
  unfold State.entryReady; simp

@[simp] theorem State.sealExtent_lasting (id : Nat) (j : Job) (b : Bitstream) (e : Nat) (i : Nat) (bs : List Byte) (s : State)
    : (State.sealExtent id j b e i bs s).lasting = s.lasting := by
  unfold State.sealExtent; simp

@[simp] theorem execExtentSealed_lasting (t : Nat) (job : BitVec 16) (source : Option (List Byte)) (s : State) : outLasting
    (execExtentSealed t job source s) = some s.lasting := by
  unfold execExtentSealed; dsimp only; (repeat' split) <;> simp

@[simp] theorem State.hotDone_lasting (e : Nat) (result : Nat) (s : State) : (State.hotDone e result s).lasting = s.lasting :=
    by
  unfold State.hotDone; simp

@[simp] theorem State.hotPin_lasting (entry : Fin 64) (s : State) : (State.hotPin entry s).lasting = s.lasting := by
  unfold State.hotPin; simp

@[simp] theorem execHotPin_lasting (t : Nat) (who : Requester) (entry : Fin 64) (s : State) : outLasting (execHotPin t who
    entry s) = some s.lasting := by
  unfold execHotPin; simp

@[simp] theorem State.unpin_lasting (e : Nat) (s : State) : (State.unpin e s).lasting = s.lasting := by
  unfold State.unpin; simp

@[simp] theorem State.hotUnpin_lasting (entry : Fin 64) (s : State) : (State.hotUnpin entry s).lasting = s.lasting := by
  unfold State.hotUnpin; simp

@[simp] theorem execHotUnpin_lasting (t : Nat) (who : Requester) (entry : Fin 64) (s : State) : outLasting (execHotUnpin t who
    entry s) = some s.lasting := by
  unfold execHotUnpin; simp

@[simp] theorem State.hotRemove_lasting (entry : Fin 64) (s : State) : (State.hotRemove entry s).lasting = s.lasting := by
  unfold State.hotRemove; simp

@[simp] theorem execHotRemove_lasting (t : Nat) (who : Requester) (entry : Fin 64) (s : State) : outLasting (execHotRemove t
    who entry s) = some s.lasting := by
  unfold execHotRemove; simp

@[simp] theorem State.startTraining_lasting (p : Nat) (s : State) : (State.startTraining p s).lasting = s.lasting := by
  unfold State.startTraining; simp

@[simp] theorem State.portDown_lasting (p : Nat) (s : State) : (State.portDown p s).lasting = s.lasting := by
  unfold State.portDown; simp

@[simp] theorem State.sendHello_lasting (p : Nat) (s : State) : (State.sendHello p s).lasting = s.lasting := by
  unfold State.sendHello; simp

@[simp] theorem execLinkTrained_lasting (t : Nat) (port : Fin 8) (lanesOk : BitVec 4) (s : State) : outLasting
    (execLinkTrained t port lanesOk s) = some s.lasting := by
  unfold execLinkTrained; dsimp only; (repeat' split) <;> simp

@[simp] theorem execTrainRetry_lasting (t : Nat) (port : Fin 8) (s : State) : outLasting (execTrainRetry t port s) = some
    s.lasting := by
  unfold execTrainRetry; dsimp only; (repeat' split) <;> simp

@[simp] theorem execLinkDown_lasting (t : Nat) (port : Fin 8) (s : State) : outLasting (execLinkDown t port s) = some
    s.lasting := by
  unfold execLinkDown; simp

@[simp] theorem execTrainingFrame_lasting (t : Nat) (port : Fin 8) (lane : Fin 4) (f : TrainFrame) (s : State) : outLasting
    (execTrainingFrame t port lane f s) = some s.lasting := by
  unfold execTrainingFrame; dsimp only; (repeat' split) <;> simp

@[simp] theorem State.pump_lasting (p : Nat) (s : State) : (State.pump p s).lasting = s.lasting := by
  unfold State.pump; simp

@[simp] theorem State.acked_lasting (p : Nat) (seq : Nat) (s : State) : (State.acked p seq s).lasting = s.lasting := by
  unfold State.acked; simp

@[simp] theorem State.replayFrom_lasting (p : Nat) (seq : Nat) (s : State) : (State.replayFrom p seq s).lasting = s.lasting :=
    by
  unfold State.replayFrom; simp

@[simp] theorem State.cameIn_lasting (i : Nat) (p : Pkt) (s : State) : (State.cameIn i p s).lasting = s.lasting := by
  unfold State.cameIn; simp

@[simp] theorem execLctl_lasting (t : Nat) (p : Pkt) (s : State) : outLasting (execLctl t p s) = some s.lasting := by
  unfold execLctl; dsimp only; (repeat' split) <;> simp

@[simp] theorem State.sendNak_lasting (p : Nat) (s : State) : (State.sendNak p s).lasting = s.lasting := by
  unfold State.sendNak; simp

@[simp] theorem State.received_lasting (t : Nat) (p : Pkt) (act : State → State) (s : State) (hact : ∀  (s : State), (act
    s).lasting = s.lasting) : (State.received t p act s).lasting = s.lasting := by
  unfold State.received; simp [hact]

@[simp] theorem execPacketCrcFail_lasting (t : Nat) (port : Fin 8) (lseq : BitVec 12) (fec : Bool) (s : State) : outLasting
    (execPacketCrcFail t port lseq fec s) = some s.lasting := by
  unfold execPacketCrcFail; dsimp only; (repeat' split) <;> simp

@[simp] theorem execBadPacket_lasting (t : Nat) (type : BitVec 8) (p : Pkt) (s : State) : outLasting (execBadPacket t type p
    s) = some s.lasting := by
  unfold execBadPacket; simp

@[simp] theorem State.dropHosts_lasting (p : Nat) (part : Option Nat) (s : State) : (State.dropHosts p part s).lasting =
    s.lasting := by
  unfold State.dropHosts; simp

@[simp] theorem State.failFetch_lasting (p : Nat) (s : State) : (State.failFetch p s).lasting = s.lasting := by
  unfold State.failFetch; (repeat' split) <;> simp

@[simp] theorem State.portReset_lasting (p : Nat) (flr : Bool) (s : State) : (State.portReset p flr s).lasting = s.lasting := by
  unfold State.portReset; simp

@[simp] theorem execPortReset_lasting (t : Nat) (port : Fin 4) (cause : PortResetCause) (s : State) : outLasting
    (execPortReset t port cause s) = some s.lasting := by
  unfold execPortReset; dsimp only; (repeat' split) <;> simp

@[simp] theorem execPerst_lasting (t : Nat) (port : Fin 4) (low : Bool) (s : State) : outLasting (execPerst t port low s) =
    some s.lasting := by
  unfold execPerst; dsimp only; (repeat' split) <;> simp

@[simp] theorem execVfFlr_lasting (t : Nat) (port : Fin 4) (vf : BitVec 8) (s : State) : outLasting (execVfFlr t port vf s) =
    some s.lasting := by
  unfold execVfFlr; dsimp only; (repeat' split) <;> simp

@[simp] theorem execPcieLinkUp_lasting (t : Nat) (port : Fin 4) (s : State) : outLasting (execPcieLinkUp t port s) = some
    s.lasting := by
  unfold execPcieLinkUp; dsimp only; (repeat' split) <;> simp

@[simp] theorem State.interruptJobs_lasting (s : State) : (State.interruptJobs s).lasting = s.lasting := by
  unfold State.interruptJobs; simp

theorem State.wipe_before (k : ResetKind) (s : State) : s.lasting.before (s.wipe k).lasting := by
  have h : ∀ x : State, x.lasting = s.lasting → s.lasting.before ⟨x.pending, x.fuses, x.flash.unsealCount,
      x.flash.reservedTopA, x.flash.reservedTopB, false⟩ := fun x hx =>
    .eqThen hx.symm ⟨rfl, rfl, Nat.le_refl _, fun _ h => h, rfl, Nat.le_refl _, id, fun h => Bool.noConfusion h⟩
  cases k <;> unfold State.wipe <;> dsimp only <;> rw [State.setReg_lasting, lasting_mk]
  · exact h (s.countStall none).interruptJobs (by simp)
  · exact h (s.countStall none) (by simp)

@[simp] theorem State.powerOn_lasting (k : ResetKind) (code : Nat) (s : State) : (State.powerOn k code s).lasting = s.lasting
    := by
  unfold State.powerOn; simp

@[simp] theorem State.halt_lasting (cause : Nat) (s : State) : (State.halt cause s).lasting = s.lasting := by
  unfold State.halt; simp

theorem State.takeReset_before (k : ResetKind) (s : State) : s.lasting.before (s.takeReset k).lasting := by
  unfold State.takeReset; dsimp only
  rw [State.powerOn_lasting]
  refine Lasting.before.eqThen ?_ (State.wipe_before _ _); simp

theorem State.requestReset_before (k : ResetKind) (s : State) : s.lasting.before (s.requestReset k).lasting := by
  unfold State.requestReset
  (repeat' split) <;> first
    | exact Lasting.before.rfl _
    | exact State.takeReset_before _ _
    | exact .of_eq (by simp)

theorem execWarmResetRequest_before (t : Nat) (who : Requester) (value : Word) (s : State) :
    outBefore s (execWarmResetRequest t who value s) :=
  outBefore_next (State.asMgmt_before _ _ _ _ (State.requestReset_before _))

theorem execColdResetRequest_before (t : Nat) (who : Requester) (value : Word) (s : State) :
    outBefore s (execColdResetRequest t who value s) :=
  outBefore_next (State.asMgmt_before _ _ _ _ (State.requestReset_before _))

theorem execResetTakesEffect_before (t : Nat) (s : State) : outBefore s (execResetTakesEffect t s) := by
  unfold execResetTakesEffect; dsimp only
  split
  · exact outBefore_next (.of_eq (by simp))
  · split
    · exact outBefore_next (.of_eq (by simp))
    · exact outBefore_next (.eqThen (State.at_lasting t s).symm (State.takeReset_before _ _))

theorem State.mainLoss_before (s : State) : s.lasting.before s.mainLoss.lasting := by
  unfold State.mainLoss; dsimp only
  split
  · exact Lasting.before.rfl _
  · exact (State.wipe_before .cold { s with boot := s.boot.out 0 s.time }).thenEq rfl

theorem execMainPowerLoss_before (t : Nat) (s : State) : outBefore s (execMainPowerLoss t s) :=
  outBefore_next (.eqThen (State.at_lasting t s).symm (State.mainLoss_before _))

@[simp] theorem State.coldStart_lasting (s : State) : (State.coldStart s).lasting = s.lasting := by
  unfold State.coldStart; simp

@[simp] theorem execMainPowerGood_lasting (t : Nat) (cool : BitVec 2) (portMode : BitVec 2) (s : State) : outLasting
    (execMainPowerGood t cool portMode s) = some s.lasting := by
  unfold execMainPowerGood; dsimp only; (repeat' split) <;> simp

@[simp] theorem execStandbyUp_lasting (t : Nat) (s : State) : outLasting (execStandbyUp t s) = some s.lasting := by
  unfold execStandbyUp; dsimp only; (repeat' split) <;> simp

theorem execStandbyLoss_before (t : Nat) (s : State) : outBefore s (execStandbyLoss t s) := by
  unfold execStandbyLoss; dsimp only
  split
  · exact outBefore_next (.of_eq (by simp))
  · refine outBefore_next (.eqThen (State.at_lasting t s).symm ?_)
    exact (State.wipe_before .cold { s.at t with boot := (s.at t).boot.out 0 (s.at t).time }).thenEq rfl

theorem execPwrEnChange_before (t : Nat) (high : Bool) (s : State) : outBefore s (execPwrEnChange t high s) := by
  unfold execPwrEnChange; dsimp only
  split
  · refine outBefore_next (.eqThen ?_ (State.mainLoss_before _)); simp
  · exact outBefore_next (.of_eq (by simp))

@[simp] theorem mloadStart_lasting (gs : List Nat) (places : Nat) (dst : Nat) (rlog2 : Nat) (sctr : Nat) (fctr : Option Nat)
    (c : Ctx) (s : State) : (mloadStart gs places dst rlog2 sctr fctr c s).lasting = s.lasting := by
  unfold mloadStart; simp

@[simp] theorem mloadAct_lasting (raw : Bool) (desc : Nat) (off : Nat) (addr : Nat) (len : Nat) (dst : Nat) (rlog2 : Nat)
    (sctr : Nat) (fctr : Option Nat) (c : Ctx) (s : State) : (mloadAct raw desc off addr len dst rlog2 sctr fctr c s).lasting
    = s.lasting := by
  unfold mloadAct; dsimp only; (repeat' split) <;> simp

@[simp] theorem execMload_lasting (i : Issue) (raw : Bool) (desc : BitVec 12) (off : BitVec 20) (addr : Word) (len : BitVec
    20) (dst : BitVec 17) (rlog2 : BitVec 5) (sctr : BitVec 5) (fctr : BitVec 5) (fen : Bool) (s : State) : outLasting
    (execMload i raw desc off addr len dst rlog2 sctr fctr fen s) = some s.lasting := by
  unfold execMload; simp

@[simp] theorem State.storeLocal_lasting (a : Nat) (gs : List (BitVec 256)) (sp : Spill) (s : State) : (State.storeLocal a gs
    sp s).lasting = s.lasting := by
  unfold State.storeLocal; (repeat' split) <;> simp

@[simp] theorem mstoreAct_lasting (addr len src sctr : Nat) (deck : DeckUse) (c : Ctx) (s : State) : (mstoreAct addr len
    src sctr deck c s).lasting = s.lasting := by
  unfold mstoreAct; simp

@[simp] theorem execMstore_lasting (i : Issue) (addr : Word) (len : BitVec 20) (src : BitVec 17) (sctr : BitVec 5) (deck :
    DeckUse) (s : State) : outLasting (execMstore i addr len src sctr deck s) = some s.lasting := by
  unfold execMstore; simp

@[simp] theorem kvrdAct_lasting (lbase nlist dst rlog2 sctr : Nat) (fctr : Option Nat) (deck : DeckUse) (c : Ctx) (s :
    State) : (kvrdAct lbase nlist dst rlog2 sctr fctr deck c s).lasting = s.lasting := by
  unfold kvrdAct; dsimp only; (repeat' split) <;> (try simp) <;> (refine foldl_lasting _ _ _ (fun s a => ?_)) <;> (try dsimp only) <;> (repeat' split) <;> simp

@[simp] theorem execKvrd_lasting (i : Issue) (w : WaitGroup) (lbase : BitVec 17) (nlist : BitVec 13) (dst : BitVec 17)
    (rlog2 sctr fctr : BitVec 5) (fen : Bool) (deck : DeckUse) (s : State) : outLasting (execKvrd i w lbase nlist dst rlog2
    sctr fctr fen deck s) = some s.lasting := by
  unfold execKvrd; simp

@[simp] theorem execFill_lasting (i : Issue) (dst : BitVec 17) (len : BitVec 17) (pattern : Word) (sctr : BitVec 5) (s :
    State) : outLasting (execFill i dst len pattern sctr s) = some s.lasting := by
  unfold execFill; refine State.present_lasting _ _ _ _ _ _ _ (fun c s => ?_); dsimp only; (repeat' split) <;> simp

@[simp] theorem execCopy_lasting (i : Issue) (src : BitVec 17) (dst : BitVec 17) (len : BitVec 17) (sctr : BitVec 5) (s :
    State) : outLasting (execCopy i src dst len sctr s) = some s.lasting := by
  unfold execCopy; refine State.present_lasting _ _ _ _ _ _ _ (fun c s => ?_); dsimp only; (repeat' split) <;> simp

@[simp] theorem gathAct_lasting (sspan : Nat) (src : Nat) (sstride : Nat) (elen : Nat) (dst : Nat) (sctr : Nat) (c : Ctx) (s :
    State) : (gathAct sspan src sstride elen dst sctr c s).lasting = s.lasting := by
  unfold gathAct; dsimp only; (repeat' split) <;> simp

@[simp] theorem execGath_lasting (i : Issue) (w : WaitGroup) (sspan : BitVec 8) (src : BitVec 17) (sstride : BitVec 12) (elen
    : BitVec 10) (dst : BitVec 17) (sctr : BitVec 5) (s : State) : outLasting (execGath i w sspan src sstride elen dst sctr s)
    = some s.lasting := by
  unfold execGath; simp

@[simp] theorem execScat_lasting (i : Issue) (w : WaitGroup) (src : BitVec 17) (ngran : BitVec 13) (rbase : BitVec 17) (s :
    State) : outLasting (execScat i w src ngran rbase s) = some s.lasting := by
  unfold execScat; refine State.present_lasting _ _ _ _ _ _ _ (fun c s => ?_); dsimp only; (repeat' split) <;> simp

@[simp] theorem execSend_lasting (i : Issue) (w : WaitGroup) (src : BitVec 17) (len : BitVec 17) (dspan : BitVec 8) (dst :
    BitVec 17) (rctr : BitVec 5) (sctr : BitVec 5) (s : State) : outLasting (execSend i w src len dspan dst rctr sctr s) =
    some s.lasting := by
  unfold execSend; refine State.present_lasting _ _ _ _ _ _ _ (fun c s => ?_); dsimp only; (repeat' split) <;> simp

@[simp] theorem State.applyEntry_lasting (l p cyc : Nat) (e : ScatEntry) (s : State) : (State.applyEntry l p cyc e
    s).lasting = s.lasting := by
  unfold State.applyEntry; dsimp only; (repeat' split) <;> simp

@[simp] theorem execScatterEntryApply_lasting (l : Fin 128) (cyc : Nat) (bank : Fin 16) (s : State) : outLasting
    (execScatterEntryApply l cyc bank s) = some s.lasting := by
  unfold execScatterEntryApply; dsimp only; (repeat' split) <;> simp

@[simp] theorem State.loadGranule_lasting (v : Stream) (i : Nat) (s : State) : (State.loadGranule v i s).2.lasting =
    s.lasting := by
  unfold State.loadGranule; dsimp only; (repeat' split) <;> simp

@[simp] theorem State.flitError_lasting (r : Option (Fin 132)) (s : State) : (State.flitError r s).lasting = s.lasting := by
  unfold State.flitError; (repeat' split) <;> simp

@[simp] theorem State.moveOut_lasting (l cyc : Nat) (deck : DeckUse) (bad : Option (Fin 132)) (m : Moved) (s : State) :
    (State.moveOut l cyc deck bad m s).lasting = s.lasting := by
  unfold State.moveOut; simp

-- TODO ('State.takeGranule', ['(l p slot i cyc : Nat)', '(v : Stream)', '(s : State)'], [], 'SPECIAL Option (Moved × State)')

@[simp] theorem State.scatSend_lasting (l p slot i cyc : Nat) (v : Stream) (s : State) : (State.scatSend l p slot i cyc v
    s).lasting = s.lasting := by
  unfold State.scatSend; dsimp only; (repeat' split) <;> simp

theorem State.takeGranule_lasting {l p slot i cyc : Nat} {v : Stream} {s : State} {r : Moved × State}
    (h : s.takeGranule l p slot i cyc v = some r) : r.2.lasting = s.lasting := by
  unfold State.takeGranule at h; dsimp only at h
  split at h
  · simp only [Option.map_eq_some_iff] at h
    obtain ⟨_, _, rfl⟩ := h
    simp
  · simp only [Option.map_eq_some_iff] at h
    obtain ⟨_, _, rfl⟩ := h
    simp
  · simp only [Option.map_eq_some_iff] at h
    obtain ⟨_, _, rfl⟩ := h
    simp
  · cases h; simp
  · split at h
    · cases h
    · cases h; rfl
  · split at h
    · cases h
    · cases h; simp
  · cases h
  · cases h

@[simp] theorem State.granuleArrives_lasting (l cyc slot idx : Nat) (deck : DeckUse) (bad : Option (Fin 132)) (s : State)
    : (State.granuleArrives l cyc slot idx deck bad s).lasting = s.lasting := by
  unfold State.granuleArrives; dsimp only
  split
  · rfl
  · split
    · rfl
    · split
      · rfl
      · split
        · split <;> simp
        · split
          · rfl
          · rename_i h
            have hr := State.takeGranule_lasting h
            split <;> simp [hr]

end Sys2Proof.Machine
end

