-- ==== Sys2Proof/Laws/LastingE.lean ====
section
/-! SUPPORT. Each operation and each meaning keeps the lasting parts of the state (the queue, the fuses, the counts in flash), or
changes them as `Lasting.before` allows; part 5 of 6, in the order of the definitions. -/

namespace Sys2Proof.Machine
open Sys2Proof

@[simp] theorem State.ackStream_lasting (cyc l p slot n : Nat) (v : Stream) (s : State) : (State.ackStream cyc l p slot n
    v s).lasting = s.lasting := by
  unfold State.ackStream; simp

@[simp] theorem execStreamAck_lasting (l : Fin 128) (cyc : Nat) (slot : Fin 8) (n : Nat) (s : State) : outLasting
    (execStreamAck l cyc slot n s) = some s.lasting := by
  unfold execStreamAck; dsimp only; (repeat' split) <;> simp

@[simp] theorem State.remoteAck_lasting (lid : Nat) (off : Nat) (s : State) : (State.remoteAck lid off s).lasting = s.lasting
    := by
  unfold State.remoteAck; (repeat' split) <;> simp

@[simp] theorem State.forward_lasting (type : BitVec 8) (p : Pkt) (s : State) : (State.forward type p s).lasting = s.lasting
    := by
  unfold State.forward; (repeat' split) <;> simp

@[simp] theorem State.viaduct_lasting (type : BitVec 8) (p : Pkt) (act : State → State) (s : State) (hact : ∀  (s : State),
    (act s).lasting = s.lasting) : (State.viaduct type p act s).lasting = s.lasting := by
  unfold State.viaduct; simp [hact]

@[simp] theorem State.onPacket_lasting (t : Nat) (type : BitVec 8) (p : Pkt) (act : State → State) (s : State) (hact : ∀  (s :
    State), (act s).lasting = s.lasting) : outLasting (State.onPacket t type p act s) = some s.lasting := by
  unfold State.onPacket; simp [hact]

@[simp] theorem execPacketForward_lasting (t : Nat) (type : BitVec 8) (p : Pkt) (s : State) : outLasting (execPacketForward t
    type p s) = some s.lasting := by
  unfold execPacketForward; simp

@[simp] theorem State.landPages_lasting (lid : Nat) (h : Nat) (off : Nat) (bs : List Byte) (s : State) : (State.landPages lid
    h off bs s).lasting = s.lasting := by
  unfold State.landPages; (repeat' split) <;> simp

@[simp] theorem State.land_lasting (lid : Nat) (off : Nat) (ctr : Nat) (feed : Bool) (ack : Nat × Nat) (gs : List (BitVec 256)) (g : Landing)
    (s : State) : (State.land lid off ctr feed ack gs g s).lasting = s.lasting := by
  unfold State.land; (repeat' split) <;> simp

@[simp] theorem execWrite_lasting (t : Nat) (p : Pkt) (s : State) : outLasting (execWrite t p s) = some s.lasting := by
  unfold execWrite
  refine (State.onPacket_lasting _ _ _ _ _ (fun s => ?_))
  dsimp only
  repeat' first
    | rfl
    | (simp; done)
    | (refine (foldl_lasting _ _ _ (fun _ _ => ?_)).trans ?_)
    | (refine (foldl_lasting_snd _ _ _ (fun _ _ => ?_)).trans ?_)
    | split
    | simp

@[simp] theorem State.extWack_lasting (src : Nat) (lid : Nat) (off : Nat) (s : State) : (State.extWack src lid off s).lasting
    = s.lasting := by
  unfold State.extWack; (repeat' split) <;> simp

@[simp] theorem execWack_lasting (t : Nat) (p : Pkt) (s : State) : outLasting (execWack t p s) = some s.lasting := by
  unfold execWack; simp

@[simp] theorem State.readLanding_lasting (base off n : Nat) (s : State) : (State.readLanding base off n s).2.lasting =
    s.lasting := by
  unfold State.readLanding; dsimp only
  repeat' first
    | rfl
    | (simp; done)
    | (refine (foldl_lasting _ _ _ (fun _ _ => ?_)).trans ?_)
    | (refine (foldl_lasting_snd _ _ _ (fun _ _ => ?_)).trans ?_)
    | split
    | (simp)

@[simp] theorem execRead_lasting (t : Nat) (p : Pkt) (s : State) : outLasting (execRead t p s) = some s.lasting := by
  unfold execRead
  refine (State.onPacket_lasting _ _ _ _ _ (fun s => ?_))
  dsimp only
  repeat' first
    | rfl
    | (simp; done)
    | (refine (foldl_lasting _ _ _ (fun _ _ => ?_)).trans ?_)
    | (refine (foldl_lasting_snd _ _ _ (fun _ _ => ?_)).trans ?_)
    | split
    | simp

@[simp] theorem execPullStart_lasting (t : Nat) (entry : Fin 256) (s : State) : outLasting (execPullStart t entry s) = some
    s.lasting := by
  unfold execPullStart; dsimp only; (repeat' split) <;> simp

@[simp] theorem execRdata_lasting (t : Nat) (p : Pkt) (s : State) : outLasting (execRdata t p s) = some s.lasting := by
  unfold execRdata
  refine (State.onPacket_lasting _ _ _ _ _ (fun s => ?_))
  dsimp only
  repeat' first
    | rfl
    | (simp; done)
    | (refine (foldl_lasting _ _ _ (fun _ _ => ?_)).trans ?_)
    | (refine (foldl_lasting_snd _ _ _ (fun _ _ => ?_)).trans ?_)
    | split
    | simp

@[simp] theorem execOffer_lasting (t : Nat) (p : Pkt) (s : State) : outLasting (execOffer t p s) = some s.lasting := by
  unfold execOffer; simp

@[simp] theorem execOfferAns_lasting (t : Nat) (p : Pkt) (s : State) : outLasting (execOfferAns t p s) = some s.lasting := by
  unfold execOfferAns; simp

@[simp] theorem execHoCommit_lasting (t : Nat) (p : Pkt) (s : State) : outLasting (execHoCommit t p s) = some s.lasting := by
  unfold execHoCommit; simp

@[simp] theorem execHoAck_lasting (t : Nat) (p : Pkt) (s : State) : outLasting (execHoAck t p s) = some s.lasting := by
  unfold execHoAck; simp

@[simp] theorem execDigest_lasting (t : Nat) (p : Pkt) (s : State) : outLasting (execDigest t p s) = some s.lasting := by
  unfold execDigest; simp

@[simp] theorem State.sendExtent_lasting (src lid : Nat) (x : HotEntry) (ext : Nat × Nat) (s : State) : (State.sendExtent
    src lid x ext s).lasting = s.lasting := by
  unfold State.sendExtent; simp

@[simp] theorem State.answerExt_lasting (src : Nat) (id : Nat) (status : Nat) (s : State) : (State.answerExt src id status
    s).lasting = s.lasting := by
  unfold State.answerExt; simp

@[simp] theorem execExtReq_lasting (t : Nat) (p : Pkt) (s : State) : outLasting (execExtReq t p s) = some s.lasting := by
  unfold execExtReq
  refine (State.onPacket_lasting _ _ _ _ _ (fun s => ?_))
  dsimp only
  repeat' first
    | rfl
    | (simp; done)
    | (refine (foldl_lasting _ _ _ (fun _ _ => ?_)).trans ?_)
    | (refine (foldl_lasting_snd _ _ _ (fun _ _ => ?_)).trans ?_)
    | split
    | simp

@[simp] theorem execExtAns_lasting (t : Nat) (p : Pkt) (s : State) : outLasting (execExtAns t p s) = some s.lasting := by
  unfold execExtAns
  refine (State.onPacket_lasting _ _ _ _ _ (fun s => ?_))
  dsimp only
  repeat' first
    | rfl
    | (simp; done)
    | (refine (foldl_lasting _ _ _ (fun _ _ => ?_)).trans ?_)
    | (refine (foldl_lasting_snd _ _ _ (fun _ _ => ?_)).trans ?_)
    | split
    | simp

@[simp] theorem State.sendProbes_lasting (dst : Nat) (n : Nat) (s : State) : (State.sendProbes dst n s).lasting = s.lasting :=
    by
  unfold State.sendProbes; simp

@[simp] theorem State.startCheck_lasting (s : State) : (State.startCheck s).lasting = s.lasting := by
  unfold State.startCheck; simp

@[simp] theorem State.writeChip_lasting (value : Word) (s : State) : (State.writeChip value s).lasting = s.lasting := by
  unfold State.writeChip; simp

@[simp] theorem execChipAssign_lasting (t : Nat) (who : Requester) (value : Word) (s : State) : outLasting (execChipAssign t
    who value s) = some s.lasting := by
  unfold execChipAssign; simp

@[simp] theorem execHello_lasting (t : Nat) (p : Pkt) (s : State) : outLasting (execHello t p s) = some s.lasting := by
  unfold execHello; simp

@[simp] theorem State.flood_lasting (type : BitVec 8) (but : Option Nat) (p : Pkt) (s : State) : (State.flood type but p
    s).lasting = s.lasting := by
  unfold State.flood; simp

@[simp] theorem State.noteClaim_lasting (c : Nat) (h : Nat) (epoch : Nat) (release : Bool) (s : State) : (State.noteClaim c h
    epoch release s).lasting = s.lasting := by
  unfold State.noteClaim; simp

@[simp] theorem State.sendClaim_lasting (c : Nat) (epoch : Nat) (release : Bool) (s : State) : (State.sendClaim c epoch
    release s).lasting = s.lasting := by
  unfold State.sendClaim; simp

@[simp] theorem State.nextEpoch_lasting (s : State) : (State.nextEpoch s).lasting = s.lasting := by
  unfold State.nextEpoch; simp

@[simp] theorem State.dropReloc_lasting (c : Nat) (s : State) : (State.dropReloc c s).lasting = s.lasting := by
  unfold State.dropReloc; simp

@[simp] theorem State.addReloc_lasting (c : Nat) (h : Nat) (epoch : Nat) (s : State) : (State.addReloc c h epoch s).2.lasting
    = s.lasting := by
  unfold State.addReloc; (repeat' split) <;> simp

@[simp] theorem State.releaseClaim_lasting (c : Nat) (s : State) : (State.releaseClaim c s).lasting = s.lasting := by
  unfold State.releaseClaim; simp

@[simp] theorem execProbeCheckDone_lasting (t : Nat) (s : State) : outLasting (execProbeCheckDone t s) = some s.lasting := by
  unfold execProbeCheckDone; dsimp only; (repeat' split) <;> simp

@[simp] theorem execProbe_lasting (t : Nat) (p : Pkt) (s : State) : outLasting (execProbe t p s) = some s.lasting := by
  unfold execProbe; simp

@[simp] theorem execProbeAns_lasting (t : Nat) (p : Pkt) (s : State) : outLasting (execProbeAns t p s) = some s.lasting := by
  unfold execProbeAns; simp

@[simp] theorem State.takeClaim_lasting (p : Pkt) (s : State) : (State.takeClaim p s).lasting = s.lasting := by
  unfold State.takeClaim; simp

@[simp] theorem execClaim_lasting (t : Nat) (p : Pkt) (s : State) : outLasting (execClaim t p s) = some s.lasting := by
  unfold execClaim; simp

@[simp] theorem State.writeSpare_lasting (value : Word) (s : State) : (State.writeSpare value s).lasting = s.lasting := by
  unfold State.writeSpare; simp

@[simp] theorem State.startTake_lasting (c : Nat) (s : State) : (State.startTake c s).lasting = s.lasting := by
  unfold State.startTake; simp

@[simp] theorem State.spareTake_lasting (value : Word) (s : State) : (State.spareTake value s).lasting = s.lasting := by
  unfold State.spareTake; simp

@[simp] theorem execSpareTake_lasting (t : Nat) (who : Requester) (value : Word) (s : State) : outLasting (execSpareTake t who
    value s) = some s.lasting := by
  unfold execSpareTake; simp

@[simp] theorem State.spareRelease_lasting (value : Word) (s : State) : (State.spareRelease value s).lasting = s.lasting := by
  unfold State.spareRelease; simp

@[simp] theorem execSpareRelease_lasting (t : Nat) (who : Requester) (value : Word) (s : State) : outLasting (execSpareRelease
    t who value s) = some s.lasting := by
  unfold execSpareRelease; simp

@[simp] theorem execTakeoverWatch_lasting (t : Nat) (s : State) : outLasting (execTakeoverWatch t s) = some s.lasting := by
  unfold execTakeoverWatch; dsimp only; (repeat' split) <;> simp

@[simp] theorem State.claimTarget_lasting (s : State) : (State.claimTarget s).lasting = s.lasting := by
  unfold State.claimTarget; dsimp only
  split <;> rename_i h <;> have h2 := congrArg (fun x => x.2.lasting) h <;> simpa using h2.symm

@[simp] theorem execTakeoverDone_lasting (t : Nat) (s : State) : outLasting (execTakeoverDone t s) = some s.lasting := by
  unfold execTakeoverDone; dsimp only; (repeat' split) <;> simp

@[simp] theorem State.closeSwing_lasting (s : State) : (State.closeSwing s).lasting = s.lasting := by
  unfold State.closeSwing; simp

@[simp] theorem execSwingClose_lasting (t : Nat) (s : State) : outLasting (execSwingClose t s) = some s.lasting := by
  unfold execSwingClose; dsimp only; (repeat' split) <;> simp

@[simp] theorem execSwingOpen_lasting (t : Nat) (s : State) : outLasting (execSwingOpen t s) = some s.lasting := by
  unfold execSwingOpen; dsimp only; (repeat' split) <;> simp

@[simp] theorem State.loadTime_lasting (s : State) : (State.loadTime s).lasting = s.lasting := by
  unfold State.loadTime; simp

@[simp] theorem execTickSyncPulse_lasting (t : Nat) (s : State) : outLasting (execTickSyncPulse t s) = some s.lasting := by
  unfold execTickSyncPulse; simp

@[simp] theorem execTickSyncMiss_lasting (t : Nat) (s : State) : outLasting (execTickSyncMiss t s) = some s.lasting := by
  unfold execTickSyncMiss; dsimp only; (repeat' split) <;> simp

@[simp] theorem execRefLost_lasting (t : Nat) (s : State) : outLasting (execRefLost t s) = some s.lasting := by
  unfold execRefLost; simp

@[simp] theorem execRefReturn_lasting (t : Nat) (s : State) : outLasting (execRefReturn t s) = some s.lasting := by
  unfold execRefReturn; simp

@[simp] theorem State.writeLock_lasting (value : Word) (s : State) : (State.writeLock value s).lasting = s.lasting := by
  unfold State.writeLock; simp

@[simp] theorem execLockEnable_lasting (t : Nat) (who : Requester) (value : Word) (s : State) : outLasting (execLockEnable t
    who value s) = some s.lasting := by
  unfold execLockEnable; simp

@[simp] theorem State.trestleFault_lasting (cause : Nat) (s : State) : (State.trestleFault cause s).lasting = s.lasting := by
  unfold State.trestleFault; simp

@[simp] theorem State.startRetest_lasting (s : State) : (State.startRetest s).lasting = s.lasting := by
  unfold State.startRetest; simp

@[simp] theorem execRetest_lasting (t : Nat) (who : Requester) (s : State) : outLasting (execRetest t who s) = some s.lasting
    := by
  unfold execRetest; simp

@[simp] theorem execTrestleRetestDone_lasting (t : Nat) (pass : Bool) (s : State) : outLasting (execTrestleRetestDone t pass
    s) = some s.lasting := by
  unfold execTrestleRetestDone; dsimp only; (repeat' split) <;> simp

@[simp] theorem State.trsWeights_lasting (d : Desc) (n : Nat) (r : Nat) (s : State) : (State.trsWeights d n r s).2.lasting =
    s.lasting := by
  unfold State.trsWeights; (repeat' split) <;> simp

@[simp] theorem State.trsLayer_lasting (d : Desc) (router : Bool) (from_ : Nat) (s : State) : (State.trsLayer d router from_
    s).2.lasting = s.lasting := by
  unfold State.trsLayer; simp

@[simp] theorem State.foldTrs_lasting (desc : Nat) (slot : Nat) (items : List (List Byte)) (s : State) : (State.foldTrs desc
    slot items s).lasting = s.lasting := by
  unfold State.foldTrs; simp

@[simp] theorem State.runLayerRec_lasting (r : TrsRec) (d : Desc) (s : State) : (State.runLayerRec r d s).2.lasting =
    s.lasting := by
  unfold State.runLayerRec; simp

@[simp] theorem State.runRouterRec_lasting (r : TrsRec) (d : Desc) (s : State) : (State.runRouterRec r d s).2.lasting =
    s.lasting := by
  unfold State.runRouterRec; simp

@[simp] theorem State.runNormRec_lasting (r : TrsRec) (d : Desc) (s : State) : (State.runNormRec r d s).2.lasting =
    s.lasting := by
  unfold State.runNormRec; dsimp only
  refine foldl_lasting _ _ _ (fun s t => ?_)
  refine (foldl_lasting _ _ _ (fun _ _ => ?_)).trans ?_
  · simp
  rw [State.foldTrs_lasting, State.inc_lasting]
  split
  · rfl
  · exact foldl_lasting_snd _ _ _ (fun _ _ => State.draw_lasting ..)

@[simp] theorem State.runSampleRec_lasting (r : TrsRec) (s : State) : (State.runSampleRec r s).2.lasting = s.lasting := by
  unfold State.runSampleRec; dsimp only
  repeat' first
    | rfl
    | (simp; done)
    | (refine (foldl_lasting _ _ _ (fun _ _ => ?_)).trans ?_)
    | (refine (foldl_lasting_snd _ _ _ (fun _ _ => ?_)).trans ?_)
    | split
    | (simp)

@[simp] theorem State.runRecord_lasting (r : TrsRec) (s : State) : (State.runRecord r s).2.lasting = s.lasting := by
  unfold State.runRecord; (repeat' split) <;> simp

@[simp] theorem execTrestleRecord_lasting (t : Nat) (check : TrsCheck) (s : State) : outLasting (execTrestleRecord t check s)
    = some s.lasting := by
  unfold execTrestleRecord; dsimp only; (repeat' split) <;> simp

theorem State.thermalTrip_before (s : State) : s.lasting.before s.thermalTrip.lasting := by
  unfold State.thermalTrip
  refine Lasting.before.eqThen ?_ (State.mainLoss_before _); simp

theorem execDieTempSample_before (t : Nat) (temps : List Byte) (s : State) : outBefore s (execDieTempSample t temps s) := by
  unfold execDieTempSample; dsimp only
  split
  · exact outBefore_next (.of_eq (by simp))
  · split
    · refine outBefore_next (.eqThen ?_ (State.thermalTrip_before _)); simp
    · exact outBefore_next (.of_eq (by simp))

@[simp] theorem execPierBoot_lasting (t : Nat) (s : State) : outLasting (execPierBoot t s) = some s.lasting := by
  unfold execPierBoot; dsimp only; (repeat' split) <;> simp

@[simp] theorem State.trainStack_lasting (i : Nat) (failed : Bool) (temp : Nat) (s : State) : (State.trainStack i failed temp
    s).lasting = s.lasting := by
  unfold State.trainStack; simp

@[simp] theorem execMemTrainDone_lasting (t : Nat) (failed : BitVec 32) (temps : List Byte) (s : State) : outLasting
    (execMemTrainDone t failed temps s) = some s.lasting := by
  unfold execMemTrainDone; dsimp only; (repeat' split) <;> simp

@[simp] theorem State.endSelftestJob_lasting (ok : Bool) (s : State) : (State.endSelftestJob ok s).lasting = s.lasting := by
  unfold State.endSelftestJob; (repeat' split) <;> simp

@[simp] theorem execSelftestDone_lasting (t : Nat) (routersOk : Bool) (spansFailed : BitVec 132) (trestlePass : Bool) (s :
    State) : outLasting (execSelftestDone t routersOk spansFailed trestlePass s) = some s.lasting := by
  unfold execSelftestDone; dsimp only; (repeat' split) <;> simp

@[simp] theorem State.reserveEntry_lasting (p : Nat × BitVec 384 × Nat × Bool) (s : State) : (State.reserveEntry p s).lasting
    = s.lasting := by
  unfold State.reserveEntry; dsimp only; (repeat' split) <;> simp

@[simp] theorem State.measureKeys_lasting (s : State) : (State.measureKeys s).lasting = s.lasting := by
  unfold State.measureKeys; simp

@[simp] theorem State.measureEntries_lasting (s : State) : (State.measureEntries s).lasting = s.lasting := by
  unfold State.measureEntries; simp

@[simp] theorem State.writeVia_lasting (m : List (Nat × BitVec 32)) (s : State) : (State.writeVia m s).lasting = s.lasting := by
  unfold State.writeVia; (repeat' split) <;> simp

@[simp] theorem State.lostAtStart_lasting (s : State) : (State.lostAtStart s).lasting = s.lasting := by
  unfold State.lostAtStart; simp

@[simp] theorem State.endOutage_lasting (s : State) : (State.endOutage s).lasting = s.lasting := by
  unfold State.endOutage; (repeat' split) <;> simp

@[simp] theorem State.becomeReady_lasting (s : State) : (State.becomeReady s).lasting = s.lasting := by
  unfold State.becomeReady; simp

@[simp] theorem execHostEnable_lasting (t : Nat) (s : State) : outLasting (execHostEnable t s) = some s.lasting := by
  unfold execHostEnable; dsimp only; (repeat' split) <;> simp

@[simp] theorem State.closeWhere_lasting (f : Nat → Bool) (n : Nat → Nat) (s : State) : (State.closeWhere f n s).lasting =
    s.lasting := by
  unfold State.closeWhere; simp

@[simp] theorem State.closePart_lasting (p : Nat) (s : State) : (State.closePart p s).lasting = s.lasting := by
  unfold State.closePart; simp

@[simp] theorem State.closeScope_lasting (z : State) (scope block l : Nat) (s : State) : (State.closeScope z scope block l
    s).lasting = s.lasting := by
  unfold State.closeScope; (repeat' split) <;> simp

@[simp] theorem State.resample_lasting (s : State) : (State.resample s).lasting = s.lasting := by
  unfold State.resample; simp

@[simp] theorem State.writeClose_lasting (value : Word) (s : State) : (State.writeClose value s).lasting = s.lasting := by
  unfold State.writeClose; simp

@[simp] theorem execObsClose_lasting (t : Nat) (who : Requester) (value : Word) (s : State) : outLasting (execObsClose t who
    value s) = some s.lasting := by
  unfold execObsClose; simp

@[simp] theorem State.writeSample_lasting (who : Requester) (value : Word) (s : State) : (State.writeSample who value
    s).lasting = s.lasting := by
  unfold State.writeSample; simp

@[simp] theorem execObsSample_lasting (t : Nat) (who : Requester) (value : Word) (s : State) : outLasting (execObsSample t who
    value s) = some s.lasting := by
  unfold execObsSample; simp

@[simp] theorem State.vfWrite_lasting (t : Nat) (port : Nat) (vf : Nat) (act : Nat → State → State) (s : State) (hact : ∀ (b0
    : Nat) (s : State), (act b0 s).lasting = s.lasting) : (State.vfWrite t port vf act s).lasting = s.lasting := by
  unfold State.vfWrite; dsimp only; (repeat' split) <;> simp [hact]

@[simp] theorem State.writePartClose_lasting (value : Word) (p : Nat) (s : State) : (State.writePartClose value p
    s).lasting = s.lasting := by
  unfold State.writePartClose; simp

@[simp] theorem State.writePartSample_lasting (port vf : Nat) (value : Word) (p : Nat) (s : State) :
    (State.writePartSample port vf value p s).lasting = s.lasting := by
  unfold State.writePartSample; simp

@[simp] theorem execPctrClose_lasting (t : Nat) (port : Fin 4) (vf : BitVec 8) (value : Word) (s : State) : outLasting
    (execPctrClose t port vf value s) = some s.lasting := by
  unfold execPctrClose; simp

@[simp] theorem execPctrSample_lasting (t : Nat) (port : Fin 4) (vf : BitVec 8) (value : Word) (s : State) : outLasting
    (execPctrSample t port vf value s) = some s.lasting := by
  unfold execPctrSample
  exact congrArg some (State.vfWrite_lasting _ _ _ _ _ (fun _ _ => rfl))

@[simp] theorem execJobStart_lasting (t : Nat) (r : CmdRec) (digest : BitVec 384) (params : BitVec 2048) (s : State) :
    outLasting (execJobStart t r digest params s) = some s.lasting := by
  unfold execJobStart; dsimp only
  split
  · rename_i h; simpa using gate_out h
  · rename_i h; have hs := gate_ok h; (repeat' split) <;> simp_all

@[simp] theorem State.cacheBits_lasting (b : Bitstream) (bytes : List Byte) (s : State) : (State.cacheBits b bytes
    s).lasting = s.lasting := by
  unfold State.cacheBits; simp

@[simp] theorem State.holdBits_lasting (id : Nat) (j : Job) (b : Bitstream) (bytes : List Byte) (s : State) :
    (State.holdBits id j b bytes s).lasting = s.lasting := by
  unfold State.holdBits; dsimp only; (repeat' split) <;> simp

@[simp] theorem execBitstreamCopied_lasting (t : Nat) (job : BitVec 16) (bytes : Option (List Byte)) (s : State) : outLasting
    (execBitstreamCopied t job bytes s) = some s.lasting := by
  unfold execBitstreamCopied; dsimp only; (repeat' split) <;> simp

@[simp] theorem State.askExtents_lasting (id : Nat) (j : Job) (b : Bitstream) (e : Nat) (s : State) : (State.askExtents id j b
    e s).lasting = s.lasting := by
  unfold State.askExtents; simp

@[simp] theorem State.beginWork_lasting (id : Nat) (s : State) : (State.beginWork id s).lasting = s.lasting := by
  unfold State.beginWork
  split
  · split
    · split <;> simp
    · split
      · rfl
      · split
        · dsimp only; split <;> simp
        · dsimp only
          split
          · rename_i h
            have h2 := congrArg (fun x => x.2.lasting) h
            simpa using h2.symm
          · rename_i h
            have h2 := congrArg (fun x => x.2.lasting) h
            split <;> simpa using h2.symm
    · rfl
  · rfl

@[simp] theorem State.goRunning_lasting (id : Nat) (j : Job) (b : Bitstream) (l : Load) (s : State) : (State.goRunning id j b
    l s).lasting = s.lasting := by
  unfold State.goRunning; simp

@[simp] theorem execLoadWrite_lasting (t : Nat) (s : State) : outLasting (execLoadWrite t s) = some s.lasting := by
  unfold execLoadWrite; dsimp only; (repeat' split) <;> simp

@[simp] theorem State.finishEnded_lasting (s : State) : (State.finishEnded s).lasting = s.lasting := by
  unfold State.finishEnded
  repeat' first
    | (refine (foldl_lasting _ _ _ (fun _ _ => ?_)).trans ?_)
    | (refine (foldl_lasting_snd _ _ _ (fun _ _ => ?_)).trans ?_)
    | (refine (foldl_lasting_fst _ _ _ (fun _ _ => ?_)).trans ?_)
    | (refine (foldl_lasting_trd _ _ _ (fun _ _ => ?_)).trans ?_)
    | (refine (foldl_lasting_fth _ _ _ (fun _ _ => ?_)).trans ?_)
    | split
    | simp

@[simp] theorem State.startTest_lasting (s : State) : (State.startTest s).lasting = s.lasting := by
  unfold State.startTest; (repeat' split) <;> simp

@[simp] theorem execScrubDone_lasting (t : Nat) (s : State) : outLasting (execScrubDone t s) = some s.lasting := by
  unfold execScrubDone; dsimp only; (repeat' split) <;> simp

@[simp] theorem execIdleEnd_lasting (t : Nat) (job : BitVec 16) (s : State) : outLasting (execIdleEnd t job s) = some
    s.lasting := by
  unfold execIdleEnd; dsimp only; (repeat' split) <;> simp

@[simp] theorem execFetchDone_lasting (t : Nat) (handle : BitVec 32) (prompt : Option (List Word)) (ext : Option (List Byte))
    (s : State) : outLasting (execFetchDone t handle prompt ext s) = some s.lasting := by
  unfold execFetchDone; simp

@[simp] theorem State.jobCtrl_lasting (t : Nat) (r : CmdRec) (a : Nat) (act : Nat → Nat → State → State) (s : State) (hact : ∀
    (b0 : Nat) (b1 : Nat) (s : State), (act b0 b1 s).lasting = s.lasting) : outLasting (State.jobCtrl t r a act s) = some
    s.lasting := by
  unfold State.jobCtrl; dsimp only
  split
  · rename_i h; simpa using gate_out h
  · rename_i h; have hs := gate_ok h; (repeat' split) <;> simp_all

@[simp] theorem execJobCtrlEnd_lasting (t : Nat) (r : CmdRec) (s : State) : outLasting (execJobCtrlEnd t r s) = some s.lasting
    := by
  unfold execJobCtrlEnd; simp

@[simp] theorem execJobCtrlPreempt_lasting (t : Nat) (r : CmdRec) (s : State) : outLasting (execJobCtrlPreempt t r s) = some
    s.lasting := by
  unfold execJobCtrlPreempt
  refine State.jobCtrl_lasting _ _ _ _ _ (fun id h s => ?_)
  dsimp only; (repeat' split) <;> simp

@[simp] theorem execJobCtrlResume_lasting (t : Nat) (r : CmdRec) (s : State) : outLasting (execJobCtrlResume t r s) = some
    s.lasting := by
  unfold execJobCtrlResume; simp

@[simp] theorem execStrikeLapse_lasting (t : Nat) (p : Fin 132) (s : State) : outLasting (execStrikeLapse t p s) = some
    s.lasting := by
  unfold execStrikeLapse; simp

@[simp] theorem State.spanAction_lasting (p : Nat) (may : Bool) (act : State → State) (s : State) (hact : ∀  (s : State), (act
    s).lasting = s.lasting) : (State.spanAction p may act s).lasting = s.lasting := by
  unfold State.spanAction; simp [hact]

@[simp] theorem State.spanRetest_lasting (p : Fin 132) (s : State) : (State.spanRetest p s).lasting = s.lasting := by
  unfold State.spanRetest; simp

@[simp] theorem execSpanRetest_lasting (t : Nat) (who : Requester) (p : Fin 132) (s : State) : outLasting (execSpanRetest t
    who p s) = some s.lasting := by
  unfold execSpanRetest; simp

end Sys2Proof.Machine
end

