-- ==== Sys2Proof/Laws/LastingF.lean ====
section
/-! SUPPORT. Each operation and each meaning keeps the lasting parts of the state (the queue, the fuses, the counts in flash), or
changes them as `Lasting.before` allows; part 6 of 6, in the order of the definitions. -/

namespace Sys2Proof.Machine
open Sys2Proof

@[simp] theorem State.spanFence_lasting (p : Fin 132) (s : State) : (State.spanFence p s).lasting = s.lasting := by
  unfold State.spanFence; simp

@[simp] theorem execSpanFence_lasting (t : Nat) (who : Requester) (p : Fin 132) (s : State) : outLasting (execSpanFence t who
    p s) = some s.lasting := by
  unfold execSpanFence; simp

@[simp] theorem State.unfence_lasting (p : Nat) (s : State) : (State.unfence p s).lasting = s.lasting := by
  unfold State.unfence; simp

@[simp] theorem execSpanTestDone_lasting (t : Nat) (p : Fin 132) (pass : Bool) (s : State) : outLasting (execSpanTestDone t p
    pass s) = some s.lasting := by
  unfold execSpanTestDone; dsimp only; (repeat' split) <;> simp

@[simp] theorem State.candidate_lasting (r : Repair) (c : RefetchSource) (bytes : List Byte) (s : State) :
    (State.candidate r c bytes s).2.lasting = s.lasting := by
  unfold State.candidate; dsimp only; (repeat' split) <;> simp

@[simp] theorem State.endPeer_lasting (r : Repair) (s : State) : (State.endPeer r s).lasting = s.lasting := by
  unfold State.endPeer; simp

@[simp] theorem State.swapRepair_lasting (r : Repair) (q : Option Repair) (s : State) : (State.swapRepair r q s).lasting =
    s.lasting := by
  unfold State.swapRepair; simp

@[simp] theorem State.giveUp_lasting (r : Repair) (s : State) : (State.giveUp r s).lasting = s.lasting := by
  unfold State.giveUp; dsimp only; (repeat' split) <;> simp

@[simp] theorem execRefetchDone_lasting (t : Nat) (granule : Nat) (source : RefetchSource) (bytes : List Byte) (errs :
    MemErrs) (s : State) : outLasting (execRefetchDone t granule source bytes errs s) = some s.lasting := by
  unfold execRefetchDone; dsimp only
  repeat' first
    | rfl
    | (simp; done)
    | (refine (foldl_lasting _ _ _ (fun _ _ => ?_)).trans ?_)
    | (refine (foldl_lasting_snd _ _ _ (fun _ _ => ?_)).trans ?_)
    | split
    | (simp)

@[simp] theorem State.afterChipFault_lasting (auto_ : Bool) (third : Bool) (s : State) : (State.afterChipFault auto_ third
    s).lasting = s.lasting := by
  unfold State.afterChipFault; simp

theorem State.chipFault_before (cause : Nat) (s : State) : s.lasting.before (s.chipFault cause).lasting := by
  unfold State.chipFault; dsimp only
  split
  · exact .rfl _
  · rw [State.afterChipFault_lasting, lasting_mk, lasting_eta]
    refine Lasting.before.eqThen ?_ (State.wipe_before _ _); simp

theorem execChipFault_before (t : Nat) (cause : BitVec 8) (s : State) : outBefore s (execChipFault t cause s) :=
  outBefore_next (.eqThen (State.at_lasting t s).symm (State.chipFault_before _ _))

theorem State.routerCheck_before (s : State) : s.lasting.before s.routerCheck.lasting := by
  unfold State.routerCheck
  split
  · exact .rfl _
  · refine .eqThen (Eq.symm ?_) (State.chipFault_before _ _)
    rw [lasting_mk, lasting_eta]

theorem execStreamGranuleLanded_before (l : Fin 128) (cyc : Nat) (slot : Fin 8) (idx : Nat) (errs : MemErrs)
    (deck : DeckUse) (badRouter : Option (Fin 132)) (s : State) :
    outBefore s (execStreamGranuleLanded l cyc slot idx errs deck badRouter s) :=
  outBefore_next (.eqThen (by simp) (State.routerCheck_before _))

@[simp] theorem State.commitSlot_lasting (x : Slot) (s : State) : (State.commitSlot x s).1.lasting = s.lasting := by
  unfold State.commitSlot; dsimp only; (repeat' split) <;> simp

@[simp] theorem State.insertDue_lasting (s : State) : (State.insertDue s).lasting = s.lasting := by
  unfold State.insertDue; simp

@[simp] theorem State.keyEvent_lasting (r : KeyRec) (s : State) : (State.keyEvent r s).lasting = s.lasting := by
  unfold State.keyEvent; simp

@[simp] theorem State.writeRecords_lasting (outs : List TokenOut) (accepted : List KeyRec) (s : State) :
    (State.writeRecords outs accepted s).1.lasting = s.lasting := by
  unfold State.writeRecords; dsimp only
  rw [lasting_mk, lasting_eta, State.goneHandles_lasting]
  refine (foldl_lasting _ _ _ (fun s a => ?_)).trans ?_
  · split <;> simp
  refine (foldl_lasting _ _ _ (fun s a => ?_)).trans ?_
  · simp
  refine foldl_lasting _ _ _ (fun s a => ?_)
  refine (foldl_lasting _ _ _ (fun s a => ?_)).trans ?_
  · exact State.defer_lasting _ _ _ (fun s => by simp)
  refine foldl_lasting _ _ _ (fun s a => ?_)
  exact State.defer_lasting _ _ _ (fun s => by simp)

@[simp] theorem State.switchAll_lasting (s : State) : (State.switchAll s).lasting = s.lasting := by
  unfold State.switchAll; simp

@[simp] theorem State.publishPort_lasting (p tick : Nat) (events : List KeyRec) (s : State) : (State.publishPort p tick
    events s).lasting = s.lasting := by
  unfold State.publishPort; dsimp only
  repeat' first
    | rfl
    | (simp; done)
    | (refine (foldl_lasting _ _ _ (fun _ _ => ?_)).trans ?_)
    | (refine (foldl_lasting_snd _ _ _ (fun _ _ => ?_)).trans ?_)
    | split
    | (simp)

@[simp] theorem State.govern_lasting (k : Nat) (overran : Bool) (s : State) : (State.govern k overran s).lasting = s.lasting
    := by
  unfold State.govern; simp

@[simp] theorem State.countShort_lasting (short : Bool) (s : State) : (State.countShort short s).lasting = s.lasting := by
  unfold State.countShort; simp

@[simp] theorem State.afterPublish_lasting (e : Nat) (s : State) : (State.afterPublish e s).lasting = s.lasting := by
  unfold State.afterPublish; simp

@[simp] theorem State.keySteps_lasting (s : State) : (State.keySteps s).1.lasting = s.lasting := by
  unfold State.keySteps; dsimp only
  simp only [State.releaseOrphans_lasting, State.writeRecords_lasting, State.enterAllHo_lasting, State.insertDue_lasting]
  exact foldl_lasting_fst _ _ _ (fun b x => State.commitSlot_lasting x b.1)

@[simp] theorem State.keySwitch_lasting (e : Nat) (s : State) : (State.keySwitch e s).lasting = s.lasting := by
  unfold State.keySwitch; simp

@[simp] theorem State.sealTick_lasting (e : Nat) (s : State) : (State.sealTick e s).lasting = s.lasting := by
  unfold State.sealTick; simp

theorem markAll_lasting (l : List Nat) (s : State) :
    (l.foldl (fun (s : State) (p : Nat) =>
      if s.portOpen p then s.modPort p (fun x => { x with mark := x.mark + 1 }) else s) s).lasting = s.lasting :=
  foldl_lasting _ _ _ (fun s p => by split <;> simp)

@[simp] theorem execKeystoneSeal_lasting (t publishEnd : Nat) (s : State) : outLasting (execKeystoneSeal t publishEnd s) =
    some s.lasting := by
  unfold execKeystoneSeal; dsimp only; (repeat' split) <;> simp

@[simp] theorem State.writeTraceCtrl_lasting (l : Nat) (value : Word) (s : State) : (State.writeTraceCtrl l value s).lasting =
    s.lasting := by
  unfold State.writeTraceCtrl; (repeat' split) <;> simp

@[simp] theorem execTraceArm_lasting (t : Nat) (who : Requester) (l : Fin 128) (value : Word) (s : State) : outLasting
    (execTraceArm t who l value s) = some s.lasting := by
  unfold execTraceArm; simp

@[simp] theorem State.writeTrig_lasting (value : Word) (s : State) : (State.writeTrig value s).lasting = s.lasting := by
  unfold State.writeTrig; simp

@[simp] theorem execTriggerFire_lasting (t : Nat) (who : Requester) (value : Word) (s : State) : outLasting (execTriggerFire t
    who value s) = some s.lasting := by
  unfold execTriggerFire; simp

@[simp] theorem execTriggerPoint_lasting (t : Nat) (s : State) : outLasting (execTriggerPoint t s) = some s.lasting := by
  unfold execTriggerPoint; dsimp only; (repeat' split) <;> simp

@[simp] theorem State.drainOne_lasting (s : State) : (State.drainOne s).lasting = s.lasting := by
  unfold State.drainOne; (repeat' split) <;> simp

@[simp] theorem State.drainTrace_lasting (a0 : Nat) (a1 : State) : (State.drainTrace a0 a1).lasting = a1.lasting := by
  induction a0 generalizing a1 with
  | zero => rfl
  | succ n ih => unfold State.drainTrace; simp [ih]

@[simp] theorem execTraceDrain_lasting (t : Nat) (n : Nat) (s : State) : outLasting (execTraceDrain t n s) = some s.lasting :=
    by
  unfold execTraceDrain; simp

@[simp] theorem State.writeSnapCtrl_lasting (value : Word) (s : State) : (State.writeSnapCtrl value s).lasting = s.lasting := by
  unfold State.writeSnapCtrl; simp

@[simp] theorem execSnapshotTake_lasting (t : Nat) (who : Requester) (value : Word) (s : State) : outLasting (execSnapshotTake
    t who value s) = some s.lasting := by
  unfold execSnapshotTake; simp

@[simp] theorem execSnapshotWritten_lasting (t : Nat) (s : State) : outLasting (execSnapshotWritten t s) = some s.lasting := by
  unfold execSnapshotWritten; dsimp only; (repeat' split) <;> simp

@[simp] theorem State.secDone_lasting (result : Nat) (s : State) : (State.secDone result s).lasting = s.lasting := by
  unfold State.secDone; simp

@[simp] theorem State.secFields_lasting (value : Word) (s : State) : (State.secFields value s).lasting = s.lasting := by
  unfold State.secFields; simp

@[simp] theorem State.secAction_lasting (t : Nat) (who : Requester) (value : Word) (act : State → State) (s : State) (hact : ∀
    (s : State), (act s).lasting = s.lasting) : (State.secAction t who value act s).lasting = s.lasting := by
  unfold State.secAction; simp [hact]

theorem State.secAction_before (t : Nat) (who : Requester) (value : Word) (act : State → State) (s : State)
    (h : ∀ s : State, s.lasting.before (act s).lasting) : s.lasting.before (s.secAction t who value act).lasting :=
  State.asMgmt_before _ _ _ _ (fun s => Lasting.before.eqThen (State.secFields_lasting value s).symm (h _))

@[simp] theorem State.secDma_lasting (who : Requester) (bytes : List Byte) (s : State) : (State.secDma who bytes s).lasting =
    s.lasting := by
  unfold State.secDma
  split
  · exact State.dma_lasting ..
  · rfl

theorem State.takeIndex_before {s s' : State} {i : Nat} (h : s.takeIndex = some (i, s')) : s.lasting.before s'.lasting := by
  unfold State.takeIndex at h
  generalize (2 : Nat) ^ 40 = N at h
  dsimp only at h
  (repeat' split at h) <;> first
    | (exfalso; cases h; done)
    | skip
  all_goals
    simp only [Option.some.injEq, Prod.mk.injEq] at h
    rw [← h.2, lasting_mk]
  all_goals first
    | exact Lasting.before.rfl _
    | exact ⟨rfl, rfl, Nat.le_refl _, fun _ h => h, rfl, Nat.le_trans (Nat.le_add_right _ _) (Nat.le_max_left _ _), id, id⟩

theorem State.makeQuote_before {nonce bs : List Byte} {s s' : State} (h : s.makeQuote nonce = some (bs, s')) :
    s.lasting.before s'.lasting := by
  unfold State.makeQuote at h
  split at h
  · cases h
  · rename_i hi; cases h; exact State.takeIndex_before hi

theorem State.hostQuote_before (who : Requester) (s : State) : s.lasting.before (s.hostQuote who).lasting := by
  unfold State.hostQuote
  split
  · exact .of_eq (by simp)
  · split
    · exact .of_eq (by simp)
    · rename_i h; exact (State.makeQuote_before h).thenEq (by simp)

theorem execSecQuote_before (t : Nat) (who : Requester) (value : Word) (s : State) :
    outBefore s (execSecQuote t who value s) :=
  outBefore_next (State.secAction_before _ _ _ _ _ (State.hostQuote_before who))

@[simp] theorem State.extendSeal_lasting (opened : Bool) (s : State) : (State.extendSeal opened s).lasting = s.lasting := by
  unfold State.extendSeal; simp

theorem State.reseal_before (s : State) : s.lasting.before s.reseal.lasting := by
  unfold State.reseal
  rw [State.secDone_lasting, State.extendSeal_lasting]
  exact ⟨rfl, rfl, Nat.le_refl _, fun _ h => h, rfl, Nat.le_refl _, id, fun h => Bool.noConfusion h⟩

theorem execSecReseal_before (t : Nat) (who : Requester) (value : Word) (s : State) :
    outBefore s (execSecReseal t who value s) :=
  outBefore_next (State.secAction_before _ _ _ _ _ State.reseal_before)

theorem State.tryOpen_opens (block : List Byte) (s : State) :
    (s.tryOpen block).2.lasting = s.lasting ∨ (s.tryOpen block).2.lasting = s.lasting.opens := by
  unfold State.tryOpen; dsimp only
  split
  · exact .inl (by simp)
  · exact .inr (by simp only [lasting_mk, State.extendSeal_lasting]; rfl)

theorem State.raiseSvn_before (s : State) : s.lasting.before s.raiseSvn.lasting := by
  unfold State.raiseSvn; dsimp only
  split
  · exact .of_eq (by simp)
  · rename_i h
    rw [State.secDone_lasting]
    refine ⟨rfl, rfl, Nat.le_of_lt (Nat.lt_of_not_le h), fun _ h => h, rfl, Nat.le_refl _, fun hl => ⟨?_, hl.2⟩, id⟩
    exact Nat.min_le_left _ _

theorem execSecRaiseMinSvn_before (t : Nat) (who : Requester) (value : Word) (s : State) :
    outBefore s (execSecRaiseMinSvn t who value s) :=
  outBefore_next (State.secAction_before _ _ _ _ _ State.raiseSvn_before)

theorem State.revokeRoot_before (s : State) : s.lasting.before s.revokeRoot.lasting := by
  unfold State.revokeRoot; dsimp only
  split
  · exact .of_eq (by simp)
  · rename_i h
    rw [State.secDone_lasting, State.measureKeys_lasting]
    refine ⟨rfl, rfl, Nat.le_refl _, fun i hi => ?_, rfl, Nat.le_refl _, fun hl => ⟨hl.1, fun hf => h (.inl hf)⟩, id⟩
    show (s.fuses.revoked ||| _).getLsbD i = true
    rw [BitVec.getLsbD_or, show s.fuses.revoked.getLsbD i = true from hi, Bool.true_or]

theorem execSecRevokeRoot_before (t : Nat) (who : Requester) (value : Word) (s : State) :
    outBefore s (execSecRevokeRoot t who value s) :=
  outBefore_next (State.secAction_before _ _ _ _ _ State.revokeRoot_before)

@[simp] theorem execSecCertificates_lasting (t : Nat) (who : Requester) (value : Word) (s : State) : outLasting
    (execSecCertificates t who value s) = some s.lasting := by
  unfold execSecCertificates; simp

@[simp] theorem State.enrol_lasting (record : Option (List Byte)) (s : State) : (State.enrol record s).lasting = s.lasting := by
  unfold State.enrol; (repeat' split) <;> simp

@[simp] theorem execSecEnrol_lasting (t : Nat) (who : Requester) (value : Word) (record : Option (List Byte)) (s : State) :
    outLasting (execSecEnrol t who value record s) = some s.lasting := by
  unfold execSecEnrol; simp

@[simp] theorem State.removeKey_lasting (s : State) : (State.removeKey s).lasting = s.lasting := by
  unfold State.removeKey; simp

@[simp] theorem execSecRemoveKey_lasting (t : Nat) (who : Requester) (value : Word) (s : State) : outLasting (execSecRemoveKey
    t who value s) = some s.lasting := by
  unfold execSecRemoveKey; simp

theorem State.writeSecCtrl_before (who : Requester) (value : Word) (s : State) :
    s.lasting.before (s.writeSecCtrl who value).lasting := by
  have h0 : s.lasting = (s.secFields value).lasting := by simp
  unfold State.writeSecCtrl; dsimp only
  split
  · exact .eqThen h0 (State.hostQuote_before _ _)
  · exact .eqThen h0 (State.reseal_before _)
  · exact .eqThen h0 (State.raiseSvn_before _)
  · exact .eqThen h0 (State.revokeRoot_before _)
  · exact .of_eq (by simp)
  · exact .of_eq (by simp)
  · exact .of_eq (by simp)
  · exact .of_eq h0

@[simp] theorem State.dbgGranule_lasting (unit : Nat) (p : Nat) (i : Nat) (s : State) : (State.dbgGranule unit p i
    s).2.lasting = s.lasting := by
  unfold State.dbgGranule; (repeat' split) <;> simp

@[simp] theorem State.debugRead_lasting (value : Word) (s : State) : (State.debugRead value s).lasting = s.lasting := by
  unfold State.debugRead; simp

@[simp] theorem execDebugRead_lasting (t : Nat) (who : Requester) (value : Word) (s : State) : outLasting (execDebugRead t who
    value s) = some s.lasting := by
  unfold execDebugRead; simp

@[simp] theorem State.writeTrsCtrl_lasting (value : Word) (s : State) : (State.writeTrsCtrl value s).lasting = s.lasting := by
  unfold State.writeTrsCtrl; simp

@[simp] theorem State.writeHotCtrl_lasting (value : Word) (s : State) : (State.writeHotCtrl value s).lasting = s.lasting := by
  unfold State.writeHotCtrl; (repeat' split) <;> simp

@[simp] theorem State.writeSpareCtrl_lasting (value : Word) (s : State) : (State.writeSpareCtrl value s).lasting = s.lasting
    := by
  unfold State.writeSpareCtrl; (repeat' split) <;> simp

@[simp] theorem State.writeViaPort_lasting (p : Nat) (value : Word) (s : State) : (State.writeViaPort p value s).lasting =
    s.lasting := by
  unfold State.writeViaPort; simp

@[simp] theorem State.writeSync_lasting (value : Word) (s : State) : (State.writeSync value s).lasting = s.lasting := by
  unfold State.writeSync; simp

@[simp] theorem State.writeSpareReg_lasting (value : Word) (s : State) : (State.writeSpareReg value s).lasting = s.lasting := by
  unfold State.writeSpareReg; (repeat' split) <;> simp

@[simp] theorem State.writeSpanCtrl_lasting (value : Word) (s : State) : (State.writeSpanCtrl value s).lasting = s.lasting := by
  unfold State.writeSpanCtrl; dsimp only; (repeat' split) <;> simp

theorem State.writeReset_before (value : Word) (s : State) : s.lasting.before (s.writeReset value).lasting := by
  unfold State.writeReset
  split
  · exact State.requestReset_before _ _
  · exact State.requestReset_before _ _
  · exact Lasting.before.rfl _

@[simp] theorem State.writeCap_lasting (value : Word) (s : State) : (State.writeCap value s).lasting = s.lasting := by
  unfold State.writeCap; simp

@[simp] theorem State.writeSpanWin_lasting (l : Nat) (off : Nat) (value : Word) (s : State) : (State.writeSpanWin l off value
    s).lasting = s.lasting := by
  unfold State.writeSpanWin; (repeat' split) <;> simp

theorem State.writeAction_before (who : Requester) (off : Nat) (value : Word) (s : State) :
    s.lasting.before (s.writeAction who off value).lasting := by
  by_cases h : off = 0x0C0004
  · subst h; exact State.writeSecCtrl_before who value s
  by_cases h2 : off = 0x000024
  · subst h2; exact State.writeReset_before value s
  · unfold State.writeAction
    (repeat' split) <;> first | exact absurd rfl h | exact absurd rfl h2 | exact .of_eq (by simp)

theorem State.writeReg_before (who : Requester) (off : Nat) (value : Word) (s : State) :
    s.lasting.before (s.writeReg who off value).lasting := by
  unfold State.writeReg
  (repeat' split) <;> first | exact State.writeAction_before .. | exact .of_eq (by simp)

@[simp] theorem State.vfRegWrite_lasting (t port vf off : Nat) (value : Word) (s : State) : (State.vfRegWrite t port vf
    off value s).lasting = s.lasting := by
  unfold State.vfRegWrite; simp

theorem execRegisterWrite_before (t : Nat) (who : Requester) (offset : BitVec 24) (value : Word) (s : State) :
    outBefore s (execRegisterWrite t who offset value s) := by
  refine outBefore_next ?_
  split
  · exact .of_eq (State.vfRegWrite_lasting ..).symm
  · exact State.asMgmt_before _ _ _ _ (State.writeReg_before _ offset.toNat value)

@[simp] theorem State.answerRead_lasting (port : Nat) (v : Word) (s : State) : (State.answerRead port v s).lasting =
    s.lasting := by
  unfold State.answerRead; simp

@[simp] theorem execRegisterReadDenied_lasting (t : Nat) (who : Requester) (offset : BitVec 24) (s : State) : outLasting
    (execRegisterReadDenied t who offset s) = some s.lasting := by
  unfold execRegisterReadDenied; dsimp only; (repeat' split) <;> simp

@[simp] theorem State.rewriteStruck_lasting (s : State) : (State.rewriteStruck s).lasting = s.lasting := by
  unfold State.rewriteStruck; simp

@[simp] theorem State.replayPlan_lasting (s : State) : (State.replayPlan s).lasting = s.lasting := by
  unfold State.replayPlan; (repeat' split) <;> simp

@[simp] theorem State.replayLimit_lasting (s : State) : (State.replayLimit s).lasting = s.lasting := by
  unfold State.replayLimit; (repeat' split) <;> simp

@[simp] theorem execReplayStart_lasting (t : Nat) (s : State) : outLasting (execReplayStart t s) = some s.lasting := by
  unfold execReplayStart; dsimp only; (repeat' split) <;> simp

@[simp] theorem State.hangFirst_lasting (l : Nat) (p : Nat) (s : State) : (State.hangFirst l p s).lasting = s.lasting := by
  unfold State.hangFirst; simp

@[simp] theorem State.hang_lasting (l : Nat) (p : Nat) (s : State) : (State.hang l p s).lasting = s.lasting := by
  unfold State.hang; simp

@[simp] theorem execHungTimeout_lasting (t : Nat) (l : Fin 128) (s : State) : outLasting (execHungTimeout t l s) = some
    s.lasting := by
  unfold execHungTimeout; dsimp only; (repeat' split) <;> simp

@[simp] theorem State.closeTickLandings_lasting (s : State) : (State.closeTickLandings s).lasting = s.lasting := by
  unfold State.closeTickLandings; dsimp only; (repeat' split) <;> (try simp) <;> (refine foldl_lasting _ _ _ (fun s a => ?_)) <;> (try dsimp only) <;> (repeat' split) <;> simp

@[simp] theorem execRemoteWaitTimeout_lasting (t : Nat) (s : State) : outLasting (execRemoteWaitTimeout t s) = some s.lasting
    := by
  unfold execRemoteWaitTimeout; dsimp only; (repeat' split) <;> simp

@[simp] theorem State.sbAnswer_lasting (code : Nat) (m : SbMsg) (status : Nat) (payload : List Byte) (s : State) :
    (State.sbAnswer code m status payload s).lasting = s.lasting := by
  unfold State.sbAnswer; simp

@[simp] theorem State.sbExpire_lasting (s : State) : (State.sbExpire s).lasting = s.lasting := by
  unfold State.sbExpire; (repeat' split) <;> simp

@[simp] theorem State.sbServe_lasting (t : Nat) (code : Nat) (m : SbMsg) (fieldsOk : Bool) (ready : State → Bool) (act : State
    → State) (s : State) (hact : ∀  (s : State), (act s).lasting = s.lasting) : (State.sbServe t code m fieldsOk ready act
    s).lasting = s.lasting := by
  unfold State.sbServe; dsimp only; (repeat' split) <;> simp [hact]

theorem State.sbServe_before (t code : Nat) (m : SbMsg) (fieldsOk : Bool) (ready : State → Bool) (act : State → State)
    (s : State) (h : ∀ s : State, s.lasting.before (act s).lasting) :
    s.lasting.before (s.sbServe t code m fieldsOk ready act).lasting := by
  unfold State.sbServe; dsimp only
  split
  · exact .of_eq (by simp)
  · split
    · exact .of_eq (by simp)
    · refine Lasting.before.eqThen ?_ (h _); simp

theorem State.sbServe_view (P : Lasting → Prop) (t code : Nat) (m : SbMsg) (fieldsOk : Bool) (ready : State → Bool)
    (act : State → State) (s : State) (hs : P s.lasting) (h : ∀ x : State, x.lasting = s.lasting → P (act x).lasting) :
    P (s.sbServe t code m fieldsOk ready act).lasting := by
  unfold State.sbServe; dsimp only
  split
  · simpa using hs
  · split
    · simpa using hs
    · exact h _ (by simp)

@[simp] theorem State.sbChunk_lasting (code : Nat) (m : SbMsg) (off : Nat) (x : SbStream) (s : State) : (State.sbChunk code m
    off x s).lasting = s.lasting := by
  unfold State.sbChunk; simp

theorem State.sbSend_lasting (code : Nat) (m : SbMsg) (capture : State → Nat ⊕ (List Byte × State)) (s : State)
    (h : ∀ s s' bs, capture s = .inr (bs, s') → s'.lasting = s.lasting) : (s.sbSend code m capture).lasting = s.lasting := by
  unfold State.sbSend; dsimp only
  (repeat' split) <;> try simp
  rename_i hc
  exact h _ _ _ hc

theorem State.sbSend_before (code : Nat) (m : SbMsg) (capture : State → Nat ⊕ (List Byte × State)) (s : State)
    (h : ∀ (s s' : State) (bs : List Byte), capture s = .inr (bs, s') → s.lasting.before s'.lasting) :
    s.lasting.before (s.sbSend code m capture).lasting := by
  unfold State.sbSend; dsimp only
  split
  · split
    · exact .of_eq (by simp)
    · rename_i hc; exact (h _ _ _ hc).thenEq (by simp)
  · split
    · exact .of_eq (by simp)
    · split <;> exact .of_eq (by simp)

@[simp] theorem State.sbTake_lasting (code : Nat) (m : SbMsg) (done : List Byte → State → State) (s : State) (hdone : ∀ (b0 :
    List Byte) (s : State), (done b0 s).lasting = s.lasting) : (State.sbTake code m done s).lasting = s.lasting := by
  unfold State.sbTake
  (repeat' split) <;> simp [hdone]

theorem State.sbTake_before (code : Nat) (m : SbMsg) (done : List Byte → State → State) (s : State)
    (h : ∀ (bs : List Byte) (s : State), s.lasting.before (done bs s).lasting) :
    s.lasting.before (s.sbTake code m done).lasting := by
  unfold State.sbTake; dsimp only
  (repeat' split) <;> first
    | (refine Lasting.before.of_eq ?_; simp; done)
    | (refine Lasting.before.eqThen ?_ (h _ _); simp)

theorem State.sbTake_view (P : Lasting → Prop) (code : Nat) (m : SbMsg) (done : List Byte → State → State) (s : State)
    (hs : P s.lasting) (h : ∀ bs (x : State), x.lasting = s.lasting → P (done bs x).lasting) :
    P (s.sbTake code m done).lasting := by
  unfold State.sbTake; dsimp only
  (repeat' split) <;> first
    | (refine h _ _ ?_; simp; done)
    | (simpa using hs)

@[simp] theorem execSbRead_lasting (t : Nat) (m : SbMsg) (s : State) : outLasting (execSbRead t m s) = some s.lasting := by
  unfold execSbRead; simp

theorem execSbWrite_before (t : Nat) (m : SbMsg) (s : State) : outBefore s (execSbWrite t m s) := by
  refine outBefore_next (State.sbServe_before _ _ _ _ _ _ _ (fun s => ?_))
  exact Lasting.before.eqThen (State.sbAnswer_lasting 2 m 0 [] s).symm (State.writeReg_before ..)

theorem execSbReset_before (t : Nat) (m : SbMsg) (s : State) : outBefore s (execSbReset t m s) := by
  refine outBefore_next (State.sbServe_before _ _ _ _ _ _ _ (fun s => ?_))
  exact Lasting.before.eqThen (State.sbAnswer_lasting 3 m 0 [] s).symm (State.requestReset_before _ _)

@[simp] theorem execSbFaultLog_lasting (t : Nat) (m : SbMsg) (s : State) : outLasting (execSbFaultLog t m s) = some s.lasting
    := by
  unfold execSbFaultLog
  refine congrArg some (State.sbServe_lasting _ _ _ _ _ _ _ (fun s => ?_))
  exact State.sbSend_lasting _ _ _ _ (fun _ _ _ h => by cases h; rfl)

theorem State.sbSnap_lasting {s s' : State} {bs : List Byte} (h : s.sbSnap = .inr (bs, s')) : s'.lasting = s.lasting := by
  unfold State.sbSnap at h
  split at h
  · cases h
  · cases h; rfl

@[simp] theorem State.snapRefused_lasting (s : State) : (State.snapRefused s).lasting = s.lasting := by
  unfold State.snapRefused; simp

@[simp] theorem execSbSnapshot_lasting (t : Nat) (m : SbMsg) (s : State) : outLasting (execSbSnapshot t m s) = some s.lasting
    := by
  unfold execSbSnapshot
  refine congrArg some (State.sbServe_lasting _ _ _ _ _ _ _ (fun s => ?_))
  dsimp only
  split
  · rw [State.sbSend_lasting _ _ _ _ (fun _ _ _ h => State.sbSnap_lasting h)]; simp
  · exact State.sbSend_lasting _ _ _ _ (fun _ _ _ h => State.sbSnap_lasting h)

theorem execSbQuote_before (t : Nat) (m : SbMsg) (s : State) : outBefore s (execSbQuote t m s) := by
  refine outBefore_next (State.sbServe_before _ _ _ _ _ _ _ (fun s => ?_))
  refine State.sbSend_before _ _ _ _ (fun s s' bs h => ?_)
  split at h
  · cases h
  · split at h
    · cases h
    · rename_i hq; cases h; exact State.makeQuote_before hq

theorem State.firmwareIn_before (m : SbMsg) (image : List Byte) (s : State) :
    s.lasting.before (s.firmwareIn m image).lasting := by
  unfold State.firmwareIn
  split
  · exact .of_eq (by simp)
  · exact .eqThen (State.sbAnswer_lasting 6 m 0 [] s).symm ((State.wipe_before .cold (s.sbAnswer 6 m 0 [])).thenEq rfl)

theorem execSbFirmware_before (t : Nat) (m : SbMsg) (s : State) : outBefore s (execSbFirmware t m s) :=
  outBefore_next (State.sbServe_before _ _ _ _ _ _ _ (fun s => State.sbTake_before _ _ _ _ (State.firmwareIn_before m)))

@[simp] theorem execFirmwareWriteDone_lasting (t : Nat) (s : State) : outLasting (execFirmwareWriteDone t s) = some s.lasting
    := by
  unfold execFirmwareWriteDone; dsimp only; (repeat' split) <;> simp

theorem execSbUnseal_opens (t : Nat) (m : SbMsg) (s : State) :
    outLasting (execSbUnseal t m s) = some s.lasting ∨ outLasting (execSbUnseal t m s) = some s.lasting.opens := by
  have := State.sbServe_view (fun x => x = s.lasting ∨ x = s.lasting.opens) t 8 m (chunkOk m) State.sbFull
    (State.sbTake 8 m (fun block s => (s.tryOpen block).2.sbAnswer 8 m (if (s.tryOpen block).1 then 0 else 6) [])) s (.inl rfl)
    (fun x hx => State.sbTake_view (fun x => x = s.lasting ∨ x = s.lasting.opens) _ _ _ _ (.inl hx) (fun bs y hy => ?_))
  · exact this.imp (congrArg some) (congrArg some)
  · rw [State.sbAnswer_lasting, ← hx, ← hy]; exact State.tryOpen_opens bs y

@[simp] theorem execSbStreamAbandon_lasting (t : Nat) (s : State) : outLasting (execSbStreamAbandon t s) = some s.lasting := by
  unfold execSbStreamAbandon; simp

@[simp] theorem State.writeSlot_lasting (e : Nat) (slot : Nat) (part : Nat) (recs : List (List Byte)) (s : State) :
    (State.writeSlot e slot part recs s).lasting = s.lasting := by
  unfold State.writeSlot; simp

@[simp] theorem execVariantInstall_lasting (t : Nat) (r : CmdRec) (s : State) : outLasting (execVariantInstall t r s) = some
    s.lasting := by
  unfold execVariantInstall; dsimp only
  split
  · rename_i h; simpa using gate_out h
  · rename_i h; have hs := gate_ok h; (repeat' split) <;> simp_all

@[simp] theorem execVariantRemove_lasting (t : Nat) (r : CmdRec) (s : State) : outLasting (execVariantRemove t r s) = some
    s.lasting := by
  unfold execVariantRemove; dsimp only
  split
  · rename_i h; simpa using gate_out h
  · rename_i h; have hs := gate_ok h; (repeat' split) <;> simp_all

@[simp] theorem execVariantFetchDone_lasting (t : Nat) (handle : BitVec 32) (records : Option (List Byte)) (s : State) :
    outLasting (execVariantFetchDone t handle records s) = some s.lasting := by
  unfold execVariantFetchDone; dsimp only; (repeat' split) <;> simp

@[simp] theorem State.endTune_lasting (id : Nat) (j : Job) (recs : List (List Byte)) (s : State) : (State.endTune id j recs
    s).lasting = s.lasting := by
  unfold State.endTune; dsimp only; (repeat' split) <;> simp

@[simp] theorem execTuneStep_lasting (t : Nat) (job : BitVec 16) (groupGrads : List (List Int)) (steerGrads : List (List Int))
    (s : State) : outLasting (execTuneStep t job groupGrads steerGrads s) = some s.lasting := by
  unfold execTuneStep; dsimp only; (repeat' split) <;> simp

end Sys2Proof.Machine
end

