-- ==== Sys2Proof/Laws/Lasting.lean ====
section
/-! SUPPORT. What a command leaves of the lasting parts of the state, whatever the command. -/

namespace Sys2Proof.Machine
open Sys2Proof

/-- Every command but SB_UNSEAL answers a next state whose lasting parts may come after those before it. -/
theorem exec_before (c : Instr) (s : State) (h : ∀ t m, c ≠ .sbUnseal t m) : outBefore s (exec c s) := match c, h with
  | .submit _ _, _ => outBefore_of_lasting (execSubmit_lasting ..)
  | .cancel _ _, _ => outBefore_of_lasting (execCancel_lasting ..)
  | .credit _ _, _ => outBefore_of_lasting (execCredit_lasting ..)
  | .query _ _, _ => outBefore_of_lasting (execQuery_lasting ..)
  | .logSetup _ _, _ => outBefore_of_lasting (execLogSetup_lasting ..)
  | .jobStart _ _ _ _, _ => outBefore_of_lasting (execJobStart_lasting ..)
  | .jobCtrlEnd _ _, _ => outBefore_of_lasting (execJobCtrlEnd_lasting ..)
  | .jobCtrlPreempt _ _, _ => outBefore_of_lasting (execJobCtrlPreempt_lasting ..)
  | .jobCtrlResume _ _, _ => outBefore_of_lasting (execJobCtrlResume_lasting ..)
  | .variantInstall _ _, _ => outBefore_of_lasting (execVariantInstall_lasting ..)
  | .variantRemove _ _, _ => outBefore_of_lasting (execVariantRemove_lasting ..)
  | .handover _ _, _ => outBefore_of_lasting (execHandover_lasting ..)
  | .handin _ _, _ => outBefore_of_lasting (execHandin_lasting ..)
  | .landingOpen _ _, _ => outBefore_of_lasting (execLandingOpen_lasting ..)
  | .landingClose _ _, _ => outBefore_of_lasting (execLandingClose_lasting ..)
  | .reservedOpcodeRecord _ _ _, _ => outBefore_of_lasting (execReservedOpcodeRecord_lasting ..)
  | .partialLaneWrite _ _ _ _ _, _ => outBefore_of_lasting (execPartialLaneWrite_lasting ..)
  | .bar4Access _ _ _ _ _ _ _, _ => outBefore_of_lasting (execBar4Access_lasting ..)
  | .pageOwnerWrite _ _ _ _ _, _ => outBefore_of_lasting (execPageOwnerWrite_lasting ..)
  | .registerWrite _ _ _ _, _ => execRegisterWrite_before ..
  | .fetchDone _ _ _ _, _ => outBefore_of_lasting (execFetchDone_lasting ..)
  | .variantFetchDone _ _ _, _ => outBefore_of_lasting (execVariantFetchDone_lasting ..)
  | .deadlineScan _, _ => outBefore_of_lasting (execDeadlineScan_lasting ..)
  | .handinExpired _ _, _ => outBefore_of_lasting (execHandinExpired_lasting ..)
  | .msixWindowEnd _ _ _, _ => outBefore_of_lasting (execMsixWindowEnd_lasting ..)
  | .admissionCut _, _ => outBefore_of_lasting (execAdmissionCut_lasting ..)
  | .spanJointArrival _ _, _ => outBefore_of_lasting (execSpanJointArrival_lasting ..)
  | .jointRelease _, _ => outBefore_of_lasting (execJointRelease_lasting ..)
  | .keystoneSeal _ _, _ => outBefore_of_lasting (execKeystoneSeal_lasting ..)
  | .replayStart _, _ => outBefore_of_lasting (execReplayStart_lasting ..)
  | .remoteWaitTimeout _, _ => outBefore_of_lasting (execRemoteWaitTimeout_lasting ..)
  | .hungTimeout _ _, _ => outBefore_of_lasting (execHungTimeout_lasting ..)
  | .landingExpiry _ _, _ => outBefore_of_lasting (execLandingExpiry_lasting ..)
  | .nop _, _ => outBefore_of_lasting (execNop_lasting ..)
  | .endProgram _, _ => outBefore_of_lasting (execEndProgram_lasting ..)
  | .base _ _, _ => outBefore_of_lasting (execBase_lasting ..)
  | .loop _ _, _ => outBefore_of_lasting (execLoop_lasting ..)
  | .endl _ _, _ => outBefore_of_lasting (execEndl_lasting ..)
  | .joint _ _ _, _ => outBefore_of_lasting (execJoint_lasting ..)
  | .wait _ _ _ _, _ => outBefore_of_lasting (execWait_lasting ..)
  | .cset _ _ _, _ => outBefore_of_lasting (execCset_lasting ..)
  | .blist _ _ _ _ _ _, _ => outBefore_of_lasting (execBlist_lasting ..)
  | .recv _ _ _ _ _, _ => outBefore_of_lasting (execRecv_lasting ..)
  | .tmark _ _, _ => outBefore_of_lasting (execTmark_lasting ..)
  | .layer _ _, _ => outBefore_of_lasting (execLayer_lasting ..)
  | .tload _ _ _ _ _ _ _, _ => outBefore_of_lasting (execTload_lasting ..)
  | .prun _ _ _ _, _ => outBefore_of_lasting (execPrun_lasting ..)
  | .lrun _ _ _ _, _ => outBefore_of_lasting (execLrun_lasting ..)
  | .trun _ _ _ _, _ => outBefore_of_lasting (execTrun_lasting ..)
  | .pgate _ _, _ => outBefore_of_lasting (execPgate_lasting ..)
  | .mkup _ _ _ _, _ => outBefore_of_lasting (execMkup_lasting ..)
  | .azero _ _ _, _ => outBefore_of_lasting (execAzero_lasting ..)
  | .conv _ _ _ _ _ _ _ _ _, _ => outBefore_of_lasting (execConv_lasting ..)
  | .kvapp _ _ _ _ _ _ _ _, _ => outBefore_of_lasting (execKvapp_lasting ..)
  | .tblld _ _ _ _, _ => outBefore_of_lasting (execTblld_lasting ..)
  | .attn _ _ _ _ _ _ _ _ _, _ => outBefore_of_lasting (execAttn_lasting ..)
  | .amul _ _ _ _ _ _ _, _ => outBefore_of_lasting (execAmul_lasting ..)
  | .arot _ _ _ _ _ _ _, _ => outBefore_of_lasting (execArot_lasting ..)
  | .arank _ _ _ _ _ _, _ => outBefore_of_lasting (execArank_lasting ..)
  | .asamp _ _ _ _ _, _ => outBefore_of_lasting (execAsamp_lasting ..)
  | .mload _ _ _ _ _ _ _ _ _ _ _, _ => outBefore_of_lasting (execMload_lasting ..)
  | .mstore _ _ _ _ _ _, _ => outBefore_of_lasting (execMstore_lasting ..)
  | .kvrd _ _ _ _ _ _ _ _ _ _, _ => outBefore_of_lasting (execKvrd_lasting ..)
  | .fill _ _ _ _ _, _ => outBefore_of_lasting (execFill_lasting ..)
  | .copy _ _ _ _ _, _ => outBefore_of_lasting (execCopy_lasting ..)
  | .gath _ _ _ _ _ _ _ _, _ => outBefore_of_lasting (execGath_lasting ..)
  | .scat _ _ _ _ _, _ => outBefore_of_lasting (execScat_lasting ..)
  | .send _ _ _ _ _ _ _ _, _ => outBefore_of_lasting (execSend_lasting ..)
  | .tloadDone _ _, _ => outBefore_of_lasting (execTloadDone_lasting ..)
  | .streamGranuleLanded _ _ _ _ _ _ _, _ => execStreamGranuleLanded_before ..
  | .streamAck _ _ _ _, _ => outBefore_of_lasting (execStreamAck_lasting ..)
  | .kvappAck _ _ _, _ => outBefore_of_lasting (execKvappAck_lasting ..)
  | .additionLanded _ _, _ => outBefore_of_lasting (execAdditionLanded_lasting ..)
  | .contextLoad _ _, _ => outBefore_of_lasting (execContextLoad_lasting ..)
  | .scatterEntryApply _ _ _, _ => outBefore_of_lasting (execScatterEntryApply_lasting ..)
  | .trestleRecord _ _, _ => outBefore_of_lasting (execTrestleRecord_lasting ..)
  | .retest _ _, _ => outBefore_of_lasting (execRetest_lasting ..)
  | .trestleRetestDone _ _, _ => outBefore_of_lasting (execTrestleRetestDone_lasting ..)
  | .bitstreamCopied _ _ _, _ => outBefore_of_lasting (execBitstreamCopied_lasting ..)
  | .loadWrite _, _ => outBefore_of_lasting (execLoadWrite_lasting ..)
  | .scrubDone _, _ => outBefore_of_lasting (execScrubDone_lasting ..)
  | .idleEnd _ _, _ => outBefore_of_lasting (execIdleEnd_lasting ..)
  | .extentSealed _ _ _, _ => outBefore_of_lasting (execExtentSealed_lasting ..)
  | .tuneStep _ _ _ _, _ => outBefore_of_lasting (execTuneStep_lasting ..)
  | .hotPin _ _ _, _ => outBefore_of_lasting (execHotPin_lasting ..)
  | .hotUnpin _ _ _, _ => outBefore_of_lasting (execHotUnpin_lasting ..)
  | .hotRemove _ _ _, _ => outBefore_of_lasting (execHotRemove_lasting ..)
  | .pinErase _ _ _ _, _ => outBefore_of_lasting (execPinErase_lasting ..)
  | .spareSteer _ _ _ _ _, _ => outBefore_of_lasting (execSpareSteer_lasting ..)
  | .rowRepair _ _ _ _ _, _ => outBefore_of_lasting (execRowRepair_lasting ..)
  | .hardRepair _ _ _, _ => outBefore_of_lasting (execHardRepair_lasting ..)
  | .memScrub _ _ _, _ => outBefore_of_lasting (execMemScrub_lasting ..)
  | .deckPatrolScrub _ _ _ _ _, _ => outBefore_of_lasting (execDeckPatrolScrub_lasting ..)
  | .throttleSample _ _ _, _ => outBefore_of_lasting (execThrottleSample_lasting ..)
  | .spareCtrlErase _ _ _, _ => outBefore_of_lasting (execSpareCtrlErase_lasting ..)
  | .spareCtrlSteer _ _ _, _ => outBefore_of_lasting (execSpareCtrlSteer_lasting ..)
  | .spareCtrlHardSteer _ _ _, _ => outBefore_of_lasting (execSpareCtrlHardSteer_lasting ..)
  | .spareCtrlClearErasure _ _ _, _ => outBefore_of_lasting (execSpareCtrlClearErasure_lasting ..)
  | .spareCtrlHardRows _ _ _, _ => outBefore_of_lasting (execSpareCtrlHardRows_lasting ..)
  | .strikeLapse _ _, _ => outBefore_of_lasting (execStrikeLapse_lasting ..)
  | .spanRetest _ _ _, _ => outBefore_of_lasting (execSpanRetest_lasting ..)
  | .spanFence _ _ _, _ => outBefore_of_lasting (execSpanFence_lasting ..)
  | .spanTestDone _ _ _, _ => outBefore_of_lasting (execSpanTestDone_lasting ..)
  | .refetchDone _ _ _ _ _, _ => outBefore_of_lasting (execRefetchDone_lasting ..)
  | .chipFault _ _, _ => execChipFault_before ..
  | .linkTrained _ _ _, _ => outBefore_of_lasting (execLinkTrained_lasting ..)
  | .trainingFrame _ _ _ _, _ => outBefore_of_lasting (execTrainingFrame_lasting ..)
  | .trainRetry _ _, _ => outBefore_of_lasting (execTrainRetry_lasting ..)
  | .linkDown _ _, _ => outBefore_of_lasting (execLinkDown_lasting ..)
  | .lctl _ _, _ => outBefore_of_lasting (execLctl_lasting ..)
  | .hello _ _, _ => outBefore_of_lasting (execHello_lasting ..)
  | .write _ _, _ => outBefore_of_lasting (execWrite_lasting ..)
  | .wack _ _, _ => outBefore_of_lasting (execWack_lasting ..)
  | .read _ _, _ => outBefore_of_lasting (execRead_lasting ..)
  | .rdata _ _, _ => outBefore_of_lasting (execRdata_lasting ..)
  | .offer _ _, _ => outBefore_of_lasting (execOffer_lasting ..)
  | .offerAns _ _, _ => outBefore_of_lasting (execOfferAns_lasting ..)
  | .hoCommit _ _, _ => outBefore_of_lasting (execHoCommit_lasting ..)
  | .hoAck _ _, _ => outBefore_of_lasting (execHoAck_lasting ..)
  | .digest _ _, _ => outBefore_of_lasting (execDigest_lasting ..)
  | .extReq _ _, _ => outBefore_of_lasting (execExtReq_lasting ..)
  | .extAns _ _, _ => outBefore_of_lasting (execExtAns_lasting ..)
  | .probe _ _, _ => outBefore_of_lasting (execProbe_lasting ..)
  | .probeAns _ _, _ => outBefore_of_lasting (execProbeAns_lasting ..)
  | .claim _ _, _ => outBefore_of_lasting (execClaim_lasting ..)
  | .badPacket _ _ _, _ => outBefore_of_lasting (execBadPacket_lasting ..)
  | .packetCrcFail _ _ _ _, _ => outBefore_of_lasting (execPacketCrcFail_lasting ..)
  | .packetForward _ _ _, _ => outBefore_of_lasting (execPacketForward_lasting ..)
  | .chipAssign _ _ _, _ => outBefore_of_lasting (execChipAssign_lasting ..)
  | .probeCheckDone _, _ => outBefore_of_lasting (execProbeCheckDone_lasting ..)
  | .pullStart _ _, _ => outBefore_of_lasting (execPullStart_lasting ..)
  | .swingClose _, _ => outBefore_of_lasting (execSwingClose_lasting ..)
  | .swingOpen _, _ => outBefore_of_lasting (execSwingOpen_lasting ..)
  | .tickSyncPulse _, _ => outBefore_of_lasting (execTickSyncPulse_lasting ..)
  | .tickSyncMiss _, _ => outBefore_of_lasting (execTickSyncMiss_lasting ..)
  | .refLost _, _ => outBefore_of_lasting (execRefLost_lasting ..)
  | .refReturn _, _ => outBefore_of_lasting (execRefReturn_lasting ..)
  | .spareTake _ _ _, _ => outBefore_of_lasting (execSpareTake_lasting ..)
  | .spareRelease _ _ _, _ => outBefore_of_lasting (execSpareRelease_lasting ..)
  | .takeoverWatch _, _ => outBefore_of_lasting (execTakeoverWatch_lasting ..)
  | .takeoverDone _, _ => outBefore_of_lasting (execTakeoverDone_lasting ..)
  | .lockEnable _ _ _, _ => outBefore_of_lasting (execLockEnable_lasting ..)
  | .obsClose _ _ _, _ => outBefore_of_lasting (execObsClose_lasting ..)
  | .obsSample _ _ _, _ => outBefore_of_lasting (execObsSample_lasting ..)
  | .pctrClose _ _ _ _, _ => outBefore_of_lasting (execPctrClose_lasting ..)
  | .pctrSample _ _ _ _, _ => outBefore_of_lasting (execPctrSample_lasting ..)
  | .traceArm _ _ _ _, _ => outBefore_of_lasting (execTraceArm_lasting ..)
  | .triggerFire _ _ _, _ => outBefore_of_lasting (execTriggerFire_lasting ..)
  | .triggerPoint _, _ => outBefore_of_lasting (execTriggerPoint_lasting ..)
  | .traceDrain _ _, _ => outBefore_of_lasting (execTraceDrain_lasting ..)
  | .snapshotTake _ _ _, _ => outBefore_of_lasting (execSnapshotTake_lasting ..)
  | .snapshotWritten _, _ => outBefore_of_lasting (execSnapshotWritten_lasting ..)
  | .secQuote _ _ _, _ => execSecQuote_before ..
  | .secReseal _ _ _, _ => execSecReseal_before ..
  | .secRaiseMinSvn _ _ _, _ => execSecRaiseMinSvn_before ..
  | .secRevokeRoot _ _ _, _ => execSecRevokeRoot_before ..
  | .secCertificates _ _ _, _ => outBefore_of_lasting (execSecCertificates_lasting ..)
  | .secEnrol _ _ _ _, _ => outBefore_of_lasting (execSecEnrol_lasting ..)
  | .secRemoveKey _ _ _, _ => outBefore_of_lasting (execSecRemoveKey_lasting ..)
  | .debugRead _ _ _, _ => outBefore_of_lasting (execDebugRead_lasting ..)
  | .sbRead _ _, _ => outBefore_of_lasting (execSbRead_lasting ..)
  | .sbWrite _ _, _ => execSbWrite_before ..
  | .sbReset _ _, _ => execSbReset_before ..
  | .sbFaultLog _ _, _ => outBefore_of_lasting (execSbFaultLog_lasting ..)
  | .sbSnapshot _ _, _ => outBefore_of_lasting (execSbSnapshot_lasting ..)
  | .sbFirmware _ _, _ => execSbFirmware_before ..
  | .sbQuote _ _, _ => execSbQuote_before ..
  | .sbUnseal t m, h => absurd rfl (h t m)
  | .sbStreamAbandon _, _ => outBefore_of_lasting (execSbStreamAbandon_lasting ..)
  | .firmwareWriteDone _, _ => outBefore_of_lasting (execFirmwareWriteDone_lasting ..)
  | .standbyUp _, _ => outBefore_of_lasting (execStandbyUp_lasting ..)
  | .standbyLoss _, _ => execStandbyLoss_before ..
  | .pwrEnChange _ _, _ => execPwrEnChange_before ..
  | .mainPowerGood _ _ _, _ => outBefore_of_lasting (execMainPowerGood_lasting ..)
  | .mainPowerLoss _, _ => execMainPowerLoss_before ..
  | .perst _ _ _, _ => outBefore_of_lasting (execPerst_lasting ..)
  | .portReset _ _ _, _ => outBefore_of_lasting (execPortReset_lasting ..)
  | .vfFlr _ _ _, _ => outBefore_of_lasting (execVfFlr_lasting ..)
  | .warmResetRequest x0 x1 x2, _ => execWarmResetRequest_before x0 x1 x2 s
  | .coldResetRequest x0 x1 x2, _ => execColdResetRequest_before x0 x1 x2 s
  | .resetTakesEffect _, _ => execResetTakesEffect_before ..
  | .pierBoot _, _ => outBefore_of_lasting (execPierBoot_lasting ..)
  | .memTrainDone _ _ _, _ => outBefore_of_lasting (execMemTrainDone_lasting ..)
  | .selftestDone _ _ _ _, _ => outBefore_of_lasting (execSelftestDone_lasting ..)
  | .hostEnable _, _ => outBefore_of_lasting (execHostEnable_lasting ..)
  | .brakeApply _, _ => outBefore_of_lasting (execBrakeApply_lasting ..)
  | .brakeRelease _, _ => outBefore_of_lasting (execBrakeRelease_lasting ..)
  | .dieTempSample _ _, _ => execDieTempSample_before ..
  | .forcedClockStep _, _ => outBefore_of_lasting (execForcedClockStep_lasting ..)
  | .memRateCapAdjust _ _, _ => outBefore_of_lasting (execMemRateCapAdjust_lasting ..)
  | .powerInputSample _ _ _ _, _ => outBefore_of_lasting (execPowerInputSample_lasting ..)
  | .ingestPackVerified _ _ _, _ => outBefore_of_lasting (execIngestPackVerified_lasting ..)
  | .handoverConfirmExpiry _ _, _ => outBefore_of_lasting (execHandoverConfirmExpiry_lasting ..)
  | .pcieLinkUp _ _, _ => outBefore_of_lasting (execPcieLinkUp_lasting ..)
  | .registerReadDenied x0 x1 x2, _ => outBefore_of_lasting (execRegisterReadDenied_lasting x0 x1 x2 s)
  | .correctionWindowEnd _ _, _ => outBefore_of_lasting (execCorrectionWindowEnd_lasting ..)

/-- A command answers a next state: the lasting parts may come after those before it, or, after SB_UNSEAL, the seal has
opened. -/
theorem exec_lasting (c : Instr) (s : State) : ∃ u, exec c s = .next u ∧
    (s.lasting.before u.lasting ∨ ((∃ t m, c = .sbUnseal t m) ∧ u.lasting = s.lasting.opens)) := by
  have key : ∀ {o : Host.Outcome State Fault Refusal} {b : Lasting}, outLasting o = some b → ∃ u, o = .next u ∧ u.lasting = b := by
    intro o b h
    match o with
    | .next u => exact ⟨u, rfl, by simpa using h⟩
    | .fault r => cases r
    | .refused r => simp [outLasting, nextOf] at h
  by_cases hc : ∃ t m, c = .sbUnseal t m
  · obtain ⟨t, m, rfl⟩ := hc
    rcases execSbUnseal_opens t m s with h | h
    · obtain ⟨u, hu, hb⟩ := key h
      exact ⟨u, hu, .inl (.of_eq hb.symm)⟩
    · obtain ⟨u, hu, hb⟩ := key h
      exact ⟨u, hu, .inr ⟨⟨t, m, rfl⟩, hb⟩⟩
  · obtain ⟨b, h, hb⟩ := exec_before c s (fun t m e => hc ⟨t, m, e⟩)
    obtain ⟨u, hu, rfl⟩ := key h
    exact ⟨u, hu, .inl hb⟩

end Sys2Proof.Machine
end

