-- ==== Sys2Proof/Laws/State.lean ====
section
/-! SUPPORT. What each shared update leaves of each field of the state: one lemma for each field that it does not change. -/

namespace Sys2Proof.Machine
open Sys2Proof

/-- Two states are equal when every field is. -/
theorem State.ext_all {a b : State} (h0 : a.pending = b.pending) (h1 : a.out = b.out) (h2 : a.pub = b.pub) (h3 : a.time =
    b.time) (h4 : a.tbOff = b.tbOff) (h5 : a.fresh = b.fresh) (h6 : a.regs = b.regs) (h7 : a.cycStart = b.cycStart) (h8 :
    a.counters = b.counters) (h9 : a.fuses = b.fuses) (h10 : a.flash = b.flash) (h11 : a.boot = b.boot) (h12 : a.pwr = b.pwr)
    (h13 : a.sb = b.sb) (h14 : a.sec = b.sec) (h15 : a.obs = b.obs) (h16 : a.spanMap = b.spanMap) (h17 : a.mapEpoch =
    b.mapEpoch) (h18 : a.spans = b.spans) (h19 : a.ports = b.ports) (h20 : a.perstLow = b.perstLow) (h21 : a.lanes = b.lanes)
    (h22 : a.handles = b.handles) (h23 : a.named = b.named) (h24 : a.logs = b.logs) (h25 : a.requests = b.requests) (h26 :
    a.waiting = b.waiting) (h27 : a.stamp = b.stamp) (h28 : a.jobs = b.jobs) (h29 : a.ended = b.ended) (h30 : a.running =
    b.running) (h31 : a.nextJob = b.nextJob) (h32 : a.bits = b.bits) (h33 : a.binding = b.binding) (h34 : a.load = b.load)
    (h35 : a.loadStatus = b.loadStatus) (h36 : a.loadDetail = b.loadDetail) (h37 : a.cache = b.cache) (h38 : a.hot = b.hot)
    (h39 : a.staged = b.staged) (h40 : a.tune = b.tune) (h41 : a.kv = b.kv) (h42 : a.kvSaved = b.kvSaved) (h43 : a.govSaved =
    b.govSaved) (h44 : a.tickSaved = b.tickSaved) (h45 : a.spanSaved = b.spanSaved) (h46 : a.routes = b.routes) (h47 : a.tick
    = b.tick) (h48 : a.gov = b.gov) (h49 : a.trs = b.trs) (h50 : a.mem = b.mem) (h51 : a.landings = b.landings) (h52 : a.via =
    b.via) (h53 : a.flt = b.flt) : a = b := by
  cases a; cases b
  simp only at h0 h1 h2 h3 h4 h5 h6 h7 h8 h9 h10 h11 h12 h13 h14 h15 h16 h17 h18 h19 h20 h21 h22 h23 h24 h25 h26 h27 h28 h29 h30 h31 h32 h33 h34 h35 h36 h37 h38 h39 h40 h41 h42 h43 h44 h45 h46 h47 h48 h49 h50 h51 h52 h53
  subst_vars; rfl

@[simp] theorem State.at_pending (t : Nat) (s : State) : (s.at t).pending = s.pending := rfl
@[simp] theorem State.at_tbOff (t : Nat) (s : State) : (s.at t).tbOff = s.tbOff := rfl
@[simp] theorem State.at_fresh (t : Nat) (s : State) : (s.at t).fresh = s.fresh := rfl
@[simp] theorem State.at_regs (t : Nat) (s : State) : (s.at t).regs = s.regs := rfl
@[simp] theorem State.at_counters (t : Nat) (s : State) : (s.at t).counters = s.counters := rfl
@[simp] theorem State.at_fuses (t : Nat) (s : State) : (s.at t).fuses = s.fuses := rfl
@[simp] theorem State.at_flash (t : Nat) (s : State) : (s.at t).flash = s.flash := rfl
@[simp] theorem State.at_boot (t : Nat) (s : State) : (s.at t).boot = s.boot := rfl
@[simp] theorem State.at_pwr (t : Nat) (s : State) : (s.at t).pwr = s.pwr := rfl
@[simp] theorem State.at_sb (t : Nat) (s : State) : (s.at t).sb = s.sb := rfl
@[simp] theorem State.at_sec (t : Nat) (s : State) : (s.at t).sec = s.sec := rfl
@[simp] theorem State.at_obs (t : Nat) (s : State) : (s.at t).obs = s.obs := rfl
@[simp] theorem State.at_spanMap (t : Nat) (s : State) : (s.at t).spanMap = s.spanMap := rfl
@[simp] theorem State.at_mapEpoch (t : Nat) (s : State) : (s.at t).mapEpoch = s.mapEpoch := rfl
@[simp] theorem State.at_spans (t : Nat) (s : State) : (s.at t).spans = s.spans := rfl
@[simp] theorem State.at_ports (t : Nat) (s : State) : (s.at t).ports = s.ports := rfl
@[simp] theorem State.at_perstLow (t : Nat) (s : State) : (s.at t).perstLow = s.perstLow := rfl
@[simp] theorem State.at_lanes (t : Nat) (s : State) : (s.at t).lanes = s.lanes := rfl
@[simp] theorem State.at_handles (t : Nat) (s : State) : (s.at t).handles = s.handles := rfl
@[simp] theorem State.at_named (t : Nat) (s : State) : (s.at t).named = s.named := rfl
@[simp] theorem State.at_logs (t : Nat) (s : State) : (s.at t).logs = s.logs := rfl
@[simp] theorem State.at_requests (t : Nat) (s : State) : (s.at t).requests = s.requests := rfl
@[simp] theorem State.at_waiting (t : Nat) (s : State) : (s.at t).waiting = s.waiting := rfl
@[simp] theorem State.at_stamp (t : Nat) (s : State) : (s.at t).stamp = s.stamp := rfl
@[simp] theorem State.at_jobs (t : Nat) (s : State) : (s.at t).jobs = s.jobs := rfl
@[simp] theorem State.at_ended (t : Nat) (s : State) : (s.at t).ended = s.ended := rfl
@[simp] theorem State.at_spanSaved (t : Nat) (s : State) : (s.at t).spanSaved = s.spanSaved := rfl
@[simp] theorem State.at_routes (t : Nat) (s : State) : (s.at t).routes = s.routes := rfl
@[simp] theorem State.at_running (t : Nat) (s : State) : (s.at t).running = s.running := rfl
@[simp] theorem State.at_nextJob (t : Nat) (s : State) : (s.at t).nextJob = s.nextJob := rfl
@[simp] theorem State.at_bits (t : Nat) (s : State) : (s.at t).bits = s.bits := rfl
@[simp] theorem State.at_binding (t : Nat) (s : State) : (s.at t).binding = s.binding := rfl
@[simp] theorem State.at_load (t : Nat) (s : State) : (s.at t).load = s.load := rfl
@[simp] theorem State.at_loadStatus (t : Nat) (s : State) : (s.at t).loadStatus = s.loadStatus := rfl
@[simp] theorem State.at_loadDetail (t : Nat) (s : State) : (s.at t).loadDetail = s.loadDetail := rfl
@[simp] theorem State.at_cache (t : Nat) (s : State) : (s.at t).cache = s.cache := rfl
@[simp] theorem State.at_hot (t : Nat) (s : State) : (s.at t).hot = s.hot := rfl
@[simp] theorem State.at_staged (t : Nat) (s : State) : (s.at t).staged = s.staged := rfl
@[simp] theorem State.at_tune (t : Nat) (s : State) : (s.at t).tune = s.tune := rfl
@[simp] theorem State.at_kv (t : Nat) (s : State) : (s.at t).kv = s.kv := rfl
@[simp] theorem State.at_kvSaved (t : Nat) (s : State) : (s.at t).kvSaved = s.kvSaved := rfl
@[simp] theorem State.at_govSaved (t : Nat) (s : State) : (s.at t).govSaved = s.govSaved := rfl
@[simp] theorem State.at_tickSaved (t : Nat) (s : State) : (s.at t).tickSaved = s.tickSaved := rfl
@[simp] theorem State.at_tick (t : Nat) (s : State) : (s.at t).tick = s.tick := rfl
@[simp] theorem State.at_gov (t : Nat) (s : State) : (s.at t).gov = s.gov := rfl
@[simp] theorem State.at_trs (t : Nat) (s : State) : (s.at t).trs = s.trs := rfl
@[simp] theorem State.at_mem (t : Nat) (s : State) : (s.at t).mem = s.mem := rfl
@[simp] theorem State.at_landings (t : Nat) (s : State) : (s.at t).landings = s.landings := rfl
@[simp] theorem State.at_via (t : Nat) (s : State) : (s.at t).via = s.via := rfl
@[simp] theorem State.at_flt (t : Nat) (s : State) : (s.at t).flt = s.flt := rfl

@[simp] theorem State.emit_pending (o : Out) (s : State) : (s.emit o).pending = s.pending := rfl
@[simp] theorem State.emit_time (o : Out) (s : State) : (s.emit o).time = s.time := rfl
@[simp] theorem State.emit_tbOff (o : Out) (s : State) : (s.emit o).tbOff = s.tbOff := rfl
@[simp] theorem State.emit_fresh (o : Out) (s : State) : (s.emit o).fresh = s.fresh := rfl
@[simp] theorem State.emit_regs (o : Out) (s : State) : (s.emit o).regs = s.regs := rfl
@[simp] theorem State.emit_counters (o : Out) (s : State) : (s.emit o).counters = s.counters := rfl
@[simp] theorem State.emit_fuses (o : Out) (s : State) : (s.emit o).fuses = s.fuses := rfl
@[simp] theorem State.emit_flash (o : Out) (s : State) : (s.emit o).flash = s.flash := rfl
@[simp] theorem State.emit_boot (o : Out) (s : State) : (s.emit o).boot = s.boot := rfl
@[simp] theorem State.emit_pwr (o : Out) (s : State) : (s.emit o).pwr = s.pwr := rfl
@[simp] theorem State.emit_sb (o : Out) (s : State) : (s.emit o).sb = s.sb := rfl
@[simp] theorem State.emit_sec (o : Out) (s : State) : (s.emit o).sec = s.sec := rfl
@[simp] theorem State.emit_obs (o : Out) (s : State) : (s.emit o).obs = s.obs := rfl
@[simp] theorem State.emit_spanMap (o : Out) (s : State) : (s.emit o).spanMap = s.spanMap := rfl
@[simp] theorem State.emit_mapEpoch (o : Out) (s : State) : (s.emit o).mapEpoch = s.mapEpoch := rfl
@[simp] theorem State.emit_spans (o : Out) (s : State) : (s.emit o).spans = s.spans := rfl
@[simp] theorem State.emit_ports (o : Out) (s : State) : (s.emit o).ports = s.ports := rfl
@[simp] theorem State.emit_perstLow (o : Out) (s : State) : (s.emit o).perstLow = s.perstLow := rfl
@[simp] theorem State.emit_lanes (o : Out) (s : State) : (s.emit o).lanes = s.lanes := rfl
@[simp] theorem State.emit_handles (o : Out) (s : State) : (s.emit o).handles = s.handles := rfl
@[simp] theorem State.emit_named (o : Out) (s : State) : (s.emit o).named = s.named := rfl
@[simp] theorem State.emit_logs (o : Out) (s : State) : (s.emit o).logs = s.logs := rfl
@[simp] theorem State.emit_requests (o : Out) (s : State) : (s.emit o).requests = s.requests := rfl
@[simp] theorem State.emit_waiting (o : Out) (s : State) : (s.emit o).waiting = s.waiting := rfl
@[simp] theorem State.emit_stamp (o : Out) (s : State) : (s.emit o).stamp = s.stamp := rfl
@[simp] theorem State.emit_jobs (o : Out) (s : State) : (s.emit o).jobs = s.jobs := rfl
@[simp] theorem State.emit_ended (o : Out) (s : State) : (s.emit o).ended = s.ended := rfl
@[simp] theorem State.emit_pub (o : Out) (s : State) : (s.emit o).pub = s.pub := rfl
@[simp] theorem State.emit_cycStart (o : Out) (s : State) : (s.emit o).cycStart = s.cycStart := rfl
@[simp] theorem State.emit_spanSaved (o : Out) (s : State) : (s.emit o).spanSaved = s.spanSaved := rfl
@[simp] theorem State.emit_routes (o : Out) (s : State) : (s.emit o).routes = s.routes := rfl
@[simp] theorem State.emit_running (o : Out) (s : State) : (s.emit o).running = s.running := rfl
@[simp] theorem State.emit_nextJob (o : Out) (s : State) : (s.emit o).nextJob = s.nextJob := rfl
@[simp] theorem State.emit_bits (o : Out) (s : State) : (s.emit o).bits = s.bits := rfl
@[simp] theorem State.emit_binding (o : Out) (s : State) : (s.emit o).binding = s.binding := rfl
@[simp] theorem State.emit_load (o : Out) (s : State) : (s.emit o).load = s.load := rfl
@[simp] theorem State.emit_loadStatus (o : Out) (s : State) : (s.emit o).loadStatus = s.loadStatus := rfl
@[simp] theorem State.emit_loadDetail (o : Out) (s : State) : (s.emit o).loadDetail = s.loadDetail := rfl
@[simp] theorem State.emit_cache (o : Out) (s : State) : (s.emit o).cache = s.cache := rfl
@[simp] theorem State.emit_hot (o : Out) (s : State) : (s.emit o).hot = s.hot := rfl
@[simp] theorem State.emit_staged (o : Out) (s : State) : (s.emit o).staged = s.staged := rfl
@[simp] theorem State.emit_tune (o : Out) (s : State) : (s.emit o).tune = s.tune := rfl
@[simp] theorem State.emit_kv (o : Out) (s : State) : (s.emit o).kv = s.kv := rfl
@[simp] theorem State.emit_kvSaved (o : Out) (s : State) : (s.emit o).kvSaved = s.kvSaved := rfl
@[simp] theorem State.emit_govSaved (o : Out) (s : State) : (s.emit o).govSaved = s.govSaved := rfl
@[simp] theorem State.emit_tickSaved (o : Out) (s : State) : (s.emit o).tickSaved = s.tickSaved := rfl
@[simp] theorem State.emit_tick (o : Out) (s : State) : (s.emit o).tick = s.tick := rfl
@[simp] theorem State.emit_gov (o : Out) (s : State) : (s.emit o).gov = s.gov := rfl
@[simp] theorem State.emit_trs (o : Out) (s : State) : (s.emit o).trs = s.trs := rfl
@[simp] theorem State.emit_mem (o : Out) (s : State) : (s.emit o).mem = s.mem := rfl
@[simp] theorem State.emit_landings (o : Out) (s : State) : (s.emit o).landings = s.landings := rfl
@[simp] theorem State.emit_via (o : Out) (s : State) : (s.emit o).via = s.via := rfl
@[simp] theorem State.emit_flt (o : Out) (s : State) : (s.emit o).flt = s.flt := rfl

@[simp] theorem State.setReg_pending (off : Nat) (v : BitVec 32) (s : State) : (s.setReg off v).pending = s.pending := rfl
@[simp] theorem State.setReg_out (off : Nat) (v : BitVec 32) (s : State) : (s.setReg off v).out = s.out := rfl
@[simp] theorem State.setReg_time (off : Nat) (v : BitVec 32) (s : State) : (s.setReg off v).time = s.time := rfl
@[simp] theorem State.setReg_tbOff (off : Nat) (v : BitVec 32) (s : State) : (s.setReg off v).tbOff = s.tbOff := rfl
@[simp] theorem State.setReg_fresh (off : Nat) (v : BitVec 32) (s : State) : (s.setReg off v).fresh = s.fresh := rfl
@[simp] theorem State.setReg_counters (off : Nat) (v : BitVec 32) (s : State) : (s.setReg off v).counters = s.counters := rfl
@[simp] theorem State.setReg_fuses (off : Nat) (v : BitVec 32) (s : State) : (s.setReg off v).fuses = s.fuses := rfl
@[simp] theorem State.setReg_flash (off : Nat) (v : BitVec 32) (s : State) : (s.setReg off v).flash = s.flash := rfl
@[simp] theorem State.setReg_boot (off : Nat) (v : BitVec 32) (s : State) : (s.setReg off v).boot = s.boot := rfl
@[simp] theorem State.setReg_pwr (off : Nat) (v : BitVec 32) (s : State) : (s.setReg off v).pwr = s.pwr := rfl
@[simp] theorem State.setReg_sb (off : Nat) (v : BitVec 32) (s : State) : (s.setReg off v).sb = s.sb := rfl
@[simp] theorem State.setReg_sec (off : Nat) (v : BitVec 32) (s : State) : (s.setReg off v).sec = s.sec := rfl
@[simp] theorem State.setReg_obs (off : Nat) (v : BitVec 32) (s : State) : (s.setReg off v).obs = s.obs := rfl
@[simp] theorem State.setReg_spanMap (off : Nat) (v : BitVec 32) (s : State) : (s.setReg off v).spanMap = s.spanMap := rfl
@[simp] theorem State.setReg_mapEpoch (off : Nat) (v : BitVec 32) (s : State) : (s.setReg off v).mapEpoch = s.mapEpoch := rfl
@[simp] theorem State.setReg_spans (off : Nat) (v : BitVec 32) (s : State) : (s.setReg off v).spans = s.spans := rfl
@[simp] theorem State.setReg_ports (off : Nat) (v : BitVec 32) (s : State) : (s.setReg off v).ports = s.ports := rfl
@[simp] theorem State.setReg_perstLow (off : Nat) (v : BitVec 32) (s : State) : (s.setReg off v).perstLow = s.perstLow := rfl
@[simp] theorem State.setReg_lanes (off : Nat) (v : BitVec 32) (s : State) : (s.setReg off v).lanes = s.lanes := rfl
@[simp] theorem State.setReg_handles (off : Nat) (v : BitVec 32) (s : State) : (s.setReg off v).handles = s.handles := rfl
@[simp] theorem State.setReg_named (off : Nat) (v : BitVec 32) (s : State) : (s.setReg off v).named = s.named := rfl
@[simp] theorem State.setReg_logs (off : Nat) (v : BitVec 32) (s : State) : (s.setReg off v).logs = s.logs := rfl
@[simp] theorem State.setReg_requests (off : Nat) (v : BitVec 32) (s : State) : (s.setReg off v).requests = s.requests := rfl
@[simp] theorem State.setReg_waiting (off : Nat) (v : BitVec 32) (s : State) : (s.setReg off v).waiting = s.waiting := rfl
@[simp] theorem State.setReg_stamp (off : Nat) (v : BitVec 32) (s : State) : (s.setReg off v).stamp = s.stamp := rfl
@[simp] theorem State.setReg_jobs (off : Nat) (v : BitVec 32) (s : State) : (s.setReg off v).jobs = s.jobs := rfl
@[simp] theorem State.setReg_ended (off : Nat) (v : BitVec 32) (s : State) : (s.setReg off v).ended = s.ended := rfl
@[simp] theorem State.setReg_pub (off : Nat) (v : BitVec 32) (s : State) : (s.setReg off v).pub = s.pub := rfl
@[simp] theorem State.setReg_cycStart (off : Nat) (v : BitVec 32) (s : State) : (s.setReg off v).cycStart = s.cycStart := rfl
@[simp] theorem State.setReg_spanSaved (off : Nat) (v : BitVec 32) (s : State) : (s.setReg off v).spanSaved = s.spanSaved := rfl
@[simp] theorem State.setReg_routes (off : Nat) (v : BitVec 32) (s : State) : (s.setReg off v).routes = s.routes := rfl
@[simp] theorem State.setReg_running (off : Nat) (v : BitVec 32) (s : State) : (s.setReg off v).running = s.running := rfl
@[simp] theorem State.setReg_nextJob (off : Nat) (v : BitVec 32) (s : State) : (s.setReg off v).nextJob = s.nextJob := rfl
@[simp] theorem State.setReg_bits (off : Nat) (v : BitVec 32) (s : State) : (s.setReg off v).bits = s.bits := rfl
@[simp] theorem State.setReg_binding (off : Nat) (v : BitVec 32) (s : State) : (s.setReg off v).binding = s.binding := rfl
@[simp] theorem State.setReg_load (off : Nat) (v : BitVec 32) (s : State) : (s.setReg off v).load = s.load := rfl
@[simp] theorem State.setReg_loadStatus (off : Nat) (v : BitVec 32) (s : State) : (s.setReg off v).loadStatus = s.loadStatus := rfl
@[simp] theorem State.setReg_loadDetail (off : Nat) (v : BitVec 32) (s : State) : (s.setReg off v).loadDetail = s.loadDetail := rfl
@[simp] theorem State.setReg_cache (off : Nat) (v : BitVec 32) (s : State) : (s.setReg off v).cache = s.cache := rfl
@[simp] theorem State.setReg_hot (off : Nat) (v : BitVec 32) (s : State) : (s.setReg off v).hot = s.hot := rfl
@[simp] theorem State.setReg_staged (off : Nat) (v : BitVec 32) (s : State) : (s.setReg off v).staged = s.staged := rfl
@[simp] theorem State.setReg_tune (off : Nat) (v : BitVec 32) (s : State) : (s.setReg off v).tune = s.tune := rfl
@[simp] theorem State.setReg_kv (off : Nat) (v : BitVec 32) (s : State) : (s.setReg off v).kv = s.kv := rfl
@[simp] theorem State.setReg_kvSaved (off : Nat) (v : BitVec 32) (s : State) : (s.setReg off v).kvSaved = s.kvSaved := rfl
@[simp] theorem State.setReg_govSaved (off : Nat) (v : BitVec 32) (s : State) : (s.setReg off v).govSaved = s.govSaved := rfl
@[simp] theorem State.setReg_tickSaved (off : Nat) (v : BitVec 32) (s : State) : (s.setReg off v).tickSaved = s.tickSaved := rfl
@[simp] theorem State.setReg_tick (off : Nat) (v : BitVec 32) (s : State) : (s.setReg off v).tick = s.tick := rfl
@[simp] theorem State.setReg_gov (off : Nat) (v : BitVec 32) (s : State) : (s.setReg off v).gov = s.gov := rfl
@[simp] theorem State.setReg_trs (off : Nat) (v : BitVec 32) (s : State) : (s.setReg off v).trs = s.trs := rfl
@[simp] theorem State.setReg_mem (off : Nat) (v : BitVec 32) (s : State) : (s.setReg off v).mem = s.mem := rfl
@[simp] theorem State.setReg_landings (off : Nat) (v : BitVec 32) (s : State) : (s.setReg off v).landings = s.landings := rfl
@[simp] theorem State.setReg_via (off : Nat) (v : BitVec 32) (s : State) : (s.setReg off v).via = s.via := rfl
@[simp] theorem State.setReg_flt (off : Nat) (v : BitVec 32) (s : State) : (s.setReg off v).flt = s.flt := rfl

@[simp] theorem State.setRegBit_pending (off b : Nat) (v : Bool) (s : State) : (s.setRegBit off b v).pending = s.pending := rfl
@[simp] theorem State.setRegBit_out (off b : Nat) (v : Bool) (s : State) : (s.setRegBit off b v).out = s.out := rfl
@[simp] theorem State.setRegBit_time (off b : Nat) (v : Bool) (s : State) : (s.setRegBit off b v).time = s.time := rfl
@[simp] theorem State.setRegBit_tbOff (off b : Nat) (v : Bool) (s : State) : (s.setRegBit off b v).tbOff = s.tbOff := rfl
@[simp] theorem State.setRegBit_fresh (off b : Nat) (v : Bool) (s : State) : (s.setRegBit off b v).fresh = s.fresh := rfl
@[simp] theorem State.setRegBit_counters (off b : Nat) (v : Bool) (s : State) : (s.setRegBit off b v).counters = s.counters := rfl
@[simp] theorem State.setRegBit_fuses (off b : Nat) (v : Bool) (s : State) : (s.setRegBit off b v).fuses = s.fuses := rfl
@[simp] theorem State.setRegBit_flash (off b : Nat) (v : Bool) (s : State) : (s.setRegBit off b v).flash = s.flash := rfl
@[simp] theorem State.setRegBit_boot (off b : Nat) (v : Bool) (s : State) : (s.setRegBit off b v).boot = s.boot := rfl
@[simp] theorem State.setRegBit_pwr (off b : Nat) (v : Bool) (s : State) : (s.setRegBit off b v).pwr = s.pwr := rfl
@[simp] theorem State.setRegBit_sb (off b : Nat) (v : Bool) (s : State) : (s.setRegBit off b v).sb = s.sb := rfl
@[simp] theorem State.setRegBit_sec (off b : Nat) (v : Bool) (s : State) : (s.setRegBit off b v).sec = s.sec := rfl
@[simp] theorem State.setRegBit_obs (off b : Nat) (v : Bool) (s : State) : (s.setRegBit off b v).obs = s.obs := rfl
@[simp] theorem State.setRegBit_spanMap (off b : Nat) (v : Bool) (s : State) : (s.setRegBit off b v).spanMap = s.spanMap := rfl
@[simp] theorem State.setRegBit_mapEpoch (off b : Nat) (v : Bool) (s : State) : (s.setRegBit off b v).mapEpoch = s.mapEpoch := rfl
@[simp] theorem State.setRegBit_spans (off b : Nat) (v : Bool) (s : State) : (s.setRegBit off b v).spans = s.spans := rfl
@[simp] theorem State.setRegBit_ports (off b : Nat) (v : Bool) (s : State) : (s.setRegBit off b v).ports = s.ports := rfl
@[simp] theorem State.setRegBit_perstLow (off b : Nat) (v : Bool) (s : State) : (s.setRegBit off b v).perstLow = s.perstLow := rfl
@[simp] theorem State.setRegBit_lanes (off b : Nat) (v : Bool) (s : State) : (s.setRegBit off b v).lanes = s.lanes := rfl
@[simp] theorem State.setRegBit_handles (off b : Nat) (v : Bool) (s : State) : (s.setRegBit off b v).handles = s.handles := rfl
@[simp] theorem State.setRegBit_named (off b : Nat) (v : Bool) (s : State) : (s.setRegBit off b v).named = s.named := rfl
@[simp] theorem State.setRegBit_logs (off b : Nat) (v : Bool) (s : State) : (s.setRegBit off b v).logs = s.logs := rfl
@[simp] theorem State.setRegBit_requests (off b : Nat) (v : Bool) (s : State) : (s.setRegBit off b v).requests = s.requests := rfl
@[simp] theorem State.setRegBit_waiting (off b : Nat) (v : Bool) (s : State) : (s.setRegBit off b v).waiting = s.waiting := rfl
@[simp] theorem State.setRegBit_stamp (off b : Nat) (v : Bool) (s : State) : (s.setRegBit off b v).stamp = s.stamp := rfl
@[simp] theorem State.setRegBit_jobs (off b : Nat) (v : Bool) (s : State) : (s.setRegBit off b v).jobs = s.jobs := rfl
@[simp] theorem State.setRegBit_ended (off b : Nat) (v : Bool) (s : State) : (s.setRegBit off b v).ended = s.ended := rfl
@[simp] theorem State.setRegBit_pub (off b : Nat) (v : Bool) (s : State) : (s.setRegBit off b v).pub = s.pub := rfl
@[simp] theorem State.setRegBit_cycStart (off b : Nat) (v : Bool) (s : State) : (s.setRegBit off b v).cycStart = s.cycStart := rfl
@[simp] theorem State.setRegBit_spanSaved (off b : Nat) (v : Bool) (s : State) : (s.setRegBit off b v).spanSaved = s.spanSaved := rfl
@[simp] theorem State.setRegBit_routes (off b : Nat) (v : Bool) (s : State) : (s.setRegBit off b v).routes = s.routes := rfl
@[simp] theorem State.setRegBit_running (off b : Nat) (v : Bool) (s : State) : (s.setRegBit off b v).running = s.running := rfl
@[simp] theorem State.setRegBit_nextJob (off b : Nat) (v : Bool) (s : State) : (s.setRegBit off b v).nextJob = s.nextJob := rfl
@[simp] theorem State.setRegBit_bits (off b : Nat) (v : Bool) (s : State) : (s.setRegBit off b v).bits = s.bits := rfl
@[simp] theorem State.setRegBit_binding (off b : Nat) (v : Bool) (s : State) : (s.setRegBit off b v).binding = s.binding := rfl
@[simp] theorem State.setRegBit_load (off b : Nat) (v : Bool) (s : State) : (s.setRegBit off b v).load = s.load := rfl
@[simp] theorem State.setRegBit_loadStatus (off b : Nat) (v : Bool) (s : State) : (s.setRegBit off b v).loadStatus = s.loadStatus := rfl
@[simp] theorem State.setRegBit_loadDetail (off b : Nat) (v : Bool) (s : State) : (s.setRegBit off b v).loadDetail = s.loadDetail := rfl
@[simp] theorem State.setRegBit_cache (off b : Nat) (v : Bool) (s : State) : (s.setRegBit off b v).cache = s.cache := rfl
@[simp] theorem State.setRegBit_hot (off b : Nat) (v : Bool) (s : State) : (s.setRegBit off b v).hot = s.hot := rfl
@[simp] theorem State.setRegBit_staged (off b : Nat) (v : Bool) (s : State) : (s.setRegBit off b v).staged = s.staged := rfl
@[simp] theorem State.setRegBit_tune (off b : Nat) (v : Bool) (s : State) : (s.setRegBit off b v).tune = s.tune := rfl
@[simp] theorem State.setRegBit_kv (off b : Nat) (v : Bool) (s : State) : (s.setRegBit off b v).kv = s.kv := rfl
@[simp] theorem State.setRegBit_kvSaved (off b : Nat) (v : Bool) (s : State) : (s.setRegBit off b v).kvSaved = s.kvSaved := rfl
@[simp] theorem State.setRegBit_govSaved (off b : Nat) (v : Bool) (s : State) : (s.setRegBit off b v).govSaved = s.govSaved := rfl
@[simp] theorem State.setRegBit_tickSaved (off b : Nat) (v : Bool) (s : State) : (s.setRegBit off b v).tickSaved = s.tickSaved := rfl
@[simp] theorem State.setRegBit_tick (off b : Nat) (v : Bool) (s : State) : (s.setRegBit off b v).tick = s.tick := rfl
@[simp] theorem State.setRegBit_gov (off b : Nat) (v : Bool) (s : State) : (s.setRegBit off b v).gov = s.gov := rfl
@[simp] theorem State.setRegBit_trs (off b : Nat) (v : Bool) (s : State) : (s.setRegBit off b v).trs = s.trs := rfl
@[simp] theorem State.setRegBit_mem (off b : Nat) (v : Bool) (s : State) : (s.setRegBit off b v).mem = s.mem := rfl
@[simp] theorem State.setRegBit_landings (off b : Nat) (v : Bool) (s : State) : (s.setRegBit off b v).landings = s.landings := rfl
@[simp] theorem State.setRegBit_via (off b : Nat) (v : Bool) (s : State) : (s.setRegBit off b v).via = s.via := rfl
@[simp] theorem State.setRegBit_flt (off b : Nat) (v : Bool) (s : State) : (s.setRegBit off b v).flt = s.flt := rfl

@[simp] theorem State.inc_pending (off n : Nat) (s : State) : (s.inc off n).pending = s.pending := by unfold State.inc; split <;> rfl
@[simp] theorem State.inc_out (off n : Nat) (s : State) : (s.inc off n).out = s.out := by unfold State.inc; split <;> rfl
@[simp] theorem State.inc_time (off n : Nat) (s : State) : (s.inc off n).time = s.time := by unfold State.inc; split <;> rfl
@[simp] theorem State.inc_tbOff (off n : Nat) (s : State) : (s.inc off n).tbOff = s.tbOff := by unfold State.inc; split <;> rfl
@[simp] theorem State.inc_fresh (off n : Nat) (s : State) : (s.inc off n).fresh = s.fresh := by unfold State.inc; split <;> rfl
@[simp] theorem State.inc_regs (off n : Nat) (s : State) : (s.inc off n).regs = s.regs := by unfold State.inc; split <;> rfl
@[simp] theorem State.inc_fuses (off n : Nat) (s : State) : (s.inc off n).fuses = s.fuses := by unfold State.inc; split <;> rfl
@[simp] theorem State.inc_flash (off n : Nat) (s : State) : (s.inc off n).flash = s.flash := by unfold State.inc; split <;> rfl
@[simp] theorem State.inc_boot (off n : Nat) (s : State) : (s.inc off n).boot = s.boot := by unfold State.inc; split <;> rfl
@[simp] theorem State.inc_pwr (off n : Nat) (s : State) : (s.inc off n).pwr = s.pwr := by unfold State.inc; split <;> rfl
@[simp] theorem State.inc_sb (off n : Nat) (s : State) : (s.inc off n).sb = s.sb := by unfold State.inc; split <;> rfl
@[simp] theorem State.inc_sec (off n : Nat) (s : State) : (s.inc off n).sec = s.sec := by unfold State.inc; split <;> rfl
@[simp] theorem State.inc_obs (off n : Nat) (s : State) : (s.inc off n).obs = s.obs := by unfold State.inc; split <;> rfl
@[simp] theorem State.inc_spanMap (off n : Nat) (s : State) : (s.inc off n).spanMap = s.spanMap := by unfold State.inc; split <;> rfl
@[simp] theorem State.inc_mapEpoch (off n : Nat) (s : State) : (s.inc off n).mapEpoch = s.mapEpoch := by unfold State.inc; split <;> rfl
@[simp] theorem State.inc_spans (off n : Nat) (s : State) : (s.inc off n).spans = s.spans := by unfold State.inc; split <;> rfl
@[simp] theorem State.inc_ports (off n : Nat) (s : State) : (s.inc off n).ports = s.ports := by unfold State.inc; split <;> rfl
@[simp] theorem State.inc_perstLow (off n : Nat) (s : State) : (s.inc off n).perstLow = s.perstLow := by unfold State.inc; split <;> rfl
@[simp] theorem State.inc_lanes (off n : Nat) (s : State) : (s.inc off n).lanes = s.lanes := by unfold State.inc; split <;> rfl
@[simp] theorem State.inc_handles (off n : Nat) (s : State) : (s.inc off n).handles = s.handles := by unfold State.inc; split <;> rfl
@[simp] theorem State.inc_named (off n : Nat) (s : State) : (s.inc off n).named = s.named := by unfold State.inc; split <;> rfl
@[simp] theorem State.inc_logs (off n : Nat) (s : State) : (s.inc off n).logs = s.logs := by unfold State.inc; split <;> rfl
@[simp] theorem State.inc_requests (off n : Nat) (s : State) : (s.inc off n).requests = s.requests := by unfold State.inc; split <;> rfl
@[simp] theorem State.inc_waiting (off n : Nat) (s : State) : (s.inc off n).waiting = s.waiting := by unfold State.inc; split <;> rfl
@[simp] theorem State.inc_stamp (off n : Nat) (s : State) : (s.inc off n).stamp = s.stamp := by unfold State.inc; split <;> rfl
@[simp] theorem State.inc_jobs (off n : Nat) (s : State) : (s.inc off n).jobs = s.jobs := by unfold State.inc; split <;> rfl
@[simp] theorem State.inc_ended (off n : Nat) (s : State) : (s.inc off n).ended = s.ended := by unfold State.inc; split <;> rfl
@[simp] theorem State.inc_pub (off n : Nat) (s : State) : (s.inc off n).pub = s.pub := by unfold State.inc; split <;> rfl
@[simp] theorem State.inc_cycStart (off n : Nat) (s : State) : (s.inc off n).cycStart = s.cycStart := by unfold State.inc; split <;> rfl
@[simp] theorem State.inc_spanSaved (off n : Nat) (s : State) : (s.inc off n).spanSaved = s.spanSaved := by unfold State.inc; split <;> rfl
@[simp] theorem State.inc_routes (off n : Nat) (s : State) : (s.inc off n).routes = s.routes := by unfold State.inc; split <;> rfl
@[simp] theorem State.inc_running (off n : Nat) (s : State) : (s.inc off n).running = s.running := by unfold State.inc; split <;> rfl
@[simp] theorem State.inc_nextJob (off n : Nat) (s : State) : (s.inc off n).nextJob = s.nextJob := by unfold State.inc; split <;> rfl
@[simp] theorem State.inc_bits (off n : Nat) (s : State) : (s.inc off n).bits = s.bits := by unfold State.inc; split <;> rfl
@[simp] theorem State.inc_binding (off n : Nat) (s : State) : (s.inc off n).binding = s.binding := by unfold State.inc; split <;> rfl
@[simp] theorem State.inc_load (off n : Nat) (s : State) : (s.inc off n).load = s.load := by unfold State.inc; split <;> rfl
@[simp] theorem State.inc_loadStatus (off n : Nat) (s : State) : (s.inc off n).loadStatus = s.loadStatus := by unfold State.inc; split <;> rfl
@[simp] theorem State.inc_loadDetail (off n : Nat) (s : State) : (s.inc off n).loadDetail = s.loadDetail := by unfold State.inc; split <;> rfl
@[simp] theorem State.inc_cache (off n : Nat) (s : State) : (s.inc off n).cache = s.cache := by unfold State.inc; split <;> rfl
@[simp] theorem State.inc_hot (off n : Nat) (s : State) : (s.inc off n).hot = s.hot := by unfold State.inc; split <;> rfl
@[simp] theorem State.inc_staged (off n : Nat) (s : State) : (s.inc off n).staged = s.staged := by unfold State.inc; split <;> rfl
@[simp] theorem State.inc_tune (off n : Nat) (s : State) : (s.inc off n).tune = s.tune := by unfold State.inc; split <;> rfl
@[simp] theorem State.inc_kv (off n : Nat) (s : State) : (s.inc off n).kv = s.kv := by unfold State.inc; split <;> rfl
@[simp] theorem State.inc_kvSaved (off n : Nat) (s : State) : (s.inc off n).kvSaved = s.kvSaved := by unfold State.inc; split <;> rfl
@[simp] theorem State.inc_govSaved (off n : Nat) (s : State) : (s.inc off n).govSaved = s.govSaved := by unfold State.inc; split <;> rfl
@[simp] theorem State.inc_tickSaved (off n : Nat) (s : State) : (s.inc off n).tickSaved = s.tickSaved := by unfold State.inc; split <;> rfl
@[simp] theorem State.inc_tick (off n : Nat) (s : State) : (s.inc off n).tick = s.tick := by unfold State.inc; split <;> rfl
@[simp] theorem State.inc_gov (off n : Nat) (s : State) : (s.inc off n).gov = s.gov := by unfold State.inc; split <;> rfl
@[simp] theorem State.inc_trs (off n : Nat) (s : State) : (s.inc off n).trs = s.trs := by unfold State.inc; split <;> rfl
@[simp] theorem State.inc_mem (off n : Nat) (s : State) : (s.inc off n).mem = s.mem := by unfold State.inc; split <;> rfl
@[simp] theorem State.inc_landings (off n : Nat) (s : State) : (s.inc off n).landings = s.landings := by unfold State.inc; split <;> rfl
@[simp] theorem State.inc_via (off n : Nat) (s : State) : (s.inc off n).via = s.via := by unfold State.inc; split <;> rfl
@[simp] theorem State.inc_flt (off n : Nat) (s : State) : (s.inc off n).flt = s.flt := by unfold State.inc; split <;> rfl

@[simp] theorem State.incBytes_pending (off n : Nat) (s : State) : (s.incBytes off n).pending = s.pending := by unfold State.incBytes; split <;> rfl
@[simp] theorem State.incBytes_out (off n : Nat) (s : State) : (s.incBytes off n).out = s.out := by unfold State.incBytes; split <;> rfl
@[simp] theorem State.incBytes_time (off n : Nat) (s : State) : (s.incBytes off n).time = s.time := by unfold State.incBytes; split <;> rfl
@[simp] theorem State.incBytes_tbOff (off n : Nat) (s : State) : (s.incBytes off n).tbOff = s.tbOff := by unfold State.incBytes; split <;> rfl
@[simp] theorem State.incBytes_fresh (off n : Nat) (s : State) : (s.incBytes off n).fresh = s.fresh := by unfold State.incBytes; split <;> rfl
@[simp] theorem State.incBytes_regs (off n : Nat) (s : State) : (s.incBytes off n).regs = s.regs := by unfold State.incBytes; split <;> rfl
@[simp] theorem State.incBytes_fuses (off n : Nat) (s : State) : (s.incBytes off n).fuses = s.fuses := by unfold State.incBytes; split <;> rfl
@[simp] theorem State.incBytes_flash (off n : Nat) (s : State) : (s.incBytes off n).flash = s.flash := by unfold State.incBytes; split <;> rfl
@[simp] theorem State.incBytes_boot (off n : Nat) (s : State) : (s.incBytes off n).boot = s.boot := by unfold State.incBytes; split <;> rfl
@[simp] theorem State.incBytes_pwr (off n : Nat) (s : State) : (s.incBytes off n).pwr = s.pwr := by unfold State.incBytes; split <;> rfl
@[simp] theorem State.incBytes_sb (off n : Nat) (s : State) : (s.incBytes off n).sb = s.sb := by unfold State.incBytes; split <;> rfl
@[simp] theorem State.incBytes_sec (off n : Nat) (s : State) : (s.incBytes off n).sec = s.sec := by unfold State.incBytes; split <;> rfl
@[simp] theorem State.incBytes_obs (off n : Nat) (s : State) : (s.incBytes off n).obs = s.obs := by unfold State.incBytes; split <;> rfl
@[simp] theorem State.incBytes_spanMap (off n : Nat) (s : State) : (s.incBytes off n).spanMap = s.spanMap := by unfold State.incBytes; split <;> rfl
@[simp] theorem State.incBytes_mapEpoch (off n : Nat) (s : State) : (s.incBytes off n).mapEpoch = s.mapEpoch := by unfold State.incBytes; split <;> rfl
@[simp] theorem State.incBytes_spans (off n : Nat) (s : State) : (s.incBytes off n).spans = s.spans := by unfold State.incBytes; split <;> rfl
@[simp] theorem State.incBytes_ports (off n : Nat) (s : State) : (s.incBytes off n).ports = s.ports := by unfold State.incBytes; split <;> rfl
@[simp] theorem State.incBytes_perstLow (off n : Nat) (s : State) : (s.incBytes off n).perstLow = s.perstLow := by unfold State.incBytes; split <;> rfl
@[simp] theorem State.incBytes_lanes (off n : Nat) (s : State) : (s.incBytes off n).lanes = s.lanes := by unfold State.incBytes; split <;> rfl
@[simp] theorem State.incBytes_handles (off n : Nat) (s : State) : (s.incBytes off n).handles = s.handles := by unfold State.incBytes; split <;> rfl
@[simp] theorem State.incBytes_named (off n : Nat) (s : State) : (s.incBytes off n).named = s.named := by unfold State.incBytes; split <;> rfl
@[simp] theorem State.incBytes_logs (off n : Nat) (s : State) : (s.incBytes off n).logs = s.logs := by unfold State.incBytes; split <;> rfl
@[simp] theorem State.incBytes_requests (off n : Nat) (s : State) : (s.incBytes off n).requests = s.requests := by unfold State.incBytes; split <;> rfl
@[simp] theorem State.incBytes_waiting (off n : Nat) (s : State) : (s.incBytes off n).waiting = s.waiting := by unfold State.incBytes; split <;> rfl
@[simp] theorem State.incBytes_stamp (off n : Nat) (s : State) : (s.incBytes off n).stamp = s.stamp := by unfold State.incBytes; split <;> rfl
@[simp] theorem State.incBytes_jobs (off n : Nat) (s : State) : (s.incBytes off n).jobs = s.jobs := by unfold State.incBytes; split <;> rfl
@[simp] theorem State.incBytes_ended (off n : Nat) (s : State) : (s.incBytes off n).ended = s.ended := by unfold State.incBytes; split <;> rfl
@[simp] theorem State.incBytes_pub (off n : Nat) (s : State) : (s.incBytes off n).pub = s.pub := by unfold State.incBytes; split <;> rfl
@[simp] theorem State.incBytes_cycStart (off n : Nat) (s : State) : (s.incBytes off n).cycStart = s.cycStart := by unfold State.incBytes; split <;> rfl
@[simp] theorem State.incBytes_spanSaved (off n : Nat) (s : State) : (s.incBytes off n).spanSaved = s.spanSaved := by unfold State.incBytes; split <;> rfl
@[simp] theorem State.incBytes_routes (off n : Nat) (s : State) : (s.incBytes off n).routes = s.routes := by unfold State.incBytes; split <;> rfl
@[simp] theorem State.incBytes_running (off n : Nat) (s : State) : (s.incBytes off n).running = s.running := by unfold State.incBytes; split <;> rfl
@[simp] theorem State.incBytes_nextJob (off n : Nat) (s : State) : (s.incBytes off n).nextJob = s.nextJob := by unfold State.incBytes; split <;> rfl
@[simp] theorem State.incBytes_bits (off n : Nat) (s : State) : (s.incBytes off n).bits = s.bits := by unfold State.incBytes; split <;> rfl
@[simp] theorem State.incBytes_binding (off n : Nat) (s : State) : (s.incBytes off n).binding = s.binding := by unfold State.incBytes; split <;> rfl
@[simp] theorem State.incBytes_load (off n : Nat) (s : State) : (s.incBytes off n).load = s.load := by unfold State.incBytes; split <;> rfl
@[simp] theorem State.incBytes_loadStatus (off n : Nat) (s : State) : (s.incBytes off n).loadStatus = s.loadStatus := by unfold State.incBytes; split <;> rfl
@[simp] theorem State.incBytes_loadDetail (off n : Nat) (s : State) : (s.incBytes off n).loadDetail = s.loadDetail := by unfold State.incBytes; split <;> rfl
@[simp] theorem State.incBytes_cache (off n : Nat) (s : State) : (s.incBytes off n).cache = s.cache := by unfold State.incBytes; split <;> rfl
@[simp] theorem State.incBytes_hot (off n : Nat) (s : State) : (s.incBytes off n).hot = s.hot := by unfold State.incBytes; split <;> rfl
@[simp] theorem State.incBytes_staged (off n : Nat) (s : State) : (s.incBytes off n).staged = s.staged := by unfold State.incBytes; split <;> rfl
@[simp] theorem State.incBytes_tune (off n : Nat) (s : State) : (s.incBytes off n).tune = s.tune := by unfold State.incBytes; split <;> rfl
@[simp] theorem State.incBytes_kv (off n : Nat) (s : State) : (s.incBytes off n).kv = s.kv := by unfold State.incBytes; split <;> rfl
@[simp] theorem State.incBytes_kvSaved (off n : Nat) (s : State) : (s.incBytes off n).kvSaved = s.kvSaved := by unfold State.incBytes; split <;> rfl
@[simp] theorem State.incBytes_govSaved (off n : Nat) (s : State) : (s.incBytes off n).govSaved = s.govSaved := by unfold State.incBytes; split <;> rfl
@[simp] theorem State.incBytes_tickSaved (off n : Nat) (s : State) : (s.incBytes off n).tickSaved = s.tickSaved := by unfold State.incBytes; split <;> rfl
@[simp] theorem State.incBytes_tick (off n : Nat) (s : State) : (s.incBytes off n).tick = s.tick := by unfold State.incBytes; split <;> rfl
@[simp] theorem State.incBytes_gov (off n : Nat) (s : State) : (s.incBytes off n).gov = s.gov := by unfold State.incBytes; split <;> rfl
@[simp] theorem State.incBytes_trs (off n : Nat) (s : State) : (s.incBytes off n).trs = s.trs := by unfold State.incBytes; split <;> rfl
@[simp] theorem State.incBytes_mem (off n : Nat) (s : State) : (s.incBytes off n).mem = s.mem := by unfold State.incBytes; split <;> rfl
@[simp] theorem State.incBytes_landings (off n : Nat) (s : State) : (s.incBytes off n).landings = s.landings := by unfold State.incBytes; split <;> rfl
@[simp] theorem State.incBytes_via (off n : Nat) (s : State) : (s.incBytes off n).via = s.via := by unfold State.incBytes; split <;> rfl
@[simp] theorem State.incBytes_flt (off n : Nat) (s : State) : (s.incBytes off n).flt = s.flt := by unfold State.incBytes; split <;> rfl

@[simp] theorem State.winAdd_pending (p i n : Nat) (s : State) : (s.winAdd p i n).pending = s.pending := by unfold State.winAdd; split <;> rfl
@[simp] theorem State.winAdd_out (p i n : Nat) (s : State) : (s.winAdd p i n).out = s.out := by unfold State.winAdd; split <;> rfl
@[simp] theorem State.winAdd_time (p i n : Nat) (s : State) : (s.winAdd p i n).time = s.time := by unfold State.winAdd; split <;> rfl
@[simp] theorem State.winAdd_tbOff (p i n : Nat) (s : State) : (s.winAdd p i n).tbOff = s.tbOff := by unfold State.winAdd; split <;> rfl
@[simp] theorem State.winAdd_fresh (p i n : Nat) (s : State) : (s.winAdd p i n).fresh = s.fresh := by unfold State.winAdd; split <;> rfl
@[simp] theorem State.winAdd_regs (p i n : Nat) (s : State) : (s.winAdd p i n).regs = s.regs := by unfold State.winAdd; split <;> rfl
@[simp] theorem State.winAdd_counters (p i n : Nat) (s : State) : (s.winAdd p i n).counters = s.counters := by unfold State.winAdd; split <;> rfl
@[simp] theorem State.winAdd_fuses (p i n : Nat) (s : State) : (s.winAdd p i n).fuses = s.fuses := by unfold State.winAdd; split <;> rfl
@[simp] theorem State.winAdd_flash (p i n : Nat) (s : State) : (s.winAdd p i n).flash = s.flash := by unfold State.winAdd; split <;> rfl
@[simp] theorem State.winAdd_boot (p i n : Nat) (s : State) : (s.winAdd p i n).boot = s.boot := by unfold State.winAdd; split <;> rfl
@[simp] theorem State.winAdd_pwr (p i n : Nat) (s : State) : (s.winAdd p i n).pwr = s.pwr := by unfold State.winAdd; split <;> rfl
@[simp] theorem State.winAdd_sb (p i n : Nat) (s : State) : (s.winAdd p i n).sb = s.sb := by unfold State.winAdd; split <;> rfl
@[simp] theorem State.winAdd_sec (p i n : Nat) (s : State) : (s.winAdd p i n).sec = s.sec := by unfold State.winAdd; split <;> rfl
@[simp] theorem State.winAdd_spanMap (p i n : Nat) (s : State) : (s.winAdd p i n).spanMap = s.spanMap := by unfold State.winAdd; split <;> rfl
@[simp] theorem State.winAdd_mapEpoch (p i n : Nat) (s : State) : (s.winAdd p i n).mapEpoch = s.mapEpoch := by unfold State.winAdd; split <;> rfl
@[simp] theorem State.winAdd_spans (p i n : Nat) (s : State) : (s.winAdd p i n).spans = s.spans := by unfold State.winAdd; split <;> rfl
@[simp] theorem State.winAdd_ports (p i n : Nat) (s : State) : (s.winAdd p i n).ports = s.ports := by unfold State.winAdd; split <;> rfl
@[simp] theorem State.winAdd_perstLow (p i n : Nat) (s : State) : (s.winAdd p i n).perstLow = s.perstLow := by unfold State.winAdd; split <;> rfl
@[simp] theorem State.winAdd_lanes (p i n : Nat) (s : State) : (s.winAdd p i n).lanes = s.lanes := by unfold State.winAdd; split <;> rfl
@[simp] theorem State.winAdd_handles (p i n : Nat) (s : State) : (s.winAdd p i n).handles = s.handles := by unfold State.winAdd; split <;> rfl
@[simp] theorem State.winAdd_named (p i n : Nat) (s : State) : (s.winAdd p i n).named = s.named := by unfold State.winAdd; split <;> rfl
@[simp] theorem State.winAdd_logs (p i n : Nat) (s : State) : (s.winAdd p i n).logs = s.logs := by unfold State.winAdd; split <;> rfl
@[simp] theorem State.winAdd_requests (p i n : Nat) (s : State) : (s.winAdd p i n).requests = s.requests := by unfold State.winAdd; split <;> rfl
@[simp] theorem State.winAdd_waiting (p i n : Nat) (s : State) : (s.winAdd p i n).waiting = s.waiting := by unfold State.winAdd; split <;> rfl
@[simp] theorem State.winAdd_stamp (p i n : Nat) (s : State) : (s.winAdd p i n).stamp = s.stamp := by unfold State.winAdd; split <;> rfl
@[simp] theorem State.winAdd_jobs (p i n : Nat) (s : State) : (s.winAdd p i n).jobs = s.jobs := by unfold State.winAdd; split <;> rfl
@[simp] theorem State.winAdd_ended (p i n : Nat) (s : State) : (s.winAdd p i n).ended = s.ended := by unfold State.winAdd; split <;> rfl
@[simp] theorem State.winAdd_pub (p i n : Nat) (s : State) : (s.winAdd p i n).pub = s.pub := by unfold State.winAdd; split <;> rfl
@[simp] theorem State.winAdd_cycStart (p i n : Nat) (s : State) : (s.winAdd p i n).cycStart = s.cycStart := by unfold State.winAdd; split <;> rfl
@[simp] theorem State.winAdd_spanSaved (p i n : Nat) (s : State) : (s.winAdd p i n).spanSaved = s.spanSaved := by unfold State.winAdd; split <;> rfl
@[simp] theorem State.winAdd_routes (p i n : Nat) (s : State) : (s.winAdd p i n).routes = s.routes := by unfold State.winAdd; split <;> rfl
@[simp] theorem State.winAdd_running (p i n : Nat) (s : State) : (s.winAdd p i n).running = s.running := by unfold State.winAdd; split <;> rfl
@[simp] theorem State.winAdd_nextJob (p i n : Nat) (s : State) : (s.winAdd p i n).nextJob = s.nextJob := by unfold State.winAdd; split <;> rfl
@[simp] theorem State.winAdd_bits (p i n : Nat) (s : State) : (s.winAdd p i n).bits = s.bits := by unfold State.winAdd; split <;> rfl
@[simp] theorem State.winAdd_binding (p i n : Nat) (s : State) : (s.winAdd p i n).binding = s.binding := by unfold State.winAdd; split <;> rfl
@[simp] theorem State.winAdd_load (p i n : Nat) (s : State) : (s.winAdd p i n).load = s.load := by unfold State.winAdd; split <;> rfl
@[simp] theorem State.winAdd_loadStatus (p i n : Nat) (s : State) : (s.winAdd p i n).loadStatus = s.loadStatus := by unfold State.winAdd; split <;> rfl
@[simp] theorem State.winAdd_loadDetail (p i n : Nat) (s : State) : (s.winAdd p i n).loadDetail = s.loadDetail := by unfold State.winAdd; split <;> rfl
@[simp] theorem State.winAdd_cache (p i n : Nat) (s : State) : (s.winAdd p i n).cache = s.cache := by unfold State.winAdd; split <;> rfl
@[simp] theorem State.winAdd_hot (p i n : Nat) (s : State) : (s.winAdd p i n).hot = s.hot := by unfold State.winAdd; split <;> rfl
@[simp] theorem State.winAdd_staged (p i n : Nat) (s : State) : (s.winAdd p i n).staged = s.staged := by unfold State.winAdd; split <;> rfl
@[simp] theorem State.winAdd_tune (p i n : Nat) (s : State) : (s.winAdd p i n).tune = s.tune := by unfold State.winAdd; split <;> rfl
@[simp] theorem State.winAdd_kv (p i n : Nat) (s : State) : (s.winAdd p i n).kv = s.kv := by unfold State.winAdd; split <;> rfl
@[simp] theorem State.winAdd_kvSaved (p i n : Nat) (s : State) : (s.winAdd p i n).kvSaved = s.kvSaved := by unfold State.winAdd; split <;> rfl
@[simp] theorem State.winAdd_govSaved (p i n : Nat) (s : State) : (s.winAdd p i n).govSaved = s.govSaved := by unfold State.winAdd; split <;> rfl
@[simp] theorem State.winAdd_tickSaved (p i n : Nat) (s : State) : (s.winAdd p i n).tickSaved = s.tickSaved := by unfold State.winAdd; split <;> rfl
@[simp] theorem State.winAdd_tick (p i n : Nat) (s : State) : (s.winAdd p i n).tick = s.tick := by unfold State.winAdd; split <;> rfl
@[simp] theorem State.winAdd_gov (p i n : Nat) (s : State) : (s.winAdd p i n).gov = s.gov := by unfold State.winAdd; split <;> rfl
@[simp] theorem State.winAdd_trs (p i n : Nat) (s : State) : (s.winAdd p i n).trs = s.trs := by unfold State.winAdd; split <;> rfl
@[simp] theorem State.winAdd_mem (p i n : Nat) (s : State) : (s.winAdd p i n).mem = s.mem := by unfold State.winAdd; split <;> rfl
@[simp] theorem State.winAdd_landings (p i n : Nat) (s : State) : (s.winAdd p i n).landings = s.landings := by unfold State.winAdd; split <;> rfl
@[simp] theorem State.winAdd_via (p i n : Nat) (s : State) : (s.winAdd p i n).via = s.via := by unfold State.winAdd; split <;> rfl
@[simp] theorem State.winAdd_flt (p i n : Nat) (s : State) : (s.winAdd p i n).flt = s.flt := by unfold State.winAdd; split <;> rfl

@[simp] theorem State.setSpan_pending (p : Nat) (x : Span) (s : State) : (s.setSpan p x).pending = s.pending := rfl
@[simp] theorem State.setSpan_out (p : Nat) (x : Span) (s : State) : (s.setSpan p x).out = s.out := rfl
@[simp] theorem State.setSpan_time (p : Nat) (x : Span) (s : State) : (s.setSpan p x).time = s.time := rfl
@[simp] theorem State.setSpan_tbOff (p : Nat) (x : Span) (s : State) : (s.setSpan p x).tbOff = s.tbOff := rfl
@[simp] theorem State.setSpan_fresh (p : Nat) (x : Span) (s : State) : (s.setSpan p x).fresh = s.fresh := rfl
@[simp] theorem State.setSpan_regs (p : Nat) (x : Span) (s : State) : (s.setSpan p x).regs = s.regs := rfl
@[simp] theorem State.setSpan_counters (p : Nat) (x : Span) (s : State) : (s.setSpan p x).counters = s.counters := rfl
@[simp] theorem State.setSpan_fuses (p : Nat) (x : Span) (s : State) : (s.setSpan p x).fuses = s.fuses := rfl
@[simp] theorem State.setSpan_flash (p : Nat) (x : Span) (s : State) : (s.setSpan p x).flash = s.flash := rfl
@[simp] theorem State.setSpan_boot (p : Nat) (x : Span) (s : State) : (s.setSpan p x).boot = s.boot := rfl
@[simp] theorem State.setSpan_pwr (p : Nat) (x : Span) (s : State) : (s.setSpan p x).pwr = s.pwr := rfl
@[simp] theorem State.setSpan_sb (p : Nat) (x : Span) (s : State) : (s.setSpan p x).sb = s.sb := rfl
@[simp] theorem State.setSpan_sec (p : Nat) (x : Span) (s : State) : (s.setSpan p x).sec = s.sec := rfl
@[simp] theorem State.setSpan_obs (p : Nat) (x : Span) (s : State) : (s.setSpan p x).obs = s.obs := rfl
@[simp] theorem State.setSpan_spanMap (p : Nat) (x : Span) (s : State) : (s.setSpan p x).spanMap = s.spanMap := rfl
@[simp] theorem State.setSpan_mapEpoch (p : Nat) (x : Span) (s : State) : (s.setSpan p x).mapEpoch = s.mapEpoch := rfl
@[simp] theorem State.setSpan_ports (p : Nat) (x : Span) (s : State) : (s.setSpan p x).ports = s.ports := rfl
@[simp] theorem State.setSpan_perstLow (p : Nat) (x : Span) (s : State) : (s.setSpan p x).perstLow = s.perstLow := rfl
@[simp] theorem State.setSpan_lanes (p : Nat) (x : Span) (s : State) : (s.setSpan p x).lanes = s.lanes := rfl
@[simp] theorem State.setSpan_handles (p : Nat) (x : Span) (s : State) : (s.setSpan p x).handles = s.handles := rfl
@[simp] theorem State.setSpan_named (p : Nat) (x : Span) (s : State) : (s.setSpan p x).named = s.named := rfl
@[simp] theorem State.setSpan_logs (p : Nat) (x : Span) (s : State) : (s.setSpan p x).logs = s.logs := rfl
@[simp] theorem State.setSpan_requests (p : Nat) (x : Span) (s : State) : (s.setSpan p x).requests = s.requests := rfl
@[simp] theorem State.setSpan_waiting (p : Nat) (x : Span) (s : State) : (s.setSpan p x).waiting = s.waiting := rfl
@[simp] theorem State.setSpan_stamp (p : Nat) (x : Span) (s : State) : (s.setSpan p x).stamp = s.stamp := rfl
@[simp] theorem State.setSpan_jobs (p : Nat) (x : Span) (s : State) : (s.setSpan p x).jobs = s.jobs := rfl
@[simp] theorem State.setSpan_ended (p : Nat) (x : Span) (s : State) : (s.setSpan p x).ended = s.ended := rfl
@[simp] theorem State.setSpan_pub (p : Nat) (x : Span) (s : State) : (s.setSpan p x).pub = s.pub := rfl
@[simp] theorem State.setSpan_cycStart (p : Nat) (x : Span) (s : State) : (s.setSpan p x).cycStart = s.cycStart := rfl
@[simp] theorem State.setSpan_spanSaved (p : Nat) (x : Span) (s : State) : (s.setSpan p x).spanSaved = s.spanSaved := rfl
@[simp] theorem State.setSpan_routes (p : Nat) (x : Span) (s : State) : (s.setSpan p x).routes = s.routes := rfl
@[simp] theorem State.setSpan_running (p : Nat) (x : Span) (s : State) : (s.setSpan p x).running = s.running := rfl
@[simp] theorem State.setSpan_nextJob (p : Nat) (x : Span) (s : State) : (s.setSpan p x).nextJob = s.nextJob := rfl
@[simp] theorem State.setSpan_bits (p : Nat) (x : Span) (s : State) : (s.setSpan p x).bits = s.bits := rfl
@[simp] theorem State.setSpan_binding (p : Nat) (x : Span) (s : State) : (s.setSpan p x).binding = s.binding := rfl
@[simp] theorem State.setSpan_load (p : Nat) (x : Span) (s : State) : (s.setSpan p x).load = s.load := rfl
@[simp] theorem State.setSpan_loadStatus (p : Nat) (x : Span) (s : State) : (s.setSpan p x).loadStatus = s.loadStatus := rfl
@[simp] theorem State.setSpan_loadDetail (p : Nat) (x : Span) (s : State) : (s.setSpan p x).loadDetail = s.loadDetail := rfl
@[simp] theorem State.setSpan_cache (p : Nat) (x : Span) (s : State) : (s.setSpan p x).cache = s.cache := rfl
@[simp] theorem State.setSpan_hot (p : Nat) (x : Span) (s : State) : (s.setSpan p x).hot = s.hot := rfl
@[simp] theorem State.setSpan_staged (p : Nat) (x : Span) (s : State) : (s.setSpan p x).staged = s.staged := rfl
@[simp] theorem State.setSpan_tune (p : Nat) (x : Span) (s : State) : (s.setSpan p x).tune = s.tune := rfl
@[simp] theorem State.setSpan_kv (p : Nat) (x : Span) (s : State) : (s.setSpan p x).kv = s.kv := rfl
@[simp] theorem State.setSpan_kvSaved (p : Nat) (x : Span) (s : State) : (s.setSpan p x).kvSaved = s.kvSaved := rfl
@[simp] theorem State.setSpan_govSaved (p : Nat) (x : Span) (s : State) : (s.setSpan p x).govSaved = s.govSaved := rfl
@[simp] theorem State.setSpan_tickSaved (p : Nat) (x : Span) (s : State) : (s.setSpan p x).tickSaved = s.tickSaved := rfl
@[simp] theorem State.setSpan_tick (p : Nat) (x : Span) (s : State) : (s.setSpan p x).tick = s.tick := rfl
@[simp] theorem State.setSpan_gov (p : Nat) (x : Span) (s : State) : (s.setSpan p x).gov = s.gov := rfl
@[simp] theorem State.setSpan_trs (p : Nat) (x : Span) (s : State) : (s.setSpan p x).trs = s.trs := rfl
@[simp] theorem State.setSpan_mem (p : Nat) (x : Span) (s : State) : (s.setSpan p x).mem = s.mem := rfl
@[simp] theorem State.setSpan_landings (p : Nat) (x : Span) (s : State) : (s.setSpan p x).landings = s.landings := rfl
@[simp] theorem State.setSpan_via (p : Nat) (x : Span) (s : State) : (s.setSpan p x).via = s.via := rfl
@[simp] theorem State.setSpan_flt (p : Nat) (x : Span) (s : State) : (s.setSpan p x).flt = s.flt := rfl

@[simp] theorem State.modSpan_pending (p : Nat) (f : Span → Span) (s : State) : (s.modSpan p f).pending = s.pending := rfl
@[simp] theorem State.modSpan_out (p : Nat) (f : Span → Span) (s : State) : (s.modSpan p f).out = s.out := rfl
@[simp] theorem State.modSpan_time (p : Nat) (f : Span → Span) (s : State) : (s.modSpan p f).time = s.time := rfl
@[simp] theorem State.modSpan_tbOff (p : Nat) (f : Span → Span) (s : State) : (s.modSpan p f).tbOff = s.tbOff := rfl
@[simp] theorem State.modSpan_fresh (p : Nat) (f : Span → Span) (s : State) : (s.modSpan p f).fresh = s.fresh := rfl
@[simp] theorem State.modSpan_regs (p : Nat) (f : Span → Span) (s : State) : (s.modSpan p f).regs = s.regs := rfl
@[simp] theorem State.modSpan_counters (p : Nat) (f : Span → Span) (s : State) : (s.modSpan p f).counters = s.counters := rfl
@[simp] theorem State.modSpan_fuses (p : Nat) (f : Span → Span) (s : State) : (s.modSpan p f).fuses = s.fuses := rfl
@[simp] theorem State.modSpan_flash (p : Nat) (f : Span → Span) (s : State) : (s.modSpan p f).flash = s.flash := rfl
@[simp] theorem State.modSpan_boot (p : Nat) (f : Span → Span) (s : State) : (s.modSpan p f).boot = s.boot := rfl
@[simp] theorem State.modSpan_pwr (p : Nat) (f : Span → Span) (s : State) : (s.modSpan p f).pwr = s.pwr := rfl
@[simp] theorem State.modSpan_sb (p : Nat) (f : Span → Span) (s : State) : (s.modSpan p f).sb = s.sb := rfl
@[simp] theorem State.modSpan_sec (p : Nat) (f : Span → Span) (s : State) : (s.modSpan p f).sec = s.sec := rfl
@[simp] theorem State.modSpan_obs (p : Nat) (f : Span → Span) (s : State) : (s.modSpan p f).obs = s.obs := rfl
@[simp] theorem State.modSpan_spanMap (p : Nat) (f : Span → Span) (s : State) : (s.modSpan p f).spanMap = s.spanMap := rfl
@[simp] theorem State.modSpan_mapEpoch (p : Nat) (f : Span → Span) (s : State) : (s.modSpan p f).mapEpoch = s.mapEpoch := rfl
@[simp] theorem State.modSpan_ports (p : Nat) (f : Span → Span) (s : State) : (s.modSpan p f).ports = s.ports := rfl
@[simp] theorem State.modSpan_perstLow (p : Nat) (f : Span → Span) (s : State) : (s.modSpan p f).perstLow = s.perstLow := rfl
@[simp] theorem State.modSpan_lanes (p : Nat) (f : Span → Span) (s : State) : (s.modSpan p f).lanes = s.lanes := rfl
@[simp] theorem State.modSpan_handles (p : Nat) (f : Span → Span) (s : State) : (s.modSpan p f).handles = s.handles := rfl
@[simp] theorem State.modSpan_named (p : Nat) (f : Span → Span) (s : State) : (s.modSpan p f).named = s.named := rfl
@[simp] theorem State.modSpan_logs (p : Nat) (f : Span → Span) (s : State) : (s.modSpan p f).logs = s.logs := rfl
@[simp] theorem State.modSpan_requests (p : Nat) (f : Span → Span) (s : State) : (s.modSpan p f).requests = s.requests := rfl
@[simp] theorem State.modSpan_waiting (p : Nat) (f : Span → Span) (s : State) : (s.modSpan p f).waiting = s.waiting := rfl
@[simp] theorem State.modSpan_stamp (p : Nat) (f : Span → Span) (s : State) : (s.modSpan p f).stamp = s.stamp := rfl
@[simp] theorem State.modSpan_jobs (p : Nat) (f : Span → Span) (s : State) : (s.modSpan p f).jobs = s.jobs := rfl
@[simp] theorem State.modSpan_ended (p : Nat) (f : Span → Span) (s : State) : (s.modSpan p f).ended = s.ended := rfl
@[simp] theorem State.modSpan_pub (p : Nat) (f : Span → Span) (s : State) : (s.modSpan p f).pub = s.pub := rfl
@[simp] theorem State.modSpan_cycStart (p : Nat) (f : Span → Span) (s : State) : (s.modSpan p f).cycStart = s.cycStart := rfl
@[simp] theorem State.modSpan_spanSaved (p : Nat) (f : Span → Span) (s : State) : (s.modSpan p f).spanSaved = s.spanSaved := rfl
@[simp] theorem State.modSpan_routes (p : Nat) (f : Span → Span) (s : State) : (s.modSpan p f).routes = s.routes := rfl
@[simp] theorem State.modSpan_running (p : Nat) (f : Span → Span) (s : State) : (s.modSpan p f).running = s.running := rfl
@[simp] theorem State.modSpan_nextJob (p : Nat) (f : Span → Span) (s : State) : (s.modSpan p f).nextJob = s.nextJob := rfl
@[simp] theorem State.modSpan_bits (p : Nat) (f : Span → Span) (s : State) : (s.modSpan p f).bits = s.bits := rfl
@[simp] theorem State.modSpan_binding (p : Nat) (f : Span → Span) (s : State) : (s.modSpan p f).binding = s.binding := rfl
@[simp] theorem State.modSpan_load (p : Nat) (f : Span → Span) (s : State) : (s.modSpan p f).load = s.load := rfl
@[simp] theorem State.modSpan_loadStatus (p : Nat) (f : Span → Span) (s : State) : (s.modSpan p f).loadStatus = s.loadStatus := rfl
@[simp] theorem State.modSpan_loadDetail (p : Nat) (f : Span → Span) (s : State) : (s.modSpan p f).loadDetail = s.loadDetail := rfl
@[simp] theorem State.modSpan_cache (p : Nat) (f : Span → Span) (s : State) : (s.modSpan p f).cache = s.cache := rfl
@[simp] theorem State.modSpan_hot (p : Nat) (f : Span → Span) (s : State) : (s.modSpan p f).hot = s.hot := rfl
@[simp] theorem State.modSpan_staged (p : Nat) (f : Span → Span) (s : State) : (s.modSpan p f).staged = s.staged := rfl
@[simp] theorem State.modSpan_tune (p : Nat) (f : Span → Span) (s : State) : (s.modSpan p f).tune = s.tune := rfl
@[simp] theorem State.modSpan_kv (p : Nat) (f : Span → Span) (s : State) : (s.modSpan p f).kv = s.kv := rfl
@[simp] theorem State.modSpan_kvSaved (p : Nat) (f : Span → Span) (s : State) : (s.modSpan p f).kvSaved = s.kvSaved := rfl
@[simp] theorem State.modSpan_govSaved (p : Nat) (f : Span → Span) (s : State) : (s.modSpan p f).govSaved = s.govSaved := rfl
@[simp] theorem State.modSpan_tickSaved (p : Nat) (f : Span → Span) (s : State) : (s.modSpan p f).tickSaved = s.tickSaved := rfl
@[simp] theorem State.modSpan_tick (p : Nat) (f : Span → Span) (s : State) : (s.modSpan p f).tick = s.tick := rfl
@[simp] theorem State.modSpan_gov (p : Nat) (f : Span → Span) (s : State) : (s.modSpan p f).gov = s.gov := rfl
@[simp] theorem State.modSpan_trs (p : Nat) (f : Span → Span) (s : State) : (s.modSpan p f).trs = s.trs := rfl
@[simp] theorem State.modSpan_mem (p : Nat) (f : Span → Span) (s : State) : (s.modSpan p f).mem = s.mem := rfl
@[simp] theorem State.modSpan_landings (p : Nat) (f : Span → Span) (s : State) : (s.modSpan p f).landings = s.landings := rfl
@[simp] theorem State.modSpan_via (p : Nat) (f : Span → Span) (s : State) : (s.modSpan p f).via = s.via := rfl
@[simp] theorem State.modSpan_flt (p : Nat) (f : Span → Span) (s : State) : (s.modSpan p f).flt = s.flt := rfl

@[simp] theorem State.modJob_pending (f : Job → Job) (s : State) : (s.modJob f).pending = s.pending := by unfold State.modJob; split <;> rfl
@[simp] theorem State.modJob_out (f : Job → Job) (s : State) : (s.modJob f).out = s.out := by unfold State.modJob; split <;> rfl
@[simp] theorem State.modJob_time (f : Job → Job) (s : State) : (s.modJob f).time = s.time := by unfold State.modJob; split <;> rfl
@[simp] theorem State.modJob_tbOff (f : Job → Job) (s : State) : (s.modJob f).tbOff = s.tbOff := by unfold State.modJob; split <;> rfl
@[simp] theorem State.modJob_fresh (f : Job → Job) (s : State) : (s.modJob f).fresh = s.fresh := by unfold State.modJob; split <;> rfl
@[simp] theorem State.modJob_regs (f : Job → Job) (s : State) : (s.modJob f).regs = s.regs := by unfold State.modJob; split <;> rfl
@[simp] theorem State.modJob_counters (f : Job → Job) (s : State) : (s.modJob f).counters = s.counters := by unfold State.modJob; split <;> rfl
@[simp] theorem State.modJob_fuses (f : Job → Job) (s : State) : (s.modJob f).fuses = s.fuses := by unfold State.modJob; split <;> rfl
@[simp] theorem State.modJob_flash (f : Job → Job) (s : State) : (s.modJob f).flash = s.flash := by unfold State.modJob; split <;> rfl
@[simp] theorem State.modJob_boot (f : Job → Job) (s : State) : (s.modJob f).boot = s.boot := by unfold State.modJob; split <;> rfl
@[simp] theorem State.modJob_pwr (f : Job → Job) (s : State) : (s.modJob f).pwr = s.pwr := by unfold State.modJob; split <;> rfl
@[simp] theorem State.modJob_sb (f : Job → Job) (s : State) : (s.modJob f).sb = s.sb := by unfold State.modJob; split <;> rfl
@[simp] theorem State.modJob_sec (f : Job → Job) (s : State) : (s.modJob f).sec = s.sec := by unfold State.modJob; split <;> rfl
@[simp] theorem State.modJob_obs (f : Job → Job) (s : State) : (s.modJob f).obs = s.obs := by unfold State.modJob; split <;> rfl
@[simp] theorem State.modJob_spanMap (f : Job → Job) (s : State) : (s.modJob f).spanMap = s.spanMap := by unfold State.modJob; split <;> rfl
@[simp] theorem State.modJob_mapEpoch (f : Job → Job) (s : State) : (s.modJob f).mapEpoch = s.mapEpoch := by unfold State.modJob; split <;> rfl
@[simp] theorem State.modJob_spans (f : Job → Job) (s : State) : (s.modJob f).spans = s.spans := by unfold State.modJob; split <;> rfl
@[simp] theorem State.modJob_ports (f : Job → Job) (s : State) : (s.modJob f).ports = s.ports := by unfold State.modJob; split <;> rfl
@[simp] theorem State.modJob_perstLow (f : Job → Job) (s : State) : (s.modJob f).perstLow = s.perstLow := by unfold State.modJob; split <;> rfl
@[simp] theorem State.modJob_lanes (f : Job → Job) (s : State) : (s.modJob f).lanes = s.lanes := by unfold State.modJob; split <;> rfl
@[simp] theorem State.modJob_handles (f : Job → Job) (s : State) : (s.modJob f).handles = s.handles := by unfold State.modJob; split <;> rfl
@[simp] theorem State.modJob_named (f : Job → Job) (s : State) : (s.modJob f).named = s.named := by unfold State.modJob; split <;> rfl
@[simp] theorem State.modJob_logs (f : Job → Job) (s : State) : (s.modJob f).logs = s.logs := by unfold State.modJob; split <;> rfl
@[simp] theorem State.modJob_requests (f : Job → Job) (s : State) : (s.modJob f).requests = s.requests := by unfold State.modJob; split <;> rfl
@[simp] theorem State.modJob_waiting (f : Job → Job) (s : State) : (s.modJob f).waiting = s.waiting := by unfold State.modJob; split <;> rfl
@[simp] theorem State.modJob_stamp (f : Job → Job) (s : State) : (s.modJob f).stamp = s.stamp := by unfold State.modJob; split <;> rfl
@[simp] theorem State.modJob_ended (f : Job → Job) (s : State) : (s.modJob f).ended = s.ended := by unfold State.modJob; split <;> rfl
@[simp] theorem State.modJob_pub (f : Job → Job) (s : State) : (s.modJob f).pub = s.pub := by unfold State.modJob; split <;> rfl
@[simp] theorem State.modJob_cycStart (f : Job → Job) (s : State) : (s.modJob f).cycStart = s.cycStart := by unfold State.modJob; split <;> rfl
@[simp] theorem State.modJob_spanSaved (f : Job → Job) (s : State) : (s.modJob f).spanSaved = s.spanSaved := by unfold State.modJob; split <;> rfl
@[simp] theorem State.modJob_routes (f : Job → Job) (s : State) : (s.modJob f).routes = s.routes := by unfold State.modJob; split <;> rfl
@[simp] theorem State.modJob_running (f : Job → Job) (s : State) : (s.modJob f).running = s.running := by unfold State.modJob; split <;> rfl
@[simp] theorem State.modJob_nextJob (f : Job → Job) (s : State) : (s.modJob f).nextJob = s.nextJob := by unfold State.modJob; split <;> rfl
@[simp] theorem State.modJob_bits (f : Job → Job) (s : State) : (s.modJob f).bits = s.bits := by unfold State.modJob; split <;> rfl
@[simp] theorem State.modJob_binding (f : Job → Job) (s : State) : (s.modJob f).binding = s.binding := by unfold State.modJob; split <;> rfl
@[simp] theorem State.modJob_load (f : Job → Job) (s : State) : (s.modJob f).load = s.load := by unfold State.modJob; split <;> rfl
@[simp] theorem State.modJob_loadStatus (f : Job → Job) (s : State) : (s.modJob f).loadStatus = s.loadStatus := by unfold State.modJob; split <;> rfl
@[simp] theorem State.modJob_loadDetail (f : Job → Job) (s : State) : (s.modJob f).loadDetail = s.loadDetail := by unfold State.modJob; split <;> rfl
@[simp] theorem State.modJob_cache (f : Job → Job) (s : State) : (s.modJob f).cache = s.cache := by unfold State.modJob; split <;> rfl
@[simp] theorem State.modJob_hot (f : Job → Job) (s : State) : (s.modJob f).hot = s.hot := by unfold State.modJob; split <;> rfl
@[simp] theorem State.modJob_staged (f : Job → Job) (s : State) : (s.modJob f).staged = s.staged := by unfold State.modJob; split <;> rfl
@[simp] theorem State.modJob_tune (f : Job → Job) (s : State) : (s.modJob f).tune = s.tune := by unfold State.modJob; split <;> rfl
@[simp] theorem State.modJob_kv (f : Job → Job) (s : State) : (s.modJob f).kv = s.kv := by unfold State.modJob; split <;> rfl
@[simp] theorem State.modJob_kvSaved (f : Job → Job) (s : State) : (s.modJob f).kvSaved = s.kvSaved := by unfold State.modJob; split <;> rfl
@[simp] theorem State.modJob_govSaved (f : Job → Job) (s : State) : (s.modJob f).govSaved = s.govSaved := by unfold State.modJob; split <;> rfl
@[simp] theorem State.modJob_tickSaved (f : Job → Job) (s : State) : (s.modJob f).tickSaved = s.tickSaved := by unfold State.modJob; split <;> rfl
@[simp] theorem State.modJob_tick (f : Job → Job) (s : State) : (s.modJob f).tick = s.tick := by unfold State.modJob; split <;> rfl
@[simp] theorem State.modJob_gov (f : Job → Job) (s : State) : (s.modJob f).gov = s.gov := by unfold State.modJob; split <;> rfl
@[simp] theorem State.modJob_trs (f : Job → Job) (s : State) : (s.modJob f).trs = s.trs := by unfold State.modJob; split <;> rfl
@[simp] theorem State.modJob_mem (f : Job → Job) (s : State) : (s.modJob f).mem = s.mem := by unfold State.modJob; split <;> rfl
@[simp] theorem State.modJob_landings (f : Job → Job) (s : State) : (s.modJob f).landings = s.landings := by unfold State.modJob; split <;> rfl
@[simp] theorem State.modJob_via (f : Job → Job) (s : State) : (s.modJob f).via = s.via := by unfold State.modJob; split <;> rfl
@[simp] theorem State.modJob_flt (f : Job → Job) (s : State) : (s.modJob f).flt = s.flt := by unfold State.modJob; split <;> rfl

@[simp] theorem State.fault_pending (cls cause unit : Nat) (s : State) : (s.fault cls cause unit).pending = s.pending := by unfold State.fault; simp
@[simp] theorem State.fault_out (cls cause unit : Nat) (s : State) : (s.fault cls cause unit).out = s.out := by unfold State.fault; simp
@[simp] theorem State.fault_time (cls cause unit : Nat) (s : State) : (s.fault cls cause unit).time = s.time := by unfold State.fault; simp
@[simp] theorem State.fault_tbOff (cls cause unit : Nat) (s : State) : (s.fault cls cause unit).tbOff = s.tbOff := by unfold State.fault; simp
@[simp] theorem State.fault_fresh (cls cause unit : Nat) (s : State) : (s.fault cls cause unit).fresh = s.fresh := by unfold State.fault; simp
@[simp] theorem State.fault_regs (cls cause unit : Nat) (s : State) : (s.fault cls cause unit).regs = s.regs := by unfold State.fault; simp
@[simp] theorem State.fault_fuses (cls cause unit : Nat) (s : State) : (s.fault cls cause unit).fuses = s.fuses := by unfold State.fault; simp
@[simp] theorem State.fault_flash (cls cause unit : Nat) (s : State) : (s.fault cls cause unit).flash = s.flash := by unfold State.fault; simp
@[simp] theorem State.fault_boot (cls cause unit : Nat) (s : State) : (s.fault cls cause unit).boot = s.boot := by unfold State.fault; simp
@[simp] theorem State.fault_pwr (cls cause unit : Nat) (s : State) : (s.fault cls cause unit).pwr = s.pwr := by unfold State.fault; simp
@[simp] theorem State.fault_sb (cls cause unit : Nat) (s : State) : (s.fault cls cause unit).sb = s.sb := by unfold State.fault; simp
@[simp] theorem State.fault_sec (cls cause unit : Nat) (s : State) : (s.fault cls cause unit).sec = s.sec := by unfold State.fault; simp
@[simp] theorem State.fault_obs (cls cause unit : Nat) (s : State) : (s.fault cls cause unit).obs = s.obs := by unfold State.fault; simp
@[simp] theorem State.fault_spanMap (cls cause unit : Nat) (s : State) : (s.fault cls cause unit).spanMap = s.spanMap := by unfold State.fault; simp
@[simp] theorem State.fault_mapEpoch (cls cause unit : Nat) (s : State) : (s.fault cls cause unit).mapEpoch = s.mapEpoch := by unfold State.fault; simp
@[simp] theorem State.fault_spans (cls cause unit : Nat) (s : State) : (s.fault cls cause unit).spans = s.spans := by unfold State.fault; simp
@[simp] theorem State.fault_ports (cls cause unit : Nat) (s : State) : (s.fault cls cause unit).ports = s.ports := by unfold State.fault; simp
@[simp] theorem State.fault_perstLow (cls cause unit : Nat) (s : State) : (s.fault cls cause unit).perstLow = s.perstLow := by unfold State.fault; simp
@[simp] theorem State.fault_lanes (cls cause unit : Nat) (s : State) : (s.fault cls cause unit).lanes = s.lanes := by unfold State.fault; simp
@[simp] theorem State.fault_handles (cls cause unit : Nat) (s : State) : (s.fault cls cause unit).handles = s.handles := by unfold State.fault; simp
@[simp] theorem State.fault_named (cls cause unit : Nat) (s : State) : (s.fault cls cause unit).named = s.named := by unfold State.fault; simp
@[simp] theorem State.fault_logs (cls cause unit : Nat) (s : State) : (s.fault cls cause unit).logs = s.logs := by unfold State.fault; simp
@[simp] theorem State.fault_requests (cls cause unit : Nat) (s : State) : (s.fault cls cause unit).requests = s.requests := by unfold State.fault; simp
@[simp] theorem State.fault_waiting (cls cause unit : Nat) (s : State) : (s.fault cls cause unit).waiting = s.waiting := by unfold State.fault; simp
@[simp] theorem State.fault_stamp (cls cause unit : Nat) (s : State) : (s.fault cls cause unit).stamp = s.stamp := by unfold State.fault; simp
@[simp] theorem State.fault_jobs (cls cause unit : Nat) (s : State) : (s.fault cls cause unit).jobs = s.jobs := by unfold State.fault; simp
@[simp] theorem State.fault_ended (cls cause unit : Nat) (s : State) : (s.fault cls cause unit).ended = s.ended := by unfold State.fault; simp
@[simp] theorem State.fault_pub (cls cause unit : Nat) (s : State) : (s.fault cls cause unit).pub = s.pub := by unfold State.fault; simp
@[simp] theorem State.fault_cycStart (cls cause unit : Nat) (s : State) : (s.fault cls cause unit).cycStart = s.cycStart := by unfold State.fault; simp
@[simp] theorem State.fault_spanSaved (cls cause unit : Nat) (s : State) : (s.fault cls cause unit).spanSaved = s.spanSaved := by unfold State.fault; simp
@[simp] theorem State.fault_routes (cls cause unit : Nat) (s : State) : (s.fault cls cause unit).routes = s.routes := by unfold State.fault; simp
@[simp] theorem State.fault_running (cls cause unit : Nat) (s : State) : (s.fault cls cause unit).running = s.running := by unfold State.fault; simp
@[simp] theorem State.fault_nextJob (cls cause unit : Nat) (s : State) : (s.fault cls cause unit).nextJob = s.nextJob := by unfold State.fault; simp
@[simp] theorem State.fault_bits (cls cause unit : Nat) (s : State) : (s.fault cls cause unit).bits = s.bits := by unfold State.fault; simp
@[simp] theorem State.fault_binding (cls cause unit : Nat) (s : State) : (s.fault cls cause unit).binding = s.binding := by unfold State.fault; simp
@[simp] theorem State.fault_load (cls cause unit : Nat) (s : State) : (s.fault cls cause unit).load = s.load := by unfold State.fault; simp
@[simp] theorem State.fault_loadStatus (cls cause unit : Nat) (s : State) : (s.fault cls cause unit).loadStatus = s.loadStatus := by unfold State.fault; simp
@[simp] theorem State.fault_loadDetail (cls cause unit : Nat) (s : State) : (s.fault cls cause unit).loadDetail = s.loadDetail := by unfold State.fault; simp
@[simp] theorem State.fault_cache (cls cause unit : Nat) (s : State) : (s.fault cls cause unit).cache = s.cache := by unfold State.fault; simp
@[simp] theorem State.fault_hot (cls cause unit : Nat) (s : State) : (s.fault cls cause unit).hot = s.hot := by unfold State.fault; simp
@[simp] theorem State.fault_staged (cls cause unit : Nat) (s : State) : (s.fault cls cause unit).staged = s.staged := by unfold State.fault; simp
@[simp] theorem State.fault_tune (cls cause unit : Nat) (s : State) : (s.fault cls cause unit).tune = s.tune := by unfold State.fault; simp
@[simp] theorem State.fault_kv (cls cause unit : Nat) (s : State) : (s.fault cls cause unit).kv = s.kv := by unfold State.fault; simp
@[simp] theorem State.fault_kvSaved (cls cause unit : Nat) (s : State) : (s.fault cls cause unit).kvSaved = s.kvSaved := by unfold State.fault; simp
@[simp] theorem State.fault_govSaved (cls cause unit : Nat) (s : State) : (s.fault cls cause unit).govSaved = s.govSaved := by unfold State.fault; simp
@[simp] theorem State.fault_tickSaved (cls cause unit : Nat) (s : State) : (s.fault cls cause unit).tickSaved = s.tickSaved := by unfold State.fault; simp
@[simp] theorem State.fault_tick (cls cause unit : Nat) (s : State) : (s.fault cls cause unit).tick = s.tick := by unfold State.fault; simp
@[simp] theorem State.fault_gov (cls cause unit : Nat) (s : State) : (s.fault cls cause unit).gov = s.gov := by unfold State.fault; simp
@[simp] theorem State.fault_trs (cls cause unit : Nat) (s : State) : (s.fault cls cause unit).trs = s.trs := by unfold State.fault; simp
@[simp] theorem State.fault_mem (cls cause unit : Nat) (s : State) : (s.fault cls cause unit).mem = s.mem := by unfold State.fault; simp
@[simp] theorem State.fault_landings (cls cause unit : Nat) (s : State) : (s.fault cls cause unit).landings = s.landings := by unfold State.fault; simp
@[simp] theorem State.fault_via (cls cause unit : Nat) (s : State) : (s.fault cls cause unit).via = s.via := by unfold State.fault; simp

@[simp] theorem State.denied_pending (s : State) : (s.denied).pending = s.pending := State.fault_pending 0xA 0 0xFF s
@[simp] theorem State.denied_out (s : State) : (s.denied).out = s.out := State.fault_out 0xA 0 0xFF s
@[simp] theorem State.denied_time (s : State) : (s.denied).time = s.time := State.fault_time 0xA 0 0xFF s
@[simp] theorem State.denied_tbOff (s : State) : (s.denied).tbOff = s.tbOff := State.fault_tbOff 0xA 0 0xFF s
@[simp] theorem State.denied_fresh (s : State) : (s.denied).fresh = s.fresh := State.fault_fresh 0xA 0 0xFF s
@[simp] theorem State.denied_regs (s : State) : (s.denied).regs = s.regs := State.fault_regs 0xA 0 0xFF s
@[simp] theorem State.denied_fuses (s : State) : (s.denied).fuses = s.fuses := State.fault_fuses 0xA 0 0xFF s
@[simp] theorem State.denied_flash (s : State) : (s.denied).flash = s.flash := State.fault_flash 0xA 0 0xFF s
@[simp] theorem State.denied_boot (s : State) : (s.denied).boot = s.boot := State.fault_boot 0xA 0 0xFF s
@[simp] theorem State.denied_pwr (s : State) : (s.denied).pwr = s.pwr := State.fault_pwr 0xA 0 0xFF s
@[simp] theorem State.denied_sb (s : State) : (s.denied).sb = s.sb := State.fault_sb 0xA 0 0xFF s
@[simp] theorem State.denied_sec (s : State) : (s.denied).sec = s.sec := State.fault_sec 0xA 0 0xFF s
@[simp] theorem State.denied_obs (s : State) : (s.denied).obs = s.obs := State.fault_obs 0xA 0 0xFF s
@[simp] theorem State.denied_spanMap (s : State) : (s.denied).spanMap = s.spanMap := State.fault_spanMap 0xA 0 0xFF s
@[simp] theorem State.denied_mapEpoch (s : State) : (s.denied).mapEpoch = s.mapEpoch := State.fault_mapEpoch 0xA 0 0xFF s
@[simp] theorem State.denied_spans (s : State) : (s.denied).spans = s.spans := State.fault_spans 0xA 0 0xFF s
@[simp] theorem State.denied_ports (s : State) : (s.denied).ports = s.ports := State.fault_ports 0xA 0 0xFF s
@[simp] theorem State.denied_perstLow (s : State) : (s.denied).perstLow = s.perstLow := State.fault_perstLow 0xA 0 0xFF s
@[simp] theorem State.denied_lanes (s : State) : (s.denied).lanes = s.lanes := State.fault_lanes 0xA 0 0xFF s
@[simp] theorem State.denied_handles (s : State) : (s.denied).handles = s.handles := State.fault_handles 0xA 0 0xFF s
@[simp] theorem State.denied_named (s : State) : (s.denied).named = s.named := State.fault_named 0xA 0 0xFF s
@[simp] theorem State.denied_logs (s : State) : (s.denied).logs = s.logs := State.fault_logs 0xA 0 0xFF s
@[simp] theorem State.denied_requests (s : State) : (s.denied).requests = s.requests := State.fault_requests 0xA 0 0xFF s
@[simp] theorem State.denied_waiting (s : State) : (s.denied).waiting = s.waiting := State.fault_waiting 0xA 0 0xFF s
@[simp] theorem State.denied_stamp (s : State) : (s.denied).stamp = s.stamp := State.fault_stamp 0xA 0 0xFF s
@[simp] theorem State.denied_jobs (s : State) : (s.denied).jobs = s.jobs := State.fault_jobs 0xA 0 0xFF s
@[simp] theorem State.denied_ended (s : State) : (s.denied).ended = s.ended := State.fault_ended 0xA 0 0xFF s
@[simp] theorem State.denied_pub (s : State) : (s.denied).pub = s.pub := State.fault_pub 0xA 0 0xFF s
@[simp] theorem State.denied_cycStart (s : State) : (s.denied).cycStart = s.cycStart := State.fault_cycStart 0xA 0 0xFF s
@[simp] theorem State.denied_spanSaved (s : State) : (s.denied).spanSaved = s.spanSaved := State.fault_spanSaved 0xA 0 0xFF s
@[simp] theorem State.denied_routes (s : State) : (s.denied).routes = s.routes := State.fault_routes 0xA 0 0xFF s
@[simp] theorem State.denied_running (s : State) : (s.denied).running = s.running := State.fault_running 0xA 0 0xFF s
@[simp] theorem State.denied_nextJob (s : State) : (s.denied).nextJob = s.nextJob := State.fault_nextJob 0xA 0 0xFF s
@[simp] theorem State.denied_bits (s : State) : (s.denied).bits = s.bits := State.fault_bits 0xA 0 0xFF s
@[simp] theorem State.denied_binding (s : State) : (s.denied).binding = s.binding := State.fault_binding 0xA 0 0xFF s
@[simp] theorem State.denied_load (s : State) : (s.denied).load = s.load := State.fault_load 0xA 0 0xFF s
@[simp] theorem State.denied_loadStatus (s : State) : (s.denied).loadStatus = s.loadStatus := State.fault_loadStatus 0xA 0 0xFF s
@[simp] theorem State.denied_loadDetail (s : State) : (s.denied).loadDetail = s.loadDetail := State.fault_loadDetail 0xA 0 0xFF s
@[simp] theorem State.denied_cache (s : State) : (s.denied).cache = s.cache := State.fault_cache 0xA 0 0xFF s
@[simp] theorem State.denied_hot (s : State) : (s.denied).hot = s.hot := State.fault_hot 0xA 0 0xFF s
@[simp] theorem State.denied_staged (s : State) : (s.denied).staged = s.staged := State.fault_staged 0xA 0 0xFF s
@[simp] theorem State.denied_tune (s : State) : (s.denied).tune = s.tune := State.fault_tune 0xA 0 0xFF s
@[simp] theorem State.denied_kv (s : State) : (s.denied).kv = s.kv := State.fault_kv 0xA 0 0xFF s
@[simp] theorem State.denied_kvSaved (s : State) : (s.denied).kvSaved = s.kvSaved := State.fault_kvSaved 0xA 0 0xFF s
@[simp] theorem State.denied_govSaved (s : State) : (s.denied).govSaved = s.govSaved := State.fault_govSaved 0xA 0 0xFF s
@[simp] theorem State.denied_tickSaved (s : State) : (s.denied).tickSaved = s.tickSaved := State.fault_tickSaved 0xA 0 0xFF s
@[simp] theorem State.denied_tick (s : State) : (s.denied).tick = s.tick := State.fault_tick 0xA 0 0xFF s
@[simp] theorem State.denied_gov (s : State) : (s.denied).gov = s.gov := State.fault_gov 0xA 0 0xFF s
@[simp] theorem State.denied_trs (s : State) : (s.denied).trs = s.trs := State.fault_trs 0xA 0 0xFF s
@[simp] theorem State.denied_mem (s : State) : (s.denied).mem = s.mem := State.fault_mem 0xA 0 0xFF s
@[simp] theorem State.denied_landings (s : State) : (s.denied).landings = s.landings := State.fault_landings 0xA 0 0xFF s
@[simp] theorem State.denied_via (s : State) : (s.denied).via = s.via := State.fault_via 0xA 0 0xFF s

@[simp] theorem State.trace_pending (l type : Nat) (arg : List Byte) (s : State) : (s.trace l type arg).pending = s.pending := by unfold State.trace; split <;> rfl
@[simp] theorem State.trace_out (l type : Nat) (arg : List Byte) (s : State) : (s.trace l type arg).out = s.out := by unfold State.trace; split <;> rfl
@[simp] theorem State.trace_time (l type : Nat) (arg : List Byte) (s : State) : (s.trace l type arg).time = s.time := by unfold State.trace; split <;> rfl
@[simp] theorem State.trace_tbOff (l type : Nat) (arg : List Byte) (s : State) : (s.trace l type arg).tbOff = s.tbOff := by unfold State.trace; split <;> rfl
@[simp] theorem State.trace_fresh (l type : Nat) (arg : List Byte) (s : State) : (s.trace l type arg).fresh = s.fresh := by unfold State.trace; split <;> rfl
@[simp] theorem State.trace_regs (l type : Nat) (arg : List Byte) (s : State) : (s.trace l type arg).regs = s.regs := by unfold State.trace; split <;> rfl
@[simp] theorem State.trace_counters (l type : Nat) (arg : List Byte) (s : State) : (s.trace l type arg).counters = s.counters := by unfold State.trace; split <;> rfl
@[simp] theorem State.trace_fuses (l type : Nat) (arg : List Byte) (s : State) : (s.trace l type arg).fuses = s.fuses := by unfold State.trace; split <;> rfl
@[simp] theorem State.trace_flash (l type : Nat) (arg : List Byte) (s : State) : (s.trace l type arg).flash = s.flash := by unfold State.trace; split <;> rfl
@[simp] theorem State.trace_boot (l type : Nat) (arg : List Byte) (s : State) : (s.trace l type arg).boot = s.boot := by unfold State.trace; split <;> rfl
@[simp] theorem State.trace_pwr (l type : Nat) (arg : List Byte) (s : State) : (s.trace l type arg).pwr = s.pwr := by unfold State.trace; split <;> rfl
@[simp] theorem State.trace_sb (l type : Nat) (arg : List Byte) (s : State) : (s.trace l type arg).sb = s.sb := by unfold State.trace; split <;> rfl
@[simp] theorem State.trace_sec (l type : Nat) (arg : List Byte) (s : State) : (s.trace l type arg).sec = s.sec := by unfold State.trace; split <;> rfl
@[simp] theorem State.trace_obs (l type : Nat) (arg : List Byte) (s : State) : (s.trace l type arg).obs = s.obs := by unfold State.trace; split <;> rfl
@[simp] theorem State.trace_spanMap (l type : Nat) (arg : List Byte) (s : State) : (s.trace l type arg).spanMap = s.spanMap := by unfold State.trace; split <;> rfl
@[simp] theorem State.trace_mapEpoch (l type : Nat) (arg : List Byte) (s : State) : (s.trace l type arg).mapEpoch = s.mapEpoch := by unfold State.trace; split <;> rfl
@[simp] theorem State.trace_ports (l type : Nat) (arg : List Byte) (s : State) : (s.trace l type arg).ports = s.ports := by unfold State.trace; split <;> rfl
@[simp] theorem State.trace_perstLow (l type : Nat) (arg : List Byte) (s : State) : (s.trace l type arg).perstLow = s.perstLow := by unfold State.trace; split <;> rfl
@[simp] theorem State.trace_lanes (l type : Nat) (arg : List Byte) (s : State) : (s.trace l type arg).lanes = s.lanes := by unfold State.trace; split <;> rfl
@[simp] theorem State.trace_handles (l type : Nat) (arg : List Byte) (s : State) : (s.trace l type arg).handles = s.handles := by unfold State.trace; split <;> rfl
@[simp] theorem State.trace_named (l type : Nat) (arg : List Byte) (s : State) : (s.trace l type arg).named = s.named := by unfold State.trace; split <;> rfl
@[simp] theorem State.trace_logs (l type : Nat) (arg : List Byte) (s : State) : (s.trace l type arg).logs = s.logs := by unfold State.trace; split <;> rfl
@[simp] theorem State.trace_requests (l type : Nat) (arg : List Byte) (s : State) : (s.trace l type arg).requests = s.requests := by unfold State.trace; split <;> rfl
@[simp] theorem State.trace_waiting (l type : Nat) (arg : List Byte) (s : State) : (s.trace l type arg).waiting = s.waiting := by unfold State.trace; split <;> rfl
@[simp] theorem State.trace_stamp (l type : Nat) (arg : List Byte) (s : State) : (s.trace l type arg).stamp = s.stamp := by unfold State.trace; split <;> rfl
@[simp] theorem State.trace_jobs (l type : Nat) (arg : List Byte) (s : State) : (s.trace l type arg).jobs = s.jobs := by unfold State.trace; split <;> rfl
@[simp] theorem State.trace_ended (l type : Nat) (arg : List Byte) (s : State) : (s.trace l type arg).ended = s.ended := by unfold State.trace; split <;> rfl
@[simp] theorem State.trace_pub (l type : Nat) (arg : List Byte) (s : State) : (s.trace l type arg).pub = s.pub := by unfold State.trace; split <;> rfl
@[simp] theorem State.trace_cycStart (l type : Nat) (arg : List Byte) (s : State) : (s.trace l type arg).cycStart = s.cycStart := by unfold State.trace; split <;> rfl
@[simp] theorem State.trace_spanSaved (l type : Nat) (arg : List Byte) (s : State) : (s.trace l type arg).spanSaved = s.spanSaved := by unfold State.trace; split <;> rfl
@[simp] theorem State.trace_routes (l type : Nat) (arg : List Byte) (s : State) : (s.trace l type arg).routes = s.routes := by unfold State.trace; split <;> rfl
@[simp] theorem State.trace_running (l type : Nat) (arg : List Byte) (s : State) : (s.trace l type arg).running = s.running := by unfold State.trace; split <;> rfl
@[simp] theorem State.trace_nextJob (l type : Nat) (arg : List Byte) (s : State) : (s.trace l type arg).nextJob = s.nextJob := by unfold State.trace; split <;> rfl
@[simp] theorem State.trace_bits (l type : Nat) (arg : List Byte) (s : State) : (s.trace l type arg).bits = s.bits := by unfold State.trace; split <;> rfl
@[simp] theorem State.trace_binding (l type : Nat) (arg : List Byte) (s : State) : (s.trace l type arg).binding = s.binding := by unfold State.trace; split <;> rfl
@[simp] theorem State.trace_load (l type : Nat) (arg : List Byte) (s : State) : (s.trace l type arg).load = s.load := by unfold State.trace; split <;> rfl
@[simp] theorem State.trace_loadStatus (l type : Nat) (arg : List Byte) (s : State) : (s.trace l type arg).loadStatus = s.loadStatus := by unfold State.trace; split <;> rfl
@[simp] theorem State.trace_loadDetail (l type : Nat) (arg : List Byte) (s : State) : (s.trace l type arg).loadDetail = s.loadDetail := by unfold State.trace; split <;> rfl
@[simp] theorem State.trace_cache (l type : Nat) (arg : List Byte) (s : State) : (s.trace l type arg).cache = s.cache := by unfold State.trace; split <;> rfl
@[simp] theorem State.trace_hot (l type : Nat) (arg : List Byte) (s : State) : (s.trace l type arg).hot = s.hot := by unfold State.trace; split <;> rfl
@[simp] theorem State.trace_staged (l type : Nat) (arg : List Byte) (s : State) : (s.trace l type arg).staged = s.staged := by unfold State.trace; split <;> rfl
@[simp] theorem State.trace_tune (l type : Nat) (arg : List Byte) (s : State) : (s.trace l type arg).tune = s.tune := by unfold State.trace; split <;> rfl
@[simp] theorem State.trace_kv (l type : Nat) (arg : List Byte) (s : State) : (s.trace l type arg).kv = s.kv := by unfold State.trace; split <;> rfl
@[simp] theorem State.trace_kvSaved (l type : Nat) (arg : List Byte) (s : State) : (s.trace l type arg).kvSaved = s.kvSaved := by unfold State.trace; split <;> rfl
@[simp] theorem State.trace_govSaved (l type : Nat) (arg : List Byte) (s : State) : (s.trace l type arg).govSaved = s.govSaved := by unfold State.trace; split <;> rfl
@[simp] theorem State.trace_tickSaved (l type : Nat) (arg : List Byte) (s : State) : (s.trace l type arg).tickSaved = s.tickSaved := by unfold State.trace; split <;> rfl
@[simp] theorem State.trace_tick (l type : Nat) (arg : List Byte) (s : State) : (s.trace l type arg).tick = s.tick := by unfold State.trace; split <;> rfl
@[simp] theorem State.trace_gov (l type : Nat) (arg : List Byte) (s : State) : (s.trace l type arg).gov = s.gov := by unfold State.trace; split <;> rfl
@[simp] theorem State.trace_trs (l type : Nat) (arg : List Byte) (s : State) : (s.trace l type arg).trs = s.trs := by unfold State.trace; split <;> rfl
@[simp] theorem State.trace_mem (l type : Nat) (arg : List Byte) (s : State) : (s.trace l type arg).mem = s.mem := by unfold State.trace; split <;> rfl
@[simp] theorem State.trace_landings (l type : Nat) (arg : List Byte) (s : State) : (s.trace l type arg).landings = s.landings := by unfold State.trace; split <;> rfl
@[simp] theorem State.trace_via (l type : Nat) (arg : List Byte) (s : State) : (s.trace l type arg).via = s.via := by unfold State.trace; split <;> rfl
@[simp] theorem State.trace_flt (l type : Nat) (arg : List Byte) (s : State) : (s.trace l type arg).flt = s.flt := by unfold State.trace; split <;> rfl

@[simp] theorem State.modPort_pending (port : Nat) (f : Port → Port) (s : State) : (s.modPort port f).pending = s.pending := rfl
@[simp] theorem State.modPort_out (port : Nat) (f : Port → Port) (s : State) : (s.modPort port f).out = s.out := rfl
@[simp] theorem State.modPort_time (port : Nat) (f : Port → Port) (s : State) : (s.modPort port f).time = s.time := rfl
@[simp] theorem State.modPort_tbOff (port : Nat) (f : Port → Port) (s : State) : (s.modPort port f).tbOff = s.tbOff := rfl
@[simp] theorem State.modPort_fresh (port : Nat) (f : Port → Port) (s : State) : (s.modPort port f).fresh = s.fresh := rfl
@[simp] theorem State.modPort_regs (port : Nat) (f : Port → Port) (s : State) : (s.modPort port f).regs = s.regs := rfl
@[simp] theorem State.modPort_counters (port : Nat) (f : Port → Port) (s : State) : (s.modPort port f).counters = s.counters := rfl
@[simp] theorem State.modPort_fuses (port : Nat) (f : Port → Port) (s : State) : (s.modPort port f).fuses = s.fuses := rfl
@[simp] theorem State.modPort_flash (port : Nat) (f : Port → Port) (s : State) : (s.modPort port f).flash = s.flash := rfl
@[simp] theorem State.modPort_boot (port : Nat) (f : Port → Port) (s : State) : (s.modPort port f).boot = s.boot := rfl
@[simp] theorem State.modPort_pwr (port : Nat) (f : Port → Port) (s : State) : (s.modPort port f).pwr = s.pwr := rfl
@[simp] theorem State.modPort_sb (port : Nat) (f : Port → Port) (s : State) : (s.modPort port f).sb = s.sb := rfl
@[simp] theorem State.modPort_sec (port : Nat) (f : Port → Port) (s : State) : (s.modPort port f).sec = s.sec := rfl
@[simp] theorem State.modPort_obs (port : Nat) (f : Port → Port) (s : State) : (s.modPort port f).obs = s.obs := rfl
@[simp] theorem State.modPort_spanMap (port : Nat) (f : Port → Port) (s : State) : (s.modPort port f).spanMap = s.spanMap := rfl
@[simp] theorem State.modPort_mapEpoch (port : Nat) (f : Port → Port) (s : State) : (s.modPort port f).mapEpoch = s.mapEpoch := rfl
@[simp] theorem State.modPort_spans (port : Nat) (f : Port → Port) (s : State) : (s.modPort port f).spans = s.spans := rfl
@[simp] theorem State.modPort_perstLow (port : Nat) (f : Port → Port) (s : State) : (s.modPort port f).perstLow = s.perstLow := rfl
@[simp] theorem State.modPort_lanes (port : Nat) (f : Port → Port) (s : State) : (s.modPort port f).lanes = s.lanes := rfl
@[simp] theorem State.modPort_handles (port : Nat) (f : Port → Port) (s : State) : (s.modPort port f).handles = s.handles := rfl
@[simp] theorem State.modPort_named (port : Nat) (f : Port → Port) (s : State) : (s.modPort port f).named = s.named := rfl
@[simp] theorem State.modPort_logs (port : Nat) (f : Port → Port) (s : State) : (s.modPort port f).logs = s.logs := rfl
@[simp] theorem State.modPort_requests (port : Nat) (f : Port → Port) (s : State) : (s.modPort port f).requests = s.requests := rfl
@[simp] theorem State.modPort_waiting (port : Nat) (f : Port → Port) (s : State) : (s.modPort port f).waiting = s.waiting := rfl
@[simp] theorem State.modPort_stamp (port : Nat) (f : Port → Port) (s : State) : (s.modPort port f).stamp = s.stamp := rfl
@[simp] theorem State.modPort_jobs (port : Nat) (f : Port → Port) (s : State) : (s.modPort port f).jobs = s.jobs := rfl
@[simp] theorem State.modPort_ended (port : Nat) (f : Port → Port) (s : State) : (s.modPort port f).ended = s.ended := rfl
@[simp] theorem State.modPort_pub (port : Nat) (f : Port → Port) (s : State) : (s.modPort port f).pub = s.pub := rfl
@[simp] theorem State.modPort_cycStart (port : Nat) (f : Port → Port) (s : State) : (s.modPort port f).cycStart = s.cycStart := rfl
@[simp] theorem State.modPort_spanSaved (port : Nat) (f : Port → Port) (s : State) : (s.modPort port f).spanSaved = s.spanSaved := rfl
@[simp] theorem State.modPort_routes (port : Nat) (f : Port → Port) (s : State) : (s.modPort port f).routes = s.routes := rfl
@[simp] theorem State.modPort_running (port : Nat) (f : Port → Port) (s : State) : (s.modPort port f).running = s.running := rfl
@[simp] theorem State.modPort_nextJob (port : Nat) (f : Port → Port) (s : State) : (s.modPort port f).nextJob = s.nextJob := rfl
@[simp] theorem State.modPort_bits (port : Nat) (f : Port → Port) (s : State) : (s.modPort port f).bits = s.bits := rfl
@[simp] theorem State.modPort_binding (port : Nat) (f : Port → Port) (s : State) : (s.modPort port f).binding = s.binding := rfl
@[simp] theorem State.modPort_load (port : Nat) (f : Port → Port) (s : State) : (s.modPort port f).load = s.load := rfl
@[simp] theorem State.modPort_loadStatus (port : Nat) (f : Port → Port) (s : State) : (s.modPort port f).loadStatus = s.loadStatus := rfl
@[simp] theorem State.modPort_loadDetail (port : Nat) (f : Port → Port) (s : State) : (s.modPort port f).loadDetail = s.loadDetail := rfl
@[simp] theorem State.modPort_cache (port : Nat) (f : Port → Port) (s : State) : (s.modPort port f).cache = s.cache := rfl
@[simp] theorem State.modPort_hot (port : Nat) (f : Port → Port) (s : State) : (s.modPort port f).hot = s.hot := rfl
@[simp] theorem State.modPort_staged (port : Nat) (f : Port → Port) (s : State) : (s.modPort port f).staged = s.staged := rfl
@[simp] theorem State.modPort_tune (port : Nat) (f : Port → Port) (s : State) : (s.modPort port f).tune = s.tune := rfl
@[simp] theorem State.modPort_kv (port : Nat) (f : Port → Port) (s : State) : (s.modPort port f).kv = s.kv := rfl
@[simp] theorem State.modPort_kvSaved (port : Nat) (f : Port → Port) (s : State) : (s.modPort port f).kvSaved = s.kvSaved := rfl
@[simp] theorem State.modPort_govSaved (port : Nat) (f : Port → Port) (s : State) : (s.modPort port f).govSaved = s.govSaved := rfl
@[simp] theorem State.modPort_tickSaved (port : Nat) (f : Port → Port) (s : State) : (s.modPort port f).tickSaved = s.tickSaved := rfl
@[simp] theorem State.modPort_tick (port : Nat) (f : Port → Port) (s : State) : (s.modPort port f).tick = s.tick := rfl
@[simp] theorem State.modPort_gov (port : Nat) (f : Port → Port) (s : State) : (s.modPort port f).gov = s.gov := rfl
@[simp] theorem State.modPort_trs (port : Nat) (f : Port → Port) (s : State) : (s.modPort port f).trs = s.trs := rfl
@[simp] theorem State.modPort_mem (port : Nat) (f : Port → Port) (s : State) : (s.modPort port f).mem = s.mem := rfl
@[simp] theorem State.modPort_landings (port : Nat) (f : Port → Port) (s : State) : (s.modPort port f).landings = s.landings := rfl
@[simp] theorem State.modPort_via (port : Nat) (f : Port → Port) (s : State) : (s.modPort port f).via = s.via := rfl
@[simp] theorem State.modPort_flt (port : Nat) (f : Port → Port) (s : State) : (s.modPort port f).flt = s.flt := rfl

@[simp] theorem State.setLog_pending (port part : Nat) (g : EventLog) (s : State) : (s.setLog port part g).pending = s.pending := rfl
@[simp] theorem State.setLog_out (port part : Nat) (g : EventLog) (s : State) : (s.setLog port part g).out = s.out := rfl
@[simp] theorem State.setLog_time (port part : Nat) (g : EventLog) (s : State) : (s.setLog port part g).time = s.time := rfl
@[simp] theorem State.setLog_tbOff (port part : Nat) (g : EventLog) (s : State) : (s.setLog port part g).tbOff = s.tbOff := rfl
@[simp] theorem State.setLog_fresh (port part : Nat) (g : EventLog) (s : State) : (s.setLog port part g).fresh = s.fresh := rfl
@[simp] theorem State.setLog_regs (port part : Nat) (g : EventLog) (s : State) : (s.setLog port part g).regs = s.regs := rfl
@[simp] theorem State.setLog_counters (port part : Nat) (g : EventLog) (s : State) : (s.setLog port part g).counters = s.counters := rfl
@[simp] theorem State.setLog_fuses (port part : Nat) (g : EventLog) (s : State) : (s.setLog port part g).fuses = s.fuses := rfl
@[simp] theorem State.setLog_flash (port part : Nat) (g : EventLog) (s : State) : (s.setLog port part g).flash = s.flash := rfl
@[simp] theorem State.setLog_boot (port part : Nat) (g : EventLog) (s : State) : (s.setLog port part g).boot = s.boot := rfl
@[simp] theorem State.setLog_pwr (port part : Nat) (g : EventLog) (s : State) : (s.setLog port part g).pwr = s.pwr := rfl
@[simp] theorem State.setLog_sb (port part : Nat) (g : EventLog) (s : State) : (s.setLog port part g).sb = s.sb := rfl
@[simp] theorem State.setLog_sec (port part : Nat) (g : EventLog) (s : State) : (s.setLog port part g).sec = s.sec := rfl
@[simp] theorem State.setLog_obs (port part : Nat) (g : EventLog) (s : State) : (s.setLog port part g).obs = s.obs := rfl
@[simp] theorem State.setLog_spanMap (port part : Nat) (g : EventLog) (s : State) : (s.setLog port part g).spanMap = s.spanMap := rfl
@[simp] theorem State.setLog_mapEpoch (port part : Nat) (g : EventLog) (s : State) : (s.setLog port part g).mapEpoch = s.mapEpoch := rfl
@[simp] theorem State.setLog_spans (port part : Nat) (g : EventLog) (s : State) : (s.setLog port part g).spans = s.spans := rfl
@[simp] theorem State.setLog_ports (port part : Nat) (g : EventLog) (s : State) : (s.setLog port part g).ports = s.ports := rfl
@[simp] theorem State.setLog_perstLow (port part : Nat) (g : EventLog) (s : State) : (s.setLog port part g).perstLow = s.perstLow := rfl
@[simp] theorem State.setLog_lanes (port part : Nat) (g : EventLog) (s : State) : (s.setLog port part g).lanes = s.lanes := rfl
@[simp] theorem State.setLog_handles (port part : Nat) (g : EventLog) (s : State) : (s.setLog port part g).handles = s.handles := rfl
@[simp] theorem State.setLog_named (port part : Nat) (g : EventLog) (s : State) : (s.setLog port part g).named = s.named := rfl
@[simp] theorem State.setLog_requests (port part : Nat) (g : EventLog) (s : State) : (s.setLog port part g).requests = s.requests := rfl
@[simp] theorem State.setLog_waiting (port part : Nat) (g : EventLog) (s : State) : (s.setLog port part g).waiting = s.waiting := rfl
@[simp] theorem State.setLog_stamp (port part : Nat) (g : EventLog) (s : State) : (s.setLog port part g).stamp = s.stamp := rfl
@[simp] theorem State.setLog_jobs (port part : Nat) (g : EventLog) (s : State) : (s.setLog port part g).jobs = s.jobs := rfl
@[simp] theorem State.setLog_ended (port part : Nat) (g : EventLog) (s : State) : (s.setLog port part g).ended = s.ended := rfl
@[simp] theorem State.setLog_pub (port part : Nat) (g : EventLog) (s : State) : (s.setLog port part g).pub = s.pub := rfl
@[simp] theorem State.setLog_cycStart (port part : Nat) (g : EventLog) (s : State) : (s.setLog port part g).cycStart = s.cycStart := rfl
@[simp] theorem State.setLog_spanSaved (port part : Nat) (g : EventLog) (s : State) : (s.setLog port part g).spanSaved = s.spanSaved := rfl
@[simp] theorem State.setLog_routes (port part : Nat) (g : EventLog) (s : State) : (s.setLog port part g).routes = s.routes := rfl
@[simp] theorem State.setLog_running (port part : Nat) (g : EventLog) (s : State) : (s.setLog port part g).running = s.running := rfl
@[simp] theorem State.setLog_nextJob (port part : Nat) (g : EventLog) (s : State) : (s.setLog port part g).nextJob = s.nextJob := rfl
@[simp] theorem State.setLog_bits (port part : Nat) (g : EventLog) (s : State) : (s.setLog port part g).bits = s.bits := rfl
@[simp] theorem State.setLog_binding (port part : Nat) (g : EventLog) (s : State) : (s.setLog port part g).binding = s.binding := rfl
@[simp] theorem State.setLog_load (port part : Nat) (g : EventLog) (s : State) : (s.setLog port part g).load = s.load := rfl
@[simp] theorem State.setLog_loadStatus (port part : Nat) (g : EventLog) (s : State) : (s.setLog port part g).loadStatus = s.loadStatus := rfl
@[simp] theorem State.setLog_loadDetail (port part : Nat) (g : EventLog) (s : State) : (s.setLog port part g).loadDetail = s.loadDetail := rfl
@[simp] theorem State.setLog_cache (port part : Nat) (g : EventLog) (s : State) : (s.setLog port part g).cache = s.cache := rfl
@[simp] theorem State.setLog_hot (port part : Nat) (g : EventLog) (s : State) : (s.setLog port part g).hot = s.hot := rfl
@[simp] theorem State.setLog_staged (port part : Nat) (g : EventLog) (s : State) : (s.setLog port part g).staged = s.staged := rfl
@[simp] theorem State.setLog_tune (port part : Nat) (g : EventLog) (s : State) : (s.setLog port part g).tune = s.tune := rfl
@[simp] theorem State.setLog_kv (port part : Nat) (g : EventLog) (s : State) : (s.setLog port part g).kv = s.kv := rfl
@[simp] theorem State.setLog_kvSaved (port part : Nat) (g : EventLog) (s : State) : (s.setLog port part g).kvSaved = s.kvSaved := rfl
@[simp] theorem State.setLog_govSaved (port part : Nat) (g : EventLog) (s : State) : (s.setLog port part g).govSaved = s.govSaved := rfl
@[simp] theorem State.setLog_tickSaved (port part : Nat) (g : EventLog) (s : State) : (s.setLog port part g).tickSaved = s.tickSaved := rfl
@[simp] theorem State.setLog_tick (port part : Nat) (g : EventLog) (s : State) : (s.setLog port part g).tick = s.tick := rfl
@[simp] theorem State.setLog_gov (port part : Nat) (g : EventLog) (s : State) : (s.setLog port part g).gov = s.gov := rfl
@[simp] theorem State.setLog_trs (port part : Nat) (g : EventLog) (s : State) : (s.setLog port part g).trs = s.trs := rfl
@[simp] theorem State.setLog_mem (port part : Nat) (g : EventLog) (s : State) : (s.setLog port part g).mem = s.mem := rfl
@[simp] theorem State.setLog_landings (port part : Nat) (g : EventLog) (s : State) : (s.setLog port part g).landings = s.landings := rfl
@[simp] theorem State.setLog_via (port part : Nat) (g : EventLog) (s : State) : (s.setLog port part g).via = s.via := rfl
@[simp] theorem State.setLog_flt (port part : Nat) (g : EventLog) (s : State) : (s.setLog port part g).flt = s.flt := rfl

@[simp] theorem State.portRx_pending (port n : Nat) (s : State) : (s.portRx port n).pending = s.pending := State.incBytes_pending _ _ s
@[simp] theorem State.portRx_out (port n : Nat) (s : State) : (s.portRx port n).out = s.out := State.incBytes_out _ _ s
@[simp] theorem State.portRx_time (port n : Nat) (s : State) : (s.portRx port n).time = s.time := State.incBytes_time _ _ s
@[simp] theorem State.portRx_tbOff (port n : Nat) (s : State) : (s.portRx port n).tbOff = s.tbOff := State.incBytes_tbOff _ _ s
@[simp] theorem State.portRx_fresh (port n : Nat) (s : State) : (s.portRx port n).fresh = s.fresh := State.incBytes_fresh _ _ s
@[simp] theorem State.portRx_regs (port n : Nat) (s : State) : (s.portRx port n).regs = s.regs := State.incBytes_regs _ _ s
@[simp] theorem State.portRx_fuses (port n : Nat) (s : State) : (s.portRx port n).fuses = s.fuses := State.incBytes_fuses _ _ s
@[simp] theorem State.portRx_flash (port n : Nat) (s : State) : (s.portRx port n).flash = s.flash := State.incBytes_flash _ _ s
@[simp] theorem State.portRx_boot (port n : Nat) (s : State) : (s.portRx port n).boot = s.boot := State.incBytes_boot _ _ s
@[simp] theorem State.portRx_pwr (port n : Nat) (s : State) : (s.portRx port n).pwr = s.pwr := State.incBytes_pwr _ _ s
@[simp] theorem State.portRx_sb (port n : Nat) (s : State) : (s.portRx port n).sb = s.sb := State.incBytes_sb _ _ s
@[simp] theorem State.portRx_sec (port n : Nat) (s : State) : (s.portRx port n).sec = s.sec := State.incBytes_sec _ _ s
@[simp] theorem State.portRx_obs (port n : Nat) (s : State) : (s.portRx port n).obs = s.obs := State.incBytes_obs _ _ s
@[simp] theorem State.portRx_spanMap (port n : Nat) (s : State) : (s.portRx port n).spanMap = s.spanMap := State.incBytes_spanMap _ _ s
@[simp] theorem State.portRx_mapEpoch (port n : Nat) (s : State) : (s.portRx port n).mapEpoch = s.mapEpoch := State.incBytes_mapEpoch _ _ s
@[simp] theorem State.portRx_spans (port n : Nat) (s : State) : (s.portRx port n).spans = s.spans := State.incBytes_spans _ _ s
@[simp] theorem State.portRx_ports (port n : Nat) (s : State) : (s.portRx port n).ports = s.ports := State.incBytes_ports _ _ s
@[simp] theorem State.portRx_perstLow (port n : Nat) (s : State) : (s.portRx port n).perstLow = s.perstLow := State.incBytes_perstLow _ _ s
@[simp] theorem State.portRx_lanes (port n : Nat) (s : State) : (s.portRx port n).lanes = s.lanes := State.incBytes_lanes _ _ s
@[simp] theorem State.portRx_handles (port n : Nat) (s : State) : (s.portRx port n).handles = s.handles := State.incBytes_handles _ _ s
@[simp] theorem State.portRx_named (port n : Nat) (s : State) : (s.portRx port n).named = s.named := State.incBytes_named _ _ s
@[simp] theorem State.portRx_logs (port n : Nat) (s : State) : (s.portRx port n).logs = s.logs := State.incBytes_logs _ _ s
@[simp] theorem State.portRx_requests (port n : Nat) (s : State) : (s.portRx port n).requests = s.requests := State.incBytes_requests _ _ s
@[simp] theorem State.portRx_waiting (port n : Nat) (s : State) : (s.portRx port n).waiting = s.waiting := State.incBytes_waiting _ _ s
@[simp] theorem State.portRx_stamp (port n : Nat) (s : State) : (s.portRx port n).stamp = s.stamp := State.incBytes_stamp _ _ s
@[simp] theorem State.portRx_jobs (port n : Nat) (s : State) : (s.portRx port n).jobs = s.jobs := State.incBytes_jobs _ _ s
@[simp] theorem State.portRx_ended (port n : Nat) (s : State) : (s.portRx port n).ended = s.ended := State.incBytes_ended _ _ s
@[simp] theorem State.portRx_pub (port n : Nat) (s : State) : (s.portRx port n).pub = s.pub := State.incBytes_pub _ _ s
@[simp] theorem State.portRx_cycStart (port n : Nat) (s : State) : (s.portRx port n).cycStart = s.cycStart := State.incBytes_cycStart _ _ s
@[simp] theorem State.portRx_spanSaved (port n : Nat) (s : State) : (s.portRx port n).spanSaved = s.spanSaved := State.incBytes_spanSaved _ _ s
@[simp] theorem State.portRx_routes (port n : Nat) (s : State) : (s.portRx port n).routes = s.routes := State.incBytes_routes _ _ s
@[simp] theorem State.portRx_running (port n : Nat) (s : State) : (s.portRx port n).running = s.running := State.incBytes_running _ _ s
@[simp] theorem State.portRx_nextJob (port n : Nat) (s : State) : (s.portRx port n).nextJob = s.nextJob := State.incBytes_nextJob _ _ s
@[simp] theorem State.portRx_bits (port n : Nat) (s : State) : (s.portRx port n).bits = s.bits := State.incBytes_bits _ _ s
@[simp] theorem State.portRx_binding (port n : Nat) (s : State) : (s.portRx port n).binding = s.binding := State.incBytes_binding _ _ s
@[simp] theorem State.portRx_load (port n : Nat) (s : State) : (s.portRx port n).load = s.load := State.incBytes_load _ _ s
@[simp] theorem State.portRx_loadStatus (port n : Nat) (s : State) : (s.portRx port n).loadStatus = s.loadStatus := State.incBytes_loadStatus _ _ s
@[simp] theorem State.portRx_loadDetail (port n : Nat) (s : State) : (s.portRx port n).loadDetail = s.loadDetail := State.incBytes_loadDetail _ _ s
@[simp] theorem State.portRx_cache (port n : Nat) (s : State) : (s.portRx port n).cache = s.cache := State.incBytes_cache _ _ s
@[simp] theorem State.portRx_hot (port n : Nat) (s : State) : (s.portRx port n).hot = s.hot := State.incBytes_hot _ _ s
@[simp] theorem State.portRx_staged (port n : Nat) (s : State) : (s.portRx port n).staged = s.staged := State.incBytes_staged _ _ s
@[simp] theorem State.portRx_tune (port n : Nat) (s : State) : (s.portRx port n).tune = s.tune := State.incBytes_tune _ _ s
@[simp] theorem State.portRx_kv (port n : Nat) (s : State) : (s.portRx port n).kv = s.kv := State.incBytes_kv _ _ s
@[simp] theorem State.portRx_kvSaved (port n : Nat) (s : State) : (s.portRx port n).kvSaved = s.kvSaved := State.incBytes_kvSaved _ _ s
@[simp] theorem State.portRx_govSaved (port n : Nat) (s : State) : (s.portRx port n).govSaved = s.govSaved := State.incBytes_govSaved _ _ s
@[simp] theorem State.portRx_tickSaved (port n : Nat) (s : State) : (s.portRx port n).tickSaved = s.tickSaved := State.incBytes_tickSaved _ _ s
@[simp] theorem State.portRx_tick (port n : Nat) (s : State) : (s.portRx port n).tick = s.tick := State.incBytes_tick _ _ s
@[simp] theorem State.portRx_gov (port n : Nat) (s : State) : (s.portRx port n).gov = s.gov := State.incBytes_gov _ _ s
@[simp] theorem State.portRx_trs (port n : Nat) (s : State) : (s.portRx port n).trs = s.trs := State.incBytes_trs _ _ s
@[simp] theorem State.portRx_mem (port n : Nat) (s : State) : (s.portRx port n).mem = s.mem := State.incBytes_mem _ _ s
@[simp] theorem State.portRx_landings (port n : Nat) (s : State) : (s.portRx port n).landings = s.landings := State.incBytes_landings _ _ s
@[simp] theorem State.portRx_via (port n : Nat) (s : State) : (s.portRx port n).via = s.via := State.incBytes_via _ _ s
@[simp] theorem State.portRx_flt (port n : Nat) (s : State) : (s.portRx port n).flt = s.flt := State.incBytes_flt _ _ s

@[simp] theorem State.dma_pending (port addr : Nat) (bytes : List Byte) (s : State) : (s.dma port addr bytes).pending = s.pending := by unfold State.dma; split <;> simp
@[simp] theorem State.dma_time (port addr : Nat) (bytes : List Byte) (s : State) : (s.dma port addr bytes).time = s.time := by unfold State.dma; split <;> simp
@[simp] theorem State.dma_tbOff (port addr : Nat) (bytes : List Byte) (s : State) : (s.dma port addr bytes).tbOff = s.tbOff := by unfold State.dma; split <;> simp
@[simp] theorem State.dma_fresh (port addr : Nat) (bytes : List Byte) (s : State) : (s.dma port addr bytes).fresh = s.fresh := by unfold State.dma; split <;> simp
@[simp] theorem State.dma_regs (port addr : Nat) (bytes : List Byte) (s : State) : (s.dma port addr bytes).regs = s.regs := by unfold State.dma; split <;> simp
@[simp] theorem State.dma_fuses (port addr : Nat) (bytes : List Byte) (s : State) : (s.dma port addr bytes).fuses = s.fuses := by unfold State.dma; split <;> simp
@[simp] theorem State.dma_flash (port addr : Nat) (bytes : List Byte) (s : State) : (s.dma port addr bytes).flash = s.flash := by unfold State.dma; split <;> simp
@[simp] theorem State.dma_boot (port addr : Nat) (bytes : List Byte) (s : State) : (s.dma port addr bytes).boot = s.boot := by unfold State.dma; split <;> simp
@[simp] theorem State.dma_pwr (port addr : Nat) (bytes : List Byte) (s : State) : (s.dma port addr bytes).pwr = s.pwr := by unfold State.dma; split <;> simp
@[simp] theorem State.dma_sb (port addr : Nat) (bytes : List Byte) (s : State) : (s.dma port addr bytes).sb = s.sb := by unfold State.dma; split <;> simp
@[simp] theorem State.dma_sec (port addr : Nat) (bytes : List Byte) (s : State) : (s.dma port addr bytes).sec = s.sec := by unfold State.dma; split <;> simp
@[simp] theorem State.dma_obs (port addr : Nat) (bytes : List Byte) (s : State) : (s.dma port addr bytes).obs = s.obs := by unfold State.dma; split <;> simp
@[simp] theorem State.dma_spanMap (port addr : Nat) (bytes : List Byte) (s : State) : (s.dma port addr bytes).spanMap = s.spanMap := by unfold State.dma; split <;> simp
@[simp] theorem State.dma_mapEpoch (port addr : Nat) (bytes : List Byte) (s : State) : (s.dma port addr bytes).mapEpoch = s.mapEpoch := by unfold State.dma; split <;> simp
@[simp] theorem State.dma_spans (port addr : Nat) (bytes : List Byte) (s : State) : (s.dma port addr bytes).spans = s.spans := by unfold State.dma; split <;> simp
@[simp] theorem State.dma_ports (port addr : Nat) (bytes : List Byte) (s : State) : (s.dma port addr bytes).ports = s.ports := by unfold State.dma; split <;> simp
@[simp] theorem State.dma_perstLow (port addr : Nat) (bytes : List Byte) (s : State) : (s.dma port addr bytes).perstLow = s.perstLow := by unfold State.dma; split <;> simp
@[simp] theorem State.dma_lanes (port addr : Nat) (bytes : List Byte) (s : State) : (s.dma port addr bytes).lanes = s.lanes := by unfold State.dma; split <;> simp
@[simp] theorem State.dma_handles (port addr : Nat) (bytes : List Byte) (s : State) : (s.dma port addr bytes).handles = s.handles := by unfold State.dma; split <;> simp
@[simp] theorem State.dma_named (port addr : Nat) (bytes : List Byte) (s : State) : (s.dma port addr bytes).named = s.named := by unfold State.dma; split <;> simp
@[simp] theorem State.dma_logs (port addr : Nat) (bytes : List Byte) (s : State) : (s.dma port addr bytes).logs = s.logs := by unfold State.dma; split <;> simp
@[simp] theorem State.dma_requests (port addr : Nat) (bytes : List Byte) (s : State) : (s.dma port addr bytes).requests = s.requests := by unfold State.dma; split <;> simp
@[simp] theorem State.dma_waiting (port addr : Nat) (bytes : List Byte) (s : State) : (s.dma port addr bytes).waiting = s.waiting := by unfold State.dma; split <;> simp
@[simp] theorem State.dma_stamp (port addr : Nat) (bytes : List Byte) (s : State) : (s.dma port addr bytes).stamp = s.stamp := by unfold State.dma; split <;> simp
@[simp] theorem State.dma_jobs (port addr : Nat) (bytes : List Byte) (s : State) : (s.dma port addr bytes).jobs = s.jobs := by unfold State.dma; split <;> simp
@[simp] theorem State.dma_ended (port addr : Nat) (bytes : List Byte) (s : State) : (s.dma port addr bytes).ended = s.ended := by unfold State.dma; split <;> simp
@[simp] theorem State.dma_pub (port addr : Nat) (bytes : List Byte) (s : State) : (s.dma port addr bytes).pub = s.pub := by unfold State.dma; split <;> simp
@[simp] theorem State.dma_cycStart (port addr : Nat) (bytes : List Byte) (s : State) : (s.dma port addr bytes).cycStart = s.cycStart := by unfold State.dma; split <;> simp
@[simp] theorem State.dma_spanSaved (port addr : Nat) (bytes : List Byte) (s : State) : (s.dma port addr bytes).spanSaved = s.spanSaved := by unfold State.dma; split <;> simp
@[simp] theorem State.dma_routes (port addr : Nat) (bytes : List Byte) (s : State) : (s.dma port addr bytes).routes = s.routes := by unfold State.dma; split <;> simp
@[simp] theorem State.dma_running (port addr : Nat) (bytes : List Byte) (s : State) : (s.dma port addr bytes).running = s.running := by unfold State.dma; split <;> simp
@[simp] theorem State.dma_nextJob (port addr : Nat) (bytes : List Byte) (s : State) : (s.dma port addr bytes).nextJob = s.nextJob := by unfold State.dma; split <;> simp
@[simp] theorem State.dma_bits (port addr : Nat) (bytes : List Byte) (s : State) : (s.dma port addr bytes).bits = s.bits := by unfold State.dma; split <;> simp
@[simp] theorem State.dma_binding (port addr : Nat) (bytes : List Byte) (s : State) : (s.dma port addr bytes).binding = s.binding := by unfold State.dma; split <;> simp
@[simp] theorem State.dma_load (port addr : Nat) (bytes : List Byte) (s : State) : (s.dma port addr bytes).load = s.load := by unfold State.dma; split <;> simp
@[simp] theorem State.dma_loadStatus (port addr : Nat) (bytes : List Byte) (s : State) : (s.dma port addr bytes).loadStatus = s.loadStatus := by unfold State.dma; split <;> simp
@[simp] theorem State.dma_loadDetail (port addr : Nat) (bytes : List Byte) (s : State) : (s.dma port addr bytes).loadDetail = s.loadDetail := by unfold State.dma; split <;> simp
@[simp] theorem State.dma_cache (port addr : Nat) (bytes : List Byte) (s : State) : (s.dma port addr bytes).cache = s.cache := by unfold State.dma; split <;> simp
@[simp] theorem State.dma_hot (port addr : Nat) (bytes : List Byte) (s : State) : (s.dma port addr bytes).hot = s.hot := by unfold State.dma; split <;> simp
@[simp] theorem State.dma_staged (port addr : Nat) (bytes : List Byte) (s : State) : (s.dma port addr bytes).staged = s.staged := by unfold State.dma; split <;> simp
@[simp] theorem State.dma_tune (port addr : Nat) (bytes : List Byte) (s : State) : (s.dma port addr bytes).tune = s.tune := by unfold State.dma; split <;> simp
@[simp] theorem State.dma_kv (port addr : Nat) (bytes : List Byte) (s : State) : (s.dma port addr bytes).kv = s.kv := by unfold State.dma; split <;> simp
@[simp] theorem State.dma_kvSaved (port addr : Nat) (bytes : List Byte) (s : State) : (s.dma port addr bytes).kvSaved = s.kvSaved := by unfold State.dma; split <;> simp
@[simp] theorem State.dma_govSaved (port addr : Nat) (bytes : List Byte) (s : State) : (s.dma port addr bytes).govSaved = s.govSaved := by unfold State.dma; split <;> simp
@[simp] theorem State.dma_tickSaved (port addr : Nat) (bytes : List Byte) (s : State) : (s.dma port addr bytes).tickSaved = s.tickSaved := by unfold State.dma; split <;> simp
@[simp] theorem State.dma_tick (port addr : Nat) (bytes : List Byte) (s : State) : (s.dma port addr bytes).tick = s.tick := by unfold State.dma; split <;> simp
@[simp] theorem State.dma_gov (port addr : Nat) (bytes : List Byte) (s : State) : (s.dma port addr bytes).gov = s.gov := by unfold State.dma; split <;> simp
@[simp] theorem State.dma_trs (port addr : Nat) (bytes : List Byte) (s : State) : (s.dma port addr bytes).trs = s.trs := by unfold State.dma; split <;> simp
@[simp] theorem State.dma_mem (port addr : Nat) (bytes : List Byte) (s : State) : (s.dma port addr bytes).mem = s.mem := by unfold State.dma; split <;> simp
@[simp] theorem State.dma_landings (port addr : Nat) (bytes : List Byte) (s : State) : (s.dma port addr bytes).landings = s.landings := by unfold State.dma; split <;> simp
@[simp] theorem State.dma_via (port addr : Nat) (bytes : List Byte) (s : State) : (s.dma port addr bytes).via = s.via := by unfold State.dma; split <;> simp
@[simp] theorem State.dma_flt (port addr : Nat) (bytes : List Byte) (s : State) : (s.dma port addr bytes).flt = s.flt := by unfold State.dma; split <;> simp

@[simp] theorem State.writeEvent_pending (port part : Nat) (e : EventRec) (mark : Nat) (reserved : Bool) (s : State) : (s.writeEvent port part e mark reserved).pending = s.pending := by unfold State.writeEvent; split <;> simp
@[simp] theorem State.writeEvent_time (port part : Nat) (e : EventRec) (mark : Nat) (reserved : Bool) (s : State) : (s.writeEvent port part e mark reserved).time = s.time := by unfold State.writeEvent; split <;> simp
@[simp] theorem State.writeEvent_tbOff (port part : Nat) (e : EventRec) (mark : Nat) (reserved : Bool) (s : State) : (s.writeEvent port part e mark reserved).tbOff = s.tbOff := by unfold State.writeEvent; split <;> simp
@[simp] theorem State.writeEvent_fresh (port part : Nat) (e : EventRec) (mark : Nat) (reserved : Bool) (s : State) : (s.writeEvent port part e mark reserved).fresh = s.fresh := by unfold State.writeEvent; split <;> simp
@[simp] theorem State.writeEvent_regs (port part : Nat) (e : EventRec) (mark : Nat) (reserved : Bool) (s : State) : (s.writeEvent port part e mark reserved).regs = s.regs := by unfold State.writeEvent; split <;> simp
@[simp] theorem State.writeEvent_fuses (port part : Nat) (e : EventRec) (mark : Nat) (reserved : Bool) (s : State) : (s.writeEvent port part e mark reserved).fuses = s.fuses := by unfold State.writeEvent; split <;> simp
@[simp] theorem State.writeEvent_flash (port part : Nat) (e : EventRec) (mark : Nat) (reserved : Bool) (s : State) : (s.writeEvent port part e mark reserved).flash = s.flash := by unfold State.writeEvent; split <;> simp
@[simp] theorem State.writeEvent_boot (port part : Nat) (e : EventRec) (mark : Nat) (reserved : Bool) (s : State) : (s.writeEvent port part e mark reserved).boot = s.boot := by unfold State.writeEvent; split <;> simp
@[simp] theorem State.writeEvent_pwr (port part : Nat) (e : EventRec) (mark : Nat) (reserved : Bool) (s : State) : (s.writeEvent port part e mark reserved).pwr = s.pwr := by unfold State.writeEvent; split <;> simp
@[simp] theorem State.writeEvent_sb (port part : Nat) (e : EventRec) (mark : Nat) (reserved : Bool) (s : State) : (s.writeEvent port part e mark reserved).sb = s.sb := by unfold State.writeEvent; split <;> simp
@[simp] theorem State.writeEvent_sec (port part : Nat) (e : EventRec) (mark : Nat) (reserved : Bool) (s : State) : (s.writeEvent port part e mark reserved).sec = s.sec := by unfold State.writeEvent; split <;> simp
@[simp] theorem State.writeEvent_obs (port part : Nat) (e : EventRec) (mark : Nat) (reserved : Bool) (s : State) : (s.writeEvent port part e mark reserved).obs = s.obs := by unfold State.writeEvent; split <;> simp
@[simp] theorem State.writeEvent_spanMap (port part : Nat) (e : EventRec) (mark : Nat) (reserved : Bool) (s : State) : (s.writeEvent port part e mark reserved).spanMap = s.spanMap := by unfold State.writeEvent; split <;> simp
@[simp] theorem State.writeEvent_mapEpoch (port part : Nat) (e : EventRec) (mark : Nat) (reserved : Bool) (s : State) : (s.writeEvent port part e mark reserved).mapEpoch = s.mapEpoch := by unfold State.writeEvent; split <;> simp
@[simp] theorem State.writeEvent_spans (port part : Nat) (e : EventRec) (mark : Nat) (reserved : Bool) (s : State) : (s.writeEvent port part e mark reserved).spans = s.spans := by unfold State.writeEvent; split <;> simp
@[simp] theorem State.writeEvent_ports (port part : Nat) (e : EventRec) (mark : Nat) (reserved : Bool) (s : State) : (s.writeEvent port part e mark reserved).ports = s.ports := by unfold State.writeEvent; split <;> simp
@[simp] theorem State.writeEvent_perstLow (port part : Nat) (e : EventRec) (mark : Nat) (reserved : Bool) (s : State) : (s.writeEvent port part e mark reserved).perstLow = s.perstLow := by unfold State.writeEvent; split <;> simp
@[simp] theorem State.writeEvent_lanes (port part : Nat) (e : EventRec) (mark : Nat) (reserved : Bool) (s : State) : (s.writeEvent port part e mark reserved).lanes = s.lanes := by unfold State.writeEvent; split <;> simp
@[simp] theorem State.writeEvent_handles (port part : Nat) (e : EventRec) (mark : Nat) (reserved : Bool) (s : State) : (s.writeEvent port part e mark reserved).handles = s.handles := by unfold State.writeEvent; split <;> simp
@[simp] theorem State.writeEvent_named (port part : Nat) (e : EventRec) (mark : Nat) (reserved : Bool) (s : State) : (s.writeEvent port part e mark reserved).named = s.named := by unfold State.writeEvent; split <;> simp
@[simp] theorem State.writeEvent_requests (port part : Nat) (e : EventRec) (mark : Nat) (reserved : Bool) (s : State) : (s.writeEvent port part e mark reserved).requests = s.requests := by unfold State.writeEvent; split <;> simp
@[simp] theorem State.writeEvent_waiting (port part : Nat) (e : EventRec) (mark : Nat) (reserved : Bool) (s : State) : (s.writeEvent port part e mark reserved).waiting = s.waiting := by unfold State.writeEvent; split <;> simp
@[simp] theorem State.writeEvent_stamp (port part : Nat) (e : EventRec) (mark : Nat) (reserved : Bool) (s : State) : (s.writeEvent port part e mark reserved).stamp = s.stamp := by unfold State.writeEvent; split <;> simp
@[simp] theorem State.writeEvent_jobs (port part : Nat) (e : EventRec) (mark : Nat) (reserved : Bool) (s : State) : (s.writeEvent port part e mark reserved).jobs = s.jobs := by unfold State.writeEvent; split <;> simp
@[simp] theorem State.writeEvent_ended (port part : Nat) (e : EventRec) (mark : Nat) (reserved : Bool) (s : State) : (s.writeEvent port part e mark reserved).ended = s.ended := by unfold State.writeEvent; split <;> simp
@[simp] theorem State.writeEvent_pub (port part : Nat) (e : EventRec) (mark : Nat) (reserved : Bool) (s : State) : (s.writeEvent port part e mark reserved).pub = s.pub := by unfold State.writeEvent; split <;> simp
@[simp] theorem State.writeEvent_cycStart (port part : Nat) (e : EventRec) (mark : Nat) (reserved : Bool) (s : State) : (s.writeEvent port part e mark reserved).cycStart = s.cycStart := by unfold State.writeEvent; split <;> simp
@[simp] theorem State.writeEvent_spanSaved (port part : Nat) (e : EventRec) (mark : Nat) (reserved : Bool) (s : State) : (s.writeEvent port part e mark reserved).spanSaved = s.spanSaved := by unfold State.writeEvent; split <;> simp
@[simp] theorem State.writeEvent_routes (port part : Nat) (e : EventRec) (mark : Nat) (reserved : Bool) (s : State) : (s.writeEvent port part e mark reserved).routes = s.routes := by unfold State.writeEvent; split <;> simp
@[simp] theorem State.writeEvent_running (port part : Nat) (e : EventRec) (mark : Nat) (reserved : Bool) (s : State) : (s.writeEvent port part e mark reserved).running = s.running := by unfold State.writeEvent; split <;> simp
@[simp] theorem State.writeEvent_nextJob (port part : Nat) (e : EventRec) (mark : Nat) (reserved : Bool) (s : State) : (s.writeEvent port part e mark reserved).nextJob = s.nextJob := by unfold State.writeEvent; split <;> simp
@[simp] theorem State.writeEvent_bits (port part : Nat) (e : EventRec) (mark : Nat) (reserved : Bool) (s : State) : (s.writeEvent port part e mark reserved).bits = s.bits := by unfold State.writeEvent; split <;> simp
@[simp] theorem State.writeEvent_binding (port part : Nat) (e : EventRec) (mark : Nat) (reserved : Bool) (s : State) : (s.writeEvent port part e mark reserved).binding = s.binding := by unfold State.writeEvent; split <;> simp
@[simp] theorem State.writeEvent_load (port part : Nat) (e : EventRec) (mark : Nat) (reserved : Bool) (s : State) : (s.writeEvent port part e mark reserved).load = s.load := by unfold State.writeEvent; split <;> simp
@[simp] theorem State.writeEvent_loadStatus (port part : Nat) (e : EventRec) (mark : Nat) (reserved : Bool) (s : State) : (s.writeEvent port part e mark reserved).loadStatus = s.loadStatus := by unfold State.writeEvent; split <;> simp
@[simp] theorem State.writeEvent_loadDetail (port part : Nat) (e : EventRec) (mark : Nat) (reserved : Bool) (s : State) : (s.writeEvent port part e mark reserved).loadDetail = s.loadDetail := by unfold State.writeEvent; split <;> simp
@[simp] theorem State.writeEvent_cache (port part : Nat) (e : EventRec) (mark : Nat) (reserved : Bool) (s : State) : (s.writeEvent port part e mark reserved).cache = s.cache := by unfold State.writeEvent; split <;> simp
@[simp] theorem State.writeEvent_hot (port part : Nat) (e : EventRec) (mark : Nat) (reserved : Bool) (s : State) : (s.writeEvent port part e mark reserved).hot = s.hot := by unfold State.writeEvent; split <;> simp
@[simp] theorem State.writeEvent_staged (port part : Nat) (e : EventRec) (mark : Nat) (reserved : Bool) (s : State) : (s.writeEvent port part e mark reserved).staged = s.staged := by unfold State.writeEvent; split <;> simp
@[simp] theorem State.writeEvent_tune (port part : Nat) (e : EventRec) (mark : Nat) (reserved : Bool) (s : State) : (s.writeEvent port part e mark reserved).tune = s.tune := by unfold State.writeEvent; split <;> simp
@[simp] theorem State.writeEvent_kv (port part : Nat) (e : EventRec) (mark : Nat) (reserved : Bool) (s : State) : (s.writeEvent port part e mark reserved).kv = s.kv := by unfold State.writeEvent; split <;> simp
@[simp] theorem State.writeEvent_kvSaved (port part : Nat) (e : EventRec) (mark : Nat) (reserved : Bool) (s : State) : (s.writeEvent port part e mark reserved).kvSaved = s.kvSaved := by unfold State.writeEvent; split <;> simp
@[simp] theorem State.writeEvent_govSaved (port part : Nat) (e : EventRec) (mark : Nat) (reserved : Bool) (s : State) : (s.writeEvent port part e mark reserved).govSaved = s.govSaved := by unfold State.writeEvent; split <;> simp
@[simp] theorem State.writeEvent_tickSaved (port part : Nat) (e : EventRec) (mark : Nat) (reserved : Bool) (s : State) : (s.writeEvent port part e mark reserved).tickSaved = s.tickSaved := by unfold State.writeEvent; split <;> simp
@[simp] theorem State.writeEvent_tick (port part : Nat) (e : EventRec) (mark : Nat) (reserved : Bool) (s : State) : (s.writeEvent port part e mark reserved).tick = s.tick := by unfold State.writeEvent; split <;> simp
@[simp] theorem State.writeEvent_gov (port part : Nat) (e : EventRec) (mark : Nat) (reserved : Bool) (s : State) : (s.writeEvent port part e mark reserved).gov = s.gov := by unfold State.writeEvent; split <;> simp
@[simp] theorem State.writeEvent_trs (port part : Nat) (e : EventRec) (mark : Nat) (reserved : Bool) (s : State) : (s.writeEvent port part e mark reserved).trs = s.trs := by unfold State.writeEvent; split <;> simp
@[simp] theorem State.writeEvent_mem (port part : Nat) (e : EventRec) (mark : Nat) (reserved : Bool) (s : State) : (s.writeEvent port part e mark reserved).mem = s.mem := by unfold State.writeEvent; split <;> simp
@[simp] theorem State.writeEvent_landings (port part : Nat) (e : EventRec) (mark : Nat) (reserved : Bool) (s : State) : (s.writeEvent port part e mark reserved).landings = s.landings := by unfold State.writeEvent; split <;> simp
@[simp] theorem State.writeEvent_via (port part : Nat) (e : EventRec) (mark : Nat) (reserved : Bool) (s : State) : (s.writeEvent port part e mark reserved).via = s.via := by unfold State.writeEvent; split <;> simp
@[simp] theorem State.writeEvent_flt (port part : Nat) (e : EventRec) (mark : Nat) (reserved : Bool) (s : State) : (s.writeEvent port part e mark reserved).flt = s.flt := by unfold State.writeEvent; split <;> simp

@[simp] theorem State.openWindow_pending (port part : Nat) (s : State) : (s.openWindow port part).pending = s.pending := by unfold State.openWindow; (repeat' split) <;> rfl
@[simp] theorem State.openWindow_out (port part : Nat) (s : State) : (s.openWindow port part).out = s.out := by unfold State.openWindow; (repeat' split) <;> rfl
@[simp] theorem State.openWindow_time (port part : Nat) (s : State) : (s.openWindow port part).time = s.time := by unfold State.openWindow; (repeat' split) <;> rfl
@[simp] theorem State.openWindow_tbOff (port part : Nat) (s : State) : (s.openWindow port part).tbOff = s.tbOff := by unfold State.openWindow; (repeat' split) <;> rfl
@[simp] theorem State.openWindow_fresh (port part : Nat) (s : State) : (s.openWindow port part).fresh = s.fresh := by unfold State.openWindow; (repeat' split) <;> rfl
@[simp] theorem State.openWindow_regs (port part : Nat) (s : State) : (s.openWindow port part).regs = s.regs := by unfold State.openWindow; (repeat' split) <;> rfl
@[simp] theorem State.openWindow_counters (port part : Nat) (s : State) : (s.openWindow port part).counters = s.counters := by unfold State.openWindow; (repeat' split) <;> rfl
@[simp] theorem State.openWindow_fuses (port part : Nat) (s : State) : (s.openWindow port part).fuses = s.fuses := by unfold State.openWindow; (repeat' split) <;> rfl
@[simp] theorem State.openWindow_flash (port part : Nat) (s : State) : (s.openWindow port part).flash = s.flash := by unfold State.openWindow; (repeat' split) <;> rfl
@[simp] theorem State.openWindow_boot (port part : Nat) (s : State) : (s.openWindow port part).boot = s.boot := by unfold State.openWindow; (repeat' split) <;> rfl
@[simp] theorem State.openWindow_pwr (port part : Nat) (s : State) : (s.openWindow port part).pwr = s.pwr := by unfold State.openWindow; (repeat' split) <;> rfl
@[simp] theorem State.openWindow_sb (port part : Nat) (s : State) : (s.openWindow port part).sb = s.sb := by unfold State.openWindow; (repeat' split) <;> rfl
@[simp] theorem State.openWindow_sec (port part : Nat) (s : State) : (s.openWindow port part).sec = s.sec := by unfold State.openWindow; (repeat' split) <;> rfl
@[simp] theorem State.openWindow_obs (port part : Nat) (s : State) : (s.openWindow port part).obs = s.obs := by unfold State.openWindow; (repeat' split) <;> rfl
@[simp] theorem State.openWindow_spanMap (port part : Nat) (s : State) : (s.openWindow port part).spanMap = s.spanMap := by unfold State.openWindow; (repeat' split) <;> rfl
@[simp] theorem State.openWindow_mapEpoch (port part : Nat) (s : State) : (s.openWindow port part).mapEpoch = s.mapEpoch := by unfold State.openWindow; (repeat' split) <;> rfl
@[simp] theorem State.openWindow_spans (port part : Nat) (s : State) : (s.openWindow port part).spans = s.spans := by unfold State.openWindow; (repeat' split) <;> rfl
@[simp] theorem State.openWindow_ports (port part : Nat) (s : State) : (s.openWindow port part).ports = s.ports := by unfold State.openWindow; (repeat' split) <;> rfl
@[simp] theorem State.openWindow_perstLow (port part : Nat) (s : State) : (s.openWindow port part).perstLow = s.perstLow := by unfold State.openWindow; (repeat' split) <;> rfl
@[simp] theorem State.openWindow_lanes (port part : Nat) (s : State) : (s.openWindow port part).lanes = s.lanes := by unfold State.openWindow; (repeat' split) <;> rfl
@[simp] theorem State.openWindow_handles (port part : Nat) (s : State) : (s.openWindow port part).handles = s.handles := by unfold State.openWindow; (repeat' split) <;> rfl
@[simp] theorem State.openWindow_named (port part : Nat) (s : State) : (s.openWindow port part).named = s.named := by unfold State.openWindow; (repeat' split) <;> rfl
@[simp] theorem State.openWindow_requests (port part : Nat) (s : State) : (s.openWindow port part).requests = s.requests := by unfold State.openWindow; (repeat' split) <;> rfl
@[simp] theorem State.openWindow_waiting (port part : Nat) (s : State) : (s.openWindow port part).waiting = s.waiting := by unfold State.openWindow; (repeat' split) <;> rfl
@[simp] theorem State.openWindow_stamp (port part : Nat) (s : State) : (s.openWindow port part).stamp = s.stamp := by unfold State.openWindow; (repeat' split) <;> rfl
@[simp] theorem State.openWindow_jobs (port part : Nat) (s : State) : (s.openWindow port part).jobs = s.jobs := by unfold State.openWindow; (repeat' split) <;> rfl
@[simp] theorem State.openWindow_ended (port part : Nat) (s : State) : (s.openWindow port part).ended = s.ended := by unfold State.openWindow; (repeat' split) <;> rfl
@[simp] theorem State.openWindow_pub (port part : Nat) (s : State) : (s.openWindow port part).pub = s.pub := by unfold State.openWindow; (repeat' split) <;> rfl
@[simp] theorem State.openWindow_cycStart (port part : Nat) (s : State) : (s.openWindow port part).cycStart = s.cycStart := by unfold State.openWindow; (repeat' split) <;> rfl
@[simp] theorem State.openWindow_spanSaved (port part : Nat) (s : State) : (s.openWindow port part).spanSaved = s.spanSaved := by unfold State.openWindow; (repeat' split) <;> rfl
@[simp] theorem State.openWindow_routes (port part : Nat) (s : State) : (s.openWindow port part).routes = s.routes := by unfold State.openWindow; (repeat' split) <;> rfl
@[simp] theorem State.openWindow_running (port part : Nat) (s : State) : (s.openWindow port part).running = s.running := by unfold State.openWindow; (repeat' split) <;> rfl
@[simp] theorem State.openWindow_nextJob (port part : Nat) (s : State) : (s.openWindow port part).nextJob = s.nextJob := by unfold State.openWindow; (repeat' split) <;> rfl
@[simp] theorem State.openWindow_bits (port part : Nat) (s : State) : (s.openWindow port part).bits = s.bits := by unfold State.openWindow; (repeat' split) <;> rfl
@[simp] theorem State.openWindow_binding (port part : Nat) (s : State) : (s.openWindow port part).binding = s.binding := by unfold State.openWindow; (repeat' split) <;> rfl
@[simp] theorem State.openWindow_load (port part : Nat) (s : State) : (s.openWindow port part).load = s.load := by unfold State.openWindow; (repeat' split) <;> rfl
@[simp] theorem State.openWindow_loadStatus (port part : Nat) (s : State) : (s.openWindow port part).loadStatus = s.loadStatus := by unfold State.openWindow; (repeat' split) <;> rfl
@[simp] theorem State.openWindow_loadDetail (port part : Nat) (s : State) : (s.openWindow port part).loadDetail = s.loadDetail := by unfold State.openWindow; (repeat' split) <;> rfl
@[simp] theorem State.openWindow_cache (port part : Nat) (s : State) : (s.openWindow port part).cache = s.cache := by unfold State.openWindow; (repeat' split) <;> rfl
@[simp] theorem State.openWindow_hot (port part : Nat) (s : State) : (s.openWindow port part).hot = s.hot := by unfold State.openWindow; (repeat' split) <;> rfl
@[simp] theorem State.openWindow_staged (port part : Nat) (s : State) : (s.openWindow port part).staged = s.staged := by unfold State.openWindow; (repeat' split) <;> rfl
@[simp] theorem State.openWindow_tune (port part : Nat) (s : State) : (s.openWindow port part).tune = s.tune := by unfold State.openWindow; (repeat' split) <;> rfl
@[simp] theorem State.openWindow_kv (port part : Nat) (s : State) : (s.openWindow port part).kv = s.kv := by unfold State.openWindow; (repeat' split) <;> rfl
@[simp] theorem State.openWindow_kvSaved (port part : Nat) (s : State) : (s.openWindow port part).kvSaved = s.kvSaved := by unfold State.openWindow; (repeat' split) <;> rfl
@[simp] theorem State.openWindow_govSaved (port part : Nat) (s : State) : (s.openWindow port part).govSaved = s.govSaved := by unfold State.openWindow; (repeat' split) <;> rfl
@[simp] theorem State.openWindow_tickSaved (port part : Nat) (s : State) : (s.openWindow port part).tickSaved = s.tickSaved := by unfold State.openWindow; (repeat' split) <;> rfl
@[simp] theorem State.openWindow_tick (port part : Nat) (s : State) : (s.openWindow port part).tick = s.tick := by unfold State.openWindow; (repeat' split) <;> rfl
@[simp] theorem State.openWindow_gov (port part : Nat) (s : State) : (s.openWindow port part).gov = s.gov := by unfold State.openWindow; (repeat' split) <;> rfl
@[simp] theorem State.openWindow_trs (port part : Nat) (s : State) : (s.openWindow port part).trs = s.trs := by unfold State.openWindow; (repeat' split) <;> rfl
@[simp] theorem State.openWindow_mem (port part : Nat) (s : State) : (s.openWindow port part).mem = s.mem := by unfold State.openWindow; (repeat' split) <;> rfl
@[simp] theorem State.openWindow_landings (port part : Nat) (s : State) : (s.openWindow port part).landings = s.landings := by unfold State.openWindow; (repeat' split) <;> rfl
@[simp] theorem State.openWindow_via (port part : Nat) (s : State) : (s.openWindow port part).via = s.via := by unfold State.openWindow; (repeat' split) <;> rfl
@[simp] theorem State.openWindow_flt (port part : Nat) (s : State) : (s.openWindow port part).flt = s.flt := by unfold State.openWindow; (repeat' split) <;> rfl

/-! What a deferred action does to all but what goes out. -/

@[simp] theorem State.defer_pending (part : Option Nat) (f : State → State) (s : State) : (s.defer part f).pending = (f s).pending := by unfold State.defer; split <;> rfl
@[simp] theorem State.defer_time (part : Option Nat) (f : State → State) (s : State) : (s.defer part f).time = (f s).time := by unfold State.defer; split <;> rfl
@[simp] theorem State.defer_tbOff (part : Option Nat) (f : State → State) (s : State) : (s.defer part f).tbOff = (f s).tbOff := by unfold State.defer; split <;> rfl
@[simp] theorem State.defer_fresh (part : Option Nat) (f : State → State) (s : State) : (s.defer part f).fresh = (f s).fresh := by unfold State.defer; split <;> rfl
@[simp] theorem State.defer_regs (part : Option Nat) (f : State → State) (s : State) : (s.defer part f).regs = (f s).regs := by unfold State.defer; split <;> rfl
@[simp] theorem State.defer_fuses (part : Option Nat) (f : State → State) (s : State) : (s.defer part f).fuses = (f s).fuses := by unfold State.defer; split <;> rfl
@[simp] theorem State.defer_flash (part : Option Nat) (f : State → State) (s : State) : (s.defer part f).flash = (f s).flash := by unfold State.defer; split <;> rfl
@[simp] theorem State.defer_boot (part : Option Nat) (f : State → State) (s : State) : (s.defer part f).boot = (f s).boot := by unfold State.defer; split <;> rfl
@[simp] theorem State.defer_pwr (part : Option Nat) (f : State → State) (s : State) : (s.defer part f).pwr = (f s).pwr := by unfold State.defer; split <;> rfl
@[simp] theorem State.defer_sb (part : Option Nat) (f : State → State) (s : State) : (s.defer part f).sb = (f s).sb := by unfold State.defer; split <;> rfl
@[simp] theorem State.defer_sec (part : Option Nat) (f : State → State) (s : State) : (s.defer part f).sec = (f s).sec := by unfold State.defer; split <;> rfl
@[simp] theorem State.defer_obs (part : Option Nat) (f : State → State) (s : State) : (s.defer part f).obs = (f s).obs := by unfold State.defer; split <;> rfl
@[simp] theorem State.defer_spanMap (part : Option Nat) (f : State → State) (s : State) : (s.defer part f).spanMap = (f s).spanMap := by unfold State.defer; split <;> rfl
@[simp] theorem State.defer_mapEpoch (part : Option Nat) (f : State → State) (s : State) : (s.defer part f).mapEpoch = (f s).mapEpoch := by unfold State.defer; split <;> rfl
@[simp] theorem State.defer_spans (part : Option Nat) (f : State → State) (s : State) : (s.defer part f).spans = (f s).spans := by unfold State.defer; split <;> rfl
@[simp] theorem State.defer_ports (part : Option Nat) (f : State → State) (s : State) : (s.defer part f).ports = (f s).ports := by unfold State.defer; split <;> rfl
@[simp] theorem State.defer_perstLow (part : Option Nat) (f : State → State) (s : State) : (s.defer part f).perstLow = (f s).perstLow := by unfold State.defer; split <;> rfl
@[simp] theorem State.defer_lanes (part : Option Nat) (f : State → State) (s : State) : (s.defer part f).lanes = (f s).lanes := by unfold State.defer; split <;> rfl
@[simp] theorem State.defer_handles (part : Option Nat) (f : State → State) (s : State) : (s.defer part f).handles = (f s).handles := by unfold State.defer; split <;> rfl
@[simp] theorem State.defer_named (part : Option Nat) (f : State → State) (s : State) : (s.defer part f).named = (f s).named := by unfold State.defer; split <;> rfl
@[simp] theorem State.defer_requests (part : Option Nat) (f : State → State) (s : State) : (s.defer part f).requests = (f s).requests := by unfold State.defer; split <;> rfl
@[simp] theorem State.defer_waiting (part : Option Nat) (f : State → State) (s : State) : (s.defer part f).waiting = (f s).waiting := by unfold State.defer; split <;> rfl
@[simp] theorem State.defer_stamp (part : Option Nat) (f : State → State) (s : State) : (s.defer part f).stamp = (f s).stamp := by unfold State.defer; split <;> rfl
@[simp] theorem State.defer_jobs (part : Option Nat) (f : State → State) (s : State) : (s.defer part f).jobs = (f s).jobs := by unfold State.defer; split <;> rfl
@[simp] theorem State.defer_ended (part : Option Nat) (f : State → State) (s : State) : (s.defer part f).ended = (f s).ended := by unfold State.defer; split <;> rfl
@[simp] theorem State.defer_cycStart (part : Option Nat) (f : State → State) (s : State) : (s.defer part f).cycStart = (f s).cycStart := by unfold State.defer; split <;> rfl
@[simp] theorem State.defer_spanSaved (part : Option Nat) (f : State → State) (s : State) : (s.defer part f).spanSaved = (f s).spanSaved := by unfold State.defer; split <;> rfl
@[simp] theorem State.defer_routes (part : Option Nat) (f : State → State) (s : State) : (s.defer part f).routes = (f s).routes := by unfold State.defer; split <;> rfl
@[simp] theorem State.defer_running (part : Option Nat) (f : State → State) (s : State) : (s.defer part f).running = (f s).running := by unfold State.defer; split <;> rfl
@[simp] theorem State.defer_nextJob (part : Option Nat) (f : State → State) (s : State) : (s.defer part f).nextJob = (f s).nextJob := by unfold State.defer; split <;> rfl
@[simp] theorem State.defer_bits (part : Option Nat) (f : State → State) (s : State) : (s.defer part f).bits = (f s).bits := by unfold State.defer; split <;> rfl
@[simp] theorem State.defer_binding (part : Option Nat) (f : State → State) (s : State) : (s.defer part f).binding = (f s).binding := by unfold State.defer; split <;> rfl
@[simp] theorem State.defer_load (part : Option Nat) (f : State → State) (s : State) : (s.defer part f).load = (f s).load := by unfold State.defer; split <;> rfl
@[simp] theorem State.defer_loadStatus (part : Option Nat) (f : State → State) (s : State) : (s.defer part f).loadStatus = (f s).loadStatus := by unfold State.defer; split <;> rfl
@[simp] theorem State.defer_loadDetail (part : Option Nat) (f : State → State) (s : State) : (s.defer part f).loadDetail = (f s).loadDetail := by unfold State.defer; split <;> rfl
@[simp] theorem State.defer_cache (part : Option Nat) (f : State → State) (s : State) : (s.defer part f).cache = (f s).cache := by unfold State.defer; split <;> rfl
@[simp] theorem State.defer_hot (part : Option Nat) (f : State → State) (s : State) : (s.defer part f).hot = (f s).hot := by unfold State.defer; split <;> rfl
@[simp] theorem State.defer_staged (part : Option Nat) (f : State → State) (s : State) : (s.defer part f).staged = (f s).staged := by unfold State.defer; split <;> rfl
@[simp] theorem State.defer_tune (part : Option Nat) (f : State → State) (s : State) : (s.defer part f).tune = (f s).tune := by unfold State.defer; split <;> rfl
@[simp] theorem State.defer_kv (part : Option Nat) (f : State → State) (s : State) : (s.defer part f).kv = (f s).kv := by unfold State.defer; split <;> rfl
@[simp] theorem State.defer_kvSaved (part : Option Nat) (f : State → State) (s : State) : (s.defer part f).kvSaved = (f s).kvSaved := by unfold State.defer; split <;> rfl
@[simp] theorem State.defer_govSaved (part : Option Nat) (f : State → State) (s : State) : (s.defer part f).govSaved = (f s).govSaved := by unfold State.defer; split <;> rfl
@[simp] theorem State.defer_tickSaved (part : Option Nat) (f : State → State) (s : State) : (s.defer part f).tickSaved = (f s).tickSaved := by unfold State.defer; split <;> rfl
@[simp] theorem State.defer_tick (part : Option Nat) (f : State → State) (s : State) : (s.defer part f).tick = (f s).tick := by unfold State.defer; split <;> rfl
@[simp] theorem State.defer_gov (part : Option Nat) (f : State → State) (s : State) : (s.defer part f).gov = (f s).gov := by unfold State.defer; split <;> rfl
@[simp] theorem State.defer_trs (part : Option Nat) (f : State → State) (s : State) : (s.defer part f).trs = (f s).trs := by unfold State.defer; split <;> rfl
@[simp] theorem State.defer_mem (part : Option Nat) (f : State → State) (s : State) : (s.defer part f).mem = (f s).mem := by unfold State.defer; split <;> rfl
@[simp] theorem State.defer_landings (part : Option Nat) (f : State → State) (s : State) : (s.defer part f).landings = (f s).landings := by unfold State.defer; split <;> rfl
@[simp] theorem State.defer_via (part : Option Nat) (f : State → State) (s : State) : (s.defer part f).via = (f s).via := by unfold State.defer; split <;> rfl
@[simp] theorem State.defer_flt (part : Option Nat) (f : State → State) (s : State) : (s.defer part f).flt = (f s).flt := by unfold State.defer; split <;> rfl
@[simp] theorem State.writeNow_pending (port part : Nat) (e : EventRec) (reserved : Bool) (s : State) : (s.writeNow port part e reserved).pending = s.pending := by unfold State.writeNow; simp
@[simp] theorem State.writeNow_time (port part : Nat) (e : EventRec) (reserved : Bool) (s : State) : (s.writeNow port part e reserved).time = s.time := by unfold State.writeNow; simp
@[simp] theorem State.writeNow_tbOff (port part : Nat) (e : EventRec) (reserved : Bool) (s : State) : (s.writeNow port part e reserved).tbOff = s.tbOff := by unfold State.writeNow; simp
@[simp] theorem State.writeNow_fresh (port part : Nat) (e : EventRec) (reserved : Bool) (s : State) : (s.writeNow port part e reserved).fresh = s.fresh := by unfold State.writeNow; simp
@[simp] theorem State.writeNow_regs (port part : Nat) (e : EventRec) (reserved : Bool) (s : State) : (s.writeNow port part e reserved).regs = s.regs := by unfold State.writeNow; simp
@[simp] theorem State.writeNow_fuses (port part : Nat) (e : EventRec) (reserved : Bool) (s : State) : (s.writeNow port part e reserved).fuses = s.fuses := by unfold State.writeNow; simp
@[simp] theorem State.writeNow_flash (port part : Nat) (e : EventRec) (reserved : Bool) (s : State) : (s.writeNow port part e reserved).flash = s.flash := by unfold State.writeNow; simp
@[simp] theorem State.writeNow_boot (port part : Nat) (e : EventRec) (reserved : Bool) (s : State) : (s.writeNow port part e reserved).boot = s.boot := by unfold State.writeNow; simp
@[simp] theorem State.writeNow_pwr (port part : Nat) (e : EventRec) (reserved : Bool) (s : State) : (s.writeNow port part e reserved).pwr = s.pwr := by unfold State.writeNow; simp
@[simp] theorem State.writeNow_sb (port part : Nat) (e : EventRec) (reserved : Bool) (s : State) : (s.writeNow port part e reserved).sb = s.sb := by unfold State.writeNow; simp
@[simp] theorem State.writeNow_sec (port part : Nat) (e : EventRec) (reserved : Bool) (s : State) : (s.writeNow port part e reserved).sec = s.sec := by unfold State.writeNow; simp
@[simp] theorem State.writeNow_obs (port part : Nat) (e : EventRec) (reserved : Bool) (s : State) : (s.writeNow port part e reserved).obs = s.obs := by unfold State.writeNow; simp
@[simp] theorem State.writeNow_spanMap (port part : Nat) (e : EventRec) (reserved : Bool) (s : State) : (s.writeNow port part e reserved).spanMap = s.spanMap := by unfold State.writeNow; simp
@[simp] theorem State.writeNow_mapEpoch (port part : Nat) (e : EventRec) (reserved : Bool) (s : State) : (s.writeNow port part e reserved).mapEpoch = s.mapEpoch := by unfold State.writeNow; simp
@[simp] theorem State.writeNow_spans (port part : Nat) (e : EventRec) (reserved : Bool) (s : State) : (s.writeNow port part e reserved).spans = s.spans := by unfold State.writeNow; simp
@[simp] theorem State.writeNow_ports (port part : Nat) (e : EventRec) (reserved : Bool) (s : State) : (s.writeNow port part e reserved).ports = s.ports := by unfold State.writeNow; simp
@[simp] theorem State.writeNow_perstLow (port part : Nat) (e : EventRec) (reserved : Bool) (s : State) : (s.writeNow port part e reserved).perstLow = s.perstLow := by unfold State.writeNow; simp
@[simp] theorem State.writeNow_lanes (port part : Nat) (e : EventRec) (reserved : Bool) (s : State) : (s.writeNow port part e reserved).lanes = s.lanes := by unfold State.writeNow; simp
@[simp] theorem State.writeNow_handles (port part : Nat) (e : EventRec) (reserved : Bool) (s : State) : (s.writeNow port part e reserved).handles = s.handles := by unfold State.writeNow; simp
@[simp] theorem State.writeNow_named (port part : Nat) (e : EventRec) (reserved : Bool) (s : State) : (s.writeNow port part e reserved).named = s.named := by unfold State.writeNow; simp
@[simp] theorem State.writeNow_requests (port part : Nat) (e : EventRec) (reserved : Bool) (s : State) : (s.writeNow port part e reserved).requests = s.requests := by unfold State.writeNow; simp
@[simp] theorem State.writeNow_waiting (port part : Nat) (e : EventRec) (reserved : Bool) (s : State) : (s.writeNow port part e reserved).waiting = s.waiting := by unfold State.writeNow; simp
@[simp] theorem State.writeNow_stamp (port part : Nat) (e : EventRec) (reserved : Bool) (s : State) : (s.writeNow port part e reserved).stamp = s.stamp := by unfold State.writeNow; simp
@[simp] theorem State.writeNow_jobs (port part : Nat) (e : EventRec) (reserved : Bool) (s : State) : (s.writeNow port part e reserved).jobs = s.jobs := by unfold State.writeNow; simp
@[simp] theorem State.writeNow_ended (port part : Nat) (e : EventRec) (reserved : Bool) (s : State) : (s.writeNow port part e reserved).ended = s.ended := by unfold State.writeNow; simp
@[simp] theorem State.writeNow_cycStart (port part : Nat) (e : EventRec) (reserved : Bool) (s : State) : (s.writeNow port part e reserved).cycStart = s.cycStart := by unfold State.writeNow; simp
@[simp] theorem State.writeNow_spanSaved (port part : Nat) (e : EventRec) (reserved : Bool) (s : State) : (s.writeNow port part e reserved).spanSaved = s.spanSaved := by unfold State.writeNow; simp
@[simp] theorem State.writeNow_routes (port part : Nat) (e : EventRec) (reserved : Bool) (s : State) : (s.writeNow port part e reserved).routes = s.routes := by unfold State.writeNow; simp
@[simp] theorem State.writeNow_running (port part : Nat) (e : EventRec) (reserved : Bool) (s : State) : (s.writeNow port part e reserved).running = s.running := by unfold State.writeNow; simp
@[simp] theorem State.writeNow_nextJob (port part : Nat) (e : EventRec) (reserved : Bool) (s : State) : (s.writeNow port part e reserved).nextJob = s.nextJob := by unfold State.writeNow; simp
@[simp] theorem State.writeNow_bits (port part : Nat) (e : EventRec) (reserved : Bool) (s : State) : (s.writeNow port part e reserved).bits = s.bits := by unfold State.writeNow; simp
@[simp] theorem State.writeNow_binding (port part : Nat) (e : EventRec) (reserved : Bool) (s : State) : (s.writeNow port part e reserved).binding = s.binding := by unfold State.writeNow; simp
@[simp] theorem State.writeNow_load (port part : Nat) (e : EventRec) (reserved : Bool) (s : State) : (s.writeNow port part e reserved).load = s.load := by unfold State.writeNow; simp
@[simp] theorem State.writeNow_loadStatus (port part : Nat) (e : EventRec) (reserved : Bool) (s : State) : (s.writeNow port part e reserved).loadStatus = s.loadStatus := by unfold State.writeNow; simp
@[simp] theorem State.writeNow_loadDetail (port part : Nat) (e : EventRec) (reserved : Bool) (s : State) : (s.writeNow port part e reserved).loadDetail = s.loadDetail := by unfold State.writeNow; simp
@[simp] theorem State.writeNow_cache (port part : Nat) (e : EventRec) (reserved : Bool) (s : State) : (s.writeNow port part e reserved).cache = s.cache := by unfold State.writeNow; simp
@[simp] theorem State.writeNow_hot (port part : Nat) (e : EventRec) (reserved : Bool) (s : State) : (s.writeNow port part e reserved).hot = s.hot := by unfold State.writeNow; simp
@[simp] theorem State.writeNow_staged (port part : Nat) (e : EventRec) (reserved : Bool) (s : State) : (s.writeNow port part e reserved).staged = s.staged := by unfold State.writeNow; simp
@[simp] theorem State.writeNow_tune (port part : Nat) (e : EventRec) (reserved : Bool) (s : State) : (s.writeNow port part e reserved).tune = s.tune := by unfold State.writeNow; simp
@[simp] theorem State.writeNow_kv (port part : Nat) (e : EventRec) (reserved : Bool) (s : State) : (s.writeNow port part e reserved).kv = s.kv := by unfold State.writeNow; simp
@[simp] theorem State.writeNow_kvSaved (port part : Nat) (e : EventRec) (reserved : Bool) (s : State) : (s.writeNow port part e reserved).kvSaved = s.kvSaved := by unfold State.writeNow; simp
@[simp] theorem State.writeNow_govSaved (port part : Nat) (e : EventRec) (reserved : Bool) (s : State) : (s.writeNow port part e reserved).govSaved = s.govSaved := by unfold State.writeNow; simp
@[simp] theorem State.writeNow_tickSaved (port part : Nat) (e : EventRec) (reserved : Bool) (s : State) : (s.writeNow port part e reserved).tickSaved = s.tickSaved := by unfold State.writeNow; simp
@[simp] theorem State.writeNow_tick (port part : Nat) (e : EventRec) (reserved : Bool) (s : State) : (s.writeNow port part e reserved).tick = s.tick := by unfold State.writeNow; simp
@[simp] theorem State.writeNow_gov (port part : Nat) (e : EventRec) (reserved : Bool) (s : State) : (s.writeNow port part e reserved).gov = s.gov := by unfold State.writeNow; simp
@[simp] theorem State.writeNow_trs (port part : Nat) (e : EventRec) (reserved : Bool) (s : State) : (s.writeNow port part e reserved).trs = s.trs := by unfold State.writeNow; simp
@[simp] theorem State.writeNow_mem (port part : Nat) (e : EventRec) (reserved : Bool) (s : State) : (s.writeNow port part e reserved).mem = s.mem := by unfold State.writeNow; simp
@[simp] theorem State.writeNow_landings (port part : Nat) (e : EventRec) (reserved : Bool) (s : State) : (s.writeNow port part e reserved).landings = s.landings := by unfold State.writeNow; simp
@[simp] theorem State.writeNow_via (port part : Nat) (e : EventRec) (reserved : Bool) (s : State) : (s.writeNow port part e reserved).via = s.via := by unfold State.writeNow; simp
@[simp] theorem State.writeNow_flt (port part : Nat) (e : EventRec) (reserved : Bool) (s : State) : (s.writeNow port part e reserved).flt = s.flt := by unfold State.writeNow; simp

@[simp] theorem State.credits_pending (port part n : Nat) (s : State) : (s.credits port part n).pending = s.pending := by unfold State.credits; split <;> simp [apply_ite State.pending]
@[simp] theorem State.credits_out (port part n : Nat) (s : State) : (s.credits port part n).out = s.out := by unfold State.credits; split <;> simp [apply_ite State.out]
@[simp] theorem State.credits_time (port part n : Nat) (s : State) : (s.credits port part n).time = s.time := by unfold State.credits; split <;> simp [apply_ite State.time]
@[simp] theorem State.credits_tbOff (port part n : Nat) (s : State) : (s.credits port part n).tbOff = s.tbOff := by unfold State.credits; split <;> simp [apply_ite State.tbOff]
@[simp] theorem State.credits_fresh (port part n : Nat) (s : State) : (s.credits port part n).fresh = s.fresh := by unfold State.credits; split <;> simp [apply_ite State.fresh]
@[simp] theorem State.credits_regs (port part n : Nat) (s : State) : (s.credits port part n).regs = s.regs := by unfold State.credits; split <;> simp [apply_ite State.regs]
@[simp] theorem State.credits_fuses (port part n : Nat) (s : State) : (s.credits port part n).fuses = s.fuses := by unfold State.credits; split <;> simp [apply_ite State.fuses]
@[simp] theorem State.credits_flash (port part n : Nat) (s : State) : (s.credits port part n).flash = s.flash := by unfold State.credits; split <;> simp [apply_ite State.flash]
@[simp] theorem State.credits_boot (port part n : Nat) (s : State) : (s.credits port part n).boot = s.boot := by unfold State.credits; split <;> simp [apply_ite State.boot]
@[simp] theorem State.credits_pwr (port part n : Nat) (s : State) : (s.credits port part n).pwr = s.pwr := by unfold State.credits; split <;> simp [apply_ite State.pwr]
@[simp] theorem State.credits_sb (port part n : Nat) (s : State) : (s.credits port part n).sb = s.sb := by unfold State.credits; split <;> simp [apply_ite State.sb]
@[simp] theorem State.credits_sec (port part n : Nat) (s : State) : (s.credits port part n).sec = s.sec := by unfold State.credits; split <;> simp [apply_ite State.sec]
@[simp] theorem State.credits_obs (port part n : Nat) (s : State) : (s.credits port part n).obs = s.obs := by unfold State.credits; split <;> simp [apply_ite State.obs]
@[simp] theorem State.credits_spanMap (port part n : Nat) (s : State) : (s.credits port part n).spanMap = s.spanMap := by unfold State.credits; split <;> simp [apply_ite State.spanMap]
@[simp] theorem State.credits_mapEpoch (port part n : Nat) (s : State) : (s.credits port part n).mapEpoch = s.mapEpoch := by unfold State.credits; split <;> simp [apply_ite State.mapEpoch]
@[simp] theorem State.credits_spans (port part n : Nat) (s : State) : (s.credits port part n).spans = s.spans := by unfold State.credits; split <;> simp [apply_ite State.spans]
@[simp] theorem State.credits_ports (port part n : Nat) (s : State) : (s.credits port part n).ports = s.ports := by unfold State.credits; split <;> simp [apply_ite State.ports]
@[simp] theorem State.credits_perstLow (port part n : Nat) (s : State) : (s.credits port part n).perstLow = s.perstLow := by unfold State.credits; split <;> simp [apply_ite State.perstLow]
@[simp] theorem State.credits_lanes (port part n : Nat) (s : State) : (s.credits port part n).lanes = s.lanes := by unfold State.credits; split <;> simp [apply_ite State.lanes]
@[simp] theorem State.credits_handles (port part n : Nat) (s : State) : (s.credits port part n).handles = s.handles := by unfold State.credits; split <;> simp [apply_ite State.handles]
@[simp] theorem State.credits_named (port part n : Nat) (s : State) : (s.credits port part n).named = s.named := by unfold State.credits; split <;> simp [apply_ite State.named]
@[simp] theorem State.credits_requests (port part n : Nat) (s : State) : (s.credits port part n).requests = s.requests := by unfold State.credits; split <;> simp [apply_ite State.requests]
@[simp] theorem State.credits_waiting (port part n : Nat) (s : State) : (s.credits port part n).waiting = s.waiting := by unfold State.credits; split <;> simp [apply_ite State.waiting]
@[simp] theorem State.credits_stamp (port part n : Nat) (s : State) : (s.credits port part n).stamp = s.stamp := by unfold State.credits; split <;> simp [apply_ite State.stamp]
@[simp] theorem State.credits_jobs (port part n : Nat) (s : State) : (s.credits port part n).jobs = s.jobs := by unfold State.credits; split <;> simp [apply_ite State.jobs]
@[simp] theorem State.credits_ended (port part n : Nat) (s : State) : (s.credits port part n).ended = s.ended := by unfold State.credits; split <;> simp [apply_ite State.ended]
@[simp] theorem State.credits_pub (port part n : Nat) (s : State) : (s.credits port part n).pub = s.pub := by unfold State.credits; split <;> simp [apply_ite State.pub]
@[simp] theorem State.credits_cycStart (port part n : Nat) (s : State) : (s.credits port part n).cycStart = s.cycStart := by unfold State.credits; split <;> simp [apply_ite State.cycStart]
@[simp] theorem State.credits_spanSaved (port part n : Nat) (s : State) : (s.credits port part n).spanSaved = s.spanSaved := by unfold State.credits; split <;> simp [apply_ite State.spanSaved]
@[simp] theorem State.credits_routes (port part n : Nat) (s : State) : (s.credits port part n).routes = s.routes := by unfold State.credits; split <;> simp [apply_ite State.routes]
@[simp] theorem State.credits_running (port part n : Nat) (s : State) : (s.credits port part n).running = s.running := by unfold State.credits; split <;> simp [apply_ite State.running]
@[simp] theorem State.credits_nextJob (port part n : Nat) (s : State) : (s.credits port part n).nextJob = s.nextJob := by unfold State.credits; split <;> simp [apply_ite State.nextJob]
@[simp] theorem State.credits_bits (port part n : Nat) (s : State) : (s.credits port part n).bits = s.bits := by unfold State.credits; split <;> simp [apply_ite State.bits]
@[simp] theorem State.credits_binding (port part n : Nat) (s : State) : (s.credits port part n).binding = s.binding := by unfold State.credits; split <;> simp [apply_ite State.binding]
@[simp] theorem State.credits_load (port part n : Nat) (s : State) : (s.credits port part n).load = s.load := by unfold State.credits; split <;> simp [apply_ite State.load]
@[simp] theorem State.credits_loadStatus (port part n : Nat) (s : State) : (s.credits port part n).loadStatus = s.loadStatus := by unfold State.credits; split <;> simp [apply_ite State.loadStatus]
@[simp] theorem State.credits_loadDetail (port part n : Nat) (s : State) : (s.credits port part n).loadDetail = s.loadDetail := by unfold State.credits; split <;> simp [apply_ite State.loadDetail]
@[simp] theorem State.credits_cache (port part n : Nat) (s : State) : (s.credits port part n).cache = s.cache := by unfold State.credits; split <;> simp [apply_ite State.cache]
@[simp] theorem State.credits_hot (port part n : Nat) (s : State) : (s.credits port part n).hot = s.hot := by unfold State.credits; split <;> simp [apply_ite State.hot]
@[simp] theorem State.credits_staged (port part n : Nat) (s : State) : (s.credits port part n).staged = s.staged := by unfold State.credits; split <;> simp [apply_ite State.staged]
@[simp] theorem State.credits_tune (port part n : Nat) (s : State) : (s.credits port part n).tune = s.tune := by unfold State.credits; split <;> simp [apply_ite State.tune]
@[simp] theorem State.credits_kv (port part n : Nat) (s : State) : (s.credits port part n).kv = s.kv := by unfold State.credits; split <;> simp [apply_ite State.kv]
@[simp] theorem State.credits_kvSaved (port part n : Nat) (s : State) : (s.credits port part n).kvSaved = s.kvSaved := by unfold State.credits; split <;> simp [apply_ite State.kvSaved]
@[simp] theorem State.credits_govSaved (port part n : Nat) (s : State) : (s.credits port part n).govSaved = s.govSaved := by unfold State.credits; split <;> simp [apply_ite State.govSaved]
@[simp] theorem State.credits_tickSaved (port part n : Nat) (s : State) : (s.credits port part n).tickSaved = s.tickSaved := by unfold State.credits; split <;> simp [apply_ite State.tickSaved]
@[simp] theorem State.credits_tick (port part n : Nat) (s : State) : (s.credits port part n).tick = s.tick := by unfold State.credits; split <;> simp [apply_ite State.tick]
@[simp] theorem State.credits_gov (port part n : Nat) (s : State) : (s.credits port part n).gov = s.gov := by unfold State.credits; split <;> simp [apply_ite State.gov]
@[simp] theorem State.credits_trs (port part n : Nat) (s : State) : (s.credits port part n).trs = s.trs := by unfold State.credits; split <;> simp [apply_ite State.trs]
@[simp] theorem State.credits_mem (port part n : Nat) (s : State) : (s.credits port part n).mem = s.mem := by unfold State.credits; split <;> simp [apply_ite State.mem]
@[simp] theorem State.credits_landings (port part n : Nat) (s : State) : (s.credits port part n).landings = s.landings := by unfold State.credits; split <;> simp [apply_ite State.landings]
@[simp] theorem State.credits_via (port part n : Nat) (s : State) : (s.credits port part n).via = s.via := by unfold State.credits; split <;> simp [apply_ite State.via]
@[simp] theorem State.credits_flt (port part n : Nat) (s : State) : (s.credits port part n).flt = s.flt := by unfold State.credits; split <;> simp [apply_ite State.flt]

@[simp] theorem State.reject_pending (port part code arg1 handle stamp : Nat) (s : State) : (s.reject port part code arg1 handle stamp).pending = s.pending := by unfold State.reject; dsimp only; (repeat' split) <;> simp
@[simp] theorem State.reject_time (port part code arg1 handle stamp : Nat) (s : State) : (s.reject port part code arg1 handle stamp).time = s.time := by unfold State.reject; dsimp only; (repeat' split) <;> simp
@[simp] theorem State.reject_tbOff (port part code arg1 handle stamp : Nat) (s : State) : (s.reject port part code arg1 handle stamp).tbOff = s.tbOff := by unfold State.reject; dsimp only; (repeat' split) <;> simp
@[simp] theorem State.reject_fresh (port part code arg1 handle stamp : Nat) (s : State) : (s.reject port part code arg1 handle stamp).fresh = s.fresh := by unfold State.reject; dsimp only; (repeat' split) <;> simp
@[simp] theorem State.reject_regs (port part code arg1 handle stamp : Nat) (s : State) : (s.reject port part code arg1 handle stamp).regs = s.regs := by unfold State.reject; dsimp only; (repeat' split) <;> simp
@[simp] theorem State.reject_fuses (port part code arg1 handle stamp : Nat) (s : State) : (s.reject port part code arg1 handle stamp).fuses = s.fuses := by unfold State.reject; dsimp only; (repeat' split) <;> simp
@[simp] theorem State.reject_flash (port part code arg1 handle stamp : Nat) (s : State) : (s.reject port part code arg1 handle stamp).flash = s.flash := by unfold State.reject; dsimp only; (repeat' split) <;> simp
@[simp] theorem State.reject_boot (port part code arg1 handle stamp : Nat) (s : State) : (s.reject port part code arg1 handle stamp).boot = s.boot := by unfold State.reject; dsimp only; (repeat' split) <;> simp
@[simp] theorem State.reject_pwr (port part code arg1 handle stamp : Nat) (s : State) : (s.reject port part code arg1 handle stamp).pwr = s.pwr := by unfold State.reject; dsimp only; (repeat' split) <;> simp
@[simp] theorem State.reject_sb (port part code arg1 handle stamp : Nat) (s : State) : (s.reject port part code arg1 handle stamp).sb = s.sb := by unfold State.reject; dsimp only; (repeat' split) <;> simp
@[simp] theorem State.reject_sec (port part code arg1 handle stamp : Nat) (s : State) : (s.reject port part code arg1 handle stamp).sec = s.sec := by unfold State.reject; dsimp only; (repeat' split) <;> simp
@[simp] theorem State.reject_spanMap (port part code arg1 handle stamp : Nat) (s : State) : (s.reject port part code arg1 handle stamp).spanMap = s.spanMap := by unfold State.reject; dsimp only; (repeat' split) <;> simp
@[simp] theorem State.reject_mapEpoch (port part code arg1 handle stamp : Nat) (s : State) : (s.reject port part code arg1 handle stamp).mapEpoch = s.mapEpoch := by unfold State.reject; dsimp only; (repeat' split) <;> simp
@[simp] theorem State.reject_spans (port part code arg1 handle stamp : Nat) (s : State) : (s.reject port part code arg1 handle stamp).spans = s.spans := by unfold State.reject; dsimp only; (repeat' split) <;> simp
@[simp] theorem State.reject_ports (port part code arg1 handle stamp : Nat) (s : State) : (s.reject port part code arg1 handle stamp).ports = s.ports := by unfold State.reject; dsimp only; (repeat' split) <;> simp
@[simp] theorem State.reject_perstLow (port part code arg1 handle stamp : Nat) (s : State) : (s.reject port part code arg1 handle stamp).perstLow = s.perstLow := by unfold State.reject; dsimp only; (repeat' split) <;> simp
@[simp] theorem State.reject_lanes (port part code arg1 handle stamp : Nat) (s : State) : (s.reject port part code arg1 handle stamp).lanes = s.lanes := by unfold State.reject; dsimp only; (repeat' split) <;> simp
@[simp] theorem State.reject_handles (port part code arg1 handle stamp : Nat) (s : State) : (s.reject port part code arg1 handle stamp).handles = s.handles := by unfold State.reject; dsimp only; (repeat' split) <;> simp
@[simp] theorem State.reject_named (port part code arg1 handle stamp : Nat) (s : State) : (s.reject port part code arg1 handle stamp).named = s.named := by unfold State.reject; dsimp only; (repeat' split) <;> simp
@[simp] theorem State.reject_requests (port part code arg1 handle stamp : Nat) (s : State) : (s.reject port part code arg1 handle stamp).requests = s.requests := by unfold State.reject; dsimp only; (repeat' split) <;> simp
@[simp] theorem State.reject_waiting (port part code arg1 handle stamp : Nat) (s : State) : (s.reject port part code arg1 handle stamp).waiting = s.waiting := by unfold State.reject; dsimp only; (repeat' split) <;> simp
@[simp] theorem State.reject_stamp (port part code arg1 handle stamp : Nat) (s : State) : (s.reject port part code arg1 handle stamp).stamp = s.stamp := by unfold State.reject; dsimp only; (repeat' split) <;> simp
@[simp] theorem State.reject_jobs (port part code arg1 handle stamp : Nat) (s : State) : (s.reject port part code arg1 handle stamp).jobs = s.jobs := by unfold State.reject; dsimp only; (repeat' split) <;> simp
@[simp] theorem State.reject_ended (port part code arg1 handle stamp : Nat) (s : State) : (s.reject port part code arg1 handle stamp).ended = s.ended := by unfold State.reject; dsimp only; (repeat' split) <;> simp
@[simp] theorem State.reject_cycStart (port part code arg1 handle stamp : Nat) (s : State) : (s.reject port part code arg1 handle stamp).cycStart = s.cycStart := by unfold State.reject; dsimp only; (repeat' split) <;> simp
@[simp] theorem State.reject_spanSaved (port part code arg1 handle stamp : Nat) (s : State) : (s.reject port part code arg1 handle stamp).spanSaved = s.spanSaved := by unfold State.reject; dsimp only; (repeat' split) <;> simp
@[simp] theorem State.reject_routes (port part code arg1 handle stamp : Nat) (s : State) : (s.reject port part code arg1 handle stamp).routes = s.routes := by unfold State.reject; dsimp only; (repeat' split) <;> simp
@[simp] theorem State.reject_running (port part code arg1 handle stamp : Nat) (s : State) : (s.reject port part code arg1 handle stamp).running = s.running := by unfold State.reject; dsimp only; (repeat' split) <;> simp
@[simp] theorem State.reject_nextJob (port part code arg1 handle stamp : Nat) (s : State) : (s.reject port part code arg1 handle stamp).nextJob = s.nextJob := by unfold State.reject; dsimp only; (repeat' split) <;> simp
@[simp] theorem State.reject_bits (port part code arg1 handle stamp : Nat) (s : State) : (s.reject port part code arg1 handle stamp).bits = s.bits := by unfold State.reject; dsimp only; (repeat' split) <;> simp
@[simp] theorem State.reject_binding (port part code arg1 handle stamp : Nat) (s : State) : (s.reject port part code arg1 handle stamp).binding = s.binding := by unfold State.reject; dsimp only; (repeat' split) <;> simp
@[simp] theorem State.reject_load (port part code arg1 handle stamp : Nat) (s : State) : (s.reject port part code arg1 handle stamp).load = s.load := by unfold State.reject; dsimp only; (repeat' split) <;> simp
@[simp] theorem State.reject_loadStatus (port part code arg1 handle stamp : Nat) (s : State) : (s.reject port part code arg1 handle stamp).loadStatus = s.loadStatus := by unfold State.reject; dsimp only; (repeat' split) <;> simp
@[simp] theorem State.reject_loadDetail (port part code arg1 handle stamp : Nat) (s : State) : (s.reject port part code arg1 handle stamp).loadDetail = s.loadDetail := by unfold State.reject; dsimp only; (repeat' split) <;> simp
@[simp] theorem State.reject_cache (port part code arg1 handle stamp : Nat) (s : State) : (s.reject port part code arg1 handle stamp).cache = s.cache := by unfold State.reject; dsimp only; (repeat' split) <;> simp
@[simp] theorem State.reject_hot (port part code arg1 handle stamp : Nat) (s : State) : (s.reject port part code arg1 handle stamp).hot = s.hot := by unfold State.reject; dsimp only; (repeat' split) <;> simp
@[simp] theorem State.reject_staged (port part code arg1 handle stamp : Nat) (s : State) : (s.reject port part code arg1 handle stamp).staged = s.staged := by unfold State.reject; dsimp only; (repeat' split) <;> simp
@[simp] theorem State.reject_tune (port part code arg1 handle stamp : Nat) (s : State) : (s.reject port part code arg1 handle stamp).tune = s.tune := by unfold State.reject; dsimp only; (repeat' split) <;> simp
@[simp] theorem State.reject_kv (port part code arg1 handle stamp : Nat) (s : State) : (s.reject port part code arg1 handle stamp).kv = s.kv := by unfold State.reject; dsimp only; (repeat' split) <;> simp
@[simp] theorem State.reject_kvSaved (port part code arg1 handle stamp : Nat) (s : State) : (s.reject port part code arg1 handle stamp).kvSaved = s.kvSaved := by unfold State.reject; dsimp only; (repeat' split) <;> simp
@[simp] theorem State.reject_govSaved (port part code arg1 handle stamp : Nat) (s : State) : (s.reject port part code arg1 handle stamp).govSaved = s.govSaved := by unfold State.reject; dsimp only; (repeat' split) <;> simp
@[simp] theorem State.reject_tickSaved (port part code arg1 handle stamp : Nat) (s : State) : (s.reject port part code arg1 handle stamp).tickSaved = s.tickSaved := by unfold State.reject; dsimp only; (repeat' split) <;> simp
@[simp] theorem State.reject_tick (port part code arg1 handle stamp : Nat) (s : State) : (s.reject port part code arg1 handle stamp).tick = s.tick := by unfold State.reject; dsimp only; (repeat' split) <;> simp
@[simp] theorem State.reject_gov (port part code arg1 handle stamp : Nat) (s : State) : (s.reject port part code arg1 handle stamp).gov = s.gov := by unfold State.reject; dsimp only; (repeat' split) <;> simp
@[simp] theorem State.reject_trs (port part code arg1 handle stamp : Nat) (s : State) : (s.reject port part code arg1 handle stamp).trs = s.trs := by unfold State.reject; dsimp only; (repeat' split) <;> simp
@[simp] theorem State.reject_mem (port part code arg1 handle stamp : Nat) (s : State) : (s.reject port part code arg1 handle stamp).mem = s.mem := by unfold State.reject; dsimp only; (repeat' split) <;> simp
@[simp] theorem State.reject_landings (port part code arg1 handle stamp : Nat) (s : State) : (s.reject port part code arg1 handle stamp).landings = s.landings := by unfold State.reject; dsimp only; (repeat' split) <;> simp
@[simp] theorem State.reject_via (port part code arg1 handle stamp : Nat) (s : State) : (s.reject port part code arg1 handle stamp).via = s.via := by unfold State.reject; dsimp only; (repeat' split) <;> simp
@[simp] theorem State.reject_flt (port part code arg1 handle stamp : Nat) (s : State) : (s.reject port part code arg1 handle stamp).flt = s.flt := by unfold State.reject; dsimp only; (repeat' split) <;> simp

@[simp] theorem State.holdHandle_pending (r : CmdRec) (part : Nat) (kind : HandleKind) (reserve : Nat) (s : State) : (s.holdHandle r part kind reserve).pending = s.pending := rfl
@[simp] theorem State.holdHandle_out (r : CmdRec) (part : Nat) (kind : HandleKind) (reserve : Nat) (s : State) : (s.holdHandle r part kind reserve).out = s.out := rfl
@[simp] theorem State.holdHandle_time (r : CmdRec) (part : Nat) (kind : HandleKind) (reserve : Nat) (s : State) : (s.holdHandle r part kind reserve).time = s.time := rfl
@[simp] theorem State.holdHandle_tbOff (r : CmdRec) (part : Nat) (kind : HandleKind) (reserve : Nat) (s : State) : (s.holdHandle r part kind reserve).tbOff = s.tbOff := rfl
@[simp] theorem State.holdHandle_fresh (r : CmdRec) (part : Nat) (kind : HandleKind) (reserve : Nat) (s : State) : (s.holdHandle r part kind reserve).fresh = s.fresh := rfl
@[simp] theorem State.holdHandle_regs (r : CmdRec) (part : Nat) (kind : HandleKind) (reserve : Nat) (s : State) : (s.holdHandle r part kind reserve).regs = s.regs := rfl
@[simp] theorem State.holdHandle_counters (r : CmdRec) (part : Nat) (kind : HandleKind) (reserve : Nat) (s : State) : (s.holdHandle r part kind reserve).counters = s.counters := rfl
@[simp] theorem State.holdHandle_fuses (r : CmdRec) (part : Nat) (kind : HandleKind) (reserve : Nat) (s : State) : (s.holdHandle r part kind reserve).fuses = s.fuses := rfl
@[simp] theorem State.holdHandle_flash (r : CmdRec) (part : Nat) (kind : HandleKind) (reserve : Nat) (s : State) : (s.holdHandle r part kind reserve).flash = s.flash := rfl
@[simp] theorem State.holdHandle_boot (r : CmdRec) (part : Nat) (kind : HandleKind) (reserve : Nat) (s : State) : (s.holdHandle r part kind reserve).boot = s.boot := rfl
@[simp] theorem State.holdHandle_pwr (r : CmdRec) (part : Nat) (kind : HandleKind) (reserve : Nat) (s : State) : (s.holdHandle r part kind reserve).pwr = s.pwr := rfl
@[simp] theorem State.holdHandle_sb (r : CmdRec) (part : Nat) (kind : HandleKind) (reserve : Nat) (s : State) : (s.holdHandle r part kind reserve).sb = s.sb := rfl
@[simp] theorem State.holdHandle_sec (r : CmdRec) (part : Nat) (kind : HandleKind) (reserve : Nat) (s : State) : (s.holdHandle r part kind reserve).sec = s.sec := rfl
@[simp] theorem State.holdHandle_obs (r : CmdRec) (part : Nat) (kind : HandleKind) (reserve : Nat) (s : State) : (s.holdHandle r part kind reserve).obs = s.obs := rfl
@[simp] theorem State.holdHandle_spanMap (r : CmdRec) (part : Nat) (kind : HandleKind) (reserve : Nat) (s : State) : (s.holdHandle r part kind reserve).spanMap = s.spanMap := rfl
@[simp] theorem State.holdHandle_mapEpoch (r : CmdRec) (part : Nat) (kind : HandleKind) (reserve : Nat) (s : State) : (s.holdHandle r part kind reserve).mapEpoch = s.mapEpoch := rfl
@[simp] theorem State.holdHandle_spans (r : CmdRec) (part : Nat) (kind : HandleKind) (reserve : Nat) (s : State) : (s.holdHandle r part kind reserve).spans = s.spans := rfl
@[simp] theorem State.holdHandle_ports (r : CmdRec) (part : Nat) (kind : HandleKind) (reserve : Nat) (s : State) : (s.holdHandle r part kind reserve).ports = s.ports := rfl
@[simp] theorem State.holdHandle_perstLow (r : CmdRec) (part : Nat) (kind : HandleKind) (reserve : Nat) (s : State) : (s.holdHandle r part kind reserve).perstLow = s.perstLow := rfl
@[simp] theorem State.holdHandle_lanes (r : CmdRec) (part : Nat) (kind : HandleKind) (reserve : Nat) (s : State) : (s.holdHandle r part kind reserve).lanes = s.lanes := rfl
@[simp] theorem State.holdHandle_named (r : CmdRec) (part : Nat) (kind : HandleKind) (reserve : Nat) (s : State) : (s.holdHandle r part kind reserve).named = s.named := rfl
@[simp] theorem State.holdHandle_logs (r : CmdRec) (part : Nat) (kind : HandleKind) (reserve : Nat) (s : State) : (s.holdHandle r part kind reserve).logs = s.logs := rfl
@[simp] theorem State.holdHandle_requests (r : CmdRec) (part : Nat) (kind : HandleKind) (reserve : Nat) (s : State) : (s.holdHandle r part kind reserve).requests = s.requests := rfl
@[simp] theorem State.holdHandle_waiting (r : CmdRec) (part : Nat) (kind : HandleKind) (reserve : Nat) (s : State) : (s.holdHandle r part kind reserve).waiting = s.waiting := rfl
@[simp] theorem State.holdHandle_stamp (r : CmdRec) (part : Nat) (kind : HandleKind) (reserve : Nat) (s : State) : (s.holdHandle r part kind reserve).stamp = s.stamp := rfl
@[simp] theorem State.holdHandle_jobs (r : CmdRec) (part : Nat) (kind : HandleKind) (reserve : Nat) (s : State) : (s.holdHandle r part kind reserve).jobs = s.jobs := rfl
@[simp] theorem State.holdHandle_ended (r : CmdRec) (part : Nat) (kind : HandleKind) (reserve : Nat) (s : State) : (s.holdHandle r part kind reserve).ended = s.ended := rfl
@[simp] theorem State.holdHandle_pub (r : CmdRec) (part : Nat) (kind : HandleKind) (reserve : Nat) (s : State) : (s.holdHandle r part kind reserve).pub = s.pub := rfl
@[simp] theorem State.holdHandle_cycStart (r : CmdRec) (part : Nat) (kind : HandleKind) (reserve : Nat) (s : State) : (s.holdHandle r part kind reserve).cycStart = s.cycStart := rfl
@[simp] theorem State.holdHandle_spanSaved (r : CmdRec) (part : Nat) (kind : HandleKind) (reserve : Nat) (s : State) : (s.holdHandle r part kind reserve).spanSaved = s.spanSaved := rfl
@[simp] theorem State.holdHandle_routes (r : CmdRec) (part : Nat) (kind : HandleKind) (reserve : Nat) (s : State) : (s.holdHandle r part kind reserve).routes = s.routes := rfl
@[simp] theorem State.holdHandle_running (r : CmdRec) (part : Nat) (kind : HandleKind) (reserve : Nat) (s : State) : (s.holdHandle r part kind reserve).running = s.running := rfl
@[simp] theorem State.holdHandle_nextJob (r : CmdRec) (part : Nat) (kind : HandleKind) (reserve : Nat) (s : State) : (s.holdHandle r part kind reserve).nextJob = s.nextJob := rfl
@[simp] theorem State.holdHandle_bits (r : CmdRec) (part : Nat) (kind : HandleKind) (reserve : Nat) (s : State) : (s.holdHandle r part kind reserve).bits = s.bits := rfl
@[simp] theorem State.holdHandle_binding (r : CmdRec) (part : Nat) (kind : HandleKind) (reserve : Nat) (s : State) : (s.holdHandle r part kind reserve).binding = s.binding := rfl
@[simp] theorem State.holdHandle_load (r : CmdRec) (part : Nat) (kind : HandleKind) (reserve : Nat) (s : State) : (s.holdHandle r part kind reserve).load = s.load := rfl
@[simp] theorem State.holdHandle_loadStatus (r : CmdRec) (part : Nat) (kind : HandleKind) (reserve : Nat) (s : State) : (s.holdHandle r part kind reserve).loadStatus = s.loadStatus := rfl
@[simp] theorem State.holdHandle_loadDetail (r : CmdRec) (part : Nat) (kind : HandleKind) (reserve : Nat) (s : State) : (s.holdHandle r part kind reserve).loadDetail = s.loadDetail := rfl
@[simp] theorem State.holdHandle_cache (r : CmdRec) (part : Nat) (kind : HandleKind) (reserve : Nat) (s : State) : (s.holdHandle r part kind reserve).cache = s.cache := rfl
@[simp] theorem State.holdHandle_hot (r : CmdRec) (part : Nat) (kind : HandleKind) (reserve : Nat) (s : State) : (s.holdHandle r part kind reserve).hot = s.hot := rfl
@[simp] theorem State.holdHandle_staged (r : CmdRec) (part : Nat) (kind : HandleKind) (reserve : Nat) (s : State) : (s.holdHandle r part kind reserve).staged = s.staged := rfl
@[simp] theorem State.holdHandle_tune (r : CmdRec) (part : Nat) (kind : HandleKind) (reserve : Nat) (s : State) : (s.holdHandle r part kind reserve).tune = s.tune := rfl
@[simp] theorem State.holdHandle_kv (r : CmdRec) (part : Nat) (kind : HandleKind) (reserve : Nat) (s : State) : (s.holdHandle r part kind reserve).kv = s.kv := rfl
@[simp] theorem State.holdHandle_kvSaved (r : CmdRec) (part : Nat) (kind : HandleKind) (reserve : Nat) (s : State) : (s.holdHandle r part kind reserve).kvSaved = s.kvSaved := rfl
@[simp] theorem State.holdHandle_govSaved (r : CmdRec) (part : Nat) (kind : HandleKind) (reserve : Nat) (s : State) : (s.holdHandle r part kind reserve).govSaved = s.govSaved := rfl
@[simp] theorem State.holdHandle_tickSaved (r : CmdRec) (part : Nat) (kind : HandleKind) (reserve : Nat) (s : State) : (s.holdHandle r part kind reserve).tickSaved = s.tickSaved := rfl
@[simp] theorem State.holdHandle_tick (r : CmdRec) (part : Nat) (kind : HandleKind) (reserve : Nat) (s : State) : (s.holdHandle r part kind reserve).tick = s.tick := rfl
@[simp] theorem State.holdHandle_gov (r : CmdRec) (part : Nat) (kind : HandleKind) (reserve : Nat) (s : State) : (s.holdHandle r part kind reserve).gov = s.gov := rfl
@[simp] theorem State.holdHandle_trs (r : CmdRec) (part : Nat) (kind : HandleKind) (reserve : Nat) (s : State) : (s.holdHandle r part kind reserve).trs = s.trs := rfl
@[simp] theorem State.holdHandle_mem (r : CmdRec) (part : Nat) (kind : HandleKind) (reserve : Nat) (s : State) : (s.holdHandle r part kind reserve).mem = s.mem := rfl
@[simp] theorem State.holdHandle_landings (r : CmdRec) (part : Nat) (kind : HandleKind) (reserve : Nat) (s : State) : (s.holdHandle r part kind reserve).landings = s.landings := rfl
@[simp] theorem State.holdHandle_via (r : CmdRec) (part : Nat) (kind : HandleKind) (reserve : Nat) (s : State) : (s.holdHandle r part kind reserve).via = s.via := rfl
@[simp] theorem State.holdHandle_flt (r : CmdRec) (part : Nat) (kind : HandleKind) (reserve : Nat) (s : State) : (s.holdHandle r part kind reserve).flt = s.flt := rfl

@[simp] theorem State.endHandle_pending (h : Nat) (s : State) : (s.endHandle h).pending = s.pending := by unfold State.endHandle; dsimp only; (repeat' split) <;> rfl
@[simp] theorem State.endHandle_out (h : Nat) (s : State) : (s.endHandle h).out = s.out := by unfold State.endHandle; dsimp only; (repeat' split) <;> rfl
@[simp] theorem State.endHandle_time (h : Nat) (s : State) : (s.endHandle h).time = s.time := by unfold State.endHandle; dsimp only; (repeat' split) <;> rfl
@[simp] theorem State.endHandle_tbOff (h : Nat) (s : State) : (s.endHandle h).tbOff = s.tbOff := by unfold State.endHandle; dsimp only; (repeat' split) <;> rfl
@[simp] theorem State.endHandle_fresh (h : Nat) (s : State) : (s.endHandle h).fresh = s.fresh := by unfold State.endHandle; dsimp only; (repeat' split) <;> rfl
@[simp] theorem State.endHandle_regs (h : Nat) (s : State) : (s.endHandle h).regs = s.regs := by unfold State.endHandle; dsimp only; (repeat' split) <;> rfl
@[simp] theorem State.endHandle_counters (h : Nat) (s : State) : (s.endHandle h).counters = s.counters := by unfold State.endHandle; dsimp only; (repeat' split) <;> rfl
@[simp] theorem State.endHandle_fuses (h : Nat) (s : State) : (s.endHandle h).fuses = s.fuses := by unfold State.endHandle; dsimp only; (repeat' split) <;> rfl
@[simp] theorem State.endHandle_flash (h : Nat) (s : State) : (s.endHandle h).flash = s.flash := by unfold State.endHandle; dsimp only; (repeat' split) <;> rfl
@[simp] theorem State.endHandle_boot (h : Nat) (s : State) : (s.endHandle h).boot = s.boot := by unfold State.endHandle; dsimp only; (repeat' split) <;> rfl
@[simp] theorem State.endHandle_pwr (h : Nat) (s : State) : (s.endHandle h).pwr = s.pwr := by unfold State.endHandle; dsimp only; (repeat' split) <;> rfl
@[simp] theorem State.endHandle_sb (h : Nat) (s : State) : (s.endHandle h).sb = s.sb := by unfold State.endHandle; dsimp only; (repeat' split) <;> rfl
@[simp] theorem State.endHandle_sec (h : Nat) (s : State) : (s.endHandle h).sec = s.sec := by unfold State.endHandle; dsimp only; (repeat' split) <;> rfl
@[simp] theorem State.endHandle_obs (h : Nat) (s : State) : (s.endHandle h).obs = s.obs := by unfold State.endHandle; dsimp only; (repeat' split) <;> rfl
@[simp] theorem State.endHandle_spanMap (h : Nat) (s : State) : (s.endHandle h).spanMap = s.spanMap := by unfold State.endHandle; dsimp only; (repeat' split) <;> rfl
@[simp] theorem State.endHandle_mapEpoch (h : Nat) (s : State) : (s.endHandle h).mapEpoch = s.mapEpoch := by unfold State.endHandle; dsimp only; (repeat' split) <;> rfl
@[simp] theorem State.endHandle_spans (h : Nat) (s : State) : (s.endHandle h).spans = s.spans := by unfold State.endHandle; dsimp only; (repeat' split) <;> rfl
@[simp] theorem State.endHandle_ports (h : Nat) (s : State) : (s.endHandle h).ports = s.ports := by unfold State.endHandle; dsimp only; (repeat' split) <;> rfl
@[simp] theorem State.endHandle_perstLow (h : Nat) (s : State) : (s.endHandle h).perstLow = s.perstLow := by unfold State.endHandle; dsimp only; (repeat' split) <;> rfl
@[simp] theorem State.endHandle_lanes (h : Nat) (s : State) : (s.endHandle h).lanes = s.lanes := by unfold State.endHandle; dsimp only; (repeat' split) <;> rfl
@[simp] theorem State.endHandle_named (h : Nat) (s : State) : (s.endHandle h).named = s.named := by unfold State.endHandle; dsimp only; (repeat' split) <;> rfl
@[simp] theorem State.endHandle_requests (h : Nat) (s : State) : (s.endHandle h).requests = s.requests := by unfold State.endHandle; dsimp only; (repeat' split) <;> rfl
@[simp] theorem State.endHandle_waiting (h : Nat) (s : State) : (s.endHandle h).waiting = s.waiting := by unfold State.endHandle; dsimp only; (repeat' split) <;> rfl
@[simp] theorem State.endHandle_stamp (h : Nat) (s : State) : (s.endHandle h).stamp = s.stamp := by unfold State.endHandle; dsimp only; (repeat' split) <;> rfl
@[simp] theorem State.endHandle_jobs (h : Nat) (s : State) : (s.endHandle h).jobs = s.jobs := by unfold State.endHandle; dsimp only; (repeat' split) <;> rfl
@[simp] theorem State.endHandle_ended (h : Nat) (s : State) : (s.endHandle h).ended = s.ended := by unfold State.endHandle; dsimp only; (repeat' split) <;> rfl
@[simp] theorem State.endHandle_pub (h : Nat) (s : State) : (s.endHandle h).pub = s.pub := by unfold State.endHandle; dsimp only; (repeat' split) <;> rfl
@[simp] theorem State.endHandle_cycStart (h : Nat) (s : State) : (s.endHandle h).cycStart = s.cycStart := by unfold State.endHandle; dsimp only; (repeat' split) <;> rfl
@[simp] theorem State.endHandle_spanSaved (h : Nat) (s : State) : (s.endHandle h).spanSaved = s.spanSaved := by unfold State.endHandle; dsimp only; (repeat' split) <;> rfl
@[simp] theorem State.endHandle_routes (h : Nat) (s : State) : (s.endHandle h).routes = s.routes := by unfold State.endHandle; dsimp only; (repeat' split) <;> rfl
@[simp] theorem State.endHandle_running (h : Nat) (s : State) : (s.endHandle h).running = s.running := by unfold State.endHandle; dsimp only; (repeat' split) <;> rfl
@[simp] theorem State.endHandle_nextJob (h : Nat) (s : State) : (s.endHandle h).nextJob = s.nextJob := by unfold State.endHandle; dsimp only; (repeat' split) <;> rfl
@[simp] theorem State.endHandle_bits (h : Nat) (s : State) : (s.endHandle h).bits = s.bits := by unfold State.endHandle; dsimp only; (repeat' split) <;> rfl
@[simp] theorem State.endHandle_binding (h : Nat) (s : State) : (s.endHandle h).binding = s.binding := by unfold State.endHandle; dsimp only; (repeat' split) <;> rfl
@[simp] theorem State.endHandle_load (h : Nat) (s : State) : (s.endHandle h).load = s.load := by unfold State.endHandle; dsimp only; (repeat' split) <;> rfl
@[simp] theorem State.endHandle_loadStatus (h : Nat) (s : State) : (s.endHandle h).loadStatus = s.loadStatus := by unfold State.endHandle; dsimp only; (repeat' split) <;> rfl
@[simp] theorem State.endHandle_loadDetail (h : Nat) (s : State) : (s.endHandle h).loadDetail = s.loadDetail := by unfold State.endHandle; dsimp only; (repeat' split) <;> rfl
@[simp] theorem State.endHandle_cache (h : Nat) (s : State) : (s.endHandle h).cache = s.cache := by unfold State.endHandle; dsimp only; (repeat' split) <;> rfl
@[simp] theorem State.endHandle_hot (h : Nat) (s : State) : (s.endHandle h).hot = s.hot := by unfold State.endHandle; dsimp only; (repeat' split) <;> rfl
@[simp] theorem State.endHandle_staged (h : Nat) (s : State) : (s.endHandle h).staged = s.staged := by unfold State.endHandle; dsimp only; (repeat' split) <;> rfl
@[simp] theorem State.endHandle_tune (h : Nat) (s : State) : (s.endHandle h).tune = s.tune := by unfold State.endHandle; dsimp only; (repeat' split) <;> rfl
@[simp] theorem State.endHandle_kv (h : Nat) (s : State) : (s.endHandle h).kv = s.kv := by unfold State.endHandle; dsimp only; (repeat' split) <;> rfl
@[simp] theorem State.endHandle_kvSaved (h : Nat) (s : State) : (s.endHandle h).kvSaved = s.kvSaved := by unfold State.endHandle; dsimp only; (repeat' split) <;> rfl
@[simp] theorem State.endHandle_govSaved (h : Nat) (s : State) : (s.endHandle h).govSaved = s.govSaved := by unfold State.endHandle; dsimp only; (repeat' split) <;> rfl
@[simp] theorem State.endHandle_tickSaved (h : Nat) (s : State) : (s.endHandle h).tickSaved = s.tickSaved := by unfold State.endHandle; dsimp only; (repeat' split) <;> rfl
@[simp] theorem State.endHandle_tick (h : Nat) (s : State) : (s.endHandle h).tick = s.tick := by unfold State.endHandle; dsimp only; (repeat' split) <;> rfl
@[simp] theorem State.endHandle_gov (h : Nat) (s : State) : (s.endHandle h).gov = s.gov := by unfold State.endHandle; dsimp only; (repeat' split) <;> rfl
@[simp] theorem State.endHandle_trs (h : Nat) (s : State) : (s.endHandle h).trs = s.trs := by unfold State.endHandle; dsimp only; (repeat' split) <;> rfl
@[simp] theorem State.endHandle_mem (h : Nat) (s : State) : (s.endHandle h).mem = s.mem := by unfold State.endHandle; dsimp only; (repeat' split) <;> rfl
@[simp] theorem State.endHandle_landings (h : Nat) (s : State) : (s.endHandle h).landings = s.landings := by unfold State.endHandle; dsimp only; (repeat' split) <;> rfl
@[simp] theorem State.endHandle_via (h : Nat) (s : State) : (s.endHandle h).via = s.via := by unfold State.endHandle; dsimp only; (repeat' split) <;> rfl
@[simp] theorem State.endHandle_flt (h : Nat) (s : State) : (s.endHandle h).flt = s.flt := by unfold State.endHandle; dsimp only; (repeat' split) <;> rfl

@[simp] theorem State.handleNow_pending (h : Nat) (e : EventRec) (s : State) : (s.handleNow h e).pending = s.pending := by unfold State.handleNow; dsimp only; (repeat' split) <;> simp
@[simp] theorem State.handleNow_time (h : Nat) (e : EventRec) (s : State) : (s.handleNow h e).time = s.time := by unfold State.handleNow; dsimp only; (repeat' split) <;> simp
@[simp] theorem State.handleNow_tbOff (h : Nat) (e : EventRec) (s : State) : (s.handleNow h e).tbOff = s.tbOff := by unfold State.handleNow; dsimp only; (repeat' split) <;> simp
@[simp] theorem State.handleNow_fresh (h : Nat) (e : EventRec) (s : State) : (s.handleNow h e).fresh = s.fresh := by unfold State.handleNow; dsimp only; (repeat' split) <;> simp
@[simp] theorem State.handleNow_regs (h : Nat) (e : EventRec) (s : State) : (s.handleNow h e).regs = s.regs := by unfold State.handleNow; dsimp only; (repeat' split) <;> simp
@[simp] theorem State.handleNow_fuses (h : Nat) (e : EventRec) (s : State) : (s.handleNow h e).fuses = s.fuses := by unfold State.handleNow; dsimp only; (repeat' split) <;> simp
@[simp] theorem State.handleNow_flash (h : Nat) (e : EventRec) (s : State) : (s.handleNow h e).flash = s.flash := by unfold State.handleNow; dsimp only; (repeat' split) <;> simp
@[simp] theorem State.handleNow_boot (h : Nat) (e : EventRec) (s : State) : (s.handleNow h e).boot = s.boot := by unfold State.handleNow; dsimp only; (repeat' split) <;> simp
@[simp] theorem State.handleNow_pwr (h : Nat) (e : EventRec) (s : State) : (s.handleNow h e).pwr = s.pwr := by unfold State.handleNow; dsimp only; (repeat' split) <;> simp
@[simp] theorem State.handleNow_sb (h : Nat) (e : EventRec) (s : State) : (s.handleNow h e).sb = s.sb := by unfold State.handleNow; dsimp only; (repeat' split) <;> simp
@[simp] theorem State.handleNow_sec (h : Nat) (e : EventRec) (s : State) : (s.handleNow h e).sec = s.sec := by unfold State.handleNow; dsimp only; (repeat' split) <;> simp
@[simp] theorem State.handleNow_obs (h : Nat) (e : EventRec) (s : State) : (s.handleNow h e).obs = s.obs := by unfold State.handleNow; dsimp only; (repeat' split) <;> simp
@[simp] theorem State.handleNow_spanMap (h : Nat) (e : EventRec) (s : State) : (s.handleNow h e).spanMap = s.spanMap := by unfold State.handleNow; dsimp only; (repeat' split) <;> simp
@[simp] theorem State.handleNow_mapEpoch (h : Nat) (e : EventRec) (s : State) : (s.handleNow h e).mapEpoch = s.mapEpoch := by unfold State.handleNow; dsimp only; (repeat' split) <;> simp
@[simp] theorem State.handleNow_spans (h : Nat) (e : EventRec) (s : State) : (s.handleNow h e).spans = s.spans := by unfold State.handleNow; dsimp only; (repeat' split) <;> simp
@[simp] theorem State.handleNow_ports (h : Nat) (e : EventRec) (s : State) : (s.handleNow h e).ports = s.ports := by unfold State.handleNow; dsimp only; (repeat' split) <;> simp
@[simp] theorem State.handleNow_perstLow (h : Nat) (e : EventRec) (s : State) : (s.handleNow h e).perstLow = s.perstLow := by unfold State.handleNow; dsimp only; (repeat' split) <;> simp
@[simp] theorem State.handleNow_lanes (h : Nat) (e : EventRec) (s : State) : (s.handleNow h e).lanes = s.lanes := by unfold State.handleNow; dsimp only; (repeat' split) <;> simp
@[simp] theorem State.handleNow_named (h : Nat) (e : EventRec) (s : State) : (s.handleNow h e).named = s.named := by unfold State.handleNow; dsimp only; (repeat' split) <;> simp
@[simp] theorem State.handleNow_requests (h : Nat) (e : EventRec) (s : State) : (s.handleNow h e).requests = s.requests := by unfold State.handleNow; dsimp only; (repeat' split) <;> simp
@[simp] theorem State.handleNow_waiting (h : Nat) (e : EventRec) (s : State) : (s.handleNow h e).waiting = s.waiting := by unfold State.handleNow; dsimp only; (repeat' split) <;> simp
@[simp] theorem State.handleNow_stamp (h : Nat) (e : EventRec) (s : State) : (s.handleNow h e).stamp = s.stamp := by unfold State.handleNow; dsimp only; (repeat' split) <;> simp
@[simp] theorem State.handleNow_jobs (h : Nat) (e : EventRec) (s : State) : (s.handleNow h e).jobs = s.jobs := by unfold State.handleNow; dsimp only; (repeat' split) <;> simp
@[simp] theorem State.handleNow_ended (h : Nat) (e : EventRec) (s : State) : (s.handleNow h e).ended = s.ended := by unfold State.handleNow; dsimp only; (repeat' split) <;> simp
@[simp] theorem State.handleNow_cycStart (h : Nat) (e : EventRec) (s : State) : (s.handleNow h e).cycStart = s.cycStart := by unfold State.handleNow; dsimp only; (repeat' split) <;> simp
@[simp] theorem State.handleNow_spanSaved (h : Nat) (e : EventRec) (s : State) : (s.handleNow h e).spanSaved = s.spanSaved := by unfold State.handleNow; dsimp only; (repeat' split) <;> simp
@[simp] theorem State.handleNow_routes (h : Nat) (e : EventRec) (s : State) : (s.handleNow h e).routes = s.routes := by unfold State.handleNow; dsimp only; (repeat' split) <;> simp
@[simp] theorem State.handleNow_running (h : Nat) (e : EventRec) (s : State) : (s.handleNow h e).running = s.running := by unfold State.handleNow; dsimp only; (repeat' split) <;> simp
@[simp] theorem State.handleNow_nextJob (h : Nat) (e : EventRec) (s : State) : (s.handleNow h e).nextJob = s.nextJob := by unfold State.handleNow; dsimp only; (repeat' split) <;> simp
@[simp] theorem State.handleNow_bits (h : Nat) (e : EventRec) (s : State) : (s.handleNow h e).bits = s.bits := by unfold State.handleNow; dsimp only; (repeat' split) <;> simp
@[simp] theorem State.handleNow_binding (h : Nat) (e : EventRec) (s : State) : (s.handleNow h e).binding = s.binding := by unfold State.handleNow; dsimp only; (repeat' split) <;> simp
@[simp] theorem State.handleNow_load (h : Nat) (e : EventRec) (s : State) : (s.handleNow h e).load = s.load := by unfold State.handleNow; dsimp only; (repeat' split) <;> simp
@[simp] theorem State.handleNow_loadStatus (h : Nat) (e : EventRec) (s : State) : (s.handleNow h e).loadStatus = s.loadStatus := by unfold State.handleNow; dsimp only; (repeat' split) <;> simp
@[simp] theorem State.handleNow_loadDetail (h : Nat) (e : EventRec) (s : State) : (s.handleNow h e).loadDetail = s.loadDetail := by unfold State.handleNow; dsimp only; (repeat' split) <;> simp
@[simp] theorem State.handleNow_cache (h : Nat) (e : EventRec) (s : State) : (s.handleNow h e).cache = s.cache := by unfold State.handleNow; dsimp only; (repeat' split) <;> simp
@[simp] theorem State.handleNow_hot (h : Nat) (e : EventRec) (s : State) : (s.handleNow h e).hot = s.hot := by unfold State.handleNow; dsimp only; (repeat' split) <;> simp
@[simp] theorem State.handleNow_staged (h : Nat) (e : EventRec) (s : State) : (s.handleNow h e).staged = s.staged := by unfold State.handleNow; dsimp only; (repeat' split) <;> simp
@[simp] theorem State.handleNow_tune (h : Nat) (e : EventRec) (s : State) : (s.handleNow h e).tune = s.tune := by unfold State.handleNow; dsimp only; (repeat' split) <;> simp
@[simp] theorem State.handleNow_kv (h : Nat) (e : EventRec) (s : State) : (s.handleNow h e).kv = s.kv := by unfold State.handleNow; dsimp only; (repeat' split) <;> simp
@[simp] theorem State.handleNow_kvSaved (h : Nat) (e : EventRec) (s : State) : (s.handleNow h e).kvSaved = s.kvSaved := by unfold State.handleNow; dsimp only; (repeat' split) <;> simp
@[simp] theorem State.handleNow_govSaved (h : Nat) (e : EventRec) (s : State) : (s.handleNow h e).govSaved = s.govSaved := by unfold State.handleNow; dsimp only; (repeat' split) <;> simp
@[simp] theorem State.handleNow_tickSaved (h : Nat) (e : EventRec) (s : State) : (s.handleNow h e).tickSaved = s.tickSaved := by unfold State.handleNow; dsimp only; (repeat' split) <;> simp
@[simp] theorem State.handleNow_tick (h : Nat) (e : EventRec) (s : State) : (s.handleNow h e).tick = s.tick := by unfold State.handleNow; dsimp only; (repeat' split) <;> simp
@[simp] theorem State.handleNow_gov (h : Nat) (e : EventRec) (s : State) : (s.handleNow h e).gov = s.gov := by unfold State.handleNow; dsimp only; (repeat' split) <;> simp
@[simp] theorem State.handleNow_trs (h : Nat) (e : EventRec) (s : State) : (s.handleNow h e).trs = s.trs := by unfold State.handleNow; dsimp only; (repeat' split) <;> simp
@[simp] theorem State.handleNow_mem (h : Nat) (e : EventRec) (s : State) : (s.handleNow h e).mem = s.mem := by unfold State.handleNow; dsimp only; (repeat' split) <;> simp
@[simp] theorem State.handleNow_landings (h : Nat) (e : EventRec) (s : State) : (s.handleNow h e).landings = s.landings := by unfold State.handleNow; dsimp only; (repeat' split) <;> simp
@[simp] theorem State.handleNow_via (h : Nat) (e : EventRec) (s : State) : (s.handleNow h e).via = s.via := by unfold State.handleNow; dsimp only; (repeat' split) <;> simp
@[simp] theorem State.handleNow_flt (h : Nat) (e : EventRec) (s : State) : (s.handleNow h e).flt = s.flt := by unfold State.handleNow; dsimp only; (repeat' split) <;> simp

@[simp] theorem State.answerNow_pending (h status arg0 arg1 arg2 : Nat) (s : State) : (s.answerNow h status arg0 arg1 arg2).pending = s.pending := by unfold State.answerNow; simp
@[simp] theorem State.answerNow_time (h status arg0 arg1 arg2 : Nat) (s : State) : (s.answerNow h status arg0 arg1 arg2).time = s.time := by unfold State.answerNow; simp
@[simp] theorem State.answerNow_tbOff (h status arg0 arg1 arg2 : Nat) (s : State) : (s.answerNow h status arg0 arg1 arg2).tbOff = s.tbOff := by unfold State.answerNow; simp
@[simp] theorem State.answerNow_fresh (h status arg0 arg1 arg2 : Nat) (s : State) : (s.answerNow h status arg0 arg1 arg2).fresh = s.fresh := by unfold State.answerNow; simp
@[simp] theorem State.answerNow_regs (h status arg0 arg1 arg2 : Nat) (s : State) : (s.answerNow h status arg0 arg1 arg2).regs = s.regs := by unfold State.answerNow; simp
@[simp] theorem State.answerNow_fuses (h status arg0 arg1 arg2 : Nat) (s : State) : (s.answerNow h status arg0 arg1 arg2).fuses = s.fuses := by unfold State.answerNow; simp
@[simp] theorem State.answerNow_flash (h status arg0 arg1 arg2 : Nat) (s : State) : (s.answerNow h status arg0 arg1 arg2).flash = s.flash := by unfold State.answerNow; simp
@[simp] theorem State.answerNow_boot (h status arg0 arg1 arg2 : Nat) (s : State) : (s.answerNow h status arg0 arg1 arg2).boot = s.boot := by unfold State.answerNow; simp
@[simp] theorem State.answerNow_pwr (h status arg0 arg1 arg2 : Nat) (s : State) : (s.answerNow h status arg0 arg1 arg2).pwr = s.pwr := by unfold State.answerNow; simp
@[simp] theorem State.answerNow_sb (h status arg0 arg1 arg2 : Nat) (s : State) : (s.answerNow h status arg0 arg1 arg2).sb = s.sb := by unfold State.answerNow; simp
@[simp] theorem State.answerNow_sec (h status arg0 arg1 arg2 : Nat) (s : State) : (s.answerNow h status arg0 arg1 arg2).sec = s.sec := by unfold State.answerNow; simp
@[simp] theorem State.answerNow_obs (h status arg0 arg1 arg2 : Nat) (s : State) : (s.answerNow h status arg0 arg1 arg2).obs = s.obs := by unfold State.answerNow; simp
@[simp] theorem State.answerNow_spanMap (h status arg0 arg1 arg2 : Nat) (s : State) : (s.answerNow h status arg0 arg1 arg2).spanMap = s.spanMap := by unfold State.answerNow; simp
@[simp] theorem State.answerNow_mapEpoch (h status arg0 arg1 arg2 : Nat) (s : State) : (s.answerNow h status arg0 arg1 arg2).mapEpoch = s.mapEpoch := by unfold State.answerNow; simp
@[simp] theorem State.answerNow_spans (h status arg0 arg1 arg2 : Nat) (s : State) : (s.answerNow h status arg0 arg1 arg2).spans = s.spans := by unfold State.answerNow; simp
@[simp] theorem State.answerNow_ports (h status arg0 arg1 arg2 : Nat) (s : State) : (s.answerNow h status arg0 arg1 arg2).ports = s.ports := by unfold State.answerNow; simp
@[simp] theorem State.answerNow_perstLow (h status arg0 arg1 arg2 : Nat) (s : State) : (s.answerNow h status arg0 arg1 arg2).perstLow = s.perstLow := by unfold State.answerNow; simp
@[simp] theorem State.answerNow_lanes (h status arg0 arg1 arg2 : Nat) (s : State) : (s.answerNow h status arg0 arg1 arg2).lanes = s.lanes := by unfold State.answerNow; simp
@[simp] theorem State.answerNow_named (h status arg0 arg1 arg2 : Nat) (s : State) : (s.answerNow h status arg0 arg1 arg2).named = s.named := by unfold State.answerNow; simp
@[simp] theorem State.answerNow_requests (h status arg0 arg1 arg2 : Nat) (s : State) : (s.answerNow h status arg0 arg1 arg2).requests = s.requests := by unfold State.answerNow; simp
@[simp] theorem State.answerNow_waiting (h status arg0 arg1 arg2 : Nat) (s : State) : (s.answerNow h status arg0 arg1 arg2).waiting = s.waiting := by unfold State.answerNow; simp
@[simp] theorem State.answerNow_stamp (h status arg0 arg1 arg2 : Nat) (s : State) : (s.answerNow h status arg0 arg1 arg2).stamp = s.stamp := by unfold State.answerNow; simp
@[simp] theorem State.answerNow_jobs (h status arg0 arg1 arg2 : Nat) (s : State) : (s.answerNow h status arg0 arg1 arg2).jobs = s.jobs := by unfold State.answerNow; simp
@[simp] theorem State.answerNow_ended (h status arg0 arg1 arg2 : Nat) (s : State) : (s.answerNow h status arg0 arg1 arg2).ended = s.ended := by unfold State.answerNow; simp
@[simp] theorem State.answerNow_cycStart (h status arg0 arg1 arg2 : Nat) (s : State) : (s.answerNow h status arg0 arg1 arg2).cycStart = s.cycStart := by unfold State.answerNow; simp
@[simp] theorem State.answerNow_spanSaved (h status arg0 arg1 arg2 : Nat) (s : State) : (s.answerNow h status arg0 arg1 arg2).spanSaved = s.spanSaved := by unfold State.answerNow; simp
@[simp] theorem State.answerNow_routes (h status arg0 arg1 arg2 : Nat) (s : State) : (s.answerNow h status arg0 arg1 arg2).routes = s.routes := by unfold State.answerNow; simp
@[simp] theorem State.answerNow_running (h status arg0 arg1 arg2 : Nat) (s : State) : (s.answerNow h status arg0 arg1 arg2).running = s.running := by unfold State.answerNow; simp
@[simp] theorem State.answerNow_nextJob (h status arg0 arg1 arg2 : Nat) (s : State) : (s.answerNow h status arg0 arg1 arg2).nextJob = s.nextJob := by unfold State.answerNow; simp
@[simp] theorem State.answerNow_bits (h status arg0 arg1 arg2 : Nat) (s : State) : (s.answerNow h status arg0 arg1 arg2).bits = s.bits := by unfold State.answerNow; simp
@[simp] theorem State.answerNow_binding (h status arg0 arg1 arg2 : Nat) (s : State) : (s.answerNow h status arg0 arg1 arg2).binding = s.binding := by unfold State.answerNow; simp
@[simp] theorem State.answerNow_load (h status arg0 arg1 arg2 : Nat) (s : State) : (s.answerNow h status arg0 arg1 arg2).load = s.load := by unfold State.answerNow; simp
@[simp] theorem State.answerNow_loadStatus (h status arg0 arg1 arg2 : Nat) (s : State) : (s.answerNow h status arg0 arg1 arg2).loadStatus = s.loadStatus := by unfold State.answerNow; simp
@[simp] theorem State.answerNow_loadDetail (h status arg0 arg1 arg2 : Nat) (s : State) : (s.answerNow h status arg0 arg1 arg2).loadDetail = s.loadDetail := by unfold State.answerNow; simp
@[simp] theorem State.answerNow_cache (h status arg0 arg1 arg2 : Nat) (s : State) : (s.answerNow h status arg0 arg1 arg2).cache = s.cache := by unfold State.answerNow; simp
@[simp] theorem State.answerNow_hot (h status arg0 arg1 arg2 : Nat) (s : State) : (s.answerNow h status arg0 arg1 arg2).hot = s.hot := by unfold State.answerNow; simp
@[simp] theorem State.answerNow_staged (h status arg0 arg1 arg2 : Nat) (s : State) : (s.answerNow h status arg0 arg1 arg2).staged = s.staged := by unfold State.answerNow; simp
@[simp] theorem State.answerNow_tune (h status arg0 arg1 arg2 : Nat) (s : State) : (s.answerNow h status arg0 arg1 arg2).tune = s.tune := by unfold State.answerNow; simp
@[simp] theorem State.answerNow_kv (h status arg0 arg1 arg2 : Nat) (s : State) : (s.answerNow h status arg0 arg1 arg2).kv = s.kv := by unfold State.answerNow; simp
@[simp] theorem State.answerNow_kvSaved (h status arg0 arg1 arg2 : Nat) (s : State) : (s.answerNow h status arg0 arg1 arg2).kvSaved = s.kvSaved := by unfold State.answerNow; simp
@[simp] theorem State.answerNow_govSaved (h status arg0 arg1 arg2 : Nat) (s : State) : (s.answerNow h status arg0 arg1 arg2).govSaved = s.govSaved := by unfold State.answerNow; simp
@[simp] theorem State.answerNow_tickSaved (h status arg0 arg1 arg2 : Nat) (s : State) : (s.answerNow h status arg0 arg1 arg2).tickSaved = s.tickSaved := by unfold State.answerNow; simp
@[simp] theorem State.answerNow_tick (h status arg0 arg1 arg2 : Nat) (s : State) : (s.answerNow h status arg0 arg1 arg2).tick = s.tick := by unfold State.answerNow; simp
@[simp] theorem State.answerNow_gov (h status arg0 arg1 arg2 : Nat) (s : State) : (s.answerNow h status arg0 arg1 arg2).gov = s.gov := by unfold State.answerNow; simp
@[simp] theorem State.answerNow_trs (h status arg0 arg1 arg2 : Nat) (s : State) : (s.answerNow h status arg0 arg1 arg2).trs = s.trs := by unfold State.answerNow; simp
@[simp] theorem State.answerNow_mem (h status arg0 arg1 arg2 : Nat) (s : State) : (s.answerNow h status arg0 arg1 arg2).mem = s.mem := by unfold State.answerNow; simp
@[simp] theorem State.answerNow_landings (h status arg0 arg1 arg2 : Nat) (s : State) : (s.answerNow h status arg0 arg1 arg2).landings = s.landings := by unfold State.answerNow; simp
@[simp] theorem State.answerNow_via (h status arg0 arg1 arg2 : Nat) (s : State) : (s.answerNow h status arg0 arg1 arg2).via = s.via := by unfold State.answerNow; simp
@[simp] theorem State.answerNow_flt (h status arg0 arg1 arg2 : Nat) (s : State) : (s.answerNow h status arg0 arg1 arg2).flt = s.flt := by unfold State.answerNow; simp

@[simp] theorem State.setEntry_pending (e : Nat) (x : HotEntry) (s : State) : (s.setEntry e x).pending = s.pending := rfl
@[simp] theorem State.setEntry_out (e : Nat) (x : HotEntry) (s : State) : (s.setEntry e x).out = s.out := rfl
@[simp] theorem State.setEntry_time (e : Nat) (x : HotEntry) (s : State) : (s.setEntry e x).time = s.time := rfl
@[simp] theorem State.setEntry_tbOff (e : Nat) (x : HotEntry) (s : State) : (s.setEntry e x).tbOff = s.tbOff := rfl
@[simp] theorem State.setEntry_fresh (e : Nat) (x : HotEntry) (s : State) : (s.setEntry e x).fresh = s.fresh := rfl
@[simp] theorem State.setEntry_regs (e : Nat) (x : HotEntry) (s : State) : (s.setEntry e x).regs = s.regs := rfl
@[simp] theorem State.setEntry_counters (e : Nat) (x : HotEntry) (s : State) : (s.setEntry e x).counters = s.counters := rfl
@[simp] theorem State.setEntry_fuses (e : Nat) (x : HotEntry) (s : State) : (s.setEntry e x).fuses = s.fuses := rfl
@[simp] theorem State.setEntry_flash (e : Nat) (x : HotEntry) (s : State) : (s.setEntry e x).flash = s.flash := rfl
@[simp] theorem State.setEntry_boot (e : Nat) (x : HotEntry) (s : State) : (s.setEntry e x).boot = s.boot := rfl
@[simp] theorem State.setEntry_pwr (e : Nat) (x : HotEntry) (s : State) : (s.setEntry e x).pwr = s.pwr := rfl
@[simp] theorem State.setEntry_sb (e : Nat) (x : HotEntry) (s : State) : (s.setEntry e x).sb = s.sb := rfl
@[simp] theorem State.setEntry_sec (e : Nat) (x : HotEntry) (s : State) : (s.setEntry e x).sec = s.sec := rfl
@[simp] theorem State.setEntry_obs (e : Nat) (x : HotEntry) (s : State) : (s.setEntry e x).obs = s.obs := rfl
@[simp] theorem State.setEntry_spanMap (e : Nat) (x : HotEntry) (s : State) : (s.setEntry e x).spanMap = s.spanMap := rfl
@[simp] theorem State.setEntry_mapEpoch (e : Nat) (x : HotEntry) (s : State) : (s.setEntry e x).mapEpoch = s.mapEpoch := rfl
@[simp] theorem State.setEntry_spans (e : Nat) (x : HotEntry) (s : State) : (s.setEntry e x).spans = s.spans := rfl
@[simp] theorem State.setEntry_ports (e : Nat) (x : HotEntry) (s : State) : (s.setEntry e x).ports = s.ports := rfl
@[simp] theorem State.setEntry_perstLow (e : Nat) (x : HotEntry) (s : State) : (s.setEntry e x).perstLow = s.perstLow := rfl
@[simp] theorem State.setEntry_lanes (e : Nat) (x : HotEntry) (s : State) : (s.setEntry e x).lanes = s.lanes := rfl
@[simp] theorem State.setEntry_handles (e : Nat) (x : HotEntry) (s : State) : (s.setEntry e x).handles = s.handles := rfl
@[simp] theorem State.setEntry_named (e : Nat) (x : HotEntry) (s : State) : (s.setEntry e x).named = s.named := rfl
@[simp] theorem State.setEntry_logs (e : Nat) (x : HotEntry) (s : State) : (s.setEntry e x).logs = s.logs := rfl
@[simp] theorem State.setEntry_requests (e : Nat) (x : HotEntry) (s : State) : (s.setEntry e x).requests = s.requests := rfl
@[simp] theorem State.setEntry_waiting (e : Nat) (x : HotEntry) (s : State) : (s.setEntry e x).waiting = s.waiting := rfl
@[simp] theorem State.setEntry_stamp (e : Nat) (x : HotEntry) (s : State) : (s.setEntry e x).stamp = s.stamp := rfl
@[simp] theorem State.setEntry_jobs (e : Nat) (x : HotEntry) (s : State) : (s.setEntry e x).jobs = s.jobs := rfl
@[simp] theorem State.setEntry_ended (e : Nat) (x : HotEntry) (s : State) : (s.setEntry e x).ended = s.ended := rfl
@[simp] theorem State.setEntry_pub (e : Nat) (x : HotEntry) (s : State) : (s.setEntry e x).pub = s.pub := rfl
@[simp] theorem State.setEntry_cycStart (e : Nat) (x : HotEntry) (s : State) : (s.setEntry e x).cycStart = s.cycStart := rfl
@[simp] theorem State.setEntry_spanSaved (e : Nat) (x : HotEntry) (s : State) : (s.setEntry e x).spanSaved = s.spanSaved := rfl
@[simp] theorem State.setEntry_routes (e : Nat) (x : HotEntry) (s : State) : (s.setEntry e x).routes = s.routes := rfl
@[simp] theorem State.setEntry_running (e : Nat) (x : HotEntry) (s : State) : (s.setEntry e x).running = s.running := rfl
@[simp] theorem State.setEntry_nextJob (e : Nat) (x : HotEntry) (s : State) : (s.setEntry e x).nextJob = s.nextJob := rfl
@[simp] theorem State.setEntry_bits (e : Nat) (x : HotEntry) (s : State) : (s.setEntry e x).bits = s.bits := rfl
@[simp] theorem State.setEntry_binding (e : Nat) (x : HotEntry) (s : State) : (s.setEntry e x).binding = s.binding := rfl
@[simp] theorem State.setEntry_load (e : Nat) (x : HotEntry) (s : State) : (s.setEntry e x).load = s.load := rfl
@[simp] theorem State.setEntry_loadStatus (e : Nat) (x : HotEntry) (s : State) : (s.setEntry e x).loadStatus = s.loadStatus := rfl
@[simp] theorem State.setEntry_loadDetail (e : Nat) (x : HotEntry) (s : State) : (s.setEntry e x).loadDetail = s.loadDetail := rfl
@[simp] theorem State.setEntry_cache (e : Nat) (x : HotEntry) (s : State) : (s.setEntry e x).cache = s.cache := rfl
@[simp] theorem State.setEntry_staged (e : Nat) (x : HotEntry) (s : State) : (s.setEntry e x).staged = s.staged := rfl
@[simp] theorem State.setEntry_tune (e : Nat) (x : HotEntry) (s : State) : (s.setEntry e x).tune = s.tune := rfl
@[simp] theorem State.setEntry_kv (e : Nat) (x : HotEntry) (s : State) : (s.setEntry e x).kv = s.kv := rfl
@[simp] theorem State.setEntry_kvSaved (e : Nat) (x : HotEntry) (s : State) : (s.setEntry e x).kvSaved = s.kvSaved := rfl
@[simp] theorem State.setEntry_govSaved (e : Nat) (x : HotEntry) (s : State) : (s.setEntry e x).govSaved = s.govSaved := rfl
@[simp] theorem State.setEntry_tickSaved (e : Nat) (x : HotEntry) (s : State) : (s.setEntry e x).tickSaved = s.tickSaved := rfl
@[simp] theorem State.setEntry_tick (e : Nat) (x : HotEntry) (s : State) : (s.setEntry e x).tick = s.tick := rfl
@[simp] theorem State.setEntry_gov (e : Nat) (x : HotEntry) (s : State) : (s.setEntry e x).gov = s.gov := rfl
@[simp] theorem State.setEntry_trs (e : Nat) (x : HotEntry) (s : State) : (s.setEntry e x).trs = s.trs := rfl
@[simp] theorem State.setEntry_mem (e : Nat) (x : HotEntry) (s : State) : (s.setEntry e x).mem = s.mem := rfl
@[simp] theorem State.setEntry_landings (e : Nat) (x : HotEntry) (s : State) : (s.setEntry e x).landings = s.landings := rfl
@[simp] theorem State.setEntry_via (e : Nat) (x : HotEntry) (s : State) : (s.setEntry e x).via = s.via := rfl
@[simp] theorem State.setEntry_flt (e : Nat) (x : HotEntry) (s : State) : (s.setEntry e x).flt = s.flt := rfl

end Sys2Proof.Machine
end

