-- ==== Sys2Proof/Laws/Mem.lean ====
section
/-! SUPPORT. Device memory: what its operations count and what they leave of each byte. -/

namespace Sys2Proof.Machine
open Sys2Proof

/-- A state after another in which only controllers have counted: the counters, and the corrections that lane groups remember. -/
structure MemCounted (s z : State) : Prop where
  frame : z = { s with counters := z.counters, mem := { s.mem with lgs := z.mem.lgs } }
  lanes : ∀ k, { kget LaneGroup.clean z.mem.lgs k with window := [] } = { kget LaneGroup.clean s.mem.lgs k with window := [] }

theorem MemCounted.refl (s : State) : MemCounted s s := ⟨rfl, fun _ => rfl⟩

theorem MemCounted.trans {a b c : State} (h : MemCounted a b) (k : MemCounted b c) : MemCounted a c := by
  refine ⟨?_, fun j => (k.lanes j).trans (h.lanes j)⟩
  have hk := k.frame
  rw [h.frame] at hk
  rw [hk]

theorem MemCounted.foldl {α : Type} (f : State → α → State) (h : ∀ s a, MemCounted s (f s a)) (l : List α) (s : State) :
    MemCounted s (l.foldl f s) := by
  induction l generalizing s with
  | nil => exact .refl s
  | cons a r ih => rw [List.foldl_cons]; exact (h s a).trans (ih _)

theorem State.inc_counted (o n : Nat) (s : State) : MemCounted s (s.inc o n) := by
  unfold State.inc; split <;> exact ⟨rfl, fun _ => rfl⟩

theorem State.incBytes_counted (o n : Nat) (s : State) : MemCounted s (s.incBytes o n) := by
  unfold State.incBytes; split <;> exact ⟨rfl, fun _ => rfl⟩

theorem State.countStack_counted (b : Nat) (l : List Nat) (s : State) : MemCounted s (s.countStack b l) :=
  MemCounted.foldl _ (fun s _ => State.incBytes_counted _ _ s) _ _

theorem State.incStk_counted (b n g : Nat) (s : State) : MemCounted s (s.incStk b n g) := State.inc_counted _ _ _

theorem State.corrected_counted (g pin : Nat) (s : State) : MemCounted s (s.corrected g pin) := by
  unfold State.corrected; dsimp only
  have h := (State.incStk_counted 0x070400 1 g s).trans
    (State.inc_counted (0x071000 + 0x80 * stackOf (32 * g) + 4 * lgOf (32 * g)) 1 (s.incStk 0x070400 1 g))
  revert h
  generalize State.inc (0x071000 + 0x80 * stackOf (32 * g) + 4 * lgOf (32 * g)) 1 (s.incStk 0x070400 1 g) = y
  intro h
  refine h.trans ⟨rfl, fun k => ?_⟩
  unfold State.modLg
  by_cases hk : k = 32 * stackOf (32 * g) + lgOf (32 * g)
  · subst hk
    rw [show kget LaneGroup.clean _ _ = _ from kget_kset_same _ _ _ _]
    rfl
  · rw [show kget LaneGroup.clean _ k = _ from kget_kset_other _ _ hk _]

theorem State.readCode_counted (g : Nat) (s : State) : MemCounted s (s.readCode g) := by
  unfold State.readCode
  split
  · exact State.incStk_counted _ _ _ _
  · split
    · exact State.incStk_counted _ _ _ _
    · exact MemCounted.foldl _ (fun s p => State.corrected_counted g p s) _ _

/-- A read gives the bytes there, and only counts. -/
theorem State.memRead_counted (l : List Nat) (s : State) :
    (s.memRead l).1 = l.map s.memByte ∧ MemCounted s (s.memRead l).2 :=
  ⟨rfl, (State.countStack_counted _ _ _).trans (MemCounted.foldl _ (fun s g => State.readCode_counted g s) _ _)⟩

theorem State.countWrite_counted (l : List Nat) (s : State) : MemCounted s (s.countWrite l) := by
  unfold State.countWrite; dsimp only
  refine ((State.countStack_counted _ _ _).trans (State.countStack_counted _ _ _)).trans (MemCounted.foldl _ (fun s g => ?_) _ _)
  refine MemCounted.trans (b := (if s.mem.poison.contains g then s.incStk 0x070404 1 g else s)) ?_ ?_
  · split
    · exact State.incStk_counted _ _ _ _
    · exact .refl s
  · exact (State.readCode_counted _ _).trans (State.incStk_counted _ _ _ _)

theorem MemCounted.errsAt {s z : State} (h : MemCounted s z) (g : Nat) : z.errsAt g = s.errsAt g := by
  unfold State.errsAt; rw [h.frame]

theorem MemCounted.codeAt {s z : State} (h : MemCounted s z) (g : Nat) : z.codeAt g = s.codeAt g := by
  have hl := h.lanes (32 * stackOf (32 * g) + lgOf (32 * g))
  have ha : (z.lgAt g).eraseA = (s.lgAt g).eraseA := by have := congrArg LaneGroup.eraseA hl; exact this
  have hb : (z.lgAt g).eraseB = (s.lgAt g).eraseB := by have := congrArg LaneGroup.eraseB hl; exact this
  unfold State.codeAt
  rw [h.errsAt, ha, hb]

theorem MemCounted.memByte {s z : State} (h : MemCounted s z) (a : Nat) : z.memByte a = s.memByte a := by
  have hb : z.mem.bytes = s.mem.bytes := by rw [h.frame]
  unfold State.memByte State.wrongByte
  rw [h.codeAt, h.errsAt, hb]

theorem MemCounted.badCode {s z : State} (h : MemCounted s z) (g : Nat) : z.badCode g = s.badCode g := by
  have hp : z.mem.poison = s.mem.poison := by rw [h.frame]
  unfold State.badCode
  rw [h.codeAt, hp]

theorem MemCounted.mends {s z : State} (h : MemCounted s z) (l : List Nat) : z.mends l = s.mends l := by
  unfold State.mends
  simp only [h.badCode, h.errsAt, h.memByte]

/-- A granule in which nothing reads wrong gives its bytes as they are held. -/
theorem State.memByte_right {s : State} {a : Nat} (h : s.errsAt (a / 32) = []) : s.memByte a = kget 0#8 s.mem.bytes a := by
  have hr : symbolByte (rsResidue [] []) (a % 32) = 0#8 := by
    unfold rsResidue symbolByte; simp [kget, kfind?]
  unfold State.memByte State.wrongByte State.codeAt
  rw [h]
  show kget 0#8 s.mem.bytes a ^^^ symbolByte (rsResidue [] []) (a % 32) = _
  rw [hr]; simp

/-- A write changes counters, what lane groups remember, bytes of the granules that it names, and what reads wrong or is poison
there; nothing else. -/
theorem State.memWrite_frame (l : List (Nat × Byte)) (s : State) :
    ∃ y, MemCounted s y ∧ s.memWrite l = { y with mem := { y.mem with
      bytes := setBytes (setBytes s.mem.bytes (s.mends (partGranules ((s.liveWrites l).map (·.1))))) (s.keptWrites l)
      wrong := (s.mem.wrong.filter (fun e => !(partGranules ((s.liveWrites l).map (·.1))).contains e.1 || s.badCode e.1)).filter
        (fun e => !(wholeGranules ((s.liveWrites l).map (·.1))).contains e.1)
      poison := s.mem.poison.filter (fun g => !(wholeGranules ((s.liveWrites l).map (·.1))).contains g) } } := by
  refine ⟨s.countWrite ((s.liveWrites l).map (·.1)), State.countWrite_counted _ _, ?_⟩
  have h := State.countWrite_counted ((s.liveWrites l).map (·.1)) s
  unfold State.memWrite State.mended
  dsimp only
  have hb : (s.countWrite ((s.liveWrites l).map (·.1))).mem.bytes = s.mem.bytes := by rw [h.frame]
  have hw : (s.countWrite ((s.liveWrites l).map (·.1))).mem.wrong = s.mem.wrong := by rw [h.frame]
  have hp : (s.countWrite ((s.liveWrites l).map (·.1))).mem.poison = s.mem.poison := by rw [h.frame]
  simp only [h.mends, hb, hw, hp, h.badCode]

/-- A write keeps the canonical form of device memory. -/
theorem State.wf_memWrite {s : State} (h : Memory.wf s.mem.bytes = true) (l : List (Nat × Byte)) :
    Memory.wf (s.memWrite l).mem.bytes = true := by
  obtain ⟨y, _, hy⟩ := State.memWrite_frame l s
  rw [hy]; exact Memory.wf_setBytes (Memory.wf_setBytes h _) _

theorem mem_granOffs {gs : List Nat} {a : Nat} : a ∈ granOffs gs ↔ a / 32 ∈ gs := by
  unfold granOffs
  simp only [List.mem_flatMap, List.mem_map, List.mem_range]
  constructor
  · rintro ⟨g, hg, i, hi, rfl⟩
    rwa [show (32 * g + i) / 32 = g by omega]
  · intro h
    exact ⟨a / 32, h, a % 32, Nat.mod_lt _ (by norm_num), Nat.div_add_mod a 32⟩

/-- A granule of which a byte is written is written whole or in part. -/
theorem mem_offGranules {offs : List Nat} {a : Nat} (h : a ∈ offs) : a / 32 ∈ offGranules offs := by
  unfold offGranules
  rw [List.mem_eraseDups]
  exact List.mem_map_of_mem h

theorem mem_part {offs : List Nat} {g : Nat} : g ∈ partGranules offs ↔ g ∈ offGranules offs ∧ g ∉ wholeGranules offs := by
  unfold partGranules
  rw [List.mem_filter, Bool.not_eq_true', ← Bool.not_eq_true, List.contains_iff_mem]

theorem whole_all {offs : List Nat} {g a : Nat} (h : g ∈ wholeGranules offs) (ha : a / 32 = g) : a ∈ offs := by
  unfold wholeGranules at h
  rw [List.mem_filter] at h
  have h2 := List.all_eq_true.mp h.2 (a % 32) (List.mem_range.mpr (Nat.mod_lt _ (by norm_num)))
  rw [List.contains_iff_mem, List.mem_filter] at h2
  have e : 32 * g + a % 32 = a := by rw [← ha]; exact Nat.div_add_mod a 32
  rw [e] at h2
  exact h2.1

/-- A setting of bytes by a function of their places. -/
theorem setBytes_map (f : Nat → Byte) (l : List Nat) (m : List Host.Cell) (a : Nat) :
    kget 0#8 (setBytes m (l.map (fun x => (x, f x)))) a = if a ∈ l then f a else kget 0#8 m a := by
  induction l generalizing m with
  | nil => rfl
  | cons x r ih =>
    have e : setBytes m ((x :: r).map (fun x => (x, f x))) = setBytes (kset 0#8 m x (f x)) (r.map (fun x => (x, f x))) := rfl
    rw [e, ih]
    by_cases h : a ∈ r
    · rw [if_pos h, if_pos (List.mem_cons_of_mem _ h)]
    · rw [if_neg h]
      by_cases hx : a = x
      · rw [hx, if_pos (List.mem_cons_self ..)]; exact kget_kset_same _ _ _ _
      · rw [if_neg (by simp [hx, h])]; exact kget_kset_other _ _ hx _

theorem kfind?_filter {α : Type} (m : List (Nat × α)) (p : Nat → Bool) (k : Nat) :
    kfind? (m.filter (fun e => p e.1)) k = if p k = true then kfind? m k else none := by
  induction m with
  | nil => simp [kfind?]
  | cons e r ih =>
    by_cases hp : p e.1 = true
    · rw [List.filter_cons_of_pos (p := fun e : Nat × α => p e.1) hp]
      show (if k = e.1 then some e.2 else kfind? _ k) = if p k = true then (if k = e.1 then some e.2 else kfind? r k) else none
      rw [ih]
      by_cases hk : k = e.1
      · rw [if_pos hk, if_pos hk, if_pos (by rw [hk]; exact hp)]
      · rw [if_neg hk, if_neg hk]
    · rw [List.filter_cons_of_neg (p := fun e : Nat × α => p e.1) hp, ih]
      show _ = if p k = true then (if k = e.1 then some e.2 else kfind? r k) else none
      by_cases hk : k = e.1
      · rw [hk, if_neg hp, if_neg hp]
      · rw [if_neg hk]

/-- What reads wrong in a granule after a write: nothing where it is written whole, or in part and not bad; else what did. -/
theorem State.memWrite_errsAt (l : List (Nat × Byte)) (s : State) (g : Nat) :
    (s.memWrite l).errsAt g = if g ∈ wholeGranules ((s.liveWrites l).map (·.1))
      ∨ (g ∈ partGranules ((s.liveWrites l).map (·.1)) ∧ s.badCode g = false) then [] else s.errsAt g := by
  obtain ⟨y, _, hy⟩ := State.memWrite_frame l s
  unfold State.errsAt
  rw [hy]
  generalize (s.liveWrites l).map (·.1) = offs
  show (kfind? ((s.mem.wrong.filter (fun e => !(partGranules offs).contains e.1 || s.badCode e.1)).filter
    (fun e => !(wholeGranules offs).contains e.1)) g).getD [] = _
  rw [kfind?_filter _ (fun k => !(wholeGranules offs).contains k),
    kfind?_filter _ (fun k => !(partGranules offs).contains k || s.badCode k)]
  clear hy
  by_cases hw : g ∈ wholeGranules offs
  · rw [if_pos (Or.inl hw), if_neg (by rw [List.contains_iff_mem.mpr hw]; decide)]; rfl
  · have c1 : (wholeGranules offs).contains g = false := by rw [← Bool.not_eq_true, List.contains_iff_mem]; exact hw
    rw [c1, if_pos (by rfl)]
    by_cases hp : g ∈ partGranules offs
    · rw [List.contains_iff_mem.mpr hp]
      cases hb : s.badCode g
      · rw [if_pos (Or.inr ⟨hp, rfl⟩), if_neg (by decide)]; rfl
      · have n : ¬(g ∈ wholeGranules offs ∨ g ∈ partGranules offs ∧ true = false) := fun h => h.elim hw (fun h => Bool.noConfusion h.2)
        rw [if_neg n, if_pos (by decide)]; rfl
    · have c2 : (partGranules offs).contains g = false := by rw [← Bool.not_eq_true, List.contains_iff_mem]; exact hp
      have n : ¬(g ∈ wholeGranules offs ∨ g ∈ partGranules offs ∧ s.badCode g = false) := fun h => h.elim hw (fun h => hp h.1)
      rw [c2, if_neg n, if_pos (by rfl)]; rfl

/-- What the decoder makes of a granule of which a write leaves what reads wrong. -/
theorem State.memWrite_codeAt (l : List (Nat × Byte)) (s : State) {g : Nat} (h : (s.memWrite l).errsAt g = s.errsAt g) :
    (s.memWrite l).codeAt g = s.codeAt g := by
  obtain ⟨y, hc, hy⟩ := State.memWrite_frame l s
  have e : (s.memWrite l).lgAt g = y.lgAt g := by rw [hy]; rfl
  have hl := hc.lanes (32 * stackOf (32 * g) + lgOf (32 * g))
  have ha : (y.lgAt g).eraseA = (s.lgAt g).eraseA := by have := congrArg LaneGroup.eraseA hl; exact this
  have hb : (y.lgAt g).eraseB = (s.lgAt g).eraseB := by have := congrArg LaneGroup.eraseB hl; exact this
  unfold State.codeAt
  rw [h, e, ha, hb]

theorem State.memWrite_bytes (l : List (Nat × Byte)) (s : State) : (s.memWrite l).mem.bytes
    = setBytes (setBytes s.mem.bytes (s.mends (partGranules ((s.liveWrites l).map (·.1))))) (s.keptWrites l) := by
  obtain ⟨y, _, hy⟩ := State.memWrite_frame l s
  rw [hy]

theorem mem_mends {s : State} {gs : List Nat} {a : Nat} : a ∈ granOffs (gs.filter (fun g => !s.badCode g && !(s.errsAt g).isEmpty))
    ↔ a / 32 ∈ gs ∧ s.badCode (a / 32) = false ∧ s.errsAt (a / 32) ≠ [] := by
  rw [mem_granOffs, List.mem_filter]
  simp [List.isEmpty_iff]

/-- A byte that a write does not name reads as before. -/
theorem State.memWrite_other {s : State} (l : List (Nat × Byte)) {a : Nat}
    (ha : ∀ e ∈ l, e.1 ≠ a) : (s.memWrite l).memByte a = s.memByte a := by
  have hk : kget 0#8 (s.memWrite l).mem.bytes a
      = kget 0#8 (setBytes s.mem.bytes (s.mends (partGranules ((s.liveWrites l).map (·.1))))) a := by
    rw [State.memWrite_bytes]
    refine setBytes_other _ _ (fun e he => ha e ?_)
    unfold State.keptWrites State.liveWrites at he
    exact List.mem_of_mem_filter (List.mem_of_mem_filter he)
  have hnot : a ∉ (s.liveWrites l).map (·.1) := by
    intro hm
    obtain ⟨e, he, rfl⟩ := List.mem_map.mp hm
    exact ha e (List.mem_of_mem_filter he) rfl
  revert hk
  generalize hoffs : (s.liveWrites l).map (·.1) = offs at *
  intro hk
  have hw : a / 32 ∉ wholeGranules offs := fun h => hnot (whole_all h rfl)
  have hm := setBytes_map s.memByte (granOffs ((partGranules offs).filter (fun g => !s.badCode g && !(s.errsAt g).isEmpty))) s.mem.bytes a
  have he := State.memWrite_errsAt l s (a / 32)
  rw [hoffs] at he
  by_cases hp : a / 32 ∈ partGranules offs ∧ s.badCode (a / 32) = false
  · rw [if_pos (Or.inr hp)] at he
    rw [State.memByte_right he, hk]
    refine hm.trans ?_
    split
    · rfl
    · rename_i hn
      rw [mem_mends] at hn
      have : s.errsAt (a / 32) = [] := by
        by_contra hc; exact hn ⟨hp.1, hp.2, hc⟩
      exact (State.memByte_right this).symm
  · rw [if_neg (by rintro (h | h); exacts [hw h, hp h])] at he
    have hc := State.memWrite_codeAt l s he
    have hb : kget 0#8 (s.memWrite l).mem.bytes a = kget 0#8 s.mem.bytes a := by
      rw [hk]
      refine hm.trans (if_neg ?_)
      rw [mem_mends]
      exact fun h => hp ⟨h.1, h.2.1⟩
    unfold State.memByte State.wrongByte
    rw [he, hc, hb]

/-- A byte that a write names, and no later entry of it names again, reads back: in a stack that is not LOST, and in a granule that
is written whole or is neither poison nor uncorrectable. -/
theorem State.memWrite_same {s : State} (l r : List (Nat × Byte)) (a : Nat) (b : Byte) (hr : ∀ e ∈ r, e.1 ≠ a)
    (hl : s.stackLost (stackOf a) = false)
    (hg : s.badCode (a / 32) = false ∨ a / 32 ∈ wholeGranules ((s.liveWrites (l ++ (a, b) :: r)).map (·.1))) :
    (s.memWrite (l ++ (a, b) :: r)).memByte a = b := by
  have hin : (a, b) ∈ s.liveWrites (l ++ (a, b) :: r) := by
    unfold State.liveWrites
    rw [List.mem_filter]
    exact ⟨by simp, by rw [hl]; rfl⟩
  have hoff : a / 32 ∈ offGranules ((s.liveWrites (l ++ (a, b) :: r)).map (·.1)) :=
    mem_offGranules (List.mem_map_of_mem (f := fun e : Nat × Byte => e.1) hin)
  have he := State.memWrite_errsAt (l ++ (a, b) :: r) s (a / 32)
  have hb := State.memWrite_bytes (l ++ (a, b) :: r) s
  have hkept : ∃ x y, s.keptWrites (l ++ (a, b) :: r) = x ++ (a, b) :: y ∧ ∀ e ∈ y, e.1 ≠ a := by
    unfold State.keptWrites
    dsimp only
    generalize ho : (s.liveWrites (l ++ (a, b) :: r)).map (·.1) = offs at *
    have hf : (!((partGranules offs).contains (a / 32) && s.badCode (a / 32))) = true := by
      rcases hg with hg | hg
      · rw [hg, Bool.and_false]; rfl
      · have : (partGranules offs).contains (a / 32) = false := by
          rw [← Bool.not_eq_true, List.contains_iff_mem, mem_part]; exact fun h => h.2 hg
        rw [this]; rfl
    unfold State.liveWrites
    rw [List.filter_append, List.filter_cons_of_pos (by rw [hl]; rfl), List.filter_append,
      List.filter_cons_of_pos (p := fun e : Nat × Byte => !((partGranules offs).contains (e.1 / 32) && s.badCode (e.1 / 32))) hf]
    exact ⟨_, _, rfl, fun e h => hr e (List.mem_of_mem_filter (List.mem_of_mem_filter h))⟩
  generalize ho : (s.liveWrites (l ++ (a, b) :: r)).map (·.1) = offs at *
  have hz : a / 32 ∈ wholeGranules offs ∨ (a / 32 ∈ partGranules offs ∧ s.badCode (a / 32) = false) := by
    by_cases hw : a / 32 ∈ wholeGranules offs
    · exact .inl hw
    · exact .inr ⟨mem_part.mpr ⟨hoff, hw⟩, hg.resolve_right hw⟩
  rw [if_pos hz] at he
  rw [State.memByte_right he, hb]
  obtain ⟨x, y, hk, hy⟩ := hkept
  rw [hk]
  exact setBytes_same _ _ _ _ _ hy

/-- Only the counters and the memory change. -/
theorem State.memWrite_rest (l : List (Nat × Byte)) (s : State) :
    s.memWrite l = { s with counters := (s.memWrite l).counters, mem := (s.memWrite l).mem } := by
  obtain ⟨y, hc, hy⟩ := State.memWrite_frame l s
  rw [hy]
  show _ = { s with counters := y.counters, mem := _ }
  rw [hc.frame]

theorem State.memWrite_span (l : List (Nat × Byte)) (s : State) (p : Nat) : (s.memWrite l).span p = s.span p := by
  rw [State.memWrite_rest]; rfl

theorem State.memWrite_requests (l : List (Nat × Byte)) (s : State) : (s.memWrite l).requests = s.requests := by
  rw [State.memWrite_rest]

theorem State.memWrite_jobs (l : List (Nat × Byte)) (s : State) : (s.memWrite l).jobs = s.jobs := by
  rw [State.memWrite_rest]

theorem natToBytes_length (n x : Nat) : (natToBytes n x).length = n := by
  induction n generalizing x with
  | zero => rfl
  | succ n ih => simp [natToBytes, ih]

theorem natToBytes_bytesToNat (l : List Byte) : natToBytes l.length (bytesToNat l) = l := by
  induction l with
  | nil => rfl
  | cons b r ih =>
    have hb := b.isLt
    simp only [List.length_cons, natToBytes, bytesToNat]
    have h1 : (b.toNat + 256 * bytesToNat r) / 256 = bytesToNat r := by omega
    rw [h1, ih]
    congr 1
    apply BitVec.eq_of_toNat_eq
    simp only [BitVec.toNat_ofNat]
    omega

theorem bytesToNat_lt (l : List Byte) : bytesToNat l < 256 ^ l.length := by
  induction l with
  | nil => simp [bytesToNat]
  | cons b r ih =>
    have hb := b.isLt
    simp only [List.length_cons, bytesToNat, pow_succ]
    omega

/-- The bytes of a deck-store granule, in order. -/
theorem Span.granule_bytes (x : Span) (g : Nat) :
    natToBytes 32 (x.granule g).toNat = (List.range 32).map (fun i => kget 0#8 x.deck (32 * g + i)) := by
  unfold Span.granule
  generalize hl : (List.range 32).map (fun i => kget 0#8 x.deck (32 * g + i)) = l
  have hlen : l.length = 32 := by rw [← hl]; simp
  have hlt := bytesToNat_lt l
  rw [hlen] at hlt
  have : (BitVec.ofNat 256 (bytesToNat l)).toNat = bytesToNat l := by
    rw [BitVec.toNat_ofNat]
    exact Nat.mod_eq_of_lt (by norm_num at hlt ⊢; omega)
  rw [this]
  have h2 := natToBytes_bytesToNat l
  rw [hlen] at h2
  exact h2

theorem flatMap_range (n : Nat) (f : Nat → Byte) (a : Nat) :
    (List.range n).flatMap (fun k => (List.range 32).map (fun i => f (32 * (a + k) + i)))
      = (List.range (32 * n)).map (fun k => f (32 * a + k)) := by
  induction n with
  | zero => rfl
  | succ n ih =>
    rw [List.range_succ (n := n), List.flatMap_append, ih, show 32 * (n + 1) = 32 * n + 32 by ring, List.range_add]
    simp only [List.flatMap_cons, List.flatMap_nil, List.append_nil, List.map_append, List.map_map]
    congr 1
    apply List.map_congr_left
    intro i _
    simp only [Function.comp]
    congr 1
    ring

/-- The bytes of consecutive granules of a deck store. -/
theorem Span.granBytes_run (x : Span) (a n : Nat) :
    granBytes (((List.range n).map (fun i => a + i)).map x.granule)
      = (List.range (32 * n)).map (fun k => kget 0#8 x.deck (32 * a + k)) := by
  have h := flatMap_range n (fun k => kget 0#8 x.deck k) a
  have h2 : granBytes (((List.range n).map (fun i => a + i)).map x.granule)
      = (List.range n).flatMap (fun k => natToBytes 32 (x.granule (a + k)).toNat) := by
    unfold granBytes
    rw [List.flatMap_map, List.flatMap_map]
  rw [h2, ← h]
  simp only [Span.granule_bytes]

/-! ### Reading bytes for a stream, a host or another chip -/

/-- What replacing the bytes of some places by free values leaves: as many bytes, the others as they were, and only `fresh` moves. -/
theorem freeBytes_fold (free : Nat → Bool) (l : List (Nat × Byte)) (acc : List Byte × State) :
    let r := l.foldl (fun (acc : List Byte × State) (e : Nat × Byte) =>
      if free e.1 || inDevice e.1 then
        let d := acc.2.draw
        (acc.1 ++ [BitVec.ofNat 8 (Config.free d.1)], d.2)
      else (acc.1 ++ [e.2], acc.2)) acc
    r.1.length = acc.1.length + l.length ∧ r.2 = { acc.2 with fresh := r.2.fresh }
      ∧ (∀ i, i < acc.1.length → r.1.getD i 0#8 = acc.1.getD i 0#8)
      ∧ ∀ i x, l[i]? = some x → free x.1 = false → inDevice x.1 = false → r.1.getD (acc.1.length + i) 0#8 = x.2 := by
  induction l generalizing acc with
  | nil => exact ⟨rfl, rfl, fun _ _ => rfl, fun i x h => by simp at h⟩
  | cons x l ih =>
    dsimp only [List.foldl_cons]
    have step : ∀ (acc' : List Byte × State) (b : Byte), acc'.1 = acc.1 ++ [b] → acc'.2 = { acc.2 with fresh := acc'.2.fresh } →
        (free x.1 = false → inDevice x.1 = false → b = x.2) →
        let r := l.foldl (fun (acc : List Byte × State) (e : Nat × Byte) =>
          if free e.1 || inDevice e.1 then
            let d := acc.2.draw
            (acc.1 ++ [BitVec.ofNat 8 (Config.free d.1)], d.2)
          else (acc.1 ++ [e.2], acc.2)) acc'
        r.1.length = acc.1.length + (x :: l).length ∧ r.2 = { acc.2 with fresh := r.2.fresh }
          ∧ (∀ i, i < acc.1.length → r.1.getD i 0#8 = acc.1.getD i 0#8)
          ∧ ∀ i y, (x :: l)[i]? = some y → free y.1 = false → inDevice y.1 = false →
              r.1.getD (acc.1.length + i) 0#8 = y.2 := by
      intro acc' b h1 h2 h3
      obtain ⟨a, e, c, d⟩ := ih acc'
      have hlen : acc'.1.length = acc.1.length + 1 := by rw [h1]; simp
      refine ⟨by rw [a, hlen, List.length_cons]; omega, by rw [e, h2], ?_, ?_⟩
      · intro i hi
        rw [c i (by omega), h1]
        exact List.getD_append _ _ _ _ hi
      · intro i y hy q1 q2
        cases i with
        | zero =>
          simp only [List.getElem?_cons_zero, Option.some.injEq] at hy
          subst hy
          rw [Nat.add_zero, c _ (by omega), h1, h3 q1 q2]
          simp
        | succ i =>
          rw [List.getElem?_cons_succ] at hy
          have := d i y hy q1 q2
          rwa [hlen, show acc.1.length + 1 + i = acc.1.length + (i + 1) by omega] at this
    by_cases hp : (free x.1 || inDevice x.1) = true
    · rw [if_pos hp]
      exact step _ _ rfl rfl (fun q1 q2 => by rw [q1, q2] at hp; exact absurd hp (by decide))
    · rw [if_neg hp]
      exact step _ _ rfl rfl (fun _ _ => rfl)

/-- Reading bytes gives one for each offset, those neither of poison nor of the DEVICE region as memory holds them; the controllers
count, and only the number of the next free value moves besides. -/
theorem State.readBytes_spec (offs : List Nat) (s : State) : (s.readBytes offs).1.length = offs.length
    ∧ (∀ i a, offs[i]? = some a → s.poisoned a = false → inDevice a = false → (s.readBytes offs).1.getD i 0#8 = s.memByte a)
    ∧ ∃ z, MemCounted s z ∧ (s.readBytes offs).2 = { z with fresh := (s.readBytes offs).2.fresh } := by
  have hm := State.memRead_counted offs s
  obtain ⟨a, b, _, d⟩ := freeBytes_fold s.poisoned (offs.zip (s.memRead offs).1) ([], (s.memRead offs).2)
  have hr : (s.memRead offs).1 = offs.map s.memByte := rfl
  unfold State.readBytes
  refine ⟨by rw [a]; simp [hr], ?_, _, hm.2, b⟩
  intro i x hx h1 h2
  have := d i (x, s.memByte x) (by rw [hr]; simp [List.getElem?_zip_eq_some, hx]) h1 h2
  simpa using this

end Sys2Proof.Machine
end

