-- ==== Sys2Proof/Laws/Packets.lean ====
section
/-! SUPPORT. The packets of the viaduct: what receiving one leaves, and that one for the module acts. -/

namespace Sys2Proof.Machine
open Sys2Proof

theorem State.incBytes_counters (off n : Nat) (s : State) : ∃ c, s.incBytes off n = { s with counters := c } := by
  unfold State.incBytes; split <;> exact ⟨_, rfl⟩

theorem State.inc_counters (off n : Nat) (s : State) : ∃ c, s.inc off n = { s with counters := c } := by
  unfold State.inc; split <;> exact ⟨_, rfl⟩

theorem State.cameIn_counters (i : Nat) (p : Pkt) (s : State) : ∃ c, s.cameIn i p = { s with counters := c } := by
  unfold State.cameIn
  obtain ⟨c, h⟩ := State.incBytes_counters (viaCtr i 0x04) (pktBytes p) s
  obtain ⟨c2, h2⟩ := State.inc_counters (viaCtr i 0x08) p.fec { s with counters := c }
  exact ⟨c2, by rw [h, h2]⟩

/-- Receiving a packet moves the ports, the counters and the output from those of its time, and nothing else. -/
theorem State.arrived_eq (t : Nat) (p : Pkt) (s : State) : ∃ c v o, s.arrived t p
    = { s.at t with counters := c, out := (s.at t).out ++ [o], via := { s.via with ports := v } } := by
  unfold State.arrived
  obtain ⟨c, hb⟩ := State.cameIn_counters p.port.val p (s.at t)
  rw [hb]
  unfold State.sendLctl
  dsimp only
  obtain ⟨c2, hb2⟩ := State.incBytes_counters (viaCtr p.port.val 0x00) 20
    (State.modCefin p.port.val (fun x => { x with rxSeq := (x.rxSeq + 1) % 4096, asked := false }) { s.at t with counters := c })
  rw [hb2]
  exact ⟨_, _, _, rfl⟩

/-- A packet that its module processes acts. -/
theorem State.onPacket_arrives {t : Nat} {type : BitVec 8} {p : Pkt} {s : State} (act : State → State) (h : Arrives p s) :
    s.onPacket t type p act = .next (act (s.arrived t p)) := by
  obtain ⟨h1, h2, h3, h4, h5, h6, h7⟩ := h
  unfold State.onPacket State.received
  have hc : (s.at t).cefin p.port.val = s.cefin p.port.val := rfl
  simp only [hc, h1, h2, Bool.not_true, Bool.false_eq_true, if_false, ne_eq, not_true]
  rw [← h2]
  show Host.Outcome.next (State.viaduct type p act (s.arrived t p)) = _
  obtain ⟨c, v, o, e⟩ := State.arrived_eq t p s
  rw [e]
  unfold State.viaduct
  have q : ∀ x : State, x.regs = s.regs → x.via.held = s.via.held → x.lockPort p.port.val = false ∧ x.assigned = true
      ∧ x.ownNumber p.dst.toNat = true := by
    intro x hr hh
    have w : ∀ o, x.regw o = s.regw o := by intro o; unfold State.regw; rw [hr]
    refine ⟨?_, ?_, ?_⟩
    · rw [← h3]; unfold State.lockPort State.regb State.regf State.reg; simp only [w]
    · rw [← h4]; unfold State.assigned State.regb; simp only [w]
    · rw [← h7]; unfold State.ownNumber State.chip State.regf State.reg; simp only [w, hh]
  obtain ⟨q1, q2, q3⟩ := q { s.at t with counters := c, out := (s.at t).out ++ [o], via := { s.via with ports := v } } rfl rfl
  rw [q1, q2, q3]
  simp [h5, h6]

/-- State `b` comes after `a` by sending: only the counters, the output and the ports differ. -/
def SendsOnly (a b : State) : Prop := ∃ c v o, b = { a with counters := c, out := o, via := { a.via with ports := v } }

theorem SendsOnly.refl (a : State) : SendsOnly a a := ⟨_, _, _, rfl⟩

theorem SendsOnly.trans {a b c : State} (h : SendsOnly a b) (h2 : SendsOnly b c) : SendsOnly a c := by
  obtain ⟨c1, v1, o1, rfl⟩ := h
  obtain ⟨c2, v2, o2, rfl⟩ := h2
  exact ⟨_, _, _, rfl⟩

theorem SendsOnly.inc (o n : Nat) (s : State) : SendsOnly s (s.inc o n) := by
  unfold State.inc; split <;> exact ⟨_, _, _, rfl⟩

theorem SendsOnly.incBytes (o n : Nat) (s : State) : SendsOnly s (s.incBytes o n) := by
  unfold State.incBytes; split <;> exact ⟨_, _, _, rfl⟩

theorem SendsOnly.modCefin (p : Nat) (f : CefinPort → CefinPort) (s : State) : SendsOnly s (s.modCefin p f) := ⟨_, _, _, rfl⟩

theorem SendsOnly.emit (o : Out) (s : State) : SendsOnly s (s.emit o) := ⟨_, _, _, rfl⟩

theorem SendsOnly.txNow (p : Nat) (q : SentPkt) (s : State) : SendsOnly s (s.txNow p q) := by
  unfold State.txNow
  exact ((SendsOnly.modCefin _ _ _).trans (SendsOnly.incBytes _ _ _)).trans (SendsOnly.emit _ _)

theorem SendsOnly.drain (p : Nat) : ∀ (l : List SentPkt) (s : State), SendsOnly s (s.drainPort p l)
  | [], s => SendsOnly.refl s
  | q :: r, s => by
    unfold State.drainPort; split
    · exact (SendsOnly.txNow _ _ _).trans (SendsOnly.drain p r _)
    · exact (SendsOnly.modCefin _ _ _).trans (SendsOnly.drain p r _)

theorem SendsOnly.sendOn (p half : Nat) (ty : BitVec 8) (k : Pkt) (s : State) : SendsOnly s (s.sendOn p half ty k) := by
  unfold State.sendOn; split
  · exact SendsOnly.drain _ _ _
  · exact SendsOnly.refl s

theorem SendsOnly.sendTo (ty vc d a : Nat) (pl : List (BitVec 256)) (s : State) : SendsOnly s (s.sendTo ty vc d a pl) := by
  unfold State.sendTo; split
  · exact SendsOnly.inc _ _ _
  · exact SendsOnly.sendOn _ _ _ _ _

theorem SendsOnly.fold {α : Type} (f : State → α → State) (h : ∀ s a, SendsOnly s (f s a)) : ∀ (l : List α) (s : State), SendsOnly s (l.foldl f s)
  | [], s => SendsOnly.refl s
  | a :: r, s => (h s a).trans (SendsOnly.fold f h r _)

theorem SendsOnly.flood (ty : BitVec 8) (b : Option Nat) (p : Pkt) (s : State) : SendsOnly s (s.flood ty b p) := by
  unfold State.flood
  refine SendsOnly.fold _ ?_ _ _
  intro s q
  split
  · exact SendsOnly.sendOn _ _ _ _ _
  · exact SendsOnly.refl s

/-- A packet in sequence acts in the state that receiving it leaves. -/
theorem State.received_inSequence (t : Nat) (p : Pkt) (act : State → State) (s : State) (h : (s.cefin p.port.val).up = true)
    (h2 : p.lseq.toNat = (s.cefin p.port.val).rxSeq) : s.received t p act = act (s.arrived t p) := by
  unfold State.received
  have hc : (s.at t).cefin p.port.val = s.cefin p.port.val := rfl
  simp only [hc, h, h2, Bool.not_true, Bool.false_eq_true, if_false, ne_eq, not_true]
  rw [← h2]
  rfl

end Sys2Proof.Machine
end

