-- ==== Sys2Proof/Laws/Regs.lean ====
section
/-! SUPPORT. Reading a register after writing one. -/

namespace Sys2Proof.Machine
open Sys2Proof

/-- A register read depends on the registers alone. -/
theorem State.regw_of_regs {a b : State} (h : a.regs = b.regs) (o : Nat) : a.regw o = b.regw o := by unfold State.regw; rw [h]

theorem State.reg_of_regs {a b : State} (h : a.regs = b.regs) (o : Nat) : a.reg o = b.reg o := by
  unfold State.reg; rw [State.regw_of_regs h]

theorem State.regf_of_regs {a b : State} (h : a.regs = b.regs) (o lo w : Nat) : a.regf o lo w = b.regf o lo w := by
  unfold State.regf; rw [State.reg_of_regs h]

theorem State.regb_of_regs {a b : State} (h : a.regs = b.regs) (o i : Nat) : a.regb o i = b.regb o i := by
  unfold State.regb; rw [State.regw_of_regs h]

/-- The register written reads as written. -/
theorem State.setReg_regw_same (o : Nat) (v : Word) (s : State) : (s.setReg o v).regw o = v := by
  unfold State.setReg State.regw; exact kget_kset_same _ _ _ _

/-- Every other register reads as before. -/
theorem State.setReg_regw_other {o k : Nat} (h : k ≠ o) (v : Word) (s : State) : (s.setReg o v).regw k = s.regw k := by
  unfold State.setReg State.regw kget kset
  dsimp only
  rw [kfind?_kput_other _ h]

/-- A bit written reads as written. -/
theorem State.setRegBit_regb_same (o : Nat) {i : Nat} (hi : i < 32) (b : Bool) (s : State) : (s.setRegBit o i b).regb o i = b := by
  unfold State.setRegBit State.regb
  rw [State.setReg_regw_same]
  have h : (BitVec.ofNat 32 (2 ^ i)).getLsbD i = true := by
    rw [BitVec.getLsbD_ofNat]; simp [hi, Nat.testBit_two_pow_self]
  cases b
  · rw [if_neg (by simp), BitVec.getLsbD_and, BitVec.getLsbD_not, h]; simp
  · rw [if_pos rfl, BitVec.getLsbD_or, h]; simp

/-- Every other bit of it reads as before. -/
theorem State.setRegBit_regb_other (o : Nat) {i j : Nat} (h : j ≠ i) (b : Bool) (s : State) :
    (s.setRegBit o i b).regb o j = s.regb o j := by
  by_cases hj : j < 32
  · unfold State.setRegBit State.regb
    rw [State.setReg_regw_same]
    have hz : (BitVec.ofNat 32 (2 ^ i)).getLsbD j = false := by
      rw [BitVec.getLsbD_ofNat, Nat.testBit_two_pow_of_ne h.symm, Bool.and_false]
    cases b
    · rw [if_neg (by simp), BitVec.getLsbD_and, BitVec.getLsbD_not, hz]; simp [hj]
    · rw [if_pos rfl, BitVec.getLsbD_or, hz]; simp
  · unfold State.regb
    rw [BitVec.getLsbD_of_ge _ _ (by omega), BitVec.getLsbD_of_ge _ _ (by omega)]

end Sys2Proof.Machine
end

