-- ==== Sys2Proof/Laws/Seq.lean ====
section
/-! SUPPORT. What the issue of a span instruction does, once for every instruction. -/

namespace Sys2Proof.Machine
open Sys2Proof

/-- Everything of a span but its trace, its counters and its sequencer. -/
structure SeqKept (a b : Span) : Prop where
  kept : ∃ tr cs, b = { a with trace := tr, counters := cs, seq := b.seq }

theorem SeqKept.refl (a : Span) : SeqKept a a := ⟨⟨a.trace, a.counters, rfl⟩⟩

theorem SeqKept.trans {a b c : Span} (h : SeqKept a b) (k : SeqKept b c) : SeqKept a c := by
  obtain ⟨⟨t, cs, h⟩⟩ := h
  obtain ⟨⟨t2, cs2, k⟩⟩ := k
  refine ⟨⟨t2, cs2, ?_⟩⟩
  rw [k, h]

theorem Span.inc_seq (o n : Nat) (x : Span) : (x.inc o n).seq = x.seq := by unfold Span.inc; split <;> rfl

theorem Span.inc_kept (o n : Nat) (x : Span) : SeqKept x (x.inc o n) := by
  unfold Span.inc; split
  · exact .refl x
  · exact ⟨⟨_, _, rfl⟩⟩

theorem Span.trace_seq (a b c d e : Nat) (l : List Byte) (x : Span) : (Span.trace_ a b c d e l x).seq = x.seq := by
  unfold Span.trace_; dsimp only
  split
  · rfl
  · rw [Span.inc_seq]

theorem Span.trace_kept (a b c d e : Nat) (l : List Byte) (x : Span) : SeqKept x (Span.trace_ a b c d e l x) := by
  unfold Span.trace_; dsimp only
  split
  · exact .refl x
  · exact SeqKept.trans ⟨⟨_, _, rfl⟩⟩ (Span.inc_kept _ _ _)

/-- One span has changed in place, and nothing else. -/
structure OneSpan (p : Nat) (s z : State) : Prop where
  frame : z = { s with spans := z.spans }
  others : ∀ k, k ≠ p → z.span k = s.span k

theorem OneSpan.refl (p : Nat) (s : State) : OneSpan p s s := ⟨rfl, fun _ _ => rfl⟩

theorem OneSpan.trans {p : Nat} {a b c : State} (h : OneSpan p a b) (k : OneSpan p b c) : OneSpan p a c := by
  refine ⟨?_, fun j hj => (k.others j hj).trans (h.others j hj)⟩
  have hk := k.frame
  rw [h.frame] at hk
  rw [hk]

/-- A span that runs a program is not an idle one, so writing it reads back. -/
theorem State.setSpan_same {p : Nat} {x : Span} (h : x.seq.phase ≠ 0) (s : State) : (s.setSpan p x).span p = x :=
  kget_kset_same _ _ _ _

theorem State.setSpan_one {p : Nat} {x : Span} (h : x.seq.phase ≠ 0) (s : State) : OneSpan p s (s.setSpan p x) :=
  ⟨rfl, fun _ hj => kget_kset_other _ _ hj _⟩

/-- The same when the span that is written has issued an instruction. -/
theorem State.setSpan_issued {p k : Nat} {x : Span} (h : x.seq.lastIssue = some k) (s : State) : (s.setSpan p x).span p = x :=
  kget_kset_same _ _ _ _

/-- A step of the issue: span `p` changes in its trace, its counters and its sequencer only. -/
structure SeqStep (p : Nat) (s z : State) : Prop where
  one : OneSpan p s z
  kept : SeqKept (s.span p) (z.span p)

theorem SeqStep.refl (p : Nat) (s : State) : SeqStep p s s := ⟨.refl p s, .refl _⟩

theorem SeqStep.trans {p : Nat} {a b c : State} (h : SeqStep p a b) (k : SeqStep p b c) : SeqStep p a c :=
  ⟨h.one.trans k.one, h.kept.trans k.kept⟩

theorem State.modSpan_step {p : Nat} {s : State} {f : Span → Span} (hk : SeqKept (s.span p) (f (s.span p)))
    (h : (f (s.span p)).seq.phase ≠ 0) : SeqStep p s (s.modSpan p f) :=
  ⟨State.setSpan_one h s, by unfold State.modSpan; rw [State.setSpan_same h]; exact hk⟩

theorem State.modSpan_span {p : Nat} {s : State} {f : Span → Span} (h : (f (s.span p)).seq.phase ≠ 0) :
    (s.modSpan p f).span p = f (s.span p) := State.setSpan_same h s

/-- A trace record of a span that runs a program. -/
theorem State.trace_step {l p : Nat} {s : State} (hp : s.phys? l = some p) (h : (s.span p).seq.phase ≠ 0) (t : Nat)
    (a : List Byte) : SeqStep p s (s.trace l t a) ∧ ((s.trace l t a).span p).seq = (s.span p).seq := by
  unfold State.trace
  simp only [hp]
  have h2 : (Span.trace_ s.timebase s.tickNumber l p t a (s.span p)).seq.phase ≠ 0 := by rw [Span.trace_seq]; exact h
  exact ⟨State.modSpan_step (Span.trace_kept _ _ _ _ _ _ _) h2, by rw [State.modSpan_span h2, Span.trace_seq]⟩

/-- Counting a hold changes the counters and the hold alone. -/
theorem Span.countHold_step (now : Nat) (x : Span) :
    SeqKept x (x.countHold now) ∧ ∃ h, (x.countHold now).seq = { x.seq with hold := h } := by
  unfold Span.countHold
  split
  · exact ⟨.refl x, x.seq.hold, rfl⟩
  · rename_i h e
    dsimp only
    split
    · exact ⟨⟨⟨_, _, rfl⟩⟩, some { h with counted := max h.counted now }, rfl⟩
    · refine ⟨SeqKept.trans (Span.inc_kept h.counter (now - h.counted) x) ⟨⟨_, _, rfl⟩⟩,
        some { h with counted := max h.counted now }, ?_⟩
      simp only [Span.inc_seq]

theorem State.holdEnded_step {l p : Nat} {s : State} (hp : s.phys? l = some p) (h : (s.span p).seq.phase ≠ 0)
    (kind : HoldKind) (c n : Nat) :
    SeqStep p s (s.holdEnded l kind c n) ∧ ((s.holdEnded l kind c n).span p).seq = (s.span p).seq := by
  unfold State.holdEnded
  split
  · exact State.trace_step hp h _ _
  · exact ⟨.refl p s, rfl⟩

theorem State.endHold_step {l p : Nat} {s : State} (hp : s.phys? l = some p) (h : (s.span p).seq.phase ≠ 0) (cyc : Nat) :
    SeqStep p s (s.endHold l p cyc) ∧ ((s.endHold l p cyc).span p).seq = { (s.span p).seq with hold := none } := by
  unfold State.endHold
  split
  · rename_i hh
    exact ⟨.refl p s, by rw [← hh]⟩
  · rename_i y hh
    obtain ⟨hk, z, hz⟩ := Span.countHold_step cyc (s.span p)
    have h2 : ((fun (x : Span) => let x := x.countHold cyc; { x with seq := { x.seq with hold := none } }) (s.span p)).seq.phase ≠ 0 := by
      show ((s.span p).countHold cyc).seq.phase ≠ 0
      rw [hz]; exact h
    have k1 : SeqStep p s (s.modSpan p (fun x => let x := x.countHold cyc; { x with seq := { x.seq with hold := none } })) :=
      State.modSpan_step (hk.trans ⟨⟨_, _, rfl⟩⟩) h2
    have q1 := State.modSpan_span (f := fun x => let x := x.countHold cyc; { x with seq := { x.seq with hold := none } }) h2
    have q2 : ((s.modSpan p (fun x => let x := x.countHold cyc; { x with seq := { x.seq with hold := none } })).span p).seq
        = { (s.span p).seq with hold := none } := by
      rw [q1]
      show { ((s.span p).countHold cyc).seq with hold := none } = _
      rw [hz]
    revert k1 q2
    generalize s.modSpan p (fun x => let x := x.countHold cyc; { x with seq := { x.seq with hold := none } }) = w
    intro k1 q2
    have hp2 : w.phys? l = some p := by rw [k1.one.frame]; exact hp
    have k := State.holdEnded_step hp2 (by rw [q2]; exact h) y.kind y.ctr (cyc - y.since)
    exact ⟨k1.trans k.1, k.2.trans q2⟩

theorem Sequencer.lateTo_eq (late : Nat) (k : DebitClass) (q : Sequencer) :
    ∃ cl, q.lateTo late k = { q with late := (late : Int), classes := cl } := ⟨_, rfl⟩

/-- What the issue does before the instruction acts, and after it. -/
theorem State.issueNow_issued {s : State} {i : Issue} {p : Nat} (hp : s.phys? i.l.val = some p) (h : (s.span p).seq.phase ≠ 0)
    (ix : Ix) (w : WaitGroup) (act : Ctx → State → State) :
    ∃ z, Issued s i w p z
      ∧ s.issueNow i (s.ctxOf i p ix) w act = (act (s.ctxOf i p ix) z).pastEnd (s.ctxOf i p ix) := by
  unfold State.issueNow
  dsimp only
  have hc : (s.ctxOf i p ix).p = p ∧ (s.ctxOf i p ix).l = i.l.val ∧ (s.ctxOf i p ix).cyc = i.cyc := ⟨rfl, rfl, rfl⟩
  rw [hc.1, hc.2.1, hc.2.2]
  -- the hold by a stamp
  have k1 : ∃ s1, (if (s.span p).seq.hold.isNone ∧ s.planned (s.span p).seq i.stamp.toNat - (s.span p).seq.since > 0 then
        s.holdEnded i.l.val .stamp 0 (s.planned (s.span p).seq i.stamp.toNat - (s.span p).seq.since) else s) = s1
      ∧ SeqStep p s s1 ∧ (s1.span p).seq = (s.span p).seq := by
    split
    · exact ⟨_, rfl, State.holdEnded_step hp h _ _ _⟩
    · exact ⟨_, rfl, .refl p s, rfl⟩
  obtain ⟨s1, e1, k1, q1⟩ := k1
  rw [e1]
  have hp1 : s1.phys? i.l.val = some p := by rw [k1.one.frame]; exact hp
  have h1 : (s1.span p).seq.phase ≠ 0 := by rw [q1]; exact h
  have k2 := State.endHold_step hp1 h1 i.cyc
  generalize s1.endHold i.l.val p i.cyc = s2 at k2 ⊢
  obtain ⟨k2, q2⟩ := k2
  generalize hcls : (if (s.span p).seq.loops.any (fun f => f.dyn && decide (f.index ≥ f.nPlan)) then DebitClass.route
    else ((s.span p).seq.hold.map (·.cls)).getD .other) = cls
  have hq : (s2.span p).seq = { (s.span p).seq with hold := none } := by rw [q2, q1]
  obtain ⟨cl, hcl⟩ := Sequencer.lateTo_eq (i.cyc - s.planned (s.span p).seq i.stamp.toNat) cls
    { (s.span p).seq with hold := none }
  unfold State.modSpan
  dsimp only
  have k12 := k1.trans k2
  refine ⟨_, ?_, rfl⟩
  generalize hX : Span.inc 0x344 _ _ = X
  have hXs : X.seq = { (s.span p).seq with
      pc := (s.span p).seq.pc + 1, lastIssue := some i.cyc, since := i.cyc + 1, waitFrom := none, remoteSince := none,
      lastPhaseJoint := false, hold := none, classes := cl,
      late := ((i.cyc - s.planned (s.span p).seq i.stamp.toNat : Nat) : Int),
      ctrOps := (s.span p).seq.ctrOps ++ (if w.en && w.cons then
        [{ cyc := i.cyc, ctr := w.ctr.toNat, what := .sub, n := w.val.toNat }] else []) } := by
    rw [← hX, Span.inc_seq, Span.inc_seq]
    simp only [hq, hcl, Sequencer.change]
    split
    · rfl
    · rw [List.append_nil]
  have hXk : SeqKept (s2.span p) X := by
    rw [← hX]
    exact SeqKept.trans (SeqKept.trans ⟨⟨_, _, rfl⟩⟩ (Span.inc_kept _ _ _)) (Span.inc_kept _ _ _)
  have hph : X.seq.phase ≠ 0 := by rw [hXs]; exact h
  have hf := k12.one.trans (State.setSpan_one hph s2)
  refine ⟨hf.frame, hf.others, ?_⟩
  obtain ⟨tr, cs, hh⟩ := (k12.kept.trans hXk).kept
  refine ⟨tr, cs, cl, ?_⟩
  rw [State.setSpan_same hph, hh, hXs]

/-- THE ISSUE: an instruction that can issue in the state settled up to its cycle, and that nothing more holds, acts on the issued
state. -/
theorem State.present_issues {s0 s : State} {i : Issue} {op : Issue → Instr} {u : SpanUnit} {w : WaitGroup} {p : Nat} {ix : Ix}
    (hs : s = s0.toCyc i.cyc) (h : Issuable s i (op { i with l := 0, cyc := 0 }) u w p ix) {more : Ctx → State → Option Why}
    (hm : more (s.ctxOf i p ix) s = none) (act : Ctx → State → State) :
    ∃ z, Issued s i w p z ∧ s0.present i op u w more act = .next ((act (s.ctxOf i p ix) z).pastEnd (s.ctxOf i p ix)) := by
  have hpr := h.presented
  have hph : s.phys? i.l.val = some p ∧ (s.span p).seq.phase ≠ 0 := by
    unfold State.presented at hpr
    split at hpr
    · cases hpr
    · split at hpr
      · cases hpr
      · rename_i q hq
        dsimp only at hpr
        split at hpr
        · rename_i hh
          cases hpr
          exact ⟨hq, hh.1⟩
        · cases hpr
  obtain ⟨z, hz, he⟩ := State.issueNow_issued hph.1 hph.2 ix w act
  refine ⟨z, hz, ?_⟩
  unfold State.present
  rw [← hs]
  simp only [hpr]
  have hctx : ({ l := i.l.val, p := p, pc := (s.span p).seq.pc, cyc := i.cyc, ix := ix } : Ctx) = s.ctxOf i p ix := rfl
  simp only [h.indexed, Option.getD_some, hctx, h.unitFree, h.counted, hm]
  cases hl : (s.span p).seq.lastIssue with
  | none => simp [Nat.not_lt.mpr h.inTime, firstHold, he]
  | some k => simp [Nat.not_lt.mpr h.inTime, h.inOrder k hl, firstHold, he]

theorem State.pastEnd_of_pc {c : Ctx} {s : State} (h : (s.span c.p).seq.pc ≤ 4095) : s.pastEnd c = s := by
  unfold State.pastEnd
  rw [if_neg]
  intro hh
  exact absurd hh.2.1 (Nat.not_lt.mpr h)

/-- The issued span has issued. -/
theorem Issued.lastIssue {s : State} {i : Issue} {w : WaitGroup} {p : Nat} {z : State} (h : Issued s i w p z) :
    (z.span p).seq.lastIssue = some i.cyc := by
  obtain ⟨tr, cs, cl, hh⟩ := h.issued
  rw [hh]

theorem Issued.pc {s : State} {i : Issue} {w : WaitGroup} {p : Nat} {z : State} (h : Issued s i w p z) :
    (z.span p).seq.pc = (s.span p).seq.pc + 1 := by
  obtain ⟨tr, cs, cl, hh⟩ := h.issued
  rw [hh]

/-- Writing an issued span leaves its PC where the written span has it. -/
theorem State.setSpan_pastEnd {c : Ctx} {x : Span} {k : Nat} (h : x.seq.lastIssue = some k) (hp : x.seq.pc ≤ 4095) (s : State) :
    (s.setSpan c.p x).pastEnd c = s.setSpan c.p x :=
  State.pastEnd_of_pc (by rw [State.setSpan_issued h]; exact hp)

/-- Of two writes of one span the second stands. -/
theorem State.setSpan_twice {p : Nat} {x y : Span} (hx' : x ≠ Span.idle) (hy' : y ≠ Span.idle) (s : State) :
    (s.setSpan p x).setSpan p y = s.setSpan p y := by
  have : kset Span.idle (kset Span.idle s.spans p x) p y = kset Span.idle s.spans p y := by
    unfold kset
    simp only [hx', hy', if_false]
    generalize s.spans = m
    induction m with
    | nil => simp [kput]
    | cons e r ih =>
      obtain ⟨k', v'⟩ := e
      simp only [kput]
      by_cases h : p < k'
      · simp [h, kput]
      · by_cases h2 : p = k'
        · simp [h2, kput]
        · simp [h, h2, kput, ih]
  unfold State.setSpan
  dsimp only
  rw [this]

theorem State.setSpan_setSpan {p k j : Nat} {x y : Span} (hx : x.seq.lastIssue = some k) (hy : y.seq.lastIssue = some j)
    (s : State) : (s.setSpan p x).setSpan p y = s.setSpan p y :=
  State.setSpan_twice (fun e => by rw [e] at hx; cases hx) (fun e => by rw [e] at hy; cases hy) s

/-- A change of the sequencer of an issued span. -/
theorem State.modSeq_pastEnd {s z : State} {i : Issue} {w : WaitGroup} {p : Nat} {ix : Ix} (h : Issued s i w p z)
    (f : Sequencer → Sequencer) (hl : (f (z.span p).seq).lastIssue = (z.span p).seq.lastIssue)
    (hpc : (f (z.span p).seq).pc ≤ 4095) :
    (z.modSeq (s.ctxOf i p ix) f).pastEnd (s.ctxOf i p ix) = z.setSpan p { z.span p with seq := f (z.span p).seq } :=
  State.setSpan_pastEnd (c := s.ctxOf i p ix) (k := i.cyc) (hl.trans h.lastIssue) hpc z

end Sys2Proof.Machine
end

