-- ==== Sys2Proof/Laws/Tollgate.lean ====
section
/-! SUPPORT. The tollgate's shared operations: logs, credits, and the checks of a command record. -/

namespace Sys2Proof.Machine
open Sys2Proof

/-- A log that is set is there. -/
theorem State.setLog_log (s : State) (p q : Nat) (g : EventLog) : (s.setLog p q g).log? p q = some g :=
  kfind?_kins_same _ _ _

/-- Credits raise FREE, up to the ring's size. -/
theorem State.credits_log {s : State} {p q n : Nat} {g : EventLog} (h : s.log? p q = some g) :
    (s.credits p q n).log? p q = some { g with free := min (g.free + n) (2 ^ g.log2) } := by
  unfold State.credits; rw [h]; exact State.setLog_log _ _ _ _

/-- A record of a partition with a log that fails no check of steps 3 to 8: its SEQ is taken and its reservation made. -/
theorem State.checks_ok {s : State} {r : CmdRec} {k : CmdKind} {refs : State → Nat → Option Nat} {part : Nat} {g : EventLog}
    (h1 : k.known = true) (h2 : k.isLog = false) (h3 : handlePort r.handle.toNat = r.port.val)
    (h4 : handleLane r.handle.toNat = r.lane.toNat) (h5 : handleSeq r.handle.toNat = s.laneSeq r.port.val r.lane.toNat)
    (h6 : kfind? s.handles r.handle.toNat = none)
    (h7 : r.fn = .pf ∨ ∀ b, k.right = some b → s.regb (tollPart part) b = true)
    (h8 : k.pairDenied = true → s.regb 0x090050 31 = false) (h9 : r.rsvd = 0) (h10 : ∀ x, refs x part = none)
    (h11 : s.regf (tollPart part) 0 17 = 0 ∨ s.handlesOf part < s.regf (tollPart part) 0 17)
    (h12 : s.handles.length < 131072) (h13 : k.isRequest = true → s.requests.length < 262144)
    (h14 : s.log? r.port.val part = some g) (h15 : g.reserved + k.reserves ≤ g.free) :
    s.checks r k true refs part = .ok part ({ s with
        lanes := kset 0 s.lanes (8192 * r.port.val + r.lane.toNat) ((handleSeq r.handle.toNat + 1) % 2 ^ 17)
      }.setLog r.port.val part { g with reserved := g.reserved + k.reserves }) := by
  have hr : ((match k.right with
      | none => true
      | some b => decide (r.fn = Fn.pf) || s.regb (tollPart part) b) && !(k.pairDenied && s.regb 0x090050 31)) = true := by
    rcases h7 with h7 | h7
    · rw [h7]; cases hk : k.pairDenied <;> simp_all <;> split <;> rfl
    · cases hk : k.right <;> cases hp : k.pairDenied <;> simp_all
  unfold State.checks
  simp only [h1, h3, h4, ← h5, Bool.not_true, Bool.false_eq_true, if_false, ne_eq, not_true_eq_false, or_self]
  generalize hy : ({ s with
      lanes := kset 0 s.lanes (8192 * r.port.val + r.lane.toNat) ((handleSeq r.handle.toNat + 1) % 2 ^ 17) } : State) = y
  have e1 : y.handles = s.handles := by rw [← hy]
  have e2 : y.requests = s.requests := by rw [← hy]
  have e3 : ∀ a b, y.regb a b = s.regb a b := by rw [← hy]; intros; rfl
  have e4 : ∀ a b c, y.regf a b c = s.regf a b c := by rw [← hy]; intros; rfl
  have e5 : ∀ a b, y.log? a b = s.log? a b := by rw [← hy]; intros; rfl
  have e6 : ∀ a, y.handlesOf a = s.handlesOf a := by rw [← hy]; intros; rfl
  have q : ¬ (s.regf (tollPart part) 0 17 ≠ 0 ∧ s.handlesOf part ≥ s.regf (tollPart part) 0 17) := by omega
  have q2 : ¬ (s.handles.length ≥ 131072 ∨ (k.isRequest = true ∧ s.requests.length ≥ 262144)) := by
    rintro (a | ⟨a, b⟩)
    · omega
    · have := h13 a; omega
  simp only [e1, e2, e3, e4, e5, e6, h6, Option.isSome_none, Bool.false_eq_true, if_false, Bool.not_true, h9, h10, h2, h14,
    if_pos h15, Bool.false_or, decide_false, if_neg q, if_neg q2, ne_eq, not_true_eq_false]
  refine if_neg ?_
  intro hc; simp only [Bool.not_eq_true'] at hc; exact absurd (hr.symm.trans hc) (by decide)

/-- The gate of an open port for a page that the function may write: the log, the credits, then the checks. -/
theorem State.gate_open {s : State} {r : CmdRec} {k : CmdKind} {b : Bool} {refs : State → Nat → Option Nat} {part : Nat}
    (h : s.portOpen r.port.val = true) (h0 : s.withholds r.port.val = false) (h2 : s.pagePart? r.port.val r.fn (r.lane.toNat / 64) = some part) :
    s.gate r k b refs = (let y := ((s.portRx r.port.val 64).inc (tollCtr r.port.val 0x00) 1).winAdd part 12 1
      if (s.log? r.port.val part).isNone ∧ k.isLog = false then .out (y.inc (tollCtr r.port.val 0x0C) 1)
      else (y.credits r.port.val part r.credits.toNat).checks r k b refs part) := by
  have hp : (s.portRx r.port.val 64).pagePart? r.port.val r.fn (r.lane.toNat / 64) = some part := by
    rw [← h2]; unfold State.pagePart? State.vfPart? State.partEnabled State.regf State.regb State.reg State.regw; simp
  unfold State.gate
  simp only [h, h0, hp, Bool.not_true, Bool.or_false, Bool.false_eq_true, if_false]
  have hl : ∀ p q, State.log? (((s.portRx r.port.val 64).inc (tollCtr r.port.val 0x00) 1).winAdd part 12 1) p q = s.log? p q := by
    intro p q; unfold State.log?; simp
  simp only [hl]

end Sys2Proof.Machine
end

