-- ==== Sys2Proof/Certificates/Slice0/Obligations.lean ====
section
/-! DEFINITION. The statements for the provers, in the order of the manual's chapters. -/

open Sys2Proof Sys2Proof.Machine

/-! ### Steps (the block's queue) -/

/-- A block: step carries out the command at the front of the queue on the state with the queue's rest, and an
empty queue idles. -/
def Obligations.StepCarriesOutFrontCommand : Prop :=
  (∀ (s : State) (c : Instr) (rest : List Instr), s.pending = c :: rest → step s = exec c { s with pending := rest })
  ∧ ∀ s : State, s.pending = [] → step s = .next s

/-- The queue is no command's to change: every command, on every state, answers a next state that leaves the waiting commands
as they stand. -/
def Obligations.EveryCommandAnswersAndKeepsQueue : Prop :=
  ∀ (c : Instr) (s : State), ∃ u, exec c s = .next u ∧ u.pending = s.pending

/-! ### Command records (chapter 12) -/

/-- R387 to R389, R397: a record that passes every check of R389 on an open port advances SEQ by one modulo 2^17, returns its
CREDITS to the log up to the ring's size, and takes its reservation out of FREE − RESERVED. Of the state only counters, the
partition's window, its log and the lane change. -/
def Obligations.RecordThatPassesTakesReservation : Prop :=
  ∀ (s : State) (r : CmdRec) (k : CmdKind) (refs : State → Nat → Option Nat) (part : Nat) (g : EventLog),
    Passes s r k refs part g → ∃ u, s.gate r k true refs = .ok part u ∧ Reserved s r k part g u

/-- R387, R389: the checks of a record stand in order. With the steps before it passed, an opcode outside the table is
BAD_OPCODE; a handle of another port or lane BAD_HANDLE; a wrong SEQ BAD_SEQ with the expected value, and none of these three
moves the lane's SEQ. A page that is not the function's, and a partition without a log, leave the lanes alone too.
R385: while the port withholds credit no record comes in: the record is not lost, it has not been taken (log entry 66). -/
def Obligations.RecordChecksInOrder : Prop :=
  ∀ (s : State) (r : CmdRec) (k : CmdKind) (fieldsOk : Bool) (refs : State → Nat → Option Nat), s.portOpen r.port.val = true →
    (s.withholds r.port.val = true → s.gate r k fieldsOk refs = .out s) ∧ (s.withholds r.port.val = false →
    (s.pagePart? r.port.val r.fn (r.lane.toNat / 64) = none → ∃ u, s.gate r k fieldsOk refs = .out u ∧ u.lanes = s.lanes
      ∧ u.counters = (s.portRx r.port.val 64 |>.inc (tollCtr r.port.val 0x18) 1).counters)
    ∧ ∀ part, s.pagePart? r.port.val r.fn (r.lane.toNat / 64) = some part →
      (s.log? r.port.val part = none → k.isLog = false → ∃ u, s.gate r k fieldsOk refs = .out u ∧ u.lanes = s.lanes
        ∧ u.logs = s.logs ∧ u.out = s.out)
      ∧ ∀ g, s.log? r.port.val part = some g →
        let y := (((s.portRx r.port.val 64).inc (tollCtr r.port.val 0) 1).winAdd part 12 1).credits r.port.val part r.credits.toNat
        let rej (code arg1 : Nat) : State := y.reject r.port.val part code arg1 r.handle.toNat s.timebase
        (k.known = false → s.gate r k fieldsOk refs = .out (rej 0x01 0) ∧ (rej 0x01 0).lanes = s.lanes)
        ∧ (k.known = true → handlePort r.handle.toNat ≠ r.port.val ∨ handleLane r.handle.toNat ≠ r.lane.toNat →
            s.gate r k fieldsOk refs = .out (rej 0x02 0) ∧ (rej 0x02 0).lanes = s.lanes)
        ∧ (k.known = true → handlePort r.handle.toNat = r.port.val → handleLane r.handle.toNat = r.lane.toNat →
            handleSeq r.handle.toNat ≠ s.laneSeq r.port.val r.lane.toNat →
            s.gate r k fieldsOk refs = .out (rej 0x03 (s.laneSeq r.port.val r.lane.toNat))
              ∧ (rej 0x03 (s.laneSeq r.port.val r.lane.toNat)).lanes = s.lanes))

/-- R404, R399: with FREE − RESERVED at least 1 a rejection is written: a REJECTED record with the log's lost count in ARG0, and
the count returns to 0; it goes out at once, or while a publish is in progress after what the publish has still to send. With less
it is not written, and the lost count rises. -/
def Obligations.RejectionWrittenOrCounted : Prop :=
  ∀ (s : State) (port part code arg1 handle stamp : Nat) (g : EventLog), s.log? port part = some g →
    let u := s.reject port part code arg1 handle stamp
    let o : Out := .dma port (g.addr + 32 * (g.written % 2 ^ g.log2))
      (eventBytes { type := 2, status := code, handle := handle, arg0 := g.lost, arg1 := arg1, arg2 := stamp }
        (if g.written / 2 ^ g.log2 % 2 = 0 then 0x80 else 0) (s.port port).mark.toNat)
    (g.reserved + 1 ≤ g.free → ∃ w, u.log? port part
        = some { g with lost := 0, written := g.written + 1, free := g.free - 1, window := w }
      ∧ (s.portOpen port = true → s.pub = none → u.out = s.out ++ [o] ∧ u.pub = none)
      ∧ (s.portOpen port = true → ∀ x, s.pub = some x → u.out = s.out
          ∧ u.pub = some { x with items := x.items ++ [{ part := some part, out := o }] }))
    ∧ (g.free < g.reserved + 1 → u.log? port part = some { g with lost := g.lost + 1 } ∧ u.out = s.out ∧ u.pub = s.pub)
    ∧ u.lanes = s.lanes ∧ u.mem = s.mem

/-- R391, R395: SUBMIT and HANDIN that pass the checks of R389 and keep the ranges of their fields complete: they put their handle
in flight with a reservation of two records, name it to later records, and make one request-table entry: FETCHING with the fields of
Table 12.4, or WAIT_HANDIN until WAIT_MS has passed. -/
def Obligations.SubmitAndHandinMakeEntry : Prop :=
  (∀ (t : Nat) (r : CmdRec) (s : State) (part : Nat) (g : EventLog),
    let k : CmdKind := { known := true, right := none, reserves := 2, isLog := false, isRequest := true }
    let variant := rfld r 36 2
    let mode := rfld r 39 1
    let page := bitsAt mode 2 4
    let prompt := rfld r 40 4
    Passes (s.at t) r k noRefs part g →
    rfld r 8 8 % 4 = 0 → rfld r 16 8 % 16 = 0 → rfld r 24 8 % 64 = 0 → (variant < 16384 ∨ variant = 0xFFFF) → rfld r 38 1 < 8 →
    mode < 128 → (page = 0 ∨ (4 ≤ page ∧ page ≤ 10)) → 1 ≤ prompt → prompt < 2 ^ 20 → 1 ≤ rfld r 44 4 → rfld r 44 4 ≤ 2 ^ 20 →
    rfld r 52 4 ≤ prompt → rfld r 56 8 = 0 → (rfld r 24 8 = 0 → mode.testBit 6 = false) →
    ∃ x q, Reserved (s.at t) r k part g x ∧ q.state = .fetching ∧ q.port = r.port.val ∧ q.partition = part
      ∧ q.modelId = rfld r 32 4 ∧ q.variant = (if variant = 0xFFFF then none else some variant) ∧ q.promptLen = prompt
      ∧ q.maxTokens = rfld r 44 4 ∧ q.shareLen = rfld r 52 4 ∧ q.priority = rfld r 38 1 ∧ q.dlPolicy = bitsAt mode 0 2
      ∧ q.pageLog2 = (if page ≠ 0 then page else if prompt + rfld r 44 4 ≤ 2048 then 6 else 8)
      ∧ q.seedGiven = mode.testBit 6 ∧ q.hasExt = decide (rfld r 24 8 ≠ 0) ∧ q.streamAddr = rfld r 16 8 ∧ q.stamp = x.timebase
      ∧ q.committed = 0 ∧ q.generated = 0 ∧ q.ptRows = 0 ∧ q.pending = none ∧ q.ending = none ∧ q.ho = none ∧ q.handin = false
      ∧ q.checked = false ∧ q.inBatch = false ∧ q.quality = Quality.zero ∧ q.seen = (0, 0)
      ∧ q.deadline = (if rfld r 48 4 = 0 ∨ x.regb 0x090050 31 = true then none else some (x.timebase + 1000 * rfld r 48 4))
      ∧ exec (.submit t r) s = .next { x with
          handles := kins x.handles r.handle.toNat { partition := part, port := r.port.val, kind := .request, reserve := 2,
                                                     stamp := x.timebase, gone := 0 },
          requests := kins x.requests r.handle.toNat q, named := kins x.named r.handle.toNat part })
  ∧ ∀ (t : Nat) (r : CmdRec) (s : State) (part : Nat) (g : EventLog),
    let k : CmdKind := { known := true, right := some 28, reserves := 2, isLog := false, isRequest := true, pairDenied := true }
    Passes (s.at t) r k noRefs part g →
    rfld r 16 8 % 16 = 0 → 1 ≤ rfld r 24 4 → rfld r 24 4 ≤ 60000 → 1 ≤ rfld r 28 4 → rfld r 28 4 ≤ 2 ^ 20 → rfld r 32 32 = 0 →
    ∃ x q, Reserved (s.at t) r k part g x ∧ q.state = .waitHandin ∧ q.port = r.port.val ∧ q.partition = part ∧ q.handin = true
      ∧ q.streamAddr = rfld r 16 8 ∧ q.streamLen = rfld r 28 4 ∧ q.ticket = BitVec.ofNat 64 (rfld r 8 8)
      ∧ q.waitEnd = x.time + 1000000 * rfld r 24 4 ∧ q.stamp = x.timebase ∧ q.committed = 0 ∧ q.ptRows = 0 ∧ q.pending = none
      ∧ q.ending = none ∧ q.ho = none ∧ q.deadline = none ∧ q.inBatch = false
      ∧ exec (.handin t r) s = .next { x with
          handles := kins x.handles r.handle.toNat { partition := part, port := r.port.val, kind := .request, reserve := 2,
                                                     stamp := x.timebase, gone := 0 },
          requests := kins x.requests r.handle.toNat q, named := kins x.named r.handle.toNat part }

/-- CREDIT and QUERY: a CREDIT that passes leaves what its checks left (its CREDITS have been applied); a QUERY is answered at
once with the target's state, committed length and generated tokens as of the last keystone, or GONE. CANCEL and HANDOVER that
pass wait for the next cut in the order of acceptance, a CANCEL only while a SERVE job runs ticks; otherwise it acts at once: of a
request that has gone it answers that there was none, of another it ends the request with 0x06 and answers DONE. -/
def Obligations.CreditQueryCancelHandoverComplete : Prop :=
  (∀ (t : Nat) (r : CmdRec) (s x : State) (part : Nat),
    (s.at t).gate r { known := true, right := none, reserves := 0, isLog := false, isRequest := false } (rzeros r [(8, 56)])
      noRefs = .ok part x → exec (.credit t r) s = .next x)
  ∧ (∀ (t : Nat) (r : CmdRec) (s x : State) (part : Nat),
    (s.at t).gate r { known := true, right := none, reserves := 1, isLog := false, isRequest := false } (rzeros r [(12, 52)])
      (badTarget (rfld r 8 4)) = .ok part x →
    (∀ q, kfind? x.requests (rfld r 8 4) = some q → exec (.query t r) s
      = .next ((x.holdHandle r part .query 1).answerNow r.handle.toNat 0 q.seenState q.seen.1 q.seen.2))
    ∧ (kfind? x.requests (rfld r 8 4) = none → exec (.query t r) s
      = .next ((x.holdHandle r part .query 1).answerNow r.handle.toNat 0 0 0 0)))
  ∧ (∀ (t : Nat) (r : CmdRec) (s x : State) (part : Nat),
    (s.at t).gate r { known := true, right := none, reserves := 1, isLog := false, isRequest := false, pairDenied := true }
      (rzeros r [(12, 52)]) (badTarget (rfld r 8 4)) = .ok part x →
    let y := x.holdHandle r part (.cancel (rfld r 8 4)) 1
    (x.ticking = true → let w : Waiting := { stamp := x.timebase, handle := r.handle.toNat, cmd := .cancel (rfld r 8 4) }
      exec (.cancel t r) s = .next { y with
        waiting := x.waiting.filter (·.before w) ++ w :: x.waiting.filter (fun v => !v.before w) })
    ∧ (x.ticking = false → kfind? x.requests (rfld r 8 4) = none →
      exec (.cancel t r) s = .next (y.answerNow r.handle.toNat 1 0 0 0))
    ∧ (x.ticking = false → ∀ q, kfind? x.requests (rfld r 8 4) = some q → q.ending = none → q.ho = none →
        (∀ v ∈ x.via.hoIn, v.handle ≠ rfld r 8 4) →
      exec (.cancel t r) s = .next ((y.completeNow (rfld r 8 4) 0x06 r.handle.toNat).answerKey r.handle.toNat 0 0)))
  ∧ ∀ (t : Nat) (r : CmdRec) (s x : State) (part : Nat),
    (s.at t).gate r { known := true, right := some 28, reserves := 1, isLog := false, isRequest := false, pairDenied := true }
      (rzeros r [(14, 2), (24, 40)] && decide (rfld r 12 2 < 2 ^ 14)) (badTarget (rfld r 8 4)) = .ok part x →
    let w : Waiting := { stamp := x.timebase, handle := r.handle.toNat,
                         cmd := .handover (rfld r 8 4) (rfld r 12 2) (BitVec.ofNat 64 (rfld r 16 8)) }
    exec (.handover t r) s = .next { x.holdHandle r part (.handover (rfld r 8 4)) 1 with
      waiting := x.waiting.filter (·.before w) ++ w :: x.waiting.filter (fun v => !v.before w) }

/-- R397, R398: a LOG_SETUP that passes makes a new log of 2^LOG_LOG2 records with nothing reserved and nothing lost, and its
ANSWER takes slot 0, so FREE falls by that one record. A record with an opcode outside Table 12.3 changes no request, no
handle, no job and no landing; one that is not a whole record is counted in TOLL_PARTIAL, or as a page miss. -/
def Obligations.LogSetupAndStrayRecords : Prop :=
  (∀ (t : Nat) (r : CmdRec) (s x : State) (part : Nat) (refs : State → Nat → Option Nat),
    refs = (fun (y : State) (p : Nat) => match y.log? r.port.val p with
      | some g => if g.reserved > 0 then some 0x0C else if y.markerAddr r.port.val = 0 then some 0x0D else none
      | none => if y.markerAddr r.port.val = 0 then some 0x0D else none) →
    (s.at t).gate r { known := true, right := none, reserves := 1, isLog := true, isRequest := false }
      (rzeros r [(17, 1), (20, 44)] && decide (rfld r 8 8 % 4096 = 0 ∧ 6 ≤ rfld r 16 1 ∧ rfld r 16 1 ≤ 20)
        && vectorOk r.fn (rfld r 18 2)) refs = .ok part x →
    ∃ u w v, exec (.logSetup t r) s = .next u
      ∧ u.log? r.port.val part = some { addr := rfld r 8 8, log2 := rfld r 16 1, vector := rfld r 18 2, vf := v, written := 1,
                                        free := 2 ^ rfld r 16 1 - 1, reserved := 0, lost := 0, window := w }
      ∧ (v = match r.fn with
          | .pf => none
          | .vf n => some n.toNat)
      ∧ u.handles = x.handles ∧ u.requests = x.requests ∧ u.mem = x.mem ∧ u.lanes = x.lanes)
  ∧ (∀ (t : Nat) (op : BitVec 8) (r : CmdRec) (s : State), ¬(1 ≤ op.toNat ∧ op.toNat ≤ 11) →
    ∃ u, exec (.reservedOpcodeRecord t op r) s = .next u ∧ u.handles = s.handles ∧ u.requests = s.requests ∧ u.jobs = s.jobs
      ∧ u.landings = s.landings ∧ u.lanes = s.lanes ∧ u.mem = s.mem)
  ∧ ∀ (t : Nat) (port : Fin 4) (fn : Fn) (off len : Nat) (s : State), s.portOpen port.val = true →
    exec (.partialLaneWrite t port fn off len) s = .next (((s.at t).portRx port.val len).inc (tollCtr port.val
      (if (s.pagePart? port.val fn (off / 4096)).isSome then 0x08 else 0x18)) 1)
/-! ### Jobs, variants, landings and registers as hosts command them (chapters 12, 13, 14) -/

/-- R430: a JOB_START that passes the checks of R389 is refused with the code of Table 13.4, or makes one listed job in state LISTED
with the next JOB_ID, its handle in flight, and the dispatcher decides at once. A bitstream that the plan cache holds is taken from
it, counted as started now, and waiting requests take their place again. The fixed bit acts in a SERVE job only (R524). -/
def Obligations.JobStartListsJob : Prop :=
  ∀ (t : Nat) (r : CmdRec) (digest : BitVec 384) (params : BitVec 2048) (s x : State) (part : Nat),
    (s.at t).gate r { known := true, right := some 30, reserves := 1, isLog := false, isRequest := false } (jobStartOk r)
      (fun y _ => if rfld r 8 8 = 0 ∧ (y.cached? digest).isNone then some 0x0B else none) = .ok part x →
    let type := (jobTypeOf (rfld r 20 1)).getD .serve
    let given : BitVec 2048 := if rfld r 32 8 ≠ 0 then params else 0
    let z := x.portRx r.port.val (if rfld r 32 8 ≠ 0 then 304 else 48)
    let held := (x.cached? digest).map (·.bits)
    (∀ code, z.startError type ((rfld r 21 1).testBit 0) given held = some code → exec (.jobStart t r digest params) s
      = .next ((z.holdHandle r part (.jobStart 0) 1).answerNow r.handle.toNat code 0 0 0))
    ∧ (z.startError type ((rfld r 21 1).testBit 0) given held = none →
      ∃ j : Job, j.state = .listed ∧ j.handle = r.handle.toNat ∧ j.answered = false ∧ j.partition = part ∧ j.port = r.port.val
        ∧ j.mgmt = decide (r.fn = .pf) ∧ j.type = type ∧ j.fixed = (decide (type = .serve) && (rfld r 21 1).testBit 0)
        ∧ j.fidelity = (rfld r 21 1).testBit 1 ∧ j.digest = digest ∧ j.srcLen = rfld r 16 4 ∧ j.params = given ∧ j.tick = 0
        ∧ j.ran = false ∧ j.ending = none ∧ j.basic = 0 ∧ j.startedAt = z.timebase
        ∧ (let y := z.holdHandle r part (.jobStart x.freshJob) 1
           let w : State := { y with jobs := kins y.jobs x.freshJob j, nextJob := x.freshJob % 65535 + 1 }
           (held = none → j.src = rfld r 8 8 ∧ exec (.jobStart t r digest params) s = .next (w.dispatch false))
           ∧ ∀ b, held = some b → j.src = 0 ∧ exec (.jobStart t r digest params) s = .next ((({ w with
               bits := kins w.bits x.freshJob b
               cache := w.cache.map (fun (c : CacheEntry) => if c.digest = digest then { c with lastStart := w.time } else c) }).placeAll).dispatch
                 false)))

/-- R434: JOB_CTRL end tells the job to end and holds the answer until it has ended; pre-empt of the running job marks it to
leave for HELD and lets the dispatcher act; resume makes a HELD job PAUSED, answers DONE, and lets the dispatcher act. A job
that the issuer may not act on answers 0x305. -/
def Obligations.JobCtrlActsOnListedJob : Prop :=
  ∀ (t : Nat) (r : CmdRec) (s x : State) (part a : Nat) (j : Job),
    (s.at t).gate r { known := true, right := some 30, reserves := 1, isLog := false, isRequest := false }
      (decide (rfld r 12 1 = a) && rzeros r [(13, 51)]) noRefs = .ok part x →
    kfind? x.jobs (rfld r 8 4) = some j →
    let y := x.holdHandle r part (.jobCtrl (rfld r 8 4)) 1
    let may : Prop := r.fn = .pf ∨ (j.mgmt = false ∧ j.partition = part)
    (may → a = 1 → exec (.jobCtrlEnd t r) s = .next (({ y with
      jobs := kupd y.jobs (rfld r 8 4) (fun j => { j with endHandles := j.endHandles ++ [r.handle.toNat] }) }).tellEnd (rfld r 8 4) 1))
    ∧ (may → a = 2 → j.type ≠ .selftest → x.running = some (rfld r 8 4) → exec (.jobCtrlPreempt t r) s = .next (({ y with
      jobs := kupd y.jobs (rfld r 8 4) (fun j => { j with preempts := j.preempts ++ [r.handle.toNat],
                                                          toHeld := j.ending.isNone }) }).dispatch false))
    ∧ (may → a = 3 → j.state = .held → exec (.jobCtrlResume t r) s = .next ((({ y with
      jobs := kins x.jobs (rfld r 8 4) { j with state := .paused } }).answerNow r.handle.toNat 0 0 0 0).dispatch false))
    ∧ (¬may → (a = 1 → exec (.jobCtrlEnd t r) s = .next (y.answerNow r.handle.toNat 0x305 0 0 0))
      ∧ (a = 2 → exec (.jobCtrlPreempt t r) s = .next (y.answerNow r.handle.toNat 0x305 0 0 0))
      ∧ (a = 3 → exec (.jobCtrlResume t r) s = .next (y.answerNow r.handle.toNat 0x305 0 0 0)))

/-- R452: a VARIANT install that no code of Table 13.9 refuses stages a fetch for its slot; a remove frees the slot and the
requests of the model are placed again; a refused one answers the code and changes no slot. The fetched records of a staged
install are written into the slot of the partition that staged it, and the ANSWER is DONE. -/
def Obligations.VariantInstallAndRemove : Prop :=
  (∀ (t : Nat) (r : CmdRec) (s x : State) (part e : Nat),
    (s.at t).gate r { known := true, right := some 29, reserves := 1, isLog := false, isRequest := false } (variantOk r 1) noRefs
      = .ok part x → x.entryOfModel? (rfld r 16 4) = some e →
    let y := x.holdHandle r part .variant 1
    (y.slotError (rfld r 16 4) (rfld r 20 2) part = none → exec (.variantInstall t r) s = .next { y with
      staged := x.staged ++ [{ handle := r.handle.toNat, entry := e, slot := rfld r 20 2 }] })
    ∧ ∀ code, y.slotError (rfld r 16 4) (rfld r 20 2) part = some code →
      exec (.variantInstall t r) s = .next (y.answerKey r.handle.toNat code 0))
  ∧ (∀ (t : Nat) (r : CmdRec) (s x : State) (part e : Nat),
    (s.at t).gate r { known := true, right := some 29, reserves := 1, isLog := false, isRequest := false } (variantOk r 2) noRefs
      = .ok part x → x.entryOfModel? (rfld r 16 4) = some e →
    let y := x.holdHandle r part .variant 1
    y.slotError (rfld r 16 4) (rfld r 20 2) part = none → exec (.variantRemove t r) s = .next
      (((y.setEntry e { x.entry e with owners := kdel (x.entry e).owners (rfld r 20 2) }).placeAll).answerKey r.handle.toNat 0 0))
  ∧ ∀ (t : Nat) (handle : BitVec 32) (bs : List Byte) (s : State) (st : Staged) (i : HandleInfo),
    s.staged.find? (fun x => decide (x.handle = handle.toNat)) = some st → kfind? s.handles handle.toNat = some i →
    let y := { s.at t with staged := s.staged.filter (fun x => decide (x.handle ≠ handle.toNat)) }
    let z := y.portRx i.port (4096 * (s.entry st.entry).layers)
    z.slotError (s.entry st.entry).modelId st.slot i.partition = none →
    exec (.variantFetchDone t handle (some bs)) s = .next ((z.writeSlot st.entry st.slot i.partition
      ((List.range (s.entry st.entry).layers).map (fun l => byteSlice bs (4096 * l) 4096))).answerKey handle.toNat 0 0)

/-- R409: a LANDING open that passes takes the lowest free LID for a landing of the issuing partition with the rights asked, and
answers the BAR4 offset ÷ 4,096; a close removes the landing it names. -/
def Obligations.LandingOpensAndCloses : Prop :=
  (∀ (t : Nat) (r : CmdRec) (s x : State) (part lid : Nat),
    (s.at t).gate r { known := true, right := some 27, reserves := 1, isLog := false, isRequest := false }
      (decide (rfld r 8 8 % 4096 = 0 ∧ rfld r 8 8 < 2 ^ 40 ∧ 0 < 4096 * rfld r 16 4 ∧ rfld r 20 1 < 8 ∧ rfld r 21 1 = 1)
        && rzeros r [(22, 2), (28, 36)])
      (fun y p => if !y.landingOk p (rfld r 8 8) (4096 * rfld r 16 4)
          ∨ ((rfld r 20 1).testBit 2 ∧ (y.bar4Place r.port.val (4096 * rfld r 16 4)).isNone) then some 0x09
        else if y.freeLid.isNone then some 0x07 else none) = .ok part x →
    x.freeLid = some lid →
    ∃ g : Landing, g.kind = .memory ∧ g.base = rfld r 8 8 ∧ g.len = 4096 * rfld r 16 4 ∧ g.partition = some part
      ∧ g.port = r.port.val ∧ g.read = (rfld r 20 1).testBit 0 ∧ g.write = (rfld r 20 1).testBit 1
      ∧ g.host = (rfld r 20 1).testBit 2 ∧ g.expiry = some (rfld r 24 4)
      ∧ g.bar4 = (if g.host then (x.bar4Place r.port.val (4096 * rfld r 16 4)).getD 0 else 0)
      ∧ exec (.landingOpen t r) s = .next (({ x.holdHandle r part .landing 1 with
          landings := kins x.landings lid g }).answerNow r.handle.toNat 0 (g.bar4 / 4096) 0 0))
  ∧ ∀ (t : Nat) (r : CmdRec) (s x : State) (part lid : Nat),
    (s.at t).gate r { known := true, right := some 27, reserves := 1, isLog := false, isRequest := false }
      (decide (rfld r 8 8 % 4096 = 0 ∧ rfld r 20 1 < 8 ∧ rfld r 21 1 = 2) && rzeros r [(22, 2), (28, 36)])
      (fun y p => if (y.landingToClose r.port.val p (rfld r 8 8) (rfld r 24 4)).isNone then some 0x09 else none) = .ok part x →
    x.landingToClose r.port.val part (rfld r 8 8) (rfld r 24 4) = some lid →
    exec (.landingClose t r) s = .next (({ x.holdHandle r part .landing 1 with
      landings := kdel x.landings lid }).answerNow r.handle.toNat 0 0 0 0)

/-- R409, R345, R356: a BAR4 access that falls in a landing with the right reads the bytes of device memory there as the landing's
striping places them, those of poison and of the DEVICE region apart, or writes exactly those bytes, but into poison and LOST
stacks; one that falls in none is counted, reads zeros and writes nothing. -/
def Obligations.Bar4ReadsAndWritesLandings : Prop :=
  ∀ (t : Nat) (port : Fin 4) (fn : Fn) (off : Nat) (data : List Byte) (errs : MemErrs) (s : State), s.portOpen port.val = true →
    let y := (s.at t).upset errs
    let n := data.length
    (s.bar4Landing port.val fn off n false = none →
      ∃ u, exec (.bar4Access t port fn off false data errs) s = .next u ∧ u = { y with counters := u.counters, out := u.out }
        ∧ u.out = y.out ++ [.data port.val (List.replicate n 0#8)])
    ∧ (s.bar4Landing port.val fn off n true = none →
      ∃ u, exec (.bar4Access t port fn off true data errs) s = .next u ∧ u = { y with counters := u.counters })
    ∧ (∀ g, s.bar4Landing port.val fn off n false = some g → let place (i : Nat) : Nat := s.landOff g.base (off - g.bar4 + i)
      ∃ u bs, exec (.bar4Access t port fn off false data errs) s = .next u ∧ u.out = y.out ++ [.data port.val bs]
        ∧ bs.length = n ∧ (∀ i, i < n → y.poisoned (place i) = false → inDevice (place i) = false →
            bs.getD i 0#8 = y.memByte (place i))
        ∧ u.mem.bytes = s.mem.bytes ∧ u = { y with counters := u.counters, fresh := u.fresh, mem := u.mem, out := u.out })
    ∧ ∀ g, s.bar4Landing port.val fn off n true = some g → let place (i : Nat) : Nat := s.landOff g.base (off - g.bar4 + i)
      ∃ u, exec (.bar4Access t port fn off true data errs) s = .next u ∧ u = { y with counters := u.counters, mem := u.mem }
        ∧ (∀ a, (∀ i, i < n → place i ≠ a) → u.memByte a = y.memByte a)
        ∧ ∀ i, i < n → (∀ j, j < n → place j = place i → j = i) → y.poisoned (place i) = false →
            u.memByte (place i) = data.getD i 0#8

/-- R10, R11, R13, R382: a write of the management role reaches its register. A register of which software writes the RW fields
takes exactly those of the value; a 1 clears the status field that it names unless the device set that field in the same cycle, and
a 0 leaves it; FORCE_FW is kept as written; a read-only register and an offset that holds none ignore the write. A virtual
function's write acts on the controls of its partition's window; elsewhere in its BAR it is ignored, and beyond the BAR it changes
no register: it is recorded as an ACCESS fault and counted in FLT_ROLE_DENIED. A read answers four bytes: the register to the
physical function, what R382 gives a virtual function, zero for what its role does not permit. -/
def Obligations.RegisterWritesByRole : Prop :=
  (∀ (t : Nat) (who : Requester) (off : BitVec 24) (value : Word) (s y : State), Reached t who s y →
    let o := off.toNat
    (∀ m, o < 0x800000 → rwMask o = some m → exec (.registerWrite t who off value) s = .next (y.setReg o (value &&& m)))
    ∧ (o = 0x0D0014 → ∃ u, exec (.registerWrite t who off value) s = .next u ∧ u = { y with regs := u.regs }
        ∧ (∀ k, k ≠ o → u.regw k = y.regw k)
        ∧ ∀ b, b < 32 → u.regb o b
            = (y.regb o b && !(decide (b < 8) && value.getLsbD b && decide (kfind? y.obs.setAt (64 * o + b) ≠ some y.time))))
    ∧ (o = 0x070088 → exec (.registerWrite t who off value) s = .next (
        if value.getLsbD 30 = true ∧ kfind? y.obs.setAt (64 * o + 30) ≠ some y.time then
          { y with mem := { y.mem with status := y.mem.status &&& 0xBFFFFFFF#32 } } else y))
    ∧ (∀ l p, l < 128 → o = 0x800124 + 0x10000 * l → s.phys? l = some p → exec (.registerWrite t who off value) s = .next (
        if value.getLsbD 23 = true ∧ kfind? y.obs.setAt (64 * o + 23) ≠ some y.time then
          y.setSpan p { s.span p with seq := { (s.span p).seq with fault := (s.span p).seq.fault &&& 0xFF7FFFFF#32 } } else y))
    ∧ (o = 0x020504 → value.getLsbD 30 = false → ∃ u, exec (.registerWrite t who off value) s = .next u
        ∧ u = { y with regs := u.regs, trs := { s.trs with
            cause := if value.getLsbD 31 = true ∧ s.regb o 31 = false then 4 else s.trs.cause } }
        ∧ (∀ k, k ≠ o → u.regw k = y.regw k) ∧ u.regw o = value &&& 0x80000000#32)
    ∧ (o = 0x090044 → ∃ u, exec (.registerWrite t who off value) s = .next u ∧ u = { y with regs := u.regs }
        ∧ (∀ k, k ≠ o → u.regw k = y.regw k)
        ∧ u.regw o &&& 0x800003FF#32 = value &&& 0x800003FF#32
        ∧ (u.regb o 29 = if s.running.isSome = true then s.regb o 29 else value.getLsbD 29))
    ∧ (o < 0x800000 → rwMask o = none → slotOf 0x090010 8 4 o = none → slotOf 0x012000 512 4 o = none →
        o ∉ [0x000024, 0x020504, 0x020600, 0x070084, 0x070088, 0x090000, 0x090044, 0x090050, 0x090054, 0x0A0000, 0x0A0004, 0x0A0034,
             0x0A0040, 0x0B0010, 0x0C0004, 0x0C0244, 0x0D0004, 0x0D0014] → exec (.registerWrite t who off value) s = .next y)
    ∧ (0x800000 ≤ o → o % 0x10000 ≠ 0x400 → o % 0x10000 ≠ 0x124 → exec (.registerWrite t who off value) s = .next y))
  ∧ (∀ (t : Nat) (p : Fin 4) (n : BitVec 8) (off : BitVec 24) (value : Word) (s : State), s.portOpen p.val = true →
    let y := (s.at t).portRx p.val 4
    (off.toNat = 0x100 → exec (.registerWrite t (.vf p n) off value) s = exec (.pctrClose t p n value) s)
    ∧ (off.toNat = 0x104 → exec (.registerWrite t (.vf p n) off value) s = exec (.pctrSample t p n value) s)
    ∧ (off.toNat ≠ 0x100 → off.toNat ≠ 0x104 → off.toNat < 0x10000 → exec (.registerWrite t (.vf p n) off value) s = .next y)
    ∧ (0x10000 ≤ off.toNat → exec (.registerWrite t (.vf p n) off value) s = .next y.denied))
  ∧ (∀ (t : Nat) (p : Fin 4) (n : BitVec 8) (off : BitVec 24) (s : State), s.portOpen p.val = true → let y := s.at t
    let answers (who : Requester) (z : State) (v : Word) : Prop := ∃ u, exec (.registerReadDenied t who off) s = .next u
      ∧ u = { z with counters := u.counters, out := z.out ++ [.data p.val (natToBytes 4 v.toNat)] }
    answers (.pf p) y (y.readReg (.pf p) off.toNat)
    ∧ (off.toNat < 0x10000 → answers (.vf p n) y (y.vfRead p.val n.toNat off.toNat))
    ∧ (0x10000 ≤ off.toNat → answers (.vf p n) y.denied 0))
  ∧ ∀ s : State, ∃ c, s.denied = { s with counters := c, flt := s.denied.flt } ∧ s.denied.flt.log = s.flt.log
    ∧ c = kmod Counter.zero s.counters 0x0B0124 (Counter.add 1)

/-- R411, R11: a write of TOLL_PAGE_OWNER sets the owner of the page; one that would change the owner of a page whose lanes hold a
handle in flight leaves the owner as it was and sets REFUSED, which a 1 clears unless it was set in the same cycle. -/
def Obligations.PageOwnerKeptWhileHandlesLive : Prop :=
  ∀ (t : Nat) (who : Requester) (port : Fin 4) (page : Fin 128) (value : Word) (s y : State), Reached t who s y →
    let off := tollPage port.val page.val
    let old := s.regw off
    let live := s.handles.any (fun e => decide (handlePort e.1 = port.val ∧ handleLane e.1 / 64 = page.val))
    let change : Prop := value.getLsbD 31 ≠ old.getLsbD 31 ∨ value.toNat % 256 ≠ old.toNat % 256
    ∃ v, ((¬(live = true ∧ change) → exec (.pageOwnerWrite t who port page value) s = .next (y.setReg off v)
        ∧ v.getLsbD 31 = value.getLsbD 31 ∧ v.toNat % 256 = value.toNat % 256
        ∧ v.getLsbD 30 = (old.getLsbD 30 && !(value.getLsbD 30 && decide (kfind? s.obs.setAt (64 * off + 30) ≠ some y.time))))
      ∧ (live = true → change → exec (.pageOwnerWrite t who port page value) s = .next { y.setReg off v with
            obs := { s.obs with setAt := kins s.obs.setAt (64 * off + 30) y.time } }
        ∧ v.getLsbD 31 = old.getLsbD 31 ∧ v.toNat % 256 = old.toNat % 256 ∧ v.getLsbD 30 = true))

/-! ### What the tollgate completes by itself, and the step tick (chapters 8, 12, 13, 14, 15) -/

/-- R391, R392, R416, R417: a FETCHING request whose prompt does not come ends with 0x08; one without an extension block takes
its prompt's tokens and waits in WAIT_MODEL while its model cannot serve it, or in QUEUED, with its tokens checked, when it
can. A ticket whose WAIT_MS has passed without an OFFER ends with 0x0B. The scan of the deadline monitor leaves alone every
request whose deadline has not passed. -/
def Obligations.FetchTicketAndDeadlineCompletions : Prop :=
  (∀ (t : Nat) (h : BitVec 32) (ext : Option (List Byte)) (s : State) (q : Request), kfind? s.requests h.toNat = some q →
    q.state = .fetching → q.ending = none →
    exec (.fetchDone t h none ext) s = .next (((s.at t).endRequest h.toNat 0x08 0).dispatch false))
  ∧ (∀ (t : Nat) (h : BitVec 32) (words : List Word) (s : State) (q : Request), kfind? s.requests h.toNat = some q →
    q.state = .fetching → q.ending = none → q.hasExt = false → words.length = q.promptLen → q.checked = false →
    let y := (s.at t).portRx q.port (4 * q.promptLen)
    let q' := { q with prompt := words.map (fun (w : Word) => w.toNat), stop := { ids := [], strings := [], states := [] } }
    (y.servable q = false → exec (.fetchDone t h (some words) none) s = .next (State.dispatch false
        { y with requests := kins s.requests h.toNat { q' with state := .waitModel, seenState := ReqState.waitModel.code } }))
    ∧ ∀ e, y.servable q = true → s.entryOfModel? q.modelId = some e →
        (∀ w ∈ words, w.toNat < (s.entry e).vocab.size) →
        exec (.fetchDone t h (some words) none) s = .next (State.dispatch false
          { y with requests := (kins s.requests h.toNat
              { q' with state := .queued, seenState := ReqState.queued.code, checked := true }) }))
  ∧ (∀ (t : Nat) (h : BitVec 32) (s : State) (q : Request), kfind? s.requests h.toNat = some q → q.state = .waitHandin →
    q.ending = none → (∀ x ∈ s.via.hoIn, x.handle ≠ h.toNat) →
    (q.waitEnd ≤ max s.time t → exec (.handinExpired t h) s = .next ((s.at t).endRequest h.toNat 0x0B 0))
    ∧ (max s.time t < q.waitEnd → exec (.handinExpired t h) s = .next (s.at t)))
  ∧ ∀ (t : Nat) (s : State), (∀ e ∈ s.requests, ∀ d, e.2.deadline = some d → (s.at t).timebase ≤ d) →
    exec (.deadlineScan t) s = .next (s.at t)

/-- R254: the scan acts on a request that no running job holds and whose deadline has passed: TRUNCATE ends it with 0x04,
ABORT with 0x05, each counted. -/
def Obligations.DeadlineScanEndsLateRequest : Prop :=
  ∀ (t : Nat) (s : State) (h d : Nat) (q : Request), s.requests = [(h, q)] → q.deadline = some d → d < (s.at t).timebase →
    q.dlActed = false → q.ending = none → q.ho = none → (∀ x ∈ s.via.hoIn, x.handle ≠ h) → (s.at t).unheld q = true →
    (q.dlPolicy = 2 → exec (.deadlineScan t) s
      = .next ({ (s.at t).inc 0x030104 1 with requests := [(h, { q with dlActed := true })] }.endRequest h 0x04 (dlArg q)))
    ∧ (q.dlPolicy = 3 → exec (.deadlineScan t) s
      = .next ({ (s.at t).inc 0x030108 1 with requests := [(h, { q with dlActed := true })] }.endRequest h 0x05 (dlArg q)))
    ∧ (q.dlPolicy < 2 → exec (.deadlineScan t) s = .next (s.at t))

/-- R406: the MSI-X message of a log goes out when its window ends, not before, and the window is over. R473: a landing that no
tick keeps loses one step of its expiry per 10 ms, and is closed when none is left. -/
def Obligations.WindowAndExpiryTimers : Prop :=
  (∀ (t : Nat) (port : Fin 4) (part : BitVec 8) (s : State) (g : EventLog) (e : Nat),
    s.log? port.val part.toNat = some g → g.window = some e →
    (max s.time t < e → exec (.msixWindowEnd t port part) s = .next (s.at t))
    ∧ (e ≤ max s.time t → s.portOpen port.val = true → exec (.msixWindowEnd t port part) s
        = .next (((s.at t).setLog port.val part.toNat { g with window := none }).emit (.msix port.val g.vf g.vector))))
  ∧ ∀ (t id k : Nat) (s : State) (g : Landing), kfind? s.landings id = some g → g.expiry = some k →
    let n := (max s.time t - g.since) / 10000000
    (s.ticking = true → exec (.landingExpiry t id) s = .next (s.at t))
    ∧ (s.ticking = false → 0 < n → n < k → exec (.landingExpiry t id) s = .next { s.at t with
        landings := kins s.landings id { g with since := g.since + n * 10000000, expiry := some (k - n) } })
    ∧ (s.ticking = false → 0 < n → k ≤ n → (∀ x ∈ s.via.hoIn, x.lid ≠ id) → exec (.landingExpiry t id) s = .next { s.at t with
        landings := kdel (kins s.landings id { g with since := g.since + n * 10000000 }) id })

/-- R228, R229, R234, R506: at the cut instant of a running SERVE job the work of Table 8.3 is done and the first run of the tick
starts, in phase 1 at the cut instant, with the ledger open and no further cut due; before it nothing happens. With no request to
take in the batch is empty. A cut instant that passes while a replay is pending is counted, and no run starts. -/
def Obligations.AdmissionCutStartsTick : Prop :=
  (∀ (t : Nat) (s : State), s.tick.broken = none → (s.at t).cutDue? = none → exec (.admissionCut t) s = .next (s.at t))
  ∧ (∀ (t c : Nat) (s : State), s.tick.broken = none → (s.at t).cutDue? = some c → let y := (s.at t).upToNow.cutFirst c
    c ≤ max s.time t ∧ s.gov.nextCut = some c
      ∧ (y.running = none → exec (.admissionCut t) s = .next y)
      ∧ (y.running ≠ none → exec (.admissionCut t) s = .next (y.cutRest c y.time)))
  ∧ (∀ (c work : Nat) (s : State), (s.cutRest c work).gov.nextCut = none ∧ (s.cutRest c work).tick.start = c)
  ∧ (∀ (t c id j0 : Nat) (s : State) (j : Job) (b : Bitstream) (pl : Plan) (g : Joint),
    -- The cut instant has come; the job is a SERVE job whose plan stays as it is.
    s.gov.nextCut = some c → c ≤ max s.time t → s.running = some id → kfind? s.jobs id = some j → j.type = .serve → j.basic = 0 →
    kfind? s.bits id = some b → b.plan? s.tick.plan = some pl → s.planFor j = s.tick.plan → s.tick.active = false →
    s.tick.broken = none → s.tick.against = none → s.boot.deferred = none → s.via.lock.frozen = false → s.pair = false →
    -- No command and no request waits, no span is to be fenced, and the pier writes no list.
    s.requests = [] → s.waiting = [] → s.flt.fenceAsked = [] → s.flt.basicAsked = none →
    (∀ e ∈ s.spans, e.2.strikes.length < 2) → (∀ l, pl.lists l = []) →
    -- Phase 1 has a length.
    pl.phaseJoint 1 = some j0 → pl.joints[j0]? = some g → g.y ≠ pl.head.phaseS.getD 0 0 →
    ∃ u, exec (.admissionCut t) s = .next u ∧ u.tick.active = true ∧ u.tick.sealed = false ∧ u.tick.phase = 1 ∧ u.tick.start = c
      ∧ u.tick.t0 = c ∧ u.tick.cyc0 = 0 ∧ u.tick.n = u.pwr.n ∧ u.tick.period = s.gov.period ∧ u.tick.replay = false
      ∧ u.tick.runs = 0 ∧ u.tick.broken = none ∧ u.tick.slots = [] ∧ u.tick.plan = s.tick.plan ∧ u.tick.h = 0
      ∧ u.tick.init = initLedger s.gov.period u.pwr.n pl.head.planCyc ∧ u.gov.nextCut = none ∧ u.running = some id
      ∧ u.requests = [] ∧ u.jobs = s.jobs ∧ u.binding = s.binding ∧ u.out = (s.at t).out)
  ∧ ∀ (t : Nat) (s : State) (b : BreakCause), s.tick.broken = some b → s.via.lock.frozen = false → b ≠ .poison →
    0 < s.tick.period →
    let n := (max s.time t - s.tick.start) / (1000 * s.tick.period)
    exec (.admissionCut t) s = .next { s.at t with
      tick := { s.tick with missed := max n s.tick.missed }
      flt := { s.flt with missed := s.flt.missed + (max n s.tick.missed - s.tick.missed) } }

/-- R296, R297: a span that has issued JOINT arrives once every unit has completed what it was given and everything that it wrote or
sent has landed, and reports its lateness against the joint's latest arrival plus its offset, by class; at a phase joint its windows
close; before that it does not arrive. Cells that have run a poisoned tile set break the tick (R94). R231, R235, R246: a joint is
released at the later of its planned release and its last arrival; H takes the lag where it is larger, and INIT what a forced step
took, but not after the seal; its members take the lag as their offset. R224: the release of a phase joint starts the next phase, and
that of the last one ends a tick that is sealed. -/
def Obligations.JointArrivalAndRelease : Prop :=
  (∀ (l : Fin 128) (cyc p j : Nat) (g : Joint) (s0 : State), let s := s0.toCyc cyc
    s.tick.active = true → s.phys? l.val = some p → (s.span p).seq.jointAt = some j → s.joint? j = some g →
    let x := s.span p
    let atRest : Prop := x.unitsDone cyc = true ∧ s.outDone l.val = true ∧ s.scatterDone l.val x = true
      ∧ (g.phase = true → x.streamsDone = true) ∧ ∀ k, x.seq.lastIssue = some k → k ≤ cyc
    let late : Nat := cyc - (g.y - g.a + x.seq.offset)
    (atRest → x.cells.poisonDue = false → g.phase = false → ∃ c : LateClasses, c.sum = late
      ∧ exec (.spanJointArrival l cyc) s0 = .next ((s.setSpan p { x with seq := { x.seq with
          classes := c, jointAt := none, arrived := some (j, cyc), earlyTo := cyc, waitFrom := none } }).arriveAt l.val j cyc c.list))
    ∧ (atRest → x.cells.poisonDue = false → g.phase = true → ∃ u a, exec (.spanJointArrival l cyc) s0 = .next u
      ∧ kfind? u.tick.arrivals l.val = some a ∧ a.joint = j ∧ a.cyc = cyc ∧ a.classes.sum = late ∧ (u.span p).seq.arrived = some (j, cyc)
      ∧ (u.span p).seq.jointAt = none ∧ (∀ w, w < 4 → kfind? (u.span p).seq.windows w = none) ∧ (u.span p).deck = x.deck
      ∧ (∀ k, k ≠ p → u.span k = s.span k) ∧ u.mem = s.mem)
    ∧ (atRest → x.cells.poisonDue = true → exec (.spanJointArrival l cyc) s0 = .next (s.breakTick .poison))
    ∧ (¬atRest → exec (.spanJointArrival l cyc) s0 = .next s))
  ∧ (∀ (t : Nat) (s : State), s.tick.active = true → let z := (s.at t).settled
    (z.dueJoint? = none → exec (.jointRelease t) s = .next z)
    ∧ ∀ j x g, z.dueJoint? = some (j, x, g) → let r := z.release j x g
      (z.time < z.cycTime x → exec (.jointRelease t) s = .next z)
      ∧ (z.cycTime x ≤ z.time → g.phase = false → exec (.jointRelease t) s = .next r)
      ∧ (z.cycTime x ≤ z.time → g.phase = true → r.tick.phase < 5 → exec (.jointRelease t) s
          = .next (r.beginPhase 6 (r.tick.phase + 1) x (x - g.y)))
      ∧ (z.cycTime x ≤ z.time → g.phase = true → 5 ≤ r.tick.phase →
          (r.tick.sealed = false → exec (.jointRelease t) s = .next r)
          ∧ (r.tick.sealed = true → ∃ u, exec (.jointRelease t) s = .next u ∧ u.tick = { r.tick with active := false, phase := 0 }
            ∧ u = { r with tick := u.tick, spans := u.spans })))
  ∧ ∀ (j x : Nat) (g : Joint) (s : State), let u := s.release j x g
    (s.tick.sealed = false → u.tick.h = max s.tick.h (x - g.y) ∧ u.tick.init = s.tick.init - (s.tick.initLoss : Int))
      ∧ (s.tick.sealed = true → u.tick.h = s.tick.h ∧ u.tick.init = s.tick.init) ∧ u.tick.initLoss = 0
      ∧ u.tick.lastJoint = j ∧ u.tick.phase = s.tick.phase ∧ u.tick.active = s.tick.active
      ∧ u.tick.arrivals = s.tick.arrivals.filter (fun e => e.2.joint ≠ j)
      ∧ (∀ l p, s.jointSpans g = [l] → s.phys? l = some p → (u.span p).seq.offset = x - g.y ∧ (u.span p).seq.jointAt = none
          ∧ (u.span p).seq.arrived = none ∧ (u.span p).deck = (s.span p).deck ∧ (u.span p).lines = (s.span p).lines)
      ∧ u.mem = s.mem ∧ u.requests = s.requests ∧ u.jobs = s.jobs

/-- R243, R244, R246, R420: nothing is sealed while the gate of phase 5 is shut. When it passes, the tick is sealed and Table 8.6 is
done: TICK_LAST takes the time of the publish after the seal, no cut instant counts as missed, and the publish ends at its end; what
the host ports are sent goes out with it. With an empty batch and nothing else on its way, the job's TICK_NUMBER rises by one, every
open port's MARK rises by one and its marker is written, and the spans, memory and the ports that are not open stay as they were. A
DECODE slot that ran commits its tokens: the request's counts rise by their number, the last one is its pending token, and each is
written as a record. -/
def Obligations.KeystoneSealEndsTick : Prop :=
  (∀ (t e : Nat) (s : State), let z := (s.at t).settled
    (z.gatePasses = false → exec (.keystoneSeal t e) s = .next z)
    ∧ (z.gatePasses = true → ∃ v : State,
        exec (.keystoneSeal t e) s = .next ((v.defer none (fun x => x.ageAll.ageHo.afterPublish (max z.time e))).at t)
        ∧ v.pub.map (·.endAt) = some (max z.time e) ∧ v.tick.sealed = true ∧ v.tick.runs = 0 ∧ v.flt.missed = 0 ∧ v.flt.hungAt = none
        ∧ v.time = z.time ∧ v.gov.lastSeal = some v.timebase
        ∧ v.gov.lastTick.toNat % 65536 = min 65535 ((max z.time e - z.time) / 1000)))
  ∧ (∀ (t e id : Nat) (s : State) (j : Job), let z := (s.at t).settled
    -- A serving job has run a tick with an empty batch; nothing waits, and no hand-over, landing or load is on its way.
    z.gatePasses = true → z.pub = none → z.running = some id → z.jobs = [(id, j)] → j.type = .serve → j.ending = none →
    j.toHeld = false → j.basic = 0 → z.pair = false → z.requests = [] → z.waiting = [] → z.tick.slots = [] → z.tick.keyRecs = [] →
    z.kv.orphans = [] → z.via.hoIn = [] → z.landings = [] → z.load = none →
    ∃ u i, exec (.keystoneSeal t e) s = .next u
      ∧ u.jobs = [(id, { j with tick := j.tick + 1, committedTicks := j.committedTicks + 1, remoteWait := false, idleSince := i })]
      ∧ u.tick = { z.tick with sealed := true, runs := 0, active := !z.phaseOver, phase := if z.phaseOver then 0 else z.tick.phase }
      ∧ u.running = some id ∧ u.gov.lastSeal = some z.timebase ∧ u.gov.nextCut = none ∧ u.flt.missed = 0 ∧ u.flt.hungAt = none
      ∧ (∀ p, p < 4 → u.port p = if z.portOpen p then { z.port p with mark := (z.port p).mark + 1 } else z.port p)
      ∧ (let sent := ((List.range 4).filter (fun p => z.portOpen p && decide (z.markerAddr p ≠ 0))).map (fun p =>
            Out.dma p (z.markerAddr p) (natToBytes 4 ((z.port p).mark + 1).toNat ++ natToBytes 4 j.tick ++ natToBytes 8 z.timebase))
         (e ≤ z.time → u.pub = none ∧ u.out = z.out ++ sent)
         ∧ (z.time < e → u.out = z.out ∧ ∃ x, u.pub = some x ∧ x.endAt = e ∧ x.items.map (·.out) = sent))
      ∧ (∀ p, (u.span p).deck = (z.span p).deck ∧ (u.span p).lines = (z.span p).lines)
      ∧ u.mem.bytes = z.mem.bytes ∧ u.requests = [] ∧ u.landings = [] ∧ u.binding = z.binding)
  ∧ ∀ (x : Slot) (s : State) (q : Request), kfind? s.requests x.handle = some q → q.state = .decode → x.sits = false → x.done = true →
    x.tokens ≠ [] → q.dropped = false → q.ending = none → q.accepted = true →
    ∃ q' outs, (s.commitSlot x).2 = (outs, []) ∧ kfind? (s.commitSlot x).1.requests x.handle = some q'
      ∧ q'.committed = q.committed + x.tokens.length ∧ q'.generated = q.generated + x.tokens.length
      ∧ q'.pending = x.tokens.getLast? ∧ q'.ending = x.stopped ∧ q'.stop.states = x.stopStates ∧ q'.state = .decode
      ∧ outs.map (·.token) = x.tokens ∧ (∀ o ∈ outs, o.port = q.port ∧ o.partition = q.partition)
      ∧ outs.map (·.addr) = (List.range x.tokens.length).map (fun i => q.streamAddr + 16 * (q.generated + i - q.streamBase))
      ∧ (s.commitSlot x).1.spans = s.spans ∧ (s.commitSlot x).1.mem = s.mem ∧ (s.commitSlot x).1.out = s.out

/-- R249, R250, R257, R299, R501: a broken tick is replayed once its cause has been dealt with: a new run of the same batch begins at
once, with REPLAY set, in phase 1 with the ledger open. A remote wait beyond its bound breaks the tick and the job leaves the spans at
REMOTE_WAIT, its tick kept; a job that a pre-empt waits for is then HELD. The first span that hangs breaks the tick as a span fault
and is fenced, and the nearest spare takes its logical number; a wait that has not lasted PERIOD_MAX is left alone. -/
def Obligations.ReplayRemoteWaitAndHang : Prop :=
  (∀ (t : Nat) (s : State), ((s.at t).replayReady = false → exec (.replayStart t) s = .next (s.at t))
    ∧ ∀ (id j0 : Nat) (j : Job) (b : Bitstream) (pl : Plan) (g : Joint),
      (s.at t).replayReady = true → s.running = some id → kfind? s.jobs id = some j → j.basic = 0 → kfind? s.bits id = some b →
      b.plan? s.tick.plan = some pl → s.planFor j = s.tick.plan → s.replaysSpent = false → s.pair = false →
      -- No span holds a strike or is to be fenced, no basic service is asked for, and the pier writes no list.
      (∀ e ∈ s.spans, e.2.strikes = []) → s.flt.fenceAsked = [] → s.flt.basicAsked = none → (∀ l, pl.lists l = []) →
      -- Phase 1 has a length.
      pl.phaseJoint 1 = some j0 → pl.joints[j0]? = some g → g.y ≠ pl.head.phaseS.getD 0 0 →
      ∃ u, exec (.replayStart t) s = .next u ∧ u.tick.active = true ∧ u.tick.replay = true ∧ u.tick.sealed = false ∧ u.tick.phase = 1
        ∧ u.tick.broken = none ∧ u.tick.start = max s.time t ∧ u.tick.t0 = max s.time t ∧ u.tick.cyc0 = 0 ∧ u.tick.n = s.pwr.n
        ∧ u.tick.runs = s.tick.runs ∧ u.tick.sums = [] ∧ u.tick.slots = s.tick.slots ∧ u.tick.plan = s.tick.plan ∧ u.tick.h = 0
        ∧ u.tick.init = initLedger s.gov.period s.pwr.n pl.head.planCyc ∧ u.gov = s.gov ∧ u.running = some id
        ∧ u.jobs = kupd s.jobs id (fun j => { j with remoteWait := false }) ∧ u.requests = s.requests ∧ u.mem = s.mem
        ∧ u.binding = s.binding ∧ u.out = (s.at t).out)
  ∧ (∀ (t : Nat) (s : State), let z := (s.at t).settled
    (z.remoteLate = false → exec (.remoteWaitTimeout t) s = .next z)
    ∧ ∀ id j, z.remoteLate = true → z.running = some id → kfind? z.jobs id = some j → j.state = .running →
        let v := ((z.breakHere .remoteWait).closeTickLandings.inc 0x060108 1).modJob (fun j => { j with remoteWait := true })
        exec (.remoteWaitTimeout t) s = .next ((v.leaveSpans (if j.toHeld then .held else .paused)).dispatch true)
          ∧ v.tick.active = false ∧ v.tick.broken = some .remoteWait ∧ v.tick.landings = [] ∧ v.running = some id
          ∧ (v.leaveSpans (if j.toHeld then .held else .paused)).running = none
          ∧ (z.jobs = [(id, j)] → j.toHeld = true → j.ending = none → j.type = .serve → j.preempts = [] →
              z.waiting = [] → z.requests = [] → z.load = none → ∃ u, exec (.remoteWaitTimeout t) s = .next u
                ∧ u.running = none ∧ u.binding = [] ∧ u.flt.scrubbing = true ∧ u.load = none ∧ kfind? u.tickSaved id = some v.tick
                ∧ ∃ j', u.jobs = [(id, j')] ∧ j'.state = .held ∧ j'.remoteWait = true ∧ j'.toHeld = false ∧ j'.tick = j.tick
                  ∧ j'.committedTicks = j.committedTicks))
  ∧ ∀ (t p : Nat) (l : Fin 128) (s : State), let z := (s.at t).settled
    z.phys? l.val = some p →
    (z.hungNow p = false → exec (.hungTimeout t l) s = .next z)
    ∧ ∀ q, z.hungNow p = true → z.regb 0x0A0040 29 = false → z.flt.hungAt = none →
        (∀ e ∈ z.spans, e.2.strikes = []) → z.flt.fenceAsked = [] → z.flt.ctrlSpan = none → z.flt.basicAsked = none →
        z.mapEntry p = { status := .active, logical := some l.val } → nearest p (z.spansIn .spare) = some q →
        ∃ u, exec (.hungTimeout t l) s = .next u ∧ u.tick.broken = some .span ∧ u.tick.active = false
          ∧ u.mapEntry p = { status := .fenced, logical := none } ∧ u.mapEntry q = { status := .active, logical := some l.val }
          ∧ (∀ k, k ≠ p → k ≠ q → u.mapEntry k = z.mapEntry k) ∧ kfind? u.binding l.val = some q
          ∧ (∀ k, k ≠ l.val → kfind? u.binding k = kfind? z.binding k) ∧ u.flt.hungAt = some (l.val, p) ∧ u.flt.fenceAsked = []
          ∧ u.mem = z.mem ∧ u.requests = z.requests ∧ u.jobs = z.jobs

/-! ### Span instructions (chapter 9). Each clause: an instruction that can issue acts on the issued state `z` of `Issued`, which
frames everything but the span's own sequencer, trace and counters. -/

/-- R264, R267, R273: NOP only advances; BASE adds to B; CSET sets its counter; a WAIT whose condition holds issues, and takes its
value from a consuming counter (R265: the counter shows a change of a cycle from the next one on; a set or a difference stands,
and a sum above 2^20 − 1 is a program fault); END after a phase JOINT ends the phase's program at its place; JOINT stands at the
joint it names, indexed by J, and is what R273 asks of an END. -/
def Obligations.SequencerInstructionsAct : Prop :=
  (∀ (s0 : State) (i : Issue) (p : Nat) (ix : Ix), let s := s0.toCyc i.cyc
    (s.span p).seq.pc < 4095 →
    (Issuable s i (.nop (bareOf i)) .seq WaitGroup.none p ix → ∃ z, Issued s i WaitGroup.none p z ∧ exec (.nop i) s0 = .next z)
    ∧ (∀ add, Issuable s i (.base (bareOf i) add) .seq WaitGroup.none p ix → ∃ z, Issued s i WaitGroup.none p z ∧ exec (.base i add) s0
        = .next (z.setSpan p { z.span p with seq := { (z.span p).seq with base := (s.span p).seq.base + add.toNat } }))
    ∧ (∀ ctr value, Issuable s i (.cset (bareOf i) ctr value) .seq WaitGroup.none p ix → ∃ z, Issued s i WaitGroup.none p z
        ∧ exec (.cset i ctr value) s0 = .next (z.setSpan p { z.span p with seq := { (z.span p).seq with
            ctrOps := (z.span p).seq.ctrOps ++ [{ cyc := i.cyc, ctr := ctr.toNat, what := .set, n := value.toNat }] } }))
    ∧ (∀ (w : WaitGroup) kind remote, Issuable s i (.wait (bareOf i) w kind remote) .seq { w with en := false } p ix →
        (s.span p).waitHold w = none → (s.span p).kindMet kind.toNat i.cyc = true →
        ∃ z, Issued s i { w with en := false } p z
          ∧ (w.en = false ∨ w.cons = false → exec (.wait i w kind remote) s0 = .next z)
          ∧ (w.en = true → w.cons = true → exec (.wait i w kind remote) s0 = .next (z.setSpan p { z.span p with
              seq := { (z.span p).seq with ctrOps := (z.span p).seq.ctrOps
                ++ [{ cyc := i.cyc, ctr := w.ctr.toNat, what := .sub, n := w.val.toNat }] } })))
    ∧ (Issuable s i (.endProgram (bareOf i)) .seq WaitGroup.none p ix → ∃ z, Issued s i WaitGroup.none p z
        ∧ ((s.span p).seq.lastPhaseJoint = true → exec (.endProgram i) s0 = .next (z.setSpan p { z.span p with
            seq := { (z.span p).seq with ended := true, pc := (s.span p).seq.pc } }))
        ∧ ((s.span p).seq.lastPhaseJoint = false → exec (.endProgram i) s0
            = .next ((z.faultAt (s.ctxOf i p ix) 0x01).pastEnd (s.ctxOf i p ix))))
    ∧ ∀ phase j, Issuable s i (.joint (bareOf i) phase j) .seq WaitGroup.none p ix → ∃ z, Issued s i WaitGroup.none p z
        ∧ exec (.joint i phase j) s0 = .next (z.setSpan p { z.span p with seq := { (z.span p).seq with
            jointAt := some ((j.toNat + ix.j) % 65536), lastPhaseJoint := phase, waitFrom := some i.cyc } }))
  ∧ ∀ (l p : Nat) (o : CtrOp) (s : State), let q := (s.span p).seq
    let becomes (v : Nat) : State := s.setSpan p { s.span p with seq := { q with arrive := kset 0 q.arrive o.ctr v } }
    (o.what = .set → s.applyCtr l p o = becomes o.n) ∧ (o.what = .sub → s.applyCtr l p o = becomes (q.ctr o.ctr - o.n))
      ∧ (o.what = .add → q.ctr o.ctr + o.n ≤ 0xFFFFF → s.applyCtr l p o = becomes (q.ctr o.ctr + o.n))
      ∧ (o.what = .add → 0xFFFFF < q.ctr o.ctr + o.n → s.applyCtr l p o = s.progFault l p 0x05 q.pc)

/-- R269, R270, R271: a LOOP at the next level opens a frame that runs its body COUNT times (at least once), with B as it stood; a
dynamic one takes its count from its counter, and its planned passes from CAP_BASE of the current layer, and with nothing counted it
skips its body with B advanced by PERIOD for every planned pass. ENDL starts the next pass at the body with B advanced by PERIOD, or,
after the last, closes the loop with B advanced by PERIOD for every planned pass. A level out of nesting is a program fault, and so is
a dynamic loop without a layer. -/
def Obligations.LoopsRunTheirCount : Prop :=
  ∀ (s0 : State) (i : Issue) (p : Nat) (ix : Ix), let s := s0.toCyc i.cyc
    (s.span p).seq.pc < 4095 →
    (∀ a : LoopArgs, Issuable s i (.loop (bareOf i) a) .seq WaitGroup.none p ix →
      let per := a.countM1.toNat + 1
      let iters := if a.dyn then cdiv ((s.span p).seq.ctr a.dctr.toNat) per else per
      let nPlan := if a.dyn then cdiv (((s.layer? p).map (·.capBase)).getD 0) per else per
      ∃ z, Issued s i WaitGroup.none p z
      ∧ (a.level.toNat = (s.span p).seq.loops.length + 1 → (a.dyn = true → (s.layer? p).isSome) → 0 < iters →
          exec (.loop i a) s0 = .next (z.setSpan p
          { z.span p with seq := { (z.span p).seq with loops :=
            { level := a.level.toNat, index := 0, iters := iters, nPlan := nPlan,
              bodyPc := (s.span p).seq.pc + 1, baseL := (s.span p).seq.base, period := a.period.toNat,
              dStride := a.dStride.toNat, gStride := a.gStride.toNat, lStride := a.lStride.toNat, rlog2 := a.rlog2.toNat,
              jStride := a.jStride.toNat, dyn := a.dyn } :: (s.span p).seq.loops } }))
      ∧ (a.level.toNat = (s.span p).seq.loops.length + 1 → a.dyn = true → (s.layer? p).isSome → iters = 0 →
          exec (.loop i a) s0 = .next ((z.setSpan p { z.span p with seq := { (z.span p).seq with
            pc := (s.span p).seq.afterEndl ((s.span p).seq.pc + 1) a.level.toNat
            base := (s.span p).seq.base + nPlan * a.period.toNat } }).pastEnd (s.ctxOf i p ix)))
      ∧ (a.level.toNat = (s.span p).seq.loops.length + 1 → a.dyn = true → s.layer? p = none →
          exec (.loop i a) s0 = .next ((z.faultAt (s.ctxOf i p ix) 0x0A).pastEnd (s.ctxOf i p ix)))
      ∧ (a.level.toNat ≠ (s.span p).seq.loops.length + 1 → exec (.loop i a) s0
          = .next ((z.faultAt (s.ctxOf i p ix) 0x02).pastEnd (s.ctxOf i p ix))))
    ∧ ∀ (level : BitVec 2) (f : LoopFrame) (rest : List LoopFrame), Issuable s i (.endl (bareOf i) level) .seq WaitGroup.none p ix →
      (s.span p).seq.loops = f :: rest → ∃ z, Issued s i WaitGroup.none p z
      ∧ (f.level = level.toNat → f.index + 1 < f.iters → f.bodyPc ≤ 4095 → exec (.endl i level) s0 = .next (z.setSpan p
          { z.span p with seq := { (z.span p).seq with
          pc := f.bodyPc, base := f.baseL + (f.index + 1) * f.period, loops := { f with index := f.index + 1 } :: rest } }))
      ∧ (f.level = level.toNat → f.iters ≤ f.index + 1 → exec (.endl i level) s0 = .next (z.setSpan p
          { z.span p with seq := { (z.span p).seq with base := f.baseL + f.nPlan * f.period, loops := rest } }))
      ∧ (f.level ≠ level.toNat → exec (.endl i level) s0 = .next ((z.faultAt (s.ctxOf i p ix) 0x02).pastEnd (s.ctxOf i p ix)))

/-- R275, R276, R277, R339: BLIST takes the sequence list from the 16-bit entries at its granules, as many as COUNT or, with
FROMCTR, its counter says, which it then sets to zero; RECV opens its window, with a landing of the window's own LID when it is
REMOTE, and with LEN 0 only closes it; TMARK writes a MARK record and changes no more of the program than its place. What a deck
store's code and port make of an instruction's accesses is counted, and a granule that cannot be corrected raises a data fault. -/
def Obligations.ListsWindowsAndMarks : Prop :=
  (∀ (s0 : State) (i : Issue) (p : Nat) (ix : Ix), let s := s0.toCyc i.cyc
    (s.span p).seq.pc < 4095 →
    (∀ (w : WaitGroup) (lbase : BitVec 17) (count : BitVec 13) (fromCtr : Bool) (deck : DeckUse) (gs : List Nat),
      Issuable s i (.blist (bareOf i) w lbase count fromCtr .clean) .seq w p ix →
      let n := if fromCtr then (s.span p).seq.ctr w.ctr.toNat else count.toNat
      ix.addrs lbase.toNat (cdiv n 16) = some gs →
      ∃ z cs, Issued s i w p z ∧ exec (.blist i w lbase count fromCtr deck) s0 = .next (((z.setSpan p { z.span p with
        counters := cs
        seq := { (z.span p).seq with
          blist := some (((entries16 (gs.map (s.span p).granule)).take n).map (fun x => x % 4096))
          ctrOps := (z.span p).seq.ctrOps ++ (if fromCtr then
            [{ cyc := i.cyc, ctr := w.ctr.toNat, what := .set, n := 0 }] else []) } }).deckUse i.l.val p deck).pastEnd (s.ctxOf i p ix)))
    ∧ (∀ (win : BitVec 2) (base len : BitVec 17) (remote : Bool), Issuable s i (.recv (bareOf i) win base len remote) .seq WaitGroup.none p ix →
      (len ≠ 0 → base.toNat + len.toNat ≤ 131072) →
      ∃ u, exec (.recv i win base len remote) s0 = .next u ∧ u.mem = s.mem ∧ (∀ k, k ≠ p → u.span k = s.span k)
        ∧ (u.span p).deck = (s.span p).deck ∧ (u.span p).seq.pc = (s.span p).seq.pc + 1
        ∧ (len = 0 → (u.span p).seq.windows = kdel (s.span p).seq.windows win.toNat
            ∧ u.landings = kdel s.landings (winLid i.l.val win.toNat))
        ∧ (len ≠ 0 → (u.span p).seq.windows = kins (kdel (s.span p).seq.windows win.toNat) win.toNat
              { base := base.toNat, len := len.toNat, remote := remote }
            ∧ (remote = false → u.landings = kdel s.landings (winLid i.l.val win.toNat))
            ∧ (remote = true → ∃ g, kfind? u.landings (winLid i.l.val win.toNat) = some g ∧ g.kind = .deck ∧ g.base = i.l.val
                ∧ g.first = base.toNat ∧ g.len = 32 * len.toNat ∧ g.write = true ∧ g.read = false)))
    ∧ ∀ (mark : BitVec 16), Issuable s i (.tmark (bareOf i) mark) .seq WaitGroup.none p ix → s.regf 0x0A0034 0 16 ≠ mark.toNat →
      ∃ z u, Issued s i WaitGroup.none p z ∧ exec (.tmark i mark) s0 = .next u ∧ (u.span p).seq = (z.span p).seq
        ∧ u = { z with spans := u.spans } ∧ (∀ k, k ≠ p → u.span k = s.span k) ∧ (u.span p).deck = (s.span p).deck
        ∧ (u.span p).lines = (s.span p).lines)
  ∧ ∀ (l p : Nat) (u : DeckUse) (s : State), ∃ cs, let z := s.setSpan p { s.span p with
        counters := cs, conflict := (s.span p).conflict || decide (0 < u.waited) }
      (u.poisoned = 0 → s.deckUse l p u = z) ∧ (u.poisoned ≠ 0 → s.deckUse l p u = z.dataFault l p 0)

/-- R94, R278, R279, R281, R282: LAYER makes its descriptor the current layer and asks for its context; TLOAD decodes one tile set
into the idle buffers, which become the ones the next run reads, and counts its granules against FCTR only when it is done (R94:
poison in the set is decoded as zero tiles and reported); PGATE lets a predicted layer run; AZERO zeroes its lines and holds the
cells for a cycle per 16 lines. -/
def Obligations.CellInstructionsAct : Prop :=
  ∀ (s0 : State) (i : Issue) (p : Nat) (ix : Ix), let s := s0.toCyc i.cyc
    (s.span p).seq.pc < 4095 →
    (∀ (desc : BitVec 12) (d : Desc), Issuable s i (.layer (bareOf i) desc) .cells WaitGroup.none p ix →
      s.desc? (desc.toNat + ix.d) = some d → ∃ z, Issued s i WaitGroup.none p z ∧ exec (.layer i desc) s0
        = .next (z.setSpan p (Span.askCtx s.fixed s.tick.plan (desc.toNat + ix.d) d i.cyc { z.span p with
            cells := { (s.span p).cells with layer := some (desc.toNat + ix.d), layerSeq := (s.span p).cells.layerSeq + 1,
                                             gated := false, decoded := [], running := [(i.cyc, 0, 0)], busyUntil := i.cyc + 1,
                                             overBusy := none } })))
    ∧ (∀ (w : WaitGroup) (src : BitVec 17) (tset : BitVec 15) (fen : Bool) (fctr : BitVec 5) (deck : DeckUse) (d : Desc) (di : Nat)
        (gs : List Nat), Issuable s i (.tload (bareOf i) w src tset fen fctr .clean) .decoder w p ix →
      bufferRead (s.ctxOf i p ix) s = none → s.layer? p = some d → (s.span p).cells.layer = some di →
      let n := tset.toNat + ix.d
      let t := d.placeOf n
      (s.span p).setGranules ix src.toNat t = some gs → t.cells ≠ [] →
      let r := (s.span p).decodeSet gs t
      ∃ z x, Issued s i w p z ∧ (let y := z.setSpan p x
          let v : State := if r.poisoned = 0 then y
            else if gs.any (fun g => (s.span p).flitPoison.contains g) then y.flitFault i.l.val p else y.weightPoison i.l.val p d n
          exec (.tload i w src tset fen fctr deck) s0 = .next ((v.deckUse i.l.val p deck).pastEnd (s.ctxOf i p ix)))
        ∧ x.seq = (z.span p).seq ∧ x.deck = (s.span p).deck ∧ x.lines = (s.span p).lines ∧ x.abt = (s.span p).abt
        ∧ x.cells = { (s.span p).cells with
            nextBuf := 1 - (s.span p).cells.nextBuf
            decoded := kins (s.span p).cells.decoded n gs
            bufs := (kins (s.span p).cells.bufs (s.span p).cells.nextBuf
              { desc := di, tset := n, src := src.toNat, tiles := r.tiles,
                doneAt := i.cyc + 4 * t.cells.length + deckDelay deck, done := false, readUntil := 0,
                fctr := if fen then some (fctr.toNat, gs.length) else none, poisoned := decide (0 < r.poisoned) }) })
    ∧ (∀ (w : WaitGroup) (d : Desc), Issuable s i (.pgate (bareOf i) w) .cells w p ix → s.layer? p = some d →
      ∃ z, Issued s i w p z
        ∧ (d.predEn = true → s.fixed = false → exec (.pgate i w) s0 = .next (z.setSpan p { z.span p with
            cells := { (s.span p).cells with gated := true, busyUntil := i.cyc + 1, overBusy := none } }))
        ∧ (d.predEn = false ∨ s.fixed = true → exec (.pgate i w) s0
            = .next ((z.faultAt (s.ctxOf i p ix) 0x06).pastEnd (s.ctxOf i p ix))))
    ∧ ∀ (line0 : BitVec 12) (nlines : BitVec 13) (d : Desc), Issuable s i (.azero (bareOf i) line0 nlines) .cells WaitGroup.none p ix →
      s.layer? p = some d → line0.toNat + ix.l + nlines.toNat ≤ 4096 → ∃ z, Issued s i WaitGroup.none p z
        ∧ exec (.azero i line0 nlines) s0 = .next (z.setSpan p { z.span p with
            lines := (s.span p).lines.filter (fun e => !(decide (line0.toNat + ix.l ≤ e.1)
              && decide (e.1 < line0.toNat + ix.l + nlines.toNat)))
            cells := { (s.span p).cells with
              busyUntil := i.cyc + cdiv nlines.toNat 16, overBusy := none
              zeroing := some (line0.toNat + ix.l, nlines.toNat, i.cyc + cdiv nlines.toNat 16) } })

/-- R72 to R74, R80, R85, R94, R280: PRUN, LRUN and TRUN, each on a layer of its own CMODE that PGATE has released where it is
predicted, run one pass over the positions of their list: the feed of each position goes through the tile set in the buffers,
and the additions of all positions are on their way to the lines. A list that is at its end makes the cells busy for a cycle. The
wrong CMODE, a predicted layer without its PGATE, a batch slot that does not exist, a line or a granule out of range are program
faults. -/
def Obligations.RunsFeedTheirPositions : Prop :=
  ∀ (s0 : State) (i : Issue) (w : WaitGroup) (a : RunArgs) (deck : DeckUse) (p : Nat) (ix : Ix) (m : Nat) (x b : Instr)
    (d : Desc),
    (m = 0 ∧ x = .prun i w a deck ∧ b = .prun (bareOf i) w a .clean)
      ∨ (m = 1 ∧ x = .lrun i w a deck ∧ b = .lrun (bareOf i) w a .clean)
      ∨ (m = 2 ∧ x = .trun i w a deck ∧ b = .trun (bareOf i) w a .clean) →
    let s := s0.toCyc i.cyc
    let c := s.ctxOf i p ix
    Issuable s i b .cells w p ix → runHazards a c s = none → s.layer? p = some d →
    ∃ z, Issued s i w p z
      ∧ (d.cmode ≠ m → exec x s0 = .next ((z.faultAt c 0x06).pastEnd c))
      ∧ (d.cmode = m → s.predicted d = true → (s.span p).cells.gated = false → exec x s0 = .next ((z.faultAt c 0x07).pastEnd c))
      ∧ ∀ (r : RunCtx), d.cmode = m → (s.predicted d = false ∨ (s.span p).cells.gated = true) → s.runCtx? a c = some r →
        (r.ks = [] → exec x s0 = .next ((z.setSpan p { z.span p with cells := { (s.span p).cells with
            busyUntil := i.cyc + 1, overBusy := none } }).pastEnd c))
        ∧ (r.ks ≠ [] → s.badList p r.ks = true → exec x s0 = .next ((z.faultAt c 0x0B).pastEnd c))
        ∧ (r.ks ≠ [] → s.badList p r.ks = false → (∃ ln ∈ r.lines, 4095 < ln) → exec x s0 = .next ((z.faultAt c 0x04).pastEnd c))
        ∧ (r.ks ≠ [] → s.badList p r.ks = false → (∀ ln ∈ r.lines, ln ≤ 4095) →
          ((s.span p).runFeeds r ix a = none → exec x s0 = .next ((z.faultAt c 0x03).pastEnd c))
          ∧ ∀ fs, (s.span p).runFeeds r ix a = some fs →
            let y := if s.predicted d then r.ks.foldl (fun (x : Span) (k : Nat) =>
              x.enterPair ix a d r.seq0 r.ks.length r.t.v k) (z.span p) else z.span p
            let fix := if m = 1 then 4 else 0
            let q := (z.setSpan p y).seqRuns c r (s.predicted d) (i.cyc + fix) fs
            exec x s0 = .next ((((q.2.setSpan p ((q.2.span p).issueRun r q.1 i.cyc fix (deckDelay deck))).deckUse i.l.val p
              deck).checkPoison i.l.val p (q.1.flatMap (·.granules))).pastEnd c))

/-- R87, R90, R280: what a run leaves of its span. Its additions join those in flight, the cells are busy for at least a cycle, and
they run the tile set; nothing of the deck store, the lines, the abutment, the streams and the program changes. The sequences of a run
change no more of the state than the counts of its banks' entries, what a lost entry costs its sequence, and what a refused cost
leaves. -/
def Obligations.RunsOnlyAddToLines : Prop :=
  (∀ (r : RunCtx) (qs : List SeqRun) (cyc fix delay : Nat) (x : Span), let y := x.issueRun r qs cyc fix delay
    y.cells.inflight = x.cells.inflight ++ qs.flatMap (·.adds) ∧ cyc < y.cells.busyUntil ∧ y.cells.running = [(cyc, r.tset, r.t.e)]
      ∧ cyc + fix + (qs.map (·.cycles)).sum + delay ≤ y.cells.busyUntil
      ∧ y.deck = x.deck ∧ y.poison = x.poison ∧ y.lines = x.lines ∧ y.abt = x.abt ∧ y.streams = x.streams ∧ y.seq = x.seq
      ∧ y.queues = x.queues ∧ y.cells.layer = x.cells.layer ∧ y.cells.pairs.map (·.pos) = x.cells.pairs.map (·.pos))
  ∧ ∀ (c : Ctx) (r : RunCtx) (predicted : Bool) (at_ : Nat) (fs : List RunFeed) (s : State),
    let u := (s.seqRuns c r predicted at_ fs).2
    (s.seqRuns c r predicted at_ fs).1.map (·.pos) = fs.map (·.1)
      ∧ (∀ k, (u.span k).deck = (s.span k).deck ∧ (u.span k).lines = (s.span k).lines ∧ (u.span k).abt = (s.span k).abt
        ∧ (u.span k).streams = (s.span k).streams ∧ (u.span k).seq = (s.span k).seq
        ∧ (u.span k).cells.inflight = (s.span k).cells.inflight)
      ∧ u.mem = s.mem ∧ u.requests = s.requests ∧ u.jobs = s.jobs ∧ u.binding = s.binding ∧ u.out = s.out

/-- R99, R112, R115, R157, R182, R183, R283, R284: MKUP, CONV and KVAPP act on the issued state once their unit is free and none of
their hazards holds them. MKUP without a flagged pair only passes; else the groups of its flagged pairs are made up in turn, and the
cells are busy for what that has cost. CONV and KVAPP read their lines, which are then no longer pending, and convert each layer's
lines; a tag that is not that of a loaded context is a data fault. A line of a layer of LNS16 output without a reduction becomes one
granule, which the deck store is asked for in the cycle that Table 9.8 gives, and which raises RCTR as it lands; a line of a key-value
layer becomes a group of its sequence's cache, which waits for its acknowledgement. -/
def Obligations.ReducingInstructionsAct : Prop :=
  (∀ (s0 : State) (i : Issue) (w : WaitGroup) (a : RunArgs) (deck : DeckUse) (p : Nat) (ix : Ix) (d : Desc) (di : Nat),
    let s := s0.toCyc i.cyc
    let c := s.ctxOf i p ix
    Issuable s i (.mkup (bareOf i) w a .clean) .cells w p ix → mkupHazard a c s = none → s.layer? p = some d →
    (s.span p).cells.layer = some di →
    let seq0 := a.seq0.toNat + ix.l
    let ks := s.positions p seq0 a.nseq.toNat
    let mine := (s.span p).cells.pairs.filter (fun q => decide (q.run = (s.span p).cells.layerSeq) && ks.contains q.pos && q.checked
      && !q.made && !q.flagged.isEmpty)
    let m0 := kget 0 (s.span p).cells.makeupSpent di
    let delay := deckDelay deck
    let spent (m : Nat) (x : Span) : Span := { x with cells := { x.cells with
      makeupSpent := kset 0 (s.span p).cells.makeupSpent di m, busyUntil := i.cyc + max 1 (m - m0) + delay,
      overBusy := if d.makeupPlan < m then some .makeup else if 0 < delay then some .mem else none } }
    s.badList p ks = false → ∃ z, Issued s i w p z
      ∧ (let y := z.setSpan p { z.span p with cells := { (s.span p).cells with running := (s.span p).cells.running.take 1 } }
         (mine = [] → exec (.mkup i w a deck) s0 = .next (((y.modSpan p (spent m0)).deckUse i.l.val p deck).pastEnd c))
         ∧ ∀ ps, mine.mapM (s.makePair c a d seq0) = some ps →
            let r := y.makeGroups c { d := d, di := di, t := d.placeOf 0, tset := 0, tiles := [], seq0 := seq0, ks := ks, owner := 0 } ps m0
            exec (.mkup i w a deck) s0 = .next ((((r.1.modSpan p (spent r.2.1)).deckUse i.l.val p deck).checkPoison i.l.val p
              r.2.2).pastEnd c)))
  ∧ (∀ (r : RunCtx) (at_ debit : Nat) (q : MakePair) (passes : List MakePass) (x : Span), let y := x.makeUp r at_ debit q passes
    y.cells.inflight = x.cells.inflight ++ (r.makeSeq at_ q.q passes q.feeds).1
      ∧ (∀ e ∈ y.cells.pairs, e.run = q.q.run → e.pos = q.q.pos → e.v = q.q.v → e.made = true)
      ∧ y.deck = x.deck ∧ y.lines = x.lines ∧ y.abt = x.abt ∧ y.seq = x.seq ∧ y.streams = x.streams)
  ∧ ∀ (s0 : State) (i : Issue) (w : WaitGroup) (deck : DeckUse) (p : Nat) (ix : Ix) (x b : Instr) (a : ConvArgs),
    ((∃ (line0 : BitVec 12) (nlines : BitVec 13) (dst : BitVec 17) (dspan : BitVec 8) (rctr : BitVec 5) (seq0 : BitVec 12),
        x = .conv i w line0 nlines dst dspan rctr seq0 deck ∧ b = .conv (bareOf i) w line0 nlines dst dspan rctr seq0 .clean
          ∧ a = { line0 := line0.toNat, nlines := nlines.toNat, seq0 := seq0.toNat, dst := dst.toNat, dspan := dspan.toNat,
                  rctr := rctr.toNat, kv := none })
      ∨ ∃ (line0 : BitVec 12) (nlines : BitVec 13) (seq0 : BitVec 12) (nspan : BitVec 8) (nctr : BitVec 5),
        x = .kvapp i w line0 nlines seq0 nspan nctr deck ∧ b = .kvapp (bareOf i) w line0 nlines seq0 nspan nctr .clean
          ∧ a = { line0 := line0.toNat, nlines := nlines.toNat, seq0 := seq0.toNat, dst := 0, dspan := 0, rctr := 0,
                  kv := some (nspan.toNat, nctr.toNat) }) →
    let s := s0.toCyc i.cyc
    let c := s.ctxOf i p ix
    let delay := deckDelay deck
    let seq0 := a.seq0 + ix.l
    let ns := (List.range a.nlines).map (fun k => a.line0 + k)
    Issuable s i b .abutment w p ix → landingHold a.line0 a.nlines c s = none → a.line0 + a.nlines ≤ 4096 →
    s.badList p ((ns.filterMap (fun n => (s.takeLine c seq0 n).map (fun r => r.2.1.pos))).eraseDups) = false →
    (∃ z, Issued s i w p z ∧
      let r := z.readLines c seq0 ns
      let y := r.2.deckUse i.l.val p deck
      let ds := (r.1.lines.map (fun e => (e.di, e.ctx))).eraseDups
      (r.1.failed = true → exec x s0 = .next ((y.dataFault i.l.val p 0).pastEnd c))
      ∧ (r.1.failed = false → (∀ e ∈ ds, ∃ d, y.abtDesc? p e.2 e.1 = some d ∧ modeOk a.kv.isSome d = true) →
          exec x s0 = .next ((ds.foldl (fun (s : State) (e : Nat × Nat) => match s.abtDesc? p e.2 e.1 with
            | none => s
            | some d => s.startConv c d (a.work c delay e.1 e.2 r.1)) (y.modSpan p (fun x => { x with abt := { x.abt with
                busyUntil := i.cyc + a.nlines + delay, overBusy := if 0 < delay then some .mem else none } }))).pastEnd c)))
    -- One line of a layer without a reduction, with no poison in the deck store.
    ∧ ∀ (di : Nat) (cl : ConvLine) (n : ConvCount) (reads : List Nat) (d : Desc), a.nlines = 1 → deck.poisoned = 0 →
      (s.span p).poison = [] → (s.span p).flitPoison = [] → s.takeLine c seq0 a.line0 = some (di, cl, n, reads) →
      let ln := kget Line.zero (s.span p).lines a.line0
      let stall := cdiv n.steer 4 - 1
      let out := ((s.span p).lineOut d none { cl with idx := stall }).1
      let wk : ConvWork := { a.work c delay di (tagCtx ln.tag) { lines := [], held := stall, failed := false } with
        base := i.cyc + delay }
      (s.span p).tagOk ln.tag = true → s.abtDesc? p (tagCtx ln.tag) di = some d → d.sweeps = 1 → d.predOut = false →
      (d.resEn && d.resOut) = false → s.pair = false →
      (∀ g, d.outKind = 1 → a.kv = none → s.destSpans i.l.val d a.dspan = [i.l.val] → s.phys? i.l.val = some p →
        wk.addr (wk.seqOff d cl.pos + cl.row16) = some g →
        ∃ u, exec x s0 = .next u ∧ kget Line.zero (u.span p).lines a.line0 = { ln with pending := false }
          ∧ (∀ k, k ≠ a.line0 → kget Line.zero (u.span p).lines k = kget Line.zero (s.span p).lines k)
          ∧ (u.span p).puts = (s.span p).puts ++ [DeckPut.clean (wk.landAt stall) .abutment i.l.val g
              (BitVec.ofNat 256 ((out.vals.map toLns16).zipIdx.map (fun e => e.1.1.toNat * 2 ^ (16 * e.2))).sum) (.ctr a.rctr 1)]
          ∧ (u.span p).deck = (s.span p).deck ∧ (u.span p).abt.busyUntil = max (i.cyc + 1 + delay) (i.cyc + delay + 1 + stall)
          ∧ (∀ k, k ≠ p → u.span k = s.span k) ∧ u.mem = s.mem ∧ u.requests = s.requests ∧ u.tick = s.tick)
      ∧ ∀ (to_ : Nat × Nat) (sl : Slot) (q : Request) (pos : Nat) (offs : List Nat), d.outKind = 2 → a.kv = some to_ →
        s.tick.slots[cl.slot]? = some sl → s.posOf d cl = some pos → kfind? s.requests sl.handle = some q →
        (let pl := d.kvPlace cl.kind ((s.sliceOf d i.l.val).1 * d.rows16 + cl.row16)
         s.kvGroup d q pos pl.1 pl.2.1 pl.2.2 = some offs) →
        ∃ u, exec x s0 = .next u ∧ kget Line.zero (u.span p).lines a.line0 = { ln with pending := false }
          ∧ (u.span p).abt.kvAcks = (s.span p).abt.kvAcks ++ [
              { cyc := wk.landAt stall, spans := s.destSpans i.l.val d to_.1, ctr := to_.2
                bytes := offs.zip (kv4Encode d.kvBase ((codesOf out.vals).1.map lnsOf)).1 }]
          ∧ (u.span p).deck = (s.span p).deck ∧ (u.span p).puts = (s.span p).puts
          ∧ (∀ k, k ≠ p → u.span k = s.span k) ∧ u.mem = s.mem ∧ u.requests = s.requests ∧ u.tick = s.tick

/-- R114, R146, R147, R207, R217, R285, R286, R287: TBLLD loads a nonlinearity slot from 257 granules. ATTN begins an attention
over the assignment entries of its list, whose key-value granules the lanes take from the ring from the next cycle on, for the
time that C_att gives. AMUL multiplies pairs of granules value by value and sends the products to its lines, AROT does so for
vectors rotated by their positions. ARANK ranks the routes of its tokens and sends the grants to the spans that run the experts;
ASAMP draws the tokens due of the batch slots that its list names and asks the deck store for the tokens. Each holds its unit for
its cycles; what is out of range is a program fault. -/
def Obligations.TableLoadAndLaneArithmetic : Prop :=
  ∀ (s0 : State) (i : Issue) (p : Nat) (ix : Ix), let s := s0.toCyc i.cyc
    (s.span p).seq.pc < 4095 →
    let c := s.ctxOf i p ix
    let x := s.span p
    (∀ (slot : BitVec 3) (src : BitVec 17) (deck : DeckUse) (gs : List Nat),
      Issuable s i (.tblld (bareOf i) slot src .clean) .abutment WaitGroup.none p ix →
      slotHazard slot.toNat c s = none → ix.addrs src.toNat 257 = some gs →
      ∃ z cs, Issued s i WaitGroup.none p z ∧ exec (.tblld i slot src deck) s0
        = .next ((((z.setSpan p { z.span p with
            counters := cs
            abt := { x.abt with
              nlt := (kins x.abt.nlt slot.toNat (gs.map x.granule)), nltAt := (kins x.abt.nltAt slot.toNat gs)
              busyUntil := i.cyc + 257 + deckDelay deck
              overBusy := if 0 < deckDelay deck then some .mem else none } }).deckUse i.l.val p deck).checkPoison i.l.val p gs).pastEnd c))
    ∧ (∀ (w : WaitGroup) (abase bbase : BitVec 17) (line0 : BitVec 12) (nlines : BitVec 13) (deck : DeckUse) (d : Desc) (di : Nat)
        (as bs : List Nat), Issuable s i (.amul (bareOf i) w abase bbase line0 nlines .clean) .arch w p ix →
      archHeld (line0.toNat + ix.l) nlines.toNat c s = none → s.layer? p = some d →
      x.cells.layer = some di → line0.toNat + ix.l + nlines.toNat ≤ 4096 →
      ix.addrs abase.toNat nlines.toNat = some as → ix.addrs bbase.toNat nlines.toNat = some bs →
      let free := i.cyc + cdiv nlines.toNat 128 + deckDelay deck
      ∃ z cs, Issued s i w p z ∧ exec (.amul i w abase bbase line0 nlines deck) s0 = .next ((((z.setSpan p { z.span p with
        counters := cs, archBusyUntil := free, archDoneAt := max x.archDoneAt (free + 12)
        archWaited := decide (0 < deckDelay deck)
        cells := { x.cells with inflight := x.cells.inflight ++ ((as.zip bs).zipIdx.map (fun e =>
          { land := free + 12, line := line0.toNat + ix.l + e.2
            terms := (List.range 16).map (fun k =>
              ((toLns16 (lmul (lnsAt (x.granule e.1.1) k) (lnsAt (x.granule e.1.2) k)).1).1.toNat : Int))
            tag := d.tag 2, unit := 0, rowGroup := 0, owner := archOwner x.cells.layerSeq i.cyc, desc := di
            keep := false, check := false })) } }).checkPoison i.l.val p (as ++ bs)).deckUse i.l.val p deck).pastEnd c))
    ∧ (∀ (w : WaitGroup) (src pbase : BitVec 17) (nvec : BitVec 13) (line0 : BitVec 12) (deck : DeckUse) (d : Desc) (di : Nat)
        (gs ps : List Nat), Issuable s i (.arot (bareOf i) w src pbase nvec line0 .clean) .arch w p ix →
      archHeld (line0.toNat + ix.l) (nvec.toNat * (d.dH / 16)) c s = none → s.layer? p = some d → x.cells.layer = some di →
      ix.addrs src.toNat (nvec.toNat * (d.dH / 16)) = some gs → ix.addrs pbase.toNat (cdiv nvec.toNat 8) = some ps →
      let free := i.cyc + cdiv (2 * nvec.toNat * d.dH) 2048 + deckDelay deck
      let vs := (List.range nvec.toNat).map (fun k => (((gs.drop (k * (d.dH / 16))).take (d.dH / 16)).map x.granule,
        bitsAt (x.granule (ps.getD (k / 8) 0)).toNat (32 * (k % 8)) 32))
      ∃ z, Issued s i w p z ∧
        let r := z.rotateAll d vs
        (line0.toNat + ix.l + r.1.length ≤ 4096 → ∃ cs, exec (.arot i w src pbase nvec line0 deck) s0
          = .next ((((r.2.2.setSpan p { r.2.2.span p with
            counters := cs, archBusyUntil := free, archDoneAt := max x.archDoneAt (free + 12)
            archWaited := decide (0 < deckDelay deck)
            cells := { x.cells with inflight := x.cells.inflight ++ r.1.zipIdx.map (fun e =>
              { land := free + 12, line := line0.toNat + ix.l + e.2, terms := e.1.map (fun v => (v.toNat : Int))
                tag := d.tag 2, unit := 0, rowGroup := 0, owner := archOwner x.cells.layerSeq i.cyc, desc := di
                keep := false, check := false }) } }).checkPoison i.l.val p (gs ++ ps)).deckUse i.l.val p deck).pastEnd c)))
    ∧ (∀ (w : WaitGroup) (lbase : BitVec 17) (nlist : BitVec 13) (kring : BitVec 17) (krlog2 kctr : BitVec 5) (line0 : BitVec 12)
        (deck : DeckUse) (d : Desc) (di : Nat) (es : List Assign) (gs : List Nat),
      Issuable s i (.attn (bareOf i) w lbase nlist kring krlog2 kctr line0 .clean) .arch w p ix →
      attnHold lbase.toNat nlist.toNat line0.toNat c s = none → s.layer? p = some d → x.cells.layer = some di →
      s.assigns? c lbase.toNat nlist.toNat = some (es, gs) →
      let a := s.attWork kring.toNat krlog2.toNat kctr.toNat line0.toNat (deckDelay deck) di d es c
      ∃ z cs, Issued s i w p z
        ∧ (d.attEn = false → exec (.attn i w lbase nlist kring krlog2 kctr line0 deck) s0 = .next ((z.faultAt c 0x06).pastEnd c))
        ∧ (d.attEn = true → (∀ e ∈ es, s.badAssign d e = false) → a.line0 + a.nlines ≤ 4096 →
            exec (.attn i w lbase nlist kring krlog2 kctr line0 deck) s0 = .next ((((z.setSpan p { z.span p with
              counters := cs, att := some a, attPlan := x.attPlan + a.unitTime + 40, archBusyUntil := i.cyc + a.unitTime + a.wait
              archWaited := decide (0 < a.wait)
              seq := { (z.span p).seq with ctrOps := (z.span p).seq.ctrOps ++
                [{ cyc := i.cyc, ctr := kctr.toNat, what := .sub, n := 0 }] } }).checkPoison i.l.val p gs).deckUse i.l.val p
              deck).pastEnd c)))
    ∧ ∀ (w : WaitGroup) (line0 : BitVec 12) (nseq : BitVec 13) (dst : BitVec 17) (d : Desc), s.layer? p = some d →
      lanesHazard line0.toNat nseq.toNat c s = none → line0.toNat + nseq.toNat * max 1 d.linesPerSeq ≤ 4096 →
      let ks := s.laneSeqs p nseq.toNat
      s.badList p ks = false →
      (∀ (rctr : BitVec 5) (di : Nat), Issuable s i (.arank (bareOf i) w line0 nseq dst rctr) .arch w p ix → x.cells.layer = some di →
        let tokens := x.routeTokens d line0.toNat (s.seqList p) ks
        let g := grantAll d s.fixed (s.fidelity && decide (0 < x.cells.viewSlip)) (tokens.map (fun t => (t.1, t.2.1)))
        let n := cdiv nseq.toNat 16 * (d.nExp + 2 * d.topK + 24)
        (ix.addrs dst.toNat (g.granules d.nExp)).isSome → ∃ z, Issued s i w p z ∧ exec (.arank i w line0 nseq dst rctr) s0
          = .next (((((z.inc 0x020518 ((tokens.map (fun t => t.2.2)).sum)).modSpan p (Span.archBusy i.cyc n 0)).countGrants g).sendGrants
              (i.cyc + n + 12) i.l.val di d (fun k => (ix.addr dst.toNat k).getD dst.toNat) rctr.toNat g).pastEnd c))
      ∧ ∀ (gs : List Nat), Issuable s i (.asamp (bareOf i) w line0 nseq dst) .arch w p ix →
        ix.addrs dst.toNat (cdiv ks.length 8) = some gs → ∃ z, Issued s i w p z ∧
          let r := z.sampleLines (z.span p) line0.toNat (max 1 d.linesPerSeq) (s.seqList p) ks
          let t := r.2.2.tokenWords r.1 ks
          exec (.asamp i w line0 nseq dst) s0 = .next (((t.2.askPuts i.l.val (gs.zipIdx.map (fun (g : Nat × Nat) =>
            DeckPut.clean (i.cyc + r.2.1 + 12) .arch i.l.val g.1 (BitVec.ofNat 256 (((List.range 8).map (fun k =>
              t.1.getD (8 * g.2 + k) 0 * 2 ^ (32 * k))).sum)) .nothing))).modSpan p (Span.archBusy i.cyc r.2.1 0)).pastEnd c)

/-- R288 to R290, R367: each stream instruction starts one stream in the lowest free slot, with what it reads, where it goes, and
whom it tells; one that moves nothing takes no slot; nothing of the deck store changes at its issue. What COPY moves is what its
sources hold as it begins. A place past the deck store, device memory or its extent, part of a spill range, a batch slot that does not
exist and a missing descriptor are program faults. -/
def Obligations.StreamInstructionsStartStreams : Prop :=
  (∀ (s0 : State) (i : Issue) (p : Nat) (ix : Ix), let s := s0.toCyc i.cyc
    (s.span p).seq.pc < 4095 →
    let c := s.ctxOf i p ix
    let x := s.span p
    let start (z : State) (v : Stream) : State := z.setSpan p ((z.span p).startStream v)
    let faults (z : State) (cause : Nat) : State := (z.faultAt c cause).pastEnd c
    (∀ (dst len : BitVec 17) (pattern : Word) (sctr : BitVec 5),
      Issuable s i (.fill (bareOf i) dst len pattern sctr) .stream WaitGroup.none p ix → ∃ z, Issued s i WaitGroup.none p z
        ∧ (ix.addrs dst.toNat len.toNat = none → exec (.fill i dst len pattern sctr) s0 = .next (faults z 0x03))
        ∧ ∀ ds, ix.addrs dst.toNat len.toNat = some ds → exec (.fill i dst len pattern sctr) s0 = .next (start z
            { Stream.new .fill ds ds sctr.toNat with since := i.cyc, pattern := pattern }))
    ∧ (∀ (src dst len : BitVec 17) (sctr : BitVec 5),
      Issuable s i (.copy (bareOf i) src dst len sctr) .stream WaitGroup.none p ix → ∃ z, Issued s i WaitGroup.none p z
        ∧ (ix.addrs src.toNat len.toNat = none ∨ ix.addrs dst.toNat len.toNat = none →
            exec (.copy i src dst len sctr) s0 = .next (faults z 0x03))
        ∧ ∀ ss ds, ix.addrs src.toNat len.toNat = some ss → ix.addrs dst.toNat len.toNat = some ds →
          exec (.copy i src dst len sctr) s0 = .next (start z
            { Stream.new .copy ss ds sctr.toNat with since := i.cyc, held := ss.map x.heldGranule }))
    ∧ (∀ (w : WaitGroup) (src : BitVec 17) (ngran : BitVec 13) (rbase : BitVec 17),
      Issuable s i (.scat (bareOf i) w src ngran rbase) .stream w p ix → ∃ z, Issued s i w p z
        ∧ (ix.addrs src.toNat ngran.toNat = none ∨ ix.addrs rbase.toNat (cdiv ngran.toNat 4) = none →
            exec (.scat i w src ngran rbase) s0 = .next (faults z 0x03))
        ∧ ∀ ss rs, ix.addrs src.toNat ngran.toNat = some ss → ix.addrs rbase.toNat (cdiv ngran.toNat 4) = some rs →
          exec (.scat i w src ngran rbase) s0 = .next (start z (Stream.new .scat ss rs 0)))
    ∧ (∀ (w : WaitGroup) (src len : BitVec 17) (dspan : BitVec 8) (dst : BitVec 17) (rctr sctr : BitVec 5),
      Issuable s i (.send (bareOf i) w src len dspan dst rctr sctr) .stream w p ix → ∃ z, Issued s i w p z
        ∧ (ix.addrs src.toNat len.toNat = none ∨ 131072 < dst.toNat + len.toNat →
            exec (.send i w src len dspan dst rctr sctr) s0 = .next (faults z 0x03))
        ∧ ∀ ss, ix.addrs src.toNat len.toNat = some ss → dst.toNat + len.toNat ≤ 131072 →
          (dspan = 0xFE → s.layer? p = none → exec (.send i w src len dspan dst rctr sctr) s0 = .next (faults z 0x0A))
          ∧ (dspan ≠ 0xFE ∨ (s.layer? p).isSome → exec (.send i w src len dspan dst rctr sctr) s0 = .next (start z
            { Stream.new .send ss ((List.range len.toNat).map (fun k => dst.toNat + k)) sctr.toNat with
                targets := s.destSpans i.l.val ((s.layer? p).getD []) dspan.toNat, rctr := rctr.toNat, needAck := true })))
    ∧ (∀ (raw : Bool) (desc : BitVec 12) (off : BitVec 20) (addr : Word) (len : BitVec 20) (dst : BitVec 17)
        (rlog2 sctr fctr : BitVec 5) (fen : Bool),
      Issuable s i (.mload (bareOf i) raw desc off addr len dst rlog2 sctr fctr fen) .stream WaitGroup.none p ix →
      let v (gs : List Nat) (places : Nat) : Stream :=
        { Stream.new .mload (gs.map (· + 1)) ((List.range gs.length).map (ringAt dst.toNat rlog2.toNat)) sctr.toNat with
            places := places, fen := if fen then some fctr.toNat else none }
      let x : Instr := .mload i raw desc off addr len dst rlog2 sctr fctr fen
      let a := 4096 * addr.toNat
      ∃ z, Issued s i WaitGroup.none p z
        ∧ (raw = true → 0x0FFFFFFF < addr.toNat ∨ 2 ^ 40 < a + 32 * len.toNat → exec x s0 = .next (faults z 0x03))
        ∧ (raw = true → addr.toNat ≤ 0x0FFFFFFF → a + 32 * len.toNat ≤ 2 ^ 40 →
            (s.spillOf a len.toNat = .none → exec x s0 = .next (start z (v (devGranules a len.toNat) 0)))
            ∧ (∀ g, s.spillOf a len.toNat = .places g → ∃ cs, exec x s0
                = .next (start { z with counters := cs } (v (devGranules a len.toNat) g)))
            ∧ (s.spillOf a len.toNat = .part → exec x s0 = .next (faults z 0x03)))
        ∧ (raw = false → s.desc? (desc.toNat + ix.d) = none → exec x s0 = .next (faults z 0x0A))
        ∧ ∀ d, raw = false → s.desc? (desc.toNat + ix.d) = some d →
          (s.extentPlaces d i.l.val off.toNat len.toNat = none → exec x s0 = .next (faults z 0x03))
          ∧ ∀ gs, s.extentPlaces d i.l.val off.toNat len.toNat = some gs →
            exec x s0 = .next (start (z.winAdd 256 8 (32 * gs.length)) (v gs 0)))
    ∧ ∀ (w : WaitGroup) (sspan : BitVec 8) (src : BitVec 17) (sstride : BitVec 12) (elen : BitVec 10) (dst : BitVec 17)
        (sctr : BitVec 5), Issuable s i (.gath (bareOf i) w sspan src sstride elen dst sctr) .stream w p ix →
      let list := s.seqList p
      let x : Instr := .gath i w sspan src sstride elen dst sctr
      ∃ z, Issued s i w p z
        ∧ ((∃ n ∈ list, s.tick.slots.length ≤ n) → exec x s0 = .next (faults z 0x0B))
        ∧ ((∀ n ∈ list, n < s.tick.slots.length) →
          ((∃ n ∈ list, ∃ k, k < elen.toNat ∧ 131072 ≤ src.toNat + n * sstride.toNat + k)
            ∨ ix.addrs dst.toNat (list.length * elen.toNat) = none → exec x s0 = .next (faults z 0x03))
          ∧ ∀ ds, (∀ n ∈ list, ∀ k, k < elen.toNat → src.toNat + n * sstride.toNat + k < 131072) →
            ix.addrs dst.toNat (list.length * elen.toNat) = some ds → exec x s0 = .next (start z
            { Stream.new .gath (list.flatMap (fun n => (List.range elen.toNat).map (fun k => src.toNat + n * sstride.toNat + k))) ds
                sctr.toNat with targets := [(s.destSpans i.l.val ((s.layer? p).getD []) sspan.toNat).headD i.l.val], places := elen.toNat })))
  ∧ ∀ (v : Stream) (x : Span), (v.srcs = [] → x.startStream v = x)
    ∧ (v.srcs ≠ [] → x.startStream v = { x with streams := kins x.streams x.freeSlot v })

/-- R288, R367, R477: MSTORE reads its granules and stores them at 4,096 times ADDR, plain or, where a range of the spill table
takes them, segment coded; a target outside the chip takes its WRITEs, whose acknowledgements the stream waits for. Exactly those
bytes of device memory change, to the granules' bytes where the stack is there. R159, R287: KVRD streams the key-value granules of
the pieces of its assignment entries, in their order, to its ring; a page that is missing reads as zeros, with one fault. A place
beyond Table 9.7's, part of a spill range, a target that is not there and a head or batch slot that does not exist are program
faults. -/
def Obligations.MemoryStoreAndKvRead : Prop :=
  (∀ (s0 : State) (i : Issue) (p : Nat) (ix : Ix), let s := s0.toCyc i.cyc
    (s.span p).seq.pc < 4095 →
    let c := s.ctxOf i p ix
    let x := s.span p
    let start (z : State) (cs : List (Nat × Counter)) (v : Stream) : State :=
      z.setSpan p ({ z.span p with counters := cs }.startStream v)
    let ends (z : State) (deck : DeckUse) (gs : List Nat) : State := (z.checkPoison i.l.val p gs).deckUse i.l.val p deck
    (∀ (addr : Word) (len : BitVec 20) (src : BitVec 17) (sctr : BitVec 5) (deck : DeckUse),
      Issuable s i (.mstore (bareOf i) addr len src sctr .clean) .stream WaitGroup.none p ix →
      let a := 4096 * addr.toNat
      let gs := (List.range len.toNat).map (fun k => src.toNat + k)
      let v := { Stream.new .mstore gs gs sctr.toNat with needAck := true }
      let t := s.remoteTarget (addr.toNat / 2 ^ 20 % 256)
      let ws := remoteWrites t (t.roff + 4096 * (addr.toNat % 2 ^ 20)) (gs.map x.granule)
      let there : Bool := t.valid && !t.pull && (!t.seg || decide (t.placeG ≠ 0 ∧ len.toNat % t.placeG = 0))
      ∃ z cs, Issued s i WaitGroup.none p z
        ∧ (131072 < src.toNat + len.toNat ∨ 0x1FFFFFFF < addr.toNat
            ∨ (addr.toNat < 0x10000000 ∧ (2 ^ 40 < a + 32 * len.toNat ∨ s.spillOf a len.toNat = .part))
            ∨ (0x10000000 ≤ addr.toNat ∧ there = false) →
          exec (.mstore i addr len src sctr deck) s0 = .next ((z.faultAt c 0x03).pastEnd c))
        ∧ (src.toNat + len.toNat ≤ 131072 →
          (addr.toNat < 0x10000000 → a + 32 * len.toNat ≤ 2 ^ 40 → s.spillOf a len.toNat ≠ .part →
            exec (.mstore i addr len src sctr deck) s0
              = .next ((ends ((start z cs v).storeLocal a (gs.map x.granule) (s.spillOf a len.toNat)) deck gs).pastEnd c))
          ∧ (0x10000000 ≤ addr.toNat → addr.toNat ≤ 0x1FFFFFFF → there = true →
            exec (.mstore i addr len src sctr deck) s0 = .next ((ends (ws.foldl (fun y w =>
              y.sendTo 0x10 2 t.chip (remoteArg t.lid w.1 t) w.2.2) (start z cs { v with remote := ws.map (fun w =>
                (t.lid, w.1, w.2.1)) })) deck gs).pastEnd c))))
    ∧ ∀ (w : WaitGroup) (lbase : BitVec 17) (nlist : BitVec 13) (dst : BitVec 17) (rlog2 sctr fctr : BitVec 5) (fen : Bool)
        (deck : DeckUse), Issuable s i (.kvrd (bareOf i) w lbase nlist dst rlog2 sctr fctr fen .clean) .stream w p ix →
      let k : Instr := .kvrd i w lbase nlist dst rlog2 sctr fctr fen deck
      ∃ z cs, Issued s i w p z
        ∧ (s.layer? p = none → exec k s0 = .next ((z.faultAt c 0x0A).pastEnd c))
        ∧ ((s.layer? p).isSome → s.assigns? c lbase.toNat nlist.toNat = none → exec k s0 = .next ((z.faultAt c 0x03).pastEnd c))
        ∧ ∀ d es gs, s.layer? p = some d → s.assigns? c lbase.toNat nlist.toNat = some (es, gs) →
          ((∃ e ∈ es, s.badAssign d e = true) → exec k s0 = .next ((z.faultAt c 0x0B).pastEnd c))
          ∧ ((∀ e ∈ es, s.badAssign d e = false) →
            let ks := es.flatMap (s.kvPieces d)
            let srcs := ks.flatMap (fun k => k.granules.map (fun g => if k.valid then s.jobAddr (32 * g) / 32 + 1 else 0))
            let v := { Stream.new .kvrd srcs ((List.range srcs.length).map (ringAt dst.toNat rlog2.toNat)) sctr.toNat with
              fen := if fen then some fctr.toNat else none }
            let y := es.foldl (fun (y : State) (e : Assign) => match s.slotReq e.slot with
              | none => y
              | some q => y.winAdd q.partition 8 (((s.kvPieces d e).map (·.bytes)).sum)) z
            let u := ends (start y cs v) deck gs
            let miss := ks.countP (fun k => !k.valid && !k.v)
            (miss = 0 → exec k s0 = .next (u.pastEnd c))
            ∧ (miss ≠ 0 → exec k s0 = .next (((u.modSpan p (Span.inc 0x2C4 miss)).dataFault i.l.val p 0).pastEnd c))))
  ∧ ∀ (a : Nat) (gs : List (BitVec 256)) (s : State) (sp : Spill), a % 32 = 0 →
    (∀ g, sp = .places g → g ≠ 0 ∧ gs.length % g = 0) →
    let u := s.storeLocal a gs sp
    (∃ cs ob m, u = { s with counters := cs, obs := ob, mem := m })
    ∧ (∀ b, b < a ∨ a + 32 * gs.length ≤ b → u.memByte b = s.memByte b)
    ∧ ((∀ k, k < 32 * gs.length → s.stackLost (stackOf (a + k)) = false) →
      ((∀ g, sp ≠ .places g) → ∀ k, k < 32 * gs.length → u.memByte (a + k) = (granBytes gs).getD k 0#8)
      ∧ ∀ g, sp = .places g → ∀ (j : Nat), (j + 1) * g ≤ gs.length →
        let bs := placeBytes g ((gs.drop (j * g)).take g)
        ∀ k, k < bs.length → u.memByte (a + 32 * g * j + k) = bs.getD k 0#8)

/-! ### What spans and the trestle unit complete (chapters 3 to 7, 9) -/

/-- R89, R94, R181, R279: a tile set whose decoding ends becomes ready and raises its FCTR by its granules; an addition lands in
its line when its cycle has come, and not before; a pair whose last pass has landed is checked, its rows that the bound excludes
are flagged and counted, and the abutment is taken for one cycle a line; cells that have run a poisoned tile set to its end break
the tick. R101: a context that waited for its drain is loaded 16 cycles on. -/
def Obligations.TileSetsAdditionsAndContextsComplete : Prop :=
  ∀ (s0 : State) (l : Fin 128) (p cyc : Nat), let s := s0.toCyc cyc
    s.tick.active = true → s.phys? l.val = some p →
    let cells := (s.span p).cells
    (∀ (k : Nat) (b : TileBuf), cells.bufs = [(k, b)] → b.done = false → b.doneAt ≤ cyc →
      let y := s.modSpan p (fun x => { x with cells := { x.cells with bufs := [(k, { b with done := true })] } })
      (b.fctr = none → exec (.tloadDone l cyc) s0 = .next y)
      ∧ ∀ c n, b.fctr = some (c, n) → n ≠ 0 → exec (.tloadDone l cyc) s0 = .next (y.modSpan p (fun x => { x with seq := { x.seq with
          ctrOps := x.seq.ctrOps ++ [{ cyc := cyc, ctr := c, what := .add, n := n }] } })))
    ∧ ((∀ e ∈ cells.bufs, e.2.done = true ∨ cyc < e.2.doneAt) → exec (.tloadDone l cyc) s0 = .next s)
    ∧ (∀ (a : Addition), cells.inflight = [a] → cells.pairs = [] → cells.poisonDue = false → a.land ≤ cyc →
      exec (.additionLanded l cyc) s0 = .next (s.modSpan p (fun x =>
        let r := (kget Line.zero x.lines a.line).take a
        ({ x with cells := { x.cells with inflight := [] }, lines := kset Line.zero x.lines a.line r.1 }.inc 0x210
          (if a.check then 0 else r.2.1)).inc 0x2A8 (if a.check then 0 else r.2.2))))
    ∧ ((∀ a ∈ cells.inflight, cyc < a.land) → (s.span p).dueChecks cyc = [] → cells.poisonDue = false → (s.span p).seq.phase ≠ 0 →
      ∃ u, exec (.additionLanded l cyc) s0 = .next u ∧ u.span p = s.span p ∧ (∀ k, k ≠ p → u.span k = s.span k) ∧ u.mem = s.mem)
    ∧ (∀ (q : PredPair) (d : Desc) (at_ : Nat), cells.inflight = [] → cells.pairs = [q] → cells.poisonDue = false → q.full = false →
      q.checked = false → q.lastAt = some at_ → at_ ≤ cyc → s.desc? q.di = some d → (s.span p).seq.phase ≠ 0 →
      exec (.additionLanded l cyc) s0 = .next (s.modSpan p (fun x =>
        let rows := x.flaggedRows d q
        { x.inc 0x304 rows.length with
          cells := { x.cells with pairs := [{ q with checked := true, flagged := rows }] }
          abt := { x.abt with checkUntil := max x.abt.checkUntil at_ + checkLines d q } })))
    ∧ (cells.inflight = [] → cells.pairs = [] → cells.poisonDue = true → cells.busyUntil ≤ cyc → (s.span p).seq.phase ≠ 0 →
      ∃ z : State, exec (.additionLanded l cyc) s0 = .next (z.breakTick .poison) ∧ (∀ k, z.span k = s.span k) ∧ z = { s with spans := z.spans })
    ∧ ∀ (k : Nat) (e : AbtCtx) (i : Nat) (d : Desc), (s.span p).abt.ctxs = [(k, e)] → e.waiting = some i →
      (s.span p).ctxBusy k cyc = false → s.desc? i = some d →
      exec (.contextLoad l cyc) s0 = .next (s.modSpan p (Span.loadCtx s.fixed s.tick.plan i d (cyc + 16)
        (decide (cells.layer = some i)) true))

/-- R265, R276, R288 to R290, R318, R336: a granule of a stream that is still to come is read and asks the port of each deck store
it goes to, for MLOAD and KVRD once FCTR covers it, for FILL 8 in a cycle, for COPY 4; once it is granted it is written and SCTR
rises by the granules that the longest prefix gained. What has landed, is on its way or belongs to a stream that is gone changes
nothing. R191: a scatter entry leaves for the queue of its bank, or waits while that is full. R284, R288: an acknowledgement
raises SCTR by the granules it covers; that of an appended line raises NCTR by one at every span of NSPAN, its groups being
written. -/
def Obligations.StreamsLandAndAreAcknowledged : Prop :=
  (∀ (s0 : State) (l : Fin 128) (p cyc : Nat), let s := s0.toCyc cyc
    s.tick.active = true → s.phys? l.val = some p →
    let raise (z : State) (t c n : Nat) : State := z.modSpan t (fun x => { x with seq := { x.seq with
      ctrOps := x.seq.ctrOps ++ [{ cyc := cyc, ctr := c, what := .add, n := n }] } })
    (∀ (slot : Fin 8) (idx : Nat) (errs : MemErrs) (deck : DeckUse) (bad : Option (Fin 132)) (v : Stream),
      kfind? (s.span p).streams slot.val = some v →
      let x := s.span p
      let y := s.upset errs
      let com : Instr := .streamGranuleLanded l cyc slot idx errs deck bad
      let mv (ts : List (Nat × PutRaise)) (b : BitVec 256 × Bool × Bool) : Moved := { targets := ts, g := v.dsts.getD idx 0, value := b }
      let own : List (Nat × PutRaise) := [(l.val, .stream slot.val idx)]
      (x.mayMove slot.val idx v = false → exec com s0 = .next y.routerCheck)
      ∧ (x.mayMove slot.val idx v = true →
        (v.kind = .mload ∨ v.kind = .kvrd → let need := idx + 1 - v.taken
          (∀ f, v.fen = some f → x.seq.avail f < need → exec com s0 = .next y.routerCheck)
          ∧ let r := y.loadGranule v idx
            let move (z : State) : State :=
              ((z.moveOut l.val cyc deck bad (mv own (r.1.1, r.1.2, false))).deckUse l.val p deck).routerCheck
            (v.fen = none → exec com s0 = .next (move (r.2.modSpan p (fun x => { x with streams := kins x.streams slot.val v }))))
            ∧ ∀ f, v.fen = some f → need ≤ x.seq.avail f → exec com s0 = .next (move (r.2.modSpan p (fun x => { x with
                seq := { x.seq with ctrOps := x.seq.ctrOps ++ [{ cyc := cyc, ctr := f, what := .sub, n := need }] }
                streams := kins x.streams slot.val { v with taken := v.taken + need } }))))
        ∧ (v.kind = .send → ∃ cs, exec com s0 = .next ((((y.setSpan p ({ x with counters := cs }.setStream slot.val
            (v.land idx))).moveOut l.val cyc deck bad (mv (v.targets.map (fun t => (t, .ctr v.rctr 1)))
              (x.heldGranule (v.srcs.getD idx 0)))).deckUse l.val p deck).routerCheck))
        ∧ (v.kind = .gath → ∀ q, s.phys? (v.targets.headD l.val) = some q → ∃ cs, exec com s0 = .next ((((y.setSpan q
            { s.span q with counters := cs }).moveOut l.val cyc deck bad (mv own ((s.span q).heldGranule
              (v.srcs.getD idx 0)))).deckUse (v.targets.headD l.val) q deck).routerCheck))
        ∧ (v.kind = .fill → (cyc ≤ v.since + idx / 8 → exec com s0 = .next y.routerCheck)
          ∧ (v.since + idx / 8 < cyc → exec com s0 = .next (((y.moveOut l.val cyc deck bad (mv own
              (BitVec.ofNat 256 (((List.range 8).map (fun i => v.pattern.toNat * 2 ^ (32 * i))).sum), false, false))).deckUse
                l.val p deck).routerCheck)))
        ∧ (v.kind = .copy → (cyc ≤ v.since + idx / 4 → exec com s0 = .next y.routerCheck)
          ∧ (v.since + idx / 4 < cyc → ∃ cs, exec com s0 = .next ((((y.setSpan p { x with counters := cs }).moveOut l.val cyc deck bad
              (mv own (v.held.getD idx (0, false, false)))).deckUse l.val p deck).routerCheck)))
        ∧ (v.kind = .scat → idx = v.count → v.fullFrom = none → let e := x.scatEntry l.val v idx
          (∀ q, s.phys? e.1 = some q → q ≠ p →
            let b := e.2.line % 16
            let queue := (s.span q).bankQueue b
            (queue.length < 32 → ∃ (u : State) (cs : List (Nat × Counter)), exec com s0 = .next (((u.checkPoison l.val p [v.srcs.getD idx 0,
                v.dsts.getD (idx / 4) 0]).deckUse l.val p deck).routerCheck)
              ∧ u.span q = { s.span q with queues := kset [] (s.span q).queues b (queue ++ [e.2]) }
              ∧ u.span p = { x with counters := cs }.setStream slot.val { v with count := idx + 1 }
              ∧ (∀ k, k ≠ p → k ≠ q → u.span k = s.span k) ∧ u = { y with spans := u.spans })
            ∧ (32 ≤ queue.length → ∃ u : State, exec com s0 = .next ((u.deckUse l.val p deck).routerCheck)
              ∧ u.span p = { x with streams := kins x.streams slot.val { v with fullFrom := some cyc } }
              ∧ (∀ k, k ≠ p → u.span k = s.span k) ∧ u = { y with spans := u.spans }))
          ∧ (s.phys? e.1 = none → ∃ u : State, exec com s0 = .next ((u.deckUse l.val p deck).routerCheck)
              ∧ u.span p = x.setStream slot.val { v with count := idx + 1 }
              ∧ (∀ k, k ≠ p → u.span k = s.span k) ∧ u = { y with spans := u.spans }))))
    ∧ (∀ (slot : Fin 8) (n : Nat) (v : Stream), kfind? (s.span p).streams slot.val = some v →
      let k := min n ((if v.kind = .mstore then v.srcs.length else v.count) - v.acked)
      (v.needAck = true → v.remote = [] → k ≠ 0 → exec (.streamAck l cyc slot n) s0
        = .next (raise (s.modSpan p (Span.setStream slot.val { v with acked := v.acked + k })) p v.sctr k))
      ∧ (v.needAck = false ∨ v.remote ≠ [] → exec (.streamAck l cyc slot n) s0 = .next s))
    ∧ ∀ (a : KvAck) (rest : List KvAck) (errs : MemErrs), (s.span p).abt.kvAcks = a :: rest →
      (a.cyc ≤ cyc → exec (.kvappAck l cyc errs) s0 = .next (a.spans.foldl (fun y t => match s.phys? t with
          | none => y
          | some q => raise y q a.ctr 1)
        (((s.upset errs).modSpan p (fun x => { x with abt := { x.abt with kvAcks := rest } })).memWrite a.bytes)))
      ∧ (cyc < a.cyc → exec (.kvappAck l cyc errs) s0 = .next (s.upset errs)))
  ∧ (∀ (l cyc t q : Nat) (deck : DeckUse) (bad : Option (Fin 132)) (r : PutRaise) (g : Nat) (v : BitVec 256 × Bool × Bool) (s : State),
    s.tick.active = true → s.phys? t = some q → s.moveOut l cyc deck bad { targets := [(t, r)], g := g, value := v }
      = (s.flitError bad).modSpan q (fun x => { x with puts := x.puts ++ [{ cyc := cyc + deckDelay deck, client := .stream, src := l, g := g
                                                                            v := v.1, poison := v.2.1, flit := v.2.2 || bad.isSome
                                                                            raise := r }] }))
  ∧ (∀ (v : Stream) (i g : Nat) (s : State), v.srcs.getD i 0 = g + 1 → v.places = 0 → s.poisoned (32 * g) = false →
    inDevice (32 * g) = false →
    (s.loadGranule v i).1 = (BitVec.ofNat 256 (bytesToNat ((List.range 32).map (fun k => s.memByte (32 * g + k)))), false))
  ∧ ∀ (l p c slot idx : Nat) (w : DeckPut) (v : Stream) (s : State), s.tick.active = true → w.src = l → w.raise = .stream slot idx →
    (s.span p).preloaded w.g = false → kfind? (s.span p).streams slot = some v → (s.span p).seq.phase ≠ 0 →
    ∃ cs, s.landPut l p c w = (s.setSpan p ({ (s.span p).putG w.g w.v w.poison w.flit with counters := cs }.setStream slot
      (v.land idx))).ctrAdd c l v.sctr (v.rise v.count (v.land idx).count)

/-- R191 to R193: the oldest entry of a bank's conflict queue is taken, one in a cycle, and added to its line in the scatter unit of
the layer, saturating, while the tick's entries for the bank are within SCAT_CAP; one for a line outside the layer's scatter lines is
dropped; nothing is taken in a cycle in which the bank has applied one or while the line is being zeroed. -/
def Obligations.ScatterEntryJoinsItsLine : Prop :=
  ∀ (s0 : State) (l : Fin 128) (bank : Fin 16) (p q cyc di : Nat) (e : ScatEntry) (rest : List ScatEntry) (d : Desc),
    let s := s0.toCyc cyc
    let x := s.span p
    s.tick.active = true → s.phys? l.val = some p → s.phys? e.src = some q → x.bankQueue bank.val = e :: rest →
    (x.lineZeroed e.line cyc = true ∨ cyc < kget 0 x.bankAt bank.val → exec (.scatterEntryApply l cyc bank) s0 = .next s)
    ∧ (x.lineZeroed e.line cyc = false → kget 0 x.bankAt bank.val ≤ cyc → s.layer? p = some d → x.cells.layer = some di →
      ∃ (u : State) (cs : List (Nat × Counter)), exec (.scatterEntryApply l cyc bank) s0 = .next u
        ∧ (q ≠ p → u.span q = { s.span q with scatAt := max (s.span q).scatAt cyc })
        ∧ (∀ k, k ≠ p → k ≠ q → u.span k = s.span k)
        ∧ let y := { x with counters := cs, queues := kset [] x.queues bank.val rest, bankAt := kset 0 x.bankAt bank.val (cyc + 1),
                            scatAt := if q = p then max x.scatAt cyc else x.scatAt }
          (d.scatEn = true → d.scatBase ≤ e.line → e.line < d.scatBase + d.scatLines →
            kget 0 x.applied (di * 16 + e.line % 16) + 1 ≤ d.scatCap → u = { s with spans := u.spans }
              ∧ u.span p = { y with
                lines := kset Line.zero x.lines e.line ((kget Line.zero x.lines e.line).scatter d di e.line e).1
                applied := kset 0 x.applied (di * 16 + e.line % 16) (kget 0 x.applied (di * 16 + e.line % 16) + 1) })
          ∧ (d.scatEn = false ∨ e.line < d.scatBase ∨ d.scatBase + d.scatLines ≤ e.line → u = { s with spans := u.spans }
              ∧ u.span p = y))

/-- R202, R203, R205, R321: the trestle unit runs the next record of its phase once its start and its input are there, and arrives
at the phase joint after the last; a weighted layer leaves the sums of each token, lane by lane. R201, R218: a residue or BCH
mismatch makes it SUSPECT and breaks the tick. R219: a retest that passes puts it IN_SERVICE; one that fails in SUSPECT is made
again with cause 5; another makes a new entry, which breaks the tick in progress, the third fencing the unit; a FENCED unit is not
retested. -/
def Obligations.TrestleRecordsAndRetests : Prop :=
  (∀ (t : Nat) (s0 : State) (pl : Plan) (r : TrsRec) (i : Nat), let s := (s0.at t).settled
    s.tick.active = true → s.trs.state = .inService → s.plan? = some pl →
    pl.recordFrom s.tick.phase s.trs.nextRec = some i → pl.trestle[i]? = some r →
    (s.cycNow < s.recordStart r ∨ (r.src ≠ 0xFFFF ∧ s.inputLanded r.src = false) → ∀ check,
      exec (.trestleRecord t check) s0 = .next s)
    ∧ (s.recordStart r ≤ s.cycNow → r.src = 0xFFFF ∨ s.inputLanded r.src = true →
      exec (.trestleRecord t .residue) s0 = .next (s.trestleFault 3)
      ∧ exec (.trestleRecord t .bch) s0 = .next (s.trestleFault 2)
      ∧ (let n := (s.runRecord r).1
         let v := (s.runRecord r).2
         let u := { v with trs := { v.trs with nextRec := i + 1, readyAt := s.cycNow + n } }
         ((pl.recordFrom r.phase (i + 1)).isSome ∨ v.tick.active = false → exec (.trestleRecord t .ok) s0 = .next u)
         ∧ (pl.recordFrom r.phase (i + 1) = none → v.tick.active = true →
              exec (.trestleRecord t .ok) s0 = .next (u.trestleArrives (s.cycNow + n))))))
  ∧ (∀ (s : State) (r : TrsRec), r.kind = 4 → s.runRecord r = (0, s.stopAll 0xFE))
  ∧ (∀ (s : State) (r : TrsRec) (d : Desc) (tok : Nat × Nat), r.kind = 0 → s.desc? r.desc = some d → s.trs.tokens r.src = [tok] →
    let a := trsAligned (s.trs.vector r.src tok)
    let sums := (s.trsWeights d (256 * d.inSegs) (16 * d.slice16)).1.map (fun row => (trsLane row a.1).1)
    (s.runRecord r).1 = cdiv (16 * d.slice16) 4096 * (256 * d.inSegs) + 12
    ∧ (s.runRecord r).2.trs = { s.trs with
        outputs := kset [] s.trs.outputs ((r.desc * 4096 + tok.1) * 65536 + tok.2) sums
        lanes := sums.zipIdx.foldl (fun m e => kset TrsLane.zero m (e.2 % 4096)
          { acc := BitVec.ofInt 40 e.1, residue := (e.1 % 3).toNat }) s.trs.lanes }
    ∧ (s.runRecord r).2.mem.bytes = s.mem.bytes ∧ (s.runRecord r).2.spans = s.spans)
  ∧ (∀ (cause : Nat) (s : State), s.trestleFault cause = ({ s.fault 4 cause 0xFF with trs := { s.trs with
      state := if 3 ≤ s.trs.suspects + 1 then .fenced else .suspect, cause := cause, suspects := s.trs.suspects + 1
      retesting := decide (s.trs.suspects + 1 < 3) } }).breakTick .trestle)
  ∧ (∀ (t : Nat) (who : Requester) (s y : State), Reached t who s y →
    (s.trs.state ≠ .fenced → exec (.retest t who) s = .next { y with trs := { s.trs with retesting := true } })
    ∧ (s.trs.state = .fenced → exec (.retest t who) s = .next y))
  ∧ ∀ (t : Nat) (s : State),
    (s.trs.retesting = false ∨ s.trs.state = .fenced → ∀ pass, exec (.trestleRetestDone t pass) s = .next (s.at t))
    ∧ (s.trs.retesting = true → s.trs.state ≠ .fenced →
      exec (.trestleRetestDone t true) s = .next { s.at t with trs := { s.trs with state := .inService, retesting := false } }
      ∧ (s.trs.state = .suspect → exec (.trestleRetestDone t false) s
          = .next { (s.at t).inc 0x020524 1 with trs := { s.trs with cause := 5, retesting := true } })
      ∧ (s.trs.state ≠ .suspect → exec (.trestleRetestDone t false) s = .next (({ (s.at t).inc 0x020524 1 with
          trs := { s.trs with state := if 3 ≤ s.trs.suspects + 1 then .fenced else .suspect, cause := 5,
                              suspects := s.trs.suspects + 1, retesting := decide (s.trs.suspects + 1 < 3) } }).breakTick .trestle)))

/-! ### Jobs and the hot set by themselves (chapters 10, 13) -/

/-- R331, R334, R438: a copied bitstream that fails a check of step 2 or 3, or is of another JOB_TYPE, fails its load with the
code; one that passes is held for the job. At step 5 with nothing running the writes of R328 are made, the load reports step 6
and the job goes on to run. The end of a scrub lets ended jobs finish, fences and tests go on and the dispatcher act; a SERVE
job with END_IDLE that has been idle for its IDLE_MS is told to end. -/
def Obligations.LoadsScrubsAndIdleJobsAdvance : Prop :=
  (∀ (t : Nat) (job : BitVec 16) (s : State) (j : Job), kfind? s.jobs job.toNat = some j → kfind? s.bits job.toNat = none →
    (∀ (bytes : List Byte) (e : LoadErr), stepTwo s.contentKeys j.srcLen bytes = .inl e →
      exec (.bitstreamCopied t job (some bytes)) s
        = .next ((((s.at t).portRx j.port j.srcLen).failLoadAs 0x08 job.toNat e).dispatch false))
    ∧ ∀ (bytes : List Byte) (sects : List Sect) (digest : BitVec 384),
        stepTwo s.contentKeys j.srcLen bytes = .inr (sects, digest) →
        (∀ e, stepThree s.fuses sects (readBits sects digest) = some e → exec (.bitstreamCopied t job (some bytes)) s
          = .next ((((s.at t).portRx j.port j.srcLen).failLoad job.toNat e).dispatch false))
        ∧ (stepThree s.fuses sects (readBits sects digest) = none →
          ((readBits sects digest).ident.jobType ≠ j.type → exec (.bitstreamCopied t job (some bytes)) s
            = .next ((((s.at t).portRx j.port j.srcLen).failLoad job.toNat (bareErr 0x06 7)).dispatch false))
          ∧ ((readBits sects digest).ident.jobType = j.type → exec (.bitstreamCopied t job (some bytes)) s
            = .next (((s.at t).portRx j.port j.srcLen).holdBits job.toNat j (readBits sects digest) bytes))))
  ∧ (∀ (id : Nat) (j : Job) (b : Bitstream) (bytes : List Byte) (s : State), s.load.map (·.job) ≠ some id →
    j.type ≠ .serve ∨ (s.cacheBits b bytes).servesModel b.ident.modelDigest = false →
    s.holdBits id j b bytes = State.dispatch false (State.placeAll { s.cacheBits b bytes with
      jobs := kupd (s.cacheBits b bytes).jobs id (fun k => { k with digest := b.digest })
      bits := kins (s.cacheBits b bytes).bits id b }))
  ∧ (∀ (t : Nat) (s : State) (l : Load) (j : Job) (b : Bitstream), s.load = some l → kfind? s.jobs l.job = some j →
    kfind? s.bits l.job = some b →
    (l.step = 5 → s.flt.scrubbing = false → s.flt.testing = none → s.running = none → s.boot.deferred = none →
      exec (.loadWrite t) s = .next (((s.at t).loadReport 6 l.cached l.basic none).goRunning l.job j b l)
      ∧ (j.type ≠ .ingest → s.pair = false → ∃ (u : State) (k : Job), exec (.loadWrite t) s = .next u
          ∧ u.running = some l.job ∧ u.load = none ∧ kfind? u.jobs l.job = some k
          ∧ k.state = (if j.state = .draining then .draining else .running) ∧ k.ran = true ∧ k.answered = true
          ∧ u.loadStatus = (s.loadReport 7 l.cached l.basic none).loadStatus
          ∧ u.tick.plan = ((kfind? s.tickSaved l.job).map (·.plan)).getD (s.planFor j)))
    ∧ (l.step ≠ 5 ∨ s.running ≠ none ∨ s.flt.scrubbing = true ∨ s.flt.testing ≠ none ∨ s.boot.deferred ≠ none →
      exec (.loadWrite t) s = .next (s.at t)))
  ∧ (∀ (t : Nat) (s : State),
    (s.flt.scrubbing = true → exec (.scrubDone t) s = .next ((State.startTest (State.boundaryFences (State.finishEnded
      { s.at t with flt := { s.flt with scrubbing := false } }))).dispatch false))
    ∧ (s.flt.scrubbing = true → s.jobs = [] → s.running = none → s.load = none → s.toFence = [] → s.flt.testAsked = [] →
      exec (.scrubDone t) s = .next { s.at t with flt := { s.flt with scrubbing := false, basicAsked := none } })
    ∧ (s.flt.scrubbing = false → exec (.scrubDone t) s = .next (s.at t)))
  ∧ ∀ (t : Nat) (job : BitVec 16) (s : State) (j : Job) (since : Nat), kfind? (s.at t).noteIdle.jobs job.toNat = some j →
    j.idleSince = some since → j.type = .serve →
    (prmFlag j.params 0 = true → j.ending = none → (s.at t).noteIdle.demand job.toNat j = false →
      since + 1000000 * prm j.params 12 4 ≤ max s.time t →
      exec (.idleEnd t job) s = .next ((s.at t).noteIdle.tellEnd job.toNat 0x02))
    ∧ (max s.time t < since + 1000000 * prm j.params 12 4 → exec (.idleEnd t job) s = .next (s.at t).noteIdle)

/-- R446 to R450: an INGEST job whose pack does not come ends FETCH_FAILED, one whose digest or signature is wrong
DIGEST_MISMATCH; a pack that passes opens its entry, goes on with the one that an interrupted install of the same pack and layout
left, or ends NO_SPACE. The next extent that is formed is written into the entry and sealed with the digest of its bytes; the
entry is READY after the last. R453: a TUNE step replaces the records and counts; after its last step the variant is written, or
the job ends with its slot refused. -/
def Obligations.IngestAndTuneAdvance : Prop :=
  (∀ (t : Nat) (job : BitVec 16) (s : State) (j : Job) (b : Bitstream), kfind? s.jobs job.toNat = some j →
    kfind? s.bits job.toNat = some b → s.running = some job.toNat → j.type = .ingest → j.verified = false → j.ending = none →
    prmFlag j.params 5 = false →
    exec (.ingestPackVerified t job none) s = .next ((s.at t).pausePoint job.toNat (some 0x03))
    ∧ ∀ p : PackRead, let y := (s.at t).portRx j.port (prm j.params 24 8)
      let ok := p.digest = BitVec.ofNat 384 (prm j.params 32 48) ∧ blockOk contentClass s.contentKeys p.digest p.block = true
      (¬ok → exec (.ingestPackVerified t job (some p)) s = .next (y.pausePoint job.toNat (some 0x04)))
      ∧ (ok → exec (.ingestPackVerified t job (some p)) s = .next (y.ingestOpen job.toNat j b p.digest { table := p.vocab, pool := p.pool } p.layers)))
  ∧ (∀ (id : Nat) (j : Job) (b : Bitstream) (d : BitVec 384) (v : Vocab) (n : Nat) (s : State),
    let r := s.openEntry j b d v n
    (r.1 = none → s.ingestOpen id j b d v n = r.2.placeAll.pausePoint id (some 0x05))
    ∧ ∀ e, r.1 = some e → s.ingestOpen id j b d v n = State.placeAll { r.2 with
        jobs := kupd r.2.jobs id (fun k => { k with entry := some e, verified := true, sealed := (r.2.entry e).sealed.length }) })
  ∧ (∀ (j : Job) (b : Bitstream) (d : BitVec 384) (v : Vocab) (n e : Nat) (s : State), let x := ingestEntry j b d v n
    s.entryOfModel? x.modelId = some e → (s.entry e).state = .interrupted → (s.entry e).digest = d →
    (s.entry e).layoutDigest = b.weightDigest →
    s.openEntry j b d v n = (some e, s.setEntry e { s.entry e with state := .installing, vocab := v, layers := n }))
  ∧ (∀ (t : Nat) (job : BitVec 16) (s : State) (j : Job) (b : Bitstream) (e : Nat), kfind? s.jobs job.toNat = some j →
    kfind? s.bits job.toNat = some b → j.entry = some e → s.running = some job.toNat → j.type = .ingest → j.verified = true →
    j.ending = none → (s.entry e).state = .installing → prmFlag j.params 5 = false →
    let i := (s.entry e).sealed.length
    (b.weights[i]? = none → ∀ src, exec (.extentSealed t job src) s
      = .next (((s.at t).entryReady j e).pausePoint job.toNat (some 0x00)))
    ∧ ∀ w, b.weights[i]? = some w → exec (.extentSealed t job none) s = .next ((s.at t).pausePoint job.toNat (some 0x03))
      ∧ (∀ src, w.lspan = 0xFE → b.ingest.find? (fun r => r.wl = w.wl) = none → exec (.extentSealed t job (some src)) s
          = .next (((s.at t).entryWrite (s.entry e) w.offset (byteSlice src 0 (32 * w.len))).sealExtent job.toNat j b e i
              (byteSlice src 0 (32 * w.len)))))
  ∧ (∀ (id e i : Nat) (j : Job) (b : Bitstream) (bs : List Byte) (s : State), i + 1 < b.weights.length →
    s.sealExtent id j b e i bs = State.pausePoint id none { s.setEntry e { s.entry e with
      sealed := (s.entry e).sealed ++ [{ index := i, digest := sha384 bs }] } with
        jobs := (kupd s.jobs id (fun j => { j with sealed := i + 1 })) })
  ∧ ∀ (t : Nat) (job : BitVec 16) (gg sg : List (List Int)) (s : State) (j : Job) (b : Bitstream) (w : Tune),
    kfind? s.jobs job.toNat = some j → kfind? s.bits job.toNat = some b → kfind? s.tune job.toNat = some w →
    s.running = some job.toNat → j.type = .tune → j.ending = none →
    let recs := w.records.zipIdx.map (fun e => tuneRecord (prm j.params 36 1) (signedField 15 (prm j.params 38 2))
      (tuneWidth b e.2) (gg.getD e.2 []) (sg.getD e.2 []) e.1)
    let y := { s.at t with tune := (kins s.tune job.toNat { records := recs, next := w.next + 1 }),
                           jobs := (kins s.jobs job.toNat { j with steps := j.steps + 1 }) }
    (j.steps + 1 < prm j.params 28 4 → exec (.tuneStep t job gg sg) s = .next (y.pausePoint job.toNat none))
    ∧ (prm j.params 28 4 ≤ j.steps + 1 → exec (.tuneStep t job gg sg) s = .next (y.endTune job.toNat j recs))
    ∧ (prm j.params 28 4 ≤ j.steps + 1 → y.slotError (y.entry (j.entry.getD 0)).modelId (prm j.params 34 2) j.partition = none →
        exec (.tuneStep t job gg sg) s = .next ((y.writeSlot (j.entry.getD 0) (prm j.params 34 2) j.partition
          recs).pausePoint job.toNat (some 0x00)))
    ∧ (prm j.params 28 4 ≤ j.steps + 1 → (y.slotError (y.entry (j.entry.getD 0)).modelId (prm j.params 34 2) j.partition).isSome →
        exec (.tuneStep t job gg sg) s = .next (y.pausePoint job.toNat (some 0x06)))

/-- R443, R445: HOT_CTRL pins a READY entry while fewer than 16 are pinned, in the entry and in flash, and reports what it did;
an unpin takes both away; a remove makes an entry that no job holds EMPTY, and RETIRING one that a job holds. -/
def Obligations.HotSetControls : Prop :=
  ∀ (t : Nat) (who : Requester) (entry : Fin 64) (s y : State), Reached t who s y →
    let x := s.entry entry.val
    ((x.state ≠ .ready → exec (.hotPin t who entry) s = .next (y.hotDone entry.val 2))
      ∧ (x.state = .ready → x.pinned = true → exec (.hotPin t who entry) s = .next (y.hotDone entry.val 0))
      ∧ (x.state = .ready → x.pinned = false → 16 ≤ s.flash.pins.length → exec (.hotPin t who entry) s
          = .next (y.hotDone entry.val 1))
      ∧ (x.state = .ready → x.pinned = false → s.flash.pins.length < 16 → exec (.hotPin t who entry) s
          = .next (State.hotDone entry.val 0 { y.setEntry entry.val { x with pinned := true } with flash := { s.flash with
              pins := s.flash.pins ++ [(x.modelId, x.digest, x.slabUnits, x.mirrored)] } })))
    ∧ ((x.state = .empty → exec (.hotUnpin t who entry) s = .next (y.hotDone entry.val 3))
      ∧ (x.state ≠ .empty → x.state ≠ .reserved → ∃ u, exec (.hotUnpin t who entry) s = .next u
          ∧ u.flash = { s.flash with pins := s.flash.pins.filter (fun p => decide (p.1 ≠ x.modelId)) }
          ∧ u.hot = (y.setEntry entry.val { x with pinned := false }).hot ∧ u.mem = s.mem ∧ u.jobs = s.jobs))
    ∧ ((x.state = .empty ∨ x.state = .retiring ∨ x.state = .installing → exec (.hotRemove t who entry) s
          = .next (y.hotDone entry.val 3))
      ∧ (x.state = .ready → x.pinned = false → s.entryHeld entry.val = true → exec (.hotRemove t who entry) s
          = .next (State.hotDone entry.val 0 (y.setEntry entry.val { x with state := .retiring }).placeAll))
      ∧ (x.state = .ready → x.pinned = false → s.entryHeld entry.val = false → exec (.hotRemove t who entry) s
          = .next (State.hotDone entry.val 0 (y.setEntry entry.val HotEntry.empty).placeAll)))

/-! ### Number formats and the cells' arithmetic (chapter 2, 4) -/

/-- R60: one addition into a cell accumulator is the exact two's-complement sum where it fits 32 bits, 2^31 − 1 above and −2^31
below. Of an addition that lands in a line, every one of the 16 sums is taken so from what the line then holds, and
SPN_ACC_SAT rises by the number that saturated, up to the counter's end. -/
def Obligations.AccumulatorsSaturate : Prop :=
  (∀ (a : BitVec 32) (t : Int),
    (a.toInt + t > 2 ^ 31 - 1 → (satAdd32 a t).1.toInt = 2 ^ 31 - 1 ∧ (satAdd32 a t).2 = true)
    ∧ (a.toInt + t < -2 ^ 31 → (satAdd32 a t).1.toInt = -2 ^ 31 ∧ (satAdd32 a t).2 = true)
    ∧ (-2 ^ 31 ≤ a.toInt + t → a.toInt + t ≤ 2 ^ 31 - 1 → (satAdd32 a t).1.toInt = a.toInt + t ∧ (satAdd32 a t).2 = false))
  ∧ ∀ (a : Addition) (x : Span), let ln := kget Line.zero x.lines a.line
    a.owner = ln.owner → a.check = false → ln.acc.length = 16 → a.terms.length = 16 →
      let n := (List.range 16).countP (fun i => (satAdd32 (ln.acc.getD i 0) (a.terms.getD i 0)).2)
      (∀ i, i < 16 → (kget Line.zero (x.landOne a).lines a.line).acc.getD i 0
        = (satAdd32 (ln.acc.getD i 0) (a.terms.getD i 0)).1)
      ∧ (kget Counter.zero (x.landOne a).counters 0x210).live.toNat
        = min ((kget Counter.zero x.counters 0x210).live.toNat + n) 0xFFFFFFFF
      ∧ ∀ line, line ≠ a.line → kget Line.zero (x.landOne a).lines line = kget Line.zero x.lines line

/-- R38: byte k of a PACK5 tile is the sum of (t_i + 1) times 3^i over the trits 5k to 5k + 4, the last byte with four zero
trits of padding; decoding it gives back the tile of the 4,096 trits, the padding discarded, with no invalid byte. -/
def Obligations.Pack5HoldsFiveTrits : Prop :=
  ∀ ts : List Int, ts.length = 4096 → (∀ t ∈ ts, t = -1 ∨ t = 0 ∨ t = 1) →
    (∀ k, k < 820 → (((encodePack5 ts).getD k 0).toNat : Int) = (ts.getD (5 * k) 0 + 1) + (ts.getD (5 * k + 1) 0 + 1) * 3
      + (ts.getD (5 * k + 2) 0 + 1) * 9 + (ts.getD (5 * k + 3) 0 + 1) * 27 + (ts.getD (5 * k + 4) 0 + 1) * 81)
    ∧ decodePack5Tile (encodePack5 ts) = (tileOfTrits ts, {})

/-! ### What outlasts every command and every reset (chapter 19) -/

/-- R587, R592, R596, R600: whatever command waits, a step answers a next state in which MIN_SVN is no lower, no revoked root pair
is back, the other fuses stand, RESERVED_TOP is no lower and legal fuses stay legal. UNSEAL_COUNT stands and the module is
unsealed only if it was, unless an SB_UNSEAL opens the seal, which counts one more. Over n steps the queue loses its first n
commands, all this holds again, and UNSEAL_COUNT has risen by at most the number of SB_UNSEALs among them. -/
def Obligations.LifetimeCountsNeverGoBack : Prop :=
  (∀ s : State, ∃ u, step s = .next u ∧ (s.fuses.legal → u.fuses.legal)
    ∧ { u.fuses with minSvn := 0, revoked := 0 } = { s.fuses with minSvn := 0, revoked := 0 }
    ∧ s.fuses.minSvn ≤ u.fuses.minSvn ∧ (∀ i : Fin 4, s.fuses.revoked.getLsbD i = true → u.fuses.revoked.getLsbD i = true)
    ∧ s.reservedTop ≤ u.reservedTop
    ∧ ((u.flash.unsealCount = s.flash.unsealCount ∧ (u.sec.isOpen = true → s.sec.isOpen = true))
      ∨ ((∃ c rest, s.pending = c :: rest ∧ isUnseal c = true) ∧ u.flash.unsealCount = s.flash.unsealCount + 1
        ∧ u.sec.isOpen = true ∧ u.fuses = s.fuses)))
  ∧ ∀ (n : Nat) (s : State), (s.after n).pending = s.pending.drop n
    ∧ (s.fuses.legal → (s.after n).fuses.legal)
    ∧ { (s.after n).fuses with minSvn := 0, revoked := 0 } = { s.fuses with minSvn := 0, revoked := 0 }
    ∧ s.fuses.minSvn ≤ (s.after n).fuses.minSvn
    ∧ (∀ i : Fin 4, s.fuses.revoked.getLsbD i = true → (s.after n).fuses.revoked.getLsbD i = true)
    ∧ s.reservedTop ≤ (s.after n).reservedTop
    ∧ ∃ k, k ≤ (s.pending.take n).countP isUnseal
      ∧ (s.after n).flash.unsealCount = s.flash.unsealCount + BitVec.ofNat 32 k
      ∧ ((s.after n).sec.isOpen = true → s.sec.isOpen = false → 0 < k)

/-- R9, R583, R594, R598, R603: the state after reset meets what every step keeps: its fuses are legal, the module is sealed, and
device memory is in the canonical form. It waits for no command; every register that software writes reads its reset value,
every counter 0; no request, handle, log, job or landing is there; it is in POWER_ON with main power good and LAST_RESET 0;
every measurement slot is zero. Choices of the model that it rests on: log entries 3, 4 and 6. -/
def Obligations.ResetMeetsTheInvariants : Prop :=
  State.reset.fuses.legal ∧ Memory.wf State.reset.mem.bytes = true ∧ State.reset.sec.isOpen = false ∧ State.reset.pending = []
  ∧ (∀ o, State.reset.regw o = regReset o) ∧ (∀ o, kget Counter.zero State.reset.counters o = Counter.zero)
  ∧ State.reset.requests = [] ∧ State.reset.handles = [] ∧ State.reset.logs = [] ∧ State.reset.jobs = []
  ∧ State.reset.landings = [] ∧ State.reset.boot.state = .powerOn ∧ State.reset.boot.lastReset = 0
  ∧ State.reset.boot.mainGood = true ∧ State.reset.boot.haltCause = 0 ∧ (∀ i, State.reset.slot i = 0)
  ∧ (∀ p, State.reset.span p = Span.idle) ∧ ∀ a, State.reset.memByte a = 0#8

/-! ### Device memory's repairs (chapter 11) -/

/-- R358, R359, R362: PIN_ERASE with AUTO_ERASE and THRESH corrections in the window erases the pin, first or second of its lane
group, logs it and changes no data; a third suspect pin makes the group FAILED and the stack LOST. SPARE_STEER, when it is
asked for or AUTO_STEER finds the pin erased, spends the group's spare at a time R359 allows: a good retrain steers it and
clears the pin's erasure, a bad one reports RESULT 2 and keeps it. CORRECTION_WINDOW_END clears the counts of its stack alone.
Choices of the model that it rests on: log entry 31. -/
def Obligations.PinsAreErasedAndSteered : Prop :=
  ∀ (t : Nat) (st lg : Fin 32) (pin : Fin 19) (s : State), let x := s.lg st.val lg.val
    let frame (u : State) : Prop := u = { s.at t with mem := u.mem, flt := u.flt, counters := u.counters, tick := u.tick, obs := u.obs }
      ∧ u.mem.bytes = s.mem.bytes ∧ u.mem.wrong = s.mem.wrong ∧ u.mem.poison = s.mem.poison ∧ u.mem.rows = s.mem.rows ∧ u.mem.rateCap = s.mem.rateCap
      ∧ (∀ k, k ≠ 32 * st.val + lg.val → kget LaneGroup.clean u.mem.lgs k = kget LaneGroup.clean s.mem.lgs k)
    let ended (action result : Nat) (u : State) : Prop := u.mem.repair = none ∧ u.mem.status = BitVec.ofNat 32
      (fieldAt 30 1 1 + fieldAt 27 3 action + fieldAt 24 3 result + fieldAt 19 5 st.val + fieldAt 14 5 lg.val + fieldAt 9 5 pin.val)
    (s.stackUp st.val = true → s.mem.repair = none → s.regb 0x070084 31 = true → x.erased pin.val = false → s.thresh ≤ kget 0 x.window pin.val →
      (x.eraseA = none ∨ x.eraseB = none → ∃ u, exec (.pinErase t st lg pin) s = .next u ∧ frame u ∧ ended 1 0 u
        ∧ u.tick = s.tick
        ∧ u.lg st.val lg.val = (if x.eraseA = none then { x with eraseA := some pin.val } else { x with eraseB := some pin.val })
        ∧ kget LaneGroup.clean u.mem.repairLog (32 * st.val + lg.val) = { u.lg st.val lg.val with window := [] })
      ∧ (x.eraseA ≠ none → x.eraseB ≠ none → exec (.pinErase t st lg pin) s = .next
          (((((s.at t).fault 7 0 st.val).modLg st.val lg.val (fun x => { x with failed := true })).loseStack st.val).repairDone 1 0
            st.val lg.val pin.val)))
    ∧ (s.regb 0x070084 31 = false ∨ kget 0 x.window pin.val < s.thresh ∨ s.mem.repair ≠ none ∨ s.stackUp st.val = false →
      exec (.pinErase t st lg pin) s = .next (s.at t))
    ∧ (s.stackUp st.val = true → x.spareSpent = false → (s.at t).repairTime st.val = true →
      s.mem.repair = some { action := 2, stack := st.val, lg := lg.val, pin := pin.val }
        ∨ (s.mem.repair = none ∧ s.regb 0x070084 30 = true ∧ x.erased pin.val = true) →
      (∃ u, exec (.spareSteer t st lg pin true) s = .next u ∧ frame u ∧ ended 2 0 u ∧ (s.inTick = false → u.tick = s.tick)
        ∧ (u.lg st.val lg.val).steered = some pin.val ∧ (u.lg st.val lg.val).spareSpent = true
        ∧ (x.eraseA ≠ x.eraseB → (u.lg st.val lg.val).erased pin.val = false)
        ∧ kget LaneGroup.clean u.mem.repairLog (32 * st.val + lg.val) = { u.lg st.val lg.val with window := [] })
      ∧ ∃ u, exec (.spareSteer t st lg pin false) s = .next u ∧ frame u ∧ ended 2 2 u ∧ (s.inTick = false → u.tick = s.tick)
        ∧ u.lg st.val lg.val = { x with spareSpent := true })
    ∧ ((s.at t).repairTime st.val = false ∨ x.spareSpent = true ∨ s.stackUp st.val = false →
      ∀ ok, exec (.spareSteer t st lg pin ok) s = .next (s.at t))
    ∧ ∃ u, exec (.correctionWindowEnd t st) s = .next u ∧ u = { s.at t with mem := { s.mem with lgs := u.mem.lgs } }
      ∧ (∀ g, g < 32 → u.lg st.val g = { s.lg st.val g with window := [] })
      ∧ ∀ k, (k < 32 * st.val ∨ 32 * st.val + 32 ≤ k) → kget LaneGroup.clean u.mem.lgs k = kget LaneGroup.clean s.mem.lgs k

/-- R373, R374: a write of MEM_SPARE_CTRL leaves its fields, ACTION read as 0, and requests the step of its ACTION on its stack,
lane group and pin: erase, steer, harden, clear a replaced erasure, or make row repairs hard. It is refused with RESULT 3 while a
step is in progress, and where the place does not allow it; a group whose spare is spent steers no more (RESULT 1). R340, R357,
R360, R361: HARD_REPAIR ends the step that MEM_SPARE_CTRL asked for: the lane group's steering, or every soft row repair of the
stack, is hard, or RESULT 4 when the fuse program failed. ROW_REPAIR at a time R359 allows redirects the row and enters its
uncorrectable codewords in the poison list, is counted, and is refused when the bank has no spare row (RESULT 1) or the list is
full (RESULT 5). The scrub of a stack writes back and counts what it corrects, so that every byte reads as before, and reports
what it cannot; the scrub of a deck store leaves an error it cannot correct as poison, with a data fault of a bound span. Choices
of the model that it rests on: log entry 31. -/
def Obligations.RepairsAreRequestedAndMade : Prop :=
  (
  ∀ (t : Nat) (who : Requester) (value : Word) (s y : State), Reached t who s y →
    let i := bitsAt value.toNat 18 5
    let g := bitsAt value.toNat 13 5
    let p := bitsAt value.toNat 8 5
    let a := bitsAt value.toNat 5 3
    let z := y.setReg 0x070084 (value &&& 0xEFFFFF00#32)
    let x := s.lg i g
    let asks : State := { z with mem := { z.mem with repair := some { action := a, stack := i, lg := g, pin := p } } }
    let c : Nat → Instr := fun k => if k = 1 then .spareCtrlErase t who value else if k = 2 then .spareCtrlSteer t who value
      else if k = 3 then .spareCtrlHardSteer t who value else if k = 4 then .spareCtrlClearErasure t who value
      else .spareCtrlHardRows t who value
    (∀ k, 1 ≤ k → k ≤ 5 → a ≠ k → exec (c k) s = .next z)
    ∧ (1 ≤ a → a ≤ 5 → s.mem.repair ≠ none → ∃ w o, exec (c a) s = .next { z with mem := { z.mem with status := w }, obs := o }
        ∧ bitsAt w.toNat 24 3 = 3 ∧ w.getLsbD 30 = true ∧ bitsAt w.toNat 27 3 = a)
    ∧ (1 ≤ a → a ≤ 5 → s.mem.repair = none → s.stackUp i = false ∨ 18 < p → exec (c a) s = .next (z.repairDone a 3 i g p))
    ∧ (s.mem.repair = none → s.stackUp i = true → p ≤ 18 →
      (a = 1 → x.erased p = false → x.eraseA ≠ none → x.eraseB ≠ none → exec (c a) s = .next (z.repairDone 1 3 i g p))
      ∧ (a = 1 → x.erased p = true ∨ x.eraseA = none ∨ x.eraseB = none →
          exec (c a) s = .next ((z.erase i g p).repairDone 1 0 i g p))
      ∧ (a = 2 → exec (c a) s = .next (if x.spareSpent = true then z.repairDone 2 1 i g p else asks))
      ∧ (a = 3 → exec (c a) s = .next (if x.steered = none then z.repairDone 3 3 i g p else asks))
      ∧ (a = 4 → x.erased p = true → x.steered = some p → ∃ u, exec (c a) s = .next u
          ∧ u = { z with mem := u.mem, obs := u.obs }
            ∧ u.lg i g = { x with eraseA := (if x.eraseA = some p then x.eraseB else x.eraseA), eraseB := none }
          ∧ u.mem.bytes = s.mem.bytes ∧ u.mem.repair = none ∧ bitsAt u.mem.status.toNat 24 3 = 0)
      ∧ (a = 4 → x.erased p = false ∨ x.steered ≠ some p → exec (c a) s = .next (z.repairDone 4 3 i g p))
      ∧ (a = 5 → exec (c a) s = .next (if s.mem.rows.any (fun r => decide (r.stack = i) && !r.hard) = true then asks
          else z.repairDone 5 0 i 0 0x1F))))
  ∧
  (
  (∀ (t : Nat) (st : Fin 32) (r : RepairStep) (s : State), s.stackUp st.val = true → s.mem.repair = some r → r.stack = st.val →
    (r.action = 3 → exec (.hardRepair t st false) s = .next ((s.at t).repairDone 3 4 st.val r.lg r.pin)
      ∧ ∃ u, exec (.hardRepair t st true) s = .next u ∧ u = { s.at t with mem := u.mem, obs := u.obs }
        ∧ u.lg st.val r.lg = { s.lg st.val r.lg with hard := true } ∧ u.mem.bytes = s.mem.bytes ∧ u.mem.rows = s.mem.rows
        ∧ kget LaneGroup.clean u.mem.repairLog (32 * st.val + r.lg) = { s.lg st.val r.lg with hard := true, window := [] }
        ∧ u.mem.repair = none ∧ bitsAt u.mem.status.toNat 24 3 = 0 ∧ bitsAt u.mem.status.toNat 27 3 = 3)
    ∧ (r.action = 5 → exec (.hardRepair t st false) s = .next ((s.at t).repairDone 5 4 st.val 0 0x1F)
      ∧ ∃ u, exec (.hardRepair t st true) s = .next u ∧ u = { s.at t with mem := u.mem, obs := u.obs }
        ∧ u.mem.rows.length = s.mem.rows.length ∧ (∀ q ∈ u.mem.rows, q.stack = st.val → q.hard = true)
        ∧ (∀ q ∈ s.mem.rows, q.stack ≠ st.val → q ∈ u.mem.rows)
        ∧ u.mem.bytes = s.mem.bytes ∧ u.mem.lgs = s.mem.lgs ∧ u.mem.repair = none ∧ bitsAt u.mem.status.toNat 24 3 = 0))
  ∧ (∀ (t : Nat) (st : Fin 32) (bank row : Nat) (gs : List Nat) (s : State), s.mem.repair = none → s.stackUp st.val = true →
    (s.at t).repairTime st.val = true → gs.Nodup → (∀ g ∈ gs, stackOf (32 * g) = st.val) →
    let used := s.mem.rows.countP (fun r => decide (r.stack = st.val ∧ r.bank = bank))
    let bad := gs.filter (fun g => !s.mem.poison.contains g && (s.codeAt g).isNone)
    (4 ≤ used → exec (.rowRepair t st bank row gs) s = .next (((s.at t).fault 7 0 st.val).repairDone 7 1 st.val 0 0x1F))
    ∧ (used < 4 → 1024 < s.poisonOf st.val + bad.length →
      exec (.rowRepair t st bank row gs) s = .next (((s.at t).fault 7 0 st.val).repairDone 7 5 st.val 0 0x1F))
    ∧ (used < 4 → s.poisonOf st.val + bad.length ≤ 1024 → ∃ u, exec (.rowRepair t st bank row gs) s = .next u
      ∧ u = { s.at t with mem := u.mem, flt := u.flt, counters := u.counters, tick := u.tick, obs := u.obs }
      ∧ u.mem.rows = s.mem.rows ++ [{ stack := st.val, bank := bank, row := row, hard := false }]
      ∧ u.mem.poison = s.mem.poison ++ bad ∧ (∀ a, u.memByte a = s.memByte a) ∧ u.mem.lgs = s.mem.lgs
      ∧ (∀ g ∈ gs, s.badCode g = false → u.errsAt g = []) ∧ (∀ g, g ∉ gs → u.errsAt g = s.errsAt g)
      ∧ bitsAt u.mem.status.toNat 24 3 = 0 ∧ bitsAt u.mem.status.toNat 27 3 = 7
      ∧ (kget Counter.zero u.counters (0x070418 + 0x20 * st.val)).live.toNat
          = min ((kget Counter.zero s.counters (0x070418 + 0x20 * st.val)).live.toNat + 1) 0xFFFFFFFF))
  ∧ (∀ (t : Nat) (st : Fin 32) (errs : MemErrs) (s : State), let z := (s.at t).upset errs
    (s.stackUp st.val = false → exec (.memScrub t st errs) s = .next z)
    ∧ (s.stackUp st.val = true →
      let bad := (z.spoiled st.val).filter z.badCode
      let fixed := (z.spoiled st.val).filter (fun g => !z.badCode g && !(z.fixedPins g).isEmpty)
      ∃ u, exec (.memScrub t st errs) s = .next u ∧ u = { z with mem := u.mem, flt := u.flt, counters := u.counters }
        ∧ (∀ a, u.memByte a = z.memByte a) ∧ u.mem.poison = s.mem.poison
        ∧ (∀ g ∈ fixed, u.errsAt g = []) ∧ (∀ g, g ∉ fixed → u.errsAt g = z.errsAt g)
        ∧ (∀ g, g ∈ u.flt.reported ↔ g ∈ s.flt.reported ∨ g ∈ bad)
        ∧ (kget Counter.zero u.counters (0x070414 + 0x20 * st.val)).live.toNat
            = min ((kget Counter.zero s.counters (0x070414 + 0x20 * st.val)).live.toNat + fixed.length) 0xFFFFFFFF))
  ∧ ∀ (t : Nat) (p : Fin 132) (row : Fin 64) (good bad : List Nat) (s : State),
    (∀ g ∈ bad, g < 131072 ∧ g / 2048 = row.val) →
    ∃ z : State, z = { s.at t with spans := z.spans } ∧ (∀ k, k ≠ p.val → z.span k = s.span k)
      ∧ z.span p.val = { s.span p.val with poison := (z.span p.val).poison, counters := (z.span p.val).counters }
      ∧ (∀ g, g ∈ (z.span p.val).poison ↔ g ∈ (s.span p.val).poison ∨ g ∈ bad)
      ∧ (bad = [] ∨ (s.mapEntry p.val).logical = none → exec (.deckPatrolScrub p t row good bad) s = .next z)
      ∧ ∀ l, (s.mapEntry p.val).logical = some l → bad ≠ [] → exec (.deckPatrolScrub p t row good bad) s = .next (z.dataFault l p.val 0))

/-! ### Faults (chapter 15) -/

/-- R500, R502, R503, R522: strikes of 24 h ago or earlier lapse, and no others. A retest of a FENCED span is taken up at once, or
kept until no job runs; a fence of an unbound ACTIVE or SPARE span takes effect at once, a bound one's waits for the tick
boundary; while an action is in progress, or of a span in another state, either is refused with RESULT 2. A span that passes its
test is SPARE and leaves the fence list; one that fails stays FENCED. R504 to R506: a re-fetched tile set is tried from the
sources in order. A completion of no repair, or of a source that is not the one to try, changes nothing. The copy in this module
or the host's is written over the tile set's places, and it passes when the extent read back has the digest of its journal record:
the repair is over, and counted. When it does not pass, the next source is tried; after the last one the fault manager gives up.
Choices of the model that it rests on: log entry 30. -/
def Obligations.SpanFaultsAreTestedAndRefetched : Prop :=
  (
  (∀ (t : Nat) (p : Fin 132) (s : State), ∃ u, exec (.strikeLapse t p) s = .next u ∧ u = { s.at t with spans := u.spans }
    ∧ (∀ k, k ≠ p.val → u.span k = s.span k)
    ∧ u.span p.val = { s.span p.val with strikes := (u.span p.val).strikes }
    ∧ ∀ y, y ∈ (u.span p.val).strikes ↔ y ∈ (s.span p.val).strikes ∧ max s.time t < y + 86400000000000)
  ∧ (∀ (t : Nat) (who : Requester) (p : Fin 132) (s y : State), Reached t who s y →
    let z := y.setReg 0x0B0010 (BitVec.ofNat 32 p.val)
    let no : State := { z with flt := { s.flt with spanDone := true, spanResult := 2 } }.noteSet (w1c 0x0B0010 29)
    let m := s.mapEntry p.val
    ((m.status ≠ .fenced ∨ s.flt.ctrlSpan ≠ none) → exec (.spanRetest t who p) s = .next no)
    ∧ (m.status = .fenced → s.flt.ctrlSpan = none → p.val ∉ s.flt.testAsked → s.flt.testing ≠ some p.val →
      (s.running = none → s.flt.testing = none → s.flt.scrubbing = false → s.flt.testAsked = [] →
        exec (.spanRetest t who p) s = .next { z with flt := { s.flt with ctrlSpan := some p.val, testing := some p.val } })
      ∧ (s.running ≠ none → exec (.spanRetest t who p) s = .next { z with
          flt := { s.flt with ctrlSpan := some p.val, testAsked := s.flt.testAsked ++ [p.val] } }))
    ∧ ((m.status = .fenced ∨ m.status = .fusedOff ∨ s.flt.ctrlSpan ≠ none) → exec (.spanFence t who p) s = .next no)
    ∧ (s.flt.ctrlSpan = none → m.status = .active → m.logical ≠ none → s.running ≠ none → exec (.spanFence t who p) s
        = .next { z with flt := { s.flt with ctrlSpan := some p.val, fenceAsked := s.flt.fenceAsked ++ [p.val] } })
    ∧ (s.flt.ctrlSpan = none → m = { status := .spare, logical := none } → ∃ u, exec (.spanFence t who p) s = .next u
        ∧ u.mapEntry p.val = { status := .fenced, logical := none } ∧ (∀ q, q ≠ p.val → u.mapEntry q = s.mapEntry q)
        ∧ u.mapEpoch = s.mapEpoch + 1 ∧ u.flt.spanDone = true ∧ u.flt.spanResult = 0 ∧ u.flt.ctrlSpan = none
        ∧ (s.flt.fenceList.length < 32 → p.val ∉ s.flt.fenceList → u.flt.fenceList = s.flt.fenceList ++ [p.val])
        ∧ (32 ≤ s.flt.fenceList.length → u.flt.fenceList = s.flt.fenceList)
        ∧ u.spans = s.spans ∧ u.jobs = s.jobs ∧ u.mem = s.mem))
  ∧ ∀ (t : Nat) (p : Fin 132) (pass : Bool) (s : State),
    (s.flt.testing ≠ some p.val → exec (.spanTestDone t p pass) s = .next (s.at t))
    ∧ (s.flt.testing = some p.val → ∃ v : State, exec (.spanTestDone t p pass) s = .next (v.startTest.dispatch false)
      ∧ v.flt.testing = none ∧ v.span p.val = (s.span p.val).scrubbed ∧ (∀ k, k ≠ p.val → v.span k = s.span k)
      ∧ (∀ q, q ≠ p.val → v.mapEntry q = s.mapEntry q)
      ∧ v.mapEntry p.val = (if pass = true ∧ (s.mapEntry p.val).status = .fenced then { status := .spare, logical := none }
          else s.mapEntry p.val)
      ∧ v.flt.fenceList = (if pass = true then s.flt.fenceList.filter (fun q => decide (q ≠ p.val)) else s.flt.fenceList)
      ∧ (s.flt.ctrlSpan = some p.val → v.flt.ctrlSpan = none ∧ v.flt.spanDone = true ∧ v.flt.spanResult = if pass then 0 else 1)
      ∧ v.jobs = s.jobs ∧ v.mem = s.mem ∧ v.running = s.running))
  ∧
  (
  ∀ (t g : Nat) (src : RefetchSource) (bytes : List Byte) (errs : MemErrs) (s : State), let y := (s.at t).upset errs
    let hit (r : Repair) : Bool := !r.failed && r.granules.any (fun n => decide (r.place (s.entry r.entry) n / 32 = g))
    (s.flt.repairs.find? hit = none → exec (.refetchDone t g src bytes errs) s = .next y)
    ∧ ∀ r, s.flt.repairs.find? hit = some r →
      (∀ c, (s.repairSources r)[r.source]? = some c → c ≠ src → exec (.refetchDone t g src bytes errs) s = .next y)
      ∧ ((s.repairSources r)[r.source]? = none → exec (.refetchDone t g src bytes errs) s = .next (y.giveUp r))
      ∧ (src = .host → (s.repairSources r)[r.source]? = some .host → bytes.length = 32 * r.granules.length → ∃ w,
          w = (y.memWrite ((r.granules.flatMap (fun n => addrs (r.place (s.entry r.entry) n) 32)).zip bytes)).endPeer r
          ∧ (∀ a, (∀ n ∈ r.granules, a < r.place (s.entry r.entry) n ∨ r.place (s.entry r.entry) n + 32 ≤ a) →
              w.memByte a = y.memByte a)
          ∧ (w.extentGood r = true → exec (.refetchDone t g src bytes errs) s
              = .next ((if r.mirror = true then w else w.inc 0x0B0140 1).swapRepair r none))
          ∧ (w.extentGood r = false → r.source + 1 < (w.repairSources r).length → exec (.refetchDone t g src bytes errs) s
              = .next ((w.swapRepair r (some { r with source := r.source + 1 })).askPeer { r with source := r.source + 1 }))
          ∧ (w.extentGood r = false → (w.repairSources r).length ≤ r.source + 1 → exec (.refetchDone t g src bytes errs) s
              = .next (w.giveUp r)))
      ∧ (src = .mirror → (s.repairSources r)[r.source]? = some .mirror →
          (∀ n ∈ r.granules, y.poisoned (r.other (s.entry r.entry) n) = false) →
          let from_ := r.granules.flatMap (fun n => addrs (r.other (s.entry r.entry) n) 32)
          let w := ((y.memRead from_).2.memWrite ((r.granules.flatMap (fun n => addrs (r.place (s.entry r.entry) n) 32)).zip
            (from_.map y.memByte))).endPeer r
          w.extentGood r = true → exec (.refetchDone t g src bytes errs) s
            = .next ((if r.mirror = true then w else w.inc 0x0B0138 1).swapRepair r none))
      ∧ (src = .host → (s.repairSources r)[r.source]? = some .host → bytes.length ≠ 32 * r.granules.length →
          r.source + 1 < (s.repairSources r).length → y.endPeer r = y → exec (.refetchDone t g src bytes errs) s
            = .next ((y.swapRepair r (some { r with source := r.source + 1 })).askPeer { r with source := r.source + 1 })))

/-! ### Resets, power and the start (chapters 18, 20) -/

/-- R572, R575, R577, R578: a reset that takes effect starts POWER_ON with LAST_RESET's code and the module sealed; no request,
handle, log, landing or job is left, fuses and flash stay, and a warm one keeps device memory, repairs, strikes and the fault
log that a cold one loses. A requested reset takes effect at once, or waits, merged with one that waits, while a publish or a
fuse step is in progress; below READY it restarts the sequence, cold once a cold start is in progress. R511: a chip fault is
recorded and resets a chip that has power: READY or in a warm start with what a warm reset keeps, in a cold start as a cold
one. With AUTO_RESTART 1 the chip starts again at POWER_ON with LAST_RESET 4, but after the third within an hour it is HALTED
with FAULT_LIMIT; with AUTO_RESTART 0 it stays IN_RESET. An unpowered or halted chip is left as it is. R564, R573, R616, R617:
main power good starts POWER_ON cold with the straps latched, once standby power is there; it does not come while PWR_EN is
low, after a thermal trip, or twice. Losing main power is a cold reset that never waits, to STANDBY, with the module sealed
and device memory lost; PWR_EN low is such a loss. Losing standby power is one to IN_RESET; it lifts the bar of a trip, and
leaves no sound image of a firmware write that it cuts. R247, R407, R408, R566, R579: a port of a READY chip that enters reset, by
its PERST pin or otherwise, is closed and counted; its logs, expected SEQs and marker address are gone, the records of a
publish in progress that were still to come are dropped, its requests are
marked to be taken out at the next cut and its handles leave flight, and no other port's do. A VF's reset does so for its
partition on that port alone. A pin or a reset of an absent port or of one in reset does nothing else; during a start only the
port is closed. A port leaves reset when its link trains. Choices of the model that it rests on: log entries 11, 27 and 28. -/
def Obligations.ResetsPowerAndPorts : Prop :=
  (
  (∀ (k : ResetKind) (s : State), let u := s.takeReset k
    u.boot.state = .powerOn ∧ u.boot.kind = k ∧ u.boot.lastReset = (if k = .warm then 3 else 2) ∧ u.boot.deferred = none
      ∧ u.requests = [] ∧ u.handles = [] ∧ u.logs = [] ∧ u.landings = [] ∧ u.jobs = [] ∧ u.running = none ∧ u.cache = []
      ∧ u.counters = [] ∧ u.tick = Tick.idle ∧ u.via.closed = true ∧ u.sec.isOpen = false ∧ u.sec.meas = [] ∧ u.sec.debugUsed = false
      ∧ u.flash = s.flash ∧ u.fuses = s.fuses ∧ u.flt.fenceList = s.flt.fenceList ∧ u.flt.flashLog = s.flt.flashLog
      ∧ (k = .cold → u.mem.bytes = [] ∧ u.mem.poison = [] ∧ u.mem.repairLog = s.mem.repairLog ∧ u.hot = [] ∧ u.ended = []
          ∧ u.flt.log = [] ∧ ∀ p, u.span p = Span.idle)
      ∧ (k = .warm → s.landings = [] → u.mem.bytes = s.mem.bytes ∧ u.mem.poison = s.mem.poison ∧ u.mem.lgs = s.mem.lgs
          ∧ u.mem.rows = s.mem.rows ∧ u.flt.log = s.flt.log
          ∧ u.ended = ((s.jobs.map (fun (e : Nat × Job) =>
              (e.1, { e.2 with state := JobState.ended, outcome := 0x09, endHandles := [], preempts := [] }))).reverse ++ s.ended).take 64))
  ∧ (∀ (t : Nat) (who : Requester) (value : Word) (s y : State), Reached t who s y →
    let c (k : ResetKind) : Instr := if k = .warm then .warmResetRequest t who value else .coldResetRequest t who value
    ∀ k : ResetKind,
      (s.boot.state = .ready → let m := ResetKind.merge s.boot.deferred k
        (y.resetWaits = false → exec (c k) s = .next (y.takeReset m))
        ∧ (y.resetWaits = true → exec (c k) s = .next { y with boot := { y.boot with deferred := some m } }))
      ∧ (s.boot.state = .halted → exec (c k) s = .next (if k = .cold then y.takeReset .cold else y))
      ∧ (s.boot.state = .pierBoot ∨ s.boot.state = .memTrain ∨ s.boot.state = .selftest ∨ s.boot.state = .hostEnable →
          exec (c k) s = .next (y.takeReset (if s.boot.kind = .cold then .cold else k))))
  ∧ ∀ (t : Nat) (s : State),
    (s.boot.deferred = none ∨ (s.at t).resetWaits = true → exec (.resetTakesEffect t) s = .next (s.at t))
    ∧ ∀ k, s.boot.deferred = some k → (s.at t).resetWaits = false → exec (.resetTakesEffect t) s = .next ((s.at t).takeReset k))
  ∧
  (
  ∀ (t : Nat) (cause : BitVec 8) (s : State), let now := max s.time t
    let recent := s.flt.chipFaults.filter (fun x => decide (now < x + 3600000000000))
    let k := if s.boot.state = .ready ∨ s.boot.kind = .warm then ResetKind.warm else .cold
    (s.powered = false ∨ s.boot.state = .halted → exec (.chipFault t cause) s = .next (s.at t))
    ∧ (s.powered = true → s.boot.state ≠ .halted → ∃ u, exec (.chipFault t cause) s = .next u
      ∧ u.jobs = [] ∧ u.requests = [] ∧ u.handles = [] ∧ u.landings = [] ∧ u.running = none ∧ u.tick.active = false
      ∧ u.sec.isOpen = false ∧ u.via.closed = true ∧ u.boot.kind = k ∧ u.flt.chipFaultStart = true
      ∧ u.flt.chipFaults = now :: recent ∧ u.flash = s.flash ∧ u.fuses = s.fuses ∧ u.flt.fenceList = s.flt.fenceList
      ∧ (k = .warm → s.landings = [] → u.mem.bytes = s.mem.bytes ∧ u.mem.poison = s.mem.poison)
      ∧ (s.regb 0x0B000C 31 = false → u.boot.state = .inReset)
      ∧ (s.regb 0x0B000C 31 = true → 2 ≤ recent.length → u.boot.state = .halted ∧ u.boot.haltCause = 4)
      ∧ (s.regb 0x0B000C 31 = true → recent.length < 2 → u.boot.state = .powerOn ∧ u.boot.lastReset = 4)))
  ∧
  (
  let lost (s u : State) : Prop := u.boot.mainGood = false ∧ u.boot.mainPg = false ∧ u.jobs = [] ∧ u.requests = []
    ∧ u.landings = [] ∧ u.mem.bytes = [] ∧ u.sec.isOpen = false ∧ u.via.closed = true ∧ u.fuses = s.fuses
    ∧ u.flash.unsealCount = s.flash.unsealCount ∧ u.flt.fenceList = s.flt.fenceList
  (∀ (t : Nat) (s : State), (s.boot.mainGood = false → exec (.mainPowerLoss t) s = .next (s.at t))
    ∧ (s.boot.mainGood = true → ∃ u, exec (.mainPowerLoss t) s = .next u ∧ lost s u ∧ u.boot.state = .standby ∧ u.flash = s.flash
      ∧ u.out = (s.at t).out ++ (s.at t).cutPublish ∧ u.pub = none))
  ∧ (∀ (t : Nat) (s : State), (s.boot.standby = false → exec (.standbyLoss t) s = .next (s.at t))
    ∧ (s.boot.standby = true → ∃ u, exec (.standbyLoss t) s = .next u ∧ lost s u ∧ u.boot.state = .inReset ∧ u.boot.standby = false
      ∧ u.pwr.tripped = false ∧ u.pwr.barred = false ∧ u.sb = { stream := none, firmware := none, abandoned := none }
      ∧ (s.sb.firmware = none → u.flash = s.flash) ∧ (s.sb.firmware ≠ none → u.flash.firmware.sound = false)))
  ∧ (∀ (t : Nat) (s : State), (s.boot.mainGood = true → ∃ u, exec (.pwrEnChange t false) s = .next u ∧ lost s u
      ∧ u.boot.state = .standby ∧ u.boot.pwrEn = false ∧ u.pwr.barred = s.pwr.barred)
    ∧ ∃ u, exec (.pwrEnChange t true) s = .next u ∧ u = { s.at t with boot := { s.boot with pwrEn := true }, pwr := u.pwr }
      ∧ u.pwr.enLowAt = none
      ∧ ∀ l, s.pwr.enLowAt = some l → (l + 1000000000 ≤ max s.time t → u.pwr.barred = false)
          ∧ (max s.time t < l + 1000000000 → u.pwr.barred = s.pwr.barred))
  ∧ (∀ (t : Nat) (cool mode : BitVec 2) (s : State),
    (s.boot.mainGood = true ∨ s.boot.pwrEn = false ∨ s.pwr.barred = true → exec (.mainPowerGood t cool mode) s = .next (s.at t))
    ∧ (s.boot.mainGood = false → s.boot.pwrEn = true → s.pwr.barred = false →
      ∃ u, exec (.mainPowerGood t cool mode) s = .next u ∧ u = { s.at t with boot := u.boot } ∧ u.boot.mainGood = true
        ∧ u.boot.coolStrap = cool.toNat ∧ u.boot.portMode = mode.toNat
        ∧ (s.boot.standby = true → s.sb.firmware = none → u.boot.state = .powerOn ∧ u.boot.kind = .cold
            ∧ u.boot.lastReset = s.boot.nextCause ∧ u.boot.startedAt = max s.time t)
        ∧ (s.boot.standby = false → u.boot.state = s.boot.state)))
  ∧ ∀ (t : Nat) (s : State), (s.boot.standby = true → exec (.standbyUp t) s = .next (s.at t))
    ∧ (s.boot.standby = false → ∃ u, exec (.standbyUp t) s = .next u ∧ u = { s.at t with boot := u.boot } ∧ u.boot.standby = true
      ∧ (s.boot.mainGood = false → u.boot.state = .standby)
      ∧ (s.boot.mainGood = true → u.boot.state = .powerOn ∧ u.boot.kind = .cold ∧ u.boot.lastReset = s.boot.nextCause)))
  ∧
  (
  let noHost (p : Nat) (s : State) : Prop := (∀ e ∈ s.landings, ¬(e.2.host = true ∧ e.2.port = p))
    ∧ s.ticking = true ∧ ∀ j, s.job? = some j → j.type ≠ .ingest
  let gone (f : Nat → Nat → Bool) (s u : State) : Prop :=
    u.requests = s.requests.map (fun e => (e.1, { e.2 with dropped := e.2.dropped || f e.2.port e.2.partition }))
    ∧ u.handles = s.handles.map (fun e => (e.1, if f e.2.port e.2.partition && decide (e.2.gone = 0) then
        { e.2 with gone := 1, reserve := 0 } else e.2))
    ∧ u.waiting = s.waiting.filter (fun w => !(kfind? s.handles w.handle).elim false (fun i => f i.port i.partition))
    ∧ u.logs = s.logs.filter (fun e => !f (e.1 / 256) (e.1 % 256)) ∧ u.jobs = s.jobs ∧ u.mem = s.mem ∧ u.landings = s.landings
  (∀ (t : Nat) (p : Fin 4) (c : PortResetCause) (s : State), s.portPresent p.val = true → (s.port p.val).inReset = false →
    s.boot.state = .ready → noHost p.val s →
    (∃ u, exec (.portReset t p c) s = .next u ∧ gone (fun q _ => decide (q = p.val)) s u
      ∧ u.pub = (s.at t).pub.map (fun x => { x with items := x.items.filter (fun i => !i.goesWith p.val none) })
      ∧ u.lanes = s.lanes.filter (fun e => !decide (e.1 / 8192 = p.val)) ∧ u.regw (tollPort p.val 4) = 0 ∧ u.regw (tollPort p.val 8) = 0
      ∧ (c ≠ .pfFlr → u.port p.val = Port.down ∧ u.portOpen p.val = false) ∧ (∀ q, q ≠ p.val → u.port q = s.port q))
    ∧ ∃ u, exec (.perst t p true) s = .next u ∧ gone (fun q _ => decide (q = p.val)) s u ∧ p.val ∈ u.perstLow
      ∧ u.port p.val = Port.down ∧ ∀ q, q ≠ p.val → u.port q = s.port q)
  ∧ (∀ (t : Nat) (p : Fin 4) (c : PortResetCause) (s : State),
    (s.portPresent p.val = false ∨ (s.port p.val).inReset = true → exec (.portReset t p c) s = .next (s.at t))
    ∧ (s.portPresent p.val = true → (s.port p.val).inReset = false → s.boot.state ≠ .ready → ∃ u,
        exec (.portReset t p c) s = .next u ∧ u = { s.at t with ports := u.ports } ∧ u.portOpen p.val = false
          ∧ ∀ q, q ≠ p.val → u.port q = s.port q)
    ∧ exec (.perst t p false) s = .next { s.at t with perstLow := s.perstLow.filter (fun q => decide (q ≠ p.val)) })
  ∧ (∀ (t : Nat) (p : Fin 4) (vf : BitVec 8) (s : State), s.portOpen p.val = true → noHost p.val s →
    (s.vfPart? p.val vf.toNat = none → exec (.vfFlr t p vf) s = .next ((s.at t).inc (tollCtr p.val 0x20) 1))
    ∧ ∀ k, s.vfPart? p.val vf.toNat = some k → ∃ u, exec (.vfFlr t p vf) s = .next u
      ∧ gone (fun q j => decide (q = p.val) && decide (j = k)) s u ∧ u.ports = s.ports
      ∧ u.pub = (s.at t).pub.map (fun x => { x with items := x.items.filter (fun i => !i.goesWith p.val (some k)) }))
  ∧ ∀ (t : Nat) (p : Fin 4) (s : State),
    (s.powered = true → s.portPresent p.val = true → p.val ∉ s.perstLow → (s.port p.val).linkUp = false →
      ∃ u, exec (.pcieLinkUp t p) s = .next u ∧ u = { s.at t with ports := u.ports }
        ∧ u.port p.val = { Port.down with linkUp := true, inReset := false } ∧ (∀ q, q ≠ p.val → u.port q = s.port q)
        ∧ (s.boot.state = .ready → u.portOpen p.val = true))
    ∧ (s.powered = false ∨ p.val ∈ s.perstLow ∨ (s.port p.val).linkUp = true → exec (.pcieLinkUp t p) s = .next (s.at t)))

/-- R436, R563, R568, R569, R571, R591, R594: a command of the start acts in its state alone. Firmware that verifies is started and
extends M0; other firmware halts the start with FIRMWARE. Each stack that trains is at the throttle level of its reading; one
that fails is LOST, and with every stack failed the start halts with NO_MEMORY. A faulty router halts it with ROUTER; with no
span failing, the map stays, and the trestle unit is IN_SERVICE or SUSPECT by its test. HOST_ENABLE ends in READY. The test that
ends outside the start is a running SELFTEST job's, which ends with DONE or SELFTEST_FAILED (R436). Choices of the model that it
rests on: log entries 3, 26 and 50. -/
def Obligations.StartPassesItsStates : Prop :=
  (∀ (t : Nat) (s : State),
    (s.boot.state ≠ .powerOn ∨ s.boot.mainGood = false → exec (.pierBoot t) s = .next (s.at t))
    ∧ (s.boot.state = .powerOn → s.boot.mainGood = true → s.firmwareOk = true → ∃ u, exec (.pierBoot t) s = .next u
      ∧ u.boot = { s.boot with state := .pierBoot, mainPg := true } ∧ u.sec.logCount = s.sec.logCount + 1
      ∧ u.slot 0 = sha384 (digestBytes (s.slot 0) ++ digestBytes s.flash.firmware.digest ++ natToBytes 4 0)
      ∧ (∀ i, i ≠ 0 → u.slot i = s.slot i) ∧ u = { s.at t with boot := u.boot, sec := u.sec })
    ∧ (s.boot.state = .powerOn → s.boot.mainGood = true → s.firmwareOk = false → exec (.pierBoot t) s = .next { s.at t with
        boot := { s.boot with state := .halted, mainPg := true, haltCause := 1 } }))
  ∧ (∀ s : State, s.firmwareOk = true ↔ s.flash.firmware.sound = true
      ∧ s.fuses.revoked.getLsbD s.flash.firmware.rootPair = false ∧ s.fuses.minSvn ≤ s.flash.firmware.svn)
  ∧ (∀ (t : Nat) (failed : BitVec 32) (temps : List Byte) (s : State),
    (s.boot.state ≠ .pierBoot → exec (.memTrainDone t failed temps) s = .next (s.at t))
    ∧ (s.boot.state = .pierBoot → (∀ i, i < 32 → s.stackLost i = false) → ∃ u, exec (.memTrainDone t failed temps) s = .next u
      ∧ (∀ i, i < 32 → failed.getLsbD i = true → u.stackLost i = true)
      ∧ (∀ i, i < 32 → failed.getLsbD i = false → ((u.stk i).state = .active ∨ (u.stk i).state = .degraded)
          ∧ (u.stk i).level = throttleLevel 0 (temps.getD i 0#8).toNat ∧ (u.stk i).trainTemp = (temps.getD i 0#8).toNat)
      ∧ (failed ≠ BitVec.allOnes 32 → u.boot.state = .selftest)
      ∧ (failed = BitVec.allOnes 32 → u.boot.state = .halted ∧ u.boot.haltCause = 3)
      ∧ u.mem.bytes = s.mem.bytes ∧ u.mem.poison = s.mem.poison
      ∧ (s.boot.kind = .cold → u.mem.lgs = s.mem.repairLog ∧ u.mem.rows = s.mem.rowLog)
      ∧ (s.boot.kind = .warm → u.mem.lgs = s.mem.lgs ∧ u.mem.rows = s.mem.rows)))
  ∧ (∀ (t : Nat) (bad : BitVec 132) (pass : Bool) (s : State),
    (s.boot.state ≠ .selftest → (∀ j, s.job? = some j → j.type ≠ .selftest) → ∀ ok,
      exec (.selftestDone t ok bad pass) s = .next (s.at t))
    ∧ (s.boot.state ≠ .selftest → ∀ id j, s.running = some id → s.job? = some j → j.type = .selftest → ∀ ok,
      exec (.selftestDone t ok bad pass) s
        = .next ((s.at t).pausePoint id (some (if ok = true ∧ bad = 0 ∧ pass = true then 0x00 else 0x07))))
    ∧ (s.boot.state = .selftest → ∃ u, exec (.selftestDone t false bad pass) s = .next u
      ∧ u = { s.at t with boot := { s.boot with state := .halted, haltCause := 2, stResult := 3 } })
    ∧ (s.boot.state = .selftest → ∃ u, exec (.selftestDone t true 0 pass) s = .next u
      ∧ u = { s.at t with boot := u.boot, trs := u.trs } ∧ u.boot.state = .hostEnable ∧ u.boot.stFenced = 0
      ∧ (u.boot.stResult = 1 ↔ ∀ i, i < 32 → s.stackLost i = false)
      ∧ (s.trs.state ≠ .fenced → pass = true → u.trs.state = .inService)
      ∧ (s.trs.state ≠ .fenced → pass = false → s.trs.suspects < 2 → u.trs.state = .suspect)
      ∧ (s.trs.state = .fenced → u.trs = s.trs)))
  ∧ ∀ (t : Nat) (s : State),
    (s.boot.state ≠ .hostEnable → exec (.hostEnable t) s = .next (s.at t))
    ∧ (s.boot.state = .hostEnable → s.boot.kind = .cold → s.flash.pins = [] → s.flash.viaProfile = none → s.boot.newLost = [] →
        s.pwr.hard = false → (∀ e ∈ s.mem.stk, e.2.level ≠ 11) → s.pwr.dieMax < 105 → ∃ u, exec (.hostEnable t) s = .next u
      ∧ u.boot.state = .ready ∧ u.counters = [] ∧ u.mem = { s.mem with rateCap := if s.pwr.brake then 8 else 64 }
      ∧ u.pwr.capW = (if s.regf 0x0D0004 16 16 = 0 then profileCap s.boot.coolStrap
          else min (profileCap s.boot.coolStrap) (max 600 (s.regf 0x0D0004 16 16)))
      ∧ u.sec.logCount = s.sec.logCount + 1 ∧ u.sec.isOpen = s.sec.isOpen ∧ u.regs = s.regs ∧ u.fuses = s.fuses)

/-- R363, R625, R626, R628, R630, R633: a stack's sample raises its throttle level at once to that of Table 11.2, lowers it only 2
°C below the threshold that raised it, and sets STACK_THROT when it leaves 0. A die sample below the limits only reports the
hottest sensor; one of 115 °C or more trips: THERM_TRIP_N falls, main power is lost and stays away, TRIP_LAST is set. Hard
limiting forces N down by 4, not below 20, and again every 10 ms; a step waits for the end of a publish. An input sample is
PWR_INPUT, with INPUT_EDGE below 42 V or above 58 V. R622, R623, R628: when PWR_BRAKE_N falls on a READY module the memory
rate cap is 8 and the fall is counted and alerted; when it rises the cap goes on from its floor. Between cuts the cap falls by
4 when the input power exceeds the power cap, not below ceil(64 × N ÷ 42) unless hard limiting holds, and rises by 2, up to
64, after 10 ms below 0.95 of it; under the brake and below READY it stands. Choices of the model that it rests on: log
entries 26 and 32. -/
def Obligations.ThermalAndPowerLimitsAct : Prop :=
  (
  (∀ cur temp : Nat, cur ≤ 11 →
    (throttleLevel cur temp ≤ 11 ∧ (temp < 95 → cur = 0 → throttleLevel cur temp = 0)
      ∧ (∀ n, 1 ≤ n → n ≤ 10 → temp = 94 + n → cur ≤ n → throttleLevel cur temp = n)
      ∧ (105 ≤ temp → throttleLevel cur temp = 11)
      ∧ (0 < cur → temp = 93 + cur → throttleLevel cur temp = cur) ∧ (0 < cur → temp + 1 = 93 + cur → throttleLevel cur temp = cur - 1)
      ∧ (temp ≤ 93 → throttleLevel cur temp = 0)))
  ∧ (∀ (t : Nat) (st : Fin 32) (temp : Nat) (s : State),
    ((s.stk st.val).state = .untrained → exec (.throttleSample t st temp) s = .next (s.at t).countPower)
    ∧ ((s.stk st.val).state ≠ .untrained → ∃ u, exec (.throttleSample t st temp) s = .next u
      ∧ u.stk st.val = { s.stk st.val with level := throttleLevel (s.stk st.val).level temp, temp := temp }
      ∧ (∀ i, i ≠ st.val → u.stk i = s.stk i)
      ∧ ((s.stk st.val).level = 0 → 95 ≤ temp → u.regb 0x0D0014 1 = true)
      ∧ u.mem.bytes = s.mem.bytes ∧ u.jobs = s.jobs ∧ u.requests = s.requests))
  ∧ (∀ (t : Nat) (temps : List Byte) (s : State), s.boot.mainGood = true → s.boot.standby = true →
    let h := hottestSensor temps
    (115 ≤ h.2 → ∃ u, exec (.dieTempSample t temps) s = .next u ∧ u.pwr.tripped = true ∧ u.pwr.barred = true
      ∧ u.boot.mainGood = false ∧ u.boot.state = .standby ∧ u.boot.nextCause = 1 ∧ u.regb 0x0D0014 5 = true ∧ u.mem.bytes = []
      ∧ u.sec.isOpen = false)
    ∧ (h.2 < 105 → s.pwr.hard = false → (∀ e ∈ s.mem.stk, e.2.level ≠ 11) → ∃ u, exec (.dieTempSample t temps) s = .next u
      ∧ u.pwr.dieMax = h.2 ∧ u.pwr.dieSensor = h.1 ∧ u.pwr.n = s.pwr.n ∧ u.mem = s.mem ∧ u.boot = s.boot ∧ u.tick = s.tick
      ∧ (s.pwr.dieMax < 95 → 95 ≤ h.2 → u.regb 0x0D0014 0 = true) ∧ (h.2 < 95 → u.regs = s.regs)))
  ∧ (∀ (t : Nat) (s : State), s.pwr.hard = true → (∀ l, s.pwr.lastForced = some l → l + 10000000 ≤ max s.time t) →
    s.pwr.forcedN = none → 20 < s.pwr.n → ∃ u, exec (.forcedClockStep t) s = .next u ∧ u.pwr.lastForced = some (max s.time t)
      ∧ u.mem = s.mem ∧ u.requests = s.requests ∧ u.jobs = s.jobs
      ∧ ((s.at t).publishes = false → u.pwr.n = max 20 (s.pwr.n - 4) ∧ u.pwr.forcedN = none)
      ∧ ((s.at t).publishes = true → u.pwr.n = s.pwr.n ∧ u.pwr.forcedN = some (max 20 (s.pwr.n - 4))))
  ∧ (∀ (t n : Nat) (s : State), s.pwr.forcedN = some n → s.pwr.hard = false →
    ((s.at t).publishes = false → ∃ u, exec (.forcedClockStep t) s = .next u ∧ u.pwr.n = n ∧ u.pwr.forcedN = none)
    ∧ ((s.at t).publishes = true → exec (.forcedClockStep t) s = .next (s.at t).countPower))
  ∧ ∀ (t : Nat) (w : BitVec 16) (v b : Byte) (s : State), ∃ u, exec (.powerInputSample t w v b) s = .next u
    ∧ u.pwr.mainW = w.toNat ∧ u.pwr.mainV = v.toNat ∧ u.pwr.stbyW = b.toNat ∧ u.pwr.n = s.pwr.n ∧ u.mem = s.mem ∧ u.boot = s.boot
    ∧ (s.boot.mainGood = true → v.toNat < 42 ∨ 58 < v.toNat → u.regb 0x0D0014 6 = true)
    ∧ (42 ≤ v.toNat → v.toNat ≤ 58 → b.toNat ≤ 25 → u.regs = s.regs))
  ∧
  (
  (∀ (t : Nat) (s : State), (s.pwr.brake = true → exec (.brakeApply t) s = .next (s.at t).countPower)
    ∧ (s.pwr.brake = false → ∃ u, exec (.brakeApply t) s = .next u ∧ u.pwr.brake = true ∧ u.pwr.n = s.pwr.n
      ∧ u.regb 0x0D0014 4 = true
      ∧ (kget Counter.zero u.counters 0x0D0108).live.toNat = min ((kget Counter.zero s.counters 0x0D0108).live.toNat + 1) 0xFFFFFFFF
      ∧ (s.boot.state = .ready → u.mem = { s.mem with rateCap := 8 }) ∧ (s.boot.state ≠ .ready → u.mem = s.mem)))
  ∧ (∀ (t : Nat) (s : State), ∃ u, exec (.brakeRelease t) s = .next u ∧ u.pwr.brake = false ∧ u.pwr.n = s.pwr.n ∧ u.regs = s.regs
    ∧ (s.boot.state = .ready → s.pwr.hard = false →
        u.mem = { s.mem with rateCap := max s.mem.rateCap ((64 * s.pwr.n + 41) / 42) })
    ∧ (s.boot.state ≠ .ready ∨ s.pwr.hard = true → u.mem = s.mem))
  ∧ ∀ (t : Nat) (watts : BitVec 16) (s : State),
    (s.boot.state ≠ .ready ∨ s.pwr.brake = true → exec (.memRateCapAdjust t watts) s = .next (s.at t))
    ∧ (s.boot.state = .ready → s.pwr.brake = false → s.pwr.capW < watts.toNat → ∃ u,
        exec (.memRateCapAdjust t watts) s = .next u ∧ u = { s.at t with mem := u.mem, pwr := { s.pwr with lowSince := none } }
          ∧ u.mem = { s.mem with rateCap := u.mem.rateCap }
          ∧ (s.pwr.hard = true → u.mem.rateCap = s.mem.rateCap - 4)
          ∧ (s.pwr.hard = false → u.mem.rateCap = max (s.mem.rateCap - 4) ((64 * s.pwr.n + 41) / 42)))
    ∧ (s.boot.state = .ready → s.pwr.brake = false → watts.toNat ≤ s.pwr.capW → 95 * s.pwr.capW ≤ 100 * watts.toNat →
        exec (.memRateCapAdjust t watts) s = .next { s.at t with pwr := { s.pwr with lowSince := none } })
    ∧ ∀ l, s.boot.state = .ready → s.pwr.brake = false → watts.toNat ≤ s.pwr.capW → 100 * watts.toNat < 95 * s.pwr.capW →
        s.pwr.lowSince = some l →
        (l + 10000000 ≤ max s.time t → exec (.memRateCapAdjust t watts) s = .next { s.at t with
          pwr := { s.pwr with lowSince := some (max s.time t) }, mem := { s.mem with rateCap := min 64 (s.mem.rateCap + 2) } })
        ∧ (max s.time t < l + 10000000 → exec (.memRateCapAdjust t watts) s = .next (s.at t)))

/-! ### The root of trust (chapter 19) -/

/-- R595 to R597, R600, R604: an action of SEC_CTRL ends DONE with its RESULT. ACTION 2 seals the module at once, extends M4, and
touches no job. ACTION 1 takes the next HSS index; the first quote after a start, and each one whose block is used up, first
reserves 1,024 further indices in both copies of RESERVED_TOP; it is refused with RESULT 3 while another is being written, and
with RESULT 2 when the block would pass 2^40. It is written within 20 ms. ACTION 5 changes nothing but what it writes out.
R587, R589, R592: ACTION 3 raises MIN_SVN to the running image's version when that is higher. ACTION 4 revokes the pair that
ROOT names, unless it would leave none or signed the running manifest. ACTIONS 6 and 7 enrol and remove an operator pair on an
unsealed module, up to 8, of class 0x10, no identifier twice, with M1 extended. What is refused changes no fuse and no key,
with RESULT 3; a record that was not fetched is RESULT 1. R598, R601: a debug read of a sealed module reads nothing and
reports RESULT 1; of an unsealed one, a granule index out of the unit's range, a reserved unit or a FENCED span is refused
with RESULT 2 and reads nothing; else DATA is the granule, and DEBUG_USED is set. It changes no memory, deck store, line or
job. Choices of the model that it rests on: log entries 20, 21 and 22. -/
def Obligations.RootOfTrustCommandsAct : Prop :=
  (
  ∀ (t : Nat) (who : Requester) (value : Word) (s y : State), Reached t who s y →
    let z := y.secFields value
    let ends (r : Nat) : State := { z with sec := { z.sec with done := true, result := r } }.noteSet (w1c 0x0C0004 26)
    let top := max s.flash.reservedTopA s.flash.reservedTopB
    let fresh : Prop := ∀ e, s.sec.lmsTop = some e → e ≤ s.sec.lmsNext
    (∃ u, exec (.secReseal t who value) s = .next u ∧ u = { z with sec := u.sec, obs := (ends 0).obs } ∧ u.sec.isOpen = false ∧ u.sec.done = true
      ∧ u.sec.result = 0 ∧ u.sec.logCount = s.sec.logCount + 1 ∧ (∀ i, i ≠ 4 → u.slot i = s.slot i)
      ∧ u.slot 4 = sha384 (digestBytes (s.slot 4) ++ digestBytes (sha384 (Config.sealEvent false
          ++ natToBytes 4 s.flash.unsealCount.toNat)) ++ natToBytes 4 4))
    ∧ ((s.at t).secBusy = true → exec (.secQuote t who value) s = .next (ends 3))
    ∧ ((s.at t).secBusy = false → fresh → 2 ^ 40 < top + 1024 →
        exec (.secQuote t who value) s = .next (ends 2))
    ∧ ((s.at t).secBusy = false → fresh → top + 1024 ≤ 2 ^ 40 → ∃ u e, exec (.secQuote t who value) s = .next u
        ∧ u = { z with sec := u.sec, flash := u.flash, fresh := s.fresh + 1, out := u.out, counters := u.counters, obs := (ends 0).obs }
        ∧ u.flash = { s.flash with reservedTopA := top + 1024, reservedTopB := top + 1024 }
        ∧ u.sec = { z.sec with done := true, result := 0, busyUntil := some e, lmsNext := top + 1, lmsTop := some (top + 1024) }
        ∧ max s.time t ≤ e ∧ e ≤ max s.time t + 20000000)
    ∧ (∀ b, (s.at t).secBusy = false → s.sec.lmsTop = some b → s.sec.lmsNext < b → ∃ u e, exec (.secQuote t who value) s = .next u
        ∧ u = { z with sec := u.sec, fresh := s.fresh + 1, out := u.out, counters := u.counters, obs := (ends 0).obs }
        ∧ u.sec = { z.sec with done := true, result := 0, busyUntil := some e, lmsNext := s.sec.lmsNext + 1 }
        ∧ max s.time t ≤ e ∧ e ≤ max s.time t + 20000000)
    ∧ ∃ u, exec (.secCertificates t who value) s = .next u
        ∧ u = { z with sec := { z.sec with done := true, result := 0 }, out := u.out, counters := u.counters, obs := (ends 0).obs }
        ∧ ∀ p, who = .pf p → u.out = (z.dma p.val z.secAddr (s.flash.certs ++ s.sec.logBytes)).out)
  ∧
  (
  ∀ (t : Nat) (who : Requester) (value : Word) (s y : State), Reached t who s y →
    let z := y.secFields value
    let ends (r : Nat) : State := { z with sec := { z.sec with done := true, result := r } }.noteSet (w1c 0x0C0004 26)
    let root := bitsAt value.toNat 22 2
    let mask := s.fuses.revoked ||| BitVec.ofNat 4 (2 ^ root)
    (s.fuses.minSvn < min 63 s.flash.firmware.svn → exec (.secRaiseMinSvn t who value) s
        = .next { ends 0 with fuses := { s.fuses with minSvn := min 63 s.flash.firmware.svn } })
    ∧ (min 63 s.flash.firmware.svn ≤ s.fuses.minSvn → exec (.secRaiseMinSvn t who value) s = .next (ends 3))
    ∧ (mask = 0xF#4 ∨ root = s.flash.firmware.rootPair → exec (.secRevokeRoot t who value) s = .next (ends 3))
    ∧ (mask ≠ 0xF#4 → root ≠ s.flash.firmware.rootPair → ∃ u, exec (.secRevokeRoot t who value) s = .next u
        ∧ u = { z with fuses := { s.fuses with revoked := mask }, sec := u.sec, obs := (ends 0).obs } ∧ u.sec.result = 0 ∧ u.sec.done = true
        ∧ u.sec.logCount = s.sec.logCount + 1 ∧ (∀ i, i ≠ 1 → u.slot i = s.slot i))
    ∧ (∀ record, (s.sec.isOpen = false → exec (.secEnrol t who value record) s = .next (ends 3))
      ∧ (s.sec.isOpen = true → record = none → exec (.secEnrol t who value record) s = .next (ends 1))
      ∧ ∀ bs, record = some bs → bs.length = 2048 → s.sec.isOpen = true → let k := pairOfRecord bs
        (keyClass k.id ≠ 0x10 ∨ (∃ q ∈ s.flash.operators, q.id = k.id) ∨ 8 ≤ s.flash.operators.length →
          exec (.secEnrol t who value record) s = .next (ends 3))
        ∧ (keyClass k.id = 0x10 → (∀ q ∈ s.flash.operators, q.id ≠ k.id) → s.flash.operators.length < 8 → ∃ u,
            exec (.secEnrol t who value record) s = .next u ∧ u = { z with flash := u.flash, sec := u.sec, obs := (ends 0).obs }
            ∧ u.flash = { s.flash with operators := s.flash.operators ++ [k] } ∧ u.sec.result = 0
            ∧ u.sec.logCount = s.sec.logCount + 1 ∧ (∀ i, i ≠ 1 → u.slot i = s.slot i)))
    ∧ let id := s.regw 0x0C0008
      (s.sec.isOpen = false ∨ (∀ q ∈ s.flash.operators, q.id ≠ id) → exec (.secRemoveKey t who value) s = .next (ends 3))
      ∧ (s.sec.isOpen = true → (∃ q ∈ s.flash.operators, q.id = id) → ∃ u, exec (.secRemoveKey t who value) s = .next u
          ∧ u = { z with flash := u.flash, sec := u.sec, obs := (ends 0).obs } ∧ u.sec.result = 0 ∧ u.sec.logCount = s.sec.logCount + 1
          ∧ u.flash = { s.flash with operators := s.flash.operators.filter (fun q => decide (q.id ≠ id)) }))
  ∧
  (
  (∀ (t : Nat) (who : Requester) (value : Word) (s y : State), Reached t who s y →
    let w := y.settled
    let z := w.setReg 0x0C0244 value
    let unit := w.regf 0x0C0240 28 4
    let p := w.regf 0x0C0240 20 8
    let i := value.toNat + 2 ^ 32 * w.regf 0x0C0248 0 8
    (w.sec.isOpen = false → exec (.debugRead t who value) s = .next { z with sec := { w.sec with dbgResult := 1 } })
    ∧ (w.sec.isOpen = true → dbgRange unit ≤ i ∨ (unit ≤ 2 ∧ (132 ≤ p ∨ (w.mapEntry p).status = .fenced)) →
        exec (.debugRead t who value) s = .next { z with sec := { w.sec with dbgResult := 2 } })
    ∧ (w.sec.isOpen = true → i < dbgRange unit → (unit ≤ 2 → p < 132 ∧ (w.mapEntry p).status ≠ .fenced
          ∧ (w.mapEntry p).status ≠ .fusedOff) → ∃ u, exec (.debugRead t who value) s = .next u
        ∧ u = { z with sec := u.sec, mem := u.mem, spans := u.spans, counters := u.counters, fresh := u.fresh }
        ∧ u.sec = { w.sec with debugUsed := true, dbgResult := 0, dbgData := u.sec.dbgData }
        ∧ (unit = 0 → u.sec.dbgData = natToBytes 32 ((w.span p).granule i).toNat)
        ∧ (unit = 1 → u.sec.dbgData = natToBytes 32 ((w.span p).accGranule i).toNat)
        ∧ (unit = 3 → u.sec.dbgData = natToBytes 32 (w.trs.granule i).toNat)
        ∧ (unit = 4 → w.poisoned (32 * i) = false → inDevice (32 * i) = false → u.sec.dbgData = (addrs (32 * i) 32).map w.memByte)
        ∧ (∀ a, u.memByte a = w.memByte a) ∧ (unit ≠ 4 → u.mem = w.mem)
        ∧ (∀ k, k ≠ p → u.span k = w.span k) ∧ (u.span p).deck = (w.span p).deck ∧ (u.span p).lines = (w.span p).lines)))
  ∧ ∀ (g : Nat) (x : Span) (j : Nat), j < 32 → (natToBytes 32 (x.granule g).toNat).getD j 0#8 = kget 0#8 x.deck (32 * g + j)

/-! ### Observability (chapter 17) -/

/-- R545 to R548, R551: a write of OBS_CLOSE closes the counters of its scope and no other: the live copy moves to the closed copy
and starts again with the events of the cycle; with neither SCOPE nor PSEUDO nothing is closed or counted. A sample leaves every
counter, and stands in the requester's own registers: live, or closed with WHICH, or the closed copy with BOUNDARY in the cycle of
a close, whichever of the two came first in it; of no counter it is 0 and not VALID. A VF's close of its window waits for the
switch while ticks run, and its sample is of its own window. R554 to R560: a write of SPN_TRACE_CTRL ends the window and the
freeze of its bound span's buffer and keeps the records, but for those kept over a warm reset, which EN 1 discards. FIRE fires the
trigger unless FIRED is 1; at the trigger point an armed span is TRIGGERED, one that is not armed is left alone. The drain stops
while it is off, its ring is full or its port takes nothing; else the next record goes to slot TAIL, with PHASE and WINDOW, and
leaves its buffer. TAKE takes a snapshot, or counts in DROPPED while one is being written or without an address; one is written
with its header last, and counted. Choices of the model that it rests on: log entries 18 and 19. -/
def Obligations.CountersAndTracesAreObserved : Prop :=
  (
  (∀ (t : Nat) (who : Requester) (value : Word) (s y : State), Reached t who s y →
    let z := y.countPower.upToNow
    let c := kget Counter.zero z.counters
    let closed (n : Nat) (x : Counter) : Counter := if x.at_ = some z.time then x else
      { x with closed := BitVec.ofNat 32 (x.live.toNat - n), live := BitVec.ofNat 32 n, closes := x.closes + 1, at_ := some z.time }
    let obs (u : State) : Obs := { z.obs with closeSeq := z.obs.closeSeq + 1, samples := u.obs.samples, vfSamples := u.obs.vfSamples }
    (bitsAt value.toNat 30 2 = 0 → value.getLsbD 29 = false → exec (.obsClose t who value) s = .next z.resample)
    ∧ (bitsAt value.toNat 30 2 = 2 → value.getLsbD 29 = false → ∃ u, exec (.obsClose t who value) s = .next u
      ∧ u = { z with counters := u.counters, obs := obs u }
      ∧ (∀ o, isDeviceCtr o = true → o / 0x10000 = bitsAt value.toNat 24 4 →
          kget Counter.zero u.counters o = closed (y.cycEvents o) (c o))
      ∧ ∀ o, isDeviceCtr o = false ∨ o / 0x10000 ≠ bitsAt value.toNat 24 4 → kget Counter.zero u.counters o = c o)
    ∧ (∀ p, bitsAt value.toNat 30 2 = 3 → value.getLsbD 29 = false → z.phys? (bitsAt value.toNat 0 8) = some p → ∃ u,
        exec (.obsClose t who value) s = .next u
      ∧ u = { z with spans := u.spans, obs := obs u }
      ∧ (∀ k, k ≠ p → u.span k = z.span k)
      ∧ u.span p = { z.span p with
          counters := (u.span p).counters
          trace := if y.cycSpanEvents p 0x408 = 0 then { (z.span p).trace with firstTime := 0, lastTime := 0 }
            else { (z.span p).trace with firstTime := (z.span p).trace.lastTime } }
      ∧ (∀ o, isSpanCtr o = true → kget Counter.zero (u.span p).counters o
          = closed (y.cycSpanEvents p o) (kget Counter.zero (z.span p).counters o))
      ∧ ∀ o, isSpanCtr o = false → kget Counter.zero (u.span p).counters o = kget Counter.zero (z.span p).counters o)
    ∧ let a := 4 * (bitsAt value.toNat 0 24 / 4)
      ∃ (u : State) (x : SampleRegs), exec (.obsSample t who value) s = .next u ∧ u = { z with obs := u.obs }
        ∧ u.obs = { z.obs with samples := u.obs.samples } ∧ x.taken = some z.time
        ∧ kget SampleRegs.zero u.obs.samples (sampleSet who) = x
        ∧ (∀ k, k ≠ sampleSet who → kget SampleRegs.zero u.obs.samples k = kget SampleRegs.zero z.obs.samples k)
        ∧ (z.counterAt a = none → x.value = 0 ∧ x.flags = 0)
        ∧ ∀ k, z.counterAt a = some k → x.flags.getLsbD 31 = true ∧ x.flags.toNat % 2 ^ 16 = k.closes.toNat
          ∧ (k.at_ = some z.time → x.value = k.closed ∧ x.flags.getLsbD 30 = true)
          ∧ (k.at_ ≠ some z.time → x.value = (if value.getLsbD 31 = true then k.closed else k.live) ∧ x.flags.getLsbD 30 = false))
  ∧ (∀ (s : State), (∃ a b, s.resample = { s with obs := { s.obs with samples := a, vfSamples := b } })
    ∧ ∀ k x, kfind? s.obs.samples k = some x → kfind? s.resample.obs.samples k = some (if x.taken ≠ some s.time then x else
        let r := s.sampleOf (s.counterAt (4 * (bitsAt x.addr.toNat 0 24 / 4))) (x.addr.getLsbD 31)
        { x with value := r.1, flags := r.2 }))
  ∧ ∀ (t : Nat) (port : Fin 4) (vf : BitVec 8) (value : Word) (s : State) (p : Nat), s.portOpen port.val = true →
    s.vfPart? port.val vf.toNat = some p →
    let y := (s.at t).portRx port.val 4
    let w := kget PWindow.zero s.obs.windows p
    (value.getLsbD 31 = false → exec (.pctrClose t port vf value) s = .next y)
    ∧ (value.getLsbD 31 = true → ∃ u, exec (.pctrClose t port vf value) s = .next u ∧ u = { y with obs := u.obs }
      ∧ (∀ k, k ≠ p → kget PWindow.zero u.obs.windows k = kget PWindow.zero s.obs.windows k)
      ∧ (s.ticking = true → kget PWindow.zero u.obs.windows p = { w with closing := true })
      ∧ (s.ticking = false → kget PWindow.zero u.obs.windows p = { w with closing := true }.switch (max s.time t)))
    ∧ ∃ (u : State) (x : SampleRegs), exec (.pctrSample t port vf value) s = .next u ∧ u = { y with obs := u.obs }
      ∧ kget SampleRegs.zero u.obs.vfSamples (256 * port.val + vf.toNat) = x
      ∧ (∀ k, k ≠ 256 * port.val + vf.toNat → kget SampleRegs.zero u.obs.vfSamples k = kget SampleRegs.zero s.obs.vfSamples k)
      ∧ u.obs.windows = s.obs.windows
      ∧ let k := kget Counter.zero w.counters (bitsAt value.toNat 2 4)
        (k.at_ ≠ some (max s.time t) → x.value = if value.getLsbD 31 = true then k.closed else k.live)
        ∧ (k.at_ = some (max s.time t) → x.value = k.closed))
  ∧
  (
  (∀ (t : Nat) (who : Requester) (l : Fin 128) (value : Word) (s y : State), Reached t who s y →
    (s.phys? l.val = none → exec (.traceArm t who l value) s = .next y)
    ∧ (∀ p, s.phys? l.val = some p → ∃ u, exec (.traceArm t who l value) s = .next u ∧ u = { y with spans := u.spans }
      ∧ (∀ k, k ≠ p → u.span k = s.span k) ∧ u.span p = { s.span p with trace := { (s.span p).trace with
          ctrl := value &&& 0xDFFFFFFF#32, triggered := false, frozen := false, postLeft := none
          records := (if (s.span p).trace.kept && value.getLsbD 31 then [] else (s.span p).trace.records)
          kept := (s.span p).trace.kept && !value.getLsbD 31 } })
    ∧ (s.regb 0x0A0034 30 = true → ∃ u, exec (.triggerFire t who value) s = .next u ∧ u = { y with regs := u.regs }
      ∧ u.regb 0x0A0034 30 = !(value.getLsbD 30 && y.mayClear (w1c 0x0A0034 30)))
    ∧ (s.regb 0x0A0034 30 = false → value.getLsbD 31 = true → value.getLsbD 25 = false → ∃ u,
        exec (.triggerFire t who value) s = .next u ∧ u = { y with regs := u.regs, obs := { s.obs with
            trigger := some (y.timebase, 0), setAt := kins s.obs.setAt (w1c 0x0A0034 30) y.time } }
      ∧ u.regb 0x0A0034 30 = true)
    ∧ (s.regb 0x0A0034 30 = false → value.getLsbD 31 = false → ∃ u, exec (.triggerFire t who value) s = .next u
      ∧ u = { y with regs := u.regs } ∧ u.regb 0x0A0034 30 = false)
    ∧ let z := y.setReg 0x0A0040 (value &&& 0x38000000#32)
      (value.getLsbD 31 = false → exec (.snapshotTake t who value) s = .next z)
      ∧ let v := z.upToNow
        (value.getLsbD 31 = true → v.obs.snapBusy = false → v.snapAddr ≠ 0 → exec (.snapshotTake t who value) s = .next { v with
          obs := { v.obs with snapBusy := true, snapData := v.snapshotBytes 0, snapNo := v.obs.snapNo + 1 } })
        ∧ (value.getLsbD 31 = true → v.obs.snapBusy = true ∨ v.snapAddr = 0 → ∃ d, exec (.snapshotTake t who value) s = .next { v with
          obs := { v.obs with snapDropped := d } } ∧ d.toNat = min 255 (v.obs.snapDropped.toNat + 1)))
  ∧ (∀ (t : Nat) (s : State), (s.obs.trigger = none → exec (.triggerPoint t) s = .next (s.at t))
    ∧ ∀ l p e, s.obs.trigger = some e → s.binding = [(l, p)] → ∃ u, exec (.triggerPoint t) s = .next u
      ∧ u = { s.at t with spans := u.spans, obs := { s.obs with trigger := none } }
      ∧ (s.armed l = true → (s.span p).trace.triggered = false → (u.span p).trace.triggered = true
          ∧ (u.span p).trace.postLeft = some (s.span p).trace.post ∧ (u.span p).seq = (s.span p).seq ∧ (u.span p).deck = (s.span p).deck)
      ∧ (s.armed l = false ∨ (s.span p).trace.triggered = true → u.spans = s.spans))
  ∧ (∀ (t n : Nat) (s : State), s.regb 0x0A0020 31 = false ∨ s.ringFull = true ∨ s.portOpen (s.regf 0x0A0020 29 2) = false →
    exec (.traceDrain t n) s = .next (s.at t))
  ∧ (∀ (t turn p i : Nat) (win : Bool) (r : TraceRec) (s : State), s.regb 0x0A0020 31 = true → s.ringFull = false →
    s.portOpen (s.regf 0x0A0020 29 2) = true → s.nextRecord = some (turn, p, i, win) → (s.span p).trace.records[i]? = some r →
    ∃ u, exec (.traceDrain t 1) s = .next u ∧ u.obs.tail = s.obs.tail + 1 ∧ (∀ k, k ≠ p → u.span k = s.span k)
      ∧ u.span p = { s.span p with trace := { (s.span p).trace with records := (s.span p).trace.records.eraseIdx i } }
      ∧ u.out = (s.at t).out ++ [.dma (s.regf 0x0A0020 29 2)
          (4096 * (s.reg 0x0A0024 / 4096) + 2 ^ 32 * s.reg 0x0A0028 + 32 * (s.obs.tail.toNat % s.ringSize?))
          (natToBytes 32 (r.bits.toNat + ((if s.obs.tail.toNat / s.ringSize? % 2 = 0 then 2 ^ 15 else 0) + (if r.win then 2 ^ 8 else 0))))])
  ∧ ∀ (t : Nat) (s : State), (s.obs.snapBusy = false → exec (.snapshotWritten t) s = .next (s.at t))
    ∧ (s.obs.snapBusy = true → ∃ u, exec (.snapshotWritten t) s = .next u
      ∧ u = { s.at t with counters := u.counters, out := u.out,
                          obs := { s.obs with snapBusy := false, snapData := [], snapCount := s.obs.snapCount + 1 } }
      ∧ (s.portOpen (s.regf 0x0A0040 27 2) = true → u.out = (s.at t).out ++ [
          .dma (s.regf 0x0A0040 27 2) (s.snapAddr + 64) (s.obs.snapData.drop 64), .dma (s.regf 0x0A0040 27 2) s.snapAddr (s.obs.snapData.take 64)])))

/-! ### The viaduct (chapters 5, 14, 16) -/

/-- R461 to R463: at the end of training a port whose 4 lanes have trained, by the receiver and by the partner's RX_READY in 8
frames, is up at 4 lanes, one with the 2 lanes of a half at 2; it sends HELLO. Any other failure, or a ring port behind closed
switches, is TRAIN_FAIL, and TRAIN_RETRY trains it again while EN and main power stand. A good training frame is answered on
its lane, its request taken within the taps' range; a bad one is ignored. A port that goes down loses what it holds, counted,
and retrains. Choices of the model that it rests on: log entries 1, 8 and 55. -/
def Obligations.LinksTrainAndFall : Prop :=
  ∀ (t : Nat) (port : Fin 8) (s : State), let x := s.cefin port.val
    let put (y : CefinPort) : State :=
      { s.at t with via := { s.via with ports := kset CefinPort.down s.via.ports port.val y } }
    let kept (u : State) : Prop := u = { s.at t with
        counters := u.counters, out := u.out, via := { s.via with ports := u.via.ports } }
      ∧ ∀ j, j ≠ port.val → u.cefin j = s.cefin j
    let may : Prop := s.regb (0x090010 + 4 * port.val) 31 = true ∧ s.boot.mainGood = true
    (∀ ok : BitVec 4, x.state ≠ .training → exec (.linkTrained t port ok) s = .next (s.at t))
    ∧ (∀ ok : BitVec 4, x.state = .training →
      let up (l : Nat) : Prop := ok.getLsbD l = true ∧ ∀ y, kfind? x.lanes l = some y → 8 ≤ y.ready
      let cut : Prop := port.val < 2 ∧ s.via.closed = true
      (cut ∨ (¬(up 0 ∧ up 1) ∧ ¬(up 2 ∧ up 3)) → exec (.linkTrained t port ok) s
        = .next (put { CefinPort.down with state := .trainFail, retrains := x.retrains }))
      ∧ (¬cut → (up 0 ∧ up 1) ∨ (up 2 ∧ up 3) → ∃ (u : State) (y : CefinPort), exec (.linkTrained t port ok) s = .next u
        ∧ kept u ∧ u.cefin port.val = y ∧ y.retrains = x.retrains
        ∧ ((up 0 ∧ up 1) ∧ up 2 ∧ up 3 → y.state = .upX4) ∧ (¬((up 0 ∧ up 1) ∧ up 2 ∧ up 3) → y.state = .upX2)
        ∧ (s.lockPort port.val = true → u.out = (s.at t).out ∧ y.held = [])
        ∧ (s.lockPort port.val = false → ∃ k : Pkt, u.out = (s.at t).out ++ [.packet port.val 0x01 k] ∧ k.port = port ∧ k.lseq = 0
            ∧ k.arg.toNat = s.chip + 2 ^ 14 * port.val + 2 ^ 17 * bit s.assigned
            ∧ y.held = [{ type := 0x01, half := 0, pkt := k }] ∧ y.txSeq = 1)))
    ∧ (x.state ≠ .trainFail → exec (.trainRetry t port) s = .next (s.at t))
    ∧ (x.state = .trainFail → (¬may → exec (.trainRetry t port) s = .next (s.at t))
      ∧ (may → exec (.trainRetry t port) s
          = .next (put { x with state := .training, retrains := min 255 (x.retrains + 1), lanes := [] })))
    ∧ (x.state = .down → exec (.linkDown t port) s = .next (s.at t))
    ∧ (x.state ≠ .down → (∀ e ∈ s.requests, e.2.ho = none) → ∃ u : State, exec (.linkDown t port) s = .next u
      ∧ kept u ∧ u.out = (s.at t).out
      ∧ (kget Counter.zero u.counters 0x09020C).live.toNat
          = min ((kget Counter.zero s.counters 0x09020C).live.toNat + x.held.length + x.waiting.length) 0xFFFFFFFF
      ∧ (may → u.cefin port.val = { CefinPort.down with state := .training, retrains := min 255 (x.retrains + 1) })
      ∧ (¬may → u.cefin port.val = { CefinPort.down with retrains := x.retrains }))
    ∧ ∀ (lane : Fin 4) (f : TrainFrame),
      (x.state ≠ .training ∨ f.check.toNat ≠ frameSum f → exec (.trainingFrame t port lane f) s = .next (s.at t))
      ∧ (x.state = .training → f.check.toNat = frameSum f →
        let l := kget LaneTrain.start x.lanes lane.val
        let tap := bitsAt f.control.toNat 0 3
        let req := bitsAt f.control.toNat 3 2
        let v := l.taps.getD tap 0 + (if req = 1 then 1 else -1)
        let within : Prop := (Config.tapRange tap).1 ≤ v ∧ v ≤ (Config.tapRange tap).2
        ∃ (k : TrainFrame) (y : LaneTrain), exec (.trainingFrame t port lane f) s
            = .next { put { x with lanes := kins x.lanes lane.val y } with
                fresh := s.fresh + 1, out := (s.at t).out ++ [.frame port.val lane.val k] }
          ∧ y.ready = (if f.status.getLsbD 2 = true then l.ready + 1 else 0) ∧ y.precode = f.control.getLsbD 5
          ∧ y.sent = (l.sent + 1) % 65536
          ∧ (req = 0 → y.taps = l.taps ∧ y.answer = 0) ∧ (req = 3 → y.answer = 1)
          ∧ (req = 1 ∨ req = 2 → 4 < tap → y.taps = l.taps ∧ y.answer = 3)
          ∧ (req = 1 ∨ req = 2 → tap ≤ 4 → (within → y.taps = l.taps.set tap v ∧ y.answer = 1)
              ∧ (¬within → y.taps = l.taps ∧ y.answer = 2))
          ∧ k.lane.toNat = lane.val + 4 * port.val ∧ k.count.toNat = l.sent % 65536 ∧ k.check.toNat = frameSum k
          ∧ bitsAt k.status.toNat 0 2 = y.answer ∧ k.status.getLsbD 3 = y.precode)

/-- R464 to R470: a packet of this module goes out on the port of its route with the next LSEQ, held until acknowledged; without a
route it is counted in VIA_NOROUTE. A packet for another chip is forwarded so with TTL one lower, or dropped and counted at
TTL 0. A packet of a reserved TYPE is counted; a bad or missing one is asked for once with NAK_SEQ. LCTL acknowledges, returns
credit, half A first (the model's choice), and on NAK_SEQ every held packet from there on goes out again. Choices of the model
that it rests on: log entries 55 and 56. -/
def Obligations.PacketsAreSentForwardedAndReplayed : Prop :=
  (∀ (type vc dst arg : Nat) (payload : List (BitVec 256)) (z : State),
    (z.outPort dst = none → z.sendTo type vc dst arg payload = z.inc 0x090204 1)
    ∧ ∀ q, z.outPort dst = some q → q < 8 →
      let k : Pkt := { port := BitVec.toFin (BitVec.ofNat 3 q), vc := BitVec.ofNat 2 vc, lseq := BitVec.ofNat 12 (z.cefin q).txSeq,
                       dst := BitVec.ofNat 14 dst, src := BitVec.ofNat 14 z.chip, ttl := 63, arg := BitVec.ofNat 64 arg, payload := payload }
      let e : SentPkt := { type := BitVec.ofNat 8 type, half := z.halfOn q z.chip, pkt := k }
      (z.cefin q).canSend e = true → (z.cefin q).waiting = [] → ∃ u, z.sendTo type vc dst arg payload = u
        ∧ u = { z with counters := u.counters, out := z.out ++ [.packet q e.type k], via := { z.via with ports := u.via.ports } }
        ∧ u.cefin q = { z.cefin q with txSeq := ((z.cefin q).txSeq + 1) % 4096, held := (z.cefin q).held ++ [e],
                                       credits := kmod 0 (z.cefin q).credits (2 * e.pkt.vc.toNat + e.half) (· + pktUnits k) }
        ∧ ∀ j, j ≠ q → u.cefin j = z.cefin j)
  ∧ (∀ (t : Nat) (type : BitVec 8) (p : Pkt) (s : State), (s.cefin p.port.val).up = true →
    p.lseq.toNat = (s.cefin p.port.val).rxSeq →
    let y := s.arrived t p
    (knownType type.toNat = true → exec (.badPacket t type p) s = .next y)
    ∧ (knownType type.toNat = false → exec (.badPacket t type p) s = .next (y.inc 0x090208 1))
    ∧ (s.lockPort p.port.val = true ∨ s.assigned = false ∨ s.via.duplicate = true ∨ (s.via.checked = false ∧ type ≠ 0x51#8)
          ∨ s.ownNumber p.dst.toNat = true →
        exec (.packetForward t type p) s = .next y)
    ∧ (type.toNat ∈ [0x10, 0x11, 0x12, 0x13, 0x20, 0x21, 0x22, 0x23, 0x40, 0x41, 0x50, 0x51] → s.lockPort p.port.val = false →
      s.assigned = true → s.via.duplicate = false → s.via.checked = true → s.ownNumber p.dst.toNat = false →
      (p.ttl = 0 → exec (.packetForward t type p) s = .next (y.inc (viaCtr p.port.val 0x1C) 1))
      ∧ (p.ttl ≠ 0 → y.outPort p.dst.toNat = none → exec (.packetForward t type p) s = .next (y.inc 0x090204 1))
      ∧ ∀ q, p.ttl ≠ 0 → y.outPort p.dst.toNat = some q → q < 8 → (y.cefin q).waiting = [] →
        let k : Pkt := { p with port := BitVec.toFin (BitVec.ofNat 3 q), ttl := p.ttl - 1, fec := 0, lseq := BitVec.ofNat 12 (y.cefin q).txSeq }
        (y.cefin q).canSend { type := type, half := y.halfOn q p.src.toNat, pkt := k } = true →
        ∃ u : State, exec (.packetForward t type p) s = .next u
          ∧ u = { y with counters := u.counters, out := y.out ++ [.packet q type k], via := { y.via with ports := u.via.ports } }))
  ∧ (∀ (t : Nat) (port : Fin 8) (lseq : BitVec 12) (fec : Bool) (s : State), let x := s.cefin port.val
    let z : State := if fec = true then (s.at t).inc (viaCtr port.val 0x0C) 1 else s.at t
    (x.up = false → exec (.packetCrcFail t port lseq fec) s = .next (s.at t))
    ∧ (x.up = true → x.asked = true ∨ 2048 ≤ (lseq.toNat + 4096 - x.rxSeq) % 4096 → exec (.packetCrcFail t port lseq fec) s = .next z)
    ∧ (x.up = true → x.asked = false → (lseq.toNat + 4096 - x.rxSeq) % 4096 < 2048 → ∃ (u : State) (k : Pkt),
      exec (.packetCrcFail t port lseq fec) s = .next u
      ∧ u = { z with counters := u.counters, out := (s.at t).out ++ [.packet port.val 0x00 k],
                     via := { s.via with ports := kset CefinPort.down s.via.ports port.val { x with asked := true } } }
      ∧ bitsAt k.arg.toNat 13 12 = x.rxSeq % 4096 ∧ k.arg.getLsbD 25 = true ∧ k.arg.getLsbD 12 = false))
  ∧ ∀ (t : Nat) (p : Pkt) (s : State), let x := s.cefin p.port.val
    (x.up = false → exec (.lctl t p) s = .next (s.at t))
    ∧ (x.up = true → x.waiting = [] → p.arg.getLsbD 25 = false → ∃ (u : State) (y : CefinPort), exec (.lctl t p) s = .next u
      ∧ u = { s.at t with counters := u.counters, via := { s.via with ports := u.via.ports } }
      ∧ u.cefin p.port.val = y ∧ (∀ j, j ≠ p.port.val → u.cefin j = s.cefin j) ∧ y = { x with held := y.held, credits := y.credits }
      ∧ y.held = (if p.arg.getLsbD 12 = true then
          x.held.filter (fun q => decide (2048 ≤ (bitsAt p.arg.toNat 0 12 + 4096 - q.pkt.lseq.toNat) % 4096)) else x.held)
      ∧ ∀ v, v < 4 → let n := bitsAt p.arg.toNat (32 + 8 * v) 8
        let a := kget 0 x.credits (2 * v)
        kget 0 y.credits (2 * v) = a - n ∧ kget 0 y.credits (2 * v + 1) = kget 0 x.credits (2 * v + 1) - (n - a))
    ∧ (x.up = true → x.waiting = [] → p.arg.getLsbD 25 = true → p.arg.getLsbD 12 = false → (∀ e ∈ s.requests, e.2.ho = none) →
      let held := x.held.filter (fun q => decide (2048 ≤ ((bitsAt p.arg.toNat 13 12 + 4095) % 4096 + 4096 - q.pkt.lseq.toNat) % 4096))
      let late := x.replays.filter (fun r => decide (max s.time t < r + 1000000))
      ∃ u : State, exec (.lctl t p) s = .next u
        ∧ u = { s.at t with counters := u.counters, out := (s.at t).out ++ held.map (fun q => .packet p.port.val q.type q.pkt),
                            via := { s.via with ports := u.via.ports } }
        ∧ (late.length < 15 → (u.cefin p.port.val).held = held ∧ (u.cefin p.port.val).up = true
            ∧ (u.cefin p.port.val).replays = max s.time t :: late)
        ∧ (15 ≤ late.length → (u.cefin p.port.val).up = false ∧ (u.cefin p.port.val).held = []))

/-- R471 to R475: a WRITE that passes its check lands in full, expanded when SEG is 1, in device memory as the landing is striped
(R345), in an entry or in pages, or asks a deck store's port for its granules, each of which feeds counter CTR when FEED is 1, and
is acknowledged by WACK, in a deck store once its last granule has landed there; a READ that passes is answered with the granules
asked, a byte of poison or of the DEVICE region a free value. One that fails its check changes nothing but VIA_LAND_DROP. R476,
R478, R480: at its start cycle in its phase a pull entry sends its READs, once a run. RDATA of such an entry asks the deck store of its span, through the open remote window, and feeds its
counter; any other is dropped and counted. A WACK is taken by what waits for it: the stream of a remote store, the page stream of a
hand-over, whose last one sends the commit record, or the extents of an install. Choices of the model that it rests on: log
entries 1, 56 and 64. -/
def Obligations.RemoteWritesReadsAndPulls : Prop :=
  (
  ∀ (t : Nat) (p : Pkt) (s : State), Arrives p s → let y := s.arrived t p
    let lid := argLid p
    let off := argOff p
    let gs := landed p
    let n := argGranules p
    (argSeg p = false → gs = p.payload)
    ∧ (kfind? s.landings lid = none → exec (.write t p) s = .next (y.inc 0x090200 1)
        ∧ exec (.read t p) s = .next (y.inc 0x090200 1))
    ∧ ∀ g, kfind? s.landings lid = some g →
      (g.write = false ∨ s.withinLanding g off (32 * gs.length) = false → exec (.write t p) s = .next (y.inc 0x090200 1))
      ∧ (g.read = false ∨ g.kind ≠ .memory ∨ n = 0 ∨ 128 < n ∨ g.len < off + 32 * n →
          exec (.read t p) s = .next (y.inc 0x090200 1))
      ∧ (g.read = true → g.kind = .memory → n ≠ 0 → n ≤ 128 → off + 32 * n ≤ g.len → ∃ (z : State) (rs : List (BitVec 256)),
        exec (.read t p) s = .next (z.sendTo 0x13 2 p.src.toNat p.arg.toNat rs)
        ∧ rs.length = n ∧ (∀ a, z.memByte a = s.memByte a)
        ∧ z = { y with counters := z.counters, fresh := z.fresh, mem := { s.mem with lgs := z.mem.lgs } }
        ∧ ∀ i j, i < n → j < 32 → let a := s.landOff g.base (off + 32 * i + j)
          s.poisoned a = false → inDevice a = false → bitsAt (rs.getD i 0).toNat (8 * j) 8 = (s.memByte a).toNat)
      ∧ (g.write = true → s.withinLanding g off (32 * gs.length) = true → ∃ z : State,
        (g.kind ≠ .deck ∨ gs = [] ∨ s.tick.active = false ∨ s.phys? g.base = none →
          exec (.write t p) s = .next (z.sendTo 0x11 3 p.src.toNat (fieldAt 0 13 lid + fieldAt 13 40 off) []))
        ∧ let w : State := { y with landings := kins s.landings lid { g with wrote := g.wrote + gs.length } }
        let place (i : Nat) : Nat := s.landOff g.base (off + i)
        (g.kind = .memory → z = { w with counters := z.counters, mem := z.mem }
          ∧ (∀ a, (∀ i, i < 32 * gs.length → place i ≠ a) → z.memByte a = s.memByte a)
          ∧ ∀ i, i < 32 * gs.length → (∀ j, j < 32 * gs.length → place j = place i → j = i) → s.poisoned (place i) = false →
              z.memByte (place i) = (payloadBytes gs).getD i 0#8)
        ∧ (g.kind = .entry → argSeg p = false → z = w.entryWrite (s.entry g.base) off (payloadBytes gs))
        ∧ (g.kind = .handover → argSeg p = false → z = w.landPages lid g.base off (payloadBytes gs))
        ∧ ∀ q, g.kind = .deck → gs ≠ [] → s.tick.active = true → s.phys? g.base = some q →
          exec (.write t p) s = .next z ∧ z = { w with counters := z.counters, spans := z.spans }
            ∧ GranulesAsked q (g.first + off / 32) (argCtr p) y.cycNow (argFeed p)
                (some (p.src.toNat, fieldAt 0 13 lid + fieldAt 13 40 off)) gs s z))
  ∧ (∀ (q : Nat) (w : DeckPut) (k : Nat × Nat) (s : State), w.ack = some k →
    ((∃ v ∈ (s.span q).puts, v.ack = some k) → s.sendAcks q [w] = s)
    ∧ ((∀ v ∈ (s.span q).puts, v.ack ≠ some k) → s.sendAcks q [w] = s.sendTo 0x11 3 k.1 k.2 []))
  ∧
  (
  (∀ (t : Nat) (entry : Fin 256) (s : State), let e := s.remoteTarget entry.val
    let start := ((s.plan?.map (fun x => x.head.phaseS.getD (e.phase - 1) 0)).getD 0) + e.start
    (s.tick.active = false ∨ e.valid = false ∨ e.pull = false ∨ s.tick.phase ≠ e.phase ∨ entry.val ∈ s.via.pulls
        ∨ max s.time t < s.cycTime start → exec (.pullStart t entry) s = .next (s.at t))
    ∧ (s.tick.active = true → e.valid = true → e.pull = true → s.tick.phase = e.phase → entry.val ∉ s.via.pulls →
      s.cycTime start ≤ max s.time t → let z : State := { s.at t with via := { s.via with pulls := entry.val :: s.via.pulls } }
      (∃ u : State, exec (.pullStart t entry) s = .next u
        ∧ u = { z with counters := u.counters, out := u.out, via := { z.via with ports := u.via.ports } })
      ∧ (0 < e.granules → e.granules ≤ 128 → exec (.pullStart t entry) s
          = .next (z.sendTo 0x12 1 e.chip (fieldAt 0 13 e.lid + fieldAt 13 40 e.roff + fieldAt 56 8 e.granules) []))))
  ∧ (∀ (t : Nat) (p : Pkt) (s : State), Arrives p s → let y := s.arrived t p
    (y.pullOf p = none ∨ s.tick.active = false → exec (.rdata t p) s = .next (y.inc 0x090200 1))
    ∧ ∀ i e q, y.pullOf p = some (i, e) → let g := e.granule + (argOff p - e.roff) / 32
      (s.inRemoteWindow e.lspan g p.payload.length = false → exec (.rdata t p) s = .next (y.inc 0x090200 1))
      ∧ (s.tick.active = true → s.inRemoteWindow e.lspan g p.payload.length = true → s.phys? e.lspan = some q →
        ∃ z : State, exec (.rdata t p) s = .next z ∧ z = { y with spans := z.spans }
          ∧ GranulesAsked q g e.ctr y.cycNow e.feed none p.payload s z))
  ∧ ∀ (t : Nat) (p : Pkt) (s : State), Arrives p s → let y := s.arrived t p
    (s.binding = [] → (∀ e ∈ s.requests, e.2.ho = none) → s.via.ext = none → exec (.wack t p) s = .next y)
    ∧ (∀ l q slot n v, s.binding = [(l, q)] → (s.span q).streams = [(slot, v)] → v.remote = [(argLid p, argOff p, n)] →
      (∀ e ∈ s.requests, e.2.ho = none) → s.via.ext = none →
      exec (.wack t p) s = .next (y.ackStream y.cycNow l q slot n { v with remote := [] }))
    ∧ (∀ h q x, s.binding = [] → s.requests = [(h, q)] → q.ho = some x → x.dest = p.src.toNat → x.landing = argLid p →
      x.step = .sending → s.via.ext = none →
      let total := cdiv (pagesFor q.pageLog2 q.committed * s.pageSetBytes q.pageLog2) 4096
      (x.acked + 1 < total → exec (.wack t p) s
          = .next { y with requests := [(h, { q with ho := some { x with acked := x.acked + 1 } })] })
      ∧ (total ≤ x.acked + 1 → exec (.wack t p) s
          = .next (State.sendTo 0x22 1 x.dest (fieldAt 0 16 x.hoId + fieldAt 16 32 x.pages) []
              { y with requests := [(h, { q with ho := some { x with acked := x.acked + 1, step := .committed } })] })))
    ∧ ∀ f x, s.binding = [] → (∀ e ∈ s.requests, e.2.ho = none) → s.via.ext = some f →
      (f.chip ≠ p.src.toNat ∨ f.lid ≠ argLid p → exec (.wack t p) s = .next y)
      ∧ (f.chip = p.src.toNat → f.lid = argLid p →
        ((s.entry f.entry).extents.drop f.first).find? (fun x => decide (x.1 ≤ argOff p ∧ argOff p < x.1 + 32 * x.2)) = some x →
        let n := min 128 ((x.1 + 32 * x.2 - argOff p) / 32)
        (f.granulesLeft ≤ n → exec (.wack t p) s = .next { y with via := { y.via with ext := none } })
        ∧ (n < f.granulesLeft → exec (.wack t p) s
            = .next { y with via := { y.via with ext := some { f with granulesLeft := f.granulesLeft - n } } })))

/-- R170, R171, R479: an OFFER is refused with the STATUS of R479, or makes the HANDIN's entry what the offer says, opens a
landing of 8 ticks over its pages and answers with it. The source sends the pages on acceptance, their bytes as device memory holds
them and zeros from the committed length on, or answers HANDOVER_REFUSED. HO_COMMIT with the right count enters the request, at the
next keystone while ticks run, and is acknowledged; otherwise all that was allocated goes. HO_ACK releases the sequence at its
source, or breaks the hand-over. An expired landing breaks a hand-over that is not committed, and ends a committed one as
HANDOVER_UNCONFIRMED. Choices of the model that it rests on: log entries 16 and 64. -/
def Obligations.HandOverPacketsAct : Prop :=
  (∀ (t : Nat) (p : Pkt) (s : State), Arrives p s → let y := s.arrived t p
    let id := bitsAt p.arg.toNat 0 16
    let src := p.src.toNat
    let o := payloadBytes p.payload
    let answer (n lid : Nat) (z : State) : State := z.sendTo 0x21 3 src (fieldAt 0 16 id + fieldAt 16 8 n + fieldAt 24 13 lid) []
    let refuse (n : Nat) : Prop := exec (.offer t p) s = .next (answer n 0 (y.inc 0x040128 1))
    (y.handinFor? (leAt o 144 8) = none → refuse 1)
    ∧ ∀ h q, y.handinFor? (leAt o 144 8) = some (h, q) → let d := bytesDigest (byteSlice o 0 48)
      (y.readyEntry? d = none ∨ y.serveJob? d = none → refuse 2)
      ∧ ∀ e job, y.readyEntry? d = some e → y.serveJob? d = some job → let x := s.entry e
        let q' := q.ofOffer o x.modelId y.timebase
        let same : Prop := digestBytes (((kfind? s.bits job).map (·.kvDigest)).getD 0) = byteSlice o 48 48
          ∧ (∀ v, q'.variant = some v → x.owner? v = some q.partition)
          ∧ digestBytes (y.variantDigest x q'.variant) = byteSlice o 96 48
        let size : Prop := 4 ≤ q'.pageLog2 ∧ q'.pageLog2 ≤ 10
        (¬same → refuse 2)
        ∧ (same → q.streamLen < q'.maxTokens - q'.generated → refuse 5)
        ∧ (same → q'.maxTokens - q'.generated ≤ q.streamLen → s.running ≠ some job → refuse 4)
        ∧ (same → q'.maxTokens - q'.generated ≤ q.streamLen → s.running = some job → s.freeLid = none ∨ ¬size → refuse 3)
        ∧ (∀ base rows z, same → q'.maxTokens - q'.generated ≤ q.streamLen → s.running = some job → s.freeLid ≠ none → size →
          y.allocTable q' q'.committed = (false, base, rows, z) →
          exec (.offer t p) s = .next (answer 3 0 (State.inc 0x040128 1
            { z with kv := { z.kv with orphans := z.kv.orphans ++ [(base, rows)] } })))
        ∧ ∀ lid base rows z, same → q'.maxTokens - q'.generated ≤ q.streamLen → s.running = some job → s.freeLid = some lid →
          size → y.allocTable q' q'.committed = (true, base, rows, z) → kfind? z.requests h = some q →
          exec (.offer t p) s = .next (answer 0 lid { z with
            requests := kins z.requests h { q' with ptBase := base, ptRows := rows }
            landings := kins z.landings lid
              { kind := .handover, base := h, first := 0, len := pagesFor q'.pageLog2 q'.committed * z.pageSetBytes q'.pageLog2,
                read := false, write := true, host := false, port := 0, partition := none, bar4 := 0, expiry := some 8,
                since := z.time, wrote := 0 }
            via := { z.via with hoIn := z.via.hoIn ++ [{ src := src, hoId := id, handle := h, lid := lid,
                                                               pages := pagesFor q'.pageLog2 q'.committed, bytes := 0, committed := false }] } }))
  ∧ (∀ (t : Nat) (p : Pkt) (s : State), Arrives p s → let y := s.arrived t p
    let id := bitsAt p.arg.toNat 0 16
    let st := bitsAt p.arg.toNat 16 8
    let step (h : Nat) (k : HoStep) (z : State) : State := { z with
      requests := kupd z.requests h (fun q => { q with ho := q.ho.map (fun x => { x with step := k }) }) }
    (y.hoOf? id = none → exec (.offerAns t p) s = .next y ∧ exec (.hoAck t p) s = .next y)
    ∧ ∀ h q x, y.hoOf? id = some (h, x) → kfind? s.requests h = some q → q.ho = some x →
      (x.dest ≠ p.src.toNat ∨ x.step ≠ .offered → exec (.offerAns t p) s = .next y)
      ∧ (x.dest = p.src.toNat → x.step = .offered → st ≠ 0 →
          exec (.offerAns t p) s = .next (((step h .none y).inc 0x040128 1).answerKey x.handle 0x401 st))
      ∧ (x.dest = p.src.toNat → x.step = .offered → st = 0 → y.hoPlaces q ≠ [] → let lid := bitsAt p.arg.toNat 24 13
          ∃ (z : State) (bs : List Byte), exec (.offerAns t p) s
              = .next ((writesOf bs).foldl (fun (v : State) (w : Nat × List (BitVec 256)) =>
                  v.sendTo 0x10 2 x.dest (fieldAt 0 13 lid + fieldAt 13 40 w.1) w.2) z)
            ∧ bs.length = (y.hoPlaces q).length
            ∧ (∀ i, (y.hoPlaces q)[i]? = some none → bs.getD i 0#8 = 0#8)
            ∧ (∀ i a, (y.hoPlaces q)[i]? = some (some a) → s.poisoned a = false → inDevice a = false → bs.getD i 0#8 = s.memByte a)
            ∧ (∀ a, z.memByte a = s.memByte a)
            ∧ z = { y with
                counters := z.counters, obs := z.obs, fresh := z.fresh, mem := { s.mem with lgs := z.mem.lgs }
                requests := kins s.requests h { q with
                  ho := some { x with step := .sending, landing := lid, acked := 0, expiry := 8, since := max s.time t } } })
      ∧ (x.dest = p.src.toNat → x.step = .offered → st = 0 → y.hoPlaces q = [] → ∃ z : State,
          exec (.offerAns t p) s = .next (z.sendTo 0x22 1 x.dest (fieldAt 0 16 x.hoId + fieldAt 16 32 x.pages) [])
            ∧ z = { y with counters := z.counters, obs := z.obs, requests := kins s.requests h { q with
                ho := some { x with step := .committed, landing := bitsAt p.arg.toNat 24 13, acked := 0, expiry := 8,
                                    since := max s.time t } } })
      ∧ (x.dest ≠ p.src.toNat ∨ x.step ≠ .committed → exec (.hoAck t p) s = .next y)
      ∧ (x.dest = p.src.toNat → x.step = .committed → st = 0 →
          exec (.hoAck t p) s = .next (((step h .acked y).answerKey x.handle 0 0).endRequest h 0x07 x.dest))
      ∧ (x.dest = p.src.toNat → x.step = .committed → st ≠ 0 →
          exec (.hoAck t p) s = .next (((step h .none y).inc 0x040128 1).answerKey x.handle 0x402 0)))
  ∧ (∀ (t : Nat) (p : Pkt) (s : State), Arrives p s → let y := s.arrived t p
    let id := bitsAt p.arg.toNat 0 16
    let src := p.src.toNat
    let found := s.via.hoIn.find? (fun x => decide (x.src = src ∧ x.hoId = id) && !x.committed)
    (found = none → exec (.hoCommit t p) s = .next y)
    ∧ ∀ x q, found = some x → kfind? s.requests x.handle = some q →
      let right : Prop := bitsAt p.arg.toNat 16 32 = x.pages ∧ x.pages * s.pageSetBytes q.pageLog2 ≤ x.bytes
      let z : State := { y with via := { y.via with hoIn := s.via.hoIn.map (fun w =>
        if w.lid = x.lid then { w with committed := true } else w) } }
      (¬right → exec (.hoCommit t p) s = .next ((y.expireLanding x.lid).sendTo 0x23 3 src (fieldAt 0 16 id + fieldAt 16 8 1) []))
      ∧ (right → s.ticking = true → exec (.hoCommit t p) s = .next z)
      ∧ (right → s.ticking = false → ∃ v : State,
          exec (.hoCommit t p) s = .next (v.sendTo 0x23 3 src (fieldAt 0 16 id + fieldAt 16 8 0) [])
          ∧ v.landings = kdel s.landings x.lid ∧ v.via.hoIn = z.via.hoIn.filter (fun w => w.lid ≠ x.lid) ∧ v.mem = s.mem
          ∧ v.jobs = s.jobs ∧ v.requests = kins s.requests x.handle { q with
              state := (if q.footbridge = true then .footbridge else .decode), accepted := true, slotNo := 4096 }))
  ∧ ∀ (t : Nat) (handle : BitVec 32) (s : State) (q : Request), kfind? s.requests handle.toNat = some q →
    (q.ho = none → exec (.handoverConfirmExpiry t handle) s = .next (s.at t))
    ∧ ∀ x, q.ho = some x → let past := if s.ticking = true then 0 else (max s.time t - x.since) / 10000000
      let step (k : HoStep) : State := { s.at t with requests := kins s.requests handle.toNat { q with ho := some { x with step := k } } }
      (past < x.expiry → exec (.handoverConfirmExpiry t handle) s = .next (s.at t))
      ∧ (x.expiry ≤ past → x.step = .offered ∨ x.step = .sending → exec (.handoverConfirmExpiry t handle) s
          = .next (((step .none).inc 0x040128 1).answerKey x.handle 0x402 0))
      ∧ (x.expiry ≤ past → x.step = .committed → exec (.handoverConfirmExpiry t handle) s
          = .next ((((step .acked).inc 0x040128 1).answerKey x.handle 0x403 0).endRequest handle.toNat 0x07 x.dest))

/-- R446, R480, R481, R535 to R541: DIGEST counts on the lock-step link alone: READY is compared with the own header, a tick
digest with the own once that stands, and a difference freezes the pair. EXT_REQ is answered 1 without a READY entry of the
digest, 2 with another layout, 3 while a request is served, or 0, and then the extents follow as WRITEs in record order, with the
bytes that the entry holds. The walk of R540 goes on to the next item, or down a level at the first that differs, and ends there.
EXT_ANS lets the install that asked go on, or ends its job. Choices of the model that it rests on: log entries 7, 58 and 64. -/
def Obligations.DigestsAndExtentRequestsAct : Prop :=
  (∀ (t : Nat) (p : Pkt) (s : State), (s.cefin p.port.val).up = true → p.lseq.toNat = (s.cefin p.port.val).rxSeq →
    let y := s.arrived t p
    let bs := payloadBytes p.payload
    let d := bytesDigest (byteSlice bs 0 48)
    let scope := leAt bs 52 4
    let tick := bitsAt p.arg.toNat 0 32
    let lock (k : LockState) : State := { y with via := { y.via with lock := k } }
    (s.lockPort p.port.val = false → exec (.digest t p) s = .next y)
    ∧ (s.lockPort p.port.val = true → scope.testBit 0 = true → let k := { s.via.lock with paired := true, header := some d }
      (s.via.lock.frozen = true ∨ s.bitstream? = none ∨ d = s.headerDigest → exec (.digest t p) s = .next (lock k))
      ∧ (s.via.lock.frozen = false → s.bitstream? ≠ none → d ≠ s.headerDigest →
          exec (.digest t p) s = .next ((lock k).freeze 0)))
    ∧ (s.lockPort p.port.val = true → scope.testBit 0 = false → bitsAt scope 30 2 = 0 →
      let k := { s.via.lock with digests := ((tick, d) :: s.via.lock.digests.filter (fun e => decide (e.1 ≠ tick))).take 2 }
      (s.via.lock.frozen = true ∨ s.digestStands = false → exec (.digest t p) s = .next (lock k))
      ∧ (s.via.lock.frozen = false → s.digestStands = true → tick = s.tickNumber →
          (d = s.tickDigest → exec (.digest t p) s = .next (lock k))
          ∧ (d ≠ s.tickDigest → exec (.digest t p) s = .next ((lock k).freeze 1).sendWalk)))
    ∧ (s.lockPort p.port.val = true → scope.testBit 0 = false → bitsAt scope 30 2 ≠ 0 →
      (s.via.lock.frozen = false ∨ bitsAt scope 30 2 ≠ s.via.lock.level → exec (.digest t p) s = .next y)
      ∧ (s.via.lock.frozen = true → bitsAt scope 30 2 = s.via.lock.level → exec (.digest t p) s = .next (y.walkNext d)))
    ∧ (∀ (n : Nat) (z : State), let u := z.freeze n
      u.via.lock.frozen = true ∧ u.gov.nextCut = none
        ∧ (z.dueCycle z.cycNow = none → u.via.lock.div1 = BitVec.ofNat 32 z.tickNumber
          ∧ (z.tick.active = true → z.tick.sealed = false → u.tick.active = false ∧ u.tick.broken = some .lockstep)
          ∧ u.mem = z.mem ∧ u.requests = z.requests ∧ u.jobs = z.jobs))
    ∧ ∀ (d : BitVec 384) (z : State), let k := z.via.lock
      let same : Prop := d = z.walkItem.1
      let at_ (k : LockState) : State := { z with via := { z.via with lock := k } }
      (k.level = 1 → ¬same → z.walkNext d = (at_ { k with level := 2, desc := 0 }).sendWalk)
      ∧ (k.level = 1 → same → k.phase < 4 → z.walkNext d = (at_ { k with phase := k.phase + 1 }).sendWalk)
      ∧ (k.level = 2 → ¬same → z.walkNext d = (at_ { k with level := 3, span := 0 }).sendWalk)
      ∧ (k.level = 2 → same → k.desc < 4096 → z.walkNext d = (at_ { k with desc := k.desc + 1 }).sendWalk)
      ∧ (k.level = 3 → same → k.span < 129 → z.walkNext d = (at_ { k with span := k.span + 1 }).sendWalk)
      ∧ (k.level = 3 → ¬same →
          let place := fieldAt 29 3 k.phase + fieldAt 17 12 (min k.desc 4095) + fieldAt 9 8 (walkCode k.span)
          z.walkNext d = at_ { k with walkDone := true, level := 0, div0 := BitVec.ofNat 32 place }))
  ∧ (∀ (t : Nat) (p : Pkt) (s : State), Arrives p s → let y := s.arrived t p
    let id := bitsAt p.arg.toNat 0 16
    let lid := bitsAt p.arg.toNat 16 13
    let first := bitsAt p.arg.toNat 32 32
    let src := p.src.toNat
    let bs := payloadBytes p.payload
    let answer (n : Nat) : State := y.sendTo 0x41 3 src (fieldAt 0 16 id + fieldAt 16 8 n) []
    let d := bytesDigest (byteSlice bs 0 48)
    (s.readyEntry? d = none → exec (.extReq t p) s = .next (answer 1))
    ∧ ∀ e, s.readyEntry? d = some e → let x := s.entry e
      (x.layoutDigest ≠ bytesDigest (byteSlice bs 48 48) → exec (.extReq t p) s = .next (answer 2))
      ∧ (x.layoutDigest = bytesDigest (byteSlice bs 48 48) → y.extBusy = true → exec (.extReq t p) s = .next (answer 3))
      ∧ (x.layoutDigest = bytesDigest (byteSlice bs 48 48) → y.extBusy = false →
        let exts := (x.extents.drop first).take (leAt bs 96 4)
        let n := (exts.map (·.2)).sum
        (exts = [] → exec (.extReq t p) s = .next { answer 0 with via := { (answer 0).via with ext := none } })
        ∧ (n ≠ 0 → let f : ExtFlow := { chip := src, reqId := id, lid := lid, entry := e, first := first, granulesLeft := n }
          ∃ z : State, z = { answer 0 with obs := z.obs, via := { (answer 0).via with ext := some f } }
          ∧ exec (.extReq t p) s = .next (exts.foldl (fun (v : State) (w : Nat × Nat) => v.sendExtent src lid x w) z))))
  ∧ (∀ (src lid a n : Nat) (x : HotEntry) (s : State), 0 < n → n ≤ 128 → ∃ (z : State) (gs : List (BitVec 256)),
    s.sendExtent src lid x (a, n) = z.sendTo 0x10 2 src (fieldAt 0 13 lid + fieldAt 13 40 a) gs ∧ gs.length = n
    ∧ (∀ i j, i < n → j < 32 → let b := s.entryAddr x (a + 32 * i + j)
        s.poisoned b = false → inDevice b = false → bitsAt (gs.getD i 0).toNat (8 * j) 8 = (s.memByte b).toNat)
    ∧ (∀ b, z.memByte b = s.memByte b)
    ∧ z = { s with counters := z.counters, fresh := z.fresh, mem := { s.mem with lgs := z.mem.lgs } })
  ∧ ∀ (t : Nat) (p : Pkt) (s : State), Arrives p s → let y := s.arrived t p
    (s.via.install = none ∨ s.running = none → exec (.extAns t p) s = .next y)
    ∧ ∀ f job, s.via.install = some f → s.running = some job → let st := bitsAt p.arg.toNat 16 8
      (f.chip ≠ p.src.toNat ∨ f.reqId ≠ bitsAt p.arg.toNat 0 16 → exec (.extAns t p) s = .next y)
      ∧ (f.chip = p.src.toNat → f.reqId = bitsAt p.arg.toNat 0 16 →
        (st = 0 → exec (.extAns t p) s = .next { y with jobs := kupd s.jobs job (fun j => { j with verified := true }) })
        ∧ (st ≠ 0 → exec (.extAns t p) s = .next (State.pausePoint job (some (if st = 3 then 0x03 else 0x04))
            { y with landings := kdel s.landings f.lid, via := { y.via with install := none } })))

/-- R469, R491, R493, R576: a write of VIA_CHIP sets CHIP and RING_SIZE_M1 only while ASSIGNED is 0. ASSIGNED 1 starts the check
of the number, which a HELLO on a ring port starts again after an opening: three PROBEs of it, or DUPLICATE at once for a
relocated number. A PROBE_ANS before the check has passed sets DUPLICATE; otherwise the module forwards once the check is
done, and releases the claims that a cold reset lost. A PROBE for the module is answered, but for its own that comes back.
Choices of the model that it rests on: log entry 57. -/
def Obligations.ChipNumbersAreChecked : Prop :=
  (∀ (t : Nat) (who : Requester) (value : Word) (s y : State), Reached t who s y →
    let fields : Word := (if s.assigned = true then s.regw 0x090000 else value) &&& 0x003F3FFF#32
    let z := y.setReg 0x090000 (fields ||| (value &&& 0x80000000#32))
    (value.getLsbD 31 = s.assigned → exec (.chipAssign t who value) s = .next z)
    ∧ (value.getLsbD 31 = true → s.assigned = false → exec (.chipAssign t who value) s = .next z.startCheck)
    ∧ (value.getLsbD 31 = false → s.assigned = true → exec (.chipAssign t who value) s
        = .next { z with via := { s.via with checked := false, duplicate := false, probes := [] } }))
  ∧ (∀ z : State, let u := z.startCheck
    (z.relocated z.chip = true → u = { z with via := { z.via with checked := false, duplicate := true, probes := [] } })
    ∧ (z.relocated z.chip = false → u = { z with counters := u.counters, out := u.out, via := { z.via with
        checked := false, duplicate := false, ports := u.via.ports, nextProbe := u.via.nextProbe, probes := u.via.probes } }
      ∧ u.via.probes = [z.via.nextProbe, (z.via.nextProbe + 1) % 65536, ((z.via.nextProbe + 1) % 65536 + 1) % 65536]
      ∧ (({ z with via := { z.via with duplicate := false } } : State).outPort z.chip = none → (kget Counter.zero u.counters 0x090204).live.toNat
          = min ((kget Counter.zero z.counters 0x090204).live.toNat + 3) 0xFFFFFFFF)))
  ∧ (∀ (t : Nat) (p : Pkt) (s : State), (s.cefin p.port.val).up = true → p.lseq.toNat = (s.cefin p.port.val).rxSeq →
    let y := s.arrived t p
    let z := y.modCefin p.port.val (fun x =>
      { x with peer := bitsAt p.arg.toNat 0 14, peerPort := bitsAt p.arg.toNat 14 3, peerValid := true })
    let anew : Prop := p.port.val < 2 ∧ s.assigned = true ∧ s.via.checked = false ∧ s.via.duplicate = false ∧ s.via.probes = []
    (s.lockPort p.port.val = true → exec (.hello t p) s = .next y)
    ∧ (s.lockPort p.port.val = false → (anew → exec (.hello t p) s = .next z.startCheck)
      ∧ (¬anew → exec (.hello t p) s = .next z)))
  ∧ (∀ (t : Nat) (p : Pkt) (s : State), Arrives p s → let y := s.arrived t p
    let id := bitsAt p.arg.toNat 0 16
    (p.src.toNat = s.chip → id ∈ s.via.probes → exec (.probe t p) s = .next y)
    ∧ (p.src.toNat ≠ s.chip ∨ id ∉ s.via.probes → exec (.probe t p) s
        = .next (y.sendTo 0x51 0 p.src.toNat (fieldAt 0 16 id + fieldAt 16 14 s.chip) []))
    ∧ (id ∉ s.via.probes → exec (.probeAns t p) s = .next y)
    ∧ (id ∈ s.via.probes → s.via.take = .inProgress → s.via.takeClaimed = false → exec (.probeAns t p) s
        = .next { y with via := { y.via with take := .targetAlive, probes := [] } })
    ∧ (s.via.take ≠ .inProgress ∨ s.via.takeClaimed = true → exec (.probeAns t p) s = .next y))
  ∧ (∀ (t : Nat) (p : Pkt) (s : State), (s.cefin p.port.val).up = true → p.lseq.toNat = (s.cefin p.port.val).rxSeq →
    s.lockPort p.port.val = false → s.assigned = true → s.via.duplicate = false → s.via.checked = false →
    s.ownNumber p.dst.toNat = true → bitsAt p.arg.toNat 0 16 ∈ s.via.probes → let y := s.arrived t p
    exec (.probeAns t p) s = .next { y with via := { y.via with duplicate := true, probes := [] } })
  ∧ ∀ (t : Nat) (s : State),
    (s.assigned = false ∨ s.via.checked = true ∨ s.via.duplicate = true → exec (.probeCheckDone t) s = .next (s.at t))
    ∧ (s.assigned = true → s.via.checked = false → s.via.duplicate = false →
      (s.relocated s.chip = true → exec (.probeCheckDone t) s = .next { s.at t with via := { s.via with duplicate := true } })
      ∧ (s.relocated s.chip = false → exec (.probeCheckDone t) s
          = .next (s.boot.lostClaims.foldl (fun (v : State) (c : Nat) => v.releaseClaim c) { s.at t with
              via := { s.via with checked := true, probes := [] }, boot := { s.boot with lostClaims := [] } })))

/-- R489 to R491: a takeover of a number that is free to take probes it three times, and 30 ms after its start floods CLAIM; 80 ms
after its start the number is held and RESULT is TAKEN. A full table ends it as TABLE_FULL, a lower holder as LOST. A CLAIM
that has not been seen is entered, or with RELEASE removed, and forwarded once on every other up port; of two for one number
the lower holder's stands, and a spare that is beaten withdraws. A release removes the entry and floods CLAIM with RELEASE.
Choices of the model that it rests on: log entry 57. -/
def Obligations.TakeoverRunsItsSteps : Prop :=
  (∀ (type : BitVec 8) (but : Option Nat) (p : Pkt) (z : State), let u := z.flood type but p
    u = { z with counters := u.counters, out := u.out, via := { z.via with ports := u.via.ports } }
    ∧ ∀ q, q < 8 → (z.linkUp q = true → but ≠ some q → ∃ e ∈ (u.cefin q).held ++ (u.cefin q).waiting, e.type = type
          ∧ e.pkt = { p with port := BitVec.toFin (BitVec.ofNat 3 q), lseq := e.pkt.lseq, fec := 0 })
      ∧ (z.linkUp q = false ∨ but = some q → u.cefin q = z.cefin q))
  ∧ (∀ (c h e : Nat) (z : State),
    (z.relocated c = true → z.addReloc c h e = (true, { z with via := { z.via with relocs := z.via.relocs.map (fun r =>
        if r.claimed = c then { r with holder := h, epoch := e } else r) } }))
    ∧ (z.relocated c = false → 64 ≤ z.via.relocs.length → z.addReloc c h e = (false, z.inc 0x090218 1))
    ∧ (z.relocated c = false → z.via.relocs.length < 64 → z.addReloc c h e = (true, { z with via := { z.via with
        relocs := z.via.relocs ++ [{ claimed := c, holder := h, epoch := e }] } })))
  ∧ (∀ (c : Nat) (z : State), let e := (z.via.takeEpoch + 1) % 2 ^ 32
    z.releaseClaim c = State.flood 0x52 none (z.claimPkt c z.chip e true) { z with via := { z.via with
      relocs := z.via.relocs.filter (fun r => decide (r.claimed ≠ c)), takeEpoch := e,
      held := (if z.via.held = some c then none else z.via.held),
      claimsSeen := ((c, z.chip, e, true) :: z.via.claimsSeen).take 256 } })
  ∧ (∀ (c : Nat) (z : State), let u := z.startTake c
    let lower : Prop := ∃ r ∈ z.via.relocs, r.claimed = c ∧ r.holder < z.chip
    let free : Prop := z.forwards = true ∧ z.via.take ≠ .inProgress ∧ z.ownNumber c = false ∧ z.via.held = none
    (¬free → u = z) ∧ (free → lower → u = { z with via := { z.via with take := .lost } })
    ∧ (free → ¬lower → u = { z with counters := u.counters, out := u.out, via := { z.via with
          take := .inProgress, takeTarget := c, takeAt := z.time, takeClaimed := false, probes := u.via.probes
          nextProbe := u.via.nextProbe, ports := u.via.ports } }
        ∧ u.via.probes.length = 3))
  ∧ (∀ (t : Nat) (who : Requester) (value : Word) (s y : State), Reached t who s y →
    let c := bitsAt value.toNat 0 14
    let z := y.setReg 0x090054 (value &&& 0x23C03FFF#32)
    exec (.spareTake t who value) s = .next (z.startTake c)
    ∧ (s.forwards = false → exec (.spareRelease t who value) s = .next z)
    ∧ (s.forwards = true → (s.via.held = some c ∨ s.via.takeTarget = c → exec (.spareRelease t who value) s
          = .next (State.releaseClaim c { z with via := { s.via with take := .idle, takeClaimed := false, probes := [] } }))
      ∧ (s.via.held ≠ some c → s.via.takeTarget ≠ c → exec (.spareRelease t who value) s = .next (z.releaseClaim c))))
  ∧ (∀ (t : Nat) (s : State),
    (s.regb 0x090054 29 = true → exec (.takeoverWatch t) s = .next ((s.at t).startTake (s.regf 0x090054 0 14)))
    ∧ (s.regb 0x090054 29 = false → exec (.takeoverWatch t) s = .next (s.at t))
    ∧ (s.via.take ≠ .inProgress ∨ max s.time t < s.via.takeAt + 30000000 → exec (.takeoverDone t) s = .next (s.at t))
    ∧ (s.via.take = .inProgress → s.via.takeAt + 30000000 ≤ max s.time t →
      let e := (s.via.takeEpoch + 1) % 2 ^ 32
      let c := s.via.takeTarget
      let held (z : State) : State := { z with via := { z.via with take := .taken, held := some c } }
      let z : State := { s.at t with via := { s.via with takeEpoch := e } }
      (s.via.takeClaimed = true → max s.time t < s.via.takeAt + 80000000 → exec (.takeoverDone t) s = .next (s.at t))
      ∧ (s.via.takeClaimed = true → s.via.takeAt + 80000000 ≤ max s.time t → exec (.takeoverDone t) s = .next (held (s.at t)))
      ∧ (s.via.takeClaimed = false → s.relocated c = false → 64 ≤ s.via.relocs.length → exec (.takeoverDone t) s
          = .next { z.inc 0x090218 1 with via := { z.via with take := .tableFull, probes := [] } })
      ∧ (s.via.takeClaimed = false → s.relocated c = true ∨ s.via.relocs.length < 64 → max s.time t < s.via.takeAt + 80000000 →
          ∃ w : State, w = { z with via := { z.via with
              takeClaimed := true, probes := [], relocs := w.via.relocs
              claimsSeen := ((c, s.chip, e, false) :: s.via.claimsSeen).take 256 } }
            ∧ { claimed := c, holder := s.chip, epoch := e } ∈ w.via.relocs
            ∧ exec (.takeoverDone t) s = .next (State.flood 0x52 none (s.claimPkt c s.chip e false) w))))
  ∧ ∀ (t : Nat) (p : Pkt) (s : State), (s.cefin p.port.val).up = true → p.lseq.toNat = (s.cefin p.port.val).rxSeq →
    let y := s.arrived t p
    let c := bitsAt p.arg.toNat 0 14
    let h := bitsAt p.arg.toNat 14 14
    let release := p.arg.getLsbD 28
    let e := bitsAt p.arg.toNat 32 32
    let w : State := { y with via := { y.via with claimsSeen := ((c, h, e, release) :: s.via.claimsSeen).take 256 } }
    let on (z : State) : State := if p.ttl = 0 then z else z.flood 0x52 (some p.port.val) { p with ttl := p.ttl - 1 }
    let mine : Prop := s.via.held = some c ∨ (s.via.take = .inProgress ∧ s.via.takeTarget = c)
    let beaten : Prop := (∃ r ∈ s.via.relocs, r.claimed = c ∧ r.holder < h) ∨ (mine ∧ s.chip < h)
    (s.lockPort p.port.val = true ∨ s.forwards = false ∨ (c, h, e, release) ∈ s.via.claimsSeen → exec (.claim t p) s = .next y)
    ∧ (s.lockPort p.port.val = false → s.forwards = true → (c, h, e, release) ∉ s.via.claimsSeen →
      (release = true → exec (.claim t p) s = .next (on { w with via := { w.via with
          relocs := s.via.relocs.filter (fun r => decide (r.claimed ≠ c)) } }))
      ∧ (release = false → beaten → exec (.claim t p) s = .next w)
      ∧ (release = false → ¬beaten → mine → h < s.chip → exec (.claim t p) s = .next (on (State.addReloc c h e { w with
          via := { w.via with take := .lost, takeClaimed := false, probes := [], held := none } }).2))
      ∧ (release = false → ¬beaten → ¬mine ∨ s.chip ≤ h → exec (.claim t p) s = .next (on (w.addReloc c h e).2)))

/-- R482, R485 to R488, R532, R541: the switches close on a loss of main power, a reset or FORCE_BYPASS, and take both ring links
down; they open only under the conditions of R482, and the ring ports train. A pulse of TICK_SYNC, or the edge predicted for a
missing one, is counted and loads the time base when TIME_ARM is 1. REF_LOST stands until the reference returns. VIA_LOCK.EN
and PORT change only while the job list is empty; a change of EN clears the record of the pair. Choices of the model that it
rests on: log entries 55 and 58. -/
def Obligations.SwingClockAndLockControls : Prop :=
  (∀ (t : Nat) (s : State),
    let closes : Prop := s.boot.mainGood = false ∨ s.boot.state ≠ .ready ∨ s.regb 0x090040 29 = true
    let opens : Prop := s.boot.mainGood = true ∧ s.boot.state = .ready ∧ s.regb 0x090010 31 = true ∧ s.regb 0x090014 31 = true
      ∧ s.regb 0x090040 30 = true ∧ s.regb 0x090040 29 = false
    let trained (x : CefinPort) : CefinPort := { x with state := .training, retrains := min 255 (x.retrains + 1), lanes := [] }
    (¬closes ∨ s.via.closed = true → exec (.swingClose t) s = .next (s.at t))
    ∧ (closes → s.via.closed = false → (∀ e ∈ s.requests, e.2.ho = none) → ∃ u : State, exec (.swingClose t) s = .next u
      ∧ u = { s.at t with counters := u.counters, via := { s.via with closed := true, ports := u.via.ports } }
      ∧ (∀ k, k < 2 → (u.cefin k).up = false ∧ ((s.cefin k).state ≠ .down → (u.cefin k).held = [])) ∧ ∀ k, 2 ≤ k → u.cefin k = s.cefin k)
    ∧ (¬opens ∨ s.via.closed = false → exec (.swingOpen t) s = .next (s.at t))
    ∧ (opens → s.via.closed = true → ∃ u : State, exec (.swingOpen t) s = .next u
      ∧ u = { s.at t with via := { s.via with closed := false, checked := false, probes := [], ports := u.via.ports } }
      ∧ u.cefin 0 = trained (s.cefin 0) ∧ u.cefin 1 = trained (s.cefin 1) ∧ ∀ k, 2 ≤ k → u.cefin k = s.cefin k))
  ∧ (∀ (t : Nat) (s : State), let now := max s.time t
    let arm := s.regb 0x090044 29
    let base (z u : State) : Prop := (arm = false → u = z)
      ∧ (arm = true → u = { z with tbOff := u.tbOff, regs := u.regs }
          ∧ u.timebase = s.reg 0x090048 + 2 ^ 32 * s.reg 0x09004C ∧ u.regb 0x090044 29 = false
          ∧ (∀ i, i ≠ 29 → u.regb 0x090044 i = s.regb 0x090044 i)
          ∧ ∀ o, o ≠ 0x090044 → u.regw o = s.regw o)
    (∃ u, exec (.tickSyncPulse t) s = .next u
      ∧ ((s.via.lastPulse = none ∨ ∃ e, s.via.lastPulse = some e ∧ now < e + 1000040 ∧ e + 1000000 < now + 40) →
          base { s.at t with via := { s.via with lastPulse := some now } } u)
      ∧ ∀ e, s.via.lastPulse = some e → e + 1000040 ≤ now ∨ now + 40 ≤ e + 1000000 →
          base { (s.at t).inc 0x090220 1 with via := { s.via with lastPulse := some now } } u)
    ∧ (s.via.lastPulse = none → exec (.tickSyncMiss t) s = .next (s.at t))
    ∧ (∀ e, s.via.lastPulse = some e → (now < e + 1000080 → exec (.tickSyncMiss t) s = .next (s.at t))
      ∧ (e + 1000080 ≤ now → ∃ u, exec (.tickSyncMiss t) s = .next u
          ∧ base { (s.at t).inc 0x09021C 1 with via := { s.via with lastPulse := some (e + 1000000) } } u))
    ∧ exec (.refLost t) s = .next { s.at t with via := { s.via with refLost := true } }
    ∧ exec (.refReturn t) s = .next { s.at t with via := { s.via with refLost := false } })
  ∧ ∀ (t : Nat) (who : Requester) (value : Word) (s y : State), Reached t who s y →
    let on := value.getLsbD 31
    let free : Prop := s.jobs = [] ∧ (on = false ∨ 2 ≤ bitsAt value.toNat 28 3)
    (¬free → exec (.lockEnable t who value) s
        = .next (y.setReg 0x090050 ((s.regw 0x090050 &&& 0xF0000000#32) ||| (value &&& 0xFFFF#32))))
    ∧ (free → on = s.regb 0x090050 31 → exec (.lockEnable t who value) s = .next (y.setReg 0x090050 (value &&& 0xF000FFFF#32)))
    ∧ (free → on ≠ s.regb 0x090050 31 → exec (.lockEnable t who value) s
        = .next { y.setReg 0x090050 (value &&& 0xF000FFFF#32) with via := { s.via with lock := LockState.off } })

/-! ### The sideband (chapter 20) -/

/-- R593, R600, R612 to R614: with standby power a sideband request is answered once, by the status that stops it or with its
effect: READ gives the register, WRITE writes it, RESET requests the reset. A stream from the module starts at OFFSET 0 with
what it captures and goes on in chunks of 1,024 bytes; one to the module takes its chunks in order, and the last hands it
over: a firmware image that verifies puts the chip in reset to be written, an UNSEAL opens the module or fails. A stream
interrupted for more than 5 s is abandoned. Choices of the model that it rests on: log entries 23, 24 and 25. -/
def Obligations.SidebandServesItsCommands : Prop :=
  (∀ (t : Nat) (m : SbMsg) (s : State), let y := (s.at t).sbExpire
    let off := leAt m.payload 0 4
    let len := m.payload.length
    let aligned : Prop := off % 4 = 0 ∧ off < 2 ^ 24
    let early : Prop := off ∈ [0x000000, 0x000008, 0x000010, 0x000020, 0x000028] ∨ (0x000400 ≤ off ∧ off < 0x000610)
    let kind := leAt m.payload 0 1
    let full := y.sbFull
    let busy (k : Nat) : Prop := y.sb.firmware ≠ none ∨ ∃ x, y.sb.stream = some x ∧ x.code ≠ k
    let say (k st : Nat) (bs : List Byte) (z : State) : State := z.emit (.sideband k m.tag st bs)
    let c (k : Nat) : Instr := if k = 1 then .sbRead t m else if k = 2 then .sbWrite t m else if k = 3 then .sbReset t m
      else if k = 4 then .sbFaultLog t m else if k = 5 then .sbSnapshot t m else if k = 6 then .sbFirmware t m
      else if k = 7 then .sbQuote t m else .sbUnseal t m
    let fields (k : Nat) : Prop := m.len.toNat = len ∧ (if k = 1 then len = 4 ∧ aligned else if k = 2 then len = 8 ∧ aligned
      else if k = 3 then len = 1 ∧ (kind = 1 ∨ kind = 2) else if k = 4 then len = 5 ∧ leAt m.payload 4 1 < 2
      else if k = 5 then len = 4 else if k = 7 then len = 52 else 9 ≤ len ∧ len ≤ 1032)
    let ready (k : Nat) : Prop := if k = 1 then full = true ∨ early
      else if k = 3 then s.boot.state ≠ .standby ∧ ¬(s.boot.state = .halted ∧ kind = 1)
      else if k = 4 then True else if k = 5 then s.boot.state = .ready else full = true
    let clear (k : Nat) : Prop := s.boot.standby = true ∧ m.flags.getLsbD 0 = false ∧ (k = 1 ∨ ¬busy k) ∧ fields k ∧ ready k
    (∀ k, 1 ≤ k → k ≤ 8 →
      (s.boot.standby = false → exec (c k) s = .next y)
      ∧ (s.boot.standby = true → (m.flags.getLsbD 0 = true → exec (c k) s = .next (say k 3 [] y))
        ∧ (m.flags.getLsbD 0 = false → k ≠ 1 → busy k → exec (c k) s = .next (say k 1 [] y))
        ∧ (m.flags.getLsbD 0 = false → (k = 1 ∨ ¬busy k) → ¬fields k → exec (c k) s = .next (say k 4 [] y))
        ∧ (m.flags.getLsbD 0 = false → (k = 1 ∨ ¬busy k) → fields k → ¬ready k → exec (c k) s = .next (say k 2 [] y))))
    ∧ (clear 1 → exec (.sbRead t m) s = .next (say 1 0 (natToBytes 4 (y.readReg .sideband off).toNat) y))
    ∧ (clear 2 → exec (.sbWrite t m) s
        = .next ((say 2 0 [] y).writeReg .sideband off (BitVec.ofNat 32 (leAt m.payload 4 4))))
    ∧ (clear 3 → exec (.sbReset t m) s = .next ((say 3 0 [] y).requestReset (if kind = 2 then .cold else .warm)))
    ∧ (let stream (k : Nat) (bs : List Byte) (z : State) : State := say k 0 (natToBytes 4 bs.length ++ natToBytes 4 0 ++ bs.take 1024)
          { z with sb := { z.sb with
              abandoned := none
              stream := if bs.length ≤ 1024 then none else
                some { code := k, total := bs.length, next := 1024, data := bs, last := z.time } } }
      let log := if leAt m.payload 4 1 = 0 then s.flt.log else s.flt.flashLog
      (clear 4 → off = 0 → exec (.sbFaultLog t m) s = .next (stream 4 (log.reverse.flatMap FaultRec.bytes) y))
      ∧ (clear 5 → off = 0 → s.obs.snapBusy = false → exec (.sbSnapshot t m) s
          = .next (stream 5 (y.upToNow.snapshotBytes 3) { y with obs := { s.obs with snapNo := s.obs.snapNo + 1 } }))
      ∧ (clear 5 → off = 0 → s.obs.snapBusy = true → ∃ d, exec (.sbSnapshot t m) s = .next (say 5 7 [] { y with
          obs := { s.obs with snapDropped := d }, sb := { y.sb with stream := none } })
          ∧ d.toNat = min 255 (s.obs.snapDropped.toNat + 1))
      ∧ (clear 7 → off = 0 → y.secBusy = true ∨ y.makeQuote (m.payload.drop 4) = none → exec (.sbQuote t m) s
          = .next (say 7 7 [] { y with sb := { y.sb with stream := none } }))
      ∧ (∀ q z, clear 7 → off = 0 → y.secBusy = false → y.makeQuote (m.payload.drop 4) = some (q, z) →
          exec (.sbQuote t m) s = .next (stream 7 q z)))
    ∧ (∀ k, k = 4 ∨ k = 5 ∨ k = 7 → clear k → off ≠ 0 →
      (y.sb.stream = none → exec (c k) s = .next (say k (if y.sb.abandoned = some k then 8 else 5) [] y))
      ∧ ∀ x, y.sb.stream = some x → (x.total < off → exec (c k) s = .next (say k 5 [] y))
        ∧ (off ≤ x.total → exec (c k) s = .next (say k 0 (natToBytes 4 x.total ++ natToBytes 4 off ++ (x.data.drop off).take 1024)
          { y with sb := { y.sb with
              stream := if x.total ≤ off + 1024 then none else some { x with next := off + 1024, last := y.time } } })))
    ∧ (∀ k, k = 6 ∨ k = 8 → clear k →
      let total := off
      let at_ := leAt m.payload 4 4
      let data := m.payload.drop 8
      let had := (y.sb.stream.map (·.data)).getD []
      let next := at_ + data.length
      let fits : Prop := (y.sb.stream = none ∧ at_ = 0) ∨ ∃ x, y.sb.stream = some x ∧ at_ = x.next ∧ total = x.total
      (y.sb.stream = none → at_ ≠ 0 → exec (c k) s = .next (say k (if y.sb.abandoned = some k then 8 else 5) [] y))
      ∧ ((y.sb.stream ≠ none ∧ ¬fits) ∨ (fits ∧ total < next) →
          exec (c k) s = .next (say k 5 [] { y with sb := { y.sb with stream := none } }))
      ∧ (fits → next < total → exec (c k) s = .next (say k 0 [] { y with sb := { y.sb with
          abandoned := none
          stream := some { code := k, total := total, next := next, data := had ++ data, last := y.time } } }))
      ∧ (fits → next = total → let z : State := { y with sb := { y.sb with stream := none, abandoned := none } }
        (k = 8 → exec (.sbUnseal t m) s
            = .next (say 8 (if (z.tryOpen (had ++ data)).1 = true then 0 else 6) [] (z.tryOpen (had ++ data)).2))
        ∧ (k = 6 → z.verifyImage (had ++ data) = none → exec (.sbFirmware t m) s = .next (say 6 6 [] z))
        ∧ ∀ f, k = 6 → z.verifyImage (had ++ data) = some f → ∃ w : State, exec (.sbFirmware t m) s = .next w
          ∧ w.boot.state = .inReset ∧ w.boot.nextCause = 2 ∧ w.sb.firmware = some f ∧ w.flash = s.flash ∧ w.fuses = s.fuses)))
  ∧ ∀ (t : Nat) (s : State),
    ((∀ x, s.sb.stream = some x → max s.time t ≤ x.last + 5000000000) → exec (.sbStreamAbandon t) s = .next (s.at t))
    ∧ (∀ x, s.sb.stream = some x → x.last + 5000000000 < max s.time t → exec (.sbStreamAbandon t) s
        = .next { s.at t with sb := { s.sb with stream := none, abandoned := some x.code } })
    ∧ (s.sb.firmware = none → exec (.firmwareWriteDone t) s = .next (s.at t))
    ∧ ∀ f, s.sb.firmware = some f → let z : State := { s.at t with flash := { s.flash with firmware := f }, sb := { s.sb with firmware := none } }
      (s.boot.mainGood = true → s.boot.standby = true → exec (.firmwareWriteDone t) s
          = .next (State.powerOn .cold 2 { z with boot := s.boot.out 550 (max s.time t) }))
      ∧ (s.boot.mainGood = false ∨ s.boot.standby = false → exec (.firmwareWriteDone t) s
          = .next { z with boot := { s.boot with state := .standby } })
end

