-- ==== Sys2Proof/Laws/Lns.lean ====
section
/-! SUPPORT. The log tables of R103, R105 and R106 hold what their formulas say: the root and the logarithm that the definitions find
are the exact floor and the exact rounding. -/

namespace Sys2Proof.Machine

/-- Repeated squaring is a power. -/
theorem squareN_eq (n x : Nat) : squareN n x = x ^ 2 ^ n := by
  induction n generalizing x with
  | zero => simp [squareN]
  | succ n ih => rw [squareN, ih, ← pow_two, ← pow_mul, pow_succ']

/-- The bit by bit search finds the floor of the 1,024th root of 2 ^ e. -/
theorem root1024_floor (e n acc : Nat) (lo : acc ^ 1024 ≤ 2 ^ e) (hi : 2 ^ e < (acc + 2 ^ n) ^ 1024) :
    root1024 e n acc ^ 1024 ≤ 2 ^ e ∧ 2 ^ e < (root1024 e n acc + 1) ^ 1024 := by
  induction n generalizing acc with
  | zero => exact ⟨lo, by simpa [root1024] using hi⟩
  | succ n ih =>
    have sq (c : Nat) : squareN 10 c = c ^ 1024 := by rw [squareN_eq]; norm_num
    rw [root1024]
    simp only [sq]
    split
    · rename_i h
      exact ih _ h (by rw [add_assoc, ← two_mul, ← pow_succ']; exact hi)
    · rename_i h
      exact ih _ lo (by omega)

/-- lin2log rounds 1,024 · log2 a: 2^(L − 1/2) ≤ a^1024 < 2^(L + 1/2), squared. -/
theorem lin2log_rounds (a : Nat) (h : 1 ≤ a) :
    2 ^ (2 * lin2log a) ≤ 2 * a ^ 2048 ∧ a ^ 2048 < 2 ^ (2 * lin2log a + 1) := by
  have e : squareN 11 a = a ^ 2048 := by rw [squareN_eq]; norm_num
  have p : a ^ 2048 ≠ 0 := by positivity
  have l := Nat.log2_self_le p
  have u := Nat.lt_log2_self (n := a ^ 2048)
  unfold lin2log
  rw [e]
  generalize Nat.log2 (a ^ 2048) = k at l u
  constructor
  · calc 2 ^ (2 * ((k + 1) / 2)) ≤ 2 ^ (k + 1) := Nat.pow_le_pow_right (by omega) (by omega)
      _ = 2 * 2 ^ k := pow_succ' 2 k
      _ ≤ _ := Nat.mul_le_mul_left 2 l
  · exact lt_of_lt_of_le u (Nat.pow_le_pow_right (by omega) (by omega))

/-- powNeg i is the floor of 2^40 · 2^(−i / 1,024). -/
theorem powNeg_floor (i : Nat) (h : i ≤ 40 * 1024) :
    powNeg i ^ 1024 ≤ 2 ^ (40 * 1024 - i) ∧ 2 ^ (40 * 1024 - i) < (powNeg i + 1) ^ 1024 := by
  apply root1024_floor
  · simp
  · rw [Nat.zero_add, ← pow_mul]
    exact Nat.pow_lt_pow_right (by omega) (by omega)

/-- powNeg i is at most 2^40, and below it for i > 0. -/
theorem powNeg_lt (i : Nat) (h : 0 < i) (h' : i ≤ 40 * 1024) : powNeg i < 2 ^ 40 := by
  by_contra c
  have l := (powNeg_floor i h').1
  have m : (2 ^ 40) ^ 1024 ≤ powNeg i ^ 1024 := Nat.pow_le_pow_left (by omega) 1024
  rw [← pow_mul] at m
  exact absurd (lt_of_le_of_lt (le_trans m l) (Nat.pow_lt_pow_right (by omega) (by omega : 40 * 1024 - i < 40 * 1024))) (lt_irrefl _)

/-- S+[i] is the rounding of 1,024 · log2(1 + powNeg i / 2^40) (R105). -/
theorem logAddTable_rounds (i : Nat) (h : i < 12288) : ∃ n : Nat, logAddTable i = (n : Int) - 40 * 1024
    ∧ 2 ^ (2 * n) ≤ 2 * (2 ^ 40 + powNeg i) ^ 2048 ∧ (2 ^ 40 + powNeg i) ^ 2048 < 2 ^ (2 * n + 1) :=
  ⟨lin2log (2 ^ 40 + powNeg i), by unfold logAddTable; rw [if_neg (by omega)],
    lin2log_rounds _ (Nat.le_add_right_of_le (by norm_num))⟩

/-- S−[i] is the rounding of 1,024 · log2(1 − powNeg i / 2^40) (R105). -/
theorem logSubTable_rounds (i : Nat) (h : 0 < i) (h' : i < 12288) : ∃ n : Nat, logSubTable i = (n : Int) - 40 * 1024
    ∧ 2 ^ (2 * n) ≤ 2 * (2 ^ 40 - powNeg i) ^ 2048 ∧ (2 ^ 40 - powNeg i) ^ 2048 < 2 ^ (2 * n + 1) :=
  ⟨lin2log (2 ^ 40 - powNeg i), by unfold logSubTable; rw [if_neg (by omega)],
    lin2log_rounds _ (by have := powNeg_lt i h (by omega); omega)⟩

end Sys2Proof.Machine
end

