-- ==== Sys2Proof/Tests/Slice0.lean ====
section
/-! SUPPORT. Tests: ill-formed commands that the check refuses, steps on small states with the results the manual's words give, and
for each statement with premises a state and operands that meet them. -/

namespace Sys2Proof.Tests
open Sys2Proof Sys2Proof.Machine

-- The steps below are checked one after another: each thread that checks takes its own stack.
set_option Elab.async false

/-! ### Small states -/

/-- A port whose link is up and that is out of reset. -/
def openPort : Port := { linkUp := true, inReset := false, vfs := 0, mark := 0 }

/-- An empty event log of 64 records. -/
def emptyLog : EventLog :=
  { addr := 4096, log2 := 6, vector := 0, vf := none, written := 0, free := 64, reserved := 0, lost := 0, window := none }

/-- A READY module. -/
def readyState : State := { State.reset with boot := { Boot.cold with state := .ready } }

/-- A READY module with port 0 open: its marker address is set, partition 0 has every right, VF 3 and page 0 serve it, it has an
event log, and handle 5 has named a request of it. -/
def openState : State := { readyState with
  ports := [(0, openPort)], logs := [(0, emptyLog)], named := [(5, 0)],
  regs := [(0x010004, 0x10#32), (0x010400, 0xF8000000#32), (0x01080C, 0x80000000#32), (0x012000, 0x80000000#32)] }

/-- A record of the physical function of port 0 on lane 0, with a body. -/
def record (handle : BitVec 32) (body : BitVec 448) : CmdRec :=
  { port := 0, fn := .pf, lane := 0, rsvd := 0, credits := 0, handle := handle, body := body }

/-- A request that decodes. -/
def someRequest : Request :=
  { state := .decode, left := .decode, port := 0, partition := 0, modelId := 1, variant := none, priority := 0, deadline := none,
    dlPolicy := 0, dlActed := false, promptLen := 1, shareLen := 0, committed := 16, fbLen := 0, pending := none, generated := 0,
    maxTokens := 8, ptBase := 0, ptRows := 0, pageLog2 := 4, seedGiven := false, footbridge := false, lateSeen := false,
    sampler := { temp := 0, topK := 0, topP := 0, minP := 0, seed := 0 }, stop := { ids := [], strings := [], states := [] },
    quality := Quality.zero, since := Quality.zero, fixedSeen := false, satOut := false, handin := false, streamAddr := 0,
    streamBase := 0, streamLen := 8, stamp := 0, prompt := [], hasExt := false, checked := false, accepted := false, matched := 0,
    inserted := false, ending := none, ho := none, waitEnd := 0, ticket := 0, inBatch := false, seen := (0, 0), seenState := 5,
    slotNo := 0, dropped := false }

/-- A SERVE job of partition 0 that is listed. -/
def someJob : Job :=
  { state := .listed, handle := 9, answered := false, port := 0, partition := 0, mgmt := false, type := .serve, fixed := false,
    fidelity := false, digest := 0, src := 0, srcLen := 0, params := 0, startedAt := 0, lastRun := 0, ran := false, counted := [],
    preempts := [], toHeld := false, endHandles := [], ending := none, tick := 0, committedTicks := 0, remoteWait := false,
    basic := 0, basicTicks := 0, basicAgain := false, fw := false, idleSince := none, sealed := 0, steps := 0, verified := false, entry := none,
    fbEntry := none, jobBase := 0, jobUnits := 0, stripe := [], scrubUs := 0, outcome := 0 }

/-- A READY hot-set entry for model 1, with two variant slots and one token. -/
def readyEntry : HotEntry := { HotEntry.empty with state := .ready, modelId := 1, varSlots := 2, vocab := { table := [0x04000000#32], pool := [0x61#8] }, layers := 1 }

/-- A host landing of one page. -/
def hostLanding : Landing :=
  { kind := .memory, base := 0, first := 0, len := 4096, read := true, write := true, host := true, port := 0, partition := some 0,
    bar4 := 0, expiry := none, since := 0, wrote := 0 }

/-- Whether a record passes its checks for partition `p`, in a state that meets a further condition. -/
def passes (g : Gated) (p : Nat) (c : State → Bool) : Bool := match g with
  | .out _ => false
  | .ok q x => decide (q = p) && c x

/-- What it says. -/
theorem passes_ok {g : Gated} {p : Nat} {c : State → Bool} (h : passes g p c = true) : ∃ x, g = .ok p x ∧ c x = true := by
  cases g with
  | out s => simp [passes] at h
  | ok q x =>
    simp only [passes, Bool.and_eq_true, decide_eq_true_eq] at h
    exact ⟨x, by rw [h.1], h.2⟩

/-- Whether a record of the physical function passes every check of R389, with nothing that it refers to. -/
def admits (s : State) (r : CmdRec) (k : CmdKind) (part : Nat) (g : EventLog) : Bool :=
  decide (s.portOpen r.port.val = true ∧ s.withholds r.port.val = false ∧ s.pagePart? r.port.val r.fn (r.lane.toNat / 64) = some part ∧ s.log? r.port.val part = some g
    ∧ k.known = true ∧ k.isLog = false) &&
  decide (handlePort r.handle.toNat = r.port.val ∧ handleLane r.handle.toNat = r.lane.toNat
    ∧ handleSeq r.handle.toNat = s.laneSeq r.port.val r.lane.toNat ∧ kfind? s.handles r.handle.toNat = none ∧ r.fn = .pf) &&
  decide (s.regb 0x090050 31 = false ∧ r.rsvd = 0 ∧ s.regf (tollPart part) 0 17 = 0 ∧ s.handles.length < 131072
    ∧ s.requests.length < 262144 ∧ g.reserved + k.reserves ≤ min (g.free + r.credits.toNat) (2 ^ g.log2))

/-- What it says. -/
theorem admits_ok {s : State} {r : CmdRec} {k : CmdKind} {part : Nat} {g : EventLog} (h : admits s r k part g = true) :
    Passes s r k noRefs part g := by
  simp only [admits, Bool.and_eq_true, decide_eq_true_eq] at h
  obtain ⟨⟨⟨a, z, b, c, d, e⟩, f, i, j, l, m⟩, n, o, q, u, v, w⟩ := h
  exact ⟨a, z, b, c, d, e, f, i, j, l, .inl m, fun _ => n, o, fun _ => rfl, .inl q, u, fun _ => v, w⟩

/-- A descriptor of a layer of one tile of PACK5 and one line, with bits of words 0 and 24. -/
def someLayer (a b : BitVec 32) : Desc :=
  (((((List.replicate 32 0#32).set 0 a).set 24 b).set 10 1#32).set 18 0x20000#32).set 21 0x20000#32

/-- A plan of two joints, a release of a layer and the end of phase 1, and of four layers: the second predicted, the third and
fourth of CMODE 1 and 2. -/
def somePlan : Plan :=
  { roles := [], routes := [], programs := [], layers := [someLayer 0 0, someLayer 0 1, someLayer 16 0, someLayer 32 0], trestle := [],
    hasTrestle := false, joints := [{ y := 100, a := 10, set := 0, trestle := false, pier := false, phase := false },
               { y := 200, a := 20, set := 0, trestle := false, pier := false, phase := true }],
    head := { periodPlan := 0, periodMin := 0, periodMax := 1, planCyc := 0, cutPlan := 0, keyRes := 0, quantum := 0, minSlack := 0,
              remoteWaitMax := 1, slipMax := 0, replayLimit := 4, govCold := 0, govWin := 0, prefillTokens := 0, draftN := 0,
              balEn := false, balCold := 0, batchLimit := 0, phaseS := [0, 0, 0, 0, 0] } }

/-- A bitstream that carries that plan, for logical span 0 alone, of the model whose digest is 0. -/
def someBits : Bitstream :=
  { ident := { jobType := .serve, spans := 1, basicSpans := 1, hasFixed := false, modelDigest := 0, layoutDigest := 0, planId := 0,
               stepMask := 0, gradeMask := 0, maxContext := 0 },
    pref := [], sets := [1], plans := [(0, somePlan)], tables := [], headMaps := [], kvClasses := [], footbridge := none, weights := [],
    ingest := [], digest := 0, weightDigest := 0 }

/-- A READY module whose job 7 runs on logical span 0, physical span 0, with that bitstream, and serves model 1. -/
def servingState : State := { openState with
  running := some 7, jobs := [(7, { someJob with state := .running })], bits := [(7, someBits)], binding := [(0, 0)],
  hot := [(3, readyEntry)] }

/-- The same in phase 1 of a run of its tick. -/
def tickState : State := { servingState with tick := { Tick.idle with active := true, phase := 1, period := 1000 } }

/-- The same with another sequencer. -/
def seqState (q : Sequencer) : State := { tickState with spans := [(0, { Span.idle with seq := q })] }

/-- A batch slot of one sequence, at position 0. -/
def someSlot : Slot :=
  { handle := 4, sits := false, pre := 0, preLen := 0, drafts := 0, fbSteps := 0, positions := [0], fbPositions := [],
    draftTokens := [], mainTokens := [], tokens := [], stopped := none, stopStates := [], quality := Quality.zero, done := false }

/-- The state above with one slot, in which span 0 is to issue a program word at its PC. -/
def issueState (opcode operands : Nat) (x : Span) : State := { tickState with
  tick := { tickState.tick with slots := [someSlot] }
  spans := [(0, { x with seq := { x.seq with phase := 1, prog := [(x.seq.pc, BitVec.ofNat 128 (opcode * 2 ^ 120 + operands))] } })] }

/-- The state at the start of cycle 0, in which that word is presented. -/
def atIssue (opcode operands : Nat) (x : Span) : State := (issueState opcode operands x).toCyc 0

/-- The issue of span 0 in cycle 0. -/
def now : Issue := { l := 0, cyc := 0, stamp := 0, ix := 0 }

/-- Whether span 0 can issue an instruction, as `Issuable` says it. -/
def issues (s : State) (x : Instr) (u : SpanUnit) (w : WaitGroup) : Bool :=
  decide (s.presented 0 x = some 0) && decide ((s.span 0).seq.ix? 0 = some Ix.zero) && decide (s.planned (s.span 0).seq 0 ≤ 0)
    && decide ((s.span 0).seq.lastIssue = none) && decide ((s.span 0).unitHold u 0 = none) && decide ((s.span 0).waitHold w = none)

/-- What it says. -/
theorem issues_ok {s : State} {x : Instr} {u : SpanUnit} {w : WaitGroup} (h : issues s x u w = true) : Issuable s now x u w 0 Ix.zero := by
  simp only [issues, Bool.and_eq_true, decide_eq_true_eq] at h
  obtain ⟨⟨⟨⟨⟨a, b⟩, c⟩, d⟩, e⟩, f⟩ := h
  exact ⟨a, b, c, fun k hk => (by rw [d] at hk; cases hk), e, f⟩

/-- A tile set whose buffers are decoded. -/
def decodedBuf : TileBuf := { desc := 0, tset := 0, src := 0, tiles := [], doneAt := 0, done := true, readUntil := 0, fctr := none, poisoned := false }

/-! ### The premises of the statements are met (chapters 12 to 14: the queue, records, jobs, landings, registers) -/

theorem test_queue_premises : ({ State.reset with pending := [.refLost 3] }).pending = [.refLost 3] ∧ State.reset.pending = [] := by decide

/-- A record that takes the whole of FREE − RESERVED passes every check; so does one whose CREDITS bring the room. -/
theorem test_record_premises :
    let k : CmdKind := { known := true, right := some 28, reserves := 2, isLog := false, isRequest := true, pairDenied := true }
    let s (n : Nat) : State := { openState with logs := [(0, { emptyLog with free := n })] }
    Passes (s 2) (record 0 0) k noRefs 0 { emptyLog with free := 2 }
    ∧ Passes (s 0) { record 0 0 with credits := 2 } k noRefs 0 { emptyLog with free := 0 }
    ∧ openState.pagePart? 0 (.vf 3) 0 = some 0 :=
  ⟨admits_ok (by decide +kernel), admits_ok (by decide +kernel), by decide +kernel⟩

/-- Records that fail a check: a page of no function, no log, an opcode outside the table, another port's handle, a wrong SEQ. -/
theorem test_record_check_premises :
    openState.pagePart? 0 .pf 1 = none ∧ ({ openState with logs := [] }).log? 0 0 = none ∧ openState.log? 0 0 = some emptyLog
    ∧ handlePort 0x40000000 ≠ 0 ∧ handleLane 0x20000 ≠ 0 ∧ handleSeq 1 ≠ openState.laneSeq 0 0 := by decide +kernel

theorem withholds_full (n p : Nat) (w : Waiting) (s : State) (hw : s.waiting = List.replicate n w) (hp : handlePort w.handle = p)
    (hn : 8192 ≤ n) : s.withholds p = true := by
  unfold State.withholds State.intake
  rw [hw, List.countP_replicate, decide_eq_true hp, if_pos rfl]
  exact decide_eq_true hn

/-- A port whose intake is full, and one with room. -/
theorem test_intake_premises :
    let s : State := { openState with waiting := List.replicate 8192 { stamp := 0, handle := 0, cmd := .cancel 0 } }
    s.withholds 0 = true ∧ s.portOpen 0 = true ∧ openState.withholds 0 = false :=
  ⟨withholds_full 8192 0 _ _ rfl (by decide) (Nat.le_refl _), by decide +kernel, by decide +kernel⟩

/-- FREE − RESERVED of 1, and of 0, with and without a publish in progress. -/
theorem test_rejection_premises :
    ({ openState with logs := [(0, { emptyLog with free := 1 })] }).log? 0 0 = some { emptyLog with free := 1 }
    ∧ ({ openState with logs := [(0, { emptyLog with free := 1, reserved := 1 })] }).log? 0 0 = some { emptyLog with free := 1, reserved := 1 }
    ∧ (0 + 1 ≤ 1 ∧ 1 < 1 + 1) ∧ openState.portOpen 0 = true ∧ openState.pub = none
    ∧ ({ openState with pub := some { endAt := 9, status := 0, items := [] } }).pub = some { endAt := 9, status := 0, items := [] } := by decide +kernel

/-- SUBMIT of a prompt and of as many tokens, with a page field, with no variant. -/
def submitBody (prompt tokens page : Nat) : BitVec 448 :=
  BitVec.ofNat 448 (0xFFFF * 2 ^ 224 + page * 2 ^ 250 + prompt * 2 ^ 256 + tokens * 2 ^ 288)

/-- HANDIN with a stream buffer of some records and a WAIT_MS. -/
def handinBody (records ms : Nat) : BitVec 448 := BitVec.ofNat 448 (ms * 2 ^ 128 + records * 2 ^ 160)

/-- SUBMIT and HANDIN at both ends of the ranges of their fields. -/
theorem test_submit_and_handin_premises :
    let k : CmdKind := { known := true, right := none, reserves := 2, isLog := false, isRequest := true }
    let h : CmdKind := { known := true, right := some 28, reserves := 2, isLog := false, isRequest := true, pairDenied := true }
    let submits (prompt tokens page : Nat) : Prop := let r := record 0 (submitBody prompt tokens page)
      Passes (openState.at 0) r k noRefs 0 emptyLog ∧ (rfld r 8 8 % 4 = 0 ∧ rfld r 16 8 % 16 = 0 ∧ rfld r 24 8 % 64 = 0
        ∧ rfld r 36 2 = 0xFFFF ∧ rfld r 38 1 < 8 ∧ rfld r 39 1 < 128 ∧ bitsAt (rfld r 39 1) 2 4 = page ∧ rfld r 40 4 = prompt
        ∧ rfld r 44 4 = tokens ∧ rfld r 52 4 ≤ prompt ∧ rfld r 56 8 = 0 ∧ (rfld r 39 1).testBit 6 = false)
    let hands (records ms : Nat) : Prop := let r := record 0 (handinBody records ms)
      Passes (openState.at 0) r h noRefs 0 emptyLog ∧ (rfld r 16 8 % 16 = 0 ∧ rfld r 24 4 = ms ∧ rfld r 28 4 = records ∧ rfld r 32 32 = 0)
    submits 1 1 0 ∧ submits (2 ^ 20 - 1) (2 ^ 20) 4 ∧ submits 1 1 10 ∧ hands 1 1 ∧ hands (2 ^ 20) 60000 :=
  ⟨⟨admits_ok (by decide +kernel), by decide +kernel⟩, ⟨admits_ok (by decide +kernel), by decide +kernel⟩,
    ⟨admits_ok (by decide +kernel), by decide +kernel⟩, ⟨admits_ok (by decide +kernel), by decide +kernel⟩,
    admits_ok (by decide +kernel), by decide +kernel⟩

theorem test_credit_query_cancel_handover_premises :
    let q := { openState with requests := [(5, someRequest)], running := some 1, tick := { Tick.idle with active := true } }
    (∃ x, (openState.at 0).gate (record 0 0) { known := true, right := none, reserves := 0, isLog := false, isRequest := false }
      (rzeros (record 0 0) [(8, 56)]) noRefs = .ok 0 x ∧ true = true)
    ∧ (∃ x, (q.at 0).gate (record 0 5) { known := true, right := none, reserves := 1, isLog := false, isRequest := false }
      (rzeros (record 0 5) [(12, 52)]) (badTarget 5) = .ok 0 x ∧ decide (kfind? x.requests 5 = some someRequest) = true)
    ∧ (∃ x, (openState.at 0).gate (record 0 5) { known := true, right := none, reserves := 1, isLog := false, isRequest := false }
      (rzeros (record 0 5) [(12, 52)]) (badTarget 5) = .ok 0 x ∧ (kfind? x.requests 5).isNone = true)
    ∧ (∃ x, (q.at 0).gate (record 0 5) { known := true, right := none, reserves := 1, isLog := false, isRequest := false, pairDenied := true }
      (rzeros (record 0 5) [(12, 52)]) (badTarget 5) = .ok 0 x ∧ x.ticking = true)
    ∧ (∃ x, (openState.at 0).gate (record 0 5)
      { known := true, right := none, reserves := 1, isLog := false, isRequest := false, pairDenied := true }
      (rzeros (record 0 5) [(12, 52)]) (badTarget 5) = .ok 0 x ∧ (!x.ticking && (kfind? x.requests 5).isNone) = true)
    ∧ (∃ x, (({ openState with requests := [(5, someRequest)] } : State).at 0).gate (record 0 5)
      { known := true, right := none, reserves := 1, isLog := false, isRequest := false, pairDenied := true }
      (rzeros (record 0 5) [(12, 52)]) (badTarget 5) = .ok 0 x
      ∧ (!x.ticking && decide (kfind? x.requests 5 = some someRequest ∧ x.via.hoIn = [])) = true)
    ∧ ∃ x, (q.at 0).gate (record 0 5) { known := true, right := some 28, reserves := 1, isLog := false, isRequest := false, pairDenied := true }
      (rzeros (record 0 5) [(14, 2), (24, 40)] && decide (rfld (record 0 5) 12 2 < 2 ^ 14)) (badTarget 5) = .ok 0 x ∧ true = true :=
  ⟨passes_ok (by decide +kernel), passes_ok (by decide +kernel), passes_ok (by decide +kernel), passes_ok (by decide +kernel),
    passes_ok (by decide +kernel), passes_ok (by decide +kernel), passes_ok (by decide +kernel)⟩

/-- LOG_SETUP of a ring of 64 records, the least; opcodes 0 and 12, the nearest outside Table 12.3. -/
theorem test_log_setup_premises :
    let r := record 0 (BitVec.ofNat 448 (4096 + 6 * 2 ^ 64))
    (∃ x, (openState.at 0).gate r { known := true, right := none, reserves := 1, isLog := true, isRequest := false }
      (rzeros r [(17, 1), (20, 44)] && decide (rfld r 8 8 % 4096 = 0 ∧ 6 ≤ rfld r 16 1 ∧ rfld r 16 1 ≤ 20)
        && vectorOk r.fn (rfld r 18 2)) (fun (y : State) (p : Nat) => match y.log? r.port.val p with
          | some g => if g.reserved > 0 then some 0x0C else if y.markerAddr r.port.val = 0 then some 0x0D else none
          | none => if y.markerAddr r.port.val = 0 then some 0x0D else none) = .ok 0 x ∧ true = true)
    ∧ ¬(1 ≤ (0#8).toNat ∧ (0#8).toNat ≤ 11) ∧ ¬(1 ≤ (12#8).toNat ∧ (12#8).toNat ≤ 11) ∧ openState.portOpen 0 = true :=
  ⟨passes_ok (by decide +kernel), by decide, by decide, by decide +kernel⟩

/-- A plan cache that holds the bitstream of a digest. -/
def cachingState (digest : BitVec 384) : State :=
  { openState with cache := [{ digest := digest, bits := someBits, lastStart := 0, slot := 0 }] }

/-- JOB_START of a SERVE job from a host address, and of one that the plan cache holds; with 15 jobs listed, and with 16. -/
theorem test_job_start_premises :
    let k : CmdKind := { known := true, right := some 30, reserves := 1, isLog := false, isRequest := false }
    let ok (a : Nat) (s : State) (c : State → Bool) : Prop := ∃ x, (s.at 0).gate (record 0 (BitVec.ofNat 448 a)) k
        (jobStartOk (record 0 (BitVec.ofNat 448 a)))
        (fun y _ => if rfld (record 0 (BitVec.ofNat 448 a)) 8 8 = 0 ∧ (y.cached? 7).isNone then some 0x0B else none) = .ok 0 x ∧ c x = true
    let code (x : State) : Option Nat := (x.portRx 0 48).startError .serve false 0 ((x.cached? 7).map (·.bits))
    ok 4096 openState (fun x => decide (x.cached? 7 = none ∧ code x = none))
    ∧ ok 0 (cachingState 7) (fun x => decide ((x.cached? 7).map (·.bits) = some someBits ∧ code x = none))
    ∧ ok 4096 { openState with jobs := (List.range 15).map (fun i => (i + 1, someJob)) } (fun x => decide (code x = none))
    ∧ ok 4096 { openState with jobs := (List.range 16).map (fun i => (i + 1, someJob)) } (fun x => decide (code x = some 0x302)) :=
  ⟨passes_ok (by decide +kernel), passes_ok (by decide +kernel), passes_ok (by decide +kernel), passes_ok (by decide +kernel)⟩

/-- JOB_CTRL end, pre-empt and resume on a listed job that the issuer may act on, and on one of another partition by a VF. -/
theorem test_job_ctrl_premises :
    let body (a : Nat) : BitVec 448 := BitVec.ofNat 448 (7 + a * 2 ^ 32)
    let s (j : Job) : State := { openState with jobs := [(7, j)], running := some 7 }
    let k : CmdKind := { known := true, right := some 30, reserves := 1, isLog := false, isRequest := false }
    let ok (a : Nat) (f : Fn) (j : Job) (c : State → Bool) : Prop := ∃ x, ((s j).at 0).gate { record 0 (body a) with fn := f } k
      (decide (rfld { record 0 (body a) with fn := f } 12 1 = a) && rzeros { record 0 (body a) with fn := f } [(13, 51)]) noRefs = .ok 0 x
      ∧ (decide (kfind? x.jobs (rfld { record 0 (body a) with fn := f } 8 4) = some j) && c x) = true
    ok 1 .pf someJob (fun _ => true) ∧ ok 2 .pf someJob (fun x => decide (x.running = some 7))
    ∧ ok 3 .pf { someJob with state := .held } (fun _ => true) ∧ ok 1 (.vf 3) { someJob with partition := 1 } (fun _ => true)
    ∧ ok 2 (.vf 3) { someJob with partition := 1 } (fun _ => true) ∧ ok 3 (.vf 3) { someJob with partition := 1 } (fun _ => true) :=
  ⟨passes_ok (by decide +kernel), passes_ok (by decide +kernel), passes_ok (by decide +kernel), passes_ok (by decide +kernel),
    passes_ok (by decide +kernel), passes_ok (by decide +kernel)⟩

/-- VARIANT install and remove on the last slot of an entry and on the first one past it; a staged install whose records came. -/
theorem test_variant_premises :
    let s : State := { openState with hot := [(3, readyEntry)] }
    let body (slot a : Nat) : CmdRec := record 0 (BitVec.ofNat 448 (2 ^ 64 + slot * 2 ^ 96 + a * 2 ^ 112))
    let k : CmdKind := { known := true, right := some 29, reserves := 1, isLog := false, isRequest := false }
    let ok (slot a : Nat) (e : Option Nat) : Prop := ∃ x, (s.at 0).gate (body slot a) k (variantOk (body slot a) a) noRefs = .ok 0 x
      ∧ (decide (x.entryOfModel? (rfld (body slot a) 16 4) = some 3)
        && decide ((x.holdHandle (body slot a) 0 .variant 1).slotError (rfld (body slot a) 16 4) (rfld (body slot a) 20 2) 0 = e)) = true
    ok 1 1 none ∧ ok 2 1 (some 0x202) ∧ ok 1 2 none
    ∧ let z : State := { s with staged := [{ handle := 4, entry := 3, slot := 1 }],
                                handles := [(4, { partition := 0, port := 0, kind := .variant, reserve := 1, stamp := 0, gone := 0 })] }
      z.staged.find? (fun x => decide (x.handle = (4#32).toNat)) = some { handle := 4, entry := 3, slot := 1 }
      ∧ (kfind? z.handles 4).isSome = true
      ∧ ({ z.at 0 with staged := [] }.portRx 0 (4096 * (z.entry 3).layers)).slotError (z.entry 3).modelId 1 0 = none :=
  ⟨passes_ok (by decide +kernel), passes_ok (by decide +kernel), passes_ok (by decide +kernel), by decide +kernel, by decide +kernel,
    by decide +kernel⟩

/-- LANDING open in a job area of an unsealed module, with the host right, and close. -/
theorem test_landing_premises :
    let j : Job := { someJob with jobUnits := 2, stripe := List.range 32 }
    let g : Landing := { kind := .memory, base := 0, first := 0, len := 4096, read := true, write := true, host := false, port := 0,
                         partition := some 0, bar4 := 0, expiry := some 1, since := 0, wrote := 0 }
    let s : State := { openState with jobs := [(7, j)], sec := { openState.sec with isOpen := true } }
    let r := record 0 (BitVec.ofNat 448 (2 ^ 64 + 7 * 2 ^ 96 + 2 ^ 104 + 2 ^ 128))
    let c := record 0 (BitVec.ofNat 448 (2 * 2 ^ 104))
    let k : CmdKind := { known := true, right := some 27, reserves := 1, isLog := false, isRequest := false }
    (∃ x, (s.at 0).gate r k (decide (rfld r 8 8 % 4096 = 0 ∧ rfld r 8 8 < 2 ^ 40 ∧ 0 < 4096 * rfld r 16 4 ∧ rfld r 20 1 < 8 ∧ rfld r 21 1 = 1)
        && rzeros r [(22, 2), (28, 36)])
      (fun y p => if !y.landingOk p (rfld r 8 8) (4096 * rfld r 16 4)
          ∨ ((rfld r 20 1).testBit 2 ∧ (y.bar4Place r.port.val (4096 * rfld r 16 4)).isNone) then some 0x09
        else if y.freeLid.isNone then some 0x07 else none) = .ok 0 x ∧ decide (x.freeLid = some 0) = true)
    ∧ ∃ x, (({ s with landings := [(2, g)] } : State).at 0).gate c k
      (decide (rfld c 8 8 % 4096 = 0 ∧ rfld c 20 1 < 8 ∧ rfld c 21 1 = 2) && rzeros c [(22, 2), (28, 36)])
      (fun y p => if (y.landingToClose c.port.val p (rfld c 8 8) (rfld c 24 4)).isNone then some 0x09 else none) = .ok 0 x
      ∧ decide (x.landingToClose c.port.val 0 (rfld c 8 8) (rfld c 24 4) = some 2) = true :=
  ⟨passes_ok (by decide +kernel), passes_ok (by decide +kernel)⟩

/-- An access of the last byte of a landing, and one of the byte after it. -/
theorem test_bar4_premises :
    let s : State := { openState with landings := [(2, hostLanding)] }
    s.portOpen 0 = true ∧ s.bar4Landing 0 (.vf 3) 4095 1 false = some hostLanding ∧ s.bar4Landing 0 .pf 4095 1 true = some hostLanding
    ∧ s.bar4Landing 0 .pf 4096 1 false = none ∧ s.bar4Landing 0 .pf 4095 2 true = none ∧ (s.at 0).poisoned (s.landOff 0 4095) = false
    ∧ inDevice (s.landOff 0x10000000 0) = false ∧ inDevice 0x0FFFFFFF = true := by decide +kernel

/-- Registers of each kind that a write of the management role meets; a VF's offsets at the edges of what it may reach. -/
theorem test_register_premises :
    let s := servingState
    let y : State := { s with obs := { s.obs with setAt := [(64 * 0x0D0014 + 3, 0)] } }
    (s.portOpen 0 = true ∧ s.sbFull = true ∧ (rwMask 0x060014).isSome = true ∧ (0x060014#24).toNat < 0x800000)
    ∧ (kfind? y.obs.setAt (64 * 0x0D0014 + 3) = some y.time ∧ kfind? s.obs.setAt (64 * 0x0D0014 + 3) = none
      ∧ kfind? s.obs.setAt (64 * 0x070088 + 30) ≠ some s.time ∧ kfind? s.obs.setAt (64 * 0x800124 + 23) ≠ some s.time)
    ∧ ((0x800124#24).toNat = 0x800124 + 0x10000 * 0 ∧ s.phys? 0 = some 0 ∧ (0x80000000#32).getLsbD 30 = false)
    ∧ (rwMask 0x060000 = none ∧ slotOf 0x090010 8 4 0x060000 = none ∧ slotOf 0x012000 512 4 0x060000 = none
      ∧ 0x060000 ∉ [0x000024, 0x020504, 0x020600, 0x070084, 0x070088, 0x090000, 0x090044, 0x090050, 0x090054, 0x0A0000, 0x0A0004, 0x0A0034,
           0x0A0040, 0x0B0010, 0x0C0004, 0x0C0244, 0x0D0004, 0x0D0014])
    ∧ (0x800000 ≤ (0xFFFFFC#24).toNat ∧ (0xFFFFFC#24).toNat % 0x10000 ≠ 0x400 ∧ (0xFFFFFC#24).toNat % 0x10000 ≠ 0x124)
    ∧ ((0x00FFFC#24).toNat < 0x10000 ∧ (0x00FFFC#24).toNat ≠ 0x100 ∧ (0x00FFFC#24).toNat ≠ 0x104 ∧ 0x10000 ≤ (0x010000#24).toNat) := by
  decide +kernel

/-- A command of the physical function of an open port acts, and one of the sideband of a READY module. -/
theorem test_reached (s : State) : (s.portOpen 0 = true → Reached 0 (.pf 0) s ((s.at 0).portRx 0 4))
    ∧ (s.sbFull = true → Reached 0 .sideband s (s.at 0)) := ⟨fun h => .inl ⟨0, rfl, h, rfl⟩, fun h => .inr ⟨rfl, h, rfl⟩⟩

/-- A page none of whose lanes holds a handle, and one that a handle in flight keeps while its owner would change. -/
theorem test_page_owner_premises :
    let s : State := { openState with handles := [(0, { partition := 0, port := 0, kind := .query, reserve := 1, stamp := 0, gone := 0 })] }
    s.portOpen 0 = true ∧ s.handles.any (fun e => decide (handlePort e.1 = 0 ∧ handleLane e.1 / 64 = 0)) = true
    ∧ openState.handles.any (fun e => decide (handlePort e.1 = 0 ∧ handleLane e.1 / 64 = 0)) = false
    ∧ (0x80000001#32).toNat % 256 ≠ (s.regw (tollPage 0 0)).toNat % 256 := by decide +kernel

/-! ### The premises of the statements are met (chapters 8 and 12 to 15: completions, the step tick, replays) -/

theorem test_completion_premises :
    let q : Request := { someRequest with state := .fetching }
    let w : Request := { someRequest with state := .waitHandin, handin := true, waitEnd := 50 }
    (kfind? [(4, q)] (4#32).toNat = some q ∧ [(0#32)].length = q.promptLen ∧ q.checked = false ∧ q.hasExt = false)
    ∧ ((openState.at 0).portRx 0 4).servable q = false ∧ ((servingState.at 0).portRx 0 4).servable q = true
    ∧ servingState.entryOfModel? q.modelId = some 3 ∧ (0#32).toNat < (servingState.entry 3).vocab.size
    ∧ kfind? [(4, w)] (4#32).toNat = some w ∧ (w.waitEnd ≤ max 0 50 ∧ max 0 49 < w.waitEnd) ∧ openState.via.hoIn = []
    ∧ ∀ e ∈ [(4, { someRequest with deadline := some 60 })], ∀ d, e.2.deadline = some d → (openState.at 60).timebase ≤ d := by
  decide +kernel

/-- A deadline 1 ns past, of a request that waits for its model. -/
theorem test_late_request_premises :
    let q : Request := { someRequest with state := .waitModel, deadline := some 59, dlPolicy := 2 }
    let s : State := { openState with requests := [(4, q)] }
    s.requests = [(4, q)] ∧ q.deadline = some 59 ∧ 59 < (s.at 60).timebase ∧ q.dlActed = false ∧ q.ending = none
    ∧ q.ho = none ∧ s.via.hoIn = [] ∧ (s.at 60).unheld q = true := by decide +kernel

/-- A window at its end and 1 ns before it; a landing of 2 steps after 10 ms, and after 20 ms. -/
theorem test_timer_premises :
    let g : EventLog := { emptyLog with window := some 2000 }
    let s : State := { openState with logs := [(0, g)], landings := [(2, { hostLanding with expiry := some 2 })] }
    (s.log? 0 (0#8).toNat = some g ∧ g.window = some 2000 ∧ max s.time 1999 < 2000 ∧ 2000 ≤ max s.time 2000 ∧ s.portOpen 0 = true)
    ∧ kfind? s.landings 2 = some { hostLanding with expiry := some 2 } ∧ (max s.time 10000000 - 0) / 10000000 = 1
    ∧ (max s.time 20000000 - 0) / 10000000 = 2 ∧ (max s.time 9999999 - 0) / 10000000 = 0 ∧ s.ticking = false ∧ s.via.hoIn = []
    ∧ tickState.ticking = true := by decide +kernel

/-- A cut instant that has come and one that has not; a job that its last span leaves there; a job to whose empty batch a tick
starts; a run that is broken with the job still there. -/
theorem test_cut_premises :
    let s : State := { servingState with gov := { Governor.idle with nextCut := some 100, period := 2000 },
                                         trs := { TrestleUnit.cold with state := .inService, cause := 0 } }
    let j : Job := { someJob with state := .running }
    (s.tick.broken = none ∧ (s.at 100).cutDue? = some 100 ∧ (s.at 99).cutDue? = none ∧ ((s.at 100).upToNow.cutFirst 100).running = some 7
      ∧ ((({ s with
          flt := { s.flt with fenceAsked := [0] }
          spanMap := (List.range 132).map (fun i => (i, if i = 0 then { status := .active, logical := some 0 }
            else { status := .fenced, logical := none })) } : State).at 100).upToNow.cutFirst 100).running = none)
    ∧ (s.running = some 7 ∧ kfind? s.jobs 7 = some j ∧ j.type = .serve ∧ j.basic = 0 ∧ kfind? s.bits 7 = some someBits
      ∧ someBits.plan? s.tick.plan = some somePlan ∧ s.planFor j = s.tick.plan ∧ s.tick.active = false)
    ∧ (s.tick.against = none ∧ s.boot.deferred = none ∧ s.via.lock.frozen = false ∧ s.pair = false ∧ s.requests = [] ∧ s.waiting = []
      ∧ s.flt.fenceAsked = [] ∧ s.flt.basicAsked = none ∧ s.spans = [])
    ∧ (somePlan.phaseJoint 1 = some 1 ∧ (somePlan.joints[1]?).map (·.y) = some 200 ∧ somePlan.head.phaseS.getD 0 0 = 0)
    ∧ let b : State := { tickState with tick := { tickState.tick with active := false, broken := some .span } }
      b.tick.broken = some .span ∧ b.via.lock.frozen = false ∧ 0 < b.tick.period ∧ (max b.time 2000000 - b.tick.start) / (1000 * b.tick.period) = 2 := by
  decide +kernel

/-- The pier writes no list in that plan. -/
theorem test_cut_lists_premise (l : Nat) : somePlan.lists l = [] := by
  have h : somePlan.lists 0 = [] := by decide +kernel
  exact (rfl : somePlan.lists l = somePlan.lists 0).trans h

/-- Joint `k` of the plan: a release of a layer or the end of a phase. -/
def someJoint (phase : Bool) : Joint :=
  { y := if phase then 200 else 100, a := if phase then 20 else 10, set := 0, trestle := false, pier := false, phase := phase }

/-- Span 0 at a joint of each kind with its units done, with poison due, and with one busy; joints due and not, in each phase. -/
theorem test_joint_premises :
    let at_ (x : Span) (j : Nat) : State := ({ tickState with spans := [(0, { x with seq :=
      { Sequencer.idle with phase := 1, jointAt := some j, lastIssue := some 90 } })] } : State).toCyc 90
    let s := at_ Span.idle 0
    let rest (s : State) : Prop := (s.span 0).unitsDone 90 = true ∧ s.outDone 0 = true ∧ s.scatterDone 0 (s.span 0) = true
      ∧ (s.span 0).streamsDone = true ∧ (s.span 0).seq.lastIssue = some 90
    let arrived (j cyc ph : Nat) (sealed : Bool) : State := { tickState with tick := { tickState.tick with
      phase := ph, nextJoint := j, sealed := sealed, arrivals := [(0, { joint := j, cyc := cyc, classes := [] })] } }
    let five : Plan := { somePlan with joints := List.replicate 5 (someJoint true) }
    (s.tick.active = true ∧ s.phys? 0 = some 0 ∧ (s.span 0).seq.jointAt = some 0 ∧ s.joint? 0 = some (someJoint false)
      ∧ (at_ Span.idle 1).joint? 1 = some (someJoint true) ∧ rest s ∧ rest (at_ Span.idle 1) ∧ (s.span 0).cells.poisonDue = false)
    ∧ (let b := at_ { Span.idle with cells := { CellUnit.idle with poisonDue := true } } 0
       rest b ∧ (b.span 0).cells.poisonDue = true ∧ b.tick.active = true)
    ∧ (((at_ { Span.idle with archBusyUntil := 91 } 0).span 0).unitsDone 90 = false)
    ∧ (let z := ((arrived 0 95 1 false).at 95).settled
       z.dueJoint? = some (0, 100, someJoint false) ∧ z.cycTime 100 ≤ z.time ∧ ((arrived 0 95 1 false).at 94).settled.time < z.cycTime 100
       ∧ (arrived 0 95 1 false).tick.active = true ∧ (tickState.at 0).settled.dueJoint? = none)
    ∧ (let z (ph : Nat) (sealed : Bool) : State :=
         (({ arrived (ph - 1) 205 ph sealed with bits := [(7, { someBits with plans := [(0, five)] })] } : State).at 195).settled
       let r (ph : Nat) (sealed : Bool) : State := (z ph sealed).release (ph - 1) 205 (someJoint true)
       (z 4 false).dueJoint? = some (3, 205, someJoint true) ∧ (z 4 false).cycTime 205 ≤ (z 4 false).time ∧ (r 4 false).tick.phase < 5
       ∧ (z 5 true).dueJoint? = some (4, 205, someJoint true) ∧ (z 5 false).dueJoint? = some (4, 205, someJoint true)
       ∧ 5 ≤ (r 5 true).tick.phase ∧ (r 5 true).tick.sealed = true ∧ (r 5 false).tick.sealed = false)
    ∧ (s.jointSpans (someJoint true) = [0]) := by decide +kernel

/-- The serving state in phase 5 of a tick of an empty batch, on physical span 3. -/
def gateState : State := { servingState with
  binding := [(0, 3)], jobs := [(7, { someJob with state := .running, tick := 9, committedTicks := 4, remoteWait := true })]
  tick := { tickState.tick with phase := 5 }, spans := [(3, { Span.idle with seq := { Sequencer.idle with phase := 3 } })]
  flt := { FaultMgr.clear with missed := 3, hungAt := some (1, 1) } }

/-- A gate that passes, with nothing on its way, before the end of the publish and at it; one that is shut; a slot whose tokens are
committed. -/
theorem test_keystone_premises :
    let z := (gateState.at 5).settled
    let q : Request := { someRequest with accepted := true }
    let x : Slot := { someSlot with tokens := [7, 8], done := true }
    (z.gatePasses = true ∧ (tickState.at 0).settled.gatePasses = false ∧ z.pub = none ∧ z.running = some 7
      ∧ z.jobs = [(7, { someJob with state := .running, tick := 9, committedTicks := 4, remoteWait := true })] ∧ z.time = 5)
    ∧ (z.pair = false ∧ z.requests = [] ∧ z.waiting = [] ∧ z.tick.slots = [] ∧ z.tick.keyRecs = [] ∧ z.kv.orphans = [] ∧ z.via.hoIn = []
      ∧ z.landings = [] ∧ z.load = none ∧ z.portOpen 0 = true ∧ z.portOpen 1 = false ∧ z.markerAddr 0 ≠ 0)
    ∧ (kfind? [(4, q)] x.handle = some q ∧ q.state = .decode ∧ x.sits = false ∧ x.done = true ∧ x.tokens ≠ [] ∧ q.dropped = false
      ∧ q.ending = none ∧ q.accepted = true) := by decide +kernel

/-- A broken run on span 3 that may be replayed. -/
def brokenState : State := { gateState with
  spanMap := kins gateState.spanMap 3 { status := .active, logical := some 0 }, gov := { Governor.idle with period := 1000 }
  tick := { tickState.tick with active := false, broken := some .span, runs := 1, slots := [someSlot], sums := [(1, 1)] }
  requests := [(4, someRequest)], trs := { TrestleUnit.cold with state := .inService, cause := 0 }
  spans := [(3, { Span.idle with attCycles := 5, attPlan := 7, seq := { Sequencer.idle with phase := 3 } })], flt := FaultMgr.clear }

/-- The same while the run goes on and its span waits from cycle 0; a pre-empt waits for the job. -/
def waitingState : State := { brokenState with
  requests := [], tick := { tickState.tick with slots := [someSlot], landings := [2] }
  jobs := [(7, { someJob with state := .running, tick := 9, committedTicks := 4, toHeld := true })]
  spans := [(3, { Span.idle with seq := { Sequencer.idle with phase := 3, remoteSince := some 0, waitFrom := some 0 } })] }

/-- A broken run whose cause is dealt with, and one of which it is not; a remote wait past its bound, and one at it; a hung span,
and one at its bound. -/
theorem test_replay_premises :
    let b := brokenState
    let j : Job := { someJob with state := .running, tick := 9, committedTicks := 4, remoteWait := true }
    let h (t : Nat) := (({ waitingState with regs := waitingState.regs ++ [(0x0A0040, 0#32)] } : State).at t).settled
    ((b.at 7).replayReady = true ∧ (tickState.at 0).replayReady = false ∧ b.running = some 7 ∧ kfind? b.jobs 7 = some j ∧ j.basic = 0
      ∧ kfind? b.bits 7 = some someBits ∧ someBits.plan? b.tick.plan = some somePlan ∧ b.planFor j = b.tick.plan)
    ∧ (b.replaysSpent = false ∧ b.pair = false ∧ (∀ e ∈ b.spans, e.2.strikes = []) ∧ b.flt.fenceAsked = [] ∧ b.flt.basicAsked = none
      ∧ somePlan.phaseJoint 1 = some 1)
    ∧ (let z (t : Nat) := (waitingState.at t).settled
       (z 1001).remoteLate = true ∧ (z 1000).remoteLate = false ∧ (z 1001).running = some 7 ∧ (z 1001).waiting = [] ∧ (z 1001).requests = []
       ∧ (z 1001).load = none ∧ (z 1001).jobs = [(7, { someJob with state := .running, tick := 9, committedTicks := 4, toHeld := true })])
    ∧ ((h 1001).phys? 0 = some 3 ∧ (h 1001).hungNow 3 = true ∧ (h 1000).hungNow 3 = false ∧ (h 1001).regb 0x0A0040 29 = false
      ∧ (h 1001).flt.hungAt = none ∧ (∀ e ∈ (h 1001).spans, e.2.strikes = []) ∧ (h 1001).flt.fenceAsked = [] ∧ (h 1001).flt.ctrlSpan = none
      ∧ (h 1001).flt.basicAsked = none ∧ (h 1001).mapEntry 3 = { status := .active, logical := some 0 }
      ∧ (nearest 3 ((h 1001).spansIn .spare)).isSome = true) := by decide +kernel
/-! ### The premises of the statements are met (chapter 9: span instructions). Each word stands at PC as the tables of chapter 9
lay it out. -/

/-- A span that stands at PC 4,094. -/
def lastPlace : Span := { Span.idle with seq := { Sequencer.idle with pc := 4094 } }

/-- A wait group that takes 1 from counter 2. -/
def takesOne : WaitGroup := { en := true, cons := true, ctr := 2, val := 1 }

/-- A span whose counter 2 holds 1. -/
def holdsOne : Span := { Span.idle with seq := { Sequencer.idle with arrive := [(2, 1)] } }

/-- The same issue with layer `d` alone in the plan, and the slot's sequence. -/
def issueLayer (opcode operands : Nat) (d : Desc) (x : Span) : State :=
  ({ issueState opcode operands x with
     bits := [(7, { someBits with plans := [(0, { somePlan with layers := [d] })], kvClasses := [{ cls := 0, nKv := 1, dH := 16, poolUnits := 1, first := 0, layers := 1 }] })]
     requests := [(4, { someRequest with ptRows := 1 })] } : State).toCyc 0

theorem test_sequencer_premises :
    Issuable (atIssue 0x00 0 lastPlace) now (.nop (bareOf now)) .seq WaitGroup.none 0 Ix.zero
    ∧ Issuable (atIssue 0x02 (2 ^ 66) Span.idle) now (.base (bareOf now) 1) .seq WaitGroup.none 0 Ix.zero
    ∧ Issuable (atIssue 0x07 (2 ^ 93 + 2 ^ 73) Span.idle) now (.cset (bareOf now) 1 1) .seq WaitGroup.none 0 Ix.zero
    ∧ (let s := atIssue 0x06 (2 ^ 97 + 2 ^ 96 + 2 * 2 ^ 91 + 2 ^ 71) holdsOne
       Issuable s now (.wait (bareOf now) takesOne 0 false) .seq { takesOne with en := false } 0 Ix.zero
       ∧ (s.span 0).waitHold takesOne = none ∧ (s.span 0).kindMet 0 0 = true)
    ∧ Issuable (atIssue 0x01 0 { Span.idle with seq := { Sequencer.idle with lastPhaseJoint := true } }) now
        (.endProgram (bareOf now)) .seq WaitGroup.none 0 Ix.zero
    ∧ Issuable (atIssue 0x01 0 Span.idle) now (.endProgram (bareOf now)) .seq WaitGroup.none 0 Ix.zero
    ∧ Issuable (atIssue 0x05 (2 ^ 97 + 5 * 2 ^ 81) Span.idle) now (.joint (bareOf now) true 5) .seq WaitGroup.none 0 Ix.zero :=
  ⟨issues_ok (by decide +kernel), issues_ok (by decide +kernel), issues_ok (by decide +kernel),
    ⟨issues_ok (by decide +kernel), by decide +kernel, by decide +kernel⟩, issues_ok (by decide +kernel), issues_ok (by decide +kernel),
    issues_ok (by decide +kernel)⟩

/-- A counter that is set, one that a consuming wait brings to zero, a sum at the counter's top and one above it. -/
theorem test_counter_changes_premises :
    let o (what : CtrChange) (n : Nat) : CtrOp := { cyc := 0, ctr := 2, what := what, n := n }
    (o .set 5).what = .set ∧ (o .sub 1).what = .sub ∧ (holdsOne.seq.ctr 2 + (o .add 0xFFFFE).n ≤ 0xFFFFF)
      ∧ 0xFFFFF < holdsOne.seq.ctr 2 + (o .add 0xFFFFF).n := by decide

/-- A loop of two passes, at level 1 and, out of nesting, at level 2; its ENDL after the first pass and after the last. -/
theorem test_loop_premises :
    let a : LoopArgs := { level := 1, dyn := false, dctr := 0, countM1 := 1, period := 7, dStride := 0, gStride := 0, lStride := 0, rlog2 := 5, jStride := 0 }
    let f (k : Nat) : LoopFrame := { level := 1, index := k, iters := 2, nPlan := 2, bodyPc := 0, baseL := 0, period := 7, dStride := 0,
                                     gStride := 0, lStride := 0, rlog2 := 5, jStride := 0, dyn := false }
    let x (k : Nat) : Span := { Span.idle with seq := { Sequencer.idle with pc := 4094, loops := [f k] } }
    let rest := 2 ^ 78 + 7 * 2 ^ 56 + 5 * 2 ^ 10
    Issuable (atIssue 0x03 (2 ^ 96 + rest) lastPlace) now (.loop (bareOf now) a) .seq WaitGroup.none 0 Ix.zero
    ∧ Issuable (atIssue 0x03 (2 * 2 ^ 96 + rest) lastPlace) now (.loop (bareOf now) { a with level := 2 }) .seq WaitGroup.none 0 Ix.zero
    ∧ Issuable (atIssue 0x04 (2 ^ 96) (x 0)) now (.endl (bareOf now) 1) .seq WaitGroup.none 0 Ix.zero
    ∧ Issuable (atIssue 0x04 (2 ^ 96) (x 1)) now (.endl (bareOf now) 1) .seq WaitGroup.none 0 Ix.zero
    ∧ ((f 0).level = (1#2).toNat ∧ (f 0).bodyPc ≤ 4095 ∧ (f 0).index + 1 < (f 0).iters ∧ (f 1).iters ≤ (f 1).index + 1) :=
  ⟨issues_ok (by decide +kernel), issues_ok (by decide +kernel), issues_ok (by decide +kernel), issues_ok (by decide +kernel), by decide⟩

/-- A dynamic loop whose counter holds 1 and whose counter holds 0, and one without a layer; an ENDL of another level. -/
theorem test_dynamic_loop_premises :
    let a : LoopArgs := { level := 1, dyn := true, dctr := 2, countM1 := 1, period := 7, dStride := 0, gStride := 0, lStride := 0, rlog2 := 5, jStride := 0 }
    let w := 2 ^ 96 + 2 ^ 95 + 2 * 2 ^ 90 + 2 ^ 78 + 7 * 2 ^ 56 + 5 * 2 ^ 10
    let x (n : Nat) (di : Option Nat) : Span := { Span.idle with seq := { Sequencer.idle with arrive := [(2, n)] }, cells := { CellUnit.idle with layer := di } }
    let f : LoopFrame := { level := 1, index := 0, iters := 2, nPlan := 2, bodyPc := 0, baseL := 0, period := 7, dStride := 0,
                           gStride := 0, lStride := 0, rlog2 := 5, jStride := 0, dyn := false }
    let y : Span := { Span.idle with seq := { Sequencer.idle with loops := [f] } }
    let iters (s : State) : Nat := cdiv ((s.span 0).seq.ctr 2) 2
    (Issuable (atIssue 0x03 w (x 1 (some 0))) now (.loop (bareOf now) a) .seq WaitGroup.none 0 Ix.zero
      ∧ iters (atIssue 0x03 w (x 1 (some 0))) = 1 ∧ ((atIssue 0x03 w (x 1 (some 0))).layer? 0).isSome)
    ∧ (Issuable (atIssue 0x03 w (x 0 (some 0))) now (.loop (bareOf now) a) .seq WaitGroup.none 0 Ix.zero
      ∧ iters (atIssue 0x03 w (x 0 (some 0))) = 0 ∧ ((atIssue 0x03 w (x 0 (some 0))).layer? 0).isSome)
    ∧ (Issuable (atIssue 0x03 w (x 1 none)) now (.loop (bareOf now) a) .seq WaitGroup.none 0 Ix.zero
      ∧ (atIssue 0x03 w (x 1 none)).layer? 0 = none)
    ∧ (Issuable (atIssue 0x04 (2 * 2 ^ 96) y) now (.endl (bareOf now) 2) .seq WaitGroup.none 0 Ix.zero ∧ f.level ≠ (2#2).toNat) :=
  ⟨⟨issues_ok (by decide +kernel), by decide +kernel, by decide +kernel⟩, ⟨issues_ok (by decide +kernel), by decide +kernel, by decide +kernel⟩,
    ⟨issues_ok (by decide +kernel), by decide +kernel⟩, issues_ok (by decide +kernel), by decide⟩

/-- BLIST of one entry, and of the 17 that a counter says; RECV of a window that ends with the deck store, and of none; TMARK. -/
theorem test_list_window_mark_premises :
    Issuable (atIssue 0x08 (2 ^ 41) Span.idle) now (.blist (bareOf now) WaitGroup.none 0 1 false .clean) .seq WaitGroup.none 0 Ix.zero
    ∧ Ix.zero.addrs (0#17).toNat (cdiv (1#13).toNat 16) = some [0]
    ∧ (let x : Span := { Span.idle with seq := { Sequencer.idle with arrive := [(2, 17)] } }
       let s := atIssue 0x08 (2 * 2 ^ 91 + 2 ^ 40) x
       Issuable s now (.blist (bareOf now) { WaitGroup.none with ctr := 2 } 0 0 true .clean) .seq { WaitGroup.none with ctr := 2 } 0 Ix.zero
       ∧ Ix.zero.addrs (0#17).toNat (cdiv ((s.span 0).seq.ctr (2#5).toNat) 16) = some [0, 1])
    ∧ Issuable (atIssue 0x09 (131071 * 2 ^ 79 + 2 ^ 62 + 2 ^ 61) Span.idle) now (.recv (bareOf now) 0 131071 1 true) .seq WaitGroup.none 0 Ix.zero
    ∧ (131071#17).toNat + (1#17).toNat ≤ 131072
    ∧ Issuable (atIssue 0x09 0 Span.idle) now (.recv (bareOf now) 0 0 0 false) .seq WaitGroup.none 0 Ix.zero
    ∧ Issuable (atIssue 0x0A (2 ^ 82) Span.idle) now (.tmark (bareOf now) 1) .seq WaitGroup.none 0 Ix.zero
    ∧ (atIssue 0x0A (2 ^ 82) Span.idle).regf 0x0A0034 0 16 ≠ (1#16).toNat :=
  ⟨issues_ok (by decide +kernel), by decide +kernel, ⟨issues_ok (by decide +kernel), by decide +kernel⟩,
    issues_ok (by decide +kernel), by decide, issues_ok (by decide +kernel), issues_ok (by decide +kernel), by decide +kernel⟩

/-- A span that runs layer `i` of the plan with a decoded tile set, released by PGATE. -/
def runsLayer (i : Nat) : Span := { Span.idle with cells := { CellUnit.idle with
  layer := some i, gated := true, bufs := [(1, { decodedBuf with desc := i })] } }

theorem test_cell_premises :
    (Issuable (atIssue 0x10 (2 ^ 86) Span.idle) now (.layer (bareOf now) 1) .cells WaitGroup.none 0 Ix.zero
      ∧ (atIssue 0x10 (2 ^ 86) Span.idle).desc? 1 = some (someLayer 0 1))
    ∧ (let s := atIssue 0x11 0 (runsLayer 0)
       let t := (someLayer 0 0).placeOf 0
       Issuable s now (.tload (bareOf now) WaitGroup.none 0 0 false 0 .clean) .decoder WaitGroup.none 0 Ix.zero
       ∧ bufferRead (s.ctxOf now 0 Ix.zero) s = none ∧ s.layer? 0 = some (someLayer 0 0)
       ∧ (s.span 0).setGranules Ix.zero 0 t = some (List.range 26) ∧ t.cells = [0])
    ∧ (Issuable (atIssue 0x15 0 (runsLayer 1)) now (.pgate (bareOf now) WaitGroup.none) .cells WaitGroup.none 0 Ix.zero
      ∧ (atIssue 0x15 0 (runsLayer 1)).layer? 0 = some (someLayer 0 1) ∧ (someLayer 0 1).predEn = true
      ∧ (atIssue 0x15 0 (runsLayer 1)).fixed = false)
    ∧ (Issuable (atIssue 0x15 0 (runsLayer 0)) now (.pgate (bareOf now) WaitGroup.none) .cells WaitGroup.none 0 Ix.zero
      ∧ (someLayer 0 0).predEn = false)
    ∧ Issuable (atIssue 0x17 (4095 * 2 ^ 86 + 2 ^ 73) (runsLayer 0)) now (.azero (bareOf now) 4095 1) .cells WaitGroup.none 0 Ix.zero
    ∧ (4095#12).toNat + 0 + (1#13).toNat ≤ 4096 :=
  ⟨⟨issues_ok (by decide +kernel), by decide +kernel⟩,
    ⟨issues_ok (by decide +kernel), by decide +kernel, by decide +kernel, by decide +kernel, by decide +kernel⟩,
    ⟨issues_ok (by decide +kernel), by decide +kernel, by decide +kernel, by decide +kernel⟩, ⟨issues_ok (by decide +kernel), by decide +kernel⟩,
    issues_ok (by decide +kernel), by decide⟩

/-- The tile set of the test above holds no poison; one with a poisoned granule does, whether the deck store or a flit poisoned it. -/
theorem test_tile_set_premise :
    let poisoned (x : Span) : Nat := (((atIssue 0x11 0 x).span 0).decodeSet (List.range 26) ((someLayer 0 0).placeOf 0)).poisoned
    let x : Span := { runsLayer 0 with poison := [25] }
    let y : Span := { x with flitPoison := [25] }
    poisoned (runsLayer 0) = 0 ∧ poisoned x ≠ 0 ∧ poisoned y ≠ 0
    ∧ (List.range 26).any (fun g => ((atIssue 0x11 0 x).span 0).flitPoison.contains g) = false
    ∧ (List.range 26).any (fun g => ((atIssue 0x11 0 y).span 0).flitPoison.contains g) = true := by decide +kernel

/-- The operands of a run of one sequence. -/
def oneSeq : RunArgs := { abase := 0, sstride := 1, seq0 := 0, nseq := 1 }

/-- Whether the run of layer `i` meets what the statement of PRUN, LRUN and TRUN asks, but for its issue. -/
def canRun (s : State) (m i : Nat) : Bool :=
  let c := s.ctxOf now 0 Ix.zero
  decide (runHazards oneSeq c s = none) && decide ((s.layer? 0).map (fun d => d.cmode) = some m)
    && decide ((s.span 0).cells.layer = some i) && (match s.runCtx? oneSeq c with
      | none => false
      | some r => !r.ks.isEmpty && !s.badList 0 r.ks && r.lines.all (fun ln => decide (ln ≤ 4095))
          && ((s.span 0).runFeeds r Ix.zero oneSeq).isSome)

/-- What PRUN meets in `s`, the issue of its operands `a`: its context and the layer that it runs. -/
def runMeets (a : RunArgs) (s : State) (f : State → RunCtx → Bool) : Bool :=
  let c := s.ctxOf now 0 Ix.zero
  decide (runHazards a c s = none) && (match s.runCtx? a c with
    | none => false
    | some r => f s r)

/-- PRUN of no sequence, of a slot that does not exist, of lines from 4,096 on, and of a feed past the deck store; on a predicted
layer that PGATE has not released. -/
theorem test_run_fault_premises :
    let none0 : RunArgs := { oneSeq with nseq := 0 }
    let past : RunArgs := { oneSeq with abase := 131071 }
    let listed : Span := { runsLayer 0 with seq := { Sequencer.idle with blist := some [1] } }
    let two : Span := { runsLayer 0 with
      seq := { Sequencer.idle with blist := some [0, 0] }
      cells := { (runsLayer 0).cells with bufs := [(1, { decodedBuf with tiles := [(0, [])] })] } }
    let wide := ((someLayer 0 0).set 9 4095#32).set 10 1#32
    let ungated : Span := { runsLayer 1 with cells := { (runsLayer 1).cells with gated := false } }
    (Issuable (atIssue 0x12 (2 ^ 40) (runsLayer 0)) now (.prun (bareOf now) WaitGroup.none none0 .clean) .cells WaitGroup.none 0 Ix.zero
      ∧ runMeets none0 (atIssue 0x12 (2 ^ 40) (runsLayer 0)) (fun _ r => r.ks.isEmpty) = true)
    ∧ (Issuable (atIssue 0x12 (2 ^ 40 + 2 ^ 15) listed) now (.prun (bareOf now) WaitGroup.none oneSeq .clean) .cells WaitGroup.none 0 Ix.zero
      ∧ runMeets oneSeq (atIssue 0x12 (2 ^ 40 + 2 ^ 15) listed) (fun s r => !r.ks.isEmpty && s.badList 0 r.ks) = true)
    ∧ (let s := issueLayer 0x12 (2 ^ 40 + 2 * 2 ^ 15) wide two
       let a : RunArgs := { oneSeq with nseq := 2 }
       Issuable s now (.prun (bareOf now) WaitGroup.none a .clean) .cells WaitGroup.none 0 Ix.zero
       ∧ runMeets a s (fun s r => !r.ks.isEmpty && !s.badList 0 r.ks && r.lines.any (fun ln => decide (4095 < ln))) = true)
    ∧ (let s := atIssue 0x12 (131071 * 2 ^ 54 + 2 ^ 40 + 2 ^ 15) (runsLayer 0)
       Issuable s now (.prun (bareOf now) WaitGroup.none past .clean) .cells WaitGroup.none 0 Ix.zero
       ∧ runMeets past s (fun s r => !r.ks.isEmpty && !s.badList 0 r.ks && r.lines.all (fun ln => decide (ln ≤ 4095))
           && ((s.span 0).runFeeds r Ix.zero past).isNone) = true)
    ∧ (let s := atIssue 0x12 (2 ^ 40 + 2 ^ 15) ungated
       Issuable s now (.prun (bareOf now) WaitGroup.none oneSeq .clean) .cells WaitGroup.none 0 Ix.zero
       ∧ runMeets oneSeq s (fun s r => s.predicted r.d && decide (r.d.cmode = 0) && !(s.span 0).cells.gated) = true) :=
  ⟨⟨issues_ok (by decide +kernel), by decide +kernel⟩, ⟨issues_ok (by decide +kernel), by decide +kernel⟩,
    ⟨issues_ok (by decide +kernel), by decide +kernel⟩, ⟨issues_ok (by decide +kernel), by decide +kernel⟩,
    issues_ok (by decide +kernel), by decide +kernel⟩

/-- PRUN, also of a predicted layer that PGATE has released, LRUN and TRUN; and PRUN on a layer of another CMODE. -/
theorem test_run_premises :
    let w := 2 ^ 40 + 2 ^ 15
    (Issuable (atIssue 0x12 w (runsLayer 0)) now (.prun (bareOf now) WaitGroup.none oneSeq .clean) .cells WaitGroup.none 0 Ix.zero
      ∧ canRun (atIssue 0x12 w (runsLayer 0)) 0 0 = true)
    ∧ (Issuable (atIssue 0x12 w (runsLayer 1)) now (.prun (bareOf now) WaitGroup.none oneSeq .clean) .cells WaitGroup.none 0 Ix.zero
      ∧ canRun (atIssue 0x12 w (runsLayer 1)) 0 1 = true ∧ (atIssue 0x12 w (runsLayer 1)).predicted (someLayer 0 1) = true)
    ∧ (Issuable (atIssue 0x13 w (runsLayer 2)) now (.lrun (bareOf now) WaitGroup.none oneSeq .clean) .cells WaitGroup.none 0 Ix.zero
      ∧ canRun (atIssue 0x13 w (runsLayer 2)) 1 2 = true)
    ∧ (Issuable (atIssue 0x14 w (runsLayer 3)) now (.trun (bareOf now) WaitGroup.none oneSeq .clean) .cells WaitGroup.none 0 Ix.zero
      ∧ canRun (atIssue 0x14 w (runsLayer 3)) 2 3 = true)
    ∧ Issuable (atIssue 0x12 w (runsLayer 2)) now (.prun (bareOf now) WaitGroup.none oneSeq .clean) .cells WaitGroup.none 0 Ix.zero
    ∧ (someLayer 16 0).cmode ≠ 0 :=
  ⟨⟨issues_ok (by decide +kernel), by decide +kernel⟩, ⟨issues_ok (by decide +kernel), by decide +kernel, by decide +kernel⟩,
    ⟨issues_ok (by decide +kernel), by decide +kernel⟩, ⟨issues_ok (by decide +kernel), by decide +kernel⟩,
    issues_ok (by decide +kernel), by decide +kernel⟩

/-- A layer of output kind `k` whose sequences have one line each. -/
def outLayer (k : BitVec 32) : Desc := (someLayer (k <<< 11) 0).set 10 0xF0000001#32

/-- A line of 16 sums that no CONV has read, with tag `t`. -/
def landedLine (t : BitVec 8) : Line :=
  { Line.zero with acc := (List.range 16).map (fun i => BitVec.ofNat 32 (100 * i + 3)), hasUnit := true, pending := true, tag := t }

/-- A span whose line 0 has that tag and whose context 0 holds layer 0. -/
def landedSpan (t : BitVec 8) : Span := { Span.idle with
  lines := [(0, landedLine t)]
  abt := { Abutment.idle with ctxs := [(0, { AbtCtx.none with loaded := true, desc := 0 })] } }

/-- A predicted layer's pair of slot position 0 that the abutment has checked, with a flagged row. -/
def flaggedPair : PredPair :=
  { run := 0, di := 1, pos := 0, seq0 := 0, v := 0, w := 1, full := false, beyond := false, lastAt := some 0, checked := true,
    flagged := [0], made := false }

/-- MKUP without a flagged pair and with one. -/
theorem test_make_up_premises :
    let w := 2 ^ 40 + 2 ^ 15
    let x : Span := { runsLayer 1 with cells := { (runsLayer 1).cells with pairs := [flaggedPair] } }
    let mine (x : Span) : List PredPair := x.cells.pairs.filter (fun q => decide (q.run = x.cells.layerSeq) && [0].contains q.pos
      && q.checked && !q.made && !q.flagged.isEmpty)
    let meets (s : State) : Bool := decide (mkupHazard oneSeq (s.ctxOf now 0 Ix.zero) s = none) && decide (s.positions 0 0 1 = [0])
      && !s.badList 0 [0]
    (Issuable (atIssue 0x16 w (runsLayer 1)) now (.mkup (bareOf now) WaitGroup.none oneSeq .clean) .cells WaitGroup.none 0 Ix.zero
      ∧ meets (atIssue 0x16 w (runsLayer 1)) = true ∧ mine ((atIssue 0x16 w (runsLayer 1)).span 0) = [])
    ∧ Issuable (atIssue 0x16 w x) now (.mkup (bareOf now) WaitGroup.none oneSeq .clean) .cells WaitGroup.none 0 Ix.zero
    ∧ meets (atIssue 0x16 w x) = true ∧ mine ((atIssue 0x16 w x).span 0) = [flaggedPair]
    ∧ ((mine ((atIssue 0x16 w x).span 0)).mapM ((atIssue 0x16 w x).makePair ((atIssue 0x16 w x).ctxOf now 0 Ix.zero) oneSeq
        (someLayer 0 1) 0)).isSome :=
  ⟨⟨issues_ok (by decide +kernel), by decide +kernel, by decide +kernel⟩, issues_ok (by decide +kernel), by decide +kernel, by decide +kernel,
    by decide +kernel⟩

/-- CONV of one line of LNS16 output into granule 77 of its own span: the line, its tag, its layer and its place; and of a line whose
tag no context has loaded. -/
theorem test_convert_premises :
    let w := 2 ^ 46 + 77 * 2 ^ 29 + 0xFF * 2 ^ 21 + 3 * 2 ^ 16
    let s := issueLayer 0x20 w (outLayer 1) (landedSpan 0)
    let c := s.ctxOf now 0 Ix.zero
    let t := issueLayer 0x20 w (outLayer 1) (landedSpan 1)
    let a : ConvArgs := { line0 := 0, nlines := 1, seq0 := 0, dst := 77, dspan := 0xFF, rctr := 3, kv := none }
    let wk (x : Nat × ConvLine × ConvCount × List Nat) : ConvWork := { a.work c 0 x.1 0 { lines := [], held := cdiv x.2.2.1.steer 4 - 1, failed := false } with base := 0 }
    Issuable s now (.conv (bareOf now) WaitGroup.none 0 1 77 0xFF 3 0 .clean) .abutment WaitGroup.none 0 Ix.zero
    ∧ (landingHold 0 1 c s = none ∧ (s.takeLine c 0 0).isSome = true ∧ (s.takeLine c 0 0).all (fun x => !s.badList 0 [x.2.1.pos]
        && decide (x.1 = 0) && decide ((wk x).addr ((wk x).seqOff (outLayer 1) x.2.1.pos + x.2.1.row16) = some 77)) = true)
    ∧ ((s.span 0).tagOk 0 = true ∧ s.abtDesc? 0 0 0 = some (outLayer 1) ∧ (outLayer 1).sweeps = 1 ∧ (outLayer 1).predOut = false
      ∧ ((outLayer 1).resEn && (outLayer 1).resOut) = false ∧ s.pair = false ∧ (outLayer 1).outKind = 1
      ∧ s.destSpans 0 (outLayer 1) 0xFF = [0] ∧ s.phys? 0 = some 0 ∧ modeOk false (outLayer 1) = true)
    ∧ (Issuable t now (.conv (bareOf now) WaitGroup.none 0 1 77 0xFF 3 0 .clean) .abutment WaitGroup.none 0 Ix.zero
      ∧ landingHold 0 1 (t.ctxOf now 0 Ix.zero) t = none ∧ (t.readLines (t.ctxOf now 0 Ix.zero) 0 [0]).1.failed = true) :=
  ⟨issues_ok (by decide +kernel), by decide +kernel, by decide +kernel, issues_ok (by decide +kernel), by decide +kernel, by decide +kernel⟩

/-- KVAPP of one line: its sequence, its position and the place of its group in a page that is there. -/
theorem test_append_premises :
    let s := (issueLayer 0x21 (2 ^ 46) (outLayer 2) (landedSpan 0)).ptWrite 0 0 0 { valid := true, shared := false, order := 0, frame := 0, fset := 0 }
    let c := s.ctxOf now 0 Ix.zero
    Issuable s now (.kvapp (bareOf now) WaitGroup.none 0 1 0 0 0 .clean) .abutment WaitGroup.none 0 Ix.zero
    ∧ (landingHold 0 1 c s = none ∧ (s.takeLine c 0 0).all (fun x => !s.badList 0 [x.2.1.pos]) = true)
    ∧ ((s.span 0).tagOk 0 = true ∧ s.abtDesc? 0 0 0 = some (outLayer 2) ∧ (outLayer 2).outKind = 2 ∧ modeOk true (outLayer 2) = true)
    ∧ (match s.takeLine c 0 0, kfind? s.requests 4 with
       | some x, some q => match s.tick.slots[x.2.1.slot]?, s.posOf (outLayer 2) x.2.1 with
         | some sl, some pos => decide (sl.handle = 4) && (s.kvGroup (outLayer 2) q pos false 0 0).isSome
             && decide ((outLayer 2).kvPlace x.2.1.kind ((s.sliceOf (outLayer 2) 0).1 * (outLayer 2).rows16 + x.2.1.row16) = (false, 0, 0))
         | _, _ => false
       | _, _ => false) = true :=
  ⟨issues_ok (by decide +kernel), by decide +kernel, by decide +kernel, by decide +kernel⟩

/-- ATTN of one entry on an attention layer and on another; ARANK and ASAMP of the batch's one sequence, which end with the lines. -/
theorem test_attention_and_ranking_premises :
    let att := someLayer 0x20000000 0
    let x := runsLayer 0
    let c (s : State) := s.ctxOf now 0 Ix.zero
    let reads (s : State) (d : Desc) : Bool := (s.assigns? (c s) 0 1).any (fun e =>
      let a := s.attWork 0 0 0 0 0 0 d e.1 (c s)
      !e.1.any (s.badAssign d) && decide (a.line0 + a.nlines ≤ 4096))
    let last (s : State) : Bool := decide (lanesHazard 4095 1 (c s) s = none) && !s.badList 0 (s.laneSeqs 0 1)
      && decide (s.laneSeqs 0 1 = [0]) && decide (((s.layer? 0).map (fun d => 4095 + 1 * max 1 d.linesPerSeq)).getD 0 = 4096)
    (let s := issueLayer 0x30 (2 ^ 41) att x
     Issuable s now (.attn (bareOf now) WaitGroup.none 0 1 0 0 0 0 .clean) .arch WaitGroup.none 0 Ix.zero
     ∧ (attnHold 0 1 0 (c s) s = none ∧ reads s att = true ∧ s.layer? 0 = some att ∧ att.attEn = true))
    ∧ (let s := issueLayer 0x30 (2 ^ 41) (outLayer 1) x
       Issuable s now (.attn (bareOf now) WaitGroup.none 0 1 0 0 0 0 .clean) .arch WaitGroup.none 0 Ix.zero
       ∧ (attnHold 0 1 0 (c s) s = none ∧ reads s (outLayer 1) = true ∧ (outLayer 1).attEn = false))
    ∧ (let s := atIssue 0x33 (4095 * 2 ^ 59 + 2 ^ 46) x
       Issuable s now (.arank (bareOf now) WaitGroup.none 4095 1 0 0) .arch WaitGroup.none 0 Ix.zero ∧ last s = true
       ∧ (let tokens := (s.span 0).routeTokens (someLayer 0 0) 4095 (s.seqList 0) (s.laneSeqs 0 1)
          let g := grantAll (someLayer 0 0) s.fixed (s.fidelity && decide (0 < (s.span 0).cells.viewSlip)) (tokens.map (fun t => (t.1, t.2.1)))
          (Ix.zero.addrs 0 (g.granules (someLayer 0 0).nExp)).isSome = true))
    ∧ let s := atIssue 0x34 (4095 * 2 ^ 59 + 2 ^ 46 + 131071 * 2 ^ 29) x
      Issuable s now (.asamp (bareOf now) WaitGroup.none 4095 1 131071) .arch WaitGroup.none 0 Ix.zero ∧ last s = true
      ∧ Ix.zero.addrs 131071 (cdiv (s.laneSeqs 0 1).length 8) = some [131071] :=
  ⟨⟨issues_ok (by decide +kernel), by decide +kernel⟩, ⟨issues_ok (by decide +kernel), by decide +kernel⟩,
    ⟨issues_ok (by decide +kernel), by decide +kernel, by decide +kernel⟩, issues_ok (by decide +kernel), by decide +kernel, by decide +kernel⟩

/-- TBLLD of the last 257 granules; AMUL into the last line; AROT. -/
theorem test_table_and_lane_premises :
    let c (s : State) := s.ctxOf now 0 Ix.zero
    (let s := atIssue 0x22 (130815 * 2 ^ 78) (runsLayer 0)
     Issuable s now (.tblld (bareOf now) 0 130815 .clean) .abutment WaitGroup.none 0 Ix.zero ∧ slotHazard 0 (c s) s = none
     ∧ (Ix.zero.addrs 130815 257).isSome = true ∧ (s.span 0).poison = [])
    ∧ (let s := atIssue 0x31 (4095 * 2 ^ 25 + 2 ^ 12) (runsLayer 0)
       Issuable s now (.amul (bareOf now) WaitGroup.none 0 0 4095 1 .clean) .arch WaitGroup.none 0 Ix.zero ∧ archHeld 4095 1 (c s) s = none
       ∧ s.layer? 0 = some (someLayer 0 0) ∧ (s.span 0).cells.layer = some 0 ∧ Ix.zero.addrs 0 1 = some [0] ∧ (s.span 0).poison = [])
    ∧ let s := atIssue 0x32 (2 ^ 24) (runsLayer 0)
      Issuable s now (.arot (bareOf now) WaitGroup.none 0 0 1 0 .clean) .arch WaitGroup.none 0 Ix.zero
      ∧ archHeld 0 (1 * (((s.layer? 0).map (·.dH)).getD 16 / 16)) (c s) s = none :=
  ⟨⟨issues_ok (by decide +kernel), by decide +kernel, by decide +kernel, by decide +kernel⟩,
    ⟨issues_ok (by decide +kernel), by decide +kernel, by decide +kernel, by decide +kernel, by decide +kernel, by decide +kernel⟩,
    issues_ok (by decide +kernel), by decide +kernel⟩

/-- Streams of one granule, the last of the deck store where it has an end, and one granule further. -/
theorem test_stream_premises :
    let copies (s d : Nat) : Prop := Issuable (atIssue 0x44 (s * 2 ^ 81 + d * 2 ^ 64 + 2 ^ 47) Span.idle) now
      (.copy (bareOf now) (BitVec.ofNat 17 s) (BitVec.ofNat 17 d) 1 0) .stream WaitGroup.none 0 Ix.zero
    (Issuable (atIssue 0x43 (131071 * 2 ^ 81 + 2 ^ 64) Span.idle) now (.fill (bareOf now) 131071 1 0 0) .stream WaitGroup.none 0 Ix.zero
      ∧ Ix.zero.addrs 131071 1 = some [131071])
    ∧ (Issuable (atIssue 0x43 (131071 * 2 ^ 81 + 2 * 2 ^ 64) Span.idle) now (.fill (bareOf now) 131071 2 0 0) .stream WaitGroup.none 0 Ix.zero
      ∧ Ix.zero.addrs 131071 2 = none)
    ∧ copies 131071 0
    ∧ (Issuable (atIssue 0x44 (131071 * 2 ^ 81 + 2 * 2 ^ 47) Span.idle) now (.copy (bareOf now) 131071 0 2 0) .stream WaitGroup.none 0 Ix.zero)
    ∧ Issuable (atIssue 0x46 (2 ^ 41) Span.idle) now (.scat (bareOf now) WaitGroup.none 0 1 0) .stream WaitGroup.none 0 Ix.zero
    ∧ Issuable (atIssue 0x46 (131071 * 2 ^ 54 + 2 * 2 ^ 41) Span.idle) now (.scat (bareOf now) WaitGroup.none 131071 2 0) .stream WaitGroup.none 0 Ix.zero :=
  ⟨⟨issues_ok (by decide +kernel), by decide +kernel⟩, ⟨issues_ok (by decide +kernel), by decide +kernel⟩, issues_ok (by decide +kernel),
    issues_ok (by decide +kernel), issues_ok (by decide +kernel), issues_ok (by decide +kernel)⟩

/-- SEND to span 253 up to the deck store's end, one granule further, and to a layer's spans with and without a layer; GATH of the
last granule, of one further, of a slot that does not exist. -/
theorem test_send_and_gather_premises :
    let sends (n : Nat) (d : BitVec 8) (x : Span) : Prop := Issuable (atIssue 0x47 (n * 2 ^ 37 + d.toNat * 2 ^ 29 + 131071 * 2 ^ 12) x) now
      (.send (bareOf now) WaitGroup.none 0 (BitVec.ofNat 17 n) d 131071 0 0) .stream WaitGroup.none 0 Ix.zero
    let gathers (n : Nat) (x : Span) : Prop := Issuable (atIssue 0x45 (131071 * 2 ^ 46 + n * 2 ^ 24) x) now
      (.gath (bareOf now) WaitGroup.none 0 131071 0 (BitVec.ofNat 10 n) 0 0) .stream WaitGroup.none 0 Ix.zero
    let listed : Span := { Span.idle with seq := { Sequencer.idle with blist := some [1] } }
    (sends 1 253 Span.idle ∧ sends 2 253 Span.idle ∧ sends 1 0xFE Span.idle ∧ sends 1 0xFE (runsLayer 0))
    ∧ (131071 + 1 ≤ 131072 ∧ 131072 < 131071 + 2 ∧ Ix.zero.addrs 0 1 = some [0]
      ∧ (atIssue 0x47 0 Span.idle).layer? 0 = none ∧ ((atIssue 0x47 0 (runsLayer 0)).layer? 0).isSome)
    ∧ (gathers 1 Span.idle ∧ gathers 2 Span.idle ∧ gathers 1 listed)
    ∧ ((atIssue 0x45 0 Span.idle).seqList 0 = [0] ∧ (atIssue 0x45 0 Span.idle).tick.slots.length = 1 ∧ (atIssue 0x45 0 listed).seqList 0 = [1]
      ∧ 131071 + 0 * 0 + 0 < 131072 ∧ 131072 ≤ 131071 + 0 * 0 + 1 ∧ (Ix.zero.addrs 0 (1 * 1)).isSome) :=
  ⟨⟨issues_ok (by decide +kernel), issues_ok (by decide +kernel), issues_ok (by decide +kernel), issues_ok (by decide +kernel)⟩,
    by decide +kernel, ⟨issues_ok (by decide +kernel), issues_ok (by decide +kernel), issues_ok (by decide +kernel)⟩, by decide +kernel⟩

/-- A spill range of two places of two granules at byte 65,536 of the plan region. -/
def spilled (s : State) : State := s.memWrite [(planAddr 2, 1), (planAddr 8, 2), (planAddr 12, 2)]

/-- MLOAD of the last granules of device memory and of one more, of a spill range's place and of half of one; of a layer's extent,
past its end, and of no layer. -/
theorem test_load_stream_premises :
    let raw (addr len : Nat) (f : State → State) : Prop := Issuable (f (atIssue 0x40 (2 ^ 97 + addr * 2 ^ 65 + len * 2 ^ 45) Span.idle)) now
      (.mload (bareOf now) true (BitVec.ofNat 12 (addr / 2 ^ 20)) (BitVec.ofNat 20 addr) (BitVec.ofNat 32 addr) (BitVec.ofNat 20 len) 0 0 0 0 false)
      .stream WaitGroup.none 0 Ix.zero
    let s := atIssue 0x40 0 Span.idle
    let ext (s : State) : State := { s with
      bits := [(7, { someBits with weights := [{ wl := 0, lspan := 0, entry := 0, offset := 0, len := 1 }] })]
      jobs := [(7, { someJob with state := .running, entry := some 3 })] }
    let of (desc len : Nat) (f : State → State) : Prop := Issuable (f (atIssue 0x40 (desc * 2 ^ 85 + len * 2 ^ 45) Span.idle)) now
      (.mload (bareOf now) false (BitVec.ofNat 12 desc) 0 (BitVec.ofNat 32 (desc * 2 ^ 20)) (BitVec.ofNat 20 len) 0 0 0 0 false) .stream
      WaitGroup.none 0 Ix.zero
    (raw 0x0FFFFFFF 128 id ∧ raw 0x0FFFFFFF 129 id ∧ raw 0x10000000 1 id ∧ raw 0x7C0010 2 spilled ∧ raw 0x7C0010 1 spilled)
    ∧ (4096 * 0x0FFFFFFF + 32 * 128 ≤ 2 ^ 40 ∧ 2 ^ 40 < 4096 * 0x0FFFFFFF + 32 * 129 ∧ s.spillOf (4096 * 0x0FFFFFFF) 128 = .none
      ∧ (spilled s).spillOf (4096 * 0x7C0010) 2 = .places 2 ∧ (spilled s).spillOf (4096 * 0x7C0010) 1 = .part)
    ∧ (of 0 1 ext ∧ of 0 2 ext ∧ of 4095 1 id)
    ∧ ((ext s).desc? 0 = some (someLayer 0 0) ∧ ((ext s).extentPlaces (someLayer 0 0) 0 0 1).isSome
      ∧ (ext s).extentPlaces (someLayer 0 0) 0 0 2 = none ∧ s.desc? 4095 = none) :=
  ⟨⟨issues_ok (by decide +kernel), issues_ok (by decide +kernel), issues_ok (by decide +kernel), issues_ok (by decide +kernel),
      issues_ok (by decide +kernel)⟩, by decide +kernel,
    ⟨issues_ok (by decide +kernel), issues_ok (by decide +kernel), issues_ok (by decide +kernel)⟩, by decide +kernel⟩

/-- MSTORE of the last 4 KiB of device memory, to a place of a spill range and to half of one, to a target that is there and to one
that is not, beyond the deck store and beyond Table 9.7's addresses. -/
theorem test_memory_store_premises :
    let at_ (addr len src : Nat) (f : State → State) : Prop :=
      Issuable (f (atIssue 0x41 (2 ^ 97 + addr * 2 ^ 65 + len * 2 ^ 45 + src * 2 ^ 28) Span.idle)) now
        (.mstore (bareOf now) (BitVec.ofNat 32 addr) (BitVec.ofNat 20 len) (BitVec.ofNat 17 src) 0 .clean) .stream WaitGroup.none 0 Ix.zero
    let s := atIssue 0x41 0 Span.idle
    let targeted (s : State) : State := s.memWrite [(planAddr 0x1001, 0x80#8)]
    let there (s : State) : Bool := let t := s.remoteTarget 0
      t.valid && !t.pull && !t.seg
    (at_ 0x0FFFFFFF 128 130944 id ∧ at_ 0x0FFFFFFF 129 0 id ∧ at_ 0 2 131071 id ∧ at_ 0x7C0010 2 0 spilled ∧ at_ 0x7C0010 1 0 spilled
      ∧ at_ 0x10000000 1 0 targeted ∧ at_ 0x10000000 1 0 id ∧ at_ 0x20000000 1 0 id)
    ∧ (130944 + 128 ≤ 131072 ∧ 131072 < 131071 + 2 ∧ s.spillOf (4096 * 0x0FFFFFFF) 128 = .none
      ∧ (spilled s).spillOf (4096 * 0x7C0010) 2 = .places 2 ∧ (spilled s).spillOf (4096 * 0x7C0010) 1 = .part
      ∧ there (targeted s) = true ∧ there s = false) :=
  ⟨⟨issues_ok (by decide +kernel), issues_ok (by decide +kernel), issues_ok (by decide +kernel), issues_ok (by decide +kernel),
      issues_ok (by decide +kernel), issues_ok (by decide +kernel), issues_ok (by decide +kernel), issues_ok (by decide +kernel)⟩,
    by decide +kernel⟩

/-- Granules that are stored plainly and in places of two, at a place of stacks that are there. -/
theorem test_stored_granules_premises :
    4096 % 32 = 0 ∧ ((2 : Nat) ≠ 0 ∧ ([0, 1] : List (BitVec 256)).length % 2 = 0 ∧ (0 + 1) * 2 ≤ ([0, 1] : List (BitVec 256)).length)
    ∧ (List.range 64).all (fun k => !(atIssue 0x41 0 Span.idle).stackLost (stackOf (4096 + k))) = true := by decide +kernel

/-- KVRD of one entry: of a page that is there and of one that is missing; of a head that the layer has not, of a list past the deck
store, and without a layer. -/
theorem test_cache_read_premises :
    let att := someLayer 0x20000000 0
    let reads (l n : Nat) (s : State) : Prop := Issuable s now
      (.kvrd (bareOf now) WaitGroup.none (BitVec.ofNat 17 l) (BitVec.ofNat 13 n) 0 0 0 0 false .clean) .stream WaitGroup.none 0 Ix.zero
    let w (l n : Nat) := l * 2 ^ 54 + n * 2 ^ 41
    let x := runsLayer 0
    let headed : Span := { x with deck := [(1, 0x10)] }
    let s (l n : Nat) (x : Span) : State := issueLayer 0x42 (w l n) att x
    let paged := (s 0 1 x).ptWrite 0 0 0 { valid := true, shared := false, order := 0, frame := 0, fset := 0 }
    let es (s : State) (l n : Nat) := s.assigns? (s.ctxOf now 0 Ix.zero) l n
    let misses (s : State) : Option Nat := (es s 0 1).map (fun e => (e.1.flatMap (s.kvPieces att)).countP (fun k => !k.valid && !k.v))
    (reads 0 1 paged ∧ reads 0 1 (s 0 1 x) ∧ reads 0 1 (s 0 1 headed) ∧ reads 131071 5 (s 131071 5 x) ∧ reads 0 1 (s 0 1 Span.idle))
    ∧ (misses paged = some 0 ∧ misses (s 0 1 x) = some 1
      ∧ (es paged 0 1).all (fun e => decide (e.1.length = 1) && !e.1.any (paged.badAssign att)) = true
      ∧ (es (s 0 1 headed) 0 1).all (fun e => e.1.any ((s 0 1 headed).badAssign att)) = true ∧ (es (s 0 1 headed) 0 1).isSome
      ∧ es (s 131071 5 x) 131071 5 = none ∧ (s 131071 5 x).layer? 0 = some att ∧ (s 0 1 Span.idle).layer? 0 = none) :=
  ⟨⟨issues_ok (by decide +kernel), issues_ok (by decide +kernel), issues_ok (by decide +kernel), issues_ok (by decide +kernel),
      issues_ok (by decide +kernel)⟩, by decide +kernel⟩
/-! ### The premises of the statements are met (chapters 3 to 7, 9, 10 and 13: what spans, the trestle unit and jobs complete) -/

/-- The tick's state with another span 0. -/
def spanState (x : Span) : State := { tickState with spans := [(0, { x with seq := { x.seq with phase := 1 } })] }

/-- An addition that lands at cycle 5. -/
def someAddition : Addition :=
  { land := 5, line := 0, terms := List.replicate 16 1, tag := 0, unit := 0, rowGroup := 0, owner := 0, desc := 0, keep := false, check := false }

/-- A tile set, an addition, a pair, poison and a context that are due in cycle 5, and not in cycle 4. -/
theorem test_unit_completion_premises :
    let b : TileBuf := { decodedBuf with done := false, doneAt := 5, fctr := some (1, 26) }
    let q : PredPair := { flaggedPair with checked := false, flagged := [], lastAt := some 5 }
    let of (n : Nat) (c : CellUnit) : State := (spanState { Span.idle with cells := c }).toCyc n
    let meets (s : State) : Bool := s.tick.active && decide (s.phys? 0 = some 0) && decide ((s.span 0).seq.phase ≠ 0)
    let s (n : Nat) := of n { CellUnit.idle with bufs := [(0, b)], inflight := [someAddition] }
    let u := of 5 { CellUnit.idle with pairs := [q] }
    let v := of 5 { CellUnit.idle with poisonDue := true }
    let w := (spanState { Span.idle with abt := { Abutment.idle with ctxs := [(0, { AbtCtx.none with waiting := some 0 })] } }).toCyc 5
    (meets (s 5) = true ∧ ((s 5).span 0).cells.bufs = [(0, b)] ∧ b.done = false ∧ b.doneAt = 5 ∧ someAddition.land = 5
      ∧ ((s 5).span 0).cells.inflight = [someAddition] ∧ ((s 5).span 0).cells.pairs = [] ∧ ((s 5).span 0).cells.poisonDue = false)
    ∧ (meets (s 4) = true ∧ ((s 4).span 0).cells.inflight = [someAddition] ∧ ((s 4).span 0).dueChecks 4 = [])
    ∧ (meets u = true ∧ (u.span 0).cells.pairs = [q] ∧ (u.span 0).cells.inflight = [] ∧ (u.span 0).cells.poisonDue = false
      ∧ q.full = false ∧ u.desc? q.di = some (someLayer 0 1))
    ∧ (meets v = true ∧ (v.span 0).cells.poisonDue = true ∧ (v.span 0).cells.busyUntil ≤ 5 ∧ (v.span 0).cells.pairs = [])
    ∧ (meets w = true ∧ (w.span 0).abt.ctxs = [(0, { AbtCtx.none with waiting := some 0 })] ∧ (w.span 0).ctxBusy 0 5 = false
      ∧ w.desc? 0 = some (someLayer 0 0)) := by decide +kernel

/-- A stream of one granule of kind `k`. -/
def oneGranule (k : StreamKind) : Stream := Stream.new k [1] [1] 0

/-- One stream of each kind that may move its granule: an MLOAD with a counter that covers it and with one that does not, FILL and
COPY in the cycle of their first granule and before, SCAT with room and at a full queue; streams that have moved it; an
acknowledgement. -/
theorem test_stream_landing_premises :
    let of (cyc : Nat) (v : Stream) (q : Sequencer) : State := (spanState { Span.idle with seq := q, streams := [(0, v)] }).toCyc cyc
    let may (cyc : Nat) (v : Stream) : Bool := let s := of cyc v Sequencer.idle
      s.tick.active && decide (s.phys? 0 = some 0) && decide (kfind? (s.span 0).streams 0 = some v) && (s.span 0).mayMove 0 0 v
    let counted (n : Nat) : Nat := ((of 5 { oneGranule .mload with fen := some 1 } { Sequencer.idle with arrive := [(1, n)] }).span 0).seq.avail 1
    ((may 5 (oneGranule .mload) = true ∧ may 5 { oneGranule .kvrd with fen := some 1 } = true ∧ may 5 (oneGranule .send) = true
      ∧ may 5 (oneGranule .gath) = true ∧ may 5 { oneGranule .fill with since := 5 } = true ∧ may 6 { oneGranule .fill with since := 5 } = true)
      ∧ may 5 { oneGranule .copy with since := 5 } = true ∧ may 6 { oneGranule .copy with since := 5 } = true ∧ may 5 (oneGranule .scat) = true
      ∧ may 5 { oneGranule .fill with count := 1 } = false)
    ∧ (counted 0 < 0 + 1 - 0 ∧ 0 + 1 - 0 ≤ counted 1 ∧ (oneGranule .scat).count = 0 ∧ (oneGranule .scat).fullFrom = none)
    ∧ (let v : Stream := { Stream.new .mstore [0, 1] [0, 1] 0 with needAck := true, acked := 1 }
       let s := of 5 v Sequencer.idle
       kfind? (s.span 0).streams 0 = some v ∧ v.needAck = true ∧ v.remote = [] ∧ min 1 (v.srcs.length - v.acked) ≠ 0
       ∧ (oneGranule .send).needAck = false)
    ∧ (let a : KvAck := { cyc := 5, spans := [0], ctr := 1, bytes := [] }
       let s (n : Nat) := (spanState { Span.idle with abt := { Abutment.idle with kvAcks := [a] } }).toCyc n
       ((s 5).span 0).abt.kvAcks = [a] ∧ ((s 4).span 0).abt.kvAcks = [a] ∧ a.cyc ≤ 5 ∧ 4 < a.cyc) := by decide +kernel

/-- Two spans of a binding: a scatter entry of logical span 0 is for its target's queue, which has room, is full, or is of no span. -/
theorem test_scatter_leaves_premises :
    let v := oneGranule .scat
    let of (r : BitVec 8) (n : Nat) : State := { spanState { Span.idle with streams := [(0, v)], deck := [(32, r)] } with
      binding := [(0, 0), (1, 2)], spans := [(0, { Span.idle with streams := [(0, v)], deck := [(32, r)] }),
        (2, { Span.idle with queues := [(0, List.replicate n { src := 0, line := 0, values := [], g := 0 })] })] }
    let e (r : BitVec 8) := (((of r 0).toCyc 5).span 0).scatEntry 0 v 0
    ((e 1).1 = 1 ∧ ((of 1 0).toCyc 5).phys? 1 = some 2 ∧ (e 9).1 = 9 ∧ ((of 9 0).toCyc 5).phys? 9 = none)
    ∧ ((((of 1 31).toCyc 5).span 2).bankQueue ((e 1).2.line % 16)).length < 32
    ∧ 32 ≤ ((((of 1 32).toCyc 5).span 2).bankQueue ((e 1).2.line % 16)).length := by decide +kernel

/-- A granule of plain memory, and one that a stream waits for at the port of its deck store. -/
theorem test_granule_premises :
    let v := Stream.new .mload [8388609] [7] 0
    let w : DeckPut := { cyc := 5, client := .stream, src := 0, g := 7, v := 1, poison := false, flit := false, raise := .stream 0 0 }
    let s := spanState { Span.idle with streams := [(0, v)] }
    (v.srcs.getD 0 0 = 8388608 + 1 ∧ v.places = 0 ∧ s.poisoned (32 * 8388608) = false ∧ inDevice (32 * 8388608) = false)
    ∧ (s.tick.active = true ∧ w.raise = .stream 0 0 ∧ (s.span 0).preloaded w.g = false ∧ kfind? (s.span 0).streams 0 = some v
      ∧ (s.span 0).seq.phase ≠ 0) := by decide +kernel

/-- A layer with a scatter unit of one line and SCAT_CAP 1. -/
def scatLayer : Desc := (((someLayer 0 4).set 28 1#32).set 29 1#32)

/-- An entry of that line, which nothing zeroes, and the same line being zeroed up to cycle 6; a bank that has applied one in cycle 5;
a line outside the scatter unit. -/
theorem test_scatter_premises :
    let e : ScatEntry := { src := 0, line := 0, values := [], g := 0 }
    let x : Span := { Span.idle with cells := { CellUnit.idle with layer := some 0 }, queues := [(0, [e])], bankAt := [(1, 6)] }
    let p : Plan := { somePlan with layers := [scatLayer] }
    let s : State := ({ spanState x with bits := [(7, { someBits with plans := [(0, p)] })] } : State).toCyc 5
    (s.tick.active = true ∧ s.phys? 0 = some 0 ∧ (s.span 0).bankQueue 0 = [e]) ∧ (s.span 0).lineZeroed e.line 5 = false
    ∧ (kget 0 (s.span 0).bankAt 0 ≤ 5 ∧ 5 < kget 0 (s.span 0).bankAt 1)
    ∧ s.layer? 0 = some scatLayer ∧ (s.span 0).cells.layer = some 0 ∧ scatLayer.scatEn = true ∧ scatLayer.scatBase ≤ e.line
    ∧ e.line < scatLayer.scatBase + scatLayer.scatLines ∧ kget 0 (s.span 0).applied (0 * 16 + 0) + 1 ≤ scatLayer.scatCap
    ∧ scatLayer.scatBase + scatLayer.scatLines ≤ ({ e with line := 16 }).line
    ∧ ({ x with cells := { x.cells with zeroing := some (0, 1, 6) } }).lineZeroed e.line 5 = true := by decide +kernel

/-- A trestle record of phase 1 at its start and before, with no input; one of a weighted layer with a token; retests from a port and
by a fence. -/
theorem test_trestle_premises :
    let r : TrsRec := { start := 5, phase := 1, kind := 4, desc := 0, src := 0xFFFF }
    let p : Plan := { somePlan with trestle := [r] }
    let q : State := { tickState with bits := [(7, { someBits with plans := [(0, p)] })], trs := { TrestleUnit.cold with state := .inService } }
    let s := (q.at 5).settled
    let w : TrsRec := { r with kind := 0, src := 3 }
    let u : State := { q with trs := { q.trs with places := [(3 * 2 ^ 44, 0)] } }
    (s.tick.active = true ∧ s.trs.state = .inService ∧ s.plan? = some p ∧ p.recordFrom s.tick.phase s.trs.nextRec = some 0
      ∧ p.trestle[0]? = some r ∧ s.recordStart r ≤ s.cycNow ∧ r.src = 0xFFFF ∧ p.recordFrom r.phase (0 + 1) = none ∧ r.kind = 4
      ∧ (s.runRecord r).2.tick.active = true)
    ∧ (let z := (q.at 0).settled
       z.tick.active = true ∧ z.trs.state = .inService ∧ z.plan? = some p ∧ z.cycNow < z.recordStart r)
    ∧ (w.kind = 0 ∧ u.desc? w.desc = some (someLayer 0 0) ∧ u.trs.tokens w.src = [(0, 0)])
    ∧ (q.portOpen 0 = true ∧ q.trs.state ≠ .fenced)
    ∧ (let u : TrestleUnit := { q.trs with retesting := true, suspects := 1 }
       u.retesting = true ∧ u.state ≠ .fenced ∧ u.state ≠ .suspect ∧ ({ u with state := .suspect }).state = .suspect) := by decide +kernel

/-- A load at step 5 with nothing running; a copied bitstream that is too long; an idle job at its IDLE_MS of 1. -/
theorem test_load_premises :
    let s : State := { openState with jobs := [(7, someJob)], bits := [(7, someBits)],
                                      load := some { job := 7, step := 5, cached := false, basic := false, binding := [(0, 0)] } }
    let i : Job := { someJob with params := BitVec.ofNat 2048 (2 ^ 64 + 2 ^ 96), idleSince := some 0 }
    let u : State := { openState with jobs := [(7, i)], bits := [(7, someBits)] }
    (kfind? openState.bits (7#16).toNat = none ∧ kfind? s.jobs (7#16).toNat = some someJob ∧ kfind? s.bits (7#16).toNat = some someBits)
    ∧ stepTwo s.contentKeys (2 ^ 28 + 1) [] = .inl { code := 0x01, sect := 0, plan := 7, lspan := 0, record := 0 }
    ∧ (s.load.map (·.step) = some 5 ∧ s.flt.scrubbing = false ∧ s.flt.testing = none ∧ s.running = none ∧ s.boot.deferred = none)
    ∧ (kfind? (u.at 1000000).noteIdle.jobs 7 = some i ∧ i.type = .serve ∧ prmFlag i.params 0 = true ∧ i.ending = none
      ∧ (u.at 1000000).noteIdle.demand 7 i = false ∧ 0 + 1000000 * prm i.params 12 4 = 1000000) := by decide +kernel

/-- An INGEST job whose pack comes, one whose next extent is formed and one whose extents are sealed; a TUNE before its last step
and in it. -/
theorem test_ingest_and_tune_premises :
    let j : Job := { someJob with type := .ingest, state := .running, entry := some 3 }
    let k : Job := { someJob with type := .tune, state := .running, params := BitVec.ofNat 2048 (2 * 2 ^ 224) }
    let w : WExtent := { wl := 0, lspan := 0xFE, entry := 0, offset := 0, len := 1 }
    let b : Bitstream := { someBits with weights := [w, w] }
    let s : State := { openState with jobs := [(7, j)], bits := [(7, b)], running := some 7, hot := [(3, { readyEntry with state := .installing })],
                                      tune := [(7, { records := [], next := 0 })] }
    (kfind? s.jobs (7#16).toNat = some j ∧ kfind? s.bits (7#16).toNat = some b ∧ s.running = some (7#16).toNat ∧ j.verified = false
      ∧ j.ending = none ∧ prmFlag j.params 5 = false)
    ∧ (j.entry = some 3 ∧ (s.entry 3).state = .installing ∧ b.weights[(s.entry 3).sealed.length]? = some w ∧ w.lspan = 0xFE
      ∧ b.ingest.find? (fun r => r.wl = w.wl) = none ∧ 0 + 1 < b.weights.length ∧ b.weights[2]? = none)
    ∧ (kfind? s.tune (7#16).toNat = some { records := [], next := 0 } ∧ k.type = .tune ∧ k.steps + 1 < prm k.params 28 4
      ∧ prm k.params 28 4 ≤ ({ k with steps := 1 } : Job).steps + 1) := by decide +kernel

/-- A job whose pack an interrupted install of the same model, digest and layout left; a TUNE whose slot is free to write and one
whose slot is not there; a module whose scrub ends with nothing to go on with. -/
theorem test_resume_and_slot_premises :
    let j : Job := { someJob with type := .ingest, params := 1, verified := true }
    let x : HotEntry := { HotEntry.empty with state := .interrupted, modelId := 1, digest := 5, varSlots := 2 }
    let s : State := { openState with hot := [(3, x)] }
    (s.entryOfModel? (ingestEntry j someBits 5 Vocab.none 1).modelId = some 3 ∧ (s.entry 3).state = .interrupted ∧ (s.entry 3).digest = 5
      ∧ (s.entry 3).layoutDigest = someBits.weightDigest ∧ j.verified = true)
    ∧ (servingState.slotError 1 1 0 = none ∧ (servingState.slotError 1 2 0).isSome)
    ∧ (let u : State := { openState with flt := { openState.flt with scrubbing := true } }
       u.flt.scrubbing = true ∧ u.jobs = [] ∧ u.running = none ∧ u.load = none ∧ u.toFence = [] ∧ u.flt.testAsked = [] ∧ u.pair = false) := by
  decide +kernel

/-- A READY entry that is not pinned, with 15 pins in flash and with 16; one that is pinned; one that a job holds; an empty one. -/
theorem test_hot_set_premises :
    let pins (n : Nat) : List (Nat × BitVec 384 × Nat × Bool) := List.replicate n (9, 0, 0, false)
    let s : State := { servingState with jobs := [(7, { someJob with entry := some 3 })] }
    Reached 0 (.pf 0) s ((s.at 0).portRx 0 4) ∧ Reached 0 .sideband s (s.at 0)
    ∧ ((s.entry 3).state = .ready ∧ (s.entry 3).pinned = false ∧ (pins 15).length < 16 ∧ 16 ≤ (pins 16).length)
    ∧ s.entryHeld 3 = true ∧ servingState.entryHeld 3 = false ∧ ({ readyEntry with pinned := true }).pinned = true
    ∧ (s.entry 4).state = .empty :=
  ⟨.inl ⟨0, rfl, by decide +kernel, rfl⟩, .inr ⟨rfl, by decide +kernel, rfl⟩, by decide +kernel, by decide +kernel, by decide +kernel, rfl,
    by decide +kernel⟩

/-- Sums at both ends of 32 bits, and one past them; an addition into a line that it owns. -/
theorem test_accumulator_premises :
    ((0x7FFFFFFF#32).toInt + 1 > 2 ^ 31 - 1 ∧ (0x80000000#32).toInt + (-1) < -2 ^ 31)
    ∧ (-2 ^ 31 ≤ (0x80000001#32).toInt + (-1) ∧ (0x7FFFFFFE#32).toInt + 1 ≤ 2 ^ 31 - 1)
    ∧ someAddition.owner = Line.zero.owner ∧ someAddition.check = false ∧ Line.zero.acc.length = 16 ∧ someAddition.terms.length = 16 := by
  decide +kernel

theorem test_pack5_premises : let ts : List Int := List.replicate 4096 1
    ts.length = 4096 ∧ ∀ t ∈ ts, t = -1 ∨ t = 0 ∨ t = 1 :=
  ⟨List.length_replicate, fun t h => .inr (.inr (List.eq_of_mem_replicate h))⟩

/-! ### The premises of the statements are met (chapters 11, 15, 17 to 20: repairs, faults, resets, power, trust, observation) -/

/-- Stack 0 is ACTIVE, with lane group 0 as given. -/
def stackState (g : LaneGroup) : State := { openState with
  mem := { DevMem.cold with stk := [(0, { Stack.cold with state := .active })], lgs := [(0, g)] } }

theorem test_lifetime_premises : State.reset.fuses.legal ∧ ({ Fuses.b1 with minSvn := 63, revoked := 7 }).legal
    ∧ isUnseal (.sbUnseal 0 { flags := 0, tag := 0, len := 0, payload := [] }) = true := by
  refine ⟨⟨by decide, by decide⟩, ⟨by decide, by decide⟩, rfl⟩

/-- THRESH corrections and one fewer; a first, a second and a third suspect pin; a steering that is asked for, and one by
AUTO_STEER. -/
theorem test_pin_premises :
    let g (n : Nat) : LaneGroup := { LaneGroup.clean with window := [(3, n)] }
    let s := stackState (g 8)
    (s.stackUp 0 = true ∧ s.regb 0x070084 31 = true ∧ s.thresh = 8 ∧ (s.lg 0 0).erased 3 = false ∧ s.thresh ≤ kget 0 (s.lg 0 0).window 3
      ∧ (s.lg 0 0).eraseA = none)
    ∧ kget 0 ((stackState (g 7)).lg 0 0).window 3 < (stackState (g 7)).thresh
    ∧ (({ g 8 with eraseA := some 1 }).eraseB = none ∧ ({ g 8 with eraseA := some 1, eraseB := some 2 }).erased 3 = false)
    ∧ ({ s with regs := [(0x070084, 0#32)] }).regb 0x070084 31 = false
    ∧ (s.lg 0 0).spareSpent = false ∧ (s.at 0).repairTime 0 = true
    ∧ ({ s.mem with repair := some { action := 2, stack := 0, lg := 0, pin := 3 } }).repair = some { action := 2, stack := 0, lg := 0, pin := 3 }
    ∧ (s.mem.repair = none ∧ s.regb 0x070084 30 = true ∧ ({ g 8 with eraseA := some 3 }).erased 3 = true)
    ∧ (({ tickState with tick := { tickState.tick with phase := 2 } }).at 0).repairTime 0 = false := by decide +kernel

/-- MEM_SPARE_CTRL's actions at lane group 0 and pin 3: places where each is refused and where it is asked for or done. -/
theorem test_spare_ctrl_premises :
    let v (a : Nat) : Nat := 3 * 2 ^ 8 + a * 2 ^ 5
    let c := LaneGroup.clean
    let e : LaneGroup := { c with eraseA := some 3, eraseB := some 2, steered := some 3, spareSpent := true }
    (stackState c).portOpen 0 = true ∧ (∀ a : Fin 8, bitsAt (v a.val) 5 3 = a.val ∧ bitsAt (v a.val) 18 5 = 0 ∧ bitsAt (v a.val) 13 5 = 0
      ∧ bitsAt (v a.val) 8 5 = 3)
    ∧ ((stackState c).mem.repair = none ∧ (stackState c).stackUp 0 = true ∧ (stackState c).stackUp 1 = false
      ∧ bitsAt (19 * 2 ^ 8) 8 5 = 19 ∧ bitsAt (18 * 2 ^ 8) 8 5 = 18)
    ∧ ({ e with eraseA := some 1 }).erased 3 = false ∧ (c.erased 3 = false ∧ c.eraseA = none ∧ c.spareSpent = false ∧ c.steered = none)
    ∧ (e.erased 3 = true ∧ e.steered = some 3 ∧ e.spareSpent = true) ∧ [({ stack := 0, bank := 0, row := 0, hard := false } : RowRepair)].any
      (fun r => decide (r.stack = 0) && !r.hard) = true := by decide +kernel

/-- Row repairs with 3 and with 4 rows used, and with 1,023 and with 1,024 granules in the poison list; hard repairs; scrubs. -/
theorem test_row_repair_premises :
    let s := stackState LaneGroup.clean
    let row : RowRepair := { stack := 0, bank := 0, row := 1, hard := false }
    let bad : State := { s with mem := { s.mem with wrong := [(1, [(0, 1), (1, 1), (2, 1)])] } }
    (s.mem.repair = none ∧ s.stackUp 0 = true ∧ (s.at 0).repairTime 0 = true ∧ [1].Nodup ∧ stackOf (32 * 1) = 0 ∧ 1 ∉ List.replicate 1024 0
      ∧ (bad.codeAt 1).isNone)
    ∧ ((List.replicate 4 row).countP (fun r => decide (r.stack = 0 ∧ r.bank = 0)) = 4
      ∧ (List.replicate 3 row).countP (fun r => decide (r.stack = 0 ∧ r.bank = 0)) = 3)
    ∧ ({ s with mem := { s.mem with poison := List.replicate 1023 0 } }).poisonOf 0 + [1].length = 1024
    ∧ ({ s with mem := { s.mem with poison := List.replicate 1024 0 } }).poisonOf 0 + [1].length = 1025
    ∧ (0 / 2048 = (0 : Fin 64).val ∧ 2047 / 2048 = (0 : Fin 64).val ∧ (s.mapEntry 0).logical = none) := by decide +kernel

/-- A FENCED span with and without a job that runs; a spare and a bound span; a fence list of 31 and of 32; a span in test. -/
theorem test_span_ctrl_premises :
    let m (e : MapEntry) : State := { openState with spanMap := [(5, e)] }
    let f := m { status := .fenced, logical := none }
    (f.portOpen 0 = true ∧ (f.mapEntry 5).status = .fenced ∧ f.flt.ctrlSpan = none ∧ 5 ∉ f.flt.testAsked ∧ f.flt.testing ≠ some 5
      ∧ f.running = none ∧ f.flt.testing = none ∧ f.flt.scrubbing = false ∧ f.flt.testAsked = [])
    ∧ ({ f with running := some 7 }).running ≠ none
    ∧ ((m { status := .active, logical := some 1 }).mapEntry 5 = { status := .active, logical := some 1 })
    ∧ (m { status := .spare, logical := none }).mapEntry 5 = { status := .spare, logical := none }
    ∧ ((List.range 31).length < 32 ∧ 32 ≤ (List.range 32).length ∧ 5 ∉ (List.replicate 31 6))
    ∧ ({ f.flt with testing := some 5, ctrlSpan := some 5 }).testing = some (5 : Fin 132).val := by decide +kernel

/-- A tile set of two granules of an entry whose host copy is tried, first and last of the sources, and none. -/
theorem test_refetch_premises :
    let r : Repair := { entry := 3, granules := [0, 1], source := 0, mirror := false, failed := false }
    let x : HotEntry := { readyEntry with copyA := 1 }
    let s : State := { openState with hot := [(3, x)], flt := { FaultMgr.clear with repairs := [r] } }
    let y : State := { s with hot := [(3, { x with mirrored := true })] }
    let hit (s : State) (g : Nat) (r : Repair) : Bool := !r.failed && r.granules.any (fun n => decide (r.place (s.entry r.entry) n / 32 = g))
    let at0 := r.place (s.entry 3) 0 / 32
    s.flt.repairs.find? (hit s (at0 + 1)) = some r ∧ s.flt.repairs.find? (hit s (at0 + 2)) = none
    ∧ (s.repairSources r)[0]? = some .host ∧ (s.repairSources r)[1]? = none ∧ 64 = 32 * r.granules.length
    ∧ (s.repairSources r).length ≤ r.source + 1
    ∧ ((y.repairSources r)[0]? = some .mirror ∧ (y.repairSources r)[1]? = some .host ∧ r.source + 1 < (y.repairSources r).length)
    ∧ s.via.refetch = [] := by decide +kernel

theorem test_refetch_good_premise : let r : Repair := { entry := 3, granules := [0, 1], source := 0, mirror := false, failed := false }
    ({ openState with hot := [(3, readyEntry)] } : State).extentGood r = true
    ∧ ({ openState with hot := [(3, { readyEntry with extents := [(0, 2)] })] } : State).extentGood r = false := by decide +kernel

/-- Resets: at once, deferred by a publish and by a fuse step, below READY and of a halted chip. -/
theorem test_reset_premises :
    let p : State := { openState with pub := some { endAt := 10, status := 0, items := [] } }
    let q : State := { tickState with tick := { tickState.tick with phase := 5 } }
    let b (x : BootState) : State := { openState with boot := { Boot.cold with state := x } }
    (openState.portOpen 0 = true ∧ openState.boot.state = .ready ∧ ((openState.at 0).portRx 0 4).resetWaits = false)
    ∧ (((p.at 9).portRx 0 4).resetWaits = true ∧ ((p.at 10).portRx 0 4).resetWaits = false ∧ ((q.at 0).portRx 0 4).resetWaits = true)
    ∧ ({ p.boot with deferred := some ResetKind.cold }).deferred = some .cold
    ∧ ((b .halted).sbFull = true ∧ (b .pierBoot).sbFull = true ∧ (b .hostEnable).boot.kind = .cold) := by decide +kernel

/-- Two chip faults within the last hour, the older 1 ns inside it, and one of them exactly an hour ago. -/
theorem test_chip_fault_premises :
    let s : State := { openState with flt := { FaultMgr.clear with chipFaults := [5, 1] } }
    s.powered = true ∧ s.boot.state ≠ .halted ∧ s.landings = [] ∧ s.regb 0x0B000C 31 = true
    ∧ 2 ≤ (s.flt.chipFaults.filter (fun x => decide (max s.time 3600000000000 < x + 3600000000000))).length
    ∧ (s.flt.chipFaults.filter (fun x => decide (max s.time 3600000000001 < x + 3600000000000))).length < 2
    ∧ ({ s with regs := [(0x0B000C, 0#32)] }).regb 0x0B000C 31 = false
    ∧ ({ s.boot with mainGood := false }).mainGood = false := by decide +kernel

theorem test_power_premises :
    let off : State := { openState with boot := { Boot.cold with mainGood := false, standby := false } }
    (openState.boot.mainGood = true ∧ openState.boot.standby = true ∧ openState.boot.pwrEn = true ∧ openState.pwr.barred = false
      ∧ openState.sb.firmware = none)
    ∧ (off.boot.mainGood = false ∧ off.boot.standby = false)
    ∧ (({ Power.cold with enLowAt := some 7, barred := true }).enLowAt = some 7 ∧ 7 + 1000000000 ≤ max off.time 1000000007
      ∧ max off.time 1000000006 < 7 + 1000000000) := by decide +kernel

/-- A port that is reset while ticks run and the running job ingests nothing; a VF that serves a partition and one that does not. -/
theorem test_port_reset_premises :
    let s := tickState
    (s.portPresent 0 = true ∧ (s.port 0).inReset = false ∧ s.boot.state = .ready ∧ s.landings = [] ∧ s.ticking = true
      ∧ s.job? = some { someJob with state := .running } ∧ ({ someJob with state := .running }).type ≠ .ingest)
    ∧ (s.portPresent 2 = false ∧ (s.port 1).inReset = true ∧ s.portOpen 0 = true ∧ s.vfPart? 0 (3#8).toNat = some 0 ∧ s.vfPart? 0 (4#8).toNat = none)
    ∧ (s.powered = true ∧ s.portPresent 1 = true ∧ 1 ∉ s.perstLow ∧ (s.port 1).linkUp = false) := by decide +kernel

theorem test_start_premises :
    let b (x : BootState) : State := { State.reset with boot := { Boot.cold with state := x } }
    (State.reset.boot.state = .powerOn ∧ State.reset.boot.mainGood = true ∧ State.reset.firmwareOk = true)
    ∧ ({ State.reset with fuses := { Fuses.b1 with revoked := 1 } }).firmwareOk = false
    ∧ ((b .pierBoot).boot.state = .pierBoot ∧ (∀ i : Fin 32, (b .pierBoot).stackLost i.val = false) ∧ (b .pierBoot).boot.kind = .cold)
    ∧ ((b .selftest).boot.state = .selftest ∧ (b .selftest).trs.state ≠ .fenced ∧ (b .selftest).trs.suspects < 2)
    ∧ (let s := { b .ready with jobs := [(1, { someJob with state := .running, type := .selftest })], running := some 1 }
       s.boot.state ≠ .selftest ∧ s.running = some 1 ∧ s.job? = some { someJob with state := .running, type := .selftest })
    ∧ ((b .ready).boot.state ≠ .selftest ∧ (b .ready).job? = none)
    ∧ ((b .hostEnable).boot.state = .hostEnable ∧ (b .hostEnable).boot.kind = .cold ∧ (b .hostEnable).flash.pins = []
      ∧ (b .hostEnable).flash.viaProfile = none ∧ (b .hostEnable).boot.newLost = [] ∧ (b .hostEnable).pwr.hard = false
      ∧ (b .hostEnable).mem.stk = [] ∧ (b .hostEnable).pwr.dieMax < 105) := by decide +kernel

/-- Samples at the thresholds of the stacks, the die and the input; a forced step 10 ms after the last one; the averages at the cap,
at 0.95 of it and below it for 10 ms. -/
theorem test_thermal_and_power_premises :
    let s : State := { stackState LaneGroup.clean with
      pwr := { Power.cold with hard := true, lastForced := some 0, capW := 800, lowSince := some 0 } }
    ((s.stk 0).state ≠ .untrained ∧ (s.stk 1).state = .untrained ∧ (s.stk 0).level = 0)
    ∧ (s.boot.mainGood = true ∧ s.boot.standby = true ∧ hottestSensor [114#8, 115#8] = (1, 115) ∧ hottestSensor [104#8] = (0, 104)
      ∧ (hottestSensor [95#8]).2 = 95)
    ∧ (s.pwr.hard = true ∧ 0 + 10000000 ≤ max s.time 10000000 ∧ s.pwr.forcedN = none ∧ 20 < s.pwr.n ∧ (s.at 0).publishes = false
      ∧ ({ s with pub := some { endAt := 10, status := 0, items := [] } }.at 9).publishes = true
      ∧ ({ Power.cold with forcedN := some 38 }).hard = false)
    ∧ (s.boot.state = .ready ∧ s.pwr.brake = false ∧ s.pwr.capW < (801#16).toNat ∧ (800#16).toNat ≤ s.pwr.capW
      ∧ 95 * s.pwr.capW ≤ 100 * (760#16).toNat ∧ 100 * (759#16).toNat < 95 * s.pwr.capW ∧ s.pwr.lowSince = some 0
      ∧ max s.time 9999999 < 0 + 10000000) := by decide +kernel

/-- Quotes of a fresh start, of a block with one index left and of the last block; fuse and key actions that take effect or are
refused; debug reads at the end of a unit. -/
theorem test_root_of_trust_premises :
    let k (c : Nat) : KeyPair := { id := BitVec.ofNat 32 (c * 2 ^ 24 + 1), ecdsa := [], hss := [] }
    let s : State := { openState with sec := { openState.sec with isOpen := true, lmsNext := 5, lmsTop := some 6, busyUntil := some 10 } }
    let rec1 : List Byte := [1#8, 0#8, 0#8, 0x10#8] ++ List.replicate 2044 0#8
    (openState.sec.lmsTop = none ∧ (openState.at 0).secBusy = false ∧ max openState.flash.reservedTopA openState.flash.reservedTopB + 1024 ≤ 2 ^ 40)
    ∧ ((s.at 9).secBusy = true ∧ (s.at 10).secBusy = false ∧ s.sec.lmsTop = some 6 ∧ s.sec.lmsNext < 6)
    ∧ (2 ^ 40 < max (2 ^ 40 - 1023) 0 + 1024 ∧ ¬(2 ^ 40 < max (2 ^ 40 - 1024) 0 + 1024))
    ∧ (s.fuses.minSvn = 0 ∧ min 63 s.flash.firmware.svn ≤ s.fuses.minSvn
      ∧ 0 < min 63 ({ s.flash.firmware with svn := 1 } : Firmware).svn)
    ∧ (s.fuses.revoked ||| BitVec.ofNat 4 (2 ^ 1) ≠ 0xF#4 ∧ s.flash.firmware.rootPair = 0 ∧ 7#4 ||| BitVec.ofNat 4 (2 ^ 3) = 0xF#4)
    ∧ (rec1.length = 2048 ∧ s.sec.isOpen = true ∧ openState.sec.isOpen = false ∧ keyClass (pairOfRecord rec1).id = 0x10
      ∧ keyClass (pairOfRecord (List.replicate 2048 0#8)).id ≠ 0x10 ∧ s.flash.operators = [] ∧ (pairOfRecord rec1).id = (k 0x10).id)
    ∧ (131071 < dbgRange 0 ∧ dbgRange 0 ≤ 131072 ∧ dbgRange 5 = 0 ∧ (s.mapEntry 1).status = .active) := by decide +kernel

/-- Closes of the HOST scope, of span 0 and of nothing; samples of a counter and of no counter; a VF's window with and without
ticks. -/
theorem test_counter_premises :
    let y : State := tickState
    (y.portOpen 0 = true ∧ bitsAt (0#32).toNat 30 2 = 0 ∧ bitsAt (0x80000000#32).toNat 30 2 = 2 ∧ bitsAt (0xC0000000#32).toNat 30 2 = 3 ∧ (0x80000000#32).getLsbD 29 = false
      ∧ ((y.at 0).portRx 0 4).countPower.upToNow.phys? (bitsAt (0xC0000000#32).toNat 0 8) = some 0)
    ∧ (isDeviceCtr 0x010100 = true ∧ 0x010100 / 0x10000 = 1 ∧ isDeviceCtr 0x010104 = true ∧ isDeviceCtr 0 = false ∧ isSpanCtr 0x210 = true
      ∧ isSpanCtr 0 = false)
    ∧ ((y.countPower.counterAt 0x010100).isSome = true ∧ y.countPower.counterAt 0 = none)
    ∧ (y.vfPart? 0 (3#8).toNat = some 0 ∧ y.ticking = true ∧ openState.ticking = false) := by decide +kernel

/-- A bound and an unbound span, the trigger fired and not, snapshots taken and dropped, the drain off, full and with a record. -/
theorem test_trace_premises :
    let r : TraceRec := { bits := 0, time := 0, win := false }
    let regs := [(0x010004, 0x10#32), (0x0A0020, 0x80000000#32), (0x0A0034, 0x40000000#32), (0x0A0044, 0x1000#32)]
    let x : Span := { Span.idle with trace := { Trace.idle with records := [r] } }
    let s : State := { tickState with regs := regs, spans := [(0, x)] }
    (s.phys? 0 = some 0 ∧ s.phys? 1 = none ∧ s.regb 0x0A0034 30 = true ∧ tickState.regb 0x0A0034 30 = false ∧ s.binding = [(0, 0)])
    ∧ (s.obs.snapBusy = false ∧ s.snapAddr ≠ 0 ∧ tickState.snapAddr = 0 ∧ tickState.regb 0x0A0020 31 = false)
    ∧ (s.regb 0x0A0020 31 = true ∧ s.ringFull = false ∧ s.portOpen (s.regf 0x0A0020 29 2) = true ∧ s.nextRecord = some (0, 0, 0, false)
      ∧ (s.span 0).trace.records[0]? = some r)
    ∧ ({ s with obs := { s.obs with tail := BitVec.ofNat 32 s.ringSize? } }).ringFull = true
    ∧ (s.armed 0 = false ∧ ({ s with spans := [(0, { x with trace := { x.trace with ctrl := 0xC0000000 } })] } : State).armed 0 = true
      ∧ x.trace.triggered = false) := by decide +kernel

/-! ### The premises of the statements are met (chapters 5, 14, 16: the viaduct) -/

/-- The digest of FIPS 180-4's first example, "abc", its 48 bytes read as a little-endian number. -/
theorem test_sha384 : sha384 [0x61#8, 0x62#8, 0x63#8]
    = 0xa725c834a1ecba5823cce7a12b078680ed5bff435a608b1a63d1de0eab322c270750c69a693da0b58b5ea3453f7500cb#384 := by decide +kernel

/-- A port that is up at 4 lanes. -/
def upPort : CefinPort := { CefinPort.down with state := .upX4 }

/-- The serving module as chip 0 of a ring of 2, checked, with ring port 0 up. -/
def ringState : State := { servingState with
  regs := servingState.regs ++ [(0x090000, 0x80010000#32)], via := { Viaduct.cold with ports := [(0, upPort)], checked := true } }

/-- A packet from chip 1 for chip 0, first on its port. -/
def somePkt (arg : BitVec 64) (payload : List (BitVec 256)) : Pkt :=
  { port := 0, vc := 0, lseq := 0, dst := 0, src := 1, ttl := 63, arg := arg, payload := payload }

/-- Whether the packets above are processed. -/
def takes (s : State) : Bool :=
  (s.cefin 0).up && decide ((s.cefin 0).rxSeq = 0) && !s.lockPort 0 && s.assigned && !s.via.duplicate && s.via.checked && s.ownNumber 0

/-- What it says. -/
theorem takes_ok {s : State} {arg : BitVec 64} {payload : List (BitVec 256)} (h : takes s = true) : Arrives (somePkt arg payload) s := by
  simp only [takes, Bool.and_eq_true, Bool.not_eq_true', decide_eq_true_eq] at h
  obtain ⟨⟨⟨⟨⟨⟨a, b⟩, c⟩, d⟩, e⟩, f⟩, g⟩ := h
  exact ⟨a, b.symm, c, d, e, f, g⟩

/-- A port in training with 4, 2 and no lanes trained; a failed one that may train again; one that falls; a frame whose CHECK is
right, and one whose CHECK is wrong. -/
theorem test_link_premises :
    let t : CefinPort := { CefinPort.down with state := .training, lanes := [(0, { LaneTrain.start with ready := 8 })] }
    let s : State := { ringState with via := { ringState.via with closed := false, ports := [(0, t), (2, { t with state := .trainFail })] },
                                      regs := ringState.regs ++ [(0x090018, 0x80000000#32)] }
    let f : TrainFrame := { lane := 0, count := 0, control := 0, status := 0, check := 0 }
    ((s.cefin 0).state = .training ∧ (15#4).getLsbD 3 = true ∧ kfind? t.lanes 0 = some { LaneTrain.start with ready := 8 } ∧ kfind? t.lanes 1 = none
      ∧ (3#4).getLsbD 1 = true ∧ (3#4).getLsbD 2 = false ∧ s.lockPort 0 = false ∧ ringState.via.closed = true)
    ∧ ((s.cefin 2).state = .trainFail ∧ s.regb (0x090010 + 4 * 2) 31 = true ∧ s.boot.mainGood = true ∧ s.requests = [] ∧ (s.cefin 1).state = .down)
    ∧ (({ f with check := BitVec.ofNat 16 (frameSum f) }).check.toNat = frameSum f
      ∧ ({ f with check := BitVec.ofNat 16 (frameSum f + 1) }).check.toNat ≠ frameSum f) := by decide +kernel

/-- A route and none; a packet for this chip, one for another, at TTL 0 and above; a packet that fails its check. -/
theorem test_packet_premises :
    let p := somePkt 0 []
    let q : Pkt := { p with dst := 1 }
    let y := ringState.arrived 0 q
    (ringState.outPort 1 = some 0 ∧ openState.outPort 1 = none ∧ (ringState.cefin 0).waiting = []
      ∧ (ringState.cefin 0).canSend { type := 0x10, half := ringState.halfOn 0 0, pkt := { p with payload := List.replicate 128 0 } } = true)
    ∧ ((ringState.cefin 0).up = true ∧ p.lseq.toNat = (ringState.cefin 0).rxSeq ∧ knownType 0x02 = false ∧ knownType 0x10 = true
      ∧ ringState.ownNumber q.dst.toNat = false ∧ ringState.ownNumber p.dst.toNat = true ∧ q.ttl ≠ 0 ∧ y.outPort 1 = some 0
      ∧ (y.cefin 0).waiting = [] ∧ (y.cefin 0).canSend { type := 0x10, half := y.halfOn 0 1, pkt := { q with ttl := 62, lseq := BitVec.ofNat 12 (y.cefin 0).txSeq } } = true
      ∧ ringState.assigned = true ∧ ringState.lockPort 0 = false)
    ∧ ((2047 + 4096 - (ringState.cefin 0).rxSeq) % 4096 < 2048 ∧ 2048 ≤ (2048 + 4096 - (ringState.cefin 0).rxSeq) % 4096
      ∧ (ringState.cefin 0).asked = false)
    ∧ ((somePkt 0x2000000 []).arg.getLsbD 25 = true ∧ (somePkt 0x2000000 []).arg.getLsbD 12 = false ∧ (somePkt 0x1000 []).arg.getLsbD 25 = false
      ∧ (somePkt 0x1000 []).arg.getLsbD 12 = true ∧ ringState.requests = [])
    ∧ ((List.replicate 14 0).filter (fun r => decide (max ringState.time 0 < r + 1000000))).length < 15
    ∧ 15 ≤ ((List.replicate 15 0).filter (fun r => decide (max ringState.time 0 < r + 1000000))).length := by decide +kernel

/-- A granule of a WRITE that has landed, with and without another that still waits. -/
theorem test_ack_premises :
    let w : DeckPut := { DeckPut.clean 0 .stream 128 1 7 .nothing with ack := some (9, 2) }
    let s (ws : List DeckPut) : State := { tickState with spans := [(0, { Span.idle with puts := ws })] }
    w.ack = some (9, 2) ∧ (∃ v ∈ ((s [w]).span 0).puts, v.ack = some (9, 2)) ∧ ((s []).span 0).puts = [] :=
  ⟨rfl, ⟨_, List.mem_singleton.2 rfl, rfl⟩, rfl⟩

/-- A landing of each kind that takes the last granule, and none for the next one. -/
theorem test_write_and_read_premises :
    let g (k : LandKind) : Landing := { hostLanding with kind := k, len := 64 }
    let w (n : Nat) : Pkt := somePkt (BitVec.ofNat 64 (2 + 32 * n * 2 ^ 13)) [7]
    let s (k : LandKind) : State := { ringState with landings := [(2, g k)], tick := tickState.tick, spans := [(0, { Span.idle with
      seq := { Sequencer.idle with windows := [(0, { base := 0, len := 2, remote := true })] } })] }
    (takes (s .memory) = true ∧ takes (s .deck) = true ∧ argSeg (w 1) = false ∧ argLid (w 1) = 2 ∧ argOff (w 1) = 32 ∧ landed (w 1) = [7])
    ∧ (kfind? (s .memory).landings 2 = some (g .memory) ∧ (g .memory).write = true ∧ (s .memory).withinLanding (g .memory) 32 32 = true
      ∧ (s .memory).withinLanding (g .memory) 64 32 = false ∧ kfind? ringState.landings 2 = none ∧ (s .memory).poisoned 32 = false)
    ∧ (let r := somePkt (BitVec.ofNat 64 (2 + 2 * 2 ^ 56)) []
       argGranules r = 2 ∧ 0 + 32 * argGranules r ≤ (g .memory).len ∧ (g .memory).read = true ∧ ¬(32 + 32 * argGranules r ≤ (g .memory).len))
    ∧ ((s .deck).tick.active = true ∧ (s .deck).phys? (g .deck).base = some 0 ∧ (s .deck).phys? 128 = none ∧ ((s .deck).span 0).inWindow ((g .deck).first + 32 / 32 + 0) = true
      ∧ ((s .deck).span 0).preloaded 1 = false ∧ (s .deck).withinLanding (g .deck) 32 32 = true
      ∧ ((s .deck).span 0).seq.ctr (argCtr (w 1)) + 1 ≤ 0xFFFFF) := by decide +kernel

/-- The remote-target entry 0 of a plan: 2 granules pulled from LID 2 of chip 1 in phase 1 into span 0 from granule 0; and 128
granules, the most of one READ. -/
def pullState (n : BitVec 8) (pulls : List Nat) : State := { tickState with
  regs := ringState.regs, via := { ringState.via with pulls := pulls }
  mem := { DevMem.cold with bytes := [(planAddr 0x1000, 0x01), (planAddr 0x1001, 0x80), (planAddr 0x1002, 0x02), (planAddr 0x1009, 0x01),
                                      (planAddr 0x100C, 0x01), (planAddr 0x1014, n)] }
  spans := [(0, { Span.idle with seq := { Sequencer.idle with windows := [(0, { base := 0, len := 2, remote := true })] } })] }

/-- The entry at its start cycle, and pulled before; its RDATA inside the window and outside the entry. -/
theorem test_pull_premises :
    let s := pullState 2 []
    let r := pullState 2 [0]
    (s.tick.active = true ∧ (s.remoteTarget 0).valid = true ∧ (s.remoteTarget 0).pull = true ∧ s.tick.phase = (s.remoteTarget 0).phase
      ∧ 0 ∉ s.via.pulls ∧ 0 ∈ r.via.pulls ∧ s.cycTime (((s.plan?.map (fun x => x.head.phaseS.getD ((s.remoteTarget 0).phase - 1) 0)).getD 0)
        + (s.remoteTarget 0).start) ≤ max s.time 0)
    ∧ (s.remoteTarget 0).granules = 2 ∧ ((pullState 128 []).remoteTarget 0).granules = 128
    ∧ (let p := somePkt 2 [7, 7]
       takes r = true ∧ ((r.arrived 0 p).pullOf p).isSome = true ∧ ((r.arrived 0 (somePkt 2 [7, 7, 7])).pullOf (somePkt 2 [7, 7, 7])) = none
       ∧ r.inRemoteWindow 0 (0 + (argOff p - 0) / 32) p.payload.length = true ∧ r.phys? 0 = some 0 ∧ r.phys? 128 = none
       ∧ (r.span 0).preloaded 0 = false ∧ (r.span 0).preloaded 1 = false ∧ (r.span 0).seq.ctr (r.remoteTarget 0).ctr + 2 ≤ 0xFFFFF) := by
  decide +kernel

/-- The same with a key-value class of 64 layers. -/
def kvState : State := { ringState with bits := [(7, { someBits with
  kvClasses := [{ cls := 0, nKv := 1, dH := 128, poolUnits := 1, first := 0, layers := 64 }] })] }

/-- WACKs: for nothing, for a remote store, for a hand-over before and at its last page, for an extent. -/
theorem test_wack_premises :
    let p := somePkt 2 []
    let v : Stream := { Stream.new .mstore [0] [0] 0 with needAck := true, remote := [(2, 0, 1)] }
    let h (n : Nat) : HoInfo := { handle := 9, dest := 1, ticket := 0, step := .sending, landing := 2, pages := 1, acked := n, hoId := 0, expiry := 8, since := 0 }
    let f (n : Nat) : ExtFlow := { chip := 1, reqId := 0, lid := 2, entry := 3, first := 0, granulesLeft := n }
    let s : State := { ringState with hot := [(3, { readyEntry with extents := [(0, 200)] })], via := { ringState.via with ext := some (f 200) } }
    (takes ringState = true ∧ takes s = true ∧ ({ ringState with binding := [] }).binding = [] ∧ ringState.via.ext = none)
    ∧ (ringState.binding = [(0, 0)] ∧ argLid p = 2 ∧ argOff p = 0 ∧ v.remote = [(argLid p, argOff p, 1)])
    ∧ ((h 0).dest = p.src.toNat ∧ (h 0).landing = argLid p ∧ (h 0).step = .sending
      ∧ cdiv (pagesFor 4 16 * ringState.pageSetBytes 4) 4096 ≤ (h 0).acked + 1
      ∧ (h 0).acked + 1 < cdiv (pagesFor 4 16 * (kvState.pageSetBytes 4)) 4096)
    ∧ ((f 200).chip = p.src.toNat ∧ (f 200).lid = argLid p
      ∧ ((s.entry 3).extents.drop 0).find? (fun x => decide (x.1 ≤ argOff p ∧ argOff p < x.1 + 32 * x.2)) = some (0, 200)
      ∧ min 128 ((0 + 32 * 200 - argOff p) / 32) < 200 ∧ 128 ≤ min 128 ((0 + 32 * 200 - argOff p) / 32)) := by decide +kernel

/-- The KV digest of a bitstream without classes: SHA-384 of two bytes of zero, computed by another implementation. -/
def noClasses : Nat := 0x7c0aae60eb15f324f8136122b124c6a3ceec0fe981656845ea5993b5e4948e68ab3b2861c9410d840d88ad57b4f7d61d

/-- An OFFER of the model whose digest is 0, of a sequence of `n` tokens with 8 left to decode and pages of 2^`p` tokens. -/
def offerPkt (n p : Nat) : Pkt := somePkt 0x11 ((List.range 16).map (fun i =>
  BitVec.ofNat 256 ((noClasses * 2 ^ (8 * 48) + n * 2 ^ (8 * 152) + 8 * 2 ^ (8 * 168) + p * 2 ^ (8 * 180)) / 2 ^ (256 * i))))

/-- A HANDIN for ticket 0 whose stream buffer takes `n` records. -/
def waitsHandin (n : Nat) : Request := { someRequest with state := .waitHandin, handin := true, streamLen := n }

/-- The module with that HANDIN. -/
def offeredState (n : Nat) : State := { ringState with requests := [(4, waitsHandin n)] }

/-- An OFFER that is taken; one without a HANDIN for its ticket, of no model, of too many tokens, of another page size, and one for
whose pages there is no room. -/
theorem test_offer_premises :
    let s := offeredState 8
    let y (n : Nat) := s.arrived 0 (offerPkt n 4)
    let o := payloadBytes (offerPkt 0 4).payload
    let q' (n p : Nat) := (waitsHandin 8).ofOffer (payloadBytes (offerPkt n p).payload) 1 (y n).timebase
    (takes s = true ∧ (y 0).handinFor? (leAt o 144 8) = some (4, waitsHandin 8) ∧ (ringState.arrived 0 (offerPkt 0 4)).handinFor? (leAt o 144 8) = none)
    ∧ ((y 0).readyEntry? (bytesDigest (byteSlice o 0 48)) = some 3 ∧ (y 0).serveJob? (bytesDigest (byteSlice o 0 48)) = some 7
      ∧ ({ y 0 with hot := [] }).readyEntry? (bytesDigest (byteSlice o 0 48)) = none)
    ∧ (digestBytes (((kfind? s.bits 7).map (·.kvDigest)).getD 0) = byteSlice o 48 48 ∧ (q' 0 4).variant = none
      ∧ digestBytes ((y 0).variantDigest (s.entry 3) (q' 0 4).variant) = byteSlice o 96 48)
    ∧ ((q' 0 4).maxTokens - (q' 0 4).generated = 8 ∧ (waitsHandin 8).streamLen = 8 ∧ (waitsHandin 7).streamLen < 8 ∧ s.running = some 7
      ∧ s.freeLid = some 0 ∧ (q' 0 4).pageLog2 = 4 ∧ (q' 0 3).pageLog2 = 3)
    ∧ kfind? s.requests 4 = some (waitsHandin 8) := by decide +kernel

theorem test_offer_room_premises :
    let y (s : State) (n : Nat) := s.arrived 0 (offerPkt n 4)
    let q' (n : Nat) := (waitsHandin 8).ofOffer (payloadBytes (offerPkt n 4).payload) 1 0
    (((y (offeredState 8) 0).allocTable (q' 0) 0).1 = true ∧ kfind? ((y (offeredState 8) 0).allocTable (q' 0) 0).2.2.2.requests 4 = some (waitsHandin 8))
    ∧ ((y kvState 16).allocTable (q' 16) 16).1 = false := by decide +kernel

/-- The steps of a hand-over at its source and at its destination, with and without ticks, before and after the landing expires. -/
theorem test_hand_over_premises :
    let h (k : HoStep) : HoInfo := { handle := 9, dest := 1, ticket := 0, step := k, landing := 2, pages := 1, acked := 0, hoId := 0x11, expiry := 2, since := 0 }
    let q (k : HoStep) : Request := { someRequest with state := .handingOver, ho := some (h k) }
    let s (k : HoStep) : State := { ringState with requests := [(4, q k)] }
    let p (st : Nat) : Pkt := somePkt (BitVec.ofNat 64 (0x11 + st * 2 ^ 16)) []
    let i : HoIn := { src := 1, hoId := 0x11, handle := 4, lid := 2, pages := 1, bytes := 0, committed := false }
    let d : State := { offeredState 8 with via := { ringState.via with hoIn := [i] } }
    let c (n : Nat) : Pkt := somePkt (BitVec.ofNat 64 (0x11 + n * 2 ^ 16)) []
    (takes (s .offered) = true ∧ ((s .offered).arrived 0 (p 0)).hoOf? 0x11 = some (4, h .offered) ∧ (ringState.arrived 0 (p 0)).hoOf? 0x11 = none
      ∧ kfind? (s .offered).requests 4 = some (q .offered) ∧ (q .offered).ho = some (h .offered) ∧ (h .offered).dest = (p 0).src.toNat)
    ∧ (bitsAt (p 0).arg.toNat 16 8 = 0 ∧ bitsAt (p 1).arg.toNat 16 8 ≠ 0 ∧ ((s .offered).arrived 0 (p 0)).hoPlaces (q .offered) = []
      ∧ ((s .committed).arrived 0 (p 0)).hoOf? 0x11 = some (4, h .committed))
    ∧ (takes d = true ∧ d.via.hoIn.find? (fun x => decide (x.src = 1 ∧ x.hoId = 0x11) && !x.committed) = some i
      ∧ kfind? d.requests i.handle = some (waitsHandin 8) ∧ bitsAt (c 1).arg.toNat 16 32 = i.pages ∧ bitsAt (c 2).arg.toNat 16 32 ≠ i.pages
      ∧ i.pages * d.pageSetBytes 4 ≤ i.bytes ∧ d.ticking = false ∧ ({ d with gov := { Governor.idle with nextCut := some 9 } }).ticking = true)
    ∧ ((max 0 19999999 - (h .offered).since) / 10000000 < (h .offered).expiry ∧ (h .offered).expiry ≤ (max 0 20000000 - (h .offered).since) / 10000000)
    ∧ kfind? [(4, someRequest)] (4#32).toNat = some someRequest ∧ someRequest.ho = none := by decide +kernel

theorem test_hand_over_stream_premise :
    ({ kvState with requests := [(4, someRequest)] }.arrived 0 (somePkt 0x11 [])).hoPlaces { someRequest with committed := 1 } ≠ [] := by
  decide +kernel

/-- A DIGEST on a port that is no lock-step link, and on the link: of READY, of the tick, of another tick, of a walk. -/
theorem test_digest_premises :
    let p (scope : Nat) : Pkt := somePkt 0 [0, BitVec.ofNat 256 (scope * 2 ^ (8 * 20))]
    let s : State := { ringState with regs := ringState.regs ++ [(0x090050, 0x80000000#32)] }
    let scope (x : Pkt) := leAt (payloadBytes x.payload) 52 4
    let z : State := { s with tick := { tickState.tick with phase := 5 } }
    ((s.cefin 0).up = true ∧ (p 0).lseq.toNat = (s.cefin 0).rxSeq ∧ ringState.lockPort 0 = false ∧ s.lockPort 0 = true)
    ∧ ((scope (p 1)).testBit 0 = true ∧ (scope (p 0)).testBit 0 = false ∧ bitsAt (scope (p 0)) 30 2 = 0 ∧ bitsAt (scope (p (2 ^ 30))) 30 2 = 1
      ∧ (scope (p (2 ^ 30))).testBit 0 = false)
    ∧ (s.via.lock.frozen = false ∧ s.bitstream? ≠ none ∧ s.digestStands = false ∧ z.digestStands = true ∧ bitsAt (p 0).arg.toNat 0 32 = z.tickNumber
      ∧ z.tick.active = true ∧ z.tick.sealed = false) := by decide +kernel

/-- A freeze of a chip on which nothing is due; a walk at each level, whose item is the partner's and is not, up to the last. -/
theorem test_walk_premises :
    let s (n k : Nat) : State := { ringState with via := { ringState.via with lock := { LockState.off with frozen := true, level := n, phase := k, desc := k, span := k } } }
    (ringState.dueCycle ringState.cycNow = none ∧ tickState.dueCycle tickState.cycNow = none ∧ tickState.tick.active = true)
    ∧ (∀ n : Fin 3, ∀ k : Fin 2, let z := s (n.val + 1) k.val
        z.via.lock.level = n.val + 1 ∧ z.via.lock.phase < 4 ∧ z.via.lock.desc < 4096 ∧ z.via.lock.span < 129
        ∧ z.walkItem.1 ≠ z.walkItem.1 + 1) := by decide +kernel

/-- An EXT_REQ of a READY entry and of none, of another layout, while another is served, of no extents and of one. -/
theorem test_extent_premises :
    let p : Pkt := somePkt 0 [0, 0, 0, 1]
    let bs := payloadBytes p.payload
    let f : ExtFlow := { chip := 1, reqId := 0, lid := 2, entry := 3, first := 0, granulesLeft := 4 }
    let s : State := { ringState with hot := [(3, { readyEntry with extents := [(0, 4)] })],
                                      via := { ringState.via with install := some f } }
    (takes s = true ∧ s.readyEntry? (bytesDigest (byteSlice bs 0 48)) = some 3 ∧ (s.entry 3).layoutDigest = bytesDigest (byteSlice bs 48 48)
      ∧ ({ s.entry 3 with layoutDigest := 1 }).layoutDigest ≠ bytesDigest (byteSlice bs 48 48)
      ∧ ({ s with hot := [] }).readyEntry? (bytesDigest (byteSlice bs 0 48)) = none)
    ∧ ((s.arrived 0 p).extBusy = false ∧ ({ s with via := { s.via with ext := some f } }.arrived 0 p).extBusy = true)
    ∧ (leAt bs 96 4 = 1 ∧ (((s.entry 3).extents.drop 0).take 1) = [(0, 4)] ∧ (((s.entry 3).extents.drop 1).take 1) = [])
    ∧ (s.via.install = some f ∧ s.running = some 7 ∧ f.chip = p.src.toNat ∧ f.reqId = bitsAt p.arg.toNat 0 16 ∧ ringState.via.install = none) := by
  decide +kernel

/-- VIA_CHIP before and after ASSIGNED; a HELLO on a ring port after an opening; PROBEs of this module and of another; the check with
a number that is relocated and one that is not. -/
theorem test_chip_number_premises :
    let s : State := { ringState with via := { ringState.via with checked := false } }
    let r : State := { s with via := { s.via with relocs := [{ claimed := 0, holder := 1, epoch := 0 }] } }
    let p := somePkt 0x11 []
    (openState.portOpen 0 = true ∧ openState.assigned = false ∧ ringState.assigned = true ∧ ringState.portOpen 0 = true)
    ∧ (s.relocated s.chip = false ∧ r.relocated r.chip = true ∧ ({ openState with via := { Viaduct.cold with duplicate := false } } : State).outPort openState.chip = none
      ∧ openState.relocated openState.chip = false)
    ∧ ((s.cefin 0).up = true ∧ p.lseq.toNat = (s.cefin 0).rxSeq ∧ p.port.val < 2 ∧ s.via.duplicate = false ∧ s.via.probes = []
      ∧ s.ownNumber p.dst.toNat = true)
    ∧ (takes ringState = true ∧ ({ p with src := 0 }).src.toNat = ringState.chip ∧ bitsAt p.arg.toNat 0 16 = 0x11
      ∧ 0x11 ∈ ({ ringState.via with probes := [0x11] }).probes ∧ ringState.via.take ≠ .inProgress) := by decide +kernel

/-- A takeover that is free to start, one that a lower holder forbids, a full table, and the steps 30 ms and 80 ms after its start. -/
theorem test_takeover_premises :
    let s := ringState
    let l : State := { s with regs := [(0x090000, 0x80010001#32)], via := { s.via with relocs := [{ claimed := 5, holder := 0, epoch := 0 }] } }
    let t : Viaduct := { s.via with take := .inProgress, takeTarget := 5, takeAt := 0 }
    let x := { s with via := t }
    (s.forwards = true ∧ openState.forwards = false ∧ s.via.take ≠ .inProgress ∧ s.ownNumber 5 = false ∧ s.via.held = none ∧ s.relocated 5 = false
      ∧ l.relocated 5 = true ∧ l.forwards = true ∧ 0 < l.chip ∧ s.linkUp 0 = true ∧ s.linkUp 1 = false)
    ∧ (64 ≤ (List.replicate 64 ({ claimed := 9, holder := 1, epoch := 0 } : Reloc)).length ∧ s.via.relocs.length < 64)
    ∧ (x.via.take = .inProgress ∧ x.via.takeAt + 30000000 ≤ max x.time 30000000 ∧ max x.time 29999999 < x.via.takeAt + 30000000
      ∧ x.via.takeAt + 80000000 ≤ max x.time 80000000 ∧ max x.time 79999999 < x.via.takeAt + 80000000 ∧ x.via.takeClaimed = false
      ∧ x.relocated x.via.takeTarget = false)
    ∧ (({ s with regs := s.regs ++ [(0x090054, 0x20000005#32)] }).regb 0x090054 29 = true ∧ s.regb 0x090054 29 = false ∧ s.via.takeTarget ≠ 5)
    ∧ (let p := somePkt (BitVec.ofNat 64 (5 + 0 * 2 ^ 14)) []
       (s.cefin 0).up = true ∧ p.lseq.toNat = (s.cefin 0).rxSeq ∧ s.lockPort 0 = false ∧ s.via.claimsSeen = [] ∧ p.arg.getLsbD 28 = false
       ∧ (BitVec.ofNat 64 (5 + 2 ^ 28)).getLsbD 28 = true ∧ l.via.relocs.all (fun r => decide (r.claimed = 5 ∧ r.holder < 1)) = true
       ∧ (5, 0, 0, false) ∉ s.via.claimsSeen) := by decide +kernel

/-- The switches' conditions; pulses at the edges of their window; VIA_LOCK with and without a job. -/
theorem test_swing_clock_and_lock_premises :
    let s : State := { ringState with regs := ringState.regs ++ [(0x090010, 0x80000000#32), (0x090014, 0x80000000#32), (0x090040, 0x40000000#32)] }
    let f : State := { s with regs := ringState.regs ++ [(0x090040, 0x20000000#32)], via := { s.via with closed := false } }
    (s.boot.mainGood = true ∧ s.boot.state = .ready ∧ s.regb 0x090010 31 = true ∧ s.regb 0x090014 31 = true ∧ s.regb 0x090040 30 = true
      ∧ s.regb 0x090040 29 = false ∧ s.via.closed = true)
    ∧ (f.regb 0x090040 29 = true ∧ f.via.closed = false ∧ f.requests = [])
    ∧ ((max s.time 1000039 < 0 + 1000040 ∧ 0 + 1000000 < max s.time 1000039 + 40) ∧ 0 + 1000040 ≤ max s.time 1000040
      ∧ max s.time 999960 + 40 ≤ 0 + 1000000 ∧ 0 + 1000080 ≤ max s.time 1000080 ∧ max s.time 1000079 < 0 + 1000080 ∧ s.via.lastPulse = none
      ∧ s.regb 0x090044 29 = false ∧ ({ s with regs := [(0x090044, 0x20000000#32)] }).regb 0x090044 29 = true)
    ∧ (openState.jobs = [] ∧ openState.portOpen 0 = true ∧ 2 ≤ bitsAt (0xA0000000#32).toNat 28 3 ∧ bitsAt (0x90000000#32).toNat 28 3 < 2
      ∧ openState.regb 0x090050 31 = false ∧ s.jobs ≠ []) := by decide +kernel

/-! ### The premises of the statements are met (chapter 20: the sideband) -/

/-- A sideband request with a LEN that is right. -/
def sbMsg (payload : List Byte) : SbMsg := { flags := 0, tag := 1, len := BitVec.ofNat 16 payload.length, payload := payload }

/-- Requests that are served at once, in chunks, at the end of a stream and after one that was abandoned. -/
theorem test_sideband_premises :
    let x : SbStream := { code := 4, total := 1025, next := 1024, data := List.replicate 1025 0, last := 0 }
    let y : State := { openState with sb := { stream := some x, firmware := none, abandoned := none } }
    let b (k : BootState) : State := { openState with boot := { Boot.cold with state := k } }
    ((sbMsg [0x20#8, 0#8, 0#8, 0#8]).len.toNat = 4 ∧ leAt [0x20#8, 0#8, 0#8, 0#8] 0 4 = 0x20 ∧ (0x20 % 4 = 0 ∧ 0x20 < 2 ^ 24)
      ∧ (sbMsg []).flags.getLsbD 0 = false ∧ ({ sbMsg [] with flags := 1 }).flags.getLsbD 0 = true ∧ leAt [0x22#8, 0#8, 0#8, 0#8] 0 4 % 4 ≠ 0)
    ∧ (openState.boot.standby = true ∧ (openState.at 0).sbExpire.sbFull = true ∧ openState.sb.stream = none ∧ openState.sb.firmware = none
      ∧ (b .standby).sbFull = false ∧ (b .ready).boot.state = .ready ∧ (b .halted).boot.state = .halted)
    ∧ (((y.at 5000000000).sbExpire.sb.stream = some x) ∧ (y.at 5000000001).sbExpire.sb.stream = none
      ∧ (y.at 5000000001).sbExpire.sb.abandoned = some 4 ∧ x.last + 5000000000 < max y.time 5000000001 ∧ max y.time 5000000000 ≤ x.last + 5000000000)
    ∧ (1025 ≤ x.total ∧ x.total < 1026 ∧ x.total ≤ 1 + 1024 ∧ ¬(x.total ≤ 0 + 1024))
    ∧ (openState.obs.snapBusy = false ∧ (openState.at 0).secBusy = false ∧ ((openState.at 0).makeQuote []).isSome = true
      ∧ ({ openState with flash := { openState.flash with reservedTopA := 2 ^ 40 } }.makeQuote []).isNone = true) := by decide +kernel

/-- A chunk that ends a stream to the module, one that does not, one that passes its end, and one of another stream. -/
theorem test_sideband_chunk_premises :
    let chunk (total at_ : Nat) : List Byte := natToBytes 4 total ++ natToBytes 4 at_ ++ [7#8]
    let x : SbStream := { code := 6, total := 3, next := 2, data := [7#8, 7#8], last := 0 }
    (leAt (chunk 1 0) 0 4 = 1 ∧ leAt (chunk 1 0) 4 4 = 0 ∧ ((chunk 1 0).drop 8).length = 1 ∧ (sbMsg (chunk 1 0)).len.toNat = 9)
    ∧ (leAt (chunk 2 0) 4 4 + 1 < leAt (chunk 2 0) 0 4 ∧ leAt (chunk 0 0) 0 4 < leAt (chunk 0 0) 4 4 + 1)
    ∧ (leAt (chunk 3 2) 4 4 = x.next ∧ leAt (chunk 3 2) 0 4 = x.total ∧ leAt (chunk 3 2) 4 4 + 1 = x.total ∧ leAt (chunk 3 1) 4 4 ≠ x.next) := by
  decide +kernel

/-! ### The manual's worked examples (chapters 2 to 7, 11 to 13, 17): the expected values stand in its text -/

/-- Chapter 2, PACK5: the trits (+1, 0, −1, −1, +1) are 0xA7, and the last byte of a tile with trit 4,095 = −1 is 0x78. -/
theorem test_pack5_example : pack5Byte [1, 0, -1, -1, 1] = 0xA7#8 ∧ decodePack5 0xA7 = ([1, 0, -1, -1, 1], 0) ∧ pack5Byte [-1] = 0x78#8 := by
  decide

/-- Chapter 2, SK4: +1 at inputs 2 and 9, −1 at 5 and 14 is 0xA_4224. -/
theorem test_sk4_example : let ts : List Int := [0, 0, 1, 0, 0, -1, 0, 0, 0, 1, 0, 0, 0, 0, -1, 0]
    skGroup ts = 0xA4224 ∧ decodeSkGroup 4 0xA4224 = (ts, 0) := by decide

/-- Chapter 2, PAT7: the trits (−1, +1, 0, −1) are 0x59; chapter 3: (+1, −1, 0, +1) has code 25. -/
theorem test_pat7_example : pat7Field [-1, 1, 0, -1] = 0x59 ∧ decodePat7 0x59 = ([-1, 1, 0, -1], 0) ∧ pat7Field [1, -1, 0, 1] = 25 := by decide

/-- Chapter 2, ZRL: +1 at 3, −1 at 4 and +1 at 40 of a block. -/
theorem test_zrl_example : zrlTokens 0x0008FE03 3 0 0 = some ([(3, false), (4, true), (40, false)], 27) := by decide +kernel

/-- Chapter 2, segments: E = −3 and f = 8 are the field 0xFD8, and the block enters a vector of VEC_E −5 with D = 2. -/
theorem test_scale_example : let g := mkScaleGranule [-40] [] (-5) 4 0
    bitsAt g.toNat 0 12 = 0xFD8 ∧ segScaleL g 0 = -40 ∧ segE g 0 = -3 ∧ segF g 0 = 8 ∧ blockShift (-5) g 0 = 2 ∧ segW g = 4 := by decide +kernel

/-- Chapter 2, LNS16: 3.0 is 0x0657, −0.5 is 0xFC00, and their product 0x8257. -/
theorem test_lns16_example : lnsCode (lnsMul (lnsOf 0x0657) (lnsOf 0xFC00)).1 = 0x8257#16 ∧ (lnsOf 0x0657).lam = 1623 ∧ (lnsOf 0xFC00).lam = -1024
    ∧ (lnsOf 0xFC00).neg = true := by decide

/-- Chapter 2, KV4: with B = −4 a group of 3.0 and 0.5 has the scale code 0x2D and the values 7 and 1. -/
theorem test_kv4_example : let g := (kv4Encode (-4) [lnsOf 0x0657, lnsOf 0x7C00]).1
    g.getD 8 0 = 0x2D#8 ∧ kv4Code g 0 = 7 ∧ kv4Code g 1 = 1 := by decide +kernel

/-- Chapter 4, the abutment: 1,500 is 10,804 in log units, and 16 times antilog(2,100 − 2,048) is 4.1436, 4,243 in its table. -/
theorem test_abutment_example : lin2log 1500 = 10804 ∧ antilogTable 52 = 4243 ∧ antilogRound 2100 = 4 := by decide +kernel

/-- Chapter 5: value group 3 of key-value head 5 at slot 232 of a page of 256 tokens, in a frame of 294,912 bytes. -/
theorem test_kv_example : let c : KvClass := { cls := 0, nKv := 8, dH := 128, poolUnits := 0, first := 0, layers := 88 }
    c.unitBytes = 18432 ∧ c.slotOff 8 5 232 true + 9 * 3 = 219483 ∧ c.pageBytes 8 = 294912 := by decide

/-- Chapter 7: −6 = −8 + 2 is the two-term code 0xCE10. -/
theorem test_two_term_example : termsOf 0xCE10 = [(3, -1), (1, 1)] := by decide

/-- Chapter 11: a weight extent at OFFSET 0x39_2345_6000 of a slab of 114 units at the foot of the POOL, and its mirror. -/
theorem test_extent_example : let x : HotEntry := { readyEntry with slabUnits := 114, mirrorUnit := 114, mirrored := true }
    x.slabAddr 0x3923456000 = 0x393B456000 ∧ x.mirrorAddr 0x3923456000 = 0xBB03456000 := by decide +kernel

/-- Chapter 11, the segment code: planes of 3 and 2 non-zero words and the scale granule's 5 make 0x0030_8007, 2 granules. -/
theorem test_segment_code_example :
    let w (l : List Nat) : BitVec 256 := BitVec.ofNat 256 ((l.map (fun i => 2 ^ (32 * i))).sum)
    let gs := [w [0, 1, 2], w [0, 1], w [0, 1, 2, 3, 4], 0#256, 0#256]
    (segEncode gs).1 = 48 ∧ leAt (segEncode gs).2 0 4 = 0x00308007 ∧ (segEncode gs).2.length = 64 ∧ segDecode 5 (segEncode gs).2 = gs := by
  decide +kernel

/-- Chapter 12: SEQ 5 on lane 200 of port 1 is handle 0x4190_0005. -/
theorem test_handle_example : handlePort 0x41900005 = 1 ∧ handleLane 0x41900005 = 200 ∧ handleSeq 0x41900005 = 5 := by decide

/-- Chapter 13: of a group of 16 λ values, SK4 keeps those at inputs 9, 1, 3 and 7: 0x1_028A. -/
theorem test_pruning_example :
    let l (x : Int) : Lns := { zero := false, neg := false, lam := x }
    let o := l 799
    skGroup (pruneGroup 4 [o, { l 1500 with neg := true }, o, l 1200, o, o, o, l 1200, o, l 2048, o, o, o, o, l 1200, o]) = 0x1028A := by decide +kernel

/-- Chapter 17: 37 more tokens at the switch make 4,037 the closed copy, and 0 the live one. -/
theorem test_window_example :
    let w : PWindow := { PWindow.zero with counters := [(2, { Counter.zero with live := 4000 })], tickWork := [(2, 37)], closing := true }
    (kget Counter.zero (w.switch 9).counters 2).closed = 4037#32 ∧ (kget Counter.zero (w.switch 9).counters 2).live = 0 := by decide +kernel

/-! ### Ill-formed commands are refused by the check -/

/-- A record that is all zeros but for byte `k`, which is `v`. -/
def byteRecord (k v : Nat) : CmdRec := record 0 (BitVec.ofNat 448 (v * 2 ^ (8 * (k - 8))))

/-- Records of another ACTION. -/
theorem test_wf_actions :
    [Instr.jobCtrlEnd 0 (byteRecord 12 2), .jobCtrlPreempt 0 (byteRecord 12 3), .jobCtrlResume 0 (byteRecord 12 1),
      .variantInstall 0 (byteRecord 22 2), .variantRemove 0 (byteRecord 22 1), .landingOpen 0 (byteRecord 21 2),
      .landingClose 0 (byteRecord 21 1), .reservedOpcodeRecord 0 11 (record 0 0)].all (fun i => !i.wf) = true
    ∧ [Instr.jobCtrlEnd 0 (byteRecord 12 1), .variantInstall 0 (byteRecord 22 1), .landingClose 0 (byteRecord 21 2),
      .reservedOpcodeRecord 0 12 (record 0 0)].all Instr.wf = true := by decide +kernel

/-- A write of no byte, of a whole lane, over a lane's end and over the lanes' end; BAR4 accesses of no byte and past its end; an
offset between registers; a publish that ends before its keystone. -/
theorem test_wf_writes :
    [Instr.partialLaneWrite 0 0 .pf 0 0, .partialLaneWrite 0 0 .pf 64 64, .partialLaneWrite 0 0 .pf 60 8, .partialLaneWrite 0 0 .pf 524288 4,
      .bar4Access 0 0 .pf 0 true [] [], .bar4Access 0 0 .pf (2 ^ 36) true [0] [], .registerWrite 0 .sideband 2 0, .registerReadDenied 0 .sideband 1,
      .keystoneSeal 5 4].all (fun i => !i.wf) = true
    ∧ [Instr.partialLaneWrite 0 0 .pf 60 4, .bar4Access 0 0 .pf (2 ^ 36 - 1) true [0] [], .registerWrite 0 .sideband 4 0, .keystoneSeal 5 5].all
      Instr.wf = true := by decide +kernel

/-- Register values of another ACTION. -/
theorem test_wf_register_values :
    [Instr.spareCtrlErase 0 .sideband 0x40, .spareCtrlSteer 0 .sideband 0x20, .spareCtrlHardSteer 0 .sideband 0x20,
      .spareCtrlClearErasure 0 .sideband 0x20, .spareCtrlHardRows 0 .sideband 0x20, .spareTake 0 .sideband 0x80000000,
      .spareRelease 0 .sideband 0x40000000, .pctrClose 0 0 0 0, .triggerFire 0 .sideband 0, .snapshotTake 0 .sideband 0,
      .secQuote 0 .sideband 0, .secReseal 0 .sideband 0, .secRaiseMinSvn 0 .sideband 0, .secRevokeRoot 0 .sideband 0,
      .secCertificates 0 .sideband 0, .secEnrol 0 .sideband 0 none, .secRemoveKey 0 .sideband 0, .warmResetRequest 0 .sideband 0x80000000,
      .coldResetRequest 0 .sideband 0x40000000].all (fun i => !i.wf) = true
    ∧ [Instr.spareCtrlErase 0 .sideband 0x20, .spareTake 0 .sideband 0x40000000, .secQuote 0 .sideband 0x10000000,
      .coldResetRequest 0 .sideband 0x80000000].all Instr.wf = true := by decide +kernel

/-- Packets of another VC or LEN than their TYPE's, a reserved TYPE that is none, a forward of a link-local TYPE. -/
theorem test_wf_packets :
    let p (vc : BitVec 2) (n : Nat) : Pkt := { port := 0, vc := vc, lseq := 0, dst := 0, src := 0, ttl := 0, arg := 0, payload := List.replicate n 0 }
    [Instr.lctl 0 (p 1 0), .hello 0 (p 0 1), .write 0 (p 2 0), .write 0 (p 2 129), .wack 0 (p 2 0), .read 0 (p 1 1), .rdata 0 (p 1 1),
      .offer 0 (p 1 15), .offerAns 0 (p 1 0), .hoCommit 0 (p 1 1), .hoAck 0 (p 0 0), .digest 0 (p 0 1), .extReq 0 (p 1 5), .extAns 0 (p 3 1),
      .probe 0 (p 1 0), .probeAns 0 (p 0 1), .claim 0 (p 3 0), .badPacket 0 0x10 (p 0 0), .packetForward 0 0x00 (p 0 0),
      .packetForward 0 0x02 (p 0 0)].all (fun i => !i.wf) = true
    ∧ [Instr.write 0 (p 2 128), .offer 0 (p 1 16), .digest 0 (p 0 2), .badPacket 0 0x02 (p 0 0), .packetForward 0 0x10 (p 2 1)].all Instr.wf = true := by
  decide +kernel

/-- Sideband payloads past 1,040 bytes, and samples of a sensor too few. -/
theorem test_wf_sideband_and_samples :
    let m (n : Nat) : SbMsg := { flags := 0, tag := 0, len := 0, payload := List.replicate n 0 }
    [Instr.sbRead 0 (m 1041), .sbWrite 0 (m 1041), .sbReset 0 (m 1041), .sbFaultLog 0 (m 1041), .sbSnapshot 0 (m 1041), .sbFirmware 0 (m 1041),
      .sbQuote 0 (m 1041), .sbUnseal 0 (m 1041), .memTrainDone 0 0 (List.replicate 31 0), .dieTempSample 0 (List.replicate 15 0)].all
        (fun i => !i.wf) = true
    ∧ [Instr.sbFirmware 0 (m 1040), .memTrainDone 0 0 (List.replicate 32 0), .dieTempSample 0 (List.replicate 16 0)].all Instr.wf = true := by
  decide +kernel

/-- Deck accesses of which more were corrected late than were corrected, and wrong bits past device memory. -/
theorem test_wf_memory_outcomes :
    let d : DeckUse := { DeckUse.clean with late := 1 }
    let e : MemErrs := [(2 ^ 35, [(0, 1)])]
    let a : RunArgs := { abase := 0, sstride := 0, seq0 := 0, nseq := 1 }
    [Instr.blist now WaitGroup.none 0 1 false d, .tload now WaitGroup.none 0 0 false 0 d, .prun now WaitGroup.none a d, .lrun now WaitGroup.none a d,
      .trun now WaitGroup.none a d, .mkup now WaitGroup.none a d, .conv now WaitGroup.none 0 1 0 0 0 0 d, .kvapp now WaitGroup.none 0 1 0 0 0 d,
      .tblld now 0 0 d, .attn now WaitGroup.none 0 1 0 0 0 0 d, .amul now WaitGroup.none 0 0 0 1 d, .arot now WaitGroup.none 0 0 1 0 d,
      .mstore now 0 1 0 0 d, .kvrd now WaitGroup.none 0 1 0 0 0 0 false d, .streamGranuleLanded 0 0 0 0 [] d none,
      .streamGranuleLanded 0 0 0 0 e .clean none, .bar4Access 0 0 .pf 0 true [0] e, .kvappAck 0 0 e, .memScrub 0 0 e,
      .refetchDone 0 0 .host [] e].all (fun i => !i.wf) = true
    ∧ [Instr.prun now WaitGroup.none a { d with corrected := 1 }, .memScrub 0 0 [(2 ^ 35 - 1, [(0, 1)])]].all Instr.wf = true := by decide +kernel

/-! ### Single steps on small states -/

/-- Whether a step answers a next state that meets a condition. -/
def stepMeets (s : State) (c : State → Bool) : Bool := match nextOf (step s) with
  | none => false
  | some u => c u

/-- A state with one waiting command. -/
def asked (i : Instr) (s : State) : State := { s with pending := [i] }

/-- R397, R401: LOG_SETUP writes its ANSWER, type 4 with PHASE 1, into slot 0 of the new log, and FREE falls by it. -/
theorem test_log_setup : stepMeets (asked (.logSetup 0 (record 0 (BitVec.ofNat 448 (8192 + 6 * 2 ^ 64)))) openState) (fun u =>
    decide (u.out.map (fun o => match o with
      | .dma p a b => (p, a, b.take 2)
      | _ => (9, 0, [])) = [(0, 8192, [4#8, 0x80#8])]) && decide ((u.log? 0 0).map (·.free) = some 63) && u.pending.isEmpty) = true := by
  decide +kernel

/-- R389, R404, Table 12.10: a reserved opcode is rejected with BAD_OPCODE, 1, and the lane's SEQ stays. -/
theorem test_reserved_opcode : stepMeets (asked (.reservedOpcodeRecord 0 12 (record 0 0)) openState) (fun u =>
    decide (u.out.map (fun o => match o with
      | .dma _ a b => (a, b.getD 0 0, b.getD 2 0)
      | _ => (0, 0, 0)) = [(4096, 2#8, 1#8)]) && decide (u.laneSeq 0 0 = 0)) = true := by decide +kernel

/-- R387: a CREDIT that passes advances the lane's SEQ by one modulo 2^17. -/
theorem test_credit_seq : stepMeets (asked (.credit 0 (record 0x1FFFF 0)) { openState with lanes := [(0, 0x1FFFF)] })
    (fun u => decide (u.laneSeq 0 0 = 0)) = true := by decide +kernel

/-- Table 12.3, step 6: a SUBMIT of no tokens is BAD_FIELD, 9. -/
theorem test_submit_bad_field : stepMeets (asked (.submit 0 (record 0 0)) openState) (fun u =>
    decide (u.out.map (fun o => match o with
      | .dma _ _ b => b.getD 2 0
      | _ => 0) = [9#8]) && u.requests.isEmpty) = true := by decide +kernel

/-- R9: a register reads its reset value before anything is written, and what was written after. -/
theorem test_register_write : openState.regw 0x020004 = 0x01F40064#32
    ∧ stepMeets (asked (.registerWrite 0 (.pf 0) 0x060014 0x80000000) openState) (fun u => u.regb 0x060014 31) = true := by decide +kernel

/-- R13: a VF's write of a management register changes none and is counted in FLT_ROLE_DENIED. -/
theorem test_register_denied : stepMeets (asked (.registerWrite 0 (.vf 0 3) 0x020004 0) openState) (fun u =>
    decide (u.regs = openState.regs) && decide ((kget Counter.zero u.counters 0x0B0124).live = 1)) = true := by decide +kernel

/-- R409: bytes written through a host landing are read back. -/
theorem test_bar4_write : stepMeets (asked (.bar4Access 0 0 .pf 4094 true [7#8, 8#8] []) { openState with landings := [(2, hostLanding)] })
    (fun u => decide (u.memByte 4094 = 7#8 ∧ u.memByte 4095 = 8#8 ∧ u.memByte 4096 = 0#8)) = true := by decide +kernel

/-- R273: BASE adds to B, and the PC goes on by one. -/
theorem test_base : stepMeets (asked (.base now 5) (issueState 0x02 (5 * 2 ^ 66) Span.idle)) (fun u =>
    decide ((u.span 0).seq.base = 5 ∧ (u.span 0).seq.pc = 1)) = true := by decide +kernel

/-- R267: an instruction that is not the one at PC is not issued. -/
theorem test_not_at_pc : stepMeets (asked (.base now 5) (issueState 0x02 (6 * 2 ^ 66) Span.idle)) (fun u =>
    decide ((u.span 0).seq.base = 0 ∧ (u.span 0).seq.pc = 0)) = true := by decide +kernel

/-- R265, R272: a consuming WAIT takes its value from its counter, which shows it from the next cycle on. -/
theorem test_wait : stepMeets (asked (.wait now { en := true, cons := true, ctr := 2, val := 1 } 0 false)
      (issueState 0x06 (2 ^ 97 + 2 ^ 96 + 2 * 2 ^ 91 + 2 ^ 71) { Span.idle with seq := { Sequencer.idle with arrive := [(2, 1)] } }))
    (fun u => decide ((u.span 0).seq.ctr 2 = 1 ∧ ((u.toCyc 1).span 0).seq.ctr 2 = 0 ∧ (u.span 0).seq.pc = 1)) = true := by decide +kernel

/-- R288: MSTORE stores the granule's bytes at 4,096 times ADDR. -/
theorem test_mstore : stepMeets (asked (.mstore now 1 1 0 0 .clean) (issueState 0x41 (2 ^ 97 + 2 ^ 65 + 2 ^ 45) { Span.idle with deck := [(3, 9#8)] }))
    (fun u => decide (u.memByte 4099 = 9#8 ∧ u.memByte 4098 = 0#8)) = true := by decide +kernel

/-- R60, R89: an addition lands at its cycle. -/
theorem test_addition : stepMeets (asked (.additionLanded 0 5) { tickState with spans := [(0, { Span.idle with
      seq := { Sequencer.idle with phase := 1 }, cells := { CellUnit.idle with inflight := [
        { land := 5, line := 3, terms := List.replicate 16 2, tag := 0, unit := 0, rowGroup := 0, owner := 0, desc := 0, keep := false, check := false }] } })] })
    (fun u => decide ((kget Line.zero (u.span 0).lines 3).acc = List.replicate 16 2#32)) = true := by decide +kernel

/-- R363, Table 11.2: 100 °C is level 6, and 98 °C leaves it at level 5. -/
theorem test_throttle : throttleLevel 0 100 = 6 ∧ throttleLevel 6 99 = 6 ∧ throttleLevel 6 98 = 5 ∧ throttleLevel 0 94 = 0 ∧ throttleLevel 0 105 = 11 := by
  decide

/-- R623: PWR_BRAKE_N on a READY module sets the rate cap to 8. -/
theorem test_brake : stepMeets (asked (.brakeApply 0) openState) (fun u => decide (u.mem.rateCap = 8) && u.pwr.brake) = true := by decide +kernel

/-- R568: firmware of a revoked root pair halts the start with FIRMWARE, 1. -/
theorem test_firmware_halt : stepMeets (asked (.pierBoot 0) { State.reset with fuses := { Fuses.b1 with revoked := 1 } })
    (fun u => decide (u.boot.state = .halted ∧ u.boot.haltCause = 1)) = true := by decide +kernel

/-- R564, R616: a loss of main power leaves STANDBY and nothing in device memory. -/
theorem test_power_loss : stepMeets (asked (.mainPowerLoss 0) { openState with mem := { DevMem.cold with bytes := [(0, 1)] } })
    (fun u => decide (u.boot.state = .standby) && u.mem.bytes.isEmpty) = true := by decide +kernel

/-- R468: a packet whose check fails is asked for once, with NAK_SEQ. -/
theorem test_crc_fail : stepMeets (asked (.packetCrcFail 0 0 0 false) { openState with via := { Viaduct.cold with ports := [(0, { CefinPort.down with state := .upX4 })] } })
    (fun u => (u.cefin 0).asked && decide (u.out.length = 1)) = true := by decide +kernel

/-- R614: a sideband READ answers the register in four bytes; one of an odd offset is BAD_FIELD, 4. -/
theorem test_sideband_read :
    stepMeets (asked (.sbRead 0 (sbMsg [4#8, 0#8, 2#8, 0#8])) openState) (fun u => decide (u.out = [.sideband 1 1 0 [0x64#8, 0x00#8, 0xF4#8, 0x01#8]])) = true
    ∧ stepMeets (asked (.sbRead 0 (sbMsg [5#8, 0#8, 2#8, 0#8])) openState) (fun u => decide (u.out = [.sideband 1 1 4 []])) = true := by decide +kernel

/-- An empty queue idles. -/
theorem test_idle : stepMeets openState (fun u => decide (u.time = 0) && u.pending.isEmpty) = true := by decide +kernel


end Sys2Proof.Tests
end

section
/-! PROOFS. Accesses to the registers of BAR0 by role, the owners of pages, and the state after reset: the statements of
spec/00_scope.md. -/

namespace Sys2Proof.Machine
open Sys2Proof

/-! ### The state in which a command of the management role acts -/

/-- Of the state at its time, a command of the management role that gets through has moved only counters. -/
theorem Reached.frame {t : Nat} {who : Requester} {s y : State} (h : Reached t who s y) :
    ∃ c, y = { s.at t with counters := c } := by
  obtain ⟨p, -, -, rfl⟩ | ⟨-, -, rfl⟩ := h
  · exact State.incBytes_counters _ _ _
  · exact ⟨_, rfl⟩

theorem Reached.regs {t : Nat} {who : Requester} {s y : State} (h : Reached t who s y) : y.regs = s.regs := by
  obtain ⟨c, rfl⟩ := h.frame; rfl

theorem Reached.obs {t : Nat} {who : Requester} {s y : State} (h : Reached t who s y) : y.obs = s.obs := by
  obtain ⟨c, rfl⟩ := h.frame; rfl

theorem Reached.handles {t : Nat} {who : Requester} {s y : State} (h : Reached t who s y) : y.handles = s.handles := by
  obtain ⟨c, rfl⟩ := h.frame; rfl

theorem Reached.running {t : Nat} {who : Requester} {s y : State} (h : Reached t who s y) : y.running = s.running := by
  obtain ⟨c, rfl⟩ := h.frame; rfl

theorem Reached.trs {t : Nat} {who : Requester} {s y : State} (h : Reached t who s y) : y.trs = s.trs := by
  obtain ⟨c, rfl⟩ := h.frame; rfl

theorem Reached.phys? {t : Nat} {who : Requester} {s y : State} (h : Reached t who s y) (l : Nat) : y.phys? l = s.phys? l := by
  obtain ⟨c, rfl⟩ := h.frame; rfl

theorem Reached.span {t : Nat} {who : Requester} {s y : State} (h : Reached t who s y) (p : Nat) : y.span p = s.span p := by
  obtain ⟨c, rfl⟩ := h.frame; rfl

/-- R13: an access of the management role that gets through acts. -/
theorem Reached.asMgmt {t : Nat} {who : Requester} {s y : State} (h : Reached t who s y) (act : State → State) :
    s.asMgmt t who act = act y := by
  obtain ⟨p, rfl, hopen, rfl⟩ | ⟨rfl, hfull, rfl⟩ := h
  · have hr : (s.at t).reaches (.pf p) = true := hopen
    simp [State.asMgmt, hr]
  · have hr : (s.at t).reaches .sideband = true := hfull
    simp [State.asMgmt, hr]

theorem Reached.registerWrite {t : Nat} {who : Requester} {s y : State} (h : Reached t who s y) (off : BitVec 24) (value : Word) :
    exec (.registerWrite t who off value) s = .next (y.writeReg who off.toNat value) := by
  have hact := h.asMgmt (State.writeReg who off.toNat value)
  cases who with
  | vf p n => obtain ⟨q, hq, -, -⟩ | ⟨hq, -, -⟩ := h <;> cases hq
  | pf p => exact congrArg Host.Outcome.next hact
  | sideband => exact congrArg Host.Outcome.next hact

theorem Reached.pageOwnerWrite {t : Nat} {who : Requester} {s y : State} (h : Reached t who s y) (port : Fin 4) (page : Fin 128)
    (value : Word) : exec (.pageOwnerWrite t who port page value) s = .next (y.writePageOwner port.val page.val value) :=
  congrArg Host.Outcome.next (h.asMgmt (State.writePageOwner port.val page.val value))

/-! ### What a write of the management role does to a register, by the kind of register (R10, R11) -/

section
variable (who : Requester) (value : Word) (s : State)

/-- R11: a 1 clears a status field but when the device set that field in the same cycle. -/
theorem State.clears_iff (b field : Nat) : (value.getLsbD b && s.mayClear field) = true
    ↔ value.getLsbD b = true ∧ kfind? s.obs.setAt field ≠ some s.time := by
  rw [Bool.and_eq_true, State.mayClear, decide_eq_true_iff]

theorem State.writeReg_of_rwMask {off : Nat} {m : BitVec 32} (hoff : off < 0x800000) (hm : rwMask off = some m) :
    s.writeReg who off value = s.setReg off (value &&& m) := by
  unfold State.writeReg; rw [if_neg (by omega), hm]

theorem State.writeReg_of_action {off : Nat} (hoff : off < 0x800000) (hm : rwMask off = none) :
    s.writeReg who off value = s.writeAction who off value := by
  unfold State.writeReg; rw [if_neg (by omega), hm]

theorem State.writeReg_of_spanWin {off : Nat} (hoff : 0x800000 ≤ off) :
    s.writeReg who off value = s.writeSpanWin ((off - 0x800000) / 0x10000) (off % 0x10000) value := by
  unfold State.writeReg; rw [if_pos hoff]

/-- The offsets below the span windows whose write does more than set fields, those of the ports and page owners apart. -/
def actionOffsets : List Nat :=
  [0x000024, 0x020504, 0x020600, 0x070084, 0x070088, 0x090000, 0x090044, 0x090050, 0x090054, 0x0A0000, 0x0A0004, 0x0A0034,
   0x0A0040, 0x0B0010, 0x0C0004, 0x0C0244, 0x0D0004, 0x0D0014]

/-- R10: an offset that names no such register ignores the write. -/
theorem State.writeAction_ignored {off : Nat} (hport : slotOf 0x090010 8 4 off = none) (hpage : slotOf 0x012000 512 4 off = none)
    (hoff : off ∉ actionOffsets) : s.writeAction who off value = s := by
  unfold State.writeAction
  split
  case h_19 => rw [hport, hpage]
  all_goals exact absurd hoff (by decide)

/-- In a span's window, offsets other than those of SPN_TRACE_CTRL and SPN_SEQ_FAULT are read-only or hold no register. -/
theorem State.writeSpanWin_ignored {off : Nat} (l : Nat) (htrace : off ≠ 0x400) (hfault : off ≠ 0x124) :
    s.writeSpanWin l off value = s := by
  simp [State.writeSpanWin, htrace, hfault]

theorem State.writeSpanWin_seqFault {l p : Nat} (hp : s.phys? l = some p) :
    s.writeSpanWin l 0x124 value = if value.getLsbD 23 = true ∧ kfind? s.obs.setAt (64 * (0x800124 + 0x10000 * l) + 23) ≠ some s.time
      then s.setSpan p { s.span p with seq := { (s.span p).seq with fault := (s.span p).seq.fault &&& 0xFF7FFFFF#32 } } else s := by
  unfold State.writeSpanWin
  rw [if_neg (by decide)]
  simp only [decide_true, Bool.true_and, State.clears_iff, hp]
  rfl

theorem State.writeReg_spareStatus :
    s.writeReg who 0x070088 value = if value.getLsbD 30 = true ∧ kfind? s.obs.setAt (64 * 0x070088 + 30) ≠ some s.time
      then { s with mem := { s.mem with status := s.mem.status &&& 0xBFFFFFFF#32 } } else s := by
  rw [State.writeReg_of_action who value s (by decide) (by decide)]
  exact if_congr (State.clears_iff value s 30 (w1c 0x070088 30)) rfl rfl

/-! ### JOB_TRS_CTRL and VIA_SYNC -/

/-- R222: FORCE_FW is kept as written, and setting it is cause 4 of falsework. -/
theorem State.writeTrsCtrl_noRetest (hretest : value.getLsbD 30 = false) :
    s.writeTrsCtrl value = { s.setReg 0x020504 (value &&& 0x80000000#32) with
      trs := { s.trs with cause := if value.getLsbD 31 = true ∧ s.regb 0x020504 31 = false then 4 else s.trs.cause } } := by
  unfold State.writeTrsCtrl
  rw [hretest, if_neg Bool.false_ne_true]
  by_cases h : value.getLsbD 31 = true ∧ s.regb 0x020504 31 = false
  · rw [if_pos h, if_pos (by rw [h.1, h.2]; rfl)]; rfl
  · rw [if_neg h, if_neg (by rwa [Bool.and_eq_true, Bool.not_eq_true'])]; rfl

/-- The register that a write of VIA_SYNC leaves: TIME_ARM only moves while no job is RUNNING (R488). -/
def State.syncWord (s : State) (value : Word) : Word :=
  (value &&& 0x800003FF#32) ||| ((if s.running.isSome then s.regw 0x090044 else value) &&& 0x20000000#32)

theorem State.writeSync_eq : s.writeSync value = s.setReg 0x090044 (s.syncWord value) := by
  unfold State.writeSync State.syncWord; split <;> rfl

theorem State.syncWord_fields : s.syncWord value &&& 0x800003FF#32 = value &&& 0x800003FF#32 := by
  unfold State.syncWord
  rw [BitVec.and_or_distrib_right, BitVec.and_assoc, BitVec.and_assoc]
  simp

theorem State.syncWord_arm :
    (s.syncWord value).getLsbD 29 = if s.running.isSome = true then s.regb 0x090044 29 else value.getLsbD 29 := by
  unfold State.syncWord State.regb
  split <;> simp

end

/-! ### Status bits that a 1 clears (R11) -/

/-- A write's effect on bit `b` of a status register: a 1 clears it unless the device set it in the same cycle. -/
def State.clearBit (off : Nat) (value : Word) (s : State) (b : Nat) : State :=
  if value.getLsbD b && s.mayClear (w1c off b) then s.setRegBit off b false else s

section
variable (off : Nat) (value : Word)

theorem State.clearBit_frame (s : State) (b : Nat) : ∃ r, s.clearBit off value b = { s with regs := r } := by
  unfold State.clearBit; split <;> exact ⟨_, rfl⟩

theorem State.clearBit_regw_other {k : Nat} (hk : k ≠ off) (s : State) (b : Nat) : (s.clearBit off value b).regw k = s.regw k := by
  unfold State.clearBit
  split
  · exact State.setReg_regw_other hk _ s
  · rfl

theorem State.clearBit_regb (s : State) {b : Nat} (hb : b < 32) (i : Nat) :
    (s.clearBit off value b).regb off i = (s.regb off i && !(decide (i = b) && value.getLsbD i && s.mayClear (w1c off i))) := by
  unfold State.clearBit
  by_cases hi : i = b
  · subst hi
    split_ifs with hc
    · rw [State.setRegBit_regb_same _ hb]; simp [hc]
    · simp [hc]
  · split
    · rw [State.setRegBit_regb_other _ hi]; simp [hi]
    · simp [hi]

theorem State.clearBit_mayClear (s : State) (b field : Nat) : (s.clearBit off value b).mayClear field = s.mayClear field := by
  obtain ⟨r, h⟩ := s.clearBit_frame off value b
  rw [h]; rfl

theorem State.clearBits_frame (bs : List Nat) (s : State) : ∃ r, bs.foldl (State.clearBit off value) s = { s with regs := r } := by
  induction bs generalizing s with
  | nil => exact ⟨_, rfl⟩
  | cons b bs ih =>
    obtain ⟨r, hb⟩ := s.clearBit_frame off value b
    obtain ⟨r', hr⟩ := ih (s.clearBit off value b)
    exact ⟨r', by rw [List.foldl_cons, hr, hb]⟩

theorem State.clearBits_regw_other {k : Nat} (hk : k ≠ off) (bs : List Nat) (s : State) :
    (bs.foldl (State.clearBit off value) s).regw k = s.regw k := by
  induction bs generalizing s with
  | nil => rfl
  | cons b bs ih => rw [List.foldl_cons, ih, State.clearBit_regw_other off value hk]

theorem State.clearBits_regb {bs : List Nat} (hbs : ∀ b ∈ bs, b < 32) (s : State) (i : Nat) :
    (bs.foldl (State.clearBit off value) s).regb off i
      = (s.regb off i && !(decide (i ∈ bs) && value.getLsbD i && s.mayClear (w1c off i))) := by
  induction bs generalizing s with
  | nil => simp
  | cons b bs ih =>
    rw [List.foldl_cons, ih (fun c hc => hbs c (List.mem_cons_of_mem _ hc)),
      State.clearBit_regb off value s (hbs b List.mem_cons_self), State.clearBit_mayClear]
    simp only [Bool.and_assoc, List.mem_cons, Bool.decide_or]
    cases value.getLsbD i && s.mayClear (w1c off i) <;> simp

end

/-- Table 20.9: PWR_ALERT has eight such bits, and a write touches no other register. -/
theorem State.writeReg_powerAlert (who : Requester) (value : Word) (s : State) :
    let u := s.writeReg who 0x0D0014 value
    u = { s with regs := u.regs } ∧ (∀ k, k ≠ 0x0D0014 → u.regw k = s.regw k)
    ∧ ∀ b, u.regb 0x0D0014 b
        = (s.regb 0x0D0014 b && !(decide (b < 8) && value.getLsbD b && s.mayClear (w1c 0x0D0014 b))) := by
  have hu : s.writeReg who 0x0D0014 value = (List.range 8).foldl (State.clearBit 0x0D0014 value) s :=
    s.writeReg_of_action who value (by decide) (by decide)
  dsimp only
  rw [hu]
  refine ⟨?_, fun k hk => State.clearBits_regw_other _ value hk _ s, fun b => ?_⟩
  · obtain ⟨r, hr⟩ := State.clearBits_frame 0x0D0014 value (List.range 8) s
    rw [hr]
  · have hlt : ∀ b ∈ List.range 8, b < 32 := fun b hb => by have := List.mem_range.1 hb; omega
    simp only [State.clearBits_regb 0x0D0014 value hlt, List.mem_range]

/-! ### Virtual functions, reads and denied accesses (R13, R382) -/

section
variable (t : Nat) (p : Fin 4) (n : BitVec 8) (off : BitVec 24) {s : State}

/-- A virtual function's write beyond the controls of its window: ignored in its BAR, denied past it. -/
theorem State.vfRegWrite_noControl (hopen : s.portOpen p.val = true) (vf : Nat) {o : Nat} (hclose : o ≠ 0x100) (hindex : o ≠ 0x104)
    (value : Word) : s.vfRegWrite t p.val vf o value
      = if o < 0x10000 then (s.at t).portRx p.val 4 else ((s.at t).portRx p.val 4).denied := by
  have ho : (s.at t).portOpen p.val = true := hopen
  unfold State.vfRegWrite
  rw [if_neg hclose, if_neg hindex]
  dsimp only
  rw [ho]; rfl

theorem exec_registerRead_pf (hopen : s.portOpen p.val = true) : exec (.registerReadDenied t (.pf p) off) s
    = .next ((s.at t).answerRead p.val ((s.at t).readReg (.pf p) off.toNat)) := by
  have hr : (s.at t).reaches (.pf p) = true := hopen
  simp [exec, execRegisterReadDenied, hr]

theorem exec_registerRead_vf (hopen : s.portOpen p.val = true) : exec (.registerReadDenied t (.vf p n) off) s
    = .next (if off.toNat < 0x10000 then (s.at t).answerRead p.val ((s.at t).vfRead p.val n.toNat off.toNat)
        else (s.at t).denied.answerRead p.val 0) := by
  have hr : (s.at t).reaches (.vf p n) = true := hopen
  simp [exec, execRegisterReadDenied, hr]

end

/-- R13: a denied access is an ACCESS fault: it moves FLT_LAST and counts in FLT_ROLE_DENIED, and no log takes it. -/
theorem State.denied_frame (s : State) : s.denied = { s with
    counters := kmod Counter.zero s.counters 0x0B0124 (Counter.add 1), flt := s.denied.flt }
    ∧ s.denied.flt.log = s.flt.log := ⟨rfl, rfl⟩

/-- An answer to a read sends its four bytes and moves only counters. -/
theorem State.answerRead_frame (port : Nat) (v : Word) (s : State) : s.answerRead port v
    = { s with counters := (s.answerRead port v).counters, out := s.out ++ [.data port (natToBytes 4 v.toNat)] } := by
  unfold State.answerRead
  obtain ⟨c, hc⟩ := State.incBytes_counters (0xA0200 + 8 * port) 4 s
  rw [hc]; rfl

/-- Settles O14, a clause at a time: the management role's writes by kind of register, the writes of a virtual function, the
reads, and the denied access. It holds through the model's choices of log entries 2 (one cycle is one ns), 5 and 49. -/
theorem registerWritesByRole : Obligations.RegisterWritesByRole := by
  unfold Obligations.RegisterWritesByRole
  refine ⟨fun t who off value s y h => ?_, fun t p n off value s hopen => ?_, fun t p n off s hopen => ?_, fun s => ?_⟩
  · have hregb (o b : Nat) : y.regb o b = s.regb o b := State.regb_of_regs h.regs o b
    dsimp only
    simp only [h.registerWrite, Host.Outcome.next.injEq, exists_eq_left']
    refine ⟨fun m hlt hm => y.writeReg_of_rwMask who value hlt hm, fun ho => ?_, fun ho => ?_, fun l p hl ho hp => ?_,
      fun ho hretest => ?_, fun ho => ?_, fun hlt hm hport hpage hoff => ?_, fun hge htrace hfault => ?_⟩
    · rw [ho]
      obtain ⟨hframe, hother, hbits⟩ := y.writeReg_powerAlert who value
      exact ⟨hframe, hother, fun b _ => hbits b⟩
    · rw [ho]
      exact y.writeReg_spareStatus who value
    · rw [ho, y.writeReg_of_spanWin who value (by omega), show (0x800124 + 0x10000 * l - 0x800000) / 0x10000 = l by omega,
        show (0x800124 + 0x10000 * l) % 0x10000 = 0x124 by omega,
        y.writeSpanWin_seqFault value ((h.phys? l).trans hp), h.span]
    · have hu : y.writeReg who 0x020504 value = y.writeTrsCtrl value := y.writeReg_of_action who value (by decide) (by decide)
      rw [ho, hu, y.writeTrsCtrl_noRetest value hretest, ← h.trs, ← hregb]
      exact ⟨rfl, fun k hk => State.setReg_regw_other hk _ y, State.setReg_regw_same _ _ y⟩
    · have hu : y.writeReg who 0x090044 value = y.setReg 0x090044 (y.syncWord value) :=
        (y.writeReg_of_action who value (by decide) (by decide)).trans (y.writeSync_eq value)
      rw [ho, hu, ← h.running, ← hregb]
      refine ⟨rfl, fun k hk => State.setReg_regw_other hk _ y, ?_, ?_⟩
      · rw [State.setReg_regw_same, y.syncWord_fields value]
      · rw [State.regb, State.setReg_regw_same, y.syncWord_arm value]
    · rw [y.writeReg_of_action who value hlt hm, y.writeAction_ignored who value hport hpage hoff]
    · rw [y.writeReg_of_spanWin who value hge, y.writeSpanWin_ignored value _ htrace hfault]
  · have hvf : exec (.registerWrite t (.vf p n) off value) s = .next (s.vfRegWrite t p.val n.toNat off.toNat value) := rfl
    dsimp only
    rw [hvf]
    refine ⟨fun ho => ?_, fun ho => ?_, fun hclose hindex hin => ?_, fun hout => ?_⟩
    · rw [ho]; rfl
    · rw [ho]; rfl
    · rw [State.vfRegWrite_noControl t p hopen _ hclose hindex, if_pos hin]
    · rw [State.vfRegWrite_noControl t p hopen _ (by omega) (by omega), if_neg (by omega)]
  · refine ⟨⟨_, exec_registerRead_pf t p off hopen, State.answerRead_frame _ _ _⟩, fun hin => ⟨_, ?_, State.answerRead_frame _ _ _⟩,
      fun hout => ⟨_, ?_, State.answerRead_frame _ _ _⟩⟩
    · rw [exec_registerRead_vf t p n off hopen, if_pos hin]
    · rw [exec_registerRead_vf t p n off hopen, if_neg (by omega)]
  · obtain ⟨hframe, hlog⟩ := s.denied_frame
    exact ⟨_, hframe, hlog, rfl⟩

/-! ### The owner of a page (R411) -/

/-- TOLL_PAGE_OWNER with its three fields. -/
def ownerWord (owned refused : Bool) (fn : Nat) : Word :=
  BitVec.ofNat 32 (fieldAt 31 1 (bit owned) + fieldAt 30 1 (bit refused) + fn % 256)

theorem ownerWord_owned (owned refused : Bool) (fn : Nat) : (ownerWord owned refused fn).getLsbD 31 = owned := by
  rw [ownerWord, BitVec.getLsbD_ofNat, Nat.testBit_eq_decide_div_mod_eq]
  cases owned <;> cases refused <;> simp [fieldAt, bit] <;> omega

theorem ownerWord_refused (owned refused : Bool) (fn : Nat) : (ownerWord owned refused fn).getLsbD 30 = refused := by
  rw [ownerWord, BitVec.getLsbD_ofNat, Nat.testBit_eq_decide_div_mod_eq]
  cases owned <;> cases refused <;> simp [fieldAt, bit] <;> omega

theorem ownerWord_fn (owned refused : Bool) (fn : Nat) : (ownerWord owned refused fn).toNat % 256 = fn % 256 := by
  rw [ownerWord, BitVec.toNat_ofNat]
  cases owned <;> cases refused <;> simp [fieldAt, bit] <;> omega

/-- Whether a lane of a page holds a handle in flight. -/
def State.pageLive (s : State) (port page : Nat) : Bool :=
  s.handles.any (fun e => decide (handlePort e.1 = port ∧ handleLane e.1 / 64 = page))

/-- Whether a write of a page's owner changes it. -/
def OwnerChange (old value : Word) : Prop := value.getLsbD 31 ≠ old.getLsbD 31 ∨ value.toNat % 256 ≠ old.toNat % 256

theorem State.writePageOwner_taken {s : State} {port page : Nat} {value : Word}
    (h : ¬(s.pageLive port page = true ∧ OwnerChange (s.regw (tollPage port page)) value)) :
    s.writePageOwner port page value = s.setReg (tollPage port page) (ownerWord (value.getLsbD 31)
      ((s.regw (tollPage port page)).getLsbD 30 && !(value.getLsbD 30 && s.mayClear (w1c (tollPage port page) 30))) value.toNat) := by
  unfold State.writePageOwner
  refine if_neg fun hc => h ?_
  simpa [State.pageLive, OwnerChange, and_comm] using hc

theorem State.writePageOwner_refused {s : State} {port page : Nat} {value : Word} (hlive : s.pageLive port page = true)
    (hchange : OwnerChange (s.regw (tollPage port page)) value) :
    s.writePageOwner port page value = (s.setReg (tollPage port page) (ownerWord ((s.regw (tollPage port page)).getLsbD 31) true
      (s.regw (tollPage port page)).toNat)).noteSet (w1c (tollPage port page) 30) := by
  unfold State.writePageOwner
  refine if_pos ?_
  rw [Bool.and_eq_true]
  exact ⟨decide_eq_true hchange, hlive⟩

/-- Settles O15: the owner that a write names is taken, but on a page with a handle in flight a change of it is not, and REFUSED
is set. It holds through the model's choice of log entry 2 (one cycle is one ns). -/
theorem pageOwnerKeptWhileHandlesLive : Obligations.PageOwnerKeptWhileHandlesLive := by
  unfold Obligations.PageOwnerKeptWhileHandlesLive
  intro t who port page value s y h off old live change
  have hold : y.regw off = old := State.regw_of_regs h.regs off
  have hlive : y.pageLive port.val page.val = live := by unfold State.pageLive; rw [h.handles]
  have hchange : OwnerChange (y.regw off) value ↔ change := by rw [hold]; rfl
  have hwrite := h.pageOwnerWrite port page value
  by_cases hc : live = true ∧ change
  · refine ⟨ownerWord (old.getLsbD 31) true old.toNat, fun hn => absurd hc hn, fun _ _ => ⟨?_, ownerWord_owned .., ownerWord_fn ..,
      ownerWord_refused ..⟩⟩
    rw [hwrite, State.writePageOwner_refused (hlive.trans hc.1) (hchange.2 hc.2), hold, ← h.obs]
    rfl
  · refine ⟨ownerWord (value.getLsbD 31) (old.getLsbD 30 && !(value.getLsbD 30 && y.mayClear (w1c off 30))) value.toNat,
      fun _ => ⟨?_, ownerWord_owned .., ownerWord_fn .., ?_⟩, fun hl hch => absurd ⟨hl, hch⟩ hc⟩
    · rw [hwrite, State.writePageOwner_taken (by rw [hlive, hchange]; exact hc), hold]
    · rw [ownerWord_refused, State.mayClear, h.obs]; rfl

/-! ### The state after reset -/

/-- Settles O43: every part of the state after reset that the statement names holds its initial value. -/
theorem resetMeetsTheInvariants : Obligations.ResetMeetsTheInvariants := by
  unfold Obligations.ResetMeetsTheInvariants
  have hlegal : State.reset.fuses.legal := ⟨by decide, by decide⟩
  have hbytes (a : Nat) : State.reset.memByte a = 0#8 := State.memByte_right (s := State.reset) rfl
  exact ⟨hlegal, Memory.wf_reset, rfl, rfl, fun _ => rfl, fun _ => rfl, rfl, rfl, rfl, rfl, rfl, rfl, rfl, rfl, rfl,
    fun _ => rfl, fun _ => rfl, hbytes⟩

end Sys2Proof.Machine
end

section
/-! PROOFS. The additions that land in the cells' accumulators and the PACK5 tiles: the statements of spec/02_formats.md. -/

namespace Sys2Proof.Machine
open Sys2Proof

/-! ### One saturating addition (R60) -/

theorem satAdd32_above {a : BitVec 32} {t : Int} (h : a.toInt + t > 2 ^ 31 - 1) :
    satAdd32 a t = (BitVec.ofInt 32 (2 ^ 31 - 1), true) := by
  have habove : 2147483647 < a.toInt + t := h
  simp [satAdd32, satTo, habove]

theorem satAdd32_below {a : BitVec 32} {t : Int} (h : a.toInt + t < -2 ^ 31) :
    satAdd32 a t = (BitVec.ofInt 32 (-2 ^ 31), true) := by
  have hnot : ¬ 2147483647 < a.toInt + t := by omega
  have hbelow : a.toInt + t < -2147483648 := h
  simp [satAdd32, satTo, hnot, hbelow]

theorem satAdd32_fits {a : BitVec 32} {t : Int} (hlo : -2 ^ 31 ≤ a.toInt + t) (hhi : a.toInt + t ≤ 2 ^ 31 - 1) :
    satAdd32 a t = (BitVec.ofInt 32 (a.toInt + t), false) := by
  have habove : ¬ 2147483647 < a.toInt + t := by omega
  have hbelow : ¬ a.toInt + t < -2147483648 := by omega
  simp [satAdd32, satTo, habove, hbelow]

/-! ### An addition that lands in a line (R60, R97) -/

/-- The 16 saturating additions that a landing addition makes into what a line holds. -/
def Line.sums (a : Addition) (ln : Line) : List (BitVec 32 × Bool) :=
  (List.range 16).map (fun i => satAdd32 (ln.acc.getD i 0) (a.terms.getD i 0))

theorem Line.sums_eq_zip {a : Addition} {ln : Line} (hacc : ln.acc.length = 16) (hterms : a.terms.length = 16) :
    (ln.acc.zip (a.terms ++ List.replicate (16 - a.terms.length) 0)).map (fun e => satAdd32 e.1 e.2) = ln.sums a := by
  refine List.ext_getElem (by simp [Line.sums, hacc, hterms]) fun i hi hi' => ?_
  have hi16 : i < 16 := by simpa [Line.sums] using hi'
  simp [Line.sums, hacc, hterms, hi16]

/-- Into a line that its run owns, an addition lands with the sums of R60: each saturates on its own. -/
theorem Line.take_owned {a : Addition} {ln : Line} (howner : a.owner = ln.owner) (hacc : ln.acc.length = 16)
    (hterms : a.terms.length = 16) :
    (ln.take a).1.acc = (ln.sums a).map (·.1) ∧ (ln.take a).2.1 = (ln.sums a).countP (·.2) := by
  rw [← Line.sums_eq_zip hacc hterms]
  cases hunit : ln.hasUnit <;> simp [Line.take, howner, hunit]

/-! ### What counting leaves of a span -/

@[simp] theorem Span.inc_lines (off n : Nat) (x : Span) : (x.inc off n).lines = x.lines := by
  unfold Span.inc; split <;> rfl

theorem Span.inc_live_same (off n : Nat) (x : Span) :
    (kget Counter.zero (x.inc off n).counters off).live.toNat
      = min ((kget Counter.zero x.counters off).live.toNat + n) 0xFFFFFFFF := by
  unfold Span.inc
  split
  · subst n; omega
  · simp only [kmod, kget_kset_same, Counter.add, BitVec.toNat_ofNat]
    omega

theorem Span.inc_counter_other {off off' : Nat} (h : off' ≠ off) (n : Nat) (x : Span) :
    kget Counter.zero (x.inc off n).counters off' = kget Counter.zero x.counters off' := by
  unfold Span.inc
  split
  · rfl
  · exact kget_kset_other _ _ h _

theorem Span.landOne_lines (a : Addition) (x : Span) :
    (x.landOne a).lines = kset Line.zero x.lines a.line ((kget Line.zero x.lines a.line).take a).1 := by
  simp [Span.landOne]

/-- SPN_ACC_SAT, at 0x210, counts the saturating additions of a landing addition. -/
theorem Span.landOne_accSat {a : Addition} (hcheck : a.check = false) (x : Span) :
    (kget Counter.zero (x.landOne a).counters 0x210).live.toNat
      = min ((kget Counter.zero x.counters 0x210).live.toNat + ((kget Line.zero x.lines a.line).take a).2.1) 0xFFFFFFFF := by
  unfold Span.landOne
  rw [Span.inc_counter_other (by decide), Span.inc_live_same]
  simp [hcheck]

/-- Settles O40: one addition saturates by the case of its exact sum; a landing addition makes 16 of them, and the counter's
live copy takes the number that saturated. -/
theorem accumulatorsSaturate : Obligations.AccumulatorsSaturate := by
  unfold Obligations.AccumulatorsSaturate
  refine ⟨fun a t => ⟨fun h => ?_, fun h => ?_, fun hlo hhi => ?_⟩, fun a x howner hcheck hacc hterms => ?_⟩
  · rw [satAdd32_above h]; decide
  · rw [satAdd32_below h]; decide
  · rw [satAdd32_fits hlo hhi]; exact ⟨BitVec.toInt_ofInt_eq_self (by decide) hlo (by omega), rfl⟩
  · obtain ⟨hsums, hcount⟩ := Line.take_owned howner hacc hterms
    refine ⟨fun i hi => ?_, ?_, fun line hline => ?_⟩
    · rw [Span.landOne_lines, kget_kset_same, hsums]
      simp [Line.sums, hi]
    · rw [Span.landOne_accSat hcheck, hcount, Line.sums, List.countP_map]
      rfl
    · rw [Span.landOne_lines, kget_kset_other _ _ hline]

/-! ### PACK5 (R38) -/

/-- The range of a trit. -/
abbrev IsTrit (t : Int) : Prop := -1 ≤ t ∧ t ≤ 1

theorem isTrit_of_values {t : Int} (h : t = -1 ∨ t = 0 ∨ t = 1) : IsTrit t := by
  obtain rfl | rfl | rfl := h <;> decide

/-- A position past the trits is padding, the trit 0. -/
theorem isTrit_getD {ts : List Int} (h : ∀ t ∈ ts, IsTrit t) (n : Nat) : IsTrit (ts.getD n 0) := by
  by_cases hn : n < ts.length
  · rw [List.getD_eq_getElem _ _ hn]; exact h _ (List.getElem_mem hn)
  · rw [List.getD_eq_default _ _ (by omega)]; decide

theorem isTrit_getD_drop {ts : List Int} (h : ∀ t ∈ ts, IsTrit t) (k n : Nat) : IsTrit ((ts.drop k).getD n 0) :=
  isTrit_getD (fun t ht => h t (List.mem_of_mem_drop ht)) n

/-- The byte is the sum of R38: it is at most 242, so nothing is lost in eight bits. -/
theorem pack5Byte_toNat {ts : List Int} (h : ∀ i, IsTrit (ts.getD i 0)) :
    ((pack5Byte ts).toNat : Int) = (ts.getD 0 0 + 1) + (ts.getD 1 0 + 1) * 3 + (ts.getD 2 0 + 1) * 9 + (ts.getD 3 0 + 1) * 27
      + (ts.getD 4 0 + 1) * 81 := by
  have h0 := h 0
  have h1 := h 1
  have h2 := h 2
  have h3 := h 3
  have h4 := h 4
  have hsum : (pack5Byte ts).toNat = ((ts.getD 0 0 + 1).toNat + (ts.getD 1 0 + 1).toNat * 3 + (ts.getD 2 0 + 1).toNat * 9
      + (ts.getD 3 0 + 1).toNat * 27 + (ts.getD 4 0 + 1).toNat * 81) % 256 := by
    simp [pack5Byte, List.range_succ, Nat.add_assoc]
  omega

/-- The five digits to base 3 of a number are the trits it is the sum of. -/
theorem decodePack5_of_toNat {b : Byte} {t0 t1 t2 t3 t4 : Int} (h0 : IsTrit t0) (h1 : IsTrit t1) (h2 : IsTrit t2)
    (h3 : IsTrit t3) (h4 : IsTrit t4)
    (hb : (b.toNat : Int) = (t0 + 1) + (t1 + 1) * 3 + (t2 + 1) * 9 + (t3 + 1) * 27 + (t4 + 1) * 81) :
    decodePack5 b = ([t0, t1, t2, t3, t4], 0) := by
  have hvalid : ¬ b.toNat ≥ 243 := by omega
  simp only [decodePack5, if_neg hvalid, Prod.mk.injEq, List.cons.injEq, and_true]
  refine ⟨?_, ?_, ?_, ?_, ?_⟩ <;> omega

/-- The five trits from position 5 k of a list, padded with zeros. -/
def tritsOfByte (ts : List Int) (k : Nat) : List Int := (List.range 5).map (fun i => ts.getD (5 * k + i) 0)

theorem decodePack5_pack5Byte {ts : List Int} (h : ∀ t ∈ ts, IsTrit t) (k : Nat) :
    decodePack5 (pack5Byte (ts.drop (5 * k))) = (tritsOfByte ts k, 0) := by
  have hdrop := isTrit_getD_drop h (5 * k)
  rw [decodePack5_of_toNat (hdrop 0) (hdrop 1) (hdrop 2) (hdrop 3) (hdrop 4) (pack5Byte_toNat hdrop)]
  simp [tritsOfByte, List.range_succ, List.getD_eq_getElem?_getD]

/-- The bytes' trits one after another are the list, padded with zeros. -/
theorem flatMap_tritsOfByte (ts : List Int) (n : Nat) :
    (List.range n).flatMap (tritsOfByte ts) = (List.range (5 * n)).map (fun i => ts.getD i 0) := by
  induction n with
  | zero => rfl
  | succ n ih =>
    rw [List.range_succ, List.flatMap_append, ih, Nat.mul_succ, List.range_add, List.map_append, List.map_map]
    simp only [List.flatMap_cons, List.flatMap_nil, List.append_nil]
    rfl

theorem map_getD_range_length (ts : List Int) : (List.range ts.length).map (fun i => ts.getD i 0) = ts := by
  refine List.ext_getElem (by simp) fun i hi hi' => ?_
  simp [hi']

theorem byteSlice_whole {bs : List Byte} {n : Nat} (h : bs.length = n) : byteSlice bs 0 n = bs := by
  simp [byteSlice, ← h]

theorem encodePack5_length (ts : List Int) : (encodePack5 ts).length = 820 := by
  rw [encodePack5, List.length_map, List.length_range]

theorem encodePack5_getD (ts : List Int) {k : Nat} (hk : k < 820) : (encodePack5 ts).getD k 0 = pack5Byte (ts.drop (5 * k)) := by
  rw [List.getD_eq_getElem _ _ (by rwa [encodePack5_length])]
  simp only [encodePack5, List.getElem_map, List.getElem_range]

/-- Each byte of a tile decodes to its trits, and none is invalid. -/
theorem map_decodePack5_encodePack5 {ts : List Int} (h : ∀ t ∈ ts, IsTrit t) :
    (encodePack5 ts).map decodePack5 = (List.range 820).map (fun k => (tritsOfByte ts k, 0)) := by
  rw [encodePack5, List.map_map]
  exact List.map_congr_left fun k _ => decodePack5_pack5Byte h k

theorem decodePack5Tile_encodePack5 {ts : List Int} (hlen : ts.length = 4096) (h : ∀ t ∈ ts, IsTrit t) :
    decodePack5Tile (encodePack5 ts) = (tileOfTrits ts, {}) := by
  have htrits : (((List.range 820).flatMap (tritsOfByte ts)).take 4096) = ts := by
    rw [flatMap_tritsOfByte, ← List.map_take, List.take_range, show min 4096 (5 * 820) = ts.length from hlen.symm]
    exact map_getD_range_length ts
  have hinvalid : ((List.range 820).map fun _ => 0).sum = 0 := List.sum_eq_zero fun n hn => by
    obtain ⟨_, -, rfl⟩ := List.mem_map.1 hn; rfl
  simp only [decodePack5Tile, byteSlice_whole (encodePack5_length ts), map_decodePack5_encodePack5 h, List.flatMap_map,
    List.map_map, Function.comp_def]
  rw [htrits, hinvalid]

/-- Settles O41: every byte holds the sum of its five trits, whose digits to base 3 give them back. -/
theorem pack5HoldsFiveTrits : Obligations.Pack5HoldsFiveTrits := by
  unfold Obligations.Pack5HoldsFiveTrits
  intro ts hlen h
  have h := fun t ht => isTrit_of_values (h t ht)
  refine ⟨fun k hk => ?_, decodePack5Tile_encodePack5 hlen h⟩
  have hdrop := isTrit_getD_drop h (5 * k)
  rw [encodePack5_getD ts hk, pack5Byte_toNat hdrop]
  simp [List.getD_eq_getElem?_getD]

end Sys2Proof.Machine
end

section
/-! PROOFS. What spans complete, the span instructions of the cells and their runs, and the expansion joints: the statements of
spec/03_span_arithmetic.md. -/

namespace Sys2Proof.Machine
open Sys2Proof

/-! ### One span of a state -/

@[simp] theorem State.span_setSpan_same (p : Nat) (x : Span) (s : State) : (s.setSpan p x).span p = x :=
  kget_kset_same _ _ _ _

theorem State.span_setSpan_other {p k : Nat} (h : k ≠ p) (x : Span) (s : State) : (s.setSpan p x).span k = s.span k :=
  kget_kset_other _ _ h _

@[simp] theorem State.span_modSpan_same (p : Nat) (f : Span → Span) (s : State) : (s.modSpan p f).span p = f (s.span p) :=
  State.span_setSpan_same _ _ _

theorem State.span_modSpan_other {p k : Nat} (h : k ≠ p) (f : Span → Span) (s : State) : (s.modSpan p f).span k = s.span k :=
  State.span_setSpan_other h _ _

/-- Writing a span back as it stands changes no span. -/
theorem State.span_setSpan_self (p k : Nat) (s : State) : (s.setSpan p (s.span p)).span k = s.span k := by
  by_cases h : k = p
  · subst h; exact State.span_setSpan_same _ _ _
  · exact State.span_setSpan_other h _ _

/-- A span that runs a program is not the idle one. -/
theorem Span.ne_idle {x : Span} (h : x.seq.phase ≠ 0) : x ≠ Span.idle := fun e => h (by rw [e]; rfl)

/-! ### Tile sets whose decoding ends (R279) -/

theorem exec_tloadDone_one {s0 s : State} {l : Fin 128} {p cyc k : Nat} {b : TileBuf} {raise : Option (Nat × Nat)}
    (hs : s0.toCyc cyc = s) (hact : s.tick.active = true) (hp : s.phys? l.val = some p)
    (hbufs : (s.span p).cells.bufs = [(k, b)]) (hdone : b.done = false) (hdue : b.doneAt ≤ cyc) (hraise : b.fctr = raise) :
    let y := s.modSpan p (fun x => { x with cells := { x.cells with bufs := [(k, { b with done := true })] } })
    exec (.tloadDone l cyc) s0 = .next (raise.elim y (fun f => y.ctrAdd cyc l.val f.1 f.2)) := by
  subst hraise
  intro y
  have hy : s.modSpan p (fun x => { x with cells := { x.cells with bufs := kins x.cells.bufs k { b with done := true } } }) = y := by
    simp [y, State.modSpan, hbufs, kins, kput]
  show execTloadDone l cyc s0 = _
  simp only [execTloadDone, hs, hact, hp, hbufs, hdone, hdue, Bool.not_true, Bool.not_false, Bool.true_and, decide_true,
    List.filter_cons_of_pos, List.filter_nil, List.foldl_cons, List.foldl_nil, hy, Bool.false_eq_true, if_false]
  cases b.fctr <;> rfl

theorem exec_tloadDone_none {s0 s : State} {l : Fin 128} {p cyc : Nat} (hs : s0.toCyc cyc = s) (hact : s.tick.active = true)
    (hp : s.phys? l.val = some p) (hnone : ∀ e ∈ (s.span p).cells.bufs, e.2.done = true ∨ cyc < e.2.doneAt) :
    exec (.tloadDone l cyc) s0 = .next s := by
  have hdue : (s.span p).cells.bufs.filter (fun b => !b.2.done && decide (b.2.doneAt ≤ cyc)) = [] := by
    rw [List.filter_eq_nil_iff]
    intro e he
    rcases hnone e he with h | h
    · simp [h]
    · simp [Nat.not_le.2 h]
  show execTloadDone l cyc s0 = _
  simp [execTloadDone, hs, hact, hp, hdue]

/-! ### Additions that land, and what follows when the last one has (R89, R94, R181) -/

/-- A span whose additions of the cycles up to `cyc` land. -/
def Span.landDue (cyc : Nat) (x : Span) : Span :=
  (x.cells.inflight.filter (fun a => decide (a.land ≤ cyc))).foldl (fun (x : Span) (a : Addition) => x.landOne a)
    { x with cells := { x.cells with inflight := x.cells.inflight.filter (fun a => decide (cyc < a.land)) } }

/-- The pairs that a state's landed additions end are checked. -/
def State.checkDue (p cyc : Nat) (s : State) : State :=
  ((s.span p).dueChecks cyc).foldl (fun (s : State) (q : PredPair) => s.checkPair p q) s

/-- ADDITION_LANDED in its three stages: additions land, pairs are checked, a poisoned run that is over breaks the tick. -/
theorem exec_additionLanded {s0 s : State} {l : Fin 128} {p cyc : Nat} (hs : s0.toCyc cyc = s) (hact : s.tick.active = true)
    (hp : s.phys? l.val = some p) :
    let z := (s.modSpan p (Span.landDue cyc)).checkDue p cyc
    let c := (z.span p).cells
    exec (.additionLanded l cyc) s0
      = .next (if c.poisonDue && decide (c.busyUntil ≤ cyc) && c.inflight.isEmpty then z.breakTick .poison else z) := by
  show execAdditionLanded l cyc s0 = _
  simp only [execAdditionLanded, hs, hact, hp]
  rfl

theorem Span.landDue_none {cyc : Nat} {x : Span} (h : ∀ a ∈ x.cells.inflight, cyc < a.land) : x.landDue cyc = x := by
  have hdue : x.cells.inflight.filter (fun a => decide (a.land ≤ cyc)) = [] := by
    rw [List.filter_eq_nil_iff]
    intro a ha
    simp [h a ha]
  have hrest : x.cells.inflight.filter (fun a => decide (cyc < a.land)) = x.cells.inflight := by
    rw [List.filter_eq_self]
    intro a ha
    simp [h a ha]
  rw [Span.landDue, hdue, hrest]
  rfl

theorem Span.landDue_one {cyc : Nat} {x : Span} {a : Addition} (h : x.cells.inflight = [a]) (hland : a.land ≤ cyc) :
    x.landDue cyc = ({ x with cells := { x.cells with inflight := [] } } : Span).landOne a := by
  simp [Span.landDue, h, hland]

theorem State.checkDue_none {p cyc : Nat} {s : State} (h : (s.span p).dueChecks cyc = []) : s.checkDue p cyc = s := by
  rw [State.checkDue, h]; rfl

theorem Span.dueChecks_of_pairs {cyc : Nat} {x : Span} (h : x.cells.pairs = []) : x.dueChecks cyc = [] := by
  rw [Span.dueChecks, h]; rfl

/-- An addition that lands changes nothing of the cells. -/
@[simp] theorem Span.landOne_cells (a : Addition) (x : Span) : (x.landOne a).cells = x.cells := by
  have hinc (o n : Nat) (y : Span) : (y.inc o n).cells = y.cells := by
    obtain ⟨tr, cs, h⟩ := (Span.inc_kept o n y).kept
    rw [h]
  simp [Span.landOne, hinc]

/-- The check of the one pair that is due (R181). -/
theorem State.checkDue_one {p cyc at_ : Nat} {s : State} {q : PredPair} {d : Desc} (hpairs : (s.span p).cells.pairs = [q])
    (hfull : q.full = false) (hchecked : q.checked = false) (hlast : q.lastAt = some at_) (hat : at_ ≤ cyc)
    (hd : s.desc? q.di = some d) :
    s.checkDue p cyc = s.modSpan p (fun x =>
      let rows := x.flaggedRows d q
      { x.inc 0x304 rows.length with
        cells := { x.cells with pairs := [{ q with checked := true, flagged := rows }] }
        abt := { x.abt with checkUntil := max x.abt.checkUntil at_ + checkLines d q } }) := by
  have hdue : (s.span p).dueChecks cyc = [q] := by simp [Span.dueChecks, hpairs, hfull, hchecked, hlast, hat]
  rw [State.checkDue, hdue]
  simp [State.checkPair, hd, hlast, State.modSpan, hpairs]

/-- Where no addition is due, the landing stage writes the span back as it stands. -/
theorem State.modSpan_landDue_none {p cyc : Nat} {s : State} (h : ∀ a ∈ (s.span p).cells.inflight, cyc < a.land) :
    s.modSpan p (Span.landDue cyc) = s.setSpan p (s.span p) := by
  rw [State.modSpan, Span.landDue_none h]

/-! ### Contexts that waited for their drain (R101) -/

theorem exec_contextLoad_one {s0 s : State} {l : Fin 128} {p cyc k i : Nat} {e : AbtCtx} {d : Desc} (hs : s0.toCyc cyc = s)
    (hact : s.tick.active = true) (hp : s.phys? l.val = some p) (hctxs : (s.span p).abt.ctxs = [(k, e)])
    (hwait : e.waiting = some i) (hfree : (s.span p).ctxBusy k cyc = false) (hd : s.desc? i = some d) :
    exec (.contextLoad l cyc) s0 = .next (s.modSpan p (Span.loadCtx s.fixed s.tick.plan i d (cyc + 16)
      (decide ((s.span p).cells.layer = some i)) true)) := by
  show execContextLoad l cyc s0 = _
  simp [execContextLoad, hs, hact, hp, hctxs, hwait, hfree, hd]

/-! ### Additions that land: the outcome of the command, case by case -/

section
variable {s0 s : State} {l : Fin 128} {p cyc : Nat} (hs : s0.toCyc cyc = s) (hact : s.tick.active = true)
  (hp : s.phys? l.val = some p)
include hs hact hp

theorem exec_additionLanded_one {a : Addition} (hin : (s.span p).cells.inflight = [a]) (hpairs : (s.span p).cells.pairs = [])
    (hpoison : (s.span p).cells.poisonDue = false) (hland : a.land ≤ cyc) :
    exec (.additionLanded l cyc) s0
      = .next (s.modSpan p (fun x => ({ x with cells := { x.cells with inflight := [] } } : Span).landOne a)) := by
  have hone : s.modSpan p (Span.landDue cyc)
      = s.modSpan p (fun x => ({ x with cells := { x.cells with inflight := [] } } : Span).landOne a) := by
    simp only [State.modSpan, Span.landDue_one hin hland]
  rw [exec_additionLanded hs hact hp, hone, State.checkDue_none (by simpa using Span.dueChecks_of_pairs (by simpa using hpairs))]
  simp [hpoison]

theorem exec_additionLanded_none (hlater : ∀ a ∈ (s.span p).cells.inflight, cyc < a.land)
    (hchecks : (s.span p).dueChecks cyc = []) (hpoison : (s.span p).cells.poisonDue = false) :
    exec (.additionLanded l cyc) s0 = .next (s.setSpan p (s.span p)) := by
  rw [exec_additionLanded hs hact hp, State.modSpan_landDue_none hlater, State.checkDue_none (by simpa using hchecks)]
  simp [hpoison]

theorem exec_additionLanded_check {q : PredPair} {d : Desc} {at_ : Nat} (hin : (s.span p).cells.inflight = [])
    (hpairs : (s.span p).cells.pairs = [q]) (hpoison : (s.span p).cells.poisonDue = false) (hfull : q.full = false)
    (hchecked : q.checked = false) (hlast : q.lastAt = some at_) (hat : at_ ≤ cyc) (hd : s.desc? q.di = some d)
    (hphase : (s.span p).seq.phase ≠ 0) :
    exec (.additionLanded l cyc) s0 = .next (s.modSpan p (fun x =>
      let rows := x.flaggedRows d q
      { x.inc 0x304 rows.length with
        cells := { x.cells with pairs := [{ q with checked := true, flagged := rows }] }
        abt := { x.abt with checkUntil := max x.abt.checkUntil at_ + checkLines d q } })) := by
  have hd' : (s.setSpan p (s.span p)).desc? q.di = some d := hd
  rw [exec_additionLanded hs hact hp, State.modSpan_landDue_none (by simp [hin]),
    State.checkDue_one (by simpa using hpairs) hfull hchecked hlast hat hd']
  simp only [State.span_modSpan_same, State.span_setSpan_same, hpoison, Bool.false_and, Bool.false_eq_true, if_false]
  rw [State.modSpan, State.span_setSpan_same, State.setSpan_twice (Span.ne_idle hphase) (Span.ne_idle ?_)]
  · rfl
  · exact (Span.inc_seq 0x304 _ (s.span p)).symm ▸ hphase

theorem exec_additionLanded_poison (hin : (s.span p).cells.inflight = []) (hpairs : (s.span p).cells.pairs = [])
    (hpoison : (s.span p).cells.poisonDue = true) (hbusy : (s.span p).cells.busyUntil ≤ cyc) :
    exec (.additionLanded l cyc) s0 = .next ((s.setSpan p (s.span p)).breakTick .poison) := by
  rw [exec_additionLanded hs hact hp, State.modSpan_landDue_none (by simp [hin]),
    State.checkDue_none (by simpa using Span.dueChecks_of_pairs hpairs)]
  simp [hpoison, hbusy, hin]

end

/-- Settles O33: each clause is the outcome of its command in one case of what is due. -/
theorem tileSetsAdditionsAndContextsComplete : Obligations.TileSetsAdditionsAndContextsComplete := by
  unfold Obligations.TileSetsAdditionsAndContextsComplete
  intro s0 l p cyc s hact hp cells
  have hs : s0.toCyc cyc = s := rfl
  refine ⟨fun k b hbufs hdone hdue => ?_, exec_tloadDone_none hs hact hp, fun a hin hpairs hpoison hle => ?_,
    fun hlater hchecks hpoison _ => ?_, fun q d at_ => exec_additionLanded_check hs hact hp,
    fun hin hpairs hpoison hbusy _ => ?_, fun k e i d => exec_contextLoad_one hs hact hp⟩
  · intro y
    refine ⟨exec_tloadDone_one hs hact hp hbufs hdone hdue, fun c n hf hn => ?_⟩
    have hpy : y.phys? l.val = some p := hp
    refine (exec_tloadDone_one hs hact hp hbufs hdone hdue hf).trans (congrArg _ ?_)
    show y.ctrAdd cyc l.val c n = _
    simp only [State.ctrAdd, hpy, hn, if_false]
    rfl
  · rw [exec_additionLanded_one hs hact hp hin hpairs hpoison hle]
    rfl
  · exact ⟨_, exec_additionLanded_none hs hact hp hlater hchecks hpoison, State.span_setSpan_same _ _ _,
      fun k hk => State.span_setSpan_other hk _ _, rfl⟩
  · exact ⟨_, exec_additionLanded_poison hs hact hp hin hpairs hpoison hbusy, fun k => State.span_setSpan_self p k s, rfl⟩

end Sys2Proof.Machine
end

section
/-! PROOFS. The span instructions of the cells: LAYER, TLOAD, PGATE and AZERO (spec/03_span_arithmetic.md). -/

namespace Sys2Proof.Machine
open Sys2Proof

/-! ### Counting -/

/-- A span that has counted, and nothing more. -/
structure SpanCounted (a b : Span) : Prop where
  counted : ∃ cs, b = { a with counters := cs }

theorem SpanCounted.trans {a b c : Span} (h : SpanCounted a b) (k : SpanCounted b c) : SpanCounted a c := by
  obtain ⟨cs, rfl⟩ := h.counted
  obtain ⟨cs2, rfl⟩ := k.counted
  exact ⟨cs2, rfl⟩

theorem Span.inc_counted (o n : Nat) (x : Span) : SpanCounted x (x.inc o n) := by
  unfold Span.inc
  split
  · exact ⟨x.counters, rfl⟩
  · exact ⟨_, rfl⟩

theorem Span.readG_counted (gs : List Nat) (x : Span) : SpanCounted x (x.readG gs).2 := by
  unfold Span.readG Span.incBytes
  dsimp only
  split
  · exact ⟨x.counters, rfl⟩
  · exact ⟨_, rfl⟩

theorem Span.countDecode_counted (r : Decoded) (x : Span) : SpanCounted x (x.countDecode r) :=
  ((((Span.inc_counted _ _ _).trans (Span.inc_counted _ _ _)).trans (Span.inc_counted _ _ _)).trans
    (Span.inc_counted _ _ _)).trans (Span.inc_counted _ _ _)

/-! ### What an issued instruction finds -/

section
variable {s z : State} {i : Issue} {w : WaitGroup} {p : Nat} (h : Issued s i w p z)
include h

theorem Issued.kept : SeqKept (s.span p) (z.span p) := by
  obtain ⟨tr, cs, cl, hspan⟩ := h.issued
  exact ⟨tr, cs, by rw [hspan]⟩

theorem Issued.cells : (z.span p).cells = (s.span p).cells := by
  obtain ⟨tr, cs, hspan⟩ := h.kept.kept
  rw [hspan]

theorem Issued.desc? (n : Nat) : z.desc? n = s.desc? n := by
  rw [h.frame]; rfl

theorem Issued.fixed : z.fixed = s.fixed := by
  rw [h.frame]; rfl

theorem Issued.tick : z.tick = s.tick := by
  rw [h.frame]

theorem Issued.layer? : z.layer? p = s.layer? p := by
  unfold State.layer?
  rw [h.cells, funext h.desc?]

/-- Writing the issued span with its sequencer as issued is not past the program's end. -/
theorem Issued.setSpan_pastEnd (hpc : (s.span p).seq.pc < 4095) (ix : Ix) {x : Span} (hx : x.seq = (z.span p).seq) :
    (z.setSpan p x).pastEnd (s.ctxOf i p ix) = z.setSpan p x :=
  State.setSpan_pastEnd (c := s.ctxOf i p ix) (hx ▸ h.lastIssue) (by rw [hx, h.pc]; exact hpc) z

end

/-- An instruction that can issue acts on the issued state. -/
theorem exec_issues {s0 s : State} {i : Issue} {x : Instr} {op : Issue → Instr} {u : SpanUnit} {w : WaitGroup} {p : Nat} {ix : Ix}
    {more : Ctx → State → Option Why} {act : Ctx → State → State} (hx : exec x s0 = s0.present i op u w more act)
    (hs : s = s0.toCyc i.cyc) (h : Issuable s i (op (bareOf i)) u w p ix) (hm : more (s.ctxOf i p ix) s = none) :
    ∃ z, Issued s i w p z ∧ exec x s0 = .next ((act (s.ctxOf i p ix) z).pastEnd (s.ctxOf i p ix)) := by
  rw [hx]
  exact State.present_issues hs h hm act

/-! ### LAYER (R278) -/

theorem Span.askCtx_seq (fixed : Bool) (plan n : Nat) (d : Desc) (cyc : Nat) (x : Span) :
    (x.askCtx fixed plan n d cyc).seq = x.seq := by
  unfold Span.askCtx
  dsimp only
  split
  · rfl
  · split <;> rfl

section
variable {s0 s : State} {i : Issue} {p : Nat} {ix : Ix} (hs : s = s0.toCyc i.cyc) (hpc : (s.span p).seq.pc < 4095)
include hs

include hpc in
theorem exec_layer {desc : BitVec 12} {d : Desc} (h : Issuable s i (.layer (bareOf i) desc) .cells WaitGroup.none p ix)
    (hd : s.desc? (desc.toNat + ix.d) = some d) :
    ∃ z, Issued s i WaitGroup.none p z ∧ exec (.layer i desc) s0
      = .next (z.setSpan p (Span.askCtx s.fixed s.tick.plan (desc.toNat + ix.d) d i.cyc { z.span p with
          cells := { (s.span p).cells with layer := some (desc.toNat + ix.d), layerSeq := (s.span p).cells.layerSeq + 1,
                                           gated := false, decoded := [], running := [(i.cyc, 0, 0)], busyUntil := i.cyc + 1,
                                           overBusy := none } })) := by
  obtain ⟨z, hz, he⟩ := exec_issues (op := (.layer · desc))
    (show exec (.layer i desc) s0 = s0.present i _ _ _ noMore _ from rfl) hs h rfl
  refine ⟨z, hz, he.trans (congrArg _ ?_)⟩
  have hdz : z.desc? (desc.toNat + (s.ctxOf i p ix).ix.d) = some d := (hz.desc? _).trans hd
  simp only [hdz, hz.fixed, hz.tick]
  rw [← hz.cells]
  exact hz.setSpan_pastEnd hpc ix (Span.askCtx_seq ..)

/-! ### PGATE (R281) -/

include hpc in
theorem exec_pgate {w : WaitGroup} {d : Desc} (h : Issuable s i (.pgate (bareOf i) w) .cells w p ix)
    (hd : s.layer? p = some d) :
    ∃ z, Issued s i w p z
      ∧ (d.predEn = true → s.fixed = false → exec (.pgate i w) s0 = .next (z.setSpan p { z.span p with
          cells := { (s.span p).cells with gated := true, busyUntil := i.cyc + 1, overBusy := none } }))
      ∧ (d.predEn = false ∨ s.fixed = true → exec (.pgate i w) s0
          = .next ((z.faultAt (s.ctxOf i p ix) 0x06).pastEnd (s.ctxOf i p ix))) := by
  obtain ⟨z, hz, he⟩ := exec_issues (op := (.pgate · w))
    (show exec (.pgate i w) s0 = s0.present i _ _ _ noMore _ from rfl) hs h rfl
  have hdz : z.layer? (s.ctxOf i p ix).p = some d := hz.layer?.trans hd
  simp only [hdz] at he
  refine ⟨z, hz, fun hen hfix => ?_, fun hno => ?_⟩
  · rw [he, ← hz.cells]
    simp only [hen, hz.fixed, hfix, Bool.not_true, Bool.or_self, Bool.false_eq_true, if_false]
    exact congrArg _ (hz.setSpan_pastEnd hpc ix rfl)
  · have hcond : (!d.predEn || z.fixed) = true := by rw [hz.fixed]; rcases hno with h | h <;> simp [h]
    rw [he, if_pos hcond]

/-! ### AZERO (R282) -/

include hpc in
theorem exec_azero {line0 : BitVec 12} {nlines : BitVec 13} {d : Desc}
    (h : Issuable s i (.azero (bareOf i) line0 nlines) .cells WaitGroup.none p ix) (hd : s.layer? p = some d)
    (hrange : line0.toNat + ix.l + nlines.toNat ≤ 4096) :
    ∃ z, Issued s i WaitGroup.none p z
      ∧ exec (.azero i line0 nlines) s0 = .next (z.setSpan p { z.span p with
          lines := (s.span p).lines.filter (fun e => !(decide (line0.toNat + ix.l ≤ e.1)
            && decide (e.1 < line0.toNat + ix.l + nlines.toNat)))
          cells := { (s.span p).cells with
            busyUntil := i.cyc + cdiv nlines.toNat 16, overBusy := none
            zeroing := some (line0.toNat + ix.l, nlines.toNat, i.cyc + cdiv nlines.toNat 16) } }) := by
  obtain ⟨z, hz, he⟩ := exec_issues (op := (.azero · line0 nlines))
    (show exec (.azero i line0 nlines) s0 = s0.present i _ _ _ noMore _ from rfl) hs h rfl
  refine ⟨z, hz, he.trans (congrArg _ ?_)⟩
  have hdz : z.layer? (s.ctxOf i p ix).p = some d := hz.layer?.trans hd
  have hin : ¬ line0.toNat + (s.ctxOf i p ix).ix.l + nlines.toNat > 4096 := Nat.not_lt.2 hrange
  have hlines : (z.span p).lines = (s.span p).lines := by
    obtain ⟨tr, cs, hspan⟩ := hz.kept.kept
    rw [hspan]
  simp only [hdz, hin, Option.isNone_some, Bool.false_eq_true, if_false]
  rw [← hz.cells, ← hlines]
  exact hz.setSpan_pastEnd hpc ix rfl

end

/-! ### TLOAD (R279, R94) -/

theorem SeqKept.setGranules {a b : Span} (h : SeqKept a b) (ix : Ix) (src : Nat) (t : TilePlace) :
    b.setGranules ix src t = a.setGranules ix src t := by
  obtain ⟨tr, cs, hb⟩ := h.kept
  rw [hb]
  rfl

theorem SeqKept.decodeSet {a b : Span} (h : SeqKept a b) (gs : List Nat) (t : TilePlace) :
    b.decodeSet gs t = a.decodeSet gs t := by
  obtain ⟨tr, cs, hb⟩ := h.kept
  rw [hb]
  rfl

/-- A tile set that fills the idle buffers of the cells, which become those that the next run reads. -/
def CellUnit.fill (n : Nat) (gs : List Nat) (b : TileBuf) (c : CellUnit) : CellUnit :=
  { c with nextBuf := 1 - c.nextBuf, decoded := kins c.decoded n gs, bufs := kins c.bufs c.nextBuf b }

/-- A TLOAD of a set that has cells: counters move, the set fills the idle buffers, and poison in it is reported. -/
theorem tloadAct_fills {c : Ctx} {s : State} {d : Desc} {di src tset : Nat} {gs : List Nat} {fctr : Option Nat} (deck : DeckUse)
    {r : Decoded} {raise : Option (Nat × Nat)}
    (hlayer : s.layer? c.p = some d) (hdi : (s.span c.p).cells.layer = some di)
    (hgs : (s.span c.p).setGranules c.ix src (d.placeOf (tset + c.ix.d)) = some gs)
    (hne : (d.placeOf (tset + c.ix.d)).cells ≠ [])
    (hr : (s.span c.p).decodeSet gs (d.placeOf (tset + c.ix.d)) = r) (hraise : fctr.map (fun f => (f, gs.length)) = raise) :
    let n := tset + c.ix.d
    let t := d.placeOf n
    let x := s.span c.p
    let b : TileBuf := { desc := di, tset := n, src := src, tiles := r.tiles,
                         doneAt := c.cyc + 4 * t.cells.length + deckDelay deck, done := false, readUntil := 0,
                         fctr := raise, poisoned := decide (0 < r.poisoned) }
    ∃ y, SpanCounted { x with cells := x.cells.fill n gs b } y ∧
      let v := s.setSpan c.p y
      tloadAct src tset fctr deck c s = (if r.poisoned = 0 then v
        else if gs.any (fun g => x.flitPoison.contains g) then v.flitFault c.l c.p
        else v.weightPoison c.l c.p d n).deckUse c.l c.p deck := by
  subst hraise
  intro n t x b
  have hlen : t.cells.length ≠ 0 := fun h => hne (List.eq_nil_of_length_eq_zero h)
  obtain ⟨cs, hcs⟩ := (((Span.readG_counted gs x).trans (Span.countDecode_counted r _)).trans
    (Span.inc_counted 0x250 (bit (x.cells.decoded.any (fun e => decide (e.1 = n)))) _)).counted
  refine ⟨{ x with cells := x.cells.fill n gs b, counters := cs }, ⟨cs, rfl⟩, ?_⟩
  unfold tloadAct
  simp only [hlayer, hdi, hgs, hr]
  rw [hcs]
  have hlen' : (d.placeOf (tset + c.ix.d)).cells.length ≠ 0 := hlen
  cases fctr <;> simp only [hlen', decide_false, if_false] <;> rfl

section
variable {s0 s : State} {i : Issue} {p : Nat} {ix : Ix} (hs : s = s0.toCyc i.cyc)
include hs

theorem exec_tload {w : WaitGroup} {src : BitVec 17} {tset : BitVec 15} {fen : Bool} {fctr : BitVec 5} {deck : DeckUse} {d : Desc}
    {di : Nat} {gs : List Nat} (h : Issuable s i (.tload (bareOf i) w src tset fen fctr .clean) .decoder w p ix)
    (hread : bufferRead (s.ctxOf i p ix) s = none) (hlayer : s.layer? p = some d) (hdi : (s.span p).cells.layer = some di)
    (hgs : (s.span p).setGranules ix src.toNat (d.placeOf (tset.toNat + ix.d)) = some gs)
    (hne : (d.placeOf (tset.toNat + ix.d)).cells ≠ []) :
    let n := tset.toNat + ix.d
    let t := d.placeOf n
    let r := (s.span p).decodeSet gs t
    let b : TileBuf := { desc := di, tset := n, src := src.toNat, tiles := r.tiles,
                         doneAt := i.cyc + 4 * t.cells.length + deckDelay deck, done := false, readUntil := 0,
                         fctr := if fen then some (fctr.toNat, gs.length) else none, poisoned := decide (0 < r.poisoned) }
    ∃ z x, Issued s i w p z ∧ SpanCounted { z.span p with cells := (s.span p).cells.fill n gs b } x ∧
      let y := z.setSpan p x
      let v : State := if r.poisoned = 0 then y
        else if gs.any (fun g => (s.span p).flitPoison.contains g) then y.flitFault i.l.val p else y.weightPoison i.l.val p d n
      exec (.tload i w src tset fen fctr deck) s0 = .next ((v.deckUse i.l.val p deck).pastEnd (s.ctxOf i p ix)) := by
  intro n t r b
  obtain ⟨z, hz, he⟩ := exec_issues (op := (.tload · w src tset fen fctr .clean))
    (show exec (.tload i w src tset fen fctr deck) s0 = s0.present i _ _ _ bufferRead _ from rfl) hs h hread
  obtain ⟨y, hy, hact⟩ := tloadAct_fills (c := s.ctxOf i p ix) (fctr := if fen then some fctr.toNat else none) deck
    (hz.layer?.trans hlayer) (hz.cells ▸ hdi) ((hz.kept.setGranules ..).trans hgs) hne (hz.kept.decodeSet ..)
    (show _ = (if fen then some (fctr.toNat, gs.length) else none) by cases fen <;> rfl)
  have hflit : (z.span p).flitPoison = (s.span p).flitPoison := by
    obtain ⟨tr, cs, hspan⟩ := hz.kept.kept
    rw [hspan]
  refine ⟨z, y, hz, hz.cells ▸ hy, he.trans (congrArg _ ?_)⟩
  rw [hact, ← hflit]
  rfl

end

/-- Settles O26: one lemma an instruction. -/
theorem cellInstructionsAct : Obligations.CellInstructionsAct := by
  unfold Obligations.CellInstructionsAct
  intro s0 i p ix s hpc
  refine ⟨fun desc d => exec_layer rfl hpc, fun w src tset fen fctr deck d di gs hiss hread hlayer hdi => ?_,
    fun w d => exec_pgate rfl hpc, fun line0 nlines d => exec_azero rfl hpc⟩
  intro n t hgs hne r
  obtain ⟨z, x, hz, hx, he⟩ := exec_tload rfl hiss hread hlayer hdi hgs hne (deck := deck)
  obtain ⟨cs, rfl⟩ := hx.counted
  obtain ⟨tr, cs2, hspan⟩ := hz.kept.kept
  refine ⟨z, _, hz, he, rfl, ?_, ?_, ?_, rfl⟩ <;> rw [hspan]

end Sys2Proof.Machine
end

section
/-! PROOFS. PRUN, LRUN and TRUN: the case of the run, and what each case does (spec/03_span_arithmetic.md). -/

namespace Sys2Proof.Machine
open Sys2Proof

/-! ### What an issued run finds -/

theorem SeqKept.runFeeds {a b : Span} (h : SeqKept a b) (r : RunCtx) (ix : Ix) (args : RunArgs) :
    b.runFeeds r ix args = a.runFeeds r ix args := by
  obtain ⟨tr, cs, hb⟩ := h.kept
  rw [hb]
  rfl

section
variable {s z : State} {i : Issue} {w : WaitGroup} {p : Nat} (h : Issued s i w p z)
include h

theorem Issued.predicted (d : Desc) : z.predicted d = s.predicted d := by
  unfold State.predicted
  rw [h.fixed]

theorem Issued.seqList : z.seqList p = s.seqList p := by
  have hblist : (z.span p).seq.blist = (s.span p).seq.blist := by
    obtain ⟨tr, cs, cl, hspan⟩ := h.issued
    rw [hspan]
  unfold State.seqList
  rw [hblist, h.tick]

theorem Issued.badList (ks : List Nat) : z.badList p ks = s.badList p ks := by
  unfold State.badList
  rw [h.seqList, h.tick]

theorem Issued.runCtx? (a : RunArgs) {c : Ctx} (hc : c.p = p) : z.runCtx? a c = s.runCtx? a c := by
  subst hc
  simp only [State.runCtx?, State.positions, h.layer?, h.cells, h.seqList]

end

/-! ### The cases of a run (R280) -/

/-- A run that nothing refuses, with the feeds of its positions: its pairs are entered, its sequences run one after the other, and
their additions are in flight. -/
def State.feedRun (s : State) (mode : Nat) (a : RunArgs) (deck : DeckUse) (c : Ctx) (d : Desc) (r : RunCtx) (fs : List RunFeed) :
    State :=
  let y := s.modSpan c.p (fun x =>
    if s.predicted d then r.ks.foldl (fun (x : Span) (k : Nat) => x.enterPair c.ix a d r.seq0 r.ks.length r.t.v k) x else x)
  let fix := if mode = 1 then 4 else 0
  let q := y.seqRuns c r (s.predicted d) (c.cyc + fix) fs
  ((q.2.modSpan c.p (Span.issueRun r q.1 c.cyc fix (deckDelay deck))).deckUse c.l c.p deck).checkPoison c.l c.p
    (q.1.flatMap (·.granules))

section
variable {mode : Nat} {a : RunArgs} {c : Ctx} {s : State} {d : Desc} {r : RunCtx} {fs : List RunFeed} (deck : DeckUse)
  (hlayer : s.layer? c.p = some d)
include hlayer

theorem runAct_wrongMode (hmode : d.cmode ≠ mode) : runAct mode a deck c s = s.faultAt c 0x06 := by
  simp only [runAct, hlayer, hmode, ne_eq, not_false_eq_true, if_true]

theorem runAct_notGated (hmode : d.cmode = mode) (hpred : s.predicted d = true) (hgate : (s.span c.p).cells.gated = false) :
    runAct mode a deck c s = s.faultAt c 0x07 := by
  simp [runAct, hlayer, hmode, hpred, hgate]

variable (hmode : d.cmode = mode) (hgo : s.predicted d = false ∨ (s.span c.p).cells.gated = true)
  (hctx : s.runCtx? a c = some r)
include hmode hgo hctx

/-- A run that its layer lets go: the rest of `runAct`. -/
theorem runAct_released : runAct mode a deck c s =
    if r.ks.isEmpty then s.modSpan c.p (fun x => { x with cells := { x.cells with busyUntil := c.cyc + 1, overBusy := none } })
    else if s.badList c.p r.ks then s.faultAt c 0x0B
    else if r.lines.any (fun ln => decide (4095 < ln)) then s.faultAt c 0x04
    else ((s.span c.p).runFeeds r c.ix a).elim (s.faultAt c 0x03) (s.feedRun mode a deck c d r) := by
  have hgate : (s.predicted d && !(s.span c.p).cells.gated) = false := by rcases hgo with h | h <;> simp [h]
  have hmode' : ¬ d.cmode ≠ mode := fun h => h hmode
  unfold runAct
  simp only [hlayer, hmode', hgate, hctx, if_false, Bool.false_eq_true]
  cases (s.span c.p).runFeeds r c.ix a <;> rfl

theorem runAct_empty (hks : r.ks = []) : runAct mode a deck c s
    = s.modSpan c.p (fun x => { x with cells := { x.cells with busyUntil := c.cyc + 1, overBusy := none } }) := by
  rw [runAct_released deck hlayer hmode hgo hctx, hks]
  rfl

variable (hks : r.ks ≠ [])
include hks

theorem runAct_badList (hbad : s.badList c.p r.ks = true) : runAct mode a deck c s = s.faultAt c 0x0B := by
  rw [runAct_released deck hlayer hmode hgo hctx]
  simp [hks, hbad]

variable (hlist : s.badList c.p r.ks = false)
include hlist

theorem runAct_badLine (hline : ∃ ln ∈ r.lines, 4095 < ln) : runAct mode a deck c s = s.faultAt c 0x04 := by
  rw [runAct_released deck hlayer hmode hgo hctx]
  simp [hks, hlist, hline]

variable (hlines : ∀ ln ∈ r.lines, ln ≤ 4095)
include hlines

theorem runAct_feeds : runAct mode a deck c s =
    ((s.span c.p).runFeeds r c.ix a).elim (s.faultAt c 0x03) (s.feedRun mode a deck c d r) := by
  have hany : r.lines.any (fun ln => decide (4095 < ln)) = false := by simpa using hlines
  rw [runAct_released deck hlayer hmode hgo hctx]
  simp only [List.isEmpty_eq_false_iff.2 hks, hlist, hany, Bool.false_eq_true, if_false]

end

/-! ### The commands -/

/-- PRUN, LRUN and TRUN present the run of their cell mode. -/
theorem exec_run {s0 s : State} {i : Issue} {w : WaitGroup} {a : RunArgs} {deck : DeckUse} {p : Nat} {ix : Ix} {m : Nat}
    {x b : Instr} (hx : (m = 0 ∧ x = .prun i w a deck ∧ b = .prun (bareOf i) w a .clean)
      ∨ (m = 1 ∧ x = .lrun i w a deck ∧ b = .lrun (bareOf i) w a .clean)
      ∨ (m = 2 ∧ x = .trun i w a deck ∧ b = .trun (bareOf i) w a .clean))
    (hs : s = s0.toCyc i.cyc) (h : Issuable s i b .cells w p ix) (hhaz : runHazards a (s.ctxOf i p ix) s = none) :
    ∃ z, Issued s i w p z
      ∧ exec x s0 = .next ((runAct m a deck (s.ctxOf i p ix) z).pastEnd (s.ctxOf i p ix)) := by
  obtain ⟨rfl, rfl, rfl⟩ | ⟨rfl, rfl, rfl⟩ | ⟨rfl, rfl, rfl⟩ := hx
  · exact exec_issues (op := (.prun · w a .clean)) (more := runHazards a) (act := runAct 0 a deck) rfl hs h hhaz
  · exact exec_issues (op := (.lrun · w a .clean)) (more := runHazards a) (act := runAct 1 a deck) rfl hs h hhaz
  · exact exec_issues (op := (.trun · w a .clean)) (more := runHazards a) (act := runAct 2 a deck) rfl hs h hhaz

/-- Settles O27: the issued state gives each case of the run the same premises as the state before. -/
theorem runsFeedTheirPositions : Obligations.RunsFeedTheirPositions := by
  unfold Obligations.RunsFeedTheirPositions
  intro s0 i w a deck p ix m x b d hx s c hiss hhaz hlayer
  obtain ⟨z, hz, he⟩ := exec_run hx rfl hiss hhaz
  have hlz : z.layer? c.p = some d := hz.layer?.trans hlayer
  refine ⟨z, hz, fun hmode => ?_, fun hmode hpred hgate => ?_, fun r hmode hgo hctx => ?_⟩
  · rw [he, runAct_wrongMode deck hlz hmode]
  · rw [he, runAct_notGated deck hlz hmode ((hz.predicted d).trans hpred) ((congrArg _ hz.cells).trans hgate)]
  have hgoz : z.predicted d = false ∨ (z.span c.p).cells.gated = true :=
    hgo.imp (hz.predicted d).trans (congrArg CellUnit.gated hz.cells).trans
  have hctxz : z.runCtx? a c = some r := (hz.runCtx? a rfl).trans hctx
  refine ⟨fun hks => ?_, fun hks hbad => ?_, fun hks hlist hline => ?_, fun hks hlist hlines => ?_⟩
  · rw [he, runAct_empty deck hlz hmode hgoz hctxz hks, ← hz.cells]
    rfl
  · rw [he, runAct_badList deck hlz hmode hgoz hctxz hks ((hz.badList _).trans hbad)]
  · rw [he, runAct_badLine deck hlz hmode hgoz hctxz hks ((hz.badList _).trans hlist) hline]
  · rw [he, runAct_feeds deck hlz hmode hgoz hctxz hks ((hz.badList _).trans hlist) hlines]
    refine ⟨fun hfeeds => ?_, fun fs hfeeds => ?_⟩
    · rw [show (z.span c.p).runFeeds r c.ix a = none from (hz.kept.runFeeds ..).trans hfeeds]
      rfl
    · rw [show (z.span c.p).runFeeds r c.ix a = some fs from (hz.kept.runFeeds ..).trans hfeeds, ← hz.predicted d]
      rfl

end Sys2Proof.Machine
end

section
/-! PROOFS. What a run leaves of its span and of the state (spec/03_span_arithmetic.md). -/

namespace Sys2Proof.Machine
open Sys2Proof

/-! ### The issue of a run (R90, R280) -/

/-- Marking the pairs whose last pass a run is keeps them and their order. -/
theorem RunCtx.ending_pos (r : RunCtx) (layerSeq : Nat) (qs : List SeqRun) (pairs : List PredPair) :
    (r.ending layerSeq qs pairs).map (·.pos) = pairs.map (·.pos) := by
  unfold RunCtx.ending
  split
  · rfl
  · rw [List.map_map]
    refine List.map_congr_left fun q _ => ?_
    simp only [Function.comp_apply]
    split
    · split <;> rfl
    · rfl

/-- Of the span, a run changes the cells and the counters; the cells get its additions, its time and its tile set. -/
theorem Span.issueRun_frame (r : RunCtx) (qs : List SeqRun) (cyc fix delay : Nat) (x : Span) :
    ∃ bufs why poison, SpanCounted { x with cells := { x.cells with
        busyUntil := cyc + max 1 (fix + (qs.map (·.cycles)).sum + (qs.map (·.overflow)).sum + delay), overBusy := why, bufs := bufs
        inflight := x.cells.inflight ++ qs.flatMap (·.adds), pairs := r.ending x.cells.layerSeq qs x.cells.pairs
        running := [(cyc, r.tset, r.t.e)], poisonDue := poison } } (x.issueRun r qs cyc fix delay) :=
  ⟨_, _, _, (((((Span.readG_counted _ _).trans (Span.inc_counted _ _ _)).trans (Span.inc_counted _ _ _)).trans
    (Span.inc_counted _ _ _)).trans (Span.inc_counted _ _ _)).trans (Span.inc_counted _ _ _)⟩

/-! ### The banks' entries (R191 to R193, R236) -/

/-- A state in which triggers may have fired, and nothing more. -/
structure Triggered (s u : State) : Prop where
  frame : u = { s with regs := u.regs, obs := u.obs }

theorem Triggered.trans {s u v : State} (h : Triggered s u) (k : Triggered u v) : Triggered s v := by
  have hk := k.frame
  rw [h.frame] at hk
  exact ⟨by rw [hk]⟩

theorem State.takeSnapshot_triggered (cause : Nat) (s : State) : Triggered s (s.takeSnapshot cause) := by
  unfold State.takeSnapshot
  split <;> exact ⟨rfl⟩

theorem State.fireTrigger_triggered (cause : Nat) (s : State) : Triggered s (s.fireTrigger cause) := by
  unfold State.fireTrigger
  split
  · exact ⟨rfl⟩
  · dsimp only
    split
    · exact Triggered.trans ⟨rfl⟩ (State.takeSnapshot_triggered 1 _)
    · exact ⟨rfl⟩

theorem State.triggerAt_triggered (l b cause : Nat) (s : State) : Triggered s (s.triggerAt l b cause) := by
  unfold State.triggerAt
  split
  · exact State.fireTrigger_triggered cause s
  · exact ⟨rfl⟩

/-- What the banks' entries and a refused cost leave of a span: its trace, its counters, the entries counted and the costs taken
change, and nothing more. -/
structure BankSpan (a b : Span) : Prop where
  kept : ∃ tr cs ap n, b = { a with trace := tr, counters := cs, applied := ap, cells := { a.cells with refusable := n } }

theorem BankSpan.refl (a : Span) : BankSpan a a := ⟨a.trace, a.counters, a.applied, a.cells.refusable, rfl⟩

theorem BankSpan.trans {a b c : Span} (h : BankSpan a b) (k : BankSpan b c) : BankSpan a c := by
  obtain ⟨tr, cs, ap, n, rfl⟩ := h.kept
  obtain ⟨tr2, cs2, ap2, n2, rfl⟩ := k.kept
  exact ⟨tr2, cs2, ap2, n2, rfl⟩

theorem Span.inc_bank (o n : Nat) (x : Span) : BankSpan x (x.inc o n) := by
  obtain ⟨cs, h⟩ := (Span.inc_counted o n x).counted
  exact ⟨x.trace, cs, x.applied, x.cells.refusable, h⟩

theorem Span.trace_bank (now tick l p type : Nat) (arg : List Byte) (x : Span) : BankSpan x (x.trace_ now tick l p type arg) := by
  obtain ⟨tr, cs, h⟩ := (Span.trace_kept now tick l p type arg x).kept
  exact ⟨tr, cs, x.applied, x.cells.refusable, by rw [h, Span.trace_seq]⟩

/-- What the banks' entries and a refused cost leave of the state. -/
structure BankState (s u : State) : Prop where
  frame : u = { s with spans := u.spans, tick := u.tick, regs := u.regs, obs := u.obs }
  spans : ∀ k, BankSpan (s.span k) (u.span k)

theorem BankState.refl (s : State) : BankState s s := ⟨rfl, fun _ => .refl _⟩

theorem BankState.trans {s u v : State} (h : BankState s u) (k : BankState u v) : BankState s v := by
  refine ⟨?_, fun j => (h.spans j).trans (k.spans j)⟩
  have hk := k.frame
  rw [h.frame] at hk
  rw [hk]

/-- A change of one span. -/
theorem State.modSpan_bank {f : Span → Span} (hf : ∀ x, BankSpan x (f x)) (p : Nat) (s : State) : BankState s (s.modSpan p f) := by
  refine ⟨rfl, fun k => ?_⟩
  by_cases h : k = p
  · subst h
    rw [State.span_modSpan_same]
    exact hf _
  · rw [State.span_modSpan_other h]
    exact .refl _

/-- A change that no span sees. -/
theorem BankState.of_spans {s u : State} (h : u = { s with tick := u.tick, regs := u.regs, obs := u.obs }) : BankState s u := by
  refine ⟨by rw [h], fun k => ?_⟩
  rw [show u.span k = s.span k by rw [h]; rfl]
  exact .refl _

theorem Triggered.bank {s u : State} (h : Triggered s u) : BankState s u := .of_spans (by rw [h.frame])

theorem State.trace_bank (l type : Nat) (arg : List Byte) (s : State) : BankState s (s.trace l type arg) := by
  unfold State.trace
  split
  · exact .refl s
  · exact State.modSpan_bank (Span.trace_bank _ _ _ _ _ _) _ s

theorem State.refuse_bank (l cls slot cost : Nat) (s : State) : BankState s (s.refuse l cls slot cost) := by
  have htick : BankState s { s with tick := { s.tick with refused := true } } := .of_spans rfl
  exact (htick.trans (State.trace_bank ..)).trans (State.triggerAt_triggered ..).bank

theorem State.pay_bank (l p cls slot cost : Nat) (s : State) : BankState s (s.pay l p cls slot cost).2 := by
  unfold State.pay
  dsimp only
  split
  · exact State.modSpan_bank (fun x => ⟨x.trace, x.counters, x.applied, _, rfl⟩) p s
  · exact State.refuse_bank ..

theorem State.loseEntry_bank (p slot : Nat) (s : State) : BankState s (s.loseEntry p slot) :=
  (State.modSpan_bank (Span.inc_bank 0x328 1) p s).trans (.of_spans rfl)

theorem State.countEntry_bank (l p di : Nat) (d : Desc) (line slot : Nat) (s : State) :
    BankState s (s.countEntry l p di d line slot).2 := by
  unfold State.countEntry
  extract_lets key n beyond r
  have hr : BankState s r.2 := by
    unfold r
    split
    · exact (State.modSpan_bank (Span.inc_bank 0x320 1) p s).trans (State.pay_bank ..)
    · exact .refl s
  split
  · have hcount (x : Span) : BankSpan x (({ x with applied := kset 0 x.applied key n } : Span).inc 0x318 1) :=
      BankSpan.trans ⟨x.trace, x.counters, _, x.cells.refusable, rfl⟩ (Span.inc_bank 0x318 1 _)
    exact hr.trans (State.modSpan_bank hcount p r.2)
  · exact hr.trans (State.loseEntry_bank p slot r.2)

/-! ### The sequences of a run -/

/-- A fold keeps what each of its steps keeps. -/
theorem BankState.foldl {α β : Type} (f : α × State → β → α × State) (hf : ∀ acc b, BankState acc.2 (f acc b).2) (l : List β)
    (acc : α × State) : BankState acc.2 (l.foldl f acc).2 := by
  induction l generalizing acc with
  | nil => exact .refl _
  | cons b l ih => exact (hf acc b).trans (ih (f acc b))

theorem State.tapRun_bank (l p : Nat) (r : RunCtx) (k : Nat) (f : PassFeed) (taps : List (Nat × Nat × BitVec 16 × Bool))
    (s : State) : BankState s (s.tapRun l p r k f taps).2 := by
  unfold State.tapRun
  extract_lets depth slot
  refine BankState.foldl _ (fun acc e => BankState.foldl _ (fun acc y => ?_) (rowPositions depth r.tiles) acc) taps (_, s)
  dsimp only
  split
  · exact .refl _
  · split
    · exact State.modSpan_bank (Span.inc_bank 0x324 1) p acc.2
    · split
      · exact State.countEntry_bank ..
      · exact State.countEntry_bank ..

theorem RunCtx.seqRun_pos (r : RunCtx) (x : Span) (predicted : Bool) (at_ k : Nat) (f : PassFeed) (t : TapRun) :
    (r.seqRun x predicted at_ k f t).pos = k := by
  unfold RunCtx.seqRun
  split
  · rfl
  · split <;> rfl

/-- A fold each of whose steps adds one element collects the list's. -/
theorem foldl_collects {α β γ : Type} {f : α → β → α} (g : α → List γ) (h : β → γ)
    (hf : ∀ acc b, g (f acc b) = g acc ++ [h b]) (l : List β) (acc : α) : g (l.foldl f acc) = g acc ++ l.map h := by
  induction l generalizing acc with
  | nil => simp
  | cons b l ih => rw [List.foldl_cons, ih, hf, List.append_assoc]; rfl

/-- The sequences of a run: one for each position, in their order. -/
theorem State.seqRuns_pos (c : Ctx) (r : RunCtx) (predicted : Bool) (at_ : Nat) (fs : List RunFeed) (s : State) :
    (s.seqRuns c r predicted at_ fs).1.map (·.pos) = fs.map (·.1) := by
  unfold State.seqRuns
  refine foldl_collects (fun acc : (List SeqRun × Nat) × State => acc.1.1.map (·.pos)) (·.1) (fun acc kf => ?_) fs _
  dsimp only
  rw [List.map_append, List.map_singleton, RunCtx.seqRun_pos]

theorem State.seqRuns_bank (c : Ctx) (r : RunCtx) (predicted : Bool) (at_ : Nat) (fs : List RunFeed) (s : State) :
    BankState s (s.seqRuns c r predicted at_ fs).2 := by
  unfold State.seqRuns
  refine BankState.foldl _ (fun acc kf => ?_) fs (([], at_), s)
  exact State.tapRun_bank ..

/-- Settles O28: the issue of a run by its frame, the sequences by what each of their steps keeps of every span. -/
theorem runsOnlyAddToLines : Obligations.RunsOnlyAddToLines := by
  unfold Obligations.RunsOnlyAddToLines
  refine ⟨fun r qs cyc fix delay x => ?_, fun c r predicted at_ fs s => ?_⟩
  · obtain ⟨bufs, why, poison, hrun⟩ := Span.issueRun_frame r qs cyc fix delay x
    obtain ⟨cs, hrun⟩ := hrun.counted
    intro y
    have hy : y = _ := hrun
    rw [hy]
    refine ⟨rfl, ?_, rfl, ?_, rfl, rfl, rfl, rfl, rfl, rfl, rfl, rfl, RunCtx.ending_pos ..⟩ <;> dsimp only <;> omega
  · have hbank := State.seqRuns_bank c r predicted at_ fs s
    intro u
    have hframe : u = _ := hbank.frame
    refine ⟨State.seqRuns_pos .., fun k => ?_, ?_⟩
    · obtain ⟨tr, cs, ap, n, hspan⟩ := (hbank.spans k).kept
      have hk : u.span k = _ := hspan
      rw [hk]
      exact ⟨rfl, rfl, rfl, rfl, rfl, rfl⟩
    · rw [hframe]
      exact ⟨rfl, rfl, rfl, rfl, rfl⟩

end Sys2Proof.Machine
end

section
/-! PROOFS. Expansion joints: a span's arrival and a joint's release (spec/03_span_arithmetic.md). -/

namespace Sys2Proof.Machine
open Sys2Proof

/-! ### Lateness by class (R297) -/

theorem LateClasses.rise_sum (k : DebitClass) (n : Nat) (c : LateClasses) : (c.rise k n).sum = c.sum + n := by
  cases k <;> simp only [LateClasses.rise, LateClasses.sum] <;> omega

/-- What a class cannot take of a fall, the classes before it take. -/
theorem fall_step (r d n : Nat) : r - (d - min d n) + (n - min d n) = r + n - d := by omega

theorem LateClasses.fall_sum {late : Nat} {c : LateClasses} (h : late ≤ c.sum) : (c.fall late).sum = late := by
  have hsum : (c.fall late).sum = c.sum - (c.sum - late) := by simp only [LateClasses.fall, LateClasses.sum, fall_step]
  rw [hsum, Nat.sub_sub_self h]

/-- The classes of a span that becomes `late` sum to its lateness. -/
theorem LateClasses.become_sum (late : Nat) (k : DebitClass) (c : LateClasses) : (c.become late k).sum = late := by
  unfold LateClasses.become
  split
  · rw [LateClasses.rise_sum]; omega
  · exact LateClasses.fall_sum (by omega)

theorem LateClasses.list_sum (c : LateClasses) : c.list.sum = c.sum := by
  simp only [LateClasses.list, LateClasses.sum, List.sum_cons, List.sum_nil]
  omega

/-! ### Windows that close at a phase joint -/

theorem kfind?_foldl_kdel_none {α : Type} (ks : List Nat) {m : List (Nat × α)} {j : Nat} (h : kfind? m j = none) :
    kfind? (ks.foldl kdel m) j = none := by
  induction ks generalizing m with
  | nil => exact h
  | cons k ks ih =>
    refine ih ?_
    by_cases hk : j = k
    · rw [hk]; exact kfind?_kdel_same m k
    · rw [kfind?_kdel_other m hk]; exact h

theorem kfind?_foldl_kdel_mem {α : Type} {ks : List Nat} {j : Nat} (hj : j ∈ ks) (m : List (Nat × α)) :
    kfind? (ks.foldl kdel m) j = none := by
  induction ks generalizing m with
  | nil => cases hj
  | cons k ks ih =>
    rcases List.mem_cons.1 hj with rfl | h
    · exact kfind?_foldl_kdel_none ks (kfind?_kdel_same m j)
    · exact ih h _

/-- A state in which windows `ws` of span `p` have been closed, and nothing more. -/
structure WindowsClosed (p : Nat) (ws : List Nat) (s u : State) : Prop where
  frame : u = { s with spans := u.spans, landings := u.landings, tick := { s.tick with landings := u.tick.landings } }
  others : ∀ k, k ≠ p → u.span k = s.span k
  span : u.span p = { s.span p with seq := { (s.span p).seq with windows := ws.foldl kdel (s.span p).seq.windows } }

theorem State.closeWindow_span (l p w k : Nat) (s : State) : (s.closeWindow l p w).span k
    = (s.modSpan p (fun x => { x with seq := { x.seq with windows := kdel x.seq.windows w } })).span k := rfl

theorem State.closeWindows_closed (l p : Nat) (ws : List Nat) (s : State) :
    WindowsClosed p ws s (ws.foldl (fun (s : State) (w : Nat) => s.closeWindow l p w) s) := by
  induction ws generalizing s with
  | nil => exact ⟨rfl, fun _ _ => rfl, rfl⟩
  | cons w ws ih =>
    obtain ⟨hframe, hothers, hspan⟩ := ih (s.closeWindow l p w)
    rw [List.foldl_cons]
    refine ⟨hframe, fun k hk => ?_, ?_⟩
    · rw [hothers k hk, State.closeWindow_span, State.span_modSpan_other hk]
    · rw [hspan, State.closeWindow_span, State.span_modSpan_same]
      rfl

/-! ### Arrival (R296) -/

theorem State.arrivedNow_iff (s : State) (l p cyc : Nat) (phase : Bool) : s.arrivedNow l p cyc phase = true ↔
    (s.span p).unitsDone cyc = true ∧ s.outDone l = true ∧ s.scatterDone l (s.span p) = true
      ∧ (phase = true → (s.span p).streamsDone = true) ∧ ∀ k, (s.span p).seq.lastIssue = some k → k ≤ cyc := by
  unfold State.arrivedNow
  have hphase : (!phase || (s.span p).streamsDone) = true ↔ (phase = true → (s.span p).streamsDone = true) := by
    cases phase <;> simp
  cases hlast : (s.span p).seq.lastIssue <;> simp [hlast, hphase, and_assoc]

/-- A span that stands at joint `j` from cycle `cyc` on, with its lateness by class. -/
def Span.standAt (j cyc : Nat) (c : LateClasses) (x : Span) : Span :=
  { x with seq := { x.seq with classes := c, jointAt := none, arrived := some (j, cyc), earlyTo := cyc, waitFrom := none } }

section
variable {s0 s : State} {l : Fin 128} {cyc p j : Nat} {g : Joint} (hs : s0.toCyc cyc = s) (hact : s.tick.active = true)
  (hp : s.phys? l.val = some p) (hj : (s.span p).seq.jointAt = some j) (hg : s.joint? j = some g)
include hs hact hp hj hg

theorem exec_spanJointArrival_early (hrest : ¬s.arrivedNow l.val p cyc g.phase = true) :
    exec (.spanJointArrival l cyc) s0 = .next s := by
  show execSpanJointArrival l cyc s0 = _
  simp [execSpanJointArrival, hs, hact, hp, hj, hg, hrest]

variable (hrest : s.arrivedNow l.val p cyc g.phase = true)
include hrest

theorem exec_spanJointArrival_poison (hpoison : (s.span p).cells.poisonDue = true) :
    exec (.spanJointArrival l cyc) s0 = .next (s.breakTick .poison) := by
  show execSpanJointArrival l cyc s0 = _
  simp [execSpanJointArrival, hs, hact, hp, hj, hg, hrest, hpoison]

/-- A span at rest arrives: its sequencer stands at the joint with its lateness by class, and at a phase joint its windows close. -/
theorem exec_spanJointArrival_arrives (hpoison : (s.span p).cells.poisonDue = false) :
    ∃ c : LateClasses, c.sum = cyc - (g.y - g.a + (s.span p).seq.offset) ∧
      exec (.spanJointArrival l cyc) s0 = .next (((if g.phase then List.range 4 else []).foldl
        (fun (s : State) (w : Nat) => s.closeWindow l.val p w) (s.setSpan p ((s.span p).standAt j cyc c))).arriveAt l.val j cyc
          c.list) := by
  have hlate : (g.lateness cyc (s.span p).seq.offset).toNat = cyc - (g.y - g.a + (s.span p).seq.offset) := by
    unfold Joint.lateness
    omega
  refine ⟨(s.span p).seq.classes.become _ (s.span p).arrivalClass, LateClasses.become_sum .., ?_⟩
  show execSpanJointArrival l cyc s0 = _
  simp only [execSpanJointArrival, hs, hact, hp, hj, hg, hrest, hpoison, hlate, Option.map_some, Option.getD_some, Bool.not_true,
    Bool.false_eq_true, if_false]
  cases g.phase <;> rfl

/-- At a phase joint the span's windows are closed, and the tick holds its report. -/
theorem exec_spanJointArrival_phase (hpoison : (s.span p).cells.poisonDue = false) (hphase : g.phase = true) :
    ∃ u a, exec (.spanJointArrival l cyc) s0 = .next u ∧ kfind? u.tick.arrivals l.val = some a ∧ a.joint = j ∧ a.cyc = cyc
      ∧ a.classes.sum = cyc - (g.y - g.a + (s.span p).seq.offset) ∧ (u.span p).seq.arrived = some (j, cyc)
      ∧ (u.span p).seq.jointAt = none ∧ (∀ w, w < 4 → kfind? (u.span p).seq.windows w = none) ∧ (u.span p).deck = (s.span p).deck
      ∧ (∀ k, k ≠ p → u.span k = s.span k) ∧ u.mem = s.mem := by
  obtain ⟨c, hc, he⟩ := exec_spanJointArrival_arrives hs hact hp hj hg hrest hpoison
  rw [hphase] at he
  obtain ⟨hframe, hothers, hspan⟩ := State.closeWindows_closed l.val p (List.range 4) (s.setSpan p ((s.span p).standAt j cyc c))
  refine ⟨_, _, he, kfind?_kins_same .., rfl, rfl, (LateClasses.list_sum c).trans hc, ?_⟩
  simp only [if_true]
  generalize (List.range 4).foldl (fun (s : State) (w : Nat) => s.closeWindow l.val p w)
    (s.setSpan p ((s.span p).standAt j cyc c)) = y at hframe hothers hspan ⊢
  rw [State.span_setSpan_same] at hspan
  have hu (k : Nat) : (y.arriveAt l.val j cyc c.list).span k = y.span k := rfl
  have hmem : y.mem = s.mem := by rw [hframe]; rfl
  simp only [hu, hspan]
  exact ⟨rfl, rfl, fun w hw => kfind?_foldl_kdel_mem (List.mem_range.2 hw) _, rfl,
    fun k hk => (hothers k hk).trans (State.span_setSpan_other hk _ s), hmem⟩

end

/-! ### Release (R231, R235, R246) -/

theorem exec_jointRelease_none {t : Nat} {s : State} (hact : s.tick.active = true) (hdue : (s.at t).settled.dueJoint? = none) :
    exec (.jointRelease t) s = .next (s.at t).settled := by
  show execJointRelease t s = _
  simp [execJointRelease, hact, hdue]

theorem exec_jointRelease_due {t j x : Nat} {s : State} {g : Joint} (hact : s.tick.active = true)
    (hdue : (s.at t).settled.dueJoint? = some (j, x, g)) :
    let z := (s.at t).settled
    let r := z.release j x g
    exec (.jointRelease t) s = .next (if z.time < z.cycTime x then z else if g.phase = false then r
      else if r.tick.phase < 5 then r.beginPhase 6 (r.tick.phase + 1) x (x - g.y) else if r.tick.sealed then r.endTick else r) := by
  show execJointRelease t s = _
  have hphase : (!g.phase) = true ↔ g.phase = false := by simp
  simp only [execJointRelease, hact, hdue, Bool.not_true, Bool.false_eq_true, if_false, hphase, apply_ite Host.Outcome.next]

/-- Changes of spans one after the other change nothing but spans. -/
theorem State.foldl_modSpan_frame {β : Type} (q : β → Nat) (f : β → Span → Span) (l : List β) (s : State) :
    l.foldl (fun (s : State) e => s.modSpan (q e) (f e)) s
      = { s with spans := (l.foldl (fun (s : State) e => s.modSpan (q e) (f e)) s).spans } := by
  induction l generalizing s with
  | nil => rfl
  | cons e l ih => exact ih (s.modSpan (q e) (f e))

/-- The end of a tick: its spans run no phase, and no phase is in progress. -/
theorem State.endTick_frame (s : State) : s.endTick.tick = { s.tick with active := false, phase := 0 }
    ∧ s.endTick = { s with tick := s.endTick.tick, spans := s.endTick.spans } := by
  have h := State.foldl_modSpan_frame (fun e : Nat × Nat => e.2) (fun _ x => { x with seq := { x.seq with phase := 0 } }) s.binding s
  unfold State.endTick
  dsimp only
  rw [h]
  exact ⟨rfl, rfl⟩

/-! ### What a release leaves of the state -/

/-- A state that keeps everything but its spans, the trigger and the snapshot, and keeps every span's deck store and lines. -/
structure JointStep (s u : State) : Prop where
  frame : u = { s with spans := u.spans, regs := u.regs, obs := u.obs }
  deck : ∀ k, (u.span k).deck = (s.span k).deck
  lines : ∀ k, (u.span k).lines = (s.span k).lines

theorem JointStep.refl (s : State) : JointStep s s := ⟨rfl, fun _ => rfl, fun _ => rfl⟩

theorem JointStep.trans {s u v : State} (h : JointStep s u) (k : JointStep u v) : JointStep s v := by
  refine ⟨?_, fun j => (k.deck j).trans (h.deck j), fun j => (k.lines j).trans (h.lines j)⟩
  have hk := k.frame
  rw [h.frame] at hk
  rw [hk]

theorem Triggered.joint {s u : State} (h : Triggered s u) : JointStep s u := by
  have hspan (k : Nat) : u.span k = s.span k := by rw [h.frame]; rfl
  exact ⟨by rw [h.frame], fun k => by rw [hspan], fun k => by rw [hspan]⟩

theorem State.modSpan_joint {f : Span → Span} (hdeck : ∀ x, (f x).deck = x.deck) (hlines : ∀ x, (f x).lines = x.lines) (p : Nat)
    (s : State) : JointStep s (s.modSpan p f) := by
  refine ⟨rfl, fun k => ?_, fun k => ?_⟩ <;> by_cases h : k = p
  · rw [h, State.span_modSpan_same, hdeck]
  · rw [State.span_modSpan_other h]
  · rw [h, State.span_modSpan_same, hlines]
  · rw [State.span_modSpan_other h]

/-- A change of a span's sequencer, trace and counters. -/
theorem State.modSpan_seqKept {f : Span → Span} (hf : ∀ x, SeqKept x (f x)) (p : Nat) (s : State) : JointStep s (s.modSpan p f) := by
  refine State.modSpan_joint (fun x => ?_) (fun x => ?_) p s <;> obtain ⟨tr, cs, h⟩ := (hf x).kept <;> rw [h]

theorem Span.countJoint_kept (now : Nat) (x : Span) : SeqKept x (x.countJoint now) := by
  unfold Span.countJoint
  split
  · exact .refl x
  · exact (Span.inc_kept 0x348 _ x).trans ⟨_, _, rfl⟩

theorem State.trace_joint (l type : Nat) (arg : List Byte) (s : State) : JointStep s (s.trace l type arg) := by
  unfold State.trace
  split
  · exact .refl s
  · exact State.modSpan_seqKept (Span.trace_kept _ _ _ _ _ _) _ s

theorem State.holdEnded_joint (l : Nat) (kind : HoldKind) (ctr n : Nat) (s : State) : JointStep s (s.holdEnded l kind ctr n) := by
  unfold State.holdEnded
  split
  · exact State.trace_joint ..
  · exact .refl s

/-- What a trigger on a condition leaves. -/
theorem State.triggerIf_joint (cond : Prop) [Decidable cond] (l b cause : Nat) (s : State) :
    JointStep s (if cond then s.triggerAt l b cause else s) := by
  split
  · exact (State.triggerAt_triggered ..).joint
  · exact .refl s

theorem State.releaseSpan_joint (j x lag : Nat) (g : Joint) (l : Nat) (s : State) : JointStep s (s.releaseSpan j x lag g l) := by
  unfold State.releaseSpan
  split
  · exact .refl s
  · rename_i p hp
    dsimp only
    refine JointStep.trans ?_ (State.modSpan_joint ?deck ?lines p _)
    case deck => exact fun _ => rfl
    case lines => exact fun _ => rfl
    refine JointStep.trans ?_ (State.triggerIf_joint _ _ _ _ _)
    refine JointStep.trans ?_ (State.trace_joint _ _ _ _)
    refine JointStep.trans ?_ (State.holdEnded_joint _ _ _ _ _)
    exact State.modSpan_seqKept (Span.countJoint_kept x) p s

/-- A member that is released stands at no joint, and its offset is the lag. -/
theorem State.releaseSpan_seq {j x lag : Nat} {g : Joint} {l p : Nat} {s : State} (hp : s.phys? l = some p) :
    let q := ((s.releaseSpan j x lag g l).span p).seq
    q.offset = lag ∧ q.jointAt = none ∧ q.arrived = none := by
  simp [State.releaseSpan, hp]

theorem State.foldl_releaseSpan_joint (j x lag : Nat) (g : Joint) (ls : List Nat) (s : State) :
    JointStep s (ls.foldl (fun (s : State) (l : Nat) => s.releaseSpan j x lag g l) s) := by
  induction ls generalizing s with
  | nil => exact .refl s
  | cons l ls ih => exact (State.releaseSpan_joint j x lag g l s).trans (ih _)

/-- The view that a member takes. -/
def State.takeView (b r : Int) (l : Nat) (s : State) : State := match s.phys? l with
  | none => s
  | some p => s.modSpan p (fun x => { x with cells := { x.cells with viewBalance := b, viewSlip := r, refusable := 0 } })

/-- A state in which spans' cells have taken a view, and nothing more. -/
structure ViewTaken (s u : State) : Prop where
  frame : u = { s with spans := u.spans }
  spans : ∀ k, ∃ c, u.span k = { s.span k with cells := c }

theorem State.takeView_taken (b r : Int) (l : Nat) (s : State) : ViewTaken s (s.takeView b r l) := by
  unfold State.takeView
  split
  · exact ⟨rfl, fun k => ⟨(s.span k).cells, rfl⟩⟩
  · rename_i p hp
    refine ⟨rfl, fun k => ?_⟩
    by_cases h : k = p
    · subst h
      exact ⟨_, State.span_modSpan_same _ _ _⟩
    · exact ⟨_, State.span_modSpan_other h _ _⟩

theorem State.foldl_takeView_taken (b r : Int) (ls : List Nat) (s : State) :
    ViewTaken s (ls.foldl (fun (s : State) (l : Nat) => s.takeView b r l) s) := by
  induction ls generalizing s with
  | nil => exact ⟨rfl, fun k => ⟨(s.span k).cells, rfl⟩⟩
  | cons l ls ih =>
    have hone := State.takeView_taken b r l s
    have hrest := ih (s.takeView b r l)
    refine ⟨?_, fun k => ?_⟩
    · have h := hrest.frame
      rw [hone.frame] at h
      rw [List.foldl_cons, hone.frame]
      exact h
    · obtain ⟨c, hc⟩ := hone.spans k
      obtain ⟨c', hc'⟩ := hrest.spans k
      exact ⟨c', by rw [List.foldl_cons, hc', hc]⟩

/-- Members take the view of the ledger: of the tick, only the trestle unit's view changes. -/
theorem State.sendView_taken (ls : List Nat) (trestle : Bool) (s : State) :
    ∃ b r, ViewTaken { s with tick := { s.tick with viewBalance := b, viewSlip := r } } (s.sendView ls trestle) := by
  cases trestle
  · exact ⟨_, _, State.foldl_takeView_taken (s.tick.init - s.tick.h) s.slipRoom ls s⟩
  · exact ⟨_, _, State.foldl_takeView_taken (s.tick.init - s.tick.h) s.slipRoom ls _⟩

/-- The counts of a release's debit move nothing but counters. -/
theorem State.foldl_inc_frame (off : Nat) (es : List (Nat × Nat)) (s : State) :
    es.foldl (fun (s : State) (e : Nat × Nat) => s.inc (off + 4 * e.2) e.1) s
      = { s with counters := (es.foldl (fun (s : State) (e : Nat × Nat) => s.inc (off + 4 * e.2) e.1) s).counters } := by
  induction es generalizing s with
  | nil => rfl
  | cons e es ih =>
    obtain ⟨c, hc⟩ := State.inc_counters (off + 4 * e.2) e.1 s
    have h := ih (s.inc (off + 4 * e.2) e.1)
    rw [hc] at h
    rw [List.foldl_cons, hc]
    exact h

/-- What a release makes of the ledger and of the arrivals at the joint (R235, R246). -/
def Tick.ledgerAt (j x : Nat) (g : Joint) (t : Tick) : Tick :=
  { t with h := if t.sealed then t.h else max t.h (x - g.y), lastJoint := j,
           init := if t.sealed then t.init else t.init - (t.initLoss : Int), initLoss := 0,
           arrivals := t.arrivals.filter (fun e => e.2.joint ≠ j) }

/-- A release in its stages: `y` holds the ledger, `w` has released the members one after the other, and they take their view. -/
theorem State.release_stages (j x : Nat) (g : Joint) (s : State) : ∃ y w : State,
    (∃ c next released offset, y = { s with
      counters := c, tick := { s.tick.ledgerAt j x g with nextJoint := next, released := released, trsOffset := offset } })
    ∧ w = (s.jointSpans g).foldl (fun (s : State) (l : Nat) => s.releaseSpan j x (x - g.y) g l) y
    ∧ JointStep y w
    ∧ ∃ b r, ViewTaken { w with tick := { w.tick with viewBalance := b, viewSlip := r } } (s.release j x g) := by
  unfold State.release
  dsimp only
  rw [State.foldl_inc_frame 0x060118 _ s]
  exact ⟨_, _, ⟨_, _, _, _, rfl⟩, rfl, State.foldl_releaseSpan_joint .., State.sendView_taken ..⟩

theorem State.release_frame (j x : Nat) (g : Joint) (s : State) : ∃ c next released offset b r, s.release j x g
    = { s with
        counters := c, spans := (s.release j x g).spans, regs := (s.release j x g).regs, obs := (s.release j x g).obs
        tick := { s.tick.ledgerAt j x g with
          nextJoint := next, released := released, trsOffset := offset, viewBalance := b, viewSlip := r } } := by
  obtain ⟨y, w, ⟨c, next, released, offset, hy⟩, -, hw, b, r, hview⟩ := State.release_stages j x g s
  refine ⟨c, next, released, offset, b, r, ?_⟩
  have hframe := hview.frame
  have hwframe := hw.frame
  rw [hy] at hwframe
  rw [hwframe] at hframe
  rw [hframe]

theorem State.release_memory (j x : Nat) (g : Joint) (s : State) (k : Nat) :
    ((s.release j x g).span k).deck = (s.span k).deck ∧ ((s.release j x g).span k).lines = (s.span k).lines := by
  obtain ⟨y, w, ⟨_, _, _, _, hy⟩, -, hw, b, r, hview⟩ := State.release_stages j x g s
  obtain ⟨c, hc⟩ := hview.spans k
  have hyk : y.span k = s.span k := by rw [hy]; rfl
  rw [hc, ← hyk]
  exact ⟨hw.deck k, hw.lines k⟩

/-- R231: the one span member of a joint takes the lag as its offset and stands at no joint. -/
theorem State.release_member {j x l p : Nat} {g : Joint} {s : State} (hl : s.jointSpans g = [l]) (hp : s.phys? l = some p) :
    let q := ((s.release j x g).span p).seq
    q.offset = x - g.y ∧ q.jointAt = none ∧ q.arrived = none := by
  obtain ⟨y, w, ⟨_, _, _, _, hy⟩, hw, -, b, r, hview⟩ := State.release_stages j x g s
  obtain ⟨c, hc⟩ := hview.spans p
  have hpy : y.phys? l = some p := by rw [hy]; exact hp
  rw [hl, List.foldl_cons, List.foldl_nil] at hw
  have hq : ((s.release j x g).span p).seq = ((y.releaseSpan j x (x - g.y) g l).span p).seq := by rw [hc, ← hw]; rfl
  intro q
  rw [show q = _ from hq]
  exact State.releaseSpan_seq hpy

/-- Settles O20: arrival by whether the span is at rest, release by what is due, and what `State.release` leaves by its stages. -/
theorem jointArrivalAndRelease : Obligations.JointArrivalAndRelease := by
  unfold Obligations.JointArrivalAndRelease
  refine ⟨fun l cyc p j g s0 => ?_, fun t s hact => ?_, fun j x g s => ?_⟩
  · intro s hact hp hj hg x atRest late
    have hrest : s.arrivedNow l.val p cyc g.phase = true ↔ atRest := State.arrivedNow_iff ..
    refine ⟨fun hat hpoison hphase => ?_, fun hat hpoison hphase => ?_,
      fun hat => exec_spanJointArrival_poison rfl hact hp hj hg (hrest.2 hat),
      fun hat => exec_spanJointArrival_early rfl hact hp hj hg (fun h => hat (hrest.1 h))⟩
    · obtain ⟨c, hc, he⟩ := exec_spanJointArrival_arrives rfl hact hp hj hg (hrest.2 hat) hpoison
      rw [hphase] at he
      exact ⟨c, hc, he⟩
    · exact exec_spanJointArrival_phase rfl hact hp hj hg (hrest.2 hat) hpoison hphase
  · intro z
    refine ⟨exec_jointRelease_none hact, fun j x g hdue => ?_⟩
    intro r
    have he := exec_jointRelease_due hact hdue
    refine ⟨fun hearly => ?_, fun hcome hphase => ?_, fun hcome hphase hlow => ?_,
      fun hcome hphase hlast => ⟨fun hopen => ?_, fun hsealed => ?_⟩⟩
    · rw [he, if_pos hearly]
    · rw [he, if_neg (Nat.not_lt.2 hcome), if_pos hphase]
    · rw [he, if_neg (Nat.not_lt.2 hcome), hphase, if_neg (by simp), if_pos hlow]
    · rw [he, if_neg (Nat.not_lt.2 hcome), hphase, if_neg (by simp), if_neg (Nat.not_lt.2 hlast), hopen, if_neg (by simp)]
    · obtain ⟨htick, hend⟩ := State.endTick_frame r
      refine ⟨r.endTick, ?_, htick, hend⟩
      rw [he, if_neg (Nat.not_lt.2 hcome), hphase, if_neg (by simp), if_neg (Nat.not_lt.2 hlast), if_pos hsealed]
  · intro u
    obtain ⟨c, next, released, offset, b, r, hframe⟩ := State.release_frame j x g s
    have htick : u.tick = { s.tick.ledgerAt j x g with
      nextJoint := next, released := released, trsOffset := offset, viewBalance := b, viewSlip := r } := congrArg State.tick hframe
    refine ⟨fun hopen => ?_, fun hsealed => ?_, by rw [htick]; rfl, by rw [htick]; rfl, by rw [htick]; rfl, by rw [htick]; rfl,
      by rw [htick]; rfl, fun l p hl hp => ?_, ?_⟩
    · rw [htick]
      simp [Tick.ledgerAt, hopen]
    · rw [htick]
      simp [Tick.ledgerAt, hsealed]
    · obtain ⟨hoffset, hjoint, harrived⟩ := State.release_member (j := j) (x := x) hl hp
      obtain ⟨hdeck, hlines⟩ := State.release_memory j x g s p
      exact ⟨hoffset, hjoint, harrived, hdeck, hlines⟩
    · rw [show u = _ from hframe]
      exact ⟨rfl, rfl, rfl⟩

end Sys2Proof.Machine
end

section
/-! PROOFS. CONV as the last word of a program memory (spec/04_abutment.md, R273 and R283): it converts its line, and then the program
has run past its end, which breaks the tick. -/

namespace Sys2Proof.Machine
open Sys2Proof

/-! ### A CONV at PC 4,095 -/

/-- A layer of LNS16 output without a nonlinearity: one line and one row of 16 to a sequence. -/
def lnsLayer : Desc := (((List.replicate 32 0#32).set 0 0x800#32).set 10 0xF0000001#32).set 21 0x20000#32

/-- A plan of that layer alone. -/
def lnsPlan : Plan :=
  { roles := [], routes := [], programs := [], layers := [lnsLayer], joints := [], trestle := [], hasTrestle := false
    head := { periodPlan := 0, periodMin := 0, periodMax := 0, planCyc := 0, cutPlan := 0, keyRes := 0, quantum := 0, minSlack := 0,
              remoteWaitMax := 0, slipMax := 0, replayLimit := 0, govCold := 0, govWin := 0, prefillTokens := 0, draftN := 0,
              balEn := false, balCold := 0, batchLimit := 0, phaseS := [] } }

/-- A bitstream of that plan for one span. -/
def lnsBits : Bitstream :=
  { ident := { jobType := .serve, spans := 1, basicSpans := 1, hasFixed := false, modelDigest := 0, layoutDigest := 0, planId := 0,
               stepMask := 0, gradeMask := 0, maxContext := 0 }
    pref := [], sets := [], plans := [(0, lnsPlan)], tables := [], headMaps := [], kvClasses := [], footbridge := none
    weights := [], ingest := [], digest := 0, weightDigest := 0 }

/-- A batch slot that computes nothing. -/
def restingSlot : Slot :=
  { handle := 0, sits := false, pre := 0, preLen := 0, drafts := 0, fbSteps := 0, positions := [], fbPositions := [],
    draftTokens := [], mainTokens := [], tokens := [], stopped := none, stopStates := [], quality := Quality.zero, done := false }

/-- A batch of one sequence, in whose tick span 0 stands at the last word of its program memory: CONV of line 0 into granule 0 of
its own span. -/
def lastWordState : State := { State.reset with
  running := some 0, bits := [(0, lnsBits)], binding := [(0, 0)]
  tick := { Tick.idle with active := true, phase := 1, slots := [restingSlot] }
  spans := [(0, { Span.idle with seq := { Sequencer.idle with
    phase := 1, pc := 4095, prog := [(4095, BitVec.ofNat 128 (0x20 * 2 ^ 120 + 2 ^ 46 + 0xFF * 2 ^ 21))] } })] }

/-- The issue of span 0 in cycle 0. -/
def firstIssue : Issue := { l := 0, cyc := 0, stamp := 0, ix := 0 }

/-- That CONV, as the issue `i` presents it. -/
def lastConv (i : Issue) : Instr := .conv i WaitGroup.none 0 1 0 0xFF 0 0 .clean

/-- Its operands. -/
def lastArgs : ConvArgs := { line0 := 0, nlines := 1, seq0 := 0, dst := 0, dspan := 0xFF, rctr := 0, kv := none }

/-- The line of list position 0 that it converts: sixteen zeros. -/
def zeroLine : ConvLine := { pos := 0, slot := 0, occ := 0, row16 := 0, kind := 0, idx := 0, vals := List.replicate 16 Lns.z }

/-- The state in which it is presented. -/
def atLastWord : State := lastWordState.toCyc 0

theorem lastConv_issuable : Issuable atLastWord firstIssue (lastConv (bareOf firstIssue)) .abutment WaitGroup.none 0 Ix.zero where
  presented := by decide +kernel
  indexed := by decide +kernel
  inTime := by decide +kernel
  inOrder := by
    have hnone : (atLastWord.span 0).seq.lastIssue = none := by decide +kernel
    exact fun k hk => by rw [hnone] at hk; cases hk
  unitFree := by decide +kernel
  counted := by decide +kernel

theorem lastConv_takesLine : atLastWord.takeLine (atLastWord.ctxOf firstIssue 0 Ix.zero) 0 0
    = some (0, zeroLine, { sat := 0, drop := 0, steer := 0 }, []) := by decide +kernel

/-- After it the tick is broken: its PC is past the program's end. -/
theorem lastConv_breaks : ∀ u, exec (lastConv firstIssue) lastWordState = .next u → u.tick.active = false := by
  have h : (match exec (lastConv firstIssue) lastWordState with
    | .next u => u.tick.active
    | _ => true) = false := by decide +kernel
  intro u hu
  rw [hu] at h
  exact h

/-- Refutes O29: its clauses on one line say that the tick stays as it was, and ask nothing of PC. A CONV that is the last word of
the program memory converts its line as they say; then the program has run past its end, a program fault (R273), and the tick
breaks. -/
theorem not_reducingInstructionsAct : ¬ Obligations.ReducingInstructionsAct := by
  unfold Obligations.ReducingInstructionsAct
  intro h
  obtain ⟨-, -, hconv⟩ := h
  have hact : atLastWord.tick.active = true := by decide +kernel
  obtain ⟨-, hline⟩ := hconv lastWordState firstIssue WaitGroup.none .clean 0 Ix.zero (lastConv firstIssue)
    (lastConv (bareOf firstIssue)) lastArgs (.inl ⟨0, 1, 0, 0xFF, 0, 0, rfl, rfl, rfl⟩) lastConv_issuable
    (by decide +kernel) (by decide) (by decide +kernel)
  obtain ⟨hlns, -⟩ := hline 0 zeroLine { sat := 0, drop := 0, steer := 0 } [] lnsLayer rfl rfl (by decide +kernel)
    (by decide +kernel) lastConv_takesLine (by decide +kernel) (by decide +kernel) (by decide +kernel) (by decide +kernel)
    (by decide +kernel) (by decide +kernel)
  obtain ⟨u, hu, -, -, -, -, -, -, -, -, htick⟩ := hlns 0 (by decide +kernel) rfl (by decide +kernel) (by decide +kernel)
    (by decide +kernel)
  have hbroken := lastConv_breaks u hu
  rw [htick] at hbroken
  exact absurd (hact.symm.trans hbroken) (by decide)

end Sys2Proof.Machine
end

section
/-! PROOFS. TBLLD and the instructions of the arch lanes: ATTN, AMUL, AROT, ARANK and ASAMP (spec/04_abutment.md,
spec/05_attention_kv.md). -/

namespace Sys2Proof.Machine
open Sys2Proof

/-! ### What an issued lane instruction finds -/

@[simp] theorem State.ctxOf_p (s : State) (i : Issue) (p : Nat) (ix : Ix) : (s.ctxOf i p ix).p = p := rfl

section
variable {a b : Span} (h : SeqKept a b)
include h

theorem SeqKept.granule : b.granule = a.granule := by
  obtain ⟨tr, cs, hb⟩ := h.kept
  rw [hb]
  rfl

theorem SeqKept.abt : b.abt = a.abt := by
  obtain ⟨tr, cs, hb⟩ := h.kept
  rw [hb]

theorem SeqKept.attPlan : b.attPlan = a.attPlan := by
  obtain ⟨tr, cs, hb⟩ := h.kept
  rw [hb]

theorem SeqKept.routeTokens : b.routeTokens = a.routeTokens := by
  obtain ⟨tr, cs, hb⟩ := h.kept
  rw [hb]
  rfl

end

section
variable {s z : State} {i : Issue} {w : WaitGroup} {p : Nat} (h : Issued s i w p z)
include h

theorem Issued.fidelity : z.fidelity = s.fidelity := by
  rw [h.frame]; rfl

theorem Issued.laneSeqs (nseq : Nat) : z.laneSeqs p nseq = s.laneSeqs p nseq := by
  unfold State.laneSeqs
  rw [h.seqList]

theorem Issued.badAssign : z.badAssign = s.badAssign := by
  rw [h.frame]; rfl

theorem Issued.assigns? (ix : Ix) (lbase nlist : Nat) :
    z.assigns? (s.ctxOf i p ix) lbase nlist = s.assigns? (s.ctxOf i p ix) lbase nlist := by
  unfold State.assigns?
  rw [State.ctxOf_p, h.kept.granule]

theorem Issued.attWork (kring krlog2 kctr line0 delay di : Nat) (d : Desc) (es : List Assign) (ix : Ix) :
    z.attWork kring krlog2 kctr line0 delay di d es (s.ctxOf i p ix)
      = s.attWork kring krlog2 kctr line0 delay di d es (s.ctxOf i p ix) := by
  have hpieces : z.piecesOf d es = s.piecesOf d es := by rw [h.frame]; rfl
  have hlines : z.attLineCount d es = s.attLineCount d es := by rw [h.frame]; rfl
  have hcounts : z.attCounts d es = s.attCounts d es := by rw [h.frame]; rfl
  unfold State.attWork
  rw [State.ctxOf_p, h.cells, hpieces, hlines, hcounts]

end

theorem length_mapM_some {α β : Type} {f : α → Option β} {l : List α} {r : List β} (h : l.mapM f = some r) :
    r.length = l.length := by
  induction l generalizing r with
  | nil =>
    obtain rfl : [] = r := by simpa using h
    rfl
  | cons a l ih =>
    simp only [List.mapM_cons, Option.bind_eq_bind, Option.bind_eq_some_iff, Option.pure_def, Option.some.injEq] at h
    obtain ⟨b, -, bs, hbs, rfl⟩ := h
    simp [ih hbs]

theorem Ix.addrs_length {x : Ix} {a n : Nat} {gs : List Nat} (h : x.addrs a n = some gs) : gs.length = n :=
  (length_mapM_some h).trans List.length_range

/-! ### TBLLD (R114, R285) -/

/-- A nonlinearity slot loaded with granules `gs`, whose values are `vs`: the unit is busy to `free`. -/
def Abutment.loadSlot (slot : Nat) (vs : List (BitVec 256)) (gs : List Nat) (free delay : Nat) (a : Abutment) : Abutment :=
  { a with nlt := kins a.nlt slot vs, nltAt := kins a.nltAt slot gs, busyUntil := free,
           overBusy := if 0 < delay then some .mem else none }

theorem tblldAct_loads {slot src : Nat} {c : Ctx} {gs : List Nat} (deck : DeckUse) (s : State) (hgs : c.ix.addrs src 257 = some gs) :
    let x := s.span c.p
    ∃ cs, tblldAct slot src deck c s = ((s.setSpan c.p { x with
      counters := cs
      abt := x.abt.loadSlot slot (gs.map x.granule) gs (c.cyc + 257 + deckDelay deck) (deckDelay deck) }).deckUse c.l c.p
        deck).checkPoison c.l c.p gs := by
  intro x
  obtain ⟨cs, hcs⟩ := (Span.readG_counted gs x).counted
  refine ⟨cs, ?_⟩
  unfold tblldAct State.modSpan
  simp only [hgs]
  rw [hcs]
  rfl

/-! ### AMUL and AROT (R287) -/

/-- The additions in which the lanes send vectors of LNS16 codes to the lines from `line0`, as partials of KIND 2. -/
def Desc.laneAdds (d : Desc) (di line0 land owner : Nat) (codes : List (List (BitVec 16))) : List Addition :=
  codes.zipIdx.map (fun e =>
    { land := land, line := line0 + e.2, terms := e.1.map (fun v => (v.toNat : Int)), tag := d.tag 2, unit := 0, rowGroup := 0,
      owner := owner, desc := di, keep := false, check := false })

theorem State.layer?_setSpan {p : Nat} {x : Span} (s : State) (h : x.cells.layer = (s.span p).cells.layer) :
    (s.setSpan p x).layer? p = s.layer? p := by
  unfold State.layer?
  rw [State.span_setSpan_same, h]
  rfl

/-- Additions put in flight. -/
def CellUnit.send (adds : List Addition) (c : CellUnit) : CellUnit := { c with inflight := c.inflight ++ adds }

/-- The lanes take `n` cycles, and what they send is in flight; `cs` are the counters after it. -/
def Span.laneSend (cyc n delay : Nat) (cs : List (Nat × Counter)) (adds : List Addition) (x : Span) : Span :=
  { x.archBusy cyc n delay with counters := cs, cells := x.cells.send adds }

theorem State.archWrite_sends {c : Ctx} {s : State} {d : Desc} {di line0 : Nat} {codes : List (List (BitVec 16))} (land : Nat)
    (hlayer : s.layer? c.p = some d) (hdi : (s.span c.p).cells.layer = some di) (hlines : line0 + codes.length ≤ 4096) :
    let x := s.span c.p
    s.archWrite c line0 land codes = s.setSpan c.p { x with
      cells := x.cells.send (d.laneAdds di line0 land (archOwner x.cells.layerSeq c.cyc) codes) } := by
  unfold State.archWrite
  simp only [hlayer, hdi, gt_iff_lt, Nat.not_lt.2 hlines, if_false]
  rfl

/-- Lanes that have read granules for lines which are there: they are busy, and their results are on the way. -/
theorem State.archLines_sends {c : Ctx} {s : State} {d : Desc} {di k line0 n : Nat} {codes : List (List (BitVec 16))} (deck : DeckUse)
    (gs : List Nat) (sat : Nat) (hlayer : s.layer? c.p = some d) (hdi : (s.span c.p).cells.layer = some di)
    (hissued : (s.span c.p).seq.lastIssue = some k) (hlines : line0 + c.ix.l + codes.length ≤ 4096) :
    let x := s.span c.p
    ∃ cs, s.archLines c line0 n deck gs codes sat = ((s.setSpan c.p (x.laneSend c.cyc n (deckDelay deck) cs
      (d.laneAdds di (line0 + c.ix.l) (c.cyc + n + deckDelay deck + 12) (archOwner x.cells.layerSeq c.cyc) codes))).checkPoison
        c.l c.p gs).deckUse c.l c.p deck := by
  intro x
  obtain ⟨cs, hcs⟩ := ((Span.readG_counted gs x).trans (Span.inc_counted 0x220 sat _)).counted
  refine ⟨cs, ?_⟩
  show ((State.archWrite c _ _ codes (s.setSpan c.p (((x.readG gs).2.inc 0x220 sat).archBusy c.cyc n (deckDelay deck)))).checkPoison
    c.l c.p gs).deckUse c.l c.p deck = _
  rw [hcs]
  generalize hy : Span.archBusy c.cyc n (deckDelay deck) { x with counters := cs } = y
  have hcells : y.cells = x.cells := by rw [← hy]; rfl
  have hseq : y.seq = x.seq := by rw [← hy]; rfl
  rw [State.archWrite_sends (s := s.setSpan c.p y) _ ((State.layer?_setSpan s (congrArg _ hcells)).trans hlayer)
      (by rw [State.span_setSpan_same, hcells]; exact hdi) hlines,
    State.span_setSpan_same, State.setSpan_setSpan (k := k) (j := k) (hseq ▸ hissued) (hseq ▸ hissued), hcells, ← hy]
  rfl

/-- What the lanes send from a span that has issued, by the fields of the span before. -/
theorem SeqKept.laneSend {a b : Span} (h : SeqKept a b) (cyc n delay : Nat) (cs : List (Nat × Counter)) (adds : List Addition) :
    b.laneSend cyc n delay cs adds = { b with
      counters := cs, archBusyUntil := cyc + n + delay, archDoneAt := max a.archDoneAt (cyc + n + delay + 12)
      archWaited := decide (0 < delay), cells := { a.cells with inflight := a.cells.inflight ++ adds } } := by
  obtain ⟨tr, cs2, hb⟩ := h.kept
  rw [hb]
  rfl

theorem State.rotate_counted (d : Desc) (p : Nat) (v : List Lns) (s : State) : MemCounted s (s.rotate d p v).2.2 :=
  (State.memRead_counted _ s).2

/-- Steps that each only count, with what they carry along. -/
theorem MemCounted.foldl_carry {α β : Type} (g : α → State) (f : α → β → α) (hf : ∀ a b, MemCounted (g a) (g (f a b)))
    (l : List β) (a : α) : MemCounted (g a) (g (l.foldl f a)) := by
  induction l generalizing a with
  | nil => exact .refl _
  | cons b l ih => exact (hf a b).trans (ih _)

theorem State.rotateAll_counted (d : Desc) (vs : List (List (BitVec 256) × Nat)) (s : State) :
    MemCounted s (s.rotateAll d vs).2.2 :=
  MemCounted.foldl_carry (fun acc : List (List (BitVec 16)) × Nat × State => acc.2.2) _
    (fun acc v => State.rotate_counted d v.2 (lnsVec v.1) acc.2.2) vs ([], 0, s)

theorem MemCounted.span {s z : State} (h : MemCounted s z) (p : Nat) : z.span p = s.span p := by
  rw [h.frame]; rfl

theorem MemCounted.layer? {s z : State} (h : MemCounted s z) (p : Nat) : z.layer? p = s.layer? p := by
  rw [h.frame]; rfl

/-- The products of two granules of LNS16 values, value by value. -/
def Span.products (x : Span) (e : Nat × Nat) : List (BitVec 16) :=
  (List.range 16).map (fun k => (toLns16 (lmul (lnsAt (x.granule e.1) k) (lnsAt (x.granule e.2) k)).1).1)

theorem Desc.laneAdds_products (d : Desc) (di line0 land owner : Nat) (x : Span) (es : List (Nat × Nat)) :
    d.laneAdds di line0 land owner (es.map x.products) = es.zipIdx.map (fun e =>
      { land := land, line := line0 + e.2
        terms := (List.range 16).map (fun k =>
          ((toLns16 (lmul (lnsAt (x.granule e.1.1) k) (lnsAt (x.granule e.1.2) k)).1).1.toNat : Int))
        tag := d.tag 2, unit := 0, rowGroup := 0, owner := owner, desc := di, keep := false, check := false }) := by
  unfold Desc.laneAdds Span.products
  rw [List.zipIdx_map, List.map_map]
  simp only [Function.comp_def, Prod.map, List.map_map, id_eq]

theorem amulAct_sends {c : Ctx} {s : State} {d : Desc} {di k abase bbase line0 nlines : Nat} {as bs : List Nat} (deck : DeckUse)
    (hlayer : s.layer? c.p = some d) (hdi : (s.span c.p).cells.layer = some di) (hissued : (s.span c.p).seq.lastIssue = some k)
    (hlines : line0 + c.ix.l + nlines ≤ 4096) (has : c.ix.addrs abase nlines = some as) (hbs : c.ix.addrs bbase nlines = some bs) :
    let x := s.span c.p
    let n := cdiv nlines 128
    ∃ cs, amulAct abase bbase line0 nlines deck c s = ((s.setSpan c.p (x.laneSend c.cyc n (deckDelay deck) cs
      (d.laneAdds di (line0 + c.ix.l) (c.cyc + n + deckDelay deck + 12) (archOwner x.cells.layerSeq c.cyc)
        ((as.zip bs).map x.products)))).checkPoison c.l c.p (as ++ bs)).deckUse c.l c.p deck := by
  intro x n
  unfold amulAct
  simp only [has, hbs]
  have hlen : line0 + c.ix.l + ((as.zip bs).map x.products).length ≤ 4096 := by
    simpa [Ix.addrs_length has, Ix.addrs_length hbs] using hlines
  obtain ⟨cs, hact⟩ := State.archLines_sends (n := n) deck (as ++ bs) _ hlayer hdi hissued hlen
  refine ⟨cs, Eq.trans ?_ hact⟩
  simp only [List.map_map, Function.comp_def]
  rfl

/-- The vectors that AROT rotates, each with its position: `gs` hold the vectors and `ps` the positions. -/
def Span.rotVectors (x : Span) (d : Desc) (nvec : Nat) (gs ps : List Nat) : List (List (BitVec 256) × Nat) :=
  (List.range nvec).map (fun k => (((gs.drop (k * (d.dH / 16))).take (d.dH / 16)).map x.granule,
    bitsAt (x.granule (ps.getD (k / 8) 0)).toNat (32 * (k % 8)) 32))

theorem arotAct_sends {c : Ctx} {s : State} {d : Desc} {di k src pbase nvec line0 : Nat} {gs ps : List Nat} (deck : DeckUse)
    (hlayer : s.layer? c.p = some d) (hdi : (s.span c.p).cells.layer = some di) (hissued : (s.span c.p).seq.lastIssue = some k)
    (hgs : c.ix.addrs src (nvec * (d.dH / 16)) = some gs) (hps : c.ix.addrs pbase (cdiv nvec 8) = some ps) :
    let x := s.span c.p
    let n := cdiv (2 * nvec * d.dH) 2048
    let r := s.rotateAll d (x.rotVectors d nvec gs ps)
    line0 + c.ix.l + r.1.length ≤ 4096 → ∃ cs, arotAct src pbase nvec line0 deck c s
      = ((r.2.2.setSpan c.p (x.laneSend c.cyc n (deckDelay deck) cs
        (d.laneAdds di (line0 + c.ix.l) (c.cyc + n + deckDelay deck + 12) (archOwner x.cells.layerSeq c.cyc) r.1))).checkPoison
          c.l c.p (gs ++ ps)).deckUse c.l c.p deck := by
  intro x n r hlines
  have hcount : MemCounted s r.2.2 := State.rotateAll_counted d _ s
  have hx : r.2.2.span c.p = x := hcount.span c.p
  obtain ⟨cs, hact⟩ := State.archLines_sends (n := n) deck (gs ++ ps) r.2.1 ((hcount.layer? c.p).trans hlayer)
    ((congrArg (·.cells.layer) hx).trans hdi) ((congrArg (·.seq.lastIssue) hx).trans hissued) hlines
  refine ⟨cs, ?_⟩
  rw [hx] at hact
  rw [← hact]
  unfold arotAct
  simp only [hlayer, hgs, hps]
  rfl

/-! ### ATTN (R286) -/

section
variable {c : Ctx} {s : State} {d : Desc} {di lbase nlist : Nat} {es : List Assign} {gs : List Nat} (kring krlog2 kctr line0 : Nat)
  (deck : DeckUse) (hlayer : s.layer? c.p = some d) (hdi : (s.span c.p).cells.layer = some di)
  (hlist : s.assigns? c lbase nlist = some (es, gs))
include hlayer hdi hlist

theorem attnAct_notAttention (hen : d.attEn = false) : attnAct lbase nlist kring krlog2 kctr line0 deck c s = s.faultAt c 0x06 := by
  unfold attnAct
  simp only [hlayer, hdi, hlist, hen, Bool.not_false, if_true]

theorem attnAct_begins {cs : List (Nat × Counter)} (hcs : ((s.span c.p).readG gs).2 = { s.span c.p with counters := cs })
    (hen : d.attEn = true) (hes : ∀ e ∈ es, s.badAssign d e = false) :
    let x := s.span c.p
    let w := s.attWork kring krlog2 kctr line0 (deckDelay deck) di d es c
    w.line0 + w.nlines ≤ 4096 → attnAct lbase nlist kring krlog2 kctr line0 deck c s = ((s.setSpan c.p { x with
      counters := cs, att := some w, attPlan := x.attPlan + w.unitTime + 40, archBusyUntil := c.cyc + w.unitTime + w.wait
      archWaited := decide (0 < w.wait), seq := x.seq.change c.cyc kctr .sub 0 }).checkPoison c.l c.p gs).deckUse c.l c.p deck := by
  intro x w hlines
  have hany : es.any (s.badAssign d) = false := by simpa using hes
  unfold attnAct State.modSpan
  simp only [hlayer, hdi, hlist, hen, hany, Bool.not_true, Bool.false_eq_true, if_false, gt_iff_lt, hcs]
  exact if_neg (Nat.not_lt.2 hlines)

end

/-! ### ARANK and ASAMP (R207, R217) -/

section
variable {c : Ctx} {s : State} {d : Desc} {line0 nseq dst : Nat} (hlayer : s.layer? c.p = some d)
  (hlines : line0 + nseq * max 1 d.linesPerSeq ≤ 4096) (hlist : s.badList c.p (s.laneSeqs c.p nseq) = false)
include hlayer hlines hlist

theorem arankAct_grants {di : Nat} (rctr : Nat) (hdi : (s.span c.p).cells.layer = some di) :
    let x := s.span c.p
    let tokens := x.routeTokens d line0 (s.seqList c.p) (s.laneSeqs c.p nseq)
    let g := grantAll d s.fixed (s.fidelity && decide (0 < x.cells.viewSlip)) (tokens.map (fun t => (t.1, t.2.1)))
    let n := cdiv nseq 16 * (d.nExp + 2 * d.topK + 24)
    (c.ix.addrs dst (g.granules d.nExp)).isSome → arankAct line0 nseq dst rctr c s
      = (((s.inc 0x020518 ((tokens.map (fun t => t.2.2)).sum)).modSpan c.p (Span.archBusy c.cyc n 0)).countGrants g).sendGrants
          (c.cyc + n + 12) c.l di d (fun k => (c.ix.addr dst k).getD dst) rctr g := by
  intro x tokens g n haddrs
  have hsome : ¬(c.ix.addrs dst (g.granules d.nExp)).isNone = true := by simpa [Option.isSome_iff_ne_none] using haddrs
  unfold arankAct
  simp only [hlayer, hdi, gt_iff_lt, Nat.not_lt.2 hlines, hlist, Bool.false_eq_true, if_false]
  exact if_neg hsome

theorem asampAct_asks {gs : List Nat} (hgs : c.ix.addrs dst (cdiv (s.laneSeqs c.p nseq).length 8) = some gs) :
    let ks := s.laneSeqs c.p nseq
    let r := s.sampleLines (s.span c.p) line0 (max 1 d.linesPerSeq) (s.seqList c.p) ks
    let t := r.2.2.tokenWords r.1 ks
    asampAct line0 nseq dst c s = (t.2.askPuts c.l (gs.zipIdx.map (fun (g : Nat × Nat) =>
      DeckPut.clean (c.cyc + r.2.1 + 12) .arch c.l g.1 (BitVec.ofNat 256 (((List.range 8).map (fun k =>
        t.1.getD (8 * g.2 + k) 0 * 2 ^ (32 * k))).sum)) .nothing))).modSpan c.p (Span.archBusy c.cyc r.2.1 0) := by
  intro ks r t
  unfold asampAct
  simp only [hlayer, hgs, gt_iff_lt, Nat.not_lt.2 hlines, hlist, Bool.false_eq_true, if_false]
  rfl

end

/-! ### The commands -/

section
variable {s0 s : State} {i : Issue} {w : WaitGroup} {p : Nat} {ix : Ix} (hs : s = s0.toCyc i.cyc)
include hs

theorem exec_tblld {slot : BitVec 3} {src : BitVec 17} {deck : DeckUse} {gs : List Nat}
    (h : Issuable s i (.tblld (bareOf i) slot src .clean) .abutment WaitGroup.none p ix)
    (hslot : slotHazard slot.toNat (s.ctxOf i p ix) s = none) (hgs : ix.addrs src.toNat 257 = some gs) :
    let x := s.span p
    ∃ z cs, Issued s i WaitGroup.none p z ∧ exec (.tblld i slot src deck) s0 = .next ((((z.setSpan p { z.span p with
      counters := cs
      abt := x.abt.loadSlot slot.toNat (gs.map x.granule) gs (i.cyc + 257 + deckDelay deck) (deckDelay deck) }).deckUse i.l.val p
        deck).checkPoison i.l.val p gs).pastEnd (s.ctxOf i p ix)) := by
  intro x
  obtain ⟨z, hz, he⟩ := exec_issues (op := (.tblld · slot src .clean))
    (show exec (.tblld i slot src deck) s0 = s0.present i _ _ _ (slotHazard slot.toNat) _ from rfl) hs h hslot
  obtain ⟨cs, hact⟩ := tblldAct_loads (c := s.ctxOf i p ix) (slot := slot.toNat) deck z hgs
  refine ⟨z, cs, hz, he.trans (congrArg _ ?_)⟩
  rw [hact, State.ctxOf_p, hz.kept.abt, hz.kept.granule]
  rfl

theorem exec_amul {w : WaitGroup} {abase bbase : BitVec 17} {line0 : BitVec 12} {nlines : BitVec 13} {deck : DeckUse} {d : Desc}
    {di : Nat} {as bs : List Nat} (h : Issuable s i (.amul (bareOf i) w abase bbase line0 nlines .clean) .arch w p ix)
    (hheld : archHeld (line0.toNat + ix.l) nlines.toNat (s.ctxOf i p ix) s = none) (hlayer : s.layer? p = some d)
    (hdi : (s.span p).cells.layer = some di) (hlines : line0.toNat + ix.l + nlines.toNat ≤ 4096)
    (has : ix.addrs abase.toNat nlines.toNat = some as) (hbs : ix.addrs bbase.toNat nlines.toNat = some bs) :
    let x := s.span p
    let n := cdiv nlines.toNat 128
    ∃ z cs, Issued s i w p z ∧ exec (.amul i w abase bbase line0 nlines deck) s0
      = .next ((((z.setSpan p ((z.span p).laneSend i.cyc n (deckDelay deck) cs (d.laneAdds di (line0.toNat + ix.l)
        (i.cyc + n + deckDelay deck + 12) (archOwner x.cells.layerSeq i.cyc) ((as.zip bs).map x.products)))).checkPoison i.l.val p
          (as ++ bs)).deckUse i.l.val p deck).pastEnd (s.ctxOf i p ix)) := by
  intro x n
  obtain ⟨z, hz, he⟩ := exec_issues (op := (.amul · w abase bbase line0 nlines .clean))
    (show exec (.amul i w abase bbase line0 nlines deck) s0 = s0.present i _ _ _
      (fun c s => archHeld (line0.toNat + c.ix.l) nlines.toNat c s) _ from rfl) hs h hheld
  obtain ⟨cs, hact⟩ := amulAct_sends (c := s.ctxOf i p ix) deck (hz.layer?.trans hlayer) (hz.cells ▸ hdi) hz.lastIssue hlines
    has hbs
  refine ⟨z, cs, hz, he.trans (congrArg _ ?_)⟩
  have hproducts : (z.span p).products = x.products := by
    unfold Span.products
    rw [hz.kept.granule]
  rw [hact, State.ctxOf_p, hz.cells, hproducts]
  rfl

theorem exec_arot {w : WaitGroup} {src pbase : BitVec 17} {nvec : BitVec 13} {line0 : BitVec 12} {deck : DeckUse} {d : Desc} {di : Nat}
    {gs ps : List Nat} (h : Issuable s i (.arot (bareOf i) w src pbase nvec line0 .clean) .arch w p ix)
    (hheld : archHeld (line0.toNat + ix.l) (nvec.toNat * (d.dH / 16)) (s.ctxOf i p ix) s = none) (hlayer : s.layer? p = some d)
    (hdi : (s.span p).cells.layer = some di) (hgs : ix.addrs src.toNat (nvec.toNat * (d.dH / 16)) = some gs)
    (hps : ix.addrs pbase.toNat (cdiv nvec.toNat 8) = some ps) :
    let x := s.span p
    let n := cdiv (2 * nvec.toNat * d.dH) 2048
    ∃ z, Issued s i w p z ∧
      let r := z.rotateAll d (x.rotVectors d nvec.toNat gs ps)
      SeqKept x (r.2.2.span p) ∧ (line0.toNat + ix.l + r.1.length ≤ 4096 → ∃ cs, exec (.arot i w src pbase nvec line0 deck) s0
        = .next ((((r.2.2.setSpan p ((r.2.2.span p).laneSend i.cyc n (deckDelay deck) cs (d.laneAdds di (line0.toNat + ix.l)
          (i.cyc + n + deckDelay deck + 12) (archOwner x.cells.layerSeq i.cyc) r.1))).checkPoison i.l.val p (gs ++ ps)).deckUse i.l.val
            p deck).pastEnd (s.ctxOf i p ix))) := by
  intro x n
  have hmore : archHeld (line0.toNat + (s.ctxOf i p ix).ix.l)
      (nvec.toNat * (((s.layer? (s.ctxOf i p ix).p).map (·.dH)).getD 16 / 16)) (s.ctxOf i p ix) s = none := by
    rw [show s.layer? (s.ctxOf i p ix).p = some d from hlayer]
    exact hheld
  obtain ⟨z, hz, he⟩ := exec_issues (op := (.arot · w src pbase nvec line0 .clean))
    (show exec (.arot i w src pbase nvec line0 deck) s0 = s0.present i _ _ _ (fun c s => archHeld (line0.toNat + c.ix.l)
      (nvec.toNat * (((s.layer? c.p).map (·.dH)).getD 16 / 16)) c s) _ from rfl) hs h hmore
  refine ⟨z, hz, ?_⟩
  have hvectors : (z.span p).rotVectors d nvec.toNat gs ps = x.rotVectors d nvec.toNat gs ps := by
    unfold Span.rotVectors
    rw [hz.kept.granule]
  intro r
  have hspan : r.2.2.span p = z.span p := (State.rotateAll_counted d _ z).span p
  refine ⟨hspan ▸ hz.kept, fun hlines => ?_⟩
  obtain ⟨cs, hact⟩ := arotAct_sends (c := s.ctxOf i p ix) deck (hz.layer?.trans hlayer) (hz.cells ▸ hdi) hz.lastIssue hgs hps
    (line0 := line0.toNat) (by rw [State.ctxOf_p, hvectors]; exact hlines)
  refine ⟨cs, he.trans (congrArg _ ?_)⟩
  rw [hact, State.ctxOf_p, hvectors, hz.cells, hspan]
  rfl

theorem exec_attn {w : WaitGroup} {lbase : BitVec 17} {nlist : BitVec 13} {kring : BitVec 17} {krlog2 kctr : BitVec 5}
    {line0 : BitVec 12} {deck : DeckUse} {d : Desc} {di : Nat} {es : List Assign} {gs : List Nat}
    (h : Issuable s i (.attn (bareOf i) w lbase nlist kring krlog2 kctr line0 .clean) .arch w p ix)
    (hhold : attnHold lbase.toNat nlist.toNat line0.toNat (s.ctxOf i p ix) s = none) (hlayer : s.layer? p = some d)
    (hdi : (s.span p).cells.layer = some di) (hlist : s.assigns? (s.ctxOf i p ix) lbase.toNat nlist.toNat = some (es, gs)) :
    let x := s.span p
    let a := s.attWork kring.toNat krlog2.toNat kctr.toNat line0.toNat (deckDelay deck) di d es (s.ctxOf i p ix)
    ∃ z cs, Issued s i w p z
      ∧ (d.attEn = false → exec (.attn i w lbase nlist kring krlog2 kctr line0 deck) s0
          = .next ((z.faultAt (s.ctxOf i p ix) 0x06).pastEnd (s.ctxOf i p ix)))
      ∧ (d.attEn = true → (∀ e ∈ es, s.badAssign d e = false) → a.line0 + a.nlines ≤ 4096 →
          exec (.attn i w lbase nlist kring krlog2 kctr line0 deck) s0 = .next ((((z.setSpan p { z.span p with
            counters := cs, att := some a, attPlan := x.attPlan + a.unitTime + 40, archBusyUntil := i.cyc + a.unitTime + a.wait
            archWaited := decide (0 < a.wait), seq := (z.span p).seq.change i.cyc kctr.toNat .sub 0 }).checkPoison i.l.val p
              gs).deckUse i.l.val p deck).pastEnd (s.ctxOf i p ix))) := by
  intro x a
  obtain ⟨z, hz, he⟩ := exec_issues (op := (.attn · w lbase nlist kring krlog2 kctr line0 .clean))
    (show exec (.attn i w lbase nlist kring krlog2 kctr line0 deck) s0 = s0.present i _ _ _
      (attnHold lbase.toNat nlist.toNat line0.toNat) _ from rfl) hs h hhold
  have hlayerz : z.layer? (s.ctxOf i p ix).p = some d := hz.layer?.trans hlayer
  have hdiz : (z.span (s.ctxOf i p ix).p).cells.layer = some di := (congrArg _ hz.cells).trans hdi
  have hlistz : z.assigns? (s.ctxOf i p ix) lbase.toNat nlist.toNat = some (es, gs) := (hz.assigns? ix _ _).trans hlist
  have hwork : z.attWork kring.toNat krlog2.toNat kctr.toNat line0.toNat (deckDelay deck) di d es (s.ctxOf i p ix) = a :=
    hz.attWork _ _ _ _ _ _ d es ix
  obtain ⟨cs, hcs⟩ := (Span.readG_counted gs (z.span p)).counted
  refine ⟨z, cs, hz, fun hen => ?_, fun hen hes hlines => ?_⟩
  · rw [he, attnAct_notAttention _ _ _ _ deck hlayerz hdiz hlistz hen]
  · rw [he, attnAct_begins _ _ _ _ deck hlayerz hdiz hlistz hcs hen (by rwa [hz.badAssign]) (by rw [hwork]; exact hlines), hwork,
      State.ctxOf_p, hz.kept.attPlan]
    rfl

section
variable {w : WaitGroup} {line0 : BitVec 12} {nseq : BitVec 13} {dst : BitVec 17} {d : Desc} (hlayer : s.layer? p = some d)
  (hhazard : lanesHazard line0.toNat nseq.toNat (s.ctxOf i p ix) s = none)
  (hlines : line0.toNat + nseq.toNat * max 1 d.linesPerSeq ≤ 4096) (hlist : s.badList p (s.laneSeqs p nseq.toNat) = false)
include hlayer hhazard hlines hlist

theorem exec_arank {rctr : BitVec 5} {di : Nat} (h : Issuable s i (.arank (bareOf i) w line0 nseq dst rctr) .arch w p ix)
    (hdi : (s.span p).cells.layer = some di) :
    let x := s.span p
    let tokens := x.routeTokens d line0.toNat (s.seqList p) (s.laneSeqs p nseq.toNat)
    let g := grantAll d s.fixed (s.fidelity && decide (0 < x.cells.viewSlip)) (tokens.map (fun t => (t.1, t.2.1)))
    let n := cdiv nseq.toNat 16 * (d.nExp + 2 * d.topK + 24)
    (ix.addrs dst.toNat (g.granules d.nExp)).isSome → ∃ z, Issued s i w p z ∧ exec (.arank i w line0 nseq dst rctr) s0
      = .next (((((z.inc 0x020518 ((tokens.map (fun t => t.2.2)).sum)).modSpan p (Span.archBusy i.cyc n 0)).countGrants g).sendGrants
          (i.cyc + n + 12) i.l.val di d (fun k => (ix.addr dst.toNat k).getD dst.toNat) rctr.toNat g).pastEnd (s.ctxOf i p ix)) := by
  intro x tokens g n haddrs
  obtain ⟨z, hz, he⟩ := exec_issues (op := (.arank · w line0 nseq dst rctr))
    (show exec (.arank i w line0 nseq dst rctr) s0 = s0.present i _ _ _ (lanesHazard line0.toNat nseq.toNat) _ from rfl) hs h hhazard
  have htokens : (z.span p).routeTokens d line0.toNat (z.seqList p) (z.laneSeqs p nseq.toNat) = tokens := by
    rw [hz.kept.routeTokens, hz.seqList, hz.laneSeqs]
  have hgrants : grantAll d z.fixed (z.fidelity && decide (0 < (z.span p).cells.viewSlip))
      (tokens.map (fun t => (t.1, t.2.1))) = g := by
    rw [hz.fixed, hz.fidelity, hz.cells]
  have hact := arankAct_grants (c := s.ctxOf i p ix) (s := z) (dst := dst.toNat) (hz.layer?.trans hlayer) hlines
    (by rw [State.ctxOf_p, hz.laneSeqs, hz.badList]; exact hlist) rctr.toNat ((congrArg _ hz.cells).trans hdi)
  dsimp only at hact
  rw [State.ctxOf_p, htokens, hgrants] at hact
  exact ⟨z, hz, he.trans (congrArg _ (congrArg _ (hact haddrs)))⟩

theorem exec_asamp {gs : List Nat} (h : Issuable s i (.asamp (bareOf i) w line0 nseq dst) .arch w p ix)
    (hgs : ix.addrs dst.toNat (cdiv (s.laneSeqs p nseq.toNat).length 8) = some gs) :
    let ks := s.laneSeqs p nseq.toNat
    ∃ z, Issued s i w p z ∧
      let r := z.sampleLines (z.span p) line0.toNat (max 1 d.linesPerSeq) (s.seqList p) ks
      let t := r.2.2.tokenWords r.1 ks
      exec (.asamp i w line0 nseq dst) s0 = .next (((t.2.askPuts i.l.val (gs.zipIdx.map (fun (g : Nat × Nat) =>
        DeckPut.clean (i.cyc + r.2.1 + 12) .arch i.l.val g.1 (BitVec.ofNat 256 (((List.range 8).map (fun k =>
          t.1.getD (8 * g.2 + k) 0 * 2 ^ (32 * k))).sum)) .nothing))).modSpan p (Span.archBusy i.cyc r.2.1 0)).pastEnd
            (s.ctxOf i p ix)) := by
  intro ks
  obtain ⟨z, hz, he⟩ := exec_issues (op := (.asamp · w line0 nseq dst))
    (show exec (.asamp i w line0 nseq dst) s0 = s0.present i _ _ _ (lanesHazard line0.toNat nseq.toNat) _ from rfl) hs h hhazard
  have hact := asampAct_asks (c := s.ctxOf i p ix) (s := z) (gs := gs) (hz.layer?.trans hlayer) hlines
    (by rw [State.ctxOf_p, hz.laneSeqs, hz.badList]; exact hlist)
    (by rw [State.ctxOf_p, hz.laneSeqs]; exact hgs)
  rw [State.ctxOf_p, hz.laneSeqs, hz.seqList] at hact
  exact ⟨z, hz, he.trans (congrArg _ (congrArg _ hact))⟩

end

end

/-- Settles O30: one lemma an instruction. -/
theorem tableLoadAndLaneArithmetic : Obligations.TableLoadAndLaneArithmetic := by
  unfold Obligations.TableLoadAndLaneArithmetic
  intro s0 i p ix s _ c x
  refine ⟨fun slot src deck gs => exec_tblld rfl,
    fun w abase bbase line0 nlines deck d di as bs h hheld hlayer hdi hlines has hbs => ?_,
    fun w src pbase nvec line0 deck d di gs ps h hheld hlayer hdi hgs hps => ?_,
    fun w lbase nlist kring krlog2 kctr line0 deck d di es gs => exec_attn rfl, fun w line0 nseq dst d hlayer hhazard hlines => ?_⟩
  · intro free
    obtain ⟨z, cs, hz, he⟩ := exec_amul rfl h hheld hlayer hdi hlines has hbs (deck := deck)
    rw [hz.kept.laneSend, Desc.laneAdds_products] at he
    exact ⟨z, cs, hz, he⟩
  · intro free vs
    obtain ⟨z, hz, hkept, he⟩ := exec_arot rfl h hheld hlayer hdi hgs hps (deck := deck)
    refine ⟨z, hz, fun hlines => ?_⟩
    obtain ⟨cs, he⟩ := he hlines
    rw [hkept.laneSend] at he
    exact ⟨cs, he⟩
  · intro ks hlist
    exact ⟨fun rctr di => exec_arank rfl hlayer hhazard hlines hlist, fun gs => exec_asamp rfl hlayer hhazard hlines hlist⟩

end Sys2Proof.Machine
end

section
/-! PROOFS. Device memory: a run of bytes that covers whole granules reads back as written, and what a local store of granules leaves,
plain or segment coded in the places of a spill range (spec/05_attention_kv.md, R351, R365, R367). -/

namespace Sys2Proof.Machine
open Sys2Proof

/-! ### Runs of consecutive bytes -/

/-- The write of the bytes `bs` at the offsets from `a` on. -/
def byteRun (a : Nat) (bs : List Byte) : List (Nat × Byte) := bs.zipIdx.map (fun b => (a + b.2, b.1))

theorem byteRun_getElem? (a : Nat) (bs : List Byte) (k : Nat) : (byteRun a bs)[k]? = bs[k]?.map (fun b => (a + k, b)) := by
  simp [byteRun, List.getElem?_zipIdx, Function.comp_def]

theorem mem_byteRun {a : Nat} {bs : List Byte} {e : Nat × Byte} (h : e ∈ byteRun a bs) : a ≤ e.1 ∧ e.1 < a + bs.length := by
  obtain ⟨⟨b, k⟩, hb, rfl⟩ := List.mem_map.1 h
  obtain ⟨-, hk, -⟩ := List.mem_zipIdx hb
  exact ⟨Nat.le_add_right _ _, by simpa using hk⟩

/-- A run in three parts: before byte `k`, that byte, and the rest, which does not name its place again. -/
theorem byteRun_split (a : Nat) {bs : List Byte} {k : Nat} (hk : k < bs.length) :
    ∃ l r, byteRun a bs = l ++ (a + k, bs.getD k 0#8) :: r ∧ ∀ e ∈ r, e.1 ≠ a + k := by
  have hlen : k < (byteRun a bs).length := by simpa [byteRun] using hk
  have hget : (byteRun a bs)[k] = (a + k, bs.getD k 0#8) := by
    rw [← Option.some_inj, ← List.getElem?_eq_getElem hlen, byteRun_getElem?]
    simp [hk]
  refine ⟨(byteRun a bs).take k, (byteRun a bs).drop (k + 1), ?_, fun e he => ?_⟩
  · rw [← hget, ← List.drop_eq_getElem_cons hlen, List.take_append_drop]
  · obtain ⟨j, hj⟩ := List.mem_iff_getElem?.1 he
    rw [List.getElem?_drop, byteRun_getElem?, Option.map_eq_some_iff] at hj
    obtain ⟨b, -, rfl⟩ := hj
    show a + (k + 1 + j) ≠ a + k
    omega

/-! ### Writing a run (R351) -/

/-- A granule is written whole when each of its bytes is written. -/
theorem mem_wholeGranules {offs : List Nat} {g : Nat} (h : ∀ i, i < 32 → 32 * g + i ∈ offs) : g ∈ wholeGranules offs := by
  have hg (i : Nat) (hi : i < 32) : (32 * g + i) / 32 = g := by omega
  unfold wholeGranules
  rw [List.mem_filter]
  refine ⟨?_, ?_⟩
  · have h0 := mem_offGranules (h 0 (by decide))
    rwa [hg 0 (by decide)] at h0
  · rw [List.all_eq_true]
    intro i hi
    have hi32 := List.mem_range.1 hi
    simp only [List.contains_iff_mem, List.mem_filter, h i hi32, hg i hi32, decide_true, and_self]

theorem State.memWrite_stk (l : List (Nat × Byte)) (s : State) (i : Nat) : (s.memWrite l).stk i = s.stk i := by
  obtain ⟨y, hc, hy⟩ := State.memWrite_frame l s
  unfold State.stk
  rw [hy]
  show kget Stack.cold y.mem.stk i = _
  rw [hc.frame]

theorem State.memWrite_stackLost (l : List (Nat × Byte)) (s : State) (i : Nat) : (s.memWrite l).stackLost i = s.stackLost i := by
  unfold State.stackLost
  rw [State.memWrite_stk]

/-- A byte outside a run that is written reads as before. -/
theorem State.memWrite_byteRun_other (s : State) {a b : Nat} {bs : List Byte} (h : b < a ∨ a + bs.length ≤ b) :
    (s.memWrite (byteRun a bs)).memByte b = s.memByte b :=
  State.memWrite_other _ fun e he hb => by
    have hin := mem_byteRun he
    omega

/-- In stacks that are there, a run of whole granules reads back. -/
theorem State.memWrite_byteRun_same {s : State} {a k : Nat} {bs : List Byte} (ha : a % 32 = 0) (hbs : bs.length % 32 = 0)
    (hlive : ∀ j, j < bs.length → s.stackLost (stackOf (a + j)) = false) (hk : k < bs.length) :
    (s.memWrite (byteRun a bs)).memByte (a + k) = bs.getD k 0#8 := by
  have hwhole : (a + k) / 32 ∈ wholeGranules ((s.liveWrites (byteRun a bs)).map (·.1)) := by
    refine mem_wholeGranules fun i hi => ?_
    obtain ⟨j, hj⟩ : ∃ j, 32 * ((a + k) / 32) + i = a + j := ⟨32 * ((a + k) / 32) + i - a, by omega⟩
    have hjlt : j < bs.length := by omega
    obtain ⟨l, r, hsplit, -⟩ := byteRun_split a hjlt
    rw [hj]
    refine List.mem_map.2 ⟨(a + j, bs.getD j 0#8), ?_, rfl⟩
    rw [State.liveWrites, List.mem_filter, hsplit]
    exact ⟨by simp, by simp [hlive j hjlt]⟩
  obtain ⟨l, r, hsplit, hr⟩ := byteRun_split a hk
  rw [hsplit] at hwhole ⊢
  exact State.memWrite_same l r _ _ hr (hlive k hk) (.inr hwhole)

/-! ### Writing runs at places of one size -/

/-- The bytes of consecutive places of `n` bytes are written, the first of them at `a`. -/
def State.writePlaces (a n : Nat) (l : List (List Byte × Nat)) (s : State) : State :=
  l.foldl (fun (s : State) (e : List Byte × Nat) => s.memWrite (byteRun (a + n * e.2) e.1)) s

/-- A store's writes of memory change counters and memory alone. -/
theorem State.writePlaces_rest (a n : Nat) (l : List (List Byte × Nat)) (s : State) :
    s.writePlaces a n l = { s with counters := (s.writePlaces a n l).counters, mem := (s.writePlaces a n l).mem } := by
  induction l generalizing s with
  | nil => rfl
  | cons e l ih =>
    have h := ih (s.memWrite (byteRun (a + n * e.2) e.1))
    rw [State.memWrite_rest] at h
    rw [State.writePlaces, List.foldl_cons, State.memWrite_rest]
    exact h

section
variable {a n : Nat} {bss : List (List Byte)} (hfit : ∀ bs ∈ bss, bs.length ≤ n)
include hfit

/-- A byte outside the places reads as before. -/
theorem State.writePlaces_other (i b : Nat) (h : b < a + n * i ∨ a + n * (i + bss.length) ≤ b) (s : State) :
    (s.writePlaces a n (bss.zipIdx i)).memByte b = s.memByte b := by
  induction bss generalizing i s with
  | nil => rfl
  | cons bs bss ih =>
    have hlen := hfit bs List.mem_cons_self
    have hnext : n * (i + (bs :: bss).length) = n * (i + 1 + bss.length) := by rw [List.length_cons]; ring
    have hone : n * (i + 1) = n * i + n := by ring
    have hmono : n * (i + 1) ≤ n * (i + 1 + bss.length) := Nat.mul_le_mul_left n (by omega)
    have hrest := ih (fun x hx => hfit x (List.mem_cons_of_mem _ hx)) (i + 1) (by omega)
      (s.memWrite (byteRun (a + n * i) bs))
    rw [List.zipIdx_cons, State.writePlaces, List.foldl_cons]
    exact hrest.trans (State.memWrite_byteRun_other s (by omega))

/-- A byte of a place reads back, in stacks that are there. -/
theorem State.writePlaces_same (ha : a % 32 = 0) (hn : n % 32 = 0) (hwhole : ∀ bs ∈ bss, bs.length % 32 = 0) (i : Nat) {s : State}
    (hlive : ∀ b, a + n * i ≤ b → b < a + n * (i + bss.length) → s.stackLost (stackOf b) = false)
    {j k : Nat} {bs : List Byte} (hj : bss[j]? = some bs) (hk : k < bs.length) :
    (s.writePlaces a n (bss.zipIdx i)).memByte (a + n * (i + j) + k) = bs.getD k 0#8 := by
  induction bss generalizing i j s with
  | nil => simp at hj
  | cons c bss ih =>
    have hlen := hfit c List.mem_cons_self
    have hfit' : ∀ x ∈ bss, x.length ≤ n := fun x hx => hfit x (List.mem_cons_of_mem _ hx)
    have hnext : n * (i + (c :: bss).length) = n * (i + 1 + bss.length) := by rw [List.length_cons]; ring
    have hone : n * (i + 1) = n * i + n := by ring
    have hmono : n * (i + 1) ≤ n * (i + 1 + bss.length) := Nat.mul_le_mul_left n (by omega)
    rw [List.zipIdx_cons, State.writePlaces, List.foldl_cons]
    dsimp only
    cases j with
    | zero =>
      obtain rfl : c = bs := by simpa using hj
      refine (State.writePlaces_other hfit' (i + 1) _ (by simp only [Nat.add_zero]; omega) _).trans ?_
      have hmod : (a + n * i) % 32 = 0 := by rw [Nat.add_mod, Nat.mul_mod, ha, hn]; simp
      exact State.memWrite_byteRun_same hmod (hwhole c List.mem_cons_self)
        (fun m hm => hlive _ (by omega) (by omega)) hk
    | succ j =>
      have hrest := ih hfit' (fun x hx => hwhole x (List.mem_cons_of_mem _ hx)) (i + 1)
        (s := s.memWrite (byteRun (a + n * i) c)) (fun b h1 h2 => by
          rw [State.memWrite_stackLost]
          exact hlive b (by omega) (by omega)) (j := j) (by simpa using hj)
      rwa [show i + 1 + j = i + (j + 1) by omega] at hrest

end

/-! ### Granules in places -/

theorem chunks_eq {α : Type} {n : Nat} (hn : n ≠ 0) (fuel : Nat) {l : List α} (hl : l.length % n = 0) (hfuel : l.length < fuel) :
    chunks n fuel l = (List.range (l.length / n)).map (fun j => (l.drop (j * n)).take n) := by
  induction fuel generalizing l with
  | zero => exact absurd hfuel (Nat.not_lt_zero _)
  | succ fuel ih =>
    unfold chunks
    by_cases hempty : l = []
    · simp [hempty]
    · have hpos : 0 < l.length := List.length_pos_iff.2 hempty
      have hle : n ≤ l.length := Nat.le_of_dvd hpos (Nat.dvd_of_mod_eq_zero hl)
      have hdiv : l.length / n = (l.length - n) / n + 1 := Nat.div_eq_sub_div (Nat.pos_of_ne_zero hn) hle
      have hmod : (l.drop n).length % n = 0 := by
        rw [List.length_drop, ← Nat.mod_eq_sub_mod hle]
        exact hl
      rw [if_neg (by simpa using hempty), ih hmod (by rw [List.length_drop]; omega), List.length_drop, hdiv,
        List.range_succ_eq_map, List.map_cons, List.map_map]
      simp [Function.comp_def, Nat.add_mul, Nat.add_comm]

theorem byteSlice_length (bs : List Byte) (off n : Nat) : (byteSlice bs off n).length = n := by
  simp [byteSlice]

theorem granBytes_length (gs : List (BitVec 256)) : (granBytes gs).length = 32 * gs.length := by
  simp [granBytes, List.length_flatMap, natToBytes_length, Nat.mul_comm]

/-- What a place of `g` granules takes is whole granules, and no more than `g` of them. -/
theorem placeBytes_length {g : Nat} {seg : List (BitVec 256)} (hseg : seg.length = g) :
    (placeBytes g seg).length % 32 = 0 ∧ (placeBytes g seg).length ≤ 32 * g := by
  unfold placeBytes
  dsimp only
  split
  · rename_i hcoded
    have hlen : (segEncode seg).2.length = 32 * cdiv (segEncode seg).1 32 := byteSlice_length _ _ _
    rw [hlen]
    unfold cdiv
    omega
  · rw [granBytes_length, hseg]
    omega

/-! ### A local store (R288, R367) -/

section
variable {a : Nat} (gs : List (BitVec 256)) (s : State)

theorem State.storeLocal_plain {sp : Spill} (h : ∀ g, sp ≠ .places g) :
    s.storeLocal a gs sp = s.memWrite (byteRun a (granBytes gs)) := by
  cases sp with
  | none => rfl
  | places g => exact absurd rfl (h g)
  | part => rfl

/-- The places of a spill range that granules take, in their order. -/
def placesOf (g : Nat) (gs : List (BitVec 256)) : List (List Byte) :=
  (List.range (gs.length / g)).map (fun j => placeBytes g ((gs.drop (j * g)).take g))

theorem State.storeLocal_places {g : Nat} (hg : g ≠ 0) (hgs : gs.length % g = 0) :
    ∃ c, s.storeLocal a gs (.places g) = State.writePlaces a (32 * g) (placesOf g gs).zipIdx { s with counters := c } := by
  have hchunks : (chunks g (gs.length + 1) gs).map (placeBytes g) = placesOf g gs := by
    rw [chunks_eq hg _ hgs (Nat.lt_succ_self _), List.map_map]
    rfl
  unfold State.storeLocal
  dsimp only
  rw [hchunks]
  obtain ⟨c, hc⟩ := State.incBytes_counters 0x070090 (32 * gs.length) s
  obtain ⟨c2, hc2⟩ := State.incBytes_counters 0x070094 (((placesOf g gs).map (·.length)).sum) { s with counters := c }
  rw [hc, hc2]
  exact ⟨c2, rfl⟩

theorem mem_placesOf {g : Nat} {bs : List Byte} (h : bs ∈ placesOf g gs) : bs.length % 32 = 0 ∧ bs.length ≤ 32 * g := by
  obtain ⟨j, hj, rfl⟩ := List.mem_map.1 h
  refine placeBytes_length ?_
  have hle : (j + 1) * g ≤ gs.length := (Nat.mul_le_mul_right g (List.mem_range.1 hj)).trans (Nat.div_mul_le_self _ _)
  rw [Nat.add_mul, Nat.one_mul] at hle
  rw [List.length_take, List.length_drop]
  omega

theorem placesOf_length {g : Nat} : (placesOf g gs).length = gs.length / g := by
  simp [placesOf]

end

/-- R288, R367: a local store changes counters and memory alone, there the bytes of its granules' places alone, and each byte that it
writes in a stack that is there reads back. -/
theorem State.storeLocal_spec {a : Nat} (gs : List (BitVec 256)) (s : State) {sp : Spill} (ha : a % 32 = 0)
    (hsp : ∀ g, sp = .places g → g ≠ 0 ∧ gs.length % g = 0) :
    let u := s.storeLocal a gs sp
    (∃ cs ob m, u = { s with counters := cs, obs := ob, mem := m })
    ∧ (∀ b, b < a ∨ a + 32 * gs.length ≤ b → u.memByte b = s.memByte b)
    ∧ ((∀ k, k < 32 * gs.length → s.stackLost (stackOf (a + k)) = false) →
      ((∀ g, sp ≠ .places g) → ∀ k, k < 32 * gs.length → u.memByte (a + k) = (granBytes gs).getD k 0#8)
      ∧ ∀ g, sp = .places g → ∀ (j : Nat), (j + 1) * g ≤ gs.length →
        let bs := placeBytes g ((gs.drop (j * g)).take g)
        ∀ k, k < bs.length → u.memByte (a + 32 * g * j + k) = bs.getD k 0#8) := by
  intro u
  by_cases hplaces : ∃ g, sp = .places g
  · obtain ⟨g, rfl⟩ := hplaces
    obtain ⟨hg, hgs⟩ := hsp g rfl
    obtain ⟨c, hu⟩ := State.storeLocal_places (a := a) gs s hg hgs
    have hfit : ∀ bs ∈ placesOf g gs, bs.length ≤ 32 * g := fun bs hbs => (mem_placesOf gs hbs).2
    have hend : 32 * g * (0 + (placesOf g gs).length) = 32 * gs.length := by
      rw [placesOf_length, Nat.zero_add, Nat.mul_assoc, Nat.mul_div_cancel' (Nat.dvd_of_mod_eq_zero hgs)]
    refine ⟨?_, fun b hb => ?_, fun hlive => ⟨fun h => absurd rfl (h g), fun g' hg' j hj => ?_⟩⟩
    · rw [show u = _ from hu, State.writePlaces_rest]
      exact ⟨_, _, _, rfl⟩
    · rw [show u = _ from hu]
      exact State.writePlaces_other hfit 0 b (by rw [hend]; omega) _
    · intro bs k hk
      obtain rfl : g = g' := by simpa using hg'
      have hjlt : j < gs.length / g := (Nat.le_div_iff_mul_le (Nat.pos_of_ne_zero hg)).2 hj
      have hjth : (placesOf g gs)[j]? = some bs := by simp [placesOf, hjlt, bs]
      have hsame := State.writePlaces_same hfit ha (by omega) (fun c hc => (mem_placesOf gs hc).1) 0
        (s := { s with counters := c }) (fun b h1 h2 => ?_) hjth hk
      · rw [show u = _ from hu]
        simpa using hsame
      · obtain ⟨m, rfl⟩ := Nat.exists_eq_add_of_le (Nat.le_of_add_right_le h1)
        exact hlive m (by rw [hend] at h2; omega)
  · have hplain : ∀ g, sp ≠ .places g := fun g h => hplaces ⟨g, h⟩
    have hu : u = s.memWrite (byteRun a (granBytes gs)) := State.storeLocal_plain gs s hplain
    have hlen := granBytes_length gs
    rw [hu]
    refine ⟨⟨_, _, _, State.memWrite_rest _ _⟩, fun b hb => State.memWrite_byteRun_other s (by omega),
      fun hlive => ⟨fun _ k hk => ?_, fun g hg => absurd hg (hplain g)⟩⟩
    exact State.memWrite_byteRun_same ha (by omega) (fun j hj => hlive j (by omega)) (by omega)

end Sys2Proof.Machine
end

section
/-! PROOFS. MSTORE and KVRD: the places that are faults, and what each case begins (spec/05_attention_kv.md). -/

namespace Sys2Proof.Machine
open Sys2Proof

/-! ### What an issued stream instruction finds -/

section
variable {s z : State} {i : Issue} {w : WaitGroup} {p : Nat} (h : Issued s i w p z)
include h

theorem Issued.spillOf (off n : Nat) : z.spillOf off n = s.spillOf off n := by
  rw [h.frame]; rfl

theorem Issued.remoteTarget (n : Nat) : z.remoteTarget n = s.remoteTarget n := by
  rw [h.frame]; rfl

theorem Issued.kvPieces (d : Desc) : z.kvPieces d = s.kvPieces d := by
  rw [h.frame]; rfl

theorem Issued.slotReq (n : Nat) : z.slotReq n = s.slotReq n := by
  rw [h.frame]; rfl

theorem Issued.jobAddr (a : Nat) : z.jobAddr a = s.jobAddr a := by
  rw [h.frame]; rfl

end

/-! ### MSTORE (R288, R367, R477) -/

/-- The stream of an MSTORE of granules `gs`. -/
def storeStream (gs : List Nat) (sctr : Nat) : Stream := { Stream.new .mstore gs gs sctr with needAck := true }

/-- A target that takes the WRITEs of an MSTORE of `len` granules. -/
def RemoteTarget.takes (t : RemoteTarget) (len : Nat) : Bool :=
  t.valid && !t.pull && (!t.seg || decide (t.placeG ≠ 0 ∧ len % t.placeG = 0))

theorem RemoteTarget.refuses (t : RemoteTarget) (len : Nat) :
    (!t.valid || t.pull || (t.seg && (decide (t.placeG = 0) || decide (len % t.placeG ≠ 0)))) = !t.takes len := by
  unfold RemoteTarget.takes
  cases t.valid <;> cases t.pull <;> cases t.seg <;> simp

/-- The span begins a stream, its counters at `cs`. -/
def State.startWith (p : Nat) (cs : List (Nat × Counter)) (v : Stream) (s : State) : State :=
  s.setSpan p ({ s.span p with counters := cs }.startStream v)

theorem State.modSpan_readG_start {p : Nat} {s : State} {gs : List Nat} {cs : List (Nat × Counter)} (v : Stream)
    (hcs : ((s.span p).readG gs).2 = { s.span p with counters := cs }) :
    s.modSpan p (fun x => (x.readG gs).2.startStream v) = s.startWith p cs v := by
  exact congrArg (fun x : Span => s.setSpan p (x.startStream v)) hcs

section
variable {addr len src sctr : Nat} {deck : DeckUse} {c : Ctx} {s : State}

/-- A place that MSTORE does not take: beyond a range of Table 9.7, part of a spill range, or a target that is not there. -/
def State.badStore (s : State) (addr len src : Nat) : Prop :=
  131072 < src + len ∨ 0x1FFFFFFF < addr
  ∨ (addr < 0x10000000 ∧ (2 ^ 40 < 4096 * addr + 32 * len ∨ s.spillOf (4096 * addr) len = .part))
  ∨ (0x10000000 ≤ addr ∧ (s.remoteTarget (addr / 2 ^ 20 % 256)).takes len = false)

theorem mstoreAct_fault (h : s.badStore addr len src) : mstoreAct addr len src sctr deck c s = s.faultAt c 0x03 := by
  unfold mstoreAct
  dsimp only
  split
  · rfl
  · rename_i hin
    rw [not_or, deckGranules] at hin
    have hrest := (h.resolve_left hin.1).resolve_left hin.2
    rw [RemoteTarget.refuses]
    rcases hrest with ⟨hlocal, hbad⟩ | ⟨hremote, hgone⟩
    · rw [if_pos hlocal, if_pos hbad.symm]
    · rw [if_neg (Nat.not_lt.2 hremote), hgone]
      rfl

variable {cs : List (Nat × Counter)} (hsrc : src + len ≤ 131072)
  (hcs : ((s.span c.p).readG ((List.range len).map (fun k => src + k))).2 = { s.span c.p with counters := cs })
include hsrc hcs

theorem mstoreAct_local (hlocal : addr < 0x10000000) (hend : 4096 * addr + 32 * len ≤ 2 ^ 40)
    (hspill : s.spillOf (4096 * addr) len ≠ .part) :
    let gs := (List.range len).map (fun k => src + k)
    mstoreAct addr len src sctr deck c s = ((((s.startWith c.p cs (storeStream gs sctr)).storeLocal (4096 * addr)
      (gs.map (s.span c.p).granule) (s.spillOf (4096 * addr) len)).checkPoison c.l c.p gs).deckUse c.l c.p deck) := by
  have hin : ¬(deckGranules < src + len ∨ 0x1FFFFFFF < addr) := by rw [deckGranules]; omega
  have hplace : ¬(s.spillOf (4096 * addr) len = .part ∨ 2 ^ 40 < 4096 * addr + 32 * len) :=
    fun h => h.elim hspill (Nat.not_lt.2 hend)
  unfold mstoreAct
  dsimp only
  rw [if_neg hin, if_pos hlocal, if_neg hplace, State.modSpan_readG_start _ hcs]
  rfl

theorem mstoreAct_remote (hremote : 0x10000000 ≤ addr) (hlast : addr ≤ 0x1FFFFFFF)
    (hthere : (s.remoteTarget (addr / 2 ^ 20 % 256)).takes len = true) :
    let gs := (List.range len).map (fun k => src + k)
    let t := s.remoteTarget (addr / 2 ^ 20 % 256)
    let ws := remoteWrites t (t.roff + 4096 * (addr % 2 ^ 20)) (gs.map (s.span c.p).granule)
    mstoreAct addr len src sctr deck c s = ((ws.foldl (fun y w => y.sendTo 0x10 2 t.chip (remoteArg t.lid w.1 t) w.2.2)
      (s.startWith c.p cs { storeStream gs sctr with
        remote := ws.map (fun w => (t.lid, w.1, w.2.1)) })).checkPoison c.l c.p gs).deckUse c.l c.p deck := by
  have hin : ¬(deckGranules < src + len ∨ 0x1FFFFFFF < addr) := by rw [deckGranules]; omega
  unfold mstoreAct
  dsimp only
  rw [if_neg hin, if_neg (Nat.not_lt.2 hremote), RemoteTarget.refuses, hthere, State.modSpan_readG_start _ hcs]
  rfl

end

/-! ### KVRD (R159, R287) -/

/-- What the pieces of an entry count in the window of its request's partition. -/
def State.countPieces (s : State) (d : Desc) (y : State) (e : Assign) : State := match s.slotReq e.slot with
  | none => y
  | some q => y.winAdd q.partition 8 (((s.kvPieces d e).map (·.bytes)).sum)

/-- A state whose windows count, and nothing more. -/
structure WindowsCount (s u : State) : Prop where
  frame : u = { s with obs := u.obs }

theorem WindowsCount.refl (s : State) : WindowsCount s s := ⟨rfl⟩

theorem WindowsCount.winAdd {s u : State} (h : WindowsCount s u) (p i n : Nat) : WindowsCount s (u.winAdd p i n) := by
  have hwin : u.winAdd p i n = { u with obs := (u.winAdd p i n).obs } := by
    unfold State.winAdd
    split <;> rfl
  have hu := h.frame
  rw [hu] at hwin ⊢
  exact ⟨hwin⟩

theorem WindowsCount.span {s u : State} (h : WindowsCount s u) (p : Nat) : u.span p = s.span p := by
  rw [h.frame]; rfl

/-- Counting finds the requests and the pieces of the state before it. -/
theorem WindowsCount.countPieces {s u : State} (h : WindowsCount s u) (d : Desc) (e : Assign) :
    u.countPieces d u e = s.countPieces d u e ∧ WindowsCount s (s.countPieces d u e) := by
  have hreq : u.slotReq e.slot = s.slotReq e.slot := by rw [h.frame]; rfl
  have hpieces : u.kvPieces d e = s.kvPieces d e := by rw [h.frame]; rfl
  unfold State.countPieces
  rw [hreq, hpieces]
  refine ⟨rfl, ?_⟩
  split
  · exact h
  · exact h.winAdd _ _ _

theorem WindowsCount.foldl_countPieces {s u : State} (h : WindowsCount s u) (d : Desc) (es : List Assign) :
    es.foldl (fun y e => y.countPieces d y e) u = es.foldl (s.countPieces d) u
      ∧ WindowsCount s (es.foldl (s.countPieces d) u) := by
  induction es generalizing u with
  | nil => exact ⟨by simp only [List.foldl_nil], h⟩
  | cons e es ih =>
    obtain ⟨heq, hcount⟩ := h.countPieces d e
    rw [List.foldl_cons, List.foldl_cons, heq]
    exact ih hcount

/-- The granules that KVRD streams for pieces, counted from 1: a piece without a frame has none. -/
def State.pieceSrcs (s : State) (ks : List KvPiece) : List Nat :=
  ks.flatMap (fun k => k.granules.map (fun g => if k.valid then s.jobAddr (32 * g) / 32 + 1 else 0))

/-- The stream of a KVRD. -/
def readStream (srcs : List Nat) (dst rlog2 sctr : Nat) (fen : Option Nat) : Stream :=
  { Stream.new .kvrd srcs ((List.range srcs.length).map (ringAt dst rlog2)) sctr with fen := fen }

/-- The pages of pieces that are missing. -/
def missing (ks : List KvPiece) : Nat := ks.countP (fun k => !k.valid && !k.v)

section
variable {lbase nlist dst rlog2 sctr : Nat} {fctr : Option Nat} {deck : DeckUse} {c : Ctx} {s : State}

theorem kvrdAct_noLayer (hlayer : s.layer? c.p = none) :
    kvrdAct lbase nlist dst rlog2 sctr fctr deck c s = s.faultAt c 0x0A := by
  simp only [kvrdAct, hlayer]

variable {d : Desc} (hlayer : s.layer? c.p = some d)
include hlayer

theorem kvrdAct_badList (hlist : s.assigns? c lbase nlist = none) :
    kvrdAct lbase nlist dst rlog2 sctr fctr deck c s = s.faultAt c 0x03 := by
  simp only [kvrdAct, hlayer, hlist]

variable {es : List Assign} {gs : List Nat} (hlist : s.assigns? c lbase nlist = some (es, gs))
include hlist

theorem kvrdAct_badAssign (hbad : ∃ e ∈ es, s.badAssign d e = true) :
    kvrdAct lbase nlist dst rlog2 sctr fctr deck c s = s.faultAt c 0x0B := by
  unfold kvrdAct
  rw [hlayer, hlist]
  exact if_pos (List.any_eq_true.2 hbad)

theorem kvrdAct_reads {cs : List (Nat × Counter)} (hes : ∀ e ∈ es, s.badAssign d e = false)
    (hcs : ((s.span c.p).readG gs).2 = { s.span c.p with counters := cs }) :
    let ks := es.flatMap (s.kvPieces d)
    let u := (((es.foldl (s.countPieces d) s).startWith c.p cs (readStream (s.pieceSrcs ks) dst rlog2 sctr fctr)).checkPoison
      c.l c.p gs).deckUse c.l c.p deck
    kvrdAct lbase nlist dst rlog2 sctr fctr deck c s = if missing ks = 0 then u
      else (u.modSpan c.p (Span.inc 0x2C4 (missing ks))).dataFault c.l c.p 0 := by
  obtain ⟨heq, hcount⟩ := (WindowsCount.refl s).foldl_countPieces d es
  have hany : ¬es.any (s.badAssign d) = true := by simpa using hes
  have hstart := State.modSpan_readG_start (s := es.foldl (s.countPieces d) s)
    (readStream (s.pieceSrcs (es.flatMap (s.kvPieces d))) dst rlog2 sctr fctr) (by rw [hcount.span]; exact hcs)
  dsimp only
  rw [← hstart, ← heq]
  unfold kvrdAct
  rw [hlayer, hlist]
  exact if_neg hany

end

/-! ### The commands -/

section
variable {s z : State} {i : Issue} {w : WaitGroup} {p : Nat} (h : Issued s i w p z)
include h

theorem Issued.badStore {addr len src : Nat} (hbad : s.badStore addr len src) : z.badStore addr len src := by
  unfold State.badStore
  rw [h.spillOf, h.remoteTarget]
  exact hbad

theorem Issued.pieceSrcs : z.pieceSrcs = s.pieceSrcs := by
  funext ks
  unfold State.pieceSrcs
  simp only [h.jobAddr]

theorem Issued.countPieces (d : Desc) : z.countPieces d = s.countPieces d := by
  funext y e
  unfold State.countPieces
  rw [h.slotReq, h.kvPieces]

end

/-- Settles O32: MSTORE by the place that it names, KVRD by what its entries are, and what a local store leaves of memory. It holds
through the model's choices of log entries 33, 36 and 43. -/
theorem memoryStoreAndKvRead : Obligations.MemoryStoreAndKvRead := by
  unfold Obligations.MemoryStoreAndKvRead
  refine ⟨?_, fun a gs s sp => State.storeLocal_spec gs s⟩
  intro s0 i p ix s _ c x start ends
  refine ⟨fun addr len src sctr deck h => ?_, fun w lbase nlist dst rlog2 sctr fctr fen deck h => ?_⟩
  · intro a gs v t ws there
    obtain ⟨z, hz, he⟩ := exec_issues (op := (.mstore · addr len src sctr .clean))
      (show exec (.mstore i addr len src sctr deck) s0 = s0.present i _ _ _ noMore _ from rfl) rfl h rfl
    obtain ⟨cs, hcs⟩ := (Span.readG_counted gs (z.span p)).counted
    have hspill : z.spillOf a len.toNat = s.spillOf a len.toNat := hz.spillOf _ _
    have htarget : z.remoteTarget (addr.toNat / 2 ^ 20 % 256) = t := hz.remoteTarget _
    have hgranule : (z.span c.p).granule = x.granule := hz.kept.granule
    refine ⟨z, cs, hz, fun hbad => ?_, fun hsrc => ⟨fun hlocal hend hpart => ?_, fun hremote hlast hthere => ?_⟩⟩
    · rw [he, mstoreAct_fault (c := c) (hz.badStore hbad)]
    · rw [he, mstoreAct_local (c := c) hsrc hcs hlocal hend (hspill.trans_ne hpart), hspill, hgranule]
      rfl
    · rw [he, mstoreAct_remote (c := c) hsrc hcs hremote hlast (by rw [htarget]; exact hthere), htarget, hgranule]
      rfl
  · intro k
    obtain ⟨z, hz, he⟩ := exec_issues (op := (.kvrd · w lbase nlist dst rlog2 sctr fctr fen .clean))
      (show exec (.kvrd i w lbase nlist dst rlog2 sctr fctr fen deck) s0 = s0.present i _ _ _ noMore _ from rfl) rfl h rfl
    have hlist : z.assigns? c lbase.toNat nlist.toNat = s.assigns? c lbase.toNat nlist.toNat := hz.assigns? ix _ _
    obtain ⟨cs, hcs⟩ := (Span.readG_counted (((s.assigns? c lbase.toNat nlist.toNat).map (·.2)).getD []) (z.span p)).counted
    refine ⟨z, cs, hz, fun hlayer => ?_, fun hlayer hnone => ?_, fun d es gs hlayer hsome =>
      ⟨fun hbad => ?_, fun hes => ?_⟩⟩
    · rw [he, kvrdAct_noLayer (hz.layer?.trans hlayer)]
    · obtain ⟨d, hd⟩ := Option.isSome_iff_exists.1 hlayer
      rw [he, kvrdAct_badList (hz.layer?.trans hd) (hlist.trans hnone)]
    · rw [he, kvrdAct_badAssign (hz.layer?.trans hlayer) (hlist.trans hsome) (by rwa [hz.badAssign])]
    · intro ks srcs v y u miss
      rw [hsome] at hcs
      have hreads := kvrdAct_reads (dst := dst.toNat) (rlog2 := rlog2.toNat) (sctr := sctr.toNat)
        (fctr := if fen then some fctr.toNat else none) (deck := deck) (hz.layer?.trans hlayer) (hlist.trans hsome)
        (by rwa [hz.badAssign]) hcs
      rw [hz.kvPieces, hz.pieceSrcs, hz.countPieces] at hreads
      refine ⟨fun hmiss => ?_, fun hmiss => ?_⟩
      · exact he.trans (congrArg _ (congrArg _ (hreads.trans (if_pos hmiss))))
      · exact he.trans (congrArg _ (congrArg _ (hreads.trans (if_neg hmiss))))

end Sys2Proof.Machine
end

section
/-! PROOFS. Hand-overs: what an offer is answered with, what the source does with the answer, the commit and its expiry
(spec/05_attention_kv.md, R169 to R171, R479). -/

namespace Sys2Proof.Machine
open Sys2Proof

/-! ### A key that is written again -/

theorem kupd_of_find {α : Type} {m : List (Nat × α)} {k : Nat} {v : α} (h : kfind? m k = some v) (f : α → α) :
    kupd m k f = kins m k (f v) := by
  unfold kupd
  rw [h]
  rfl

theorem kins_kins {α : Type} (m : List (Nat × α)) (k : Nat) (v w : α) : kins (kins m k v) k w = kins m k w := by
  unfold kins
  induction m with
  | nil => simp [kput]
  | cons e m ih =>
    obtain ⟨j, u⟩ := e
    simp only [kput]
    by_cases hlt : k < j
    · simp [hlt, kput]
    · by_cases heq : k = j
      · simp [heq, kput]
      · simp [hlt, heq, kput, ih]

/-! ### The state in which a packet acts -/

section
variable (t : Nat) (p : Pkt) (s : State)

theorem State.arrived_requests : (s.arrived t p).requests = s.requests := by
  obtain ⟨c, v, o, h⟩ := State.arrived_eq t p s
  rw [h]; rfl

theorem State.arrived_bits : (s.arrived t p).bits = s.bits := by
  obtain ⟨c, v, o, h⟩ := State.arrived_eq t p s
  rw [h]; rfl

theorem State.arrived_running : (s.arrived t p).running = s.running := by
  obtain ⟨c, v, o, h⟩ := State.arrived_eq t p s
  rw [h]; rfl

theorem State.arrived_jobs : (s.arrived t p).jobs = s.jobs := by
  obtain ⟨c, v, o, h⟩ := State.arrived_eq t p s
  rw [h]; rfl

theorem State.arrived_landings : (s.arrived t p).landings = s.landings := by
  obtain ⟨c, v, o, h⟩ := State.arrived_eq t p s
  rw [h]; rfl

theorem State.arrived_hoIn : (s.arrived t p).via.hoIn = s.via.hoIn := by
  obtain ⟨c, v, o, h⟩ := State.arrived_eq t p s
  rw [h]

theorem State.arrived_mem : (s.arrived t p).mem = s.mem := by
  obtain ⟨c, v, o, h⟩ := State.arrived_eq t p s
  rw [h]; rfl

theorem State.arrived_time : (s.arrived t p).time = max s.time t := by
  obtain ⟨c, v, o, h⟩ := State.arrived_eq t p s
  rw [h]; rfl

theorem State.arrived_ticking : (s.arrived t p).ticking = s.ticking := by
  obtain ⟨c, v, o, h⟩ := State.arrived_eq t p s
  rw [h]; rfl

theorem State.arrived_entry (e : Nat) : (s.arrived t p).entry e = s.entry e := by
  obtain ⟨c, v, o, h⟩ := State.arrived_eq t p s
  rw [h]; rfl

theorem State.arrived_freeLid : (s.arrived t p).freeLid = s.freeLid := by
  unfold State.freeLid
  rw [State.arrived_landings]

theorem State.arrived_pageSetBytes (n : Nat) : (s.arrived t p).pageSetBytes n = s.pageSetBytes n := by
  obtain ⟨c, v, o, h⟩ := State.arrived_eq t p s
  rw [h]; rfl

theorem State.arrived_memByte (a : Nat) : (s.arrived t p).memByte a = s.memByte a := by
  obtain ⟨c, v, o, h⟩ := State.arrived_eq t p s
  rw [h]; rfl

theorem State.arrived_poisoned (a : Nat) : (s.arrived t p).poisoned a = s.poisoned a := by
  obtain ⟨c, v, o, h⟩ := State.arrived_eq t p s
  rw [h]; rfl

end

/-! ### The commands of the hand-over packets -/

section
variable {t : Nat} {p : Pkt} {s : State} (h : Arrives p s)
include h

theorem exec_offer : exec (.offer t p) s = .next ((s.arrived t p).takeOffer p.src.toNat (bitsAt p.arg.toNat 0 16)
    (payloadBytes p.payload)) := State.onPacket_arrives _ h

theorem exec_offerAns : exec (.offerAns t p) s = .next ((s.arrived t p).takeOfferAns p.src.toNat (bitsAt p.arg.toNat 0 16)
    (bitsAt p.arg.toNat 16 8) (bitsAt p.arg.toNat 24 13)) := State.onPacket_arrives _ h

theorem exec_hoCommit : exec (.hoCommit t p) s = .next ((s.arrived t p).takeCommit p.src.toNat (bitsAt p.arg.toNat 0 16)
    (bitsAt p.arg.toNat 16 32)) := State.onPacket_arrives _ h

theorem exec_hoAck : exec (.hoAck t p) s = .next ((s.arrived t p).takeHoAck p.src.toNat (bitsAt p.arg.toNat 0 16)
    (bitsAt p.arg.toNat 16 8)) := State.onPacket_arrives _ h

end

/-! ### The answer to an offer (R170, R479) -/

/-- An offer is refused with a status of R479. -/
def State.refuseOffer (src id n : Nat) (s : State) : State := (s.inc 0x040128 1).answerOffer src id n 0

theorem State.takeOffer_noTicket {s : State} {src id : Nat} {o : List Byte} (h : s.handinFor? (leAt o 144 8) = none) :
    s.takeOffer src id o = s.refuseOffer src id 1 := by
  unfold State.takeOffer
  rw [h]
  rfl

/-- An offer finds no room for its pages: what has been allocated goes at the next keystone. -/
def State.orphanOffer (src id base rows : Nat) (s : State) : State :=
  State.refuseOffer src id 3 { s with kv := { s.kv with orphans := s.kv.orphans ++ [(base, rows)] } }

/-- An offer is accepted: the HANDIN's entry is what the offer says, with its page table, and a landing opens over its pages. -/
def State.acceptOffer (src id h lid base rows : Nat) (q : Request) (s : State) : State :=
  let n := pagesFor q.pageLog2 q.committed
  State.answerOffer src id 0 lid { s with
    requests := kupd s.requests h (fun _ => { q with ptBase := base, ptRows := rows })
    landings := kins s.landings lid
      { kind := .handover, base := h, first := 0, len := n * s.pageSetBytes q.pageLog2, read := false, write := true, host := false,
        port := 0, partition := none, bar4 := 0, expiry := some 8, since := s.time, wrote := 0 }
    via := { s.via with hoIn := s.via.hoIn ++ [{ src := src, hoId := id, handle := h, lid := lid, pages := n, bytes := 0,
                                                 committed := false }] } }

/-- The frames of an offer's pages are allocated, and the offer accepted when there are enough of them. -/
def State.openOffer (src id h lid : Nat) (q : Request) (s : State) : State := match s.allocTable q q.committed with
  | (false, base, rows, z) => z.orphanOffer src id base rows
  | (true, base, rows, z) => z.acceptOffer src id h lid base rows q

section
variable {src id h lid base rows : Nat} {q : Request} {s z : State}

theorem State.openOffer_noFrames (halloc : s.allocTable q q.committed = (false, base, rows, z)) :
    s.openOffer src id h lid q = z.orphanOffer src id base rows := by
  unfold State.openOffer
  rw [halloc]

theorem State.openOffer_accepts (halloc : s.allocTable q q.committed = (true, base, rows, z)) :
    s.openOffer src id h lid q = z.acceptOffer src id h lid base rows q := by
  unfold State.openOffer
  rw [halloc]

end

/-- A request may use a variant slot of an entry: that of its partition, or none. -/
def HotEntry.lends (x : HotEntry) (q : Request) (v : Option Nat) : Bool := match v with
  | none => true
  | some v => decide (x.owner? v = some q.partition)

theorem HotEntry.lends_iff (x : HotEntry) (q : Request) (v : Option Nat) :
    x.lends q v = true ↔ ∀ n, v = some n → x.owner? n = some q.partition := by
  cases v <;> simp [HotEntry.lends]

/-- The digests of an offer are those of the entry and of the job that would serve it, and its variant is the request's to use. -/
def State.offerFits (s : State) (o : List Byte) (e job : Nat) (q q' : Request) : Prop :=
  digestBytes (((kfind? s.bits job).map (·.kvDigest)).getD 0) = byteSlice o 48 48
  ∧ (∀ v, q'.variant = some v → (s.entry e).owner? v = some q.partition)
  ∧ digestBytes (s.variantDigest (s.entry e) q'.variant) = byteSlice o 96 48

theorem State.offerFits_iff (s : State) (o : List Byte) (e job : Nat) (q q' : Request) : s.offerFits o e job q q' ↔
    ¬(digestBytes (((kfind? s.bits job).map (·.kvDigest)).getD 0) ≠ byteSlice o 48 48 ∨ (!(s.entry e).lends q q'.variant) = true
      ∨ digestBytes (s.variantDigest (s.entry e) q'.variant) ≠ byteSlice o 96 48) := by
  unfold State.offerFits
  rw [← HotEntry.lends_iff, not_or, not_or, not_not, not_not, Bool.not_eq_true', Bool.not_eq_false]

section
variable {s : State} {src id h : Nat} {o : List Byte} {q : Request} (hhandin : s.handinFor? (leAt o 144 8) = some (h, q))
include hhandin

theorem State.takeOffer_noModel
    (hnone : s.readyEntry? (bytesDigest (byteSlice o 0 48)) = none ∨ s.serveJob? (bytesDigest (byteSlice o 0 48)) = none) :
    s.takeOffer src id o = s.refuseOffer src id 2 := by
  unfold State.takeOffer
  rw [hhandin]
  dsimp only
  rcases hnone with hnone | hnone
  · rw [hnone]
    rfl
  · rw [hnone]
    cases s.readyEntry? (bytesDigest (byteSlice o 0 48)) <;> rfl

variable {e job : Nat} {q' : Request} (hentry : s.readyEntry? (bytesDigest (byteSlice o 0 48)) = some e)
  (hjob : s.serveJob? (bytesDigest (byteSlice o 0 48)) = some job) (hq' : q.ofOffer o (s.entry e).modelId s.timebase = q')
include hentry hjob hq'

theorem State.takeOffer_otherDigest (hfits : ¬s.offerFits o e job q q') : s.takeOffer src id o = s.refuseOffer src id 2 := by
  rw [State.offerFits_iff, not_not] at hfits
  unfold State.takeOffer
  rw [hhandin]
  dsimp only
  rw [hentry, hjob]
  dsimp only
  rw [hq']
  exact if_pos hfits

/-- What an offer that fits comes to: the rest of `takeOffer`. -/
theorem State.takeOffer_fits (hfits : s.offerFits o e job q q') : s.takeOffer src id o =
    if q.streamLen < q'.maxTokens - q'.generated then s.refuseOffer src id 5
    else if s.running ≠ some job then s.refuseOffer src id 4
    else s.freeLid.elim (s.refuseOffer src id 3) (fun lid => if 4 ≤ q'.pageLog2 ∧ q'.pageLog2 ≤ 10 then
      s.openOffer src id h lid q' else s.refuseOffer src id 3) := by
  rw [State.offerFits_iff] at hfits
  unfold State.takeOffer
  rw [hhandin]
  dsimp only
  rw [hentry, hjob]
  dsimp only
  rw [hq']
  refine (if_neg hfits).trans ?_
  cases s.freeLid with
  | none => rfl
  | some lid =>
    by_cases hsize : 4 ≤ q'.pageLog2 ∧ q'.pageLog2 ≤ 10
    · simp only [hsize]
      rfl
    · simp only [hsize]
      rfl

end

/-! ### The source: the answer, the acknowledgement and the expiry (R170, R171) -/

/-- A hand-over at its source goes over to a step. -/
def State.hoStep (h : Nat) (k : HoStep) (s : State) : State := s.modHo h (fun x => { x with step := k })

theorem State.modHo_eq {s : State} {h : Nat} {q : Request} {x : HoInfo} (hreq : kfind? s.requests h = some q) (hho : q.ho = some x)
    (f : HoInfo → HoInfo) : s.modHo h f = { s with requests := kins s.requests h { q with ho := some (f x) } } := by
  rw [State.modHo, State.modReq, kupd_of_find hreq, hho]
  rfl

section
variable {s : State} {h : Nat} {x : HoInfo} (hho : (kfind? s.requests h).bind (·.ho) = some x)
include hho

theorem State.failHo_fails (status arg0 : Nat) (hstep : x.step ≠ .none) :
    s.failHo h status arg0 = ((s.hoStep h .none).inc 0x040128 1).answerKey x.handle status arg0 := by
  unfold State.failHo
  rw [hho]
  exact if_neg hstep

theorem State.leaveHo_leaves (status : Nat) :
    s.leaveHo h status = ((if status = 0 then s.hoStep h .acked else (s.hoStep h .acked).inc 0x040128 1).answerKey x.handle status
      0).endRequest h 0x07 x.dest := by
  unfold State.leaveHo
  rw [hho]
  rfl

theorem State.hoExpired_open (hstep : x.step = .offered ∨ x.step = .sending) : s.hoExpired h = s.breakHo h := by
  unfold State.hoExpired
  rw [hho]
  rcases hstep with hstep | hstep <;> simp only [hstep]

theorem State.hoExpired_committed (hstep : x.step = .committed) : s.hoExpired h = s.leaveHo h 0x403 := by
  unfold State.hoExpired
  rw [hho]
  simp only [hstep]

end

section
variable {s : State} {src id h : Nat} {x : HoInfo}

theorem State.takeOfferAns_unknown (status lid : Nat) (hho : s.hoOf? id = none) : s.takeOfferAns src id status lid = s := by
  unfold State.takeOfferAns
  rw [hho]

theorem State.takeHoAck_unknown (status : Nat) (hho : s.hoOf? id = none) : s.takeHoAck src id status = s := by
  unfold State.takeHoAck
  rw [hho]

variable (hho : s.hoOf? id = some (h, x))
include hho

theorem State.takeOfferAns_unasked (status lid : Nat) (hother : x.dest ≠ src ∨ x.step ≠ .offered) :
    s.takeOfferAns src id status lid = s := by
  unfold State.takeOfferAns
  rw [hho]
  exact if_pos hother

theorem State.takeOfferAns_offered (status lid : Nat) (hdest : x.dest = src) (hstep : x.step = .offered) :
    s.takeOfferAns src id status lid = if status = 0 then s.sendPages h lid else s.failHo h 0x401 status := by
  unfold State.takeOfferAns
  rw [hho]
  exact if_neg (not_or.2 ⟨not_not.2 hdest, not_not.2 hstep⟩)

theorem State.takeHoAck_unasked (status : Nat) (hother : x.dest ≠ src ∨ x.step ≠ .committed) :
    s.takeHoAck src id status = s := by
  unfold State.takeHoAck
  rw [hho]
  exact if_pos hother

theorem State.takeHoAck_committed (status : Nat) (hdest : x.dest = src) (hstep : x.step = .committed) :
    s.takeHoAck src id status = if status = 0 then s.leaveHo h 0 else s.breakHo h := by
  unfold State.takeHoAck
  rw [hho]
  exact if_neg (not_or.2 ⟨not_not.2 hdest, not_not.2 hstep⟩)

end

/-! ### The page stream (R170 step 3) -/

theorem State.readBytes_nil (s : State) : s.readBytes [] = ([], s) := by
  have hcount : s.countStack 0xA0100 [] = s := List.foldl_fixed' (fun _ => rfl) _
  unfold State.readBytes State.memRead
  simp only [List.filter_nil, List.map_nil, hcount]
  rfl

/-- A state after another in which reads have been counted and free values drawn: memory reads as before. -/
structure ReadCounted (s u : State) : Prop where
  frame : ∃ c o f l, u = { s with counters := c, obs := o, fresh := f, mem := { s.mem with lgs := l } }
  memByte : ∀ a, u.memByte a = s.memByte a

theorem ReadCounted.trans {s u v : State} (h : ReadCounted s u) (k : ReadCounted u v) : ReadCounted s v := by
  obtain ⟨c, o, f, l, hu⟩ := h.frame
  obtain ⟨c', o', f', l', hv⟩ := k.frame
  exact ⟨⟨c', o', f', l', by rw [hv, hu]⟩, fun a => (k.memByte a).trans (h.memByte a)⟩

theorem State.incBytes_read (off n : Nat) (s : State) : ReadCounted s (s.incBytes off n) := by
  obtain ⟨c, hc⟩ := State.incBytes_counters off n s
  rw [hc]
  exact ⟨⟨c, _, _, _, rfl⟩, fun _ => rfl⟩

theorem State.winAdd_read (p i n : Nat) (s : State) : ReadCounted s (s.winAdd p i n) := by
  unfold State.winAdd
  split <;> exact ⟨⟨_, _, _, _, rfl⟩, fun _ => rfl⟩

theorem ReadCounted.modHo {s u : State} (hu : ReadCounted s u) (h : Nat) (f : HoInfo → HoInfo) :
    ReadCounted (s.modHo h f) (u.modHo h f) := by
  obtain ⟨c, o, g, l, hframe⟩ := hu.frame
  exact ⟨⟨c, o, g, l, by rw [hframe]; rfl⟩, hu.memByte⟩

/-- The stream gives a byte for each place, 0 where there is none, and what memory holds where it is neither poison nor of the DEVICE
region; the controllers count, and only the number of the next free value moves besides. -/
theorem State.hoStream_spec (s : State) (q : Request) : let r := s.hoStream q
    r.1.length = (s.hoPlaces q).length
    ∧ (∀ i, (s.hoPlaces q)[i]? = some none → r.1.getD i 0#8 = 0#8)
    ∧ (∀ i a, (s.hoPlaces q)[i]? = some (some a) → s.poisoned a = false → inDevice a = false → r.1.getD i 0#8 = s.memByte a)
    ∧ ReadCounted s r.2 := by
  obtain ⟨-, hbytes, z, hz, hr⟩ := State.readBytes_spec ((s.hoPlaces q).filterMap id) s
  have hstate : ReadCounted s (s.readBytes ((s.hoPlaces q).filterMap id)).2 := by
    have hframe := hz.frame
    rw [hr]
    exact ⟨⟨_, _, _, _, by rw [hframe]⟩, hz.memByte⟩
  unfold State.hoStream
  refine ⟨by simp, fun i hi => ?_, fun i a hi hgood hdev => ?_, hstate⟩
  · simp [List.getD_eq_getElem?_getD, hi]
  · have hmem : a ∈ (s.hoPlaces q).filterMap id := List.mem_filterMap.2 ⟨some a, List.mem_of_getElem? hi, rfl⟩
    have hread := hbytes _ a (List.getElem?_idxOf hmem) hgood hdev
    simpa [List.getD_eq_getElem?_getD, hi] using hread

theorem State.hoStream_nil {s : State} {q : Request} (h : s.hoPlaces q = []) : s.hoStream q = ([], s) := by
  unfold State.hoStream
  simp only [h, List.filterMap_nil, State.readBytes_nil, List.map_nil]

/-- A hand-over whose pages are being sent into landing `lid` of its destination. -/
def HoInfo.sending (x : HoInfo) (lid now : Nat) : HoInfo :=
  { x with step := .sending, landing := lid, acked := 0, expiry := 8, since := now }

/-- The source when its pages have been read and counted, before the first of them goes out. -/
def State.pagesRead (h lid : Nat) (q : Request) (s : State) : State :=
  let r := s.hoStream q
  ((r.2.modHo h (fun x => x.sending lid s.time)).incBytes 0x040120 r.1.length).winAdd q.partition 11 r.1.length

section
variable {s : State} {h : Nat} {q : Request} {x : HoInfo} (lid : Nat) (hreq : kfind? s.requests h = some q) (hho : q.ho = some x)
include hreq hho

theorem State.sendPages_eq : s.sendPages h lid =
    let u := (writesOf (s.hoStream q).1).foldl
      (fun (v : State) (w : Nat × List (BitVec 256)) => v.sendTo 0x10 2 x.dest (writeArg lid w.1) w.2) (s.pagesRead h lid q)
    if (s.hoStream q).1.isEmpty then u.sendCommit h { x with landing := lid } else u := by
  unfold State.sendPages
  rw [hreq]
  dsimp only
  rw [hho]
  rfl

theorem State.sendPages_writes (hplaces : s.hoPlaces q ≠ []) : s.sendPages h lid = (writesOf (s.hoStream q).1).foldl
    (fun (v : State) (w : Nat × List (BitVec 256)) => v.sendTo 0x10 2 x.dest (writeArg lid w.1) w.2) (s.pagesRead h lid q) := by
  have hne : ¬(s.hoStream q).1.isEmpty = true := by
    rw [List.isEmpty_iff, ← List.length_eq_zero_iff, (s.hoStream_spec q).1, List.length_eq_zero_iff]
    exact hplaces
  exact (State.sendPages_eq lid hreq hho).trans (if_neg hne)

/-- Once they have been read, the hand-over is sending and controllers have counted; the rest is as it was. -/
theorem State.pagesRead_counted :
    ReadCounted { s with requests := kins s.requests h { q with ho := some (x.sending lid s.time) } } (s.pagesRead h lid q) := by
  obtain ⟨-, -, -, hread⟩ := s.hoStream_spec q
  rw [← State.modHo_eq hreq hho (fun x => x.sending lid s.time)]
  exact ((hread.modHo h _).trans (State.incBytes_read ..)).trans (State.winAdd_read ..)

theorem State.sendPages_none (hplaces : s.hoPlaces q = []) : s.sendPages h lid = State.sendTo 0x22 1 x.dest
    (fieldAt 0 16 x.hoId + fieldAt 16 32 x.pages) [] { s with
      requests := kins s.requests h { q with ho := some { x.sending lid s.time with step := .committed } } } := by
  have hstream := State.hoStream_nil hplaces
  have hread : s.pagesRead h lid q = s.modHo h (fun x => x.sending lid s.time) := by
    unfold State.pagesRead
    rw [hstream]
    rfl
  have hcommit : (s.modHo h (fun x => x.sending lid s.time)).modHo h (fun x => { x with step := .committed }) = { s with
      requests := kins s.requests h { q with ho := some { x.sending lid s.time with step := .committed } } } := by
    rw [State.modHo_eq hreq hho, State.modHo_eq (kfind?_kins_same ..) rfl, kins_kins]
  rw [State.sendPages_eq lid hreq hho, hstream, hread]
  unfold State.sendCommit
  dsimp only
  rw [← hcommit]
  rfl

end

/-! ### The destination: the commit (R170 step 4, R171) -/

/-- A keystone record leaves the requests, the jobs, memory, the landings and the viaduct as they are. -/
theorem State.handleKey_kept (h : Nat) (e : EventRec) (s : State) : let u := s.handleKey h e
    u.requests = s.requests ∧ u.jobs = s.jobs ∧ u.mem = s.mem ∧ u.landings = s.landings ∧ u.via = s.via := by
  unfold State.handleKey State.handleNow
  cases kfind? s.handles h with
  | none => exact ⟨rfl, rfl, rfl, rfl, rfl⟩
  | some i =>
    dsimp only
    split
    · exact ⟨rfl, rfl, rfl, rfl, rfl⟩
    · split
      · exact ⟨rfl, rfl, rfl, rfl, rfl⟩
      · simp

/-- A hand-over that enters: its landing and its own entry are closed, its request is in DECODE, and it is acknowledged. -/
theorem State.enterHo_spec {s : State} {x : HoIn} {q : Request} (hreq : kfind? s.requests x.handle = some q) : ∃ v : State,
    s.enterHo x = v.sendTo 0x23 3 x.src (fieldAt 0 16 x.hoId + fieldAt 16 8 0) []
    ∧ v.requests = kins s.requests x.handle { q with
        state := if q.footbridge then .footbridge else .decode, accepted := true, slotNo := 4096 }
    ∧ v.jobs = s.jobs ∧ v.mem = s.mem ∧ v.landings = kdel s.landings x.lid
    ∧ v.via = { s.via with hoIn := s.via.hoIn.filter (fun w => w.lid ≠ x.lid) } := by
  unfold State.enterHo State.modReq State.closeLanding
  dsimp only
  rw [kupd_of_find hreq, kfind?_kins_same]
  exact ⟨_, rfl, State.handleKey_kept _ _ _⟩

section
variable {s : State} {src id pages : Nat}

/-- The hand-over that a commit record names. -/
def State.openHoIn? (s : State) (src id : Nat) : Option HoIn :=
  s.via.hoIn.find? (fun x => decide (x.src = src ∧ x.hoId = id) && !x.committed)

theorem State.openHoIn?_names {x : HoIn} (h : s.openHoIn? src id = some x) : x.src = src ∧ x.hoId = id := by
  have hx := List.find?_some h
  simp only [Bool.and_eq_true, decide_eq_true_eq] at hx
  exact hx.1

theorem State.takeCommit_unknown (h : s.openHoIn? src id = none) : s.takeCommit src id pages = s := by
  unfold State.takeCommit
  rw [show s.via.hoIn.find? _ = none from h]

variable {x : HoIn} {q : Request} (hfound : s.openHoIn? src id = some x) (hreq : kfind? s.requests x.handle = some q)
include hfound hreq

theorem State.takeCommit_found : s.takeCommit src id pages =
    if pages ≠ x.pages ∨ x.bytes < x.pages * s.pageSetBytes q.pageLog2 then (s.expireLanding x.lid).ackCommit src id 1
    else
      let z := { s with via := { s.via with hoIn := s.via.hoIn.map (fun w =>
        if w.lid = x.lid then { w with committed := true } else w) } }
      if s.ticking then z else z.enterHo x := by
  unfold State.takeCommit
  rw [show s.via.hoIn.find? _ = some x from hfound]
  dsimp only
  rw [hreq]
  rfl

end

end Sys2Proof.Machine
end

section
/-! PROOFS. The statement on the packets of a hand-over and its expiry (spec/05_attention_kv.md). -/

namespace Sys2Proof.Machine
open Sys2Proof

/-! ### The expiry as its command (R171) -/

section
variable {t : Nat} {handle : BitVec 32} {s : State} {q : Request} (hreq : kfind? s.requests handle.toNat = some q)
include hreq

theorem exec_handoverConfirmExpiry_none (hho : q.ho = none) : exec (.handoverConfirmExpiry t handle) s = .next (s.at t) := by
  show execHandoverConfirmExpiry t handle s = _
  simp only [execHandoverConfirmExpiry, State.at_requests, hreq, Option.bind_some, hho]

theorem exec_handoverConfirmExpiry_some {x : HoInfo} (hho : q.ho = some x) : exec (.handoverConfirmExpiry t handle) s
    = .next (if x.expiry ≤ (if s.ticking = true then 0 else (max s.time t - x.since) / 10000000)
        then (s.at t).hoExpired handle.toNat else s.at t) := by
  show execHandoverConfirmExpiry t handle s = _
  simp only [execHandoverConfirmExpiry, State.at_requests, hreq, Option.bind_some, hho, apply_ite Host.Outcome.next]
  rfl

end

/-- Settles O55, a clause of the offer, of the source, of the commit and of the expiry by its outcome in `takeOffer`,
`takeOfferAns` and `takeHoAck`, `takeCommit` and `hoExpired`. It holds through the model's choices of log entries 16 and 64. -/
theorem handOverPacketsAct : Obligations.HandOverPacketsAct := by
  unfold Obligations.HandOverPacketsAct
  refine ⟨?_, ?_, ?_, fun t handle s q hreq => ⟨exec_handoverConfirmExpiry_none hreq, fun x hho => ?_⟩⟩
  · intro t p s harrives y id src o answer refuse
    have hexec : exec (.offer t p) s = .next (y.takeOffer src id o) := exec_offer harrives
    have hrefuse {n : Nat} (h : y.takeOffer src id o = y.refuseOffer src id n) : refuse n := hexec.trans (congrArg _ h)
    refine ⟨fun hnone => hrefuse (State.takeOffer_noTicket hnone), fun h q hhandin => ?_⟩
    intro d
    refine ⟨fun hnone => hrefuse (State.takeOffer_noModel hhandin hnone), fun e job hentry hjob => ?_⟩
    intro x q' same size
    have hx : y.entry e = x := State.arrived_entry t p s e
    have hq' : q.ofOffer o (y.entry e).modelId y.timebase = q' := by rw [hx]
    have hsame : y.offerFits o e job q q' ↔ same := by
      unfold State.offerFits
      rw [hx, show y.bits = s.bits from State.arrived_bits t p s]
    have hrunning : y.running = s.running := State.arrived_running t p s
    have hlids : y.freeLid = s.freeLid := State.arrived_freeLid t p s
    have hfits (hs : same) := State.takeOffer_fits (src := src) (id := id) hhandin hentry hjob hq' (hsame.2 hs)
    have hroom (hs : same) (hlong : q'.maxTokens - q'.generated ≤ q.streamLen) (hrun : s.running = some job) :=
      ((hfits hs).trans (if_neg (Nat.not_lt.2 hlong))).trans (if_neg (not_not.2 (hrunning.trans hrun)))
    rw [hlids] at hroom
    refine ⟨fun hs => ?_, fun hs hshort => ?_, fun hs hlong hrun => ?_, fun hs hlong hrun hfull => ?_,
      fun base rows z hs hlong hrun hlid hsize halloc => ?_, fun lid base rows z hs hlong hrun hlid hsize halloc hreq => ?_⟩
    · exact hrefuse (State.takeOffer_otherDigest hhandin hentry hjob hq' (fun h => hs (hsame.1 h)))
    · exact hrefuse ((hfits hs).trans (if_pos hshort))
    · exact hrefuse (((hfits hs).trans (if_neg (Nat.not_lt.2 hlong))).trans (if_pos (hrunning.trans_ne hrun)))
    · refine hrefuse ((hroom hs hlong hrun).trans ?_)
      rcases hlid : s.freeLid with _ | lid
      · rfl
      · exact if_neg (hfull.resolve_left (by simp [hlid]))
    · obtain ⟨lid, hlid⟩ := Option.ne_none_iff_exists'.1 hlid
      rw [hexec, hroom hs hlong hrun, hlid]
      exact congrArg _ ((if_pos hsize).trans (State.openOffer_noFrames halloc))
    · rw [hexec, hroom hs hlong hrun, hlid]
      refine congrArg _ (((if_pos hsize).trans (State.openOffer_accepts halloc)).trans ?_)
      unfold State.acceptOffer
      rw [kupd_of_find hreq]
      rfl
  · intro t p s harrives y id st step
    have hans : exec (.offerAns t p) s = .next (y.takeOfferAns p.src.toNat id st (bitsAt p.arg.toNat 24 13)) :=
      exec_offerAns harrives
    have hack : exec (.hoAck t p) s = .next (y.takeHoAck p.src.toNat id st) := exec_hoAck harrives
    have hrequests : y.requests = s.requests := State.arrived_requests t p s
    have htime : y.time = max s.time t := State.arrived_time t p s
    have hmem : y.mem = s.mem := State.arrived_mem t p s
    refine ⟨fun hnone => ⟨hans.trans (congrArg _ (State.takeOfferAns_unknown _ _ hnone)),
      hack.trans (congrArg _ (State.takeHoAck_unknown _ hnone))⟩, fun h q x hho hreqs hqho => ?_⟩
    have hreq : kfind? y.requests h = some q := by rw [hrequests]; exact hreqs
    have hbind : (kfind? y.requests h).bind (·.ho) = some x := by rw [hreq]; exact hqho
    refine ⟨fun hother => ?_, fun hdest hstep hst => ?_, fun hdest hstep hst hplaces => ?_, fun hdest hstep hst hplaces => ?_,
      fun hother => ?_, fun hdest hstep hst => ?_, fun hdest hstep hst => ?_⟩
    · exact hans.trans (congrArg _ (State.takeOfferAns_unasked hho _ _ hother))
    · rw [hans, State.takeOfferAns_offered hho _ _ hdest hstep, if_neg hst,
        State.failHo_fails hbind _ _ (by rw [hstep]; decide)]
      rfl
    · intro lid
      obtain ⟨hlen, hzero, hbyte, -⟩ := y.hoStream_spec q
      have hcounted := State.pagesRead_counted lid hreq hqho
      rw [hrequests] at hcounted
      obtain ⟨c, ob, f, l, hframe⟩ := hcounted.frame
      refine ⟨y.pagesRead h lid q, (y.hoStream q).1, ?_, hlen, hzero, fun i a hi hgood hdev => ?_, fun a => ?_, ?_⟩
      · rw [hans, State.takeOfferAns_offered hho _ _ hdest hstep, if_pos hst, State.sendPages_writes _ hreq hqho hplaces]
        rfl
      · rw [hbyte i a hi ((State.arrived_poisoned t p s a).trans hgood) hdev]
        exact State.arrived_memByte t p s a
      · exact (hcounted.memByte a).trans (State.arrived_memByte t p s a)
      · rw [hframe, hmem, ← htime]
        rfl
    · have hsend := ((State.takeOfferAns_offered hho _ (bitsAt p.arg.toNat 24 13) hdest hstep).trans (if_pos hst)).trans
        (State.sendPages_none _ hreq hqho hplaces)
      refine ⟨_, hans.trans (congrArg Host.Outcome.next hsend), ?_⟩
      rw [hrequests, ← htime]
      rfl
    · exact hack.trans (congrArg _ (State.takeHoAck_unasked hho _ hother))
    · rw [hack, State.takeHoAck_committed hho _ hdest hstep, if_pos hst, State.leaveHo_leaves hbind]
      rfl
    · rw [hack, State.takeHoAck_committed hho _ hdest hstep, if_neg hst, State.breakHo,
        State.failHo_fails hbind _ _ (by rw [hstep]; decide)]
      rfl
  · intro t p s harrives y id src found
    have hexec : exec (.hoCommit t p) s = .next (y.takeCommit src id (bitsAt p.arg.toNat 16 32)) := exec_hoCommit harrives
    have hhoIn : y.via.hoIn = s.via.hoIn := State.arrived_hoIn t p s
    have hfound : y.openHoIn? src id = found := by unfold State.openHoIn?; rw [hhoIn]
    refine ⟨fun hnone => hexec.trans (congrArg _ (State.takeCommit_unknown (hfound.trans hnone))), fun x q hx hreqs => ?_⟩
    intro right z
    have hreq : kfind? y.requests x.handle = some q := by
      rw [show y.requests = s.requests from State.arrived_requests t p s]
      exact hreqs
    have hticking : y.ticking = s.ticking := State.arrived_ticking t p s
    have hright : right ↔ ¬(bitsAt p.arg.toNat 16 32 ≠ x.pages ∨ x.bytes < x.pages * y.pageSetBytes q.pageLog2) := by
      rw [show y.pageSetBytes q.pageLog2 = s.pageSetBytes q.pageLog2 from State.arrived_pageSetBytes t p s _, not_or, not_not,
        Nat.not_lt]
    have hcommit := State.takeCommit_found (pages := bitsAt p.arg.toNat 16 32) (hfound.trans hx) hreq
    rw [hhoIn] at hcommit
    have henters (hr : right) := hcommit.trans (if_neg (hright.1 hr))
    refine ⟨fun hwrong => ?_, fun hr htick => ?_, fun hr htick => ?_⟩
    · exact hexec.trans (congrArg _ (hcommit.trans (if_pos (not_not.1 fun h => hwrong (hright.2 h)))))
    · exact hexec.trans (congrArg _ ((henters hr).trans (if_pos (hticking.trans htick))))
    · obtain ⟨hsrc, hid⟩ := State.openHoIn?_names (hfound.trans hx)
      obtain ⟨v, hv, hrequests, hjobs, hvmem, hlandings, hvia⟩ := State.enterHo_spec (s := z) hreq
      refine ⟨v, ?_, hlandings.trans ?_, by rw [hvia], hvmem.trans (State.arrived_mem t p s), hjobs.trans (State.arrived_jobs t p s),
        hrequests.trans ?_⟩
      · rw [hsrc, hid] at hv
        rw [← hv]
        exact hexec.trans (congrArg _ ((henters hr).trans (if_neg (by rw [hticking, htick]; decide))))
      · exact congrArg (kdel · x.lid) (State.arrived_landings t p s)
      · exact congrArg (kins · x.handle _) (State.arrived_requests t p s)
  · intro past step
    have he := exec_handoverConfirmExpiry_some (t := t) hreq hho
    have hbind : (kfind? (s.at t).requests handle.toNat).bind (·.ho) = some x := by
      rw [State.at_requests, hreq]
      exact hho
    have hstep (k : HoStep) : (s.at t).hoStep handle.toNat k = step k := State.modHo_eq (s := s.at t) hreq hho _
    refine ⟨fun hearly => ?_, fun hdue hopen => ?_, fun hdue hdone => ?_⟩
    · exact he.trans (congrArg _ (if_neg (Nat.not_le.2 hearly)))
    · have hne : x.step ≠ .none := by rcases hopen with h | h <;> rw [h] <;> decide
      rw [he, if_pos hdue, State.hoExpired_open hbind hopen, State.breakHo, State.failHo_fails hbind _ _ hne, hstep]
    · rw [he, if_pos hdue, State.hoExpired_committed hbind hdone, State.leaveHo_leaves hbind, hstep]
      rfl

end Sys2Proof.Machine
end

section
/-! PROOFS. Scattered additions: an entry that its bank takes joins its line (spec/06_skipped_work.md, R191 to R193). -/

namespace Sys2Proof.Machine
open Sys2Proof

/-! ### What applying an entry leaves of other spans -/

theorem Triggered.span {s u : State} (h : Triggered s u) (k : Nat) : u.span k = s.span k := by
  rw [h.frame]; rfl

section
variable {l p k : Nat} {s : State} (hp : s.phys? l = some p) (hk : k ≠ p)
include hp hk

theorem State.trace_span_other (type : Nat) (arg : List Byte) : (s.trace l type arg).span k = s.span k := by
  unfold State.trace
  rw [hp]
  exact State.span_modSpan_other hk _ _

theorem State.refuse_span_other (cls slot cost : Nat) : (s.refuse l cls slot cost).span k = s.span k :=
  ((State.triggerAt_triggered ..).span k).trans
    (State.trace_span_other (s := { s with tick := { s.tick with refused := true } }) hp hk _ _)

theorem State.pay_span_other (cls slot cost : Nat) : (s.pay l p cls slot cost).2.span k = s.span k := by
  unfold State.pay
  dsimp only
  split
  · exact State.span_modSpan_other hk _ _
  · exact State.refuse_span_other hp hk _ _ _

theorem State.countEntry_span_other (di : Nat) (d : Desc) (line slot : Nat) :
    (s.countEntry l p di d line slot).2.span k = s.span k := by
  unfold State.countEntry
  extract_lets key n beyond r
  have hr : r.2.span k = s.span k := by
    unfold r
    split
    · exact (State.pay_span_other (s := s.modSpan p _) hp hk 4 slot 1).trans (State.span_modSpan_other hk _ _)
    · rfl
  split
  · exact (State.span_modSpan_other hk _ _).trans hr
  · exact (State.span_modSpan_other hk _ _).trans hr

theorem State.applyEntry_span_other (cyc : Nat) (e : ScatEntry) : (s.applyEntry l p cyc e).span k = s.span k := by
  unfold State.applyEntry
  split
  · split
    · exact State.span_modSpan_other hk _ _
    · dsimp only
      split
      · exact State.countEntry_span_other hp hk ..
      · exact (State.span_modSpan_other hk _ _).trans (State.countEntry_span_other hp hk ..)
  · exact State.span_modSpan_other hk _ _

end

/-! ### The entry that is applied (R192, R193) -/

/-- Whether a line is one of a layer's scatter unit (R192). -/
def Desc.scatters (d : Desc) (line : Nat) : Prop :=
  d.scatEn = true ∧ d.scatBase ≤ line ∧ line < d.scatBase + d.scatLines

/-- A bank that has counted an entry of the tick for its layer. -/
def Span.countApplied (key : Nat) (x : Span) : Span := { x with applied := kset 0 x.applied key (kget 0 x.applied key + 1) }

/-- An entry that the bank of its line has counted, with the line that it joins. -/
def Span.joinLine (d : Desc) (di : Nat) (e : ScatEntry) (x : Span) : Span :=
  { x.countApplied (di * 16 + e.line % 16) with
    lines := kset Line.zero x.lines e.line ((kget Line.zero x.lines e.line).scatter d di e.line e).1 }

/-- Within SCAT_CAP an entry costs nothing: its bank counts it. -/
theorem State.countEntry_within {p di line : Nat} {d : Desc} {s : State}
    (hcap : kget 0 (s.span p).applied (di * 16 + line % 16) + 1 ≤ d.scatCap) (l slot : Nat) :
    s.countEntry l p di d line slot
      = (some 0, s.modSpan p (fun x => (x.countApplied (di * 16 + line % 16)).inc 0x318 1)) := by
  have hin : decide (d.scatCap < kget 0 (s.span p).applied (di * 16 + line % 16) + 1) = false :=
    decide_eq_false (Nat.not_lt.2 hcap)
  simp only [State.countEntry, hin, bit, Bool.false_eq_true, if_false, if_true]
  rfl

theorem SpanCounted.eq {a b : Span} (h : SpanCounted a b) : b = { a with counters := b.counters } := by
  obtain ⟨cs, rfl⟩ := h.counted
  rfl

section
variable (l cyc : Nat) {p di : Nat} {e : ScatEntry} {d : Desc} {s : State} (hd : s.layer? p = some d)
  (hdi : (s.span p).cells.layer = some di)
include hd hdi

/-- An entry for a line outside the layer's scatter lines is dropped. -/
theorem State.applyEntry_outside (hout : ¬d.scatters e.line) :
    OneSpan p s (s.applyEntry l p cyc e) ∧ SpanCounted (s.span p) ((s.applyEntry l p cyc e).span p) := by
  have hdrop : (!d.scatEn || decide (e.line < d.scatBase) || decide (d.scatBase + d.scatLines ≤ e.line)) = true := by
    rw [Desc.scatters] at hout
    cases hen : d.scatEn <;> simp [hen] at hout ⊢
    omega
  have he : s.applyEntry l p cyc e = s.modSpan p (Span.inc 0x324 1) := by
    simp only [State.applyEntry, hd, hdi, hdrop, if_true]
  rw [he, State.span_modSpan_same]
  exact ⟨⟨rfl, fun k hk => State.span_modSpan_other hk _ _⟩, Span.inc_counted _ _ _⟩

/-- An entry within SCAT_CAP joins its line; counters move besides. -/
theorem State.applyEntry_within (hline : d.scatters e.line)
    (hcap : kget 0 (s.span p).applied (di * 16 + e.line % 16) + 1 ≤ d.scatCap) :
    OneSpan p s (s.applyEntry l p cyc e) ∧ SpanCounted ((s.span p).joinLine d di e) ((s.applyEntry l p cyc e).span p) := by
  obtain ⟨hen, hlow, hhigh⟩ := hline
  obtain ⟨cs, hcs⟩ := (Span.inc_counted 0x318 1 ((s.span p).countApplied (di * 16 + e.line % 16))).counted
  have hin : (!d.scatEn || decide (e.line < d.scatBase) || decide (d.scatBase + d.scatLines ≤ e.line)) = false := by
    simp [hen, hlow, hhigh]
  simp only [State.applyEntry, hd, hdi, hin, State.countEntry_within hcap, Bool.false_eq_true, if_false, Nat.lt_irrefl]
  refine ⟨⟨rfl, fun k hk => (State.span_modSpan_other hk _ _).trans (State.span_modSpan_other hk _ _)⟩, ?_⟩
  rw [State.span_modSpan_same, State.span_modSpan_same, hcs]
  exact SpanCounted.trans ⟨cs, rfl⟩ (Span.inc_counted 0x210 _ _)

end

/-! ### The entry that is taken (R191) -/

/-- The oldest entry of a bank's queue is taken in a cycle; its source remembers the cycle. -/
def State.takeEntry (p q bank cyc : Nat) (rest : List ScatEntry) (s : State) : State :=
  (s.modSpan p (fun x => { x with queues := kset [] x.queues bank rest, bankAt := kset 0 x.bankAt bank (cyc + 1) })).modSpan q
    (fun y => { y with scatAt := max y.scatAt cyc })

section
variable {p q : Nat} (bank cyc : Nat) (rest : List ScatEntry) (s : State)

theorem State.takeEntry_span_taker : (s.takeEntry p q bank cyc rest).span p = { s.span p with
    queues := kset [] (s.span p).queues bank rest, bankAt := kset 0 (s.span p).bankAt bank (cyc + 1)
    scatAt := if q = p then max (s.span p).scatAt cyc else (s.span p).scatAt } := by
  unfold State.takeEntry
  by_cases h : q = p
  · rw [if_pos h, h, State.span_modSpan_same, State.span_modSpan_same]
  · rw [if_neg h, State.span_modSpan_other (Ne.symm h), State.span_modSpan_same]

theorem State.takeEntry_span_source (h : q ≠ p) :
    (s.takeEntry p q bank cyc rest).span q = { s.span q with scatAt := max (s.span q).scatAt cyc } := by
  unfold State.takeEntry
  rw [State.span_modSpan_same, State.span_modSpan_other h]

theorem State.takeEntry_span_other {k : Nat} (hp : k ≠ p) (hq : k ≠ q) :
    (s.takeEntry p q bank cyc rest).span k = s.span k := by
  unfold State.takeEntry
  rw [State.span_modSpan_other hq, State.span_modSpan_other hp]

theorem State.takeEntry_layer? : (s.takeEntry p q bank cyc rest).layer? p = s.layer? p := by
  unfold State.layer?
  rw [State.takeEntry_span_taker]
  rfl

end

section
variable {s0 s : State} {l : Fin 128} {bank : Fin 16} {p q cyc : Nat} {e : ScatEntry} {rest : List ScatEntry}
  (hs : s0.toCyc cyc = s) (hact : s.tick.active = true) (hp : s.phys? l.val = some p)
  (hqueue : (s.span p).bankQueue bank.val = e :: rest)
include hs hact hp hqueue

theorem exec_scatterEntryApply_waits (h : (s.span p).lineZeroed e.line cyc = true ∨ cyc < kget 0 (s.span p).bankAt bank.val) :
    exec (.scatterEntryApply l cyc bank) s0 = .next s := by
  show execScatterEntryApply l cyc bank s0 = _
  have hwait : ((s.span p).lineZeroed e.line cyc || decide (cyc < kget 0 (s.span p).bankAt bank.val)) = true := by simpa using h
  simp [execScatterEntryApply, hs, hact, hp, hqueue, hwait]

theorem exec_scatterEntryApply_takes (hq : s.phys? e.src = some q) (hzero : (s.span p).lineZeroed e.line cyc = false)
    (hfree : kget 0 (s.span p).bankAt bank.val ≤ cyc) : exec (.scatterEntryApply l cyc bank) s0
      = .next ((s.takeEntry p q bank.val cyc rest).applyEntry l.val p cyc e) := by
  show execScatterEntryApply l cyc bank s0 = _
  have hgo : ((s.span p).lineZeroed e.line cyc || decide (cyc < kget 0 (s.span p).bankAt bank.val)) = false := by
    simp [hzero, hfree]
  have hsrc (f : Span → Span) : (s.modSpan p f).phys? e.src = some q := hq
  simp only [execScatterEntryApply, hs, hact, hp, hqueue, hgo, hsrc, Bool.not_true, Bool.false_eq_true, if_false]
  rfl

end

/-- Settles O35: the bank waits, or takes the entry and applies it to its line or drops it. -/
theorem scatterEntryJoinsItsLine : Obligations.ScatterEntryJoinsItsLine := by
  unfold Obligations.ScatterEntryJoinsItsLine
  intro s0 l bank p q cyc di e rest d s x hact hp hq hqueue
  refine ⟨exec_scatterEntryApply_waits rfl hact hp hqueue, fun hzero hfree hd hdi => ?_⟩
  have hexec := exec_scatterEntryApply_takes rfl hact hp hqueue hq hzero hfree
  have htaker := State.takeEntry_span_taker (p := p) (q := q) bank.val cyc rest s
  have hsource := State.takeEntry_span_source (p := p) (q := q) bank.val cyc rest s
  have hother (k : Nat) := State.takeEntry_span_other (p := p) (q := q) (k := k) bank.val cyc rest s
  have hdz := (State.takeEntry_layer? (q := q) bank.val cyc rest s).trans hd
  have hpz : (s.takeEntry p q bank.val cyc rest).phys? l.val = some p := hp
  have hframe : s.takeEntry p q bank.val cyc rest = { s with spans := (s.takeEntry p q bank.val cyc rest).spans } := rfl
  generalize s.takeEntry p q bank.val cyc rest = z at hexec htaker hsource hother hdz hpz hframe
  have hdiz : (z.span p).cells.layer = some di := by rw [htaker]; exact hdi
  refine ⟨z.applyEntry l.val p cyc e, ((z.applyEntry l.val p cyc e).span p).counters, hexec,
    fun h => (State.applyEntry_span_other hpz h cyc e).trans (hsource h),
    fun k hkp hkq => (State.applyEntry_span_other hpz hkp cyc e).trans (hother k hkp hkq), ?_⟩
  have hleft {u : State} (h : OneSpan p z u) : u = { s with spans := u.spans } := by
    have hu := h.frame
    rw [hframe] at hu
    exact hu
  refine ⟨fun hen hlow hhigh hcap => ?_, fun hout => ?_⟩
  · obtain ⟨hone, hcount⟩ := State.applyEntry_within l.val cyc hdz hdiz ⟨hen, hlow, hhigh⟩ (by rw [htaker]; exact hcap)
    refine ⟨hleft hone, hcount.eq.trans ?_⟩
    rw [htaker]
    rfl
  · have hnot : ¬d.scatters e.line := by
      rintro ⟨hen, hlow, hhigh⟩
      rcases hout with h | h | h
      · exact absurd (hen.symm.trans h) (by decide)
      · omega
      · omega
    obtain ⟨hone, hcount⟩ := State.applyEntry_outside l.val cyc hdz hdiz hnot
    refine ⟨hleft hone, hcount.eq.trans ?_⟩
    rw [htaker]

end Sys2Proof.Machine
end

section
/-! PROOFS. Streams: their granules land, scatter entries leave for their banks, and acknowledgements are counted
(spec/06_skipped_work.md, R276, R284, R288 to R290, R318, R336). -/

namespace Sys2Proof.Machine
open Sys2Proof

/-! ### Counters and ports of other spans -/

theorem State.phys?_of_binding {s u : State} (h : u.binding = s.binding) (l : Nat) : u.phys? l = s.phys? l := by
  unfold State.phys?; rw [h]

theorem State.ctrAdd_unbound {l : Nat} {s : State} (hp : s.phys? l = none) (cyc c n : Nat) : s.ctrAdd cyc l c n = s := by
  unfold State.ctrAdd; rw [hp]

theorem State.ctrAdd_bound {l p n : Nat} {s : State} (hp : s.phys? l = some p) (hn : n ≠ 0) (cyc c : Nat) :
    s.ctrAdd cyc l c n = s.modSpan p (fun x => { x with seq := x.seq.change cyc c .add n }) := by
  unfold State.ctrAdd
  rw [hp]
  exact if_neg hn

theorem State.askPuts_binding (l : Nat) (ws : List DeckPut) (s : State) : (s.askPuts l ws).binding = s.binding := by
  unfold State.askPuts
  split
  · rfl
  · split <;> rfl

theorem State.flitError_rest (bad : Option (Fin 132)) (s : State) :
    s.flitError bad = { s with flt := (s.flitError bad).flt } := by
  unfold State.flitError
  split <;> rfl

theorem State.moveOut_binding (l cyc : Nat) (deck : DeckUse) (bad : Option (Fin 132)) (m : Moved) (s : State) :
    (s.moveOut l cyc deck bad m).binding = s.binding := by
  unfold State.moveOut
  refine List.foldlRecOn (motive := fun u : State => u.binding = s.binding) _ _ ?_ fun u hu t _ => ?_
  · rw [State.flitError_rest]
  · exact (State.askPuts_binding ..).trans hu

/-- R336: a granule asks the port of the deck store that it goes to. -/
theorem State.moveOut_one {l cyc t q : Nat} {r : PutRaise} {s : State} (hact : s.tick.active = true) (hq : s.phys? t = some q)
    (deck : DeckUse) (bad : Option (Fin 132)) (g : Nat) (v : BitVec 256 × Bool × Bool) :
    s.moveOut l cyc deck bad { targets := [(t, r)], g := g, value := v }
      = (s.flitError bad).modSpan q (fun x => { x with puts := x.puts ++ [{ cyc := cyc + deckDelay deck, client := .stream
                                                                            src := l, g := g, v := v.1, poison := v.2.1
                                                                            flit := v.2.2 || bad.isSome, raise := r }] }) := by
  have hact' : (s.flitError bad).tick.active = true := by rw [State.flitError_rest]; exact hact
  have hq' : (s.flitError bad).phys? t = some q := by rw [State.flitError_rest]; exact hq
  simp only [State.moveOut, List.foldl_cons, List.foldl_nil, State.askPuts, hact', hq', Bool.not_true, Bool.false_eq_true, if_false]

/-! ### Granules of device memory (R276, R367) -/

theorem MemCounted.read {s u : State} (h : MemCounted s u) : ReadCounted s u := by
  have hframe := h.frame
  exact ⟨⟨_, _, _, _, by rw [hframe]⟩, h.memByte⟩

theorem ReadCounted.refl (s : State) : ReadCounted s s := (MemCounted.refl s).read

theorem ReadCounted.ite {c : Prop} [Decidable c] {s u v : State} (hu : ReadCounted s u) (hv : ReadCounted s v) :
    ReadCounted s (if c then u else v) := by
  split
  · exact hu
  · exact hv

theorem State.readBytes_read (offs : List Nat) (s : State) : ReadCounted s (s.readBytes offs).2 := by
  obtain ⟨-, -, z, hz, hr⟩ := s.readBytes_spec offs
  have hframe := hz.frame
  rw [hr]
  exact ⟨⟨_, _, _, _, by rw [hframe]⟩, hz.memByte⟩

theorem State.loadGranule_read (v : Stream) (i : Nat) (s : State) : ReadCounted s (s.loadGranule v i).2 := by
  unfold State.loadGranule
  dsimp only
  split
  · exact .refl s
  · split
    · exact State.readBytes_read _ s
    · exact .ite (State.memRead_counted _ s).2.read (.refl s)

theorem State.loadGranule_span (v : Stream) (i : Nat) (s : State) (p : Nat) : (s.loadGranule v i).2.span p = s.span p := by
  obtain ⟨c, o, f, l, hr⟩ := (s.loadGranule_read v i).frame
  rw [hr]
  rfl

theorem State.loadGranule_binding (v : Stream) (i : Nat) (s : State) : (s.loadGranule v i).2.binding = s.binding := by
  obtain ⟨c, o, f, l, hr⟩ := (s.loadGranule_read v i).frame
  rw [hr]

/-- Poison is of whole granules. -/
theorem State.poisoned_granule (s : State) (g : Nat) {k : Nat} (hk : k < 32) : s.poisoned (32 * g + k) = s.poisoned (32 * g) := by
  unfold State.poisoned stackOf
  rw [show (32 * g + k) / 32 = 32 * g / 32 by omega, show (32 * g + k) / 2 ^ 35 = 32 * g / 2 ^ 35 by omega]

/-- The DEVICE region is of whole granules. -/
theorem inDevice_granule (g : Nat) {k : Nat} (hk : k < 32) : inDevice (32 * g + k) = inDevice (32 * g) := by
  unfold inDevice
  exact decide_eq_decide.2 (by omega)

/-- A granule of plain memory that is neither poison nor of the DEVICE region is read as it stands. -/
theorem State.loadGranule_plain {v : Stream} {i g : Nat} {s : State} (hsrc : v.srcs.getD i 0 = g + 1) (hplaces : v.places = 0)
    (hgood : s.poisoned (32 * g) = false) (hdev : inDevice (32 * g) = false) :
    (s.loadGranule v i).1
      = (BitVec.ofNat 256 (bytesToNat ((List.range 32).map (fun k => s.memByte (32 * g + k)))), false) := by
  obtain ⟨hlen, hbyte, -⟩ := State.readBytes_spec (addrs (32 * g) 32) s
  have hread : (s.readBytes (addrs (32 * g) 32)).1 = (List.range 32).map (fun k => s.memByte (32 * g + k)) := by
    refine List.ext_getElem (by rw [hlen]; simp [addrs]) fun k hk hk' => ?_
    have hk32 : k < 32 := by simpa using hk'
    have h := hbyte k (32 * g + k) (by simp [addrs, hk32]) ((s.poisoned_granule g hk32).trans hgood)
      ((inDevice_granule g hk32).trans hdev)
    simpa [hk] using h
  simp only [State.loadGranule, hsrc, hplaces, Nat.add_sub_cancel, Nat.add_one_ne_zero, if_false, if_true, hread, hgood]

/-! ### What a granule becomes (R276, R289, R290) -/

theorem Span.incBytes_counted (o n : Nat) (x : Span) : SpanCounted x (x.incBytes o n) := by
  unfold Span.incBytes
  split
  · exact ⟨x.counters, rfl⟩
  · exact ⟨_, rfl⟩

section
variable {l p slot i cyc : Nat} {v : Stream} {s : State}

/-- A granule of a stream of logical span `l`'s own deck store, and what its landing there does. -/
def Stream.own (l slot i : Nat) (v : Stream) (value : BitVec 256 × Bool × Bool) : Moved :=
  { targets := [(l, .stream slot i)], g := v.dsts.getD i 0, value := value }

/-- A granule of device memory is loaded, its stream becomes `w` and the sequencer changes by `f`. -/
def State.loadInto (l p slot i : Nat) (v w : Stream) (f : Sequencer → Sequencer) (s : State) : Moved × State :=
  let r := s.loadGranule v i
  (v.own l slot i (r.1.1, r.1.2, false), r.2.modSpan p (fun x => { x with seq := f x.seq, streams := kins x.streams slot w }))

theorem State.loadInto_binding (w : Stream) (f : Sequencer → Sequencer) :
    (s.loadInto l p slot i v w f).2.binding = s.binding := s.loadGranule_binding v i

section
variable (hkind : v.kind = .mload ∨ v.kind = .kvrd)
include hkind

theorem State.takeGranule_load : s.takeGranule l p slot i cyc v
    = ((s.span p).takeFen cyc v i).map (fun t => s.loadInto l p slot i v t.1 (fun _ => t.2.seq)) := by
  rcases hkind with h | h <;> simp only [State.takeGranule, h] <;> rfl

theorem State.takeGranule_short {f : Nat} (hfen : v.fen = some f) (hshort : (s.span p).seq.avail f < i + 1 - v.taken) :
    s.takeGranule l p slot i cyc v = none := by
  simp only [State.takeGranule_load hkind, Span.takeFen, hfen, hshort, if_true, Option.map_none]

theorem State.takeGranule_uncounted (hfen : v.fen = none) :
    s.takeGranule l p slot i cyc v = some (s.loadInto l p slot i v v id) := by
  simp only [State.takeGranule_load hkind, Span.takeFen, hfen, Option.map_some, State.loadInto, State.modSpan,
    State.loadGranule_span, id]

/-- R276: where FCTR covers the granule, what it needs is taken from the counter. -/
theorem State.takeGranule_covered {f : Nat} (hfen : v.fen = some f) (henough : i + 1 - v.taken ≤ (s.span p).seq.avail f) :
    s.takeGranule l p slot i cyc v = some (s.loadInto l p slot i v { v with taken := v.taken + (i + 1 - v.taken) }
      (Sequencer.change cyc f .sub (i + 1 - v.taken))) := by
  simp only [State.takeGranule_load hkind, Span.takeFen, hfen, Nat.not_lt.2 henough, if_false, Option.map_some, State.loadInto,
    State.modSpan, State.loadGranule_span]

end

section
variable (l p slot i cyc : Nat) (s : State)

theorem State.takeGranule_send (hkind : v.kind = .send) : ∃ cs, s.takeGranule l p slot i cyc v
    = some ({ targets := v.targets.map (fun t => (t, .ctr v.rctr 1)), g := v.dsts.getD i 0
              value := (s.span p).heldGranule (v.srcs.getD i 0) },
        s.setSpan p ({ s.span p with counters := cs }.setStream slot (v.land i))) := by
  obtain ⟨cs, hcs⟩ := (Span.readG_counted [v.srcs.getD i 0] (s.span p)).counted
  refine ⟨cs, ?_⟩
  simp only [State.takeGranule, hkind, State.modSpan, hcs]

theorem State.takeGranule_gath {q : Nat} (hkind : v.kind = .gath) (hq : s.phys? (v.targets.headD l) = some q) :
    ∃ cs, s.takeGranule l p slot i cyc v = some (v.own l slot i ((s.span q).heldGranule (v.srcs.getD i 0)),
      s.setSpan q { s.span q with counters := cs }) := by
  obtain ⟨cs, hcs⟩ := (Span.readG_counted [v.srcs.getD i 0] (s.span q)).counted
  refine ⟨cs, ?_⟩
  simp only [State.takeGranule, hkind, hq, Option.map_some, State.modSpan, hcs]
  rfl

theorem State.takeGranule_fill (hkind : v.kind = .fill) : s.takeGranule l p slot i cyc v
    = if cyc ≤ v.since + i / 8 then none
      else some (v.own l slot i
        (BitVec.ofNat 256 (((List.range 8).map (fun i => v.pattern.toNat * 2 ^ (32 * i))).sum), false, false), s) := by
  simp only [State.takeGranule, hkind]
  rfl

theorem State.takeGranule_copy (hkind : v.kind = .copy) : ∃ cs, s.takeGranule l p slot i cyc v
    = if cyc ≤ v.since + i / 4 then none
      else some (v.own l slot i (v.held.getD i (0, false, false)), s.setSpan p { s.span p with counters := cs }) := by
  obtain ⟨cs, hcs⟩ := (Span.incBytes_counted 0x3A0 32 (s.span p)).counted
  refine ⟨cs, ?_⟩
  simp only [State.takeGranule, hkind, State.modSpan, hcs]
  rfl

end

end

/-! ### Scatter entries leave (R191) -/

section
variable {l p i : Nat} (slot cyc : Nat) {v : Stream} {s : State} (hfull : v.fullFrom = none)
include hfull

theorem State.scatSend_unbound (hq : s.phys? ((s.span p).scatEntry l v i).1 = none) :
    let u := s.scatSend l p slot i cyc v
    u.span p = (s.span p).setStream slot { v with count := i + 1 } ∧ OneSpan p s u := by
  have hu : s.scatSend l p slot i cyc v
      = (s.setSpan p (s.span p)).modSpan p (Span.setStream slot { v with count := i + 1 }) := by
    have hq' (f : Span → Span) : (s.modSpan p f).phys? ((s.span p).scatEntry l v i).1 = none := hq
    simp only [State.scatSend, hq', hfull]
    rfl
  rw [hu]
  refine ⟨by rw [State.span_modSpan_same, State.span_setSpan_same], rfl, fun k hk => ?_⟩
  rw [State.span_modSpan_other hk, State.span_setSpan_other hk]

variable {q : Nat} (hq : s.phys? ((s.span p).scatEntry l v i).1 = some q) (hqp : q ≠ p)
include hq hqp

/-- Where the queue of its bank is full, the entry waits. -/
theorem State.scatSend_waits (hlen : 32 ≤ ((s.span q).bankQueue (((s.span p).scatEntry l v i).2.line % 16)).length) :
    let u := s.scatSend l p slot i cyc v
    u.span p = { s.span p with streams := kins (s.span p).streams slot { v with fullFrom := some cyc } } ∧ OneSpan p s u := by
  have hu : s.scatSend l p slot i cyc v = (s.setSpan p (s.span p)).modSpan p (fun x =>
      { x with streams := kins x.streams slot { v with fullFrom := some cyc } }) := by
    have hq' (x : Span) : (s.setSpan p x).phys? ((s.span p).scatEntry l v i).1 = some q := hq
    have hself : s.modSpan p (fun x => x.inc 0x31C 0) = s.setSpan p (s.span p) := rfl
    simp only [State.scatSend, hfull, Option.map_none, Option.getD_none, hself, hq', State.span_setSpan_other hqp, hlen, if_true]
  rw [hu]
  refine ⟨by rw [State.span_modSpan_same, State.span_setSpan_same], rfl, fun k hk => ?_⟩
  rw [State.span_modSpan_other hk, State.span_setSpan_other hk]

/-- An entry joins the queue of its bank while that has room. -/
theorem State.scatSend_joins (hlen : ((s.span q).bankQueue (((s.span p).scatEntry l v i).2.line % 16)).length < 32) :
    let e := ((s.span p).scatEntry l v i).2
    ∃ (u : State) (cs : List (Nat × Counter)),
      s.scatSend l p slot i cyc v = u.checkPoison l p [v.srcs.getD i 0, v.dsts.getD (i / 4) 0]
      ∧ u.span q = { s.span q with queues := kset [] (s.span q).queues (e.line % 16) ((s.span q).bankQueue (e.line % 16) ++ [e]) }
      ∧ u.span p = { s.span p with counters := cs }.setStream slot { v with count := i + 1 }
      ∧ (∀ k, k ≠ p → k ≠ q → u.span k = s.span k) ∧ u = { s with spans := u.spans } := by
  intro e
  obtain ⟨cs, hcs⟩ := (Span.readG_counted [v.srcs.getD i 0] (s.span p)).counted
  have hu : s.scatSend l p slot i cyc v = (((s.setSpan p (s.span p)).modSpan q (fun y =>
        { y with queues := kset [] y.queues (e.line % 16) (y.bankQueue (e.line % 16) ++ [e]) })).modSpan p (fun x =>
          (x.readG [v.srcs.getD i 0]).2.setStream slot { v with count := i + 1 })).checkPoison l p
            [v.srcs.getD i 0, v.dsts.getD (i / 4) 0] := by
    have hq' (x : Span) : (s.setSpan p x).phys? ((s.span p).scatEntry l v i).1 = some q := hq
    have hself : s.modSpan p (fun x => x.inc 0x31C 0) = s.setSpan p (s.span p) := rfl
    simp only [State.scatSend, hfull, Option.map_none, Option.getD_none, hself, hq', State.span_setSpan_other hqp, Nat.not_le.2 hlen,
      if_false]
    rfl
  refine ⟨_, cs, hu, ?_, ?_, fun k hkp hkq => ?_, rfl⟩
  · rw [State.span_modSpan_other hqp, State.span_modSpan_same, State.span_setSpan_other hqp]
  · rw [State.span_modSpan_same, State.span_modSpan_other hqp.symm, State.span_setSpan_same, hcs]
  · rw [State.span_modSpan_other hkp, State.span_modSpan_other hkq, State.span_setSpan_other hkp]

end

/-! ### A granule arrives -/

section
variable {l p cyc slot idx : Nat} {deck : DeckUse} {bad : Option (Fin 132)} {v : Stream} {s : State}
  (hp : s.phys? l = some p) (hv : kfind? (s.span p).streams slot = some v)
include hp hv

/-- What has landed, is on its way or does not exist changes nothing. -/
theorem State.granuleArrives_gone (hmay : (s.span p).mayMove slot idx v = false) :
    s.granuleArrives l cyc slot idx deck bad = s := by
  simp [State.granuleArrives, hp, hv, hmay]

variable (hact : s.tick.active = true) (hmay : (s.span p).mayMove slot idx v = true)
include hact hmay

theorem State.granuleArrives_holds (hkind : v.kind ≠ .scat) (hnone : s.takeGranule l p slot idx cyc v = none) :
    s.granuleArrives l cyc slot idx deck bad = s := by
  simp [State.granuleArrives, hact, hp, hv, hmay, hkind, hnone]

theorem State.granuleArrives_moves {m : Moved} {u : State} {q : Nat} (hkind : v.kind ≠ .scat)
    (htake : s.takeGranule l p slot idx cyc v = some (m, u)) (hu : u.binding = s.binding) (hq : s.phys? (v.from_ l) = some q) :
    s.granuleArrives l cyc slot idx deck bad = (u.moveOut l cyc deck bad m).deckUse (v.from_ l) q deck := by
  have hq' : (u.moveOut l cyc deck bad m).phys? (v.from_ l) = some q :=
    (State.phys?_of_binding ((State.moveOut_binding ..).trans hu) _).trans hq
  simp [State.granuleArrives, hact, hp, hv, hmay, hkind, htake, hq']

/-- The same for a stream that reads its own span. -/
theorem State.granuleArrives_movesOwn {m : Moved} {u : State} (hscat : v.kind ≠ .scat) (hgath : v.kind ≠ .gath)
    (htake : s.takeGranule l p slot idx cyc v = some (m, u)) (hu : u.binding = s.binding) :
    s.granuleArrives l cyc slot idx deck bad = (u.moveOut l cyc deck bad m).deckUse l p deck := by
  have hfrom : v.from_ l = l := if_neg hgath
  have h := State.granuleArrives_moves (deck := deck) (bad := bad) hp hv hact hmay hscat htake hu (q := p) (by rw [hfrom]; exact hp)
  rwa [hfrom] at h

theorem State.granuleArrives_scat (hkind : v.kind = .scat) (hidx : idx = v.count) :
    s.granuleArrives l cyc slot idx deck bad = (s.scatSend l p slot idx cyc v).deckUse l p deck := by
  subst hidx
  simp [State.granuleArrives, hact, hp, hv, hmay, hkind]

end

theorem exec_streamGranuleLanded {s0 s : State} {l : Fin 128} {cyc : Nat} (hs : s0.toCyc cyc = s) (slot : Fin 8) (idx : Nat)
    (errs : MemErrs) (deck : DeckUse) (bad : Option (Fin 132)) :
    exec (.streamGranuleLanded l cyc slot idx errs deck bad) s0
      = .next ((s.upset errs).granuleArrives l.val cyc slot.val idx deck bad).routerCheck := by
  show execStreamGranuleLanded l cyc slot idx errs deck bad s0 = _
  rw [execStreamGranuleLanded, hs]

/-! ### Granules land (R265, R318, R336) -/

theorem Span.putG_seq (g : Nat) (v : BitVec 256) (poison flit : Bool) (x : Span) : (x.putG g v poison flit).seq = x.seq := by
  unfold Span.putG; rfl

theorem Span.putG_streams (g : Nat) (v : BitVec 256) (poison flit : Bool) (x : Span) :
    (x.putG g v poison flit).streams = x.streams := by
  unfold Span.putG; rfl

/-- A granule that its span's own stream brings, into no preloaded range, is written, and SCTR rises by what the longest prefix
gained. -/
theorem State.landPut_stream {l p c slot idx : Nat} {w : DeckPut} {v : Stream} {s : State} (hact : s.tick.active = true)
    (hsrc : w.src = l) (hraise : w.raise = .stream slot idx) (hfree : (s.span p).preloaded w.g = false)
    (hv : kfind? (s.span p).streams slot = some v) (hphase : (s.span p).seq.phase ≠ 0) :
    ∃ cs, s.landPut l p c w = (s.setSpan p ({ (s.span p).putG w.g w.v w.poison w.flit with counters := cs }.setStream slot
      (v.land idx))).ctrAdd c l v.sctr (v.rise v.count (v.land idx).count) := by
  have hseq := (s.span p).putG_seq w.g w.v w.poison w.flit
  have hstreams := (s.span p).putG_streams w.g w.v w.poison w.flit
  have hput : s.landPut l p c w
      = (s.setSpan p (((s.span p).putG w.g w.v w.poison w.flit).incBytes 0x3A4 32)).landed l p c (.stream slot idx) := by
    simp only [State.landPut, hact, hsrc, hfree, hraise, Bool.not_true, Bool.false_eq_true, if_false, ne_eq, not_true_eq_false,
      decide_false, Bool.false_and, State.modSpan]
    cases s.phys? l <;> rfl
  rw [hput]
  generalize (s.span p).putG w.g w.v w.poison w.flit = x at hseq hstreams ⊢
  obtain ⟨cs, hcs⟩ := (Span.incBytes_counted 0x3A4 32 x).counted
  refine ⟨cs, ?_⟩
  rw [← hseq] at hphase
  rw [← hstreams] at hv
  have hwritten : ({ x with counters := cs } : Span) ≠ Span.idle := Span.ne_idle hphase
  have hset : ({ x with counters := cs } : Span).setStream slot (v.land idx) ≠ Span.idle := Span.ne_idle hphase
  simp only [hcs, State.landed, State.span_setSpan_same, hv, State.modSpan, State.setSpan_twice hwritten hset]

/-! ### Acknowledgements (R284, R288) -/

section
variable {s0 s : State} {l : Fin 128} {p cyc : Nat} (hs : s0.toCyc cyc = s) (hact : s.tick.active = true)
  (hp : s.phys? l.val = some p)
include hs hact hp

theorem exec_streamAck {slot : Fin 8} {v : Stream} (n : Nat) (hv : kfind? (s.span p).streams slot.val = some v) :
    exec (.streamAck l cyc slot n) s0
      = .next (if v.needAck && v.remote.isEmpty then s.ackStream cyc l.val p slot.val n v else s) := by
  show execStreamAck l cyc slot n s0 = _
  simp only [execStreamAck, hs, hact, hp, hv, Bool.not_true, Bool.false_eq_true, if_false, apply_ite Host.Outcome.next]

theorem exec_kvappAck {a : KvAck} {rest : List KvAck} (errs : MemErrs) (hacks : (s.span p).abt.kvAcks = a :: rest) :
    exec (.kvappAck l cyc errs) s0 = .next (if cyc < a.cyc then s.upset errs
      else a.spans.foldl (fun y t => y.ctrAdd cyc t a.ctr 1)
        (((s.upset errs).modSpan p (fun x => { x with abt := { x.abt with kvAcks := rest } })).memWrite a.bytes)) := by
  show execKvappAck l cyc errs s0 = _
  have hact' : (s.upset errs).tick.active = true := hact
  have hp' : (s.upset errs).phys? l.val = some p := hp
  have hacks' : ((s.upset errs).span p).abt.kvAcks = a :: rest := hacks
  simp only [execKvappAck, hs, hact', hp', hacks', Bool.not_true, Bool.false_eq_true, if_false, apply_ite Host.Outcome.next]

end

/-- Settles O34: what a granule becomes by the kind of its stream, then the acknowledgements, the port, the read of a granule and its
landing. It holds through the model's choices of log entries 33, 34 and 42. -/
theorem streamsLandAndAreAcknowledged : Obligations.StreamsLandAndAreAcknowledged := by
  unfold Obligations.StreamsLandAndAreAcknowledged
  refine ⟨?_, fun l cyc t q deck bad r g v s hact hq => State.moveOut_one hact hq deck bad g v,
    fun v i g s => State.loadGranule_plain, fun l p c slot idx w v s => State.landPut_stream⟩
  intro s0 l p cyc s hact hp raise
  refine ⟨?_, ?_, fun a rest errs hacks => ?_⟩
  · intro slot idx errs deck bad v hv x y com mv own
    have hacty : y.tick.active = true := hact
    have hpy : y.phys? l.val = some p := hp
    have hvy : kfind? (y.span p).streams slot.val = some v := hv
    have arrives {u : State} (h : y.granuleArrives l.val cyc slot.val idx deck bad = u) : exec com s0 = .next u.routerCheck := by
      rw [← h]
      exact exec_streamGranuleLanded rfl slot idx errs deck bad
    refine ⟨fun hmay => arrives (State.granuleArrives_gone hpy hvy hmay), fun hmay => ?_⟩
    have stays (hkind : v.kind ≠ .scat) (h : y.takeGranule l.val p slot.val idx cyc v = none) :=
      arrives (State.granuleArrives_holds hpy hvy hacty hmay hkind h)
    have moves {m : Moved} {u : State} (hscat : v.kind ≠ .scat) (hgath : v.kind ≠ .gath)
        (h : y.takeGranule l.val p slot.val idx cyc v = some (m, u)) (hu : u.binding = y.binding) :=
      arrives (State.granuleArrives_movesOwn (deck := deck) (bad := bad) hpy hvy hacty hmay hscat hgath h hu)
    refine ⟨fun hkind => ?_, fun hkind => ?_, fun hkind q hq => ?_, fun hkind => ?_, fun hkind => ?_, fun hkind hidx hfull => ?_⟩
    · have hscat : v.kind ≠ .scat := by rcases hkind with h | h <;> simp [h]
      have hgath : v.kind ≠ .gath := by rcases hkind with h | h <;> simp [h]
      have loads (w : Stream) (f : Sequencer → Sequencer)
          (h : y.takeGranule l.val p slot.val idx cyc v = some (y.loadInto l.val p slot.val idx v w f)) :=
        moves hscat hgath h (State.loadInto_binding (l := l.val) w f)
      exact ⟨fun f hfen hshort => stays hscat (State.takeGranule_short hkind hfen hshort),
        fun hfen => loads v id (State.takeGranule_uncounted hkind hfen),
        fun f hfen henough => loads _ (.change cyc f .sub (idx + 1 - v.taken)) (State.takeGranule_covered hkind hfen henough)⟩
    · obtain ⟨cs, htake⟩ := y.takeGranule_send l.val p slot.val idx cyc hkind
      exact ⟨cs, moves (by simp [hkind]) (by simp [hkind]) htake rfl⟩
    · obtain ⟨cs, htake⟩ := y.takeGranule_gath l.val p slot.val idx cyc hkind hq
      have hfrom : v.from_ l.val = v.targets.headD l.val := if_pos hkind
      have hmoves := State.granuleArrives_moves (deck := deck) (bad := bad) hpy hvy hacty hmay (by simp [hkind]) htake rfl
        (hfrom ▸ hq)
      rw [hfrom] at hmoves
      exact ⟨cs, arrives hmoves⟩
    · have htake := y.takeGranule_fill l.val p slot.val idx cyc hkind
      exact ⟨fun hearly => stays (by simp [hkind]) (htake.trans (if_pos hearly)),
        fun hdue => moves (by simp [hkind]) (by simp [hkind]) (htake.trans (if_neg (Nat.not_le.2 hdue))) rfl⟩
    · obtain ⟨cs, htake⟩ := y.takeGranule_copy l.val p slot.val idx cyc hkind
      exact ⟨fun hearly => stays (by simp [hkind]) (htake.trans (if_pos hearly)),
        fun hdue => ⟨cs, moves (by simp [hkind]) (by simp [hkind]) (htake.trans (if_neg (Nat.not_le.2 hdue))) rfl⟩⟩
    · have hexec := arrives (State.granuleArrives_scat (deck := deck) (bad := bad) hpy hvy hacty hmay hkind hidx)
      refine ⟨fun q hq hqp => ⟨fun hroom => ?_, fun hwait => ?_⟩, fun hq => ?_⟩
      · obtain ⟨u, cs, hu, hjoined, hsender, hothers, hframe⟩ :=
          State.scatSend_joins (s := y) slot.val cyc hfull hq hqp hroom
        rw [hu] at hexec
        exact ⟨u, cs, hexec, hjoined, hsender, hothers, hframe⟩
      · obtain ⟨hsender, hone⟩ := State.scatSend_waits (s := y) slot.val cyc hfull hq hqp hwait
        exact ⟨_, hexec, hsender, hone.others, hone.frame⟩
      · obtain ⟨hsender, hone⟩ := State.scatSend_unbound (s := y) slot.val cyc hfull hq
        exact ⟨_, hexec, hsender, hone.others, hone.frame⟩
  · intro slot n v hv k
    have hexec := exec_streamAck rfl hact hp n hv
    refine ⟨fun hneed hremote hk => ?_, fun hnot => ?_⟩
    · rw [hexec, if_pos (by simp [hneed, hremote])]
      exact congrArg _ (State.ctrAdd_bound (s := s.modSpan p _) hp hk cyc v.sctr)
    · rw [hexec, if_neg]
      rcases hnot with h | h <;> simp [h]
  · have hexec := exec_kvappAck rfl hact hp errs hacks
    refine ⟨fun hdue => ?_, fun hearly => ?_⟩
    · rw [hexec, if_neg (Nat.not_lt.2 hdue)]
      refine congrArg _ (List.foldl_rel (r := fun a b => a = b ∧ b.binding = s.binding) ⟨rfl, ?_⟩ fun t _ b c hbc => ?_).1
      · rw [State.memWrite_rest]
        rfl
      · obtain ⟨rfl, hb⟩ := hbc
        have hphys : b.phys? t = s.phys? t := State.phys?_of_binding hb t
        cases ht : s.phys? t with
        | none => exact ⟨State.ctrAdd_unbound (hphys.trans ht) .., hb⟩
        | some q => exact ⟨State.ctrAdd_bound (hphys.trans ht) Nat.one_ne_zero .., hb⟩
    · rw [hexec, if_pos hearly]

end Sys2Proof.Machine
end

section
/-! PROOFS. The trestle unit: its work records, a weighted layer, failed checks and retests (spec/07_trestle.md, R321). -/

namespace Sys2Proof.Machine
open Sys2Proof

/-! ### SUSPECT entries and retests (R201, R218, R219) -/

/-- R219: the third SUSPECT entry fences the unit, and any other starts a retest. -/
theorem TrestleUnit.suspectEntry_eq (cause : Nat) (x : TrestleUnit) : x.suspectEntry cause = { x with
    state := if 3 ≤ x.suspects + 1 then .fenced else .suspect, cause := cause, suspects := x.suspects + 1
    retesting := decide (x.suspects + 1 < 3) } := by
  simp only [TrestleUnit.suspectEntry, decide_eq_true_eq, ← decide_not, Nat.not_le]

/-- R201, R218: a failed check is a fault of class 4 and a SUSPECT entry, which breaks the tick. -/
theorem State.trestleFault_eq (cause : Nat) (s : State) : s.trestleFault cause
    = ({ s.fault 4 cause 0xFF with trs := s.trs.suspectEntry cause }).breakTick .trestle := by
  rw [State.trestleFault, State.fault_trs]

theorem exec_retest {t : Nat} {who : Requester} {s y : State} (h : Reached t who s y) :
    exec (.retest t who) s = .next (if s.trs.state = .fenced then y else { y with trs := { s.trs with retesting := true } }) := by
  show execRetest t who s = _
  rw [execRetest, h.asMgmt, State.startRetest, h.trs]

section
variable (t : Nat) {s : State}

theorem exec_trestleRetestDone_idle (hidle : s.trs.retesting = false ∨ s.trs.state = .fenced) (pass : Bool) :
    exec (.trestleRetestDone t pass) s = .next (s.at t) := by
  show execTrestleRetestDone t pass s = _
  rw [execTrestleRetestDone, State.at_trs, if_pos (by simpa using hidle)]

variable (hretest : s.trs.retesting = true) (hfree : s.trs.state ≠ .fenced)
include hretest hfree

theorem exec_trestleRetestDone_passed :
    exec (.trestleRetestDone t true) s = .next { s.at t with trs := { s.trs with state := .inService, retesting := false } } := by
  show execTrestleRetestDone t true s = _
  simp [execTrestleRetestDone, hretest, hfree, TrestleUnit.retested]

/-- R218, R219: a failed retest is counted. A SUSPECT unit stays so and tests again; in any other the new entry breaks the tick. -/
theorem exec_trestleRetestDone_failed : exec (.trestleRetestDone t false) s = .next (
    if s.trs.state = .suspect then { (s.at t).inc 0x020524 1 with trs := { s.trs with cause := 5, retesting := true } }
    else ({ (s.at t).inc 0x020524 1 with trs := s.trs.suspectEntry 5 }).breakTick .trestle) := by
  show execTrestleRetestDone t false s = _
  by_cases hsuspect : s.trs.state = .suspect
  · simp [execTrestleRetestDone, hretest, hsuspect, TrestleUnit.retested]
  · simp [execTrestleRetestDone, hretest, hsuspect, hfree, TrestleUnit.retested]

end

/-! ### The weighted layer of one token (R203 to R205) -/

theorem State.trsWeights_read (d : Desc) (n r : Nat) (s : State) : ReadCounted s (s.trsWeights d n r).2 := by
  unfold State.trsWeights
  split
  · exact .refl s
  · split
    · exact .refl s
    · exact (State.memRead_counted _ s).2.read.trans (State.winAdd_read ..)

/-- R536: folding the outputs of a record moves only the tick's sums. -/
theorem State.foldTrs_rest (desc slot : Nat) (items : List (List Byte)) (s : State) :
    s.foldTrs desc slot items = { s with tick := (s.foldTrs desc slot items).tick } := by
  unfold State.foldTrs
  refine List.foldlRecOn (motive := fun u : State => u = { s with tick := u.tick }) _ _ rfl fun u hu e _ => ?_
  unfold State.foldItem
  split
  · exact hu
  · rw [hu]

theorem State.inc_withTrs (off n : Nat) (x : TrestleUnit) (s : State) :
    State.inc off n { s with trs := x } = { s.inc off n with trs := x } := by
  unfold State.inc
  split <;> rfl

/-- The sums of a token of a weighted layer, lane by lane. -/
def State.trsSums (d : Desc) (desc : Nat) (tok : Nat × Nat) (s : State) : List Int :=
  (s.trsWeights d (256 * d.inSegs) (16 * d.slice16)).1.map (fun row => (trsLane row (trsAligned (s.trs.vector desc tok)).1).1)

/-- A weighted layer of one token: its sums stay in the lanes, and the state has only read and counted. -/
theorem State.trsLayer_one {d : Desc} {src : Nat} {tok : Nat × Nat} {s : State} (htok : s.trs.tokens src = [tok]) :
    ∃ (e : Int) (u : State), ReadCounted s u
      ∧ s.trsLayer d false src = ([(tok, s.trsSums d src tok, e)], { u with trs := s.trs.leave (s.trsSums d src tok) }) := by
  have hread := s.trsWeights_read d (256 * d.inSegs) (16 * d.slice16)
  have htrs : (s.trsWeights d (256 * d.inSegs) (16 * d.slice16)).2.trs = s.trs := by
    obtain ⟨c, o, f, l, hw⟩ := hread.frame
    rw [hw]
  have counted (a b : Nat) := (hread.trans (State.inc_counted 0x020510 a _).read).trans (State.inc_counted 0x020514 b _).read
  simp only [State.trsLayer, State.trsSums, Desc.trsOutputs, htok, htrs, State.inc_withTrs, Bool.false_eq_true, if_false,
    List.map_cons, List.map_nil, List.map_map, List.flatMap_singleton, Function.comp_def]
  exact ⟨_, _, counted _ _, rfl⟩

/-- R205: a weighted layer of one token takes a pass of the 4,096 lanes for each 4,096 outputs and leaves its sums. -/
theorem State.runRecord_layer {r : TrsRec} {d : Desc} {tok : Nat × Nat} {s : State} (hkind : r.kind = 0)
    (hd : s.desc? r.desc = some d) (htok : s.trs.tokens r.src = [tok]) :
    ∃ u : State, ReadCounted s u ∧ s.runRecord r = (cdiv (16 * d.slice16) 4096 * (256 * d.inSegs) + 12,
      ({ u with trs := { s.trs.leave (s.trsSums d r.src tok) with
          outputs := kset [] s.trs.outputs ((r.desc * 4096 + tok.1) * 65536 + tok.2) (s.trsSums d r.src tok) } }).foldTrs
        r.desc tok.1 ((s.trsSums d r.src tok).map (fun v : Int => natToBytes 5 (v % 2 ^ 40).toNat))) := by
  obtain ⟨e, u, hu, hlayer⟩ := State.trsLayer_one (d := d) htok
  refine ⟨u, hu, ?_⟩
  simp [State.runRecord, hkind, hd, State.runLayerRec, hlayer, Desc.trsOutputs, TrestleUnit.leave]

/-! ### Records (R202, R321) -/

theorem State.runRecord_stop {r : TrsRec} (hkind : r.kind = 4) (s : State) : s.runRecord r = (0, s.stopAll 0xFE) := by
  simp [State.runRecord, hkind]

/-- What record `i` of a plan does once it is due, by what the checks of R201 find: it runs, and after the last of its phase the
unit arrives at the phase joint, or it fails. -/
def State.recordRuns (pl : Plan) (i : Nat) (r : TrsRec) (s : State) : TrsCheck → State
  | .residue => s.trestleFault 3
  | .bch => s.trestleFault 2
  | .ok =>
    let done := s.cycNow + (s.runRecord r).1
    let v := (s.runRecord r).2
    let u := { v with trs := { v.trs with nextRec := i + 1, readyAt := done } }
    if (pl.recordFrom r.phase (i + 1)).isSome || !v.tick.active then u else u.trestleArrives done

section
variable {t : Nat} {s0 s : State} (hs : (s0.at t).settled = s) (hact : s.tick.active = true) (hstate : s.trs.state = .inService)
  {pl : Plan} (hplan : s.plan? = some pl) {i : Nat} (hi : pl.recordFrom s.tick.phase s.trs.nextRec = some i)
  {r : TrsRec} (hr : pl.trestle[i]? = some r)
include hs hact hstate hplan hi hr

/-- R202, R321: the next record of the phase waits for its start and its input, and then runs. -/
theorem exec_trestleRecord (check : TrsCheck) : exec (.trestleRecord t check) s0 = .next (
    if s.cycNow < s.recordStart r ∨ (r.src ≠ 0xFFFF ∧ s.inputLanded r.src = false) then s else s.recordRuns pl i r check) := by
  show execTrestleRecord t check s0 = _
  simp only [execTrestleRecord, hs, hact, hstate, hplan, hi, hr, Option.bind_some, Option.map_some, Bool.not_true,
    Bool.false_eq_true, ne_eq, not_true_eq_false, or_self, if_false, Bool.not_eq_true']
  split
  · rfl
  · cases check <;> rfl

end

/-- Settles O36: the records, stop detection, the weighted layer of a token, failed checks, then retests as they start and end. It
holds through the model's choices of log entry 46. -/
theorem trestleRecordsAndRetests : Obligations.TrestleRecordsAndRetests := by
  unfold Obligations.TrestleRecordsAndRetests
  refine ⟨?_, fun s r hkind => State.runRecord_stop hkind s, ?_, ?_, fun t who s y h => ?_, fun t s => ?_⟩
  · intro t s0 pl r i s hact hstate hplan hi hr
    have hexec := exec_trestleRecord (s := s) rfl hact hstate hplan hi hr
    refine ⟨fun hwait check => (hexec check).trans (congrArg _ (if_pos hwait)), fun hdue hinput => ?_⟩
    have hnow : ¬(s.cycNow < s.recordStart r ∨ (r.src ≠ 0xFFFF ∧ s.inputLanded r.src = false)) := by
      rintro (hearly | ⟨hfrom, hmissing⟩)
      · exact Nat.not_lt.2 hdue hearly
      · rcases hinput with h | h
        · exact hfrom h
        · simp [h] at hmissing
    have runs (check : TrsCheck) : exec (.trestleRecord t check) s0 = .next (s.recordRuns pl i r check) :=
      (hexec check).trans (congrArg _ (if_neg hnow))
    refine ⟨runs .residue, runs .bch, fun hmore => ?_, fun hlast hactive => ?_⟩
    · exact (runs .ok).trans (congrArg _ (if_pos (by simpa using hmore)))
    · exact (runs .ok).trans (congrArg _ (if_neg (by simp [hlast, hactive])))
  · intro s r d tok hkind hd htok a sums
    obtain ⟨u, hu, hrun⟩ := State.runRecord_layer hkind hd htok
    obtain ⟨c, o, f, l, rfl⟩ := hu.frame
    rw [hrun, State.foldTrs_rest]
    exact ⟨rfl, rfl, rfl, rfl⟩
  · intro cause s
    rw [State.trestleFault_eq, TrestleUnit.suspectEntry_eq]
  · have hexec := exec_retest h
    exact ⟨fun hfree => hexec.trans (congrArg _ (if_neg hfree)), fun hfenced => hexec.trans (congrArg _ (if_pos hfenced))⟩
  · refine ⟨exec_trestleRetestDone_idle t, fun hretest hfree => ⟨exec_trestleRetestDone_passed t hretest hfree, ?_⟩⟩
    have hfailed := exec_trestleRetestDone_failed t hretest hfree
    rw [TrestleUnit.suspectEntry_eq] at hfailed
    exact ⟨fun hsuspect => hfailed.trans (congrArg _ (if_pos hsuspect)), fun hnew => hfailed.trans (congrArg _ (if_neg hnew))⟩

end Sys2Proof.Machine
end

section
/-! PROOFS. CREDIT, QUERY, CANCEL and HANDOVER, and the scan of deadlines outside a running job: statements of
spec/08_tick_keystone.md. -/

namespace Sys2Proof.Machine
open Sys2Proof

/-! ### Records outside ticks (R399) -/

section
variable {s : State}

/-- With no ticks running, a keystone record is an immediate one. -/
theorem State.handleKey_noTicks (hidle : s.ticking = false) (h : Nat) (e : EventRec) : s.handleKey h e = s.handleNow h e := by
  unfold State.handleKey
  rw [hidle]
  unfold State.handleNow
  cases kfind? s.handles h with
  | none => rfl
  | some i => by_cases hgone : i.gone = 0 <;> simp [hgone]

theorem State.answerKey_noTicks (hidle : s.ticking = false) (h status arg0 : Nat) :
    s.answerKey h status arg0 = s.answerNow h status arg0 0 0 := by
  unfold State.answerKey State.answerNow
  rw [hidle, if_neg Bool.false_ne_true, State.handleKey_noTicks hidle]

end

/-! ### What a hand-over's end is to a request without one (R171) -/

section
variable {s : State} {target : Nat} {q : Request} (hreq : kfind? s.requests target = some q) (hho : q.ho = none)
  (hnone : ∀ v ∈ s.via.hoIn, v.handle ≠ target)
include hreq hho

theorem State.breakHo_none : s.breakHo target = s := by
  unfold State.breakHo State.failHo
  simp only [hreq, hho, Option.bind_some]

include hnone

/-- A request that takes part in no hand-over has none to stop. -/
theorem State.stopHo_none : s.stopHo target = s := by
  have hfind : s.via.hoIn.find? (fun x => x.handle = target && !x.committed) = none := by
    rw [List.find?_eq_none]
    intro v hv
    simp [hnone v hv]
  unfold State.stopHo
  rw [State.breakHo_none hreq hho]
  simp only [hfind]

end

/-! ### CANCEL (R394, R255) -/

theorem State.cancelNow_gone {s : State} {target : Nat} (hreq : kfind? s.requests target = none) (h : Nat) :
    s.cancelNow h target = s.answerKey h 1 0 := by
  unfold State.cancelNow
  rw [hreq]

theorem State.cancelNow_ends {s : State} {target : Nat} {q : Request} (hreq : kfind? s.requests target = some q)
    (hlive : q.ending = none) (hho : q.ho = none) (hnone : ∀ v ∈ s.via.hoIn, v.handle ≠ target) (h : Nat) :
    s.cancelNow h target = (s.completeNow target 0x06 h).answerKey h 0 0 := by
  unfold State.cancelNow
  simp only [hreq, hlive, hho, Option.isSome_none, Bool.or_self, Bool.false_eq_true, if_false, State.stopHo_none hreq hho hnone]

theorem exec_cancel_passes {t part : Nat} {r : CmdRec} {s x : State}
    (hgate : (s.at t).gate r { known := true, right := none, reserves := 1, isLog := false, isRequest := false, pairDenied := true }
      (rzeros r [(12, 52)]) (badTarget (rfld r 8 4)) = .ok part x) :
    exec (.cancel t r) s = .next (let y := x.holdHandle r part (.cancel (rfld r 8 4)) 1
      if x.ticking then y.await { stamp := x.timebase, handle := r.handle.toNat, cmd := .cancel (rfld r 8 4) }
      else y.cancelNow r.handle.toNat (rfld r 8 4)) := by
  show execCancel t r s = _
  simp only [execCancel, hgate]
  exact (apply_ite Host.Outcome.next _ _ _).symm

/-- Settles O7, a command at a time, from what the gate of its record has left. It holds through the model's choices of log entries
13 (a CANCEL acts at once when no ticks run) and 66 (the order in which commands wait for a cut). -/
theorem creditQueryCancelHandoverComplete : Obligations.CreditQueryCancelHandoverComplete := by
  unfold Obligations.CreditQueryCancelHandoverComplete
  refine ⟨fun t r s x part hgate => ?_, fun t r s x part hgate => ⟨fun q hq => ?_, fun hq => ?_⟩,
    fun t r s x part hgate => ⟨fun hticks => ?_, fun hidle hq => ?_, fun hidle q hq hlive hho hnone => ?_⟩,
    fun t r s x part hgate => ?_⟩
  · show execCredit t r s = _
    simp only [execCredit, hgate]
  · show execQuery t r s = _
    simp only [execQuery, hgate, State.holdHandle_requests, hq]
  · show execQuery t r s = _
    simp only [execQuery, hgate, State.holdHandle_requests, hq]
  · exact (exec_cancel_passes hgate).trans (congrArg _ (if_pos hticks))
  · refine (exec_cancel_passes hgate).trans (congrArg _ ((if_neg (ne_true_of_eq_false hidle)).trans ?_))
    exact (State.cancelNow_gone (s := x.holdHandle r part _ 1) hq _).trans (State.answerKey_noTicks (s := x.holdHandle r part _ 1) hidle _ _ _)
  · refine (exec_cancel_passes hgate).trans (congrArg _ ((if_neg (ne_true_of_eq_false hidle)).trans ?_))
    exact State.cancelNow_ends (s := x.holdHandle r part _ 1) hq hlive hho hnone _
  · show execHandover t r s = _
    simp only [execHandover, hgate]
    rfl

/-! ### The deadline scan (R426) -/

section
variable {t h d : Nat} {s : State} {q : Request} (hreqs : s.requests = [(h, q)])
include hreqs

theorem State.find_onlyRequest : kfind? s.requests h = some q := by
  rw [hreqs]
  exact if_pos rfl

/-- A request of a policy below TRUNCATE is left as it is. -/
theorem State.scanDeadlines_lenient (hpolicy : q.dlPolicy < 2) : s.scanDeadlines = s := by
  unfold State.scanDeadlines
  rw [hreqs, List.map_singleton, List.foldl_cons, List.foldl_nil]
  simp only [State.find_onlyRequest hreqs, ge_iff_le, Nat.not_le.2 hpolicy, decide_false, Bool.and_false, Bool.false_eq_true,
    if_false]

variable (hdl : q.deadline = some d) (hpast : d < s.timebase) (hact : q.dlActed = false) (hlive : q.ending = none) (hho : q.ho = none)
  (hnone : ∀ x ∈ s.via.hoIn, x.handle ≠ h) (hunheld : s.unheld q = true)
include hdl hpast hact hlive hho hnone hunheld

/-- R426: the one request of the table, unheld and late, is ended by a policy that ends requests, and counted. -/
theorem State.scanDeadlines_ends (hpolicy : 2 ≤ q.dlPolicy) :
    s.scanDeadlines = ({ s.inc (if q.dlPolicy = 2 then 0x030104 else 0x030108) 1 with
      requests := [(h, { q with dlActed := true })] }).endRequest h (if q.dlPolicy = 2 then 0x04 else 0x05) (dlArg q) := by
  have hfind := State.find_onlyRequest hreqs
  have hover : q.handedOver = false := by simp [Request.handedOver, hho]
  have hmod (o : Nat) : ((s.inc o 1).stopHo h).modReq h (fun q => { q with dlActed := true })
      = { s.inc o 1 with requests := [(h, { q with dlActed := true })] } := by
    have hinc : kfind? (s.inc o 1).requests h = some q := by rw [State.inc_requests, hfind]
    rw [State.stopHo_none hinc hho (by rw [State.inc_via]; exact hnone)]
    unfold State.modReq
    rw [State.inc_requests, kupd_of_find hfind, hreqs]
    simp [kins, kput]
  unfold State.scanDeadlines
  rw [hreqs, List.map_singleton, List.foldl_cons, List.foldl_nil]
  simp only [hfind, hdl, hpast, hact, hlive, hover, hunheld, ge_iff_le, hpolicy, decide_true, Bool.not_false, Option.isNone_none,
    Bool.and_self, if_true, hmod]

end

/-- Settles O17, by the policy: of the one request of the table the scan ends what TRUNCATE or ABORT marks (R426, R427, R425). -/
theorem deadlineScanEndsLateRequest : Obligations.DeadlineScanEndsLateRequest := by
  unfold Obligations.DeadlineScanEndsLateRequest
  intro t s h d q hreqs hdl hpast hact hlive hho hnone hunheld
  have ends := State.scanDeadlines_ends (s := s.at t) hreqs hdl hpast hact hlive hho hnone hunheld
  refine ⟨fun htrunc => ?_, fun habort => ?_, fun hpolicy => congrArg _ (State.scanDeadlines_lenient (s := s.at t) hreqs hpolicy)⟩
  · rw [if_pos htrunc, if_pos htrunc] at ends
    exact congrArg _ (ends (by omega))
  · rw [if_neg (by omega), if_neg (by omega)] at ends
    exact congrArg _ (ends (by omega))

end Sys2Proof.Machine
end

section
/-! PROOFS. The cut instant of a tick: no break, no settled cycle and no phase moves it, and none of them schedules a cut
(spec/08_tick_keystone.md). -/

namespace Sys2Proof.Machine
open Sys2Proof

/-! ### States of one tick -/

/-- `u` comes after `s` in the same tick: the run's cut instant stands, and no cut has been scheduled. -/
structure CutKept (s u : State) : Prop where
  start : u.tick.start = s.tick.start
  next : s.gov.nextCut = none → u.gov.nextCut = none

theorem CutKept.refl (s : State) : CutKept s s := ⟨rfl, id⟩

theorem CutKept.trans {s u v : State} (h : CutKept s u) (k : CutKept u v) : CutKept s v :=
  ⟨k.start.trans h.start, fun hs => k.next (h.next hs)⟩

/-- A change of other parts of the state. -/
theorem CutKept.other {s u v : State} (h : CutKept s u) (htick : v.tick.start = u.tick.start := by rfl)
    (hgov : v.gov = u.gov := by rfl) : CutKept s v :=
  h.trans ⟨htick, fun hu => by rw [hgov, hu]⟩

theorem CutKept.ite {c : Prop} [Decidable c] {s u v : State} (hu : CutKept s u) (hv : CutKept s v) : CutKept s (if c then u else v) := by
  split
  · exact hu
  · exact hv

/-- A fold that carries a state along with what it collects. -/
theorem CutKept.foldl_carry {α β : Type} (g : α → State) {f : α → β → α} (hf : ∀ a b, CutKept (g a) (g (f a b))) (l : List β)
    (a : α) : CutKept (g a) (g (l.foldl f a)) := by
  induction l generalizing a with
  | nil => exact .refl _
  | cons b l ih => exact (hf a b).trans (ih _)

section
variable {s u : State} (h : CutKept s u)
include h

theorem CutKept.foldl {α : Type} {f : State → α → State} {l : List α} (hf : ∀ s a, CutKept s (f s a)) : CutKept s (l.foldl f u) :=
  h.trans (foldl_carry id hf l u)

theorem CutKept.modSpan {p : Nat} {f : Span → Span} : CutKept s (u.modSpan p f) := h.other

theorem CutKept.inc {o n : Nat} : CutKept s (u.inc o n) := by
  obtain ⟨c, hc⟩ := State.inc_counters o n u
  rw [hc]
  exact h.other

theorem CutKept.triggered {v : State} (k : Triggered u v) : CutKept s v := by
  rw [k.frame]
  exact h.other

theorem CutKept.jointStep {v : State} (k : JointStep u v) : CutKept s v := by
  rw [k.frame]
  exact h.other

theorem CutKept.sends {v : State} (k : SendsOnly u v) : CutKept s v := by
  obtain ⟨c, i, o, rfl⟩ := k
  exact h.other

end

/-! ### Faults and breaks (R248) -/

section
variable {s u : State} (h : CutKept s u)
include h

theorem CutKept.fault {cls cause unit : Nat} : CutKept s (u.fault cls cause unit) := by
  unfold State.fault
  dsimp only
  exact .inc (h.other)

theorem CutKept.spanFault {l p cls cause : Nat} : CutKept s (u.spanFault l p cls cause) :=
  .triggered h.fault (State.triggerAt_triggered ..)

theorem CutKept.breakHere {c : BreakCause} : CutKept s (u.breakHere c) := by
  unfold State.breakHere
  exact .ite (h.other) (.ite h (h.inc.other))

theorem CutKept.progFault {l p cause pc : Nat} : CutKept s (u.progFault l p cause pc) := by
  unfold State.progFault
  refine .breakHere (.spanFault (.jointStep (.modSpan (.ite h ?_)) (State.trace_joint ..)))
  exact h.other

theorem CutKept.dataPoison {l p : Nat} : CutKept s (u.dataPoison l p) := h.spanFault.breakHere

theorem CutKept.flitFault {l p : Nat} : CutKept s (u.flitFault l p) := h.spanFault.breakHere

end

/-! ### Attention (R286, R356) -/

theorem State.kvPoison_cutKept (cls frame : Nat) (s : State) : CutKept s (s.kvPoison cls frame) := by
  unfold State.kvPoison
  refine .foldl ?_ (fun _ _ => .other (.refl _))
  dsimp only
  split <;> exact .other (.refl _)

theorem State.attend_cutKept (p di : Nat) (d : Desc) (a : Assign) (ks : List (KvPiece × List (BitVec 256 × Bool))) (q : Nat × Nat)
    (j : Nat) (s : State) : CutKept s (s.attend p di d a ks q j).2.2 := by
  unfold State.attend
  dsimp only
  split
  · have hcount := (State.rotate_counted d q.2 ((s.span p).queryVec di d a.slot q.1 j) s).frame
    rw [hcount]
    exact .other (.refl _)
  · exact .refl s

theorem State.attendAll_cutKept (p : Nat) (w : AttWork) (d : Desc) (ks : List (Nat × KvPiece × List (BitVec 256 × Bool)))
    (s : State) : CutKept s (s.attendAll p w d ks).2.2 := by
  unfold State.attendAll
  refine .foldl_carry (fun acc : List (List (BitVec 16)) × Nat × State => acc.2.2) (fun acc e => ?_) _ ([], 0, s)
  refine .foldl_carry (fun acc : List (List (BitVec 16)) × Nat × State => acc.2.2) (fun acc q => ?_) _ acc
  refine .foldl_carry (fun acc : List (List (BitVec 16)) × Nat × State => acc.2.2) (fun acc j => ?_) _ acc
  exact State.attend_cutKept p w.di d e.1 ((ks.filter (fun k => decide (k.1 = e.2))).map (·.2)) q _ acc.2.2

theorem State.finishAtt_cutKept (l p : Nat) (w : AttWork) (s : State) : CutKept s (s.finishAtt l p w) := by
  unfold State.finishAtt
  have hstart : CutKept s (s.modSpan p (fun x => { x with att := none })) := .other (.refl _)
  generalize s.modSpan p (fun x => { x with att := none }) = u at hstart ⊢
  dsimp only
  split
  · exact hstart
  · refine .ite ?_ (.dataPoison (.foldl ?_ (fun _ _ => State.kvPoison_cutKept ..))) <;>
      exact .modSpan (hstart.trans (State.attendAll_cutKept ..))

theorem State.attStep_cutKept (l p c : Nat) (s : State) : CutKept s (s.attStep l p c) := by
  unfold State.attStep
  split
  · exact .refl s
  · refine .ite (.flitFault ?_) (.ite ?_ (.trans ?_ (State.finishAtt_cutKept ..))) <;> exact .other (.refl _)

/-! ### Settled cycles (R265, R337) -/

section
variable {s u : State} (h : CutKept s u)
include h

theorem CutKept.ctrAdd {cyc l c n : Nat} : CutKept s (u.ctrAdd cyc l c n) := by
  unfold State.ctrAdd
  split
  · exact h
  · exact .ite h h.modSpan

theorem CutKept.landed {l p c : Nat} {r : PutRaise} : CutKept s (u.landed l p c r) := by
  unfold State.landed
  split
  · exact h
  · exact h.ctrAdd
  · split
    · exact h
    · exact h.modSpan.ctrAdd

end

theorem State.landPut_cutKept (l p c : Nat) (w : DeckPut) (s : State) : CutKept s (s.landPut l p c w) := by
  have hcounted (u : State) (hu : CutKept s u) : CutKept s (match u.phys? w.src with
      | some q => if decide (w.src ≠ l) = true then u.modSpan q (Span.incBytes 0x3AC 32) else u
      | none => u) := by
    split
    · exact .ite hu.modSpan hu
    · exact hu
  unfold State.landPut
  dsimp only
  refine .ite (.refl s) (.ite (.progFault ?_) (.ite (.progFault ?_) (.landed (.modSpan ?_)))) <;>
    exact hcounted _ (.ite (.modSpan (.refl s)) (.refl s))

theorem State.applyCtr_cutKept (l p : Nat) (o : CtrOp) (s : State) : CutKept s (s.applyCtr l p o) := by
  have h := CutKept.refl s
  unfold State.applyCtr
  dsimp only
  split
  · exact h.modSpan
  · exact h.modSpan
  · exact .ite h.progFault h.modSpan

theorem CutKept.sendAcks {s u : State} (h : CutKept s u) {p : Nat} {ws : List DeckPut} : CutKept s (u.sendAcks p ws) :=
  .foldl h (fun s _ => .sends (.refl s) (SendsOnly.sendTo ..))

theorem State.settleSpan_cutKept (c l p : Nat) (s : State) : CutKept s (s.settleSpan c l p) := by
  unfold State.settleSpan
  dsimp only
  have hland (x : Span → Span) (ws : List DeckPut) : CutKept s (ws.foldl (fun s w => s.landPut l p c w) (s.modSpan p x)) :=
    .foldl (.modSpan (.refl s)) (fun _ _ => State.landPut_cutKept ..)
  have hctr {u : State} (hu : CutKept s u) (os : List CtrOp) : CutKept s (os.foldl (fun s o => s.applyCtr l p o) u) :=
    .foldl hu (fun _ _ => State.applyCtr_cutKept ..)
  refine .ite (hland _ _) (.ite (.trans ?_ (State.attStep_cutKept ..)) ?_) <;>
    exact hctr (.modSpan (.sendAcks (hland _ _))) _

theorem State.settleCycle_cutKept (c : Nat) (s : State) : CutKept s (s.settleCycle c) := by
  unfold State.settleCycle State.settleTrs
  dsimp only
  refine .foldl (.other (.refl _)) (fun u e => ?_)
  exact .ite (State.settleSpan_cutKept ..) (.refl u)

theorem State.settleFrom_cutKept (fuel cyc : Nat) (s : State) : CutKept s (s.settleFrom fuel cyc) := by
  induction fuel generalizing s with
  | zero => exact .refl s
  | succ fuel ih =>
    unfold State.settleFrom
    refine .ite (.refl s) ?_
    split
    · exact .refl s
    · exact (State.settleCycle_cutKept ..).trans (ih _)

theorem CutKept.breakTick {s u : State} (h : CutKept s u) {c : BreakCause} : CutKept s (u.breakTick c) :=
  .breakHere (h.trans (State.settleFrom_cutKept ..))

/-! ### Phases (R224, R264, R540) -/

section
variable {s u : State} (h : CutKept s u)
include h

theorem CutKept.freeze {phase : Nat} : CutKept s (u.freeze phase) :=
  h.fault.breakTick.trans ⟨rfl, fun _ => rfl⟩

theorem CutKept.compareDigests : CutKept s u.compareDigests := by
  unfold State.compareDigests
  refine .ite h ?_
  split
  · exact h
  · exact .ite h (.sends h.freeze (SendsOnly.sendOn ..))

theorem CutKept.sendTickDigest : CutKept s u.sendTickDigest := by
  unfold State.sendTickDigest
  exact .ite (.compareDigests (.sends h (SendsOnly.sendOn ..))) h

theorem CutKept.foldItem {phase desc code : Nat} {ident content : List Byte} :
    CutKept s (u.foldItem phase desc code ident content) := by
  unfold State.foldItem
  exact .ite h (h.other)

theorem CutKept.foldStop {code : Nat} {x : Slot} : CutKept s (u.foldStop code x) := by
  unfold State.foldStop
  split
  · exact h
  · exact .foldl h (fun v _ => (CutKept.refl v).foldItem)

theorem CutKept.pierStops : CutKept s u.pierStops := by
  unfold State.pierStops State.stopAll
  dsimp only
  refine .ite h (.foldl (h.other) (fun v e => ?_))
  exact .ite (.refl v) (.foldStop (.refl v))

theorem CutKept.release {j x : Nat} {g : Joint} : CutKept s (u.release j x g) := by
  obtain ⟨c, next, released, offset, b, r, hframe⟩ := State.release_frame j x g u
  rw [hframe]
  exact h.other

theorem CutKept.trestleArrives {cyc : Nat} : CutKept s (u.trestleArrives cyc) := by
  unfold State.trestleArrives
  split
  · exact h
  · refine .ite h ?_
    split
    · exact h
    · exact h.other

end

/-! ### The stages of a phase's start -/

/-- A phase is in progress; before phase 5 the pier has detected stops, and a pair has sent its digest. -/
def State.enterPhase (phase : Nat) (s : State) : State :=
  let s := { s with tick := { s.tick with phase := phase } }
  if phase = 5 then s.pierStops.sendTickDigest else s

/-- Every member begins its part of a phase. -/
def State.membersBegin (pl : Plan) (phase cyc : Nat) (s : State) : State :=
  let s := s.binding.foldl (fun (s : State) (e : Nat × Nat) => s.modSpan e.2 (Span.beginPhase phase (s.entryPc e.1 phase) cyc)) s
  let s := { s with trs := { s.trs with nextRec := (pl.recordFrom phase 0).getD 0, readyAt := cyc } }
  if (pl.recordFrom phase 0).isNone then s.trestleArrives cyc else s

/-- What follows once the members have begun: a phase of planned length zero is released at once (R224). -/
def State.passEmptyPhase (fuel phase lag : Nat) (pl : Plan) (s : State) : State := match pl.phaseJoint phase with
  | none => s
  | some j => match pl.joints[j]? with
    | none => s
    | some g => if g.y = pl.head.phaseS.getD (phase - 1) 0 ∧ phase < 5 then
        State.beginPhase fuel (phase + 1) (g.y + lag) lag
          ({ s with tick := { s.tick with arrivals := s.tick.arrivals.filter (fun e => e.2.joint ≠ j) } }.release j (g.y + lag) g)
      else s

section
variable {s : State}

theorem State.beginPhase_noPlan (h : s.plan? = none) (fuel phase cyc lag : Nat) :
    State.beginPhase (fuel + 1) phase cyc lag s = s := by
  rw [State.beginPhase, h]

theorem State.beginPhase_eq {pl : Plan} (h : s.plan? = some pl) (fuel phase cyc lag : Nat) :
    State.beginPhase (fuel + 1) phase cyc lag s = (let u := s.enterPhase phase
      if phase > 5 ∨ !u.tick.active then u else (u.membersBegin pl phase cyc).passEmptyPhase fuel phase lag pl) := by
  rw [State.beginPhase, h]
  rfl

end

theorem CutKept.enterPhase {s u : State} (h : CutKept s u) {phase : Nat} : CutKept s (u.enterPhase phase) := by
  unfold State.enterPhase
  exact .ite (.sendTickDigest (.pierStops h.other)) h.other

theorem CutKept.membersBegin {s u : State} (h : CutKept s u) {pl : Plan} {phase cyc : Nat} :
    CutKept s (u.membersBegin pl phase cyc) := by
  unfold State.membersBegin
  have hspans : CutKept s (u.binding.foldl (fun (s : State) (e : Nat × Nat) =>
      s.modSpan e.2 (Span.beginPhase phase (s.entryPc e.1 phase) cyc)) u) := .foldl h (fun _ _ => .modSpan (.refl _))
  exact .ite (.trestleArrives hspans.other) hspans.other

theorem State.beginPhase_cutKept (fuel phase cyc lag : Nat) (s : State) : CutKept s (State.beginPhase fuel phase cyc lag s) := by
  induction fuel generalizing phase cyc s with
  | zero => exact .refl s
  | succ fuel ih =>
    cases hplan : s.plan? with
    | none => rw [State.beginPhase_noPlan hplan]; exact .refl s
    | some pl =>
      rw [State.beginPhase_eq hplan]
      have hbegun : CutKept s ((s.enterPhase phase).membersBegin pl phase cyc) := (CutKept.refl s).enterPhase.membersBegin
      refine .ite (CutKept.refl s).enterPhase ?_
      unfold State.passEmptyPhase
      split
      · exact hbegun
      · split
        · exact hbegun
        · exact .ite (.trans (.release hbegun.other) (ih ..)) hbegun

end Sys2Proof.Machine
end

section
/-! PROOFS. The start of a run (R224, R234, R264): the ledger opens, every member begins, and a phase 1 that has a length is in
progress (spec/08_tick_keystone.md). -/

namespace Sys2Proof.Machine
open Sys2Proof

/-! ### Folds over spans -/

/-- Steps that each change spans alone change spans alone. -/
theorem State.foldl_spansOnly {α : Type} {f : State → α → State} (hf : ∀ s a, f s a = { s with spans := (f s a).spans }) (l : List α)
    (s : State) : l.foldl f s = { s with spans := (l.foldl f s).spans } := by
  induction l generalizing s with
  | nil => rfl
  | cons a l ih =>
    have hrest := ih (f s a)
    rw [hf s a] at hrest
    rw [List.foldl_cons, hf s a]
    exact hrest

/-! ### The start of a run -/

/-- The tick of a run that opens at `start`, before its first phase. -/
def Tick.openAt (start n period : Nat) (t : Tick) : Tick :=
  { t with active := true, start := start, t0 := start, cyc0 := 0, n := n, period := period, phase := 0, broken := none,
           sealed := false, lastJoint := 0, nextJoint := 0, released := [], arrivals := [], trsOffset := 0, refused := false,
           overran := false, writesOpen := 0, missed := 0, pause := 0, widenRef := 0 }

/-- The state in which a run opens. -/
def State.openRun (start : Nat) (s : State) : State :=
  { s with tick := s.tick.openAt start s.pwr.n s.gov.period, via := { s.via with pulls := [] } }

/-- The pier has done its work of phase 1 at cycle `pier`. -/
def State.pierArrives (pier : Nat) (s : State) : State := match s.plan?.bind (fun p => p.phaseJoint 1) with
  | none => s
  | some j => s.arriveAt 129 j pier [0, 0, 0, 0, 0, 0, pier - ((s.joint? j).map (fun (g : Joint) => g.y - g.a)).getD 0]

/-- Every member has begun the run, the ledger is open, and the pier is at work. -/
def State.readyRun (pier : Nat) (s : State) : State :=
  let s := s.binding.foldl (fun (s : State) (e : Nat × Nat) => s.modSpan e.2 Span.beginRun) s
  ({ s with trs := s.trs.fresh }).openLedger.pierArrives pier

theorem State.beginRun_eq (start pier : Nat) (s : State) :
    s.beginRun start pier = ((s.openRun start).readyRun pier).beginPhase 6 1 0 0 := rfl

theorem State.pierArrives_frame (pier : Nat) (s : State) :
    ∃ a, s.pierArrives pier = { s with tick := { s.tick with arrivals := a } } := by
  unfold State.pierArrives
  split
  · exact ⟨_, rfl⟩
  · exact ⟨_, rfl⟩

theorem State.trestleArrives_frame (cyc : Nat) (s : State) :
    ∃ a, s.trestleArrives cyc = { s with tick := { s.tick with arrivals := a } } := by
  unfold State.trestleArrives
  split
  · exact ⟨_, rfl⟩
  · split
    · exact ⟨_, rfl⟩
    · split
      · exact ⟨_, rfl⟩
      · exact ⟨_, rfl⟩

/-- INIT of the plan in use for the tick's period and clock (R234). -/
def State.openingInit (s : State) : Int := initLedger s.tick.period s.tick.n ((s.plan?.map (·.head.planCyc)).getD 0)

theorem State.openingInit_plan {pl : Plan} {s : State} (hplan : s.plan? = some pl) :
    s.openingInit = initLedger s.tick.period s.tick.n pl.head.planCyc := by
  unfold State.openingInit
  rw [hplan]
  rfl

/-- R234: of the tick, the ledger opens with INIT and H = 0, and the trestle unit takes a view of it. -/
theorem State.openLedger_frame (s : State) : ∃ sp b r, s.openLedger = { s with spans := sp, tick := { s.tick with
    init := s.openingInit, h := 0, initLoss := 0, viewBalance := b, viewSlip := r } } := by
  obtain ⟨b, r, hview⟩ := State.sendView_taken s.lspans true { s with tick := { s.tick with
    init := s.openingInit, h := 0, initLoss := 0 } }
  exact ⟨_, b, r, hview.frame⟩

theorem State.readyRun_frame (pier : Nat) (s : State) : ∃ sp a b r, s.readyRun pier = { s with
    spans := sp, trs := s.trs.fresh, tick := { s.tick with
      init := s.openingInit, h := 0, initLoss := 0, viewBalance := b, viewSlip := r, arrivals := a } } := by
  unfold State.readyRun
  rw [State.foldl_modSpan_frame (fun e : Nat × Nat => e.2) (fun _ => Span.beginRun)]
  generalize State.spans _ = sp
  obtain ⟨sp', b, r, hledger⟩ := State.openLedger_frame { s with spans := sp, trs := s.trs.fresh }
  obtain ⟨a, hpier⟩ := State.pierArrives_frame pier { s with spans := sp, trs := s.trs.fresh }.openLedger
  refine ⟨sp', a, b, r, hpier.trans ?_⟩
  rw [hledger]
  rfl

theorem State.membersBegin_frame (pl : Plan) (phase cyc : Nat) (s : State) : ∃ sp tr a, s.membersBegin pl phase cyc
    = { s with spans := sp, trs := tr, tick := { s.tick with arrivals := a } } := by
  unfold State.membersBegin
  rw [State.foldl_spansOnly (f := fun (s : State) (e : Nat × Nat) => s.modSpan e.2 (Span.beginPhase phase (s.entryPc e.1 phase) cyc))
    (fun _ _ => rfl)]
  dsimp only
  split
  · obtain ⟨a, ha⟩ := State.trestleArrives_frame cyc { s with
      spans := (s.binding.foldl (fun (s : State) (e : Nat × Nat) => s.modSpan e.2 (Span.beginPhase phase (s.entryPc e.1 phase) cyc))
        s).spans
      trs := { s.trs with nextRec := (pl.recordFrom phase 0).getD 0, readyAt := cyc } }
    exact ⟨_, _, a, ha⟩
  · exact ⟨_, _, _, rfl⟩

section
variable {pl : Plan} {j0 : Nat} {g : Joint} (hjoint : pl.phaseJoint 1 = some j0) (hg : pl.joints[j0]? = some g)
  (hlength : g.y ≠ pl.head.phaseS.getD 0 0)
include hjoint hg hlength

/-- A phase 1 that has a length stays in progress when it starts. -/
theorem State.beginPhase_one {s : State} (hplan : s.plan? = some pl) (hact : s.tick.active = true) (fuel cyc lag : Nat) :
    State.beginPhase (fuel + 1) 1 cyc lag s = { s with tick := { s.tick with phase := 1 } }.membersBegin pl 1 cyc := by
  have henter : s.enterPhase 1 = { s with tick := { s.tick with phase := 1 } } := rfl
  rw [State.beginPhase_eq hplan, henter]
  dsimp only
  rw [hact, if_neg (by decide)]
  unfold State.passEmptyPhase
  simp only [hjoint, hg]
  exact if_neg (fun h => hlength h.1)

/-- R234, R264: what the start of a run leaves, when its phase 1 has a length. -/
theorem State.beginRun_phaseOne {s : State} (hplan : s.plan? = some pl) (start pier : Nat) : ∃ sp tr a b r, s.beginRun start pier
    = { s with spans := sp, trs := tr, via := { s.via with pulls := [] }
               tick := { s.tick.openAt start s.pwr.n s.gov.period with
                 phase := 1, init := initLedger s.gov.period s.pwr.n pl.head.planCyc, h := 0, initLoss := 0
                 viewBalance := b, viewSlip := r, arrivals := a } } := by
  obtain ⟨sp, a, b, r, hready⟩ := State.readyRun_frame pier (s.openRun start)
  rw [State.openingInit_plan (s := s.openRun start) hplan] at hready
  have hplan' : ((s.openRun start).readyRun pier).plan? = some pl := by rw [hready]; exact hplan
  have hact : ((s.openRun start).readyRun pier).tick.active = true := by rw [hready]; rfl
  obtain ⟨sp', tr, a', hmembers⟩ := State.membersBegin_frame pl 1 0
    { (s.openRun start).readyRun pier with tick := { ((s.openRun start).readyRun pier).tick with phase := 1 } }
  refine ⟨sp', tr, a', b, r, ?_⟩
  rw [State.beginRun_eq, State.beginPhase_one hjoint hg hlength hplan' hact, hmembers, hready]
  rfl

end

/-- The run's cut instant is the time at which it starts. -/
theorem State.beginRun_start (start pier : Nat) (s : State) : (s.beginRun start pier).tick.start = start := by
  rw [State.beginRun_eq]
  obtain ⟨sp, a, b, r, hready⟩ := (s.openRun start).readyRun_frame pier
  rw [(State.beginPhase_cutKept ..).start, hready]
  rfl

end Sys2Proof.Machine
end

section
/-! PROOFS. The admission cut of a job without requests: the work of Table 8.3, and the tick that starts (spec/08_tick_keystone.md). -/

namespace Sys2Proof.Machine
open Sys2Proof

/-! ### What a cut finds (R228) -/

theorem State.cutDue?_some {s : State} {c : Nat} (h : s.cutDue? = some c) : c ≤ s.time ∧ s.gov.nextCut = some c := by
  unfold State.cutDue? at h
  split at h
  · rename_i hcut hjob
    split at h
    · rename_i hdue
      obtain rfl := Option.some.inj h
      exact ⟨hdue.1, hcut⟩
    · cases h
  · cases h

/-- With no run in progress nothing is left to settle, and no wait to count. -/
theorem State.upToNow_idle {s : State} (hidle : s.tick.active = false) : s.upToNow = s := by
  have hsettled (n : Nat) : s.settleFrom n s.cycNow = s := by
    cases n with
    | zero => rfl
    | succ n => rw [State.settleFrom, hidle]; rfl
  unfold State.upToNow State.settled State.settleTo State.accrue
  rw [hsettled, hidle]
  rfl

theorem exec_admissionCut_none {t : Nat} {s : State} (hwhole : s.tick.broken = none) (hdue : (s.at t).cutDue? = none) :
    exec (.admissionCut t) s = .next (s.at t) := by
  have hbroken : (s.at t).tick.broken = none := hwhole
  show execAdmissionCut t s = _
  simp only [execAdmissionCut, hbroken, Option.isSome_none, Bool.false_eq_true, if_false, hdue]

theorem exec_admissionCut_due {t c : Nat} {s : State} (hwhole : s.tick.broken = none) (hdue : (s.at t).cutDue? = some c) :
    let y := (s.at t).upToNow.cutFirst c
    exec (.admissionCut t) s = .next (if y.running.isNone then y else y.cutRest c y.time) := by
  have hbroken : (s.at t).tick.broken = none := hwhole
  show execAdmissionCut t s = _
  simp only [execAdmissionCut, hbroken, Option.isSome_none, Bool.false_eq_true, if_false, hdue, apply_ite Host.Outcome.next]

/-- R506: cut instants that pass while a replay is pending are counted; a tick that no poison broke leads to no basic service. -/
theorem State.missCut_counts {s : State} (hcause : s.tick.broken ≠ some .poison) (hperiod : 0 < s.tick.period) :
    let n := (s.time - s.tick.start) / (1000 * s.tick.period)
    s.missCut = { s with
      tick := { s.tick with missed := max n s.tick.missed }
      flt := { s.flt with missed := s.flt.missed + (max n s.tick.missed - s.tick.missed) } } := by
  intro n
  unfold State.missCut
  simp only [Nat.ne_of_gt hperiod, if_false]
  by_cases hmore : n > s.tick.missed
  · rw [max_eq_left (Nat.le_of_lt hmore)]
    simp only [show (s.time - s.tick.start) / (1000 * s.tick.period) > s.tick.missed from hmore, if_true]
    exact if_neg (fun h => hcause h.1)
  · rw [max_eq_right (Nat.not_lt.1 hmore), Nat.sub_self]
    simp only [show ¬(s.time - s.tick.start) / (1000 * s.tick.period) > s.tick.missed from hmore, if_false]
    exact if_neg (fun h => hcause h.1)

theorem exec_admissionCut_replay {t : Nat} {s : State} {b : BreakCause} (hbroken : s.tick.broken = some b)
    (hfrozen : s.via.lock.frozen = false) : exec (.admissionCut t) s = .next (s.at t).missCut := by
  have hb : (s.at t).tick.broken = some b := hbroken
  have hf : (s.at t).via.lock.frozen = false := hfrozen
  show execAdmissionCut t s = _
  simp only [execAdmissionCut, hb, hf, Option.isSome_some, if_true, Bool.false_eq_true, if_false]

/-! ### Orders 1 to 5 of Table 8.3 -/

section
variable {s : State}

theorem State.liveRequests_nil (hreqs : s.requests = []) : s.liveRequests = [] := by
  unfold State.liveRequests State.jobRequests
  rw [hreqs]
  split <;> rfl

theorem State.dropGone_nil (hreqs : s.requests = []) : s.dropGone = s.ageHandles := by
  unfold State.dropGone
  rw [hreqs]
  rfl

theorem State.cutDeadlines_nil (hreqs : s.requests = []) (c : Nat) : s.cutDeadlines c = s := by
  unfold State.cutDeadlines
  rw [State.liveRequests_nil hreqs]
  rfl

theorem State.returnHo_nil (hreqs : s.requests = []) : s.returnHo = s := by
  unfold State.returnHo
  rw [hreqs]
  exact congrArg (fun r => { s with requests := r }) hreqs.symm

/-- Basic service that nothing has asked for is not due: the job that it would be due for runs. -/
theorem State.basicDue_unasked (hasked : s.flt.basicAsked = none) : s.basicDue = s := by
  have hsame : ({ s with flt := { s.flt with basicAsked := none } } : State) = s := by rw [← hasked]
  unfold State.basicDue
  dsimp only
  split
  · exact hsame
  · rename_i j hj
    have hrunning : s.flt.basicAsked ≠ s.running := by
      intro h
      rw [hasked] at h
      have hnone : s.job? = none := by unfold State.job?; rw [← h]; rfl
      exact Option.some_ne_none j (Eq.trans (Eq.symm hj) hnone)
    exact (if_neg (fun h => hrunning h.1)).trans hsame

theorem State.fencesDue_none (h : s.toFence = []) : s.fencesDue = s := by
  unfold State.fencesDue
  rw [h]
  rfl

/-- A tick boundary at which no span is to be fenced and no basic service is due. -/
theorem State.boundaryFences_none (hfence : s.flt.fenceAsked = []) (hasked : s.flt.basicAsked = none)
    (hstrikes : ∀ e ∈ s.spans, e.2.strikes.length < 2) : s.boundaryFences = s := by
  have hnone : s.toFence = [] := by
    unfold State.toFence
    rw [hfence, List.append_nil, List.map_eq_nil_iff, List.filter_eq_nil_iff]
    intro e he
    simp [Nat.not_le.2 (hstrikes e he)]
  unfold State.boundaryFences
  rw [State.fencesDue_none hnone, State.basicDue_unasked hasked]

theorem State.leaveBasic_none {j : Job} (hjob : s.job? = some j) (hbasic : j.basic = 0) : s.leaveBasic = s := by
  unfold State.leaveBasic
  rw [hjob]
  split
  · rename_i j' b hj hb
    obtain rfl := Option.some.inj hj
    exact if_pos (.inl hbasic)
  · rfl

theorem State.setPlan_same {j : Job} (hjob : s.job? = some j) (hplan : s.planFor j = s.tick.plan) : s.setPlan = s := by
  unfold State.setPlan
  rw [hjob]
  split
  · rename_i j' b hj hb
    obtain rfl := Option.some.inj hj
    exact if_pos hplan
  · rfl

/-- A state in which power, clock, counters, alerts and memory's rate cap may have moved, and nothing more. -/
structure ClockStep (s u : State) : Prop where
  frame : u = { s with pwr := u.pwr, counters := u.counters, regs := u.regs, obs := u.obs, mem := u.mem }

theorem ClockStep.trans {s u v : State} (h : ClockStep s u) (k : ClockStep u v) : ClockStep s v := by
  have hk := k.frame
  rw [h.frame] at hk
  exact ⟨by rw [hk]⟩

theorem ClockStep.ite {c : Prop} [Decidable c] {s u v : State} (hu : ClockStep s u) (hv : ClockStep s v) :
    ClockStep s (if c then u else v) := by
  split
  · exact hu
  · exact hv

/-- A change of power alone. -/
theorem ClockStep.power {s u : State} (h : ClockStep s u) {w : Power} : ClockStep s { u with pwr := w } := h.trans ⟨rfl⟩

theorem ClockStep.inc {s u : State} (h : ClockStep s u) {o n : Nat} : ClockStep s (u.inc o n) := by
  obtain ⟨c, hc⟩ := State.inc_counters o n u
  rw [hc]
  exact h.trans ⟨rfl⟩

theorem ClockStep.alert {s u : State} (h : ClockStep s u) {b : Nat} : ClockStep s (u.alert b) := h.trans ⟨rfl⟩

theorem ClockStep.floorRate {s u : State} (h : ClockStep s u) : ClockStep s u.floorRate := by
  unfold State.floorRate
  exact .ite h (h.trans ⟨rfl⟩)

/-- R621: the clock step of a cut. -/
theorem State.clockAtCut_step (s : State) : ClockStep s s.clockAtCut := by
  have hlatch : ClockStep s s.countPower.latchCap := ⟨rfl⟩
  unfold State.clockAtCut
  generalize s.countPower.latchCap = u at hlatch ⊢
  dsimp only
  refine .floorRate (.ite (.alert ?_) ?_) <;> exact .ite hlatch.power hlatch.power.inc

end

/-- R228: the orders 1 to 5 of a cut at which no request and no command waits and no span is to be fenced, for a job outside basic
service whose plan stays: the handles age, and the clock takes its step. -/
theorem State.cutFirst_idle {s : State} {id : Nat} {j : Job} (c : Nat) (hreqs : s.requests = []) (hwaiting : s.waiting = [])
    (hrunning : s.running = some id) (hjob : kfind? s.jobs id = some j) (hbasic : j.basic = 0) (hplan : s.planFor j = s.tick.plan)
    (hfence : s.flt.fenceAsked = []) (hasked : s.flt.basicAsked = none) (hstrikes : ∀ e ∈ s.spans, e.2.strikes.length < 2) :
    ∃ hs, ClockStep { s with handles := hs } (s.cutFirst c) := by
  refine ⟨s.ageHandles.handles, ?_⟩
  have hj : s.ageHandles.job? = some j := by unfold State.job?; exact hrunning ▸ hjob
  have hw : s.ageHandles.waiting = [] := hwaiting
  have hwaits : ({ s.ageHandles with waiting := [] } : State) = s.ageHandles :=
    congrArg (fun w => ({ s.ageHandles with waiting := w } : State)) hwaiting.symm
  unfold State.cutFirst
  simp only [State.dropGone_nil hreqs, hw, List.filter_nil, List.foldl_nil, hwaits]
  rw [State.cutDeadlines_nil (s := s.ageHandles) hreqs, State.returnHo_nil (s := s.ageHandles) hreqs,
    State.boundaryFences_none (s := s.ageHandles) hfence hasked hstrikes]
  have hr : s.ageHandles.running = some id := hrunning
  rw [hr, State.leaveBasic_none hj hbasic, State.setPlan_same hj hplan]
  exact State.clockAtCut_step s.ageHandles

/-! ### Orders 6 to 9 of Table 8.3 -/

section
variable {s : State}

theorem State.members_nil (hreqs : s.requests = []) (c : Nat) : s.members c = [] := by
  unfold State.members
  rw [State.liveRequests_nil hreqs]
  simp

theorem State.formBatch_nil (hreqs : s.requests = []) (c : Nat) : s.formBatch c = { s with tick := { s.tick with slots := [] } } := by
  have hmembers := State.members_nil hreqs c
  have hlong : s.endTooLong c (s.requests.length + 1) = s := by
    rw [State.endTooLong, hmembers]
    rfl
  unfold State.formBatch
  rw [hlong]
  simp only [hmembers, List.map_nil, List.foldl_nil]
  rfl

theorem State.holdFrom_noSlots (hslots : s.tick.slots = []) : s.holdFrom = s.countStall none := by
  unfold State.holdFrom
  rw [hslots]
  rfl

theorem State.foldBatch_noSlots (hslots : s.tick.slots = []) : s.foldBatch = s := by
  unfold State.foldBatch
  rw [hslots]
  rfl

end

/-- The spans count the moves of the balance (R195). -/
def State.countMoves (moves : List Move) (s : State) : State :=
  moves.foldl (fun (s : State) (m : Move) => match s.phys? m.span with
    | none => s
    | some p => s.modSpan p (Span.inc 0x32C 1)) s

theorem State.countMoves_frame (moves : List Move) (s : State) : ∃ sp, s.countMoves moves = { s with spans := sp } := by
  refine ⟨_, State.foldl_spansOnly (fun u m => ?_) moves s⟩
  split <;> rfl

/-- Balancing changes the tick's moves and its word, and counts the moves in their spans. -/
theorem State.balance_frame (s : State) : ∃ sp m w, s.balance
    = { s with spans := sp, tick := { s.tick with moves := m, balWord := w } } := by
  have hmoved : ∃ m w, s.balance = (let u := s.countMoves m; { u with tick := { u.tick with moves := m, balWord := w } }) :=
    ⟨_, _, rfl⟩
  obtain ⟨m, w, hmoved⟩ := hmoved
  obtain ⟨sp, hcount⟩ := s.countMoves_frame m
  exact ⟨sp, m, w, by rw [hmoved, hcount]⟩

theorem State.writeLists_frame (s : State) : ∃ sp, s.writeLists = { s with spans := sp } :=
  ⟨_, State.foldl_spansOnly (fun _ _ => rfl) s.binding s⟩

/-- A plan that writes no list has none that meets a preloaded range. -/
theorem State.faultLists_none {pl : Plan} {s : State} (hplan : s.plan? = some pl) (hlists : ∀ l, pl.lists l = []) :
    s.faultLists = s := by
  have hgranules (l : Nat) : s.listGranules l = [] := by
    unfold State.listGranules
    rw [hplan]
    exact congrArg (List.flatMap _) (hlists l)
  unfold State.faultLists
  refine List.foldl_fixed' (fun e => ?_) _
  rw [hgranules]
  rfl

/-- A tick without a run. -/
def State.freshTick (s : State) : State := { s with tick := { s.tick with replay := false, runs := 0, sums := [] } }

/-- The tick's batch, its frames, its lists and its gauges (orders 6 to 9 of Table 8.3). -/
def State.takeBatch (c : Nat) (s : State) : State :=
  (s.freshTick.formBatch c).holdFrom.balance.writeLists.takeGauges.foldBatch

/-- The first run of the tick of the cut at `c`. -/
def State.firstRun (c work : Nat) (s : State) : State :=
  let s := (s.beginRun c ((work - c) * s.pwr.n / 40)).faultLists
  { s with gov := { s.gov with nextCut := none } }

/-- A cause found after the last seal breaks the run (R244). -/
def State.breakAgainst (s : State) : State := match s.tick.against with
  | none => s
  | some cause => ({ s with tick := { s.tick with against := none } }).breakTick cause

theorem State.cutRest_eq (c work : Nat) (s : State) : s.cutRest c work = ((s.takeBatch c).firstRun c work).breakAgainst := by
  unfold State.cutRest
  extract_lets t0 s1 s2 s3 s4 g s5 t1
  have hbatch : s3 = s.takeBatch c := rfl
  have hrun : s4 = (s3.beginRun c ((work - c) * s3.pwr.n / 40)).faultLists := rfl
  have hcut : s5 = { s4 with gov := { s4.gov with nextCut := none } } := rfl
  unfold State.firstRun
  rw [← hbatch, ← hrun, ← hcut]
  clear_value s5
  rfl

/-- A run starts at the cut instant, and no further cut is due. -/
theorem State.cutRest_cut (c work : Nat) (s : State) : (s.cutRest c work).gov.nextCut = none ∧ (s.cutRest c work).tick.start = c := by
  have hfault (u : State) : CutKept u u.faultLists :=
    .foldl (.refl u) (fun v e => .ite (CutKept.refl v).progFault (.refl v))
  have hagainst (u : State) : CutKept u u.breakAgainst := by
    unfold State.breakAgainst
    split
    · exact .refl u
    · exact .breakTick (.other (.refl u))
  have hstart : ((s.takeBatch c).firstRun c work).tick.start = c := by
    unfold State.firstRun
    dsimp only
    rw [(hfault _).start, State.beginRun_start]
  rw [State.cutRest_eq]
  exact ⟨(hagainst _).next rfl, (hagainst _).start.trans hstart⟩

/-- With no request to take in the batch is empty. -/
theorem State.takeBatch_empty {s : State} (hreqs : s.requests = []) (c : Nat) : ∃ sp o f m w, s.takeBatch c
    = { s with spans := sp, obs := o, flt := f, gov := { s.gov with heldFrom := none }
               tick := { s.tick with replay := false, runs := 0, sums := [], slots := [], moves := m, balWord := w } } := by
  unfold State.takeBatch
  rw [State.formBatch_nil (s := s.freshTick) hreqs, State.holdFrom_noSlots rfl]
  generalize hu : State.countStall none _ = u
  obtain ⟨sp, m, w, hbalance⟩ := u.balance_frame
  obtain ⟨sp', hlists⟩ := State.writeLists_frame u.balance
  have hslots : u.balance.writeLists.takeGauges.tick.slots = [] := by
    show u.balance.writeLists.tick.slots = []
    rw [hlists]
    show u.balance.tick.slots = []
    rw [hbalance, ← hu]
    rfl
  rw [State.foldBatch_noSlots hslots]
  unfold State.takeGauges
  rw [hlists, hbalance, ← hu]
  exact ⟨_, _, _, _, _, rfl⟩

section
variable {pl : Plan} {j0 : Nat} {g : Joint} (hjoint : pl.phaseJoint 1 = some j0) (hg : pl.joints[j0]? = some g)
  (hlength : g.y ≠ pl.head.phaseS.getD 0 0)
include hjoint hg hlength

/-- The first run of a tick whose phase 1 has a length and whose plan writes no list. -/
theorem State.firstRun_phaseOne {s : State} (hplan : s.plan? = some pl) (hlists : ∀ l, pl.lists l = []) (c work : Nat) :
    ∃ sp tr a b r, s.firstRun c work = { s with
      spans := sp, trs := tr, via := { s.via with pulls := [] }, gov := { s.gov with nextCut := none }
      tick := { s.tick.openAt c s.pwr.n s.gov.period with
        phase := 1, init := initLedger s.gov.period s.pwr.n pl.head.planCyc, h := 0, initLoss := 0
        viewBalance := b, viewSlip := r, arrivals := a } } := by
  obtain ⟨sp, tr, a, b, r, hrun⟩ := State.beginRun_phaseOne hjoint hg hlength hplan c ((work - c) * s.pwr.n / 40)
  have hplan' : (s.beginRun c ((work - c) * s.pwr.n / 40)).plan? = some pl := by rw [hrun]; exact hplan
  refine ⟨sp, tr, a, b, r, ?_⟩
  unfold State.firstRun
  rw [State.faultLists_none hplan' hlists, hrun]

/-- The tick of an empty batch whose phase 1 has a length and whose plan writes no list. -/
theorem State.cutRest_empty {s : State} (hreqs : s.requests = []) (hplan : s.plan? = some pl) (hlists : ∀ l, pl.lists l = [])
    (hagainst : s.tick.against = none) (c work : Nat) : ∃ sp o f m w tr a b r, s.cutRest c work
    = { s with spans := sp, obs := o, flt := f, trs := tr, via := { s.via with pulls := [] }
               gov := { s.gov with heldFrom := none, nextCut := none }
               tick := { ({ s.tick with replay := false, runs := 0, sums := [], slots := [], moves := m, balWord := w } : Tick).openAt
                   c s.pwr.n s.gov.period with
                 phase := 1, init := initLedger s.gov.period s.pwr.n pl.head.planCyc, h := 0, initLoss := 0
                 viewBalance := b, viewSlip := r, arrivals := a } } := by
  obtain ⟨sp, o, f, m, w, hbatch⟩ := State.takeBatch_empty hreqs c
  have hnone (u : State) (hu : u.tick.against = none) : u.breakAgainst = u := by unfold State.breakAgainst; rw [hu]
  rw [State.cutRest_eq, hbatch]
  generalize hv : ({ s with spans := sp, obs := o, flt := f, gov := _, tick := _ } : State) = v
  have hplan' : v.plan? = some pl := hv ▸ hplan
  obtain ⟨sp', tr, a, b, r, hrun⟩ := State.firstRun_phaseOne hjoint hg hlength hplan' hlists c work
  refine ⟨sp', o, f, m, w, tr, a, b, r, ?_⟩
  rw [hnone _ (by rw [hrun, ← hv]; exact hagainst), hrun, ← hv]

end

/-! ### The cut of a SERVE job (R228, R229) -/

section
variable {s : State} {id : Nat} (hrunning : s.running = some id)
include hrunning

theorem State.job?_running {j : Job} (hjob : kfind? s.jobs id = some j) : s.job? = some j := by
  unfold State.job?
  rw [hrunning]
  exact hjob

theorem State.plan?_running {b : Bitstream} {pl : Plan} (hbits : kfind? s.bits id = some b) (hplan : b.plan? s.tick.plan = some pl) :
    s.plan? = some pl := by
  unfold State.plan? State.bitstream?
  rw [hrunning, Option.bind_some, hbits]
  exact hplan

end

/-- A cut instant that has come is due to a SERVE job that is not in a run, when nothing holds its ticks back. -/
theorem State.cutDue?_serve {s : State} {c : Nat} {j : Job} (hcut : s.gov.nextCut = some c) (hcome : c ≤ s.time)
    (hjob : s.job? = some j) (hserve : j.type = .serve) (hidle : s.tick.active = false) (hwhole : s.tick.broken = none)
    (hboot : s.boot.deferred = none) (hfrozen : s.via.lock.frozen = false) (hpair : s.pair = false) : s.cutDue? = some c := by
  have hout : s.inTick = false := by unfold State.inTick; rw [hidle]; rfl
  unfold State.cutDue?
  simp only [hcut, hjob]
  refine if_pos ⟨hcome, hserve, ?_, ?_, ?_, ?_, ?_⟩
  · rw [hout]; rfl
  · rw [hwhole]; rfl
  · rw [hfrozen]; rfl
  · rw [hboot]; rfl
  · exact .inl (by rw [hpair]; rfl)

/-- Settles O19: a cut that is due is the orders of Table 8.3 and the first run, one by one; without requests each order but the clock
step finds nothing to do, and the run opens in phase 1. -/
theorem admissionCutStartsTick : Obligations.AdmissionCutStartsTick := by
  unfold Obligations.AdmissionCutStartsTick
  refine ⟨fun t s hwhole hdue => exec_admissionCut_none hwhole hdue, fun t c s hwhole hdue => ?_, State.cutRest_cut,
    fun t c id j0 s j b pl g hcut hcome hrunning hjob hserve hbasic hbits hpl hplan hidle hwhole hagainst hboot hfrozen hpair hreqs
      hwaiting hfence hasked hstrikes hlists hjoint hg hlength => ?_,
    fun t s b hbroken hfrozen hcause hperiod => ?_⟩
  · intro y
    obtain ⟨hcome, hcut⟩ := State.cutDue?_some hdue
    refine ⟨hcome, hcut, fun hnone => ?_, fun hsome => ?_⟩
    · rw [exec_admissionCut_due hwhole hdue]
      exact congrArg _ (if_pos (Option.isNone_iff_eq_none.2 hnone))
    · rw [exec_admissionCut_due hwhole hdue]
      exact congrArg _ (if_neg (fun h => hsome (Option.isNone_iff_eq_none.1 h)))
  · have hdue : (s.at t).cutDue? = some c :=
      State.cutDue?_serve hcut hcome (State.job?_running (s := s.at t) hrunning hjob) hserve hidle hwhole hboot hfrozen hpair
    obtain ⟨hs, hfirst⟩ := State.cutFirst_idle (s := s.at t) c hreqs hwaiting hrunning hjob hbasic hplan hfence hasked hstrikes
    rw [exec_admissionCut_due hwhole hdue, State.upToNow_idle (s := s.at t) hidle]
    generalize (s.at t).cutFirst c = y at hfirst ⊢
    have hrun : y.running = some id := by rw [hfirst.frame]; exact hrunning
    have hreq : y.requests = [] := by rw [hfirst.frame]; exact hreqs
    have hfound : y.plan? = some pl := State.plan?_running hrun (by rw [hfirst.frame]; exact hbits) (by rw [hfirst.frame]; exact hpl)
    have hclear : y.tick.against = none := by rw [hfirst.frame]; exact hagainst
    obtain ⟨sp, o, f, m, w, tr, a, ba, r, hrest⟩ := State.cutRest_empty hjoint hg hlength hreq hfound hlists hclear c y.time
    simp only [hrun, Option.isNone_some, Bool.false_eq_true, if_false]
    refine ⟨_, rfl, ?_⟩
    rw [hrest]
    have hgov : y.gov.period = s.gov.period := by rw [hfirst.frame]; rfl
    have hinit : initLedger y.gov.period y.pwr.n pl.head.planCyc = initLedger s.gov.period y.pwr.n pl.head.planCyc := by rw [hgov]
    have hkept : y.tick.plan = s.tick.plan := by rw [hfirst.frame]; rfl
    have hjobs : y.jobs = s.jobs := by rw [hfirst.frame]; rfl
    have hbinding : y.binding = s.binding := by rw [hfirst.frame]; rfl
    have hout : y.out = (s.at t).out := by rw [hfirst.frame]
    exact ⟨rfl, rfl, rfl, rfl, rfl, rfl, rfl, hgov, rfl, rfl, rfl, rfl, hkept, rfl, hinit, rfl, hrun, hreq, hjobs, hbinding, hout⟩
  · intro n
    rw [exec_admissionCut_replay hbroken hfrozen]
    have hb : (s.at t).tick.broken ≠ some .poison := fun h => hcause (Option.some.inj (hbroken.symm.trans h))
    rw [State.missCut_counts hb hperiod]
    rfl

end Sys2Proof.Machine
end

section
/-! PROOFS. The replay of a broken tick (R249, R250; spec/08_tick_keystone.md). -/

namespace Sys2Proof.Machine
open Sys2Proof

/-! ### Spans without strikes (R500) -/

theorem mem_of_kfind? {α : Type} {m : List (Nat × α)} {k : Nat} {v : α} (h : kfind? m k = some v) : (k, v) ∈ m := by
  induction m with
  | nil => cases h
  | cons e m ih =>
    rw [kfind?] at h
    split at h
    · rename_i hk
      obtain rfl := Option.some.inj h
      exact hk ▸ List.mem_cons_self
    · exact List.mem_cons_of_mem _ (ih h)

/-- What holds of the reset span and of every listed one holds of every span. -/
theorem State.span_of_listed {P : Span → Prop} {s : State} (hidle : P Span.idle) (hlisted : ∀ e ∈ s.spans, P e.2) (p : Nat) :
    P (s.span p) := by
  unfold State.span kget
  cases hfind : kfind? s.spans p with
  | none => exact hidle
  | some x => exact hlisted _ (mem_of_kfind? hfind)

section
variable {s : State} (hstrikes : ∀ e ∈ s.spans, e.2.strikes = [])
include hstrikes

theorem State.span_strikes (p : Nat) : (s.span p).strikes = [] := State.span_of_listed (P := fun x => x.strikes = []) rfl hstrikes p

theorem State.strikes_few : ∀ e ∈ s.spans, e.2.strikes.length < 2 := fun e he => by
  rw [hstrikes e he]
  exact Nat.two_pos

theorem State.rewriteStruck_none : s.rewriteStruck = s := by
  unfold State.rewriteStruck
  rw [List.filter_eq_nil_iff.2 (fun e _ => by simp [State.span_strikes hstrikes])]
  rfl

end

/-! ### Replay (R249, R250) -/

theorem State.replayPlan_same {s : State} {j : Job} (hjob : s.job? = some j) (hplan : s.planFor j = s.tick.plan) :
    s.replayPlan = s := by
  unfold State.replayPlan
  rw [hjob]
  dsimp only
  rw [State.setPlan_same hjob hplan]
  exact ite_self s

theorem State.modJob_ofRunning {s : State} {id : Nat} (hrunning : s.running = some id) (f : Job → Job) :
    s.modJob f = { s with jobs := kupd s.jobs id f } := by
  unfold State.modJob
  split
  · rename_i hnone
    cases hrunning.symm.trans hnone
  · rename_i i hsome
    obtain rfl := Option.some.inj (hrunning.symm.trans hsome)
    rfl

/-- Nothing is folded outside a lock-step pair. -/
theorem State.foldBatch_alone {s : State} (hpair : s.pair = false) : s.foldBatch = s := by
  unfold State.foldBatch
  refine List.foldl_fixed' (fun e => ?_) _
  split
  · rfl
  · unfold State.foldItem
    rw [hpair]
    rfl

theorem exec_replayStart_unready {t : Nat} {s : State} (h : (s.at t).replayReady = false) : exec (.replayStart t) s = .next (s.at t) := by
  show execReplayStart t s = _
  simp only [execReplayStart, h, Bool.not_false, if_true]

/-- A replay for which no span waits to be fenced or rewritten, in a plan that stays. -/
theorem exec_replayStart_ready {t id : Nat} {s : State} {j : Job} (hready : (s.at t).replayReady = true) (hrunning : s.running = some id)
    (hjob : kfind? s.jobs id = some j) (hplan : s.planFor j = s.tick.plan) (hspent : s.replaysSpent = false)
    (hpair : s.pair = false) (hstrikes : ∀ e ∈ s.spans, e.2.strikes = []) (hfence : s.flt.fenceAsked = [])
    (hasked : s.flt.basicAsked = none) : exec (.replayStart t) s
    = .next ({ s.at t with jobs := kupd s.jobs id (fun j => { j with remoteWait := false })
                           tick := { s.tick with replay := true, sums := [] } }.beginRun (max s.time t) 0) := by
  have hrun : (s.at t).running = some id := hrunning
  have hlimit : (s.at t).replayLimit = s.at t := by
    have hnot : (s.at t).replaysSpent = false := hspent
    unfold State.replayLimit
    rw [hnot]
    rfl
  have hwait : (s.at t).modJob (fun j => { j with remoteWait := false })
      = { s.at t with jobs := kupd s.jobs id (fun j => { j with remoteWait := false }) } := by
    rw [State.modJob_ofRunning hrun]
    rfl
  show execReplayStart t s = _
  simp only [execReplayStart, hready, Bool.not_true, Bool.false_eq_true, if_false,
    State.boundaryFences_none (s := s.at t) hfence hasked (State.strikes_few hstrikes), hrun, Option.isNone_some,
    State.rewriteStruck_none (s := s.at t) hstrikes, hlimit, State.replayPlan_same (State.job?_running hrun hjob) hplan, hwait]
  rw [State.foldBatch_alone]
  · rfl
  · exact hpair

end Sys2Proof.Machine
end

section
/-! PROOFS. A remote wait beyond its bound (R257): the tick breaks, and the job leaves the spans with it
(spec/08_tick_keystone.md). -/

namespace Sys2Proof.Machine
open Sys2Proof

/-! ### What the leave of a job keeps of the running job (R433, R512) -/

section
variable (s : State)

@[simp] theorem State.orphan_running (q : Request) : (s.orphan q).running = s.running := by
  unfold State.orphan
  split
  · rfl
  · split
    · rfl
    · split <;> rfl

@[simp] theorem State.forget_running (h : Nat) : (s.forget h).running = s.running := by
  unfold State.forget
  split
  · rfl
  · exact State.orphan_running ..

@[simp] theorem State.handleKey_running (h : Nat) (e : EventRec) : (s.handleKey h e).running = s.running := by
  unfold State.handleKey
  split
  · rfl
  · split
    · rfl
    · split
      · rfl
      · exact State.handleNow_running ..

@[simp] theorem State.answerKey_running (h status arg0 : Nat) : (s.answerKey h status arg0).running = s.running := by
  unfold State.answerKey
  dsimp only
  split <;> simp

@[simp] theorem State.breakHo_running (h : Nat) : (s.breakHo h).running = s.running := by
  unfold State.breakHo State.failHo
  split
  · rfl
  · dsimp only
    split
    · rfl
    · rw [State.answerKey_running, State.inc_running]
      rfl

@[simp] theorem State.expireLanding_running (lid : Nat) : (s.expireLanding lid).running = s.running := by
  show (s.abortHoIn lid).running = s.running
  unfold State.abortHoIn
  split
  · rfl
  · dsimp only
    split
    · exact State.inc_running ..
    · exact (State.orphan_running ..).trans (State.inc_running ..)

@[simp] theorem State.stopHo_running (h : Nat) : (s.stopHo h).running = s.running := by
  unfold State.stopHo
  dsimp only
  split <;> simp

@[simp] theorem State.completeNow_running (h reason arg1 : Nat) : (s.completeNow h reason arg1).running = s.running := by
  unfold State.completeNow
  split
  · rfl
  · simp

@[simp] theorem State.cancelNow_running (h target : Nat) : (s.cancelNow h target).running = s.running := by
  unfold State.cancelNow
  split
  · simp
  · dsimp only
    (repeat' split) <;> simp

@[simp] theorem State.settle_running (recs : List KeyRec) : (s.settle recs).running = s.running := by
  have hclear : s.clearGone.running = s.running :=
    foldl_keeps State.running (fun (s : State) (h : Nat) => (s.stopHo h).forget h) _ s fun _ _ => by simp
  have htell : (s.clearGone.tellNow recs).running = s.clearGone.running := foldl_keeps State.running _ _ _ fun _ _ => by simp
  unfold State.settle
  dsimp only
  refine (foldl_keeps State.running _ _ _ fun u w => ?_).trans (htell.trans hclear)
  split
  · exact State.cancelNow_running ..
  · rfl

theorem State.showBinding_nil : ∃ m e, s.showBinding [] = { s with spanMap := m, mapEpoch := e, binding := [] } := by
  unfold State.showBinding
  dsimp only
  split <;> exact ⟨_, _, rfl⟩

end

/-- A SERVE job that leaves the spans with its tick (R257): its store, its governor and its tick are kept, the chip is scrubbed and
the binding goes. Only requests of other jobs end. -/
theorem State.leaveSpans_keepsTick {s : State} {id : Nat} {j : Job} (hrunning : s.running = some id) (hjob : s.job? = some j)
    (hkeep : (j.remoteWait && s.tick.broken.isSome) = true) (next : JobState) :
    let u := (s.accrue.countStall none).flushEndings
      ((s.accrue.countStall none).requests.filter (fun e => !true || decide ((s.accrue.countStall none).jobOf? e.2 ≠ some id)))
    ∃ x us ks gs ss sp tr vi g ln tk, s.leaveSpans next
        = (((j.preempts.foldl (fun (s : State) h => s.answerNow h 0 0 0 0) x).settle []).switchWindows).showBinding []
      ∧ x = { u with
          kvSaved := ks, govSaved := gs, spanSaved := ss, tickSaved := kins u.tickSaved id u.tick, spans := sp, trs := tr
          via := vi, kv := KvStore.none, gov := g, running := none, routes := [], tick := tk, landings := ln
          flt := { u.flt with scrubbing := true, scrubUs := us }
          jobs := kupd u.jobs id (fun j =>
            { j with state := next, preempts := [], toHeld := false, scrubUs := us, fw := planFw u.tick.plan }) } := by
  intro u
  unfold State.leaveSpans
  rw [hrunning, hjob]
  dsimp -zeta only
  rw [hkeep]
  extract_lets keep s6 s5 bytes us s4 recs lid s3 v l s2 t g f s1 s0
  have hu : s5 = u := rfl
  clear_value u s5
  subst hu
  exact ⟨s1, us, _, _, _, _, _, _, _, _, _, rfl, rfl⟩

theorem State.leaveSpans_running {s : State} {id : Nat} {j : Job} (hrunning : s.running = some id) (hjob : s.job? = some j)
    (hkeep : (j.remoteWait && s.tick.broken.isSome) = true) (next : JobState) : (s.leaveSpans next).running = none := by
  obtain ⟨x, us, ks, gs, ss, sp, tr, vi, g, ln, tk, hleave, hx⟩ := State.leaveSpans_keepsTick hrunning hjob hkeep next
  obtain ⟨m, e, hshow⟩ := State.showBinding_nil
    (((j.preempts.foldl (fun (s : State) h => s.answerNow h 0 0 0 0) x).settle []).switchWindows)
  have hoff : x.running = none := by rw [hx]
  rw [hleave, hshow]
  refine (State.settle_running ..).trans (Eq.trans ?_ hoff)
  exact foldl_keeps State.running _ _ _ fun _ _ => by simp

section
variable {s : State} (hreqs : s.requests = []) (hwaiting : s.waiting = [])
include hreqs hwaiting

/-- With no request, no command and no record to settle, only the handles of a reset port go. -/
theorem State.settle_none : ∃ hs, s.settle [] = { s with handles := hs } := by
  unfold State.settle State.clearGone State.tellNow
  simp only [hreqs, hwaiting, List.filter_nil, List.map_nil, List.foldl_nil]
  exact ⟨_, rfl⟩

/-- The leave of a job without requests and without pre-empts that wait. -/
theorem State.leaveSpans_alone {id : Nat} {j : Job} (hrunning : s.running = some id) (hjob : s.job? = some j)
    (hkeep : (j.remoteWait && s.tick.broken.isSome) = true) (hactive : s.tick.active = false) (hpreempts : j.preempts = [])
    (next : JobState) : ∃ us ks gs ss sp tr vi g ln tk ms hs o m e, s.leaveSpans next = { s with
      kvSaved := ks, govSaved := gs, spanSaved := ss, tickSaved := kins s.tickSaved id s.tick, spans := sp, trs := tr
      via := vi, kv := KvStore.none, gov := g, running := none, routes := [], tick := tk, landings := ln
      handles := hs, obs := o, spanMap := m, mapEpoch := e, binding := []
      flt := { s.flt with outageMs := ms, scrubbing := true, scrubUs := us }
      jobs := kupd s.jobs id (fun j =>
        { j with state := next, preempts := [], toHeld := false, scrubUs := us, fw := planFw s.tick.plan }) } := by
  obtain ⟨x, us, ks, gs, ss, sp, tr, vi, g, ln, tk, hleave, hx⟩ := State.leaveSpans_keepsTick hrunning hjob hkeep next
  have hstill : s.accrue = s := if_neg (by rw [hactive]; exact Bool.false_ne_true)
  have hnone : (s.countStall none).requests = [] := hreqs
  rw [hstill, hnone, List.filter_nil] at hx
  have hreqs' : x.requests = [] := by rw [hx]; exact hreqs
  have hwaiting' : x.waiting = [] := by rw [hx]; exact hwaiting
  rw [hpreempts, List.foldl_nil] at hleave
  obtain ⟨hs, hsettle⟩ := State.settle_none hreqs' hwaiting'
  obtain ⟨m, e, hshow⟩ := State.showBinding_nil (x.settle []).switchWindows
  rw [hleave, hshow, hsettle, hx]
  exact ⟨us, ks, gs, ss, sp, tr, vi, g, ln, tk, _, hs, _, m, e, rfl⟩

end

/-! ### What the dispatcher finds when the only job is HELD (R438) -/

theorem State.fillSpans_none {s : State} (hchoose : s.chooseIdle = none) (fuel : Nat) : State.fillSpans fuel s = s := by
  cases fuel with
  | zero => rfl
  | succ fuel =>
    unfold State.fillSpans
    rw [hchoose]
    exact ite_self s

section
variable {s : State} (hoff : s.running = none)
include hoff

theorem State.job?_off : s.job? = none := by
  unfold State.job?
  rw [hoff]
  rfl

theorem State.startTicks_off : s.startTicks = s := by
  unfold State.startTicks
  split
  · rename_i hrunning _
    cases hoff.symm.trans hrunning
  · rfl

theorem State.chooseIdle_held {id : Nat} {j : Job} (hjobs : s.jobs = [(id, j)]) (hheld : j.state = .held) : s.chooseIdle = none := by
  unfold State.chooseIdle State.choose
  simp [hoff, hjobs, hheld, bestJob]

/-- Nothing is dispatched while the only job is HELD. -/
theorem State.dispatch_held {id : Nat} {j : Job} (hload : s.load = none) (hjobs : s.jobs = [(id, j)]) (hheld : j.state = .held)
    (pause : Bool) : ∃ i, s.dispatch pause = { s with jobs := [(id, { j with idleSince := i })] } := by
  have hnote : ∃ i, s.noteIdle = { s with jobs := [(id, { j with idleSince := i })] } := by
    unfold State.noteIdle
    rw [hjobs]
    exact ⟨_, rfl⟩
  obtain ⟨i, hnote⟩ := hnote
  refine ⟨i, ?_⟩
  unfold State.dispatch
  rw [hnote]
  generalize hw : ({ s with jobs := [(id, { j with idleSince := i })] } : State) = w
  have hoffw : w.running = none := by rw [← hw]; exact hoff
  have hloadw : w.load = none := by rw [← hw]; exact hload
  have hjobsw : w.jobs = [(id, { j with idleSince := i })] := by rw [← hw]
  have hchoose : w.chooseIdle = none := State.chooseIdle_held hoffw hjobsw hheld
  simp only [hoffw, hloadw, State.job?_off hoffw, Option.isNone_none, Bool.and_self, if_true, State.fillSpans_none hchoose,
    State.startTicks_off hoffw]

end

/-! ### A broken tick (R248) -/

/-- The tick of a run that `c` has broken. -/
def Tick.brokenBy (c : BreakCause) (t : Tick) : Tick :=
  { t with active := false, broken := some c, runs := t.runs + 1, slots := t.slots.map Slot.again, refused := false, arrivals := [],
           released := [], writesOpen := 0 }

theorem State.breakHere_open {s : State} (hin : s.inTick = true) (c : BreakCause) : ∃ cs, s.breakHere c = { s with
    counters := cs, tick := s.tick.brokenBy c, obs := s.obs.discard, trs := s.trs.fresh
    spans := s.spans.foldl (fun m e => kset Span.idle m e.1 (e.2.accrue s.cycNow).abandon) [] } := by
  have hopen : s.tick.active = true ∧ s.tick.sealed = false := by
    unfold State.inTick at hin
    simpa using hin
  obtain ⟨hactive, hsealed⟩ := hopen
  obtain ⟨cs, hinc⟩ := State.inc_counters 0x060104 1 s
  unfold State.breakHere
  rw [hactive, hsealed]
  simp only [Bool.false_eq_true, if_false, Bool.not_true]
  rw [hinc]
  exact ⟨cs, rfl⟩

theorem State.closeTickLandings_frame (s : State) : ∃ ln, s.closeTickLandings
    = { s with landings := ln, tick := { s.tick with landings := [] } } := by
  have hclose (ls : List Nat) (u : State) : ∃ ln, ls.foldl (fun (s : State) (l : Nat) => { s with landings := kdel s.landings l }) u
      = { u with landings := ln } := by
    induction ls generalizing u with
    | nil => exact ⟨_, rfl⟩
    | cons l ls ih =>
      obtain ⟨ln, h⟩ := ih { u with landings := kdel u.landings l }
      exact ⟨ln, h⟩
  obtain ⟨ln, h⟩ := hclose s.tick.landings s
  unfold State.closeTickLandings
  rw [h]
  exact ⟨ln, rfl⟩

/-- The state in which a remote wait beyond its bound has broken the tick. -/
def State.remoteBroken (s : State) : State :=
  ((s.breakHere .remoteWait).closeTickLandings.inc 0x060108 1).modJob (fun j => { j with remoteWait := true })

theorem State.remoteBroken_frame {s : State} {id : Nat} (hin : s.inTick = true) (hrunning : s.running = some id) :
    ∃ cs o sp tr ln, s.remoteBroken = { s with
      counters := cs, obs := o, spans := sp, trs := tr, landings := ln
      tick := { s.tick.brokenBy .remoteWait with landings := [] }
      jobs := kupd s.jobs id (fun j => { j with remoteWait := true }) } := by
  obtain ⟨cs, hbreak⟩ := State.breakHere_open hin .remoteWait
  obtain ⟨ln, hclose⟩ := (s.breakHere .remoteWait).closeTickLandings_frame
  obtain ⟨cs', hinc⟩ := State.inc_counters 0x060108 1 (s.breakHere .remoteWait).closeTickLandings
  have hrun : ((s.breakHere .remoteWait).closeTickLandings.inc 0x060108 1).running = some id := by
    rw [hinc, hclose, hbreak]
    exact hrunning
  unfold State.remoteBroken
  rw [State.modJob_ofRunning hrun, hinc, hclose, hbreak]
  exact ⟨_, _, _, _, _, rfl⟩

theorem State.remoteLate_inTick {s : State} (hlate : s.remoteLate = true) : s.inTick = true := by
  unfold State.remoteLate at hlate
  exact (Bool.and_eq_true _ _ ▸ hlate).1

section
variable {z : State} {id : Nat} {j : Job} (hlate : z.remoteLate = true) (hrunning : z.running = some id) (hjob : kfind? z.jobs id = some j)
include hlate hrunning hjob

theorem State.remoteBroken_job? : z.remoteBroken.job? = some { j with remoteWait := true } := by
  obtain ⟨cs, o, sp, tr, ln, hbroken⟩ := State.remoteBroken_frame (State.remoteLate_inTick hlate) hrunning
  refine State.job?_running (by rw [hbroken]; exact hrunning) ?_
  rw [hbroken]
  exact (kupd_of_find hjob _ ▸ kfind?_kins_same ..)

end

/-- The job whose tick a remote wait has broken keeps it when it leaves. -/
theorem State.remoteBroken_keeps {z : State} {id : Nat} (hlate : z.remoteLate = true) (hrunning : z.running = some id) (j : Job) :
    (({ j with remoteWait := true } : Job).remoteWait && z.remoteBroken.tick.broken.isSome) = true := by
  obtain ⟨cs, o, sp, tr, ln, hbroken⟩ := State.remoteBroken_frame (State.remoteLate_inTick hlate) hrunning
  rw [hbroken]
  rfl

theorem exec_remoteWaitTimeout_early {t : Nat} {s : State} (h : (s.at t).settled.remoteLate = false) :
    exec (.remoteWaitTimeout t) s = .next (s.at t).settled := by
  show execRemoteWaitTimeout t s = _
  simp only [execRemoteWaitTimeout, h, Bool.not_false, if_true]

theorem exec_remoteWaitTimeout_late {t id : Nat} {s : State} {j : Job} (hlate : (s.at t).settled.remoteLate = true)
    (hrunning : (s.at t).settled.running = some id) (hjob : kfind? (s.at t).settled.jobs id = some j) (hstate : j.state = .running) :
    exec (.remoteWaitTimeout t) s
      = .next (((s.at t).settled.remoteBroken.leaveSpans (if j.toHeld then .held else .paused)).dispatch true) := by
  have hj := State.remoteBroken_job? hlate hrunning hjob
  unfold State.remoteBroken at hj ⊢
  show execRemoteWaitTimeout t s = _
  simp only [execRemoteWaitTimeout, hlate, Bool.not_true, Bool.false_eq_true, if_false, hj, hstate, reduceCtorEq]

/-- A pre-empt that waits for the job makes it HELD, with its tick kept. -/
theorem exec_remoteWaitTimeout_held {t id : Nat} {s : State} {j : Job} (hlate : (s.at t).settled.remoteLate = true)
    (hrunning : (s.at t).settled.running = some id) (hjob : kfind? (s.at t).settled.jobs id = some j) (hstate : j.state = .running)
    (hjobs : (s.at t).settled.jobs = [(id, j)]) (hheld : j.toHeld = true) (hpreempts : j.preempts = [])
    (hwaiting : (s.at t).settled.waiting = []) (hreqs : (s.at t).settled.requests = []) (hload : (s.at t).settled.load = none) :
    ∃ u, exec (.remoteWaitTimeout t) s = .next u ∧ u.running = none ∧ u.binding = [] ∧ u.flt.scrubbing = true ∧ u.load = none
      ∧ kfind? u.tickSaved id = some (s.at t).settled.remoteBroken.tick
      ∧ ∃ j', u.jobs = [(id, j')] ∧ j'.state = .held ∧ j'.remoteWait = true ∧ j'.toHeld = false ∧ j'.tick = j.tick
        ∧ j'.committedTicks = j.committedTicks := by
  obtain ⟨cs, o, sp, tr, ln, hbroken⟩ := State.remoteBroken_frame (State.remoteLate_inTick hlate) hrunning
  have hexec := exec_remoteWaitTimeout_late hlate hrunning hjob hstate
  have hrun := State.remoteBroken_job? hlate hrunning hjob
  have hkeep := State.remoteBroken_keeps hlate hrunning j
  generalize (s.at t).settled = z at *
  rw [hheld, if_pos rfl] at hexec
  generalize z.remoteBroken = v at *
  have hvrun : v.running = some id := by rw [hbroken]; exact hrunning
  have hvreqs : v.requests = [] := by rw [hbroken]; exact hreqs
  have hvwaiting : v.waiting = [] := by rw [hbroken]; exact hwaiting
  have hvactive : v.tick.active = false := by rw [hbroken]; rfl
  have hvjobs : v.jobs = [(id, { j with remoteWait := true })] := by rw [hbroken]; simp [hjobs, kupd, kfind?, kput]
  have hvload : v.load = none := by rw [hbroken]; exact hload
  obtain ⟨us, ks, gs, ss, sp', tr', vi, g, ln', tk, ms, hs, o', m, e, hleft⟩ :=
    State.leaveSpans_alone hvreqs hvwaiting hvrun hrun hkeep hvactive hpreempts .held
  have hleftJobs : (v.leaveSpans .held).jobs = [(id, { j with
      remoteWait := true, state := .held, preempts := [], toHeld := false, scrubUs := us, fw := planFw v.tick.plan })] := by
    rw [hleft]
    simp [hvjobs, kupd, kfind?, kput]
  obtain ⟨i, hdispatch⟩ := State.dispatch_held (by rw [hleft]) (by rw [hleft]; exact hvload) hleftJobs rfl true
  refine ⟨_, hexec, ?_⟩
  rw [hdispatch, hleft]
  exact ⟨rfl, rfl, rfl, hvload, kfind?_kins_same .., _, rfl, rfl, rfl, rfl, rfl, rfl⟩

end Sys2Proof.Machine
end

section
/-! PROOFS. A span that hangs (R299, R501): the tick breaks, the span is fenced, and a spare takes its logical number
(spec/08_tick_keystone.md). -/

namespace Sys2Proof.Machine
open Sys2Proof

/-! ### Spans stay without strikes (R500) -/

theorem mem_of_kput {α : Type} {m : List (Nat × α)} {k : Nat} {o : Option α} {e : Nat × α} (h : e ∈ kput m k o) :
    e ∈ m ∨ o = some e.2 := by
  induction m with
  | nil => cases o <;> simp_all [kput]
  | cons x m ih =>
    obtain ⟨j, v⟩ := x
    unfold kput at h
    split at h
    · cases o <;> grind
    · split at h
      · cases o <;> grind
      · grind

/-- No span of a list holds a strike. -/
def Unstruck (m : List (Nat × Span)) : Prop := ∀ e ∈ m, e.2.strikes = []

theorem Unstruck.kset {m : List (Nat × Span)} (h : Unstruck m) {x : Span} (hx : x.strikes = []) (p : Nat) :
    Unstruck (kset Span.idle m p x) := by
  intro e he
  rcases mem_of_kput he with hm | hnew
  · exact h e hm
  · split at hnew
    · cases hnew
    · exact Option.some.inj hnew ▸ hx

theorem Unstruck.modSpan {s : State} (h : Unstruck s.spans) {f : Span → Span} (hf : ∀ x, (f x).strikes = x.strikes) (p : Nat) :
    Unstruck (s.modSpan p f).spans := h.kset ((hf _).trans (State.span_strikes h p)) p

/-- A list in which every span is written anew, by a change that leaves its strikes. -/
theorem Unstruck.rewritten {f : Span → Span} (hf : ∀ x, (f x).strikes = x.strikes) {l : List (Nat × Span)} (hl : Unstruck l)
    {m : List (Nat × Span)} (hm : Unstruck m) : Unstruck (l.foldl (fun m e => Machine.kset Span.idle m e.1 (f e.2)) m) := by
  induction l generalizing m with
  | nil => exact hm
  | cons e l ih =>
    have he : (f e.2).strikes = [] := (hf _).trans (hl e List.mem_cons_self)
    exact ih (fun x hx => hl x (List.mem_cons_of_mem _ hx)) (hm.kset he e.1)

theorem Span.inc_strikes (off n : Nat) (x : Span) : (x.inc off n).strikes = x.strikes := by
  unfold Span.inc
  split <;> rfl

theorem Span.trace_strikes (now tick l p type : Nat) (arg : List Byte) (x : Span) :
    (Span.trace_ now tick l p type arg x).strikes = x.strikes := by
  obtain ⟨tr, cs, h⟩ := (Span.trace_kept now tick l p type arg x).kept
  rw [h]

theorem Span.accrue_strikes (now : Nat) (x : Span) : (x.accrue now).strikes = x.strikes := by
  have hhold : (x.countHold now).strikes = x.strikes := by
    unfold Span.countHold
    split
    · rfl
    · dsimp only
      split
      · rfl
      · exact Span.inc_strikes ..
  have hjoint (y : Span) : (y.countJoint now).strikes = y.strikes := by
    unfold Span.countJoint
    split
    · rfl
    · exact Span.inc_strikes ..
  have hatt (y : Span) : (y.countAtt now).strikes = y.strikes := by
    unfold Span.countAtt
    split
    · rfl
    · split
      · rfl
      · exact Span.inc_strikes ..
  have hfull (y : Span) : (y.countFull now).strikes = y.strikes := Span.inc_strikes ..
  unfold Span.accrue
  rw [hfull, hatt, hjoint, hhold]

theorem State.trace_unstruck {s : State} (h : Unstruck s.spans) (l type : Nat) (arg : List Byte) : Unstruck (s.trace l type arg).spans := by
  unfold State.trace
  split
  · exact h
  · exact h.modSpan (Span.trace_strikes _ _ _ _ _ _) _

/-! ### The span that is fenced (R20, R502) -/

/-- The place nearest to another is one of those asked about. -/
theorem mem_of_nearest {p q : Nat} {l : List Nat} (h : nearest p l = some q) : q ∈ l := by
  have hfold (l : List Nat) (b : Option Nat) (h : l.foldl (fun best q => match best with
      | none => some q
      | some b => if hops q p < hops b p then some q else some b) b = some q) : q ∈ l ∨ b = some q := by
    induction l generalizing b with
    | nil => exact .inr h
    | cons k l ih =>
      rcases ih _ h with hl | hk
      · exact .inl (List.mem_cons_of_mem _ hl)
      · grind
  exact (hfold l none h).resolve_right (by simp)

theorem State.rewriteSpan_frame (l p : Nat) (s : State) : ∃ sp r, s.rewriteSpan l p = { s with spans := sp, routes := r } := by
  unfold State.rewriteSpan
  split
  · exact ⟨_, _, rfl⟩
  · exact ⟨_, _, rfl⟩

theorem State.listFence_frame (p : Nat) (s : State) : ∃ fl, s.listFence p = { s with flt := { s.flt with fenceList := fl } } := by
  unfold State.listFence
  split
  · exact ⟨_, rfl⟩
  · exact ⟨_, rfl⟩

/-- A bound span for which there is a spare: the nearest spare takes its logical number. -/
theorem State.fence_bound {s : State} {p q l : Nat} (hentry : s.mapEntry p = { status := .active, logical := some l })
    (hspare : nearest p (s.spansIn .spare) = some q) : ∃ cs fl sp r ep, s.fence p = (true, { s with
      counters := cs, flt := { s.flt with fenceList := fl }, spans := sp, routes := r, mapEpoch := ep
      spanMap := kins (kins s.spanMap p { status := .fenced, logical := none }) q { status := .active, logical := some l }
      binding := kins s.binding l q }) := by
  obtain ⟨cs, hinc⟩ := State.inc_counters 0x0B0130 1 s
  obtain ⟨fl, hlist⟩ := (s.inc 0x0B0130 1).listFence_frame p
  rw [hinc] at hlist
  have hspare' : nearest p (State.spansIn { s with counters := cs, flt := { s.flt with fenceList := fl } } .spare) = some q := hspare
  unfold State.fence
  rw [hentry]
  simp only [reduceCtorEq, ne_eq, not_true, false_and, if_false]
  rw [hinc, hlist, hspare']
  dsimp only
  generalize hw : State.modSpan q Span.fresh _ = w
  obtain ⟨cs', hinc'⟩ := State.inc_counters 0x0B0134 1 w
  obtain ⟨sp, r, hwrite⟩ := (w.inc 0x0B0134 1).rewriteSpan_frame l q
  rw [hwrite, hinc', ← hw]
  exact ⟨_, _, _, _, _, rfl⟩

section
variable {s : State} {p q l : Nat} (hunstruck : Unstruck s.spans) (hasked : s.flt.fenceAsked = [p]) (hctrl : s.flt.ctrlSpan = none)
  (hentry : s.mapEntry p = { status := .active, logical := some l }) (hspare : nearest p (s.spansIn .spare) = some q)
include hunstruck hasked hctrl hentry hspare

/-- The tick boundary at which one bound span is to be fenced, and a spare is there for it. -/
theorem State.boundaryFences_one (hbasic : s.flt.basicAsked = none) : ∃ cs fl sp r ep, s.boundaryFences = { s with
    counters := cs, flt := { s.flt with fenceList := fl, fenceAsked := [] }, spans := sp, routes := r, mapEpoch := ep
    spanMap := kins (kins s.spanMap p { status := .fenced, logical := none }) q { status := .active, logical := some l }
    binding := kins s.binding l q } := by
  have hlist : s.toFence = [p] := by
    unfold State.toFence
    rw [List.filter_eq_nil_iff.2 (fun e he => by simp [hunstruck e he]), hasked]
    rfl
  obtain ⟨cs, fl, sp, r, ep, hfence⟩ := State.fence_bound hentry hspare
  have hall : s.fenceAll [p] = s.fence p := by
    unfold State.fenceAll
    dsimp only
    rw [List.mergeSort_singleton, List.foldl_cons, List.foldl_nil, hfence]
    rfl
  have hdue : s.fencesDue = { (s.fence p).2 with flt := { (s.fence p).2.flt with fenceAsked := [] } } := by
    unfold State.fencesDue
    simp only [hlist, hall, hctrl, hfence, List.isEmpty_cons, Bool.false_eq_true, if_false, if_true]
  unfold State.boundaryFences
  rw [hdue, hfence, State.basicDue_unasked]
  · exact ⟨cs, fl, sp, r, ep, rfl⟩
  · exact hbasic

end

/-! ### A span that hangs (R299, R501) -/

theorem State.spanFault_frame (l p cls cause : Nat) (s : State) : ∃ cs rg o a b lg fl, s.spanFault l p cls cause = { s with
    counters := cs, regs := rg, obs := o, flt := { s.flt with last0 := a, last1 := b, log := lg, flashLog := fl } } := by
  have hfault : ∃ cs a b lg fl, s.fault cls cause p = { s with
      counters := cs, flt := { s.flt with last0 := a, last1 := b, log := lg, flashLog := fl } } := by
    unfold State.fault
    dsimp only
    generalize hw : ({ s with flt := _ } : State) = w
    obtain ⟨cs, hinc⟩ := State.inc_counters (0xB0100 + 4 * (cls - 1)) 1 w
    rw [hinc, ← hw]
    split <;> exact ⟨_, _, _, _, _, rfl⟩
  obtain ⟨cs, a, b, lg, fl, hfault⟩ := hfault
  have htrigger := (State.triggerAt_triggered l 28 2 (s.fault cls cause p)).frame
  unfold State.spanFault
  rw [htrigger, hfault]
  exact ⟨_, _, _, _, _, _, _, rfl⟩

/-- What HUNG leaves at the span before it is fenced: its record, the fault and the broken tick. -/
def State.hungBreak (l p : Nat) (s : State) : State :=
  (((s.modSpan p (fun x => { x with seq := x.seq.record 0x09 s.tickNumber x.seq.pc })).trace l 5 [0x09#8, 2#8]).spanFault
    l p 2 0x09).breakHere .span

theorem State.hungBreak_frame {z : State} (hin : z.inTick = true) (hunstruck : Unstruck z.spans) (l p : Nat) :
    Unstruck (z.hungBreak l p).spans ∧ ∃ sp rg o cs tr a b lg fl, z.hungBreak l p = { z with
      spans := sp, regs := rg, obs := o, counters := cs, trs := tr, tick := z.tick.brokenBy .span
      flt := { z.flt with last0 := a, last1 := b, log := lg, flashLog := fl } } := by
  have hrecord : Unstruck (z.modSpan p (fun x => { x with seq := x.seq.record 0x09 z.tickNumber x.seq.pc })).spans := by
    refine hunstruck.modSpan (fun x => ?_) p
    rfl
  unfold State.hungBreak
  generalize hu : z.modSpan p (fun x => { x with seq := x.seq.record 0x09 z.tickNumber x.seq.pc }) = u at hrecord ⊢
  have htraced := State.trace_unstruck hrecord l 5 [0x09#8, 2#8]
  have htrace := (State.trace_joint l 5 [0x09#8, 2#8] u).frame
  generalize u.trace l 5 [0x09#8, 2#8] = v at htraced htrace ⊢
  obtain ⟨cs, rg, o, a, b, lg, fl, hfault⟩ := State.spanFault_frame l p 2 0x09 v
  have hinv : (v.spanFault l p 2 0x09).inTick = true := by rw [hfault, htrace, ← hu]; exact hin
  obtain ⟨cs', hbreak⟩ := State.breakHere_open hinv .span
  have hspans : (v.spanFault l p 2 0x09).spans = v.spans := by rw [hfault]
  rw [hbreak]
  refine ⟨?_, ?_⟩
  · rw [hspans]
    exact Unstruck.rewritten (f := fun x => (x.accrue (v.spanFault l p 2 0x09).cycNow).abandon)
      (fun x => Span.accrue_strikes _ x) htraced (List.forall_mem_nil _)
  · rw [hfault, htrace, ← hu]
    exact ⟨_, _, _, _, _, _, _, _, _, rfl⟩

/-- The first HUNG: it breaks the tick, and its span is fenced at once. -/
theorem State.hang_first {z : State} {l p : Nat} (hfirst : z.flt.hungAt = none) (hsnap : z.regb 0x0A0040 29 = false)
    (hasked : z.flt.fenceAsked = []) (hin : z.inTick = true) (hunstruck : Unstruck z.spans) :
    z.hang l p = (let u := z.hungBreak l p
      State.boundaryFences { u with flt := { u.flt with hungAt := some (l, p), fenceAsked := [p] } }) := by
  obtain ⟨-, sp, rg, o, cs, tr, a, b, lg, fl, hbreak⟩ := State.hungBreak_frame hin hunstruck l p
  have hkept : (z.hungBreak l p).flt.fenceAsked = [] := by rw [hbreak]; exact hasked
  have hfences : [p] = (z.hungBreak l p).flt.fenceAsked ++ [p] := by rw [hkept]; rfl
  have hhang : z.hang l p = z.hangFirst l p := by
    unfold State.hang
    rw [hsnap]
    simp only [Bool.false_eq_true, if_false, hfirst]
  rw [hhang, hfences]
  rfl

/-- R20, R299: what the first HUNG leaves when a spare is there for the span. -/
theorem State.hang_fences {z : State} {l p q : Nat} (hfirst : z.flt.hungAt = none) (hsnap : z.regb 0x0A0040 29 = false)
    (hfence : z.flt.fenceAsked = []) (hin : z.inTick = true) (hunstruck : Unstruck z.spans) (hctrl : z.flt.ctrlSpan = none)
    (hasked : z.flt.basicAsked = none) (hentry : z.mapEntry p = { status := .active, logical := some l })
    (hspare : nearest p (z.spansIn .spare) = some q) : ∃ sp rg o cs tr a b lg lf fl r ep, z.hang l p = { z with
      spans := sp, regs := rg, obs := o, counters := cs, trs := tr, routes := r, mapEpoch := ep, tick := z.tick.brokenBy .span
      flt := { z.flt with
        last0 := a, last1 := b, log := lg, flashLog := lf, fenceList := fl, hungAt := some (l, p), fenceAsked := [] }
      spanMap := kins (kins z.spanMap p { status := .fenced, logical := none }) q { status := .active, logical := some l }
      binding := kins z.binding l q } := by
  obtain ⟨hkept, sp, rg, o, cs, tr, a, b, lg, lf, hbreak⟩ := State.hungBreak_frame hin hunstruck l p
  rw [State.hang_first hfirst hsnap hfence hin hunstruck]
  generalize z.hungBreak l p = v at *
  dsimp only
  generalize hw : ({ v with flt := { v.flt with hungAt := some (l, p), fenceAsked := [p] } } : State) = w
  obtain ⟨cs', fl, sp', r, ep, hfences⟩ := State.boundaryFences_one (s := w) (p := p) (q := q) (l := l)
    (by rw [← hw]; exact hkept) (by rw [← hw]) (by rw [← hw, hbreak]; exact hctrl) (by rw [← hw, hbreak]; exact hentry)
    (by rw [← hw, hbreak]; exact hspare) (by rw [← hw, hbreak]; exact hasked)
  rw [hfences, ← hw, hbreak]
  exact ⟨sp', rg, o, cs', tr, a, b, lg, lf, fl, r, ep, rfl⟩

theorem State.hungNow_inTick {s : State} {p : Nat} (hhung : s.hungNow p = true) : s.inTick = true := by
  unfold State.hungNow at hhung
  split at hhung
  · cases hhung
  · simp only [Bool.and_eq_true] at hhung
    obtain ⟨⟨hin, -⟩, -⟩ := hhung
    exact hin

theorem exec_hungTimeout {t p : Nat} {l : Fin 128} {s : State} (hphys : (s.at t).settled.phys? l.val = some p) :
    exec (.hungTimeout t l) s = .next (if (s.at t).settled.hungNow p then (s.at t).settled.hang l.val p else (s.at t).settled) := by
  show execHungTimeout t l s = _
  simp only [execHungTimeout, hphys, apply_ite Host.Outcome.next]

theorem State.mem_spansIn {s : State} {st : SpanStatus} {q : Nat} (h : q ∈ s.spansIn st) : (s.mapEntry q).status = st := by
  unfold State.spansIn at h
  simpa using (List.mem_filter.1 h).2

/-- The map in which one span is fenced and another takes its logical number. -/
theorem mapEntry_swapped {s u : State} {p q l : Nat} (hpq : p ≠ q) (hmap : u.spanMap = kins (kins s.spanMap p
      { status := .fenced, logical := none }) q { status := .active, logical := some l }) :
    u.mapEntry p = { status := .fenced, logical := none } ∧ u.mapEntry q = { status := .active, logical := some l }
      ∧ ∀ k, k ≠ p → k ≠ q → u.mapEntry k = s.mapEntry k := by
  unfold State.mapEntry
  rw [hmap]
  refine ⟨?_, ?_, fun k hp hq => ?_⟩
  · rw [kfind?_kins_other _ hpq, kfind?_kins_same]
    rfl
  · rw [kfind?_kins_same]
    rfl
  · rw [kfind?_kins_other _ hq, kfind?_kins_other _ hp]

/-- Settles O22: a replay finds a boundary with nothing to fence and opens its run; the end of a remote wait breaks the tick, the job
leaves with it, and the dispatcher finds no other; a first HUNG breaks the tick at a boundary with one span to fence. -/
theorem replayRemoteWaitAndHang : Obligations.ReplayRemoteWaitAndHang := by
  unfold Obligations.ReplayRemoteWaitAndHang
  refine ⟨fun t s => ⟨exec_replayStart_unready, fun id j0 j b pl g hready hrunning hjob _ hbits hpl hplan hspent hpair hstrikes hfence
      hasked hlists hjoint hg hlength => ?_⟩,
    fun t s => ⟨exec_remoteWaitTimeout_early, fun id j hlate hrunning hjob hstate => ?_⟩,
    fun t p l s hphys => ⟨fun hwaits => ?_, fun q hhung hsnap hfirst hstrikes hfence hctrl hasked hentry hspare => ?_⟩⟩
  · rw [exec_replayStart_ready hready hrunning hjob hplan hspent hpair hstrikes hfence hasked]
    generalize hw : ({ s.at t with jobs := _, tick := _ } : State) = w
    have hplan' : w.plan? = some pl := by
      refine State.plan?_running (id := id) ?_ (b := b) ?_ ?_ <;> rw [← hw]
      · exact hrunning
      · exact hbits
      · exact hpl
    obtain ⟨sp, tr, a, ba, r, hrun⟩ := State.beginRun_phaseOne hjoint hg hlength hplan' (max s.time t) 0
    refine ⟨_, rfl, ?_⟩
    rw [hrun, ← hw]
    exact ⟨rfl, rfl, rfl, rfl, rfl, rfl, rfl, rfl, rfl, rfl, rfl, rfl, rfl, rfl, rfl, rfl, hrunning, rfl, rfl, rfl, rfl, rfl⟩
  · intro v
    have hin := State.remoteLate_inTick hlate
    obtain ⟨cs, o, sp, tr, ln, hbroken⟩ := State.remoteBroken_frame hin hrunning
    have hv : v = (s.at t).settled.remoteBroken := rfl
    have hrun : v.running = some id := by rw [hv, hbroken]; exact hrunning
    refine ⟨exec_remoteWaitTimeout_late hlate hrunning hjob hstate, ?_, ?_, ?_, hrun, ?_,
      fun hjobs hheld _ _ hpreempts hwaiting hreqs hload =>
        exec_remoteWaitTimeout_held hlate hrunning hjob hstate hjobs hheld hpreempts hwaiting hreqs hload⟩
    · rw [hv, hbroken]; rfl
    · rw [hv, hbroken]; rfl
    · rw [hv, hbroken]
    · exact State.leaveSpans_running hrun (State.remoteBroken_job? hlate hrunning hjob) (State.remoteBroken_keeps hlate hrunning j) _
  · rw [exec_hungTimeout hphys, hwaits]
    rfl
  · rw [exec_hungTimeout hphys, hhung, if_pos rfl]
    obtain ⟨sp, rg, o, cs, tr, a, b, lg, lf, fl, r, ep, hhang⟩ := State.hang_fences hfirst hsnap hfence (State.hungNow_inTick hhung)
      hstrikes hctrl hasked hentry hspare
    have hpq : p ≠ q := by
      rintro rfl
      have hstatus := State.mem_spansIn (mem_of_nearest hspare)
      rw [hentry] at hstatus
      cases hstatus
    obtain ⟨hp, hq, hothers⟩ := mapEntry_swapped (u := (s.at t).settled.hang l.val p) hpq (by rw [hhang])
    refine ⟨_, rfl, ?_, ?_, hp, hq, hothers, ?_, fun k hk => ?_, ?_, ?_, ?_, ?_, ?_⟩ <;> rw [hhang]
    · rfl
    · rfl
    · exact kfind?_kins_same ..
    · exact kfind?_kins_other _ hk _

end Sys2Proof.Machine
end

section
/-! PROOFS. The sequencer's own instructions: NOP, BASE, CSET, WAIT, END and JOINT, and the changes of an arrival counter
(spec/09_span_programs.md, R264, R265, R267, R273). -/

namespace Sys2Proof.Machine
open Sys2Proof

/-! ### What an issued sequencer instruction finds -/

/-- The span that an instruction is presented to is the one bound to its logical number. -/
theorem State.phys?_of_presented {s : State} {l p : Nat} {x : Instr} (h : s.presented l x = some p) : s.phys? l = some p := by
  unfold State.presented at h
  split at h
  · cases h
  · split at h
    · cases h
    · rename_i q hq
      dsimp only at h
      split at h
      · cases h
        exact hq
      · cases h

theorem Issuable.jointBefore {s : State} {i : Issue} {x : Instr} {u : SpanUnit} {w : WaitGroup} {p : Nat} {ix : Ix}
    (h : Issuable s i x u w p ix) : s.jointBefore i.l.val = (s.span p).seq.lastPhaseJoint := by
  simp only [State.jointBefore, State.phys?_of_presented h.presented]

section
variable {s z : State} {i : Issue} {w : WaitGroup} {p : Nat} (h : Issued s i w p z)
include h

theorem Issued.base : (z.span p).seq.base = (s.span p).seq.base := by
  obtain ⟨tr, cs, cl, hspan⟩ := h.issued
  rw [hspan]

theorem Issued.ctr (n : Nat) : (z.span p).seq.ctr n = (s.span p).seq.ctr n := by
  obtain ⟨tr, cs, cl, hspan⟩ := h.issued
  rw [hspan]
  rfl

theorem Issued.loops : (z.span p).seq.loops = (s.span p).seq.loops := by
  obtain ⟨tr, cs, cl, hspan⟩ := h.issued
  rw [hspan]

theorem Issued.afterEndl (pc level : Nat) : (z.span p).seq.afterEndl pc level = (s.span p).seq.afterEndl pc level := by
  obtain ⟨tr, cs, cl, hspan⟩ := h.issued
  rw [hspan]
  rfl

/-- A change of the issued sequencer that leaves its place is not past the program's end. -/
theorem Issued.modSeq_stays (hpc : (s.span p).seq.pc < 4095) (ix : Ix) (f : Sequencer → Sequencer)
    (hlast : (f (z.span p).seq).lastIssue = (z.span p).seq.lastIssue) (hf : (f (z.span p).seq).pc = (z.span p).seq.pc) :
    (z.modSeq (s.ctxOf i p ix) f).pastEnd (s.ctxOf i p ix) = z.setSpan p { z.span p with seq := f (z.span p).seq } :=
  State.modSeq_pastEnd h f hlast (by rw [hf, h.pc]; exact hpc)

theorem Issued.pastEnd_stays (hpc : (s.span p).seq.pc < 4095) (ix : Ix) : z.pastEnd (s.ctxOf i p ix) = z :=
  State.pastEnd_of_pc (show (z.span p).seq.pc ≤ 4095 by rw [h.pc]; exact hpc)

end

/-! ### The commands -/

section
variable {s0 s : State} {i : Issue} {p : Nat} {ix : Ix} (hs : s = s0.toCyc i.cyc) (hpc : (s.span p).seq.pc < 4095)
include hs hpc

theorem exec_nop (h : Issuable s i (.nop (bareOf i)) .seq WaitGroup.none p ix) :
    ∃ z, Issued s i WaitGroup.none p z ∧ exec (.nop i) s0 = .next z := by
  obtain ⟨z, hz, he⟩ := exec_issues (op := .nop) (show exec (.nop i) s0 = s0.present i _ _ _ noMore _ from rfl) hs h rfl
  exact ⟨z, hz, he.trans (congrArg _ (hz.pastEnd_stays hpc ix))⟩

theorem exec_base {add : Word} (h : Issuable s i (.base (bareOf i) add) .seq WaitGroup.none p ix) :
    ∃ z, Issued s i WaitGroup.none p z ∧ exec (.base i add) s0 = .next (z.setSpan p { z.span p with
      seq := { (z.span p).seq with base := (s.span p).seq.base + add.toNat } }) := by
  obtain ⟨z, hz, he⟩ := exec_issues (op := (.base · add))
    (show exec (.base i add) s0 = s0.present i _ _ _ noMore _ from rfl) hs h rfl
  rw [← hz.base]
  exact ⟨z, hz, he.trans (congrArg _ (hz.modSeq_stays hpc ix _ rfl rfl))⟩

theorem exec_cset {ctr : BitVec 5} {value : BitVec 20} (h : Issuable s i (.cset (bareOf i) ctr value) .seq WaitGroup.none p ix) :
    ∃ z, Issued s i WaitGroup.none p z ∧ exec (.cset i ctr value) s0 = .next (z.setSpan p { z.span p with
      seq := (z.span p).seq.change i.cyc ctr.toNat .set value.toNat }) := by
  obtain ⟨z, hz, he⟩ := exec_issues (op := (.cset · ctr value))
    (show exec (.cset i ctr value) s0 = s0.present i _ _ _ noMore _ from rfl) hs h rfl
  exact ⟨z, hz, he.trans (congrArg _ (hz.modSeq_stays hpc ix _ rfl rfl))⟩

theorem exec_joint {phase : Bool} {j : BitVec 16} (h : Issuable s i (.joint (bareOf i) phase j) .seq WaitGroup.none p ix) :
    ∃ z, Issued s i WaitGroup.none p z ∧ exec (.joint i phase j) s0 = .next (z.setSpan p { z.span p with
      seq := { (z.span p).seq with
        jointAt := some ((j.toNat + ix.j) % 65536), lastPhaseJoint := phase, waitFrom := some i.cyc } }) := by
  obtain ⟨z, hz, he⟩ := exec_issues (op := (.joint · phase j))
    (show exec (.joint i phase j) s0 = s0.present i _ _ _ noMore _ from rfl) hs h rfl
  exact ⟨z, hz, he.trans (congrArg _ (hz.modSeq_stays hpc ix _ rfl rfl))⟩

/-- END by what issued before it: it ends the phase's program where it stands, or the program runs past its end (R273). -/
theorem exec_endProgram (h : Issuable s i (.endProgram (bareOf i)) .seq WaitGroup.none p ix) :
    ∃ z, Issued s i WaitGroup.none p z
      ∧ ((s.span p).seq.lastPhaseJoint = true → exec (.endProgram i) s0 = .next (z.setSpan p { z.span p with
          seq := { (z.span p).seq with ended := true, pc := (s.span p).seq.pc } }))
      ∧ ((s.span p).seq.lastPhaseJoint = false → exec (.endProgram i) s0
          = .next ((z.faultAt (s.ctxOf i p ix) 0x01).pastEnd (s.ctxOf i p ix))) := by
  obtain ⟨z, hz, he⟩ := exec_issues (op := .endProgram)
    (show exec (.endProgram i) s0 = s0.present i _ _ _ noMore _ from rfl) hs h rfl
  rw [← hs, h.jointBefore] at he
  refine ⟨z, hz, fun hjoint => ?_, fun hjoint => ?_⟩ <;> rw [he, hjoint]
  · exact congrArg _ (State.modSeq_pastEnd hz (fun q => { q with ended := true, pc := (s.span p).seq.pc }) rfl hpc.le)
  · rfl

/-- WAIT once its condition holds: it takes a consuming counter's value, and otherwise only issues (R265, R274). -/
theorem exec_wait {w : WaitGroup} {kind : BitVec 3} {remote : Bool}
    (h : Issuable s i (.wait (bareOf i) w kind remote) .seq { w with en := false } p ix)
    (hcount : (s.span p).waitHold w = none) (hkind : (s.span p).kindMet kind.toNat i.cyc = true) :
    ∃ z, Issued s i { w with en := false } p z
      ∧ (w.en = false ∨ w.cons = false → exec (.wait i w kind remote) s0 = .next z)
      ∧ (w.en = true → w.cons = true → exec (.wait i w kind remote) s0 = .next (z.setSpan p { z.span p with
          seq := (z.span p).seq.change i.cyc w.ctr.toNat .sub w.val.toNat })) := by
  have hx : exec (.wait i w kind remote) s0 = execWait i w kind remote s0 := rfl
  unfold execWait at hx
  obtain ⟨z, hz, he⟩ := exec_issues (op := (.wait · w kind remote)) hx hs h
    (by simp only [State.ctxOf, hcount, hkind, Option.isNone_none, Bool.and_self, if_true])
  refine ⟨z, hz, fun hfree => ?_, fun hen hcons => ?_⟩
  · have hnone : (w.en && w.cons) = false := by rcases hfree with h | h <;> simp [h]
    rw [he, hnone]
    exact congrArg _ (hz.pastEnd_stays hpc ix)
  · rw [he, hen, hcons]
    exact congrArg _ (hz.modSeq_stays hpc ix _ rfl rfl)

end

/-! ### The change of an arrival counter (R265) -/

section
variable {l p : Nat} {o : CtrOp} {s : State}

/-- The span's counter `c` at `v`. -/
def State.putCtr (p c v : Nat) (s : State) : State := s.modSpan p (fun x => { x with seq := x.seq.setCtr c v })

theorem State.applyCtr_set (h : o.what = .set) : s.applyCtr l p o = s.putCtr p o.ctr o.n := by
  unfold State.applyCtr
  rw [h]
  rfl

theorem State.applyCtr_sub (h : o.what = .sub) : s.applyCtr l p o = s.putCtr p o.ctr ((s.span p).seq.ctr o.ctr - o.n) := by
  unfold State.applyCtr
  rw [h]
  rfl

theorem State.applyCtr_add (h : o.what = .add) (hfits : (s.span p).seq.ctr o.ctr + o.n ≤ 0xFFFFF) :
    s.applyCtr l p o = s.putCtr p o.ctr ((s.span p).seq.ctr o.ctr + o.n) := by
  unfold State.applyCtr
  rw [h]
  exact if_neg (Nat.not_lt.2 hfits)

theorem State.applyCtr_overflow (h : o.what = .add) (hover : 0xFFFFF < (s.span p).seq.ctr o.ctr + o.n) :
    s.applyCtr l p o = s.progFault l p 0x05 (s.span p).seq.pc := by
  unfold State.applyCtr
  rw [h]
  exact if_pos hover

end

/-- Settles O23: one lemma an instruction, and one for each case of a change of a counter. -/
theorem sequencerInstructionsAct : Obligations.SequencerInstructionsAct := by
  unfold Obligations.SequencerInstructionsAct
  refine ⟨fun s0 i p ix => ?_, fun l p o s =>
    ⟨State.applyCtr_set, State.applyCtr_sub, State.applyCtr_add, State.applyCtr_overflow⟩⟩
  intro s hpc
  exact ⟨exec_nop rfl hpc, fun add => exec_base rfl hpc, fun ctr value => exec_cset rfl hpc,
    fun w kind remote => exec_wait rfl hpc, exec_endProgram rfl hpc, fun phase j => exec_joint rfl hpc⟩

end Sys2Proof.Machine
end

section
/-! PROOFS. LOOP and ENDL: the frame that a loop opens, and the stamp base as its passes go by (spec/09_span_programs.md,
R269 to R271). -/

namespace Sys2Proof.Machine
open Sys2Proof

/-! ### The counts and the frame of a loop (R269, R271) -/

/-- How often a loop's body runs: COUNT, or what its counter counts. -/
def loopIters (a : LoopArgs) (q : Sequencer) : Nat :=
  if a.dyn then cdiv (q.ctr a.dctr.toNat) (a.countM1.toNat + 1) else a.countM1.toNat + 1

/-- How often the tick plan has a loop's body run: COUNT, or what CAP_BASE of the current layer gives. -/
def loopPlanned (a : LoopArgs) (d : Option Desc) : Nat :=
  if a.dyn then cdiv ((d.map (·.capBase)).getD 0) (a.countM1.toNat + 1) else a.countM1.toNat + 1

/-- The frame that a loop opens over the sequencer `q`. -/
def loopFrame (a : LoopArgs) (q : Sequencer) (d : Option Desc) : LoopFrame :=
  { level := a.level.toNat, index := 0, iters := loopIters a q, nPlan := loopPlanned a d, bodyPc := q.pc + 1, baseL := q.base,
    period := a.period.toNat, dStride := a.dStride.toNat, gStride := a.gStride.toNat, lStride := a.lStride.toNat,
    rlog2 := a.rlog2.toNat, jStride := a.jStride.toNat, dyn := a.dyn }

section
variable {s0 s : State} {i : Issue} {p : Nat} {ix : Ix} (hs : s = s0.toCyc i.cyc)
include hs

/-- LOOP, in the order of its cases: out of nesting, without the layer that it needs, skipped, or open. -/
theorem exec_loop {a : LoopArgs} (h : Issuable s i (.loop (bareOf i) a) .seq WaitGroup.none p ix) :
    ∃ z, Issued s i WaitGroup.none p z ∧ exec (.loop i a) s0 = .next (State.pastEnd (s.ctxOf i p ix) (
      if a.level.toNat ≠ (s.span p).seq.loops.length + 1 then z.faultAt (s.ctxOf i p ix) 0x02
      else if a.dyn = true ∧ s.layer? p = none then z.faultAt (s.ctxOf i p ix) 0x0A
      else if loopIters a (s.span p).seq = 0 then z.modSeq (s.ctxOf i p ix) (fun q => { q with
        pc := (s.span p).seq.afterEndl ((s.span p).seq.pc + 1) a.level.toNat
        base := (s.span p).seq.base + loopPlanned a (s.layer? p) * a.period.toNat })
      else z.modSeq (s.ctxOf i p ix) (fun q => { q with
        loops := loopFrame a (s.span p).seq (s.layer? p) :: (s.span p).seq.loops }))) := by
  obtain ⟨z, hz, he⟩ := exec_issues (op := (.loop · a))
    (show exec (.loop i a) s0 = s0.present i _ _ _ noMore _ from rfl) hs h rfl
  refine ⟨z, hz, he.trans ?_⟩
  simp only [← Option.isNone_iff_eq_none, ← Bool.and_eq_true]
  unfold loopFrame loopIters loopPlanned
  rw [← hz.loops, ← hz.base, ← hz.layer?, ← hz.afterEndl, ← hz.ctr]
  rfl

/-- ENDL with a loop open: out of nesting, the next pass, or the end of the loop. -/
theorem exec_endl {level : BitVec 2} {f : LoopFrame} {rest : List LoopFrame}
    (h : Issuable s i (.endl (bareOf i) level) .seq WaitGroup.none p ix) (hopen : (s.span p).seq.loops = f :: rest) :
    ∃ z, Issued s i WaitGroup.none p z ∧ exec (.endl i level) s0 = .next (State.pastEnd (s.ctxOf i p ix) (
      if f.level ≠ level.toNat then z.faultAt (s.ctxOf i p ix) 0x02
      else if f.index + 1 < f.iters then z.modSeq (s.ctxOf i p ix) (fun q => { q with
        pc := f.bodyPc, base := f.baseL + (f.index + 1) * f.period, loops := { f with index := f.index + 1 } :: rest })
      else z.modSeq (s.ctxOf i p ix) (fun q => { q with base := f.baseL + f.nPlan * f.period, loops := rest }))) := by
  obtain ⟨z, hz, he⟩ := exec_issues (op := (.endl · level))
    (show exec (.endl i level) s0 = s0.present i _ _ _ noMore _ from rfl) hs h rfl
  have hopen' : (z.span (s.ctxOf i p ix).p).seq.loops = f :: rest := hz.loops.trans hopen
  simp only [hopen'] at he
  exact ⟨z, hz, he⟩

end

/-- Settles O24, by the cases of LOOP and of ENDL. It holds through the model's choices of log entry 36. -/
theorem loopsRunTheirCount : Obligations.LoopsRunTheirCount := by
  unfold Obligations.LoopsRunTheirCount
  intro s0 i p ix s hpc
  refine ⟨fun a h => ?_, fun level f rest h hopen => ?_⟩
  · intro per iters nPlan
    obtain ⟨z, hz, he⟩ := exec_loop rfl h
    have hneeds (hlayer : a.dyn = true → (s.layer? p).isSome) : ¬(a.dyn = true ∧ s.layer? p = none) :=
      fun ⟨hdyn, hnone⟩ => Option.isSome_iff_ne_none.1 (hlayer hdyn) hnone
    have hcount : loopIters a (s.span p).seq = iters := rfl
    refine ⟨z, hz, fun hlevel hlayer hiters => ?_, fun hlevel _ hlayer hiters => ?_, fun hlevel hdyn hlayer => ?_,
      fun hlevel => ?_⟩
    · rw [he, if_neg (not_not.2 hlevel), if_neg (hneeds hlayer), hcount, if_neg (Nat.ne_of_gt hiters)]
      exact congrArg _ (hz.modSeq_stays hpc ix _ rfl rfl)
    · rw [he, if_neg (not_not.2 hlevel), if_neg (hneeds fun _ => hlayer), hcount, if_pos hiters]
      rfl
    · rw [he, if_neg (not_not.2 hlevel), if_pos ⟨hdyn, hlayer⟩]
    · rw [he, if_pos hlevel]
  · obtain ⟨z, hz, he⟩ := exec_endl rfl h hopen
    refine ⟨z, hz, fun hlevel hnext hbody => ?_, fun hlevel hlast => ?_, fun hlevel => ?_⟩
    · rw [he, if_neg (not_not.2 hlevel), if_pos hnext]
      exact congrArg _ (State.modSeq_pastEnd hz _ rfl hbody)
    · rw [he, if_neg (not_not.2 hlevel), if_neg (Nat.not_lt.2 hlast)]
      exact congrArg _ (hz.modSeq_stays hpc ix _ rfl rfl)
    · rw [he, if_pos hlevel]

end Sys2Proof.Machine
end

section
/-! PROOFS. FILL, COPY, SCAT, SEND, MLOAD and GATH: the places that are faults, and the stream that each starts
(spec/09_span_programs.md, R288 to R290). -/

namespace Sys2Proof.Machine
open Sys2Proof

/-! ### A stream takes a slot -/

theorem Span.startStream_none {v : Stream} (h : v.srcs = []) (x : Span) : x.startStream v = x := by
  unfold Span.startStream
  rw [h]
  rfl

theorem Span.startStream_some {v : Stream} (h : v.srcs ≠ []) (x : Span) :
    x.startStream v = { x with streams := kins x.streams x.freeSlot v } :=
  if_neg (mt List.isEmpty_iff.1 h)

theorem Span.startStream_seq (v : Stream) (x : Span) : (x.startStream v).seq = x.seq := by
  unfold Span.startStream
  split <;> rfl

/-! ### What an issued instruction of the stream engine finds -/

@[simp] theorem State.ctxOf_ix (s : State) (i : Issue) (p : Nat) (ix : Ix) : (s.ctxOf i p ix).ix = ix := rfl

theorem SeqKept.heldGranule {a b : Span} (h : SeqKept a b) : b.heldGranule = a.heldGranule := by
  obtain ⟨tr, cs, hb⟩ := h.kept
  rw [hb]
  rfl

section
variable {s z : State} {i : Issue} {w : WaitGroup} {p : Nat} (h : Issued s i w p z)
include h

theorem Issued.destSpans : z.destSpans = s.destSpans := by
  rw [h.frame]; rfl

theorem Issued.extentPlaces : z.extentPlaces = s.extentPlaces := by
  rw [h.frame]; rfl

/-- Starting a stream on the issued span, whatever else has been counted, is not past the program's end. -/
theorem Issued.start_pastEnd (hpc : (s.span p).seq.pc < 4095) (ix : Ix) {y : State} (hy : y.spans = z.spans) (v : Stream) :
    (y.setSpan p ((y.span p).startStream v)).pastEnd (s.ctxOf i p ix) = y.setSpan p ((y.span p).startStream v) := by
  have hspan : y.span p = z.span p := congrArg (kget Span.idle · p) hy
  have hseq : ((y.span p).startStream v).seq = (z.span p).seq := by rw [Span.startStream_seq, hspan]
  exact State.setSpan_pastEnd (c := s.ctxOf i p ix) (hseq ▸ h.lastIssue) (by rw [hseq, h.pc]; exact hpc) y

end

/-! ### FILL, COPY, SCAT and SEND (R289, R290) -/

section
variable {s0 s : State} {i : Issue} {p : Nat} {ix : Ix} (hs : s = s0.toCyc i.cyc) (hpc : (s.span p).seq.pc < 4095)
include hs hpc

theorem exec_fill {dst len : BitVec 17} {pattern : Word} {sctr : BitVec 5}
    (h : Issuable s i (.fill (bareOf i) dst len pattern sctr) .stream WaitGroup.none p ix) :
    ∃ z, Issued s i WaitGroup.none p z
      ∧ (ix.addrs dst.toNat len.toNat = none → exec (.fill i dst len pattern sctr) s0
          = .next ((z.faultAt (s.ctxOf i p ix) 0x03).pastEnd (s.ctxOf i p ix)))
      ∧ ∀ ds, ix.addrs dst.toNat len.toNat = some ds → exec (.fill i dst len pattern sctr) s0
          = .next (z.modSpan p (Span.startStream
              { Stream.new .fill ds ds sctr.toNat with since := i.cyc, pattern := pattern })) := by
  obtain ⟨z, hz, he⟩ := exec_issues (op := (.fill · dst len pattern sctr))
    (show exec (.fill i dst len pattern sctr) s0 = s0.present i _ _ _ noMore _ from rfl) hs h rfl
  rw [State.ctxOf_ix] at he
  refine ⟨z, hz, fun hdst => ?_, fun ds hdst => ?_⟩ <;> simp only [hdst] at he
  · exact he
  · exact he.trans (congrArg _ (hz.start_pastEnd hpc ix rfl _))

theorem exec_copy {src dst len : BitVec 17} {sctr : BitVec 5}
    (h : Issuable s i (.copy (bareOf i) src dst len sctr) .stream WaitGroup.none p ix) :
    ∃ z, Issued s i WaitGroup.none p z
      ∧ (ix.addrs src.toNat len.toNat = none ∨ ix.addrs dst.toNat len.toNat = none → exec (.copy i src dst len sctr) s0
          = .next ((z.faultAt (s.ctxOf i p ix) 0x03).pastEnd (s.ctxOf i p ix)))
      ∧ ∀ ss ds, ix.addrs src.toNat len.toNat = some ss → ix.addrs dst.toNat len.toNat = some ds →
          exec (.copy i src dst len sctr) s0 = .next (z.modSpan p (Span.startStream
            { Stream.new .copy ss ds sctr.toNat with since := i.cyc, held := ss.map (s.span p).heldGranule })) := by
  obtain ⟨z, hz, he⟩ := exec_issues (op := (.copy · src dst len sctr))
    (show exec (.copy i src dst len sctr) s0 = s0.present i _ _ _ noMore _ from rfl) hs h rfl
  rw [State.ctxOf_ix] at he
  refine ⟨z, hz, fun hbad => ?_, fun ss ds hsrc hdst => ?_⟩
  · split at he
    · rename_i hsrc hdst
      simp [hsrc, hdst] at hbad
    · exact he
  · simp only [hsrc, hdst, State.modSpan, State.ctxOf_p] at he
    rw [← hz.kept.heldGranule]
    exact he.trans (congrArg _ (hz.start_pastEnd hpc ix rfl _))

theorem exec_scat {w : WaitGroup} {src : BitVec 17} {ngran : BitVec 13} {rbase : BitVec 17}
    (h : Issuable s i (.scat (bareOf i) w src ngran rbase) .stream w p ix) :
    ∃ z, Issued s i w p z
      ∧ (ix.addrs src.toNat ngran.toNat = none ∨ ix.addrs rbase.toNat (cdiv ngran.toNat 4) = none →
          exec (.scat i w src ngran rbase) s0 = .next ((z.faultAt (s.ctxOf i p ix) 0x03).pastEnd (s.ctxOf i p ix)))
      ∧ ∀ ss rs, ix.addrs src.toNat ngran.toNat = some ss → ix.addrs rbase.toNat (cdiv ngran.toNat 4) = some rs →
          exec (.scat i w src ngran rbase) s0 = .next (z.modSpan p (Span.startStream (Stream.new .scat ss rs 0))) := by
  obtain ⟨z, hz, he⟩ := exec_issues (op := (.scat · w src ngran rbase))
    (show exec (.scat i w src ngran rbase) s0 = s0.present i _ _ _ noMore _ from rfl) hs h rfl
  rw [State.ctxOf_ix] at he
  refine ⟨z, hz, fun hbad => ?_, fun ss rs hsrc hroutes => ?_⟩
  · split at he
    · rename_i hsrc hroutes
      simp [hsrc, hroutes] at hbad
    · exact he
  · simp only [hsrc, hroutes] at he
    exact he.trans (congrArg _ (hz.start_pastEnd hpc ix rfl _))

theorem exec_send {w : WaitGroup} {src len : BitVec 17} {dspan : BitVec 8} {dst : BitVec 17} {rctr sctr : BitVec 5}
    (h : Issuable s i (.send (bareOf i) w src len dspan dst rctr sctr) .stream w p ix) :
    ∃ z, Issued s i w p z
      ∧ (ix.addrs src.toNat len.toNat = none ∨ 131072 < dst.toNat + len.toNat →
          exec (.send i w src len dspan dst rctr sctr) s0
            = .next ((z.faultAt (s.ctxOf i p ix) 0x03).pastEnd (s.ctxOf i p ix)))
      ∧ ∀ ss, ix.addrs src.toNat len.toNat = some ss → dst.toNat + len.toNat ≤ 131072 →
        (dspan = 0xFE → s.layer? p = none → exec (.send i w src len dspan dst rctr sctr) s0
          = .next ((z.faultAt (s.ctxOf i p ix) 0x0A).pastEnd (s.ctxOf i p ix)))
        ∧ (dspan ≠ 0xFE ∨ (s.layer? p).isSome → exec (.send i w src len dspan dst rctr sctr) s0
          = .next (z.modSpan p (Span.startStream
            { Stream.new .send ss ((List.range len.toNat).map (fun k => dst.toNat + k)) sctr.toNat with
                targets := s.destSpans i.l.val ((s.layer? p).getD []) dspan.toNat, rctr := rctr.toNat, needAck := true }))) := by
  obtain ⟨z, hz, he⟩ := exec_issues (op := (.send · w src len dspan dst rctr sctr))
    (show exec (.send i w src len dspan dst rctr sctr) s0 = s0.present i _ _ _ noMore _ from rfl) hs h rfl
  rw [State.ctxOf_ix, State.ctxOf_p, hz.layer?, hz.destSpans] at he
  refine ⟨z, hz, fun hbad => ?_, fun ss hsrc hdst => ?_⟩
  · cases hsrc : ix.addrs src.toNat len.toNat with
    | none =>
      simp only [hsrc] at he
      exact he
    | some ss =>
      have hover : deckGranules < dst.toNat + len.toNat := hbad.resolve_left (by simp [hsrc])
      simp only [hsrc, if_pos hover] at he
      exact he
  · simp only [hsrc, if_neg (show ¬deckGranules < dst.toNat + len.toNat from Nat.not_lt.2 hdst)] at he
    refine ⟨fun hset hlayer => ?_, fun hnamed => ?_⟩
    · rw [he, if_pos ⟨hset, hlayer⟩]
    · have hok : ¬(dspan = 0xFE#8 ∧ s.layer? p = none) := fun ⟨hset, hnone⟩ =>
        hnamed.elim (· hset) fun hlayer => Option.isSome_iff_ne_none.1 hlayer hnone
      rw [he, if_neg hok]
      exact congrArg _ (hz.start_pastEnd hpc ix rfl _)

end

/-! ### MLOAD (R288, R367) -/

section
variable {desc off addr len dst rlog2 sctr : Nat} {fctr : Option Nat} {c : Ctx} {s : State}

/-- A raw MLOAD beyond the places of Table 9.7, or over part of a spill range, is a program fault. -/
theorem mloadAct_badRaw (h : 0x0FFFFFFF < addr ∨ 2 ^ 40 < 4096 * addr + 32 * len ∨ s.spillOf (4096 * addr) len = .part) :
    mloadAct true desc off addr len dst rlog2 sctr fctr c s = s.faultAt c 0x03 := by
  simp only [mloadAct, if_true]
  split
  · rfl
  · rename_i hin
    rw [not_or] at hin
    rw [(h.resolve_left hin.1).resolve_left hin.2]

theorem mloadAct_plain (haddr : addr ≤ 0x0FFFFFFF) (hend : 4096 * addr + 32 * len ≤ 2 ^ 40)
    (hspill : s.spillOf (4096 * addr) len = .none) :
    mloadAct true desc off addr len dst rlog2 sctr fctr c s
      = mloadStart (devGranules (4096 * addr) len) 0 dst rlog2 sctr fctr c s := by
  have hin : ¬(0x0FFFFFFF < addr ∨ 2 ^ 40 < 4096 * addr + 32 * len) := by omega
  simp only [mloadAct, if_true, if_neg hin, hspill]

/-- A raw MLOAD of whole places of a spill range counts what it moves of them. -/
theorem mloadAct_places {g : Nat} (haddr : addr ≤ 0x0FFFFFFF) (hend : 4096 * addr + 32 * len ≤ 2 ^ 40)
    (hspill : s.spillOf (4096 * addr) len = .places g) :
    ∃ cs, mloadAct true desc off addr len dst rlog2 sctr fctr c s
      = mloadStart (devGranules (4096 * addr) len) g dst rlog2 sctr fctr c { s with counters := cs } := by
  have hin : ¬(0x0FFFFFFF < addr ∨ 2 ^ 40 < 4096 * addr + 32 * len) := by omega
  simp only [mloadAct, if_true, if_neg hin, hspill]
  generalize (List.sum _ : Nat) = moved
  obtain ⟨cs, hcount⟩ := State.incBytes_counters 0x070090 (32 * len) s
  rw [hcount]
  obtain ⟨cs', hcount'⟩ := State.incBytes_counters 0x070094 moved { s with counters := cs }
  exact ⟨cs', by rw [hcount']⟩

theorem mloadAct_noDesc (hdesc : s.desc? (desc + c.ix.d) = none) :
    mloadAct false desc off addr len dst rlog2 sctr fctr c s = s.faultAt c 0x0A := by
  simp only [mloadAct, hdesc]
  rfl

variable {d : Desc} (hdesc : s.desc? (desc + c.ix.d) = some d)
include hdesc

theorem mloadAct_overrun (hplaces : s.extentPlaces d c.l off len = none) :
    mloadAct false desc off addr len dst rlog2 sctr fctr c s = s.faultAt c 0x03 := by
  simp only [mloadAct, hdesc, hplaces]
  rfl

theorem mloadAct_extent {gs : List Nat} (hplaces : s.extentPlaces d c.l off len = some gs) :
    mloadAct false desc off addr len dst rlog2 sctr fctr c s
      = mloadStart gs 0 dst rlog2 sctr fctr c (s.winAdd 256 8 (32 * gs.length)) := by
  simp only [mloadAct, hdesc, hplaces]
  rfl

end

/-! ### GATH (R289) -/

/-- The granules that GATH reads: `elen` for each slot of the list. -/
def gathSrcs (list : List Nat) (src sstride elen : Nat) : List Nat :=
  list.flatMap (fun n => (List.range elen).map (fun k => src + n * sstride + k))

theorem map_range_getD (list : List Nat) : (List.range list.length).map (list.getD · 0) = list :=
  List.ext_getElem (by simp) fun k _ hk => by simp [hk]

theorem flatMap_range_getD {β : Type} (f : Nat → List β) (list : List Nat) :
    (List.range list.length).flatMap (fun k => f (list.getD k 0)) = list.flatMap f := by
  rw [← List.flatMap_map, map_range_getD]

/-- The whole list names a slot that does not exist. -/
theorem State.badList_whole (s : State) (p : Nat) :
    s.badList p (List.range (s.seqList p).length) = true ↔ ∃ n ∈ s.seqList p, s.tick.slots.length ≤ n := by
  have hany : s.badList p (List.range (s.seqList p).length) = (s.seqList p).any (fun n => decide (s.tick.slots.length ≤ n)) :=
    List.any_map.symm.trans (congrArg (List.any · (fun n => decide (s.tick.slots.length ≤ n))) (map_range_getD (s.seqList p)))
  simp only [hany, List.any_eq_true, decide_eq_true_eq]

theorem State.badList_whole_none {s : State} {p : Nat} (h : ∀ n ∈ s.seqList p, n < s.tick.slots.length) :
    ¬s.badList p (List.range (s.seqList p).length) = true := by
  rw [State.badList_whole]
  exact fun ⟨n, hn, hbad⟩ => Nat.not_lt.2 hbad (h n hn)

/-- GATH reads, position by position of its list, what it reads slot by slot. -/
theorem gathSrcs_positions (list : List Nat) (src sstride elen : Nat) :
    (List.range list.length).flatMap (fun k => (List.range elen).map (fun j => src + list.getD k 0 * sstride + j))
      = gathSrcs list src sstride elen :=
  flatMap_range_getD (fun n => (List.range elen).map (fun j => src + n * sstride + j)) list

/-- A granule that GATH would read lies past the deck store. -/
theorem gathSrcs_past {list : List Nat} {src sstride elen : Nat} :
    (gathSrcs list src sstride elen).any (fun g => decide (deckGranules ≤ g)) = true
      ↔ ∃ n ∈ list, ∃ k, k < elen ∧ 131072 ≤ src + n * sstride + k := by
  simp only [gathSrcs, List.any_flatMap, List.any_map, List.any_eq_true, List.mem_range, Function.comp_apply, decide_eq_true_eq]
  rfl

section
variable {sspan src sstride elen dst sctr : Nat} {c : Ctx} {s : State}

theorem gathAct_badSlot (h : ∃ n ∈ s.seqList c.p, s.tick.slots.length ≤ n) :
    gathAct sspan src sstride elen dst sctr c s = s.faultAt c 0x0B :=
  if_pos ((State.badList_whole s c.p).2 h)

variable (hslots : ∀ n ∈ s.seqList c.p, n < s.tick.slots.length)
include hslots

theorem gathAct_badPlace (h : (∃ n ∈ s.seqList c.p, ∃ k, k < elen ∧ 131072 ≤ src + n * sstride + k)
      ∨ c.ix.addrs dst ((s.seqList c.p).length * elen) = none) :
    gathAct sspan src sstride elen dst sctr c s = s.faultAt c 0x03 := by
  unfold gathAct
  dsimp only
  rw [if_neg (State.badList_whole_none hslots), gathSrcs_positions]
  split
  · rfl
  · rename_i ds hdst
    exact if_pos (gathSrcs_past.2 (h.resolve_right (by simp [hdst])))

theorem gathAct_starts {ds : List Nat} (hsrcs : ∀ n ∈ s.seqList c.p, ∀ k, k < elen → src + n * sstride + k < 131072)
    (hdst : c.ix.addrs dst ((s.seqList c.p).length * elen) = some ds) :
    gathAct sspan src sstride elen dst sctr c s = s.modSpan c.p (Span.startStream
      { Stream.new .gath (gathSrcs (s.seqList c.p) src sstride elen) ds sctr with
        targets := [(s.destSpans c.l ((s.layer? c.p).getD []) sspan).headD c.l], places := elen }) := by
  unfold gathAct
  dsimp only
  rw [if_neg (State.badList_whole_none hslots), gathSrcs_positions, hdst]
  refine if_neg (mt gathSrcs_past.1 ?_)
  rintro ⟨n, hn, k, hk, hpast⟩
  exact Nat.not_lt.2 hpast (hsrcs n hn k hk)

end

/-- Settles O31: one lemma an instruction of one form; MLOAD by the place that it names and GATH by its list; then the slot that a
stream takes. It holds through the model's choices of log entries 10, 33 and 36. -/
theorem streamInstructionsStartStreams : Obligations.StreamInstructionsStartStreams := by
  unfold Obligations.StreamInstructionsStartStreams
  refine ⟨?_, fun v x => ⟨fun h => Span.startStream_none h x, fun h => Span.startStream_some h x⟩⟩
  intro s0 i p ix s hpc c x start faults
  refine ⟨fun dst len pattern sctr => exec_fill rfl hpc, fun src dst len sctr => exec_copy rfl hpc,
    fun w src ngran rbase => exec_scat rfl hpc, fun w src len dspan dst rctr sctr => exec_send rfl hpc,
    fun raw desc off addr len dst rlog2 sctr fctr fen h => ?_, fun w sspan src sstride elen dst sctr h => ?_⟩
  · intro v x a
    obtain ⟨z, hz, he⟩ := exec_issues (op := (.mload · raw desc off addr len dst rlog2 sctr fctr fen))
      (show exec x s0 = s0.present i _ _ _ noMore _ from rfl) rfl h rfl
    have hspill : z.spillOf a len.toNat = s.spillOf a len.toNat := hz.spillOf _ _
    refine ⟨z, hz, fun hraw hbad => ?_, fun hraw haddr hend => ⟨fun hplain => ?_, fun g hplaces => ?_, fun hpart => ?_⟩,
      fun hraw hdesc => ?_, fun d hraw hdesc => ⟨fun hover => ?_, fun gs hplaces => ?_⟩⟩ <;> subst hraw
    · rw [he, mloadAct_badRaw (hbad.imp_right .inl)]
    · rw [he, mloadAct_plain haddr hend (hspill.trans hplain)]
      exact congrArg _ (hz.start_pastEnd hpc ix rfl _)
    · obtain ⟨cs, hact⟩ := mloadAct_places haddr hend (hspill.trans hplaces)
      refine ⟨cs, ?_⟩
      rw [he, hact]
      exact congrArg _ (hz.start_pastEnd (y := { z with counters := cs }) hpc ix rfl _)
    · rw [he, mloadAct_badRaw (.inr (.inr (hspill.trans hpart)))]
    · rw [he, mloadAct_noDesc ((hz.desc? _).trans hdesc)]
    · rw [he, mloadAct_overrun ((hz.desc? _).trans hdesc) (by rw [hz.extentPlaces]; exact hover)]
    · rw [he, mloadAct_extent ((hz.desc? _).trans hdesc) (by rw [hz.extentPlaces]; exact hplaces)]
      exact congrArg _ (hz.start_pastEnd hpc ix (State.winAdd_spans ..) _)
  · intro list x
    obtain ⟨z, hz, he⟩ := exec_issues (op := (.gath · w sspan src sstride elen dst sctr))
      (show exec x s0 = s0.present i _ _ _ noMore _ from rfl) rfl h rfl
    have hlist : z.seqList c.p = list := hz.seqList
    have hlayer : z.layer? c.p = s.layer? p := hz.layer?
    refine ⟨z, hz, fun hbad => ?_, fun hslots => ⟨fun hbad => ?_, fun ds hsrcs hdst => ?_⟩⟩
    · rw [he, gathAct_badSlot (c := c) (by rw [hlist, hz.tick]; exact hbad)]
    · rw [he, gathAct_badPlace (c := c) (by rw [hlist, hz.tick]; exact hslots) (by rw [hlist]; exact hbad)]
    · rw [he, gathAct_starts (c := c) (by rw [hlist, hz.tick]; exact hslots) (by rw [hlist]; exact hsrcs)
        (by rw [hlist]; exact hdst), hlist, hz.destSpans, hlayer]
      exact congrArg _ (hz.start_pastEnd hpc ix rfl _)

end Sys2Proof.Machine
end

section
/-! PROOFS. Loads, scrubs and idle jobs: what the end of a bitstream's copy, load step 6, the end of a scrub and END_IDLE do
(spec/10_bitstream.md, spec/13_serving.md). -/

namespace Sys2Proof.Machine
open Sys2Proof

/-! ### The end of a copy (R331, R334) -/

/-- A copy that has brought bytes goes through steps 2 and 3 under the keys and the fuses of the state in which it ends. -/
theorem exec_bitstreamCopied_some {job : BitVec 16} {s : State} {j : Job} (hjob : kfind? s.jobs job.toNat = some j)
    (hbits : kfind? s.bits job.toNat = none) (t : Nat) (bytes : List Byte) :
    let y := (s.at t).portRx j.port j.srcLen
    exec (.bitstreamCopied t job (some bytes)) s = .next ((stepTwo s.contentKeys j.srcLen bytes).elim
      (fun e => (y.failLoadAs 0x08 job.toNat e).dispatch false)
      (fun r => (stepThree s.fuses r.1 (readBits r.1 r.2)).elim
        (if (readBits r.1 r.2).ident.jobType ≠ j.type then (y.failLoad job.toNat (bareErr 0x06 7)).dispatch false
          else y.holdBits job.toNat j (readBits r.1 r.2) bytes)
        (fun e => (y.failLoad job.toNat e).dispatch false))) := by
  intro y
  have hkeys : y.contentKeys = s.contentKeys := by simp [y, State.contentKeys]
  have hfuses : y.fuses = s.fuses := by simp [y]
  have hunfold : exec (.bitstreamCopied t job (some bytes)) s = execBitstreamCopied t job (some bytes) s := rfl
  rw [hunfold, ← hkeys, ← hfuses]
  simp only [execBitstreamCopied, State.at_jobs, State.at_bits, hjob, hbits, Option.isSome_none, Option.isSome_some,
    Option.isNone_some, Bool.false_eq_true, false_and, if_true, if_false, Option.getD_some]
  cases stepTwo y.contentKeys j.srcLen bytes with
  | inl e => rfl
  | inr r =>
    dsimp only [Sum.elim_inr]
    cases stepThree y.fuses r.1 (readBits r.1 r.2) with
    | none => exact (apply_ite Host.Outcome.next _ _ _).symm
    | some e => rfl

/-- R430: a bitstream whose job is not the one that loads, and which is no duplicate, is held for it. -/
theorem State.holdBits_notLoading {id : Nat} {j : Job} {b : Bitstream} {bytes : List Byte} {s : State}
    (hother : s.load.map (·.job) ≠ some id)
    (hnew : j.type ≠ .serve ∨ (s.cacheBits b bytes).servesModel b.ident.modelDigest = false) :
    s.holdBits id j b bytes = State.dispatch false (State.placeAll { s.cacheBits b bytes with
      jobs := kupd (s.cacheBits b bytes).jobs id (fun k => { k with digest := b.digest })
      bits := kins (s.cacheBits b bytes).bits id b }) := by
  have hnot : ¬(j.type = .serve ∧ (s.cacheBits b bytes).servesModel b.ident.modelDigest = true) := by
    rintro ⟨hserve, hdup⟩
    exact hnew.elim (· hserve) (fun h => by simp [h] at hdup)
  simp only [State.holdBits, if_neg hnot, decide_eq_false hother, Bool.false_eq_true, if_false]

/-! ### What a job that comes onto the spans leaves (R328, R331) -/

/-- Of a job and the place it takes on the spans: what runs, what loads, the job, the tick that it is to replay, the load status
and the plan in use; and whether the module is one of a pair. -/
structure JobView where
  running : Option Nat
  load : Option Load
  job : Option Job
  saved : Option Tick
  status : BitVec 32
  plan : Nat
  pair : Bool

/-- What a state shows of the job of an id. -/
def State.jobView (id : Nat) (s : State) : JobView :=
  { running := s.running, load := s.load, job := kfind? s.jobs id, saved := kfind? s.tickSaved id, status := s.loadStatus,
    plan := s.tick.plan, pair := s.pair }

section
variable (id : Nat) (s : State)

@[simp] theorem State.inc_jobView (o n : Nat) : (s.inc o n).jobView id = s.jobView id := by
  simp [State.jobView, State.pair, State.regb_of_regs (State.inc_regs o n s)]

@[simp] theorem State.winAdd_jobView (p i n : Nat) : (s.winAdd p i n).jobView id = s.jobView id := by
  simp [State.jobView, State.pair, State.regb_of_regs (State.winAdd_regs p i n s)]

@[simp] theorem State.memWrite_jobView (l : List (Nat × Byte)) : (s.memWrite l).jobView id = s.jobView id := by
  rw [State.memWrite_rest]
  rfl

@[simp] theorem State.answerNow_jobView (h status arg0 arg1 arg2 : Nat) :
    (s.answerNow h status arg0 arg1 arg2).jobView id = s.jobView id := by
  simp [State.jobView, State.pair, State.regb_of_regs (State.answerNow_regs h status arg0 arg1 arg2 s)]

theorem State.foldl_modSpan_jobView {α : Type} (q : α → Nat) (f : α → Span → Span) (l : List α) :
    (l.foldl (fun (s : State) a => s.modSpan (q a) (f a)) s).jobView id = s.jobView id :=
  foldl_keeps (State.jobView id) _ _ _ fun _ _ => rfl

@[simp] theorem State.showBinding_jobView (b : List (Nat × Nat)) : (s.showBinding b).jobView id = s.jobView id := by
  have hfresh := State.foldl_modSpan_jobView id s (fun e : Nat × Nat => e.2) (fun _ => Span.fresh)
    (b.filter (fun e => !s.binding.contains e))
  unfold State.showBinding
  dsimp only
  split <;> exact hfresh

@[simp] theorem State.writeTables_jobView (b : Bitstream) : (s.writeTables b).jobView id = s.jobView id := by
  unfold State.writeTables
  exact (foldl_keeps (State.jobView id) _ _ _ fun _ _ => State.memWrite_jobView ..).trans
    (State.foldl_modSpan_jobView id s (fun e : Nat × Nat => e.2) (fun e x => x.writePreloads b e.1) _)

@[simp] theorem State.writeImages_jobView (b : Bitstream) (n : Nat) : (s.writeImages b n).jobView id = s.jobView id := by
  unfold State.writeImages
  split
  · rfl
  · rename_i plan _
    exact State.foldl_modSpan_jobView id s (fun e : Nat × Nat => e.2) (fun e x => x.writeProgram (plan.program e.1)) _

@[simp] theorem State.writePlan_jobView (b : Bitstream) (n : Nat) : (s.writePlan b n).jobView id = { s.jobView id with plan := n } :=
  congrArg (fun x : JobView => { x with plan := n }) (State.writeImages_jobView id s b n)

@[simp] theorem State.restoreSpans_jobView (ks : List SpanKept) : (s.restoreSpans ks).jobView id = s.jobView id :=
  State.foldl_modSpan_jobView id s SpanKept.p (fun k x => { x with abt := { x.abt with hist := k.hist }, rho := k.rho }) _

/-- The load status is seen, whatever its value. -/
theorem State.withStatus_jobView (st dt : BitVec 32) :
    { s with loadStatus := st, loadDetail := dt }.jobView id = { s.jobView id with status := st } := rfl

@[simp] theorem State.loadReport_jobView (step : Nat) (cached basic : Bool) (e : Option LoadErr) :
    (s.loadReport step cached basic e).jobView id = { s.jobView id with status := (s.loadReport step cached basic e).loadStatus } :=
  State.withStatus_jobView id s _ _

@[simp] theorem State.startTicks_jobView : s.startTicks.jobView id = s.jobView id := by
  unfold State.startTicks
  split
  · split <;> rfl
  · rfl

/-- What a load reports is its own: nothing else of the state is in it. -/
theorem State.loadReport_loadStatus (u : State) (step : Nat) (cached basic : Bool) (e : Option LoadErr) :
    (s.loadReport step cached basic e).loadStatus = (u.loadReport step cached basic e).loadStatus := rfl

/-- R396: after the answer the job's JOB_START is answered, whether it was before or not. -/
theorem State.answerStart_jobView {id : Nat} {s : State} {j : Job} (hjob : kfind? s.jobs id = some j) (status arg0 : Nat) :
    (s.answerStart id status arg0).jobView id = { s.jobView id with job := some { j with answered := true } } := by
  unfold State.answerStart
  rw [hjob]
  dsimp only
  split
  · rename_i hanswered
    have hsame : ({ j with answered := true } : Job) = j := by rw [← hanswered]
    rw [hsame, ← hjob]
    rfl
  · rw [← State.answerNow_jobView id s j.handle status arg0 0 0]
    unfold State.jobView
    rw [State.answerNow_jobs, kupd_of_find hjob]
    dsimp only
    rw [kfind?_kins_same]
    rfl

/-- Only an INGEST changes more than its own records when it comes onto the spans. -/
theorem State.beginWork_jobView {id : Nat} {s : State} {j : Job} (hjob : kfind? s.jobs id = some j) (htype : j.type ≠ .ingest) :
    (s.beginWork id).jobView id = s.jobView id := by
  unfold State.beginWork
  rw [hjob]
  split
  · rename_i k b hk _
    obtain rfl := Option.some.inj hk
    split
    · split <;> rfl
    · contradiction
    · rfl
  · rfl

end

theorem State.sendReady_alone {s : State} (hpair : s.pair = false) : s.sendReady = s := by simp [State.sendReady, hpair]

theorem State.compareHeaders_alone {s : State} (hpair : s.pair = false) : s.compareHeaders = s := by
  unfold State.compareHeaders
  split
  · rfl
  · simp [hpair]

/-- The end of load step 6, once the job is on the spans: it is counted, answered and reported, and begins its work. -/
def State.reportRunning (id : Nat) (j : Job) (l : Load) (s : State) : State :=
  let s := s.inc 0x03011C 1
  let s := if !j.ran ∧ !j.mgmt then (s.inc (0x031000 + 4 * j.partition) 1).winAdd j.partition 15 1 else s
  let s := (s.answerStart id 0 id).loadReport 7 l.cached l.basic none
  let s := if j.type = JobType.serve then s.sendReady.compareHeaders else s
  (s.beginWork id).startTicks

/-- The job that load step 6 puts onto the spans at a time of the device time base. -/
def Job.ranAt (since : Nat) (j : Job) : Job :=
  { j with state := if j.state = .draining then .draining else .running, lastRun := since, ran := true }

/-- A job takes the spans with its store, its governor and its tick. -/
def State.takeSpans (id since : Nat) (kv : KvStore) (gov : Governor) (tick : Tick) (s : State) : State :=
  { s with
    kv := kv, gov := gov, tick := tick, running := some id, load := none
    kvSaved := kdel s.kvSaved id, govSaved := kdel s.govSaved id, tickSaved := kdel s.tickSaved id
    spanSaved := kdel s.spanSaved id, jobs := kupd s.jobs id (Job.ranAt since) }

theorem State.takeSpans_jobView {id : Nat} {j : Job} {s : State} (hjob : kfind? s.jobs id = some j) (since : Nat) (kv : KvStore)
    (gov : Governor) (tick : Tick) : (s.takeSpans id since kv gov tick).jobView id =
      { s.jobView id with running := some id, load := none, job := some (j.ranAt since), saved := none, plan := tick.plan } := by
  have hnow : kfind? (s.takeSpans id since kv gov tick).jobs id = some (j.ranAt since) := by
    simp [State.takeSpans, kupd_of_find hjob]
  have hsaved : kfind? (s.takeSpans id since kv gov tick).tickSaved id = none := by simp [State.takeSpans]
  unfold State.jobView
  rw [hnow, hsaved]
  rfl

/-- R328, R331: load step 6 writes the plan, then the job takes the spans, with the tick that it is to replay. -/
theorem State.goRunning_stages (id : Nat) (j : Job) (b : Bitstream) (l : Load) (s : State) :
    ∃ (w : State) (since : Nat) (kv : KvStore) (gov : Governor) (tick : Tick),
      s.goRunning id j b l = (w.takeSpans id since kv gov tick).reportRunning id j l
      ∧ w.jobView id = { s.jobView id with plan := s.planFor j }
      ∧ tick.plan = ((kfind? s.tickSaved id).map (·.plan)).getD (s.planFor j) := by
  let x := (s.showBinding l.binding).writeTables b
  let z := (x.writePlan b (s.planFor j)).restoreSpans ((kfind? x.spanSaved id).getD [])
  have hz : z.jobView id = { s.jobView id with plan := s.planFor j } := by simp [z, x]
  have hsaved : kfind? z.tickSaved id = kfind? s.tickSaved id := congrArg JobView.saved hz
  refine ⟨if j.ran && planFw (s.planFor j) && !j.fw then z.inc 0x02051C 1 else z, _, _, _, _, rfl, ?_, ?_⟩
  · rw [apply_ite (State.jobView id), State.inc_jobView, ite_self, hz]
  · show ((kfind? z.tickSaved id).getD _).plan = _
    rw [hsaved]
    cases kfind? s.tickSaved id <;> rfl

theorem State.reportRunning_jobView {id : Nat} {j : Job} {s : State} (hjob : kfind? s.jobs id = some j)
    (htype : j.type ≠ .ingest) (hpair : s.pair = false) (j' : Job) (l : Load) : (s.reportRunning id j' l).jobView id =
      { s.jobView id with job := some { j with answered := true }, status := (s.loadReport 7 l.cached l.basic none).loadStatus } := by
  let y := s.inc 0x03011C 1
  let z := if !j'.ran ∧ !j'.mgmt then (y.inc (0x031000 + 4 * j'.partition) 1).winAdd j'.partition 15 1 else y
  let w := (z.answerStart id 0 id).loadReport 7 l.cached l.basic none
  have hz : z.jobView id = s.jobView id := by
    simp only [z, y, apply_ite (State.jobView id), State.winAdd_jobView, State.inc_jobView, ite_self]
  have hw : w.jobView id = { s.jobView id with
      job := some { j with answered := true }, status := (s.loadReport 7 l.cached l.basic none).loadStatus } := by
    rw [State.loadReport_jobView, State.answerStart_jobView ((congrArg JobView.job hz).trans hjob), hz]
    rfl
  have hready : (if j'.type = JobType.serve then w.sendReady.compareHeaders else w) = w := by
    have hwpair : w.pair = false := (congrArg JobView.pair hw).trans hpair
    rw [State.sendReady_alone hwpair, State.compareHeaders_alone hwpair, ite_self]
  have hwjob : kfind? w.jobs id = some { j with answered := true } := congrArg JobView.job hw
  show ((if j'.type = JobType.serve then w.sendReady.compareHeaders else w).beginWork id).startTicks.jobView id = _
  rw [hready, State.startTicks_jobView, State.beginWork_jobView hwjob htype, hw]

/-- R331, R432: where load step 6 leaves a job, other than an INGEST, of a module that is not one of a pair. -/
theorem State.goRunning_jobView {id : Nat} {j : Job} {s : State} (hjob : kfind? s.jobs id = some j) (htype : j.type ≠ .ingest)
    (hpair : s.pair = false) (b : Bitstream) (l : Load) : ∃ since, (s.goRunning id j b l).jobView id =
      { running := some id, load := none, job := some { j.ranAt since with answered := true }, saved := none
        status := (s.loadReport 7 l.cached l.basic none).loadStatus
        plan := ((kfind? s.tickSaved id).map (·.plan)).getD (s.planFor j), pair := false } := by
  obtain ⟨w, since, kv, gov, tick, hgo, hw, hplan⟩ := State.goRunning_stages id j b l s
  have hwjob : kfind? w.jobs id = some j := (congrArg JobView.job hw).trans hjob
  have hview := State.takeSpans_jobView hwjob since kv gov tick
  rw [hw] at hview
  have hnow : kfind? (w.takeSpans id since kv gov tick).jobs id = some (j.ranAt since) := congrArg JobView.job hview
  have halone : (w.takeSpans id since kv gov tick).pair = false := (congrArg JobView.pair hview).trans hpair
  refine ⟨since, ?_⟩
  rw [hgo, State.reportRunning_jobView hnow htype halone, hview, hplan, State.loadReport_loadStatus _ s, State.jobView, hpair]

/-! ### Load step 6 (R328, R331) -/

section
variable {s : State} {l : Load} (t : Nat)

theorem exec_loadWrite_waits (hload : s.load = some l)
    (h : l.step ≠ 5 ∨ s.running ≠ none ∨ s.flt.scrubbing = true ∨ s.flt.testing ≠ none ∨ s.boot.deferred ≠ none) :
    exec (.loadWrite t) s = .next (s.at t) := by
  show execLoadWrite t s = _
  have hwaits : l.step ≠ 5 ∨ s.flt.scrubbing = true ∨ s.flt.testing.isSome = true ∨ s.running.isSome = true
      ∨ s.boot.deferred.isSome = true := by
    simp only [Option.isSome_iff_ne_none]
    tauto
  simp only [execLoadWrite, State.at_load, State.at_flt, State.at_running, State.at_boot, hload]
  exact if_pos hwaits

variable {j : Job} {b : Bitstream} (hload : s.load = some l) (hjob : kfind? s.jobs l.job = some j)
  (hbits : kfind? s.bits l.job = some b) (hstep : l.step = 5) (hscrub : s.flt.scrubbing = false) (htest : s.flt.testing = none)
  (hoff : s.running = none) (hreset : s.boot.deferred = none)
include hload hjob hbits hstep hscrub htest hoff hreset

theorem exec_loadWrite_runs :
    exec (.loadWrite t) s = .next (((s.at t).loadReport 6 l.cached l.basic none).goRunning l.job j b l) := by
  show execLoadWrite t s = _
  simp [execLoadWrite, hload, hjob, hbits, hstep, hscrub, htest, hoff, hreset]

/-- R331, R432: the job that a load was for runs, its JOB_START is answered, and the load is over. -/
theorem exec_loadWrite_running (htype : j.type ≠ .ingest) (hpair : s.pair = false) : ∃ (u : State) (k : Job),
    exec (.loadWrite t) s = .next u ∧ u.running = some l.job ∧ u.load = none ∧ kfind? u.jobs l.job = some k
    ∧ k.state = (if j.state = .draining then .draining else .running) ∧ k.ran = true ∧ k.answered = true
    ∧ u.loadStatus = (s.loadReport 7 l.cached l.basic none).loadStatus
    ∧ u.tick.plan = ((kfind? s.tickSaved l.job).map (·.plan)).getD (s.planFor j) := by
  let y := (s.at t).loadReport 6 l.cached l.basic none
  obtain ⟨since, hview⟩ := State.goRunning_jobView (s := y) hjob htype hpair b l
  exact ⟨_, { j.ranAt since with answered := true },
    exec_loadWrite_runs t hload hjob hbits hstep hscrub htest hoff hreset,
    congrArg JobView.running hview, congrArg JobView.load hview, congrArg JobView.job hview, rfl, rfl, rfl,
    (congrArg JobView.status hview).trans (State.loadReport_loadStatus y s 7 l.cached l.basic none), congrArg JobView.plan hview⟩

end

/-! ### The end of a scrub (R438, R512, R513) -/

theorem exec_scrubDone_noScrub {s : State} (hscrub : s.flt.scrubbing = false) (t : Nat) : exec (.scrubDone t) s = .next (s.at t) := by
  show execScrubDone t s = _
  simp [execScrubDone, hscrub]

theorem exec_scrubDone {s : State} (hscrub : s.flt.scrubbing = true) (t : Nat) :
    exec (.scrubDone t) s = .next ((State.startTest (State.boundaryFences (State.finishEnded
      { s.at t with flt := { s.flt with scrubbing := false } }))).dispatch false) := by
  show execScrubDone t s = _
  simp [execScrubDone, hscrub]

section
variable {s : State}

theorem State.finishEnded_noJobs (hjobs : s.jobs = []) : s.finishEnded = s := by
  unfold State.finishEnded
  rw [hjobs]
  rfl

theorem State.startTest_noneAsked (hasked : s.flt.testAsked = []) : s.startTest = s := by
  unfold State.startTest
  rw [hasked]
  exact ite_self s

variable (hoff : s.running = none)
include hoff

/-- With no job on the spans and no span to fence, a tick boundary only forgets that basic service was asked for. -/
theorem State.boundaryFences_off (hfence : s.toFence = []) :
    s.boundaryFences = { s with flt := { s.flt with basicAsked := none } } := by
  unfold State.boundaryFences State.basicDue
  rw [State.fencesDue_none hfence]
  dsimp only
  rw [State.job?_off (s := { s with flt := { s.flt with basicAsked := none } }) hoff]

/-- With no job listed the dispatcher has nothing to choose. -/
theorem State.dispatch_noJobs (hload : s.load = none) (hjobs : s.jobs = []) (pause : Bool) : s.dispatch pause = s := by
  have hnote : s.noteIdle = s := by
    unfold State.noteIdle
    rw [hjobs]
    exact congrArg (fun js => { s with jobs := js }) hjobs.symm
  have hchoose : s.chooseIdle = none := by
    unfold State.chooseIdle State.choose
    simp [hoff, hjobs, bestJob]
  unfold State.dispatch
  simp only [hnote, hoff, hload, State.job?_off hoff, Option.isNone_none, Bool.and_self, if_true, State.fillSpans_none hchoose,
    State.startTicks_off hoff]

end

/-- R438: with no job, no span to fence and no test asked for, the end of a scrub is all that happens. -/
theorem exec_scrubDone_empty {s : State} (hscrub : s.flt.scrubbing = true) (hjobs : s.jobs = []) (hoff : s.running = none)
    (hload : s.load = none) (hfence : s.toFence = []) (htests : s.flt.testAsked = []) (t : Nat) :
    exec (.scrubDone t) s = .next { s.at t with flt := { s.flt with scrubbing := false, basicAsked := none } } := by
  let y : State := { s.at t with flt := { s.flt with scrubbing := false } }
  let z : State := { y with flt := { y.flt with basicAsked := none } }
  have hended : y.finishEnded = y := State.finishEnded_noJobs hjobs
  have hbound : y.boundaryFences = z := State.boundaryFences_off hoff hfence
  have htest : z.startTest = z := State.startTest_noneAsked htests
  have hidle : z.dispatch false = z := State.dispatch_noJobs (s := z) hoff hload hjobs false
  rw [exec_scrubDone hscrub, hended, hbound, htest, hidle]

/-! ### END_IDLE (R435) -/

section
variable {t : Nat} {job : BitVec 16} {s : State} {j : Job} {since : Nat}
  (hjob : kfind? (s.at t).noteIdle.jobs job.toNat = some j) (hsince : j.idleSince = some since)
include hjob hsince

theorem exec_idleEnd_due (htype : j.type = .serve) (hflag : prmFlag j.params 0 = true) (hending : j.ending = none)
    (hdemand : (s.at t).noteIdle.demand job.toNat j = false) (hdue : since + 1000000 * prm j.params 12 4 ≤ max s.time t) :
    exec (.idleEnd t job) s = .next ((s.at t).noteIdle.tellEnd job.toNat 0x02) := by
  show execIdleEnd t job s = _
  simp only [execIdleEnd, hjob, hsince]
  exact if_pos ⟨htype, hflag, by rw [hending]; rfl, by rw [hdemand]; rfl, hdue⟩

theorem exec_idleEnd_early (hearly : max s.time t < since + 1000000 * prm j.params 12 4) :
    exec (.idleEnd t job) s = .next (s.at t).noteIdle := by
  show execIdleEnd t job s = _
  simp only [execIdleEnd, hjob, hsince]
  exact if_neg fun ⟨_, _, _, _, hdue⟩ => Nat.not_le.2 hearly hdue

end

/-- Settles O37: the checks of a copied bitstream in their order; what each part of load step 6 leaves of the job that comes onto
the spans; the end of a scrub; END_IDLE. It holds through the model's choices of log entry 50. -/
theorem loadsScrubsAndIdleJobsAdvance : Obligations.LoadsScrubsAndIdleJobsAdvance := by
  unfold Obligations.LoadsScrubsAndIdleJobsAdvance
  refine ⟨fun t job s j hjob hbits => ?_, fun id j b bytes s => State.holdBits_notLoading,
    fun t s l j b hload hjob hbits => ⟨fun hstep hscrub htest hoff hreset => ?_, exec_loadWrite_waits t hload⟩,
    fun t s => ⟨fun h => exec_scrubDone h t, fun hscrub hjobs hoff hload hfence htests => ?_, fun h => exec_scrubDone_noScrub h t⟩,
    fun t job s j since hjob hsince htype =>
      ⟨exec_idleEnd_due hjob hsince htype, exec_idleEnd_early hjob hsince⟩⟩
  · have hcopy := exec_bitstreamCopied_some hjob hbits t
    refine ⟨fun bytes e htwo => ?_, fun bytes sects digest htwo => ⟨fun e hthree => ?_, fun hthree =>
      ⟨fun htype => ?_, fun htype => ?_⟩⟩⟩
    · rw [hcopy, htwo]
      rfl
    · rw [hcopy, htwo, Sum.elim_inr, hthree]
      rfl
    · rw [hcopy, htwo, Sum.elim_inr, hthree, Option.elim_none, if_pos htype]
    · rw [hcopy, htwo, Sum.elim_inr, hthree, Option.elim_none, if_neg (not_not.2 htype)]
  · exact ⟨exec_loadWrite_runs t hload hjob hbits hstep hscrub htest hoff hreset,
      exec_loadWrite_running t hload hjob hbits hstep hscrub htest hoff hreset⟩
  · exact exec_scrubDone_empty hscrub hjobs hoff hload hfence htests t

end Sys2Proof.Machine
end

section
/-! PROOFS. Temperatures, forced clock steps, the brake and the memory rate cap: the statement of spec/11_memory.md on throttling
(R363) and those of power control (R620 to R634). -/

namespace Sys2Proof.Machine
open Sys2Proof

/-! ### Counters of the device (R67) -/

theorem State.inc_live_same (off n : Nat) (s : State) :
    (kget Counter.zero (s.inc off n).counters off).live.toNat
      = min ((kget Counter.zero s.counters off).live.toNat + n) 0xFFFFFFFF := by
  unfold State.inc
  split
  · subst n; omega
  · simp only [kmod, kget_kset_same, Counter.add, BitVec.toNat_ofNat]
    omega

theorem State.inc_counter_other {off off' : Nat} (h : off' ≠ off) (n : Nat) (s : State) :
    kget Counter.zero (s.inc off n).counters off' = kget Counter.zero s.counters off' := by
  unfold State.inc
  split
  · rfl
  · exact kget_kset_other _ _ h _

/-! ### Alerts (R628) -/

theorem State.alert_regb {b : Nat} (hb : b < 32) (j : Nat) (s : State) :
    (s.alert b).regb 0x0D0014 j = (decide (j = b) || s.regb 0x0D0014 j) := by
  show (s.setRegBit 0x0D0014 b true).regb 0x0D0014 j = _
  by_cases hj : j = b
  · rw [hj, State.setRegBit_regb_same _ hb]
    simp
  · rw [State.setRegBit_regb_other _ hj]
    simp [hj]

/-! ### The power manager's own steps -/

/-- State `u` comes after `s` by the power manager's acts: power, clock, counters, alerts and the memory rate cap may have moved,
and no alert is cleared. -/
structure PowerStep (s u : State) : Prop where
  frame : u = { s with pwr := u.pwr, counters := u.counters, regs := u.regs, obs := u.obs, tick := u.tick,
                       mem := { s.mem with rateCap := u.mem.rateCap } }
  alerts : ∀ j, s.regb 0x0D0014 j = true → u.regb 0x0D0014 j = true

theorem PowerStep.trans {s u v : State} (h : PowerStep s u) (k : PowerStep u v) : PowerStep s v := by
  refine ⟨?_, fun j hj => k.alerts j (h.alerts j hj)⟩
  have hk := k.frame
  rw [h.frame] at hk
  rw [hk]

theorem PowerStep.refl (s : State) : PowerStep s s := ⟨rfl, fun _ h => h⟩

theorem PowerStep.ite {c : Prop} [Decidable c] {s u v : State} (hu : PowerStep s u) (hv : PowerStep s v) :
    PowerStep s (if c then u else v) := by
  split
  · exact hu
  · exact hv

theorem PowerStep.power (w : Power) (s : State) : PowerStep s { s with pwr := w } := ⟨rfl, fun _ h => h⟩

theorem PowerStep.alert {b : Nat} (hb : b < 32) (s : State) : PowerStep s (s.alert b) :=
  ⟨rfl, fun j hj => by rw [State.alert_regb hb, hj, Bool.or_true]⟩

theorem PowerStep.countPower (s : State) : PowerStep s s.countPower := ⟨rfl, fun _ h => h⟩

theorem PowerStep.floorRate (s : State) : PowerStep s s.floorRate := .ite (.refl s) ⟨rfl, fun _ h => h⟩

/-- R238: a new clock multiplier moves the tick's clock besides. -/
theorem State.setClock_frame (n : Nat) (s : State) : ∃ k, s.setClock n = { s with pwr := { s.pwr with n := n }, tick := k } := by
  unfold State.setClock
  dsimp only
  split <;> exact ⟨_, rfl⟩

/-- A forced step has nothing to do at N = 20. -/
theorem State.forceStep_least {s : State} (h : s.pwr.forcedN.getD s.pwr.n ≤ 20) : s.forceStep = s := if_pos h

/-- R626, R627: a forced step lowers N by 4, not below 20, at the end of a publish in progress, else at once. -/
theorem State.forceStep_lowers {s : State} (h : 20 < s.pwr.forcedN.getD s.pwr.n) : ∃ c k, s.forceStep =
    if s.publishes then { s with counters := c, pwr := { s.pwr with
      lastForced := some s.time, forcedN := some (max 20 (s.pwr.forcedN.getD s.pwr.n - 4)) } }
    else { s with counters := c, tick := k, pwr := { s.pwr with
      lastForced := some s.time, forcedN := none, n := max 20 (s.pwr.forcedN.getD s.pwr.n - 4) } } := by
  unfold State.forceStep
  rw [if_neg (Nat.not_le.2 h)]
  obtain ⟨c, hc⟩ := State.inc_counters 0x0D0104 1 s
  dsimp only
  rw [hc]
  obtain ⟨k, hk⟩ := State.setClock_frame (max 20 (s.pwr.forcedN.getD s.pwr.n - 4))
    { s with counters := c, pwr := { s.pwr with lastForced := some s.time, forcedN := none } }
  rw [hk]
  exact ⟨c, k, rfl⟩

theorem PowerStep.forceStep (s : State) : PowerStep s s.forceStep := by
  by_cases h : s.pwr.forcedN.getD s.pwr.n ≤ 20
  · rw [State.forceStep_least h]
    exact .refl s
  · obtain ⟨c, k, hs⟩ := State.forceStep_lowers (Nat.not_le.1 h)
    rw [hs]
    exact .ite ⟨rfl, fun _ h => h⟩ ⟨rfl, fun _ h => h⟩

/-- R626: what decides whether hard limiting holds. -/
def State.overheated (s : State) : Bool :=
  s.powerActs && (s.mem.stk.any (fun e => decide (e.2.level = 11)) || decide (105 ≤ s.pwr.dieMax))

theorem State.evalHard_same {s : State} (h : s.overheated = s.pwr.hard) : s.evalHard = s := if_pos h

theorem State.overheated_cool {s : State} (hstk : ∀ e ∈ s.mem.stk, e.2.level ≠ 11) (hdie : s.pwr.dieMax < 105) :
    s.overheated = false := by
  have hany : s.mem.stk.any (fun e => decide (e.2.level = 11)) = false := by simpa using hstk
  unfold State.overheated
  rw [hany, decide_eq_false (Nat.not_le.2 hdie), Bool.or_false, Bool.and_false]

theorem PowerStep.evalHard (s : State) : PowerStep s s.evalHard := by
  refine .ite (.refl s) (.ite ?_ ?_)
  · exact (PowerStep.power _ s).trans ((PowerStep.alert (by decide) _).trans (.forceStep _))
  · exact (PowerStep.power _ s).trans (.floorRate _)

/-! ### Throttling (R363) -/

/-- Table 11.2: a level is raised at once to that of the temperature, and lowered 2 °C below the threshold that raised it. -/
theorem throttleLevel_cases (cur temp : Nat) :
    (cur ≤ min 11 (temp - 94) ∧ throttleLevel cur temp = min 11 (temp - 94))
      ∨ (min 11 (temp - 94) < cur ∧ throttleLevel cur temp = min cur (temp - 93)) := by
  have hwant : (if temp < 95 then 0 else min 11 (temp - 94)) = min 11 (temp - 94) := by
    split
    · omega
    · rfl
  unfold throttleLevel
  rw [hwant]
  exact (le_or_gt _ _).imp (fun h => ⟨h, if_pos h⟩) (fun h => ⟨h, if_neg (Nat.not_le.2 h)⟩)

theorem State.modStk_stk_same (i : Nat) (f : Stack → Stack) (s : State) : (s.modStk i f).stk i = f (s.stk i) :=
  kget_kset_same _ _ _ _

theorem State.modStk_stk_other {i j : Nat} (h : j ≠ i) (f : Stack → Stack) (s : State) : (s.modStk i f).stk j = s.stk j :=
  kget_kset_other _ _ h _

/-- A sample sets the level and the temperature of its stack. -/
def State.takeSample (i temp : Nat) (s : State) : State :=
  s.modStk i (fun x => { x with level := throttleLevel (s.stk i).level temp, temp := temp })

/-- What a sample tells the power manager: the hottest stack, and whether a stack has been throttled in the tick. -/
def State.noteHottest (n : Nat) (s : State) : State :=
  { s with pwr := { s.pwr with stackId := s.hottest.1, stackMax := s.hottest.2, throttled := s.pwr.throttled || decide (0 < n) } }

section
variable (t : Nat) (st : Fin 32) (temp : Nat) {s : State}

theorem exec_throttleSample_untrained (h : (s.stk st.val).state = .untrained) :
    exec (.throttleSample t st temp) s = .next (s.at t).countPower := if_pos h

theorem exec_throttleSample_trained (h : (s.stk st.val).state ≠ .untrained) : exec (.throttleSample t st temp) s
    = .next (State.noteHottest (throttleLevel (s.stk st.val).level temp)
        (if (s.stk st.val).level = 0 ∧ 0 < throttleLevel (s.stk st.val).level temp
          then ((s.at t).countPower.takeSample st.val temp).alert 1 else (s.at t).countPower.takeSample st.val temp)).evalHard :=
  if_neg h

/-- The sample of a trained stack: of the stacks only its own changes, and STACK_THROT is set when its level leaves 0. -/
theorem exec_throttleSample_spec (h : (s.stk st.val).state ≠ .untrained) : ∃ u, exec (.throttleSample t st temp) s = .next u
    ∧ PowerStep ((s.at t).takeSample st.val temp) u
    ∧ ((s.stk st.val).level = 0 → 0 < throttleLevel (s.stk st.val).level temp → u.regb 0x0D0014 1 = true) := by
  have hcount : PowerStep ((s.at t).takeSample st.val temp) ((s.at t).countPower.takeSample st.val temp) := ⟨rfl, fun _ h => h⟩
  have hlast (n : Nat) (u : State) : PowerStep u (u.noteHottest n).evalHard := (PowerStep.power _ u).trans (.evalHard _)
  refine ⟨_, exec_throttleSample_trained t st temp h,
    (hcount.trans (.ite (.alert (by decide) _) (.refl _))).trans (hlast _ _), fun hzero hlevel => (hlast _ _).alerts 1 ?_⟩
  rw [if_pos ⟨hzero, hlevel⟩, State.alert_regb (by decide)]
  rfl

end

/-! ### Die temperatures (R625, R630) -/

/-- R573: a loss of main power is a cold reset, and the chip stands by with LAST_RESET 1 to come. -/
theorem State.mainLoss_good {s : State} (h : s.boot.mainGood = true) : s.mainLoss =
    let z := State.wipe .cold { s with boot := s.boot.out 0 s.time }
    { z with boot := { z.boot with state := .standby, mainGood := false, mainPg := false, nextCause := 1,
                                   outageFrom := if z.boot.standby then z.boot.outageFrom else none } } := by
  unfold State.mainLoss
  rw [h]
  rfl

/-- R630: TRIP_LAST outlasts a cold reset. -/
theorem State.wipe_cold_tripLast (s : State) : (s.wipe .cold).regb 0x0D0014 5 = s.regb 0x0D0014 5 := by
  have hword : (s.wipe .cold).regw 0x0D0014 = s.regw 0x0D0014 &&& 0x20#32 := State.setReg_regw_same _ _ _
  unfold State.regb
  rw [hword, BitVec.getLsbD_and]
  exact Bool.and_true _

/-- R625: a die sample is noted, with an alert when it is the first of 95 °C or more. -/
def State.noteDie (h : Nat × Nat) (s : State) : State :=
  let y := if s.pwr.dieMax < 95 ∧ 95 ≤ h.2 then s.alert 0 else s
  { y with pwr := { y.pwr with dieMax := h.2, dieSensor := h.1 } }

theorem State.noteDie_warm {h : Nat × Nat} {s : State} (hcool : s.pwr.dieMax < 95) (hwarm : 95 ≤ h.2) :
    (s.noteDie h).regb 0x0D0014 0 = true := by
  show (if s.pwr.dieMax < 95 ∧ 95 ≤ h.2 then s.alert 0 else s).regb 0x0D0014 0 = true
  rw [if_pos ⟨hcool, hwarm⟩, State.alert_regb (by decide)]
  rfl

/-- Apart from the alert, a die sample is all that is noted. -/
theorem State.noteDie_frame (h : Nat × Nat) (s : State) : ∃ r o,
    s.noteDie h = { s with regs := r, obs := o, pwr := { s.pwr with dieMax := h.2, dieSensor := h.1 } } := by
  unfold State.noteDie
  dsimp only
  split <;> exact ⟨_, _, rfl⟩

theorem State.noteDie_cool {h : Nat × Nat} (hcool : h.2 < 95) (s : State) :
    s.noteDie h = { s with pwr := { s.pwr with dieMax := h.2, dieSensor := h.1 } } := by
  unfold State.noteDie
  rw [if_neg (fun hc => Nat.not_le.2 hcool hc.2)]

/-- R630: a thermal trip lowers THERM_TRIP_N and bars main power, which is lost; TRIP_LAST stays set. -/
theorem State.thermalTrip_spec {s : State} (hmain : s.boot.mainGood = true) : let u := s.thermalTrip
    u.pwr.tripped = true ∧ u.pwr.barred = true ∧ u.boot.mainGood = false ∧ u.boot.state = .standby ∧ u.boot.nextCause = 1
      ∧ u.regb 0x0D0014 5 = true ∧ u.mem.bytes = [] ∧ u.sec.isOpen = false := by
  have hloss := State.mainLoss_good (s := { s with pwr := { s.pwr with tripped := true, barred := true } }.alert 5) hmain
  dsimp only
  unfold State.thermalTrip
  rw [hloss]
  refine ⟨rfl, rfl, rfl, rfl, rfl, (State.wipe_cold_tripLast _).trans ?_, rfl, rfl⟩
  exact State.alert_regb (by decide) 5 _

section
variable {t : Nat} {temps : List Byte} {s : State} (hmain : s.boot.mainGood = true) (hstandby : s.boot.standby = true)
include hmain hstandby

theorem exec_dieTempSample : exec (.dieTempSample t temps) s = .next (
    if 115 ≤ (hottestSensor temps).2 then ((s.at t).countPower.noteDie (hottestSensor temps)).thermalTrip
    else ((s.at t).countPower.noteDie (hottestSensor temps)).evalHard) := by
  have hon : ¬(!(s.at t).countPower.boot.mainGood || !(s.at t).countPower.boot.standby) = true := by
    show ¬(!s.boot.mainGood || !s.boot.standby) = true
    rw [hmain, hstandby]
    decide
  exact (if_neg hon).trans (apply_ite Host.Outcome.next _ _ _).symm

theorem exec_dieTempSample_trips (htrip : 115 ≤ (hottestSensor temps).2) : exec (.dieTempSample t temps) s
    = .next ((s.at t).countPower.noteDie (hottestSensor temps)).thermalTrip := by
  rw [exec_dieTempSample hmain hstandby, if_pos htrip]

/-- Below the limits of hard limiting a die sample is noted and nothing more. -/
theorem exec_dieTempSample_cool (hcool : (hottestSensor temps).2 < 105) (hhard : s.pwr.hard = false)
    (hstk : ∀ e ∈ s.mem.stk, e.2.level ≠ 11) : exec (.dieTempSample t temps) s
      = .next ((s.at t).countPower.noteDie (hottestSensor temps)) := by
  obtain ⟨r, o, hnote⟩ := State.noteDie_frame (hottestSensor temps) (s.at t).countPower
  rw [exec_dieTempSample hmain hstandby, if_neg (by omega), State.evalHard_same]
  rw [hnote]
  refine (State.overheated_cool ?_ ?_).trans hhard.symm
  · exact hstk
  · exact hcool

end

/-! ### Forced clock steps (R626, R627) -/

/-- What FORCED_CLOCK_STEP finds once a step that waited for the end of a publish has taken effect. -/
def State.waitedStep (s : State) : State := match s.pwr.forcedN with
  | none => s
  | some n => if s.publishes then s else { s with pwr := { s.pwr with forcedN := none } }.setClock n

/-- Whether 10 ms have passed since the last forced step. -/
def State.stepDue (s : State) : Bool := match s.pwr.lastForced with
  | none => true
  | some l => decide (l + 10000000 ≤ s.time)

theorem exec_forcedClockStep (t : Nat) (s : State) : exec (.forcedClockStep t) s = .next (
    if (s.at t).countPower.waitedStep.pwr.hard && (s.at t).countPower.waitedStep.stepDue
    then (s.at t).countPower.waitedStep.forceStep else (s.at t).countPower.waitedStep) :=
  (apply_ite Host.Outcome.next _ _ _).symm

theorem State.stepDue_iff (s : State) : s.stepDue = true ↔ ∀ l, s.pwr.lastForced = some l → l + 10000000 ≤ s.time := by
  unfold State.stepDue
  cases s.pwr.lastForced <;> simp

theorem State.waitedStep_none {s : State} (h : s.pwr.forcedN = none) : s.waitedStep = s := by
  unfold State.waitedStep
  rw [h]

section
variable {s : State} {n : Nat} (h : s.pwr.forcedN = some n)
include h

theorem State.waitedStep_waits (hpub : s.publishes = true) : s.waitedStep = s := by
  unfold State.waitedStep
  rw [h]
  exact if_pos hpub

theorem State.waitedStep_takes (hpub : s.publishes = false) :
    ∃ k, s.waitedStep = { s with tick := k, pwr := { s.pwr with forcedN := none, n := n } } := by
  unfold State.waitedStep
  rw [h]
  dsimp only
  rw [hpub]
  exact State.setClock_frame _ _

end

/-- R627: with no step to come, a step that waited is all that happens. -/
theorem exec_forcedClockStep_unforced {t : Nat} {s : State} (hhard : (s.at t).countPower.waitedStep.pwr.hard = false) :
    exec (.forcedClockStep t) s = .next (s.at t).countPower.waitedStep := by
  rw [exec_forcedClockStep, hhard]
  rfl

/-- R626: while hard limiting holds, a step is forced once 10 ms have passed since the last. -/
theorem exec_forcedClockStep_forces {t : Nat} {s : State} (hhard : s.pwr.hard = true)
    (hdue : ∀ l, s.pwr.lastForced = some l → l + 10000000 ≤ max s.time t) (hwait : s.pwr.forcedN = none) :
    exec (.forcedClockStep t) s = .next (s.at t).countPower.forceStep := by
  rw [exec_forcedClockStep, State.waitedStep_none (s := (s.at t).countPower) hwait,
    show (s.at t).countPower.pwr.hard = true from hhard, (State.stepDue_iff (s.at t).countPower).2 hdue]
  rfl

/-! ### The brake and the memory rate cap (R622, R623) -/

/-- No counter of PWR_BRAKE_MS, PWR_CAPPED_MS and PWR_HARD_MS is another one. -/
theorem State.countPower_counter_other {off : Nat} (hbrake : off ≠ 0x0D010C) (hcap : off ≠ 0x0D0110) (hhard : off ≠ 0x0D0114)
    (s : State) : kget Counter.zero s.countPower.counters off = kget Counter.zero s.counters off := by
  have hadd (o d : Nat) (on : Bool) (m : List (Nat × Counter)) (h : off ≠ o) : kget Counter.zero
      (if on && decide (0 < d) then kmod Counter.zero m o (Counter.addNs d) else m) off = kget Counter.zero m off := by
    split
    · exact kget_kset_other _ _ h _
    · rfl
  unfold State.countPower
  dsimp only
  rw [hadd _ _ _ _ hhard, hadd _ _ _ _ hcap, hadd _ _ _ _ hbrake]

theorem State.floorRate_lifted {s : State} (h : s.pwr.brake = true ∨ s.pwr.hard = true) : s.floorRate = s :=
  if_pos (by simpa using h)

theorem State.floorRate_floors {s : State} (hbrake : s.pwr.brake = false) (hhard : s.pwr.hard = false) :
    s.floorRate = { s with mem := { s.mem with rateCap := max s.mem.rateCap ((64 * s.pwr.n + 41) / 42) } } := by
  unfold State.floorRate
  rw [hbrake, hhard]
  rfl

theorem State.powerActs_iff (s : State) : s.powerActs = true ↔ s.boot.state = .ready := decide_eq_true_iff

/-- R623: the fall of PWR_BRAKE_N is counted and alerted. -/
def State.brakeFalls (s : State) : State := ({ s with pwr := { s.pwr with brake := true } }.inc 0x0D0108 1).alert 4

theorem State.brakeFalls_frame (s : State) : ∃ c r o,
    s.brakeFalls = { s with pwr := { s.pwr with brake := true }, counters := c, regs := r, obs := o } := by
  obtain ⟨c, hc⟩ := State.inc_counters 0x0D0108 1 { s with pwr := { s.pwr with brake := true } }
  unfold State.brakeFalls
  rw [hc]
  exact ⟨_, _, _, rfl⟩

theorem State.brakeFalls_alert (s : State) : s.brakeFalls.regb 0x0D0014 4 = true := State.alert_regb (by decide) 4 _

theorem State.brakeFalls_counted (s : State) : (kget Counter.zero s.brakeFalls.counters 0x0D0108).live.toNat
    = min ((kget Counter.zero s.counters 0x0D0108).live.toNat + 1) 0xFFFFFFFF := State.inc_live_same _ _ _

section
variable (t : Nat) {s : State}

theorem exec_brakeApply_again (h : s.pwr.brake = true) : exec (.brakeApply t) s = .next (s.at t).countPower := if_pos h

theorem exec_brakeApply_falls (h : s.pwr.brake = false) : exec (.brakeApply t) s = .next (
    if (s.at t).countPower.brakeFalls.powerActs then { (s.at t).countPower.brakeFalls with
      mem := { (s.at t).countPower.brakeFalls.mem with rateCap := 8 } } else (s.at t).countPower.brakeFalls) := by
  have hoff : ¬(s.at t).countPower.pwr.brake = true := by
    show ¬s.pwr.brake = true
    rw [h]
    decide
  exact (if_neg hoff).trans (apply_ite Host.Outcome.next _ _ _).symm

end

/-- R622: PWR_BRAKE_N has risen. -/
def State.brakeRises (s : State) : State := { s with pwr := { s.pwr with brake := false, lowSince := none } }

theorem exec_brakeRelease (t : Nat) (s : State) : exec (.brakeRelease t) s = .next (
    if (s.at t).countPower.brakeRises.powerActs then (s.at t).countPower.brakeRises.floorRate
    else (s.at t).countPower.brakeRises) := (apply_ite Host.Outcome.next _ _ _).symm

section
variable (t : Nat) (watts : BitVec 16) {s : State}

theorem exec_memRateCapAdjust_stands (h : s.boot.state ≠ .ready ∨ s.pwr.brake = true) :
    exec (.memRateCapAdjust t watts) s = .next (s.at t) := by
  refine if_pos (h.imp_left fun hboot => ?_)
  rw [Bool.not_eq_true', ← Bool.not_eq_true, State.powerActs_iff]
  exact hboot

section
variable (hready : s.boot.state = .ready) (hbrake : s.pwr.brake = false)
include hready hbrake

/-- R622: on a READY module without the brake the power cap in force is that of PWR_CAP. -/
theorem exec_memRateCapAdjust_acts : exec (.memRateCapAdjust t watts) s = .next (
    if s.pwr.capW < watts.toNat then ({ s.at t with pwr := { s.pwr with lowSince := none } }.lowerRate)
    else if 100 * watts.toNat < 95 * s.pwr.capW then
      if s.pwr.lowSince.getD (max s.time t - 1000000) + 10000000 ≤ max s.time t then
        { s.at t with pwr := { s.pwr with lowSince := some (max s.time t) }
                      mem := { s.mem with rateCap := min 64 (s.mem.rateCap + 2) } }
      else { s.at t with pwr := { s.pwr with lowSince := some (s.pwr.lowSince.getD (max s.time t - 1000000)) } }
    else { s.at t with pwr := { s.pwr with lowSince := none } }) := by
  have hacts : ¬((!(s.at t).powerActs) = true ∨ (s.at t).pwr.brake = true) := by
    rw [show (s.at t).powerActs = true from decide_eq_true hready, show (s.at t).pwr.brake = false from hbrake]
    decide
  have hcap : (s.at t).pwr.cap = s.pwr.capW := if_neg (by rw [show (s.at t).pwr.brake = false from hbrake]; decide)
  show execMemRateCapAdjust t watts s = _
  unfold execMemRateCapAdjust
  dsimp only
  rw [if_neg hacts, hcap]
  simp only [apply_ite Host.Outcome.next]
  rfl

end

end

/-- R622: lowering the cap by 4 stops at its floor, unless hard limiting or the brake lifts it. -/
theorem State.lowerRate_lifted {s : State} (h : s.pwr.hard = true) :
    s.lowerRate = { s with mem := { s.mem with rateCap := s.mem.rateCap - 4 } } :=
  State.floorRate_lifted (s := { s with mem := { s.mem with rateCap := s.mem.rateCap - 4 } }) (.inr h)

theorem State.lowerRate_floors {s : State} (hbrake : s.pwr.brake = false) (hhard : s.pwr.hard = false) :
    s.lowerRate = { s with mem := { s.mem with rateCap := max (s.mem.rateCap - 4) ((64 * s.pwr.n + 41) / 42) } } :=
  State.floorRate_floors (s := { s with mem := { s.mem with rateCap := s.mem.rateCap - 4 } }) hbrake hhard

/-! ### Input power (R628, R633) -/

/-- For how many samples in a row the standby input has been above 25 W. -/
def State.standbyOver (stbyW : Byte) (s : State) : Nat := if 25 < stbyW.toNat then s.pwr.stbyOver + 1 else 0

/-- PWR_INPUT after a sample, and the sums of the tick. -/
def State.inputPower (mainW : BitVec 16) (mainV stbyW : Byte) (s : State) : Power :=
  let w := { s.pwr with mainW := mainW.toNat, mainV := mainV.toNat, stbyW := stbyW.toNat, stbyOver := s.standbyOver stbyW }
  if s.powerActs then { w with tickW := w.tickW + mainW.toNat, tickN := w.tickN + 1 } else w

/-- The state after an input sample, but for the alerts. -/
def State.noteInput (mainW : BitVec 16) (mainV stbyW : Byte) (s : State) : State :=
  { s with pwr := s.inputPower mainW mainV stbyW }

theorem State.inputPower_fields (w : BitVec 16) (v b : Byte) (s : State) : (s.inputPower w v b).mainW = w.toNat
    ∧ (s.inputPower w v b).mainV = v.toNat ∧ (s.inputPower w v b).stbyW = b.toNat ∧ (s.inputPower w v b).n = s.pwr.n := by
  unfold State.inputPower
  dsimp only
  split <;> exact ⟨rfl, rfl, rfl, rfl⟩

/-- R628: INPUT_EDGE, when main power is good and the voltage is out of its range. -/
def State.inputEdge (v : Byte) (s : State) : State :=
  if s.boot.mainGood && decide (v.toNat < 42 ∨ 58 < v.toNat) then s.alert 6 else s

/-- R633: the alert of 100 ms above 25 W at the standby input. -/
def State.standbyAlert (n : Nat) (s : State) : State := if n = 100 then s.alert 7 else s

theorem exec_powerInputSample (t : Nat) (w : BitVec 16) (v b : Byte) (s : State) : exec (.powerInputSample t w v b) s
    = .next ((((s.at t).countPower.noteInput w v b).inputEdge v).standbyAlert (s.standbyOver b)) := rfl

theorem State.inputEdge_frame (v : Byte) (s : State) : ∃ r o, s.inputEdge v = { s with regs := r, obs := o } := by
  unfold State.inputEdge
  split <;> exact ⟨_, _, rfl⟩

theorem State.standbyAlert_frame (n : Nat) (s : State) : ∃ r o, s.standbyAlert n = { s with regs := r, obs := o } := by
  unfold State.standbyAlert
  split <;> exact ⟨_, _, rfl⟩

theorem PowerStep.standbyAlert (n : Nat) (s : State) : PowerStep s (s.standbyAlert n) := .ite (.alert (by decide) s) (.refl s)

theorem State.inputEdge_alert {v : Byte} {s : State} (hmain : s.boot.mainGood = true) (hedge : v.toNat < 42 ∨ 58 < v.toNat) :
    (s.inputEdge v).regb 0x0D0014 6 = true := by
  unfold State.inputEdge
  rw [hmain, if_pos (by simpa using hedge)]
  exact State.alert_regb (by decide) 6 s

theorem State.inputEdge_within {v : Byte} (hlow : 42 ≤ v.toNat) (hhigh : v.toNat ≤ 58) (s : State) : s.inputEdge v = s := by
  unfold State.inputEdge
  rw [decide_eq_false (by omega), Bool.and_false]
  rfl

/-! ### The statement -/

/-- Settles O49: the throttle levels by arithmetic; each sample and each fall or rise of a pin by what it does and what the power
manager then does; the rate cap by the cases of R622. It holds through the model's choices of log entries 26 and 32. -/
theorem thermalAndPowerLimitsAct : Obligations.ThermalAndPowerLimitsAct := by
  unfold Obligations.ThermalAndPowerLimitsAct
  refine ⟨⟨fun cur temp hcur => ?_, fun t st temp s => ⟨exec_throttleSample_untrained t st temp, fun htrained => ?_⟩,
      fun t temps s hmain hstandby => ⟨fun htrip => ?_, fun hcool hhard hstk => ?_⟩,
      fun t s hhard hdue hwait hn => ?_, fun t n s hforced hhard => ⟨fun hpub => ?_, fun hpub => ?_⟩, fun t w v b s => ?_⟩,
    fun t s => ⟨exec_brakeApply_again t, fun hoff => ?_⟩, fun t s => ?_,
    fun t watts s => ⟨exec_memRateCapAdjust_stands t watts, fun hready hbrake hhigh => ?_, fun hready hbrake hbelow hnear => ?_,
      fun l hready hbrake hbelow hlow hsince => ?_⟩⟩
  · have hlevel := throttleLevel_cases cur temp
    exact ⟨by omega, by omega, fun n _ _ _ _ => by omega, by omega, by omega, by omega, by omega⟩
  · obtain ⟨u, hu, hstep, halert⟩ := exec_throttleSample_spec t st temp htrained
    have hmem : u.mem = { ((s.at t).takeSample st.val temp).mem with rateCap := u.mem.rateCap } := by
      rw [hstep.frame]
    have hstk (i : Nat) : u.stk i = ((s.at t).takeSample st.val temp).stk i := by
      unfold State.stk
      rw [hmem]
    refine ⟨u, hu, (hstk _).trans (State.modStk_stk_same _ _ _), fun i hi => (hstk i).trans (State.modStk_stk_other hi _ _),
      fun hzero hwarm => halert hzero ?_, ?_, ?_, ?_⟩
    · have hlevel := throttleLevel_cases 0 temp
      rw [hzero]
      omega
    · rw [hmem]
      rfl
    · rw [hstep.frame]
      rfl
    · rw [hstep.frame]
      rfl
  · obtain ⟨r, o, hnote⟩ := State.noteDie_frame (hottestSensor temps) (s.at t).countPower
    refine ⟨_, exec_dieTempSample_trips hmain hstandby htrip, State.thermalTrip_spec ?_⟩
    rw [hnote]
    exact hmain
  · refine ⟨_, exec_dieTempSample_cool hmain hstandby hcool hhard hstk, ?_⟩
    have hwarm := State.noteDie_warm (h := hottestSensor temps) (s := (s.at t).countPower)
    have hregs (h : (hottestSensor temps).2 < 95) := State.noteDie_cool h (s.at t).countPower
    obtain ⟨r, o, hnote⟩ := State.noteDie_frame (hottestSensor temps) (s.at t).countPower
    refine ⟨?_, ?_, ?_, ?_, ?_, ?_, hwarm, fun h => by rw [hregs h]; rfl⟩ <;> rw [hnote] <;> rfl
  · obtain ⟨c, k, hs⟩ := State.forceStep_lowers (s := (s.at t).countPower) (by
      show 20 < s.pwr.forcedN.getD s.pwr.n
      rw [hwait]
      exact hn)
    refine ⟨_, exec_forcedClockStep_forces hhard hdue hwait, ?_⟩
    rw [hs, show (s.at t).countPower.publishes = (s.at t).publishes from rfl]
    have hnow : (s.at t).countPower.pwr.forcedN.getD (s.at t).countPower.pwr.n = s.pwr.n := by
      show s.pwr.forcedN.getD s.pwr.n = _
      rw [hwait]
      rfl
    rw [hnow]
    cases (s.at t).publishes with
    | true => exact ⟨rfl, rfl, rfl, rfl, fun h => Bool.noConfusion h, fun _ => ⟨rfl, rfl⟩⟩
    | false => exact ⟨rfl, rfl, rfl, rfl, fun _ => ⟨rfl, rfl⟩, fun h => Bool.noConfusion h⟩
  · obtain ⟨k, hk⟩ := State.waitedStep_takes (s := (s.at t).countPower) hforced hpub
    refine ⟨_, exec_forcedClockStep_unforced ?_, ?_⟩
    · rw [hk]
      exact hhard
    · rw [hk]
      exact ⟨rfl, rfl⟩
  · have hstays := State.waitedStep_waits (s := (s.at t).countPower) hforced hpub
    rw [exec_forcedClockStep_unforced (by rw [hstays]; exact hhard), hstays]
  · obtain ⟨r, o, hedge⟩ := State.inputEdge_frame v ((s.at t).countPower.noteInput w v b)
    obtain ⟨r', o', hover⟩ := State.standbyAlert_frame (s.standbyOver b) (((s.at t).countPower.noteInput w v b).inputEdge v)
    have halerts := (PowerStep.standbyAlert (s.standbyOver b) (((s.at t).countPower.noteInput w v b).inputEdge v)).alerts 6
    obtain ⟨hw, hv, hb, hn⟩ := State.inputPower_fields w v b (s.at t).countPower
    refine ⟨_, exec_powerInputSample t w v b s, ?_, ?_, ?_, ?_, ?_, ?_,
      fun hmain h => halerts (State.inputEdge_alert hmain h), fun hlow hhigh hb => ?_⟩
    · rw [hover, hedge]; exact hw
    · rw [hover, hedge]; exact hv
    · rw [hover, hedge]; exact hb
    · rw [hover, hedge]; exact hn
    · rw [hover, hedge]; rfl
    · rw [hover, hedge]; rfl
    · have hnone : s.standbyOver b ≠ 100 := by
        rw [State.standbyOver, if_neg (Nat.not_lt.2 hb)]
        decide
      rw [State.inputEdge_within hlow hhigh, State.standbyAlert, if_neg hnone]
      rfl
  · have hcounted := State.brakeFalls_counted (s.at t).countPower
    rw [State.countPower_counter_other (by decide) (by decide) (by decide)] at hcounted
    have halert := State.brakeFalls_alert (s.at t).countPower
    obtain ⟨c, r, o, hfalls⟩ := State.brakeFalls_frame (s.at t).countPower
    have hpwr : (s.at t).countPower.brakeFalls.pwr.brake = true ∧ (s.at t).countPower.brakeFalls.pwr.n = s.pwr.n := by
      rw [hfalls]
      exact ⟨rfl, rfl⟩
    have hacts : (s.at t).countPower.brakeFalls.powerActs = true ↔ s.boot.state = .ready := by
      rw [State.powerActs_iff, hfalls]
      rfl
    have hmem : (s.at t).countPower.brakeFalls.mem = s.mem := by
      rw [hfalls]
      rfl
    by_cases hready : s.boot.state = .ready
    · refine ⟨_, exec_brakeApply_falls t hoff, ?_⟩
      rw [if_pos (hacts.2 hready), hmem]
      exact ⟨hpwr.1, hpwr.2, halert, hcounted, fun _ => rfl, fun h => absurd hready h⟩
    · refine ⟨_, exec_brakeApply_falls t hoff, ?_⟩
      rw [if_neg (fun h => hready (hacts.1 h))]
      exact ⟨hpwr.1, hpwr.2, halert, hcounted, fun h => absurd h hready, fun _ => hmem⟩
  · have hacts : (s.at t).countPower.brakeRises.powerActs = true ↔ s.boot.state = .ready := State.powerActs_iff _
    refine ⟨_, exec_brakeRelease t s, ?_⟩
    by_cases hready : s.boot.state = .ready
    · rw [if_pos (hacts.2 hready)]
      cases hhard : s.pwr.hard with
      | true =>
        rw [State.floorRate_lifted (s := (s.at t).countPower.brakeRises) (.inr hhard)]
        exact ⟨rfl, rfl, rfl, fun _ h => Bool.noConfusion h, fun _ => rfl⟩
      | false =>
        rw [State.floorRate_floors (s := (s.at t).countPower.brakeRises) rfl hhard]
        exact ⟨rfl, rfl, rfl, fun _ _ => rfl, fun h => h.elim (absurd hready) (fun h => Bool.noConfusion h)⟩
    · rw [if_neg (fun h => hready (hacts.1 h))]
      exact ⟨rfl, rfl, rfl, fun h => absurd h hready, fun _ => rfl⟩
  · refine ⟨_, exec_memRateCapAdjust_acts t watts hready hbrake, ?_⟩
    rw [if_pos hhigh]
    cases hhard : s.pwr.hard with
    | true =>
      rw [State.lowerRate_lifted (s := { s.at t with pwr := { s.pwr with lowSince := none } }) hhard]
      exact ⟨rfl, rfl, fun _ => rfl, fun h => Bool.noConfusion h⟩
    | false =>
      rw [State.lowerRate_floors (s := { s.at t with pwr := { s.pwr with lowSince := none } }) hbrake hhard]
      exact ⟨rfl, rfl, fun h => Bool.noConfusion h, fun _ => rfl⟩
  · rw [exec_memRateCapAdjust_acts t watts hready hbrake, if_neg (Nat.not_lt.2 hbelow), if_neg (Nat.not_lt.2 hnear)]
  · have hacts := exec_memRateCapAdjust_acts t watts hready hbrake
    rw [if_neg (Nat.not_lt.2 hbelow), if_pos hlow, hsince] at hacts
    refine ⟨fun hdue => hacts.trans (congrArg _ (if_pos hdue)), fun hsoon => hacts.trans (congrArg _ ?_)⟩
    rw [Option.getD_some, if_neg (Nat.not_le.2 hsoon), ← hsince]
    rfl

end Sys2Proof.Machine
end

section
/-! PROOFS. Device memory's repairs: what a repair step leaves of the state, erasures and the steering of the spare pin
(spec/11_memory.md, R358, R359, R362, R374). -/

namespace Sys2Proof.Machine
open Sys2Proof

/-! ### Lane groups -/

theorem State.lg_of_lgs {a b : State} (h : a.mem.lgs = b.mem.lgs) (i g : Nat) : a.lg i g = b.lg i g := by
  unfold State.lg
  rw [h]

theorem State.modLg_lg_same (i g : Nat) (f : LaneGroup → LaneGroup) (s : State) : (s.modLg i g f).lg i g = f (s.lg i g) :=
  kget_kset_same _ _ _ _

theorem State.modLg_lgs_other (i g : Nat) (f : LaneGroup → LaneGroup) (s : State) {k : Nat} (h : k ≠ 32 * i + g) :
    kget LaneGroup.clean (s.modLg i g f).mem.lgs k = kget LaneGroup.clean s.mem.lgs k := kget_kset_other _ _ h _

theorem State.grade_frame (i : Nat) (s : State) : ∃ k, s.grade i = { s with mem := { s.mem with stk := k } } := by
  unfold State.grade
  dsimp only
  split <;> exact ⟨_, rfl⟩

theorem State.logRepair_logged (i g : Nat) (s : State) :
    kget LaneGroup.clean (s.logRepair i g).mem.repairLog (32 * i + g) = { s.lg i g with window := [] } := kget_kset_same _ _ _ _

/-! ### MEM_REPAIR_STATUS (R374) -/

/-- MEM_REPAIR_STATUS of a repair step that has ended. -/
def repairWord (action result i g p : Nat) : BitVec 32 :=
  BitVec.ofNat 32 (fieldAt 30 1 1 + fieldAt 27 3 action + fieldAt 24 3 result + fieldAt 19 5 i + fieldAt 14 5 g + fieldAt 9 5 p)

theorem State.repairDone_eq (action result i g p : Nat) (s : State) : s.repairDone action result i g p = { s with
    mem := { s.mem with repair := none, status := repairWord action result i g p }
    obs := (s.repairDone action result i g p).obs } := rfl

theorem repairWord_fields (action result i g p : Nat) : bitsAt (repairWord action result i g p).toNat 24 3 = result % 8
    ∧ bitsAt (repairWord action result i g p).toNat 27 3 = action % 8 ∧ (repairWord action result i g p).getLsbD 30 = true := by
  have hword : (repairWord action result i g p).toNat = 2 ^ 30 + action % 8 * 2 ^ 27 + result % 8 * 2 ^ 24 + i % 32 * 2 ^ 19
      + g % 32 * 2 ^ 14 + p % 32 * 2 ^ 9 := by
    unfold repairWord fieldAt
    rw [BitVec.toNat_ofNat]
    omega
  refine ⟨?_, ?_, ?_⟩
  · unfold bitsAt
    rw [hword, Nat.shiftRight_eq_div_pow]
    omega
  · unfold bitsAt
    rw [hword, Nat.shiftRight_eq_div_pow]
    omega
  · rw [← BitVec.testBit_toNat, hword, Nat.testBit_eq_decide_div_mod_eq]
    simp only [decide_eq_true_eq]
    omega

/-! ### What a repair step of a lane group leaves -/

/-- State `u` comes after `s` by steps of a repair of lane group `k`: the fault manager, the counters, the pier's arrival, an alert
and the controllers' records may have moved, and of the lane groups that one alone. -/
structure LaneStep (k : Nat) (s u : State) : Prop where
  frame : u = { s with mem := u.mem, flt := u.flt, counters := u.counters, tick := u.tick, obs := u.obs }
  mem : u.mem = { s.mem with lgs := u.mem.lgs, stk := u.mem.stk, repairLog := u.mem.repairLog, repair := u.mem.repair,
                             status := u.mem.status }
  others : ∀ j, j ≠ k → kget LaneGroup.clean u.mem.lgs j = kget LaneGroup.clean s.mem.lgs j

theorem LaneStep.trans {k : Nat} {s u v : State} (h : LaneStep k s u) (l : LaneStep k u v) : LaneStep k s v := by
  refine ⟨?_, ?_, fun j hj => (l.others j hj).trans (h.others j hj)⟩
  · have hl := l.frame
    rw [h.frame] at hl
    rw [hl]
  · have hl := l.mem
    rw [h.mem] at hl
    rw [hl]

theorem LaneStep.inc (k o n : Nat) (s : State) : LaneStep k s (s.inc o n) := by
  obtain ⟨c, hc⟩ := State.inc_counters o n s
  rw [hc]
  exact ⟨rfl, rfl, fun _ _ => rfl⟩

/-- R498: recording a fault moves the fault manager and the counters. -/
theorem State.fault_frame (cls cause unit : Nat) (s : State) :
    ∃ f c, s.fault cls cause unit = { s with flt := f, counters := c } := ⟨_, State.inc_counters _ _ _⟩

theorem LaneStep.fault (k cls cause unit : Nat) (s : State) : LaneStep k s (s.fault cls cause unit) := by
  obtain ⟨f, c, h⟩ := State.fault_frame cls cause unit s
  rw [h]
  exact ⟨rfl, rfl, fun _ _ => rfl⟩

theorem LaneStep.repairLag (k ns : Nat) (s : State) : LaneStep k s (s.repairLag ns) := by
  unfold State.repairLag
  split <;> exact ⟨rfl, rfl, fun _ _ => rfl⟩

theorem LaneStep.modLg (i g : Nat) (f : LaneGroup → LaneGroup) (s : State) : LaneStep (32 * i + g) s (s.modLg i g f) :=
  ⟨rfl, rfl, fun _ hj => State.modLg_lgs_other i g f s hj⟩

theorem LaneStep.grade (k i : Nat) (s : State) : LaneStep k s (s.grade i) := by
  obtain ⟨m, hm⟩ := State.grade_frame i s
  rw [hm]
  exact ⟨rfl, rfl, fun _ _ => rfl⟩

theorem LaneStep.logRepair (k i g : Nat) (s : State) : LaneStep k s (s.logRepair i g) := ⟨rfl, rfl, fun _ _ => rfl⟩

theorem LaneStep.repairDone (k action result i g p : Nat) (s : State) : LaneStep k s (s.repairDone action result i g p) :=
  ⟨rfl, rfl, fun _ _ => rfl⟩

/-- What follows a change of a lane group: its stack is graded, and the repair log takes the group as it stands. -/
def State.settleLane (i g : Nat) (s : State) : State := (s.grade i).logRepair i g

theorem LaneStep.settleLane (k i g : Nat) (s : State) : LaneStep k s (s.settleLane i g) :=
  (LaneStep.grade k i s).trans (.logRepair k i g _)

/-- It moves the stacks' states and the repair log, and nothing else. -/
theorem State.settleLane_frame (i g : Nat) (s : State) :
    ∃ k l, s.settleLane i g = { s with mem := { s.mem with stk := k, repairLog := l } } := by
  obtain ⟨k, hk⟩ := State.grade_frame i s
  unfold State.settleLane
  rw [hk]
  exact ⟨_, _, rfl⟩

theorem State.settleLane_lg (i g : Nat) (s : State) : (s.settleLane i g).lg i g = s.lg i g := by
  obtain ⟨k, l, h⟩ := State.settleLane_frame i g s
  rw [h]
  rfl

theorem State.settleLane_tick (i g : Nat) (s : State) : (s.settleLane i g).tick = s.tick := by
  obtain ⟨k, l, h⟩ := State.settleLane_frame i g s
  rw [h]

theorem State.settleLane_logged (i g : Nat) (s : State) :
    kget LaneGroup.clean (s.settleLane i g).mem.repairLog (32 * i + g) = { (s.settleLane i g).lg i g with window := [] } :=
  State.logRepair_logged i g _

theorem State.repairLag_mem (ns : Nat) (s : State) : (s.repairLag ns).mem = s.mem := by
  unfold State.repairLag
  split <;> rfl

theorem State.repairLag_noTick {s : State} (h : s.inTick = false) (ns : Nat) : s.repairLag ns = s := by
  unfold State.repairLag
  rw [h]
  rfl

/-! ### Erasure (R358) -/

section
variable {i g p : Nat} {s : State}

/-- A pin of a lane group is erased. -/
def State.eraseAs (i g : Nat) (f : LaneGroup → LaneGroup) (s : State) : State := ((s.fault 7 0 i).modLg i g f).settleLane i g

theorem State.fault_lg (cls cause unit i g : Nat) (s : State) : (s.fault cls cause unit).lg i g = s.lg i g :=
  State.lg_of_lgs (congrArg DevMem.lgs (State.fault_mem cls cause unit s)) i g

section
variable (h : (s.lg i g).erased p = false)
include h

theorem State.erase_first (ha : (s.lg i g).eraseA = none) :
    s.erase i g p = s.eraseAs i g (fun x => { x with eraseA := some p }) := by
  unfold State.erase
  dsimp only
  rw [h, ha]
  rfl

theorem State.erase_second (ha : (s.lg i g).eraseA ≠ none) (hb : (s.lg i g).eraseB = none) :
    s.erase i g p = s.eraseAs i g (fun x => { x with eraseB := some p }) := by
  unfold State.erase
  dsimp only
  rw [h, Option.isNone_eq_false_iff.2 (Option.isSome_iff_ne_none.2 ha), hb]
  rfl

theorem State.erase_third (ha : (s.lg i g).eraseA ≠ none) (hb : (s.lg i g).eraseB ≠ none) :
    s.erase i g p = ((s.fault 7 0 i).modLg i g (fun x => { x with failed := true })).loseStack i := by
  unfold State.erase
  dsimp only
  rw [h, Option.isNone_eq_false_iff.2 (Option.isSome_iff_ne_none.2 ha), Option.isNone_eq_false_iff.2 (Option.isSome_iff_ne_none.2 hb)]
  rfl

end

end

theorem LaneStep.eraseAs (i g : Nat) (f : LaneGroup → LaneGroup) (s : State) : LaneStep (32 * i + g) s (s.eraseAs i g f) :=
  ((LaneStep.fault _ 7 0 i s).trans (.modLg i g f _)).trans (.settleLane _ i g _)

theorem State.eraseAs_lg (i g : Nat) (f : LaneGroup → LaneGroup) (s : State) : (s.eraseAs i g f).lg i g = f (s.lg i g) :=
  (State.settleLane_lg i g _).trans ((State.modLg_lg_same i g f _).trans (congrArg f (State.fault_lg 7 0 i i g s)))

theorem State.eraseAs_tick (i g : Nat) (f : LaneGroup → LaneGroup) (s : State) : (s.eraseAs i g f).tick = s.tick :=
  (State.settleLane_tick i g _).trans (State.fault_tick 7 0 i s)

/-- R358: whether AUTO_ERASE takes a pin: no repair step is in progress, and its corrections in the window reach THRESH. -/
def State.mayErase (i g p : Nat) (s : State) : Bool :=
  s.mem.repair.isNone && s.regb 0x070084 31 && s.stackUp i && !(s.lg i g).erased p && decide (s.thresh ≤ kget 0 (s.lg i g).window p)

theorem State.mayErase_iff (i g p : Nat) (s : State) : s.mayErase i g p = true ↔ s.mem.repair = none ∧ s.regb 0x070084 31 = true
    ∧ s.stackUp i = true ∧ (s.lg i g).erased p = false ∧ s.thresh ≤ kget 0 (s.lg i g).window p := by
  unfold State.mayErase
  simp [and_assoc]

theorem exec_pinErase (t : Nat) (st lg : Fin 32) (pin : Fin 19) (s : State) : exec (.pinErase t st lg pin) s = .next (
    if s.mayErase st.val lg.val pin.val then ((s.at t).erase st.val lg.val pin.val).repairDone 1 0 st.val lg.val pin.val
    else s.at t) := (apply_ite Host.Outcome.next _ _ _).symm

/-! ### Steering (R359) -/

/-- Whether SPARE_STEER is taken up: it is asked for, or AUTO_STEER finds the pin erased; the spare is there, and the time is one that
R359 allows. -/
def State.maySteer (t i g p : Nat) (s : State) : Bool :=
  (decide (s.mem.repair = some { action := 2, stack := i, lg := g, pin := p })
      || (s.mem.repair.isNone && s.regb 0x070084 30 && (s.lg i g).erased p))
    && !(s.lg i g).spareSpent && s.stackUp i && (s.at t).repairTime i

theorem State.maySteer_iff (t i g p : Nat) (s : State) : s.maySteer t i g p = true ↔
    (s.mem.repair = some { action := 2, stack := i, lg := g, pin := p }
      ∨ (s.mem.repair = none ∧ s.regb 0x070084 30 = true ∧ (s.lg i g).erased p = true))
    ∧ (s.lg i g).spareSpent = false ∧ s.stackUp i = true ∧ (s.at t).repairTime i = true := by
  unfold State.maySteer
  simp [and_assoc]

theorem exec_spareSteer (t : Nat) (st lg : Fin 32) (pin : Fin 19) (ok : Bool) (s : State) :
    exec (.spareSteer t st lg pin ok) s = .next (
      if s.maySteer t st.val lg.val pin.val then (s.at t).steer st.val lg.val pin.val ok else s.at t) :=
  (apply_ite Host.Outcome.next _ _ _).symm

/-- R359: the spare via stands in for a pin, whose erasure and count are cleared. -/
def LaneGroup.steerTo (p : Nat) (x : LaneGroup) : LaneGroup :=
  { x with
    steered := some p, spareSpent := true, eraseA := if x.eraseA = some p then x.eraseB else x.eraseA
    eraseB := if x.eraseA = some p ∨ x.eraseB = some p then none else x.eraseB, window := kdel x.window p }

theorem LaneGroup.steerTo_erased {p : Nat} {x : LaneGroup} (h : x.eraseA ≠ x.eraseB) : (x.steerTo p).erased p = false := by
  unfold LaneGroup.erased LaneGroup.steerTo
  dsimp only
  by_cases ha : x.eraseA = some p
  · rw [if_pos ha, if_pos (.inl ha), decide_eq_false (fun hb => h (ha.trans hb.symm))]
    rfl
  · rw [if_neg ha, decide_eq_false ha]
    by_cases hb : x.eraseB = some p
    · rw [if_pos (.inr hb)]
      rfl
    · rw [if_neg (fun hc => hc.elim ha hb), decide_eq_false hb]
      rfl

section
variable (i g p : Nat) (s : State)

/-- A steering begins with the fault's record and its lag. -/
def State.steerBegins : State := (s.fault 7 0 i).repairLag 20000

theorem State.steer_good : s.steer i g p true = (((((s.steerBegins i).modLg i g (LaneGroup.steerTo p)).inc (0x07041C + 0x20 * i)
    1).settleLane i g).repairDone 2 0 i g p) := by
  unfold State.steer
  simp only [if_true]
  rfl

theorem State.steer_bad : s.steer i g p false = (((s.steerBegins i).modLg i g (fun x => { x with spareSpent := true })).settleLane
    i g).repairDone 2 2 i g p := by
  unfold State.steer
  simp only [Bool.false_eq_true, if_false]
  rfl

theorem LaneStep.steerBegins (k : Nat) : LaneStep k s (s.steerBegins i) := (LaneStep.fault k 7 0 i s).trans (.repairLag k 20000 _)

theorem State.steerBegins_lg : (s.steerBegins i).lg i g = s.lg i g :=
  (State.lg_of_lgs (congrArg DevMem.lgs (State.repairLag_mem 20000 _)) i g).trans (State.fault_lg 7 0 i i g s)

theorem State.steerBegins_tick (h : s.inTick = false) : (s.steerBegins i).tick = s.tick := by
  unfold State.steerBegins
  rw [State.repairLag_noTick]
  · exact State.fault_tick 7 0 i s
  · rw [← h]
    unfold State.inTick
    rw [State.fault_tick]

theorem LaneStep.steer (ok : Bool) : LaneStep (32 * i + g) s (s.steer i g p ok) := by
  have hbegin (f : LaneGroup → LaneGroup) := (LaneStep.steerBegins i s _).trans (.modLg i g f (s.steerBegins i))
  cases ok with
  | true =>
    rw [State.steer_good]
    exact (((hbegin (LaneGroup.steerTo p)).trans (.inc _ _ _ _)).trans (.settleLane _ i g _)).trans (.repairDone _ 2 0 i g p _)
  | false =>
    rw [State.steer_bad]
    exact ((hbegin (fun x => { x with spareSpent := true })).trans (.settleLane _ i g _)).trans (.repairDone _ 2 2 i g p _)

theorem State.inc_lg (o n i g : Nat) (s : State) : (s.inc o n).lg i g = s.lg i g :=
  State.lg_of_lgs (congrArg DevMem.lgs (State.inc_mem o n s)) i g

theorem State.repairDone_lg (action result j h q i g : Nat) (s : State) : (s.repairDone action result j h q).lg i g = s.lg i g := rfl

theorem State.repairDone_repairLog (action result j h q : Nat) (s : State) :
    (s.repairDone action result j h q).mem.repairLog = s.mem.repairLog := rfl

theorem State.repairDone_tick (action result j h q : Nat) (s : State) : (s.repairDone action result j h q).tick = s.tick := rfl

theorem State.modLg_tick (i g : Nat) (f : LaneGroup → LaneGroup) (s : State) : (s.modLg i g f).tick = s.tick := rfl

theorem State.steer_good_lg : (s.steer i g p true).lg i g = (s.lg i g).steerTo p := by
  rw [State.steer_good, State.repairDone_lg, State.settleLane_lg, State.inc_lg, State.modLg_lg_same, State.steerBegins_lg]

theorem State.steer_bad_lg : (s.steer i g p false).lg i g = { s.lg i g with spareSpent := true } := by
  rw [State.steer_bad, State.repairDone_lg, State.settleLane_lg, State.modLg_lg_same, State.steerBegins_lg]

theorem State.steer_ended (ok : Bool) : (s.steer i g p ok).mem.repair = none
    ∧ (s.steer i g p ok).mem.status = repairWord 2 (if ok then 0 else 2) i g p := by
  cases ok with
  | true =>
    rw [State.steer_good]
    exact ⟨rfl, rfl⟩
  | false =>
    rw [State.steer_bad]
    exact ⟨rfl, rfl⟩

theorem State.steer_good_logged : kget LaneGroup.clean (s.steer i g p true).mem.repairLog (32 * i + g)
    = { (s.steer i g p true).lg i g with window := [] } := by
  rw [State.steer_good, State.repairDone_repairLog, State.repairDone_lg, State.settleLane_logged]

theorem State.steer_tick (ok : Bool) (h : s.inTick = false) : (s.steer i g p ok).tick = s.tick := by
  cases ok with
  | true =>
    rw [State.steer_good, State.repairDone_tick, State.settleLane_tick, State.inc_tick, State.modLg_tick, State.steerBegins_tick i s h]
  | false => rw [State.steer_bad, State.repairDone_tick, State.settleLane_tick, State.modLg_tick, State.steerBegins_tick i s h]

end

/-! ### The end of a correction window (R358) -/

/-- A change of the first `n` lane groups of a stack. -/
theorem State.foldl_modLg (i : Nat) (f : LaneGroup → LaneGroup) (n : Nat) (s : State) :
    let u := (List.range n).foldl (fun (s : State) (g : Nat) => s.modLg i g f) s
    u = { s with mem := { s.mem with lgs := u.mem.lgs } }
      ∧ (∀ g, g < n → u.lg i g = f (s.lg i g))
      ∧ ∀ k, k < 32 * i ∨ 32 * i + n ≤ k → kget LaneGroup.clean u.mem.lgs k = kget LaneGroup.clean s.mem.lgs k := by
  induction n with
  | zero => exact ⟨rfl, fun g hg => absurd hg (Nat.not_lt_zero g), fun _ _ => rfl⟩
  | succ n ih =>
    obtain ⟨hframe, hlg, hother⟩ := ih
    rw [List.range_succ, List.foldl_append]
    simp only [List.foldl_cons, List.foldl_nil]
    generalize (List.range n).foldl (fun (s : State) (g : Nat) => s.modLg i g f) s = u at hframe hlg hother ⊢
    refine ⟨?_, fun g hg => ?_, fun k hk => ?_⟩
    · rw [hframe]
      rfl
    · by_cases hgn : g = n
      · subst hgn
        rw [State.modLg_lg_same]
        exact congrArg f (hother _ (by omega))
      · exact (State.modLg_lgs_other i n f u (by omega)).trans (hlg g (by omega))
    · exact (State.modLg_lgs_other i n f u (by omega)).trans (hother k (by omega))

/-! ### The statement -/

/-- Settles O44: an erasure by which of the group's two places is free, a steering by whether it retrained, a window's end lane group by
lane group. It holds through the model's choices of log entry 31. -/
theorem pinsAreErasedAndSteered : Obligations.PinsAreErasedAndSteered := by
  unfold Obligations.PinsAreErasedAndSteered
  intro t st lg pin s x frame ended
  have hframe {u : State} (h : LaneStep (32 * st.val + lg.val) (s.at t) u) : frame u := by
    have hm := h.mem
    refine ⟨h.frame, ?_, ?_, ?_, ?_, ?_, h.others⟩ <;> rw [hm] <;> rfl
  refine ⟨fun hup hnone hauto hfresh hcount => ?_, fun hno => ?_, fun hup hspare htime hask => ?_, fun hno ok => ?_, ?_⟩
  · have htake := exec_pinErase t st lg pin s
    rw [if_pos ((State.mayErase_iff _ _ _ s).2 ⟨hnone, hauto, hup, hfresh, hcount⟩)] at htake
    have herase (f : LaneGroup → LaneGroup) (he : (s.at t).erase st.val lg.val pin.val = (s.at t).eraseAs st.val lg.val f) :
        ∃ u, exec (.pinErase t st lg pin) s = .next u ∧ frame u ∧ ended 1 0 u ∧ u.tick = s.tick ∧ u.lg st.val lg.val = f x
          ∧ kget LaneGroup.clean u.mem.repairLog (32 * st.val + lg.val) = { u.lg st.val lg.val with window := [] } := by
      rw [he] at htake
      refine ⟨_, htake, hframe ((LaneStep.eraseAs st.val lg.val f (s.at t)).trans (.repairDone _ 1 0 st.val lg.val pin.val _)),
        ⟨rfl, rfl⟩, ?_, ?_, ?_⟩
      · rw [State.repairDone_tick, State.eraseAs_tick]
        rfl
      · rw [State.repairDone_lg, State.eraseAs_lg]
        rfl
      · rw [State.repairDone_repairLog, State.repairDone_lg]
        exact State.settleLane_logged st.val lg.val _
    refine ⟨fun hplace => ?_, fun ha hb => htake.trans ?_⟩
    · by_cases ha : x.eraseA = none
      · rw [if_pos ha]
        exact herase _ (State.erase_first (s := s.at t) hfresh ha)
      · rw [if_neg ha]
        exact herase _ (State.erase_second (s := s.at t) hfresh ha (hplace.resolve_left ha))
    · rw [State.erase_third (s := s.at t) hfresh ha hb]
  · rw [exec_pinErase, if_neg]
    rw [State.mayErase_iff]
    rintro ⟨hnone, hauto, hup, -, hcount⟩
    rcases hno with h | h | h | h
    · rw [hauto] at h
      exact Bool.noConfusion h
    · exact Nat.not_le.2 h hcount
    · exact h hnone
    · rw [hup] at h
      exact Bool.noConfusion h
  · have htake (ok : Bool) : exec (.spareSteer t st lg pin ok) s = .next ((s.at t).steer st.val lg.val pin.val ok) := by
      rw [exec_spareSteer, if_pos ((State.maySteer_iff t _ _ _ s).2 ⟨hask, hspare, hup, htime⟩)]
    have hgood := State.steer_good_lg st.val lg.val pin.val (s.at t)
    refine ⟨⟨_, htake true, hframe (.steer _ _ _ _ true), State.steer_ended _ _ _ _ true, fun hidle => State.steer_tick _ _ _ _ true hidle,
      ?_, ?_, fun hne => ?_, State.steer_good_logged _ _ _ _⟩, _, htake false, hframe (.steer _ _ _ _ false),
      State.steer_ended _ _ _ _ false, fun hidle => State.steer_tick _ _ _ _ false hidle, State.steer_bad_lg _ _ _ _⟩
    · rw [hgood]
      rfl
    · rw [hgood]
      rfl
    · rw [hgood]
      exact LaneGroup.steerTo_erased hne
  · rw [exec_spareSteer, if_neg]
    rw [State.maySteer_iff]
    rintro ⟨-, hspare, hup, htime⟩
    rcases hno with h | h | h
    · rw [htime] at h
      exact Bool.noConfusion h
    · rw [hspare] at h
      exact Bool.noConfusion h
    · rw [hup] at h
      exact Bool.noConfusion h
  · exact ⟨_, rfl, State.foldl_modLg st.val (fun x => { x with window := [] }) 32 (s.at t)⟩

end Sys2Proof.Machine
end

section
/-! PROOFS. Repair steps that software asks for, row and hard repairs, and the scrubbers (spec/11_memory.md, R340, R357 to R361, R373,
R374). -/

namespace Sys2Proof.Machine
open Sys2Proof

/-! ### MEM_SPARE_CTRL (R373) -/

theorem Reached.mem {t : Nat} {who : Requester} {s y : State} (h : Reached t who s y) : y.mem = s.mem := by
  obtain ⟨c, rfl⟩ := h.frame; rfl

/-- The write of MEM_SPARE_CTRL that carries out ACTION `k`, from 1 to 5. -/
def spareCommand (t : Nat) (who : Requester) (value : Word) (k : Nat) : Instr :=
  if k = 1 then .spareCtrlErase t who value else if k = 2 then .spareCtrlSteer t who value
  else if k = 3 then .spareCtrlHardSteer t who value else if k = 4 then .spareCtrlClearErasure t who value
  else .spareCtrlHardRows t who value

/-- A repair step of ACTION `k` at a place is in progress. -/
def State.askRepair (k i g p : Nat) (s : State) : State :=
  { s with mem := { s.mem with repair := some { action := k, stack := i, lg := g, pin := p } } }

/-- What ACTION `k` does at a place where a step may start. -/
def State.spareStep (k i g p : Nat) (s : State) : State := match k with
  | 1 =>
    if !(s.lg i g).erased p && (s.lg i g).eraseA.isSome && (s.lg i g).eraseB.isSome then s.repairDone 1 3 i g p
    else (s.erase i g p).repairDone 1 0 i g p
  | 2 => if (s.lg i g).spareSpent then s.repairDone 2 1 i g p else s.askRepair 2 i g p
  | 3 => if (s.lg i g).steered.isNone then s.repairDone 3 3 i g p else s.askRepair 3 i g p
  | 4 =>
    if !((s.lg i g).erased p && decide ((s.lg i g).steered = some p)) then s.repairDone 4 3 i g p
    else ((s.modLg i g (fun x => { x with eraseA := if x.eraseA = some p then x.eraseB else x.eraseA, eraseB := none })).settleLane
      i g).repairDone 4 0 i g p
  | _ =>
    if s.mem.rows.any (fun r => decide (r.stack = i) && !r.hard) then s.askRepair 5 i g p else s.repairDone 5 0 i 0 0x1F

theorem exec_spareCommand {t : Nat} {who : Requester} {s y : State} (h : Reached t who s y) (value : Word) {k : Nat} (hlow : 1 ≤ k)
    (hhigh : k ≤ 5) : exec (spareCommand t who value k) s = .next (y.spareCtrl k value (State.spareStep k)) := by
  have hact := congrArg (Host.Outcome.next (φ := Fault) (ρ := Refusal)) (h.asMgmt (State.spareCtrl k value (State.spareStep k)))
  obtain rfl | rfl | rfl | rfl | rfl : k = 1 ∨ k = 2 ∨ k = 3 ∨ k = 4 ∨ k = 5 := by omega
  · exact hact
  · exact hact
  · exact hact
  · exact hact
  · exact hact

section
variable {k : Nat} {value : Word} {act : Nat → Nat → Nat → State → State} {y : State}

theorem State.spareCtrl_other (h : bitsAt value.toNat 5 3 ≠ k) :
    y.spareCtrl k value act = y.setReg 0x070084 (value &&& spareCtrlMask) := if_pos h

theorem State.spareCtrl_busy (h : bitsAt value.toNat 5 3 = k) (hbusy : y.mem.repair ≠ none) : y.spareCtrl k value act
    = (y.setReg 0x070084 (value &&& spareCtrlMask)).repairShows k 3 (bitsAt value.toNat 18 5) (bitsAt value.toNat 13 5)
        (bitsAt value.toNat 8 5) :=
  (if_neg (not_not.2 h)).trans (if_pos (Option.isSome_iff_ne_none.2 hbusy))

section
variable (h : bitsAt value.toNat 5 3 = k) (hfree : y.mem.repair = none)
include h hfree

theorem State.spareCtrl_denied (hplace : y.stackUp (bitsAt value.toNat 18 5) = false ∨ 18 < bitsAt value.toNat 8 5) :
    y.spareCtrl k value act = (y.setReg 0x070084 (value &&& spareCtrlMask)).repairDone k 3 (bitsAt value.toNat 18 5)
      (bitsAt value.toNat 13 5) (bitsAt value.toNat 8 5) := by
  refine (if_neg (not_not.2 h)).trans ((if_neg ?_).trans (if_pos (hplace.imp_left fun hup => ?_)))
  · show ¬y.mem.repair.isSome = true
    rw [hfree]
    decide
  · show (!y.stackUp (bitsAt value.toNat 18 5)) = true
    rw [hup]
    rfl

theorem State.spareCtrl_acts (hup : y.stackUp (bitsAt value.toNat 18 5) = true) (hpin : bitsAt value.toNat 8 5 ≤ 18) :
    y.spareCtrl k value act = act (bitsAt value.toNat 18 5) (bitsAt value.toNat 13 5) (bitsAt value.toNat 8 5)
      (y.setReg 0x070084 (value &&& spareCtrlMask)) := by
  refine (if_neg (not_not.2 h)).trans ((if_neg ?_).trans (if_neg ?_))
  · show ¬y.mem.repair.isSome = true
    rw [hfree]
    decide
  · rintro (hdown | hhigh)
    · have hdown : (!y.stackUp (bitsAt value.toNat 18 5)) = true := hdown
      rw [hup] at hdown
      exact Bool.noConfusion hdown
    · exact Nat.not_lt.2 hpin hhigh

end

end

/-! ### What each ACTION does -/

section
variable {i g p : Nat} {s : State}

theorem State.spareStep_erase_full (hfresh : (s.lg i g).erased p = false) (ha : (s.lg i g).eraseA ≠ none)
    (hb : (s.lg i g).eraseB ≠ none) : s.spareStep 1 i g p = s.repairDone 1 3 i g p := by
  refine if_pos ?_
  rw [hfresh, Option.isSome_iff_ne_none.2 ha, Option.isSome_iff_ne_none.2 hb]
  rfl

theorem State.spareStep_erase (h : (s.lg i g).erased p = true ∨ (s.lg i g).eraseA = none ∨ (s.lg i g).eraseB = none) :
    s.spareStep 1 i g p = (s.erase i g p).repairDone 1 0 i g p := by
  refine if_neg ?_
  rcases h with h | h | h <;> simp [h]

theorem State.spareStep_steer : s.spareStep 2 i g p
    = if (s.lg i g).spareSpent = true then s.repairDone 2 1 i g p else s.askRepair 2 i g p := rfl

theorem State.spareStep_harden : s.spareStep 3 i g p
    = if (s.lg i g).steered = none then s.repairDone 3 3 i g p else s.askRepair 3 i g p :=
  if_congr (by rw [Option.isNone_iff_eq_none]) rfl rfl

theorem State.spareStep_clear_denied (h : (s.lg i g).erased p = false ∨ (s.lg i g).steered ≠ some p) :
    s.spareStep 4 i g p = s.repairDone 4 3 i g p := by
  refine if_pos ?_
  rcases h with h | h <;> simp [h]

/-- R373: an erasure that a steering has replaced is cleared. -/
theorem State.spareStep_clear (herased : (s.lg i g).erased p = true) (hsteered : (s.lg i g).steered = some p) :
    let u := s.spareStep 4 i g p
    u = { s with mem := u.mem, obs := u.obs }
      ∧ u.lg i g = { s.lg i g with
          eraseA := (if (s.lg i g).eraseA = some p then (s.lg i g).eraseB else (s.lg i g).eraseA), eraseB := none }
      ∧ u.mem.bytes = s.mem.bytes ∧ u.mem.repair = none ∧ bitsAt u.mem.status.toNat 24 3 = 0 := by
  have hstep : s.spareStep 4 i g p = ((s.modLg i g (fun x =>
      { x with eraseA := if x.eraseA = some p then x.eraseB else x.eraseA, eraseB := none })).settleLane i g).repairDone 4 0 i g p :=
    if_neg (by rw [herased, hsteered]; simp)
  have hlg := State.settleLane_lg i g (s.modLg i g (fun x =>
      { x with eraseA := if x.eraseA = some p then x.eraseB else x.eraseA, eraseB := none }))
  obtain ⟨k, l, hs⟩ := State.settleLane_frame i g (s.modLg i g (fun x =>
      { x with eraseA := if x.eraseA = some p then x.eraseB else x.eraseA, eraseB := none }))
  dsimp only
  rw [hstep]
  refine ⟨?_, hlg.trans (State.modLg_lg_same _ _ _ _), ?_, rfl, (repairWord_fields 4 0 i g p).1⟩
  · rw [hs]
    rfl
  · rw [hs]
    rfl

theorem State.spareStep_rows : s.spareStep 5 i g p = if s.mem.rows.any (fun r => decide (r.stack = i) && !r.hard) = true
    then s.askRepair 5 i g p else s.repairDone 5 0 i 0 0x1F := rfl

end

/-! ### Hard repairs (R361) -/

/-- The row repairs of a stack that are not hard. -/
def State.softRows (i : Nat) (s : State) : List RowRepair := s.mem.rows.filter (fun r => decide (r.stack = i) && !r.hard)

/-- A row repair made hard when it is among those picked. -/
def RowRepair.hardenIn (pick : List RowRepair) (r : RowRepair) : RowRepair := if pick.contains r then { r with hard := true } else r

theorem State.hardenRows_all (i : Nat) (s : State) : s.hardenRows i true = { s with mem := { s.mem with
    rows := s.mem.rows.map (RowRepair.hardenIn (s.softRows i)), rowLog := s.mem.rowLog.map (RowRepair.hardenIn (s.softRows i)) } } := rfl

section
variable {i : Nat} {s : State} {r : RowRepair} (hr : r ∈ s.mem.rows)
include hr

theorem State.softRows_contains : (s.softRows i).contains r = true ↔ r.stack = i ∧ r.hard = false := by
  unfold State.softRows
  rw [List.contains_iff_mem, List.mem_filter]
  simp [hr]

theorem State.hardenIn_hard (hstack : r.stack = i) : (r.hardenIn (s.softRows i)).hard = true := by
  unfold RowRepair.hardenIn
  split
  · rfl
  · next hsoft => exact Bool.of_not_eq_false fun h => hsoft ((State.softRows_contains hr).2 ⟨hstack, h⟩)

theorem State.hardenIn_other (hstack : r.stack ≠ i) : r.hardenIn (s.softRows i) = r :=
  if_neg fun h => hstack ((State.softRows_contains hr).1 h).1

end

theorem RowRepair.hardenIn_stack (pick : List RowRepair) (r : RowRepair) : (r.hardenIn pick).stack = r.stack := by
  unfold RowRepair.hardenIn
  split <;> rfl

section
variable (t : Nat) {st : Fin 32} (ok : Bool) {r : RepairStep} {s : State} (hup : s.stackUp st.val = true)
  (hstep : s.mem.repair = some r) (hstack : r.stack = st.val)
include hup hstep hstack

theorem exec_hardRepair : exec (.hardRepair t st ok) s = .next (
    if r.action = 3 then
      (if ok then (s.at t).hardenLg st.val r.lg else s.at t).repairDone 3 (if ok then 0 else 4) st.val r.lg r.pin
    else if r.action = 5 then
      (if ok then (s.at t).hardenRows st.val true else s.at t).repairDone 5 (if ok then 0 else 4) st.val 0 0x1F
    else s.at t) := by
  have hdown : ¬(!(s.at t).stackUp st.val) = true := by
    show ¬(!s.stackUp st.val) = true
    rw [hup]
    decide
  show execHardRepair t st ok s = _
  unfold execHardRepair
  dsimp only
  rw [if_neg hdown, show (s.at t).mem.repair = some r from hstep]
  simp only [apply_ite Host.Outcome.next]
  exact if_neg (not_not.2 hstack)

end

/-! ### Granules that are written back (R351, R357, R360) -/

/-- What reads wrong in a granule after granules are written back: nothing in those that are not bad. -/
theorem State.mended_errsAt (gs : List Nat) (s : State) (g : Nat) :
    (s.mended gs).errsAt g = if g ∈ gs ∧ s.badCode g = false then [] else s.errsAt g := by
  unfold State.errsAt
  show (kfind? (s.mem.wrong.filter (fun e => !gs.contains e.1 || s.badCode e.1)) g).getD [] = _
  rw [kfind?_filter _ (fun k => !gs.contains k || s.badCode k)]
  by_cases hg : g ∈ gs ∧ s.badCode g = false
  · rw [if_pos hg, hg.2, List.contains_iff_mem.2 hg.1]
    rfl
  · rw [if_neg hg, if_pos]
    · rfl
    · by_cases hin : g ∈ gs
      · rw [Bool.of_not_eq_false (fun h => hg ⟨hin, h⟩), Bool.or_true]
      · simp [hin]

/-- Every byte reads as before. -/
theorem State.mended_memByte (gs : List Nat) (s : State) (a : Nat) : (s.mended gs).memByte a = s.memByte a := by
  have hbytes : kget 0#8 (s.mended gs).mem.bytes a = if a ∈ granOffs (gs.filter (fun g => !s.badCode g && !(s.errsAt g).isEmpty))
      then s.memByte a else kget 0#8 s.mem.bytes a := setBytes_map s.memByte _ s.mem.bytes a
  simp only [mem_mends] at hbytes
  have herrs := State.mended_errsAt gs s (a / 32)
  by_cases hg : a / 32 ∈ gs ∧ s.badCode (a / 32) = false
  · rw [if_pos hg] at herrs
    rw [State.memByte_right herrs, hbytes]
    split
    · rfl
    · next hnone =>
      have hclean : s.errsAt (a / 32) = [] := by
        by_contra h
        exact hnone ⟨hg.1, hg.2, h⟩
      exact (State.memByte_right hclean).symm
  · rw [if_neg hg] at herrs
    rw [if_neg (fun h => hg ⟨h.1, h.2.1⟩)] at hbytes
    have hcode : (s.mended gs).codeAt (a / 32) = s.codeAt (a / 32) := by
      unfold State.codeAt
      rw [herrs]
      rfl
    unfold State.memByte State.wrongByte
    rw [hbytes, hcode, herrs]

/-! ### Row repairs (R360) -/

theorem eraseDups_of_nodup {l : List Nat} (h : l.Nodup) : l.eraseDups = l := by
  induction l with
  | nil => rfl
  | cons a l ih =>
    obtain ⟨ha, hl⟩ := List.nodup_cons.1 h
    rw [List.eraseDups_cons, List.filter_eq_self.2 (fun b hb => by
      have hne : b ≠ a := fun e => ha (e ▸ hb)
      simp [hne]), ih hl]

theorem State.memByte_congr {a b : State} (hbytes : a.mem.bytes = b.mem.bytes) (hwrong : a.mem.wrong = b.mem.wrong)
    (hlgs : a.mem.lgs = b.mem.lgs) (off : Nat) : a.memByte off = b.memByte off := by
  unfold State.memByte State.wrongByte State.codeAt State.lgAt State.lg State.errsAt
  rw [hbytes, hwrong, hlgs]

/-- R359: the lag of a repair moves the pier's arrival alone. -/
theorem State.repairLag_frame (ns : Nat) (s : State) : ∃ k, s.repairLag ns = { s with tick := k } := by
  unfold State.repairLag
  split <;> exact ⟨_, rfl⟩

/-- R360: the spare row holds the row's granules written back; those that cannot be corrected are listed as poison. -/
def State.listRow (i bank row : Nat) (gs bad : List Nat) (s : State) : State :=
  { s with mem := { (s.mended gs).mem with
    rows := s.mem.rows ++ [{ stack := i, bank := bank, row := row, hard := false }]
    rowLog := s.mem.rowLog ++ [{ stack := i, bank := bank, row := row, hard := false }], poison := s.mem.poison ++ bad } }

/-- R360: a row is redirected: the repair is counted, its lag is the pier's, and it ends. -/
def State.redirectRow (i bank row : Nat) (gs bad : List Nat) (s : State) : State :=
  (((s.listRow i bank row gs bad).repairLag 8000).inc (0x070418 + 0x20 * i) 1).repairDone 7 0 i 0 0x1F

section
variable (i bank row : Nat) (gs bad : List Nat) (s : State)

theorem State.redirectRow_mem : (s.redirectRow i bank row gs bad).mem = { (s.mended gs).mem with
    rows := s.mem.rows ++ [{ stack := i, bank := bank, row := row, hard := false }]
    rowLog := s.mem.rowLog ++ [{ stack := i, bank := bank, row := row, hard := false }], poison := s.mem.poison ++ bad
    repair := none, status := repairWord 7 0 i 0 0x1F } := by
  unfold State.redirectRow
  rw [State.repairDone_eq]
  dsimp only
  rw [State.inc_mem, State.repairLag_mem]
  rfl

theorem State.redirectRow_frame : let u := s.redirectRow i bank row gs bad
    u = { s with mem := u.mem, counters := u.counters, tick := u.tick, obs := u.obs } := by
  dsimp only
  unfold State.redirectRow
  generalize 0x070418 + 0x20 * i = off
  obtain ⟨k, hk⟩ := State.repairLag_frame 8000 (s.listRow i bank row gs bad)
  rw [hk]
  obtain ⟨c, hc⟩ := State.inc_counters off 1 { s.listRow i bank row gs bad with tick := k }
  rw [hc]
  rfl

theorem State.redirectRow_memByte (a : Nat) : (s.redirectRow i bank row gs bad).memByte a = s.memByte a := by
  have hm := State.redirectRow_mem i bank row gs bad s
  refine (State.memByte_congr ?_ ?_ ?_ a).trans (State.mended_memByte gs s a) <;> rw [hm]

theorem State.redirectRow_errsAt (g : Nat) : (s.redirectRow i bank row gs bad).errsAt g
    = if g ∈ gs ∧ s.badCode g = false then [] else s.errsAt g := by
  rw [← State.mended_errsAt]
  unfold State.errsAt
  rw [State.redirectRow_mem]

theorem State.redirectRow_counted : (kget Counter.zero (s.redirectRow i bank row gs bad).counters (0x070418 + 0x20 * i)).live.toNat
    = min ((kget Counter.zero s.counters (0x070418 + 0x20 * i)).live.toNat + 1) 0xFFFFFFFF := by
  unfold State.redirectRow
  rw [State.repairDone_eq]
  dsimp only
  obtain ⟨k, hk⟩ := State.repairLag_frame 8000 (s.listRow i bank row gs bad)
  rw [State.inc_live_same, hk]
  rfl

end

section
variable (t : Nat) {st : Fin 32} (bank row : Nat) {gs : List Nat} {s : State} (hnone : s.mem.repair = none)
  (hup : s.stackUp st.val = true) (htime : (s.at t).repairTime st.val = true) (hnodup : gs.Nodup)
  (hgs : ∀ g ∈ gs, stackOf (32 * g) = st.val)
include hnone hup htime hnodup hgs

theorem exec_rowRepair : exec (.rowRepair t st bank row gs) s = .next (
    if 4 ≤ s.mem.rows.countP (fun r => decide (r.stack = st.val ∧ r.bank = bank)) then
      ((s.at t).fault 7 0 st.val).repairDone 7 1 st.val 0 0x1F
    else if 1024 < s.poisonOf st.val + (gs.filter (fun g => !s.mem.poison.contains g && (s.codeAt g).isNone)).length then
      ((s.at t).fault 7 0 st.val).repairDone 7 5 st.val 0 0x1F
    else ((s.at t).fault 7 0 st.val).redirectRow st.val bank row gs
      (gs.filter (fun g => !s.mem.poison.contains g && (s.codeAt g).isNone))) := by
  have hrow : (gs.filter (fun g => decide (stackOf (32 * g) = st.val))).eraseDups = gs := by
    rw [List.filter_eq_self.2 (fun g hg => decide_eq_true (hgs g hg)), eraseDups_of_nodup hnodup]
  have hok : ¬((s.at t).mem.repair.isSome || !(s.at t).stackUp st.val || !(s.at t).repairTime st.val) = true := by
    rw [htime, show (s.at t).stackUp st.val = true from hup, show (s.at t).mem.repair = none from hnone]
    decide
  show execRowRepair t st bank row gs s = _
  unfold execRowRepair
  dsimp only
  rw [if_neg hok, hrow]
  obtain ⟨f, c, hf⟩ := State.fault_frame 7 0 st.val (s.at t)
  rw [hf]
  simp only [apply_ite Host.Outcome.next]
  rfl

end

/-! ### The scrub of a stack (R357) -/

/-- What the controller counts as its scrub's corrections, of a stack (Table 11.12). -/
def scrubCtr (i : Nat) : Nat := 0x070414 + 0x20 * i

theorem State.incBytes_counter_other {off off' : Nat} (h : off' ≠ off) (n : Nat) (s : State) :
    kget Counter.zero (s.incBytes off n).counters off' = kget Counter.zero s.counters off' := by
  unfold State.incBytes
  split
  · rfl
  · exact kget_kset_other _ _ h _

section
variable {i : Nat} (hi : i < 32)
include hi

theorem State.corrected_scrubCount (g pin : Nat) (s : State) :
    kget Counter.zero (s.corrected g pin).counters (scrubCtr i) = kget Counter.zero s.counters (scrubCtr i) := by
  unfold scrubCtr
  exact (State.inc_counter_other (by omega) 1 _).trans (State.inc_counter_other (by omega) 1 _)

theorem State.readCode_scrubCount (g : Nat) (s : State) :
    kget Counter.zero (s.readCode g).counters (scrubCtr i) = kget Counter.zero s.counters (scrubCtr i) := by
  unfold State.readCode
  split
  · exact State.inc_counter_other (by unfold scrubCtr; omega) 1 _
  · split
    · exact State.inc_counter_other (by unfold scrubCtr; omega) 1 _
    · exact foldl_keeps (fun s => kget Counter.zero s.counters (scrubCtr i)) _ _ _
        (fun s p => State.corrected_scrubCount hi g p s)

end

/-- R357: the controller has read the codewords of a stack, and written `fixed` of them. -/
def State.scrubRead (i fixed : Nat) (gs : List Nat) (s : State) : State :=
  gs.foldl (fun (s : State) (g : Nat) => s.readCode g) ((s.incBytes (0xA0100 + 8 * i) (2 ^ 35)).incBytes (0xA0104 + 8 * i) (32 * fixed))

theorem State.scrubRead_counted (i fixed : Nat) (gs : List Nat) (s : State) : MemCounted s (s.scrubRead i fixed gs) :=
  ((State.incBytes_counted _ _ s).trans (State.incBytes_counted _ _ _)).trans
    (MemCounted.foldl _ (fun s g => State.readCode_counted g s) gs _)

theorem State.scrubRead_scrubCount {i : Nat} (hi : i < 32) (fixed : Nat) (gs : List Nat) (s : State) :
    kget Counter.zero (s.scrubRead i fixed gs).counters (scrubCtr i) = kget Counter.zero s.counters (scrubCtr i) := by
  have hread := foldl_keeps (fun s : State => kget Counter.zero s.counters (scrubCtr i)) (fun s g => s.readCode g) gs
    ((s.incBytes (0xA0100 + 8 * i) (2 ^ 35)).incBytes (0xA0104 + 8 * i) (32 * fixed)) (fun s g => State.readCode_scrubCount hi g s)
  have hoff : scrubCtr i ≠ 0xA0104 + 8 * i ∧ scrubCtr i ≠ 0xA0100 + 8 * i := by
    unfold scrubCtr
    omega
  exact hread.trans ((State.incBytes_counter_other hoff.1 _ _).trans (State.incBytes_counter_other hoff.2 _ _))

/-- R504: the fault manager takes the report of an uncorrectable codeword. -/
theorem State.scrubReport_frame (g : Nat) (s : State) : ∃ f, s.scrubReport g = { s with flt := f }
    ∧ f.reported = s.flt.reported.filter (· ≠ g) ++ [g] := by
  unfold State.scrubReport
  dsimp only
  split
  · exact ⟨_, rfl, rfl⟩
  · split <;> exact ⟨_, rfl, rfl⟩

theorem State.foldl_scrubReport (bad : List Nat) (s : State) :
    ∃ f, bad.foldl (fun (s : State) (g : Nat) => s.scrubReport g) s = { s with flt := f }
      ∧ ∀ g, g ∈ f.reported ↔ g ∈ s.flt.reported ∨ g ∈ bad := by
  induction bad generalizing s with
  | nil => exact ⟨_, rfl, fun g => by simp⟩
  | cons b bad ih =>
    obtain ⟨f, hf, hreported⟩ := State.scrubReport_frame b s
    obtain ⟨f', hf', hall⟩ := ih (s.scrubReport b)
    rw [List.foldl_cons, hf']
    refine ⟨f', by rw [hf], fun g => ?_⟩
    rw [hall, hf, hreported, List.mem_append, List.mem_filter, List.mem_singleton, List.mem_cons]
    by_cases hg : g = b <;> simp [hg]

section
variable (t : Nat) (st : Fin 32) (errs : MemErrs) (s : State)

theorem exec_memScrub_down (h : s.stackUp st.val = false) : exec (.memScrub t st errs) s = .next ((s.at t).upset errs) := by
  refine if_pos ?_
  show (!s.stackUp st.val) = true
  rw [h]
  rfl

/-- The codewords of a stack that a scrub cannot correct, and those that it corrects. -/
def State.scrubBad (i : Nat) (s : State) : List Nat := (s.spoiled i).filter s.badCode

def State.scrubFixed (i : Nat) (s : State) : List Nat := (s.spoiled i).filter (fun g => !s.badCode g && !(s.fixedPins g).isEmpty)

/-- The state after a scrub, but for its reports. -/
def State.scrubbedStack (i : Nat) (s : State) : State :=
  ((s.scrubRead i (s.scrubFixed i).length (s.spoiled i)).inc (scrubCtr i) (s.scrubFixed i).length).mended (s.scrubFixed i)

theorem exec_memScrub_up (h : s.stackUp st.val = true) : exec (.memScrub t st errs) s
    = .next ((((s.at t).upset errs).scrubBad st.val).foldl (fun (s : State) (g : Nat) => s.scrubReport g)
        (((s.at t).upset errs).scrubbedStack st.val)) := by
  refine if_neg ?_
  show ¬(!s.stackUp st.val) = true
  rw [h]
  decide

end

section
variable (i : Nat) (s : State)

/-- Up to its writing back, a scrub only counts. -/
theorem State.scrubRead_inc_counted :
    MemCounted s ((s.scrubRead i (s.scrubFixed i).length (s.spoiled i)).inc (scrubCtr i) (s.scrubFixed i).length) :=
  (State.scrubRead_counted i _ _ s).trans (State.inc_counted _ _ _)

theorem State.scrubbedStack_frame : let u := s.scrubbedStack i
    u = { s with mem := u.mem, counters := u.counters } ∧ u.mem.poison = s.mem.poison := by
  have hc := (State.scrubRead_inc_counted i s).frame
  unfold State.scrubbedStack
  generalize (s.scrubRead i (s.scrubFixed i).length (s.spoiled i)).inc (scrubCtr i) (s.scrubFixed i).length = y at hc ⊢
  rw [hc]
  exact ⟨rfl, rfl⟩

theorem State.scrubbedStack_memByte (a : Nat) : (s.scrubbedStack i).memByte a = s.memByte a :=
  (State.mended_memByte _ _ a).trans ((State.scrubRead_inc_counted i s).memByte a)

theorem State.scrubbedStack_errsAt (g : Nat) : (s.scrubbedStack i).errsAt g = if g ∈ s.scrubFixed i then [] else s.errsAt g := by
  have hc := State.scrubRead_inc_counted i s
  have hfixed : (g ∈ s.scrubFixed i ∧ s.badCode g = false) ↔ g ∈ s.scrubFixed i := by
    refine and_iff_left_of_imp fun hg => ?_
    have hsound := (List.mem_filter.1 hg).2
    rw [Bool.and_eq_true, Bool.not_eq_true'] at hsound
    exact hsound.1
  unfold State.scrubbedStack
  rw [State.mended_errsAt, hc.badCode, hc.errsAt]
  exact if_congr hfixed rfl rfl

theorem State.scrubbedStack_counted (hi : i < 32) : (kget Counter.zero (s.scrubbedStack i).counters (scrubCtr i)).live.toNat
    = min ((kget Counter.zero s.counters (scrubCtr i)).live.toNat + (s.scrubFixed i).length) 0xFFFFFFFF := by
  show (kget Counter.zero ((s.scrubRead i (s.scrubFixed i).length (s.spoiled i)).inc (scrubCtr i)
    (s.scrubFixed i).length).counters (scrubCtr i)).live.toNat = _
  rw [State.inc_live_same, State.scrubRead_scrubCount hi]

end

/-! ### The scrub of a deck store (R340) -/

/-- The granules of a list that lie in the scrubbed row, each once. -/
def patrolRow (row : Nat) (l : List Nat) : List Nat := (l.filter (fun g => decide (g < deckGranules ∧ g / 2048 = row))).eraseDups

theorem mem_patrolRow {row : Nat} {l : List Nat} (h : ∀ g ∈ l, g < 131072 ∧ g / 2048 = row) (g : Nat) :
    g ∈ patrolRow row l ↔ g ∈ l := by
  unfold patrolRow
  rw [List.mem_eraseDups, List.mem_filter, decide_eq_true_iff]
  exact and_iff_left_of_imp (h g)

/-- A deck store after the scrub of a row: its errors counted, and poison where they were not corrected. -/
def Span.patrolled (corrected : Nat) (bad : List Nat) (x : Span) : Span :=
  let x := (x.inc 0x380 corrected).inc 0x384 bad.length
  { x with poison := x.poison ++ bad.filter (fun g => !x.poison.contains g) }

section
variable (corrected : Nat) (bad : List Nat) (x : Span)

theorem Span.patrolled_frame :
    x.patrolled corrected bad
      = { x with poison := (x.patrolled corrected bad).poison, counters := (x.patrolled corrected bad).counters } := by
  have h := ((Span.inc_counted 0x380 corrected x).trans (Span.inc_counted 0x384 bad.length _)).eq
  unfold Span.patrolled
  rw [h]

theorem Span.mem_patrolled_poison (g : Nat) : g ∈ (x.patrolled corrected bad).poison ↔ g ∈ x.poison ∨ g ∈ bad := by
  have h : ((x.inc 0x380 corrected).inc 0x384 bad.length).poison = x.poison := by
    rw [((Span.inc_counted 0x380 corrected x).trans (Span.inc_counted 0x384 bad.length _)).eq]
  unfold Span.patrolled
  dsimp only
  rw [h, List.mem_append, List.mem_filter]
  by_cases hg : g ∈ x.poison <;> simp [hg]

end

theorem exec_deckPatrolScrub (t : Nat) (p : Fin 132) (row : Fin 64) (good bad : List Nat) (s : State) :
    exec (.deckPatrolScrub p t row good bad) s = (
      let z := (s.at t).modSpan p.val (Span.patrolled (patrolRow row.val good).length (patrolRow row.val bad))
      match patrolRow row.val bad, (s.mapEntry p.val).logical with
      | [], _ => .next z
      | _, none => .next z
      | _, some l => .next (z.dataFault l p.val 0)) := rfl

/-! ### The statement -/

/-- R373: MEM_SPARE_CTRL, by whether the ACTION is this command's, a step is in progress, the place allows one, and by the ACTION. -/
theorem spareCommand_requests (t : Nat) (who : Requester) (value : Word) (s y : State) (h : Reached t who s y) :
    let i := bitsAt value.toNat 18 5
    let g := bitsAt value.toNat 13 5
    let p := bitsAt value.toNat 8 5
    let a := bitsAt value.toNat 5 3
    let z := y.setReg 0x070084 (value &&& 0xEFFFFF00#32)
    let x := s.lg i g
    (∀ k, 1 ≤ k → k ≤ 5 → a ≠ k → exec (spareCommand t who value k) s = .next z)
    ∧ (1 ≤ a → a ≤ 5 → s.mem.repair ≠ none → ∃ w o, exec (spareCommand t who value a) s
          = .next { z with mem := { z.mem with status := w }, obs := o }
        ∧ bitsAt w.toNat 24 3 = 3 ∧ w.getLsbD 30 = true ∧ bitsAt w.toNat 27 3 = a)
    ∧ (1 ≤ a → a ≤ 5 → s.mem.repair = none → s.stackUp i = false ∨ 18 < p →
        exec (spareCommand t who value a) s = .next (z.repairDone a 3 i g p))
    ∧ (s.mem.repair = none → s.stackUp i = true → p ≤ 18 →
      (a = 1 → x.erased p = false → x.eraseA ≠ none → x.eraseB ≠ none →
          exec (spareCommand t who value a) s = .next (z.repairDone 1 3 i g p))
      ∧ (a = 1 → x.erased p = true ∨ x.eraseA = none ∨ x.eraseB = none →
          exec (spareCommand t who value a) s = .next ((z.erase i g p).repairDone 1 0 i g p))
      ∧ (a = 2 → exec (spareCommand t who value a) s
          = .next (if x.spareSpent = true then z.repairDone 2 1 i g p else z.askRepair a i g p))
      ∧ (a = 3 → exec (spareCommand t who value a) s
          = .next (if x.steered = none then z.repairDone 3 3 i g p else z.askRepair a i g p))
      ∧ (a = 4 → x.erased p = true → x.steered = some p → ∃ u, exec (spareCommand t who value a) s = .next u
          ∧ u = { z with mem := u.mem, obs := u.obs }
            ∧ u.lg i g = { x with eraseA := (if x.eraseA = some p then x.eraseB else x.eraseA), eraseB := none }
          ∧ u.mem.bytes = s.mem.bytes ∧ u.mem.repair = none ∧ bitsAt u.mem.status.toNat 24 3 = 0)
      ∧ (a = 4 → x.erased p = false ∨ x.steered ≠ some p → exec (spareCommand t who value a) s = .next (z.repairDone 4 3 i g p))
      ∧ (a = 5 → exec (spareCommand t who value a) s
          = .next (if s.mem.rows.any (fun r => decide (r.stack = i) && !r.hard) = true then z.askRepair a i g p
            else z.repairDone 5 0 i 0 0x1F))) := by
  intro i g p a z x
  have hmem : y.mem = s.mem := h.mem
  have hup : y.stackUp i = s.stackUp i := by
    unfold State.stackUp State.stk
    rw [hmem]
  have hlg : z.lg i g = x := State.lg_of_lgs (congrArg DevMem.lgs hmem) i g
  refine ⟨fun k hlow hhigh hk => ?_, fun hlow hhigh hbusy => ?_, fun hlow hhigh hfree hplace => ?_, fun hfree hok hpin => ?_⟩
  · rw [exec_spareCommand h value hlow hhigh, State.spareCtrl_other hk]
    rfl
  · rw [exec_spareCommand h value hlow hhigh, State.spareCtrl_busy rfl (hmem ▸ hbusy)]
    obtain ⟨hresult, haction, hvalid⟩ := repairWord_fields a 3 i g p
    exact ⟨repairWord a 3 i g p, _, rfl, hresult, hvalid, haction.trans (Nat.mod_eq_of_lt (by omega))⟩
  · rw [exec_spareCommand h value hlow hhigh, State.spareCtrl_denied rfl (hmem ▸ hfree) (hup ▸ hplace)]
    rfl
  · have hact {k : Nat} (hlow : 1 ≤ k) (hhigh : k ≤ 5) (hk : a = k) :
        exec (spareCommand t who value a) s = .next (z.spareStep k i g p) := by
      rw [hk, exec_spareCommand h value hlow hhigh, State.spareCtrl_acts hk (hmem ▸ hfree) (hup.trans hok) hpin]
      rfl
    refine ⟨fun hk hfresh ha hb => ?_, fun hk hplace => ?_, fun hk => ?_, fun hk => ?_, fun hk herased hsteered => ?_,
      fun hk hno => ?_, fun hk => ?_⟩
    · rw [hact (by decide) (by decide) hk, State.spareStep_erase_full] <;> rwa [hlg]
    · rw [hact (by decide) (by decide) hk, State.spareStep_erase]
      rwa [hlg]
    · rw [hact (by decide) (by decide) hk, State.spareStep_steer, hlg, hk]
    · rw [hact (by decide) (by decide) hk, State.spareStep_harden, hlg, hk]
    · have hclear := State.spareStep_clear (s := z) (i := i) (g := g) (p := p) (by rwa [hlg]) (by rwa [hlg])
      obtain ⟨hframe, hplaces, hbytes, hrest⟩ := hclear
      refine ⟨_, hact (by decide) (by decide) hk, hframe, ?_, ?_, hrest⟩
      · rw [hplaces, hlg]
      · rw [hbytes, ← hmem]
        rfl
    · rw [hact (by decide) (by decide) hk, State.spareStep_clear_denied]
      rwa [hlg]
    · rw [hact (by decide) (by decide) hk, State.spareStep_rows, hk, ← hmem]
      rfl

/-- R361: the fuse program that a repair step waits for, by its ACTION and by whether it failed. -/
theorem hardRepair_ends (t : Nat) (st : Fin 32) (r : RepairStep) (s : State) (hup : s.stackUp st.val = true)
    (hstep : s.mem.repair = some r) (hstack : r.stack = st.val) :
    (r.action = 3 → exec (.hardRepair t st false) s = .next ((s.at t).repairDone 3 4 st.val r.lg r.pin)
      ∧ ∃ u, exec (.hardRepair t st true) s = .next u ∧ u = { s.at t with mem := u.mem, obs := u.obs }
        ∧ u.lg st.val r.lg = { s.lg st.val r.lg with hard := true } ∧ u.mem.bytes = s.mem.bytes ∧ u.mem.rows = s.mem.rows
        ∧ kget LaneGroup.clean u.mem.repairLog (32 * st.val + r.lg) = { s.lg st.val r.lg with hard := true, window := [] }
        ∧ u.mem.repair = none ∧ bitsAt u.mem.status.toNat 24 3 = 0 ∧ bitsAt u.mem.status.toNat 27 3 = 3)
    ∧ (r.action = 5 → exec (.hardRepair t st false) s = .next ((s.at t).repairDone 5 4 st.val 0 0x1F)
      ∧ ∃ u, exec (.hardRepair t st true) s = .next u ∧ u = { s.at t with mem := u.mem, obs := u.obs }
        ∧ u.mem.rows.length = s.mem.rows.length ∧ (∀ q ∈ u.mem.rows, q.stack = st.val → q.hard = true)
        ∧ (∀ q ∈ s.mem.rows, q.stack ≠ st.val → q ∈ u.mem.rows)
        ∧ u.mem.bytes = s.mem.bytes ∧ u.mem.lgs = s.mem.lgs ∧ u.mem.repair = none ∧ bitsAt u.mem.status.toNat 24 3 = 0) := by
  have hexec (ok : Bool) := exec_hardRepair t ok hup hstep hstack
  refine ⟨fun hact => ?_, fun hact => ?_⟩
  · simp only [if_pos hact] at hexec
    obtain ⟨hresult, haction, -⟩ := repairWord_fields 3 0 st.val r.lg r.pin
    have hlogged : kget LaneGroup.clean ((s.at t).hardenLg st.val r.lg).mem.repairLog (32 * st.val + r.lg)
        = { s.lg st.val r.lg with hard := true, window := [] } := by
      refine (State.logRepair_logged _ _ _).trans ?_
      rw [State.modLg_lg_same]
      rfl
    have hlg : ((s.at t).hardenLg st.val r.lg).lg st.val r.lg = { s.lg st.val r.lg with hard := true } :=
      State.modLg_lg_same st.val r.lg (fun x => { x with hard := true }) (s.at t)
    exact ⟨hexec false, _, hexec true, rfl, hlg, rfl, rfl, hlogged, rfl, hresult, haction⟩
  · have hne : r.action ≠ 3 := by omega
    simp only [if_neg hne, if_pos hact] at hexec
    have hrows : ((s.at t).hardenRows st.val true).mem.rows = s.mem.rows.map (RowRepair.hardenIn (s.softRows st.val)) := by
      rw [State.hardenRows_all]
      rfl
    refine ⟨hexec false, _, hexec true, rfl, (congrArg List.length hrows).trans (List.length_map _), fun q hq hqi => ?_,
      fun q hq hqi => ?_, rfl, rfl, rfl, (repairWord_fields 5 0 st.val 0 0x1F).1⟩
    · obtain ⟨q0, hq0, rfl⟩ := List.mem_map.1 (hrows ▸ hq)
      exact State.hardenIn_hard (s := s) hq0 ((RowRepair.hardenIn_stack _ q0).symm.trans hqi)
    · exact hrows ▸ List.mem_map.2 ⟨q, hq, State.hardenIn_other (s := s) hq hqi⟩

/-- R360: a row repair, by whether the bank has a spare row and the poison list has room. -/
theorem rowRepair_redirects (t : Nat) (st : Fin 32) (bank row : Nat) (gs : List Nat) (s : State) (hnone : s.mem.repair = none)
    (hup : s.stackUp st.val = true) (htime : (s.at t).repairTime st.val = true) (hnodup : gs.Nodup)
    (hgs : ∀ g ∈ gs, stackOf (32 * g) = st.val) :
    let used := s.mem.rows.countP (fun r => decide (r.stack = st.val ∧ r.bank = bank))
    let bad := gs.filter (fun g => !s.mem.poison.contains g && (s.codeAt g).isNone)
    (4 ≤ used → exec (.rowRepair t st bank row gs) s = .next (((s.at t).fault 7 0 st.val).repairDone 7 1 st.val 0 0x1F))
    ∧ (used < 4 → 1024 < s.poisonOf st.val + bad.length →
      exec (.rowRepair t st bank row gs) s = .next (((s.at t).fault 7 0 st.val).repairDone 7 5 st.val 0 0x1F))
    ∧ (used < 4 → s.poisonOf st.val + bad.length ≤ 1024 → ∃ u, exec (.rowRepair t st bank row gs) s = .next u
      ∧ u = { s.at t with mem := u.mem, flt := u.flt, counters := u.counters, tick := u.tick, obs := u.obs }
      ∧ u.mem.rows = s.mem.rows ++ [{ stack := st.val, bank := bank, row := row, hard := false }]
      ∧ u.mem.poison = s.mem.poison ++ bad ∧ (∀ a, u.memByte a = s.memByte a) ∧ u.mem.lgs = s.mem.lgs
      ∧ (∀ g ∈ gs, s.badCode g = false → u.errsAt g = []) ∧ (∀ g, g ∉ gs → u.errsAt g = s.errsAt g)
      ∧ bitsAt u.mem.status.toNat 24 3 = 0 ∧ bitsAt u.mem.status.toNat 27 3 = 7
      ∧ (kget Counter.zero u.counters (0x070418 + 0x20 * st.val)).live.toNat
          = min ((kget Counter.zero s.counters (0x070418 + 0x20 * st.val)).live.toNat + 1) 0xFFFFFFFF) := by
  intro used bad
  have hexec := exec_rowRepair t bank row hnone hup htime hnodup hgs
  refine ⟨fun hfull => ?_, fun hfree hlist => ?_, fun hfree hlist => ?_⟩
  · rw [hexec, if_pos hfull]
  · rw [hexec, if_neg (Nat.not_le.2 hfree), if_pos hlist]
  · rw [if_neg (Nat.not_le.2 hfree), if_neg (Nat.not_lt.2 hlist)] at hexec
    have hcount : kget Counter.zero ((s.at t).fault 7 0 st.val).counters (0x070418 + 0x20 * st.val)
        = kget Counter.zero s.counters (0x070418 + 0x20 * st.val) := State.inc_counter_other (by omega) 1 _
    have hcounted := State.redirectRow_counted st.val bank row gs bad ((s.at t).fault 7 0 st.val)
    rw [hcount] at hcounted
    have hfault : (s.at t).fault 7 0 st.val = { s.at t with flt := ((s.at t).fault 7 0 st.val).flt
                                                            counters := ((s.at t).fault 7 0 st.val).counters } := by
      obtain ⟨f, c, hf⟩ := State.fault_frame 7 0 st.val (s.at t)
      rw [hf]
    have hbase : ((s.at t).fault 7 0 st.val).mem = s.mem := State.fault_mem 7 0 st.val (s.at t)
    generalize (s.at t).fault 7 0 st.val = b at hexec hcounted hfault hbase
    have hm := State.redirectRow_mem st.val bank row gs bad b
    have hbyte (a : Nat) : b.memByte a = s.memByte a :=
      State.memByte_congr (congrArg DevMem.bytes hbase) (congrArg DevMem.wrong hbase) (congrArg DevMem.lgs hbase) a
    have herrs (g : Nat) : b.errsAt g = s.errsAt g := congrArg (fun m : DevMem => (kfind? m.wrong g).getD []) hbase
    have hcode (g : Nat) : b.badCode g = s.badCode g := by
      unfold State.badCode State.codeAt State.lgAt State.lg
      rw [herrs, hbase]
    obtain ⟨hresult, haction, -⟩ := repairWord_fields 7 0 st.val 0 0x1F
    refine ⟨_, hexec, ?_, ?_, ?_, fun a => (State.redirectRow_memByte ..).trans (hbyte a), ?_, fun g hg hgood => ?_, fun g hg => ?_,
      ?_, ?_, hcounted⟩
    · rw [State.redirectRow_frame, hfault]
    · rw [hm, hbase]
    · rw [hm, hbase]
    · rw [hm, ← hbase]
      rfl
    · exact (State.redirectRow_errsAt ..).trans (if_pos ⟨hg, (hcode g).trans hgood⟩)
    · exact (State.redirectRow_errsAt ..).trans ((if_neg fun hin => hg hin.1).trans (herrs g))
    · rw [hm]
      exact hresult
    · rw [hm]
      exact haction

/-- R357: what a scrub of a stack leaves, once its reports are made. -/
theorem State.scrub_mends {i : Nat} (hi : i < 32) (z : State) :
    ∃ u, (z.scrubBad i).foldl (fun (s : State) (g : Nat) => s.scrubReport g) (z.scrubbedStack i) = u
      ∧ u = { z with mem := u.mem, flt := u.flt, counters := u.counters }
      ∧ (∀ a, u.memByte a = z.memByte a) ∧ u.mem.poison = z.mem.poison
      ∧ (∀ g ∈ z.scrubFixed i, u.errsAt g = []) ∧ (∀ g, g ∉ z.scrubFixed i → u.errsAt g = z.errsAt g)
      ∧ (∀ g, g ∈ u.flt.reported ↔ g ∈ z.flt.reported ∨ g ∈ z.scrubBad i)
      ∧ (kget Counter.zero u.counters (scrubCtr i)).live.toNat
          = min ((kget Counter.zero z.counters (scrubCtr i)).live.toNat + (z.scrubFixed i).length) 0xFFFFFFFF := by
  obtain ⟨f, hf, hreported⟩ := State.foldl_scrubReport (z.scrubBad i) (z.scrubbedStack i)
  obtain ⟨hframe, hpoison⟩ := State.scrubbedStack_frame i z
  have herrs := State.scrubbedStack_errsAt i z
  have hbyte := State.scrubbedStack_memByte i z
  have hcounted := State.scrubbedStack_counted i z hi
  generalize z.scrubbedStack i = y at hf hreported hframe hpoison herrs hbyte hcounted
  refine ⟨_, hf, ?_, hbyte, hpoison, fun g hg => (herrs g).trans (if_pos hg), fun g hg => (herrs g).trans (if_neg hg), fun g => ?_,
    hcounted⟩
  · rw [hframe]
  · rw [hreported, hframe]

/-- R340: the scrub of a row of a deck store. -/
theorem deckPatrolScrub_poisons (t : Nat) (p : Fin 132) (row : Fin 64) (good bad : List Nat) (s : State)
    (hbad : ∀ g ∈ bad, g < 131072 ∧ g / 2048 = row.val) :
    ∃ z : State, z = { s.at t with spans := z.spans } ∧ (∀ k, k ≠ p.val → z.span k = s.span k)
      ∧ z.span p.val = { s.span p.val with poison := (z.span p.val).poison, counters := (z.span p.val).counters }
      ∧ (∀ g, g ∈ (z.span p.val).poison ↔ g ∈ (s.span p.val).poison ∨ g ∈ bad)
      ∧ (bad = [] ∨ (s.mapEntry p.val).logical = none → exec (.deckPatrolScrub p t row good bad) s = .next z)
      ∧ ∀ l, (s.mapEntry p.val).logical = some l → bad ≠ [] →
        exec (.deckPatrolScrub p t row good bad) s = .next (z.dataFault l p.val 0) := by
  have hmem := mem_patrolRow hbad
  have hexec := exec_deckPatrolScrub t p row good bad s
  have hspan : ((s.at t).modSpan p.val (Span.patrolled (patrolRow row.val good).length (patrolRow row.val bad))).span p.val
      = (s.span p.val).patrolled (patrolRow row.val good).length (patrolRow row.val bad) := State.span_modSpan_same _ _ _
  refine ⟨(s.at t).modSpan p.val (Span.patrolled (patrolRow row.val good).length (patrolRow row.val bad)), rfl,
    fun k hk => State.span_modSpan_other hk _ _, ?_, fun g => ?_, fun hnone => hexec.trans ?_,
    fun l hl hne => hexec.trans ?_⟩
  · rw [hspan]
    exact Span.patrolled_frame _ _ _
  · rw [hspan, Span.mem_patrolled_poison, hmem]
  · rcases hnone with rfl | hfree
    · rfl
    · rw [hfree]
      cases patrolRow row.val bad <;> rfl
  · rw [hl]
    cases hrow : patrolRow row.val bad with
    | nil =>
      obtain ⟨g, hg⟩ := List.exists_mem_of_ne_nil _ hne
      exact absurd ((hmem g).2 hg) (by rw [hrow]; exact List.not_mem_nil)
    | cons => rfl

/-- Settles O45: the write of MEM_SPARE_CTRL by its ACTION, and each repair and scrub by the state in which it ends. It holds through
the model's choices of log entry 31. -/
theorem repairsAreRequestedAndMade : Obligations.RepairsAreRequestedAndMade := by
  unfold Obligations.RepairsAreRequestedAndMade
  refine ⟨spareCommand_requests, hardRepair_ends, rowRepair_redirects, fun t st errs s => ?_, deckPatrolScrub_poisons⟩
  refine ⟨exec_memScrub_down t st errs s, fun hup => ?_⟩
  obtain ⟨u, hu, hrest⟩ := State.scrub_mends st.isLt ((s.at t).upset errs)
  exact ⟨u, (exec_memScrub_up t st errs s hup).trans (congrArg Host.Outcome.next hu), hrest⟩

end Sys2Proof.Machine
end

section
/-! PROOFS. Remote writes and reads, pulls and acknowledgements of writes (spec/14_viaduct.md, R471 to R480). -/

namespace Sys2Proof.Machine
open Sys2Proof

/-! ### Bytes of granules -/

theorem bitsAt_bytesToNat (l : List Byte) (j : Nat) : bitsAt (bytesToNat l) (8 * j) 8 = (l.getD j 0#8).toNat := by
  induction l generalizing j with
  | nil => simp [bitsAt, bytesToNat]
  | cons b r ih =>
    have hb := b.isLt
    cases j with
    | zero =>
      show (b.toNat + 256 * bytesToNat r) % 256 = b.toNat
      omega
    | succ j =>
      rw [List.getD_cons_succ, ← ih j]
      unfold bitsAt
      rw [Nat.shiftRight_eq_div_pow, Nat.shiftRight_eq_div_pow, show 2 ^ (8 * (j + 1)) = 256 * 2 ^ (8 * j) by ring,
        ← Nat.div_div_eq_div_mul, show bytesToNat (b :: r) / 256 = bytesToNat r by rw [bytesToNat]; omega]

theorem byteSlice_getD (bs : List Byte) (off : Nat) {n j : Nat} (h : j < n) : (byteSlice bs off n).getD j 0#8 = bs.getD (off + j) 0#8 := by
  unfold byteSlice
  by_cases hin : off + j < bs.length
  · rw [List.getD_append _ _ _ _ (by simp; omega)]
    simp [List.getD_eq_getElem?_getD, h]
  · rw [List.getD_append_right _ _ _ _ (by simp; omega), List.getD_eq_default bs _ (by omega)]
    simp only [List.getD_eq_getElem?_getD, List.getElem?_replicate]
    split <;> rfl

/-- A granule spelled from 32 bytes of a byte string reads as those bytes. -/
theorem bitsAt_leAt (bs : List Byte) (off : Nat) {j : Nat} (h : j < 32) :
    bitsAt (BitVec.ofNat 256 (leAt bs off 32)).toNat (8 * j) 8 = (bs.getD (off + j) 0#8).toNat := by
  have hlt := bytesToNat_lt (byteSlice bs off 32)
  rw [byteSlice_length] at hlt
  unfold leAt
  rw [BitVec.toNat_ofNat, Nat.mod_eq_of_lt (by simpa using hlt), bitsAt_bytesToNat, byteSlice_getD bs off h]

theorem payloadBytes_length (gs : List (BitVec 256)) : (payloadBytes gs).length = 32 * gs.length := by
  unfold payloadBytes
  induction gs with
  | nil => rfl
  | cons g gs ih =>
    rw [List.flatMap_cons, List.length_append, natToBytes_length, ih, List.length_cons]
    omega

/-! ### Landings and the state in which a packet acts -/

section
variable (t : Nat) (p : Pkt) (s : State)

theorem State.arrived_withinLanding (g : Landing) (off n : Nat) : (s.arrived t p).withinLanding g off n = s.withinLanding g off n := by
  obtain ⟨c, v, o, h⟩ := State.arrived_eq t p s
  rw [h]; rfl

theorem State.arrived_landOff (base i : Nat) : (s.arrived t p).landOff base i = s.landOff base i := by
  obtain ⟨c, v, o, h⟩ := State.arrived_eq t p s
  rw [h]; rfl

theorem State.arrived_tick : (s.arrived t p).tick = s.tick := by
  obtain ⟨c, v, o, h⟩ := State.arrived_eq t p s
  rw [h]; rfl

theorem State.arrived_binding : (s.arrived t p).binding = s.binding := by
  obtain ⟨c, v, o, h⟩ := State.arrived_eq t p s
  rw [h]; rfl

theorem State.arrived_span (q : Nat) : (s.arrived t p).span q = s.span q := by
  obtain ⟨c, v, o, h⟩ := State.arrived_eq t p s
  rw [h]; rfl

theorem State.arrived_ext : (s.arrived t p).via.ext = s.via.ext := by
  obtain ⟨c, v, o, h⟩ := State.arrived_eq t p s
  rw [h]

theorem State.arrived_inRemoteWindow (l first n : Nat) : (s.arrived t p).inRemoteWindow l first n = s.inRemoteWindow l first n := by
  obtain ⟨c, v, o, h⟩ := State.arrived_eq t p s
  rw [h]; rfl

theorem State.arrived_phys? (l : Nat) : (s.arrived t p).phys? l = s.phys? l :=
  State.phys?_of_binding (State.arrived_binding t p s) l

end

/-! ### Writes asked of a deck store from outside the module (R472, R474, R478) -/

theorem State.askPuts_bound {l q : Nat} {ws : List DeckPut} {s : State} (hactive : s.tick.active = true) (hq : s.phys? l = some q) :
    s.askPuts l ws = s.modSpan q (fun x => { x with puts := x.puts ++ ws }) := by
  unfold State.askPuts
  rw [hactive, hq]
  rfl

theorem State.askPuts_asked {l q g c cyc : Nat} {feed : Bool} {ack : Option (Nat × Nat)} {gs : List (BitVec 256)} {s : State}
    (hactive : s.tick.active = true) (hq : s.phys? l = some q) :
    let z := s.askPuts l (gs.zipIdx.map (fun e =>
      { DeckPut.clean cyc .stream 128 (g + e.2) e.1 (if feed then .ctr c 1 else .nothing) with ack := ack }))
    z = { s with spans := z.spans } ∧ GranulesAsked q g c cyc feed ack gs s z := by
  dsimp only
  rw [State.askPuts_bound hactive hq]
  exact ⟨rfl, fun k hk => State.span_modSpan_other hk _ _, State.span_modSpan_same _ _ _⟩

theorem GranulesAsked.of_spans {q g c cyc : Nat} {feed : Bool} {ack : Option (Nat × Nat)} {gs : List (BitVec 256)} {s u z w : State}
    (h : GranulesAsked q g c cyc feed ack gs u z) (hs : ∀ k, u.span k = s.span k) (hz : ∀ k, w.span k = z.span k) :
    GranulesAsked q g c cyc feed ack gs s w :=
  ⟨fun k hk => (hz k).trans ((h.others k hk).trans (hs k)), by rw [hz, h.asked, hs]⟩

/-! ### Acknowledgements of WRITEs in a deck store (R474) -/

theorem State.sendAcks_one {w : DeckPut} {k : Nat × Nat} (hw : w.ack = some k) (q : Nat) (s : State) : s.sendAcks q [w]
    = if (s.span q).puts.any (fun v => decide (v.ack = some k)) = true then s else s.sendTo 0x11 3 k.1 k.2 [] := by
  unfold State.sendAcks
  have hone : ([w].filterMap (·.ack)).eraseDups = [k] := by
    rw [List.filterMap_cons_some hw]
    rfl
  rw [hone]
  cases hany : (s.span q).puts.any (fun v => decide (v.ack = some k)) <;> simp [List.filter, hany]

/-! ### READ (R474) -/

theorem exec_read {t : Nat} {p : Pkt} {s : State} (h : Arrives p s) : exec (.read t p) s = .next (
    match kfind? s.landings (argLid p) with
    | none => (s.arrived t p).inc 0x090200 1
    | some g =>
      if !g.read || decide (g.kind ≠ LandKind.memory ∨ argGranules p = 0 ∨ 128 < argGranules p)
          || !s.withinLanding g (argOff p) (32 * argGranules p) then (s.arrived t p).inc 0x090200 1
      else ((s.arrived t p).readLanding g.base (argOff p) (argGranules p)).2.sendTo 0x13 2 p.src.toNat p.arg.toNat
        ((s.arrived t p).readLanding g.base (argOff p) (argGranules p)).1) := by
  refine (State.onPacket_arrives _ h).trans (congrArg Host.Outcome.next ?_)
  rw [State.arrived_landings]
  cases hg : kfind? s.landings (argLid p) with
  | none => rfl
  | some g =>
    dsimp only
    rw [State.arrived_withinLanding]

/-- A landing that is read gives its granules, each byte that memory holds and that is a value as it stands. -/
theorem State.readLanding_spec (base off n : Nat) (s : State) : let r := s.readLanding base off n
    r.1.length = n ∧ (∃ z, MemCounted s z ∧ r.2 = { z with fresh := r.2.fresh })
      ∧ ∀ i j, i < n → j < 32 → s.poisoned (s.landOff base (off + 32 * i + j)) = false →
        inDevice (s.landOff base (off + 32 * i + j)) = false →
        bitsAt (r.1.getD i 0).toNat (8 * j) 8 = (s.memByte (s.landOff base (off + 32 * i + j))).toNat := by
  obtain ⟨-, hbytes, hframe⟩ := State.readBytes_spec ((List.range (32 * n)).map (fun i => s.landOff base (off + i))) s
  refine ⟨by simp [State.readLanding], hframe, fun i j hi hj hpoison hdevice => ?_⟩
  have hoff : ((List.range (32 * n)).map (fun i => s.landOff base (off + i)))[32 * i + j]?
      = some (s.landOff base (off + 32 * i + j)) := by
    rw [List.getElem?_map, List.getElem?_range (by omega), Option.map_some, Nat.add_assoc]
  have hbyte := hbytes _ _ hoff hpoison hdevice
  have hgranule : (s.readLanding base off n).1.getD i 0
      = BitVec.ofNat 256 (leAt (s.readBytes ((List.range (32 * n)).map (fun i => s.landOff base (off + i)))).1 (32 * i) 32) := by
    simp [State.readLanding, List.getD_eq_getElem?_getD, hi]
  rw [hgranule, bitsAt_leAt _ _ hj, hbyte]

/-! ### WRITE (R471 to R475) -/

/-- SEG: the plain bytes that a WRITE lands and those that it brought are counted (R475). -/
def State.countSegs (p : Pkt) (s : State) : State :=
  if argSeg p then (s.incBytes 0x090210 (32 * (Machine.landed p).length)).incBytes 0x090214 (32 * p.payload.length) else s

theorem State.countSegs_frame (p : Pkt) (s : State) : s.countSegs p = { s with counters := (s.countSegs p).counters } := by
  unfold State.countSegs
  split
  · obtain ⟨c, hc⟩ := State.incBytes_counters 0x090210 (32 * (Machine.landed p).length) s
    obtain ⟨c', hc'⟩ := State.incBytes_counters 0x090214 (32 * p.payload.length) { s with counters := c }
    rw [hc, hc']
  · rfl

theorem State.countSegs_memByte (p : Pkt) (s : State) (a : Nat) : (s.countSegs p).memByte a = s.memByte a := by
  rw [State.countSegs_frame]
  rfl

theorem State.memWrite_countSegs_frame (p : Pkt) (l : List (Nat × Byte)) (s : State) : let z := (s.memWrite l).countSegs p
    z = { s with counters := z.counters, mem := z.mem } := by
  have hcount := State.countSegs_frame p (s.memWrite l)
  have hrest := State.memWrite_rest l s
  dsimp only
  generalize s.memWrite l = u at hcount hrest ⊢
  generalize u.countSegs p = z at hcount ⊢
  rw [hcount, hrest]

theorem State.countSegs_plain {p : Pkt} (h : argSeg p = false) (s : State) : s.countSegs p = s := by
  unfold State.countSegs
  rw [h]
  rfl

/-- A WRITE that passes its check, landed and counted. -/
def State.landWrite (p : Pkt) (g : Landing) (s : State) : State :=
  (s.land (argLid p) (argOff p) (argCtr p) (argFeed p) (p.src.toNat, writeArg (argLid p) (argOff p)) (Machine.landed p) g).countSegs p

/-- Whether a deck store acknowledges a WRITE once it has landed there. -/
def State.deckLands (p : Pkt) (g : Landing) (s : State) : Bool :=
  decide (g.kind = LandKind.deck) && s.tick.active && (s.phys? g.base).isSome && !(Machine.landed p).isEmpty

theorem State.deckLands_iff (p : Pkt) (g : Landing) (s : State) : s.deckLands p g = true
    ↔ g.kind = .deck ∧ s.tick.active = true ∧ s.phys? g.base ≠ none ∧ Machine.landed p ≠ [] := by
  unfold State.deckLands
  simp only [Bool.and_eq_true, decide_eq_true_iff, Bool.not_eq_true', Option.isSome_iff_ne_none, List.isEmpty_eq_false_iff, and_assoc]

theorem exec_write {t : Nat} {p : Pkt} {s : State} (h : Arrives p s) : exec (.write t p) s = .next (
    match kfind? s.landings (argLid p) with
    | none => (s.arrived t p).inc 0x090200 1
    | some g =>
      if !g.write || !s.withinLanding g (argOff p) (32 * (Machine.landed p).length) then (s.arrived t p).inc 0x090200 1
      else if (s.arrived t p).deckLands p g then (s.arrived t p).landWrite p g
      else ((s.arrived t p).landWrite p g).sendTo 0x11 3 p.src.toNat (writeArg (argLid p) (argOff p)) []) := by
  refine (State.onPacket_arrives _ h).trans (congrArg Host.Outcome.next ?_)
  dsimp only
  rw [State.arrived_landings]
  cases hg : kfind? s.landings (argLid p) with
  | none => rfl
  | some g =>
    dsimp only
    rw [State.arrived_withinLanding]
    rfl

section
variable {p : Pkt} {g : Landing} {s : State}

/-- The granules of a WRITE counted at its landing. -/
def State.noteLanded (p : Pkt) (s : State) : State :=
  { s with landings := kupd s.landings (argLid p) (fun g => { g with wrote := g.wrote + (Machine.landed p).length }) }

theorem State.noteLanded_eq (hg : kfind? s.landings (argLid p) = some g) : s.noteLanded p
    = { s with landings := kins s.landings (argLid p) { g with wrote := g.wrote + (Machine.landed p).length } } := by
  unfold State.noteLanded
  rw [kupd_of_find hg]

theorem State.landWrite_memory (hk : g.kind = .memory) : s.landWrite p g = ((s.noteLanded p).memWrite
    ((payloadBytes (Machine.landed p)).zipIdx.map (fun e => (s.landOff g.base (argOff p + e.2), e.1)))).countSegs p := by
  unfold State.landWrite State.land
  rw [hk]
  rfl

theorem State.landWrite_entry (hk : g.kind = .entry) (hplain : argSeg p = false) : s.landWrite p g
    = (s.noteLanded p).entryWrite (s.entry g.base) (argOff p) (payloadBytes (Machine.landed p)) := by
  unfold State.landWrite State.land
  rw [State.countSegs_plain hplain, hk]
  rfl

theorem State.landWrite_handover (hk : g.kind = .handover) (hplain : argSeg p = false) : s.landWrite p g
    = (s.noteLanded p).landPages (argLid p) g.base (argOff p) (payloadBytes (Machine.landed p)) := by
  unfold State.landWrite State.land
  rw [State.countSegs_plain hplain, hk]
  rfl

theorem State.landWrite_deck (hk : g.kind = .deck) : s.landWrite p g = ((s.noteLanded p).askPuts g.base
    ((Machine.landed p).zipIdx.map (fun e =>
      { DeckPut.clean s.cycNow .stream 128 (g.first + argOff p / 32 + e.2) e.1 (if argFeed p then .ctr (argCtr p) 1 else .nothing) with
        ack := some (p.src.toNat, writeArg (argLid p) (argOff p)) }))).countSegs p := by
  unfold State.landWrite State.land
  rw [hk]
  rfl

end

/-- A byte string written at places of its own: each byte that no other of it is written over reads as it was sent. -/
theorem State.memWrite_placed (place : Nat → Nat) (bs : List Byte) (s : State) {i : Nat} (hi : i < bs.length)
    (honly : ∀ j, j < bs.length → place j = place i → j = i) (hvalue : s.poisoned (place i) = false) :
    (s.memWrite (bs.zipIdx.map (fun e => (place e.2, e.1)))).memByte (place i) = bs.getD i 0#8 := by
  have hlen : i < (bs.zipIdx.map (fun e => (place e.2, e.1))).length := by simpa using hi
  have hsplit : bs.zipIdx.map (fun e => (place e.2, e.1)) = (bs.zipIdx.map (fun e => (place e.2, e.1))).take i
      ++ (place i, bs.getD i 0#8) :: (bs.zipIdx.map (fun e => (place e.2, e.1))).drop (i + 1) := by
    have hat : (bs.zipIdx.map (fun e => (place e.2, e.1)))[i] = (place i, bs.getD i 0#8) := by
      simp [List.getD_eq_getElem?_getD, hi]
    rw [← hat, List.getElem_cons_drop, List.take_append_drop]
  unfold State.poisoned at hvalue
  rw [Bool.or_eq_false_iff] at hvalue
  obtain ⟨hcode, hstack⟩ := hvalue
  rw [hsplit]
  refine State.memWrite_same _ _ _ _ (fun e he heq => ?_) hstack (.inl hcode)
  obtain ⟨k, hk, rfl⟩ := List.mem_iff_getElem.1 he
  have hk' : i + 1 + k < bs.length := by
    simp only [List.length_drop, List.length_map, List.length_zipIdx] at hk
    omega
  have hj := honly (i + 1 + k) hk' (by simpa using heq)
  omega

/-! ### Pulls (R476, R478) -/

/-- The cycle at which a pull entry starts in its phase. -/
def State.pullCycle (i : Nat) (s : State) : Nat :=
  ((s.plan?.map (fun x => x.head.phaseS.getD ((s.remoteTarget i).phase - 1) 0)).getD 0) + (s.remoteTarget i).start

/-- Whether an entry sends no READs at a time. -/
def State.pullRests (t i : Nat) (s : State) : Bool :=
  !s.tick.active || !(s.remoteTarget i).valid || !(s.remoteTarget i).pull || decide (s.tick.phase ≠ (s.remoteTarget i).phase)
    || s.via.pulls.contains i || decide (max s.time t < s.cycTime (s.pullCycle i))

theorem State.pullRests_iff (t i : Nat) (s : State) : s.pullRests t i = true
    ↔ s.tick.active = false ∨ (s.remoteTarget i).valid = false ∨ (s.remoteTarget i).pull = false ∨ s.tick.phase ≠ (s.remoteTarget i).phase
      ∨ i ∈ s.via.pulls ∨ max s.time t < s.cycTime (s.pullCycle i) := by
  unfold State.pullRests
  simp only [Bool.or_eq_true, Bool.not_eq_true', decide_eq_true_iff, List.contains_iff_mem, or_assoc]

/-- The READs of a pull entry go out, once a run. -/
def State.sendPull (i : Nat) (s : State) : State :=
  (pullReads (s.remoteTarget i)).foldl (fun (z : State) (r : Nat × Nat) =>
    z.sendTo 0x12 1 (s.remoteTarget i).chip (writeArg (s.remoteTarget i).lid r.1 + fieldAt 56 8 r.2) [])
    { s with via := { s.via with pulls := i :: s.via.pulls } }

theorem exec_pullStart (t : Nat) (entry : Fin 256) (s : State) : exec (.pullStart t entry) s
    = .next (if s.pullRests t entry.val = true then s.at t else (s.at t).sendPull entry.val) :=
  (apply_ite Host.Outcome.next _ _ _).symm

theorem State.sendPull_sends (i : Nat) (s : State) :
    SendsOnly { s with via := { s.via with pulls := i :: s.via.pulls } } (s.sendPull i) :=
  SendsOnly.fold _ (fun z _ => SendsOnly.sendTo _ _ _ _ _ z) _ _

/-- Up to 128 granules are one READ. -/
theorem pullReads_one {e : RemoteTarget} (h0 : 0 < e.granules) (h : e.granules ≤ 128) : pullReads e = [(e.roff, e.granules)] := by
  have hone : cdiv e.granules 128 = 1 := by
    unfold cdiv
    omega
  unfold pullReads
  rw [hone, show List.range 1 = [0] from rfl, List.map_singleton]
  exact congrArg (fun n => [(e.roff, n)]) (Nat.min_eq_right h)

theorem exec_rdata {t : Nat} {p : Pkt} {s : State} (h : Arrives p s) : exec (.rdata t p) s = .next (
    match (s.arrived t p).pullOf p with
    | none => (s.arrived t p).inc 0x090200 1
    | some (_, e) =>
      if !s.tick.active || !s.inRemoteWindow e.lspan (e.granule + (argOff p - e.roff) / 32) p.payload.length then
        (s.arrived t p).inc 0x090200 1
      else (s.arrived t p).askPuts e.lspan (p.payload.zipIdx.map (fun x =>
        { DeckPut.clean (s.arrived t p).cycNow .stream 128 (e.granule + (argOff p - e.roff) / 32 + x.2) x.1
          (if e.feed then .ctr e.ctr 1 else .nothing) with ack := none }))) := by
  refine (State.onPacket_arrives _ h).trans (congrArg Host.Outcome.next ?_)
  dsimp only
  cases hpull : (s.arrived t p).pullOf p with
  | none => rfl
  | some e =>
    obtain ⟨i, e⟩ := e
    dsimp only
    rw [State.arrived_tick, State.arrived_inRemoteWindow]
    rfl

/-! ### What takes a WACK (R290, R477, R479, R480) -/

theorem exec_wack {t : Nat} {p : Pkt} {s : State} (h : Arrives p s) : exec (.wack t p) s = .next
    ((((s.arrived t p).remoteAck (argLid p) (argOff p)).hoWack p.src.toNat (argLid p)).extWack p.src.toNat (argLid p) (argOff p)) :=
  State.onPacket_arrives _ h

theorem State.remoteAck_none {s : State} (h : s.binding = []) (lid off : Nat) : s.remoteAck lid off = s := by
  unfold State.remoteAck
  rw [h]
  rfl

theorem State.remoteAck_stream {s : State} {l q slot lid off n : Nat} {v : Stream} (hbind : s.binding = [(l, q)])
    (hstreams : (s.span q).streams = [(slot, v)]) (hremote : v.remote = [(lid, off, n)]) :
    s.remoteAck lid off = s.ackStream s.cycNow l q slot n { v with remote := [] } := by
  have hany : v.remote.any (fun r => decide (r.1 = lid ∧ r.2.1 = off)) = true := by simp [hremote]
  unfold State.remoteAck
  simp only [hbind, List.findSome?_cons, hstreams, List.find?_cons, hany, Option.map_some]
  simp [hremote]

theorem State.ctrAdd_frame (cyc l c n : Nat) (s : State) : ∃ x, s.ctrAdd cyc l c n = { s with spans := x } := by
  unfold State.ctrAdd
  split
  · exact ⟨s.spans, rfl⟩
  · split
    · exact ⟨s.spans, rfl⟩
    · exact ⟨_, rfl⟩

/-- An acknowledgement of a stream changes its span alone. -/
theorem State.ackStream_frame (cyc l q slot n : Nat) (v : Stream) (s : State) :
    ∃ x, s.ackStream cyc l q slot n v = { s with spans := x } := State.ctrAdd_frame cyc l v.sctr _ (s.modSpan q _)

theorem State.hoWack_none {s : State} (h : ∀ e ∈ s.requests, e.2.ho = none) (src lid : Nat) : s.hoWack src lid = s := by
  unfold State.hoWack
  dsimp only
  rw [List.filterMap_eq_nil_iff.2]
  · rfl
  · intro e he
    rw [h e he]

theorem State.hoWack_one {s : State} {h : Nat} {q : Request} {x : HoInfo} (hreq : s.requests = [(h, q)]) (hho : q.ho = some x)
    (hstep : x.step = .sending) : s.hoWack x.dest x.landing
    = if cdiv (pagesFor q.pageLog2 q.committed * s.pageSetBytes q.pageLog2) 4096 ≤ x.acked + 1 then
        (s.modHo h (fun x => { x with acked := x.acked + 1 })).sendCommit h x
      else s.modHo h (fun x => { x with acked := x.acked + 1 }) := by
  unfold State.hoWack
  simp only [hreq, List.filterMap_cons, List.filterMap_nil, hho, hstep, and_self, if_true, List.head?_cons]

theorem State.modHo_one {s : State} {h : Nat} {q : Request} {x : HoInfo} (hreq : s.requests = [(h, q)]) (hho : q.ho = some x)
    (f : HoInfo → HoInfo) : s.modHo h f = { s with requests := [(h, { q with ho := some (f x) })] } := by
  rw [State.modHo_eq (q := q) (by simp [hreq, kfind?]) hho, hreq]
  simp [kins, kput]

theorem State.extWack_none {s : State} (h : s.via.ext = none) (src lid off : Nat) : s.extWack src lid off = s := by
  unfold State.extWack
  rw [h]

theorem State.extWack_other {s : State} {f : ExtFlow} {src lid : Nat} (h : s.via.ext = some f) (hno : f.chip ≠ src ∨ f.lid ≠ lid)
    (off : Nat) : s.extWack src lid off = s := by
  unfold State.extWack
  rw [h]
  exact if_pos hno

theorem State.extWack_extent {s : State} {f : ExtFlow} {off : Nat} {x : Nat × Nat} (h : s.via.ext = some f)
    (hx : ((s.entry f.entry).extents.drop f.first).find? (fun x => decide (x.1 ≤ off ∧ off < x.1 + 32 * x.2)) = some x) :
    s.extWack f.chip f.lid off =
      let n := min 128 ((x.1 + 32 * x.2 - off) / 32)
      { s with via := { s.via with ext := if f.granulesLeft ≤ n then none else some { f with granulesLeft := f.granulesLeft - n } } } := by
  unfold State.extWack
  rw [h]
  dsimp only
  rw [if_neg (by simp), hx]

/-! ### The statement -/

/-- R474: a READ that passes its check is answered with the granules asked. -/
theorem read_answers {t : Nat} {p : Pkt} {s : State} (h : Arrives p s) {g : Landing} (hg : kfind? s.landings (argLid p) = some g)
    (hread : g.read = true) (hk : g.kind = .memory) (h0 : argGranules p ≠ 0) (hmost : argGranules p ≤ 128)
    (hin : argOff p + 32 * argGranules p ≤ g.len) : ∃ (z : State) (rs : List (BitVec 256)),
      exec (.read t p) s = .next (z.sendTo 0x13 2 p.src.toNat p.arg.toNat rs)
      ∧ rs.length = argGranules p ∧ (∀ a, z.memByte a = s.memByte a)
      ∧ z = { s.arrived t p with counters := z.counters, fresh := z.fresh, mem := { s.mem with lgs := z.mem.lgs } }
      ∧ ∀ i j, i < argGranules p → j < 32 → s.poisoned (s.landOff g.base (argOff p + 32 * i + j)) = false →
        inDevice (s.landOff g.base (argOff p + 32 * i + j)) = false →
        bitsAt (rs.getD i 0).toNat (8 * j) 8 = (s.memByte (s.landOff g.base (argOff p + 32 * i + j))).toNat := by
  have hwithin : s.withinLanding g (argOff p) (32 * argGranules p) = true := by
    unfold State.withinLanding
    rw [hk]
    exact decide_eq_true hin
  have hexec := exec_read (t := t) h
  rw [hg] at hexec
  dsimp only at hexec
  rw [hread, hwithin, decide_eq_false (by simp [hk, h0, hmost])] at hexec
  obtain ⟨hlen, ⟨u, hu, hfresh⟩, hbytes⟩ := State.readLanding_spec g.base (argOff p) (argGranules p) (s.arrived t p)
  simp only [State.arrived_landOff, State.arrived_poisoned, State.arrived_memByte] at hbytes
  refine ⟨_, _, hexec, hlen, fun a => ?_, ?_, hbytes⟩
  · rw [hfresh]
    exact (hu.memByte a).trans (State.arrived_memByte t p s a)
  · rw [hfresh, ← State.arrived_mem t p s]
    have hframe := hu.frame
    generalize ((s.arrived t p).readLanding g.base (argOff p) (argGranules p)).2.fresh = k
    rw [hframe]

/-- R471 to R475: a WRITE that passes its check, by the kind of its landing. -/
theorem write_lands {t : Nat} {p : Pkt} {s : State} (h : Arrives p s) {g : Landing} (hg : kfind? s.landings (argLid p) = some g)
    (hwrite : g.write = true) (hin : s.withinLanding g (argOff p) (32 * (landed p).length) = true) :
    let w : State := { s.arrived t p with
      landings := kins s.landings (argLid p) { g with wrote := g.wrote + (landed p).length } }
    let z := (s.arrived t p).landWrite p g
    (g.kind ≠ .deck ∨ landed p = [] ∨ s.tick.active = false ∨ s.phys? g.base = none →
        exec (.write t p) s = .next (z.sendTo 0x11 3 p.src.toNat (writeArg (argLid p) (argOff p)) []))
      ∧ (g.kind = .memory → z = { w with counters := z.counters, mem := z.mem }
        ∧ (∀ a, (∀ i, i < 32 * (landed p).length → s.landOff g.base (argOff p + i) ≠ a) → z.memByte a = s.memByte a)
        ∧ ∀ i, i < 32 * (landed p).length →
          (∀ j, j < 32 * (landed p).length → s.landOff g.base (argOff p + j) = s.landOff g.base (argOff p + i) → j = i) →
          s.poisoned (s.landOff g.base (argOff p + i)) = false →
          z.memByte (s.landOff g.base (argOff p + i)) = (payloadBytes (landed p)).getD i 0#8)
      ∧ (g.kind = .entry → argSeg p = false → z = w.entryWrite (s.entry g.base) (argOff p) (payloadBytes (landed p)))
      ∧ (g.kind = .handover → argSeg p = false → z = w.landPages (argLid p) g.base (argOff p) (payloadBytes (landed p)))
      ∧ ∀ q, g.kind = .deck → landed p ≠ [] → s.tick.active = true → s.phys? g.base = some q →
        exec (.write t p) s = .next z ∧ z = { w with counters := z.counters, spans := z.spans }
          ∧ GranulesAsked q (g.first + argOff p / 32) (argCtr p) (s.arrived t p).cycNow (argFeed p)
              (some (p.src.toNat, writeArg (argLid p) (argOff p))) (landed p) s z := by
  intro w z
  have hnote : (s.arrived t p).noteLanded p = w := by
    rw [State.noteLanded_eq ((congrArg (kfind? · (argLid p)) (State.arrived_landings t p s)).trans hg), State.arrived_landings]
  have hdeck := State.deckLands_iff p g (s.arrived t p)
  rw [State.arrived_tick, State.arrived_phys?] at hdeck
  have hexec := exec_write (t := t) h
  rw [hg] at hexec
  dsimp only at hexec
  rw [hwrite, hin, if_neg (by decide)] at hexec
  refine ⟨fun hno => ?_, fun hk => ?_, fun hk hplain => ?_, fun hk hplain => ?_, fun q hk hne hactive hq => ?_⟩
  · rw [hexec, if_neg]
    rw [hdeck]
    rintro ⟨hk, hactive, hbound, hne⟩
    rcases hno with hno | hno | hno | hno
    · exact hno hk
    · exact hne hno
    · rw [hactive] at hno
      exact Bool.noConfusion hno
    · exact hbound hno
  · have hz : z = _ := State.landWrite_memory (s := s.arrived t p) hk
    simp only [State.arrived_landOff] at hz
    rw [hnote] at hz
    rw [hz]
    refine ⟨State.memWrite_countSegs_frame _ _ _, fun a ha => ?_, fun i hi honly hvalue => ?_⟩
    · rw [State.countSegs_memByte, State.memWrite_other]
      · exact State.arrived_memByte t p s a
      · intro e he
        obtain ⟨b, hb, rfl⟩ := List.mem_map.1 he
        exact ha b.2 ((payloadBytes_length _).symm ▸ List.snd_lt_of_mem_zipIdx hb)
    · rw [← payloadBytes_length] at hi honly
      rw [State.countSegs_memByte]
      exact State.memWrite_placed (fun i => s.landOff g.base (argOff p + i)) _ w hi honly
        ((State.arrived_poisoned t p s _).trans hvalue)
  · rw [← hnote, ← State.arrived_entry t p s]
    exact State.landWrite_entry hk hplain
  · rw [← hnote]
    exact State.landWrite_handover hk hplain
  · rw [if_pos (hdeck.2 ⟨hk, hactive, by rw [hq]; exact Option.some_ne_none q, hne⟩)] at hexec
    have hz : z = _ := State.landWrite_deck (s := s.arrived t p) hk
    rw [hnote] at hz
    have hwactive : w.tick.active = true := (congrArg Tick.active (State.arrived_tick t p s)).trans hactive
    have hwq : w.phys? g.base = some q := (State.arrived_phys? t p s _).trans hq
    obtain ⟨hframe, hasked⟩ := State.askPuts_asked (g := g.first + argOff p / 32) (c := argCtr p) (cyc := (s.arrived t p).cycNow)
      (feed := argFeed p) (ack := some (p.src.toNat, writeArg (argLid p) (argOff p))) (gs := landed p) hwactive hwq
    rw [hz]
    refine ⟨hz ▸ hexec, ?_, hasked.of_spans (fun k => State.arrived_span t p s k) (fun k => ?_)⟩
    · rw [State.countSegs_frame, hframe]
    · rw [State.countSegs_frame]
      rfl

/-- A WRITE that fails its check is dropped and counted. -/
theorem write_drops {t : Nat} {p : Pkt} {s : State} (h : Arrives p s) {g : Landing} (hg : kfind? s.landings (argLid p) = some g)
    (hdrop : g.write = false ∨ s.withinLanding g (argOff p) (32 * (landed p).length) = false) :
    exec (.write t p) s = .next ((s.arrived t p).inc 0x090200 1) := by
  rw [exec_write h, hg]
  refine congrArg Host.Outcome.next (if_pos ?_)
  rcases hdrop with hdrop | hdrop <;> simp [hdrop]

/-- A READ that fails its check is dropped and counted. -/
theorem read_drops {t : Nat} {p : Pkt} {s : State} (h : Arrives p s) {g : Landing} (hg : kfind? s.landings (argLid p) = some g)
    (hdrop : g.read = false ∨ g.kind ≠ .memory ∨ argGranules p = 0 ∨ 128 < argGranules p
      ∨ g.len < argOff p + 32 * argGranules p) :
    exec (.read t p) s = .next ((s.arrived t p).inc 0x090200 1) := by
  rw [exec_read h, hg]
  refine congrArg Host.Outcome.next (if_pos ?_)
  by_cases hk : g.kind = .memory
  · have hwithin : s.withinLanding g (argOff p) (32 * argGranules p) = decide (argOff p + 32 * argGranules p ≤ g.len) := by
      unfold State.withinLanding
      rw [hk]
    rw [hwithin]
    rcases hdrop with hdrop | hdrop | hdrop | hdrop | hdrop
    · simp [hdrop]
    · exact absurd hk hdrop
    · simp [hdrop]
    · simp [hdrop]
    · simp [hdrop]
  · simp [hk]

/-- R476, R478: a pull entry in its phase, at its start cycle, sends its READs. -/
theorem pullStart_sends {t : Nat} {entry : Fin 256} {s : State} (hactive : s.tick.active = true)
    (hvalid : (s.remoteTarget entry.val).valid = true) (hpull : (s.remoteTarget entry.val).pull = true)
    (hphase : s.tick.phase = (s.remoteTarget entry.val).phase) (hnew : entry.val ∉ s.via.pulls)
    (hdue : s.cycTime (s.pullCycle entry.val) ≤ max s.time t) :
    exec (.pullStart t entry) s = .next ((s.at t).sendPull entry.val) := by
  rw [exec_pullStart, if_neg]
  intro hrest
  rcases (State.pullRests_iff t entry.val s).1 hrest with h | h | h | h | h | h
  · exact Bool.noConfusion (hactive.symm.trans h)
  · exact Bool.noConfusion (hvalid.symm.trans h)
  · exact Bool.noConfusion (hpull.symm.trans h)
  · exact h hphase
  · exact hnew h
  · exact Nat.not_le.2 h hdue

/-- RDATA that no pull entry of the run waits for is dropped and counted. -/
theorem rdata_drops {t : Nat} {p : Pkt} {s : State} (h : Arrives p s)
    (hdrop : (s.arrived t p).pullOf p = none ∨ s.tick.active = false) :
    exec (.rdata t p) s = .next ((s.arrived t p).inc 0x090200 1) := by
  rw [exec_rdata h]
  refine congrArg Host.Outcome.next ?_
  cases hpull : (s.arrived t p).pullOf p with
  | none => rfl
  | some e =>
    have hidle : s.tick.active = false := hdrop.resolve_left (by rw [hpull]; exact Option.some_ne_none e)
    exact if_pos (by simp [hidle])

/-- R478: RDATA of a pull entry, within an open remote window of its span, asks the deck store. -/
theorem rdata_asks {t : Nat} {p : Pkt} {s : State} (h : Arrives p s) {i q : Nat} {e : RemoteTarget}
    (hpull : (s.arrived t p).pullOf p = some (i, e)) (hactive : s.tick.active = true)
    (hin : s.inRemoteWindow e.lspan (e.granule + (argOff p - e.roff) / 32) p.payload.length = true) (hq : s.phys? e.lspan = some q) :
    ∃ z : State, exec (.rdata t p) s = .next z ∧ z = { s.arrived t p with spans := z.spans }
      ∧ GranulesAsked q (e.granule + (argOff p - e.roff) / 32) e.ctr (s.arrived t p).cycNow e.feed none p.payload s z := by
  have hexec := exec_rdata (t := t) h
  rw [hpull] at hexec
  dsimp only at hexec
  rw [hactive, hin, if_neg (by decide)] at hexec
  obtain ⟨hframe, hasked⟩ := State.askPuts_asked (g := e.granule + (argOff p - e.roff) / 32) (c := e.ctr)
    (cyc := (s.arrived t p).cycNow) (feed := e.feed) (ack := none) (gs := p.payload)
    ((congrArg Tick.active (State.arrived_tick t p s)).trans hactive) ((State.arrived_phys? t p s _).trans hq)
  exact ⟨_, hexec, hframe, hasked.of_spans (fun k => State.arrived_span t p s k) (fun _ => rfl)⟩

/-- R290, R477: a WACK is taken by the stream of a remote store that waits for it. -/
theorem wack_stream {t : Nat} {p : Pkt} {s : State} (h : Arrives p s) {l q slot n : Nat} {v : Stream} (hbind : s.binding = [(l, q)])
    (hstreams : (s.span q).streams = [(slot, v)]) (hremote : v.remote = [(argLid p, argOff p, n)])
    (hho : ∀ e ∈ s.requests, e.2.ho = none) (hext : s.via.ext = none) : exec (.wack t p) s
      = .next ((s.arrived t p).ackStream (s.arrived t p).cycNow l q slot n { v with remote := [] }) := by
  rw [exec_wack h, State.remoteAck_stream ((State.arrived_binding t p s).trans hbind)
    ((congrArg Span.streams (State.arrived_span t p s q)).trans hstreams) hremote]
  obtain ⟨x, hack⟩ := State.ackStream_frame (s.arrived t p).cycNow l q slot n { v with remote := [] } (s.arrived t p)
  rw [hack, State.hoWack_none (State.arrived_requests t p s ▸ hho), State.extWack_none]
  exact (State.arrived_ext t p s).trans hext

/-- R480: a WACK is taken by the extents of an install that this module serves. -/
theorem wack_install {t : Nat} {p : Pkt} {s : State} (h : Arrives p s) {f : ExtFlow} {x : Nat × Nat} (hbind : s.binding = [])
    (hho : ∀ e ∈ s.requests, e.2.ho = none) (hext : s.via.ext = some f) :
    (f.chip ≠ p.src.toNat ∨ f.lid ≠ argLid p → exec (.wack t p) s = .next (s.arrived t p))
    ∧ (f.chip = p.src.toNat → f.lid = argLid p →
      ((s.entry f.entry).extents.drop f.first).find? (fun x => decide (x.1 ≤ argOff p ∧ argOff p < x.1 + 32 * x.2)) = some x →
      let n := min 128 ((x.1 + 32 * x.2 - argOff p) / 32)
      let y := s.arrived t p
      (f.granulesLeft ≤ n → exec (.wack t p) s = .next { y with via := { y.via with ext := none } })
      ∧ (n < f.granulesLeft → exec (.wack t p) s
          = .next { y with via := { y.via with ext := some { f with granulesLeft := f.granulesLeft - n } } })) := by
  have hexec := exec_wack (t := t) h
  have hyext : (s.arrived t p).via.ext = some f := (State.arrived_ext t p s).trans hext
  rw [State.remoteAck_none ((State.arrived_binding t p s).trans hbind), State.hoWack_none (State.arrived_requests t p s ▸ hho)] at hexec
  refine ⟨fun hno => hexec.trans (congrArg Host.Outcome.next (State.extWack_other hyext hno _)), fun hchip hlid hx => ?_⟩
  rw [← State.arrived_entry t p s] at hx
  rw [← hchip, ← hlid, State.extWack_extent hyext hx] at hexec
  dsimp only at hexec
  refine ⟨fun hlast => ?_, fun hmore => ?_⟩
  · rw [hexec, if_pos hlast]
  · rw [hexec, if_neg (Nat.not_le.2 hmore)]

/-- R480: a WACK is taken by the page stream of a hand-over that waits for it. -/
theorem wack_handover {t : Nat} {p : Pkt} {s : State} (harr : Arrives p s) {h : Nat} {q : Request} {x : HoInfo} (hbind : s.binding = [])
    (hreq : s.requests = [(h, q)]) (hho : q.ho = some x) (hdest : x.dest = p.src.toNat) (hland : x.landing = argLid p)
    (hstep : x.step = .sending) (hext : s.via.ext = none) :
    let total := cdiv (pagesFor q.pageLog2 q.committed * s.pageSetBytes q.pageLog2) 4096
    let y := s.arrived t p
    (x.acked + 1 < total → exec (.wack t p) s = .next { y with requests := [(h, { q with ho := some { x with acked := x.acked + 1 } })] })
      ∧ (total ≤ x.acked + 1 → exec (.wack t p) s
        = .next (State.sendTo 0x22 1 x.dest (fieldAt 0 16 x.hoId + fieldAt 16 32 x.pages) []
            { y with requests := [(h, { q with ho := some { x with acked := x.acked + 1, step := .committed } })] })) := by
  intro total y
  have hyreq : y.requests = [(h, q)] := (State.arrived_requests t p s).trans hreq
  have hyext : y.via.ext = none := (State.arrived_ext t p s).trans hext
  have hwack := State.hoWack_one hyreq hho hstep
  rw [State.arrived_pageSetBytes, State.modHo_one hyreq hho] at hwack
  have hexec := exec_wack (t := t) harr
  rw [State.remoteAck_none ((State.arrived_binding t p s).trans hbind), ← hdest, ← hland, hwack] at hexec
  refine ⟨fun hlow => ?_, fun hlast => ?_⟩
  · rw [hexec, if_neg (Nat.not_le.2 hlow), State.extWack_none]
    exact hyext
  · rw [hexec, if_pos hlast, State.extWack_none]
    · unfold State.sendCommit
      rw [State.modHo_one (q := { q with ho := some { x with acked := x.acked + 1 } }) rfl rfl]
    · obtain ⟨c, v, o, hsend⟩ := SendsOnly.sendTo 0x22 1 x.dest (fieldAt 0 16 x.hoId + fieldAt 16 32 x.pages) []
        (State.modHo h (fun x => { x with step := .committed })
          { y with requests := [(h, { q with ho := some { x with acked := x.acked + 1 } })] })
      unfold State.sendCommit
      rw [hsend]
      exact hyext

/-- Settles O54: a WRITE by the kind of its landing, a READ by its check, a pull by whether its entry rests, and a WACK by the one that
waits for it. It holds through the model's choices of log entries 1, 56 and 64. -/
theorem remoteWritesReadsAndPulls : Obligations.RemoteWritesReadsAndPulls := by
  unfold Obligations.RemoteWritesReadsAndPulls
  refine ⟨fun t p s h => ⟨fun hplain => ?_, fun hnone => ⟨?_, ?_⟩, fun g hg => ⟨write_drops h hg, read_drops h hg, read_answers h hg,
    fun hwrite hin => ⟨_, write_lands h hg hwrite hin⟩⟩⟩, fun q w k s hw => ⟨fun hmore => ?_, fun hlast => ?_⟩,
    fun t entry s => ⟨fun hrest => ?_, fun hactive hvalid hpull hphase hnew hdue => ?_⟩, fun t p s h => ⟨rdata_drops h,
    fun i e q hpull => ⟨fun hout => ?_, rdata_asks h hpull⟩⟩, fun t p s h => ⟨fun hbind hho hext => ?_,
    fun l q slot n v => wack_stream h, fun a q x => wack_handover h, fun f x => wack_install h⟩⟩
  · exact if_neg (by rw [hplain]; decide)
  · rw [exec_write h, hnone]
  · rw [exec_read h, hnone]
  · obtain ⟨v, hv, hack⟩ := hmore
    rw [State.sendAcks_one hw, if_pos (List.any_eq_true.2 ⟨v, hv, decide_eq_true hack⟩)]
  · rw [State.sendAcks_one hw, if_neg]
    rw [List.any_eq_true]
    rintro ⟨v, hv, hack⟩
    exact hlast v hv (of_decide_eq_true hack)
  · rw [exec_pullStart, if_pos ((State.pullRests_iff t entry.val s).2 hrest)]
  · have hexec := pullStart_sends hactive hvalid hpull hphase hnew hdue
    refine ⟨⟨_, hexec, ?_⟩, fun h0 hmost => ?_⟩
    · obtain ⟨c, v, o, hsends⟩ := State.sendPull_sends entry.val (s.at t)
      rw [hsends]
      rfl
    · rw [hexec]
      unfold State.sendPull
      rw [pullReads_one (e := (s.at t).remoteTarget entry.val) h0 hmost]
      rfl
  · rw [exec_rdata h, hpull]
    exact congrArg Host.Outcome.next (if_pos (by simp [hout]))
  · rw [exec_wack h, State.remoteAck_none ((State.arrived_binding t p s).trans hbind),
      State.hoWack_none (State.arrived_requests t p s ▸ hho), State.extWack_none ((State.arrived_ext t p s).trans hext)]

end Sys2Proof.Machine
end

section
/-! PROOFS. Every step: the queue's front command, and what the module keeps for life (spec/19_security.md, R587, R592, R596, R600). -/

namespace Sys2Proof.Machine
open Sys2Proof

/-! ### The queue -/

theorem step_front {s : State} {c : Instr} {rest : List Instr} (h : s.pending = c :: rest) :
    step s = exec c { s with pending := rest } := by
  unfold step
  rw [h]

theorem step_idle {s : State} (h : s.pending = []) : step s = .next s := by
  unfold step
  rw [h]

/-- Settles O1, by the two cases of the queue. -/
theorem stepCarriesOutFrontCommand : Obligations.StepCarriesOutFrontCommand :=
  ⟨fun _ _ _ => step_front, fun _ => step_idle⟩

/-- Settles O2: whatever a command leaves of the lasting parts of the state, the queue is among them. It holds through the model's
choice that no command stops (log entry 59). -/
theorem everyCommandAnswersAndKeepsQueue : Obligations.EveryCommandAnswersAndKeepsQueue := by
  unfold Obligations.EveryCommandAnswersAndKeepsQueue
  intro c s
  obtain ⟨u, hu, hbefore | ⟨-, hopens⟩⟩ := exec_lasting c s
  · exact ⟨u, hu, hbefore.pending⟩
  · exact ⟨u, hu, congrArg Lasting.pending hopens⟩

/-! ### What the module keeps for life -/

/-- State `u` comes later in the module's life than `s`, after `k` unsealings: MIN_SVN is no lower, no revoked root pair is back, the
other fuses stand, RESERVED_TOP is no lower, and a module that was sealed is open only after an unsealing. -/
structure Ages (k : Nat) (s u : State) : Prop where
  legal : s.fuses.legal → u.fuses.legal
  module : { u.fuses with minSvn := 0, revoked := 0 } = { s.fuses with minSvn := 0, revoked := 0 }
  svn : s.fuses.minSvn ≤ u.fuses.minSvn
  revoked : ∀ i : Fin 4, s.fuses.revoked.getLsbD i = true → u.fuses.revoked.getLsbD i = true
  top : s.reservedTop ≤ u.reservedTop
  unsealed : u.flash.unsealCount = s.flash.unsealCount + BitVec.ofNat 32 k
  opened : u.sec.isOpen = true → s.sec.isOpen = false → 0 < k

theorem Ages.trans {k j : Nat} {s u v : State} (h : Ages k s u) (g : Ages j u v) : Ages (k + j) s v where
  legal x := g.legal (h.legal x)
  module := g.module.trans h.module
  svn := h.svn.trans g.svn
  revoked i x := g.revoked i (h.revoked i x)
  top := h.top.trans g.top
  unsealed := by rw [g.unsealed, h.unsealed, BitVec.ofNat_add, BitVec.add_assoc]
  opened hv hs := by
    cases hu : u.sec.isOpen with
    | true => exact Nat.add_pos_left (h.opened hu hs) j
    | false => exact Nat.add_pos_right k (g.opened hv hu)

/-- Lasting parts that may come later without SB_UNSEAL: no unsealing is counted. -/
theorem Ages.of_before {s u : State} (h : s.lasting.before u.lasting) : Ages 0 s u where
  legal := h.legal
  module := h.module
  svn := h.svn
  revoked := h.revoked
  top := h.top
  unsealed := h.unsealed.trans (BitVec.add_zero _).symm
  opened hu hs := absurd (h.opened hu) (by rw [show s.lasting.isOpen = false from hs]; decide)

/-- Lasting parts after the seal opened. -/
theorem Ages.of_opens {s u : State} (h : u.lasting = s.lasting.opens) : Ages 1 s u where
  legal := by rw [show u.fuses = s.fuses from congrArg Lasting.fuses h]; exact id
  module := by rw [show u.fuses = s.fuses from congrArg Lasting.fuses h]
  svn := (congrArg (fun x : Lasting => x.fuses.minSvn) h).ge
  revoked i := by rw [show u.fuses = s.fuses from congrArg Lasting.fuses h]; exact id
  top := (congrArg (fun x : Lasting => max x.topA x.topB) h).ge
  unsealed := congrArg Lasting.unsealCount h
  opened _ _ := Nat.one_pos

/-- The queue is no part of it. -/
theorem Ages.of_queue {k : Nat} {s u : State} {rest : List Instr} (h : Ages k { s with pending := rest } u) : Ages k s u :=
  let ⟨legal, module, svn, revoked, top, unsealed, opened⟩ := h
  ⟨legal, module, svn, revoked, top, unsealed, opened⟩

theorem Ages.refl (s : State) : Ages 0 s s := .of_before (Lasting.before.rfl _)

/-- Whatever waits, a step loses the queue's front command, and the module is later in its life: by one unsealing, with the fuses as
they were and the module open, when an SB_UNSEAL opened the seal; by none otherwise. -/
theorem step_ages (s : State) : ∃ u, step s = .next u ∧ u.pending = s.pending.drop 1 ∧ (Ages 0 s u
    ∨ Ages 1 s u ∧ u.sec.isOpen = true ∧ u.fuses = s.fuses ∧ ∃ c rest, s.pending = c :: rest ∧ isUnseal c = true) := by
  cases hp : s.pending with
  | nil => exact ⟨s, step_idle hp, hp, .inl (.refl s)⟩
  | cons c rest =>
    obtain ⟨u, hu, hbefore | ⟨⟨t, m, rfl⟩, hopens⟩⟩ := exec_lasting c { s with pending := rest }
    · exact ⟨u, (step_front hp).trans hu, hbefore.pending, .inl (Ages.of_before hbefore).of_queue⟩
    · exact ⟨u, (step_front hp).trans hu, congrArg Lasting.pending hopens, .inr ⟨(Ages.of_opens hopens).of_queue,
        congrArg Lasting.isOpen hopens, congrArg Lasting.fuses hopens, _, rest, rfl, rfl⟩⟩

theorem State.after_succ {s u : State} (h : step s = .next u) (n : Nat) : s.after (n + 1) = u.after n := by
  rw [State.after, h]
  rfl

/-- Over `n` steps the queue loses its first `n` commands, and at most the SB_UNSEALs among them have opened the seal. -/
theorem after_ages (n : Nat) (s : State) : (s.after n).pending = s.pending.drop n
    ∧ ∃ k, k ≤ (s.pending.take n).countP isUnseal ∧ Ages k s (s.after n) := by
  induction n generalizing s with
  | zero => exact ⟨rfl, 0, Nat.zero_le _, .refl s⟩
  | succ n ih =>
    obtain ⟨u, hu, hpending, hages⟩ := step_ages s
    obtain ⟨hdrop, k, hk, hlater⟩ := ih u
    rw [hpending] at hdrop hk
    rw [State.after_succ hu]
    refine ⟨by rw [hdrop, List.drop_drop, Nat.add_comm], ?_⟩
    obtain hnone | ⟨hone, -, -, c, rest, hp, hc⟩ := hages
    · refine ⟨0 + k, ?_, hnone.trans hlater⟩
      rw [Nat.zero_add]
      cases hp : s.pending with
      | nil => simpa [hp] using hk
      | cons c rest =>
        rw [hp] at hk
        exact hk.trans ((List.sublist_cons_self c _).countP_le)
    · refine ⟨1 + k, ?_, hone.trans hlater⟩
      rw [hp] at hk ⊢
      rw [List.take_succ_cons, List.countP_cons_of_pos hc, Nat.add_comm]
      exact Nat.succ_le_succ hk

/-- Settles O42: each step by `step_ages`, and n of them by induction. It holds through the model's choices of log entries 2, 20 and
59. -/
theorem lifetimeCountsNeverGoBack : Obligations.LifetimeCountsNeverGoBack := by
  unfold Obligations.LifetimeCountsNeverGoBack
  refine ⟨fun s => ?_, fun n s => ?_⟩
  · obtain ⟨u, hu, -, h | ⟨h, hopen, hfuses, hfront⟩⟩ := step_ages s
    · have hsealed : u.sec.isOpen = true → s.sec.isOpen = true := fun hu => by
        by_contra hs
        exact absurd (h.opened hu (Bool.eq_false_iff.2 hs)) (Nat.lt_irrefl 0)
      exact ⟨u, hu, h.legal, h.module, h.svn, h.revoked, h.top, .inl ⟨h.unsealed.trans (BitVec.add_zero _), hsealed⟩⟩
    · exact ⟨u, hu, h.legal, h.module, h.svn, h.revoked, h.top, .inr ⟨hfront, h.unsealed, hopen, hfuses⟩⟩
  · obtain ⟨hpending, k, hk, h⟩ := after_ages n s
    exact ⟨hpending, h.legal, h.module, h.svn, h.revoked, h.top, k, hk, h.unsealed, h.opened⟩

end Sys2Proof.Machine
end

section
/-! PROOFS. The checks of a command record, what a record that passes takes, and rejections (spec/12_host_interface.md, R383 to R389,
R397, R404). -/

namespace Sys2Proof.Machine
open Sys2Proof

/-! ### What counting and credits leave -/

/-- Only device counters and partitions' windows have moved. -/
def TollCounted (s u : State) : Prop := ∃ c o, u = { s with counters := c, obs := o }

theorem TollCounted.refl (s : State) : TollCounted s s := ⟨_, _, rfl⟩

theorem TollCounted.trans {s u v : State} (h : TollCounted s u) (g : TollCounted u v) : TollCounted s v := by
  obtain ⟨c, o, rfl⟩ := h
  obtain ⟨c', o', rfl⟩ := g
  exact ⟨_, _, rfl⟩

theorem TollCounted.inc {s u : State} (h : TollCounted s u) (off n : Nat) : TollCounted s (u.inc off n) := by
  obtain ⟨c, hc⟩ := State.inc_counters off n u
  exact h.trans ⟨c, _, hc⟩

theorem TollCounted.portRx {s u : State} (h : TollCounted s u) (port n : Nat) : TollCounted s (u.portRx port n) := by
  obtain ⟨c, hc⟩ := State.incBytes_counters (0xA0204 + 8 * port) n u
  exact h.trans ⟨c, _, hc⟩

theorem TollCounted.winAdd {s u : State} (h : TollCounted s u) (p i n : Nat) : TollCounted s (u.winAdd p i n) :=
  h.trans ⟨_, _, ((WindowsCount.refl u).winAdd p i n).frame⟩

theorem TollCounted.log? {s u : State} (h : TollCounted s u) (port part : Nat) : u.log? port part = s.log? port part := by
  obtain ⟨c, o, rfl⟩ := h
  rfl

/-- The state after a record of partition `part` has come in on `port`: it is counted. -/
def State.recordIn (port part : Nat) (s : State) : State := ((s.portRx port 64).inc (tollCtr port 0) 1).winAdd part 12 1

theorem State.recordIn_counted (port part : Nat) (s : State) : TollCounted s (s.recordIn port part) :=
  (((TollCounted.refl s).portRx _ _).inc _ _).winAdd _ _ _

/-- Credits move a counter and the logs. -/
theorem State.credits_frame (port part n : Nat) (s : State) : ∃ c l, s.credits port part n = { s with counters := c, logs := l } := by
  unfold State.credits
  split
  · exact ⟨_, _, rfl⟩
  · dsimp only
    split
    · obtain ⟨c, hc⟩ := State.inc_counters (tollCtr port 0x14) 1 s
      rw [hc]
      exact ⟨_, _, rfl⟩
    · exact ⟨_, _, rfl⟩

/-- The state in which the checks of a record of a partition with a log run. -/
def State.checked (r : CmdRec) (part : Nat) (s : State) : State := (s.recordIn r.port.val part).credits r.port.val part r.credits.toNat

theorem State.checked_frame (r : CmdRec) (part : Nat) (s : State) :
    ∃ c o l, s.checked r part = { s with counters := c, obs := o, logs := l } := by
  obtain ⟨c, o, hin⟩ := s.recordIn_counted r.port.val part
  obtain ⟨c', l, hcredits⟩ := (s.recordIn r.port.val part).credits_frame r.port.val part r.credits.toNat
  exact ⟨c', o, l, by rw [State.checked, hcredits, hin]⟩

section
variable {s : State} {r : CmdRec} {k : CmdKind} {b : Bool} {refs : State → Nat → Option Nat} {part : Nat}

/-- R389: the checks of a record of a partition with a log. -/
theorem State.gate_checks {g : EventLog} (hopen : s.portOpen r.port.val = true) (hcredit : s.withholds r.port.val = false)
    (hpage : s.pagePart? r.port.val r.fn (r.lane.toNat / 64) = some part) (hlog : s.log? r.port.val part = some g) :
    s.gate r k b refs = (s.checked r part).checks r k b refs part := by
  rw [State.gate_open hopen hcredit hpage]
  exact if_neg (by simp [hlog])

/-! ### A record that passes (R387, R397) -/

theorem Passes.gate {g : EventLog} (h : Passes s r k refs part g) : ∃ u, s.gate r k true refs = .ok part u ∧ Reserved s r k part g u := by
  obtain ⟨c, o, l, hy⟩ := s.checked_frame r part
  have hlog : (s.checked r part).log? r.port.val part = some { g with free := min (g.free + r.credits.toNat) (2 ^ g.log2) } :=
    State.credits_log (((s.recordIn_counted r.port.val part).log? _ _).trans h.log)
  rw [State.gate_checks h.portOpen h.credit h.page h.log]
  rw [hy] at hlog ⊢
  exact ⟨_, State.checks_ok h.known h.notLog h.port h.lane h.seq h.fresh h.right h.notPair h.reserved h.refers h.quota h.handles
    h.requests hlog h.room, rfl, State.setLog_log _ _ _ _, rfl⟩

/-! ### The checks that fail (R389 steps 3 and 4) -/

theorem State.checks_badOpcode (hknown : k.known = false) :
    s.checks r k b refs part = .out (s.reject r.port.val part 0x01 0 r.handle.toNat s.timebase) := by
  unfold State.checks
  exact if_pos (by rw [hknown]; rfl)

theorem State.checks_badHandle (hknown : k.known = true)
    (hother : handlePort r.handle.toNat ≠ r.port.val ∨ handleLane r.handle.toNat ≠ r.lane.toNat) :
    s.checks r k b refs part = .out (s.reject r.port.val part 0x02 0 r.handle.toNat s.timebase) := by
  unfold State.checks
  exact (if_neg (by rw [hknown]; decide)).trans (if_pos hother)

theorem State.checks_badSeq (hknown : k.known = true) (hport : handlePort r.handle.toNat = r.port.val)
    (hlane : handleLane r.handle.toNat = r.lane.toNat) (hseq : handleSeq r.handle.toNat ≠ s.laneSeq r.port.val r.lane.toNat) :
    s.checks r k b refs part
      = .out (s.reject r.port.val part 0x03 (s.laneSeq r.port.val r.lane.toNat) r.handle.toNat s.timebase) := by
  unfold State.checks
  exact (if_neg (by rw [hknown]; decide)).trans ((if_neg (by simp [hport, hlane])).trans (if_pos hseq))

/-! ### Records that come to no check (R383, R385) -/

theorem State.gate_withheld (hopen : s.portOpen r.port.val = true) (hfull : s.withholds r.port.val = true) :
    s.gate r k b refs = .out s := by
  unfold State.gate
  exact if_pos (by rw [hopen, hfull]; rfl)

theorem State.pagePart?_of_regs {s u : State} (h : u.regs = s.regs) (port : Nat) (fn : Fn) (page : Nat) :
    u.pagePart? port fn page = s.pagePart? port fn page := by
  unfold State.pagePart? State.vfPart? State.partEnabled
  simp only [State.regf_of_regs h, State.regb_of_regs h]

theorem State.gate_miss (hopen : s.portOpen r.port.val = true) (hcredit : s.withholds r.port.val = false)
    (hpage : s.pagePart? r.port.val r.fn (r.lane.toNat / 64) = none) :
    s.gate r k b refs = .out ((s.portRx r.port.val 64).inc (tollCtr r.port.val 0x18) 1) := by
  unfold State.gate
  refine (if_neg (by rw [hopen, hcredit]; decide)).trans ?_
  dsimp only
  rw [State.pagePart?_of_regs (State.portRx_regs _ _ s), hpage]

theorem State.gate_noLog (hopen : s.portOpen r.port.val = true) (hcredit : s.withholds r.port.val = false)
    (hpage : s.pagePart? r.port.val r.fn (r.lane.toNat / 64) = some part) (hnone : s.log? r.port.val part = none)
    (hlog : k.isLog = false) : s.gate r k b refs = .out ((s.recordIn r.port.val part).inc (tollCtr r.port.val 0x0C) 1) := by
  rw [State.gate_open hopen hcredit hpage]
  exact if_pos ⟨by rw [hnone]; rfl, hlog⟩

end

/-- Settles O3. -/
theorem recordThatPassesTakesReservation : Obligations.RecordThatPassesTakesReservation :=
  fun _ _ _ _ _ _ h => h.gate

/-- Settles O4, a check at a time: what a record that fails one leaves is what it came to, and its rejection. -/
theorem recordChecksInOrder : Obligations.RecordChecksInOrder := by
  unfold Obligations.RecordChecksInOrder
  intro s r k b refs hopen
  refine ⟨fun hfull => State.gate_withheld hopen hfull, fun hcredit => ⟨fun hpage => ⟨_, State.gate_miss hopen hcredit hpage, ?_, rfl⟩,
    fun part hpage => ⟨fun hnone hk => ⟨_, State.gate_noLog hopen hcredit hpage hnone hk, ?_⟩, fun g hlog => ?_⟩⟩⟩
  · rw [State.inc_lanes, State.portRx_lanes]
  · obtain ⟨c, o, hu⟩ := (s.recordIn_counted r.port.val part).inc (tollCtr r.port.val 0x0C) 1
    rw [hu]
    exact ⟨rfl, rfl, rfl⟩
  · have hgate := State.gate_checks (k := k) (b := b) (refs := refs) hopen hcredit hpage hlog
    obtain ⟨c, o, l, hy⟩ := s.checked_frame r part
    have hstamp : (s.checked r part).timebase = s.timebase := by rw [hy]; rfl
    have hseq : (s.checked r part).laneSeq r.port.val r.lane.toNat = s.laneSeq r.port.val r.lane.toNat := by rw [hy]; rfl
    have hlanes (code arg1 : Nat) :
        ((s.checked r part).reject r.port.val part code arg1 r.handle.toNat s.timebase).lanes = s.lanes := by
      rw [State.reject_lanes, hy]
    refine ⟨fun hknown => ⟨?_, hlanes _ _⟩, fun hknown hother => ⟨?_, hlanes _ _⟩, fun hknown hport hlane hwrong => ⟨?_, hlanes _ _⟩⟩
    · rw [hgate, State.checks_badOpcode hknown, hstamp]
      rfl
    · rw [hgate, State.checks_badHandle hknown hother, hstamp]
      rfl
    · rw [hgate, State.checks_badSeq hknown hport hlane (by rwa [hseq]), hstamp, hseq]
      rfl

/-! ### Immediate records (R399, R401) -/

/-- What a log is after a record has been written in it, but for its message window. -/
def EventLog.next (g : EventLog) (reserved : Bool) : EventLog :=
  { g with written := g.written + 1, free := g.free - 1, reserved := if reserved then g.reserved - 1 else g.reserved }

/-- The write of a record into the next slot of a log. -/
def EventLog.put (g : EventLog) (port mark : Nat) (e : EventRec) : Out :=
  .dma port (g.addr + 32 * (g.written % 2 ^ g.log2)) (eventBytes e (if g.written / 2 ^ g.log2 % 2 = 0 then 0x80 else 0) mark)

theorem State.log?_of_logs {s u : State} (h : u.logs = s.logs) (port part : Nat) : u.log? port part = s.log? port part := by
  unfold State.log?
  rw [h]

section
variable {port part : Nat} {s : State} {g : EventLog} (hg : s.log? port part = some g) (e : EventRec) (reserved : Bool)
include hg

theorem State.writeEvent_log (mark : Nat) : (s.writeEvent port part e mark reserved).log? port part = some (g.next reserved) := by
  unfold State.writeEvent
  rw [hg]
  exact State.setLog_log _ _ _ _

theorem State.writeEvent_out (mark : Nat) (hopen : s.portOpen port = true) :
    (s.writeEvent port part e mark reserved).out = s.out ++ [g.put port mark e] := by
  unfold State.writeEvent State.dma
  rw [hg, hopen]
  simp only [if_true]
  exact congrArg (· ++ _) (State.incBytes_out _ _ s)

omit hg in
theorem State.openWindow_log {g : EventLog} (hg : s.log? port part = some g) :
    ∃ w, (s.openWindow port part).log? port part = some { g with window := w } := by
  unfold State.openWindow
  rw [hg]
  dsimp only
  split
  · exact ⟨g.window, hg⟩
  · exact ⟨_, State.setLog_log _ _ _ _⟩

omit hg in
/-- A deferred action acts on the logs as at once. -/
theorem State.defer_logs (p : Option Nat) (f : State → State) : (s.defer p f).logs = (f s).logs := by
  unfold State.defer
  split <;> rfl

omit hg in
theorem State.defer_noPub (p : Option Nat) {f : State → State} (hf : (f s).pub = none) : s.defer p f = f s := by
  unfold State.defer
  rw [hf]

theorem State.writeNow_log : ∃ w, (s.writeNow port part e reserved).log? port part = some { g.next reserved with window := w } :=
  State.openWindow_log ((State.log?_of_logs (State.defer_logs _ _) _ _).trans (State.writeEvent_log hg e reserved _))

/-- R399: with no publish in progress the record goes out at once. -/
theorem State.writeNow_atOnce (hopen : s.portOpen port = true) (hpub : s.pub = none) :
    (s.writeNow port part e reserved).out = s.out ++ [g.put port (s.port port).mark.toNat e]
      ∧ (s.writeNow port part e reserved).pub = none := by
  have hkept : (s.writeEvent port part e (s.port port).mark.toNat reserved).pub = none := (State.writeEvent_pub ..).trans hpub
  unfold State.writeNow
  rw [State.openWindow_out, State.openWindow_pub, State.defer_noPub _
    (f := fun s => s.writeEvent port part e (s.port port).mark.toNat reserved) hkept]
  exact ⟨State.writeEvent_out hg e reserved _ hopen, hkept⟩

/-- R399: while a publish is in progress the record goes out with it, after what it has still to send. -/
theorem State.writeNow_deferred {x : Publish} (hopen : s.portOpen port = true) (hpub : s.pub = some x) :
    (s.writeNow port part e reserved).out = s.out ∧ (s.writeNow port part e reserved).pub
      = some { x with items := x.items ++ [{ part := some part, out := g.put port (s.port port).mark.toNat e }] } := by
  have hnew := State.writeEvent_out hg e reserved (s.port port).mark.toNat hopen
  have hkept : (s.writeEvent port part e (s.port port).mark.toNat reserved).pub = some x := (State.writeEvent_pub ..).trans hpub
  unfold State.writeNow
  rw [State.openWindow_out, State.openWindow_pub]
  unfold State.defer
  simp only [hkept, hnew, List.drop_left]
  exact ⟨List.append_nil _, rfl⟩

end

/-! ### Rejections (R404) -/

section
variable {port part : Nat} {s : State} {g : EventLog} (hg : s.log? port part = some g) (code arg1 handle stamp : Nat)
include hg

/-- The state in which a rejection is written or lost: it is counted. -/
theorem State.reject_written (hroom : g.reserved + 1 ≤ g.free) : ∃ y, TollCounted s y ∧ s.reject port part code arg1 handle stamp
    = (y.setLog port part { g with lost := 0 }).writeNow port part
        { type := 2, status := code, handle := handle, arg0 := g.lost, arg1 := arg1, arg2 := stamp } false := by
  have hcounted := ((TollCounted.refl s).inc (tollCtr port 0x04) 1).winAdd part 13 1
  refine ⟨_, hcounted, ?_⟩
  unfold State.reject
  dsimp only
  rw [hcounted.log?, hg]
  exact if_pos hroom

theorem State.reject_lost (hfull : g.free < g.reserved + 1) : ∃ y, TollCounted s y
    ∧ s.reject port part code arg1 handle stamp = y.setLog port part { g with lost := g.lost + 1 } := by
  have hcounted := ((TollCounted.refl s).inc (tollCtr port 0x04) 1).winAdd part 13 1
  refine ⟨_, (hcounted.inc (tollCtr port 0x10) 1).winAdd part 14 1, ?_⟩
  unfold State.reject
  dsimp only
  rw [hcounted.log?, hg]
  exact if_neg (Nat.not_le.2 hfull)

end

/-- Settles O5, by the room of the log. That the record takes its slot at once and joins the publish in progress is the model's choice
of log entry 48. -/
theorem rejectionWrittenOrCounted : Obligations.RejectionWrittenOrCounted := by
  unfold Obligations.RejectionWrittenOrCounted
  intro s port part code arg1 handle stamp g hg
  refine ⟨fun hroom => ?_, fun hfull => ?_, State.reject_lanes .., State.reject_mem ..⟩
  · obtain ⟨y, ⟨c, o, hy⟩, hu⟩ := State.reject_written hg code arg1 handle stamp hroom
    subst hy
    rw [hu]
    obtain ⟨w, hw⟩ := State.writeNow_log (State.setLog_log _ port part { g with lost := 0 }) _ false
    exact ⟨w, hw, fun hopen hpub => State.writeNow_atOnce (State.setLog_log _ _ _ _) _ _ hopen hpub,
      fun hopen x hpub => State.writeNow_deferred (State.setLog_log _ _ _ _) _ _ hopen hpub⟩
  · obtain ⟨y, ⟨c, o, hy⟩, hu⟩ := State.reject_lost hg code arg1 handle stamp hfull
    subst hy
    rw [hu]
    exact ⟨State.setLog_log _ _ _ _, rfl, rfl⟩

end Sys2Proof.Machine
end

section
/-! PROOFS. What the commands of Table 12.3 do once their records have passed: SUBMIT, HANDIN, LOG_SETUP, JOB_START, JOB_CTRL, VARIANT
and LANDING (spec/12_host_interface.md, spec/13_serving.md). -/

namespace Sys2Proof.Machine
open Sys2Proof

/-! ### SUBMIT and HANDIN (R391, R395) -/

section
variable {t part : Nat} {r : CmdRec} {s x : State}

/-- The ranges of a SUBMIT's fields (Table 12.4). -/
theorem submitOk_of_ranges (hprompt : rfld r 8 8 % 4 = 0) (hstream : rfld r 16 8 % 16 = 0) (hext : rfld r 24 8 % 64 = 0)
    (hvariant : rfld r 36 2 < 16384 ∨ rfld r 36 2 = 0xFFFF) (hpriority : rfld r 38 1 < 8) (hmode : rfld r 39 1 < 128)
    (hpage : bitsAt (rfld r 39 1) 2 4 = 0 ∨ (4 ≤ bitsAt (rfld r 39 1) 2 4 ∧ bitsAt (rfld r 39 1) 2 4 ≤ 10)) (h1 : 1 ≤ rfld r 40 4)
    (hlen : rfld r 40 4 < 2 ^ 20) (hmin : 1 ≤ rfld r 44 4) (hmax : rfld r 44 4 ≤ 2 ^ 20) (hshare : rfld r 52 4 ≤ rfld r 40 4)
    (hzero : rfld r 56 8 = 0) (hseed : rfld r 24 8 = 0 → (rfld r 39 1).testBit 6 = false) : submitOk r = true := by
  have hpageOk : pageLog2Ok (bitsAt (rfld r 39 1) 2 4) = true := by
    simpa [pageLog2Ok] using hpage
  have hseedOk : (!(decide (rfld r 24 8 = 0) && (rfld r 39 1).testBit 6)) = true := by
    by_cases h : rfld r 24 8 = 0 <;> simp [h, hseed]
  unfold submitOk
  simp only [hpageOk, hseedOk, hprompt, hstream, hext, hpriority, hmode, h1, hlen, hmin, hmax, hshare, hzero, and_self, decide_true,
    Bool.and_true, Bool.true_and]
  simpa using hvariant

/-- The entry that a SUBMIT makes: in a lock-step pair it has no deadline (R533). -/
def submitted (r : CmdRec) (part : Nat) (x : State) : Request :=
  if x.regb 0x090050 31 then { submitEntry r part x.timebase with deadline := none } else submitEntry r part x.timebase

theorem exec_submit_passes (h : (s.at t).gate r { known := true, right := none, reserves := 2, isLog := false, isRequest := true }
    (submitOk r) noRefs = .ok part x) : exec (.submit t r) s = .next { x.holdHandle r part .request 2 with
      requests := kins x.requests r.handle.toNat (submitted r part x), named := kins x.named r.handle.toNat part } := by
  show execSubmit t r s = _
  simp only [execSubmit, h]
  rfl

theorem exec_handin_passes (h : (s.at t).gate r
      { known := true, right := some 28, reserves := 2, isLog := false, isRequest := true, pairDenied := true }
      (decide (rfld r 16 8 % 16 = 0) && decide (1 ≤ rfld r 24 4 ∧ rfld r 24 4 ≤ 60000)
        && decide (1 ≤ rfld r 28 4 ∧ rfld r 28 4 ≤ 2 ^ 20) && rzeros r [(32, 32)]) noRefs = .ok part x) :
    exec (.handin t r) s = .next { x.holdHandle r part .request 2 with
      requests := kins x.requests r.handle.toNat (handinEntry r part x.timebase x.time)
      named := kins x.named r.handle.toNat part } := by
  show execHandin t r s = _
  simp only [execHandin, h]
  rfl

end

/-- Settles O6: each record passes its checks, and its entry is the one that its fields spell. -/
theorem submitAndHandinMakeEntry : Obligations.SubmitAndHandinMakeEntry := by
  unfold Obligations.SubmitAndHandinMakeEntry
  refine ⟨fun t r s part g => ?_, fun t r s part g => ?_⟩
  · intro k variant mode page prompt hpass hprompt hstream hext hvariant hpriority hmode hpage h1 hlen hmin hmax hshare hzero hseed
    obtain ⟨x, hgate, hreserved⟩ := hpass.gate
    rw [← submitOk_of_ranges hprompt hstream hext hvariant hpriority hmode hpage h1 hlen hmin hmax hshare hzero hseed] at hgate
    have hkept : ∃ d, submitted r part x = { submitEntry r part x.timebase with deadline := d }
        ∧ d = if rfld r 48 4 = 0 ∨ x.regb 0x090050 31 = true then none else some (x.timebase + 1000 * rfld r 48 4) := by
      unfold submitted
      by_cases hpair : x.regb 0x090050 31 = true
      · exact ⟨none, if_pos hpair, (if_pos (.inr hpair)).symm⟩
      · exact ⟨_, if_neg hpair, if_congr (or_iff_left hpair).symm rfl rfl⟩
    obtain ⟨d, hentry, hdeadline⟩ := hkept
    refine ⟨x, submitted r part x, hreserved, ?_⟩
    rw [exec_submit_passes hgate, hentry]
    exact ⟨rfl, rfl, rfl, rfl, rfl, rfl, rfl, rfl, rfl, rfl, rfl, rfl, rfl, rfl, rfl, rfl, rfl, rfl, rfl, rfl, rfl, rfl, rfl, rfl, rfl,
      rfl, hdeadline, rfl⟩
  · intro k hpass hstream hmin hmax h1 hlen hzero
    obtain ⟨x, hgate, hreserved⟩ := hpass.gate
    have hok : (decide (rfld r 16 8 % 16 = 0) && decide (1 ≤ rfld r 24 4 ∧ rfld r 24 4 ≤ 60000)
        && decide (1 ≤ rfld r 28 4 ∧ rfld r 28 4 ≤ 2 ^ 20) && rzeros r [(32, 32)]) = true := by
      simp only [rzeros, List.all_cons, List.all_nil, hstream, hmin, hmax, h1, hlen, hzero, and_self, decide_true, Bool.and_self]
    rw [← hok] at hgate
    exact ⟨x, handinEntry r part x.timebase x.time, hreserved, rfl, rfl, rfl, rfl, rfl, rfl, rfl, rfl, rfl, rfl, rfl, rfl, rfl, rfl, rfl, rfl,
      exec_handin_passes hgate⟩

/-! ### LOG_SETUP and stray records (R384, R398) -/

/-- What a rejected or discarded record leaves alone. -/
structure HostKept (s u : State) : Prop where
  handles : u.handles = s.handles
  requests : u.requests = s.requests
  jobs : u.jobs = s.jobs
  landings : u.landings = s.landings
  lanes : u.lanes = s.lanes
  mem : u.mem = s.mem

theorem TollCounted.hostKept {s u : State} (h : TollCounted s u) : HostKept s u := by
  obtain ⟨c, o, rfl⟩ := h
  exact ⟨rfl, rfl, rfl, rfl, rfl, rfl⟩

theorem State.reject_hostKept (port part code arg1 handle stamp : Nat) (s : State) :
    HostKept s (s.reject port part code arg1 handle stamp) :=
  ⟨State.reject_handles .., State.reject_requests .., State.reject_jobs .., State.reject_landings .., State.reject_lanes ..,
    State.reject_mem ..⟩

theorem State.reject_checked_hostKept (r : CmdRec) (part port q code arg1 handle stamp : Nat) (s : State) :
    HostKept s ((s.checked r part).reject port q code arg1 handle stamp) := by
  obtain ⟨c, o, l, hy⟩ := s.checked_frame r part
  obtain ⟨h1, h2, h3, h4, h5, h6⟩ := (s.checked r part).reject_hostKept port q code arg1 handle stamp
  rw [hy] at h1 h2 h3 h4 h5 h6 ⊢
  exact ⟨h1, h2, h3, h4, h5, h6⟩

/-- A record of a kind that the table does not know leaves no command, whatever it fails first. -/
theorem State.gate_unknown {r : CmdRec} {k : CmdKind} (hknown : k.known = false) (b : Bool) (refs : State → Nat → Option Nat) (s : State) :
    ∃ u, s.gate r k b refs = .out u ∧ HostKept s u := by
  cases hopen : s.portOpen r.port.val with
  | false => exact ⟨s, by unfold State.gate; exact if_pos (by rw [hopen]; rfl), (TollCounted.refl s).hostKept⟩
  | true =>
    cases hfull : s.withholds r.port.val with
    | true => exact ⟨s, State.gate_withheld hopen hfull, (TollCounted.refl s).hostKept⟩
    | false =>
      cases hpage : s.pagePart? r.port.val r.fn (r.lane.toNat / 64) with
      | none => exact ⟨_, State.gate_miss hopen hfull hpage, (((TollCounted.refl s).portRx _ _).inc _ _).hostKept⟩
      | some part =>
        rw [State.gate_open hopen hfull hpage]
        dsimp only
        split
        · exact ⟨_, rfl, (((TollCounted.refl s).portRx _ _).inc _ _ |>.winAdd _ _ _ |>.inc _ _).hostKept⟩
        · exact ⟨_, State.checks_badOpcode hknown, State.reject_checked_hostKept r part _ _ _ _ _ _ s⟩

/-- The log that a LOG_SETUP makes (R398). -/
def newLog (r : CmdRec) : EventLog :=
  { addr := rfld r 8 8, log2 := rfld r 16 1, vector := rfld r 18 2, written := 0, free := 2 ^ rfld r 16 1, reserved := 0, lost := 0,
    window := none,
    vf := match r.fn with
      | .pf => none
      | .vf n => some n.toNat }

theorem exec_logSetup_passes {t part : Nat} {r : CmdRec} {s x : State}
    (hgate : (s.at t).gate r { known := true, right := none, reserves := 1, isLog := true, isRequest := false }
      (rzeros r [(17, 1), (20, 44)] && decide (rfld r 8 8 % 4096 = 0 ∧ 6 ≤ rfld r 16 1 ∧ rfld r 16 1 ≤ 20)
        && vectorOk r.fn (rfld r 18 2))
      (fun y p => match y.log? r.port.val p with
        | some g => if g.reserved > 0 then some 0x0C else if y.markerAddr r.port.val = 0 then some 0x0D else none
        | none => if y.markerAddr r.port.val = 0 then some 0x0D else none) = .ok part x) :
    exec (.logSetup t r) s = .next ((x.setLog r.port.val part (newLog r)).writeNow r.port.val part
      { type := 4, status := 0, handle := r.handle.toNat, arg0 := 0, arg1 := 0, arg2 := 0 } false) := by
  show execLogSetup t r s = _
  unfold execLogSetup
  dsimp only
  split
  · rename_i u hout
    cases hout.symm.trans hgate
  · rename_i p u hok
    cases hok.symm.trans hgate
    rfl

/-- Settles O8. -/
theorem logSetupAndStrayRecords : Obligations.LogSetupAndStrayRecords := by
  unfold Obligations.LogSetupAndStrayRecords
  refine ⟨fun t r s x part refs hrefs hgate => ?_, fun t op r s hop => ?_, fun t port fn off len s hopen => ?_⟩
  · subst hrefs
    obtain ⟨w, hw⟩ := State.writeNow_log (State.setLog_log x r.port.val part (newLog r)) { type := 4, status := 0, handle := r.handle.toNat, arg0 := 0, arg1 := 0, arg2 := 0 } false
    refine ⟨_, w, _, exec_logSetup_passes hgate, hw, rfl, ?_, ?_, ?_, ?_⟩ <;> simp
  · obtain ⟨u, hgate, h⟩ := (s.at t).gate_unknown (r := r) (k :=
      { known := decide (1 ≤ op.toNat ∧ op.toNat ≤ 11), right := none, reserves := 0, isLog := decide (op.toNat = 5),
        isRequest := false }) (decide_eq_false hop) true noRefs
    refine ⟨u, ?_, h.handles, h.requests, h.jobs, h.landings, h.lanes, h.mem⟩
    show execReservedOpcodeRecord t op r s = _
    simp only [execReservedOpcodeRecord, hgate]
  · have hpage := State.pagePart?_of_regs (State.portRx_regs port.val len (s.at t)) port.val fn (off / 4096)
    show execPartialLaneWrite t port fn off len s = _
    unfold execPartialLaneWrite
    refine (if_neg (by rw [show (s.at t).portOpen port.val = true from hopen]; decide)).trans ?_
    dsimp only
    rw [hpage, show (s.at t).pagePart? port.val fn (off / 4096) = s.pagePart? port.val fn (off / 4096) from rfl]
    cases s.pagePart? port.val fn (off / 4096) <;> rfl

/-! ### JOB_START (R430) -/

theorem exec_jobStart_passes {t part : Nat} {r : CmdRec} {digest : BitVec 384} {params : BitVec 2048} {s x : State}
    (h : (s.at t).gate r { known := true, right := some 30, reserves := 1, isLog := false, isRequest := false } (jobStartOk r)
      (fun y _ => if rfld r 8 8 = 0 ∧ (y.cached? digest).isNone then some 0x0B else none) = .ok part x) :
    exec (.jobStart t r digest params) s =
      let type := (jobTypeOf (rfld r 20 1)).getD .serve
      let given : BitVec 2048 := if rfld r 32 8 ≠ 0 then params else 0
      let z := x.portRx r.port.val (if rfld r 32 8 ≠ 0 then 304 else 48)
      let held := (x.cached? digest).map (·.bits)
      match z.startError type ((rfld r 21 1).testBit 0) given held with
      | some code => .next ((z.holdHandle r part (.jobStart 0) 1).answerNow r.handle.toNat code 0 0 0)
      | none =>
        let y := z.holdHandle r part (.jobStart x.freshJob) 1
        let j := newJob r part type digest given (if held.isSome then 0 else rfld r 8 8) z.timebase
        let w : State := { y with jobs := kins y.jobs x.freshJob j, nextJob := x.freshJob % 65535 + 1 }
        match held with
        | none => .next (w.dispatch false)
        | some b => .next ((({ w with
            bits := kins w.bits x.freshJob b
            cache := w.cache.map (fun (c : CacheEntry) => if c.digest = digest then { c with lastStart := w.time } else c)
          }).placeAll).dispatch false) := by
  have hrx : 48 + (if decide (rfld r 32 8 ≠ 0) = true then 256 else 0) = if rfld r 32 8 ≠ 0 then 304 else 48 := by
    by_cases h : rfld r 32 8 = 0 <;> simp [h]
  have hcached (n : Nat) : (x.portRx r.port.val n).cached? digest = x.cached? digest := by simp [State.cached?]
  have hfresh (n : Nat) : (x.portRx r.port.val n).freshJob = x.freshJob := by simp [State.freshJob]
  show execJobStart t r digest params s = _
  unfold execJobStart
  dsimp only
  rw [h]
  dsimp only
  rw [hrx, hcached, hfresh]
  simp only [decide_eq_true_eq] <;> rfl

/-- Settles O9, by the code of Table 13.4 and by whether the plan cache holds the bitstream. -/
theorem jobStartListsJob : Obligations.JobStartListsJob := by
  unfold Obligations.JobStartListsJob
  intro t r digest params s x part hgate type given z held
  have hexec := exec_jobStart_passes (params := params) hgate
  refine ⟨fun code hcode => ?_, fun hnone => ⟨newJob r part type digest given (if held.isSome then 0 else rfld r 8 8) z.timebase,
    rfl, rfl, rfl, rfl, rfl, rfl, rfl, rfl, rfl, rfl, rfl, rfl, rfl, rfl, rfl, rfl, rfl, fun hheld => ?_, fun b hheld => ?_⟩⟩
  · rw [hexec]
    dsimp only
    rw [hcode]
  · refine ⟨by rw [hheld]; rfl, ?_⟩
    rw [hexec]
    dsimp only
    rw [hnone]
    dsimp only
    rw [show (x.cached? digest).map (·.bits) = none from hheld, hheld]
  · refine ⟨by rw [hheld]; rfl, ?_⟩
    rw [hexec]
    dsimp only
    rw [hnone]
    dsimp only
    rw [show (x.cached? digest).map (·.bits) = some b from hheld, hheld]

/-! ### JOB_CTRL (R434) -/

section
variable {t a part : Nat} {r : CmdRec} {s x : State} {j : Job}
  (hgate : (s.at t).gate r { known := true, right := some 30, reserves := 1, isLog := false, isRequest := false }
    (decide (rfld r 12 1 = a) && rzeros r [(13, 51)]) noRefs = .ok part x)
  (hjob : kfind? x.jobs (rfld r 8 4) = some j)
include hgate hjob

theorem State.jobCtrl_acts (act : Nat → Nat → State → State) (hmay : r.fn = .pf ∨ (j.mgmt = false ∧ j.partition = part)) :
    s.jobCtrl t r a act = .next (act (rfld r 8 4) r.handle.toNat (x.holdHandle r part (.jobCtrl (rfld r 8 4)) 1)) := by
  unfold State.jobCtrl
  rw [hgate]
  simp only [State.holdHandle_jobs, hjob]
  exact if_pos (by simpa using hmay)

theorem State.jobCtrl_refused (act : Nat → Nat → State → State) (hmay : ¬(r.fn = .pf ∨ (j.mgmt = false ∧ j.partition = part))) :
    s.jobCtrl t r a act = .next ((x.holdHandle r part (.jobCtrl (rfld r 8 4)) 1).answerNow r.handle.toNat 0x305 0 0 0) := by
  unfold State.jobCtrl
  rw [hgate]
  simp only [State.holdHandle_jobs, hjob]
  exact if_neg (by simpa using hmay)

end

/-- Settles O10, an action at a time. -/
theorem jobCtrlActsOnListedJob : Obligations.JobCtrlActsOnListedJob := by
  unfold Obligations.JobCtrlActsOnListedJob
  intro t r s x part a j hgate hjob y may
  refine ⟨fun hmay ha => ?_, fun hmay ha htype hrun => ?_, fun hmay ha hheld => ?_,
    fun hmay => ⟨fun ha => ?_, fun ha => ?_, fun ha => ?_⟩⟩ <;> subst ha
  · show execJobCtrlEnd t r s = _
    exact State.jobCtrl_acts hgate hjob _ hmay
  · show execJobCtrlPreempt t r s = _
    refine (State.jobCtrl_acts hgate hjob _ hmay).trans (congrArg _ ?_)
    simp only [State.holdHandle_jobs, hjob, if_neg htype]
    exact if_pos hrun
  · show execJobCtrlResume t r s = _
    refine (State.jobCtrl_acts hgate hjob _ hmay).trans (congrArg _ ?_)
    simp only [State.holdHandle_jobs, kupd_of_find hjob, if_pos hheld]
    rfl
  · show execJobCtrlEnd t r s = _
    exact State.jobCtrl_refused hgate hjob _ hmay
  · show execJobCtrlPreempt t r s = _
    exact State.jobCtrl_refused hgate hjob _ hmay
  · show execJobCtrlResume t r s = _
    exact State.jobCtrl_refused hgate hjob _ hmay

/-! ### VARIANT (R452) -/

/-- Settles O11. That the conditions are checked again when the records have come, and that waiting requests take their place again, is
the model's choice of log entry 15. -/
theorem variantInstallAndRemove : Obligations.VariantInstallAndRemove := by
  unfold Obligations.VariantInstallAndRemove
  refine ⟨fun t r s x part e hgate hentry => ⟨fun hfree => ?_, fun code hcode => ?_⟩, fun t r s x part e hgate hentry => ?_,
    fun t handle bs s st i hst hi => ?_⟩
  · show execVariantInstall t r s = _
    simp only [execVariantInstall, hgate, hfree]
    rw [show (x.holdHandle r part .variant 1).entryOfModel? (rfld r 16 4) = some e from hentry]
    rfl
  · show execVariantInstall t r s = _
    simp only [execVariantInstall, hgate, hcode]
  · intro y hfree
    show execVariantRemove t r s = _
    simp only [execVariantRemove, hgate, show (x.holdHandle r part .variant 1).slotError _ _ _ = none from hfree]
    rw [show (x.holdHandle r part .variant 1).entryOfModel? (rfld r 16 4) = some e from hentry]
    rfl
  · intro y z hfree
    show execVariantFetchDone t handle (some bs) s = _
    have hst' : (s.at t).staged.find? (fun x => decide (x.handle = handle.toNat)) = some st := hst
    have hi' : kfind? (s.at t).handles handle.toNat = some i := hi
    unfold execVariantFetchDone
    simp only [hst', hi']
    split
    · rename_i code hcode
      cases hcode.symm.trans hfree
    · rfl

/-! ### LANDING (R409) -/

/-- The landing that a LANDING opens (R409). -/
def newLanding (r : CmdRec) (part : Nat) (x : State) : Landing :=
  { kind := .memory, base := rfld r 8 8, first := 0, len := 4096 * rfld r 16 4, read := (rfld r 20 1).testBit 0,
    write := (rfld r 20 1).testBit 1, host := (rfld r 20 1).testBit 2, port := r.port.val, partition := some part,
    bar4 := if (rfld r 20 1).testBit 2 then (x.bar4Place r.port.val (4096 * rfld r 16 4)).getD 0 else 0,
    expiry := some (rfld r 24 4), since := x.time, wrote := 0 }

/-- Settles O12. That the lowest free LID is taken (log entry 10), and the close by offset (log entry 14), is the model's choice. -/
theorem landingOpensAndCloses : Obligations.LandingOpensAndCloses := by
  unfold Obligations.LandingOpensAndCloses
  refine ⟨fun t r s x part lid hgate hlid => ⟨newLanding r part x, rfl, rfl, rfl, rfl, rfl, rfl, rfl, rfl, rfl, rfl, ?_⟩,
    fun t r s x part lid hgate hlid => ?_⟩
  · show execLandingOpen t r s = _
    simp only [execLandingOpen, hgate]
    rw [show (x.holdHandle r part .landing 1).freeLid = some lid from hlid]
    rfl
  · show execLandingClose t r s = _
    simp only [execLandingClose, hgate]
    rw [show (x.holdHandle r part .landing 1).landingToClose _ _ _ _ = some lid from hlid]
    rfl

end Sys2Proof.Machine
end

section
/-! PROOFS. What the tollgate completes by itself: fetches, tickets, message windows and landings that expire
(spec/12_host_interface.md, spec/13_serving.md). -/

namespace Sys2Proof.Machine
open Sys2Proof

/-! ### Fetches (R391, R392, R417) -/

/-- A request whose prompt has come and that has no extension block: its tokens are held, and it has no stop settings. -/
def Request.withPrompt (q : Request) (words : List Word) : Request :=
  { q with prompt := words.map (fun (w : Word) => w.toNat), stop := { ids := [], strings := [], states := [] } }

section
variable {s : State} {h : Nat} {q : Request} (hreq : kfind? s.requests h = some q) (hstate : q.state = .fetching)
  (hlive : q.ending = none)
include hreq hstate hlive

theorem State.fetched_none (ext : Option (List Byte)) : s.fetched h none ext = s.endRequest h 0x08 0 := by
  unfold State.fetched
  rw [hreq]
  exact if_neg (by simp [hstate, hlive])

/-- The words of a prompt of the declared length are its tokens, and the request takes its place with them. -/
theorem State.fetched_prompt {words : List Word} (hext : q.hasExt = false) (hlen : words.length = q.promptLen) :
    s.fetched h (some words) none
      = State.placeRequest h { s.portRx q.port (4 * q.promptLen) with requests := kins s.requests h (q.withPrompt words) } := by
  have htoks : ((words.map (fun (w : Word) => w.toNat)).take q.promptLen)
      ++ List.replicate (q.promptLen - ((words.map (fun (w : Word) => w.toNat)).take q.promptLen).length) 0
      = words.map (fun (w : Word) => w.toNat) := by
    rw [List.take_of_length_le (by rw [List.length_map, hlen]), List.length_map, hlen, Nat.sub_self, List.replicate_zero,
      List.append_nil]
  unfold State.fetched
  rw [hreq]
  dsimp only
  rw [if_neg (by simp [hstate, hlive]), hext]
  simp only [Bool.not_false, if_true, Bool.false_eq_true, if_false, Nat.add_zero, htoks]
  unfold State.modReq
  rw [kupd_of_find (by rw [State.portRx_requests]; exact hreq), State.portRx_requests,
    show q.withPrompt words = { q.withPrompt words with hasExt := false } from by rw [← hext]; rfl]
  rfl

end

section
variable {s : State} {h : Nat} {q : Request} (hreq : kfind? s.requests h = some q) (hlive : q.ending = none)
include hreq hlive

/-- R417: a request that its model cannot serve waits for the model. -/
theorem State.placeRequest_waits (hserve : s.servable q = false) :
    s.placeRequest h = { s with requests := kins s.requests h (q.toNow .waitModel) } := by
  unfold State.placeRequest
  rw [hreq]
  simp only [hlive, hserve, Option.isSome_none, Bool.false_eq_true, if_false, Bool.not_false, if_true]
  unfold State.modReq
  rw [kupd_of_find hreq]

/-- R417, R392: a request that can be served, and whose tokens are all in the vocabulary, is queued with its tokens checked. -/
theorem State.placeRequest_queues {e : Nat} (hserve : s.servable q = true) (hfresh : q.checked = false)
    (hmodel : s.entryOfModel? q.modelId = some e) (htokens : ∀ x ∈ q.prompt, x < (s.entry e).vocab.size) :
    s.placeRequest h = { s with requests := kins s.requests h { q.toNow .queued with checked := true } } := by
  have hbad : s.badToken? q = none := by
    unfold State.badToken?
    rw [hmodel]
    exact List.findIdx?_eq_none_iff.2 fun x hx => decide_eq_false (Nat.not_le.2 (htokens x hx))
  unfold State.placeRequest
  rw [hreq]
  simp only [hlive, hserve, hfresh, hbad, Option.isSome_none, Bool.false_eq_true, if_false, Bool.not_true]
  unfold State.modReq
  rw [kupd_of_find hreq]

end

/-! ### The ticket of a HANDIN (R395) -/

section
variable {t : Nat} {h : BitVec 32} {s : State} {q : Request} (hreq : kfind? s.requests h.toNat = some q)
include hreq

theorem exec_handinExpired_due (hstate : q.state = .waitHandin) (hlive : q.ending = none)
    (hnone : ∀ x ∈ s.via.hoIn, x.handle ≠ h.toNat) (hdue : q.waitEnd ≤ max s.time t) :
    exec (.handinExpired t h) s = .next ((s.at t).endRequest h.toNat 0x0B 0) := by
  have hfree : s.via.hoIn.any (fun x => decide (x.handle = h.toNat)) = false :=
    List.any_eq_false.2 fun x hx => by simpa using hnone x hx
  show execHandinExpired t h s = _
  unfold execHandinExpired
  simp only [State.at_requests, State.at_via, hreq, hfree]
  exact if_pos ⟨hstate, hdue, by rw [hlive]; rfl, rfl⟩

theorem exec_handinExpired_early (hearly : max s.time t < q.waitEnd) : exec (.handinExpired t h) s = .next (s.at t) := by
  show execHandinExpired t h s = _
  unfold execHandinExpired
  simp only [State.at_requests, hreq]
  exact if_neg fun hdue => absurd hdue.2.1 (Nat.not_le.2 hearly)

end

/-- R426: with no deadline passed the scan changes nothing. -/
theorem State.scanDeadlines_none {s : State} (h : ∀ e ∈ s.requests, ∀ d, e.2.deadline = some d → s.timebase ≤ d) :
    s.scanDeadlines = s := by
  have hfind (k : Nat) (q : Request) (hk : kfind? s.requests k = some q) : ∀ d, q.deadline = some d → s.timebase ≤ d :=
    h (k, q) (mem_of_kfind? hk)
  unfold State.scanDeadlines
  refine List.foldlRecOn (motive := fun u => u = s) _ _ rfl fun u hu k _ => ?_
  subst hu
  cases hk : kfind? u.requests k with
  | none => rfl
  | some q =>
    cases hd : q.deadline with
    | none => simp [hd]
    | some d => simp [hd, Nat.not_lt.2 (hfind k q hk d hd)]

/-- Settles O16: a fetch that fails, a prompt by whether its model can serve the request, a ticket by its time (R395), and the scan when
no deadline has passed (R426). -/
theorem fetchTicketAndDeadlineCompletions : Obligations.FetchTicketAndDeadlineCompletions := by
  unfold Obligations.FetchTicketAndDeadlineCompletions
  refine ⟨fun t h ext s q hreq hstate hlive => congrArg (fun u => Host.Outcome.next (State.dispatch false u)) ?_,
    fun t h words s q hreq hstate hlive hext hlen hfresh => ?_, fun t h s q hreq hstate hlive hnone =>
      ⟨exec_handinExpired_due hreq hstate hlive hnone, exec_handinExpired_early hreq⟩,
    fun t s hdl => congrArg Host.Outcome.next (State.scanDeadlines_none (s := s.at t) hdl)⟩
  · exact State.fetched_none (s := s.at t) hreq hstate hlive ext
  · intro y q'
    have hexec : exec (.fetchDone t h (some words) none) s
        = .next (State.dispatch false (State.placeRequest h.toNat { y with requests := kins s.requests h.toNat q' })) :=
      congrArg (fun u => Host.Outcome.next (State.dispatch false u)) (State.fetched_prompt (s := s.at t) hreq hstate hlive hext hlen)
    refine ⟨fun hserve => ?_, fun e hserve hmodel htokens => ?_⟩
    · rw [hexec, State.placeRequest_waits (s := { y with requests := kins s.requests h.toNat q' }) (kfind?_kins_same _ _ _) hlive hserve]
      dsimp only
      rw [kins_kins]
      rfl
    · have hy : y.hot = s.hot := State.portRx_hot _ _ _
      rw [hexec, State.placeRequest_queues (s := { y with requests := kins s.requests h.toNat q' }) (e := e) (kfind?_kins_same _ _ _)
        hlive hserve hfresh]
      · dsimp only
        rw [kins_kins]
        rfl
      · rw [← hmodel]
        unfold State.entryOfModel?
        exact congrArg (fun m : List (Nat × HotEntry) => (m.find? _).map _) hy
      · intro x hx
        obtain ⟨w, hw, rfl⟩ := List.mem_map.1 hx
        have hvocab := htokens w hw
        unfold State.entry at hvocab ⊢
        rwa [show State.hot { y with requests := kins s.requests h.toNat q' } = s.hot from hy]

/-! ### Message windows (R406) and landings (R473) -/

section
variable {t : Nat} {port : Fin 4} {part : BitVec 8} {s : State} {g : EventLog} {e : Nat}
  (hlog : s.log? port.val part.toNat = some g) (hwindow : g.window = some e)
include hlog hwindow

theorem exec_msixWindowEnd_early (h : max s.time t < e) : exec (.msixWindowEnd t port part) s = .next (s.at t) := by
  show execMsixWindowEnd t port part s = _
  unfold execMsixWindowEnd
  dsimp only
  rw [show (s.at t).log? port.val part.toNat = some g from hlog]
  dsimp only
  rw [hwindow]
  exact if_pos h

theorem exec_msixWindowEnd_due (h : e ≤ max s.time t) (hopen : s.portOpen port.val = true) : exec (.msixWindowEnd t port part) s
    = .next (((s.at t).setLog port.val part.toNat { g with window := none }).emit (.msix port.val g.vf g.vector)) := by
  show execMsixWindowEnd t port part s = _
  unfold execMsixWindowEnd
  dsimp only
  rw [show (s.at t).log? port.val part.toNat = some g from hlog]
  dsimp only
  rw [hwindow]
  exact (if_neg (Nat.not_lt.2 h)).trans (if_pos hopen)

end

theorem State.expireLanding_plain {lid : Nat} {s : State} (h : ∀ x ∈ s.via.hoIn, x.lid ≠ lid) :
    s.expireLanding lid = { s with landings := kdel s.landings lid } := by
  have hfind : s.via.hoIn.find? (fun x => x.lid = lid && !x.committed) = none :=
    List.find?_eq_none.2 fun x hx => by simp [h x hx]
  unfold State.expireLanding State.abortHoIn
  rw [hfind]
  rfl

section
variable {t id k : Nat} {s : State} {g : Landing} (hg : kfind? s.landings id = some g)
include hg

theorem exec_landingExpiry_ticking (hticks : s.ticking = true) : exec (.landingExpiry t id) s = .next (s.at t) := by
  show execLandingExpiry t id s = _
  unfold execLandingExpiry
  simp only [State.at_landings, hg]
  exact if_pos hticks

/-- While no ticks run, the steps of 10 ms that have passed, up to time `m`, age the landing. -/
theorem exec_landingExpiry_idle (hidle : s.ticking = false) (hn : 0 < (max s.time t - g.since) / 10000000) {m : Nat}
    (hm : g.since + (max s.time t - g.since) / 10000000 * 10000000 = m) :
    exec (.landingExpiry t id) s = .next (State.ageLanding id ((max s.time t - g.since) / 10000000)
      { s.at t with landings := kins s.landings id { g with since := m } }) := by
  have hstart : { s.at t with landings := kupd (s.at t).landings id (fun x => { x with since :=
      x.since + ((s.at t).time - g.since) / 10000000 * 10000000 }) } = { s.at t with landings := kins s.landings id { g with since := m } } := by
    rw [kupd_of_find (m := (s.at t).landings) hg, State.at_landings]
    exact congrArg (fun n => { s.at t with landings := kins s.landings id { g with since := n } }) hm
  show execLandingExpiry t id s = _
  unfold execLandingExpiry
  simp only [State.at_landings, hg]
  refine (if_neg (by rw [show (s.at t).ticking = false from hidle]; decide)).trans (congrArg _ ?_)
  exact (if_neg (Nat.pos_iff_ne_zero.1 hn)).trans (congrArg _ hstart)

end

section
variable {id k n : Nat} {s : State} {g : Landing} (hg : kfind? s.landings id = some g) (hexpiry : g.expiry = some k)
include hg hexpiry

theorem State.ageLanding_keeps (hn : n < k) :
    s.ageLanding id n = { s with landings := kins s.landings id { g with expiry := some (k - n) } } := by
  unfold State.ageLanding
  rw [hg]
  dsimp only
  rw [hexpiry]
  refine (if_neg (Nat.not_le.2 hn)).trans ?_
  rw [kupd_of_find hg]

theorem State.ageLanding_closes (hn : k ≤ n) (hnone : ∀ x ∈ s.via.hoIn, x.lid ≠ id) :
    s.ageLanding id n = { s with landings := kdel s.landings id } := by
  unfold State.ageLanding
  rw [hg]
  dsimp only
  rw [hexpiry]
  exact (if_pos hn).trans (State.expireLanding_plain hnone)

end

/-- Settles O18, a window by its end and a landing by the steps that have passed. -/
theorem windowAndExpiryTimers : Obligations.WindowAndExpiryTimers := by
  unfold Obligations.WindowAndExpiryTimers
  refine ⟨fun t port part s g e hlog hwindow => ⟨exec_msixWindowEnd_early hlog hwindow, exec_msixWindowEnd_due hlog hwindow⟩,
    fun t id k s g hg hexpiry => ?_⟩
  dsimp only
  generalize hm : g.since + (max s.time t - g.since) / 10000000 * 10000000 = m
  refine ⟨exec_landingExpiry_ticking hg, fun hidle hn hkeeps => ?_, fun hidle hn hcloses hnone => ?_⟩
  · refine (exec_landingExpiry_idle hg hidle hn hm).trans (congrArg _
      ((State.ageLanding_keeps (g := { g with since := m }) (kfind?_kins_same _ _ _) hexpiry hkeeps).trans ?_))
    simp only [kins_kins]
  · exact (exec_landingExpiry_idle hg hidle hn hm).trans (congrArg _
      (State.ageLanding_closes (s := { s.at t with landings := kins s.landings id { g with since := m } }) (g := { g with since := m })
        (kfind?_kins_same _ _ _) hexpiry hcloses hnone))

end Sys2Proof.Machine
end

section
/-! PROOFS. The hot set: INGEST from its pack to its last extent, the steps of TUNE, and HOT_CTRL (spec/13_serving.md, R443 to R453). -/

namespace Sys2Proof.Machine
open Sys2Proof

/-! ### The pack of an INGEST (R446, R450) -/

section
variable {t : Nat} {job : BitVec 16} {s : State} {j : Job} {b : Bitstream} (hjob : kfind? s.jobs job.toNat = some j)
  (hbits : kfind? s.bits job.toNat = some b) (hrun : s.running = some job.toNat) (hending : j.ending = none)
include hjob hbits hrun hending

section
variable (htype : j.type = .ingest) (hfresh : j.verified = false) (hvia : prmFlag j.params 5 = false)
include htype hfresh hvia

theorem exec_ingestPackVerified_failed :
    exec (.ingestPackVerified t job none) s = .next ((s.at t).pausePoint job.toNat (some 0x03)) := by
  show execIngestPackVerified t job none s = _
  simp only [execIngestPackVerified, State.at_jobs, State.at_bits, State.at_running, hjob, hbits]
  exact if_neg (by simp [hrun, htype, hfresh, hending, hvia])

/-- The checks of the pack that has come. -/
theorem exec_ingestPackVerified_read (p : PackRead) : let y := (s.at t).portRx j.port (prm j.params 24 8)
    exec (.ingestPackVerified t job (some p)) s
      = if p.digest = BitVec.ofNat 384 (prm j.params 32 48) ∧ blockOk contentClass s.contentKeys p.digest p.block = true
        then .next (y.ingestOpen job.toNat j b p.digest { table := p.vocab, pool := p.pool } p.layers)
        else .next (y.pausePoint job.toNat (some 0x04)) := by
  have hkeys : ((s.at t).portRx j.port (prm j.params 24 8)).contentKeys = s.contentKeys := by
    unfold State.contentKeys
    rw [State.portRx_flash, State.at_flash]
  show execIngestPackVerified t job (some p) s = _
  simp only [execIngestPackVerified, State.at_jobs, State.at_bits, State.at_running, hjob, hbits, hkeys]
  refine (if_neg (by simp [hrun, htype, hfresh, hending, hvia])).trans ?_
  by_cases hok : p.digest = BitVec.ofNat 384 (prm j.params 32 48) ∧ blockOk contentClass s.contentKeys p.digest p.block = true
  · rw [if_pos hok]
    exact if_neg (by rw [decide_eq_true hok.1, hok.2]; decide)
  · rw [if_neg hok]
    exact if_pos (by simpa [imp_iff_not_or] using hok)

end

/-! ### Extents (R446, R448) -/

section
variable {e : Nat} (hentry : j.entry = some e) (htype : j.type = .ingest) (hdone : j.verified = true)
  (hstate : (s.entry e).state = .installing) (hvia : prmFlag j.params 5 = false)
include hentry htype hdone hstate

omit hvia in
theorem exec_extentSealed_last (hlast : b.weights[(s.entry e).sealed.length]? = none) (src : Option (List Byte)) :
    exec (.extentSealed t job src) s = .next (((s.at t).entryReady j e).pausePoint job.toNat (some 0x00)) := by
  have hat : (s.at t).entry e = s.entry e := rfl
  show execExtentSealed t job src s = _
  simp only [execExtentSealed, State.at_jobs, State.at_bits, State.at_running, hjob, hbits, hentry, hat, hlast]
  exact if_neg (by simp [hrun, htype, hdone, hending, hstate])

include hvia

theorem exec_extentSealed_failed {w : WExtent} (hw : b.weights[(s.entry e).sealed.length]? = some w) :
    exec (.extentSealed t job none) s = .next ((s.at t).pausePoint job.toNat (some 0x03)) := by
  have hat : (s.at t).entry e = s.entry e := rfl
  show execExtentSealed t job none s = _
  simp only [execExtentSealed, State.at_jobs, State.at_bits, State.at_running, hjob, hbits, hentry, hat, hw, hvia]
  exact if_neg (by simp [hrun, htype, hdone, hending, hstate])

/-- An extent whose bytes are final is written as it comes. -/
theorem exec_extentSealed_final {w : WExtent} (hw : b.weights[(s.entry e).sealed.length]? = some w)
    (hnone : b.ingest.find? (fun r => r.wl = w.wl) = none) (src : List Byte) :
    exec (.extentSealed t job (some src)) s = .next (((s.at t).entryWrite (s.entry e) w.offset (byteSlice src 0 (32 * w.len))).sealExtent
      job.toNat j b e (s.entry e).sealed.length (byteSlice src 0 (32 * w.len))) := by
  have hat : (s.at t).entry e = s.entry e := rfl
  show execExtentSealed t job (some src) s = _
  simp only [execExtentSealed, State.at_jobs, State.at_bits, State.at_running, hjob, hbits, hentry, hat, hw, hvia, hnone]
  exact if_neg (by simp [hrun, htype, hdone, hending, hstate])

end

/-! ### The steps of TUNE (R453) -/

/-- The records of a TUNE job after a step. -/
def tunedRecords (j : Job) (b : Bitstream) (w : Tune) (gg sg : List (List Int)) : List (List Byte) :=
  w.records.zipIdx.map (fun e => tuneRecord (prm j.params 36 1) (signedField 15 (prm j.params 38 2)) (tuneWidth b e.2) (gg.getD e.2 [])
    (sg.getD e.2 []) e.1)

/-- A step counts, and its records stand. -/
def State.tuned (id : Nat) (j : Job) (w : Tune) (recs : List (List Byte)) (s : State) : State :=
  { s with tune := kins s.tune id { records := recs, next := w.next + 1 }, jobs := kins s.jobs id { j with steps := j.steps + 1 } }

theorem exec_tuneStep_steps {w : Tune} (htune : kfind? s.tune job.toNat = some w) (htype : j.type = .tune) (gg sg : List (List Int)) :
    let y := (s.at t).tuned job.toNat j w (tunedRecords j b w gg sg)
    exec (.tuneStep t job gg sg) s = if j.steps + 1 < prm j.params 28 4 then .next (y.pausePoint job.toNat none)
      else .next (y.endTune job.toNat j (tunedRecords j b w gg sg)) := by
  show execTuneStep t job gg sg s = _
  simp only [execTuneStep, State.at_jobs, State.at_bits, State.at_running, State.at_tune, hjob, hbits, htune, kupd_of_find hjob]
  exact if_neg (by simp [hrun, htype, hending])

end

/-- Settles O38. That an extent whose bytes are final is the front slice of its source, and that an install resumes by pack and layout,
is the model's choice of log entry 53. -/
theorem ingestAndTuneAdvance : Obligations.IngestAndTuneAdvance := by
  unfold Obligations.IngestAndTuneAdvance
  refine ⟨fun t job s j b hjob hbits hrun htype hfresh hending hvia =>
      ⟨exec_ingestPackVerified_failed hjob hbits hrun hending htype hfresh hvia, fun p => ⟨fun hbad => ?_, fun hok => ?_⟩⟩,
    fun id j b d v n s => ⟨fun hnone => ?_, fun e hsome => ?_⟩, fun j b d v n e s => ?_,
    fun t job s j b e hjob hbits hentry hrun htype hdone hending hstate hvia =>
      ⟨exec_extentSealed_last hjob hbits hrun hending hentry htype hdone hstate, fun w hw =>
        ⟨exec_extentSealed_failed hjob hbits hrun hending hentry htype hdone hstate hvia hw, fun src _ hnone =>
          exec_extentSealed_final hjob hbits hrun hending hentry htype hdone hstate hvia hw hnone src⟩⟩,
    fun id e i j b bs s hmore => if_pos hmore,
    fun t job gg sg s j b w hjob hbits htune hrun htype hending => ?_⟩
  · exact (exec_ingestPackVerified_read hjob hbits hrun hending htype hfresh hvia p).trans (if_neg hbad)
  · exact (exec_ingestPackVerified_read hjob hbits hrun hending htype hfresh hvia p).trans (if_pos hok)
  · unfold State.ingestOpen
    rw [show s.openEntry j b d v n = (none, (s.openEntry j b d v n).2) from Prod.ext hnone rfl]
  · unfold State.ingestOpen
    rw [show s.openEntry j b d v n = (some e, (s.openEntry j b d v n).2) from Prod.ext hsome rfl]
  · intro x hmodel hstate hdigest hlayout
    unfold State.openEntry
    dsimp only
    rw [hmodel]
    dsimp only
    rw [hstate]
    exact if_pos (decide_eq_true ⟨hdigest, hlayout⟩)
  · have hstep := exec_tuneStep_steps hjob hbits hrun hending (t := t) htune htype gg sg
    intro recs y
    have hlast (h : prm j.params 28 4 ≤ j.steps + 1) :
        exec (.tuneStep t job gg sg) s = .next (y.endTune job.toNat j recs) := hstep.trans (if_neg (Nat.not_lt.2 h))
    refine ⟨fun hmore => hstep.trans (if_pos hmore), hlast, fun h hfree => ?_, fun h hbusy => ?_⟩
    · rw [hlast h]
      unfold State.endTune
      dsimp only
      rw [hfree]
    · obtain ⟨code, hcode⟩ := Option.isSome_iff_exists.1 hbusy
      rw [hlast h]
      unfold State.endTune
      dsimp only
      rw [hcode]

/-! ### HOT_CTRL (R443, R445) -/

theorem exec_hotPin {t : Nat} {who : Requester} {s y : State} (h : Reached t who s y) (entry : Fin 64) :
    exec (.hotPin t who entry) s = .next (y.hotPin entry) := congrArg Host.Outcome.next (h.asMgmt (State.hotPin entry))

theorem exec_hotUnpin {t : Nat} {who : Requester} {s y : State} (h : Reached t who s y) (entry : Fin 64) :
    exec (.hotUnpin t who entry) s = .next (y.hotUnpin entry) := congrArg Host.Outcome.next (h.asMgmt (State.hotUnpin entry))

theorem exec_hotRemove {t : Nat} {who : Requester} {s y : State} (h : Reached t who s y) (entry : Fin 64) :
    exec (.hotRemove t who entry) s = .next (y.hotRemove entry) := congrArg Host.Outcome.next (h.asMgmt (State.hotRemove entry))

section
variable {entry : Fin 64} {s : State}

theorem State.hotPin_notReady (h : (s.entry entry.val).state ≠ .ready) : s.hotPin entry = s.hotDone entry.val 2 := if_pos h

section
variable (h : (s.entry entry.val).state = .ready)
include h

theorem State.hotPin_again (hpinned : (s.entry entry.val).pinned = true) : s.hotPin entry = s.hotDone entry.val 0 :=
  (if_neg (not_not.2 h)).trans (if_pos hpinned)

theorem State.hotPin_full (hfree : (s.entry entry.val).pinned = false) (hfull : 16 ≤ s.flash.pins.length) :
    s.hotPin entry = s.hotDone entry.val 1 :=
  (if_neg (not_not.2 h)).trans ((if_neg (ne_true_of_eq_false hfree)).trans (if_pos hfull))

theorem State.hotPin_joins (hfree : (s.entry entry.val).pinned = false) (hroom : s.flash.pins.length < 16) :
    let x := s.entry entry.val
    s.hotPin entry = State.hotDone entry.val 0 { s.setEntry entry.val { x with pinned := true } with
      flash := { s.flash with pins := s.flash.pins ++ [(x.modelId, x.digest, x.slabUnits, x.mirrored)] } } :=
  (if_neg (not_not.2 h)).trans ((if_neg (ne_true_of_eq_false hfree)).trans (if_neg (Nat.not_le.2 hroom)))

/-- R458: a removed entry stays, RETIRING, while a listed job holds it. -/
theorem State.hotRemove_ready (hfree : (s.entry entry.val).pinned = false) : s.hotRemove entry
    = State.hotDone entry.val 0 (if s.entryHeld entry.val then s.setEntry entry.val { s.entry entry.val with state := .retiring }
        else s.setEntry entry.val HotEntry.empty).placeAll := by
  unfold State.hotRemove
  simp [h, hfree]

end

theorem State.hotUnpin_empty (h : (s.entry entry.val).state = .empty) : s.hotUnpin entry = s.hotDone entry.val 3 := if_pos h

theorem State.hotUnpin_present (h : (s.entry entry.val).state ≠ .empty) (hreserved : (s.entry entry.val).state ≠ .reserved) :
    s.hotUnpin entry = (s.unpin entry.val).hotDone entry.val 0 :=
  (if_neg h).trans (congrArg (State.hotDone entry.val 0) (if_neg hreserved))

theorem State.hotRemove_refused (h : (s.entry entry.val).state = .empty ∨ (s.entry entry.val).state = .retiring
    ∨ (s.entry entry.val).state = .installing) : s.hotRemove entry = s.hotDone entry.val 3 := if_pos h

end

/-- Settles O39, a command at a time, by the state of the entry. That an EMPTY, RETIRING or INSTALLING entry is refused its removal is
the model's choice of log entry 53 (R441, R458). -/
theorem hotSetControls : Obligations.HotSetControls := by
  unfold Obligations.HotSetControls
  intro t who entry s y hreached
  obtain ⟨c, hy⟩ := hreached.frame
  have hx : y.entry entry.val = s.entry entry.val := by rw [hy]; rfl
  have hflash : y.flash = s.flash := by rw [hy]; rfl
  have hheld : y.entryHeld entry.val = s.entryHeld entry.val := by rw [hy]; rfl
  rw [exec_hotPin hreached, exec_hotUnpin hreached, exec_hotRemove hreached]
  intro x
  refine ⟨⟨fun h => ?_, fun h hpinned => ?_, fun h hfree hfull => ?_, fun h hfree hroom => ?_⟩,
    ⟨fun h => ?_, fun h hreserved => ⟨_, rfl, ?_⟩⟩, fun h => ?_, fun h hfree hheld' => ?_, fun h hfree hheld' => ?_⟩
  · rw [State.hotPin_notReady (by rwa [hx])]
  · rw [State.hotPin_again (by rwa [hx]) (by rwa [hx])]
  · rw [State.hotPin_full (by rwa [hx]) (by rwa [hx]) (by rwa [hflash])]
  · rw [State.hotPin_joins (by rwa [hx]) (by rwa [hx]) (by rwa [hflash]), hx, hflash]
  · rw [State.hotUnpin_empty (by rwa [hx])]
  · rw [State.hotUnpin_present (by rwa [hx]) (by rwa [hx])]
    unfold State.unpin
    rw [hx]
    exact ⟨congrArg (fun f : Flash => { f with pins := f.pins.filter (fun p => decide (p.1 ≠ x.modelId)) }) hflash, rfl, by rw [hy]; rfl, by rw [hy]; rfl⟩
  · rw [State.hotRemove_refused (by rwa [hx])]
  · rw [State.hotRemove_ready (by rwa [hx]) (by rwa [hx]), hheld, hheld', if_pos rfl, hx]
  · rw [State.hotRemove_ready (by rwa [hx]) (by rwa [hx]), hheld, hheld', if_neg Bool.false_ne_true]

end Sys2Proof.Machine
end

section
/-! PROOFS. What the cycles of a tick and a tick that breaks leave alone of the module (R248, R265), and what a reset reads of it
(spec/18_reset.md). -/

namespace Sys2Proof.Machine
open Sys2Proof

/-! ### Parts of the module outside a tick -/

/-- What no cycle of a tick touches: time, power and start, flash and fuses, landings, the bytes of device memory and their
poison, the fence list and the chip faults. -/
def State.outside (s : State) : Nat × Boot × Flash × Fuses × List (Nat × Landing) × List (Nat × Byte) × List Nat × List Nat × List Nat :=
  (s.time, s.boot, s.flash, s.fuses, s.landings, s.mem.bytes, s.mem.poison, s.flt.fenceList, s.flt.chipFaults)

/-- A fold that carries a state along with what it collects. -/
theorem foldl_outside {α β : Type} (g : α → State) {f : α → β → α} (hf : ∀ a b, (g (f a b)).outside = (g a).outside) (l : List β)
    (a : α) : (g (l.foldl f a)).outside = (g a).outside :=
  foldl_keeps (fun a => (g a).outside) f l a hf

section
variable (s : State)

@[simp] theorem State.inc_outside (o n : Nat) : (s.inc o n).outside = s.outside := by
  obtain ⟨c, hc⟩ := State.inc_counters o n s
  rw [hc]
  rfl

@[simp] theorem State.modSpan_outside (p : Nat) (f : Span → Span) : (s.modSpan p f).outside = s.outside := rfl

@[simp] theorem State.setSpan_outside (p : Nat) (x : Span) : (s.setSpan p x).outside = s.outside := rfl

@[simp] theorem State.modReq_outside (h : Nat) (f : Request → Request) : (s.modReq h f).outside = s.outside := rfl

@[simp] theorem State.noteSet_outside (k : Nat) : (s.noteSet k).outside = s.outside := rfl

theorem Triggered.outside {s u : State} (h : Triggered s u) : u.outside = s.outside := by rw [h.frame]; rfl

theorem SendsOnly.outside {s u : State} (h : SendsOnly s u) : u.outside = s.outside := by
  obtain ⟨c, i, o, rfl⟩ := h
  rfl

@[simp] theorem State.trace_outside (l type : Nat) (arg : List Byte) : (s.trace l type arg).outside = s.outside := by
  rw [(State.trace_joint l type arg s).frame]
  rfl

/-! ### Faults and breaks (R248) -/

@[simp] theorem State.fault_outside (cls cause unit : Nat) : (s.fault cls cause unit).outside = s.outside := by
  unfold State.fault
  dsimp only
  rw [State.inc_outside]
  unfold State.outside
  dsimp only
  split <;> rfl

@[simp] theorem State.spanFault_outside (l p cls cause : Nat) : (s.spanFault l p cls cause).outside = s.outside :=
  (State.triggerAt_triggered ..).outside.trans (State.fault_outside ..)

@[simp] theorem State.breakHere_outside (c : BreakCause) : (s.breakHere c).outside = s.outside := by
  unfold State.breakHere
  split
  · rfl
  · split
    · rfl
    · exact State.inc_outside ..

@[simp] theorem State.progFault_outside (l p cause pc : Nat) : (s.progFault l p cause pc).outside = s.outside := by
  unfold State.progFault
  dsimp only
  split <;> simp

@[simp] theorem State.dataPoison_outside (l p : Nat) : (s.dataPoison l p).outside = s.outside := by
  unfold State.dataPoison
  simp

@[simp] theorem State.flitFault_outside (l p : Nat) : (s.flitFault l p).outside = s.outside := by
  unfold State.flitFault
  simp

/-! ### Attention (R286, R356) -/

@[simp] theorem State.kvPoison_outside (cls frame : Nat) : (s.kvPoison cls frame).outside = s.outside := by
  unfold State.kvPoison
  dsimp only
  refine (foldl_outside id (fun _ _ => State.modReq_outside ..) _ _).trans ?_
  dsimp only [id]
  split <;> rfl

theorem State.attend_outside (p di : Nat) (d : Desc) (a : Assign) (ks : List (KvPiece × List (BitVec 256 × Bool))) (q : Nat × Nat)
    (j : Nat) : (s.attend p di d a ks q j).2.2.outside = s.outside := by
  unfold State.attend
  dsimp only
  split
  · rw [(State.rotate_counted d q.2 ((s.span p).queryVec di d a.slot q.1 j) s).frame]
    rfl
  · rfl

theorem State.attendAll_outside (p : Nat) (w : AttWork) (d : Desc) (ks : List (Nat × KvPiece × List (BitVec 256 × Bool))) :
    (s.attendAll p w d ks).2.2.outside = s.outside := by
  let g (acc : List (List (BitVec 16)) × Nat × State) : State := acc.2.2
  exact foldl_outside g (fun acc e => foldl_outside g (fun acc q => foldl_outside g (fun acc j =>
    State.attend_outside acc.2.2 p w.di d e.1 ((ks.filter (fun k => decide (k.1 = e.2))).map (·.2)) q _) _ acc) _ acc) _ ([], 0, s)

@[simp] theorem State.finishAtt_outside (l p : Nat) (w : AttWork) : (s.finishAtt l p w).outside = s.outside := by
  unfold State.finishAtt
  dsimp only
  split
  · rfl
  · split
    · exact State.attendAll_outside ..
    · rw [State.dataPoison_outside]
      refine (foldl_outside id (fun _ _ => State.kvPoison_outside ..) _ _).trans ?_
      exact State.attendAll_outside ..

@[simp] theorem State.attStep_outside (l p c : Nat) : (s.attStep l p c).outside = s.outside := by
  unfold State.attStep
  split
  · rfl
  · dsimp only
    split
    · simp
    · split
      · rfl
      · simp

/-! ### Settled cycles (R265, R337) -/

@[simp] theorem State.ctrAdd_outside (cyc l c n : Nat) : (s.ctrAdd cyc l c n).outside = s.outside := by
  unfold State.ctrAdd
  split
  · rfl
  · split <;> rfl

@[simp] theorem State.landed_outside (l p c : Nat) (r : PutRaise) : (s.landed l p c r).outside = s.outside := by
  unfold State.landed
  split
  · rfl
  · exact State.ctrAdd_outside ..
  · split
    · rfl
    · exact State.ctrAdd_outside ..

@[simp] theorem State.landPut_outside (l p c : Nat) (w : DeckPut) : (s.landPut l p c w).outside = s.outside := by
  have hcounted (u : State) : (match u.phys? w.src with
      | some q => if decide (w.src ≠ l) = true then u.modSpan q (Span.incBytes 0x3AC 32) else u
      | none => u).outside = u.outside := by
    split
    · split <;> rfl
    · rfl
  have hforeign : (if decide (w.src ≠ l) = true then s.modSpan p (Span.incBytes 0x3A8 32) else s).outside = s.outside := by
    split <;> rfl
  unfold State.landPut
  dsimp only
  split
  · rfl
  · refine Eq.trans ?_ ((hcounted _).trans hforeign)
    split
    · exact State.progFault_outside ..
    · split
      · exact State.progFault_outside ..
      · exact State.landed_outside ..

@[simp] theorem State.applyCtr_outside (l p : Nat) (o : CtrOp) : (s.applyCtr l p o).outside = s.outside := by
  unfold State.applyCtr
  dsimp only
  split
  · rfl
  · rfl
  · split
    · exact State.progFault_outside ..
    · rfl

@[simp] theorem State.sendAcks_outside (p : Nat) (ws : List DeckPut) : (s.sendAcks p ws).outside = s.outside :=
  foldl_outside id (fun _ _ => (SendsOnly.sendTo ..).outside) _ s

@[simp] theorem State.settleSpan_outside (c l p : Nat) : (s.settleSpan c l p).outside = s.outside := by
  have hland (x : Span → Span) (ws : List DeckPut) :
      (ws.foldl (fun s w => s.landPut l p c w) (s.modSpan p x)).outside = s.outside :=
    foldl_outside id (fun _ _ => State.landPut_outside ..) ws _
  have hctr (u : State) (os : List CtrOp) : (os.foldl (fun s o => s.applyCtr l p o) u).outside = u.outside :=
    foldl_outside id (fun _ _ => State.applyCtr_outside ..) os u
  unfold State.settleSpan
  dsimp only
  split
  · exact hland _ _
  · have hall (v : State) (os : List CtrOp) (f : Span → Span) (ws : List DeckPut) (hv : v.outside = s.outside) :
        (os.foldl (fun s o => s.applyCtr l p o) ((v.sendAcks p ws).modSpan p f)).outside = s.outside := by
      rw [hctr, State.modSpan_outside, State.sendAcks_outside, hv]
    split
    · exact (State.attStep_outside ..).trans (hall _ _ _ _ (hland _ _))
    · exact hall _ _ _ _ (hland _ _)

@[simp] theorem State.settleCycle_outside (c : Nat) : (s.settleCycle c).outside = s.outside := by
  unfold State.settleCycle
  refine (foldl_outside id (fun u e => ?_) _ _).trans (show (s.settleTrs c).outside = s.outside from rfl)
  dsimp only [id]
  split
  · exact State.settleSpan_outside ..
  · rfl

end

@[simp] theorem State.settleFrom_outside (fuel cyc : Nat) (s : State) : (s.settleFrom fuel cyc).outside = s.outside := by
  induction fuel generalizing s with
  | zero => rfl
  | succ fuel ih =>
    unfold State.settleFrom
    split
    · rfl
    · split
      · rfl
      · exact (ih _).trans (State.settleCycle_outside ..)

/-- R248: the break of a tick touches nothing outside it. -/
@[simp] theorem State.breakTick_outside (c : BreakCause) (s : State) : (s.breakTick c).outside = s.outside :=
  (State.breakHere_outside ..).trans (State.settleFrom_outside ..)

end Sys2Proof.Machine
end

section
/-! PROOFS. Resets of the chip, chip faults, power that comes and goes, and resets of ports (spec/18_reset.md,
spec/12_host_interface.md; R407, R408, R511, R572 to R580, R616, R617). -/

namespace Sys2Proof.Machine
open Sys2Proof

/-! ### What a chip reset leaves (R572) -/

/-- What the end of the listed jobs at a warm reset leaves alone. -/
def State.unlisted (s : State) : Nat × Nat × List Out × Option Publish × Boot × Flash × Fuses × FaultMgr :=
  (s.time, s.fresh, s.out, s.pub, s.boot, s.flash, s.fuses, s.flt)

section
variable (s : State)

theorem State.expireLanding_unlisted (lid : Nat) : (s.expireLanding lid).unlisted = s.unlisted := by
  show (s.abortHoIn lid).unlisted = s.unlisted
  have horphan (u : State) (q : Request) : (u.orphan q).unlisted = u.unlisted := by
    unfold State.orphan
    split
    · rfl
    · split
      · rfl
      · split <;> rfl
  have hinc (u : State) (o n : Nat) : (u.inc o n).unlisted = u.unlisted := by
    obtain ⟨c, hc⟩ := State.inc_counters o n u
    rw [hc]
    rfl
  unfold State.abortHoIn
  split
  · rfl
  · dsimp only
    split
    · exact hinc ..
    · exact (horphan ..).trans (hinc ..)

theorem State.memWrite_unlisted (l : List (Nat × Byte)) : (s.memWrite l).unlisted = s.unlisted := by
  obtain ⟨y, hy, hw⟩ := State.memWrite_frame l s
  rw [hw, hy.frame]
  rfl

theorem State.dropLandings_unlisted (id : Nat) (j : Job) : (s.dropLandings id j).unlisted = s.unlisted := by
  refine foldl_keeps State.unlisted _ _ _ fun u e => ?_
  dsimp only
  split
  · exact (State.memWrite_unlisted ..).trans (State.expireLanding_unlisted ..)
  · exact State.expireLanding_unlisted ..

theorem State.interruptJobs_unlisted : s.interruptJobs.unlisted = s.unlisted :=
  foldl_keeps State.unlisted (fun (s : State) (e : Nat × Job) => s.dropLandings e.1 e.2) s.jobs s fun u e =>
    State.dropLandings_unlisted u e.1 e.2

end

/-- The listed jobs as a warm reset leaves them in the list of ended ones, newest first. -/
def State.interrupted (s : State) : List (Nat × Job) :=
  (s.jobs.map (fun (e : Nat × Job) =>
    (e.1, { e.2 with state := JobState.ended, outcome := 0x09, endHandles := [], preempts := [] }))).reverse

/-- Without landings the end of the listed jobs writes no memory. -/
theorem State.interruptJobs_noLandings {s : State} (h : s.landings = []) : ∃ hot,
    s.interruptJobs = { s with jobs := [], ended := (s.interrupted ++ s.ended).take 64, hot := hot } := by
  have hdrop (l : List (Nat × Job)) : l.foldl (fun (s : State) (e : Nat × Job) => s.dropLandings e.1 e.2) s = s := by
    induction l with
    | nil => rfl
    | cons e l ih =>
      have hnone : s.jobLandings e.1 e.2 = [] := by
        unfold State.jobLandings
        rw [h]
        rfl
      rw [List.foldl_cons, show s.dropLandings e.1 e.2 = s from by unfold State.dropLandings; rw [hnone]; rfl]
      exact ih
  unfold State.interruptJobs
  rw [hdrop]
  exact ⟨_, rfl⟩

/-- What every chip reset takes away. -/
structure Wiped (s u : State) : Prop where
  requests : u.requests = []
  handles : u.handles = []
  logs : u.logs = []
  landings : u.landings = []
  jobs : u.jobs = []
  running : u.running = none
  cache : u.cache = []
  counters : u.counters = []
  tick : u.tick = Tick.idle
  pub : u.pub = none
  closed : u.via.closed = true
  isSealed : u.sec.isOpen = false
  meas : u.sec.meas = []
  debugUsed : u.sec.debugUsed = false
  time : u.time = s.time
  out : u.out = s.out ++ s.cutPublish
  boot : u.boot = { s.boot with keptVia := u.boot.keptVia, deferred := none, newLost := [] }
  flash : u.flash = s.flash
  fuses : u.fuses = s.fuses
  fenceList : u.flt.fenceList = s.flt.fenceList
  flashLog : u.flt.flashLog = s.flt.flashLog
  chipFaults : u.flt.chipFaults = s.flt.chipFaults

/-- What a cold reset loses besides, and what flash gives back. -/
structure WipedCold (s u : State) : Prop where
  bytes : u.mem.bytes = []
  poison : u.mem.poison = []
  repairLog : u.mem.repairLog = s.mem.repairLog
  hot : u.hot = []
  ended : u.ended = []
  log : u.flt.log = []
  span : ∀ p, u.span p = Span.idle
  sb : u.sb = s.sb
  pwr : u.pwr.tripped = s.pwr.tripped ∧ u.pwr.barred = s.pwr.barred

/-- What a warm reset keeps of device memory, of the jobs and of the fault log. -/
structure WipedWarm (s u : State) : Prop where
  bytes : u.mem.bytes = s.mem.bytes
  poison : u.mem.poison = s.mem.poison
  lgs : u.mem.lgs = s.mem.lgs
  rows : u.mem.rows = s.mem.rows
  log : u.flt.log = s.flt.log
  ended : u.ended = (s.interrupted ++ s.ended).take 64

theorem State.wipe_wiped (k : ResetKind) (s : State) : Wiped s (s.wipe k) := by
  cases k with
  | cold => exact ⟨rfl, rfl, rfl, rfl, rfl, rfl, rfl, rfl, rfl, rfl, rfl, rfl, rfl, rfl, rfl, rfl, rfl, rfl, rfl, rfl, rfl, rfl⟩
  | warm =>
    have hkept := State.interruptJobs_unlisted (s.countStall none)
    unfold State.wipe
    dsimp only
    generalize (s.countStall none).interruptJobs = z at hkept ⊢
    obtain ⟨htime, hfresh, hout, hpub, hboot, hflash, hfuses, hflt⟩ : z.time = s.time ∧ z.fresh = s.fresh ∧ z.out = s.out
        ∧ z.pub = s.pub ∧ z.boot = s.boot ∧ z.flash = s.flash ∧ z.fuses = s.fuses ∧ z.flt = (s.countStall none).flt := by
      simp only [State.unlisted, Prod.mk.injEq] at hkept
      exact hkept
    have hcut : z.cutPublish = s.cutPublish := by
      unfold State.cutPublish
      rw [hpub, hfresh]
    exact
      { requests := rfl, handles := rfl, logs := rfl, landings := rfl, jobs := rfl, running := rfl, cache := rfl, counters := rfl
        tick := rfl, pub := rfl, closed := rfl, isSealed := rfl, meas := rfl, debugUsed := rfl
        time := htime
        out := show z.out ++ z.cutPublish = _ by rw [hout, hcut]
        boot := congrArg (fun b : Boot => { b with
          keptVia := if z.boot.state = BootState.ready then some (viaRegs z.regs) else z.boot.keptVia
          deferred := none, newLost := [] }) hboot
        flash := hflash
        fuses := hfuses
        fenceList := congrArg (·.fenceList) hflt
        flashLog := congrArg (·.flashLog) hflt
        chipFaults := congrArg (·.chipFaults) hflt }

theorem State.wipe_cold (s : State) : WipedCold s (s.wipe .cold) :=
  ⟨rfl, rfl, rfl, rfl, rfl, rfl, fun _ => rfl, rfl, rfl, rfl⟩

theorem State.wipe_warm {s : State} (h : s.landings = []) : WipedWarm s (s.wipe .warm) := by
  obtain ⟨hot, hu⟩ := State.interruptJobs_noLandings (s := s.countStall none) h
  unfold State.wipe
  dsimp only
  rw [hu]
  exact ⟨rfl, rfl, rfl, rfl, rfl, rfl⟩

/-! ### Requested resets (R577, R578) -/

/-- The state a requested reset wipes: the outage has begun. -/
def State.beforeReset (k : ResetKind) (s : State) : State :=
  { s with boot := s.boot.out (match k with
    | .warm => 210
    | .cold => 550) s.time }

theorem State.takeReset_eq (k : ResetKind) (s : State) : s.takeReset k = ((s.beforeReset k).wipe k).powerOn k (match k with
    | .warm => 3
    | .cold => 2) := by
  cases k <;> rfl

section
variable {t : Nat} {who : Requester} {s y : State} (value : Word) (h : Reached t who s y)
include h

/-- The command that requests a reset of a kind. -/
def resetCommand (t : Nat) (who : Requester) (value : Word) (k : ResetKind) : Instr :=
  if k = .warm then .warmResetRequest t who value else .coldResetRequest t who value

theorem exec_resetCommand (k : ResetKind) : exec (resetCommand t who value k) s = .next (y.requestReset k) := by
  cases k <;> exact congrArg Host.Outcome.next (h.asMgmt _)

theorem Reached.boot : y.boot = s.boot := by
  obtain ⟨c, rfl⟩ := h.frame
  rfl

end

section
variable {s : State} (k : ResetKind)

theorem State.requestReset_ready (h : s.boot.state = .ready) : s.requestReset k =
    if s.resetWaits then { s with boot := { s.boot with deferred := some (ResetKind.merge s.boot.deferred k) } }
    else s.takeReset (ResetKind.merge s.boot.deferred k) := by
  unfold State.requestReset
  rw [h]

theorem State.requestReset_halted (h : s.boot.state = .halted) : s.requestReset k = if k = .cold then s.takeReset .cold else s := by
  unfold State.requestReset
  rw [h]

theorem State.requestReset_starting
    (h : s.boot.state = .pierBoot ∨ s.boot.state = .memTrain ∨ s.boot.state = .selftest ∨ s.boot.state = .hostEnable) :
    s.requestReset k = s.takeReset (if s.boot.kind = .cold then .cold else k) := by
  unfold State.requestReset
  obtain h | h | h | h := h <;> rw [h]

end

/-- R578: a reset that waits takes effect once nothing holds it back. -/
theorem exec_resetTakesEffect (t : Nat) (s : State) : exec (.resetTakesEffect t) s = match s.boot.deferred with
    | none => .next (s.at t)
    | some k => if (s.at t).resetWaits then .next (s.at t) else .next ((s.at t).takeReset k) := rfl

/-! ### Chip faults (R511) -/

theorem exec_chipFault_off {t : Nat} {cause : BitVec 8} {s : State} (h : s.powered = false ∨ s.boot.state = .halted) :
    exec (.chipFault t cause) s = .next (s.at t) :=
  congrArg Host.Outcome.next (if_pos (by
    show (!s.powered || decide (s.boot.state = BootState.halted)) = true
    simpa using h))

/-- The state a chip fault wipes, from `s`: recorded, the tick broken, and the fault among those of the last hour. -/
def State.faulted (cause : Nat) (s : State) : State :=
  let z := (s.fault 9 cause 0xFF).breakTick .powerOrReset
  { z with flt := { z.flt with chipFaults := z.time :: z.flt.chipFaults.filter (fun x => decide (z.time < x + 3600000000000)) }
           boot := z.boot.out 0 z.time }

/-- The kind of reset that a chip fault is. -/
def State.faultKind (s : State) : ResetKind := if s.boot.state = BootState.ready ∨ s.boot.kind = ResetKind.warm then .warm else .cold

theorem State.chipFault_on {cause : Nat} {s : State} (hpower : s.powered = true) (hhalted : s.boot.state ≠ .halted) :
    s.chipFault cause = let w := (s.faulted cause).wipe (s.faulted cause).faultKind
      { w with boot := { w.boot with kind := (s.faulted cause).faultKind } }.afterChipFault (s.regb 0x0B000C 31)
        (decide (3 ≤ (s.faulted cause).flt.chipFaults.length)) := by
  unfold State.chipFault
  rw [if_neg (by simp [hpower, hhalted])]
  rfl

/-- The beginning of an outage moves only what counts it. -/
theorem Boot.out_frame (limit now : Nat) (b : Boot) : ∃ f l, b.out limit now = { b with outageFrom := f, limitMs := l } := by
  unfold Boot.out
  split
  · exact ⟨_, _, rfl⟩
  · exact ⟨_, _, rfl⟩

/-- What a chip fault leaves of the parts outside the tick. -/
theorem State.faulted_outside (cause : Nat) (s : State) : (s.faulted cause).time = s.time
    ∧ (s.faulted cause).boot = s.boot.out 0 s.time ∧ (s.faulted cause).flash = s.flash ∧ (s.faulted cause).fuses = s.fuses
    ∧ (s.faulted cause).landings = s.landings ∧ (s.faulted cause).mem.bytes = s.mem.bytes
    ∧ (s.faulted cause).mem.poison = s.mem.poison ∧ (s.faulted cause).flt.fenceList = s.flt.fenceList
    ∧ (s.faulted cause).flt.chipFaults = s.time :: s.flt.chipFaults.filter (fun x => decide (s.time < x + 3600000000000)) := by
  have houtside : ((s.fault 9 cause 0xFF).breakTick .powerOrReset).outside = s.outside :=
    (State.breakTick_outside ..).trans (State.fault_outside ..)
  unfold State.faulted
  dsimp only
  generalize (s.fault 9 cause 0xFF).breakTick .powerOrReset = z at houtside ⊢
  simp only [State.outside, Prod.mk.injEq] at houtside
  obtain ⟨htime, hboot, hflash, hfuses, hland, hbytes, hpoison, hfence, hchip⟩ := houtside
  rw [htime, hboot, hchip]
  exact ⟨rfl, rfl, hflash, hfuses, hland, hbytes, hpoison, hfence, rfl⟩

theorem State.faulted_kind (cause : Nat) (s : State) : (s.faulted cause).faultKind = s.faultKind := by
  obtain ⟨-, hboot, -⟩ := State.faulted_outside cause s
  obtain ⟨f, l, hout⟩ := Boot.out_frame 0 s.time s.boot
  unfold State.faultKind
  rw [hboot, hout]

/-- After a chip fault the start, and that it was one, are all that is set. -/
theorem State.afterChipFault_frame (auto_ third : Bool) (s : State) : ∃ b, s.afterChipFault auto_ third
    = { s with flt := { s.flt with chipFaultStart := true }, boot := b } ∧ b.kind = s.boot.kind := by
  unfold State.afterChipFault
  dsimp only
  split
  · exact ⟨_, rfl, rfl⟩
  · split <;> exact ⟨_, rfl, rfl⟩

theorem State.afterChipFault_stays (third : Bool) (s : State) : (s.afterChipFault false third).boot.state = .inReset := rfl

theorem State.afterChipFault_halts (s : State) :
    (s.afterChipFault true true).boot.state = .halted ∧ (s.afterChipFault true true).boot.haltCause = 4 := ⟨rfl, rfl⟩

theorem State.afterChipFault_starts (s : State) :
    (s.afterChipFault true false).boot.state = .powerOn ∧ (s.afterChipFault true false).boot.lastReset = 4 := ⟨rfl, rfl⟩

/-- A chip fault of a chip that has power wipes it, and then the start is set by AUTO_RESTART and the faults of the last hour. -/
theorem exec_chipFault_on {t : Nat} {cause : BitVec 8} {s : State} (hpower : s.powered = true) (hhalted : s.boot.state ≠ .halted) :
    ∃ w b, exec (.chipFault t cause) s = .next { w with flt := { w.flt with chipFaultStart := true }, boot := b }
      ∧ Wiped ((s.at t).faulted cause.toNat) w ∧ b.kind = s.faultKind
      ∧ (s.faultKind = .warm → s.landings = [] → w.mem.bytes = s.mem.bytes ∧ w.mem.poison = s.mem.poison)
      ∧ (s.regb 0x0B000C 31 = false → b.state = .inReset)
      ∧ (s.regb 0x0B000C 31 = true → 3 ≤ ((s.at t).faulted cause.toNat).flt.chipFaults.length → b.state = .halted ∧ b.haltCause = 4)
      ∧ (s.regb 0x0B000C 31 = true → ((s.at t).faulted cause.toNat).flt.chipFaults.length < 3 →
          b.state = .powerOn ∧ b.lastReset = 4) := by
  have hexec : exec (.chipFault t cause) s = .next ((s.at t).chipFault cause.toNat) := rfl
  have hkind : ((s.at t).faulted cause.toNat).faultKind = s.faultKind := State.faulted_kind cause.toNat (s.at t)
  have hregb : (s.at t).regb 0x0B000C 31 = s.regb 0x0B000C 31 := rfl
  obtain ⟨-, -, -, -, hland, hbytes, hpoison, -⟩ := State.faulted_outside cause.toNat (s.at t)
  rw [hexec, State.chipFault_on (s := s.at t) hpower hhalted, hkind, hregb]
  dsimp only
  generalize (s.at t).faulted cause.toNat = z at hland hbytes hpoison ⊢
  obtain ⟨b, hafter, hb⟩ := State.afterChipFault_frame (s.regb 0x0B000C 31) (decide (3 ≤ z.flt.chipFaults.length))
    { z.wipe s.faultKind with boot := { (z.wipe s.faultKind).boot with kind := s.faultKind } }
  have hstart (auto_ third : Bool) (h : s.regb 0x0B000C 31 = auto_) (h3 : decide (3 ≤ z.flt.chipFaults.length) = third) :
      b = (State.afterChipFault auto_ third { z.wipe s.faultKind with
        boot := { (z.wipe s.faultKind).boot with kind := s.faultKind } }).boot := by
    rw [← h, ← h3, hafter]
  rw [hafter]
  refine ⟨z.wipe s.faultKind, b, rfl, State.wipe_wiped _ z, hb, fun hwarm hnone => ?_, fun h => ?_, fun h h3 => ?_, fun h h3 => ?_⟩
  · rw [hwarm]
    have hkept := State.wipe_warm (s := z) (hland.trans hnone)
    exact ⟨hkept.bytes.trans hbytes, hkept.poison.trans hpoison⟩
  · rw [hstart _ _ h rfl]
    exact State.afterChipFault_stays ..
  · rw [hstart _ _ h (decide_eq_true h3)]
    exact State.afterChipFault_halts _
  · rw [hstart _ _ h (decide_eq_false (by omega))]
    exact State.afterChipFault_starts _

/-! ### Power (R564, R573, R616, R617) -/

/-- What a loss of main power takes away and leaves. -/
def PowerLost (s u : State) : Prop :=
  u.boot.mainGood = false ∧ u.boot.mainPg = false ∧ u.jobs = [] ∧ u.requests = []
    ∧ u.landings = [] ∧ u.mem.bytes = [] ∧ u.sec.isOpen = false ∧ u.via.closed = true ∧ u.fuses = s.fuses
    ∧ u.flash.unsealCount = s.flash.unsealCount ∧ u.flt.fenceList = s.flt.fenceList

/-- A loss of main power that was good, from the state it wipes. -/
theorem State.mainLoss_lost {s : State} (h : s.boot.mainGood = true) : PowerLost s s.mainLoss ∧ s.mainLoss.boot.state = .standby
    ∧ s.mainLoss.boot.pwrEn = s.boot.pwrEn ∧ s.mainLoss.flash = s.flash ∧ s.mainLoss.out = s.out ++ s.cutPublish
    ∧ s.mainLoss.pub = none ∧ s.mainLoss.pwr.barred = s.pwr.barred := by
  obtain ⟨f, l, hout⟩ := Boot.out_frame 0 s.time s.boot
  rw [State.mainLoss_good h, hout]
  exact ⟨⟨rfl, rfl, rfl, rfl, rfl, rfl, rfl, rfl, rfl, rfl, rfl⟩, rfl, rfl, rfl, rfl, rfl, rfl⟩

section
variable (t : Nat) {s : State}

theorem exec_mainPowerLoss_none (h : s.boot.mainGood = false) : exec (.mainPowerLoss t) s = .next (s.at t) :=
  congrArg Host.Outcome.next (if_pos (by
    show (!s.boot.mainGood) = true
    rw [h]
    rfl))

theorem exec_standbyLoss_none (h : s.boot.standby = false) : exec (.standbyLoss t) s = .next (s.at t) :=
  if_pos (by
    show (!s.boot.standby) = true
    rw [h]
    rfl)

/-- A loss of standby power wipes the chip, silences the sideband and lifts the bar of a trip. -/
theorem exec_standbyLoss_lost (h : s.boot.standby = true) : ∃ u, exec (.standbyLoss t) s = .next u ∧ PowerLost s u
    ∧ u.boot.state = .inReset ∧ u.boot.standby = false ∧ u.pwr.tripped = false ∧ u.pwr.barred = false
    ∧ u.sb = { stream := none, firmware := none, abandoned := none }
    ∧ (s.sb.firmware = none → u.flash = s.flash) ∧ (s.sb.firmware ≠ none → u.flash.firmware.sound = false) := by
  have hon : ¬(!(s.at t).boot.standby) = true := by
    show ¬(!s.boot.standby) = true
    rw [h]
    decide
  refine ⟨_, if_neg hon, ⟨rfl, rfl, rfl, rfl, rfl, rfl, rfl, rfl, rfl, rfl, rfl⟩, rfl, rfl, rfl, rfl, rfl, fun hfw => ?_, fun hfw => ?_⟩
  · show { s.flash with firmware := match s.sb.firmware with
      | none => s.flash.firmware
      | some _ => { s.flash.firmware with sound := false } } = s.flash
    rw [hfw]
  · show (match s.sb.firmware with
      | none => s.flash.firmware
      | some _ => { s.flash.firmware with sound := false }).sound = false
    cases hsb : s.sb.firmware with
    | none => exact absurd hsb hfw
    | some f => rfl

/-- The fall of PWR_EN is a loss of main power. -/
theorem exec_pwrEnChange_low (h : s.boot.mainGood = true) : ∃ u, exec (.pwrEnChange t false) s = .next u ∧ PowerLost s u
    ∧ u.boot.state = .standby ∧ u.boot.pwrEn = false ∧ u.pwr.barred = s.pwr.barred := by
  obtain ⟨hlost, hstate, hen, -, -, -, hbarred⟩ := State.mainLoss_lost (s := { s.at t with
    boot := { s.boot with pwrEn := false }
    pwr := { s.pwr with enLowAt := if s.pwr.enLowAt.isSome then s.pwr.enLowAt else some (s.at t).time } }) h
  exact ⟨_, rfl, hlost, hstate, hen, hbarred⟩

/-- The rise of PWR_EN lifts the bar of a trip when the pin was low for a second. -/
theorem exec_pwrEnChange_high (s : State) : exec (.pwrEnChange t true) s = .next { s.at t with
    boot := { s.boot with pwrEn := true }
    pwr := { s.pwr with
      enLowAt := none
      barred := s.pwr.barred && !(match s.pwr.enLowAt with
        | none => false
        | some l => decide (l + 1000000000 ≤ max s.time t)) } } := rfl

theorem exec_mainPowerGood_barred (cool mode : BitVec 2)
    (h : s.boot.mainGood = true ∨ s.boot.pwrEn = false ∨ s.pwr.barred = true) :
    exec (.mainPowerGood t cool mode) s = .next (s.at t) :=
  if_pos (by
    show (s.boot.mainGood || !s.boot.pwrEn || s.pwr.barred) = true
    simpa [or_assoc] using h)

/-- Main power latches the straps, and starts the chip when the management processor stands. -/
theorem exec_mainPowerGood_comes (cool mode : BitVec 2) (hmain : s.boot.mainGood = false) (hen : s.boot.pwrEn = true)
    (hbar : s.pwr.barred = false) : exec (.mainPowerGood t cool mode) s = .next (
      let z : State := { s.at t with boot := { s.boot with mainGood := true, coolStrap := cool.toNat, portMode := mode.toNat } }
      if s.boot.standby && s.sb.firmware.isNone then z.coldStart else z) := by
  have hoff : ¬((s.at t).boot.mainGood || !(s.at t).boot.pwrEn || (s.at t).pwr.barred) = true := by
    show ¬(s.boot.mainGood || !s.boot.pwrEn || s.pwr.barred) = true
    rw [hmain, hen, hbar]
    decide
  exact (if_neg hoff).trans (apply_ite Host.Outcome.next _ _ _).symm

theorem exec_standbyUp_again (h : s.boot.standby = true) : exec (.standbyUp t) s = .next (s.at t) := if_pos h

/-- Standby power starts a chip whose main power stands. -/
theorem exec_standbyUp_comes (h : s.boot.standby = false) : exec (.standbyUp t) s = .next (
    let z : State := { s.at t with boot := { s.boot with standby := true, state := .standby } }
    if s.boot.mainGood then z.coldStart else z) := by
  have hoff : ¬(s.at t).boot.standby = true := by
    show ¬s.boot.standby = true
    rw [h]
    decide
  exact (if_neg hoff).trans (apply_ite Host.Outcome.next _ _ _).symm

end

/-! ### Port resets (R247, R407, R408, R566, R579) -/

/-- No landing with the host right is open on a port, ticks run, and no INGEST job does. -/
def State.hostless (p : Nat) (s : State) : Prop := (∀ e ∈ s.landings, ¬(e.2.host = true ∧ e.2.port = p))
  ∧ s.ticking = true ∧ ∀ j, s.job? = some j → j.type ≠ .ingest

/-- Whether a reset of a port, or of one partition on it, concerns partition `k` of port `q`. -/
def resetOf (p : Nat) (part : Option Nat) (q k : Nat) : Bool := decide (q = p) && (match part with
  | none => true
  | some x => decide (k = x))

/-- Whether such a reset concerns what lane `lane` of the port expects. -/
def State.laneOf (s : State) (p : Nat) (part : Option Nat) (lane : Nat) : Bool := match part with
  | none => true
  | some x => s.regb (tollPage p (lane / 64)) 31 && decide (s.regf (tollPage p (lane / 64)) 0 8 = x)

/-- What the hosts concerned have placed, without landings of theirs and while ticks run. -/
def State.unplaced (p : Nat) (part : Option Nat) (s : State) : State :=
  { s with
    requests := s.requests.map (fun e => (e.1, { e.2 with dropped := e.2.dropped || resetOf p part e.2.port e.2.partition }))
    handles := s.handles.map (fun e =>
      (e.1, if resetOf p part e.2.port e.2.partition && decide (e.2.gone = 0) then { e.2 with gone := 1, reserve := 0 } else e.2))
    waiting := s.waiting.filter (fun w => !(kfind? s.handles w.handle).elim false (fun i => resetOf p part i.port i.partition))
    named := s.named.filter (fun e => !resetOf p part (handlePort e.1) e.2)
    logs := s.logs.filter (fun e => !resetOf p part (e.1 / 256) (e.1 % 256))
    lanes := s.lanes.filter (fun e => !(decide (e.1 / 8192 = p) && s.laneOf p part (e.1 % 8192)))
    tick := { s.tick with keyRecs := s.tick.keyRecs.filter (fun r => !resetOf p part r.port r.partition) }
    pub := s.pub.map (fun x => { x with items := x.items.filter (fun i => !i.goesWith p part) }) }

theorem State.dropHosts_hostless {p : Nat} {s : State} (part : Option Nat) (h : s.hostless p) :
    s.dropHosts p part = s.unplaced p part := by
  obtain ⟨hland, htick, -⟩ := h
  have hnone (f : Nat × Landing → Bool) : s.landings.filter (fun e => e.2.host && decide (e.2.port = p) && f e) = [] := by
    refine List.filter_eq_nil_iff.2 fun e he hmine => hland e he ?_
    simp only [Bool.and_eq_true, decide_eq_true_eq] at hmine
    exact hmine.1
  unfold State.dropHosts
  dsimp only
  rw [hnone]
  exact if_pos htick

theorem State.failFetch_hostless {p : Nat} {s : State} (h : ∀ j, s.job? = some j → j.type ≠ .ingest) : s.failFetch p = s := by
  unfold State.failFetch
  split
  · next id j hrun hjob => exact if_neg fun hc => h j hjob hc.1
  · rfl

/-- The port of a reset, closed; a function-level reset keeps the link. -/
def State.portClosed (p : Nat) (flr : Bool) (s : State) : State :=
  s.modPort p (fun _ => { Port.down with linkUp := flr && (s.port p).linkUp, inReset := !(flr && (s.port p).linkUp) })

theorem State.portClosed_port_other {p q : Nat} (h : q ≠ p) (flr : Bool) (s : State) : (s.portClosed p flr).port q = s.port q :=
  kget_kset_other _ _ h _

theorem State.portClosed_port (p : Nat) (s : State) : (s.portClosed p false).port p = Port.down := kget_kset_same _ _ _ _

theorem State.portReset_starting {p : Nat} {s : State} (flr : Bool) (h : s.boot.state ≠ .ready) : s.portReset p flr = s.portClosed p flr :=
  if_pos h

/-- The registers and the count of a port reset of a READY chip. -/
def State.resetCounted (p : Nat) (s : State) : State :=
  ((s.inc (tollCtr p 0x20) 1).setReg (tollPort p 4) 0).setReg (tollPort p 8) 0

theorem State.resetCounted_frame (p : Nat) (s : State) : ∃ c r, s.resetCounted p = { s with counters := c, regs := r } := by
  obtain ⟨c, hc⟩ := State.inc_counters (tollCtr p 0x20) 1 s
  unfold State.resetCounted
  rw [hc]
  exact ⟨c, _, rfl⟩

theorem State.resetCounted_regs (p : Nat) (s : State) :
    (s.resetCounted p).regw (tollPort p 4) = 0 ∧ (s.resetCounted p).regw (tollPort p 8) = 0 := by
  have hne : tollPort p 4 ≠ tollPort p 8 := by
    unfold tollPort
    omega
  refine ⟨?_, State.setReg_regw_same _ _ _⟩
  exact (State.setReg_regw_other hne _ _).trans (State.setReg_regw_same _ _ _)

theorem State.portReset_ready {p : Nat} {s : State} (flr : Bool) (hready : s.boot.state = .ready) (h : s.hostless p) :
    s.portReset p flr = ((s.portClosed p flr).resetCounted p).unplaced p none := by
  obtain ⟨c, r, hframe⟩ := State.resetCounted_frame p (s.portClosed p flr)
  have hsame : ((s.portClosed p flr).resetCounted p).hostless p := by
    rw [hframe]
    exact h
  have hdrop := State.dropHosts_hostless none hsame
  have hfetch : (((s.portClosed p flr).resetCounted p).unplaced p none).failFetch p = ((s.portClosed p flr).resetCounted p).unplaced p none :=
    State.failFetch_hostless fun j hj => hsame.2.2 j hj
  unfold State.portReset
  dsimp only
  rw [if_neg (not_not_intro hready)]
  exact (congrArg (State.failFetch p) hdrop).trans hfetch

/-- What the statement says that a reset takes from the hosts it concerns. -/
def Gone (f : Nat → Nat → Bool) (s u : State) : Prop :=
  u.requests = s.requests.map (fun e => (e.1, { e.2 with dropped := e.2.dropped || f e.2.port e.2.partition }))
  ∧ u.handles = s.handles.map (fun e => (e.1, if f e.2.port e.2.partition && decide (e.2.gone = 0) then
      { e.2 with gone := 1, reserve := 0 } else e.2))
  ∧ u.waiting = s.waiting.filter (fun w => !(kfind? s.handles w.handle).elim false (fun i => f i.port i.partition))
  ∧ u.logs = s.logs.filter (fun e => !f (e.1 / 256) (e.1 % 256)) ∧ u.jobs = s.jobs ∧ u.mem = s.mem ∧ u.landings = s.landings

theorem State.unplaced_gone (p : Nat) (part : Option Nat) (s : State) : Gone (resetOf p part) s (s.unplaced p part) :=
  ⟨rfl, rfl, rfl, rfl, rfl, rfl, rfl⟩

theorem resetOf_port (p : Nat) : resetOf p none = fun q _ => decide (q = p) := by
  funext q k
  exact Bool.and_true _

/-- A port reset of a READY chip: the port is closed, its registers and expected SEQs go, and what its hosts have placed. -/
theorem State.portReset_spec {p : Nat} {s : State} (flr : Bool) (hready : s.boot.state = .ready) (h : s.hostless p) :
    Gone (fun q _ => decide (q = p)) s (s.portReset p flr)
      ∧ (s.portReset p flr).pub = s.pub.map (fun x => { x with items := x.items.filter (fun i => !i.goesWith p none) })
      ∧ (s.portReset p flr).lanes = s.lanes.filter (fun e => !decide (e.1 / 8192 = p))
      ∧ (s.portReset p flr).regw (tollPort p 4) = 0 ∧ (s.portReset p flr).regw (tollPort p 8) = 0
      ∧ (s.portReset p flr).ports = (s.portClosed p flr).ports ∧ (s.portReset p flr).perstLow = s.perstLow := by
  obtain ⟨hmarker, hmarker'⟩ := State.resetCounted_regs p (s.portClosed p flr)
  obtain ⟨c, r, hframe⟩ := State.resetCounted_frame p (s.portClosed p flr)
  have hgone := State.unplaced_gone p none ((s.portClosed p flr).resetCounted p)
  rw [State.portReset_ready flr hready h, ← resetOf_port]
  rw [hframe] at hgone hmarker hmarker' ⊢
  refine ⟨hgone, rfl, ?_, hmarker, hmarker', rfl, rfl⟩
  show s.lanes.filter (fun e => !(decide (e.1 / 8192 = p) && true)) = _
  simp only [Bool.and_true]

section
variable (t : Nat) (p : Fin 4) {s : State}

theorem exec_portReset_none (c : PortResetCause) (h : s.portPresent p.val = false ∨ (s.port p.val).inReset = true) :
    exec (.portReset t p c) s = .next (s.at t) :=
  if_pos (by
    show (!s.portPresent p.val || (s.port p.val).inReset) = true
    simpa using h)

theorem exec_portReset (c : PortResetCause) (hpresent : s.portPresent p.val = true) (hout : (s.port p.val).inReset = false) :
    exec (.portReset t p c) s = .next ((s.at t).portReset p.val (decide (c = .pfFlr))) :=
  if_neg (by
    show ¬(!s.portPresent p.val || (s.port p.val).inReset) = true
    rw [hpresent, hout]
    decide)

/-- The state in which the PERST pin of a port is low. -/
def State.pinLow (p : Nat) (s : State) : State := { s with perstLow := p :: s.perstLow.filter (· ≠ p) }

theorem exec_perst_low (hpresent : s.portPresent p.val = true) (hout : (s.port p.val).inReset = false) :
    exec (.perst t p true) s = .next (((s.at t).pinLow p.val).portReset p.val false) :=
  if_neg (by
    show ¬(!true || !s.portPresent p.val || (s.port p.val).inReset) = true
    rw [hpresent, hout]
    decide)

theorem exec_vfFlr (vf : BitVec 8) (hopen : s.portOpen p.val = true) : exec (.vfFlr t p vf) s = match s.vfPart? p.val vf.toNat with
    | none => .next ((s.at t).inc (tollCtr p.val 0x20) 1)
    | some k => .next (((s.at t).inc (tollCtr p.val 0x20) 1).dropHosts p.val (some k)) := by
  have hon : ¬(!(s.at t).portOpen p.val) = true := by
    show ¬(!s.portOpen p.val) = true
    rw [hopen]
    decide
  obtain ⟨c, hc⟩ := State.inc_counters (tollCtr p.val 0x20) 1 (s.at t)
  refine (if_neg hon).trans ?_
  rw [hc]
  rfl

theorem exec_pcieLinkUp (s : State) : exec (.pcieLinkUp t p) s
    = if s.powered && s.portPresent p.val && !s.perstLow.contains p.val && !(s.port p.val).linkUp then
        .next ((s.at t).modPort p.val (fun _ => { Port.down with linkUp := true, inReset := false }))
      else .next (s.at t) := rfl

end

/-! ### The statement -/

/-- Settles O47: a reset by what `wipe` leaves, for each cause and each input power; a port's by what its hosts have placed. That
a READY or a cold start decides the kind of a chip fault's reset, what a requested reset restarts below READY and what a reset
drops of a publish are the model's choices of log entries 11, 27 and 28. -/
theorem resetsPowerAndPorts : Obligations.ResetsPowerAndPorts := by
  unfold Obligations.ResetsPowerAndPorts
  refine ⟨⟨fun k s => ?_, fun t who value s y hreached => ?_, fun t s => ⟨fun h => ?_, fun k hk hfree => ?_⟩⟩,
    fun t cause s => ?_, ?_, ?_⟩
  · have hw := State.wipe_wiped k (s.beforeReset k)
    have hcold := State.wipe_cold (s.beforeReset k)
    have hwarm := State.wipe_warm (s := s.beforeReset k)
    rw [State.takeReset_eq]
    refine ⟨rfl, rfl, ?_, ?_, hw.requests, hw.handles, hw.logs, hw.landings, hw.jobs, hw.running, hw.cache, hw.counters, hw.tick,
      hw.closed, hw.isSealed, hw.meas, hw.debugUsed, hw.flash, hw.fuses, hw.fenceList, hw.flashLog, fun h => ?_, fun h hnone => ?_⟩
    · cases k <;> rfl
    · exact congrArg Boot.deferred hw.boot
    · subst h
      exact ⟨hcold.bytes, hcold.poison, hcold.repairLog, hcold.hot, hcold.ended, hcold.log, hcold.span⟩
    · subst h
      have hw := hwarm hnone
      exact ⟨hw.bytes, hw.poison, hw.lgs, hw.rows, hw.log, hw.ended⟩
  · intro c k
    have hexec : exec (c k) s = .next (y.requestReset k) := exec_resetCommand value hreached k
    have hboot := hreached.boot
    rw [hexec]
    refine ⟨fun hready => ?_, fun hhalted => ?_, fun hstart => ?_⟩
    · rw [State.requestReset_ready k (by rwa [hboot]), hboot]
      exact ⟨fun hfree => by rw [hfree]; rfl, fun hwait => by rw [hwait]; rfl⟩
    · rw [State.requestReset_halted k (by rwa [hboot])]
    · rw [State.requestReset_starting k (by rwa [hboot]), hboot]
  · rw [exec_resetTakesEffect]
    obtain hnone | hwait := h
    · rw [hnone]
    · split
      · rfl
      · exact if_pos hwait
  · rw [exec_resetTakesEffect, hk]
    exact if_neg (by simp [hfree])
  · intro now recent k
    refine ⟨exec_chipFault_off, fun hpower hhalted => ?_⟩
    obtain ⟨w, b, hexec, hw, hkind, hkept, hstay, hhalt, hstart⟩ := exec_chipFault_on (t := t) (cause := cause) hpower hhalted
    obtain ⟨-, -, hflash, hfuses, -, -, -, hfence, hchip⟩ := State.faulted_outside cause.toNat (s.at t)
    have hlength : ((s.at t).faulted cause.toNat).flt.chipFaults.length = recent.length + 1 := congrArg List.length hchip
    rw [hlength] at hhalt hstart
    exact ⟨_, hexec, hw.jobs, hw.requests, hw.handles, hw.landings, hw.running, congrArg Tick.active hw.tick, hw.isSealed, hw.closed,
      hkind, rfl, hw.chipFaults.trans hchip, hw.flash.trans hflash, hw.fuses.trans hfuses, hw.fenceList.trans hfence, hkept, hstay,
      fun h h3 => hhalt h (by omega), fun h h3 => hstart h (by omega)⟩
  · intro lost
    refine ⟨fun t s => ⟨exec_mainPowerLoss_none t, fun hmain => ?_⟩, fun t s => ⟨exec_standbyLoss_none t, exec_standbyLoss_lost t⟩,
      fun t s => ⟨exec_pwrEnChange_low t, _, exec_pwrEnChange_high t s, rfl, rfl, fun l hl => ?_⟩,
      fun t cool mode s => ⟨exec_mainPowerGood_barred t cool mode, fun hmain hen hbar => ⟨_,
        exec_mainPowerGood_comes t cool mode hmain hen hbar, ?_⟩⟩,
      fun t s => ⟨exec_standbyUp_again t, fun hoff => ⟨_, exec_standbyUp_comes t hoff, ?_⟩⟩⟩
    · obtain ⟨hlost, hstate, -, hflash, hout, hpub, -⟩ := State.mainLoss_lost (s := s.at t) hmain
      exact ⟨_, rfl, hlost, hstate, hflash, hout, hpub⟩
    · dsimp only
      rw [hl]
      exact ⟨fun h => by simp [h], fun h => by simp [Nat.not_le.2 h]⟩
    · have hstart : s.boot.standby = true → s.sb.firmware = none → (s.boot.standby && s.sb.firmware.isNone) = true := fun h hfw => by
        rw [h, hfw]
        rfl
      dsimp only
      by_cases hgo : (s.boot.standby && s.sb.firmware.isNone) = true
      · rw [if_pos hgo]
        refine ⟨rfl, rfl, rfl, rfl, fun _ _ => ⟨rfl, rfl, rfl, rfl⟩, fun h => ?_⟩
        rw [h] at hgo
        exact Bool.noConfusion hgo
      · rw [if_neg hgo]
        exact ⟨rfl, rfl, rfl, rfl, fun h hfw => absurd (hstart h hfw) hgo, fun _ => rfl⟩
    · dsimp only
      cases s.boot.mainGood with
      | true => exact ⟨rfl, rfl, fun h => Bool.noConfusion h, fun _ => ⟨rfl, rfl, rfl⟩⟩
      | false => exact ⟨rfl, rfl, fun _ => rfl, fun h => Bool.noConfusion h⟩
  · intro noHost gone
    refine ⟨fun t p c s hpresent hout hready hhost => ⟨⟨_, exec_portReset t p c hpresent hout, ?_⟩, _,
        exec_perst_low t p hpresent hout, ?_⟩,
      fun t p c s => ⟨exec_portReset_none t p c, fun hpresent hout hstart => ⟨_, exec_portReset t p c hpresent hout, ?_⟩, rfl⟩,
      fun t p vf s hopen hhost => ⟨fun hnone => ?_, fun k hk => ?_⟩, fun t p s => ⟨fun hpower hpresent hpin hlink => ?_, fun h => ?_⟩⟩
    · obtain ⟨hgone, hpub, hlanes, hmarker, hmarker', hports, -⟩ :=
        State.portReset_spec (s := s.at t) (decide (c = .pfFlr)) hready hhost
      have hport (q : Nat) : ((s.at t).portReset p.val (decide (c = .pfFlr))).port q
          = ((s.at t).portClosed p.val (decide (c = .pfFlr))).port q := congrArg (fun l => kget Port.down l q) hports
      refine ⟨hgone, hpub, hlanes, hmarker, hmarker', fun hc => ?_, fun q hq => (hport q).trans (State.portClosed_port_other hq ..)⟩
      have hdown : ((s.at t).portReset p.val (decide (c = .pfFlr))).port p.val = Port.down := by
        rw [hport, decide_eq_false hc]
        exact State.portClosed_port ..
      refine ⟨hdown, ?_⟩
      unfold State.portOpen
      rw [hdown]
      exact Bool.and_false _
    · obtain ⟨hgone, -, -, -, -, hports, hlow⟩ := State.portReset_spec (s := (s.at t).pinLow p.val) false hready hhost
      have hport (q : Nat) : (((s.at t).pinLow p.val).portReset p.val false).port q
          = (((s.at t).pinLow p.val).portClosed p.val false).port q := congrArg (fun l => kget Port.down l q) hports
      refine ⟨hgone, ?_, (hport _).trans (State.portClosed_port ..), fun q hq => (hport q).trans (State.portClosed_port_other hq ..)⟩
      rw [hlow]
      exact List.mem_cons_self
    · rw [State.portReset_starting (s := s.at t) _ hstart]
      refine ⟨rfl, ?_, fun q hq => State.portClosed_port_other hq ..⟩
      unfold State.portOpen
      rw [decide_eq_false (p := (State.portClosed p.val _ (s.at t)).boot.state = BootState.ready) hstart]
      rfl
    · rw [exec_vfFlr t p vf hopen, hnone]
    · obtain ⟨n, hn⟩ := State.inc_counters (tollCtr p.val 0x20) 1 (s.at t)
      rw [exec_vfFlr t p vf hopen, hk]
      dsimp only
      rw [hn, State.dropHosts_hostless (s := { s.at t with counters := n }) (some k) hhost]
      exact ⟨_, rfl, State.unplaced_gone p.val (some k) { s.at t with counters := n }, rfl, rfl⟩
    · rw [exec_pcieLinkUp, if_pos (by simp [hpower, hpresent, hpin, hlink])]
      have hport : ((s.at t).modPort p.val (fun _ => { Port.down with linkUp := true, inReset := false })).port p.val
          = { Port.down with linkUp := true, inReset := false } := kget_kset_same _ _ _ _
      refine ⟨_, rfl, rfl, hport, fun q hq => kget_kset_other _ _ hq _, fun hready => ?_⟩
      unfold State.portOpen
      rw [hport]
      have hthere : (decide (s.boot.state = BootState.ready) && s.portPresent p.val) = true := by simp [hready, hpresent]
      exact congrArg (fun b => b && true && true) hthere
    · rw [exec_pcieLinkUp]
      refine if_neg fun hc => ?_
      simp only [Bool.and_eq_true, Bool.not_eq_true', List.contains_eq_mem, decide_eq_false_iff_not] at hc
      obtain ⟨⟨⟨hpower, -⟩, hpin⟩, hlink⟩ := hc
      obtain h | h | h := h
      · exact Bool.noConfusion (hpower.symm.trans h)
      · exact hpin h
      · exact Bool.noConfusion (hlink.symm.trans h)

end Sys2Proof.Machine
end

section
/-! PROOFS. The start sequence: firmware, stack training, self-test, the way to READY (spec/18_reset.md, R563 to R571, R591,
R594). -/

namespace Sys2Proof.Machine
open Sys2Proof

/-! ### Measurements (R594) -/

theorem State.extend_slot (i : Nat) (d : BitVec 384) (s : State) :
    (s.extend i d).slot i = sha384 (digestBytes (s.slot i) ++ digestBytes d ++ natToBytes 4 i) := kget_kset_same _ _ _ _

theorem State.extend_slot_other {i j : Nat} (h : j ≠ i) (d : BitVec 384) (s : State) : (s.extend i d).slot j = s.slot j :=
  kget_kset_other _ _ h _

/-! ### PIER_BOOT (R563, R591) -/

theorem State.firmwareOk_iff (s : State) : s.firmwareOk = true ↔ s.flash.firmware.sound = true
    ∧ s.fuses.revoked.getLsbD s.flash.firmware.rootPair = false ∧ s.fuses.minSvn ≤ s.flash.firmware.svn := by
  unfold State.firmwareOk
  simp [and_assoc]

theorem exec_pierBoot_none {t : Nat} {s : State} (h : s.boot.state ≠ .powerOn ∨ s.boot.mainGood = false) :
    exec (.pierBoot t) s = .next (s.at t) :=
  if_pos (h.imp_right fun hmain => by
    show (!s.boot.mainGood) = true
    rw [hmain]
    rfl)

theorem exec_pierBoot {t : Nat} {s : State} (hstate : s.boot.state = .powerOn) (hmain : s.boot.mainGood = true) :
    exec (.pierBoot t) s = if s.firmwareOk then
        .next (State.extend 0 s.flash.firmware.digest { s.at t with boot := { s.boot with state := .pierBoot, mainPg := true } })
      else .next { s.at t with boot := { s.boot with state := .halted, mainPg := true, haltCause := 1 } } :=
  if_neg (by
    show ¬(s.boot.state ≠ BootState.powerOn ∨ (!s.boot.mainGood) = true)
    simp [hstate, hmain])

/-! ### MEM_TRAIN (R362, R568) -/

/-- A stack as training leaves it, before its state is settled by its lane groups. -/
def Stack.fresh (temp : Nat) : Stack :=
  { state := .active, level := throttleLevel 0 temp, temp := temp, trainTemp := temp, shortCuts := 0 }

section
variable {s : State} {i temp : Nat}

theorem State.trainStack_frame (i : Nat) (failed : Bool) (temp : Nat) (s : State) : ∃ k b,
    s.trainStack i failed temp = { s with mem := { s.mem with stk := k }, boot := { s.boot with newLost := b } } := by
  unfold State.trainStack
  split
  · exact ⟨_, _, rfl⟩
  · split
    · exact ⟨_, _, rfl⟩
    · obtain ⟨k, hk⟩ := State.grade_frame i (s.modStk i (fun _ => Stack.fresh temp))
      exact ⟨_, _, hk⟩

theorem State.grade_stk_other {j : Nat} (h : j ≠ i) (s : State) : (s.grade i).stk j = s.stk j := by
  unfold State.grade
  dsimp only
  split
  · rfl
  · exact State.modStk_stk_other h ..

theorem State.trainStack_other {j : Nat} (h : j ≠ i) (failed : Bool) (temp : Nat) (s : State) :
    (s.trainStack i failed temp).stk j = s.stk j := by
  unfold State.trainStack
  split
  · rfl
  · split
    · exact State.modStk_stk_other h (fun x => { x with state := .lost }) s
    · exact (State.grade_stk_other h _).trans (State.modStk_stk_other h ..)

theorem State.trainStack_fails (hlost : s.stackLost i = false) : (s.trainStack i true temp).stackLost i = true := by
  unfold State.trainStack
  rw [if_neg (by rw [hlost]; decide), if_pos rfl]
  have hstk : (s.modStk i (fun x => { x with state := .lost })).stk i = { s.stk i with state := .lost } :=
    State.modStk_stk_same ..
  exact decide_eq_true (congrArg Stack.state hstk)

/-- A stack leaves training at the level of its reading. -/
def Stack.trained (temp : Nat) (x : Stack) : Prop :=
  (x.state = .active ∨ x.state = .degraded) ∧ x.level = throttleLevel 0 temp ∧ x.trainTemp = temp

theorem State.trainStack_passes (hlost : s.stackLost i = false) : ((s.trainStack i false temp).stk i).trained temp := by
  unfold State.trainStack
  rw [if_neg (by rw [hlost]; decide), if_neg (by decide)]
  have hstk := State.modStk_stk_same i (fun _ => Stack.fresh temp) s
  show ((s.modStk i (fun _ => Stack.fresh temp)).grade i).stk i |>.trained temp
  generalize s.modStk i (fun _ => Stack.fresh temp) = u at hstk ⊢
  unfold State.grade
  rw [hstk]
  dsimp only [Stack.fresh]
  rw [if_neg (by decide), State.modStk_stk_same, hstk]
  refine ⟨?_, rfl, rfl⟩
  dsimp only
  split
  · exact .inr rfl
  · exact .inl rfl

end

/-- The stacks of a list leave training, one after the other. -/
def State.train (failed : BitVec 32) (temps : List Byte) (l : List Nat) (s : State) : State :=
  l.foldl (fun (s : State) (i : Nat) => s.trainStack i (failed.getLsbD i) (temps.getD i 0#8).toNat) s

section
variable (failed : BitVec 32) (temps : List Byte)

theorem State.train_frame (l : List Nat) (s : State) : ∃ k b,
    s.train failed temps l = { s with mem := { s.mem with stk := k }, boot := { s.boot with newLost := b } } := by
  induction l generalizing s with
  | nil => exact ⟨_, _, rfl⟩
  | cons i l ih =>
    obtain ⟨k, b, h⟩ := State.trainStack_frame i (failed.getLsbD i) (temps.getD i 0#8).toNat s
    obtain ⟨k', b', h'⟩ := ih (s.trainStack i (failed.getLsbD i) (temps.getD i 0#8).toNat)
    refine ⟨k', b', h'.trans ?_⟩
    rw [h]

theorem State.train_other {l : List Nat} {j : Nat} (h : j ∉ l) (s : State) : (s.train failed temps l).stk j = s.stk j := by
  induction l generalizing s with
  | nil => rfl
  | cons i l ih =>
    simp only [List.mem_cons, not_or] at h
    exact (ih h.2 _).trans (State.trainStack_other h.1 ..)

/-- Each stack of the list leaves training once, as it entered. -/
theorem State.train_mem {l : List Nat} (hl : l.Nodup) {i : Nat} (hi : i ∈ l) (s : State) : ∃ z : State, z.stk i = s.stk i
    ∧ (s.train failed temps l).stk i = (z.trainStack i (failed.getLsbD i) (temps.getD i 0#8).toNat).stk i := by
  induction l generalizing s with
  | nil => cases hi
  | cons j l ih =>
    obtain ⟨hj, hl⟩ := List.nodup_cons.1 hl
    by_cases hij : i = j
    · subst hij
      exact ⟨s, rfl, State.train_other failed temps hj _⟩
    · obtain ⟨z, hz, hu⟩ := ih hl ((List.mem_cons.1 hi).resolve_left hij) (s.trainStack j (failed.getLsbD j) (temps.getD j 0#8).toNat)
      exact ⟨z, hz.trans (State.trainStack_other hij ..), hu⟩

section
variable {s : State} {i : Nat} (hi : i < 32) (hlost : s.stackLost i = false)
include hi hlost

theorem State.train_lost (hfail : failed.getLsbD i = true) : (s.train failed temps (List.range 32)).stackLost i = true := by
  obtain ⟨z, hz, hu⟩ := State.train_mem failed temps List.nodup_range (List.mem_range.2 hi) s
  rw [hfail] at hu
  have hzlost : z.stackLost i = false := by unfold State.stackLost; rw [hz]; exact hlost
  have hall := State.trainStack_fails (temp := (temps.getD i 0#8).toNat) hzlost
  unfold State.stackLost at hall ⊢
  rwa [hu]

theorem State.train_trained (hpass : failed.getLsbD i = false) :
    ((s.train failed temps (List.range 32)).stk i).trained (temps.getD i 0#8).toNat := by
  obtain ⟨z, hz, hu⟩ := State.train_mem failed temps List.nodup_range (List.mem_range.2 hi) s
  rw [hpass] at hu
  have hzlost : z.stackLost i = false := by unfold State.stackLost; rw [hz]; exact hlost
  rw [hu]
  exact State.trainStack_passes hzlost

end

/-- R568: no stack is left when every one has failed, and only then. -/
theorem State.train_none {s : State} (hlost : ∀ i, i < 32 → s.stackLost i = false) :
    (s.train failed temps (List.range 32)).liveStacks.isEmpty = true ↔ failed = BitVec.allOnes 32 := by
  have hiff (i : Nat) (hi : i < 32) : (s.train failed temps (List.range 32)).stackLost i = failed.getLsbD i := by
    cases hfail : failed.getLsbD i with
    | true => exact State.train_lost failed temps hi (hlost i hi) hfail
    | false =>
      obtain ⟨hstate, -, -⟩ := State.train_trained failed temps hi (hlost i hi) hfail
      refine decide_eq_false fun h => ?_
      rw [h] at hstate
      obtain h | h := hstate <;> cases h
  unfold State.liveStacks
  rw [List.isEmpty_iff, List.filter_eq_nil_iff]
  refine ⟨fun h => BitVec.eq_of_getLsbD_eq fun i hi => ?_, fun h i hi => ?_⟩
  · have hi' := h i (List.mem_range.2 hi)
    rw [hiff i hi, Bool.not_eq_true', Bool.not_eq_false] at hi'
    rw [hi', BitVec.getLsbD_allOnes, decide_eq_true hi]
  · rw [hiff i (List.mem_range.1 hi), h, BitVec.getLsbD_allOnes, decide_eq_true (List.mem_range.1 hi)]
    decide

end

/-- R362: over a cold start the logged repairs are applied again. -/
def State.repaired (s : State) : State :=
  if s.boot.kind = .cold then { s with mem := { s.mem with lgs := s.mem.repairLog, rows := s.mem.rowLog } } else s

theorem State.repaired_frame (s : State) : ∃ g r, s.repaired = { s with mem := { s.mem with lgs := g, rows := r } }
    ∧ (s.boot.kind = .cold → g = s.mem.repairLog ∧ r = s.mem.rowLog) ∧ (s.boot.kind = .warm → g = s.mem.lgs ∧ r = s.mem.rows) := by
  unfold State.repaired
  split
  · next h => exact ⟨_, _, rfl, fun _ => ⟨rfl, rfl⟩, fun hwarm => by cases h.symm.trans hwarm⟩
  · next h => exact ⟨s.mem.lgs, s.mem.rows, rfl, fun hcold => absurd hcold h, fun _ => ⟨rfl, rfl⟩⟩

theorem exec_memTrainDone_none {t : Nat} {failed : BitVec 32} {temps : List Byte} {s : State} (h : s.boot.state ≠ .pierBoot) :
    exec (.memTrainDone t failed temps) s = .next (s.at t) := if_pos h

theorem exec_memTrainDone {t : Nat} {failed : BitVec 32} {temps : List Byte} {s : State} (h : s.boot.state = .pierBoot) :
    exec (.memTrainDone t failed temps) s = .next (
      let z := (s.at t).repaired.train failed temps (List.range 32)
      if z.liveStacks.isEmpty then z.halt 3 else { z with boot := { z.boot with state := .selftest } }) := by
  have hon : ¬(s.at t).boot.state ≠ .pierBoot := not_not_intro h
  show execMemTrainDone t failed temps s = _
  unfold execMemTrainDone State.train State.repaired
  dsimp only
  rw [if_neg hon]
  exact (apply_ite Host.Outcome.next _ _ _).symm

/-! ### SELFTEST (R436, R502, R569) -/

section
variable {t : Nat} {s : State} (ok : Bool) (bad : BitVec 132) (pass : Bool)

theorem exec_selftestDone_outside (h : s.boot.state ≠ .selftest) : exec (.selftestDone t ok bad pass) s
    = .next ((s.at t).endSelftestJob (ok && decide (bad = 0) && pass)) := if_pos h

theorem State.endSelftestJob_none (h : ∀ j, s.job? = some j → j.type ≠ .selftest) : s.endSelftestJob ok = s := by
  unfold State.endSelftestJob
  split
  · next id j hrun hjob => exact if_neg (h j hjob)
  · rfl

theorem State.endSelftestJob_ends {id : Nat} {j : Job} (hrun : s.running = some id) (hjob : s.job? = some j)
    (htype : j.type = .selftest) : s.endSelftestJob ok = s.pausePoint id (some (if ok then 0x00 else 0x07)) := by
  unfold State.endSelftestJob
  rw [hrun, hjob]
  exact if_pos htype

theorem exec_selftestDone_routers (h : s.boot.state = .selftest) : exec (.selftestDone t false bad pass) s
    = .next { s.at t with boot := { s.boot with state := .halted, haltCause := 2, stResult := 3 } } :=
  (if_neg (not_not_intro h)).trans (if_pos rfl)

/-- The spans that the self-test covers: those that are ACTIVE or SPARE. -/
def State.testedSpans (s : State) : List Nat :=
  (List.range 132).filter (fun p => decide ((s.mapEntry p).status = SpanStatus.active ∨ (s.mapEntry p).status = SpanStatus.spare))

/-- R569: with no span failing the self-test ends with the trestle unit's state and the stacks that are lost. -/
theorem exec_selftestDone_spansOk (h : s.boot.state = .selftest) : exec (.selftestDone t true 0 pass) s = .next { s.at t with
    trs := s.trs.started pass
    boot := { s.boot with state := .hostEnable, stResult := if decide (32 - s.liveStacks.length = 0) then 1 else 2
                          stTrestle := if pass then 1 else 2, stTested := s.testedSpans.length, stFenced := 0
                          stLost := 32 - s.liveStacks.length } } := by
  have hbad (l : List Nat) : l.filter (fun p => (0 : BitVec 132).getLsbD p) = [] := by simp
  have hon : ¬(s.at t).boot.state ≠ .selftest := not_not_intro h
  show execSelftestDone t true 0 pass s = _
  unfold execSelftestDone
  dsimp only
  rw [if_neg hon, if_neg (by decide), hbad]
  rfl

end

theorem State.liveStacks_all (s : State) : 32 - s.liveStacks.length = 0 ↔ ∀ i, i < 32 → s.stackLost i = false := by
  have hlength : s.liveStacks.length ≤ 32 := (List.length_filter_le ..).trans (by simp)
  have hall : s.liveStacks.length = (List.range 32).length ↔ ∀ i ∈ List.range 32, (!s.stackLost i) = true :=
    List.length_filter_eq_length_iff
  simp only [List.length_range, List.mem_range, Bool.not_eq_true'] at hall
  rw [← hall]
  omega

theorem TrestleUnit.started_fenced {x : TrestleUnit} (h : x.state = .fenced) (pass : Bool) : x.started pass = x := if_pos h

theorem TrestleUnit.started_pass {x : TrestleUnit} (h : x.state ≠ .fenced) : x.started true = { x with state := .inService } :=
  (if_neg h).trans (if_pos rfl)

theorem TrestleUnit.started_fail {x : TrestleUnit} (h : x.state ≠ .fenced) (hfew : x.suspects < 2) :
    (x.started false).state = .suspect := by
  unfold TrestleUnit.started
  rw [if_neg h, if_neg (by decide)]
  unfold TrestleUnit.suspectEntry
  exact if_neg (by rw [decide_eq_true_eq]; omega)

/-! ### HOST_ENABLE (R508, R576, R594) -/

theorem exec_hostEnable_none {t : Nat} {s : State} (h : s.boot.state ≠ .hostEnable) : exec (.hostEnable t) s = .next (s.at t) :=
  if_pos h

theorem State.becomeReady_frame (s : State) : ∃ b w f,
    { s with boot := { s.boot with state := .ready, bootMs := min 32767 ((s.time - s.boot.startedAt) / 1000000) } }.latchCap.endOutage
      = { s with boot := b, pwr := w, flt := f } ∧ b.state = .ready
      ∧ w = { s.pwr with
        capW := if s.regf 0x0D0004 16 16 = 0 then profileCap s.boot.coolStrap
          else min (profileCap s.boot.coolStrap) (max 600 (s.regf 0x0D0004 16 16))
        brakeW := max 400 (s.regf 0x0D0004 0 16) } := by
  unfold State.endOutage
  split
  · exact ⟨_, _, _, rfl, rfl, rfl⟩
  · exact ⟨_, _, _, rfl, rfl, rfl⟩

/-- R571, R622: on a cool chip without hard limiting READY sets the cap in force and the memory rate cap, and nothing more acts. -/
theorem State.becomeReady_cool {s : State} (hhard : s.pwr.hard = false) (hstk : ∀ e ∈ s.mem.stk, e.2.level ≠ 11)
    (hdie : s.pwr.dieMax < 105) : ∃ b w f, s.becomeReady
      = { s with boot := b, pwr := w, flt := f, mem := { s.mem with rateCap := if s.pwr.brake then 8 else 64 } }
      ∧ b.state = .ready ∧ w.capW = (if s.regf 0x0D0004 16 16 = 0 then profileCap s.boot.coolStrap
          else min (profileCap s.boot.coolStrap) (max 600 (s.regf 0x0D0004 16 16))) := by
  obtain ⟨b, w, f, hframe, hb, hw⟩ := State.becomeReady_frame s
  unfold State.becomeReady
  dsimp only
  rw [hframe, State.evalHard_same, hw]
  · exact ⟨b, _, f, rfl, hb, rfl⟩
  · rw [hw]
    exact (State.overheated_cool (by exact hstk) (by exact hdie)).trans hhard.symm

theorem State.lostAtStart_none {s : State} (h : s.boot.newLost = []) : s.lostAtStart = s := by
  unfold State.lostAtStart
  rw [h]
  dsimp only [List.foldl_nil]
  rw [← h]

/-- R594: the keys are measured in slot 1. -/
theorem State.measureKeys_extend (s : State) : ∃ d, s.measureKeys = s.extend 1 d := ⟨_, rfl⟩

/-- A cold start without pins, profile or lost stacks measures the keys and becomes READY. -/
theorem exec_hostEnable_cold {t : Nat} {s : State} (hstate : s.boot.state = .hostEnable) (hcold : s.boot.kind = .cold)
    (hpins : s.flash.pins = []) (hprofile : s.flash.viaProfile = none) (hlost : s.boot.newLost = []) :
    ∃ d c b, exec (.hostEnable t) s = .next (State.becomeReady
      { State.extend 1 d { s.at t with counters := [], cycStart := c } with boot := b })
      ∧ b.coolStrap = s.boot.coolStrap := by
  have hon : ¬(s.at t).boot.state ≠ .hostEnable := not_not_intro hstate
  have hkind : decide ((s.at t).boot.kind = ResetKind.cold) = true := decide_eq_true hcold
  show ∃ d c b, execHostEnable t s = _ ∧ _
  unfold execHostEnable
  extract_lets z cold c x w v u b q p y
  have hw : w = x := (if_pos hkind).trans (by
    show z.flash.pins.foldl _ x = x
    rw [show z.flash.pins = [] from hpins]
    rfl)
  obtain ⟨d, hd⟩ := State.measureKeys_extend x
  have hu : u = x.extend 1 d := (if_pos hkind).trans (by
    show w.lostAtStart.measureKeys = _
    rw [hw, State.lostAtStart_none (s := x) hlost, hd])
  have hp : p = q := by
    have hnone : (if cold = true then q.flash.viaProfile else q.boot.keptVia) = none := (if_pos hkind).trans (by
      show u.flash.viaProfile = none
      rw [hu]
      exact hprofile)
    show (match if cold = true then q.flash.viaProfile else q.boot.keptVia with
      | none => q
      | some m => q.writeVia m) = q
    rw [hnone]
  have hboot (v v' : State) (h : v = v') (b : Boot) : ({ v with boot := b } : State) = { v' with boot := b } := by rw [h]
  have hlast : ({ p with boot := { p.boot with keptVia := none } } : State)
      = { x.extend 1 d with boot := { p.boot with keptVia := none } } := (hboot p q hp _).trans (hboot u _ hu _)
  refine ⟨d, x.cycStart, { p.boot with keptVia := none }, (if_neg hon).trans (congrArg (fun u => Host.Outcome.next (State.becomeReady u)) hlast), ?_⟩
  rw [hp]
  show u.boot.coolStrap = _
  rw [hu]
  rfl

/-! ### The statement -/

/-- Settles O48, a command of the start at a time; the stacks by induction over those that train. What the self-test writes and
whether its job ends are the model's choices of log entries 3, 26 and 50. -/
theorem startPassesItsStates : Obligations.StartPassesItsStates := by
  unfold Obligations.StartPassesItsStates
  refine ⟨fun t s => ⟨exec_pierBoot_none, fun hstate hmain hok => ?_, fun hstate hmain hbad => ?_⟩, State.firmwareOk_iff,
    fun t failed temps s => ⟨exec_memTrainDone_none, fun hstate hlost => ?_⟩,
    fun t bad pass s => ⟨fun hstate hjob ok => ?_, fun hstate id j hrun hjob htype ok => ?_,
      fun hstate => ⟨_, exec_selftestDone_routers bad pass hstate, rfl⟩, fun hstate => ⟨_, exec_selftestDone_spansOk pass hstate, ?_⟩⟩,
    fun t s => ⟨exec_hostEnable_none, fun hstate hcold hpins hprofile hnew hhard hstk hdie => ?_⟩⟩
  · rw [exec_pierBoot hstate hmain, if_pos hok]
    exact ⟨_, rfl, rfl, rfl, State.extend_slot .., fun i hi => State.extend_slot_other hi .., rfl⟩
  · rw [exec_pierBoot hstate hmain, hbad]
    rfl
  · have hz : ∃ z, (s.at t).repaired.train failed temps (List.range 32) = z := ⟨_, rfl⟩
    obtain ⟨z, hz⟩ := hz
    obtain ⟨g, r, hrep, hcold, hwarm⟩ := State.repaired_frame (s.at t)
    have hlost' : ∀ i, i < 32 → (s.at t).repaired.stackLost i = false := by
      rw [hrep]
      exact hlost
    obtain ⟨k, b, hframe⟩ := State.train_frame failed temps (List.range 32) (s.at t).repaired
    have hnone := State.train_none failed temps hlost'
    have hlosts (i : Nat) (hi : i < 32) := State.train_lost failed temps hi (hlost' i hi)
    have htrained (i : Nat) (hi : i < 32) := State.train_trained failed temps hi (hlost' i hi)
    rw [hz] at hnone hlosts htrained hframe
    rw [exec_memTrainDone hstate, hz]
    have hmem : z.mem.bytes = s.mem.bytes ∧ z.mem.poison = s.mem.poison ∧ z.mem.lgs = g ∧ z.mem.rows = r := by
      rw [hframe, hrep]
      exact ⟨rfl, rfl, rfl, rfl⟩
    obtain ⟨hbytes, hpoison, hlgs, hrows⟩ := hmem
    have hlast : ∃ b, (if z.liveStacks.isEmpty then z.halt 3 else { z with boot := { z.boot with state := .selftest } })
        = { z with boot := b } ∧ (failed ≠ BitVec.allOnes 32 → b.state = .selftest)
        ∧ (failed = BitVec.allOnes 32 → b.state = .halted ∧ b.haltCause = 3) := by
      split
      · next h => exact ⟨_, rfl, fun hne => absurd (hnone.1 h) hne, fun _ => ⟨rfl, rfl⟩⟩
      · next h => exact ⟨_, rfl, fun _ => rfl, fun hall => absurd (hnone.2 hall) h⟩
    obtain ⟨b, hu, hsome, hall⟩ := hlast
    dsimp only
    rw [hu]
    refine ⟨_, rfl, hlosts, htrained, hsome, hall, hbytes, hpoison, fun h => ?_, fun h => ?_⟩
    · exact ⟨hlgs.trans (hcold h).1, hrows.trans (hcold h).2⟩
    · exact ⟨hlgs.trans (hwarm h).1, hrows.trans (hwarm h).2⟩
  · rw [exec_selftestDone_outside ok bad pass hstate, State.endSelftestJob_none (s := s.at t) _ hjob]
  · rw [exec_selftestDone_outside ok bad pass hstate, State.endSelftestJob_ends (s := s.at t) _ hrun hjob htype]
    simp only [Bool.and_eq_true, decide_eq_true_eq, and_assoc]
  · have hresult : (if decide (32 - s.liveStacks.length = 0) then 1 else 2 : Nat) = 1 ↔ ∀ i, i < 32 → s.stackLost i = false := by
      rw [← State.liveStacks_all]
      simp
    exact ⟨rfl, rfl, rfl, hresult, fun h hpass => by rw [hpass, TrestleUnit.started_pass h],
      fun h hpass hfew => by rw [hpass]; exact TrestleUnit.started_fail h hfew, fun h => TrestleUnit.started_fenced h pass⟩
  · obtain ⟨d, c, b, hexec, hstrap⟩ := exec_hostEnable_cold (t := t) hstate hcold hpins hprofile hnew
    obtain ⟨b', w, f, hready, hb', hw⟩ := State.becomeReady_cool
      (s := { State.extend 1 d { s.at t with counters := [], cycStart := c } with boot := b }) hhard hstk hdie
    rw [hexec, hready]
    refine ⟨_, rfl, hb', rfl, rfl, hw.trans ?_, rfl, rfl, rfl, rfl⟩
    rw [hstrap]
    rfl

end Sys2Proof.Machine
end

section
/-! PROOFS. What sending, going down and training do to one port of the viaduct (spec/14_viaduct.md, R461 to R468). -/

namespace Sys2Proof.Machine
open Sys2Proof

/-! ### Ports -/

@[simp] theorem State.modCefin_cefin_same (p : Nat) (f : CefinPort → CefinPort) (s : State) :
    (s.modCefin p f).cefin p = f (s.cefin p) := kget_kset_same _ _ _ _

theorem State.modCefin_cefin_other {p j : Nat} (h : j ≠ p) (f : CefinPort → CefinPort) (s : State) :
    (s.modCefin p f).cefin j = s.cefin j := kget_kset_other _ _ h _

/-- State `u` comes after `s` by what happens on port `p`: only counters, output and that port may differ, and nothing else. -/
structure PortStep (p : Nat) (s u : State) : Prop where
  frame : u = { s with counters := u.counters, out := u.out, via := { s.via with ports := u.via.ports } }
  other : ∀ j, j ≠ p → u.cefin j = s.cefin j

theorem PortStep.refl (p : Nat) (s : State) : PortStep p s s := ⟨rfl, fun _ _ => rfl⟩

theorem PortStep.trans {p : Nat} {s u v : State} (h : PortStep p s u) (k : PortStep p u v) : PortStep p s v := by
  refine ⟨?_, fun j hj => (k.other j hj).trans (h.other j hj)⟩
  have hk := k.frame
  rw [h.frame] at hk
  rw [hk]

theorem PortStep.counters {p : Nat} {s u : State} (h : ∃ c, u = { s with counters := c }) : PortStep p s u := by
  obtain ⟨c, rfl⟩ := h
  exact ⟨rfl, fun _ _ => rfl⟩

theorem PortStep.inc (p o n : Nat) (s : State) : PortStep p s (s.inc o n) := .counters (State.inc_counters ..)

theorem PortStep.incBytes (p o n : Nat) (s : State) : PortStep p s (s.incBytes o n) := .counters (State.incBytes_counters ..)

theorem PortStep.emit (p : Nat) (o : Out) (s : State) : PortStep p s (s.emit o) := ⟨rfl, fun _ _ => rfl⟩

theorem PortStep.modCefin (p : Nat) (f : CefinPort → CefinPort) (s : State) : PortStep p s (s.modCefin p f) :=
  ⟨rfl, fun _ hj => State.modCefin_cefin_other hj ..⟩

theorem PortStep.foldl {α : Type} {p : Nat} {f : State → α → State} (hf : ∀ s a, PortStep p s (f s a)) (l : List α) (s : State) :
    PortStep p s (l.foldl f s) := by
  induction l generalizing s with
  | nil => exact .refl p s
  | cons a l ih => exact (hf s a).trans (ih _)

section
variable {p : Nat} {s u : State} (h : PortStep p s u)
include h

theorem PortStep.regs : u.regs = s.regs := by rw [h.frame]

theorem PortStep.requests : u.requests = s.requests := by rw [h.frame]

theorem PortStep.boot : u.boot = s.boot := by rw [h.frame]

theorem PortStep.time : u.time = s.time := by rw [h.frame]

theorem PortStep.regw (o : Nat) : u.regw o = s.regw o := by
  unfold State.regw
  rw [h.regs]

theorem PortStep.lockPort (j : Nat) : u.lockPort j = s.lockPort j := by
  unfold State.lockPort State.regb State.regf State.reg
  rw [h.regw]

theorem PortStep.mayTrain (j : Nat) : u.mayTrain j = s.mayTrain j := by
  unfold State.mayTrain State.regb
  rw [h.regw, h.boot]

end

/-! ### Sending (R466, R468) -/

/-- A packet with the LSEQ of the next one that port `x` sends. -/
def SentPkt.numbered (x : CefinPort) (q : SentPkt) : SentPkt := { q with pkt := { q.pkt with lseq := BitVec.ofNat 12 x.txSeq } }

/-- A port that has sent a packet. -/
def CefinPort.after (q : SentPkt) (x : CefinPort) : CefinPort :=
  { x with
    txSeq := (x.txSeq + 1) % 4096
    held := x.held ++ [q.numbered x]
    credits := kmod 0 x.credits (2 * q.pkt.vc.toNat + q.half) (· + pktUnits q.pkt) }

theorem State.txNow_frame (p : Nat) (q : SentPkt) (s : State) : ∃ c, s.txNow p q
    = { s.modCefin p (CefinPort.after q) with
        counters := c
        out := s.out ++ [.packet p q.type (q.numbered (s.cefin p)).pkt] } := by
  obtain ⟨c, hc⟩ := State.incBytes_counters (viaCtr p 0x00) (pktBytes q.pkt) (s.modCefin p (CefinPort.after q))
  exact ⟨c, congrArg (State.emit (.packet p q.type (q.numbered (s.cefin p)).pkt)) hc⟩

/-- A packet sent on a port that is up, with credit and with none waiting before it, goes out at once. -/
theorem State.sendOn_sends {p half : Nat} {type : BitVec 8} {k : Pkt} {s : State} (hup : (s.cefin p).up = true)
    (hcredit : (s.cefin p).canSend { type := type, half := half, pkt := k } = true) (hwait : (s.cefin p).waiting = []) :
    s.sendOn p half type k
      = s.txNow p { type := type, half := half, pkt := { k with port := BitVec.toFin (BitVec.ofNat 3 p), fec := 0 } } := by
  unfold State.sendOn
  rw [if_pos hup]
  unfold State.drainPort
  rw [hwait]
  refine if_pos ?_
  rw [Bool.and_eq_true]
  exact ⟨hcredit, rfl⟩

theorem State.sendOn_down {p half : Nat} {type : BitVec 8} {k : Pkt} {s : State} (h : (s.cefin p).up = false) :
    s.sendOn p half type k = s := if_neg (by rw [h]; decide)

theorem toFin_ofNat_port (port : Fin 8) : BitVec.toFin (BitVec.ofNat 3 port.val) = port := by
  apply Fin.ext
  exact Nat.mod_eq_of_lt port.isLt

/-! ### Going down (R463) -/

theorem State.breakRoutes_none {s : State} (h : ∀ e ∈ s.requests, e.2.ho = none) : s.breakRoutes = s := by
  have hfold (l : List (Nat × Request)) (hl : ∀ e ∈ l, e.2.ho = none) : l.foldl (fun (s : State) (e : Nat × Request) =>
      match e.2.ho with
      | none => s
      | some x =>
        if (x.step = .offered ∨ x.step = .sending) ∧ (s.outPort x.dest).isNone then s.breakHo e.1 else s) s = s := by
    induction l with
    | nil => rfl
    | cons e l ih =>
      rw [List.foldl_cons, hl e List.mem_cons_self]
      exact ih fun e he => hl e (List.mem_cons_of_mem _ he)
  exact hfold s.requests h

/-- A port as training begins. -/
def CefinPort.training (x : CefinPort) : CefinPort :=
  { x with state := .training, retrains := min 255 (x.retrains + 1), lanes := [] }

theorem State.startTraining_may {p : Nat} {s : State} (h : s.mayTrain p = true) :
    s.startTraining p = s.modCefin p CefinPort.training := if_neg (by rw [h]; decide)

theorem State.startTraining_not {p : Nat} {s : State} (h : s.mayTrain p = false) : s.startTraining p = s := if_pos (by rw [h]; rfl)

theorem PortStep.startTraining (p : Nat) (s : State) : PortStep p s (s.startTraining p) := by
  cases h : s.mayTrain p with
  | true =>
    rw [State.startTraining_may h]
    exact .modCefin ..
  | false =>
    rw [State.startTraining_not h]
    exact .refl p s

theorem State.mayTrain_iff (s : State) (p : Nat) :
    s.mayTrain p = true ↔ s.regb (0x090010 + 4 * p) 31 = true ∧ s.boot.mainGood = true := by
  unfold State.mayTrain
  rw [Bool.and_eq_true]

/-- The port that is left when a port goes down: it holds and counts nothing but its retrains. -/
def CefinPort.fallen (may : Bool) (x : CefinPort) : CefinPort :=
  if may then CefinPort.training { CefinPort.down with retrains := x.retrains } else { CefinPort.down with retrains := x.retrains }

theorem State.portDown_down {p : Nat} {s : State} (h : (s.cefin p).state = .down) : s.portDown p = s := if_pos h

/-- What a port counts when it goes down. -/
def State.downCounted (p : Nat) (s : State) : State := (s.inc (viaCtr p 0x14) 1).inc 0x09020C (s.cefin p).unacked

/-- The state in which a port that goes down has lost what it held. -/
def State.dropPort (p : Nat) (s : State) : State :=
  (s.downCounted p).modCefin p (fun x => { CefinPort.down with retrains := x.retrains })

/-- A port that goes down while no request is handed over: what it held is counted, and it retrains when it may. -/
theorem State.portDown_falls {p : Nat} {s : State} (h : (s.cefin p).state ≠ .down) (hho : ∀ e ∈ s.requests, e.2.ho = none) :
    PortStep p s (s.portDown p) ∧ (s.portDown p).cefin p = (s.cefin p).fallen (s.mayTrain p) ∧ (s.portDown p).out = s.out
      ∧ (s.portDown p).counters = (s.downCounted p).counters := by
  have hcount : PortStep p s (s.downCounted p) := (PortStep.inc ..).trans (.inc ..)
  have hcefin : (s.downCounted p).cefin p = s.cefin p := by
    unfold State.downCounted
    simp only [State.cefin, State.inc_via]
  have hout : (s.downCounted p).out = s.out := by
    unfold State.downCounted
    simp only [State.inc_out]
  have hdrop : PortStep p s (s.dropPort p) := hcount.trans (.modCefin ..)
  have hport : (s.dropPort p).cefin p = { CefinPort.down with retrains := (s.cefin p).retrains } := by
    unfold State.dropPort
    rw [State.modCefin_cefin_same, hcefin]
  have hdown : s.portDown p = (s.dropPort p).breakRoutes.startTraining p := by
    unfold State.portDown State.dropPort State.downCounted
    dsimp only
    rw [if_neg h]
  have hcounters : (s.dropPort p).counters = (s.downCounted p).counters := rfl
  have hout : (s.dropPort p).out = s.out := hout
  rw [hdown, State.breakRoutes_none (by rw [hdrop.requests]; exact hho)]
  generalize s.dropPort p = z at hdrop hport hcounters hout ⊢
  refine ⟨hdrop.trans (.startTraining ..), ?_⟩
  cases hmay : s.mayTrain p with
  | true =>
    rw [State.startTraining_may ((hdrop.mayTrain p).trans hmay)]
    exact ⟨by rw [State.modCefin_cefin_same, hport]; rfl, hout, hcounters⟩
  | false =>
    rw [State.startTraining_not ((hdrop.mayTrain p).trans hmay)]
    exact ⟨hport, hout, hcounters⟩

end Sys2Proof.Machine
end

section
/-! PROOFS. Links train, come up, fail and go down (spec/14_viaduct.md, R461 to R463). -/

namespace Sys2Proof.Machine
open Sys2Proof

/-! ### The end of training (R461) -/

theorem CefinPort.laneUp_iff (x : CefinPort) (ok : BitVec 4) (l : Nat) :
    x.laneUp ok l = true ↔ ok.getLsbD l = true ∧ ∀ y, kfind? x.lanes l = some y → 8 ≤ y.ready := by
  unfold CefinPort.laneUp
  rw [Bool.and_eq_true]
  refine and_congr_right fun _ => ?_
  cases kfind? x.lanes l with
  | none => simp
  | some y => simp

/-- Training fails when neither half has trained. -/
theorem CefinPort.trained_fails {x : CefinPort} {ok : BitVec 4} (hA : ¬(x.laneUp ok 0 = true ∧ x.laneUp ok 1 = true))
    (hB : ¬(x.laneUp ok 2 = true ∧ x.laneUp ok 3 = true)) : x.trained ok = .trainFail := by
  unfold CefinPort.trained
  dsimp only
  rw [if_neg (by simp only [Bool.and_eq_true]; tauto), if_neg (by simp only [Bool.or_eq_true, Bool.and_eq_true]; tauto)]

theorem CefinPort.trained_four {x : CefinPort} {ok : BitVec 4} (hA : x.laneUp ok 0 = true ∧ x.laneUp ok 1 = true)
    (hB : x.laneUp ok 2 = true ∧ x.laneUp ok 3 = true) : x.trained ok = .upX4 :=
  if_pos (by simp only [Bool.and_eq_true]; tauto)

theorem CefinPort.trained_two {x : CefinPort} {ok : BitVec 4} (hsome : (x.laneUp ok 0 = true ∧ x.laneUp ok 1 = true)
      ∨ (x.laneUp ok 2 = true ∧ x.laneUp ok 3 = true))
    (hboth : ¬((x.laneUp ok 0 = true ∧ x.laneUp ok 1 = true) ∧ x.laneUp ok 2 = true ∧ x.laneUp ok 3 = true)) :
    x.trained ok = .upX2 := by
  unfold CefinPort.trained
  dsimp only
  rw [if_neg (by simp only [Bool.and_eq_true]; tauto), if_pos (by simp only [Bool.or_eq_true, Bool.and_eq_true]; tauto)]

/-- No lane trains behind closed switches. -/
theorem CefinPort.laneUp_cut (x : CefinPort) (l : Nat) : x.laneUp 0#4 l = false := by
  unfold CefinPort.laneUp
  rw [BitVec.getLsbD_zero]
  rfl

/-- A port as training ends. -/
def CefinPort.ended (st : LinkState) (x : CefinPort) : CefinPort := { CefinPort.down with state := st, retrains := x.retrains }

/-- HELLO as a packet (Table 14.2). -/
def State.helloPkt (s : State) (p : Nat) : Pkt :=
  { port := 0, vc := 0, lseq := 0, dst := 0, src := BitVec.ofNat 14 s.chip, ttl := 63, payload := [],
    arg := BitVec.ofNat 64 (fieldAt 0 14 s.chip + fieldAt 14 3 p + fieldAt 17 1 (bit s.assigned)) }

theorem State.sendHello_lock {p : Nat} {s : State} (h : s.lockPort p = true) : s.sendHello p = s := if_pos h

theorem State.sendHello_free {p : Nat} {s : State} (h : s.lockPort p = false) :
    s.sendHello p = s.sendOn p 0 0x01 (s.helloPkt p) := if_neg (by rw [h]; decide)

theorem bit_lt (b : Bool) : bit b < 2 := by cases b <;> decide

theorem State.chip_lt (s : State) : s.chip < 2 ^ 14 := Nat.mod_lt _ (by decide)

/-- ARG of HELLO: the sender's chip number, its port, ASSIGNED. -/
theorem State.helloPkt_arg (s : State) {p : Nat} (hp : p < 8) :
    (s.helloPkt p).arg.toNat = s.chip + 2 ^ 14 * p + 2 ^ 17 * bit s.assigned := by
  have hchip := s.chip_lt
  have hbit := bit_lt s.assigned
  unfold State.helloPkt fieldAt
  dsimp only
  rw [BitVec.toNat_ofNat]
  omega

section
variable {t : Nat} {port : Fin 8} {ok : BitVec 4} {s : State}

theorem exec_linkTrained_none (h : (s.cefin port.val).state ≠ .training) : exec (.linkTrained t port ok) s = .next (s.at t) :=
  if_pos h

/-- The lanes that count as trained: none of a ring port behind closed switches. -/
def State.lanesIn (s : State) (p : Nat) (ok : BitVec 4) : BitVec 4 := if p < 2 ∧ s.via.closed then 0#4 else ok

theorem exec_linkTrained (h : (s.cefin port.val).state = .training) : exec (.linkTrained t port ok) s
    = .next (((s.at t).modCefin port.val (CefinPort.ended ((s.cefin port.val).trained (s.lanesIn port.val ok)))).sendHello port.val) :=
  if_neg (not_not_intro h)

/-- A port that comes up sends HELLO as its first packet, unless it carries the lock-step link. -/
theorem State.sendHello_ended {p : Nat} (hp : p < 8) {st : LinkState} (hst : (CefinPort.ended st (s.cefin p)).up = true) :
    let z := s.modCefin p (CefinPort.ended st)
    PortStep p s (z.sendHello p) ∧ (∃ k y, (z.sendHello p).cefin p = y ∧ y.retrains = (s.cefin p).retrains ∧ y.state = st
      ∧ (s.lockPort p = true → (z.sendHello p).out = s.out ∧ y.held = [])
      ∧ (s.lockPort p = false → (z.sendHello p).out = s.out ++ [.packet p 0x01 k] ∧ k.port.val = p ∧ k.lseq = 0
          ∧ k.arg.toNat = s.chip + 2 ^ 14 * p + 2 ^ 17 * bit s.assigned
          ∧ y.held = [{ type := 0x01, half := 0, pkt := k }] ∧ y.txSeq = 1)) := by
  intro z
  have hz : z.cefin p = CefinPort.ended st (s.cefin p) := State.modCefin_cefin_same ..
  have hlock : z.lockPort p = s.lockPort p := rfl
  cases h : s.lockPort p with
  | true =>
    rw [State.sendHello_lock (hlock.trans h)]
    exact ⟨.modCefin .., s.helloPkt p, _, hz, rfl, rfl, fun _ => ⟨rfl, rfl⟩, fun h => Bool.noConfusion h⟩
  | false =>
    have hcan : (z.cefin p).canSend { type := 0x01, half := 0, pkt := z.helloPkt p } = true := by
      rw [hz]
      simp [CefinPort.canSend, CefinPort.ended, CefinPort.down, State.helloPkt, pktUnits, pktBytes, halfUnits, kget, kfind?, cdiv]
    obtain ⟨c, hc⟩ := State.txNow_frame p { type := 0x01, half := 0, pkt := { z.helloPkt p with
      port := BitVec.toFin (BitVec.ofNat 3 p), fec := 0 } } z
    rw [State.sendHello_free (hlock.trans h), State.sendOn_sends (by rw [hz]; exact hst) hcan (by rw [hz]; rfl), hc]
    refine ⟨((PortStep.modCefin ..).trans (.modCefin ..)).trans ⟨rfl, fun _ _ => rfl⟩, _, _, State.modCefin_cefin_same .., ?_, ?_,
      fun h => Bool.noConfusion h, fun _ => ⟨rfl, ?_, ?_, State.helloPkt_arg z hp, ?_, ?_⟩⟩
    · rw [hz]
      rfl
    · rw [hz]
      rfl
    · exact Nat.mod_eq_of_lt hp
    · rw [hz]
      rfl
    · rw [hz]
      rfl
    · rw [hz]
      rfl

end

/-! ### Retries and falls (R462, R463) -/

section
variable {t : Nat} {port : Fin 8} {s : State}

theorem exec_trainRetry_none (h : (s.cefin port.val).state ≠ .trainFail) : exec (.trainRetry t port) s = .next (s.at t) := if_neg h

theorem exec_trainRetry (h : (s.cefin port.val).state = .trainFail) :
    exec (.trainRetry t port) s = .next ((s.at t).startTraining port.val) := if_pos h

theorem exec_linkDown : exec (.linkDown t port) s = .next ((s.at t).portDown port.val) := rfl

/-- What a fall counts in VIA_LOST. -/
theorem State.downCounted_lost {p : Nat} (hp : p < 8) (s : State) : (kget Counter.zero (s.downCounted p).counters 0x09020C).live.toNat
    = min ((kget Counter.zero s.counters 0x09020C).live.toNat + (s.cefin p).unacked) 0xFFFFFFFF := by
  have hne : 0x09020C ≠ viaCtr p 0x14 := by
    unfold viaCtr
    omega
  unfold State.downCounted
  rw [State.inc_live_same, State.inc_counter_other hne]

end

/-! ### Training frames (R462) -/

theorem crc16Bit_lt (r : Nat) (b : Bool) : crc16Bit r b < 65536 := by
  unfold crc16Bit
  dsimp only
  split
  · omega
  · exact Nat.xor_lt_two_pow (n := 16) (by omega) (by decide)

theorem crc16_lt (bs : List Bool) : crc16 bs < 65536 := by
  unfold crc16
  induction bs using List.reverseRecOn with
  | nil => decide
  | append_singleton bs b ih =>
    rw [List.foldl_append]
    exact crc16Bit_lt ..

/-- A frame carries the sum of its other fields. -/
theorem frameChecked_check (f : TrainFrame) : (frameChecked f).check.toNat = frameSum (frameChecked f) := by
  have hsum : frameSum (frameChecked f) = frameSum f := rfl
  rw [hsum]
  exact Nat.mod_eq_of_lt (crc16_lt _)

theorem tapRequest_answer_lt (taps : List Int) (tap req : Nat) : (tapRequest taps tap req).2 < 4 := by
  unfold tapRequest
  dsimp only
  (repeat' split) <;> (dsimp only; omega)

section
variable (taps : List Int) {tap req : Nat} (hreq : req = 1 ∨ req = 2)
include hreq

theorem tapRequest_unsupported (h : 4 < tap) : tapRequest taps tap req = (taps, 3) := by
  unfold tapRequest
  rw [if_neg (by omega), if_neg (by omega), if_pos h]

theorem tapRequest_within (h : tap ≤ 4)
    (hin : (Config.tapRange tap).1 ≤ taps.getD tap 0 + (if req = 1 then 1 else -1)
      ∧ taps.getD tap 0 + (if req = 1 then 1 else -1) ≤ (Config.tapRange tap).2) :
    tapRequest taps tap req = (taps.set tap (taps.getD tap 0 + (if req = 1 then 1 else -1)), 1) := by
  unfold tapRequest
  rw [if_neg (by omega), if_neg (by omega), if_neg (by omega)]
  exact if_neg (by omega)

theorem tapRequest_limit (h : tap ≤ 4)
    (hout : ¬((Config.tapRange tap).1 ≤ taps.getD tap 0 + (if req = 1 then 1 else -1)
      ∧ taps.getD tap 0 + (if req = 1 then 1 else -1) ≤ (Config.tapRange tap).2)) :
    tapRequest taps tap req = (taps, 2) := by
  unfold tapRequest
  rw [if_neg (by omega), if_neg (by omega), if_neg (by omega)]
  exact if_pos (by omega)

end

/-- STATUS of a frame: the answer, RX_READY, and the precoding in use (Table 14.16). -/
def frameStatus (answer : Nat) (ready precode : Bool) : BitVec 16 :=
  BitVec.ofNat 16 (fieldAt 0 2 answer + fieldAt 2 1 (bit ready) + fieldAt 3 1 (bit precode))

theorem frameStatus_fields {answer : Nat} (h : answer < 4) (ready precode : Bool) :
    bitsAt (frameStatus answer ready precode).toNat 0 2 = answer ∧ (frameStatus answer ready precode).getLsbD 3 = precode := by
  have hready := bit_lt ready
  have hprecode := bit_lt precode
  have hword : (frameStatus answer ready precode).toNat = answer + 4 * bit ready + 8 * bit precode := by
    unfold frameStatus fieldAt
    rw [BitVec.toNat_ofNat]
    omega
  constructor
  · unfold bitsAt
    rw [hword, Nat.shiftRight_zero]
    omega
  · rw [← BitVec.testBit_toNat, hword, Nat.testBit_eq_decide_div_mod_eq]
    rw [show (answer + 4 * bit ready + 8 * bit precode) / 2 ^ 3 % 2 = bit precode by omega]
    cases precode <;> decide

/-- The lane after a good frame, which has sent its answer. -/
def LaneTrain.answered (f : TrainFrame) (l : LaneTrain) : LaneTrain := { l.take f with sent := (l.sent + 1) % 65536 }

/-- The frame that answers another on its lane; what it asks for is a free value. -/
def State.answerFrame (s : State) (p lane : Nat) (f : TrainFrame) (l : LaneTrain) : TrainFrame :=
  frameChecked
    { lane := BitVec.ofNat 8 (lane + 4 * p), count := BitVec.ofNat 16 l.sent, control := (Config.laneAsks s.fresh).1 &&& 0x3F#16
      status := frameStatus (l.take f).answer (Config.laneAsks s.fresh).2 (l.take f).precode, check := 0 }

section
variable {t : Nat} {port : Fin 8} {lane : Fin 4} {f : TrainFrame} {s : State}

theorem exec_trainingFrame_ignored (h : (s.cefin port.val).state ≠ .training ∨ f.check.toNat ≠ frameSum f) :
    exec (.trainingFrame t port lane f) s = .next (s.at t) := if_pos h

theorem exec_trainingFrame (hstate : (s.cefin port.val).state = .training) (hsum : f.check.toNat = frameSum f) :
    let l := kget LaneTrain.start (s.cefin port.val).lanes lane.val
    exec (.trainingFrame t port lane f) s = .next ((State.modCefin port.val (fun x =>
      { x with lanes := kins x.lanes lane.val (l.answered f) }) { s.at t with fresh := s.fresh + 1 }).emit
        (.frame port.val lane.val (s.answerFrame port.val lane.val f l))) :=
  if_neg (fun h => h.elim (fun h => h hstate) (fun h => h hsum))

end

/-! ### The statement -/

/-- Settles O52: training by the lanes that have trained, a fall by what the port held, a frame by its request. That the fall of a
port loses what waits on it too, which lanes' frames count and what an answer asks for are the model's choices of log entries
1, 8 and 55. -/
theorem linksTrainAndFall : Obligations.LinksTrainAndFall := by
  unfold Obligations.LinksTrainAndFall
  intro t port s x put kept may
  have hkept {u : State} (h : PortStep port.val (s.at t) u) : kept u := ⟨h.frame, h.other⟩
  have hmay : (s.at t).mayTrain port.val = true ↔ may := State.mayTrain_iff ..
  have hnot (h : ¬may) : (s.at t).mayTrain port.val = false := by
    rw [← Bool.not_eq_true, hmay]
    exact h
  refine ⟨fun ok => exec_linkTrained_none, fun ok hstate => ?_, exec_trainRetry_none, fun hstate => ⟨fun h => ?_, fun h => ?_⟩,
    fun hstate => ?_, fun hstate hho => ?_, fun lane f => ⟨exec_trainingFrame_ignored, fun hstate hsum => ?_⟩⟩
  · intro up cut
    have hup (l : Nat) : x.laneUp ok l = true ↔ up l := CefinPort.laneUp_iff x ok l
    have hlanes (h : ¬cut) : s.lanesIn port.val ok = ok := if_neg h
    rw [exec_linkTrained hstate]
    refine ⟨fun h => ?_, fun hcut h => ?_⟩
    · have hfail : x.trained (s.lanesIn port.val ok) = .trainFail := by
        by_cases hcut : cut
        · rw [show s.lanesIn port.val ok = 0#4 from if_pos hcut]
          refine CefinPort.trained_fails ?_ ?_ <;> simp [CefinPort.laneUp_cut]
        · obtain ⟨hA, hB⟩ := h.resolve_left hcut
          rw [hlanes hcut]
          refine CefinPort.trained_fails ?_ ?_ <;> simpa only [hup]
      rw [hfail]
      have hdown : ((s.at t).modCefin port.val (CefinPort.ended .trainFail)).sendHello port.val
          = (s.at t).modCefin port.val (CefinPort.ended .trainFail) := by
        cases hlock : ((s.at t).modCefin port.val (CefinPort.ended .trainFail)).lockPort port.val with
        | true => exact State.sendHello_lock hlock
        | false =>
          rw [State.sendHello_free hlock]
          refine State.sendOn_down ?_
          rw [State.modCefin_cefin_same]
          rfl
      rw [hdown]
      rfl
    · rw [hlanes hcut]
      have hfour : (up 0 ∧ up 1) ∧ up 2 ∧ up 3 → x.trained ok = .upX4 := fun h4 =>
        CefinPort.trained_four (by simpa only [hup] using h4.1) (by simpa only [hup] using h4.2)
      have htwo : ¬((up 0 ∧ up 1) ∧ up 2 ∧ up 3) → x.trained ok = .upX2 := fun h4 =>
        CefinPort.trained_two (by simpa only [hup] using h) (by simpa only [hup] using h4)
      have hon : (CefinPort.ended (x.trained ok) x).up = true := by
        by_cases h4 : (up 0 ∧ up 1) ∧ up 2 ∧ up 3
        · rw [hfour h4]
          rfl
        · rw [htwo h4]
          rfl
      obtain ⟨hstep, k, y, hy, hretrains, hst, hlock, hfree⟩ := State.sendHello_ended (s := s.at t) port.isLt hon
      refine ⟨_, y, rfl, hkept hstep, hy, hretrains, fun h4 => hst.trans (hfour h4), fun h4 => hst.trans (htwo h4), hlock, fun h => ?_⟩
      obtain ⟨hout, hport, hrest⟩ := hfree h
      exact ⟨k, hout, Fin.ext hport, hrest⟩
  · rw [exec_trainRetry hstate, State.startTraining_not (hnot h)]
  · rw [exec_trainRetry hstate, State.startTraining_may (hmay.2 h)]
    rfl
  · rw [exec_linkDown, State.portDown_down (s := s.at t) hstate]
  · obtain ⟨hstep, hport, hout, hcount⟩ := State.portDown_falls (s := s.at t) hstate hho
    have hlost := State.downCounted_lost port.isLt (s.at t)
    refine ⟨_, exec_linkDown, hkept hstep, hout, ?_, fun h => ?_, fun h => ?_⟩
    · rw [hcount, hlost, show (s.at t).counters = s.counters from rfl]
      exact congrArg (fun n => min n 0xFFFFFFFF) (Nat.add_assoc ..).symm
    · rw [hport, hmay.2 h]
      rfl
    · rw [hport, hnot h]
      rfl
  · intro l tap req v within
    obtain ⟨hanswer, hprecode⟩ := frameStatus_fields (tapRequest_answer_lt l.taps tap req) (Config.laneAsks s.fresh).2 (l.take f).precode
    refine ⟨s.answerFrame port.val lane.val f l, l.answered f, exec_trainingFrame hstate hsum, rfl, rfl, rfl, fun h => ?_, fun h => ?_,
      fun h htap => ?_, fun h htap => ⟨fun hin => ?_, fun hout => ?_⟩, ?_, ?_, frameChecked_check _, hanswer, hprecode⟩
    · show (tapRequest l.taps tap req).1 = l.taps ∧ (tapRequest l.taps tap req).2 = 0
      rw [h]
      exact ⟨rfl, rfl⟩
    · show (tapRequest l.taps tap req).2 = 1
      rw [h]
      rfl
    · show (tapRequest l.taps tap req).1 = l.taps ∧ (tapRequest l.taps tap req).2 = 3
      rw [tapRequest_unsupported l.taps h htap]
      exact ⟨rfl, rfl⟩
    · show (tapRequest l.taps tap req).1 = l.taps.set tap v ∧ (tapRequest l.taps tap req).2 = 1
      rw [tapRequest_within l.taps h htap hin]
      exact ⟨rfl, rfl⟩
    · show (tapRequest l.taps tap req).1 = l.taps ∧ (tapRequest l.taps tap req).2 = 2
      rw [tapRequest_limit l.taps h htap hout]
      exact ⟨rfl, rfl⟩
    · exact Nat.mod_eq_of_lt (by omega)
    · rfl

end Sys2Proof.Machine
end

section
/-! PROOFS. Packets are routed, forwarded, acknowledged and replayed (spec/14_viaduct.md, R464 to R470). -/

namespace Sys2Proof.Machine
open Sys2Proof

/-! ### Routes (R470) -/

theorem State.ringPort_up {s : State} {pos q : Nat} (h : s.ringPort pos = some q) : s.linkUp q = true := by
  unfold State.ringPort at h
  extract_lets n d first at h
  split at h
  · next hup => exact Option.some.inj h ▸ hup
  · split at h
    · next hup => exact Option.some.inj h ▸ hup
    · cases h

/-- A route leads out on a port that is up. -/
theorem State.outPort_up {s : State} {dst q : Nat} (h : s.outPort dst = some q) : (s.cefin q).up = true := by
  have hlink : s.linkUp q = true := by
    unfold State.outPort at h
    dsimp only at h
    split at h
    · cases h
    · split at h
      · exact State.ringPort_up h
      · split at h
        · cases h
        · split at h
          · exact State.ringPort_up h
          · split at h
            · next hup =>
              cases h
              exact hup
            · cases h
  unfold State.linkUp at hlink
  rw [Bool.and_eq_true] at hlink
  exact hlink.1

theorem State.sendTo_none {type vc dst arg : Nat} {payload : List (BitVec 256)} {s : State} (h : s.outPort dst = none) :
    s.sendTo type vc dst arg payload = s.inc 0x090204 1 := by
  unfold State.sendTo
  rw [h]

/-- A packet of this module as its port sends it. -/
def State.ownPkt (s : State) (q vc dst arg : Nat) (payload : List (BitVec 256)) : Pkt :=
  { port := BitVec.toFin (BitVec.ofNat 3 q), vc := BitVec.ofNat 2 vc, lseq := 0, dst := BitVec.ofNat 14 dst
    src := BitVec.ofNat 14 s.chip, ttl := 63, arg := BitVec.ofNat 64 arg, payload := payload }

theorem State.sendTo_sends {type vc dst arg q : Nat} {payload : List (BitVec 256)} {s : State} (h : s.outPort dst = some q)
    (hcredit : (s.cefin q).canSend
      { type := BitVec.ofNat 8 type, half := s.halfOn q s.chip, pkt := s.ownPkt q vc dst arg payload } = true)
    (hwait : (s.cefin q).waiting = []) : s.sendTo type vc dst arg payload
      = s.txNow q { type := BitVec.ofNat 8 type, half := s.halfOn q s.chip, pkt := s.ownPkt q vc dst arg payload } := by
  unfold State.sendTo
  rw [h]
  exact State.sendOn_sends (State.outPort_up h) hcredit hwait

/-! ### Packets for other chips (R469, R470) -/

section
variable {type : BitVec 8} {p : Pkt} {s : State}

theorem State.forward_dead (h : p.ttl = 0) : s.forward type p = s.inc (viaCtr p.port.val 0x1C) 1 := if_pos h

theorem State.forward_none (h : p.ttl ≠ 0) (hroute : s.outPort p.dst.toNat = none) : s.forward type p = s.inc 0x090204 1 := by
  unfold State.forward
  rw [if_neg h, hroute]

theorem State.forward_sends {q : Nat} (h : p.ttl ≠ 0) (hroute : s.outPort p.dst.toNat = some q)
    (hcredit : (s.cefin q).canSend { type := type, half := s.halfOn q p.src.toNat, pkt := { p with ttl := p.ttl - 1 } } = true)
    (hwait : (s.cefin q).waiting = []) : ∃ c, s.forward type p = State.txNow q
      { type := type, half := s.halfOn q p.src.toNat
        pkt := { p with ttl := p.ttl - 1, port := BitVec.toFin (BitVec.ofNat 3 q), fec := 0 } } { s with counters := c } := by
  obtain ⟨c, hc⟩ := State.incBytes_counters (viaCtr q 0x18) (pktBytes p) s
  unfold State.forward
  rw [if_neg h, hroute]
  dsimp only
  rw [hc]
  exact ⟨c, State.sendOn_sends (s := { s with counters := c }) (State.outPort_up hroute) hcredit hwait⟩

/-- A packet that no module takes or forwards goes no further. -/
theorem State.viaduct_stops (h : s.lockPort p.port.val = true ∨ s.assigned = false ∨ s.via.duplicate = true
    ∨ (s.via.checked = false ∧ type ≠ 0x51#8) ∨ s.ownNumber p.dst.toNat = true) : s.viaduct type p (fun s => s) = s := by
  unfold State.viaduct
  split
  · rfl
  · next h1 =>
    split
    · rfl
    · next h2 =>
      split
      · rfl
      · next h3 =>
        simp only [Bool.or_eq_true, Bool.not_eq_true', Bool.and_eq_true, decide_eq_true_eq] at h1 h2 h3
        tauto

theorem State.viaduct_forwards (hlock : s.lockPort p.port.val = false) (hassigned : s.assigned = true)
    (hsingle : s.via.duplicate = false) (hchecked : s.via.checked = true) (hother : s.ownNumber p.dst.toNat = false) :
    s.viaduct type p (fun s => s) = s.forward type p := by
  unfold State.viaduct
  simp only [hlock, hassigned, hsingle, hchecked, hother, Bool.not_true, Bool.or_self, Bool.false_eq_true, if_false, Bool.false_and,
    if_true]

end

/-- What receiving a packet leaves of what decides its way. -/
theorem State.arrived_way (t : Nat) (p : Pkt) (s : State) : (∀ j, (s.arrived t p).lockPort j = s.lockPort j)
    ∧ (s.arrived t p).assigned = s.assigned ∧ (s.arrived t p).via.duplicate = s.via.duplicate
    ∧ (s.arrived t p).via.checked = s.via.checked ∧ (∀ c, (s.arrived t p).ownNumber c = s.ownNumber c) := by
  obtain ⟨c, v, o, h⟩ := State.arrived_eq t p s
  rw [h]
  exact ⟨fun _ => rfl, rfl, rfl, rfl, fun _ => rfl⟩

section
variable {t : Nat} {type : BitVec 8} {p : Pkt} {s : State} (hup : (s.cefin p.port.val).up = true)
  (hseq : p.lseq.toNat = (s.cefin p.port.val).rxSeq)
include hup hseq

theorem exec_badPacket : exec (.badPacket t type p) s
    = .next (if knownType type.toNat then s.arrived t p else (s.arrived t p).inc 0x090208 1) :=
  congrArg Host.Outcome.next (State.received_inSequence t p _ s hup hseq)

theorem exec_packetForward : exec (.packetForward t type p) s
    = .next (if knownType type.toNat && !([0x00, 0x01, 0x30, 0x52].contains type.toNat) then
        (s.arrived t p).viaduct type p (fun s => s) else s.arrived t p) :=
  congrArg Host.Outcome.next (State.received_inSequence t p _ s hup hseq)

end

/-- The types of Table 14.2 that are forwarded. -/
theorem routed_of_mem {n : Nat} (h : n ∈ [0x10, 0x11, 0x12, 0x13, 0x20, 0x21, 0x22, 0x23, 0x40, 0x41, 0x50, 0x51]) :
    (knownType n && !([0x00, 0x01, 0x30, 0x52].contains n)) = true := by
  have hall : ∀ m ∈ [0x10, 0x11, 0x12, 0x13, 0x20, 0x21, 0x22, 0x23, 0x40, 0x41, 0x50, 0x51],
      (knownType m && !([0x00, 0x01, 0x30, 0x52].contains m)) = true := by decide
  exact hall n h

/-! ### Bad packets (R468) -/

/-- ARG of an LCTL that asks for a replay. -/
def nakArg (seq : Nat) : Nat := fieldAt 13 12 seq + fieldAt 25 1 1

theorem nakArg_fields (seq : Nat) : bitsAt (BitVec.ofNat 64 (nakArg seq)).toNat 13 12 = seq % 4096
    ∧ (BitVec.ofNat 64 (nakArg seq)).getLsbD 25 = true ∧ (BitVec.ofNat 64 (nakArg seq)).getLsbD 12 = false := by
  have hword : (BitVec.ofNat 64 (nakArg seq)).toNat = seq % 4096 * 2 ^ 13 + 2 ^ 25 := by
    unfold nakArg fieldAt
    rw [BitVec.toNat_ofNat]
    omega
  refine ⟨?_, ?_, ?_⟩
  · unfold bitsAt
    rw [hword, Nat.shiftRight_eq_div_pow]
    omega
  · rw [← BitVec.testBit_toNat, hword, Nat.testBit_eq_decide_div_mod_eq]
    simp only [decide_eq_true_eq]
    omega
  · rw [← BitVec.testBit_toNat, hword, Nat.testBit_eq_decide_div_mod_eq]
    simp only [decide_eq_false_iff_not]
    omega

/-- The LCTL with which a port asks for a replay. -/
def State.nakPkt (s : State) (p seq : Nat) : Pkt :=
  { port := BitVec.toFin (BitVec.ofNat 3 p), vc := 0, lseq := 0, dst := 0, src := BitVec.ofNat 14 s.chip, ttl := 63
    arg := BitVec.ofNat 64 (nakArg seq), payload := [] }

theorem State.sendNak_asked {p : Nat} {s : State} (h : (s.cefin p).asked = true) : s.sendNak p = s := if_pos h

theorem State.sendNak_asks {p : Nat} {s : State} (h : (s.cefin p).asked = false) : ∃ c, s.sendNak p
    = { s.modCefin p (fun x => { x with asked := true }) with
        counters := c
        out := s.out ++ [.packet p 0x00 (s.nakPkt p (s.cefin p).rxSeq)] } := by
  obtain ⟨c, hc⟩ := State.incBytes_counters (viaCtr p 0x00) 20 s
  have hsum : 0 + nakArg (s.cefin p).rxSeq + ((List.range 4).map (fun v => fieldAt (32 + 8 * v) 8 ([].getD v 0))).sum
      = nakArg (s.cefin p).rxSeq := by
    simp [fieldAt, List.range_succ]
  unfold State.sendNak
  dsimp only
  rw [if_neg (by rw [h]; decide)]
  unfold State.sendLctl
  dsimp only
  rw [hc, show fieldAt 13 12 (s.cefin p).rxSeq + fieldAt (13 + 12) 1 1 = nakArg (s.cefin p).rxSeq from rfl, hsum]
  exact ⟨c, rfl⟩

section
variable {t : Nat} {port : Fin 8} {lseq : BitVec 12} {fec : Bool} {s : State}

theorem exec_packetCrcFail_down (h : (s.cefin port.val).up = false) : exec (.packetCrcFail t port lseq fec) s = .next (s.at t) :=
  if_pos (by
    show (!(s.cefin port.val).up) = true
    rw [h]
    rfl)

theorem exec_packetCrcFail_up (h : (s.cefin port.val).up = true) : exec (.packetCrcFail t port lseq fec) s = .next (
    let z : State := if fec = true then (s.at t).inc (viaCtr port.val 0x0C) 1 else s.at t
    if (lseq.toNat + 4096 - (s.cefin port.val).rxSeq) % 4096 < 2048 then z.sendNak port.val else z) := by
  have hon : ¬(!((s.at t).cefin port.val).up) = true := by
    show ¬(!(s.cefin port.val).up) = true
    rw [h]
    decide
  refine (if_neg hon).trans ?_
  by_cases hseq : (lseq.toNat + 4096 - (s.cefin port.val).rxSeq) % 4096 < 2048
  · rw [if_pos hseq]
    exact if_pos (decide_eq_true hseq)
  · rw [if_neg hseq]
    exact if_neg (fun h => hseq (of_decide_eq_true h))

end

/-! ### LCTL (R466, R468) -/

/-- The credit that a packet returns, a class at a time. -/
theorem giveBack_same (m : List (Nat × Nat)) (v n : Nat) : kget 0 (giveBack m v n) (2 * v) = kget 0 m (2 * v) - n
    ∧ kget 0 (giveBack m v n) (2 * v + 1) = kget 0 m (2 * v + 1) - (n - kget 0 m (2 * v)) := by
  unfold giveBack
  dsimp only
  refine ⟨?_, ?_⟩
  · rw [kget_kset_other _ _ (by omega), kget_kset_same]
  · rw [kget_kset_same, kget_kset_other _ _ (by omega)]

theorem giveBack_other (m : List (Nat × Nat)) {v w : Nat} (h : w ≠ v) (n : Nat) :
    kget 0 (giveBack m v n) (2 * w) = kget 0 m (2 * w) ∧ kget 0 (giveBack m v n) (2 * w + 1) = kget 0 m (2 * w + 1) := by
  unfold giveBack
  dsimp only
  refine ⟨?_, ?_⟩
  · rw [kget_kset_other _ _ (by omega), kget_kset_other _ _ (by omega)]
  · rw [kget_kset_other _ _ (by omega), kget_kset_other _ _ (by omega)]

/-- The credit of several classes is returned independently. -/
theorem giveBack_foldl (f : Nat → Nat) (l : List Nat) (hl : l.Nodup) (m : List (Nat × Nat)) (w : Nat) :
    let m' := l.foldl (fun m v => giveBack m v (f v)) m
    (w ∉ l → kget 0 m' (2 * w) = kget 0 m (2 * w) ∧ kget 0 m' (2 * w + 1) = kget 0 m (2 * w + 1))
      ∧ (w ∈ l → kget 0 m' (2 * w) = kget 0 m (2 * w) - f w
          ∧ kget 0 m' (2 * w + 1) = kget 0 m (2 * w + 1) - (f w - kget 0 m (2 * w))) := by
  induction l generalizing m with
  | nil => exact ⟨fun _ => ⟨rfl, rfl⟩, fun h => absurd h List.not_mem_nil⟩
  | cons v l ih =>
    obtain ⟨hv, hl⟩ := List.nodup_cons.1 hl
    obtain ⟨hout, hin⟩ := ih hl (giveBack m v (f v))
    refine ⟨fun hw => ?_, fun hw => ?_⟩
    · rw [List.mem_cons, not_or] at hw
      obtain ⟨ha, hb⟩ := giveBack_other m hw.1 (f v)
      exact ⟨(hout hw.2).1.trans ha, (hout hw.2).2.trans hb⟩
    · by_cases hwv : w = v
      · subst hwv
        obtain ⟨ha, hb⟩ := giveBack_same m w (f w)
        exact ⟨(hout hv).1.trans ha, (hout hv).2.trans hb⟩
      · obtain ⟨ha, hb⟩ := giveBack_other m hwv (f v)
        obtain ⟨hina, hinb⟩ := hin ((List.mem_cons.1 hw).resolve_left hwv)
        rw [ha] at hina hinb
        rw [hb] at hinb
        exact ⟨hina, hinb⟩

/-- A port after an LCTL: what it acknowledges is no longer held, and the credit it returns is no longer taken. -/
def CefinPort.lctl (p : Pkt) (x : CefinPort) : CefinPort :=
  { x with
    held := if p.arg.getLsbD 12 = true then
        x.held.filter (fun q => decide (2048 ≤ (bitsAt p.arg.toNat 0 12 + 4096 - q.pkt.lseq.toNat) % 4096))
      else x.held
    credits := (List.range 4).foldl (fun m v => giveBack m v (bitsAt p.arg.toNat (32 + 8 * v) 8)) x.credits }

/-- What a number has not been acknowledged by. -/
theorem not_seqLe (a b : Nat) : (!seqLe a b) = decide (2048 ≤ (b + 4096 - a) % 4096) := by
  unfold seqLe seqBehind
  rw [← decide_not]
  exact decide_eq_decide.2 Nat.not_lt

theorem State.acked_eq (p seq : Nat) (s : State) : s.acked p seq = s.modCefin p (fun x => { x with
    held := x.held.filter (fun q => decide (2048 ≤ (seq + 4096 - q.pkt.lseq.toNat) % 4096)) }) := by
  unfold State.acked
  simp only [not_seqLe]

section
variable {t : Nat} {p : Pkt} {s : State}

theorem exec_lctl_down (h : (s.cefin p.port.val).up = false) : exec (.lctl t p) s = .next (s.at t) :=
  if_pos (by
    show (!(s.cefin p.port.val).up) = true
    rw [h]
    rfl)

/-- The state in which the acknowledgement and the credit of an LCTL are taken. -/
def State.lctlTaken (p : Pkt) (s : State) : State :=
  let y := if bitAt p.arg.toNat 12 then (s.cameIn p.port.val p).acked p.port.val (bitsAt p.arg.toNat 0 12) else s.cameIn p.port.val p
  y.modCefin p.port.val (fun x => { x with
    credits := (List.range 4).foldl (fun m v => giveBack m v (bitsAt p.arg.toNat (32 + 8 * v) 8)) x.credits })

theorem exec_lctl_up (h : (s.cefin p.port.val).up = true) : exec (.lctl t p) s
    = .next ((if p.arg.getLsbD 25 = true then ((s.at t).lctlTaken p).replayFrom p.port.val (bitsAt p.arg.toNat 13 12)
      else (s.at t).lctlTaken p).pump p.port.val) := by
  have hon : ¬(!((s.at t).cefin p.port.val).up) = true := by
    show ¬(!(s.cefin p.port.val).up) = true
    rw [h]
    decide
  exact if_neg hon

theorem State.lctlTaken_spec (p : Pkt) (s : State) : PortStep p.port.val s (s.lctlTaken p) ∧ (s.lctlTaken p).out = s.out
    ∧ (s.lctlTaken p).cefin p.port.val = (s.cefin p.port.val).lctl p := by
  obtain ⟨c, hc⟩ := State.cameIn_counters p.port.val p s
  unfold State.lctlTaken
  rw [hc]
  have hbit : bitAt p.arg.toNat 12 = p.arg.getLsbD 12 := rfl
  rw [hbit]
  dsimp only
  cases hack : p.arg.getLsbD 12 with
  | true =>
    rw [if_pos rfl, State.acked_eq]
    refine ⟨(PortStep.counters ⟨c, rfl⟩).trans ((PortStep.modCefin ..).trans (.modCefin ..)), rfl, ?_⟩
    rw [State.modCefin_cefin_same, State.modCefin_cefin_same]
    unfold CefinPort.lctl
    rw [hack]
    rfl
  | false =>
    rw [if_neg (by decide)]
    refine ⟨(PortStep.counters ⟨c, rfl⟩).trans (.modCefin ..), rfl, ?_⟩
    rw [State.modCefin_cefin_same]
    unfold CefinPort.lctl
    rw [hack]
    rfl

end

/-- With nothing waiting for credit, returned credit sends nothing. -/
theorem State.pump_none {p : Nat} {s : State} (h : (s.cefin p).waiting = []) : PortStep p s (s.pump p) ∧ (s.pump p).out = s.out
    ∧ (s.pump p).cefin p = s.cefin p := by
  have hpump : s.pump p = s.modCefin p (fun x => { x with waiting := [] }) := by
    unfold State.pump
    rw [h]
    rfl
  rw [hpump]
  refine ⟨.modCefin .., rfl, ?_⟩
  rw [State.modCefin_cefin_same, ← h]

/-- Every packet of a list goes out again. -/
def State.resend (p : Nat) (l : List SentPkt) (s : State) : State :=
  l.foldl (fun (s : State) (q : SentPkt) => (s.incBytes (viaCtr p 0x00) (pktBytes q.pkt)).emit (.packet p q.type q.pkt)) s

theorem State.resend_spec (p : Nat) (l : List SentPkt) (s : State) : PortStep p s (s.resend p l)
    ∧ (s.resend p l).out = s.out ++ l.map (fun q => .packet p q.type q.pkt) ∧ (s.resend p l).cefin p = s.cefin p := by
  induction l generalizing s with
  | nil => exact ⟨.refl p s, (List.append_nil _).symm, rfl⟩
  | cons q l ih =>
    obtain ⟨c, hc⟩ := State.incBytes_counters (viaCtr p 0x00) (pktBytes q.pkt) s
    obtain ⟨hstep, hout, hport⟩ := ih ((s.incBytes (viaCtr p 0x00) (pktBytes q.pkt)).emit (.packet p q.type q.pkt))
    refine ⟨((PortStep.incBytes ..).trans (.emit ..)).trans hstep, hout.trans ?_, hport.trans ?_⟩
    · rw [hc]
      simp [State.emit]
    · rw [hc]
      rfl

/-- The replays of the last 1 ms. -/
def CefinPort.lately (now : Nat) (x : CefinPort) : List Nat := x.replays.filter (fun r => decide (now < r + 1000000))

theorem lately_cons (now : Nat) (l : List Nat) : (now :: l).filter (fun r => decide (now < r + 1000000))
    = now :: l.filter (fun r => decide (now < r + 1000000)) := by
  simp

/-- What is still held from a sequence number on. -/
def CefinPort.heldFrom (seq : Nat) (x : CefinPort) : List SentPkt :=
  x.held.filter (fun q => decide (2048 ≤ ((seq + 4095) % 4096 + 4096 - q.pkt.lseq.toNat) % 4096))

/-- A replay is timed at its port. -/
def State.timed (p : Nat) (s : State) : State :=
  s.modCefin p (fun x => { x with replays := (s.time :: x.replays).filter (fun r => decide (s.time < r + 1000000)) })

/-- The 16th replay within 1 ms takes a port down. -/
def State.ifLate (p : Nat) (s : State) : State :=
  if 16 ≤ ((s.timed p).cefin p).replays.length then (s.timed p).portDown p else s.timed p

/-- A replay: every packet held from the number on goes out again, and the 16th replay within 1 ms takes the port down. -/
theorem State.replayFrom_spec {p seq : Nat} {s : State} (hup : (s.cefin p).up = true) (hho : ∀ e ∈ s.requests, e.2.ho = none) :
    PortStep p s (s.replayFrom p seq)
      ∧ (s.replayFrom p seq).out = s.out ++ ((s.cefin p).heldFrom seq).map (fun q => .packet p q.type q.pkt)
      ∧ (((s.cefin p).lately s.time).length < 15 → (s.replayFrom p seq).cefin p = { s.cefin p with
          held := (s.cefin p).heldFrom seq, replays := s.time :: (s.cefin p).lately s.time })
      ∧ (15 ≤ ((s.cefin p).lately s.time).length → ∃ may, (s.replayFrom p seq).cefin p = CefinPort.fallen may
          { s.cefin p with held := (s.cefin p).heldFrom seq, replays := s.time :: (s.cefin p).lately s.time }) := by
  obtain ⟨c, hc⟩ := State.inc_counters (viaCtr p 0x10) 1
    (s.modCefin p (fun x => { x with held := (s.cefin p).heldFrom seq }))
  have hacked : (s.acked p ((seq + 4095) % 4096)).inc (viaCtr p 0x10) 1
      = { s.modCefin p (fun x => { x with held := (s.cefin p).heldFrom seq }) with counters := c } := by
    rw [State.acked_eq]
    exact hc
  generalize hz : ({ s.modCefin p (fun x => { x with held := (s.cefin p).heldFrom seq }) with counters := c } : State) = z at hacked
  have hzport : z.cefin p = { s.cefin p with held := (s.cefin p).heldFrom seq } := by
    rw [← hz]
    exact State.modCefin_cefin_same p (fun x => { x with held := (s.cefin p).heldFrom seq }) s
  have hzstep : PortStep p s z := by
    rw [← hz]
    exact (PortStep.modCefin ..).trans (.counters ⟨c, rfl⟩)
  have hzout : z.out = s.out := by rw [← hz]; rfl
  have hreplay : s.replayFrom p seq = (z.resend p (z.cefin p).held).ifLate p := by
    unfold State.replayFrom
    dsimp only
    rw [hacked]
    rfl
  obtain ⟨hstep, hout, hport⟩ := State.resend_spec p (z.cefin p).held z
  rw [hreplay]
  generalize z.resend p (z.cefin p).held = y at hstep hout hport
  have hytime : y.time = s.time := hstep.time.trans hzstep.time
  unfold State.ifLate
  have hwport : (y.timed p).cefin p = { s.cefin p with held := (s.cefin p).heldFrom seq, replays := s.time :: (s.cefin p).lately s.time } := by
    unfold State.timed
    rw [State.modCefin_cefin_same, hport, hzport, hytime]
    dsimp only
    rw [lately_cons]
    rfl
  have hwstep : PortStep p s (y.timed p) := (hzstep.trans hstep).trans (.modCefin ..)
  have hwout : (y.timed p).out = s.out ++ ((s.cefin p).heldFrom seq).map (fun q => .packet p q.type q.pkt) := by
    show y.out = _
    rw [hout, hzout, hzport]
  generalize y.timed p = w at hwport hwstep hwout ⊢
  have hcount : (w.cefin p).replays.length = ((s.cefin p).lately s.time).length + 1 := by rw [hwport]; rfl
  by_cases hlate : 15 ≤ ((s.cefin p).lately s.time).length
  · have hwup : (w.cefin p).state ≠ .down := by
      rw [hwport]
      intro h
      unfold CefinPort.up at hup
      rw [decide_eq_true_eq] at hup
      obtain hup | hup := hup <;> cases hup.symm.trans h
    obtain ⟨hfall, hfport, hfout, -⟩ := State.portDown_falls hwup (by rw [hwstep.requests]; exact hho)
    rw [if_pos (by omega)]
    exact ⟨hwstep.trans hfall, hfout.trans hwout, fun h => absurd h (by omega), fun _ => ⟨_, by rw [hfport, hwport]⟩⟩
  · rw [if_neg (by omega)]
    exact ⟨hwstep, hwout, fun _ => hwport, fun h => absurd h hlate⟩

theorem CefinPort.fallen_down (may : Bool) (x : CefinPort) :
    (x.fallen may).up = false ∧ (x.fallen may).held = [] ∧ (x.fallen may).waiting = [] := by
  cases may <;> exact ⟨rfl, rfl, rfl⟩

/-! ### The statement -/

/-- Settles O53: what is sent by its route and its credit, what comes in by the port's state and sequence, an LCTL by what it asks
for. Which half a packet takes, and what a module without a number forwards, are the model's choices of log entries 55 and 56. -/
theorem packetsAreSentForwardedAndReplayed : Obligations.PacketsAreSentForwardedAndReplayed := by
  unfold Obligations.PacketsAreSentForwardedAndReplayed
  refine ⟨fun type vc dst arg payload z => ⟨State.sendTo_none, fun q hroute hq => ?_⟩,
    fun t type p s hup hseq => ⟨fun h => ?_, fun h => ?_, fun h => ?_, fun htype hlock hassigned hsingle hchecked hother => ?_⟩,
    fun t port lseq fec s => ?_, fun t p s => ⟨exec_lctl_down, fun hup hwait hreplay => ?_, fun hup hwait hreplay hack hho => ?_⟩⟩
  · intro k e hcredit hwait
    obtain ⟨c, hc⟩ := State.txNow_frame q
      { type := BitVec.ofNat 8 type, half := z.halfOn q z.chip, pkt := z.ownPkt q vc dst arg payload } z
    refine ⟨_, State.sendTo_sends hroute hcredit hwait, ?_⟩
    rw [hc]
    exact ⟨rfl, State.modCefin_cefin_same .., fun j hj => State.modCefin_cefin_other hj ..⟩
  · rw [exec_badPacket hup hseq, if_pos h]
  · rw [exec_badPacket hup hseq, h]
    rfl
  · obtain ⟨hlock, hassigned, hdup, hchecked, hown⟩ := State.arrived_way t p s
    rw [exec_packetForward hup hseq, State.viaduct_stops (by rwa [hlock, hassigned, hdup, hchecked, hown]), ite_self]
  · obtain ⟨hlock', hassigned', hdup', hchecked', hown'⟩ := State.arrived_way t p s
    rw [exec_packetForward hup hseq, if_pos (routed_of_mem htype), State.viaduct_forwards ((hlock' _).trans hlock)
      (hassigned'.trans hassigned) (hdup'.trans hsingle) (hchecked'.trans hchecked) ((hown' _).trans hother)]
    generalize s.arrived t p = y
    refine ⟨fun h => by rw [State.forward_dead h], fun h hroute => by rw [State.forward_none h hroute],
      fun q h hroute hq hwait => ?_⟩
    intro k hcredit
    obtain ⟨c, hforward⟩ := State.forward_sends h hroute hcredit hwait
    obtain ⟨d, hd⟩ := State.txNow_frame q { type := type, half := y.halfOn q p.src.toNat
                                            pkt := { p with ttl := p.ttl - 1, port := BitVec.toFin (BitVec.ofNat 3 q), fec := 0 } }
      { y with counters := c }
    rw [hforward, hd]
    exact ⟨_, rfl, rfl⟩
  · intro x z
    have hz : ∃ c, z = { s.at t with counters := c } := by
      show ∃ c, (if fec = true then (s.at t).inc (viaCtr port.val 0x0C) 1 else s.at t) = _
      split
      · exact State.inc_counters ..
      · exact ⟨_, rfl⟩
    obtain ⟨c, hc⟩ := hz
    refine ⟨exec_packetCrcFail_down, fun hup h => ?_, fun hup hasked hseq => ?_⟩
    · rw [exec_packetCrcFail_up hup]
      show Host.Outcome.next (if (lseq.toNat + 4096 - x.rxSeq) % 4096 < 2048 then z.sendNak port.val else z) = _
      split
      · next hseq =>
        rw [State.sendNak_asked]
        rw [hc]
        exact h.resolve_right (by omega)
      · rfl
    · have hzport : z.cefin port.val = x := by rw [hc]; rfl
      obtain ⟨d, hd⟩ := State.sendNak_asks (s := z) (p := port.val) (by rw [hzport]; exact hasked)
      obtain ⟨hfield, hnak, hack⟩ := nakArg_fields x.rxSeq
      refine ⟨z.sendNak port.val, z.nakPkt port.val x.rxSeq, ?_, ?_, hfield, hnak, hack⟩
      · rw [exec_packetCrcFail_up hup]
        exact congrArg Host.Outcome.next (if_pos hseq)
      · rw [hd, hzport, hc]
        rfl
  · obtain ⟨hstep, hout, hport⟩ := State.lctlTaken_spec p (s.at t)
    have hwait' : (((s.at t).lctlTaken p).cefin p.port.val).waiting = [] := by
      rw [hport]
      exact hwait
    obtain ⟨hstep', hout', hport'⟩ := State.pump_none hwait'
    have hall := hstep.trans hstep'
    refine ⟨_, (s.cefin p.port.val).lctl p, exec_lctl_up hup, ?_⟩
    rw [hreplay, if_neg (by decide)]
    refine ⟨?_, hport'.trans hport, hall.other, rfl, rfl, fun v hv => ?_⟩
    · have hframe := hall.frame
      rw [hout', hout] at hframe
      exact hframe
    · exact (giveBack_foldl (fun v => bitsAt p.arg.toNat (32 + 8 * v) 8) (List.range 4) List.nodup_range _ v).2 (List.mem_range.2 hv)
  · intro held late
    obtain ⟨hstep, hout, hport⟩ := State.lctlTaken_spec p (s.at t)
    have hheld : ((s.at t).cefin p.port.val).lctl p = { s.cefin p.port.val with
        credits := (((s.at t).cefin p.port.val).lctl p).credits } := by
      unfold CefinPort.lctl
      rw [hack]
      rfl
    rw [hheld] at hport
    obtain ⟨hrstep, hrout, hfew, hmany⟩ := State.replayFrom_spec (seq := bitsAt p.arg.toNat 13 12) (s := (s.at t).lctlTaken p)
      (p := p.port.val) (by rw [hport]; exact hup) (by rw [hstep.requests]; exact hho)
    have htime : ((s.at t).lctlTaken p).time = max s.time t := hstep.time
    rw [hport, htime] at hfew hmany
    rw [hport, hout] at hrout
    have hwait' : ((((s.at t).lctlTaken p).replayFrom p.port.val (bitsAt p.arg.toNat 13 12)).cefin p.port.val).waiting = [] := by
      obtain h | h := Nat.lt_or_ge (CefinPort.lately (max s.time t) (s.cefin p.port.val)).length 15
      · rw [hfew h]
        exact hwait
      · obtain ⟨may, h⟩ := hmany h
        rw [h]
        exact (CefinPort.fallen_down ..).2.2
    obtain ⟨hpstep, hpout, hpport⟩ := State.pump_none hwait'
    have hall := (hstep.trans hrstep).trans hpstep
    refine ⟨_, exec_lctl_up hup, ?_⟩
    rw [hreplay, if_pos rfl]
    refine ⟨?_, fun h => ?_, fun h => ?_⟩
    · have hframe := hall.frame
      rw [hpout, hrout] at hframe
      exact hframe
    · rw [hpport, hfew h]
      exact ⟨rfl, hup, rfl⟩
    · obtain ⟨may, h⟩ := hmany h
      rw [hpport, h]
      exact ⟨(CefinPort.fallen_down ..).1, (CefinPort.fallen_down ..).2.1⟩

end Sys2Proof.Machine
end

section
/-! PROOFS. Chip numbers are assigned, probed and checked (spec/14_viaduct.md, R469, R491, R493, R576). -/

namespace Sys2Proof.Machine
open Sys2Proof

/-! ### Probes (R469) -/

/-- A route depends on the registers, the duplicate mark, the relocations and the ports alone. -/
theorem State.outPort_congr {a b : State} (hregs : a.regs = b.regs) (hdup : a.via.duplicate = b.via.duplicate)
    (hrelocs : a.via.relocs = b.via.relocs) (hports : a.via.ports = b.via.ports) (dst : Nat) : a.outPort dst = b.outPort dst := by
  have hregw (o : Nat) : a.regw o = b.regw o := State.regw_of_regs hregs o
  have hcefin (j : Nat) : a.cefin j = b.cefin j := by
    unfold State.cefin
    rw [hports]
  unfold State.outPort State.ringPort State.linkUp State.lockPort State.assigned State.chip State.ringSize State.regb State.regf
    State.reg
  simp only [hregw, hcefin, hdup, hrelocs]

/-- One PROBE goes out with an ID of its own. -/
def State.sendProbe (dst : Nat) (s : State) : State :=
  State.sendTo 0x50 0 dst s.via.nextProbe [] { s with via := { s.via with
    probes := s.via.probes ++ [s.via.nextProbe], nextProbe := (s.via.nextProbe + 1) % 65536 } }

theorem State.sendProbes_three (dst : Nat) (s : State) :
    s.sendProbes dst 3 = ((s.sendProbe dst).sendProbe dst).sendProbe dst := rfl

theorem State.sendProbe_frame (dst : Nat) (s : State) : ∃ c o v, s.sendProbe dst = { s with
    counters := c, out := o
    via := { s.via with ports := v, probes := s.via.probes ++ [s.via.nextProbe], nextProbe := (s.via.nextProbe + 1) % 65536 } } := by
  obtain ⟨c, v, o, h⟩ := SendsOnly.sendTo 0x50 0 dst s.via.nextProbe [] { s with via := { s.via with
    probes := s.via.probes ++ [s.via.nextProbe], nextProbe := (s.via.nextProbe + 1) % 65536 } }
  exact ⟨c, o, v, h⟩

/-- Three PROBEs: only what is sent, and the IDs in flight. -/
theorem State.sendProbes_frame (dst : Nat) (s : State) : ∃ c o v, s.sendProbes dst 3 = { s with
    counters := c, out := o
    via := { s.via with ports := v
                        probes := s.via.probes ++ [s.via.nextProbe, (s.via.nextProbe + 1) % 65536,
                          ((s.via.nextProbe + 1) % 65536 + 1) % 65536]
                        nextProbe := (((s.via.nextProbe + 1) % 65536 + 1) % 65536 + 1) % 65536 } } := by
  obtain ⟨c, o, v, h⟩ := State.sendProbe_frame dst s
  obtain ⟨c', o', v', h'⟩ := State.sendProbe_frame dst (s.sendProbe dst)
  obtain ⟨c'', o'', v'', h''⟩ := State.sendProbe_frame dst ((s.sendProbe dst).sendProbe dst)
  refine ⟨c'', o'', v'', ?_⟩
  rw [State.sendProbes_three, h'', h', h]
  simp only [List.append_assoc, List.cons_append, List.nil_append]

/-- A PROBE without a route is counted. -/
theorem State.sendProbe_unrouted {dst : Nat} {s : State} (h : s.outPort dst = none) :
    (s.sendProbe dst).outPort dst = none ∧ (kget Counter.zero (s.sendProbe dst).counters 0x090204).live.toNat
      = min ((kget Counter.zero s.counters 0x090204).live.toNat + 1) 0xFFFFFFFF := by
  let z : State := { s with via := { s.via with
    probes := s.via.probes ++ [s.via.nextProbe], nextProbe := (s.via.nextProbe + 1) % 65536 } }
  have hz : z.outPort dst = none := (State.outPort_congr (b := s) rfl rfl rfl rfl dst).trans h
  have hsend : s.sendProbe dst = z.inc 0x090204 1 := State.sendTo_none hz
  obtain ⟨c, hc⟩ := State.inc_counters 0x090204 1 z
  refine ⟨?_, by rw [hsend]; exact State.inc_live_same ..⟩
  rw [hsend, hc]
  exact (State.outPort_congr (b := z) rfl rfl rfl rfl dst).trans hz

/-- Three PROBEs without a route are three of them. -/
theorem State.sendProbes_unrouted {dst : Nat} {s : State} (h : s.outPort dst = none) :
    (kget Counter.zero (s.sendProbes dst 3).counters 0x090204).live.toNat
      = min ((kget Counter.zero s.counters 0x090204).live.toNat + 3) 0xFFFFFFFF := by
  obtain ⟨h1, hc1⟩ := State.sendProbe_unrouted h
  obtain ⟨h2, hc2⟩ := State.sendProbe_unrouted h1
  obtain ⟨-, hc3⟩ := State.sendProbe_unrouted h2
  rw [State.sendProbes_three, hc3, hc2, hc1]
  omega

/-! ### The check of a number (R469) -/

/-- The state in which the check of the number begins. -/
def State.unchecked (s : State) : State := { s with via := { s.via with checked := false, duplicate := false, probes := [] } }

theorem State.startCheck_duplicate {s : State} (h : s.relocated s.chip = true) :
    s.startCheck = { s with via := { s.via with checked := false, duplicate := true, probes := [] } } := if_pos h

theorem State.startCheck_probes {s : State} (h : s.relocated s.chip = false) : s.startCheck = s.unchecked.sendProbes s.chip 3 :=
  if_neg (by
    show ¬s.relocated s.chip = true
    rw [h]
    decide)

/-! ### VIA_CHIP (R493) -/

/-- ASSIGNED of a write, by itself. -/
theorem word_assigned (value : Word) : (if value.getLsbD 31 then 0x80000000#32 else 0#32) = value &&& 0x80000000#32 := by
  refine BitVec.eq_of_getLsbD_eq fun i hi => ?_
  have hmask : ∀ i, i < 32 → (0x80000000#32).getLsbD i = decide (i = 31) := by decide
  rw [BitVec.getLsbD_and, hmask i hi]
  by_cases h31 : i = 31
  · subst h31
    cases value.getLsbD 31 <;> rfl
  · rw [decide_eq_false h31, Bool.and_false]
    split
    · rw [hmask i hi, decide_eq_false h31]
    · exact BitVec.getLsbD_zero

/-- VIA_CHIP as a write leaves it: its fields only while ASSIGNED is 0. -/
def State.chipWord (s : State) (value : Word) : Word :=
  ((if s.assigned = true then s.regw 0x090000 else value) &&& 0x003F3FFF#32) ||| (value &&& 0x80000000#32)

section
variable {s : State} {value : Word}

theorem State.writeChip_eq (value : Word) (s : State) : s.writeChip value =
    if value.getLsbD 31 && !s.assigned then (s.setReg 0x090000 (s.chipWord value)).startCheck
    else if s.assigned && !value.getLsbD 31 then (s.setReg 0x090000 (s.chipWord value)).unchecked
    else s.setReg 0x090000 (s.chipWord value) := by
  unfold State.writeChip State.chipWord
  dsimp only
  rw [word_assigned, ← apply_ite (fun w : Word => w &&& 0x003F3FFF#32)]
  rfl

end

/-! ### HELLO and PROBE (R469) -/

section
variable {t : Nat} {p : Pkt} {s : State}

/-- The peer that HELLO names. -/
def CefinPort.greeted (p : Pkt) (x : CefinPort) : CefinPort :=
  { x with peer := bitsAt p.arg.toNat 0 14, peerPort := bitsAt p.arg.toNat 14 3, peerValid := true }

theorem exec_hello (hup : (s.cefin p.port.val).up = true) (hseq : p.lseq.toNat = (s.cefin p.port.val).rxSeq) :
    exec (.hello t p) s = .next (if s.lockPort p.port.val = true then s.arrived t p
      else
        let z := (s.arrived t p).modCefin p.port.val (CefinPort.greeted p)
        if p.port.val < 2 ∧ s.assigned = true ∧ s.via.checked = false ∧ s.via.duplicate = false ∧ s.via.probes = [] then
          z.startCheck
        else z) := by
  have hexec : exec (.hello t p) s = .next _ := congrArg Host.Outcome.next (State.received_inSequence t p _ s hup hseq)
  obtain ⟨c, v, o, h⟩ := State.arrived_eq t p s
  rw [hexec, h]
  dsimp only
  congr 1
  refine if_congr Iff.rfl rfl (if_congr ?_ rfl rfl)
  simp only [Bool.not_eq_true']
  exact Iff.rfl

theorem exec_probe (h : Arrives p s) : exec (.probe t p) s
    = .next (if p.src.toNat = (s.arrived t p).chip ∧ (s.arrived t p).via.probes.contains (bitsAt p.arg.toNat 0 16) = true then
        s.arrived t p
      else (s.arrived t p).sendTo 0x51 0 p.src.toNat
        (fieldAt 0 16 (bitsAt p.arg.toNat 0 16) + fieldAt 16 14 (s.arrived t p).chip) []) :=
  State.onPacket_arrives _ h

/-- What an answer to a PROBE does: it shows a duplicate before the check has passed, and a living target in a takeover. -/
def State.probeAnswered (id : Nat) (s : State) : State :=
  if !s.via.probes.contains id then s
  else if !s.via.checked then { s with via := { s.via with duplicate := true, probes := [] } }
  else if s.via.take = TakeResult.inProgress ∧ !s.via.takeClaimed then
    { s with via := { s.via with take := .targetAlive, probes := [] } }
  else s

theorem exec_probeAns (h : Arrives p s) : exec (.probeAns t p) s = .next ((s.arrived t p).probeAnswered (bitsAt p.arg.toNat 0 16)) :=
  State.onPacket_arrives _ h

/-- A packet for a number of the module acts, before the check has passed only as an answer to a PROBE. -/
theorem State.viaduct_own {type : BitVec 8} {act : State → State} (hlock : s.lockPort p.port.val = false)
    (hassigned : s.assigned = true) (hsingle : s.via.duplicate = false) (htaken : s.via.checked = true ∨ type = 0x51#8)
    (hmine : s.ownNumber p.dst.toNat = true) : s.viaduct type p act = act s := by
  unfold State.viaduct
  rw [hlock, hassigned, hsingle, if_neg (by decide), if_neg (by simpa [imp_iff_or_not, or_comm] using htaken), if_pos hmine]

/-- Before its check has passed a module takes answers to its own probes alone. -/
theorem exec_probeAns_unchecked (hup : (s.cefin p.port.val).up = true) (hseq : p.lseq.toNat = (s.cefin p.port.val).rxSeq)
    (hlock : s.lockPort p.port.val = false) (hassigned : s.assigned = true) (hsingle : s.via.duplicate = false)
    (hmine : s.ownNumber p.dst.toNat = true) :
    exec (.probeAns t p) s = .next ((s.arrived t p).probeAnswered (bitsAt p.arg.toNat 0 16)) := by
  obtain ⟨hlock', hassigned', hdup', -, hown'⟩ := State.arrived_way t p s
  exact (congrArg Host.Outcome.next (State.received_inSequence t p _ s hup hseq)).trans (congrArg Host.Outcome.next
    (State.viaduct_own (act := State.probeAnswered _) ((hlock' _).trans hlock) (hassigned'.trans hassigned) (hdup'.trans hsingle)
      (.inr rfl) ((hown' _).trans hmine)))

end

/-- What receiving a packet leaves of the viaduct but its ports. -/
theorem State.arrived_via (t : Nat) (p : Pkt) (s : State) : (s.arrived t p).regs = s.regs
    ∧ (s.arrived t p).via = { s.via with ports := (s.arrived t p).via.ports } := by
  obtain ⟨c, v, o, h⟩ := State.arrived_eq t p s
  rw [h]
  exact ⟨rfl, rfl⟩

/-! ### The statement -/

/-- Settles O57: a write of VIA_CHIP by ASSIGNED before and after, a packet by what the module awaits, the end of the check by the
relocation table. That three PROBEs leave at once is the model's choice of log entry 57. -/
theorem chipNumbersAreChecked : Obligations.ChipNumbersAreChecked := by
  unfold Obligations.ChipNumbersAreChecked
  refine ⟨fun t who value s y hreached => ?_, fun z => ⟨State.startCheck_duplicate, fun hfree => ?_⟩, fun t p s hup hseq => ?_,
    fun t p s harr => ?_, fun t p s hup hseq hlock hassigned hsingle hchecked hmine hid => ?_, fun t s => ?_⟩
  · intro fields z
    have hexec : exec (.chipAssign t who value) s = .next (y.writeChip value) := congrArg Host.Outcome.next (hreached.asMgmt _)
    obtain ⟨c, hy⟩ := hreached.frame
    have hassigned : y.assigned = s.assigned := by rw [hy]; rfl
    have hword : y.chipWord value = fields ||| (value &&& 0x80000000#32) := by rw [hy]; rfl
    have hvia : y.via = s.via := by rw [hy]; rfl
    rw [hexec, State.writeChip_eq, hword, hassigned]
    refine ⟨fun h => ?_, fun hon hoff => ?_, fun hoff hon => ?_⟩
    · rw [h]
      cases s.assigned <;> rfl
    · rw [hon, hoff]
      rfl
    · rw [hon, hoff]
      show Host.Outcome.next z.unchecked = _
      unfold State.unchecked
      rw [show z.via = s.via from hvia]
  · obtain ⟨c, o, v, hu⟩ := State.sendProbes_frame z.chip z.unchecked
    rw [State.startCheck_probes hfree]
    refine ⟨by rw [hu]; rfl, by rw [hu]; rfl, fun hroute => ?_⟩
    refine State.sendProbes_unrouted (s := z.unchecked) ?_
    exact (State.outPort_congr (b := { z with via := { z.via with duplicate := false } }) rfl rfl rfl rfl _).trans hroute
  · intro y z anew
    rw [exec_hello hup hseq]
    refine ⟨fun hlock => by rw [if_pos hlock], fun hlock => ⟨fun h => ?_, fun h => ?_⟩⟩
    · rw [hlock]
      exact congrArg Host.Outcome.next (if_pos h)
    · rw [hlock]
      exact congrArg Host.Outcome.next (if_neg h)
  · obtain ⟨hregs, hvia⟩ := State.arrived_via t p s
    have hchip : (s.arrived t p).chip = s.chip := State.regf_of_regs hregs ..
    have hprobes : (s.arrived t p).via.probes = s.via.probes := by rw [hvia]
    have hchecked : (s.arrived t p).via.checked = true := by rw [hvia]; exact harr.checked
    have htake : (s.arrived t p).via.take = s.via.take := by rw [hvia]
    have hclaimed : (s.arrived t p).via.takeClaimed = s.via.takeClaimed := by rw [hvia]
    rw [exec_probe harr, exec_probeAns harr, hchip, hprobes]
    unfold State.probeAnswered
    rw [hprobes, hchecked, htake, hclaimed]
    refine ⟨fun hsrc hid => ?_, fun h => ?_, fun hid => ?_, fun hid hprogress hunclaimed => ?_, fun h => ?_⟩
    · rw [if_pos ⟨hsrc, List.contains_iff_mem.2 hid⟩]
    · rw [if_neg (fun hc => h.elim (fun h => h hc.1) (fun h => h (List.contains_iff_mem.1 hc.2)))]
    · rw [if_pos (by simpa using hid)]
    · rw [if_neg (by simpa using hid), if_neg (by decide), if_pos (by simp [hprogress, hunclaimed])]
    · have hnot : ¬(s.via.take = TakeResult.inProgress ∧ (!s.via.takeClaimed) = true) := fun hc =>
        h.elim (fun h => h hc.1) (fun h => by rw [h] at hc; exact Bool.noConfusion hc.2)
      rw [if_neg hnot, if_neg (show ¬(!true) = true by decide), ite_self]
  · intro y
    obtain ⟨-, hvia⟩ := State.arrived_via t p s
    have hprobes : (s.arrived t p).via.probes = s.via.probes := by rw [hvia]
    have hnot : (s.arrived t p).via.checked = false := by rw [hvia]; exact hchecked
    rw [exec_probeAns_unchecked hup hseq hlock hassigned hsingle hmine]
    unfold State.probeAnswered
    rw [hprobes, hnot, if_neg (by simpa using hid), if_pos (by decide)]
  · have hcheck : exec (.probeCheckDone t) s = if (!s.assigned || s.via.checked || s.via.duplicate) = true then .next (s.at t)
        else if s.relocated s.chip = true then .next { s.at t with via := { s.via with duplicate := true } }
        else .next (s.boot.lostClaims.foldl (fun (v : State) (c : Nat) => v.releaseClaim c) { s.at t with
          via := { s.via with checked := true, probes := [] }, boot := { s.boot with lostClaims := [] } }) := rfl
    rw [hcheck]
    refine ⟨fun h => if_pos (by simpa [or_assoc] using h), fun hassigned hnot hsingle => ?_⟩
    rw [hassigned, hnot, hsingle, if_neg (by decide)]
    exact ⟨fun h => if_pos h, fun h => if_neg (by rw [h]; decide)⟩

end Sys2Proof.Machine
end

section
/-! PROOFS. Floods, claims and takeovers (spec/14_viaduct.md, R489 to R491). -/

namespace Sys2Proof.Machine
open Sys2Proof

/-! ### Floods -/

theorem PortStep.linkUp {p : Nat} {s u : State} (h : PortStep p s u) {j : Nat} (hj : j ≠ p) : u.linkUp j = s.linkUp j := by
  unfold State.linkUp
  rw [h.other j hj, h.lockPort]

theorem PortStep.txNow (p : Nat) (q : SentPkt) (s : State) : PortStep p s (s.txNow p q) := by
  obtain ⟨c, hc⟩ := State.txNow_frame p q s
  rw [hc]
  exact (PortStep.modCefin ..).trans ⟨rfl, fun _ _ => rfl⟩

/-- A packet sent on a port moves that port alone. -/
theorem PortStep.sendOn (p half : Nat) (type : BitVec 8) (k : Pkt) (s : State) : PortStep p s (s.sendOn p half type k) := by
  unfold State.sendOn State.drainPort State.drainPort
  split
  · split
    · exact .txNow ..
    · exact .modCefin ..
  · exact .refl p s

/-- A packet sent on a port that is up is held there, or waits for credit. -/
theorem State.sendOn_held {p : Nat} (half : Nat) (type : BitVec 8) (k : Pkt) {s : State} (hup : (s.cefin p).up = true) :
    ∃ e ∈ ((s.sendOn p half type k).cefin p).held ++ ((s.sendOn p half type k).cefin p).waiting, e.type = type
      ∧ e.pkt = { k with port := BitVec.toFin (BitVec.ofNat 3 p), lseq := e.pkt.lseq, fec := 0 } := by
  unfold State.sendOn State.drainPort State.drainPort
  rw [if_pos hup]
  split
  · obtain ⟨c, hc⟩ := State.txNow_frame p
      { type := type, half := half, pkt := { k with port := BitVec.toFin (BitVec.ofNat 3 p), fec := 0 } } s
    rw [hc]
    refine ⟨SentPkt.numbered (s.cefin p)
      { type := type, half := half, pkt := { k with port := BitVec.toFin (BitVec.ofNat 3 p), fec := 0 } }, ?_, rfl, rfl⟩
    refine List.mem_append_left _ ?_
    show _ ∈ ((s.modCefin p (CefinPort.after _)).cefin p).held
    rw [State.modCefin_cefin_same]
    exact List.mem_append_right _ (List.mem_singleton.2 rfl)
  · refine ⟨{ type := type, half := half, pkt := { k with port := BitVec.toFin (BitVec.ofNat 3 p), fec := 0 } }, ?_, rfl, rfl⟩
    rw [State.modCefin_cefin_same]
    exact List.mem_append_right _ (List.mem_append_right _ (List.mem_singleton.2 rfl))

/-- What a flood does on one port. -/
def State.floodPort (type : BitVec 8) (but : Option Nat) (p : Pkt) (s : State) (q : Nat) : State :=
  if s.linkUp q ∧ but ≠ some q then s.sendOn q (s.halfOn q p.src.toNat) type p else s

section
variable (type : BitVec 8) (but : Option Nat) (p : Pkt)

theorem State.floodPort_step (s : State) (q : Nat) : PortStep q s (s.floodPort type but p q) := by
  unfold State.floodPort
  split
  · exact .sendOn ..
  · exact .refl q s

/-- A flood over a list of ports: each is met once, as it stood. -/
theorem State.flood_ports (l : List Nat) (hl : l.Nodup) (s : State) (j : Nat) :
    (j ∉ l → (l.foldl (State.floodPort type but p) s).cefin j = s.cefin j)
      ∧ (j ∈ l → ∃ z : State, z.cefin j = s.cefin j ∧ z.linkUp j = s.linkUp j
        ∧ (l.foldl (State.floodPort type but p) s).cefin j = (z.floodPort type but p j).cefin j) := by
  induction l generalizing s with
  | nil => exact ⟨fun _ => rfl, fun h => absurd h List.not_mem_nil⟩
  | cons q l ih =>
    obtain ⟨hq, hrest⟩ := List.nodup_cons.1 hl
    have hstep := State.floodPort_step type but p s q
    refine ⟨fun hj => ?_, fun hj => ?_⟩
    · rw [List.mem_cons, not_or] at hj
      exact ((ih hrest _).1 hj.2).trans (hstep.other j hj.1)
    · by_cases hjq : j = q
      · subst hjq
        exact ⟨s, rfl, rfl, (ih hrest _).1 hq⟩
      · obtain ⟨z, hz, hup, hu⟩ := (ih hrest (s.floodPort type but p q)).2 ((List.mem_cons.1 hj).resolve_left hjq)
        exact ⟨z, hz.trans (hstep.other j hjq), hup.trans (hstep.linkUp hjq), hu⟩

theorem State.flood_eq (s : State) : s.flood type but p = (List.range 8).foldl (State.floodPort type but p) s := rfl

end

/-! ### Claims (R489 to R491) -/

theorem State.addReloc_known {c : Nat} {s : State} (h : s.relocated c = true) (o e : Nat) : s.addReloc c o e = (true, { s with
    via := { s.via with relocs := s.via.relocs.map (fun r => if r.claimed = c then { r with holder := o, epoch := e } else r) } }) :=
  if_pos h

theorem State.addReloc_full {c : Nat} {s : State} (h : s.relocated c = false) (hfull : 64 ≤ s.via.relocs.length) (o e : Nat) :
    s.addReloc c o e = (false, s.inc 0x090218 1) := (if_neg (by rw [h]; decide)).trans (if_pos hfull)

theorem State.addReloc_enters {c : Nat} {s : State} (h : s.relocated c = false) (hroom : s.via.relocs.length < 64) (o e : Nat) :
    s.addReloc c o e = (true, { s with
      via := { s.via with relocs := s.via.relocs ++ [{ claimed := c, holder := o, epoch := e }] } }) :=
  (if_neg (by rw [h]; decide)).trans (if_neg (by omega))

/-- With room for it, a claim stands in the table that an entry leaves, which is all that it moves. -/
theorem State.addReloc_takes {c : Nat} {s : State} (h : s.relocated c = true ∨ s.via.relocs.length < 64) (o e : Nat) :
    ∃ rs, s.addReloc c o e = (true, { s with via := { s.via with relocs := rs } }) ∧ { claimed := c, holder := o, epoch := e } ∈ rs := by
  cases hknown : s.relocated c with
  | true =>
    refine ⟨_, State.addReloc_known hknown o e, ?_⟩
    unfold State.relocated at hknown
    obtain ⟨r, hr, hc⟩ := List.any_eq_true.1 hknown
    rw [decide_eq_true_eq] at hc
    refine List.mem_map.2 ⟨r, hr, ?_⟩
    rw [if_pos hc, ← hc]
  | false =>
    refine ⟨_, State.addReloc_enters hknown (h.resolve_left (by rw [hknown]; decide)) o e, ?_⟩
    exact List.mem_append_right _ (List.mem_singleton.2 rfl)

theorem State.releaseClaim_eq (c : Nat) (s : State) : s.releaseClaim c
    = State.flood 0x52 none (s.claimPkt c s.chip ((s.via.takeEpoch + 1) % 2 ^ 32) true) { s with via := { s.via with
        relocs := s.via.relocs.filter (fun r => decide (r.claimed ≠ c)), takeEpoch := (s.via.takeEpoch + 1) % 2 ^ 32
        held := if s.via.held = some c then none else s.via.held
        claimsSeen := ((c, s.chip, (s.via.takeEpoch + 1) % 2 ^ 32, true) :: s.via.claimsSeen).take 256 } } := by
  have hheld : ((s.dropReloc c).nextEpoch.via.held = some c) = (s.via.held = some c) := rfl
  unfold State.releaseClaim
  dsimp only
  simp only [hheld]
  split <;> rfl

/-! ### Takeovers (R489) -/

section
variable {c : Nat} {s : State}

/-- Whether a takeover of `c` may start here. -/
def State.takesFree (c : Nat) (s : State) : Prop :=
  s.forwards = true ∧ s.via.take ≠ .inProgress ∧ s.ownNumber c = false ∧ s.via.held = none

theorem State.startTake_not (h : ¬s.takesFree c) : s.startTake c = s := by
  refine if_pos ?_
  unfold State.takesFree at h
  simp only [Bool.or_eq_true, Bool.not_eq_true', decide_eq_true_eq, Option.isSome_iff_ne_none]
  by_contra hc
  simp only [not_or, Bool.not_eq_false, Bool.not_eq_true, not_not] at hc
  exact h ⟨hc.1.1.1, hc.1.1.2, hc.1.2, hc.2⟩

theorem State.takes_guard (h : s.takesFree c) :
    ¬(!s.forwards || decide (s.via.take = TakeResult.inProgress) || s.ownNumber c || s.via.held.isSome) = true := by
  obtain ⟨hforwards, hidle, hown, hheld⟩ := h
  simp [hforwards, hidle, hown, hheld]

theorem State.relocs_lower : (s.via.relocs.any (fun r => decide (r.claimed = c ∧ r.holder < s.chip))) = true
    ↔ ∃ r ∈ s.via.relocs, r.claimed = c ∧ r.holder < s.chip := by
  simp only [List.any_eq_true, decide_eq_true_eq]

theorem State.startTake_lost (h : s.takesFree c) (hlower : ∃ r ∈ s.via.relocs, r.claimed = c ∧ r.holder < s.chip) :
    s.startTake c = { s with via := { s.via with take := .lost } } :=
  (if_neg (State.takes_guard h)).trans (if_pos (State.relocs_lower.2 hlower))

/-- The state in which a takeover has begun. -/
def State.taking (c : Nat) (s : State) : State :=
  { s with via := { s.via with take := .inProgress, takeTarget := c, takeAt := s.time, takeClaimed := false, probes := [] } }

theorem State.startTake_probes (h : s.takesFree c) (hlower : ¬∃ r ∈ s.via.relocs, r.claimed = c ∧ r.holder < s.chip) :
    s.startTake c = (s.taking c).sendProbes c 3 :=
  (if_neg (State.takes_guard h)).trans (if_neg fun h => hlower (State.relocs_lower.1 h))

end

theorem State.forwards_of_regs {a b : State} (hregs : a.regw 0x090000 = b.regw 0x090000) (hvia : a.via = b.via) :
    a.forwards = b.forwards := by
  unfold State.forwards State.assigned State.regb
  rw [hregs, hvia]

theorem State.writeSpare_forwards (value : Word) (s : State) : (s.writeSpare value).forwards = s.forwards :=
  State.forwards_of_regs (State.setReg_regw_other (by decide) _ _) rfl

/-- The last step of a takeover: 80 ms after its start the number is held. -/
def State.holdTarget (s : State) : Host.Outcome State Fault Refusal :=
  if s.via.take = TakeResult.inProgress ∧ s.via.takeAt + 80000000 ≤ s.time then
    .next { s with via := { s.via with take := .taken, held := some s.via.takeTarget } }
  else .next s

theorem State.holdTarget_not {s : State} (h : s.via.take = .inProgress → s.time < s.via.takeAt + 80000000) : s.holdTarget = .next s :=
  if_neg fun hc => absurd hc.2 (Nat.not_le.2 (h hc.1))

section
variable {t : Nat} {s : State}

theorem exec_takeoverDone_waits (h : s.via.take ≠ .inProgress ∨ max s.time t < s.via.takeAt + 30000000) :
    exec (.takeoverDone t) s = .next (s.at t) := if_pos h

/-- R489: the end of a takeover's waits. -/
theorem exec_takeoverDone (hgo : s.via.take = .inProgress) (hwait : s.via.takeAt + 30000000 ≤ max s.time t) :
    exec (.takeoverDone t) s = (if s.via.takeClaimed then s.at t else (s.at t).claimTarget).holdTarget :=
  if_neg fun h => h.elim (fun h => h hgo) (fun h => absurd h (Nat.not_lt.2 hwait))

end

section
variable {s : State}

theorem State.claimTarget_full (h : s.relocated s.via.takeTarget = false) (hfull : 64 ≤ s.via.relocs.length) :
    s.claimTarget = { s.nextEpoch.inc 0x090218 1 with via := { s.nextEpoch.via with take := .tableFull, probes := [] } } := by
  have hadd := State.addReloc_full (s := s.nextEpoch) h hfull s.chip ((s.via.takeEpoch + 1) % 2 ^ 32)
  obtain ⟨n, hn⟩ := State.inc_counters 0x090218 1 s.nextEpoch
  unfold State.claimTarget
  dsimp only
  rw [show s.nextEpoch.addReloc s.nextEpoch.via.takeTarget s.nextEpoch.chip s.nextEpoch.via.takeEpoch
    = (false, s.nextEpoch.inc 0x090218 1) from hadd]
  dsimp only
  rw [hn]

/-- With room in the table the claim is entered, noted and flooded. -/
theorem State.claimTarget_floods (h : s.relocated s.via.takeTarget = true ∨ s.via.relocs.length < 64) :
    let e := (s.via.takeEpoch + 1) % 2 ^ 32
    ∃ rs, { claimed := s.via.takeTarget, holder := s.chip, epoch := e } ∈ rs ∧ s.claimTarget
      = State.flood 0x52 none (s.claimPkt s.via.takeTarget s.chip e false) { s with via := { s.via with
          takeEpoch := e, takeClaimed := true, probes := [], relocs := rs
          claimsSeen := ((s.via.takeTarget, s.chip, e, false) :: s.via.claimsSeen).take 256 } } := by
  intro e
  obtain ⟨rs, hadd, hmem⟩ := State.addReloc_takes (s := s.nextEpoch) h s.chip e
  refine ⟨rs, hmem, ?_⟩
  unfold State.claimTarget
  dsimp only
  rw [show s.nextEpoch.addReloc s.nextEpoch.via.takeTarget s.nextEpoch.chip s.nextEpoch.via.takeEpoch
    = (true, { s.nextEpoch with via := { s.nextEpoch.via with relocs := rs } }) from hadd]
  rfl

end

theorem State.flood_frame (type : BitVec 8) (but : Option Nat) (p : Pkt) (s : State) : ∃ c o v,
    s.flood type but p = { s with counters := c, out := o, via := { s.via with ports := v } } := by
  obtain ⟨c, v, o, h⟩ := SendsOnly.flood type but p s
  exact ⟨c, o, v, h⟩

/-! ### CLAIM (R489 to R491) -/

section
variable {t : Nat} {p : Pkt} {s : State}

theorem exec_claim (hup : (s.cefin p.port.val).up = true) (hseq : p.lseq.toNat = (s.cefin p.port.val).rxSeq) :
    exec (.claim t p) s = .next (if (s.lockPort p.port.val || !s.forwards) = true then s.arrived t p
      else (s.arrived t p).takeClaim p) := by
  have hexec : exec (.claim t p) s = .next _ := congrArg Host.Outcome.next (State.received_inSequence t p _ s hup hseq)
  obtain ⟨c, v, o, h⟩ := State.arrived_eq t p s
  rw [hexec, h]
  rfl

/-- What goes on of a CLAIM. -/
def State.claimOn (p : Pkt) (s : State) : State :=
  if p.ttl = 0 then s else s.flood 0x52 (some p.port.val) { p with ttl := p.ttl - 1 }

/-- Whether a number is the module's to hold or to take. -/
def State.claims (c : Nat) (s : State) : Prop :=
  s.via.held = some c ∨ (s.via.take = .inProgress ∧ s.via.takeTarget = c)

/-- Whether a claim of `c` by `h` is beaten. -/
def State.beats (c h : Nat) (s : State) : Prop :=
  (∃ r ∈ s.via.relocs, r.claimed = c ∧ r.holder < h) ∨ (s.claims c ∧ s.chip < h)

theorem State.takeClaim_seen (hseen : (bitsAt p.arg.toNat 0 14, bitsAt p.arg.toNat 14 14, bitsAt p.arg.toNat 32 32,
    p.arg.getLsbD 28) ∈ s.via.claimsSeen) : s.takeClaim p = s :=
  if_pos (List.contains_iff_mem.2 hseen)

section
variable (hnew : (bitsAt p.arg.toNat 0 14, bitsAt p.arg.toNat 14 14, bitsAt p.arg.toNat 32 32, p.arg.getLsbD 28) ∉ s.via.claimsSeen)
include hnew

theorem State.takeClaim_release (h : p.arg.getLsbD 28 = true) : s.takeClaim p = State.claimOn p (State.dropReloc (bitsAt p.arg.toNat 0 14)
    (s.noteClaim (bitsAt p.arg.toNat 0 14) (bitsAt p.arg.toNat 14 14) (bitsAt p.arg.toNat 32 32) (p.arg.getLsbD 28))) :=
  (if_neg fun hc => hnew (List.contains_iff_mem.1 hc)).trans (if_pos h)

/-- A claim is beaten, entered, or entered as the module withdraws its own. -/
theorem State.takeClaim_claim (h : p.arg.getLsbD 28 = false) :
    let c := bitsAt p.arg.toNat 0 14
    let o := bitsAt p.arg.toNat 14 14
    let e := bitsAt p.arg.toNat 32 32
    let w := s.noteClaim c o e (p.arg.getLsbD 28)
    (s.beats c o → s.takeClaim p = w)
      ∧ (¬s.beats c o → s.claims c → o < s.chip → s.takeClaim p = State.claimOn p (State.addReloc c o e { w with
          via := { w.via with take := .lost, takeClaimed := false, probes := [], held := none } }).2)
      ∧ (¬s.beats c o → ¬s.claims c ∨ s.chip ≤ o → s.takeClaim p = State.claimOn p (w.addReloc c o e).2) := by
  intro c o e w
  let mine : Bool := decide (s.via.held = some c) || (decide (s.via.take = TakeResult.inProgress) && decide (s.via.takeTarget = c))
  let beaten : Bool := (s.via.relocs.any (fun r => decide (r.claimed = c ∧ r.holder < o))) || (mine && decide (s.chip < o))
  have hmine : mine = true ↔ s.claims c := by simp [mine, State.claims]
  have hbeaten : beaten = true ↔ s.beats c o := by
    show (_ || _) = true ↔ _
    rw [Bool.or_eq_true, Bool.and_eq_true, hmine]
    simp [State.beats]
  have heq : s.takeClaim p = if beaten = true then w
      else State.claimOn p (State.addReloc c o e (if (mine && decide (o < s.chip)) = true then { w with
        via := { w.via with take := .lost, takeClaimed := false, probes := [], held := none } } else w)).2 :=
    (if_neg fun hc => hnew (List.contains_iff_mem.1 hc)).trans (if_neg (show ¬p.arg.getLsbD 28 = true by rw [h]; decide))
  rw [heq]
  refine ⟨fun hb => if_pos (hbeaten.2 hb), fun hb hm ho => ?_, fun hb hm => ?_⟩
  · rw [if_neg fun h => hb (hbeaten.1 h), if_pos (by rw [Bool.and_eq_true]; exact ⟨hmine.2 hm, decide_eq_true ho⟩)]
  · rw [if_neg fun h => hb (hbeaten.1 h), if_neg]
    intro hc
    rw [Bool.and_eq_true, hmine, decide_eq_true_eq] at hc
    exact hm.elim (fun h => h hc.1) (fun h => absurd hc.2 (by omega))

end

end

/-! ### The statement -/

/-- Settles O58: a flood port by port, a takeover by what its state and its time allow, a CLAIM by whom it beats. The times of a
takeover's PROBEs and what a full table does are the model's choices of log entry 57. -/
theorem takeoverRunsItsSteps : Obligations.TakeoverRunsItsSteps := by
  unfold Obligations.TakeoverRunsItsSteps
  refine ⟨fun type but p z => ⟨?_, fun q hq => ⟨fun hup hbut => ?_, fun h => ?_⟩⟩,
    fun c h e z => ⟨fun hknown => State.addReloc_known hknown h e, fun hnew hfull => State.addReloc_full hnew hfull h e,
      fun hnew hroom => State.addReloc_enters hnew hroom h e⟩,
    fun c z => State.releaseClaim_eq c z,
    fun c z => ⟨State.startTake_not, State.startTake_lost, fun hfree hlower => ?_⟩,
    fun t who value s y hreached => ?_, fun t s => ⟨fun hauto => if_pos hauto, fun hauto => if_neg ?_, fun h => ?_, fun hgo hwait => ?_⟩,
    fun t p s hup hseq => ?_⟩
  · obtain ⟨c, o, v, h⟩ := State.flood_frame type but p z
    rw [h]
  · obtain ⟨w, hw, hlink, hu⟩ := (State.flood_ports type but p (List.range 8) List.nodup_range z q).2 (List.mem_range.2 hq)
    have hport : w.floodPort type but p q = w.sendOn q (w.halfOn q p.src.toNat) type p := if_pos ⟨hlink.trans hup, hbut⟩
    have hwup : (w.cefin q).up = true := by
      have hlinked := hlink.trans hup
      unfold State.linkUp at hlinked
      rw [Bool.and_eq_true] at hlinked
      exact hlinked.1
    rw [State.flood_eq, hu, hport]
    exact State.sendOn_held _ type p hwup
  · obtain ⟨w, hw, hlink, hu⟩ := (State.flood_ports type but p (List.range 8) List.nodup_range z q).2 (List.mem_range.2 hq)
    have hport : w.floodPort type but p q = w := by
      refine if_neg fun hc => h.elim (fun hdown => ?_) hc.2
      rw [hlink, hdown] at hc
      exact Bool.noConfusion hc.1
    rw [State.flood_eq, hu, hport, hw]
  · obtain ⟨n, o, v, hprobes⟩ := State.sendProbes_frame c (z.taking c)
    rw [State.startTake_probes hfree hlower, hprobes]
    exact ⟨rfl, rfl⟩
  · intro c z
    have htake : exec (.spareTake t who value) s = .next (z.startTake c) := congrArg Host.Outcome.next (hreached.asMgmt _)
    have hrelease : exec (.spareRelease t who value) s = .next (y.spareRelease value) :=
      congrArg Host.Outcome.next (hreached.asMgmt _)
    obtain ⟨n, hy⟩ := hreached.frame
    have hforwards : (y.writeSpare value).forwards = s.forwards := by
      rw [State.writeSpare_forwards, hy]
      rfl
    have hvia : y.via = s.via := by rw [hy]; rfl
    have hspare : y.spareRelease value = if (!s.forwards) = true then z
        else State.releaseClaim c (if s.via.held = some c ∨ s.via.takeTarget = c then
          { z with via := { s.via with take := .idle, takeClaimed := false, probes := [] } } else z) := by
      rw [← hforwards, ← hvia]
      rfl
    rw [htake, hrelease, hspare]
    refine ⟨rfl, fun h => by rw [h]; rfl, fun h => ⟨fun hmine => ?_, fun hheld htarget => ?_⟩⟩
    · rw [h, if_neg (by decide), if_pos hmine]
    · rw [h, if_neg (by decide), if_neg (by tauto)]
  · show ¬s.regb 0x090054 29 = true
    rw [hauto]
    decide
  · exact exec_takeoverDone_waits h
  · intro e c held z
    rw [exec_takeoverDone hgo hwait]
    refine ⟨fun hclaimed hearly => ?_, fun hclaimed hdue => ?_, fun hclaimed hnew hfull => ?_, fun hclaimed hroom hearly => ?_⟩
    · rw [hclaimed]
      exact State.holdTarget_not (s := s.at t) fun _ => hearly
    · rw [hclaimed]
      exact if_pos ⟨hgo, hdue⟩
    · obtain ⟨n, hn⟩ := State.inc_counters 0x090218 1 z
      rw [hclaimed, if_neg Bool.false_ne_true, State.claimTarget_full (s := s.at t) hnew hfull,
        show (s.at t).nextEpoch.inc 0x090218 1 = { z with counters := n } from hn, hn]
      exact State.holdTarget_not fun h => TakeResult.noConfusion h
    · obtain ⟨rs, hmem, htarget⟩ := State.claimTarget_floods (s := s.at t) hroom
      let w : State := { z with via := { z.via with
        takeClaimed := true, probes := [], relocs := rs, claimsSeen := ((c, s.chip, e, false) :: s.via.claimsSeen).take 256 } }
      obtain ⟨n, o, v, hflood⟩ := State.flood_frame 0x52 none (s.claimPkt c s.chip e false) w
      refine ⟨w, rfl, hmem, ?_⟩
      rw [hclaimed, if_neg Bool.false_ne_true, htarget]
      refine State.holdTarget_not (s := State.flood 0x52 none (s.claimPkt c s.chip e false) w) fun _ => ?_
      rw [hflood]
      exact hearly
  · intro y c h release e w on mine beaten
    have hexec := exec_claim (t := t) hup hseq
    obtain ⟨n, v, o, hy⟩ := State.arrived_eq t p s
    have hseen : y.via.claimsSeen = s.via.claimsSeen := by rw [show y = _ from hy]
    have hmine : y.claims c ↔ mine := by rw [show y = _ from hy]; exact Iff.rfl
    have hbeaten : y.beats c h ↔ beaten := by rw [show y = _ from hy]; exact Iff.rfl
    have hchip : y.chip = s.chip := by rw [show y = _ from hy]; rfl
    have hw : y.noteClaim c h e release = w := by
      unfold State.noteClaim
      rw [hseen]
    rw [hexec]
    refine ⟨fun hnot => ?_, fun hlock hforwards hnew => ?_⟩
    · by_cases hin : (s.lockPort p.port.val || !s.forwards) = true
      · rw [if_pos hin]
      · rw [if_neg hin]
        refine congrArg Host.Outcome.next (State.takeClaim_seen (s := y) ?_)
        rw [hseen]
        simp only [Bool.or_eq_true, Bool.not_eq_true', not_or] at hin
        tauto
    · rw [hlock, hforwards, if_neg (by decide)]
      have hnew' : (c, h, e, release) ∉ y.via.claimsSeen := by rw [hseen]; exact hnew
      have hon (z : State) : State.claimOn p z = on z := rfl
      refine ⟨fun hrelease => ?_, fun hclaim hb => ?_, fun hclaim hb hm hlow => ?_, fun hclaim hb hm => ?_⟩
      · have hdrop : State.dropReloc c w = { w with via := { w.via with
            relocs := s.via.relocs.filter (fun r => decide (r.claimed ≠ c)) } } := by
          have hrelocs : y.via.relocs = s.via.relocs := by rw [show y = _ from hy]
          unfold State.dropReloc
          rw [show w.via.relocs = s.via.relocs from hrelocs]
        rw [State.takeClaim_release (s := y) hnew' hrelease, hw, hdrop, hon]
      · rw [(State.takeClaim_claim (s := y) hnew' hclaim).1 (hbeaten.2 hb), hw]
      · rw [(State.takeClaim_claim (s := y) hnew' hclaim).2.1 (mt hbeaten.1 hb) (hmine.2 hm) (by rwa [hchip]), hw, hon]
      · rw [(State.takeClaim_claim (s := y) hnew' hclaim).2.2 (mt hbeaten.1 hb)
          (hm.imp (mt hmine.1) fun ho => by rwa [hchip]), hw, hon]

end Sys2Proof.Machine
end

section
/-! PROOFS. The swing span, TICK_SYNC and the reference, and the enable of a lock-step pair (spec/14_viaduct.md, R482 to R488;
spec/16_lockstep.md, R532, R541). -/

namespace Sys2Proof.Machine
open Sys2Proof

/-! ### The swing span (R482, R485) -/

section
variable {t : Nat} {s : State}

/-- Whether the switches have to close. -/
def State.mustClose (s : State) : Bool := !s.boot.mainGood || decide (s.boot.state ≠ BootState.ready) || s.regb 0x090040 29

theorem State.mustClose_iff (s : State) :
    s.mustClose = true ↔ s.boot.mainGood = false ∨ s.boot.state ≠ .ready ∨ s.regb 0x090040 29 = true := by
  unfold State.mustClose
  simp [or_assoc]

theorem exec_swingClose : exec (.swingClose t) s = if s.mustClose then .next (s.at t).closeSwing else .next (s.at t) := rfl

theorem State.swingMayOpen_iff (s : State) : s.swingMayOpen = true ↔ s.boot.mainGood = true ∧ s.boot.state = .ready
    ∧ s.regb 0x090010 31 = true ∧ s.regb 0x090014 31 = true ∧ s.regb 0x090040 30 = true ∧ s.regb 0x090040 29 = false := by
  unfold State.swingMayOpen
  simp [and_assoc]

theorem exec_swingOpen : exec (.swingOpen t) s = if !s.via.closed || !s.swingMayOpen then .next (s.at t)
    else .next ((State.startTraining 0 { s.at t with via := { s.via with closed := false, checked := false, probes := [] } }).startTraining
      1) := rfl

/-- A fall of one port leaves it down, or in training, holding nothing. -/
theorem State.portDown_port {p : Nat} {s : State} (hho : ∀ e ∈ s.requests, e.2.ho = none) : PortStep p s (s.portDown p)
    ∧ (s.portDown p).out = s.out ∧ ((s.portDown p).cefin p).up = false
    ∧ ((s.cefin p).state ≠ .down → ((s.portDown p).cefin p).held = []) := by
  by_cases h : (s.cefin p).state = .down
  · rw [State.portDown_down h]
    refine ⟨.refl p s, rfl, ?_, fun hne => absurd h hne⟩
    unfold CefinPort.up
    rw [h]
    rfl
  · obtain ⟨hstep, hport, hout, -⟩ := State.portDown_falls h hho
    rw [hport]
    refine ⟨hstep, hout, ?_, fun _ => ?_⟩ <;> unfold CefinPort.fallen <;> split <;> rfl

/-- The fall of both ring ports. -/
theorem State.ringDown {z : State} (hho : ∀ e ∈ z.requests, e.2.ho = none) : ∃ c v,
    (z.portDown 0).portDown 1 = { z with counters := c, via := { z.via with ports := v } }
      ∧ (∀ k, k < 2 → (((z.portDown 0).portDown 1).cefin k).up = false
          ∧ ((z.cefin k).state ≠ .down → (((z.portDown 0).portDown 1).cefin k).held = []))
      ∧ ∀ k, 2 ≤ k → ((z.portDown 0).portDown 1).cefin k = z.cefin k := by
  obtain ⟨hstep, hout, hdown, hheld⟩ := State.portDown_port (p := 0) hho
  generalize z.portDown 0 = y at hstep hout hdown hheld ⊢
  obtain ⟨hstep', hout', hdown', hheld'⟩ := State.portDown_port (p := 1) (s := y) (by rw [hstep.requests]; exact hho)
  generalize y.portDown 1 = w at hstep' hout' hdown' hheld' ⊢
  have hzero : w.cefin 0 = y.cefin 0 := hstep'.other 0 (by decide)
  have hframe := hstep'.frame
  rw [hstep.other 1 (by decide)] at hheld'
  rw [hout', hout, hstep.frame] at hframe
  refine ⟨_, _, hframe, fun k hk => ?_, fun k hk => (hstep'.other k (by omega)).trans (hstep.other k (by omega))⟩
  obtain rfl | rfl : k = 0 ∨ k = 1 := by omega
  · rw [hzero]
    exact ⟨hdown, hheld⟩
  · exact ⟨hdown', hheld'⟩

/-- Both ring ports begin to train. -/
theorem State.ringTrains {z : State} (hzero : z.mayTrain 0 = true) (hone : z.mayTrain 1 = true) : ∃ v,
    (z.startTraining 0).startTraining 1 = { z with via := { z.via with ports := v } }
      ∧ ((z.startTraining 0).startTraining 1).cefin 0 = (z.cefin 0).training
      ∧ ((z.startTraining 0).startTraining 1).cefin 1 = (z.cefin 1).training
      ∧ ∀ k, 2 ≤ k → ((z.startTraining 0).startTraining 1).cefin k = z.cefin k := by
  have hone' : (z.modCefin 0 CefinPort.training).mayTrain 1 = true := hone
  rw [State.startTraining_may hzero, State.startTraining_may hone']
  refine ⟨_, rfl, ?_, ?_, fun k hk => ?_⟩
  · exact (State.modCefin_cefin_other (by decide) ..).trans (State.modCefin_cefin_same ..)
  · rw [State.modCefin_cefin_same, State.modCefin_cefin_other (by decide)]
  · exact (State.modCefin_cefin_other (by omega) ..).trans (State.modCefin_cefin_other (by omega) ..)

end

/-! ### TICK_SYNC (R486 to R488) -/

theorem State.loadTime_idle {s : State} (h : s.regb 0x090044 29 = false) : s.loadTime = s := if_pos (by rw [h]; rfl)

/-- With TIME_ARM 1 the time base is that of VIA_TIME, and TIME_ARM is 0. -/
theorem State.loadTime_loads {s : State} (h : s.regb 0x090044 29 = true) :
    s.loadTime = { s with tbOff := s.loadTime.tbOff, regs := s.loadTime.regs }
      ∧ s.loadTime.timebase = s.reg 0x090048 + 2 ^ 32 * s.reg 0x09004C ∧ s.loadTime.regb 0x090044 29 = false
      ∧ (∀ i, i ≠ 29 → s.loadTime.regb 0x090044 i = s.regb 0x090044 i) ∧ ∀ o, o ≠ 0x090044 → s.loadTime.regw o = s.regw o := by
  have hload : s.loadTime = State.setRegBit 0x090044 29 false
      { s with tbOff := ((s.reg 0x090048 + 2 ^ 32 * s.reg 0x09004C : Nat) : Int) - (s.time : Int) } := if_neg (by rw [h]; decide)
  have hlow : s.reg 0x090048 < 2 ^ 32 := (s.regw 0x090048).isLt
  have hhigh : s.reg 0x09004C < 2 ^ 32 := (s.regw 0x09004C).isLt
  rw [hload]
  refine ⟨rfl, ?_, State.setRegBit_regb_same _ (by decide) _ _, fun i hi => State.setRegBit_regb_other _ hi _ _,
    fun o ho => State.setReg_regw_other ho _ _⟩
  show (((s.time : Int) + (((s.reg 0x090048 + 2 ^ 32 * s.reg 0x09004C : Nat) : Int) - (s.time : Int))) % 2 ^ 64).toNat = _
  rw [add_sub_cancel]
  omega

/-- What loading the time base is, as the statement says it of the state before and after. -/
def Loaded (arm : Bool) (v : Nat) (z u : State) : Prop :=
  (arm = false → u = z)
    ∧ (arm = true → u = { z with tbOff := u.tbOff, regs := u.regs } ∧ u.timebase = v ∧ u.regb 0x090044 29 = false
      ∧ (∀ i, i ≠ 29 → u.regb 0x090044 i = z.regb 0x090044 i) ∧ ∀ o, o ≠ 0x090044 → u.regw o = z.regw o)

theorem State.loadTime_loaded (s : State) :
    Loaded (s.regb 0x090044 29) (s.reg 0x090048 + 2 ^ 32 * s.reg 0x09004C) s s.loadTime :=
  ⟨State.loadTime_idle, State.loadTime_loads⟩

/-- Whether a pulse lies away from the predicted edge. -/
def slipped (last : Option Nat) (now : Nat) : Bool := match last with
  | none => false
  | some e => decide (e + 1000040 ≤ now ∨ now + 40 ≤ e + 1000000)

section
variable {t : Nat} {s : State}

theorem exec_tickSyncPulse : exec (.tickSyncPulse t) s = .next (State.loadTime (
    let z := if slipped s.via.lastPulse (max s.time t) then (s.at t).inc 0x090220 1 else s.at t
    { z with via := { z.via with lastPulse := some z.time } })) := rfl

theorem exec_tickSyncMiss_none (h : s.via.lastPulse = none) : exec (.tickSyncMiss t) s = .next (s.at t) := by
  show (match s.via.lastPulse with
    | none => Host.Outcome.next (s.at t)
    | some e => if max s.time t < e + 1000080 then .next (s.at t)
      else .next (State.loadTime { (s.at t).inc 0x09021C 1 with
        via := { ((s.at t).inc 0x09021C 1).via with lastPulse := some (e + 1000000) } })) = _
  rw [h]

theorem exec_tickSyncMiss {e : Nat} (h : s.via.lastPulse = some e) : exec (.tickSyncMiss t) s
    = if max s.time t < e + 1000080 then .next (s.at t)
      else .next (State.loadTime { (s.at t).inc 0x09021C 1 with
        via := { ((s.at t).inc 0x09021C 1).via with lastPulse := some (e + 1000000) } }) := by
  show (match s.via.lastPulse with
    | none => Host.Outcome.next (s.at t)
    | some e => if max s.time t < e + 1000080 then .next (s.at t)
      else .next (State.loadTime { (s.at t).inc 0x09021C 1 with
        via := { ((s.at t).inc 0x09021C 1).via with lastPulse := some (e + 1000000) } })) = _
  rw [h]

end

/-! ### VIA_LOCK (R532, R541) -/

/-- Whether EN and PORT may change: the job list is empty, and PORT is a T port when EN is written 1. -/
def State.lockFree (value : Word) (s : State) : Bool :=
  s.jobs.isEmpty && (!value.getLsbD 31 || decide (2 ≤ bitsAt value.toNat 28 3))

theorem State.lockFree_iff (value : Word) (s : State) :
    s.lockFree value = true ↔ s.jobs = [] ∧ (value.getLsbD 31 = false ∨ 2 ≤ bitsAt value.toNat 28 3) := by
  unfold State.lockFree
  simp

section
variable {value : Word} {s : State}

theorem State.writeLock_kept (h : s.lockFree value = false) : s.writeLock value
    = s.setReg 0x090050 ((s.regw 0x090050 &&& 0xF0000000#32) ||| (value &&& 0xFFFF#32)) :=
  if_pos (by
    show (!s.lockFree value) = true
    rw [h]
    rfl)

theorem State.writeLock_changes (h : s.lockFree value = true) : s.writeLock value
    = if value.getLsbD 31 = s.regb 0x090050 31 then s.setReg 0x090050 (value &&& 0xF000FFFF#32)
      else { s.setReg 0x090050 (value &&& 0xF000FFFF#32) with via := { s.via with lock := LockState.off } } :=
  if_neg (by
    show ¬(!s.lockFree value) = true
    rw [h]
    decide)

end

/-! ### The statement -/

/-- Settles O59: the switches by their conditions and the falls of two ports, an edge of TICK_SYNC by whether it slipped and by
TIME_ARM, a write of VIA_LOCK by the job list. That the time base loads at a predicted edge, the slip tolerance of 40 ns and what a
change of EN clears are the model's choices of log entries 55, 57 and 58. -/
theorem swingClockAndLockControls : Obligations.SwingClockAndLockControls := by
  unfold Obligations.SwingClockAndLockControls
  refine ⟨fun t s => ?_, fun t s => ?_, fun t who value s y hreached => ?_⟩
  · intro closes opens trained
    have hcloses : s.mustClose = true ↔ closes := State.mustClose_iff s
    have hopens : s.swingMayOpen = true ↔ opens := State.swingMayOpen_iff s
    rw [exec_swingClose, exec_swingOpen]
    refine ⟨fun h => ?_, fun h hopen hho => ?_, fun h => ?_, fun h hclosed => ?_⟩
    · split
      · next hmust => exact congrArg Host.Outcome.next (if_pos (h.resolve_left (fun hn => hn (hcloses.1 hmust))))
      · rfl
    · have hswing : (s.at t).closeSwing = (State.portDown 0 { s.at t with via := { s.via with closed := true } }).portDown 1 :=
        if_neg (by
          show ¬s.via.closed = true
          rw [hopen]
          decide)
      obtain ⟨c, v, hu, hring, hrest⟩ := State.ringDown (z := { s.at t with via := { s.via with closed := true } }) hho
      refine ⟨_, (if_pos (hcloses.2 h)).trans (congrArg Host.Outcome.next hswing), ?_, hring, hrest⟩
      rw [hu]
    · refine if_pos ?_
      rw [Bool.or_eq_true, Bool.not_eq_true', Bool.not_eq_true']
      exact h.symm.imp id fun hn => by rw [← Bool.not_eq_true, hopens]; exact hn
    · have hmay := hopens.2 h
      obtain ⟨hmain, -, hE, hW, -, -⟩ := h
      obtain ⟨v, hu, hzero, hone, hrest⟩ := State.ringTrains
        (z := { s.at t with via := { s.via with closed := false, checked := false, probes := [] } })
        ((State.mayTrain_iff _ 0).2 ⟨hE, hmain⟩) ((State.mayTrain_iff _ 1).2 ⟨hW, hmain⟩)
      rw [hclosed, hmay]
      refine ⟨_, if_neg (by decide), ?_, hzero, hone, hrest⟩
      rw [hu]
  · intro now arm base
    have hbase (z : State) (hregs : z.regs = s.regs) : base z z.loadTime := by
      obtain ⟨hidle, hloads⟩ := State.loadTime_loaded z
      have hregw (o : Nat) : z.regw o = s.regw o := State.regw_of_regs hregs o
      have hregb (o i : Nat) : z.regb o i = s.regb o i := State.regb_of_regs hregs o i
      have hreg (o : Nat) : z.reg o = s.reg o := State.reg_of_regs hregs o
      simp only [hregw, hregb, hreg] at hidle hloads
      exact ⟨hidle, hloads⟩
    have hcount (o : Nat) : ((s.at t).inc o 1).regs = s.regs := State.inc_regs ..
    have hvia (o : Nat) : ((s.at t).inc o 1).via = s.via := State.inc_via ..
    have htime (o : Nat) : ((s.at t).inc o 1).time = now := State.inc_time ..
    refine ⟨⟨_, exec_tickSyncPulse, fun h => ?_, fun e he hslip => ?_⟩, exec_tickSyncMiss_none, fun e he => ?_, rfl, rfl⟩
    · have hno : slipped s.via.lastPulse now = false := by
        obtain h | ⟨e, he, hlate, hearly⟩ := h
        · rw [h]
          rfl
        · rw [he]
          exact decide_eq_false (by omega)
      rw [show slipped s.via.lastPulse (max s.time t) = false from hno]
      exact hbase { s.at t with via := { s.via with lastPulse := some now } } rfl
    · have hyes : slipped s.via.lastPulse (max s.time t) = true := by
        rw [he]
        exact decide_eq_true hslip
      rw [hyes]
      dsimp only
      rw [if_pos rfl, hvia, htime]
      exact hbase { (s.at t).inc 0x090220 1 with via := { s.via with lastPulse := some now } } (hcount 0x090220)
    · rw [exec_tickSyncMiss he]
      refine ⟨fun h => if_pos h, fun h => ⟨_, if_neg (Nat.not_lt.2 h), ?_⟩⟩
      rw [hvia]
      exact hbase { (s.at t).inc 0x09021C 1 with via := { s.via with lastPulse := some (e + 1000000) } } (hcount 0x09021C)
  · intro on free
    have hexec : exec (.lockEnable t who value) s = .next (y.writeLock value) := congrArg Host.Outcome.next (hreached.asMgmt _)
    obtain ⟨c, hy⟩ := hreached.frame
    have hfree : y.lockFree value = true ↔ free := by rw [hy]; exact State.lockFree_iff value s
    have hword : y.regw 0x090050 = s.regw 0x090050 := by rw [hy]; rfl
    have hvia : y.via = s.via := by rw [hy]; rfl
    have hbit : y.regb 0x090050 31 = s.regb 0x090050 31 := by rw [hy]; rfl
    rw [hexec]
    refine ⟨fun h => ?_, fun h hsame => ?_, fun h hnew => ?_⟩
    · rw [State.writeLock_kept (by rw [← Bool.not_eq_true, hfree]; exact h), hword]
    · rw [State.writeLock_changes (hfree.2 h), hbit, if_pos hsame]
    · rw [State.writeLock_changes (hfree.2 h), hbit, if_neg hnew, hvia]

end Sys2Proof.Machine
end

section
/-! PROOFS. Lock-step digests, the walk, and extents asked for by another module (spec/16_lockstep.md, R535 to R541;
spec/14_viaduct.md, R446, R480, R481). -/

namespace Sys2Proof.Machine
open Sys2Proof

/-! ### The freeze (R538, R539) -/

theorem State.settled_none {s : State} (h : s.dueCycle s.cycNow = none) : s.settled = s := by
  have hfrom (n : Nat) : s.settleFrom n s.cycNow = s := by
    cases n with
    | zero => rfl
    | succ n =>
      unfold State.settleFrom
      rw [h, ite_self]
  exact hfrom _

/-- A break moves nothing but the tick, its spans, its trestle records, what windows count in it, and counters. -/
theorem State.breakHere_frame (c : BreakCause) (s : State) : ∃ cs k o ps x,
    s.breakHere c = { s with counters := cs, tick := k, obs := o, spans := ps, trs := x } := by
  obtain ⟨cs, hc⟩ := State.inc_counters 0x060104 1 s
  unfold State.breakHere
  rw [hc]
  split
  · exact ⟨_, _, _, _, _, rfl⟩
  · split
    · exact ⟨_, _, _, _, _, rfl⟩
    · exact ⟨_, _, _, _, _, rfl⟩

section
variable (n : Nat) {s : State}

/-- The state in which a freeze breaks the tick, and the record of the pair that it makes. -/
theorem State.freeze_eq (s : State) : let z := (s.fault 0xB 0 0xFF).breakTick .lockstep
    s.freeze n = { z with
      gov := { z.gov with nextCut := none }
      via := { z.via with lock := { z.via.lock with
        frozen := true, walkDone := false, div0 := BitVec.ofNat 32 (fieldAt 29 3 n), div1 := BitVec.ofNat 32 z.tickNumber
        level := n, phase := n, desc := 0, span := 0 } } } := rfl

theorem State.breakTick_due (h : s.dueCycle s.cycNow = none) : (s.fault 0xB 0 0xFF).breakTick .lockstep
    = (s.fault 0xB 0 0xFF).breakHere .lockstep := by
  obtain ⟨f, c, hf⟩ := State.fault_frame 0xB 0 0xFF s
  have hdue : (s.fault 0xB 0 0xFF).dueCycle (s.fault 0xB 0 0xFF).cycNow = none := by
    rw [hf]
    exact h
  unfold State.breakTick
  rw [State.settled_none hdue]

end

/-! ### DIGEST (R481, R535 to R540) -/

section
variable {t : Nat} {p : Pkt} {s : State}

theorem exec_digest (hup : (s.cefin p.port.val).up = true) (hseq : p.lseq.toNat = (s.cefin p.port.val).rxSeq) :
    exec (.digest t p) s = .next (if s.lockPort p.port.val = true then (s.arrived t p).digestPacket p else s.arrived t p) := by
  have hexec : exec (.digest t p) s = .next _ := congrArg Host.Outcome.next (State.received_inSequence t p _ s hup hseq)
  obtain ⟨hlock, -⟩ := State.arrived_way t p s
  rw [hexec, hlock]

theorem State.lockPort_pair {j : Nat} (h : s.lockPort j = true) : s.pair = true := by
  unfold State.lockPort at h
  rw [Bool.and_eq_true] at h
  exact h.1

section
variable {d : BitVec 384} {tick scope : Nat} (hpair : s.pair = true)
include hpair

theorem State.takeDigest_ready (h : scope.testBit 0 = true) :
    s.takeDigest d tick scope = (s.modLock (fun k => { k with paired := true, header := some d })).compareHeaders := by
  unfold State.takeDigest
  rw [hpair, if_neg (by decide), if_pos h]

theorem State.takeDigest_tick (h : scope.testBit 0 = false) (hlevel : bitsAt scope 30 2 = 0) : s.takeDigest d tick scope
    = (s.modLock (fun k => { k with
        digests := ((tick, d) :: k.digests.filter (fun e => decide (e.1 ≠ tick))).take 2 })).compareDigests := by
  unfold State.takeDigest
  rw [hpair, h, if_neg (by decide), if_neg (by decide), if_pos hlevel]

theorem State.takeDigest_walk (h : scope.testBit 0 = false) (hlevel : bitsAt scope 30 2 ≠ 0) : s.takeDigest d tick scope
    = if s.via.lock.frozen && decide (bitsAt scope 30 2 = s.via.lock.level) then s.walkNext d else s := by
  unfold State.takeDigest
  rw [hpair, h, if_neg (by decide), if_neg (by decide), if_neg hlevel]

/-- R535: the headers of a pair that is not frozen are compared once the job's plan stands. -/
theorem State.compareHeaders_eq (h : s.via.lock.header = some d) : s.compareHeaders
    = if s.via.lock.frozen = true ∨ s.bitstream? = none ∨ d = s.headerDigest then s else s.freeze 0 := by
  unfold State.compareHeaders
  rw [h, hpair]
  refine if_congr ?_ rfl rfl
  simp [or_assoc]

theorem State.compareDigests_waits (h : s.via.lock.frozen = true ∨ s.digestStands = false) : s.compareDigests = s := by
  refine if_pos ?_
  rw [hpair]
  simpa using h

/-- R538: the digests of the current tick are compared once both stand. -/
theorem State.compareDigests_compares (hfrozen : s.via.lock.frozen = false) (hstands : s.digestStands = true)
    (hdigest : s.partnerDigest? = some d) :
    s.compareDigests = if d = s.tickDigest then s else (s.freeze 1).sendWalk := by
  unfold State.compareDigests
  rw [hpair, hfrozen, hstands, hdigest]
  rfl

end

/-! ### The walk (R540) -/

section
variable {d : BitVec 384}

theorem State.walkNext_phase (h : s.via.lock.level = 1) : s.walkNext d
    = if d ≠ s.walkItem.1 then (s.modLock (fun k => { k with level := 2, desc := 0 })).sendWalk
      else if s.via.lock.phase < 4 then (s.modLock (fun k => { k with phase := k.phase + 1 })).sendWalk else s.endWalk := by
  unfold State.walkNext
  dsimp only
  rw [if_pos h]
  simp only [Bool.not_eq_true', decide_eq_false_iff_not, ne_eq]

theorem State.walkNext_desc (h : s.via.lock.level = 2) : s.walkNext d
    = if d ≠ s.walkItem.1 then (s.modLock (fun k => { k with level := 3, span := 0 })).sendWalk
      else if s.via.lock.desc < 4096 then (s.modLock (fun k => { k with desc := k.desc + 1 })).sendWalk else s.endWalk := by
  unfold State.walkNext
  dsimp only
  rw [if_neg (by omega), if_pos h]
  simp only [Bool.not_eq_true', decide_eq_false_iff_not, ne_eq]

theorem State.walkNext_span (h : s.via.lock.level = 3) : s.walkNext d
    = if d ≠ s.walkItem.1 then s.endWalk
      else if s.via.lock.span < 129 then (s.modLock (fun k => { k with span := k.span + 1 })).sendWalk else s.endWalk := by
  unfold State.walkNext
  dsimp only
  rw [if_neg (by omega), if_neg (by omega), if_pos h]
  simp only [Bool.not_eq_true', decide_eq_false_iff_not, ne_eq]

end

end

/-! ### EXT_REQ and EXT_ANS (R446, R480) -/

/-- The entry granules that a WRITE of an extent carries, each byte that memory holds and that is a value as it stands. -/
theorem State.sendExtent_one (src lid a : Nat) {n : Nat} (hn : 0 < n) (hmost : n ≤ 128) (x : HotEntry) (s : State) :
    s.sendExtent src lid x (a, n) = (s.readBytes ((addrs a (32 * n)).map (s.entryAddr x))).2.sendTo 0x10 2 src (writeArg lid a)
      (granulesOf n (s.readBytes ((addrs a (32 * n)).map (s.entryAddr x))).1) := by
  have hcount : cdiv n 128 = 1 := by
    unfold cdiv
    omega
  have hmin : min 128 (n - 128 * 0) = n := by omega
  unfold State.sendExtent
  dsimp only
  rw [hcount]
  dsimp only [List.range_one, List.foldl_cons, List.foldl_nil]
  rw [hmin]
  rfl

theorem State.sendExtent_bytes (a n : Nat) (x : HotEntry) (s : State) {i j : Nat} (hi : i < n) (hj : j < 32)
    (hpoison : s.poisoned (s.entryAddr x (a + 32 * i + j)) = false) (hdevice : inDevice (s.entryAddr x (a + 32 * i + j)) = false) :
    bitsAt ((granulesOf n (s.readBytes ((addrs a (32 * n)).map (s.entryAddr x))).1).getD i 0).toNat (8 * j) 8
      = (s.memByte (s.entryAddr x (a + 32 * i + j))).toNat := by
  obtain ⟨-, hbytes, -⟩ := State.readBytes_spec ((addrs a (32 * n)).map (s.entryAddr x)) s
  have hoff : ((addrs a (32 * n)).map (s.entryAddr x))[32 * i + j]? = some (s.entryAddr x (a + 32 * i + j)) := by
    unfold addrs
    rw [List.getElem?_map, List.getElem?_map, List.getElem?_range (by omega), Option.map_some, Option.map_some, Nat.add_assoc]
  have hbyte := hbytes _ _ hoff hpoison hdevice
  have hgranule (bs : List Byte) : (granulesOf n bs).getD i 0 = BitVec.ofNat 256 (leAt bs (32 * i) 32) := by
    simp [granulesOf, List.getD_eq_getElem?_getD, hi]
  rw [hgranule, bitsAt_leAt _ _ hj, hbyte]

section
variable {t : Nat} {p : Pkt} {s : State}

/-- What an EXT_REQ finds. -/
def State.serveExt (p : Pkt) (s : State) : State :=
  let bs := payloadBytes p.payload
  let id := bitsAt p.arg.toNat 0 16
  match s.readyEntry? (bytesDigest (byteSlice bs 0 48)) with
  | none => s.answerExt p.src.toNat id 1
  | some e =>
    let x := s.entry e
    if x.layoutDigest ≠ bytesDigest (byteSlice bs 48 48) then s.answerExt p.src.toNat id 2
    else if s.extBusy then s.answerExt p.src.toNat id 3
    else
      let first := bitsAt p.arg.toNat 32 32
      let exts := (x.extents.drop first).take (leAt bs 96 4)
      let n := (exts.map (·.2)).sum
      let f : ExtFlow := { chip := p.src.toNat, reqId := id, lid := bitsAt p.arg.toNat 16 13, entry := e, first := first,
                           granulesLeft := n }
      let y := s.answerExt p.src.toNat id 0
      let z := State.winAdd 256 8 (32 * n) { y with via := { y.via with ext := if n = 0 then none else some f } }
      exts.foldl (fun (v : State) (w : Nat × Nat) => v.sendExtent p.src.toNat (bitsAt p.arg.toNat 16 13) x w) z

theorem exec_extReq (h : Arrives p s) : exec (.extReq t p) s = .next ((s.arrived t p).serveExt p) := State.onPacket_arrives _ h

theorem State.winAdd_frame (i j n : Nat) (s : State) : ∃ o, s.winAdd i j n = { s with obs := o } := by
  unfold State.winAdd
  split <;> exact ⟨_, rfl⟩

section
variable {e : Nat}

theorem State.serveExt_none (h : s.readyEntry? (bytesDigest (byteSlice (payloadBytes p.payload) 0 48)) = none) :
    s.serveExt p = s.answerExt p.src.toNat (bitsAt p.arg.toNat 0 16) 1 := by
  unfold State.serveExt
  dsimp only
  rw [h]

variable (h : s.readyEntry? (bytesDigest (byteSlice (payloadBytes p.payload) 0 48)) = some e)
include h

theorem State.serveExt_layout (hlayout : (s.entry e).layoutDigest ≠ bytesDigest (byteSlice (payloadBytes p.payload) 48 48)) :
    s.serveExt p = s.answerExt p.src.toNat (bitsAt p.arg.toNat 0 16) 2 := by
  unfold State.serveExt
  dsimp only
  rw [h]
  exact if_pos hlayout

variable (hlayout : (s.entry e).layoutDigest = bytesDigest (byteSlice (payloadBytes p.payload) 48 48))
include hlayout

theorem State.serveExt_busy (hbusy : s.extBusy = true) : s.serveExt p = s.answerExt p.src.toNat (bitsAt p.arg.toNat 0 16) 3 := by
  unfold State.serveExt
  dsimp only
  rw [h]
  dsimp only
  rw [if_neg (not_not_intro hlayout), if_pos hbusy]

theorem State.serveExt_serves (hfree : s.extBusy = false) :
    let exts := ((s.entry e).extents.drop (bitsAt p.arg.toNat 32 32)).take (leAt (payloadBytes p.payload) 96 4)
    let n := (exts.map (·.2)).sum
    let f : ExtFlow := { chip := p.src.toNat, reqId := bitsAt p.arg.toNat 0 16, lid := bitsAt p.arg.toNat 16 13, entry := e
                         first := bitsAt p.arg.toNat 32 32, granulesLeft := n }
    let y := s.answerExt p.src.toNat (bitsAt p.arg.toNat 0 16) 0
    s.serveExt p = exts.foldl (fun (v : State) (w : Nat × Nat) =>
        v.sendExtent p.src.toNat (bitsAt p.arg.toNat 16 13) (s.entry e) w)
      (State.winAdd 256 8 (32 * n) { y with via := { y.via with ext := if n = 0 then none else some f } }) := by
  unfold State.serveExt
  dsimp only
  rw [h]
  dsimp only
  rw [if_neg (not_not_intro hlayout), hfree]
  rfl

end

/-- What an EXT_ANS does to the install that waits for it. -/
def State.takeExtAns (p : Pkt) (s : State) : State := match s.via.install, s.running with
  | some f, some job =>
    if f.chip ≠ p.src.toNat ∨ f.reqId ≠ bitsAt p.arg.toNat 0 16 then s
    else if bitsAt p.arg.toNat 16 8 = 0 then { s with jobs := kupd s.jobs job (fun j => { j with verified := true }) }
    else State.pausePoint job (some (if bitsAt p.arg.toNat 16 8 = 3 then 0x03 else 0x04))
      { s with landings := kdel s.landings f.lid, via := { s.via with install := none } }
  | _, _ => s

theorem exec_extAns (h : Arrives p s) : exec (.extAns t p) s = .next ((s.arrived t p).takeExtAns p) :=
  State.onPacket_arrives _ h

end

/-! ### The statement -/

section
variable {t : Nat} {p : Pkt} {s : State} (hup : (s.cefin p.port.val).up = true)
  (hseq : p.lseq.toNat = (s.cefin p.port.val).rxSeq)
include hup hseq

theorem exec_digest_other (h : s.lockPort p.port.val = false) : exec (.digest t p) s = .next (s.arrived t p) := by
  rw [exec_digest hup hseq, h, if_neg Bool.false_ne_true]

theorem exec_digest_lock (h : s.lockPort p.port.val = true) : exec (.digest t p) s
    = .next ((s.arrived t p).takeDigest (bytesDigest (byteSlice (payloadBytes p.payload) 0 48)) (bitsAt p.arg.toNat 0 32)
      (leAt (payloadBytes p.payload) 52 4)) := by
  have htick : bitsAt p.arg.toNat 0 32 = p.arg.toNat % 2 ^ 32 := by simp [bitsAt]
  rw [exec_digest hup hseq, if_pos h, htick]
  rfl

end

/-- What a pair compares is that of the state before a packet arrived, whatever the record of the pair becomes. -/
theorem State.arrived_compared (t : Nat) (p : Pkt) (f : LockState → LockState) (s : State) : let z := (s.arrived t p).modLock f
    z.pair = s.pair ∧ z.via.lock = f s.via.lock ∧ z.bitstream? = s.bitstream? ∧ z.headerDigest = s.headerDigest
      ∧ z.digestStands = s.digestStands ∧ z.tickNumber = s.tickNumber ∧ z.tickDigest = s.tickDigest := by
  obtain ⟨c, v, o, h⟩ := State.arrived_eq t p s
  rw [h]
  exact ⟨rfl, rfl, rfl, rfl, rfl, rfl, rfl⟩

theorem State.arrived_lock (t : Nat) (p : Pkt) (s : State) :
    (s.arrived t p).pair = s.pair ∧ (s.arrived t p).via.lock = s.via.lock := by
  obtain ⟨c, v, o, h⟩ := State.arrived_eq t p s
  rw [h]
  exact ⟨rfl, rfl⟩

theorem State.arrived_extView (t : Nat) (p : Pkt) (s : State) : (∀ d, (s.arrived t p).readyEntry? d = s.readyEntry? d)
    ∧ (s.arrived t p).via.install = s.via.install := by
  obtain ⟨c, v, o, h⟩ := State.arrived_eq t p s
  rw [h]
  exact ⟨fun _ => rfl, rfl⟩

/-- The partner's digest that has just been entered is that of its tick. -/
theorem State.partnerDigest?_entered {d : BitVec 384} {s : State} (es : List (Nat × BitVec 384))
    (h : s.via.lock.digests = ((s.tickNumber, d) :: es).take 2) : s.partnerDigest? = some d := by
  unfold State.partnerDigest?
  rw [h]
  simp

/-- The freeze of a pair, and of a tick with nothing due the tick's end (R538, R539). -/
theorem State.freeze_spec (n : Nat) (z : State) : let u := z.freeze n
    u.via.lock.frozen = true ∧ u.gov.nextCut = none
      ∧ (z.dueCycle z.cycNow = none → u.via.lock.div1 = BitVec.ofNat 32 z.tickNumber
        ∧ (z.tick.active = true → z.tick.sealed = false → u.tick.active = false ∧ u.tick.broken = some .lockstep)
        ∧ u.mem = z.mem ∧ u.requests = z.requests ∧ u.jobs = z.jobs) := by
  intro u
  refine ⟨rfl, rfl, fun hdue => ?_⟩
  have hbreak := State.breakTick_due hdue
  obtain ⟨f, c, hf⟩ := State.fault_frame 0xB 0 0xFF z
  obtain ⟨cs, k, o, ps, x, hb⟩ := State.breakHere_frame .lockstep (z.fault 0xB 0 0xFF)
  have hu : u = _ := State.freeze_eq n z
  refine ⟨?_, fun hactive hsealed => ?_, ?_⟩
  · rw [hu, hbreak, hb, hf]
    rfl
  · have hin : (z.fault 0xB 0 0xFF).inTick = true := by
      rw [hf]
      show (z.tick.active && !z.tick.sealed) = true
      rw [hactive, hsealed]
      rfl
    obtain ⟨cs, hopen⟩ := State.breakHere_open hin .lockstep
    rw [hu, hbreak, hopen]
    exact ⟨rfl, rfl⟩
  · rw [hu, hbreak, hb, hf]
    exact ⟨rfl, rfl, rfl⟩

/-- Settles O56: a DIGEST by the link it came on and by the scope it names, an EXT_REQ by what the module holds, an EXT_ANS by its
status. The model's choices: headers that differ freeze the pair with PHASE 0 and no walk (log entry 58), items of the sums are
numbered from 0 (entry 7), an EXT_REQ is busy until every WRITE is acknowledged and an EXT_ANS ends a job with FETCH_FAILED or
DIGEST_MISMATCH (entry 56), and bytes of poison are free (entry 64). -/
theorem digestsAndExtentRequestsAct : Obligations.DigestsAndExtentRequestsAct := by
  unfold Obligations.DigestsAndExtentRequestsAct
  refine ⟨fun t p s hup hseq => ?_, fun t p s harr => ?_, fun src lid a n x s hn hmost => ?_, fun t p s harr => ?_⟩
  · intro y bs d scope tick lock
    obtain ⟨hpair, hlock⟩ := State.arrived_lock t p s
    refine ⟨exec_digest_other hup hseq, fun hport hready => ?_, fun hport hready hlevel => ?_, fun hport hready hlevel => ?_,
      State.freeze_spec, fun d z => ?_⟩
    · intro k
      have hp := State.lockPort_pair hport
      have hexec : exec (.digest t p) s = _ := exec_digest_lock hup hseq hport
      rw [State.takeDigest_ready (hpair.trans hp) hready] at hexec
      obtain ⟨hpair', hlock', hbits, hheader, -⟩ :=
        State.arrived_compared t p (fun k => { k with paired := true, header := some d }) s
      rw [State.compareHeaders_eq (hpair'.trans hp) (congrArg LockState.header hlock'), hlock', hbits, hheader] at hexec
      have hk : (s.arrived t p).modLock (fun k => { k with paired := true, header := some d }) = lock k := by
        show { y with via := { y.via with lock := { y.via.lock with paired := true, header := some d } } } = lock k
        rw [hlock]
      rw [hk] at hexec
      refine ⟨fun h => hexec.trans (congrArg Host.Outcome.next (if_pos h)), fun h1 h2 h3 => ?_⟩
      refine hexec.trans (congrArg Host.Outcome.next (if_neg ?_))
      rintro (h | h | h)
      · exact Bool.false_ne_true (h1.symm.trans h)
      · exact h2 h
      · exact h3 h
    · intro k
      have hp := State.lockPort_pair hport
      have hexec : exec (.digest t p) s = _ := exec_digest_lock hup hseq hport
      rw [State.takeDigest_tick (hpair.trans hp) hready hlevel] at hexec
      obtain ⟨hpair', hlock', -, -, hstands, hnumber, hdigest⟩ := State.arrived_compared t p (fun k => { k with
        digests := ((tick, d) :: k.digests.filter (fun e => decide (e.1 ≠ tick))).take 2 }) s
      have hk : (s.arrived t p).modLock (fun k => { k with
          digests := ((tick, d) :: k.digests.filter (fun e => decide (e.1 ≠ tick))).take 2 }) = lock k := by
        show { y with via := { y.via with lock := { y.via.lock with
          digests := ((tick, d) :: y.via.lock.digests.filter (fun e => decide (e.1 ≠ tick))).take 2 } } } = lock k
        rw [hlock]
      rw [hk] at hexec hpair' hlock' hstands hnumber hdigest
      have hfrozen : (lock k).via.lock.frozen = s.via.lock.frozen := rfl
      refine ⟨fun h => ?_, fun h1 h2 h3 => ?_⟩
      · rw [State.compareDigests_waits (hpair'.trans hp) (by rwa [hfrozen, hstands])] at hexec
        exact hexec
      · have hpartner : (lock k).partnerDigest? = some d := by
          refine State.partnerDigest?_entered (s.via.lock.digests.filter (fun e => decide (e.1 ≠ tick))) ?_
          rw [hnumber, ← h3]
        rw [State.compareDigests_compares (hpair'.trans hp) (hfrozen.trans h1) (hstands.trans h2) hpartner, hdigest] at hexec
        exact ⟨fun h => hexec.trans (congrArg Host.Outcome.next (if_pos h)),
          fun h => hexec.trans (congrArg Host.Outcome.next (if_neg h))⟩
    · have hexec : exec (.digest t p) s = _ := exec_digest_lock hup hseq hport
      rw [State.takeDigest_walk (hpair.trans (State.lockPort_pair hport)) hready hlevel, hlock] at hexec
      refine ⟨fun h => hexec.trans (congrArg Host.Outcome.next (if_neg ?_)),
        fun h1 h2 => hexec.trans (congrArg Host.Outcome.next (if_pos ?_))⟩
      · rw [Bool.and_eq_true, decide_eq_true_eq]
        rintro ⟨h1, h2⟩
        rcases h with h | h
        · exact Bool.false_ne_true (h.symm.trans h1)
        · exact h h2
      · rw [Bool.and_eq_true, decide_eq_true_eq]
        exact ⟨h1, h2⟩
    · intro k same at_
      refine ⟨fun h1 h2 => ?_, fun h1 h2 h3 => ?_, fun h1 h2 => ?_, fun h1 h2 h3 => ?_, fun h1 h2 h3 => ?_, fun h1 h2 => ?_⟩
      · rw [State.walkNext_phase h1, if_pos h2]
        rfl
      · rw [State.walkNext_phase h1, if_neg (not_not_intro h2), if_pos h3]
        rfl
      · rw [State.walkNext_desc h1, if_pos h2]
        rfl
      · rw [State.walkNext_desc h1, if_neg (not_not_intro h2), if_pos h3]
        rfl
      · rw [State.walkNext_span h1, if_neg (not_not_intro h2), if_pos h3]
        rfl
      · rw [State.walkNext_span h1, if_pos h2]
        rfl
  · intro y id lid first src bs answer d
    obtain ⟨hentry, -⟩ := State.arrived_extView t p s
    have hexec : exec (.extReq t p) s = .next (y.serveExt p) := exec_extReq harr
    refine ⟨fun h => ?_, fun e he => ?_⟩
    · rw [State.serveExt_none ((hentry _).trans h)] at hexec
      exact hexec
    · intro x
      have hx : y.entry e = x := State.arrived_entry t p s e
      have he' : y.readyEntry? (bytesDigest (byteSlice (payloadBytes p.payload) 0 48)) = some e := (hentry _).trans he
      refine ⟨fun h => ?_, fun h hbusy => ?_, fun h hfree => ?_⟩
      · rw [State.serveExt_layout he' (by rwa [hx])] at hexec
        exact hexec
      · rw [State.serveExt_busy he' (by rwa [hx]) hbusy] at hexec
        exact hexec
      · intro exts n
        have hserves := State.serveExt_serves he' (by rwa [hx]) hfree
        rw [hx] at hserves
        have hnext := hexec.trans (congrArg Host.Outcome.next hserves)
        refine ⟨fun hnil => ?_, fun hn => ?_⟩
        · refine hnext.trans (congrArg Host.Outcome.next ?_)
          show exts.foldl _ _ = _
          have hzero : n = 0 := by
            show (exts.map (·.2)).sum = 0
            rw [hnil]
            rfl
          rw [hnil]
          show State.winAdd 256 8 (32 * n) { answer 0 with via := { (answer 0).via with ext := if n = 0 then none else some _ } }
            = { answer 0 with via := { (answer 0).via with ext := none } }
          rw [hzero, if_pos rfl]
          rfl
        · intro f
          obtain ⟨o, ho⟩ := State.winAdd_frame 256 8 (32 * n)
            { answer 0 with via := { (answer 0).via with ext := if n = 0 then none else some f } }
          refine ⟨State.winAdd 256 8 (32 * n)
            { answer 0 with via := { (answer 0).via with ext := if n = 0 then none else some f } }, ?_, hnext⟩
          rw [ho, if_neg hn]
  · obtain ⟨-, -, z, hz, hfresh⟩ := State.readBytes_spec ((addrs a (32 * n)).map (s.entryAddr x)) s
    refine ⟨_, _, State.sendExtent_one src lid a hn hmost x s, by simp [granulesOf],
      fun i j hi hj => State.sendExtent_bytes a n x s hi hj, fun b => ?_, ?_⟩
    · rw [hfresh]
      exact hz.memByte b
    · rw [hfresh]
      have hframe := hz.frame
      rw [hframe]
  · intro y
    obtain ⟨-, hinstall⟩ := State.arrived_extView t p s
    have hrunning : y.running = s.running := State.arrived_running t p s
    have hexec : exec (.extAns t p) s = .next (y.takeExtAns p) := exec_extAns harr
    refine ⟨fun h => hexec.trans (congrArg Host.Outcome.next ?_), fun f job hf hjob => ?_⟩
    · unfold State.takeExtAns
      rw [hinstall, hrunning]
      split
      · next hf hj =>
        rcases h with h | h
        · exact absurd (h.symm.trans hf) (by simp)
        · exact absurd (h.symm.trans hj) (by simp)
      · rfl
    · intro st
      have htake : y.takeExtAns p = if f.chip ≠ p.src.toNat ∨ f.reqId ≠ bitsAt p.arg.toNat 0 16 then y
          else if st = 0 then { y with jobs := kupd y.jobs job (fun j => { j with verified := true }) }
          else State.pausePoint job (some (if st = 3 then 0x03 else 0x04))
            { y with landings := kdel y.landings f.lid, via := { y.via with install := none } } := by
        unfold State.takeExtAns
        rw [hinstall, hrunning, hf, hjob]
      have hjobs : y.jobs = s.jobs := State.arrived_jobs t p s
      have hlandings : y.landings = s.landings := State.arrived_landings t p s
      rw [htake] at hexec
      rw [← hjobs, ← hlandings]
      refine ⟨fun h => hexec.trans (congrArg Host.Outcome.next (if_pos h)), fun h1 h2 => ?_⟩
      have hmine : ¬(f.chip ≠ p.src.toNat ∨ f.reqId ≠ bitsAt p.arg.toNat 0 16) := by simp [h1, h2]
      rw [if_neg hmine] at hexec
      exact ⟨fun h => hexec.trans (congrArg Host.Outcome.next (if_pos h)),
        fun h => hexec.trans (congrArg Host.Outcome.next (if_neg h))⟩

end Sys2Proof.Machine
end

section
/-! PROOFS. Strikes, fences and span tests on demand, and re-fetches (spec/15_faults.md, R500 to R506, R522). -/

namespace Sys2Proof.Machine
open Sys2Proof

/-! ### Strikes (R500) -/

section
variable (t : Nat) (p : Fin 132) (s : State)

theorem exec_strikeLapse : exec (.strikeLapse t p) s = .next ((s.at t).modSpan p.val (fun x =>
    { x with strikes := x.strikes.filter (fun y => decide (max s.time t < y + 86400000000000)) })) := rfl

end

theorem State.modSpan_same (p : Nat) (f : Span → Span) (s : State) : (s.modSpan p f).span p = f (s.span p) := kget_kset_same _ _ _ _

theorem State.modSpan_other {p k : Nat} (f : Span → Span) (s : State) (h : k ≠ p) : (s.modSpan p f).span k = s.span k :=
  kget_kset_other _ _ h _

/-! ### Actions of FLT_SPAN_CTRL (R503, R522) -/

section
variable {p : Nat} {may : Bool} {act : State → State} {s : State}

/-- R522: an action of a span that may not be named, or while one is in progress, is refused. -/
theorem State.spanAction_refused (h : may = false ∨ s.flt.ctrlSpan ≠ none) :
    s.spanAction p may act = (s.setReg 0x0B0010 (BitVec.ofNat 32 p)).spanResult 2 := by
  unfold State.spanAction
  dsimp only
  refine if_neg ?_
  rw [Bool.and_eq_true, Option.isNone_iff_eq_none]
  rintro ⟨hmay, hnone⟩
  rcases h with h | h
  · exact Bool.false_ne_true (h.symm.trans hmay)
  · exact h hnone

theorem State.spanAction_starts (hmay : may = true) (h : s.flt.ctrlSpan = none) :
    s.spanAction p may act = act { s.setReg 0x0B0010 (BitVec.ofNat 32 p) with flt := { s.flt with ctrlSpan := some p } } := by
  unfold State.spanAction
  dsimp only
  refine if_pos ?_
  rw [hmay, State.setReg_flt, h]
  rfl

end

section
variable {s : State}

theorem State.startTest_takes {p : Nat} {rest : List Nat} (htesting : s.flt.testing = none) (hscrub : s.flt.scrubbing = false)
    (hrunning : s.running = none) (hasked : s.flt.testAsked = p :: rest) :
    s.startTest = { s with flt := { s.flt with testAsked := rest, testing := some p } } := by
  unfold State.startTest
  rw [htesting, hscrub, hrunning, hasked]
  rfl

theorem State.startTest_waits (hrunning : s.running ≠ none) : s.startTest = s := by
  refine if_pos ?_
  rw [Option.isSome_iff_ne_none.mpr hrunning, Bool.or_true]

end

section
variable {p : Fin 132} {s : State}

theorem State.spanRetest_starts (hfenced : (s.mapEntry p.val).status = .fenced) (hfree : s.flt.ctrlSpan = none)
    (hasked : p.val ∉ s.flt.testAsked) (htesting : s.flt.testing ≠ some p.val) : s.spanRetest p
    = State.startTest { s.setReg 0x0B0010 (BitVec.ofNat 32 p.val) with
        flt := { s.flt with ctrlSpan := some p.val, testAsked := s.flt.testAsked ++ [p.val] } } := by
  unfold State.spanRetest
  rw [State.spanAction_starts (decide_eq_true hfenced) hfree]
  refine if_neg ?_
  rw [List.contains_iff_mem]
  rintro (h | h)
  · exact hasked h
  · exact htesting h

theorem State.spanFence_starts (hstatus : (s.mapEntry p.val).status = .active ∨ (s.mapEntry p.val).status = .spare)
    (hfree : s.flt.ctrlSpan = none) :
    let z : State := { s.setReg 0x0B0010 (BitVec.ofNat 32 p.val) with flt := { s.flt with ctrlSpan := some p.val } }
    s.spanFence p = if (s.mapEntry p.val).logical.isSome ∧ s.running.isSome then
        { z with flt := { z.flt with fenceAsked := z.flt.fenceAsked ++ [p.val] } }
      else (z.fence p.val).2.spanActionDone 0 := by
  unfold State.spanFence
  dsimp only
  rw [State.spanAction_starts (decide_eq_true hstatus) hfree]
  rfl

end

/-- The fence list has room for 32 spans and holds a span once. -/
theorem State.listFence_list (p : Nat) (s : State) : ∃ l, s.listFence p = { s with flt := { s.flt with fenceList := l } }
    ∧ (s.flt.fenceList.length < 32 → p ∉ s.flt.fenceList → l = s.flt.fenceList ++ [p])
    ∧ (32 ≤ s.flt.fenceList.length → l = s.flt.fenceList) := by
  unfold State.listFence
  by_cases h : s.flt.fenceList.contains p = true ∨ s.flt.fenceList.length ≥ 32
  · refine ⟨s.flt.fenceList, if_pos h, fun hroom hout => ?_, fun _ => rfl⟩
    rw [List.contains_iff_mem] at h
    rcases h with h | h
    · exact absurd h hout
    · omega
  · refine ⟨_, if_neg h, fun _ _ => rfl, fun hfull => absurd (.inr hfull) h⟩

theorem State.fence_spare {p : Nat} {s : State} (h : s.mapEntry p = { status := .spare, logical := none }) :
    (s.fence p).2 = ((s.inc 0x0B0130 1).listFence p).setMap
      (kins ((s.inc 0x0B0130 1).listFence p).spanMap p { status := .fenced, logical := none }) := by
  unfold State.fence
  dsimp only
  rw [h]
  rfl

/-- R503: a span that is SPARE is fenced at once: it enters the fence list, and nothing but the map shows it. -/
theorem State.fence_spare_spec {p : Nat} {s : State} (h : s.mapEntry p = { status := .spare, logical := none }) : ∃ c l m,
    (s.fence p).2 = { s with counters := c, flt := { s.flt with fenceList := l }, spanMap := m, mapEpoch := s.mapEpoch + 1 }
    ∧ m = kins s.spanMap p { status := .fenced, logical := none }
    ∧ (s.flt.fenceList.length < 32 → p ∉ s.flt.fenceList → l = s.flt.fenceList ++ [p])
    ∧ (32 ≤ s.flt.fenceList.length → l = s.flt.fenceList) := by
  obtain ⟨c, hc⟩ := State.inc_counters 0x0B0130 1 s
  obtain ⟨l, hl, hroom, hfull⟩ := State.listFence_list p (s.inc 0x0B0130 1)
  rw [hc] at hroom hfull
  refine ⟨c, l, _, ?_, rfl, hroom, hfull⟩
  rw [State.fence_spare h, hl, hc]
  rfl

/-! ### The end of a span's test (R503) -/

theorem State.unfence_frame (p : Nat) (s : State) : ∃ m e, s.unfence p = { s with
    flt := { s.flt with fenceList := s.flt.fenceList.filter (fun q => decide (q ≠ p)) }, spanMap := m, mapEpoch := e } := by
  unfold State.unfence
  dsimp only
  split
  · exact ⟨_, _, rfl⟩
  · exact ⟨_, _, rfl⟩

theorem State.unfence_map (p : Nat) (s : State) : (s.unfence p).spanMap
    = if (s.mapEntry p).status = .fenced then kins s.spanMap p { status := .spare, logical := none } else s.spanMap := by
  unfold State.unfence
  dsimp only
  by_cases h : (s.mapEntry p).status = .fenced
  · have hin : (State.mapEntry { s with flt := { s.flt with fenceList := s.flt.fenceList.filter (· ≠ p) } } p).status = .fenced := h
    rw [if_pos h, if_pos hin]
    rfl
  · have hout : ¬(State.mapEntry { s with flt := { s.flt with fenceList := s.flt.fenceList.filter (· ≠ p) } } p).status = .fenced := h
    rw [if_neg h, if_neg hout]

/-- A span that has been tested. -/
def State.tested (p : Nat) (pass : Bool) (s : State) : State :=
  let s := s.modSpan p Span.scrubbed
  let s := { s with flt := { s.flt with testing := none } }
  if pass then s.unfence p else s

/-- What the end of a test reports: the end of the action that asked for it, or a fault held to be the program's (R501). -/
def State.testReported (ctrl pass : Bool) (s : State) : State :=
  if ctrl then s.spanActionDone (if pass then 0 else 1) else if pass then s.inc 0x0B0100 1 else s

section
variable {t : Nat} {p : Fin 132} {pass : Bool} {s : State}

theorem exec_spanTestDone_other (h : s.flt.testing ≠ some p.val) : exec (.spanTestDone t p pass) s = .next (s.at t) := if_pos h

theorem exec_spanTestDone (h : s.flt.testing = some p.val) : exec (.spanTestDone t p pass) s
    = .next ((((s.at t).tested p.val pass).testReported (decide (s.flt.ctrlSpan = some p.val)) pass).startTest.dispatch false) :=
  if_neg (not_not_intro h)

end

theorem State.tested_span (p : Nat) (pass : Bool) (s : State) : (s.tested p pass).span p = (s.span p).scrubbed
    ∧ ∀ k, k ≠ p → (s.tested p pass).span k = s.span k := by
  have hspans : (s.tested p pass).spans = (s.modSpan p Span.scrubbed).spans := by
    unfold State.tested
    dsimp only
    split
    · obtain ⟨m, e, h⟩ := State.unfence_frame p
        { s.modSpan p Span.scrubbed with flt := { (s.modSpan p Span.scrubbed).flt with testing := none } }
      rw [h]
    · rfl
  have hspan (k : Nat) : (s.tested p pass).span k = (s.modSpan p Span.scrubbed).span k := by
    unfold State.span
    rw [hspans]
  exact ⟨(hspan p).trans (State.modSpan_same p _ s), fun k hk => (hspan k).trans (State.modSpan_other _ s hk)⟩

/-- A test moves its span, the fence list and the map. -/
theorem State.tested_frame (p : Nat) (pass : Bool) (s : State) : ∃ ps m e, s.tested p pass = { s with
    spans := ps, spanMap := m, mapEpoch := e
    flt := { s.flt with testing := none
                        fenceList := if pass = true then s.flt.fenceList.filter (fun q => decide (q ≠ p)) else s.flt.fenceList } } := by
  unfold State.tested
  dsimp only
  cases pass with
  | false => exact ⟨_, _, _, rfl⟩
  | true =>
    obtain ⟨m, e, h⟩ := State.unfence_frame p
      { s.modSpan p Span.scrubbed with flt := { (s.modSpan p Span.scrubbed).flt with testing := none } }
    rw [if_pos rfl, h]
    exact ⟨_, _, _, rfl⟩

theorem State.tested_map (p : Nat) (pass : Bool) (s : State) : (s.tested p pass).spanMap
    = if pass = true ∧ (s.mapEntry p).status = .fenced then kins s.spanMap p { status := .spare, logical := none }
      else s.spanMap := by
  unfold State.tested
  dsimp only
  cases pass with
  | false => exact (if_neg (fun h => Bool.false_ne_true h.1)).symm
  | true =>
    rw [if_pos rfl]
    exact (State.unfence_map p _).trans (if_congr ⟨fun h => ⟨rfl, h⟩, fun h => h.2⟩ rfl rfl)

theorem State.tested_mapEntry (p : Nat) (pass : Bool) (s : State) :
    (s.tested p pass).mapEntry p
      = (if pass = true ∧ (s.mapEntry p).status = .fenced then { status := .spare, logical := none } else s.mapEntry p)
    ∧ ∀ q, q ≠ p → (s.tested p pass).mapEntry q = s.mapEntry q := by
  have hmap := State.tested_map p pass s
  refine ⟨?_, fun q hq => ?_⟩
  · unfold State.mapEntry at *
    rw [hmap]
    split
    · rw [kfind?_kins_same]
      rfl
    · rfl
  · unfold State.mapEntry at *
    rw [hmap]
    split
    · rw [kfind?_kins_other _ hq]
    · rfl

/-- A report moves only FLT_SPAN_CTRL, its change-of-bits time and counters. -/
theorem State.testReported_frame (ctrl pass : Bool) (s : State) : ∃ c o f, s.testReported ctrl pass
    = { s with counters := c, obs := o, flt := f } ∧ f.testing = s.flt.testing ∧ f.fenceList = s.flt.fenceList
      ∧ (ctrl = true → f.ctrlSpan = none ∧ f.spanDone = true ∧ f.spanResult = if pass then 0 else 1) := by
  unfold State.testReported
  cases ctrl with
  | true => exact ⟨_, _, _, rfl, rfl, rfl, fun _ => ⟨rfl, rfl, rfl⟩⟩
  | false =>
    rw [if_neg Bool.false_ne_true]
    obtain ⟨c, hc⟩ := State.inc_counters 0x0B0100 1 s
    cases pass with
    | true => exact ⟨c, s.obs, s.flt, hc, rfl, rfl, fun h => absurd h Bool.false_ne_true⟩
    | false => exact ⟨s.counters, s.obs, s.flt, rfl, rfl, rfl, fun h => absurd h Bool.false_ne_true⟩

/-! ### Re-fetches (R504 to R506) -/

/-- What a repair comes to when its candidate, if it was given, has been written. -/
def State.judged (c : RefetchSource) (given : Bool) (r : Repair) (s : State) : State :=
  if given && s.extentGood r then (if r.mirror then s else s.inc (refetchCtr c) 1).swapRepair r none
  else if r.source + 1 < (s.repairSources r).length then
    (s.swapRepair r (some { r with source := r.source + 1 })).askPeer { r with source := r.source + 1 }
  else s.giveUp r

section
variable {c : RefetchSource} {r : Repair} {s : State}

theorem State.judged_good (h : s.extentGood r = true) :
    s.judged c true r = (if r.mirror = true then s else s.inc (refetchCtr c) 1).swapRepair r none := by
  unfold State.judged
  rw [h]
  rfl

theorem State.judged_next {given : Bool} (h : given = false ∨ s.extentGood r = false)
    (hmore : r.source + 1 < (s.repairSources r).length) : s.judged c given r
      = (s.swapRepair r (some { r with source := r.source + 1 })).askPeer { r with source := r.source + 1 } := by
  have hbad : (given && s.extentGood r) = false := by
    rcases h with h | h
    · rw [h, Bool.false_and]
    · rw [h, Bool.and_false]
  unfold State.judged
  rw [hbad, if_neg Bool.false_ne_true, if_pos hmore]

theorem State.judged_last {given : Bool} (h : s.extentGood r = false) (hlast : (s.repairSources r).length ≤ r.source + 1) :
    s.judged c given r = s.giveUp r := by
  unfold State.judged
  rw [h, Bool.and_false, if_neg Bool.false_ne_true, if_neg (Nat.not_lt.mpr hlast)]

end

/-- The places of the granules that a repair writes. -/
def Repair.places (r : Repair) (x : HotEntry) : List Nat := r.granules.flatMap (fun g => addrs (r.place x g) 32)

/-- A repair writes no other place. -/
theorem Repair.mem_places {r : Repair} {x : HotEntry} {a : Nat} (ha : a ∈ r.places x) :
    ∃ n ∈ r.granules, r.place x n ≤ a ∧ a < r.place x n + 32 := by
  unfold Repair.places addrs at ha
  rw [List.mem_flatMap] at ha
  obtain ⟨n, hn, hmem⟩ := ha
  rw [List.mem_map] at hmem
  obtain ⟨i, hi, rfl⟩ := hmem
  rw [List.mem_range] at hi
  exact ⟨n, hn, by omega, by omega⟩

theorem State.endPeer_frame (r : Repair) (s : State) : ∃ ln v, s.endPeer r = { s with landings := ln, via := v } := by
  have hclose (fs : List ExtFlow) (u : State) : ∃ ln, fs.foldl (fun (s : State) (f : ExtFlow) => s.closeLanding f.lid) u
      = { u with landings := ln } := by
    induction fs generalizing u with
    | nil => exact ⟨_, rfl⟩
    | cons f fs ih =>
      obtain ⟨ln, h⟩ := ih (u.closeLanding f.lid)
      exact ⟨ln, h⟩
  unfold State.endPeer
  dsimp only
  obtain ⟨ln, h⟩ := hclose (s.via.refetch.filter (fun f => decide (f.entry = r.entry)
    && decide ((s.entry r.entry).extentAt (r.granules.headD 0) = some f.first))) s
  rw [h]
  exact ⟨_, _, rfl⟩

theorem State.endPeer_memByte (r : Repair) (s : State) (a : Nat) : (s.endPeer r).memByte a = s.memByte a := by
  obtain ⟨ln, v, h⟩ := State.endPeer_frame r s
  rw [h]
  rfl

section
variable {t g : Nat} {src : RefetchSource} {bytes : List Byte} {errs : MemErrs} {s : State}

/-- The repair that a completion at device granule `g` is of. -/
def State.repairAt (g : Nat) (s : State) : Option Repair := s.flt.repairs.find? (fun r =>
  !r.failed && r.granules.any (fun n => decide (r.place (s.entry r.entry) n / 32 = g)))

theorem exec_refetchDone_none (h : s.repairAt g = none) :
    exec (.refetchDone t g src bytes errs) s = .next ((s.at t).upset errs) := by
  have hat : ((s.at t).upset errs).repairAt g = none := h
  unfold State.repairAt at hat
  show execRefetchDone t g src bytes errs s = _
  unfold execRefetchDone
  dsimp only
  rw [hat]

variable {r : Repair} (h : s.repairAt g = some r)
include h

theorem exec_refetchDone_unsourced (hc : (s.repairSources r)[r.source]? = none) :
    exec (.refetchDone t g src bytes errs) s = .next (((s.at t).upset errs).giveUp r) := by
  have hat : ((s.at t).upset errs).repairAt g = some r := h
  have hcat : (((s.at t).upset errs).repairSources r)[r.source]? = none := hc
  unfold State.repairAt at hat
  show execRefetchDone t g src bytes errs s = _
  unfold execRefetchDone
  dsimp only
  rw [hat]
  dsimp only
  rw [hcat]

theorem exec_refetchDone_other {c : RefetchSource} (hc : (s.repairSources r)[r.source]? = some c) (hother : c ≠ src) :
    exec (.refetchDone t g src bytes errs) s = .next ((s.at t).upset errs) := by
  have hat : ((s.at t).upset errs).repairAt g = some r := h
  have hcat : (((s.at t).upset errs).repairSources r)[r.source]? = some c := hc
  unfold State.repairAt at hat
  show execRefetchDone t g src bytes errs s = _
  unfold execRefetchDone
  dsimp only
  rw [hat]
  dsimp only
  rw [hcat]
  exact if_pos hother

section
variable (hc : (s.repairSources r)[r.source]? = some src)
include hc

/-- R505: a candidate that the source to try has given is written over the tile set's places, and judged. -/
theorem exec_refetchDone_given {bs : List Byte} {z : State}
    (hgiven : ((s.at t).upset errs).candidate r src bytes = (some bs, z)) :
    exec (.refetchDone t g src bytes errs) s
      = .next (State.judged src true r ((z.memWrite ((r.places (s.entry r.entry)).zip bs)).endPeer r)) := by
  have hat : ((s.at t).upset errs).repairAt g = some r := h
  have hcat : (((s.at t).upset errs).repairSources r)[r.source]? = some src := hc
  have hboth : (decide (src ≠ RefetchSource.host ∨ (some bs).isSome) && (decide (src ≠ RefetchSource.mirror) || (some bs).isSome))
      = true := by
    rw [Option.isSome_some, Bool.or_true, Bool.and_true]
    exact decide_eq_true (.inr rfl)
  unfold State.repairAt at hat
  show execRefetchDone t g src bytes errs s = _
  unfold execRefetchDone
  dsimp only
  rw [hat]
  dsimp only
  rw [hcat]
  dsimp only
  rw [if_neg (not_not_intro rfl), hgiven]
  dsimp only
  rw [hboth]
  unfold State.judged
  rw [apply_ite Host.Outcome.next, apply_ite Host.Outcome.next]
  rfl

end

/-- R505: a host copy of another length is none. -/
theorem exec_refetchDone_withheld (hc : (s.repairSources r)[r.source]? = some .host)
    (hnone : ((s.at t).upset errs).candidate r .host bytes = (none, (s.at t).upset errs)) :
    exec (.refetchDone t g .host bytes errs) s = .next (State.judged .host false r (((s.at t).upset errs).endPeer r)) := by
  have hat : ((s.at t).upset errs).repairAt g = some r := h
  have hcat : (((s.at t).upset errs).repairSources r)[r.source]? = some .host := hc
  unfold State.repairAt at hat
  show execRefetchDone t g .host bytes errs s = _
  unfold execRefetchDone
  dsimp only
  rw [hat]
  dsimp only
  rw [hcat]
  dsimp only
  rw [if_neg (not_not_intro rfl), hnone]
  unfold State.judged
  rw [apply_ite Host.Outcome.next, apply_ite Host.Outcome.next]
  rfl

end

/-! ### The statement -/

/-- Settles O46: strikes by their times, a retest and a fence by what may start, a test's end by its result, and a re-fetch by the
repair's source in turn and the digest of the extent read back. That a second action is refused, that a completion of another
source does nothing and that a failed repair is kept as failed are the model's choices of log entry 30. -/
theorem spanFaultsAreTestedAndRefetched : Obligations.SpanFaultsAreTestedAndRefetched := by
  unfold Obligations.SpanFaultsAreTestedAndRefetched
  refine ⟨⟨fun t p s => ?_, fun t who p s y hreached => ?_, fun t p pass s => ⟨exec_spanTestDone_other, fun htesting => ?_⟩⟩,
    fun t g src bytes errs s => ?_⟩
  · refine ⟨_, exec_strikeLapse t p s, rfl, fun k hk => State.modSpan_other _ _ hk, ?_, fun y => ?_⟩
    · rw [State.modSpan_same]
      rfl
    · rw [State.modSpan_same]
      show y ∈ (s.span p.val).strikes.filter _ ↔ _
      rw [List.mem_filter, decide_eq_true_eq]
  · intro z no m
    obtain ⟨cs, hy⟩ := hreached.frame
    have hflt : y.flt = s.flt := by rw [hy]; rfl
    have hmap (q : Nat) : y.mapEntry q = s.mapEntry q := by rw [hy]; rfl
    have hrunning := hreached.running
    have hretest : exec (.spanRetest t who p) s = .next (y.spanRetest p) := congrArg Host.Outcome.next (hreached.asMgmt _)
    have hfence : exec (.spanFence t who p) s = .next (y.spanFence p) := congrArg Host.Outcome.next (hreached.asMgmt _)
    have hrefused : z.spanResult 2 = no := by
      show State.noteSet _ { z with flt := { y.flt with spanDone := true, spanResult := 2 } } = no
      rw [hflt]
    refine ⟨fun h => ?_, fun hfenced hfree hasked htesting => ?_, fun h => ?_, fun hfree hactive hbound hrun => ?_,
      fun hfree hspare => ?_⟩
    · rw [hretest, ← hrefused]
      refine congrArg Host.Outcome.next (State.spanAction_refused ?_)
      rw [hflt, hmap]
      exact h.imp_left decide_eq_false
    · rw [State.spanRetest_starts (by rwa [hmap]) (by rwa [hflt]) (by rwa [hflt]) (by rwa [hflt]), hflt] at hretest
      refine ⟨fun hidle hnone hscrub hempty => hretest.trans ?_,
        fun hrun => hretest.trans (congrArg Host.Outcome.next (State.startTest_waits (hrunning.symm ▸ hrun)))⟩
      refine congrArg Host.Outcome.next ((State.startTest_takes (p := p.val) (rest := []) ?_ ?_ ?_ ?_).trans ?_)
      · exact hnone
      · exact hscrub
      · exact hrunning.trans hidle
      · exact congrArg (· ++ [p.val]) hempty
      · rw [← hempty]
    · rw [hfence, ← hrefused]
      refine congrArg Host.Outcome.next ?_
      unfold State.spanFence
      refine State.spanAction_refused ?_
      rw [hflt, hmap]
      have hnot : s.flt.ctrlSpan = none → ¬(m.status = .active ∨ m.status = .spare) := by
        rintro hnone (hs | hs) <;> simp [hs, hnone] at h
      by_cases hnone : s.flt.ctrlSpan = none
      · exact .inl (decide_eq_false (hnot hnone))
      · exact .inr hnone
    · rw [State.spanFence_starts (by rw [hmap]; exact .inl hactive) (by rwa [hflt]), hflt, hmap, hrunning] at hfence
      refine hfence.trans (congrArg Host.Outcome.next (if_pos ?_))
      exact ⟨Option.isSome_iff_ne_none.mpr hbound, Option.isSome_iff_ne_none.mpr hrun⟩
    · have hstatus : m.status = .spare := congrArg MapEntry.status hspare
      have hfree' : ¬(m.logical.isSome ∧ s.running.isSome) := by
        rintro ⟨hsome, -⟩
        rw [congrArg MapEntry.logical hspare] at hsome
        exact Bool.false_ne_true hsome
      rw [State.spanFence_starts (by rw [hmap]; exact .inr hstatus) (by rwa [hflt]), hflt, hmap, hrunning, if_neg hfree'] at hfence
      have hsame : State.mapEntry { z with flt := { s.flt with ctrlSpan := some p.val } } p.val
          = { status := .spare, logical := none } := (hmap p.val).trans hspare
      obtain ⟨c, l, mp, hu, hmp, hroom, hfull⟩ := State.fence_spare_spec hsame
      rw [hu] at hfence
      have hspanMap : y.spanMap = s.spanMap := by rw [hy]; rfl
      replace hmp : mp = kins s.spanMap p.val { status := .fenced, logical := none } := by
        rw [← hspanMap]
        exact hmp
      refine ⟨_, hfence, ?_, fun q hq => ?_, ?_, rfl, rfl, rfl, hroom, hfull, ?_, ?_, ?_⟩
      · show (kfind? mp p.val).getD _ = _
        rw [hmp, kfind?_kins_same]
        rfl
      · show (kfind? mp q).getD _ = (kfind? s.spanMap q).getD _
        rw [hmp, kfind?_kins_other _ hq]
      · show y.mapEpoch + 1 = _
        rw [hy]
        rfl
      · show y.spans = _
        rw [hy]
        rfl
      · show y.jobs = _
        rw [hy]
        rfl
      · exact hreached.mem
  · obtain ⟨ps, m, e, htested⟩ := State.tested_frame p.val pass (s.at t)
    obtain ⟨hspan, hspans⟩ := State.tested_span p.val pass (s.at t)
    obtain ⟨hentry, hentries⟩ := State.tested_mapEntry p.val pass (s.at t)
    obtain ⟨c, o, f, hreport, hnone, hlist, hctrl⟩ :=
      State.testReported_frame (decide (s.flt.ctrlSpan = some p.val)) pass ((s.at t).tested p.val pass)
    refine ⟨_, exec_spanTestDone htesting, ?_⟩
    rw [hreport]
    refine ⟨hnone.trans ?_, hspan, hspans, hentries, hentry, hlist.trans ?_, fun h => hctrl (decide_eq_true h), ?_, ?_, ?_⟩
    · rw [htested]
    · rw [htested]
      rfl
    · rw [htested]
      rfl
    · rw [htested]
      rfl
    · rw [htested]
      rfl
  · intro y hit
    refine ⟨exec_refetchDone_none, fun r hr => ?_⟩
    refine ⟨fun c hc hother => exec_refetchDone_other hr hc hother, exec_refetchDone_unsourced hr, fun hsrc hc hlen => ?_,
      fun hsrc hc hclean => ?_, fun hsrc hc hlen hmore hend => ?_⟩
    · subst hsrc
      have hgiven : y.candidate r .host bytes = (some bytes, y) := by
        show (if bytes.length = 32 * r.granules.length then some bytes else none, y) = _
        rw [if_pos hlen]
      have hexec := exec_refetchDone_given hr hc hgiven
      refine ⟨_, rfl, fun a ha => ?_, fun hgood => ?_, fun hbad hmore => ?_, fun hbad hlast => ?_⟩
      · rw [State.endPeer_memByte]
        refine State.memWrite_other _ (fun e he hea => ?_)
        obtain ⟨n, hn, hlo, hhi⟩ := Repair.mem_places (r := r) (x := s.entry r.entry) (a := a) (hea ▸ (List.of_mem_zip he).1)
        rcases ha n hn with h | h <;> omega
      · exact hexec.trans (congrArg Host.Outcome.next (State.judged_good hgood))
      · exact hexec.trans (congrArg Host.Outcome.next (State.judged_next (.inr hbad) hmore))
      · exact hexec.trans (congrArg Host.Outcome.next (State.judged_last hbad hlast))
    · subst hsrc
      intro from_ w hgood
      have hgiven : y.candidate r .mirror bytes = (some (from_.map y.memByte), (y.memRead from_).2) := by
        have hany : r.granules.any (fun g => y.poisoned (r.other (y.entry r.entry) g)) = false :=
          List.any_eq_false.mpr (fun n hn h => Bool.false_ne_true ((hclean n hn).symm.trans h))
        refine if_neg ?_
        rw [hany]
        exact Bool.false_ne_true
      exact (exec_refetchDone_given hr hc hgiven).trans (congrArg Host.Outcome.next (State.judged_good hgood))
    · subst hsrc
      have hgiven : y.candidate r .host bytes = (none, y) := by
        show (if bytes.length = 32 * r.granules.length then some bytes else none, y) = _
        rw [if_neg hlen]
      have hexec := exec_refetchDone_withheld hr hc hgiven
      rw [hend] at hexec
      exact hexec.trans (congrArg Host.Outcome.next (State.judged_next (.inl rfl) hmore))

end Sys2Proof.Machine
end

section
/-! PROOFS. Counters closed and sampled, trace buffers, the trigger, the drain and snapshots (spec/17_observation.md, R545 to R560). -/

namespace Sys2Proof.Machine
open Sys2Proof

/-! ### Closing (R545, R546) -/

/-- A counter is closed once in a cycle. -/
theorem Counter.close_close (t n : Nat) (c : Counter) : Counter.close t n (Counter.close t n c) = Counter.close t n c := by
  by_cases h : c.at_ = some t
  · have hid : Counter.close t n c = c := if_pos h
    rw [hid, hid]
  · have hclosed : (Counter.close t n c).at_ = some t := by
      unfold Counter.close
      rw [if_neg h]
    exact if_pos hclosed

/-- A closing of the counters of a list. -/
theorem kget_foldl_close (t : Nat) (n : Nat → Nat) (l : List Nat) (m : List (Nat × Counter)) (o : Nat) :
    kget Counter.zero (l.foldl (fun m o => kmod Counter.zero m o (Counter.close t (n o))) m) o
      = if o ∈ l then Counter.close t (n o) (kget Counter.zero m o) else kget Counter.zero m o := by
  induction l generalizing m with
  | nil => rfl
  | cons a l ih =>
    rw [List.foldl_cons, ih]
    by_cases ha : o = a
    · subst ha
      have hsame : kget Counter.zero (kmod Counter.zero m o (Counter.close t (n o))) o
          = Counter.close t (n o) (kget Counter.zero m o) := kget_kset_same _ _ _ _
      rw [hsame, if_pos (List.mem_cons_self ..), Counter.close_close, ite_self]
    · have hother : kget Counter.zero (kmod Counter.zero m a (Counter.close t (n a))) o = kget Counter.zero m o :=
        kget_kset_other _ _ ha _
      rw [hother]
      exact if_congr (by rw [List.mem_cons, or_iff_right ha]) rfl rfl

/-- The offsets of ranges of words are those that lie in one of them. -/
theorem mem_rangeOffs {l : List (Nat × Nat × Nat)} (hl : ∀ r ∈ l, r.2.2 = 4) {o : Nat} :
    o ∈ rangeOffs l ↔ inRanges l o = true := by
  unfold rangeOffs inRanges
  rw [List.mem_flatMap, List.any_eq_true]
  refine exists_congr fun r => and_congr_right fun hr => ?_
  have hstep := hl r hr
  simp only [List.mem_map, List.mem_range, decide_eq_true_eq, hstep]
  constructor
  · rintro ⟨i, hi, rfl⟩
    omega
  · rintro ⟨hlo, hhi, hmod⟩
    exact ⟨(o - r.1) / 4, by omega, by omega⟩

theorem mem_ctrOffs {o : Nat} : o ∈ rangeOffs ctrRanges ↔ isDeviceCtr o = true := mem_rangeOffs (by decide)

theorem mem_spanCtrOffs {o : Nat} : o ∈ rangeOffs spanCtrRanges ↔ isSpanCtr o = true := mem_rangeOffs (by decide)

section
variable (f : Nat → Bool) (n : Nat → Nat) (s : State) {o : Nat}

theorem State.closeWhere_counter : kget Counter.zero (s.closeWhere f n).counters o
    = if isDeviceCtr o = true ∧ f o = true then Counter.close s.time (n o) (kget Counter.zero s.counters o)
      else kget Counter.zero s.counters o := by
  unfold State.closeWhere
  dsimp only
  rw [kget_foldl_close]
  simp only [List.mem_filter, mem_ctrOffs]

end

theorem Span.closeAll_counter (t : Nat) (n : Nat → Nat) (x : Span) (o : Nat) : kget Counter.zero (x.closeAll t n).counters o
    = if isSpanCtr o = true then Counter.close t (n o) (kget Counter.zero x.counters o) else kget Counter.zero x.counters o := by
  unfold Span.closeAll
  dsimp only
  rw [kget_foldl_close]
  simp only [mem_spanCtrOffs]

theorem Span.closeAll_frame {t : Nat} {n : Nat → Nat} {x y : Span} (h : y = x.closeAll t n) : y = { x with
    counters := y.counters
    trace := if n 0x408 = 0 then { x.trace with firstTime := 0, lastTime := 0 }
      else { x.trace with firstTime := x.trace.lastTime } } := by
  rw [h]
  unfold Span.closeAll
  dsimp only

/-! ### Sampling (R547, R548) -/

theorem State.resample_frame (s : State) : ∃ a b, s.resample = { s with obs := { s.obs with samples := a, vfSamples := b } } :=
  ⟨_, _, rfl⟩

theorem kfind?_map_values {α : Type} (g : Nat → α → α) (m : List (Nat × α)) (k : Nat) :
    kfind? (m.map (fun e => (e.1, g e.1 e.2))) k = (kfind? m k).map (g k) := by
  induction m with
  | nil => rfl
  | cons e m ih =>
    show (if k = e.1 then some (g e.1 e.2) else kfind? (m.map _) k) = (if k = e.1 then some e.2 else kfind? m k).map (g k)
    by_cases h : k = e.1
    · rw [if_pos h, if_pos h, h]
      rfl
    · rw [if_neg h, if_neg h, ih]

/-- The value of a sample of the cycle of a close is taken again. -/
def State.sampledAgain (s : State) (x : SampleRegs) : SampleRegs :=
  if x.taken ≠ some s.time then x
  else
    let r := s.sampleOf (s.counterAt (4 * (bitsAt x.addr.toNat 0 24 / 4))) (x.addr.getLsbD 31)
    { x with value := r.1, flags := r.2 }

theorem State.resample_samples (s : State) : s.resample.obs.samples = s.obs.samples.map (fun e => (e.1, s.sampledAgain e.2)) := by
  refine List.map_congr_left (fun e _ => ?_)
  unfold State.sampledAgain
  dsimp only
  split <;> rfl

theorem Counter.sampled_flags (now : Nat) (closedCopy : Bool) (c : Counter) : let x := (c.sampled now closedCopy).2
    x.getLsbD 31 = true ∧ x.getLsbD 30 = decide (c.at_ = some now) ∧ x.toNat % 2 ^ 16 = c.closes.toNat := by
  have hfields (a b : Bool) (n : BitVec 16) : let x := BitVec.ofNat 32 (fieldAt 31 1 1 + fieldAt 30 1 (bit a)
        + fieldAt 29 1 (bit b) + fieldAt 0 16 n.toNat)
      x.getLsbD 31 = true ∧ x.getLsbD 30 = a ∧ x.toNat % 2 ^ 16 = n.toNat := by
    have hn := n.isLt
    cases a <;> cases b <;>
    · simp only [fieldAt, bit, BitVec.getLsbD_ofNat, Nat.testBit_eq_decide_div_mod_eq, BitVec.toNat_ofNat, if_true,
        Bool.false_eq_true, if_false]
      refine ⟨?_, ?_, by omega⟩
      · simp
        omega
      · simp
        omega
  exact hfields _ _ _

theorem Counter.sampled_value (now : Nat) (closedCopy : Bool) (c : Counter) : (c.sampled now closedCopy).1
    = if c.at_ = some now ∨ closedCopy = true then c.closed else c.live := by
  unfold Counter.sampled
  dsimp only
  simp only [Bool.or_eq_true, decide_eq_true_eq]

/-! ### The writes that close and sample -/

section
variable {value : Word} {s : State}

/-- What a write of OBS_CLOSE leaves when it names a scope. -/
def State.closedOnce (s : State) : State := { s.resample with obs := { s.resample.obs with closeSeq := s.resample.obs.closeSeq + 1 } }

theorem State.closedOnce_frame (s : State) : ∃ a b, s.closedOnce
    = { s with obs := { s.obs with closeSeq := s.obs.closeSeq + 1, samples := a, vfSamples := b } } := ⟨_, _, rfl⟩

variable (hpseudo : value.getLsbD 29 = false)
include hpseudo

theorem State.writeClose_none (h : bitsAt value.toNat 30 2 = 0) : s.writeClose value = s.countPower.upToNow.resample := by
  have hp : bitAt value.toNat 29 = false := hpseudo
  unfold State.writeClose State.closeScope
  dsimp only
  rw [h, hp]
  rfl

theorem State.writeClose_block (h : bitsAt value.toNat 30 2 = 2) : s.writeClose value
    = (s.countPower.upToNow.closeWhere (fun o => decide (o / 0x10000 = bitsAt value.toNat 24 4)) s.cycEvents).closedOnce := by
  have hp : bitAt value.toNat 29 = false := hpseudo
  unfold State.writeClose State.closeScope
  dsimp only
  rw [h, hp]
  rfl

theorem State.writeClose_span {p : Nat} (h : bitsAt value.toNat 30 2 = 3)
    (hp : s.countPower.upToNow.phys? (bitsAt value.toNat 0 8) = some p) : s.writeClose value
    = (s.countPower.upToNow.modSpan p (Span.closeAll s.countPower.upToNow.time (s.cycSpanEvents p))).closedOnce := by
  have hno : bitAt value.toNat 29 = false := hpseudo
  unfold State.writeClose State.closeScope
  dsimp only
  rw [h, hno, hp]
  rfl

end

/-! ### The window of a VF's partition (R551) -/

section
variable {t : Nat} {port : Fin 4} {vf : BitVec 8} {value : Word} {s : State} {p : Nat}

theorem State.vfWrite_bound (hopen : s.portOpen port.val = true) (hp : s.vfPart? port.val vf.toNat = some p)
    (act : Nat → State → State) : s.vfWrite t port.val vf.toNat act = act p ((s.at t).portRx port.val 4) := by
  obtain ⟨c, hc⟩ : ∃ c, (s.at t).portRx port.val 4 = { s.at t with counters := c } := State.incBytes_counters _ _ _
  have hopen' : (s.at t).portOpen port.val = true := hopen
  have hp' : ((s.at t).portRx port.val 4).vfPart? port.val vf.toNat = some p := by
    rw [hc]
    exact hp
  unfold State.vfWrite
  dsimp only
  rw [hopen', hp']
  rfl

end

theorem State.closePart_frame (p : Nat) (s : State) : let w := { kget PWindow.zero s.obs.windows p with closing := true }
    s.closePart p = { s with obs := { s.obs with
      windows := kset PWindow.zero s.obs.windows p (if s.ticking then w else w.switch s.time) } } := rfl

/-! ### Trace buffers, the trigger and snapshots (R554 to R560) -/

/-- R556: a write of SPN_TRACE_CTRL keeps the records, but for those kept over a warm reset, which EN 1 discards. -/
theorem Trace.write_eq (value : Word) (t : Trace) : t.write value = { t with
    ctrl := value &&& 0xDFFFFFFF#32, triggered := false, frozen := false, postLeft := none
    records := if t.kept && value.getLsbD 31 then [] else t.records
    kept := t.kept && !value.getLsbD 31 } := by
  have hkept : (t.kept && !(t.kept && value.getLsbD 31)) = (t.kept && !value.getLsbD 31) := by
    cases t.kept <;> rfl
  unfold Trace.write
  dsimp only
  rw [hkept]

section
variable {value : Word} {s : State}

theorem State.writeTrig_quiet (h : (value.getLsbD 31 && !s.regb 0x0A0034 30) = false) : s.writeTrig value
    = s.setReg 0x0A0034 ((value &&& 0x3E00FFFF#32) ||| (if (s.regb 0x0A0034 30
        && !(value.getLsbD 30 && s.mayClear (w1c 0x0A0034 30))) = true then 0x40000000#32 else 0#32)) := by
  unfold State.writeTrig
  dsimp only
  rw [h, if_neg Bool.false_ne_true]

/-- Bit 30 of OBS_TRIG after a write is what the write keeps of it, bit 25 what it writes. -/
theorem trigWord_bits (value : Word) (keep : Bool) : let v := (value &&& 0x3E00FFFF#32) ||| (if keep = true then 0x40000000#32 else 0#32)
    v.getLsbD 30 = keep ∧ v.getLsbD 25 = value.getLsbD 25 := by
  cases keep <;> simp

theorem State.writeTrig_fires (hfired : s.regb 0x0A0034 30 = false) (hfire : value.getLsbD 31 = true)
    (hsnap : value.getLsbD 25 = false) : ∃ u, s.writeTrig value = u ∧ u = { s with regs := u.regs, obs := { s.obs with
        trigger := some (s.timebase, 0), setAt := kins s.obs.setAt (w1c 0x0A0034 30) s.time } }
      ∧ u.regb 0x0A0034 30 = true := by
  have hwrite : s.writeTrig value = State.fireTrigger 0 (s.setReg 0x0A0034 ((value &&& 0x3E00FFFF#32) ||| (if false = true then
      0x40000000#32 else 0#32))) := by
    unfold State.writeTrig
    dsimp only
    rw [hfired, hfire]
    rfl
  obtain ⟨hbit, hdump⟩ := trigWord_bits value false
  rw [hwrite]
  generalize ((value &&& 0x3E00FFFF#32) ||| (if false = true then 0x40000000#32 else 0#32)) = v at hbit hdump
  have hunfired : (s.setReg 0x0A0034 v).regb 0x0A0034 30 = false := by
    unfold State.regb
    rw [State.setReg_regw_same]
    exact hbit
  have hnodump : ((s.setReg 0x0A0034 v).setRegBit 0x0A0034 30 true).regb 0x0A0034 25 = false := by
    rw [State.setRegBit_regb_other _ (by decide)]
    unfold State.regb
    rw [State.setReg_regw_same]
    exact hdump.trans hsnap
  have hfires : State.fireTrigger 0 (s.setReg 0x0A0034 v) = { ((s.setReg 0x0A0034 v).setRegBit 0x0A0034 30 true) with
      obs := { s.obs with trigger := some (s.timebase, 0), setAt := kins s.obs.setAt (w1c 0x0A0034 30) s.time } } := by
    unfold State.fireTrigger
    dsimp only
    rw [hunfired, if_neg Bool.false_ne_true]
    exact if_neg (fun h => Bool.false_ne_true (hnodump.symm.trans h))
  refine ⟨_, rfl, ?_, ?_⟩
  · rw [hfires]
    rfl
  · rw [hfires]
    exact State.setRegBit_regb_same _ (by decide) _ _

end

section
variable {s : State}

/-- R558: the trigger point of one bound span. -/
def State.triggerSpan (firedAt cause : Nat) (b : Nat × Nat) (s : State) : State :=
  if s.armed b.1 && !(s.span b.2).trace.triggered then
    s.modSpan b.2 (Span.triggerPoint s.timebase s.tickNumber b.1 b.2 cause firedAt)
  else s

theorem Span.trace_deck (now tick l p type : Nat) (arg : List Byte) (x : Span) :
    (x.trace_ now tick l p type arg).deck = x.deck := by
  have hinc (off n : Nat) (x : Span) : (x.inc off n).deck = x.deck := by
    unfold Span.inc
    split
    · rfl
    · rfl
  unfold Span.trace_
  dsimp only
  split
  · rfl
  · exact hinc _ _ _

theorem Span.triggerPoint_marks (now tick l p cause firedAt : Nat) (x : Span) :
    let y := x.triggerPoint now tick l p cause firedAt
    y.trace.triggered = true ∧ y.trace.postLeft = some x.trace.post ∧ y.seq = x.seq ∧ y.deck = x.deck := by
  intro y
  exact ⟨rfl, rfl, Span.trace_seq _ _ _ _ _ _ _, Span.trace_deck _ _ _ _ _ _ _⟩

theorem exec_triggerPoint_none {t : Nat} (h : s.obs.trigger = none) : exec (.triggerPoint t) s = .next (s.at t) := by
  have hat : (s.at t).obs.trigger = none := h
  show execTriggerPoint t s = _
  unfold execTriggerPoint
  dsimp only
  rw [hat]

theorem exec_triggerPoint {t l p : Nat} {e : Nat × Nat} (h : s.obs.trigger = some e) (hbinding : s.binding = [(l, p)]) :
    exec (.triggerPoint t) s
      = .next (State.triggerSpan e.1 e.2 (l, p) { s.at t with obs := { s.obs with trigger := none } }) := by
  have hat : (s.at t).obs.trigger = some e := h
  have hbat : (s.at t).binding = [(l, p)] := hbinding
  show execTriggerPoint t s = _
  unfold execTriggerPoint
  dsimp only
  rw [hat]
  dsimp only
  rw [hbat]
  rfl

theorem State.drainTrace_stopped (h : s.drainOne = s) (n : Nat) : s.drainTrace n = s := by
  induction n with
  | zero => rfl
  | succ n ih =>
    show State.drainTrace n s.drainOne = s
    rw [h, ih]

theorem State.drainOne_stopped (h : s.regb 0x0A0020 31 = false ∨ s.ringFull = true ∨ s.portOpen (s.regf 0x0A0020 29 2) = false) :
    s.drainOne = s := by
  refine if_pos ?_
  rcases h with h | h | h
  · rw [h]
    rfl
  · rw [h, Bool.or_true, Bool.true_or]
  · rw [h, Bool.not_false, Bool.or_true]

theorem State.drainOne_drains {turn p i : Nat} {win : Bool} {r : TraceRec} (hon : s.regb 0x0A0020 31 = true)
    (hroom : s.ringFull = false) (hopen : s.portOpen (s.regf 0x0A0020 29 2) = true)
    (hnext : s.nextRecord = some (turn, p, i, win)) (hr : (s.span p).trace.records[i]? = some r) :
    let tail := s.obs.tail.toNat
    let z := s.dma (s.regf 0x0A0020 29 2)
      (4096 * (s.reg 0x0A0024 / 4096) + 2 ^ 32 * s.reg 0x0A0028 + 32 * (tail % s.ringSize?))
      (natToBytes 32 (r.bits.toNat + (fieldAt 15 1 (if tail / s.ringSize? % 2 = 0 then 1 else 0) + fieldAt 8 1 (bit r.win))))
    let v := z.modSpan p (fun x => { x with trace := { x.trace with records := x.trace.records.eraseIdx i } })
    s.drainOne = { v with obs := { v.obs with tail := v.obs.tail + 1, nextSpan := if win then v.obs.nextSpan else turn + 1 } } := by
  unfold State.drainOne
  dsimp only
  rw [hon, hroom, hopen, hnext]
  dsimp only
  rw [hr]
  rfl

/-- What the device sends to an open port, besides what it counts. -/
theorem State.dma_open {port : Nat} (h : s.portOpen port = true) (addr : Nat) (bytes : List Byte) : ∃ c,
    s.dma port addr bytes = { s with counters := c, out := s.out ++ [.dma port addr bytes] } := by
  obtain ⟨c, hc⟩ := State.incBytes_counters (0xA0200 + 8 * port) bytes.length s
  refine ⟨c, (if_pos h).trans ?_⟩
  rw [hc]
  rfl

theorem State.dma_frame (port addr : Nat) (bytes : List Byte) (s : State) : ∃ c o,
    s.dma port addr bytes = { s with counters := c, out := o } := by
  by_cases h : s.portOpen port = true
  · obtain ⟨c, hc⟩ := State.dma_open h addr bytes
    exact ⟨c, _, hc⟩
  · exact ⟨_, _, if_neg h⟩

end

/-- PHASE and WINDOW of a drained record (R559). -/
theorem drainFlags (a : Prop) [Decidable a] (b : Bool) : fieldAt 15 1 (if a then 1 else 0) + fieldAt 8 1 (bit b)
    = (if a then 2 ^ 15 else 0) + (if b then 2 ^ 8 else 0) := by
  by_cases ha : a
  · rw [if_pos ha, if_pos ha]
    cases b <;> rfl
  · rw [if_neg ha, if_neg ha]
    cases b <;> rfl

/-- R559: the next record goes to slot TAIL and leaves its buffer. -/
theorem State.drainOne_spec {s : State} {turn p i : Nat} {win : Bool} {r : TraceRec} (hon : s.regb 0x0A0020 31 = true)
    (hroom : s.ringFull = false) (hopen : s.portOpen (s.regf 0x0A0020 29 2) = true)
    (hnext : s.nextRecord = some (turn, p, i, win)) (hr : (s.span p).trace.records[i]? = some r) :
    s.drainOne.obs.tail = s.obs.tail + 1 ∧ (∀ k, k ≠ p → s.drainOne.span k = s.span k)
    ∧ s.drainOne.span p = { s.span p with trace := { (s.span p).trace with records := (s.span p).trace.records.eraseIdx i } }
    ∧ s.drainOne.out = s.out ++ [.dma (s.regf 0x0A0020 29 2)
      (4096 * (s.reg 0x0A0024 / 4096) + 2 ^ 32 * s.reg 0x0A0028 + 32 * (s.obs.tail.toNat % s.ringSize?))
      (natToBytes 32 (r.bits.toNat + ((if s.obs.tail.toNat / s.ringSize? % 2 = 0 then 2 ^ 15 else 0)
        + (if r.win then 2 ^ 8 else 0))))] := by
  have hdrain := State.drainOne_drains hon hroom hopen hnext hr
  dsimp only at hdrain
  rw [drainFlags] at hdrain
  obtain ⟨c, hdma⟩ := State.dma_open hopen
    (4096 * (s.reg 0x0A0024 / 4096) + 2 ^ 32 * s.reg 0x0A0028 + 32 * (s.obs.tail.toNat % s.ringSize?))
    (natToBytes 32 (r.bits.toNat + ((if s.obs.tail.toNat / s.ringSize? % 2 = 0 then 2 ^ 15 else 0)
      + (if r.win then 2 ^ 8 else 0))))
  rw [hdma] at hdrain
  rw [hdrain]
  exact ⟨rfl, fun k hk => kget_kset_other _ _ hk _, kget_kset_same _ _ _ _, rfl⟩

/-- A snapshot has been written, its header last. -/
def State.writtenOut (s : State) : State :=
  let z := (s.dma (s.regf 0x0A0040 27 2) (s.snapAddr + 64) (s.obs.snapData.drop 64)).dma (s.regf 0x0A0040 27 2) s.snapAddr
    (s.obs.snapData.take 64)
  { z with obs := { z.obs with snapBusy := false, snapData := [], snapCount := z.obs.snapCount + 1 } }

theorem State.writtenOut_frame (s : State) : ∃ c o, s.writtenOut = { s with
      counters := c, out := o
      obs := { s.obs with snapBusy := false, snapData := [], snapCount := s.obs.snapCount + 1 } }
    ∧ (s.portOpen (s.regf 0x0A0040 27 2) = true → o = s.out ++ [
      .dma (s.regf 0x0A0040 27 2) (s.snapAddr + 64) (s.obs.snapData.drop 64),
      .dma (s.regf 0x0A0040 27 2) s.snapAddr (s.obs.snapData.take 64)]) := by
  unfold State.writtenOut
  by_cases hopen : s.portOpen (s.regf 0x0A0040 27 2) = true
  · obtain ⟨c, hc⟩ := State.dma_open hopen (s.snapAddr + 64) (s.obs.snapData.drop 64)
    have hopen' : State.portOpen { s with counters := c, out := s.out ++ [.dma (s.regf 0x0A0040 27 2) (s.snapAddr + 64)
        (s.obs.snapData.drop 64)] } (s.regf 0x0A0040 27 2) = true := hopen
    obtain ⟨c2, hc2⟩ := State.dma_open hopen' s.snapAddr (s.obs.snapData.take 64)
    rw [hc, hc2]
    exact ⟨_, _, rfl, fun _ => List.append_assoc _ _ _⟩
  · obtain ⟨c, o, hc⟩ := State.dma_frame (s.regf 0x0A0040 27 2) (s.snapAddr + 64) (s.obs.snapData.drop 64) s
    obtain ⟨c2, o2, hc2⟩ := State.dma_frame (s.regf 0x0A0040 27 2) s.snapAddr (s.obs.snapData.take 64)
      { s with counters := c, out := o }
    rw [hc, hc2]
    exact ⟨_, _, rfl, fun h => absurd h hopen⟩

/-! ### The statement -/

/-- Settles O51: a close by its scope, a sample by the counter that it names, a VF's by its window, and each write and event of the
trace buffers by its conditions. That a sample of the ns of a close gives what the close left is the model's choice of log entry
18; that every write of SPN_TRACE_CTRL writes ARM and that a FIRE while FIRED is 1 does not fire are those of entry 19. -/
theorem countersAndTracesAreObserved : Obligations.CountersAndTracesAreObserved := by
  unfold Obligations.CountersAndTracesAreObserved
  refine ⟨⟨fun t who value s y hreached => ?_, fun s => ⟨State.resample_frame s, fun k x hx => ?_⟩,
    fun t port vf value s p hopen hp => ?_⟩, fun t who l value s y hreached => ?_, fun t s => ⟨exec_triggerPoint_none,
    fun l p e htrigger hbinding => ?_⟩, fun t n s h => ?_, fun t turn p i win r s hon hroom hopen hnext hr => ?_, fun t s => ⟨fun h => ?_,
    fun hbusy => ?_⟩⟩
  · have hclose : exec (.obsClose t who value) s = .next (y.writeClose value) := congrArg Host.Outcome.next (hreached.asMgmt _)
    have hsample : exec (.obsSample t who value) s = .next (y.writeSample who value) := congrArg Host.Outcome.next (hreached.asMgmt _)
    intro z c closed obs
    refine ⟨fun hscope hpseudo => ?_, fun hscope hpseudo => ?_, fun p hscope hpseudo hp => ?_, ?_⟩
    · rw [hclose, State.writeClose_none hpseudo hscope]
    · obtain ⟨a, b, hframe⟩ := State.closedOnce_frame
        (z.closeWhere (fun o => decide (o / 0x10000 = bitsAt value.toNat 24 4)) y.cycEvents)
      rw [State.writeClose_block hpseudo hscope, hframe] at hclose
      refine ⟨_, hclose, rfl, fun o hdev hblock => ?_, fun o hnot => ?_⟩
      · refine (State.closeWhere_counter _ _ z).trans (if_pos ⟨hdev, decide_eq_true hblock⟩)
      · refine (State.closeWhere_counter _ _ z).trans (if_neg ?_)
        rw [decide_eq_true_eq]
        rintro ⟨hdev, hblock⟩
        rcases hnot with h | h
        · exact Bool.false_ne_true (h.symm.trans hdev)
        · exact h hblock
    · obtain ⟨a, b, hframe⟩ := State.closedOnce_frame (z.modSpan p (Span.closeAll z.time (y.cycSpanEvents p)))
      rw [State.writeClose_span hpseudo hscope hp, hframe] at hclose
      have hspan : (z.modSpan p (Span.closeAll z.time (y.cycSpanEvents p))).span p
          = (z.span p).closeAll z.time (y.cycSpanEvents p) := kget_kset_same _ _ _ _
      refine ⟨_, hclose, rfl, fun k hk => kget_kset_other _ _ hk _, ?_, fun o ho => ?_, fun o ho => ?_⟩
      · exact Span.closeAll_frame hspan
      · show kget Counter.zero ((z.modSpan p (Span.closeAll z.time (y.cycSpanEvents p))).span p).counters o = _
        rw [hspan, Span.closeAll_counter, if_pos ho]
        rfl
      · show kget Counter.zero ((z.modSpan p (Span.closeAll z.time (y.cycSpanEvents p))).span p).counters o = _
        rw [hspan, Span.closeAll_counter, ho, if_neg Bool.false_ne_true]
    · intro a
      refine ⟨_, _, hsample, rfl, rfl, ?_, kget_kset_same _ _ _ _, fun k hk => kget_kset_other _ _ hk _, fun hnone => ?_,
        fun k hk => ?_⟩
      · rfl
      · show (z.sampleOf (z.counterAt a) _).1 = 0 ∧ (z.sampleOf (z.counterAt a) _).2 = 0
        rw [hnone]
        exact ⟨rfl, rfl⟩
      · obtain ⟨hvalid, hboundary, hcloses⟩ := Counter.sampled_flags z.time (value.getLsbD 31) k
        have hvalue := Counter.sampled_value z.time (value.getLsbD 31) k
        show (z.sampleOf (z.counterAt a) _).2.getLsbD 31 = true ∧ (z.sampleOf (z.counterAt a) _).2.toNat % 2 ^ 16 = _
          ∧ (_ → (z.sampleOf (z.counterAt a) _).1 = _ ∧ (z.sampleOf (z.counterAt a) _).2.getLsbD 30 = true)
          ∧ (_ → (z.sampleOf (z.counterAt a) _).1 = _ ∧ (z.sampleOf (z.counterAt a) _).2.getLsbD 30 = false)
        rw [hk]
        refine ⟨hvalid, hcloses, fun h => ⟨hvalue.trans (if_pos (.inl h)), hboundary.trans (decide_eq_true h)⟩,
          fun h => ⟨hvalue.trans (if_congr (or_iff_right h) rfl rfl), hboundary.trans (decide_eq_false h)⟩⟩
  · rw [State.resample_samples, kfind?_map_values (fun _ => s.sampledAgain), hx]
    rfl
  · intro y w
    obtain ⟨c, hy⟩ : ∃ c, y = { s.at t with counters := c } := State.incBytes_counters _ _ _
    have hobs : y.obs = s.obs := by rw [hy]; rfl
    have hticking : y.ticking = s.ticking := by rw [hy]; rfl
    have htime : y.time = max s.time t := by rw [hy]; rfl
    have hclose : exec (.pctrClose t port vf value) s = .next (y.writePartClose value p) :=
      congrArg Host.Outcome.next (State.vfWrite_bound hopen hp _)
    have hsample : exec (.pctrSample t port vf value) s = .next (y.writePartSample port.val vf.toNat value p) :=
      congrArg Host.Outcome.next (State.vfWrite_bound hopen hp _)
    refine ⟨fun h => ?_, fun h => ?_, ?_⟩
    · rw [hclose]
      refine congrArg Host.Outcome.next (if_neg ?_)
      rw [h]
      exact Bool.false_ne_true
    · have hact : y.writePartClose value p = (y.closePart p).resample := if_pos h
      obtain ⟨a, b, hframe⟩ := State.resample_frame (y.closePart p)
      rw [hact, hframe, State.closePart_frame, hobs, hticking, htime] at hclose
      refine ⟨_, hclose, rfl, fun k hk => kget_kset_other _ _ hk _, fun hrun => ?_, fun hrun => ?_⟩
      · refine (kget_kset_same _ _ _ _).trans (if_pos hrun)
      · refine (kget_kset_same _ _ _ _).trans (if_neg ?_)
        rw [hrun]
        exact Bool.false_ne_true
    · refine ⟨_, _, hsample, rfl, kget_kset_same _ _ _ _, fun k hk => ?_, ?_, ?_⟩
      · rw [← hobs]
        exact kget_kset_other _ _ hk _
      · show y.obs.windows = _
        rw [hobs]
      · intro k
        have hk : y.windowCtr p (bitsAt value.toNat 2 4) = k := by
          unfold State.windowCtr
          rw [hobs]
        have hvalue := Counter.sampled_value (max s.time t) (value.getLsbD 31) k
        show (_ → (Counter.sampled y.time _ (y.windowCtr p _)).1 = _) ∧ (_ → (Counter.sampled y.time _ (y.windowCtr p _)).1 = _)
        rw [hk, htime]
        exact ⟨fun h => hvalue.trans (if_congr (or_iff_right h) rfl rfl), fun h => hvalue.trans (if_pos (.inl h))⟩
  · obtain ⟨cs, hy⟩ := hreached.frame
    have hregb (o b : Nat) : y.regb o b = s.regb o b := State.regb_of_regs hreached.regs o b
    have harm : exec (.traceArm t who l value) s = .next (y.writeTraceCtrl l.val value) := congrArg Host.Outcome.next (hreached.asMgmt _)
    have htrig : exec (.triggerFire t who value) s = .next (y.writeTrig value) := congrArg Host.Outcome.next (hreached.asMgmt _)
    have hsnap : exec (.snapshotTake t who value) s = .next (y.writeSnapCtrl value) := congrArg Host.Outcome.next (hreached.asMgmt _)
    refine ⟨fun h => ?_, fun p hp => ?_, fun hfired => ?_, fun hfired hfire hdump => ?_, fun hfired hfire => ?_, ?_⟩
    · rw [harm]
      unfold State.writeTraceCtrl
      rw [hreached.phys?, h]
    · have hact : y.writeTraceCtrl l.val value = y.modSpan p (fun x => { x with trace := x.trace.write value }) := by
        unfold State.writeTraceCtrl
        rw [hreached.phys?, hp]
      rw [hact] at harm
      refine ⟨_, harm, rfl, fun k hk => (kget_kset_other _ _ hk _).trans (hreached.span k), (kget_kset_same _ _ _ _).trans ?_⟩
      rw [hreached.span]
      dsimp only
      rw [Trace.write_eq]
    · have hquiet : (value.getLsbD 31 && !y.regb 0x0A0034 30) = false := by
        rw [hregb, hfired, Bool.not_true, Bool.and_false]
      rw [State.writeTrig_quiet hquiet, hregb, hfired, Bool.true_and] at htrig
      refine ⟨_, htrig, rfl, ?_⟩
      unfold State.regb
      rw [State.setReg_regw_same]
      exact (trigWord_bits value _).1
    · obtain ⟨u, hu, hframe, hbit⟩ := State.writeTrig_fires ((hregb _ _).trans hfired) hfire hdump
      rw [hu] at htrig
      rw [hreached.obs] at hframe
      exact ⟨u, htrig, hframe, hbit⟩
    · have hquiet : (value.getLsbD 31 && !y.regb 0x0A0034 30) = false := by rw [hfire, Bool.false_and]
      rw [State.writeTrig_quiet hquiet, hregb, hfired, Bool.false_and] at htrig
      refine ⟨_, htrig, rfl, ?_⟩
      unfold State.regb
      rw [State.setReg_regw_same]
      exact (trigWord_bits value _).1
    · intro z
      refine ⟨fun h => ?_, ?_⟩
      · rw [hsnap]
        refine congrArg Host.Outcome.next (if_neg ?_)
        rw [h]
        exact Bool.false_ne_true
      · intro v
        have hact (h : value.getLsbD 31 = true) : y.writeSnapCtrl value = v.takeSnapshot 0 := if_pos h
        refine ⟨fun h hfree haddr => ?_, fun h hno => ?_⟩
        · rw [hsnap, hact h]
          refine congrArg Host.Outcome.next (if_neg ?_)
          rw [hfree]
          rintro (hbusy | haddr')
          · exact Bool.false_ne_true hbusy
          · exact haddr haddr'
        · rw [hact h] at hsnap
          refine ⟨_, hsnap.trans (congrArg Host.Outcome.next (if_pos hno)), ?_⟩
          rw [BitVec.toNat_ofNat]
          omega
  · rw [exec_triggerPoint htrigger hbinding]
    generalize hz : ({ s.at t with obs := { s.obs with trigger := none } } : State) = z
    have hspan : z.span p = s.span p := by rw [← hz]; rfl
    have harmed : z.armed l = s.armed l := by rw [← hz]; rfl
    by_cases hfires : (z.armed l && !(z.span p).trace.triggered) = true
    · have hact : State.triggerSpan e.1 e.2 (l, p) z = z.modSpan p (Span.triggerPoint z.timebase z.tickNumber l p e.2 e.1) :=
        if_pos hfires
      have hmarked : (z.modSpan p (Span.triggerPoint z.timebase z.tickNumber l p e.2 e.1)).span p
          = (s.span p).triggerPoint z.timebase z.tickNumber l p e.2 e.1 := (kget_kset_same _ _ _ _).trans (by rw [hspan])
      obtain ⟨htriggered, hpost, hseq, hdeck⟩ :=
        Span.triggerPoint_marks z.timebase z.tickNumber l p e.2 e.1 (s.span p)
      rw [hact]
      refine ⟨_, rfl, by rw [← hz]; rfl, fun _ _ => ?_, fun hno => ?_⟩
      · rw [hmarked]
        exact ⟨htriggered, hpost, hseq, hdeck⟩
      · rw [harmed, hspan, Bool.and_eq_true, Bool.not_eq_true'] at hfires
        obtain ⟨harm, hfresh⟩ := hfires
        rcases hno with h | h
        · exact absurd (h.symm.trans harm) Bool.false_ne_true
        · exact absurd (hfresh.symm.trans h) Bool.false_ne_true
    · have hact : State.triggerSpan e.1 e.2 (l, p) z = z := if_neg hfires
      rw [hact]
      refine ⟨_, rfl, by rw [← hz], fun harm hfresh => absurd ?_ hfires, fun _ => by rw [← hz]; rfl⟩
      rw [harmed, hspan, harm, hfresh]
      rfl
  · have hat : (s.at t).regb 0x0A0020 31 = false ∨ (s.at t).ringFull = true ∨ (s.at t).portOpen ((s.at t).regf 0x0A0020 29 2) = false := h
    exact congrArg Host.Outcome.next (State.drainTrace_stopped (State.drainOne_stopped hat) n)
  · obtain ⟨htail, hothers, hspan, hout⟩ := State.drainOne_spec (s := s.at t) hon hroom hopen hnext hr
    exact ⟨_, rfl, htail, hothers, hspan, hout⟩
  · refine if_pos ?_
    rw [show (s.at t).obs.snapBusy = false from h]
    rfl
  · have hexec : exec (.snapshotWritten t) s = .next (s.at t).writtenOut := by
      refine if_neg ?_
      rw [show (s.at t).obs.snapBusy = true from hbusy]
      exact Bool.false_ne_true
    obtain ⟨c, o, hframe, hsent⟩ := State.writtenOut_frame (s.at t)
    rw [hframe] at hexec
    exact ⟨_, hexec, rfl, hsent⟩

end Sys2Proof.Machine
end

section
/-! PROOFS. The root of trust: quotes, reseals, fuses, operator keys and debug reads (spec/19_security.md, R587 to R604). -/

namespace Sys2Proof.Machine
open Sys2Proof

/-! ### What an action of SEC_CTRL starts from (R604) -/

section
variable {t : Nat} {who : Requester} {value : Word} {s y : State} (h : Reached t who s y)
include h

theorem Reached.secAction (act : State → State) : s.secAction t who value act = act (y.secFields value) := h.asMgmt _

/-- The state in which an action of SEC_CTRL acts, but for its registers, is the one before it. -/
theorem Reached.secFields_frame : ∃ c r d, y.secFields value
    = { s.at t with counters := c, sec := { s.sec with root := r, done := d } } ∧ r = bitsAt value.toNat 22 2 := by
  obtain ⟨c, rfl⟩ := h.frame
  exact ⟨c, _, _, rfl, rfl⟩

end

/-! ### Quotes (R596, R597) -/

theorem quoteTime_le (n : Nat) : quoteTime n ≤ 20000000 := by
  unfold quoteTime
  omega

theorem State.secDma_frame (who : Requester) (bytes : List Byte) (s : State) : ∃ c o,
    s.secDma who bytes = { s with counters := c, out := o } := by
  cases who with
  | pf p => exact State.dma_frame _ _ _ s
  | vf p n => exact ⟨_, _, rfl⟩
  | sideband => exact ⟨_, _, rfl⟩

section
variable {z : State}

/-- R597: a block that is used up, or none since the start, makes the next index the first of a new block. -/
theorem State.takeIndex_newBlock (h : ∀ e, z.sec.lmsTop = some e → e ≤ z.sec.lmsNext) : z.takeIndex
    = if z.reservedTop + 1024 > 2 ^ 40 then none
      else some (z.reservedTop, { z with
        flash := { z.flash with reservedTopA := z.reservedTop + 1024, reservedTopB := z.reservedTop + 1024 }
        sec := { z.sec with lmsNext := z.reservedTop + 1, lmsTop := some (z.reservedTop + 1024) } }) := by
  unfold State.takeIndex
  cases htop : z.sec.lmsTop with
  | none =>
    dsimp only
    rw [Bool.not_true, if_neg Bool.false_ne_true]
  | some e =>
    dsimp only
    rw [decide_eq_true (h e htop), Bool.not_true, if_neg Bool.false_ne_true]

theorem State.takeIndex_sameBlock {b : Nat} (htop : z.sec.lmsTop = some b) (h : z.sec.lmsNext < b) :
    z.takeIndex = some (z.sec.lmsNext, { z with sec := { z.sec with lmsNext := z.sec.lmsNext + 1 } }) := by
  unfold State.takeIndex
  rw [htop]
  dsimp only
  rw [decide_eq_false (Nat.not_le.mpr h)]
  rfl

variable {who : Requester}

theorem State.hostQuote_busy (h : z.secBusy = true) : z.hostQuote who = z.secDone 3 := if_pos h

variable (hfree : z.secBusy = false)
include hfree

theorem State.hostQuote_usedUp (h : z.takeIndex = none) : z.hostQuote who = z.secDone 2 := by
  unfold State.hostQuote State.makeQuote
  rw [hfree, h]
  rfl

/-- A quote over an index is written within 20 ms. -/
theorem State.hostQuote_writes {i : Nat} {v : State} (h : z.takeIndex = some (i, v)) : ∃ c o e, z.hostQuote who = { v with
      fresh := v.fresh + 1, counters := c, out := o, obs := (v.secDone 0).obs
      sec := { v.sec with done := true, result := 0, busyUntil := some e } }
    ∧ v.time ≤ e ∧ e ≤ v.time + 20000000 := by
  unfold State.hostQuote State.makeQuote
  rw [hfree, h, if_neg Bool.false_ne_true]
  dsimp only
  obtain ⟨c, o, hdma⟩ := State.secDma_frame who (v.quoteBody z.nonce i
    ++ natToBytes 4 (fieldAt 24 8 0x20 + Config.deviceKey.toNat) ++ natToBytes 4 (fieldAt 24 8 0x20 + Config.deviceKey.toNat)
    ++ byteSlice (Config.deviceEcdsa (sha384 (v.quoteBody z.nonce i))) 0 96 ++ natToBytes 4 3604
    ++ byteSlice (Config.deviceHss i (sha384 (v.quoteBody z.nonce i))) 0 3604) v.draw.2
  rw [hdma]
  exact ⟨c, o, v.time + quoteTime v.fresh, rfl, Nat.le_add_right _ _, Nat.add_le_add_left (quoteTime_le _) _⟩

end

/-! ### Reseals and certificates (R595, R600) -/

/-- R600: a reseal seals the module at once and extends slot 4. -/
theorem State.reseal_spec (z : State) : let u := z.reseal
    u = { z with sec := u.sec, obs := (z.secDone 0).obs } ∧ u.sec.isOpen = false ∧ u.sec.done = true ∧ u.sec.result = 0
      ∧ u.sec.logCount = z.sec.logCount + 1 ∧ (∀ i, i ≠ 4 → u.slot i = z.slot i)
      ∧ u.slot 4 = sha384 (digestBytes (z.slot 4) ++ digestBytes (sha384 (Config.sealEvent false
          ++ natToBytes 4 z.flash.unsealCount.toNat)) ++ natToBytes 4 4) :=
  ⟨rfl, rfl, rfl, rfl, rfl, fun _ hi => State.extend_slot_other hi _ { z with sec := { z.sec with isOpen := false } },
    State.extend_slot 4 _ { z with sec := { z.sec with isOpen := false } }⟩

/-- What ACTION 5 does: it writes out the certificates and the measurement log. -/
def State.certify (who : Requester) (z : State) : State := (z.secDma who (z.flash.certs ++ z.sec.logBytes)).secDone 0

theorem State.certify_spec (who : Requester) (z : State) : ∃ c o, z.certify who = { z with
      counters := c, out := o, obs := (z.secDone 0).obs
      sec := { z.sec with done := true, result := 0 } }
    ∧ ∀ p, who = .pf p → o = (z.dma p.val z.secAddr (z.flash.certs ++ z.sec.logBytes)).out := by
  obtain ⟨c, o, hdma⟩ := State.secDma_frame who (z.flash.certs ++ z.sec.logBytes) z
  refine ⟨c, o, ?_, ?_⟩
  · unfold State.certify
    rw [hdma]
    rfl
  · rintro p rfl
    exact (congrArg State.out hdma).symm

/-! ### Fuses and keys (R587, R589, R592) -/

section
variable {z : State}

theorem State.raiseSvn_raises (h : z.fuses.minSvn < min 63 z.flash.firmware.svn) :
    z.raiseSvn = { z with fuses := { z.fuses with minSvn := min 63 z.flash.firmware.svn } }.secDone 0 := if_neg (Nat.not_le.mpr h)

theorem State.raiseSvn_refused (h : min 63 z.flash.firmware.svn ≤ z.fuses.minSvn) : z.raiseSvn = z.secDone 3 := if_pos h

theorem State.revokeRoot_refused (h : z.fuses.revoked ||| BitVec.ofNat 4 (2 ^ z.sec.root) = 0xF#4
    ∨ z.sec.root = z.flash.firmware.rootPair) : z.revokeRoot = z.secDone 3 := if_pos h

theorem State.revokeRoot_revokes (hmask : z.fuses.revoked ||| BitVec.ofNat 4 (2 ^ z.sec.root) ≠ 0xF#4)
    (hpair : z.sec.root ≠ z.flash.firmware.rootPair) : z.revokeRoot = (State.measureKeys { z with
      fuses := { z.fuses with revoked := z.fuses.revoked ||| BitVec.ofNat 4 (2 ^ z.sec.root) } }).secDone 0 :=
  if_neg (not_or.mpr ⟨hmask, hpair⟩)

/-- R594: an event that measures the keys and ends its action moves slot 1 alone. -/
theorem State.measureKeys_done (z : State) : let u := z.measureKeys.secDone 0
    (∃ x, u = { z with sec := x, obs := (z.secDone 0).obs }) ∧ u.sec.result = 0 ∧ u.sec.done = true
      ∧ u.sec.logCount = z.sec.logCount + 1 ∧ ∀ i, i ≠ 1 → u.slot i = z.slot i := by
  obtain ⟨d, hd⟩ := State.measureKeys_extend z
  rw [hd]
  exact ⟨⟨_, rfl⟩, rfl, rfl, rfl, fun i hi => State.extend_slot_other hi d z⟩

variable {record : Option (List Byte)}

theorem State.enrol_sealed (h : z.sec.isOpen = false) : z.enrol record = z.secDone 3 := by
  refine if_pos ?_
  rw [h]
  rfl

variable (hopen : z.sec.isOpen = true)
include hopen

theorem State.enrol_unfetched : z.enrol none = z.secDone 1 := by
  unfold State.enrol
  rw [hopen]
  rfl

/-- The pair of a record that may not be enrolled. -/
def State.enrolBarred (k : KeyPair) (z : State) : Prop :=
  keyClass k.id ≠ 0x10 ∨ (∃ q ∈ z.flash.operators, q.id = k.id) ∨ 8 ≤ z.flash.operators.length

theorem State.enrol_barred {bs : List Byte} (hlen : bs.length = 2048) (h : z.enrolBarred (pairOfRecord bs)) :
    z.enrol (some bs) = z.secDone 3 := by
  unfold State.enrol
  rw [hopen]
  dsimp only
  rw [if_neg (by decide), if_neg (not_not_intro hlen)]
  refine if_pos ?_
  unfold State.enrolBarred at h
  simpa using h

theorem State.enrol_enrols {bs : List Byte} (hlen : bs.length = 2048) (h : ¬z.enrolBarred (pairOfRecord bs)) : z.enrol (some bs)
    = (State.measureKeys { z with flash := { z.flash with operators := z.flash.operators ++ [pairOfRecord bs] } }).secDone 0 := by
  unfold State.enrol
  rw [hopen]
  dsimp only
  rw [if_neg (by decide), if_neg (not_not_intro hlen)]
  refine if_neg ?_
  unfold State.enrolBarred at h
  simpa using h

omit hopen in
theorem State.removeKey_refused (h : z.sec.isOpen = false ∨ ∀ q ∈ z.flash.operators, q.id ≠ z.regw 0x0C0008) :
    z.removeKey = z.secDone 3 := by
  refine if_pos ?_
  rcases h with h | h
  · rw [h]
    rfl
  · simp only [Bool.or_eq_true, Bool.not_eq_true', List.any_eq_false, decide_eq_true_eq]
    exact .inr h

theorem State.removeKey_removes (h : ∃ q ∈ z.flash.operators, q.id = z.regw 0x0C0008) : z.removeKey
    = (State.measureKeys { z with flash := { z.flash with
        operators := z.flash.operators.filter (fun k => decide (k.id ≠ z.regw 0x0C0008)) } }).secDone 0 := by
  refine if_neg ?_
  rw [hopen]
  simpa using h

end

/-! ### Debug reads (R598, R601) -/

section
variable {value : Word} {y : State}

/-- Whether the unit that a debug read names may be read, and its granule stands. -/
def State.dbgStands (value : Word) (w : State) : Prop :=
  value.toNat + 2 ^ 32 * w.regf 0x0C0248 0 8 < dbgRange (w.regf 0x0C0240 28 4)
    ∧ (2 < w.regf 0x0C0240 28 4 ∨ (w.regf 0x0C0240 20 8 < 132 ∧ (w.mapEntry (w.regf 0x0C0240 20 8)).status ≠ .fenced
      ∧ (w.mapEntry (w.regf 0x0C0240 20 8)).status ≠ .fusedOff))

/-- What a debug read does once what waits has settled. -/
def State.debugSettled (value : Word) (w : State) : State :=
  let z := w.setReg 0x0C0244 value
  let i := value.toNat + 2 ^ 32 * w.regf 0x0C0248 0 8
  let unit := w.regf 0x0C0240 28 4
  let p := w.regf 0x0C0240 20 8
  let spanOk := decide (2 < unit) || decide (p < 132 ∧ (w.mapEntry p).status ≠ .fenced ∧ (w.mapEntry p).status ≠ .fusedOff)
  if !w.sec.isOpen then { z with sec := { w.sec with dbgResult := 1 } }
  else if dbgRange unit ≤ i || !spanOk then { z with sec := { w.sec with dbgResult := 2 } }
  else { (z.dbgGranule unit p i).2 with
    sec := { (z.dbgGranule unit p i).2.sec with debugUsed := true, dbgResult := 0, dbgData := (z.dbgGranule unit p i).1 } }

theorem State.debugRead_settled (value : Word) (y : State) : y.debugRead value = y.settled.debugSettled value := by
  have hvalue : (y.settled.setReg 0x0C0244 value).reg 0x0C0244 = value.toNat := by
    unfold State.reg
    rw [State.setReg_regw_same]
  have hother {o : Nat} (h : o ≠ 0x0C0244) (lo n : Nat) : (y.settled.setReg 0x0C0244 value).regf o lo n = y.settled.regf o lo n := by
    unfold State.regf State.reg
    rw [State.setReg_regw_other h]
  unfold State.debugRead State.debugSettled
  dsimp only
  rw [hvalue, hother (by decide), hother (by decide), hother (by decide)]
  rfl

section
variable {w : State}

theorem State.debugSettled_sealed (h : w.sec.isOpen = false) : w.debugSettled value
    = { w.setReg 0x0C0244 value with sec := { w.sec with dbgResult := 1 } } := by
  refine if_pos ?_
  rw [h]
  rfl

variable (hopen : w.sec.isOpen = true)
include hopen

theorem State.debugSettled_refused (h : dbgRange (w.regf 0x0C0240 28 4) ≤ value.toNat + 2 ^ 32 * w.regf 0x0C0248 0 8
      ∨ (w.regf 0x0C0240 28 4 ≤ 2 ∧ (132 ≤ w.regf 0x0C0240 20 8 ∨ (w.mapEntry (w.regf 0x0C0240 20 8)).status = .fenced))) :
    w.debugSettled value = { w.setReg 0x0C0244 value with sec := { w.sec with dbgResult := 2 } } := by
  unfold State.debugSettled
  dsimp only
  rw [hopen, if_neg (by decide)]
  refine if_pos ?_
  rw [Bool.or_eq_true, decide_eq_true_eq, Bool.not_eq_true', Bool.or_eq_false_iff, decide_eq_false_iff_not,
    decide_eq_false_iff_not]
  refine h.imp_right fun ⟨hunit, hspan⟩ => ⟨Nat.not_lt.mpr hunit, fun ⟨hin, hunfenced, _⟩ => ?_⟩
  rcases hspan with hout | hfenced
  · omega
  · exact hunfenced hfenced

theorem State.debugSettled_reads (h : w.dbgStands value) :
    let r := (w.setReg 0x0C0244 value).dbgGranule (w.regf 0x0C0240 28 4) (w.regf 0x0C0240 20 8)
      (value.toNat + 2 ^ 32 * w.regf 0x0C0248 0 8)
    w.debugSettled value = { r.2 with sec := { r.2.sec with debugUsed := true, dbgResult := 0, dbgData := r.1 } } := by
  obtain ⟨hrange, hspan⟩ := h
  intro r
  unfold State.debugSettled
  dsimp only
  rw [hopen, if_neg (by decide)]
  refine if_neg ?_
  rw [Bool.or_eq_true, decide_eq_true_eq, Bool.not_eq_true', Bool.or_eq_false_iff, decide_eq_false_iff_not,
    decide_eq_false_iff_not]
  rintro (hout | ⟨hunit, hspan'⟩)
  · omega
  · rcases hspan with hbig | hgood
    · exact hunit hbig
    · exact hspan' hgood

end

/-- A granule in the range of its unit is of one of the five units. -/
theorem unit_of_dbgRange {unit i : Nat} (h : i < dbgRange unit) : unit ≤ 4 := by
  match unit with
  | 0 | 1 | 2 | 3 | 4 => decide
  | n + 5 => exact absurd h (Nat.not_lt_zero i)

/-- What a debug read moves: counters, free values and what lane groups remember. -/
structure DebugMoved (unit p : Nat) (z u : State) : Prop where
  frame : u = { z with mem := u.mem, spans := u.spans, counters := u.counters, fresh := u.fresh }
  memByte : ∀ a, u.memByte a = z.memByte a
  mem : unit ≠ 4 → u.mem = z.mem
  others : ∀ k, k ≠ p → u.span k = z.span k
  deck : (u.span p).deck = (z.span p).deck
  lines : (u.span p).lines = (z.span p).lines

theorem State.dbgGranule_moved {unit : Nat} (hunit : unit ≤ 4) (p i : Nat) (z : State) :
    DebugMoved unit p z (z.dbgGranule unit p i).2 := by
  have hsame (unit : Nat) : DebugMoved unit p z z := ⟨rfl, fun _ => rfl, fun _ => rfl, fun _ _ => rfl, rfl, rfl⟩
  match unit with
  | 0 =>
    obtain ⟨cs, hcs⟩ := (Span.readG_counted [i] (z.span p)).counted
    have hspan : (z.modSpan p (fun x => (x.readG [i]).2)).span p = { z.span p with counters := cs } :=
      (kget_kset_same _ _ _ _).trans hcs
    refine ⟨rfl, fun _ => rfl, fun _ => rfl, fun k hk => kget_kset_other _ _ hk _, ?_, ?_⟩
    · show ((z.modSpan p (fun x => (x.readG [i]).2)).span p).deck = _
      rw [hspan]
    · show ((z.modSpan p (fun x => (x.readG [i]).2)).span p).lines = _
      rw [hspan]
  | 1 | 2 | 3 => exact hsame _
  | 4 =>
    obtain ⟨-, -, v, hv, hfresh⟩ := State.readBytes_spec (addrs (32 * i) 32) z
    have hframe := hv.frame
    have hread : (z.dbgGranule 4 p i).2 = { v with fresh := (z.readBytes (addrs (32 * i) 32)).2.fresh } := hfresh
    rw [hread]
    refine ⟨?_, hv.memByte, fun h => absurd rfl h, fun k _ => ?_, ?_, ?_⟩
    · rw [hframe]
    · rw [hframe]
      rfl
    · rw [hframe]
      rfl
    · rw [hframe]
      rfl

/-- A granule of device memory that is a value reads as it stands. -/
theorem State.readGranule_bytes (i : Nat) {z : State} (hpoison : z.poisoned (32 * i) = false) (hdevice : inDevice (32 * i) = false) :
    (z.readBytes (addrs (32 * i) 32)).1 = (addrs (32 * i) 32).map z.memByte := by
  obtain ⟨hlen, hbytes, -⟩ := State.readBytes_spec (addrs (32 * i) 32) z
  have haddrs : (addrs (32 * i) 32).length = 32 := by simp [addrs]
  rw [haddrs] at hlen
  refine List.ext_getElem (by rw [hlen, List.length_map, haddrs]) (fun k hk _ => ?_)
  have hk32 : k < 32 := hlen ▸ hk
  have haddr : (addrs (32 * i) 32)[k]? = some (32 * i + k) := by
    unfold addrs
    rw [List.getElem?_map, List.getElem?_range hk32, Option.map_some]
  have hbyte := hbytes k _ haddr (by rwa [State.poisoned_granule z i hk32]) (by rwa [inDevice_granule i hk32])
  rw [List.getD_eq_getElem _ _ hk] at hbyte
  obtain ⟨_, hk⟩ := List.getElem?_eq_some_iff.mp haddr
  rw [hbyte, List.getElem_map, hk]

end

/-! ### The statement -/

/-- Settles O50: an action of SEC_CTRL by what refuses it, a quote by its block of indices, a debug read by the seal and the granule
that it names. The RESULTs of a quote while another is written and of an exhausted range are the model's choices of log entry 20,
the layout of measured bytes and of an enrolment record is that of entry 21, and that a debug read refuses numbers from 132 and sets
DEBUG_USED only when it completes that of entry 22. -/
theorem rootOfTrustCommandsAct : Obligations.RootOfTrustCommandsAct := by
  unfold Obligations.RootOfTrustCommandsAct
  refine ⟨fun t who value s y hreached => ?_, fun t who value s y hreached => ?_, fun t who value s y hreached => ?_, fun g x j hj => ?_⟩
  · intro z ends top fresh
    obtain ⟨c, r, d, hz, hr⟩ := hreached.secFields_frame (value := value)
    replace hz : z = _ := hz
    have hact (act : State → State) : s.secAction t who value act = act z := hreached.secAction act
    have hreseal : exec (.secReseal t who value) s = .next z.reseal := congrArg Host.Outcome.next (hact _)
    have hquote : exec (.secQuote t who value) s = .next (z.hostQuote who) := congrArg Host.Outcome.next (hact _)
    have hcertify : exec (.secCertificates t who value) s = .next (z.certify who) :=
      congrArg Host.Outcome.next (hact (State.certify who))
    clear_value z
    have hbusy : z.secBusy = (s.at t).secBusy := by rw [hz]; rfl
    have hflash : z.flash = s.flash := by rw [hz]; rfl
    have hslot (i : Nat) : z.slot i = s.slot i := by rw [hz]; rfl
    have hlmsTop : z.sec.lmsTop = s.sec.lmsTop := by rw [hz]
    have hlmsNext : z.sec.lmsNext = s.sec.lmsNext := by rw [hz]
    have hfresh : z.fresh = s.fresh := by rw [hz]; rfl
    have htime : z.time = max s.time t := by rw [hz]; rfl
    have htop : z.reservedTop = top := by
      unfold State.reservedTop
      rw [hflash]
    have hused (h : fresh) : ∀ e, z.sec.lmsTop = some e → e ≤ z.sec.lmsNext := by rwa [hlmsTop, hlmsNext]
    refine ⟨?_, fun h => ?_, fun h hnew hmany => ?_, fun h hnew hroom => ?_, fun b h hb hmore => ?_, ?_⟩
    · obtain ⟨hframe, hsealed, hdone, hresult, hcount, hothers, hfour⟩ := State.reseal_spec z
      refine ⟨_, hreseal, hframe, hsealed, hdone, hresult, hcount.trans ?_, fun i hi => (hothers i hi).trans (hslot i), ?_⟩
      · rw [hz]
      · rw [hfour, hslot, hflash]
    · exact hquote.trans (congrArg Host.Outcome.next (State.hostQuote_busy (hbusy.trans h)))
    · have hnone := State.takeIndex_newBlock (hused hnew)
      rw [htop, if_pos hmany] at hnone
      exact hquote.trans (congrArg Host.Outcome.next (State.hostQuote_usedUp (hbusy.trans h) hnone))
    · have htake := State.takeIndex_newBlock (hused hnew)
      rw [htop, if_neg (Nat.not_lt.mpr hroom)] at htake
      obtain ⟨c, o, e, hwrites, hlo, hhi⟩ := State.hostQuote_writes (who := who) (hbusy.trans h) htake
      rw [hwrites] at hquote
      rw [← htime, ← hfresh, ← hflash]
      exact ⟨_, e, hquote, rfl, rfl, rfl, hlo, hhi⟩
    · have htake := State.takeIndex_sameBlock (hlmsTop.trans hb) (hlmsNext.trans_lt hmore)
      obtain ⟨c, o, e, hwrites, hlo, hhi⟩ := State.hostQuote_writes (who := who) (hbusy.trans h) htake
      rw [hwrites] at hquote
      rw [← htime, ← hfresh, ← hlmsNext]
      exact ⟨_, e, hquote, rfl, rfl, hlo, hhi⟩
    · obtain ⟨c, o, hframe, hout⟩ := State.certify_spec who z
      have hlog : z.sec.logBytes = s.sec.logBytes := by rw [hz]; rfl
      rw [hframe] at hcertify
      rw [hflash, hlog] at hout
      exact ⟨_, hcertify, rfl, hout⟩
  · intro z ends root mask
    obtain ⟨c, r, d, hz, hr⟩ := hreached.secFields_frame (value := value)
    replace hz : z = _ := hz
    have hact (act : State → State) : s.secAction t who value act = act z := hreached.secAction act
    have hraise : exec (.secRaiseMinSvn t who value) s = .next z.raiseSvn := congrArg Host.Outcome.next (hact _)
    have hrevoke : exec (.secRevokeRoot t who value) s = .next z.revokeRoot := congrArg Host.Outcome.next (hact _)
    have henrol (record : Option (List Byte)) : exec (.secEnrol t who value record) s = .next (z.enrol record) :=
      congrArg Host.Outcome.next (hact _)
    have hremove : exec (.secRemoveKey t who value) s = .next z.removeKey := congrArg Host.Outcome.next (hact _)
    clear_value z
    have hfuses : z.fuses = s.fuses := by rw [hz]; rfl
    have hflash : z.flash = s.flash := by rw [hz]; rfl
    have hslot (i : Nat) : z.slot i = s.slot i := by rw [hz]; rfl
    have hopen : z.sec.isOpen = s.sec.isOpen := by rw [hz]
    have hcount : z.sec.logCount = s.sec.logCount := by rw [hz]
    have hroot : z.sec.root = root := by rw [hz]; exact hr
    have hid : z.regw 0x0C0008 = s.regw 0x0C0008 := by rw [hz]; rfl
    refine ⟨fun h => ?_, fun h => ?_, fun h => ?_, fun hmask hpair => ?_, fun record => ⟨fun h => ?_, fun h hnone => ?_, ?_⟩, ?_⟩
    · rw [← hfuses, ← hflash] at h ⊢
      rw [hraise, State.raiseSvn_raises h]
      rfl
    · rw [← hfuses, ← hflash] at h
      exact hraise.trans (congrArg Host.Outcome.next (State.raiseSvn_refused h))
    · exact hrevoke.trans (congrArg Host.Outcome.next (State.revokeRoot_refused (by rwa [hfuses, hroot, hflash])))
    · have hrevokes := State.revokeRoot_revokes (z := z) (by rwa [hfuses, hroot]) (by rwa [hroot, hflash])
      rw [hfuses, hroot] at hrevokes
      obtain ⟨⟨x, hframe⟩, hresult, hdone, hlog, hothers⟩ :=
        State.measureKeys_done { z with fuses := { s.fuses with revoked := mask } }
      refine ⟨_, hrevoke.trans (congrArg Host.Outcome.next hrevokes), ?_, hresult, hdone, hlog.trans ?_,
        fun i hi => (hothers i hi).trans (hslot i)⟩
      · exact hframe.trans (by rw [hframe]; rfl)
      · rw [← hcount]
    · exact (henrol _).trans (congrArg Host.Outcome.next (State.enrol_sealed (hopen.trans h)))
    · rw [hnone]
      exact (henrol _).trans (congrArg Host.Outcome.next (State.enrol_unfetched (hopen.trans h)))
    · rintro bs rfl hlen h k
      have hopen' := hopen.trans h
      have hbarred : z.enrolBarred (pairOfRecord bs) ↔ keyClass k.id ≠ 0x10 ∨ (∃ q ∈ s.flash.operators, q.id = k.id)
          ∨ 8 ≤ s.flash.operators.length := by
        unfold State.enrolBarred
        rw [hflash]
      refine ⟨fun hbar => ?_, fun hclass hnew hroom => ?_⟩
      · exact (henrol _).trans (congrArg Host.Outcome.next (State.enrol_barred hopen' hlen (hbarred.mpr hbar)))
      · have hfree : ¬z.enrolBarred (pairOfRecord bs) := by
          rw [hbarred]
          rintro (hc | ⟨q, hq, hqid⟩ | hfull)
          · exact hc hclass
          · exact hnew q hq hqid
          · omega
        have henrols := State.enrol_enrols hopen' hlen hfree
        rw [hflash] at henrols
        obtain ⟨⟨x, hframe⟩, hresult, -, hlog, hothers⟩ :=
          State.measureKeys_done { z with flash := { s.flash with operators := s.flash.operators ++ [k] } }
        refine ⟨_, (henrol _).trans (congrArg Host.Outcome.next henrols), ?_, ?_, hresult, hlog.trans ?_,
          fun i hi => (hothers i hi).trans (hslot i)⟩
        · exact hframe.trans (by rw [hframe]; rfl)
        · exact congrArg State.flash hframe
        · rw [← hcount]
    · intro id
      refine ⟨fun h => ?_, fun h hin => ?_⟩
      · exact hremove.trans (congrArg Host.Outcome.next (State.removeKey_refused (by rwa [hopen, hflash, hid])))
      · have hremoves := State.removeKey_removes (hopen.trans h) (by rwa [hflash, hid])
        rw [hflash, hid] at hremoves
        obtain ⟨⟨x, hframe⟩, hresult, -, hlog, -⟩ := State.measureKeys_done { z with
          flash := { s.flash with operators := s.flash.operators.filter (fun q => decide (q.id ≠ id)) } }
        refine ⟨_, hremove.trans (congrArg Host.Outcome.next hremoves), ?_, hresult, hlog.trans ?_, ?_⟩
        · exact hframe.trans (by rw [hframe]; rfl)
        · rw [← hcount]
        · exact congrArg State.flash hframe
  · intro w z unit p i
    have hexec : exec (.debugRead t who value) s = .next (w.debugSettled value) :=
      congrArg Host.Outcome.next ((hreached.asMgmt _).trans (State.debugRead_settled value y))
    clear_value w
    refine ⟨fun h => ?_, fun h hno => ?_, fun h hrange hspan => ?_⟩
    · rw [hexec, State.debugSettled_sealed h]
    · rw [hexec, State.debugSettled_refused h hno]
    · have hstands : w.dbgStands value := by
        refine ⟨hrange, ?_⟩
        rcases Nat.lt_or_ge 2 unit with hbig | hsmall
        · exact .inl hbig
        · exact .inr (hspan hsmall)
      have hreads := State.debugSettled_reads h hstands
      dsimp only at hreads
      have hmoved := State.dbgGranule_moved (unit_of_dbgRange hrange) p i z
      have hframe := hmoved.frame
      have hsec : (z.dbgGranule unit p i).2.sec = w.sec := by
        rw [hframe]
        rfl
      refine ⟨_, hexec.trans (congrArg Host.Outcome.next hreads), ?_, ?_, fun hunit => ?_, fun hunit => ?_, fun hunit => ?_,
        fun hunit hpoison hdevice => ?_, hmoved.memByte, hmoved.mem, hmoved.others, hmoved.deck, hmoved.lines⟩
      · show ({ (z.dbgGranule unit p i).2 with sec := _ } : State) = _
        rw [hframe]
      · show { (z.dbgGranule unit p i).2.sec with debugUsed := true, dbgResult := 0, dbgData := (z.dbgGranule unit p i).1 } = _
        rw [hsec]
      · show (z.dbgGranule unit p i).1 = _
        rw [hunit]
        rfl
      · show (z.dbgGranule unit p i).1 = _
        rw [hunit]
        rfl
      · show (z.dbgGranule unit p i).1 = _
        rw [hunit]
        rfl
      · show (z.dbgGranule unit p i).1 = _
        rw [hunit]
        exact State.readGranule_bytes i hpoison hdevice
  · rw [Span.granule_bytes]
    simp [List.getD_eq_getElem?_getD, hj]

end Sys2Proof.Machine
end

section
/-! PROOFS. The sideband: what stops a request, the commands, streams in chunks, the firmware write (spec/20_module.md, R593, R600,
R612 to R614). -/

namespace Sys2Proof.Machine
open Sys2Proof

/-! ### The commands by their codes (Table 20.17) -/

/-- The command of a code. -/
def sbInstr (t : Nat) (m : SbMsg) (k : Nat) : Instr := if k = 1 then .sbRead t m else if k = 2 then .sbWrite t m
  else if k = 3 then .sbReset t m else if k = 4 then .sbFaultLog t m else if k = 5 then .sbSnapshot t m
  else if k = 6 then .sbFirmware t m else if k = 7 then .sbQuote t m else .sbUnseal t m

/-- Whether the payload of a request has the length and the fields of its command. -/
def sbFormed (m : SbMsg) : Nat → Bool
  | 1 => decide (m.payload.length = 4) && sbOffsetOk (leAt m.payload 0 4)
  | 2 => decide (m.payload.length = 8) && sbOffsetOk (leAt m.payload 0 4)
  | 3 => decide (m.payload.length = 1) && decide (leAt m.payload 0 1 = 1 ∨ leAt m.payload 0 1 = 2)
  | 4 => decide (m.payload.length = 5) && decide (leAt m.payload 4 1 < 2)
  | 5 => decide (m.payload.length = 4)
  | 7 => decide (m.payload.length = 52)
  | _ => chunkOk m

/-- Whether the module is in a state to serve a command. -/
def State.sbReady (m : SbMsg) : Nat → State → Bool
  | 1, y => y.sbFull || sbEarly (leAt m.payload 0 4)
  | 3, y => y.sbResetReady (leAt m.payload 0 1)
  | 4, _ => true
  | 5, y => decide (y.boot.state = .ready)
  | _, y => y.sbFull

/-- The log that FAULT_LOG names. -/
def State.sbLog (m : SbMsg) (s : State) : Nat ⊕ (List Byte × State) :=
  .inr ((if leAt m.payload 4 1 = 0 then s.flt.log else s.flt.flashLog).reverse.flatMap FaultRec.bytes, s)

/-- The quote over a request's nonce. -/
def State.sbQuoted (m : SbMsg) (s : State) : Nat ⊕ (List Byte × State) :=
  if s.secBusy then .inl 7
  else match s.makeQuote (m.payload.drop 4) with
    | none => .inl 7
    | some (q, s) => .inr (q, s)

/-- A signature block has arrived whole. -/
def State.unsealIn (m : SbMsg) (block : List Byte) (s : State) : State :=
  (s.tryOpen block).2.sbAnswer 8 m (if (s.tryOpen block).1 then 0 else 6) []

/-- What a command does once nothing stops it. -/
def State.sbAct (m : SbMsg) : Nat → State → State
  | 1, y => y.sbAnswer 1 m 0 (natToBytes 4 (y.readReg .sideband (leAt m.payload 0 4)).toNat)
  | 2, y => (y.sbAnswer 2 m 0 []).writeReg .sideband (leAt m.payload 0 4) (BitVec.ofNat 32 (leAt m.payload 4 4))
  | 3, y => (y.sbAnswer 3 m 0 []).requestReset (if leAt m.payload 0 1 = 2 then .cold else .warm)
  | 4, y => y.sbSend 4 m (State.sbLog m)
  | 5, y => (if leAt m.payload 0 4 = 0 && y.obs.snapBusy then y.snapRefused else y).sbSend 5 m State.sbSnap
  | 6, y => y.sbTake 6 m (State.firmwareIn m)
  | 7, y => y.sbSend 7 m (State.sbQuoted m)
  | _, y => y.sbTake 8 m (State.unsealIn m)

section
variable (t : Nat) (m : SbMsg) (s : State)

theorem exec_sbInstr {k : Nat} (h1 : 1 ≤ k) (h8 : k ≤ 8) : exec (sbInstr t m k) s
    = .next (s.sbServe t k m (sbFormed m k) (State.sbReady m k) (State.sbAct m k)) := by
  match k with
  | 1 | 2 | 3 | 4 | 5 | 6 | 7 | 8 => rfl
  | 0 => omega
  | n + 9 => omega

end

/-! ### What stops a request (R612) -/

section
variable (m : SbMsg) (y : State)

theorem sbFormed_iff {k : Nat} (h1 : 1 ≤ k) (h8 : k ≤ 8) : let off := leAt m.payload 0 4
    let len := m.payload.length
    let aligned : Prop := off % 4 = 0 ∧ off < 2 ^ 24
    sbFormed m k = true ↔ if k = 1 then len = 4 ∧ aligned else if k = 2 then len = 8 ∧ aligned
      else if k = 3 then len = 1 ∧ (leAt m.payload 0 1 = 1 ∨ leAt m.payload 0 1 = 2)
      else if k = 4 then len = 5 ∧ leAt m.payload 4 1 < 2
      else if k = 5 then len = 4 else if k = 7 then len = 52 else 9 ≤ len ∧ len ≤ 1032 := by
  match k with
  | 1 | 2 | 3 | 4 | 5 | 6 | 7 | 8 => simp [sbFormed, sbOffsetOk, chunkOk]
  | 0 => omega
  | n + 9 => omega

theorem State.sbReady_iff {k : Nat} (h1 : 1 ≤ k) (h8 : k ≤ 8) : let off := leAt m.payload 0 4
    State.sbReady m k y = true ↔ if k = 1 then y.sbFull = true
        ∨ (off ∈ [0x000000, 0x000008, 0x000010, 0x000020, 0x000028] ∨ (0x000400 ≤ off ∧ off < 0x000610))
      else if k = 3 then y.boot.state ≠ .standby ∧ ¬(y.boot.state = .halted ∧ leAt m.payload 0 1 = 1)
      else if k = 4 then True else if k = 5 then y.boot.state = .ready else y.sbFull = true := by
  match k with
  | 1 | 2 | 3 | 4 | 5 | 6 | 7 | 8 => simp [State.sbReady, sbEarly, State.sbResetReady, imp_iff_not_or]
  | 0 => omega
  | n + 9 => omega

theorem State.sbBusy_iff (k : Nat) : y.sbBusy k = true ↔ y.sb.firmware ≠ none ∨ ∃ x, y.sb.stream = some x ∧ x.code ≠ k := by
  unfold State.sbBusy
  cases hstream : y.sb.stream with
  | none => simp [Option.isSome_iff_ne_none]
  | some x => simp [Option.isSome_iff_ne_none]

end

/-- R612: what a request must not run into, and what it must be, for its command to act on `y`. -/
structure SbClear (m : SbMsg) (k : Nat) (y : State) : Prop where
  standby : y.boot.standby = true
  request : m.flags.getLsbD 0 = false
  free : k = 1 ∨ y.sbBusy k = false
  len : m.len.toNat = m.payload.length
  formed : sbFormed m k = true
  ready : State.sbReady m k y = true

section
variable {s : State}

/-- R613: a stream that is over moves nothing but the sideband's own state. -/
theorem State.sbExpire_frame (s : State) : ∃ x, s.sbExpire = { s with sb := x } := by
  unfold State.sbExpire
  split
  · exact ⟨_, rfl⟩
  · split
    · exact ⟨_, rfl⟩
    · exact ⟨_, rfl⟩

theorem State.sbExpire_runs (h : ∀ x, s.sb.stream = some x → s.time ≤ x.last + 5000000000) : s.sbExpire = s := by
  unfold State.sbExpire
  cases hstream : s.sb.stream with
  | none => rfl
  | some x => exact if_neg (Nat.not_lt.mpr (h x hstream))

theorem State.sbExpire_ends {x : SbStream} (hstream : s.sb.stream = some x) (h : x.last + 5000000000 < s.time) :
    s.sbExpire = { s with sb := { s.sb with stream := none, abandoned := some x.code } } := by
  unfold State.sbExpire
  rw [hstream]
  exact if_pos h

end

section
variable {t k : Nat} {m : SbMsg} {s y : State} {f : Bool} {ready : State → Bool} {act : State → State}

theorem State.sbServe_unpowered (h : (s.at t).sbExpire.boot.standby = false) :
    s.sbServe t k m f ready act = (s.at t).sbExpire := by
  refine if_pos ?_
  rw [h]
  rfl

theorem State.sbServe_refused {st : Nat} (h : (s.at t).sbExpire.boot.standby = true)
    (hst : (s.at t).sbExpire.sbRefuse k m f (ready (s.at t).sbExpire) = some st) :
    s.sbServe t k m f ready act = (s.at t).sbExpire.sbAnswer k m st [] := by
  unfold State.sbServe
  dsimp only
  rw [h, if_neg (by decide), hst]

theorem State.sbServe_acts (h : (s.at t).sbExpire.boot.standby = true)
    (hnone : (s.at t).sbExpire.sbRefuse k m f (ready (s.at t).sbExpire) = none) :
    s.sbServe t k m f ready act = act (s.at t).sbExpire := by
  unfold State.sbServe
  dsimp only
  rw [h, if_neg (by decide), hnone]

theorem State.sbRefuse_response {r : Bool} (h : m.flags.getLsbD 0 = true) : y.sbRefuse k m f r = some 3 := if_pos h

variable (hflag : m.flags.getLsbD 0 = false)
include hflag

theorem State.sbRefuse_busy {r : Bool} (hk : k ≠ 1) (h : y.sbBusy k = true) : y.sbRefuse k m f r = some 1 := by
  unfold State.sbRefuse
  rw [hflag, if_neg Bool.false_ne_true, h, decide_eq_true hk]
  rfl

variable (hfree : k = 1 ∨ y.sbBusy k = false)
include hfree

theorem State.sbRefuse_free {r : Bool} : y.sbRefuse k m f r
    = if (decide (m.len.toNat ≠ m.payload.length) || !f) = true then some 4 else if (!r) = true then some 2 else none := by
  have hbusy : (decide (k ≠ 1) && y.sbBusy k) = false := by
    rcases hfree with h | h
    · rw [decide_eq_false (not_not_intro h), Bool.false_and]
    · rw [h, Bool.and_false]
  unfold State.sbRefuse
  rw [hflag, if_neg Bool.false_ne_true, hbusy, if_neg Bool.false_ne_true]

theorem State.sbRefuse_fields {r : Bool} (h : ¬(m.len.toNat = m.payload.length ∧ f = true)) : y.sbRefuse k m f r = some 4 := by
  rw [State.sbRefuse_free hflag hfree]
  refine if_pos ?_
  rw [Bool.or_eq_true, decide_eq_true_eq, Bool.not_eq_true']
  by_contra hc
  rw [not_or, not_not, Bool.not_eq_false] at hc
  exact h hc

theorem State.sbRefuse_notReady {r : Bool} (hlen : m.len.toNat = m.payload.length) (hf : f = true) (h : ¬r = true) :
    y.sbRefuse k m f r = some 2 := by
  rw [State.sbRefuse_free hflag hfree, decide_eq_false (not_not_intro hlen), hf, Bool.eq_false_iff.mpr h]
  rfl

theorem State.sbRefuse_none {r : Bool} (hlen : m.len.toNat = m.payload.length) (hf : f = true) (h : r = true) :
    y.sbRefuse k m f r = none := by
  rw [State.sbRefuse_free hflag hfree, decide_eq_false (not_not_intro hlen), hf, h]
  rfl

end

/-- A request that nothing stops acts. -/
theorem SbClear.acts {t k : Nat} {m : SbMsg} {s : State} (h1 : 1 ≤ k) (h8 : k ≤ 8) (h : SbClear m k (s.at t).sbExpire) :
    exec (sbInstr t m k) s = .next (State.sbAct m k (s.at t).sbExpire) :=
  (exec_sbInstr t m s h1 h8).trans (congrArg Host.Outcome.next
    (State.sbServe_acts h.standby (State.sbRefuse_none h.request h.free h.len h.formed h.ready)))

/-! ### Streams (R613) -/

section
variable {k : Nat} {m : SbMsg} {y : State}

/-- The first chunk of a stream from the module. -/
def State.sbStart (k : Nat) (m : SbMsg) (bs : List Byte) (z : State) : State :=
  State.emit (.sideband k m.tag 0 (natToBytes 4 bs.length ++ natToBytes 4 0 ++ bs.take 1024)) { z with
    sb := { z.sb with
      abandoned := none
      stream := if bs.length ≤ 1024 then none else
        some { code := k, total := bs.length, next := 1024, data := bs, last := z.time } } }

section
variable {capture : State → Nat ⊕ (List Byte × State)}

theorem State.sbSend_starts {bs : List Byte} {z : State} (hoff : leAt m.payload 0 4 = 0) (h : capture y = .inr (bs, z)) :
    y.sbSend k m capture = z.sbStart k m bs := by
  unfold State.sbSend
  dsimp only
  rw [hoff, if_pos rfl, h]
  dsimp only
  unfold State.sbChunk State.sbStart
  dsimp only
  rw [List.drop_zero, Nat.zero_add]
  rfl

theorem State.sbSend_denied {st : Nat} (hoff : leAt m.payload 0 4 = 0) (h : capture y = .inl st) :
    y.sbSend k m capture = State.sbAnswer k m st [] { y with sb := { y.sb with stream := none } } := by
  unfold State.sbSend
  dsimp only
  rw [hoff, if_pos rfl, h]

variable (hoff : leAt m.payload 0 4 ≠ 0)
include hoff

theorem State.sbSend_none (h : y.sb.stream = none) :
    y.sbSend k m capture = y.sbAnswer k m (if y.sb.abandoned = some k then 8 else 5) [] := by
  unfold State.sbSend
  dsimp only
  rw [if_neg hoff, h]

theorem State.sbSend_goesOn {x : SbStream} (h : y.sb.stream = some x) : y.sbSend k m capture
    = if x.total < leAt m.payload 0 4 then y.sbAnswer k m 5 [] else y.sbChunk k m (leAt m.payload 0 4) x := by
  unfold State.sbSend
  dsimp only
  rw [if_neg hoff, h]

end

/-- Whether a chunk to the module is the next one. -/
def State.sbFits (m : SbMsg) (y : State) : Prop := (y.sb.stream = none ∧ leAt m.payload 4 4 = 0)
  ∨ ∃ x, y.sb.stream = some x ∧ leAt m.payload 4 4 = x.next ∧ leAt m.payload 0 4 = x.total

/-- What has been taken of a stream to the module. -/
def State.sbHad (y : State) : List Byte := (y.sb.stream.map (·.data)).getD []

section
variable {done : List Byte → State → State}

theorem State.sbTake_none (h : y.sb.stream = none) (hat : leAt m.payload 4 4 ≠ 0) :
    y.sbTake k m done = y.sbAnswer k m (if y.sb.abandoned = some k then 8 else 5) [] := by
  unfold State.sbTake
  dsimp only
  rw [h]
  dsimp only
  rw [decide_eq_false hat]
  rfl

/-- R613: a chunk that is not the next of its stream ends it, as one that passes TOTAL does. -/
theorem State.sbTake_ends (h : (y.sb.stream ≠ none ∧ ¬y.sbFits m)
      ∨ (y.sbFits m ∧ leAt m.payload 0 4 < leAt m.payload 4 4 + (m.payload.drop 8).length)) :
    y.sbTake k m done = State.sbAnswer k m 5 [] { y with sb := { y.sb with stream := none } } := by
  unfold State.sbTake
  unfold State.sbFits at h
  dsimp only
  cases hstream : y.sb.stream with
  | none =>
    rw [hstream] at h
    simp only [ne_eq, not_true_eq_false, false_and, true_and, reduceCtorEq, exists_false, or_false, false_or] at h
    obtain ⟨hat, hover⟩ := h
    dsimp only
    rw [decide_eq_true hat, decide_eq_true hover]
    rfl
  | some x =>
    rw [hstream] at h
    simp only [ne_eq, reduceCtorEq, not_false_eq_true, false_and, true_and, Option.some.injEq, exists_eq_left', false_or] at h
    dsimp only
    rw [Option.isNone_some, Bool.false_and, if_neg Bool.false_ne_true]
    refine if_pos ?_
    rw [Bool.or_eq_true, Bool.not_eq_true', decide_eq_false_iff_not, decide_eq_true_eq]
    exact h.imp_right And.right

theorem State.sbTake_takes (h : y.sbFits m) (hin : leAt m.payload 4 4 + (m.payload.drop 8).length ≤ leAt m.payload 0 4) :
    y.sbTake k m done = if leAt m.payload 4 4 + (m.payload.drop 8).length = leAt m.payload 0 4
      then done (y.sbHad ++ m.payload.drop 8) { y with sb := { y.sb with stream := none, abandoned := none } }
      else State.sbAnswer k m 0 [] { y with sb := { y.sb with
        abandoned := none
        stream := some { code := k, total := leAt m.payload 0 4, next := leAt m.payload 4 4 + (m.payload.drop 8).length
                         data := y.sbHad ++ m.payload.drop 8, last := y.time } } } := by
  unfold State.sbTake State.sbHad
  unfold State.sbFits at h
  dsimp only
  rcases h with ⟨hstream, hat⟩ | ⟨x, hstream, hat, htotal⟩
  · rw [hstream]
    dsimp only
    rw [decide_eq_true hat, decide_eq_false (Nat.not_lt.mpr hin)]
    rfl
  · rw [hstream]
    dsimp only
    rw [Option.isNone_some, Bool.false_and, if_neg Bool.false_ne_true]
    refine (if_neg ?_).trans rfl
    rw [Bool.or_eq_true, Bool.not_eq_true', decide_eq_false_iff_not, decide_eq_true_eq]
    rintro (hno | hover)
    · exact hno ⟨hat, htotal⟩
    · omega

end

end

/-! ### What the streams capture and hand over -/

section
variable {m : SbMsg} {y : State}

theorem State.sbQuoted_denied (h : y.secBusy = true ∨ y.makeQuote (m.payload.drop 4) = none) : y.sbQuoted m = .inl 7 := by
  unfold State.sbQuoted
  cases hbusy : y.secBusy with
  | true => rfl
  | false =>
    rw [hbusy] at h
    rw [h.resolve_left Bool.false_ne_true]
    rfl

theorem State.sbQuoted_quotes {q : List Byte} {z : State} (hfree : y.secBusy = false)
    (h : y.makeQuote (m.payload.drop 4) = some (q, z)) : y.sbQuoted m = .inr (q, z) := by
  unfold State.sbQuoted
  rw [hfree, h]
  rfl

theorem State.sbSnap_free (h : y.obs.snapBusy = false) : y.sbSnap
    = .inr (y.upToNow.snapshotBytes 3, { y with obs := { y.obs with snapNo := y.obs.snapNo + 1 } }) := by
  refine if_neg ?_
  rw [h]
  exact Bool.false_ne_true

theorem State.sbSnap_busy (h : y.obs.snapBusy = true) : y.sbSnap = .inl 7 := if_pos h

/-- A snapshot that is not asked for while another is being written is not counted as refused. -/
theorem State.sbAct_snapshot (h : (decide (leAt m.payload 0 4 = 0) && y.obs.snapBusy) = false) :
    State.sbAct m 5 y = y.sbSend 5 m State.sbSnap := by
  show (if (decide (leAt m.payload 0 4 = 0) && y.obs.snapBusy) = true then y.snapRefused else y).sbSend 5 m State.sbSnap = _
  rw [h, if_neg Bool.false_ne_true]

theorem State.sbAct_snapshot_refused (hoff : leAt m.payload 0 4 = 0) (h : y.obs.snapBusy = true) :
    State.sbAct m 5 y = State.sbAnswer 5 m 7 [] { y.snapRefused with sb := { y.sb with stream := none } } := by
  show (if (decide (leAt m.payload 0 4 = 0) && y.obs.snapBusy) = true then y.snapRefused else y).sbSend 5 m State.sbSnap = _
  rw [h, decide_eq_true hoff, if_pos (by rfl)]
  exact State.sbSend_denied hoff (State.sbSnap_busy h)

theorem State.firmwareIn_unverified {image : List Byte} (h : y.verifyImage image = none) :
    y.firmwareIn m image = y.sbAnswer 6 m 6 [] := by
  unfold State.firmwareIn
  rw [h]

/-- R593: a firmware image that verifies puts the chip in reset to be written; flash and fuses stand. -/
theorem State.firmwareIn_verified {image : List Byte} {f : Firmware} (h : y.verifyImage image = some f) :
    let w := y.firmwareIn m image
    w.boot.state = .inReset ∧ w.boot.nextCause = 2 ∧ w.sb.firmware = some f ∧ w.flash = y.flash ∧ w.fuses = y.fuses := by
  have hwipes := State.wipe_wiped .cold (y.sbAnswer 6 m 0 [])
  unfold State.firmwareIn
  rw [h]
  exact ⟨rfl, rfl, rfl, hwipes.flash, hwipes.fuses⟩

end

/-! ### The end of a firmware write (R593) -/

section
variable {t : Nat} {s : State}

theorem exec_firmwareWriteDone_none (h : s.sb.firmware = none) : exec (.firmwareWriteDone t) s = .next (s.at t) := by
  have hat : (s.at t).sb.firmware = none := h
  show execFirmwareWriteDone t s = _
  unfold execFirmwareWriteDone
  dsimp only
  rw [hat]

theorem exec_firmwareWriteDone {f : Firmware} (h : s.sb.firmware = some f) :
    let z : State := { s.at t with flash := { s.flash with firmware := f }, sb := { s.sb with firmware := none } }
    exec (.firmwareWriteDone t) s = .next (if (s.boot.mainGood && s.boot.standby) = true
      then State.powerOn .cold 2 { z with boot := s.boot.out 550 (max s.time t) }
      else { z with boot := { s.boot with state := .standby } }) := by
  have hat : (s.at t).sb.firmware = some f := h
  intro z
  show execFirmwareWriteDone t s = _
  unfold execFirmwareWriteDone
  dsimp only
  rw [hat, apply_ite Host.Outcome.next]
  rfl

end

/-! ### The statement -/

/-- Settles O60: a request by what stops it, in order, a stream by its chunk and what it captures or hands over, the end of a
firmware write by the power. The model's choices: the order of the checks and what is served below PIER_BOOT (log entry 23), when a
stream is captured, ended and abandoned (entry 24), and the keys that check an image (entry 25). -/
theorem sidebandServesItsCommands : Obligations.SidebandServesItsCommands := by
  unfold Obligations.SidebandServesItsCommands
  refine ⟨fun t m s => ?_, fun t s => ⟨fun h => ?_, fun x hx h => ?_, exec_firmwareWriteDone_none, fun f hf => ?_⟩⟩
  · intro y off len aligned early kind full busy say c fields ready clear
    obtain ⟨b, hy⟩ := State.sbExpire_frame (s.at t)
    replace hy : y = { s.at t with sb := b } := hy
    have hboot : y.boot = s.boot := by rw [hy]; rfl
    have hobs : y.obs = s.obs := by rw [hy]; rfl
    have hflt : y.flt = s.flt := by rw [hy]; rfl
    have hflash : y.flash = s.flash := by rw [hy]; rfl
    have hfuses : y.fuses = s.fuses := by rw [hy]; rfl
    have hexec {k : Nat} (h1 : 1 ≤ k) (h8 : k ≤ 8) : exec (c k) s
        = .next (s.sbServe t k m (sbFormed m k) (State.sbReady m k) (State.sbAct m k)) := exec_sbInstr t m s h1 h8
    have hbusy (k : Nat) : busy k ↔ y.sbBusy k = true := (State.sbBusy_iff y k).symm
    have hfields {k : Nat} (h1 : 1 ≤ k) (h8 : k ≤ 8) : fields k ↔ m.len.toNat = len ∧ sbFormed m k = true :=
      and_congr Iff.rfl (sbFormed_iff m h1 h8).symm
    have hready {k : Nat} (h1 : 1 ≤ k) (h8 : k ≤ 8) : ready k ↔ State.sbReady m k y = true := by
      have hiff := State.sbReady_iff m y h1 h8
      dsimp only at hiff
      rw [hboot] at hiff
      exact hiff.symm
    have hfree {k : Nat} (h : k = 1 ∨ ¬busy k) : k = 1 ∨ y.sbBusy k = false :=
      h.imp_right fun hno => Bool.eq_false_iff.mpr (fun hb => hno ((hbusy k).mpr hb))
    have hact {k : Nat} (h1 : 1 ≤ k) (h8 : k ≤ 8) (h : clear k) : exec (c k) s = .next (State.sbAct m k y) := by
      obtain ⟨hstandby, hflag, hidle, hform, hserves⟩ := h
      obtain ⟨hlen, hformed⟩ := (hfields h1 h8).mp hform
      exact SbClear.acts h1 h8 ⟨(congrArg Boot.standby hboot).trans hstandby, hflag, hfree hidle, hlen, hformed,
        (hready h1 h8).mp hserves⟩
    refine ⟨fun k h1 h8 => ⟨fun hoff => ?_, fun hon => ?_⟩, fun h => ?_, fun h => ?_, fun h => ?_, ?_, ?_, ?_⟩
    · exact (hexec h1 h8).trans (congrArg Host.Outcome.next (State.sbServe_unpowered ((congrArg Boot.standby hboot).trans hoff)))
    · have hstandby : (s.at t).sbExpire.boot.standby = true := (congrArg Boot.standby hboot).trans hon
      have hstops {st : Nat} (hst : y.sbRefuse k m (sbFormed m k) (State.sbReady m k y) = some st) :
          exec (c k) s = .next (say k st [] y) :=
        (hexec h1 h8).trans (congrArg Host.Outcome.next (State.sbServe_refused hstandby hst))
      refine ⟨fun hflag => ?_, fun hflag hk hb => ?_, fun hflag hidle hform => ?_, fun hflag hidle hform hserves => ?_⟩
      · exact hstops (State.sbRefuse_response hflag)
      · exact hstops (State.sbRefuse_busy hflag hk ((hbusy k).mp hb))
      · exact hstops (State.sbRefuse_fields hflag (hfree hidle) (fun hc => hform ((hfields h1 h8).mpr hc)))
      · obtain ⟨hlen, hformed⟩ := (hfields h1 h8).mp hform
        exact hstops (State.sbRefuse_notReady hflag (hfree hidle) hlen hformed (fun hc => hserves ((hready h1 h8).mpr hc)))
    · exact hact (k := 1) (by omega) (by omega) h
    · exact hact (k := 2) (by omega) (by omega) h
    · exact hact (k := 3) (by omega) (by omega) h
    · intro stream log
      have hstarts {k : Nat} {bs : List Byte} {z : State} {capture : State → Nat ⊕ (List Byte × State)}
          (hoff : off = 0) (hcapture : capture y = .inr (bs, z)) : y.sbSend k m capture = stream k bs z :=
        State.sbSend_starts hoff hcapture
      refine ⟨fun h hoff => ?_, fun h hoff hquiet => ?_, fun h hoff hsnap => ?_, fun h hoff hno => ?_, fun q z h hoff hquiet hq => ?_⟩
      · have hlog : State.sbLog m y = .inr (log.reverse.flatMap FaultRec.bytes, y) := by
          unfold State.sbLog
          rw [hflt]
        exact (hact (k := 4) (by omega) (by omega) h).trans (congrArg Host.Outcome.next (hstarts hoff hlog))
      · have hsnap := State.sbSnap_free (y := y) (by rwa [hobs])
        have hcall : State.sbAct m 5 y = y.sbSend 5 m State.sbSnap :=
          State.sbAct_snapshot (by rw [hobs, hquiet, Bool.and_false])
        rw [hobs] at hsnap
        exact (hact (k := 5) (by omega) (by omega) h).trans (congrArg Host.Outcome.next (hcall.trans (hstarts hoff hsnap)))
      · have hcall := State.sbAct_snapshot_refused (y := y) hoff (by rwa [hobs])
        unfold State.snapRefused at hcall
        rw [hobs] at hcall
        refine ⟨_, (hact (k := 5) (by omega) (by omega) h).trans (congrArg Host.Outcome.next hcall), ?_⟩
        rw [BitVec.toNat_ofNat]
        omega
      · exact (hact (k := 7) (by omega) (by omega) h).trans
          (congrArg Host.Outcome.next (State.sbSend_denied hoff (State.sbQuoted_denied hno)))
      · exact (hact (k := 7) (by omega) (by omega) h).trans
          (congrArg Host.Outcome.next (hstarts hoff (State.sbQuoted_quotes hquiet hq)))
    · intro k hk h hoff
      have hsend : ∃ capture, State.sbAct m k y = y.sbSend k m capture := by
        rcases hk with rfl | rfl | rfl
        · exact ⟨State.sbLog m, rfl⟩
        · exact ⟨State.sbSnap, State.sbAct_snapshot (by rw [decide_eq_false hoff, Bool.false_and])⟩
        · exact ⟨State.sbQuoted m, rfl⟩
      obtain ⟨capture, hsend⟩ := hsend
      have hnext := (hact (by omega) (by omega) h).trans (congrArg Host.Outcome.next hsend)
      refine ⟨fun hnone => hnext.trans (congrArg Host.Outcome.next (State.sbSend_none hoff hnone)), fun x hx => ?_⟩
      have hgoes := hnext.trans (congrArg Host.Outcome.next (State.sbSend_goesOn hoff hx))
      exact ⟨fun hpast => hgoes.trans (congrArg Host.Outcome.next (if_pos hpast)),
        fun hin => hgoes.trans (congrArg Host.Outcome.next (if_neg (Nat.not_lt.mpr hin)))⟩
    · intro k hk h total at_ data had next fits
      have htake : ∃ done, State.sbAct m k y = y.sbTake k m done ∧ (k = 6 → done = State.firmwareIn m)
          ∧ (k = 8 → done = State.unsealIn m) := by
        rcases hk with rfl | rfl
        · exact ⟨_, rfl, fun _ => rfl, fun h => absurd h (by decide)⟩
        · exact ⟨_, rfl, fun h => absurd h (by decide), fun _ => rfl⟩
      obtain ⟨done, htake, hfirmware, hunseal⟩ := htake
      have hnext := (hact (by omega) (by omega) h).trans (congrArg Host.Outcome.next htake)
      refine ⟨fun hnone hat => hnext.trans (congrArg Host.Outcome.next (State.sbTake_none hnone hat)),
        fun hends => hnext.trans (congrArg Host.Outcome.next (State.sbTake_ends hends)), fun hfits hmore => ?_, fun hfits hlast => ?_⟩
      · exact hnext.trans (congrArg Host.Outcome.next ((State.sbTake_takes hfits (Nat.le_of_lt hmore)).trans (if_neg (Nat.ne_of_lt hmore))))
      · intro z
        have hdone : exec (c k) s = .next (done (had ++ data) z) :=
          hnext.trans (congrArg Host.Outcome.next ((State.sbTake_takes hfits (Nat.le_of_eq hlast)).trans (if_pos hlast)))
        refine ⟨fun h8 => ?_, fun h6 hnone => ?_, fun f h6 hf => ?_⟩
        · rw [hunseal h8] at hdone
          subst h8
          exact hdone
        · rw [hfirmware h6] at hdone
          subst h6
          exact hdone.trans (congrArg Host.Outcome.next (State.firmwareIn_unverified hnone))
        · rw [hfirmware h6] at hdone
          subst h6
          obtain ⟨hstate, hcause, himage, hkeptFlash, hkeptFuses⟩ := State.firmwareIn_verified hf
          exact ⟨_, hdone, hstate, hcause, himage, hkeptFlash.trans hflash, hkeptFuses.trans hfuses⟩
  · exact congrArg Host.Outcome.next (State.sbExpire_runs h)
  · exact congrArg Host.Outcome.next (State.sbExpire_ends hx h)
  · intro z
    have hdone := exec_firmwareWriteDone (t := t) hf
    dsimp only at hdone
    refine ⟨fun hmain hstandby => hdone.trans (congrArg Host.Outcome.next (if_pos ?_)),
      fun hlost => hdone.trans (congrArg Host.Outcome.next (if_neg ?_))⟩
    · rw [hmain, hstandby]
      rfl
    · rw [Bool.and_eq_true]
      rintro ⟨hmain, hstandby⟩
      rcases hlost with h | h
      · exact Bool.false_ne_true (h.symm.trans hmain)
      · exact Bool.false_ne_true (h.symm.trans hstandby)

end Sys2Proof.Machine
end
